-- ==== Sys2Proof/Word.lean ====
section
/-! DEFINITION. The plain types that the commands' operands and the state share: bytes, dwords, the two
command sources (chapter 05), the two safety evaluators (chapter 14) and small operand records. Nothing here computes. -/

namespace Sys2Proof

/-- One byte of a host buffer, a management frame or a stored image. -/
abbrev Byte := BitVec 8

/-- One 32-bit dword of a command entry or of a register access. -/
abbrev Dword := BitVec 32

/-- The two sources of command entries: the PCIe command ring and the management port (R118, R153). -/
inductive Port where
  | ring
  | mgmt
  deriving DecidableEq, Repr

/-- The two safety evaluators, their channels and their output lines (R477): A in SAFA, B in SAFB. -/
inductive Side where
  | a
  | b
  deriving DecidableEq, Repr

/-- The three paths with a shadow and a held write of their own for every _LO/_HI pair (R650). -/
inductive Access where
  | pcie
  | mgmt
  | herd
  deriving DecidableEq, Repr

/-- What the boot ROM reads of an image region: whether its signature and CRC pass, and its header (chapter 21). -/
structure ImgRead where
  ok : Bool
  major : Nat
  prev : Nat
  version : Nat
  svn : Nat
  schema : Nat
  /-- START_TARGET selects STANDBY (R107). -/
  standby : Bool
  deriving DecidableEq, Repr

/-- The clocks whose loss R81 rules on. -/
inductive Clock where
  | xtalAon | xtalRef | peRefclk | pllCore | pllTime | pllMem | pllSafb
  deriving DecidableEq, Repr

/-- What a write of configuration space leaves beside the D-state and bus mastering: the MSI-X function mask, Max Payload
Size and Max Read Request Size as 128 bytes times 2 to the value (R578, R580), and ASPM L1 and L1.1 enabled (R582). -/
structure CfgSpace where
  fnMask : Bool
  mps : Fin 3
  mrrs : Fin 6
  aspm : Bool
  l11 : Bool
  deriving DecidableEq, Repr

/-- An entry of the MSI-X table in BAR4 (R577): its vector, Message Address with Message Upper Address, Message Data, and the mask
bit of Vector Control. -/
structure MsixEntry where
  vector : Fin 64
  address : BitVec 64
  data : BitVec 32
  masked : Bool
  deriving DecidableEq, Repr

/-- What the impedance check measures of one channel: its number, tone amplitude and DC output in nV (R183). -/
structure ImpMeas where
  ch : Nat
  tone : Nat
  dc : Nat
  deriving DecidableEq, Repr

/-- An overload of a channel's amplifier: the channel, and when its output went above and last fell below 900 mV, in 15.625 ps from
the shot reference of the present slot; no end while it lasts (R177, R178). -/
structure Overload where
  ch : Nat
  start : Int
  stop : Option Int
  deriving DecidableEq, Repr

/-- What the training of an RL memory channel finds: whether its data pass, how often RLMn_ERR# answered each command word sent, and
the read and write latencies read from its parts (R54). -/
structure RlmTrain where
  ok : Bool
  errs : List Nat
  readLat : Nat
  writeLat : Nat
  deriving DecidableEq, Repr

/-- How the excitation of the thermal array ends at start-up: settled, a bias DAC at its limit, not settled in time, or an array
bus write without an acknowledgement, of which the first acked had one (R112, R391, R392). -/
inductive ExciteEnd where
  | settled
  | limited
  | late
  | nack (acked : Nat)
  deriving DecidableEq, Repr

/-- What trips the APD bias loop: an open bias or else an over-voltage, and the sense reading in codes (R182). -/
structure BiasTrip where
  opened : Bool
  sense : Nat
  deriving DecidableEq, Repr

/-- What a housekeeping conversion samples: its input in microvolts, and by how many LSB the measured
weight of the stood-down slice differs from the weight in use, which counts where its measurement ends (R452, R453). -/
structure HkSample where
  uv : Int
  slice : Int
  deriving DecidableEq, Repr

/-- An edge at a frequency engine's source: raw time in 15.625 ps, and the number of its stop window, or for SRC 0x03 its bank (R221,
R222). -/
structure Edge where
  time : Nat
  window : Nat
  deriving DecidableEq, Repr

/-- What a groom measures of one channel (R616 to R624); run 1 and run 2, of which a warm groom has the first only. Taps:
hits of each raw tap; t0, t1: threshold codes found; trans: transition width in codes; ext, int: skews in 15.625 ps; noise
in ps rms; walk: amplitude (64 times the range, plus 0 to 63) and shift; route: offset of CLS on each route. -/
structure ChanMeas where
  ch : Nat
  hits1 : List Nat
  hits2 : List Nat
  t01 : Nat
  t02 : Nat
  t11 : Nat
  t12 : Nat
  trans : Nat
  ext1 : Int
  ext2 : Int
  int1 : Int
  int2 : Int
  noise : Nat
  walk1 : List (Nat × Int)
  walk2 : List (Nat × Int)
  route1 : List Int
  route2 : List Int
  deriving DecidableEq, Repr

/-- What a groom measures of one cluster: the delay-line control in percent of its range, the eyes of its event lane under
the 8 presets (width in 1/64 UI, height in mV; R623), and its channels. -/
structure ClusterMeas where
  cl : Nat
  control : Nat
  eyes : List (Nat × Nat)
  chans : List ChanMeas
  deriving DecidableEq, Repr

end Sys2Proof
end

