-- ==== Sys2Proof/Syntax.lean ====
section
/-! DEFINITION. The commands and events of the FZ-8960, one constructor for each row of spec/opcode_table.json.
An operand is what reaches the block from outside with the event: a written value, host memory that was read, a
measured quantity, or a fact of the environment that the block cannot compute itself (log entry 3). Those without operands come
last. -/

namespace Sys2Proof

/-- One command or event of the block. -/
inductive Instr where
  /-- RAIL_TRIP (R72): A rail stays beyond a monitor threshold for 2 µs; every SOUT is driven low, RAIL is recorded and the device is held in reset. -/
  | railTrip (rail : Fin 10)
  /-- CLOCKS_LOCKED (R112): XTAL_REF runs and the PLLs lock, or fail to lock in their time, which ends the clock step of the start-up. -/
  | clocksLocked (xref core time mem safb : Bool)
  /-- IMAGE_CHECK_DONE (R103): The boot ROM finishes reading and verifying the chosen image, and falls back to the other image or goes to FATAL if the check fails. -/
  | imageCheckDone (imgA imgB : ImgRead)
  /-- RL_TRAINING_DONE (R104): RL memory training ends; channels that failed reduce the near yard or disable it. -/
  | rlTrainingDone (eight dual big : Bool) (trained : List RlmTrain) (badCopies : List Nat)
  /-- EXCITATION_SETTLED (R112): Array excitation and APD bias settle or time out at 20 ms; the device reaches READY or stops in STANDBY. -/
  | excitationSettled (apdOk : Bool) (thermal : ExciteEnd)
  /-- REF_IN_QUALIFIED (R86): REF_IN has been clean for 100 ms and REF_PRESENT becomes 1. -/
  | refInQualified (offset : Int)
  /-- PLL_UNLOCK (R81): A clock or PLL loses lock or is lost, with the reaction the clocks table gives for that clock. -/
  | pllUnlock (clock : Clock)
  /-- CLOCK_CROSS_MEASURE (R82): Every 1 ms the two safety sheds measure PLL_SAFB and PLL_CORE against each other, and PLL_TIME against PLL_CORE; a deviation beyond its limit is an F3 fault. -/
  | clockCrossMeasure (safbPpm corePpm timePpm : Nat)
  /-- CLK_REF_CFG_WRITE (R87): A write to the REF_IN configuration takes effect at once, or at the next frame boundary while the device is in SCAN. -/
  | clkRefCfgWrite (value : Dword)
  /-- WAKE (R91): An enabled wake source takes the device from SLEEP to STANDBY, recording every active cause. -/
  | wake (sources pins : Nat)
  /-- CMD_CTRL_WRITE (R119): A write of EN enables the rings, resetting heads, tails and phase, or stops fetching and starts the drain. -/
  | cmdCtrlWrite (value : Dword)
  /-- CMD_DB0 (R120): The command doorbell makes the entries up to the new tail available for fetching. -/
  | cmdDb0 (value : Dword)
  /-- COMMAND_FETCH (R132): The device fetches the next ring entry and checks it in ring order. -/
  | commandFetch (entry : List Dword) (err : Bool)
  /-- BUFFER_READ_DONE (R692): The command's host buffer has been read; the signed block, contents, locks and storage are checked, and a long operation has received ACCEPTED. -/
  | bufferReadDone (port : Port) (tag : Nat) (err : Bool) (data : List Byte)
  /-- BUFFER_TIMEOUT (R125): A host buffer access gets no completion within 50 ms and the command ends with TIMEOUT. -/
  | bufferTimeout (tag : Nat)
  /-- COMPLETION_WRITE (R127): A completion is written into the completion ring with the current phase, or is held while the ring is full. -/
  | completionWrite (port : Port) (err : Bool)
  /-- CMD_DB1 (R128): The completion doorbell releases completion entries to the device, which lets held completions and new commands proceed. -/
  | cmdDb1 (value : Dword)
  /-- NOP (R148): The command does nothing and completes with result 0. -/
  | nop (port : Port) (tag : Nat)
  /-- GET_INFO (R148): The command returns the herd firmware version and CMD_INFO. -/
  | getInfo (port : Port) (tag : Nat)
  /-- SET_STATE (R148): The command requests a transition to SLEEP, STANDBY or READY. -/
  | setState (port : Port) (tag : Nat)
  /-- RESET (R148): The command writes its completion and starts a device reset 1 ms later. -/
  | reset (port : Port) (tag : Nat)
  /-- SET_POWER_CAP (R334): The command sets the power cap from the next admission and returns the previous cap. -/
  | setPowerCap (port : Port) (tag : Nat)
  /-- ABORT (R150): The command stops the named A* operation at its next safe point, and that operation ends with ABORTED. -/
  | abort (port : Port) (tag : Nat)
  /-- HERD_SWITCH (R507): The command moves control to the standby herd core pair. -/
  | herdSwitch (port : Port) (tag : Nat)
  /-- LOAD_SCAN_PROG (R313): The command loads and checks a scan program into program slot 0 or 1. -/
  | loadScanProg (port : Port) (tag : Nat)
  /-- SCAN_START (R108): The command starts scanning with the named program, placing the first frame boundary at its acceptance. -/
  | scanStart (port : Port) (tag : Nat)
  /-- SCAN_STOP (R148): The command returns the device to READY at the end of the current frame. -/
  | scanStop (port : Port) (tag : Nat)
  /-- SCAN_SWITCH (R317): The command switches to the other program at the first frame boundary more than 64 slots later. -/
  | scanSwitch (port : Port) (tag : Nat)
  /-- SET_TIMING (R148): The command sets the slot and frame lengths. -/
  | setTiming (port : Port) (tag : Nat)
  /-- SET_POINT_RING (R264): The command sets, enables or disables a point ring and resets its pointers. -/
  | setPointRing (port : Port) (tag : Nat)
  /-- YARD_GRANT (R293): The command lends the device a far-yard window of host memory. -/
  | yardGrant (port : Port) (tag : Nat)
  /-- YARD_REVOKE (R294): The command withdraws a far window after moving its cell stalls out. -/
  | yardRevoke (port : Port) (tag : Nat)
  /-- YARD_QUERY (R148): The command returns the free and used stalls of one tier. -/
  | yardQuery (port : Port) (tag : Nat)
  /-- THM_CONFIG (R389): The command applies a list of thermal register writes, array bus writes and waits, then restarts and settles the path. -/
  | thmConfig (port : Port) (tag : Nat) (acked : Nat)
  /-- THM_LOAD_CORR (R413): The command loads one piece of a correction set. -/
  | thmLoadCorr (port : Port) (tag : Nat)
  /-- THM_SELECT_CORR (R415): The command starts or queues a fade to the other correction set. -/
  | thmSelectCorr (port : Port) (tag : Nat)
  /-- THM_FFC (R417): The command runs a shutter flat field. -/
  | thmFfc (port : Port) (tag : Nat)
  /-- THM_LOAD_COEF (R406): The command loads a FIR coefficient bank of the monitor chain. -/
  | thmLoadCoef (port : Port) (tag : Nat)
  /-- THM_SELECT_COEF (R407): The command starts or queues a crossfade to the other coefficient bank. -/
  | thmSelectCoef (port : Port) (tag : Nat)
  /-- THM_LOAD_REGLUT (R427): The command loads the lookup from direction to pixel. -/
  | thmLoadReglut (port : Port) (tag : Nat)
  /-- THM_SYNC (R399): The command resets the decimators and returns the DEVTIME of the reset. -/
  | thmSync (port : Port) (tag : Nat)
  /-- SAF_LOAD_CONFIG (R463): The command checks a safety configuration image and stages it. -/
  | safLoadConfig (port : Port) (tag : Nat)
  /-- SAF_COMMIT (R465): The command commits the staged image into both evaluators, locks the RWL fields and stores the counter. -/
  | safCommit (port : Port) (tag : Nat)
  /-- SAF_ARM (R466): The command arms the safety function, leaving every pair off. -/
  | safArm (port : Port) (tag : Nat)
  /-- SAF_DISARM (R467): The command disarms the safety function and forces every pair off within 1 ms. -/
  | safDisarm (port : Port) (tag : Nat)
  /-- SAFE_LOCKOUT_CLEAR (R492): The command makes LOCKOUT clearable for 60 s. -/
  | safeLockoutClear (port : Port) (tag : Nat)
  /-- ACQ_CONFIG (R533): The command accepts a recorder configuration. -/
  | acqConfig (port : Port) (tag : Nat)
  /-- ACQ_ARM (R534): The command places the recorder rings and arms the recorder. -/
  | acqArm (port : Port) (tag : Nat)
  /-- ACQ_DISARM (R535): The command disarms the recorder, frees its rings and closes any recording in progress. -/
  | acqDisarm (port : Port) (tag : Nat)
  /-- ACQ_TRIGGER (R539): The command is a host trigger of the recorder and returns its DEVTIME. -/
  | acqTrigger (port : Port) (tag : Nat)
  /-- ACQ_READ_LOG (R542): The command writes out and empties the missed-trigger log. -/
  | acqReadLog (port : Port) (tag : Nat)
  /-- CAL_GROOM (R609): The command starts a warm or full groom of the named clusters. -/
  | calGroom (port : Port) (tag : Nat)
  /-- GROOM_DONE (R624): A groom finishes; each cluster is accepted and its trims loaded, or it is refused. -/
  | groomDone (groom : Nat) (meas : List ClusterMeas) (sb : List (List (Nat × Nat))) (zero pzero : Nat × Nat)
  /-- AUTO_GROOM_START (R615): The analogue die temperature has moved by REGROOM_DT and the firmware starts a warm groom of one cluster. -/
  | autoGroomStart (cluster : Fin 16)
  /-- CAL_STORE (R630): The command writes the working calibration to both flash copies. -/
  | calStore (port : Port) (tag : Nat)
  /-- CAL_READ (R628): The command returns a stored calibration record. -/
  | calRead (port : Port) (tag : Nat)
  /-- CAL_SPARE_ENGAGE (R194): The command engages CLS for a named cluster. -/
  | calSpareEngage (port : Port) (tag : Nat)
  /-- CAL_SPARE_RELEASE (R193): The command runs a warm groom of the replaced cluster and switches CLS back at a frame boundary. -/
  | calSpareRelease (port : Port) (tag : Nat)
  /-- PRT_CONFIG (R148): The command selects single, native twin or interlock mode. -/
  | prtConfig (port : Port) (tag : Nat)
  /-- PRT_RETRAIN (R600): The command ends the partner session and trains the link afresh. -/
  | prtRetrain (port : Port) (tag : Nat)
  /-- TRIGBUS_MEASURE (R553): The command measures the trigger bus delay to each other unit. -/
  | trigbusMeasure (port : Port) (tag : Nat)
  /-- DIAG_READ_FAULTS (R640): The command writes out the fault log, oldest first. -/
  | diagReadFaults (port : Port) (tag : Nat)
  /-- DIAG_CLEAR_FAULTS (R640): The command removes the inactive fault records and clears the first-fault latch. -/
  | diagClearFaults (port : Port) (tag : Nat)
  /-- DIAG_IMPEDANCE (R183): The command runs the impedance check of the detector elements. -/
  | diagImpedance (port : Port) (tag : Nat)
  /-- IMPEDANCE_CHECK_DONE (R186): The impedance check ends; channels are judged, failing clusters are re-measured through CLS, and element faults are withdrawn. -/
  | impedanceCheckDone (tones : List Nat) (first again : List ImpMeas)
  /-- DIAG_SELF_TEST (R148): The command runs the self-tests of the test mask and returns the failures. -/
  | diagSelfTest (port : Port) (tag : Nat)
  /-- DIAG_READ_COUNTERS (R148): The command writes out the device counters. -/
  | diagReadCounters (port : Port) (tag : Nat)
  /-- SEC_GET_IDENTITY (R654): The command returns the identifier, the identity public key and the endorsement. -/
  | secGetIdentity (port : Port) (tag : Nat)
  /-- SEC_GET_NONCE (R143): The command sets a new nonce and returns it. -/
  | secGetNonce (port : Port) (tag : Nat)
  /-- SEC_FW_STAGE (R655): The command writes part of a firmware image into the region that is not running. -/
  | secFwStage (port : Port) (tag : Nat)
  /-- SEC_FW_ACTIVATE (R656): The command checks the staged image and marks it pending. -/
  | secFwActivate (port : Port) (tag : Nat)
  /-- SEC_ATTEST (R654): The command returns a signed attestation over a challenge. -/
  | secAttest (port : Port) (tag : Nat)
  /-- SEC_REPROVISION (R663): The command writes the key slots, identifiers and seed, clears OPENED and restarts the device. -/
  | secReprovision (port : Port) (tag : Nat)
  /-- MGMT_COMMAND (R160): A management COMMAND frame queues a command entry, or repeats the acknowledgement for a repeated SEQ. -/
  | mgmtCommand (head : Fin 65536) (len : Fin 65536) (body : List Byte) (crc : Dword)
  /-- MGMT_STATUS_READ (R156): A STATUS_READ frame is answered with the status registers. -/
  | mgmtStatusRead (head : Fin 65536) (rest : List Byte)
  /-- MGMT_COMPLETION_READ (R156): A COMPLETION_READ frame returns the oldest management completion. -/
  | mgmtCompletionRead (head : Fin 65536) (rest : List Byte)
  /-- MGMT_REG_READ (R156): A REG_READ frame returns up to 64 BAR0 dwords. -/
  | mgmtRegRead (head : Fin 65536) (len : Fin 65536) (body : List Byte) (crc : Dword)
  /-- MGMT_RESET (R156): A RESET frame is acknowledged and a device reset follows 1 ms later. -/
  | mgmtReset (head : Fin 65536) (rest : List Byte)
  /-- MGMT_READ (R158): A READ transaction clocks out the waiting response frame. -/
  | mgmtRead (complete : Bool)
  /-- SLOT_START (R318): At each slot start the scheduler admits for slot s + 64, pending range changes take effect, and pre-charge and firing begin. -/
  | slotStart (pulses : List Nat)
  /-- SHOT_END (R175): A channel's shot span ends and the auto-range logic counts the shot and may request a range step. -/
  | shotEnd (ch : Fin 1024) (saturated t1 : Bool)
  /-- RXF_CH_CFG_WRITE (R176): A channel configuration write, which is a host write of RANGE only when it changes RANGE. -/
  | rxfChCfgWrite (cluster : Fin 17) (ch : Fin 64) (value : Dword)
  /-- RETURN_EDGE (R207): A comparator leading edge is accepted inside the stop window, or is lost to dead time or a full FIFO. -/
  | returnEdge (ch : Fin 1024) (coarse : Nat) (tap : Nat)
  /-- EVENT_WORD_FORMED (R209): An accepted edge completes at its falling crossing or at 511 width codes, and its event word enters the burst FIFO. -/
  | eventWordFormed (ch : Fin 1024) (width : Nat) (t1 : Bool) (own others : List Overload) (reference : Bool)
  /-- BRIDGE_FRAME (R693): A bridge lane frame arrives and its events are entered into cells, or it fails its check and is discarded. -/
  | bridgeFrame (lane : Fin 18) (ok : Bool) (slot : Nat) (words : Fin 9) (corrected : Nat)
  /-- APDB_CTRL_WRITE (R180): A write of EN starts or stops the APD bias loop. -/
  | apdbCtrlWrite (value : Dword)
  /-- APDB_SETTLED_CHANGE (R181): The bias sense has stayed within 0.5 % for 1 ms, or outside 2 % for 100 µs, and SETTLED changes. -/
  | apdbSettledChange (settled : Bool) (sense : Nat)
  /-- APDB_TRIP (R182): Over-voltage or open bias holds APDB_PWM low and raises an F2 fault. -/
  | apdbTrip (trip : BiasTrip)
  /-- CLUSTER_FE_FAULT (R188): A cluster front-end fault holds its directions stale and engages CLS, or withdraws the cluster. -/
  | clusterFeFault (clusters : Nat)
  /-- RXF_OBS_WRITE (R199): A write to a slice's attachment abandons its average and starts a new one at the next slot. -/
  | rxfObsWrite (slice : Fin 32) (value : Dword)
  /-- SLICE_AVERAGE_DONE (R198): A slice completes its average, the readable copy is replaced and DONE is set. -/
  | sliceAverageDone (slice : Fin 32) (sums : List Nat)
  /-- CLUSTER_RESTART_START (R342): A cold cluster needed by the next frame starts its restart when 64 slots plus 200 µs remain. -/
  | clusterRestartStart (cluster : Fin 16)
  /-- CLUSTER_RESTART_DONE (R78): A cluster's restart completes and it may open stop windows. -/
  | clusterRestartDone (cluster : Fin 17)
  /-- TDC_WIN_PROF_WRITE (R205): A window profile write, discarded if out of limits, taking effect at the next frame boundary in SCAN. -/
  | tdcWinProfWrite (prof : Fin 16) (value : Dword)
  /-- PPS_EDGE (R217): A PPS_IN rising edge is captured and accepted or rejected, and an armed ALIGN steps DEVTIME. -/
  | ppsEdge (phase : Fin 80)
  /-- PPS_ALIGN_WRITE (R218): A write of 1 to ALIGN arms a DEVTIME step, or is refused in SCAN, SAFE-HOLD and LOCKOUT. -/
  | ppsAlignWrite (value : Dword)
  /-- FM_CTRL_WRITE (R224): A write to a frequency engine's control starts a gate or changes its source and mode. -/
  | fmCtrlWrite (engine : Fin 4) (value : Dword)
  /-- FM_GATE_END (R224): A measurement gate ends and the engine's results are updated together. -/
  | fmGateEnd (engine : Fin 4) (edges : List Edge)
  /-- HGE_CODE_WRITE (R238): A write to the code table or code enables is staged for the next frame boundary. -/
  | hgeCodeWrite (index : Fin 17) (value : Dword)
  /-- HGE_DITHER_WRITE (R314): A DITHER_MAX write is checked against the loaded programs at once outside SCAN. -/
  | hgeDitherWrite (value : Dword)
  /-- DETECTION_DONE (R245): Detection of a closed cell finishes; records are queued, the evaluators receive the notice and returns, and the slot is freed. -/
  | detectionDone (dir : Nat) (corrected : Nat)
  /-- RECORD_DMA (R266): A DMA burst writes records and headers into a point ring and writes back the pointer, or the records are held in backlog. -/
  | recordDma (ring : Fin 4)
  /-- HGE_RING_RPTR_WRITE (R267): The host releases ring space by advancing RPTR, or sets PTR_ERR. -/
  | hgeRingRptrWrite (ring : Fin 4) (value : Dword)
  /-- STALL_MOVE_DONE (R290): A stall move ends and its map entry changes in one update. -/
  | stallMoveDone (stall : Nat)
  /-- FAR_READ_FAIL (R296): A far read errors or times out, the window is marked FAILED and an F2 fault is raised. -/
  | farReadFail (window : Fin 64)
  /-- UNCORRECTABLE_ERROR (R299): An uncorrectable stored error closes the stall's cells without records and retires the stall. -/
  | uncorrectableError (stall : Nat)
  /-- YRD_MAP_CFG_WRITE (R278): A write of MAP_LOG2, allowed only while the yard is empty. -/
  | yrdMapCfgWrite (value : Dword)
  /-- LBT_MEAN (R368): Every 1 ms each lamp-board input's 16 samples are averaged and converted to a temperature or found invalid. -/
  | lbtMean (input : Fin 2) (samples : List Nat)
  /-- RECHARGE_START (R349): A bank's recharge starts at its phase mark after its shot. -/
  | rechargeStart (bank : Fin 8)
  /-- RECHARGE_END (R350): A recharge ends at VSET or by timeout; VLAST is taken and the timeout run is updated. -/
  | rechargeEnd (bank : Fin 8) (v dur energy : Nat)
  /-- BANK_OVERVOLTAGE (R352): EBKV exceeds VOV or leaves its range; EBK is held low. -/
  | bankOvervoltage (bank : Fin 8) (code : Nat)
  /-- EMI_BANK_RETRY (R364): A RETRY write runs a sweep to return a withdrawn bank to service. -/
  | emiBankRetry (banks : Fin 256)
  /-- EMI_BANK_EN_WRITE (R365): A bank enable write takes effect at the next frame boundary in SCAN. -/
  | emiBankEnWrite (value : Dword)
  /-- STRAY_CURRENT (R366): Current outside the firing interval inhibits the emitter. -/
  | strayCurrent (bank : Fin 8) (current : Nat)
  /-- EMI_FL_CTRL_WRITE (R375): A floodlight enable write starts or stops the strings. -/
  | emiFlCtrlWrite (value : Dword)
  /-- EMI_FL_DUTY_WRITE (R370): A string duty write takes effect at the string's next on-time. -/
  | emiFlDutyWrite (string : Fin 4) (value : Dword)
  /-- FLOOD_ON_TIME (R370): A floodlight string's on-time starts at its quarter of the period. -/
  | floodOnTime (string : Fin 4) (start : Bool)
  /-- FLOOD_OPEN_CHECK (R372): A string's current is sampled 1.5 µs after switch-on. -/
  | floodOpenCheck (string : Fin 4) (sample : Nat)
  /-- FLOOD_DIAG_TIMEOUT (R373): A lit string has had no check for 100 ms; a diagnostic pulse is inserted or UNVERIFIED is set. -/
  | floodDiagTimeout (string : Fin 4)
  /-- FLOOD_SWITCH_OFF (R374): Open load, over-current or an invalid LBT1 switches the whole floodlight off. -/
  | floodSwitchOff (string : Fin 4) (sample : Nat)
  /-- THM_CTRL_WRITE (R380): A write of EN starts or stops the thermal path and the array reset. -/
  | thmCtrlWrite (value : Dword)
  /-- THERMAL_FRAME_COMPLETE (R424): A corrected thermal frame completes and becomes the radiance source and is queued for delivery. -/
  | thermalFrameComplete (sums : List Int)
  /-- THM_RING_PTR_WRITE (R426): The host advances RSLOT, freeing frame ring slots. -/
  | thmRingPtrWrite (value : Dword)
  /-- MONITOR_OUTPUT (R404): A monitor channel produces an output and updates its detectors. -/
  | monitorOutput (ch : Fin 4) (codes : List Nat) (phase : Fin 10)
  /-- HK_CONVERSION (R436): A housekeeping converter converts one sequence entry and updates its average and tracker. -/
  | hkConversion (conv : Side) (sample : HkSample)
  /-- HK_INJECT_REQUEST (R444): A host or loop injection is queued, or lost when the queue is full. -/
  | hkInjectRequest (conv : Side) (loop : Bool)
  /-- HK_INJECTION (R442): A queued injection converts in the next slot and gives its result. -/
  | hkInjection (conv : Side) (uv : Int)
  /-- HKC_MM_CLR_WRITE (R440): A write of 1 clears an entry's min/max tracker. -/
  | hkcMmClrWrite (conv : Side) (value : Dword)
  /-- HK_SELFCAL (R451): Self-calibration runs for 1.5 ms on a SELFCAL write or on enabling. -/
  | hkSelfcal (conv : Side)
  /-- HK_SELFCAL_DONE (R451): Self-calibration ends and conversions resume. -/
  | hkSelfcalDone (conv : Side) (slices : List Int)
  /-- REF_BUFFER_ON (R449): The reference buffer switches on 50 µs before the next pass. -/
  | refBufferOn (conv : Side)
  /-- HEARTBEAT (R478): Every 1 ms the evaluators exchange and compare their state. -/
  | heartbeat (upset : Bool)
  /-- FSEL_ACCEPT (R470): An FSEL value is stable for 3 ms and is accepted, applying a new field set. -/
  | fselAccept (side : Side) (value : Fin 8)
  /-- FSET_OVERLAP_END (R472): One frame period after its replacement, a replaced set stops being applied. -/
  | fsetOverlapEnd (side : Side)
  /-- COVERAGE_LAPSE (R475): One frame period after a good cell, a direction's coverage lapses and a gap opens. -/
  | coverageLapse (dir : Nat)
  /-- COVERAGE_TRIP (R476): A gating paddock has been incomplete for COV_GRACE frames and the pair goes off. -/
  | coverageTrip (side : Side) (pair : Fin 4)
  /-- EVALUATOR_SELF_TEST (R480): Every 20 ms each evaluator runs its test vector and table CRC. -/
  | evaluatorSelfTest (side : Side) (vectorOk tablesOk : Bool)
  /-- TEST_PULSE (R483): An on line is driven low for 300 µs in its 20 ms cycle and its readback is checked. -/
  | testPulse (line : Fin 8) (ownLow otherHigh backHigh : Bool)
  /-- READBACK_FAULT (R484): A readback breaks its rule for 200 µs, which is an F3 fault. -/
  | readbackFault (line : Fin 8)
  /-- EDM_WINDOW_EXPIRY (R485): The contactor feedback has not followed within EDM_WIN, which is an EDM fault. -/
  | edmWindowExpiry (pair : Fin 4)
  /-- GUARD_ACCEPT (R486): A guard channel level is stable for 3 ms and is accepted. -/
  | guardAccept (guard : Fin 4) (channel : Side) (level : Bool) (near : Bool)
  /-- GUARD_DISCREPANCY (R487): A guard's channels differ for 50 ms; DISC is set and the guard counts as open. -/
  | guardDiscrepancy (guard : Fin 4)
  /-- RST_REQ_ACCEPT (R491): An accepted reset press clears a lock-out, leaves SAFE-HOLD or releases waiting pairs. -/
  | rstReqAccept (lenA lenB skew : Nat)
  /-- AUTO_RESTART_EXPIRY (R481): RESTART_MS elapses without a cause and a pair with automatic restart goes ON. -/
  | autoRestartExpiry (pair : Fin 4)
  /-- F3_FAULT (R493): A safety fault moves the device to SAFE-HOLD or LOCKOUT by its kind, or is held outside SCAN. -/
  | f3Fault (code detail : Nat)
  /-- F3_CAUSE_CLEARED (R645): An F3 cause has stayed healthy as required and counts as cleared. -/
  | f3CauseCleared (code detail : Nat)
  /-- TST_MODE_RISE (R492): TST_MODE rises or a forbidden test instruction arrives while armed, which is a tamper fault. -/
  | tstModeRise (ball : Bool)
  /-- ANNOUNCE (R513): A partner announcement is received and its shot is taken into the look-ahead and charged. -/
  | announce (tag : BitVec 128) (seq frame slot vlast entry : Nat)
  /-- MIRROR (R516): A partner mirror block is received and compared, which can lead to alternation. -/
  | mirror (tag : BitVec 128) (seq schema side : Nat) (all : Bool) (hash seed frame calVer mark24 dly : Nat)
  /-- FMARK (R592): The follower stamps the leader's frame mark and places its frame boundary and PSKEW. -/
  | fmark (stamp : Int) (frame24 : Nat)
  /-- TRIGGER_SAMPLE (R540): The triggers of a 1 µs sample are accepted as one recording or missed. -/
  | triggerSample (delay : Nat)
  /-- TRIG_IN_EDGE (R538): A TRIG_IN edge that stays high for 1 µs is a trigger. -/
  | trigInEdge (ago : Nat)
  /-- TRIGGER (R554): A TRIGGER frame from another unit is dated and acts as a bus trigger. -/
  | trigger (frame : BitVec 48) (steps ago : Nat)
  /-- MEASURE_REPLY (R553): A MEASURE_REPLY is received and its delay is stored. -/
  | measureReply (frame : BitVec 48) (roundTrip : Nat)
  /-- CAPTURE_END (R538): Post-trigger capture of a section ends. -/
  | captureEnd (sec : Fin 3)
  /-- RECORDING_OVERRUN (R547): A ring reaches uncopied data and that section's capture stops. -/
  | recordingOverrun (sec : Fin 3)
  /-- IRQ_HOST_EOI (R566): The host EOI returns a vector to IDLE and resends if its level is still high. -/
  | irqHostEoi (value : Dword)
  /-- MSIX_UNBLOCK (R567): A mask or block is lifted and pending vectors send their messages. -/
  | msixUnblock (writes : List MsixEntry)
  /-- IRQ_SWSET (R569): A write sets the software bits of sources. -/
  | irqSwset (n : Fin 16) (value : Dword)
  /-- IRQ_SWCLR (R569): A write clears the software bits of sources. -/
  | irqSwclr (n : Fin 16) (value : Dword)
  /-- L1_ENTRY (R582): After 10 µs without packets the endpoint requests L1. -/
  | l1Entry (sub : Bool)
  /-- PRT_DETECT_PROBE (R594): A partner transmitter probes for a terminated receiver every 100 µs. -/
  | prtDetectProbe (found : Bool)
  /-- TRN (R596): TRN words give bit and word lock and the lane and polarity checks. -/
  | trn (lane : Fin 2) (header : Fin 4) (payload : Dword) (skew : Nat)
  /-- CAP (R598): A CAP word is received and the partner's capability checked. -/
  | cap (word : BitVec 34)
  /-- PING (R599): A PING is answered by an ECHO at the next lane-0 word time. -/
  | ping (turnaround : Nat)
  /-- ECHO (R599): An ECHO is received and one latency exchange recorded. -/
  | echo (roundTrip turnaround : Nat)
  /-- KEYX (R659): A key exchange packet is received and the session keys derived. -/
  | keyx (n : Fin 2) (body : List Byte) (partnerHolds : Bool)
  /-- WORD_LOCK_LOSS (R595): 16 invalid headers in 64 words lose word lock. -/
  | wordLockLoss (lane : Fin 2)
  /-- HERD_COMPARE_MISMATCH (R36): A lockstep mismatch moves control to the standby pair or takes a pair out of service. -/
  | herdCompareMismatch (pair : Fin 2)
  /-- FAULT_LOG (R638): A detected fault is entered in the log or merged with a matching record. -/
  | faultLog (cls : Fin 5) (code detail : Nat)
  /-- F4_FAULT (R646): A fatal fault drives the outputs low and enters FATAL. -/
  | f4Fault (code detail : Nat)
  /-- WIDE_LO_READ (R648): A read of a _LO register copies the _HI half into the shadow. -/
  | wideLoRead (path : Access) (off : Nat)
  /-- WIDE_LO_WRITE (R649): A write to a _LO register is held. -/
  | wideLoWrite (path : Access) (off : Nat) (value : Dword)
  /-- WIDE_HI_WRITE (R649): A write to a _HI register applies both halves. -/
  | wideHiWrite (path : Access) (off : Nat) (value : Dword)
  /-- REGISTER_WRITE (R8): A BAR0 write to a register without a row of its own acts as its access type states. -/
  | registerWrite (path : Access) (off : Nat) (qword : Bool) (value : BitVec 64) (full poisoned : Bool)
  /-- EDM_ACCEPT (R485): A new level of a contactor feedback input EDMn is accepted, ending the EDM window or setting or clearing EDM_NOT_READY. -/
  | edmAccept (pair : Fin 4) (level : Bool)
  /-- PCIE_LINK_UP (R581): The PCIe link reaches L0 after training or after a departure, so held records resume and PE_WAKE# is released. -/
  | pcieLinkUp (speed : Fin 6) (width : Fin 9) (reversed : Bool)
  /-- PCIE_CONFIG_WRITE (R578): A host configuration write changes Bus Master Enable, the D-state or MSI-X enable or function mask. -/
  | pcieConfigWrite (bme d3hot msixEn : Bool) (cfg : CfgSpace)
  /-- PLL_RELOCK (R645): A PLL that lost lock locks again, from which its F3 clearing time and the return of its function are counted. -/
  | pllRelock (clock : Clock)
  /-- REF_BUFFER_OFF (R449): With REF_LP set and the safety function disarmed, the housekeeping reference buffer switches off after 100 µs with no conversion due. -/
  | refBufferOff (conv : Side)
  /-- CAL_STORE_DONE (R630): The flash writes and read-backs of both calibration copies end; STORED is updated and the final completion is written. -/
  | calStoreDone (ok : Bool)
  /-- SELF_TEST_DONE (R148): The self-tests of DIAG_SELF_TEST finish and the mask of failed tests is returned in the final completion. -/
  | selfTestDone (failed : Nat)
  /-- FW_STAGE_DONE (R655): The flash erase and write of a SEC_FW_STAGE piece end and its final completion carries the CRC of the data staged. -/
  | fwStageDone (ok : Bool)
  /-- PRT_EYE_DONE (R597): The 0.3 ms eye measurement of a partner lane ends and the lane passes or fails EYE. -/
  | prtEyeDone (lane : Fin 2) (width height : Nat)
  /-- KEEPALIVE_ACCEPTED (R591): A partner KEEPALIVE packet is received and accepted, counting as a partner-link frame against silence and link loss. -/
  | keepaliveAccepted (tag : BitVec 128) (seq : Nat)
  /-- RAILS_VALID (R98): The last rail enters its operating range; the device holds every shed except AON in reset for 10 ms. -/
  | railsValid
  /-- POWER_ON_RESET (R83): VDD_AON power-on reset: AON starts on RC_AON, AON time and DEVTIME start from 0, and the AON registers take their reset values. -/
  | powerOnReset
  /-- MAIN_RESET_RELEASE (R98): The 10 ms reset hold ends and the main reset is released; the start-up goes to its clock step. -/
  | mainResetRelease
  /-- XTAL_AON_STABLE (R83): The 32.768 kHz crystal shows full amplitude and 4,096 counted cycles; AON switches to XTAL_AON without a glitch. -/
  | xtalAonStable
  /-- XTAL_AON_TIMEOUT (R83): 800 ms after power-on reset the crystal is still not stable; AON stays on RC_AON, XAON_OK reads 0 and an F0 fault is logged. -/
  | xtalAonTimeout
  /-- HERD_FIRMWARE_RUNNING (R101): The herd firmware starts; CMD_LIVE is set and the held ring and management commands are executed in order. -/
  | herdFirmwareRunning
  /-- REF_IN_LOSS (R84): Two consecutive REF_IN presence windows fail; PLL_TIME switches to XTAL_REF and LOSS is set. -/
  | refInLoss
  /-- SLEEP_ENTRY_DONE (R89): The sheds are gated after the PCIe handshake and AON takes over in SLEEP; a wake latched during the entry then wakes the device at once. -/
  | sleepEntryDone
  /-- AON_ALARM (R91): AON_TIME reaches ALARM; the ALARM source rises and, if enabled, wakes the device. -/
  | aonAlarm
  /-- STATE_CHANGE_DONE (R89): A requested state transition completes, the state code is updated and SET_STATE gets its final completion. -/
  | stateChangeDone
  /-- DEVICE_RESET (R688): A device reset without loss of VDD_AON keeps the AON and non-volatile contents, loses everything else and runs the start-up. -/
  | deviceReset
  /-- PERST_ASSERT (R151): PERST# is asserted; the endpoint, the ring registers and the far windows are reset while the device state, the scan and the outputs carry on. -/
  | perstAssert
  /-- PERST_RELEASE (R100): PERST# is released; configuration-ready follows within 80 ms. -/
  | perstRelease
  /-- PCIE_CONFIG_READY (R100): The endpoint's configuration space begins answering requests and PCIE_CFG is set. -/
  | pcieConfigReady
  /-- RING_DRAIN_DONE (R119): Every fetched command has its final completion after EN was written 0, and EN reads 0. -/
  | ringDrainDone
  /-- CMP_NOTIFY_TIMER (R129): TIME microseconds have passed since the oldest unnotified completion and the completion source is raised. -/
  | cmpNotifyTimer
  /-- NONCE_EXPIRY (R143): 300 s after it was set, the current nonce is withdrawn. -/
  | nonceExpiry
  /-- YARD_REVOKE_DONE (R294): The revoke ends with DONE, BUSY or RESOURCE, and DRAINING stays set on failure. -/
  | yardRevokeDone
  /-- MGMT_HELD_EXECUTE (R92): A COMMAND frame held by AON is executed once CTL is up and CMD_LIVE is 1. -/
  | mgmtHeldExecute
  /-- FRAME_BOUNDARY (R25): A frame ends; open cells close, the frame sequence increments, headers are queued, staged settings take effect and coverage accounts restart. -/
  | frameBoundary
  /-- SPARE_RESTART_DONE (R504): CLS completes its cold restart and calibration load and awaits the next frame boundary. -/
  | spareRestartDone
  /-- PPS_LOST (R220): 1.5 s pass without an accepted PPS edge; LOST is set. -/
  | ppsLost
  /-- BACKGROUND_WORK (R289): The yard evicts or promotes stalls in the background when bandwidth allows. -/
  | backgroundWork
  /-- HEAT_MODEL_TICK (R330): Every 1 ms each bank's thermal model is updated and its derating recomputed. -/
  | heatModelTick
  /-- SWEEP_PERIOD (R359): A sweep period starts and every enabled cell is to be tested once. -/
  | sweepPeriod
  /-- EMI_INHIBIT_CLEAR (R367): A write of 1 to INHIBIT clears it, and firing resumes at the next frame boundary. -/
  | emiInhibitClear
  /-- THERMAL_FRAME_START (R382): FPA_FSYNC starts a thermal frame; pending bias, gain, fade and flat-field changes take effect. -/
  | thermalFrameStart
  /-- THERMAL_FRAME_DELIVERY (R425): A completed frame is written into the frame ring, or skipped. -/
  | thermalFrameDelivery
  /-- FPA_BIAS_LIMIT (R383): A bias DAC stays at its current limit for 1 ms and the path goes LOST. -/
  | fpaBiasLimit
  /-- PATH_SETTLED (R395): Four consecutive blocks pass on every tap and the thermal path is settled. -/
  | pathSettled
  /-- SETTLE_TIMEOUT (R397): The path has not settled within SETTLE_MAX and goes LOST. -/
  | settleTimeout
  /-- SYNC_DEC_EDGE (R399): A SYNC_DEC edge resets the decimators and restarts the thermal frame. -/
  | syncDecEdge
  /-- COEF_CROSSFADE_END (R408): A coefficient crossfade ends and a queued request starts the next one. -/
  | coefCrossfadeEnd
  /-- FFC_SHUTTER_TIMEOUT (R417): The shutter has not read closed within 200 ms and the flat field is refused. -/
  | ffcShutterTimeout
  /-- FFC_SUM_DONE (R418): The flat-field summing ends; the result is judged and the shutter opens. -/
  | ffcSumDone
  /-- SHUTTER_STUCK (R420): The shutter has not read open within 200 ms and SHUT_STUCK is set. -/
  | shutterStuck
  /-- AUTO_FFC_START (R422): The firmware starts a flat field on its period or on a temperature change. -/
  | autoFfcStart
  /-- FSET_DISAGREE (R470): The accepted FSEL values differ for 10 ms, which is an F3 fault. -/
  | fsetDisagree
  /-- RST_REQ_JAM (R490): A press held beyond 5 s sets JAM and is ignored. -/
  | rstReqJam
  /-- CLEARABLE_EXPIRY (R492): 60 s after SAFE_LOCKOUT_CLEAR, CLEARABLE returns to 0. -/
  | clearableExpiry
  /-- DEBUG_PORT_OPEN (R661): TST_MODE held high for 10 ms zeroizes the secrets, sets LOCK_LATCH and enters OPENED. -/
  | debugPortOpen
  /-- IDENTITY_KEY_READY (R662): A new identity key pair is generated in OPENED. -/
  | identityKeyReady
  /-- KEEPALIVE (R591): A partner keepalive packet is sent after 0.5 µs without a packet. -/
  | keepalive
  /-- TWIN_START_TIMEOUT (R517): The follower has not started within 100 ms and the leader starts alone. -/
  | twinStartTimeout
  /-- PARTNER_SILENCE (R520): No partner-link frame arrives for 3 slots; the device takes all slots and shows UNSURE. -/
  | partnerSilence
  /-- BEACON (R519): The halter holder sends a beacon on the trigger bus every 64 µs. -/
  | beacon
  /-- QUERY (R522): A device in silence without the halter sends a query on the trigger bus. -/
  | query
  /-- BEACON_ECHO_TIMEOUT (R521): The holder's beacon is not echoed within 10 µs; it stops firing and releases the halter. -/
  | beaconEchoTimeout
  /-- QUERY_ECHO_TIMEOUT (R522): A query is not echoed within 10 µs; the device stops firing. -/
  | queryEchoTimeout
  /-- HALTER_STANDBY (R522): Two beacons are received during silence and the device becomes standby. -/
  | halterStandby
  /-- HALTER_TAKEOVER (R522): 192 µs pass without a beacon and the device takes the halter. -/
  | halterTakeover
  /-- UNSURE_CLEAR (R521): 200 µs after silence began, the holder clears UNSURE. -/
  | unsureClear
  /-- HALTER_CLAIM (R527): HALTER has been high for 1 ms or 3 ms and the device claims it. -/
  | halterClaim
  /-- HALTER_RELEASE (R526): The interlock holder releases HALTER on a fault, a state change or a RELEASE write. -/
  | halterRelease
  /-- MEASURE (R553): A MEASURE frame is received and the unit answers after its delay. -/
  | measure
  /-- RECORDING_CLOSED (R545): Every section has ended and been copied; the header is written and re-arming starts. -/
  | recordingClosed
  /-- REARM_END (R543): REARM_MS passes and the recorder is armed again. -/
  | rearmEnd
  /-- IRQ_ENTRY (R559): An eligible source wins arbitration and the herd controller takes its vector. -/
  | irqEntry
  /-- HERD_EOI (R563): The herd firmware ends a handler; the source leaves the active state and exit or chaining follows. -/
  | herdEoi
  /-- IRQ_EXIT (R564): Exit restores context, or a source eligible during exit is chained. -/
  | irqExit
  /-- MSIX_SEND (R565): A vector's level goes high in IDLE and one message is sent. -/
  | msixSend
  /-- PCIE_LINK_LOST (R581): The PCIe link is lost; far windows are withdrawn and records held. -/
  | pcieLinkLost
  /-- FUNCTION_LEVEL_RESET (R578): A Function Level Reset resets the endpoint and the rings as PERST# does. -/
  | functionLevelReset
  /-- PME_TURN_OFF (R583): The host's PME_Turn_Off is answered and the SLEEP handshake ends. -/
  | pmeTurnOff
  /-- PME_WAIT_EXPIRY (R583): PME_WAIT passes without PME_Turn_Off and the handshake ends. -/
  | pmeWaitExpiry
  /-- PE_WAKE_TIMEOUT (R584): PE_WAKE# is released after 1 s. -/
  | peWakeTimeout
  /-- PRT_TRAINING_FAIL (R600): Lane 0 fails a step or ACTIVE is not reached in 5 ms; a retry is scheduled. -/
  | prtTrainingFail
  /-- PRT_RETRY (R600): 100 ms after a failed training, a new training starts. -/
  | prtRetry
  /-- PRT_LINK_LOSS (R601): The partner link is lost and retraining starts at once. -/
  | prtLinkLoss
  /-- DOZE (R602): After 100 µs with only keepalives to send, the transmitter enters Doze or Deep. -/
  | doze
  /-- DOZE_EXIT (R603): The transmitter leaves Doze or Deep to send a packet. -/
  | dozeExit
  /-- DOZE_KEEPALIVE (R604): A dozing transmitter sends one keepalive every 10 ms. -/
  | dozeKeepalive
  /-- HERD_WATCHDOG_EXPIRY (R637): The herd watchdog expires and counts as a compare mismatch. -/
  | herdWatchdogExpiry
  /-- FAULT_REACTION_RUN (R642): The herd firmware runs a queued fault reaction by class. -/
  | faultReactionRun
  /-- FATAL_RESET_TIMER (R646): After 100 ms in FATAL the device resets and runs the cold start-up. -/
  | fatalResetTimer
  /-- AON_POWER_LOSS (R68): VDD_AON falls below 1.55 V; the device goes to OFF and loses the AON contents, DEVTIME, the fault log and START_FAILS. -/
  | aonPowerLoss
  /-- FPA_RESET_RELEASE (R380): 100 µs after thermal EN becomes 1, FPA_RST# goes high. -/
  | fpaResetRelease
  /-- FW_ACTIVATE_DONE (R656): The check of the staged image ends; it is marked pending or refused and the final completion is written. -/
  | fwActivateDone
  /-- SWITCH_OVER_DONE (R37): The standby herd pair takes control, aborts fetched commands without a first completion, resumes accepted long operations and completes HERD_SWITCH. -/
  | switchOverDone
  /-- TRIGBUS_MEASURE_DONE (R553): The reply window of a trigger bus measurement ends; the delays are stored and the largest round trip is returned. -/
  | trigbusMeasureDone
  deriving DecidableEq, Repr

end Sys2Proof
end

