-- ==== Sys2Proof/Config.lean ====
section
/-! DEFINITION. What one part fixes and what the spec leaves open: opaque constants with no body, so that no
proof can see their value. Each is named in the assumption log. -/

namespace Sys2Proof.Config

/-- The free value: the n-th value that the spec leaves open (log entry 5). -/
opaque freeValue : Nat → Nat

/-- HGE_SEED at reset, a value fused into the part (R270; log entry 6). -/
opaque hgeSeed : Nat
/-- SEC_UID dword i, the fused unique identifier (R664; log entry 6). -/
opaque uid : Nat → Nat
/-- HKC_SEQ INPUT of entry j at reset: the default sequence of chapter 13, and input 0x23 from entry 12 on. -/
def hkSeqInput (j : Nat) : Nat := [16, 18, 22, 27, 30, 32, 33, 34, 35, 17, 20, 29].getD j 0x23
/-- HKC_XCMP TOL of pair i at reset (R456); pair 7 has no row there and takes 0 (log entry 7). -/
def hkPairTol (i : Nat) : Nat := [8, 8, 8, 16, 16, 8, 16].getD i 0
/-- HKC_XCMP ENT_A and ENT_B of pair i at reset (R456); pair 7 takes 0 (log entry 7). -/
def hkPairEnt (i : Nat) : Nat := [0, 1, 2, 3, 4, 6, 5].getD i 0
/-- HKC_XLIM LO of pair i at reset (R456). -/
def hkPairLo (i : Nat) : Nat := [1604, 1925, 3379, 933, 933, 2007, 0].getD i 0
/-- HKC_XLIM HI of pair i at reset (R456). -/
def hkPairHi (i : Nat) : Nat := [1809, 2171, 3942, 1752, 1752, 2089, 4095].getD i 0xFFF
/-- The PCI vendor identifier, programmed at manufacture (R573; log entry 6). -/
opaque pcieVendor : Nat
/-- The PCI subsystem identifier, provisioned (R573; log entry 6). -/
opaque pcieSubsysId : Nat
/-- The PCI subsystem vendor identifier, provisioned (R573; log entry 6). -/
opaque pcieSubsysVid : Nat
/-- The firmware version held in image region A at reset (R664; log entry 6). -/
opaque fwVersionA : Nat
/-- The firmware version held in image region B at reset (R664; log entry 6). -/
opaque fwVersionB : Nat
/-- Whether key slot i is provisioned at reset: 1 or 0 (R664; log entry 6). -/
opaque keySlotValid : Nat → Nat
/-- The purpose code of key slot i at reset (R664; log entry 6). -/
opaque keySlotPurpose : Nat → Nat

/-- Whether an opcode exists in the previous command-set major version that the firmware accepts (R138; log entry 24). -/
opaque prevHas : Nat → Nat → Bool

/-- Byte off of a stall where the spec states no contents, at a DEVTIME: stalls by number, physical loft stalls that no stall
occupies from 2^25 on (R232, R304; log entry 78). -/
opaque yardByte (stall off time : Nat) : Byte

/-- The public key of key slot i at reset, 96 bytes (R653; log entry 6). -/
opaque slotKey : Nat → List Byte
/-- The endorsement of the identity key the part was shipped with, 96 bytes (R652; log entry 6). -/
opaque endorsement : List Byte
/-- HGE_WALK entry and HGE_TOT_LUT entry of the calibration the part was shipped with, numbered from range 0 on (R610, R621; log
entry 20). -/
opaque calWalk : Nat → Int
opaque calTot : Nat → Nat
/-- The 1 MHz reference at a sample of its ten, in 1/32,768: in phase with the tone generator, or in quadrature (R403; log entry
95). -/
opaque toneRef : Bool → Nat → Int
/-- The private number of the n-th identity key pair (R652, R662; log entry 15). -/
opaque idPrivate : Nat → Nat
/-- The random number of a signature that the n-th identity key makes over bytes (R654; log entry 15). -/
opaque idRandom : Nat → List Byte → Nat

end Sys2Proof.Config
end

