-- ==== Sys2Proof/Machine/State.lean ====
section
/-! DEFINITION. The state of the block as plain data: the register store, and beside it everything the spec gives
the machine that no register holds. -/

namespace Sys2Proof.Machine

/-- A register field: BAR0 byte offset (the _LO half of a 64-bit pair), lowest bit, width and reset value. -/
structure Fld where
  off : Nat
  lsb : Nat
  width : Nat
  reset : Nat
  deriving DecidableEq, Repr

/-- The access types of the access types table (R8). -/
inductive Acc where
  | ro | rw | rwl | w1c | w1s | wo
  deriving DecidableEq, Repr

/-- The device states of R29, and OFF. -/
inductive Mode where
  | off | sleep | standby | ready | scan | safeHold | lockout | opened | fatal
  deriving DecidableEq, Repr

/-- A fault record of the log (R638). -/
structure FaultRec where
  code : Nat
  cls : Nat
  active : Bool
  noReact : Bool
  occ : Nat
  detail : Nat
  time : Nat
  deriving DecidableEq, Repr

/-- A follow-up reaction waiting in the queue of its class (R642). -/
structure Reaction where
  cls : Nat
  code : Nat
  detail : Nat
  deriving DecidableEq, Repr


/-- An exact fraction, not reduced, as in the bank heat model (R330). -/
structure Frac where
  num : Int
  den : Nat
  deriving DecidableEq, Repr

/-- A written field that waits for a frame boundary; late: the boundary after the next (R691). -/
structure Held where
  late : Bool
  fld : Fld
  val : Nat
  deriving DecidableEq, Repr

/-- Balls (R44 to R54): driven levels as masks, and sampled inputs. -/
structure Pins where
  /-- The EROW balls that the shot of the present slot drives high after the pre-charge, and the ECOL balls that its pulses do (R344,
  R345). -/
  erow : Nat
  ecol : Nat
  /-- The ECOL balls that the slot's pre-charge drives high, the raw time of its start, and the beginning and end of each pulse in
  0.25 ns from there (R345, R346). -/
  pre : Nat
  slotAt : Nat
  pulses : List (Nat × Nat)
  /-- EBK and FLS balls driven high (R46). -/
  ebk : Nat
  fls : Nat
  /-- TST_MODE is high. -/
  tstMode : Bool
  /-- PERST# is asserted. -/
  perst : Bool
  /-- Raw time at which the last pulse of TRIG_OUT begins; it is high for 1 us from there (R544). -/
  trigOut : Option Nat
  /-- PE_WAKE# is driven low (R584). -/
  peWake : Bool
  /-- HALTER is driven low by this device (R526, R527). -/
  halter : Bool
  /-- The shutter actuator is driven open. -/
  shutOpen : Bool
  /-- FPA_RST# is high. -/
  fpaRst : Bool
  deriving DecidableEq, Repr

/-- What the device has sent. -/
inductive Sent where
  /-- A write packet to host memory. No request carries Relaxed Ordering, No Snoop or ID-based ordering (R580). -/
  | mem (addr : Nat) (data : List Byte)
  /-- A read request of a number of bytes of host memory. -/
  | read (addr len : Nat)
  /-- The MSI-X message of a vector: one dword written to an address (R577). -/
  | msix (vector : Nat) (address : BitVec 64) (data : BitVec 32)
  /-- A partner link packet of this type, or a control word (type 256 and up), with its payload. -/
  | partner (kind : Nat) (payload : List Nat)
  /-- A word of 34 bits on a lane of the partner link: its header, then its scrambled payload (R585, R586). -/
  | line (lane word : Nat)
  /-- A trigger bus frame; its bits are sent from bit 47 down (trigger bus frame table). -/
  | bus (frame : BitVec 48)
  /-- A transfer on the array bus between a start and a stop: its bytes, highest bit first, each followed by a ninth clock for the
  acknowledgement; the first is the bus address and a 0 bit (R390). -/
  | array (bytes : List Nat)
  /-- What a READ transaction clocks out on the management port (R158). -/
  | mgmt (data : List Byte)
  /-- A pulse on a ball: TRIG_OUT 0, SYNC 1. -/
  | pulse (ball : Nat)
  deriving DecidableEq, Repr

/-- A state change in progress (R89, R90), and the SET_STATE command that asked for it. -/
structure Trans where
  target : Nat
  cmd : Option (Port × Nat)
  deriving DecidableEq, Repr

/-- Start-up, state changes and clocks (chapters 03 and 04; R68, R83 to R97). -/
structure SysSt where
  trans : Option Trans
  /-- Raw time at the point from which READY_MS counts (R97). -/
  startAt : Nat
  /-- Header of the running herd firmware image. -/
  fw : ImgRead
  /-- The start-up target is READY (R107). -/
  goReady : Bool
  /-- SLEEP is being entered (R93). -/
  sleepEntering : Bool
  /-- Wake sources latched during the entry, as in SHD_WAKE_CAUSE (R93). -/
  wakeLatched : Nat
  /-- A return to REF_IN waits for a frame boundary, with the DEVTIME error to be slewed (R85). -/
  refReturn : Option Int
  /-- CLK_REF_CFG value that takes effect at the next frame boundary (R87). -/
  refCfg : Option Nat
  /-- Ticks still to be added to (above 0) or held on (below 0) by slewing, and ticks since the last (R216). -/
  slew : Int
  slewCount : Nat
  /-- Rails out of range, as in SHD_RAIL. -/
  railsDown : Nat
  /-- Ticks of PLL_TIME that have passed, whatever steps and slewing do to DEVTIME, and their number at the main reset release,
  from which the raw time base counts (R226). -/
  raw : Nat
  rawZero : Nat
  /-- XTAL_AON was not stable 800 ms after power-on reset, so that AON stays on RC_AON (R83). -/
  xaonLate : Bool
  /-- RL memory channels that have been trained, as a mask (R54, R104), whether their second rank is fitted (R55), and the read and
  write latency of each channel that the training found (R54). -/
  rlm : Nat
  rlmDual : Bool
  rlmLat : List (Nat × Nat)
  deriving DecidableEq, Repr

/-- The endpoint and the register access paths (chapter 18, R648 to R650). -/
structure LinkSt where
  /-- The link is in L0 or has left it for less than 100 ms. -/
  up : Bool
  /-- A Function Level Reset runs. -/
  flr : Bool
  /-- The PCIe handshake for SLEEP runs (R583). -/
  sleepShake : Bool
  /-- Read shadows: access path, _LO offset and high half (R648). -/
  shadow : List (Access × Nat × Nat)
  /-- Held writes: access path, _LO offset and low half (R649). -/
  held : List (Access × Nat × Nat)
  /-- CLK_PCIE_CFG as the last training took it (R96). -/
  pcieCfg : Nat
  /-- Max Payload Size and Max Read Request Size in configuration space: 128 bytes times 2 to the value (R578, R580; log entry
  75). -/
  mps : Nat
  mrrs : Nat
  /-- ASPM L1 and L1.1 as the host has enabled them (R582). -/
  aspm : Bool
  l11 : Bool
  deriving DecidableEq, Repr

/-- Security state beside the SEC registers (chapter 21). -/
structure SecSt where
  /-- Public keys of the slots: slot number and 96 bytes (R653). -/
  keys : List (Nat × List Byte)
  /-- The endorsement of a key pair other than the shipped one; empty: none (R662, R663). -/
  endorsement : List Byte
  /-- Which identity key pair the device holds: 0 the one it was shipped with, n the n-th generated since. -/
  idKey : Nat
  /-- Bytes of the image staged in the region that is not running (R655). -/
  stage : List Byte
  /-- HGE_SEED in non-volatile storage, where it is no longer the shipped one (R654, R663). -/
  seed : Option Nat
  /-- The image region marked active and the one marked pending: 1 A, 2 B, 0 none (R103, R656, R657). -/
  active : Nat
  marked : Nat
  deriving DecidableEq, Repr

/-- Progress of a command that has been fetched (R131, R132, R692). -/
inductive CmdPhase where
  /-- Fetched; its buffer, if it reads one, has not been read. -/
  | fetched
  /-- Its buffer has been read and checked. -/
  | ready
  /-- A long operation that has received ACCEPTED and has been started. -/
  | running
  /-- Its final completion has been formed and waits to be written. -/
  | done
  deriving DecidableEq, Repr

/-- A fetched command without a written final completion (R122). -/
structure Cmd where
  port : Port
  tag : Nat
  index : Nat
  opcode : Nat
  flags : Nat
  version : Nat
  paramLen : Nat
  bufAddr : Nat
  /-- Inline dwords 4 to 15. -/
  inl : List Nat
  /-- Buffer data; for a signed command its payload once the block has passed. -/
  data : List Byte
  /-- COUNTER of the signed block (R144). -/
  counter : Nat
  phase : CmdPhase
  /-- Its first completion has been formed (R132). -/
  first : Bool
  /-- PERST# was asserted after the fetch: its completions are discarded and counted (R151). -/
  discard : Bool
  deriving DecidableEq, Repr

/-- A completion that waits to be written (R126). -/
structure Comp where
  port : Port
  tag : Nat
  status : Nat
  detail : Nat
  index : Nat
  final : Bool
  /-- It is its command's first completion (R37). -/
  first : Bool
  result : Nat
  imm : Bool
  /-- Out buffer data that a management completion carries (R157). -/
  out : List Byte
  deriving DecidableEq, Repr

/-- A management request frame that is held until the herd firmware runs: its TYPE, SEQ and body, and whether it came in
SLEEP (R92, R99, R162). -/
structure HeldFrame where
  kind : Nat
  seq : Nat
  body : List Byte
  sleep : Bool
  deriving DecidableEq, Repr

/-- Command rings and management port (chapter 05). -/
structure CmdSt where
  /-- Fetched commands, oldest first. -/
  cmds : List Cmd
  /-- Completions formed and not yet written, oldest first. -/
  comps : List Comp
  /-- Command tail: the last index written to CMD_DB0 (R120). -/
  tail : Nat
  /-- Completion head: the last index written to CMD_DB1 (R128). -/
  head : Nat
  /-- EN was written 0 and fetched commands drain (R119). -/
  draining : Bool
  /-- Fetching is stopped by FETCH_ERR (R152). -/
  fetchStop : Bool
  /-- Completion writing is stopped by CMP_WR_ERR (R152). -/
  cmpStop : Bool
  /-- Completions written and not yet notified (R129). -/
  unnotified : Nat
  /-- The completion interrupt source (R129). -/
  cmpSource : Bool
  /-- Management completions kept, oldest first (R161). -/
  mgmtComps : List Comp
  /-- The response that waits on the management port (R159): TYPE, SEQ and body. -/
  resp : Option (Nat × Nat × List Byte)
  /-- SEQ of the last COMMAND frame accepted and the body of its acknowledgement (R160). -/
  lastAck : Option (Nat × List Byte)
  /-- Frames held by AON in SLEEP or before CMD_LIVE, oldest first (R92, R99, R162). -/
  held : List HeldFrame
  /-- A wake by a source other than MGMT_CS# has happened and its STATUS response is due (R163). -/
  wakeStatus : Bool
  /-- The current nonce (R143). -/
  nonce : Option Nat
  /-- A device reset is due 1 ms after a RESET command or frame (R148, R156). -/
  resetDue : Bool
  deriving DecidableEq, Repr


/-- A return channel beside its registers (chapters 06 and 07). The id is 64 times the logical cluster plus the channel. -/
structure Chan where
  id : Nat
  /-- Auto-range counters (R175). -/
  sat : Nat
  quiet : Nat
  shots : Nat
  /-- RANGE requests held for the next slot start, by the host and by the auto-range logic (R173, R176). -/
  host : Option Nat
  auto : Option Nat
  /-- The stop window open in this slot: opening and closing in 15.625 ps from the shot reference (R207). -/
  win : Option (Nat × Nat)
  /-- Leading edge of an accepted event that has not completed (R209). -/
  cur : Option Nat
  /-- The last accepted leading edge and the end of its event (R211). -/
  last : Option (Nat × Nat)
  /-- Burst FIFO, oldest first: slot of the shot and event word (R212). -/
  fifo : List (Nat × Nat)
  /-- An event of this shot was dropped (R213). -/
  drop : Bool
  /-- This shot's edges come from T1 (R168), and T1 counts as never crossed (R170). -/
  edgeT1 : Bool
  noT1 : Bool
  /-- A change of T0, T1 or EDGE_MODE waits for the next slot start (R173). -/
  wait : Bool
  deriving DecidableEq, Repr

/-- An attached waveform slice: shots still to be summed in its average (R197, R198). -/
structure Slice where
  n : Nat
  left : Nat
  /-- The direction whose pulse shape the engine tests on it (R255). -/
  dir : Option Nat
  /-- A write with PIN = 1 that waits for the engine's average (R200). -/
  pinPend : Option Nat
  deriving DecidableEq, Repr

/-- The return front end (R19, R20, R166 to R200). -/
structure RxfSt where
  chans : List Chan
  /-- Clusters in which an event of the present shot carried SHADOW (R179). -/
  shadowSeen : Nat
  /-- Recent discards of each bridge lane: lane (16 SB0, 17 SB1) and raw time, oldest first (R19, R636). -/
  laneErr : List (Nat × Nat)
  /-- Error counters of the lanes: lane and count (R19). -/
  laneCount : List (Nat × Nat)
  /-- Absolute slot of the last frame accepted on each event lane: lane and slot (R20). -/
  laneSlot : List (Nat × Nat)
  /-- Event lanes with a discarded frame since the last accepted one (R20). -/
  laneDirty : List Nat
  /-- The channel from which each event lane's arbiter goes on: lane and channel (R212). -/
  rot : List (Nat × Nat)
  /-- The bias loop is held off after OV or OPEN until EN is written again (R182). -/
  apdbOff : Bool
  /-- T_AD in 1/16 degree C (R180). -/
  tAd : Int
  /-- The impedance check runs: the clusters it covers (R183). -/
  impFrom : Option Nat
  slices : List Slice
  deriving DecidableEq, Repr

/-- The time base beside its registers (chapter 07). -/
structure TdcSt where
  /-- DEVTIME at the last accepted PPS edge (R217). -/
  lastPps : Option Nat
  /-- PLL_TIME has switched its reference in the present gate of each engine (R225). -/
  refSwitched : List Bool
  /-- Edges that each engine's source has had in the present gate, in time order; for SRC 0x0A the shot references, each with its
  start dither (R221). -/
  stamps : List (List Edge)
  deriving DecidableEq, Repr

/-- A cell: its descriptor, its counts and its width plane (R230 to R233, R243). -/
structure Cell where
  dir : Nat
  frame : Nat
  /-- Paddock-critical, and the point ring of its records. -/
  pc : Bool
  ring : Nat
  /-- Window opening in 1.25 ns, bin width in 15.625 ps, pre-gate bins and position, and packed counts. -/
  start : Nat
  /-- Window closing in 15.625 ps. -/
  stop : Nat
  bw : Nat
  pre : Nat
  prePos : Bool
  packed : Bool
  /-- Yard address: stall number and slot in it (R271, R273). -/
  stall : Nat
  k : Nat
  bins : List Nat
  /-- Width plane: intensity sums and SAT counts of each group of 8 bins (R242). -/
  wsum : List Nat
  wsat : List Nat
  /-- Shots still to come in this frame, and shots taken. -/
  left : Nat
  shots : Nat
  events : Nat
  sats : Nat
  shadows : Nat
  drop : Bool
  bridge : Bool
  mixed : Bool
  cntSat : Bool
  /-- Slot and feedback range of every shot taken, newest first, and the absolute number of slot 0 of the cell's frame. -/
  taken : List (Nat × Nat)
  base : Nat
  /-- Serving channel of the last shot. -/
  chan : Nat
  /-- It has closed and waits for detection, and it closed at the frame boundary (R235). -/
  closed : Bool
  short : Bool
  /-- Its direction was held stale when it closed (R260). -/
  stale : Bool
  /-- Raw time at its close, and the THM_SEQ of the radiance source then (R22). -/
  closedAt : Nat
  src : Option Nat
  deriving DecidableEq, Repr

/-- What a point ring's queue holds: a frame header, or the records of one cell with the cell slot they still keep (R265,
R268). -/
inductive Item where
  | header (frame rec : Nat) (body : List Byte)
  | recs (frame : Nat) (data : List (List Byte)) (keep : Option (Nat × Nat))
  deriving DecidableEq, Repr

/-- A point ring beside its registers (R264 to R268). -/
structure PointRing where
  queue : List Item
  /-- Records received for this frame and for the previous one (REC_PREV). -/
  count : Nat
  prev : Nat
  /-- The ring fell behind in this frame (HDR_FLAGS [3]). -/
  backlog : Bool
  /-- The header written last, with its frame; it is due again before the oldest held record (R264). -/
  lastHdr : Option (Nat × List Byte)
  hdrDue : Bool
  deriving DecidableEq, Repr

/-- A pulse-shape test asked for (R255). -/
structure Shape where
  dir : Nat
  chan : Nat
  tp : Nat
  /-- The slice that runs it, once the next burst has begun. -/
  slice : Option Nat
  /-- The verdict at the end of the burst: start of the capture in 15.625 ps, and whether the pulse is wide. -/
  verdict : Option (Nat × Bool)
  deriving DecidableEq, Repr

/-- A refused burst: direction, frame, the slot for which its shot was admitted, and its ring (R234). -/
structure Refused where
  dir : Nat
  frame : Nat
  slot : Nat
  ring : Nat
  deriving DecidableEq, Repr

/-- An event whose bin updates wait for its stall (R276, R290): its cell's direction and frame, the code and the feedback range of
its shot, and its word. -/
structure Late where
  stall : Nat
  dir : Nat
  frame : Nat
  code : List Nat
  range : Nat
  word : Nat
  deriving DecidableEq, Repr

/-- The histogram engine beside its registers (R230 to R268). -/
structure HgeSt where
  cells : List Cell
  /-- Bursts refused (R234). -/
  refused : List Refused
  /-- Staged writes to the code registers, oldest first (R238). -/
  code : List Held
  rings : List PointRing
  shape : List Shape
  /-- Directions whose cell of a frame has ended, finished or lost with its stall: direction and frame (R230, R299). -/
  lost : List (Nat × Nat)
  /-- Events that wait for the move of their cell's stall to end (R290). -/
  waiting : List Late
  deriving DecidableEq, Repr

/-- The tiers of the yard. -/
inductive Tier where
  | loft | near | far
  deriving DecidableEq, Repr

/-- Where a stall lies (R271, R280): tier, physical stall or offset in the window, and window. -/
structure Place where
  tier : Tier
  loc : Nat
  window : Nat
  deriving DecidableEq, Repr

/-- A stall in use: its entry of the stall map (R280) and what the allocator keeps. -/
structure Stall where
  num : Nat
  at_ : Place
  pinned : Bool
  /-- Where it is being moved to (R290). -/
  moving : Option Place
  /-- 0 cells, 1 thermal, 2 recorder. -/
  owner : Nat
  /-- SLOT_SIZE: 0 to 3. -/
  size : Nat
  /-- Cell slots occupied, and those to be freed when the move has ended (R290). -/
  used : List Nat
  frees : List Nat
  /-- It has received a bin update since it came to the near yard (R289). -/
  hot : Bool
  /-- DEVTIME of its accumulation time. -/
  acc : Nat
  /-- The stall whose move must end first: it leaves the place that this one moves to, or a new loft stall waits for its synchronous
  eviction (R286, R287). -/
  waits : Option Nat
  deriving DecidableEq, Repr

/-- The yard beside its registers (R271 to R301). -/
structure YardSt where
  stalls : List Stall
  /-- Physical stalls retired until the next device reset (R299). -/
  retired : List Place
  /-- YARD_REVOKE in progress: its window and the stalls moved out so far (R294). -/
  revoke : Option (Nat × Nat)
  /-- Need of the program in use, as YRD_PROG_NEED shows it; 0 when none runs (R300, R301). -/
  need : Nat
  /-- Far-yard stalls that wait for a free near-yard stall to be fetched into, in order of arrival (R292, R297). -/
  fetches : List Nat
  /-- Stall numbers whose map entries the translation cache holds (R281). -/
  cache : List Nat
  deriving DecidableEq, Repr

/-- A shot group (R310). -/
structure ShotGroup where
  first : Nat
  count : Nat
  cls : Nat
  burst : Nat
  revisit : Nat
  phase : Nat
  ring : Nat
  spacing : Nat
  deriving DecidableEq, Repr

/-- A shot entry (R310). -/
structure Entry where
  row : Nat
  prof : Nat
  cl : Nat
  cols : Nat
  dir : Nat
  deriving DecidableEq, Repr

/-- A loaded scan program (R310, R315). -/
structure Prog where
  slotNs : Nat
  frameUs : Nat
  period : Nat
  phase : Nat
  listen : Nat
  groups : List ShotGroup
  entries : List Entry
  crc : Nat
  /-- Stalls it needs (R300). -/
  need : Nat
  deriving DecidableEq, Repr

/-- What an entry owes in a frame (R312, R322, R337). -/
structure Owe where
  entry : Nat
  cls : Nat
  owed : Nat
  burst : Nat
  spacing : Nat
  ring : Nat
  /-- Shots that have fired in this frame, the partner's among them. -/
  fired : Nat
  short : Bool
  deriving DecidableEq, Repr

/-- What a shot in the look-ahead is for (R318, R321, R359 to R364). -/
inductive Use where
  /-- A program shot of this device. -/
  | own
  /-- A shot that the partner fires, with the VLAST it announced (R513). -/
  | partner (vlast : Nat)
  | listen
  /-- A single-cell shot of a sweep, of a locating pass or of a retry sweep. -/
  | sweep | locate | retry
  /-- A shot that a groom asks for (R321, R620). -/
  | groom
  deriving DecidableEq, Repr

/-- A shot admitted for a slot (R318, R237 to R240). -/
structure Shot where
  /-- Absolute slot, and frame and slot index in it. -/
  at_ : Nat
  frame : Nat
  slot : Nat
  use : Use
  entry : Nat
  row : Nat
  cols : Nat
  cl : Nat
  dir : Nat
  prof : Nat
  /-- Window in 1.25 ns as in effect for its frame. -/
  start : Nat
  stop : Nat
  /-- Pulse offsets in 1.25 ns, the first 0, and start dither in 1.25 ns. -/
  code : List Nat
  dither : Nat
  pc : Bool
  ring : Nat
  deriving DecidableEq, Repr

/-- A shot that fired, kept to place its events: feedback range of each channel with a window (R172). -/
structure Fired where
  shot : Shot
  ranges : List (Nat × Nat)
  deriving DecidableEq, Repr

/-- Energy charged to the cells of a row (R323). -/
structure Charge where
  at_ : Nat
  frame : Nat
  row : Nat
  cols : Nat
  amount : Frac
  own : Bool
  deriving DecidableEq, Repr

/-- The scan scheduler beside its registers: programs (R310, R315 to R317), frames and slots (R306), what is owed (R312), the look-ahead (R318 to R320), the eye-safety charges (R323 to R327) and the power cap (R335 to R342). -/
structure SchSt where
  progs : List (Option Prog)
  cur : Nat
  /-- SCAN_SWITCH accepted: program slot and the frame it takes effect in (R317). -/
  switchTo : Option (Nat × Nat)
  slotNs : Nat
  frameUs : Nat
  slots : Nat
  /-- Index of the next slot to start, absolute slot of slot 0 of this frame, and frame sequence. -/
  next : Nat
  abs : Nat
  frame : Nat
  running : Bool
  /-- The final completion of SCAN_STOP or of another command waits for the frame's end. -/
  stop : Option (Port × Nat)
  /-- The present frame is the first under its program (R258). -/
  first : Bool
  owes : List Owe
  /-- The next frame's, once its slot 0 has been admitted. -/
  owesNext : List Owe
  /-- Entries carried into this frame (R312). -/
  carried : List Nat
  look : List Shot
  committed : Option Shot
  /-- Absolute slot of each entry's last shot (R310). -/
  lasts : List (Nat × Nat)
  /-- Shots of the last slots, newest first. -/
  fired : List Fired
  charges : List Charge
  /-- Worst cell and sum of each window in this frame (SCH_EYE_PEAK): cell and sum in 1/65,536 of the ceiling. -/
  peak : List (Nat × Nat)
  /-- Raw time of the first frame boundary of this SCAN and of the last shot. -/
  startAt : Nat
  lastShot : Option Nat
  /-- CEIL2 and CEIL3 at the entry to SCAN, of which the past buckets hold 1/101 each (R326). -/
  fill : List Nat
  /-- Absolute slot from which those buckets age: 0, or that of a claim of the halter (R527). -/
  fillFrom : Nat
  /-- Clusters that the power cap has made cold (R335, R342). -/
  capCold : Nat
  /-- CAP_OVER has been raised in this frame (R336). -/
  capDone : Bool
  deriving DecidableEq, Repr

/-- A bank of the emitter beside its registers (R328 to R333, R349 to R352). -/
structure Bank where
  /-- Rise above the lamp board in K (R330), and energy drawn since the last update in 0.1 uJ. -/
  dT : Frac
  acc : Nat
  /-- Charging energy per pulse of the last 1,024 pulses in 1/12 of 0.1 uJ, newest first (R333). -/
  pulses : List Nat
  /-- Recharges of the last 1 ms: raw time of the end and energy. -/
  recent : List (Nat × Nat)
  /-- Durations of the last 64 recharges in 10 ns, newest first (R352). -/
  rch : List Nat
  /-- Timeout run (R351). -/
  run : Nat
  /-- EBK is high. -/
  charging : Bool
  /-- A recharge is due or runs: end of the last pulse in ns from the start of SCAN (R349). -/
  due : Option Nat
  /-- Pulses of the shots it will make good. -/
  depth : Nat
  /-- The initial recharge has not ended (R694). -/
  initial : Bool
  /-- EBKV outside its measurement range (R328). -/
  range : Bool
  /-- A retry sweep has passed; the bank returns at the next frame boundary (R364). -/
  back : Bool
  /-- The cause of its withdrawal when it was cleared in EMI_BANK_EN; 0: it was in service (R364, R365). -/
  was : Nat
  /-- Its locating pass has reported a cell (R363). -/
  found : Bool
  deriving DecidableEq, Repr

/-- A floodlight string (R370 to R375). -/
structure FlString where
  /-- Duty applied in 0.1 % (R370, R371). -/
  duty : Nat
  /-- Failed checks in a row (R372). -/
  fails : Nat
  /-- The next on-time is a diagnostic pulse, and the present one is (R373). -/
  diag : Bool
  pulse : Bool
  on : Bool
  deriving DecidableEq, Repr

/-- The emitter and the floodlight beside their registers (R349 to R375). -/
structure EmiSt where
  /-- Banks that differ from a bank at rest are set in place; missing ones are at rest. -/
  banks : List Bank
  /-- Consecutive mismatching shots of each row (R358): row and run, run above 0. -/
  rowRun : List (Nat × Nat)
  /-- Cells (32 row + column) that the sweep, the locating pass and the retry sweeps still have to test. -/
  sweep : List Nat
  /-- A sweep has started and is not complete (R360). -/
  sweeping : Bool
  locate : List Nat
  retry : List Nat
  /-- INHIBIT has been cleared and firing resumes at the next frame boundary (R367). -/
  clearing : Bool
  strings : List FlString
  /-- Valid means still needed by each LBT input (R369). -/
  lbtRun : List Nat
  /-- FREQ in use (EMI_FL_CTRL). -/
  flFreq : Nat
  /-- The floodlight is off until FAULT is cleared and EN written again, and then until the next period starts (R375). -/
  flOff : Bool
  flWait : Bool
  /-- Banks whose sense still reads a stray current (R367). -/
  stray : Nat
  deriving DecidableEq, Repr

/-- A pixel's correction entry (pixel correction entry table). -/
structure CorrEntry where
  offset : Int
  gain : Nat
  drift : Int
  bad : Bool
  deriving DecidableEq, Repr

/-- A correction set as loaded so far (R413): the next row, and the bytes loaded as a CRC register. -/
structure CorrSet where
  n : Nat
  tCal : Int
  pedestal : Nat
  row : Nat
  crc : Nat
  entries : List CorrEntry
  deriving DecidableEq, Repr

/-- A thermal frame in progress: what its FPA_FSYNC fixed, and the shutter since. -/
structure ThmRun where
  seq : Nat
  time : Nat
  /-- T_array used; none while it is invalid (R411). -/
  tArray : Option Int
  /-- The path was settled at its start (R396). -/
  settled : Bool
  /-- Fade: set faded in and number of this frame of the fade (R415). -/
  fade : Option (Nat × Nat)
  ffcReplaced : Bool
  open_ : Bool
  closed : Bool
  /-- Raw time of its FPA_FSYNC. -/
  start : Nat
  deriving DecidableEq, Repr

/-- A corrected thermal frame (R410 to R425). -/
structure ThmFrame where
  seq : Nat
  time : Nat
  cols : Nat
  rows : Nat
  tArray : Nat
  flags : Nat
  crc : Nat
  pixels : List Nat
  replaced : List Bool
  /-- Frames not delivered since the delivered frame before it (thermal frame header). -/
  skips : Nat
  /-- Raw time of its completion. -/
  done : Nat
  /-- Items of each point ring that arrived before it and are delivered first (R425). -/
  ahead : List Nat
  deriving DecidableEq, Repr

/-- A flat field in progress (R417). -/
structure FfcRun where
  cmd : Option (Port × Nat)
  /-- 0 waits for the shutter, 1 skips frames, 2 sums, 3 has summed. -/
  phase : Nat
  left : Nat
  /-- Frames that it sums. -/
  frames : Nat
  acc : List Int
  tMin : Int
  tMax : Int
  closed : Bool
  disturbed : Bool
  deriving DecidableEq, Repr

/-- One tap in the settling check (R395): its pixels in the present block with their sum and the sum of their squares, the sum of the
block before it, and the blocks passed in a row. -/
structure TapCheck where
  count : Nat
  sum : Int
  sq : Nat
  prev : Option Int
  run : Nat
  deriving DecidableEq, Repr

/-- A fourth-order CIC: its integrators and the delays of its combs (R401). -/
structure Cic where
  ints : List Int
  combs : List Int
  deriving DecidableEq, Repr

/-- A monitor channel beside its registers (R401 to R407). -/
structure MonCh where
  n : Nat
  /-- The CICs of both paths; only M3 has the second. -/
  cicI : Cic
  cicQ : Cic
  /-- CIC outputs of both paths, newest first. -/
  hist : List (Int × Int)
  /-- Outputs still suppressed (R405). -/
  mute : Nat
  /-- Outputs in the present window, their peak and the sum of their squares. -/
  count : Nat
  peak : Nat
  sq : Nat
  /-- Outputs of the crossfade so far. -/
  fade : Nat
  deriving DecidableEq, Repr

/-- The thermal path beside its registers (chapter 12; R382 to R427). -/
structure ThmSt where
  sets : List CorrSet
  /-- Flat-field table: FFC and FFC_BAD of each pixel; empty: all 0 (R419). -/
  ffc : List (Int × Bool)
  /-- An accepted table waiting for the first FPA_FSYNC after the shutter reads open. -/
  ffcNew : Option (List (Int × Bool))
  run : Option FfcRun
  frame : Option ThmRun
  /-- Radiance sources, newest first: the present one, and older ones that closed cells still use (R22). -/
  sources : List ThmFrame
  /-- The frame being delivered (R425). -/
  queue : Option ThmFrame
  /-- Frames not delivered since the last one queued. -/
  skipped : Nat
  /-- Register fields that wait for the next FPA_FSYNC (R382, R394, R426). -/
  hold : List Held
  /-- Fade: the set faded in and the frames of it started (R415). -/
  fade : Option (Nat × Nat)
  /-- The stored THM_CONFIG list: pairs of dwords (R392). -/
  list : List (Nat × Nat)
  /-- A THM_CONFIG that waits for the path to settle. -/
  cfgWait : Option (Port × Nat)
  /-- Raw time of the settling start that the last THM_CONFIG made (R398). -/
  cfgAt : Nat
  /-- Raw time of the latest settling start, and whether it was a decimator reset (R395, R398). -/
  settleAt : Nat
  fast : Bool
  /-- The settling check of each tap, and the raw time at which it has passed (R395). -/
  check : List TapCheck
  passed : Option Nat
  /-- Registration lookup, and the one that waits for a frame boundary (R427). -/
  lut : List Nat
  lutNew : Option (List Nat)
  /-- Coefficient banks (R406). -/
  banks : List (Option (List Int))
  mon : List MonCh
  /-- T_array, where it was valid, and raw time of the last accepted flat field (R422). -/
  ffcT : Option Int
  ffcAt : Nat
  /-- Raw time before which no automatic flat field starts after a refusal, and one that waits (R422). -/
  ffcRest : Nat
  ffcDue : Bool
  /-- Thermal stalls held (R423), and the geometry they are for: columns, rows, taps code. -/
  stalls : List Nat
  geom : Option (Nat × Nat × Nat)
  deriving DecidableEq, Repr

/-- An average in progress of a sequence entry (R439, R446, R447). -/
structure HkAvg where
  e : Nat
  n : Nat
  sum : Nat
  ovr : Bool
  after : Bool
  deriving DecidableEq, Repr

/-- A housekeeping converter beside its registers (R436 to R448). -/
structure HkConv where
  /-- The entry that is due next. -/
  next : Nat
  /-- Values that HKC_SEQ entries and LEN had before writes that wait for the next pass start (R437). -/
  oldSeq : List (Nat × Nat)
  oldLen : Option Nat
  avgs : List HkAvg
  /-- Raw time at which each entry's last average was completed (R441). -/
  doneAt : List (Nat × Nat)
  /-- The last conversion was overranged (R447), and one conversion of VSS is to be inserted (R448). -/
  after : Bool
  insert : Bool
  /-- Injections that wait: the bias loop's, and the inputs of the host's in order of arrival (R444). -/
  loop : Bool
  host : List Nat
  /-- Ordinary conversions since the background measurement of the 13 slices began anew (R452). -/
  bg : Nat
  /-- Weights in use of the 12 slices and the spare, in LSB from the weights at reset (R453). -/
  weights : List Int
  /-- Raw time of the last pass start (R436). -/
  passAt : Nat
  deriving DecidableEq, Repr

/-- Housekeeping (chapter 13; R436, R454 to R456). -/
structure HkcSt where
  /-- Converters that differ from a converter at rest, HK-A first; missing ones are at rest. -/
  convs : List HkConv
  /-- Pairs that failed at the last heartbeat (R455), and passing heartbeats in a row of each pair that has failed (R645). -/
  pairFail : Nat
  pass : List (Nat × Nat)
  deriving DecidableEq, Repr

/-- The states of an output pair (R481, pair states table). -/
inductive PairState where
  | disabled | forced | blocked | wait | on
  deriving DecidableEq, Repr

/-- Configuration of an output pair (R459). -/
structure PairCfg where
  en : Bool
  autoRestart : Bool
  edmEn : Bool
  guardMask : Nat
  restartMs : Nat
  /-- PMASK of each set, 0 to 7. -/
  pmask : List Nat
  deriving DecidableEq, Repr

/-- A field set (R460, R461). -/
structure SetCfg where
  padEn : Nat
  warn : Nat
  partIgn : Nat
  /-- Directions needed to violate each paddock, less 1. -/
  minDirs : List Nat
  /-- The direction list. -/
  dirs : List Nat
  /-- The A table: 16 halfwords for each listed direction. -/
  aTab : List Nat
  /-- The B table: for each bucket one halfword for each listed direction. -/
  bTab : List Nat
  deriving DecidableEq, Repr

/-- A parsed configuration image (R458). -/
structure SafCfg where
  setsEn : Nat
  guardsEn : Nat
  frameUs : Nat
  kFrames : Nat
  covGrace : Nat
  spanMax : Nat
  progCrc : List Nat
  edmWin : Nat
  pairs : List PairCfg
  sets : List SetCfg
  deriving DecidableEq, Repr

/-- A run of intruding good cells (R469). -/
structure Run where
  set : Nat
  dir : Nat
  pad : Nat
  n : Nat
  deriving DecidableEq, Repr

/-- What one evaluator keeps (R469 to R480). -/
structure Evaluator where
  /-- Accepted FSEL value (R470). -/
  fsel : Nat
  /-- Set in force. -/
  active : Nat
  /-- Replaced sets still applied, most recent first (R472, R473). -/
  replaced : List Nat
  runs : List Run
  /-- Directions that are covered (R475). -/
  covered : List Nat
  /-- Directions whose shortfall gap lasts to the end of the frame (R475). -/
  short : List Nat
  /-- Frame results: set-local index, good flag and intruding mask of each notice, newest first (R479). -/
  results : List (Nat × Bool × Nat)
  /-- Number of the last notice judged (R478). -/
  last : Nat
  /-- The states of the four pairs as this evaluator has them; ON drives its own line of the pair (R477, R481). -/
  pairs : List PairState
  deriving DecidableEq, Repr

/-- One output pair: its contactor feedback (R485). -/
structure Pair where
  /-- EDM window running (R485). -/
  edmPend : Bool
  /-- Accepted level of EDMn. -/
  edm : Bool
  deriving DecidableEq, Repr

/-- One guard (R486 to R488). -/
structure Guard where
  a : Bool
  b : Bool
  disc : Bool
  pend : Bool
  /-- Both channels have been accepted low together since PEND or DISC was set. -/
  lowSeen : Bool
  deriving DecidableEq, Repr

/-- The safety block (chapter 14; R458 to R496). -/
structure SafSt where
  /-- Staged image bytes; empty when none is staged (R464). -/
  staged : List Byte
  /-- Committed configuration (R465). -/
  cfg : Option SafCfg
  armed : Bool
  pairs : List Pair
  guards : List Guard
  evA : Evaluator
  evB : Evaluator
  /-- F3 causes present: fault code and DETAIL (R634, R491). -/
  f3 : List (Nat × Nat)
  clearable : Bool
  /-- The last heartbeat found a mismatch (R478). -/
  hbMiss : Bool
  /-- Notices handed over so far (R478). -/
  notices : Nat
  deriving DecidableEq, Repr

/-- Twin operation (chapter 15). -/
structure RedSt where
  /-- The pair fires in halves (R307, R518). -/
  halves : Bool
  /-- The device fires nothing in native twin mode: standby, or an echo that did not come back (R521 to R523). -/
  mute : Bool
  /-- Consecutive mirror blocks that matched, and the absolute slot from which a return to halves may follow (R518). -/
  matched : Nat
  joinFrom : Option Nat
  /-- PSKEW at the last frame boundaries, newest first (R511, R518). -/
  skews : List Int
  /-- Absolute slot at which UNSURE began (R524). -/
  since : Option Nat
  /-- SCAN_START accepted, waiting for the frame mark (R517): program slot. -/
  wait : Option Nat
  /-- The partner's last mirror block says that it owns all slots (R516). -/
  partnerAll : Bool
  /-- The leader's frame sequence, adopted at the next frame boundary (R516). -/
  adopt : Option Nat
  /-- The last frame mark: its FRAME_SEQ[23:0] and the stamp less the own boundary in 15.625 ps (R592). -/
  mark : Option (Nat × Int)
  /-- Raw time at which HALTER was last released (R526). -/
  releasedAt : Option Nat
  /-- Control is moving to the standby herd pair (R36, R507). -/
  switching : Bool
  deriving DecidableEq, Repr

/-- Recorder configuration (R533). -/
structure AcqCfg where
  srcEn : Nat
  guardMask : Nat
  padMask : Nat
  warnMask : Nat
  faultMin : Nat
  ptRings : Nat
  thmKeep : Nat
  thmAvg : Nat
  ptAvg : Nat
  preMs : Nat
  postMs : Nat
  rawPre : Nat
  rawPost : Nat
  rawCl : Nat
  rearmMs : Nat
  ptStalls : Nat
  thmStalls : Nat
  rawStalls : Nat
  thmThr : Nat
  measFrames : Nat
  tbSend : Nat
  thmPix : Nat
  trigOut : Nat
  crc : Nat
  deriving DecidableEq, Repr

/-- One piece of a recorded stream: point ring (4 for the other streams), whether it is a frame header, and its bytes. -/
structure RecItem where
  time : Nat
  ring : Nat
  header : Bool
  data : List Byte
  deriving DecidableEq, Repr

/-- A pre-trigger ring: its content, oldest first, whether it has overwritten anything, and its stalls. -/
structure RecRing where
  items : List RecItem
  wrapped : Bool
  stalls : List Nat
  deriving DecidableEq, Repr

/-- A section of a recording: what has been captured, whether capture still runs, the beginning of its pre-trigger content,
when capture stopped, its OVF flag, and its far stalls in order. -/
structure RecSection where
  items : List RecItem
  active : Bool
  start : Nat
  stop : Option Nat
  ovf : Bool
  stalls : List Nat
  deriving DecidableEq, Repr

/-- The recording in progress: its sequence, its triggers (source and date), sections point, thermal and raw (none where not
configured), its flags, the first stop of R547, its header stall, and the frame of its trigger. -/
structure Recording where
  seq : Nat
  trigs : List (Nat × Nat)
  secs : List (Option RecSection)
  preShort : Bool
  full : Bool
  aligned : Bool
  stopAt : Nat
  header : Option Nat
  frame : Nat
  deriving DecidableEq, Repr

/-- A missed-trigger log entry (R542): DEVTIME, sources, STATE and REC_SEQ. -/
structure MissEntry where
  time : Nat
  mask : Nat
  state : Nat
  seq : Nat
  deriving DecidableEq, Repr

/-- A return that Evaluator A judged intruding, kept for the measurements (R551): frame, set-local index, range, intensity. -/
structure MeasReturn where
  frame : Nat
  index : Nat
  range : Nat
  int : Nat
  deriving DecidableEq, Repr

/-- The incident recorder (chapter 16; R533 to R553). -/
structure AcqSt where
  cfg : Option AcqCfg
  /-- DEVTIME of the arming, and of the end of the last recording's post-trigger capture (R536). -/
  armedAt : Nat
  lastEnd : Nat
  rings : List RecRing
  run : Option Recording
  /-- Triggers since the last trigger sample: source and date. -/
  pend : List (Nat × Nat)
  log : List MissEntry
  /-- Thermal frames delivered since the last one kept. -/
  kept : Nat
  /-- DEVTIME of the latest frame boundaries, newest first: frame and time. -/
  frames : List (Nat × Nat)
  meas : List MeasReturn
  /-- REC_SEQ of the last recording since arming. -/
  seq : Nat
  /-- The largest round trip in ps so far of the TRIGBUS_MEASURE in progress (R553). -/
  tbMax : Option Nat
  /-- ACQ_DISARM waits for the recording in progress to be closed (R28, R535). -/
  disarming : Bool
  deriving DecidableEq, Repr

/-- The interrupt controller beside its registers (chapter 17). -/
structure IrqSt where
  /-- AON_TIME has reached ALARM since ALARM was last written (source 0x1F4). -/
  alarm : Bool
  /-- WAKEn pins at their active level (sources 0x1F0 to 0x1F3). -/
  wakePins : Nat
  /-- Active sources with their priorities, innermost first (R559). -/
  stack : List (Nat × Nat)
  /-- The source that started an entry in progress (R559, R560). -/
  entry : Option Nat
  /-- An EOI has been written and exit runs (R564). -/
  exiting : Bool
  /-- MSI-X pending bits (R567). -/
  pba : Nat
  /-- Vectors masked in their Vector Control (R567). -/
  vecMask : Nat
  /-- The entries of the MSI-X table that the host has written, the latest of each vector (R577). -/
  table : List MsixEntry
  deriving DecidableEq, Repr

/-- The partner link beside its registers (chapter 18). -/
structure PrtSt where
  /-- SEQ of the next packet sent, and of the last one accepted (R589, R590). -/
  txSeq : Nat
  rxSeq : Nat
  /-- Lanes that have passed every step of this training, and those whose eye has been measured. -/
  laneOk : Nat
  eyesDone : Nat
  /-- Round trip less turnaround of the exchanges of LATENCY, in 15.625 ps (R599). -/
  echoes : List Int
  /-- KEYX 1 has been received (R659). -/
  keyx : Bool
  /-- The private number of this session's ephemeral key, and the partner's ephemeral public key (R659); 0 and empty: none. -/
  eph : Nat
  peer : List Byte
  /-- The 72 bytes of the session keys and salts; empty: none (R659, R660). -/
  keys : List Byte
  /-- The next word of the transmitted stream has an odd index (R587), and the last 58 scrambled bits of each lane, newest in bit
  0; a lane without an entry holds zeros (R586). -/
  odd : Bool
  scr : List (Nat × Nat)
  /-- Raw time of packets that failed their tag within the last 1 ms (R601). -/
  tagFails : List Nat
  /-- The link was lost and ACTIVE has not been reached since (R601). -/
  lost : Bool
  /-- PRT_RETRAIN in progress. -/
  retrain : Option (Port × Nat)
  deriving DecidableEq, Repr

/-- The trims of one channel of a physical cluster; cluster 16 is CLS (chapter 19). -/
structure Trim where
  cl : Nat
  ch : Nat
  /-- Lookup from raw tap to fine value (R616). -/
  lut : List Nat
  t0 : Int
  t1 : Int
  /-- Skew trim, external and internal skew in 15.625 ps (R619). -/
  skew : Int
  ext : Int
  int : Int
  /-- Leading-edge shift at 64 amplitudes in each of the 4 ranges (R618). -/
  walk : List Int
  /-- Hits of each tap in both runs of its full groom (R616); empty: none kept. -/
  width : List Nat
  deriving DecidableEq, Repr

/-- A whole calibration, working or stored (R628). -/
structure CalData where
  version : Nat
  trims : List Trim
  zero : Nat
  pzero : Int
  /-- Lane and preset in use (R623). -/
  presets : List (Nat × Nat)
  /-- Route, channel and offset of CLS (R622). -/
  routes : List (Nat × Nat × Int)
  /-- Cluster and T_AD at its measurement in 1/16 degree C. -/
  tAd : List (Nat × Int)
  /-- HGE_WALK and HGE_TOT_LUT of the device record, range by range (R618, R628); empty: none measured. -/
  walkTab : List Int
  totTab : List Nat
  deriving DecidableEq, Repr

/-- A groom in progress (R609 to R615). -/
structure Groom where
  cmd : Option (Port × Nat)
  full : Bool
  mask : Nat
  /-- Started by R106 after a refusal. -/
  background : Bool
  /-- The start-up waits for it. -/
  startUp : Bool
  /-- The warm groom of CAL_SPARE_RELEASE (R193). -/
  release : Bool
  /-- In SCAN it waits for a frame boundary to start (R612). -/
  waiting : Bool
  /-- Clusters refused so far. -/
  refused : Nat
  deriving DecidableEq, Repr

/-- Calibration (chapter 19; R606 to R630). -/
structure CalSt where
  work : CalData
  flash : CalData
  /-- Records with a failing copy in flash (R105). -/
  flashBad : List Nat
  grooms : List Groom
  /-- Clusters whose trims have been loaded and whose stale hold ends at the next frame boundary (R627). -/
  loaded : Nat
  /-- T_AD at the last accepted groom of each cluster (R615). -/
  lastT : List (Nat × Int)
  /-- Walk and intensity tables that load at the next frame boundary (R618). -/
  tables : Option (List Int × List Nat)
  /-- CAL_SPARE_ENGAGE or CAL_SPARE_RELEASE in progress (R193, R194). -/
  spare : Option (Port × Nat)
  /-- At least one copy of every stored record passes and matches the current version (R105, R629). -/
  valid : Bool
  /-- Clusters refused by a warm groom whose full groom has not been accepted (R106). -/
  owed : Nat
  /-- The groom of CLS that an engagement stopped, full or warm; it reruns once CLS is released (R614). -/
  rerun : Option Bool
  deriving DecidableEq, Repr

/-- The whole state of the block. -/
structure State where
  /-- Register store: fields that differ from their reset value, by bit address, strictly rising (log entry 2). -/
  regs : List (Nat × Nat)
  /-- The device state (R29). -/
  mode : Mode
  /-- Commands and events that wait, first in first out. -/
  pending : List Instr
  /-- The fault log, oldest first (R638). -/
  faults : List FaultRec
  /-- Queued follow-up reactions in order of arrival (R642). -/
  reactions : List Reaction
  /-- The follow-up reaction that runs, and those that it has pre-empted, innermost first (R642). -/
  running : List Reaction
  /-- The model's own counter of free values taken (log entry 5). -/
  free : Nat
  /-- Register fields written that wait for a frame boundary, oldest first (R691). -/
  hold : List Held
  /-- Sixteenths of PLL_TIME ticks since AON_TIME last counted. -/
  aonFine : Nat
  /-- Balls the device drives, and inputs it has sampled. -/
  pins : Pins
  /-- A reset is due 100 ms after FATAL was entered (R646). -/
  fatalReset : Bool
  /-- Start-up, state changes and clocks. -/
  sys : SysSt
  /-- PCI Express endpoint and register access paths. -/
  link : LinkSt
  /-- Everything sent to the host, the partner and the buses, oldest first. -/
  tx : List Sent
  /-- Keys and images (chapter 21). -/
  sec : SecSt
  cmd : CmdSt
  /-- Return front end, bridge lanes and waveform slices. -/
  rxf : RxfSt
  /-- PPS and the frequency engines. -/
  tdc : TdcSt
  /-- Cells, staged codes and point rings. -/
  hge : HgeSt
  /-- The yard. -/
  yrd : YardSt
  /-- The scan scheduler. -/
  sch : SchSt
  /-- The emitter and the floodlight. -/
  emi : EmiSt
  /-- The thermal path. -/
  thm : ThmSt
  /-- The housekeeping converters. -/
  hkc : HkcSt
  /-- The safety block. -/
  saf : SafSt
  /-- Twin operation beside its registers. -/
  red : RedSt
  /-- The incident recorder. -/
  acq : AcqSt
  /-- The interrupt controller. -/
  irq : IrqSt
  /-- The partner link beside its registers. -/
  prt : PrtSt
  /-- Calibration. -/
  cal : CalSt
  deriving DecidableEq, Repr

/-- The block right after the power-on reset of VDD_AON (R7, R83, R98): every register at its reset value (an empty
store), STANDBY with start-up step 1, nothing pending. Log entry 4 names the values the spec does not state. -/
def State.reset : State :=
  { regs := [],
    mode := .standby,
    pending := [],
    faults := [],
    reactions := [],
    running := [],
    free := 0,
    hold := [],
    aonFine := 0,
    pins := { erow := 0, ecol := 0, pre := 0, slotAt := 0, pulses := [], ebk := 0, fls := 0, tstMode := false, perst := true, trigOut := none, peWake := false, halter := false, shutOpen := true, fpaRst := false },
    fatalReset := false,
    sys := { trans := none, startAt := 0, fw := { ok := false, major := 0, prev := 0, version := 0, svn := 0, schema := 0, standby := false }, goReady := true, sleepEntering := false, wakeLatched := 0, refReturn := none, refCfg := none, slew := 0, slewCount := 0, railsDown := 0, raw := 0, rawZero := 0, xaonLate := false, rlm := 0, rlmDual := false, rlmLat := [] },
    link := { up := false, flr := false, sleepShake := false, shadow := [], held := [], pcieCfg := 0, mps := 0, mrrs := 2, aspm := false, l11 := false },
    tx := [],
    sec := { keys := [], endorsement := [], idKey := 0, stage := [], seed := none, active := 0, marked := 0 },
    cmd := { cmds := [], comps := [], tail := 0, head := 0, draining := false, fetchStop := false, cmpStop := false, unnotified := 0, cmpSource := false, mgmtComps := [], resp := none, lastAck := none, held := [], wakeStatus := false, nonce := none, resetDue := false },
    rxf := { chans := [], shadowSeen := 0, laneErr := [], laneCount := [], laneSlot := [], laneDirty := [], rot := [], apdbOff := false, tAd := 400, impFrom := none, slices := [] },
    tdc := { lastPps := none, refSwitched := [false, false, false, false], stamps := [[], [], [], []] },
    hge := { cells := [], refused := [], code := [], rings := [{ queue := [], count := 0, prev := 0, backlog := false, lastHdr := none, hdrDue := false }, { queue := [], count := 0, prev := 0, backlog := false, lastHdr := none, hdrDue := false }, { queue := [], count := 0, prev := 0, backlog := false, lastHdr := none, hdrDue := false }, { queue := [], count := 0, prev := 0, backlog := false, lastHdr := none, hdrDue := false }], shape := [], lost := [], waiting := [] },
    yrd := { stalls := [], retired := [], revoke := none, need := 0, fetches := [], cache := [] },
    sch := { progs := [none, none], cur := 0, switchTo := none, slotNs := 2500, frameUs := 40000, slots := 16000, next := 0, abs := 0, frame := 0, running := false, stop := none, first := false, owes := [], owesNext := [], carried := [], look := [], committed := none, lasts := [], fired := [], charges := [], peak := [], startAt := 0, lastShot := none, fill := [0, 0], fillFrom := 0, capCold := 0, capDone := false },
    emi := { banks := [], rowRun := [], sweep := [], sweeping := false, locate := [], retry := [], clearing := false, strings := [], lbtRun := [16, 16], flFreq := 2, flOff := false, flWait := false, stray := 0 },
    thm := { sets := [], ffc := [], ffcNew := none, run := none, frame := none, sources := [], queue := none, skipped := 0, hold := [], fade := none, list := [], cfgWait := none, cfgAt := 0, settleAt := 0, fast := false, check := [], passed := none, lut := [], lutNew := none, banks := [none, none], mon := [], ffcT := none, ffcAt := 0, ffcRest := 0, ffcDue := false, stalls := [], geom := none },
    hkc := { convs := [], pairFail := 0, pass := [] },
    saf := { staged := [], cfg := none, armed := false, pairs := [{ edmPend := false, edm := false }, { edmPend := false, edm := false }, { edmPend := false, edm := false }, { edmPend := false, edm := false }], guards := [{ a := false, b := false, disc := false, pend := true, lowSeen := false }, { a := false, b := false, disc := false, pend := true, lowSeen := false }, { a := false, b := false, disc := false, pend := true, lowSeen := false }, { a := false, b := false, disc := false, pend := true, lowSeen := false }], evA := { fsel := 0, active := 0, replaced := [], runs := [], covered := [], short := [], results := [], last := 0, pairs := [.disabled, .disabled, .disabled, .disabled] }, evB := { fsel := 0, active := 0, replaced := [], runs := [], covered := [], short := [], results := [], last := 0, pairs := [.disabled, .disabled, .disabled, .disabled] }, f3 := [], clearable := false, hbMiss := false, notices := 0 },
    red := { halves := false, mute := false, matched := 0, joinFrom := none, skews := [], since := none, wait := none, partnerAll := false, adopt := none, mark := none, releasedAt := none, switching := false },
    acq := { cfg := none, armedAt := 0, lastEnd := 0, rings := [], run := none, pend := [], log := [], kept := 0, frames := [], meas := [], seq := 0, tbMax := none, disarming := false },
    irq := { alarm := false, wakePins := 0, stack := [], entry := none, exiting := false, pba := 0, vecMask := 2 ^ 64 - 1, table := [] },
    prt := { txSeq := 1, rxSeq := 0, laneOk := 0, eyesDone := 0, echoes := [], keyx := false, eph := 0, peer := [], keys := [], odd := false, scr := [], tagFails := [], lost := false, retrain := none },
    cal := { work := { version := 0, trims := [], zero := 0, pzero := 0, presets := [], routes := [], tAd := [], walkTab := [], totTab := [] }, flash := { version := 0, trims := [], zero := 0, pzero := 0, presets := [], routes := [], tAd := [], walkTab := [], totTab := [] }, flashBad := [], grooms := [], loaded := 0, lastT := [], tables := none, spare := none, valid := true, owed := 0, rerun := none } }

/-- Why a step stops without a next state. -/
inductive Fault where
  /-- Raised by registerWrite for an access that is not naturally aligned: R11 says which accesses the device accepts
  and no rule says what another does (log entry 8). Safe: the model stops. -/
  | bar0Unaligned
  deriving DecidableEq, Repr

/-- Why a step is refused. -/
inductive Refusal where
  /-- No meaning yet for the command of this mnemonic. -/
  | notModelled (mnemonic : String)
  /-- Raised by registerWrite for an access to the TST block in OPENED: the spec gives no register of that block
  (R14, R16; log entry 9). Safe: the model stops. -/
  | tstBlock
  deriving DecidableEq, Repr

end Sys2Proof.Machine
end

