-- ==== Sys2Proof/Machine/Fields.lean ====
section
/-! DEFINITION. The register fields of the FZ-8960, transcribed from the register tables of the spec
(R2, R3, R95, R117, R165, R201, R229, R270, R305, R343, R376, R430, R457, R503, R532, R555, R572, R605,
R631, R651, R664): one name for each field, with its BAR0 byte offset, its lowest bit, its width and its
reset value, and one row for each register, which gives the access type of each field.
A quantity held in a _LO/_HI pair is one field of up to 64 bits at the offset of the _LO half (R6).
A table with one field gives that field the register's name. -/

namespace Sys2Proof.Machine

/-- The registers of one register table: n1 by n2 instances with strides s1 and s2 from off, each of size bytes
(8 for a _LO/_HI pair), and the fields of instance (i, j). -/
structure RegSpec where
  off : Nat
  size : Nat
  n1 : Nat
  s1 : Nat
  n2 : Nat
  s2 : Nat
  fields : Nat → Nat → List (Fld × Acc)

/-- SYS_ID [24+:8] RO, reset 0xF2. -/
abbrev F.SYS_ID_FAMILY : Fld := ⟨0x0, 24, 8, 0xF2⟩
/-- SYS_ID [8+:16] RO, reset 0x8960. -/
abbrev F.SYS_ID_MEMBER : Fld := ⟨0x0, 8, 16, 0x8960⟩
/-- SYS_ID [4+:4] RO, reset 0x1. -/
abbrev F.SYS_ID_STEP_MAJ : Fld := ⟨0x0, 4, 4, 0x1⟩
/-- SYS_ID [0+:4] RO, reset 0x0. -/
abbrev F.SYS_ID_STEP_MIN : Fld := ⟨0x0, 0, 4, 0x0⟩
/-- SYS_PARAM [25+:1] RO, reset 1. -/
abbrev F.SYS_PARAM_TWIN : Fld := ⟨0x4, 25, 1, 1⟩
/-- SYS_PARAM [24+:1] RO, reset 1. -/
abbrev F.SYS_PARAM_ILK : Fld := ⟨0x4, 24, 1, 1⟩
/-- SYS_PARAM [20+:4] RO, reset 0x8. -/
abbrev F.SYS_PARAM_PCIE_LANES : Fld := ⟨0x4, 20, 4, 0x8⟩
/-- SYS_PARAM [16+:4] RO, reset 0x8. -/
abbrev F.SYS_PARAM_RLM_CH : Fld := ⟨0x4, 16, 4, 0x8⟩
/-- SYS_PARAM [8+:8] RO, reset 0x30. -/
abbrev F.SYS_PARAM_LOFT_MIB : Fld := ⟨0x4, 8, 8, 0x30⟩
/-- SYS_PARAM [5+:1] RO, reset 1. -/
abbrev F.SYS_PARAM_SPARE : Fld := ⟨0x4, 5, 1, 1⟩
/-- SYS_PARAM [0+:5] RO, reset 0x10. -/
abbrev F.SYS_PARAM_CLUSTERS : Fld := ⟨0x4, 0, 5, 0x10⟩
/-- SHD_STATE [10+:1] RO, reset 0. -/
abbrev F.SHD_STATE_HKB : Fld := ⟨0x10000, 10, 1, 0⟩
/-- SHD_STATE [9+:1] RO, reset 0. -/
abbrev F.SHD_STATE_HKA : Fld := ⟨0x10000, 9, 1, 0⟩
/-- SHD_STATE [8+:1] RO, reset 0. -/
abbrev F.SHD_STATE_SAFB : Fld := ⟨0x10000, 8, 1, 0⟩
/-- SHD_STATE [7+:1] RO, reset 0. -/
abbrev F.SHD_STATE_SAFA : Fld := ⟨0x10000, 7, 1, 0⟩
/-- SHD_STATE [6+:1] RO, reset 0. -/
abbrev F.SHD_STATE_EMI : Fld := ⟨0x10000, 6, 1, 0⟩
/-- SHD_STATE [5+:1] RO, reset 0. -/
abbrev F.SHD_STATE_THM : Fld := ⟨0x10000, 5, 1, 0⟩
/-- SHD_STATE [4+:1] RO, reset 0. -/
abbrev F.SHD_STATE_HGE : Fld := ⟨0x10000, 4, 1, 0⟩
/-- SHD_STATE [3+:1] RO, reset 0. -/
abbrev F.SHD_STATE_MEM : Fld := ⟨0x10000, 3, 1, 0⟩
/-- SHD_STATE [2+:1] RO, reset 0. -/
abbrev F.SHD_STATE_PRT : Fld := ⟨0x10000, 2, 1, 0⟩
/-- SHD_STATE [1+:1] RO, reset 0. -/
abbrev F.SHD_STATE_LNK : Fld := ⟨0x10000, 1, 1, 0⟩
/-- SHD_STATE [0+:1] RO, reset 0. -/
abbrev F.SHD_STATE_CTL : Fld := ⟨0x10000, 0, 1, 0⟩
/-- SHD_ALLOW [2+:1] RW, reset 0. -/
abbrev F.SHD_ALLOW_COLD_EN : Fld := ⟨0x10004, 2, 1, 0⟩
/-- SHD_ALLOW [1+:1] RW, reset 1. -/
abbrev F.SHD_ALLOW_PRT_ALLOW : Fld := ⟨0x10004, 1, 1, 1⟩
/-- SHD_ALLOW [0+:1] RW, reset 1. -/
abbrev F.SHD_ALLOW_THM_ALLOW : Fld := ⟨0x10004, 0, 1, 1⟩
/-- SHD_CLST0 [0+:3] RO, reset 0b000. -/
abbrev F.SHD_CLST0_ST (k : Nat) : Fld := ⟨0x10010, (4 * k), 3, 0b000⟩
/-- SHD_CLST1 [0+:3] RO, reset 0b000. -/
abbrev F.SHD_CLST1_ST (k : Nat) : Fld := ⟨0x10014, (4 * k), 3, 0b000⟩
/-- SHD_CLST2 [0+:3] RO, reset 0b000. -/
abbrev F.SHD_CLST2_ST : Fld := ⟨0x10018, 0, 3, 0b000⟩
/-- SHD_RAIL [9+:1] RO, reset 0. -/
abbrev F.SHD_RAIL_IO_PE : Fld := ⟨0x10020, 9, 1, 0⟩
/-- SHD_RAIL [8+:1] RO, reset 0. -/
abbrev F.SHD_RAIL_IO_SYS : Fld := ⟨0x10020, 8, 1, 0⟩
/-- SHD_RAIL [7+:1] RO, reset 0. -/
abbrev F.SHD_RAIL_IO_FPA : Fld := ⟨0x10020, 7, 1, 0⟩
/-- SHD_RAIL [6+:1] RO, reset 0. -/
abbrev F.SHD_RAIL_IO_EMI : Fld := ⟨0x10020, 6, 1, 0⟩
/-- SHD_RAIL [5+:1] RO, reset 0. -/
abbrev F.SHD_RAIL_IO_SAF : Fld := ⟨0x10020, 5, 1, 0⟩
/-- SHD_RAIL [4+:1] RO, reset 0. -/
abbrev F.SHD_RAIL_SER : Fld := ⟨0x10020, 4, 1, 0⟩
/-- SHD_RAIL [3+:1] RO, reset 0. -/
abbrev F.SHD_RAIL_RL : Fld := ⟨0x10020, 3, 1, 0⟩
/-- SHD_RAIL [2+:1] RO, reset 0. -/
abbrev F.SHD_RAIL_TAP : Fld := ⟨0x10020, 2, 1, 0⟩
/-- SHD_RAIL [1+:1] RO, reset 0. -/
abbrev F.SHD_RAIL_AFE : Fld := ⟨0x10020, 1, 1, 0⟩
/-- SHD_RAIL [0+:1] RO, reset 0. -/
abbrev F.SHD_RAIL_CORE : Fld := ⟨0x10020, 0, 1, 0⟩
/-- SHD_WAKE_CFG [16+:1] RW, reset 0. -/
abbrev F.SHD_WAKE_CFG_AUTO_READY : Fld := ⟨0x10030, 16, 1, 0⟩
/-- SHD_WAKE_CFG [11+:1] RW, reset 1. -/
abbrev F.SHD_WAKE_CFG_PERST_EN : Fld := ⟨0x10030, 11, 1, 1⟩
/-- SHD_WAKE_CFG [10+:1] RW, reset 0. -/
abbrev F.SHD_WAKE_CFG_IRQW_EN : Fld := ⟨0x10030, 10, 1, 0⟩
/-- SHD_WAKE_CFG [9+:1] RW, reset 0. -/
abbrev F.SHD_WAKE_CFG_ALARM_EN : Fld := ⟨0x10030, 9, 1, 0⟩
/-- SHD_WAKE_CFG [8+:1] RW, reset 1. -/
abbrev F.SHD_WAKE_CFG_MGMT_EN : Fld := ⟨0x10030, 8, 1, 1⟩
/-- SHD_WAKE_CFG [4+:4] RW, reset 0xF. -/
abbrev F.SHD_WAKE_CFG_WAKE_POL : Fld := ⟨0x10030, 4, 4, 0xF⟩
/-- SHD_WAKE_CFG [0+:4] RW, reset 0x0. -/
abbrev F.SHD_WAKE_CFG_WAKE_EN : Fld := ⟨0x10030, 0, 4, 0x0⟩
/-- SHD_WAKE_CAUSE [16+:1] W1C, reset 1. -/
abbrev F.SHD_WAKE_CAUSE_POWER : Fld := ⟨0x10034, 16, 1, 1⟩
/-- SHD_WAKE_CAUSE [11+:1] W1C, reset 0. -/
abbrev F.SHD_WAKE_CAUSE_PERST : Fld := ⟨0x10034, 11, 1, 0⟩
/-- SHD_WAKE_CAUSE [10+:1] W1C, reset 0. -/
abbrev F.SHD_WAKE_CAUSE_IRQW : Fld := ⟨0x10034, 10, 1, 0⟩
/-- SHD_WAKE_CAUSE [9+:1] W1C, reset 0. -/
abbrev F.SHD_WAKE_CAUSE_ALARM : Fld := ⟨0x10034, 9, 1, 0⟩
/-- SHD_WAKE_CAUSE [8+:1] W1C, reset 0. -/
abbrev F.SHD_WAKE_CAUSE_MGMT : Fld := ⟨0x10034, 8, 1, 0⟩
/-- SHD_WAKE_CAUSE [0+:4] W1C, reset 0x0. -/
abbrev F.SHD_WAKE_CAUSE_WAKE : Fld := ⟨0x10034, 0, 4, 0x0⟩
/-- SHD_AON_TIME [0+:64] RO, reset 0. -/
abbrev F.SHD_AON_TIME : Fld := ⟨0x10038, 0, 64, 0⟩
/-- SHD_ALARM [0+:64] RW, reset 0xFFFF_FFFF in each half. -/
abbrev F.SHD_ALARM : Fld := ⟨0x10040, 0, 64, 0xFFFFFFFFFFFFFFFF⟩
/-- CLK_STATUS [9+:1] RO, reset 0. -/
abbrev F.CLK_STATUS_FMON_OK : Fld := ⟨0x10100, 9, 1, 0⟩
/-- CLK_STATUS [8+:1] RO, reset 0. -/
abbrev F.CLK_STATUS_REF_ACTIVE : Fld := ⟨0x10100, 8, 1, 0⟩
/-- CLK_STATUS [7+:1] RO, reset 0. -/
abbrev F.CLK_STATUS_REF_PRESENT : Fld := ⟨0x10100, 7, 1, 0⟩
/-- CLK_STATUS [6+:1] RO, reset 1. -/
abbrev F.CLK_STATUS_RC_ACTIVE : Fld := ⟨0x10100, 6, 1, 1⟩
/-- CLK_STATUS [5+:1] RO, reset 0. -/
abbrev F.CLK_STATUS_XAON_OK : Fld := ⟨0x10100, 5, 1, 0⟩
/-- CLK_STATUS [4+:1] RO, reset 0. -/
abbrev F.CLK_STATUS_XREF_OK : Fld := ⟨0x10100, 4, 1, 0⟩
/-- CLK_STATUS [3+:1] RO, reset 0. -/
abbrev F.CLK_STATUS_SAFB_LK : Fld := ⟨0x10100, 3, 1, 0⟩
/-- CLK_STATUS [2+:1] RO, reset 0. -/
abbrev F.CLK_STATUS_MEM_LK : Fld := ⟨0x10100, 2, 1, 0⟩
/-- CLK_STATUS [1+:1] RO, reset 0. -/
abbrev F.CLK_STATUS_TIME_LK : Fld := ⟨0x10100, 1, 1, 0⟩
/-- CLK_STATUS [0+:1] RO, reset 0. -/
abbrev F.CLK_STATUS_CORE_LK : Fld := ⟨0x10100, 0, 1, 0⟩
/-- CLK_REF_CFG [9+:1] RW, reset 1. -/
abbrev F.CLK_REF_CFG_AUTO_RETURN : Fld := ⟨0x10104, 9, 1, 1⟩
/-- CLK_REF_CFG [8+:1] RW, reset 0. -/
abbrev F.CLK_REF_CFG_REF_SEL : Fld := ⟨0x10104, 8, 1, 0⟩
/-- CLK_REF_CFG [4+:1] RW, reset 0. -/
abbrev F.CLK_REF_CFG_REF_SE : Fld := ⟨0x10104, 4, 1, 0⟩
/-- CLK_REF_CFG [2+:2] RW, reset 0b00. -/
abbrev F.CLK_REF_CFG_PRESC : Fld := ⟨0x10104, 2, 2, 0b00⟩
/-- CLK_REF_CFG [0+:2] RW, reset 0b01. -/
abbrev F.CLK_REF_CFG_REF_FREQ : Fld := ⟨0x10104, 0, 2, 0b01⟩
/-- CLK_REF_EVENT [1+:1] W1C, reset 0. -/
abbrev F.CLK_REF_EVENT_RETURN : Fld := ⟨0x10108, 1, 1, 0⟩
/-- CLK_REF_EVENT [0+:1] W1C, reset 0. -/
abbrev F.CLK_REF_EVENT_LOSS : Fld := ⟨0x10108, 0, 1, 0⟩
/-- CLK_REF_LOSS_CNT [0+:16] RO, reset 0. -/
abbrev F.CLK_REF_LOSS_CNT : Fld := ⟨0x1010C, 0, 16, 0⟩
/-- CLK_PCIE_CFG [1+:1] RW, reset 0. -/
abbrev F.CLK_PCIE_CFG_SSC : Fld := ⟨0x10110, 1, 1, 0⟩
/-- CLK_PCIE_CFG [0+:1] RW, reset 0. -/
abbrev F.CLK_PCIE_CFG_SEP_REF : Fld := ⟨0x10110, 0, 1, 0⟩
/-- SYS_STATUS [24+:4] RO, reset 0xF. -/
abbrev F.SYS_STATUS_GUARD_PEND : Fld := ⟨0x8, 24, 4, 0xF⟩
/-- SYS_STATUS [20+:1] RO, reset 0. -/
abbrev F.SYS_STATUS_PARTNER_UP : Fld := ⟨0x8, 20, 1, 0⟩
/-- SYS_STATUS [19+:1] RO, reset 0. -/
abbrev F.SYS_STATUS_CAL_STALE : Fld := ⟨0x8, 19, 1, 0⟩
/-- SYS_STATUS [18+:1] RO, reset 0. -/
abbrev F.SYS_STATUS_DEGRADED : Fld := ⟨0x8, 18, 1, 0⟩
/-- SYS_STATUS [17+:1] RO, reset 0. -/
abbrev F.SYS_STATUS_CMD_LIVE : Fld := ⟨0x8, 17, 1, 0⟩
/-- SYS_STATUS [16+:1] RO, reset 0. -/
abbrev F.SYS_STATUS_PCIE_CFG : Fld := ⟨0x8, 16, 1, 0⟩
/-- SYS_STATUS [8+:4] RO, reset 0x1. -/
abbrev F.SYS_STATUS_STEP : Fld := ⟨0x8, 8, 4, 0x1⟩
/-- SYS_STATUS [4+:1] RO, reset 0. -/
abbrev F.SYS_STATUS_READY : Fld := ⟨0x8, 4, 1, 0⟩
/-- SYS_STATUS [0+:4] RO, reset 0x2. -/
abbrev F.SYS_STATUS_STATE : Fld := ⟨0x8, 0, 4, 0x2⟩
/-- SYS_START [28+:2] RO, reset 0b00. -/
abbrev F.SYS_START_IMAGE : Fld := ⟨0xC, 28, 2, 0b00⟩
/-- SYS_START [27+:1] RO, reset 0. -/
abbrev F.SYS_START_IMG_FALLBACK : Fld := ⟨0xC, 27, 1, 0⟩
/-- SYS_START [26+:1] RO, reset 0. -/
abbrev F.SYS_START_GROOM_FULL : Fld := ⟨0xC, 26, 1, 0⟩
/-- SYS_START [24+:2] RO, reset 0b00. -/
abbrev F.SYS_START_START_KIND : Fld := ⟨0xC, 24, 2, 0b00⟩
/-- SYS_START [20+:4] RO, reset 0x0. -/
abbrev F.SYS_START_START_FAILS : Fld := ⟨0xC, 20, 4, 0x0⟩
/-- SYS_START [16+:4] RO, reset 0x0. -/
abbrev F.SYS_START_FAIL_STEP : Fld := ⟨0xC, 16, 4, 0x0⟩
/-- SYS_START [0+:16] RO, reset 0xFFFF. -/
abbrev F.SYS_START_READY_MS : Fld := ⟨0xC, 0, 16, 0xFFFF⟩
/-- CMD_INFO [16+:1] RO, reset 0. -/
abbrev F.CMD_INFO_PREV_VALID : Fld := ⟨0x20000, 16, 1, 0⟩
/-- CMD_INFO [8+:8] RO, reset 0x00. -/
abbrev F.CMD_INFO_PREV_MAJ : Fld := ⟨0x20000, 8, 8, 0x00⟩
/-- CMD_INFO [0+:8] RO, reset 0x00. -/
abbrev F.CMD_INFO_CUR_MAJ : Fld := ⟨0x20000, 0, 8, 0x00⟩
/-- CMD_CTRL [1+:1] RW, reset 1. -/
abbrev F.CMD_CTRL_CMP_IRQ_EN : Fld := ⟨0x20004, 1, 1, 1⟩
/-- CMD_CTRL [0+:1] RW, reset 0. -/
abbrev F.CMD_CTRL_EN : Fld := ⟨0x20004, 0, 1, 0⟩
/-- CMD_STATUS [7+:1] W1C, reset 0. -/
abbrev F.CMD_STATUS_PERST_SEEN : Fld := ⟨0x20008, 7, 1, 0⟩
/-- CMD_STATUS [6+:1] W1C, reset 0. -/
abbrev F.CMD_STATUS_CMP_WR_ERR : Fld := ⟨0x20008, 6, 1, 0⟩
/-- CMD_STATUS [5+:1] W1C, reset 0. -/
abbrev F.CMD_STATUS_FETCH_ERR : Fld := ⟨0x20008, 5, 1, 0⟩
/-- CMD_STATUS [4+:1] RO, reset 0. -/
abbrev F.CMD_STATUS_CMP_FULL : Fld := ⟨0x20008, 4, 1, 0⟩
/-- CMD_STATUS [3+:1] RO, reset 1. -/
abbrev F.CMD_STATUS_IDLE : Fld := ⟨0x20008, 3, 1, 1⟩
/-- CMD_RING_BASE [12+:52] RW, reset 0. -/
abbrev F.CMD_RING_BASE : Fld := ⟨0x20010, 12, 52, 0⟩
/-- CMD_HEAD [0+:12] RO, reset 0. -/
abbrev F.CMD_HEAD : Fld := ⟨0x20018, 0, 12, 0⟩
/-- CMD_DB0 [0+:12] WO, reset 0. -/
abbrev F.CMD_DB0 : Fld := ⟨0x20020, 0, 12, 0⟩
/-- CMP_RING_BASE [12+:52] RW, reset 0. -/
abbrev F.CMP_RING_BASE : Fld := ⟨0x20030, 12, 52, 0⟩
/-- CMP_RING_SIZE [0+:4] RW, reset 0x8. -/
abbrev F.CMP_RING_SIZE : Fld := ⟨0x20038, 0, 4, 0x8⟩
/-- CMP_TAIL [31+:1] RO, reset 1. -/
abbrev F.CMP_TAIL_PHASE : Fld := ⟨0x2003C, 31, 1, 1⟩
/-- CMP_TAIL [0+:14] RO, reset 0. -/
abbrev F.CMP_TAIL_TAIL : Fld := ⟨0x2003C, 0, 14, 0⟩
/-- CMD_DB1 [0+:14] WO, reset 0. -/
abbrev F.CMD_DB1 : Fld := ⟨0x20040, 0, 14, 0⟩
/-- CMP_NOTIFY [8+:16] RW, reset 0x0000. -/
abbrev F.CMP_NOTIFY_TIME : Fld := ⟨0x20048, 8, 16, 0x0000⟩
/-- CMP_NOTIFY [0+:8] RW, reset 0x01. -/
abbrev F.CMP_NOTIFY_COUNT : Fld := ⟨0x20048, 0, 8, 0x01⟩
/-- CMD_ERR_CNT [16+:16] RO, reset 0. -/
abbrev F.CMD_ERR_CNT_SIG_FAIL_CNT : Fld := ⟨0x20050, 16, 16, 0⟩
/-- CMD_ERR_CNT [0+:16] RO, reset 0. -/
abbrev F.CMD_ERR_CNT_DISCARD_CNT : Fld := ⟨0x20050, 0, 16, 0⟩
/-- MGMT_STAT [8+:5] RO, reset 0. -/
abbrev F.MGMT_STAT_OUTSTANDING : Fld := ⟨0x20100, 8, 5, 0⟩
/-- MGMT_STAT [2+:1] W1C, reset 0. -/
abbrev F.MGMT_STAT_RESP_LOST : Fld := ⟨0x20100, 2, 1, 0⟩
/-- MGMT_STAT [1+:1] RO, reset 0. -/
abbrev F.MGMT_STAT_HELD : Fld := ⟨0x20100, 1, 1, 0⟩
/-- MGMT_STAT [0+:1] RO, reset 0. -/
abbrev F.MGMT_STAT_ALERT : Fld := ⟨0x20100, 0, 1, 0⟩
/-- MGMT_CRC_CNT [0+:16] RO, reset 0. -/
abbrev F.MGMT_CRC_CNT : Fld := ⟨0x20104, 0, 16, 0⟩
/-- RXF_CL_CTRL [16+:1] RWL, reset 1. -/
abbrev F.RXF_CL_CTRL_SHADOW_SCOPE (i : Nat) : Fld := ⟨(0x40000 + 0x1000 * i), 16, 1, 1⟩
/-- RXF_CL_CTRL [12+:4] RW, reset 0x4. -/
abbrev F.RXF_CL_CTRL_AR_WIN (i : Nat) : Fld := ⟨(0x40000 + 0x1000 * i), 12, 4, 0x4⟩
/-- RXF_CL_CTRL [8+:4] RW, reset 0x2. -/
abbrev F.RXF_CL_CTRL_AR_SAT (i : Nat) : Fld := ⟨(0x40000 + 0x1000 * i), 8, 4, 0x2⟩
/-- RXF_CL_CTRL [1+:1] RW, reset 1. -/
abbrev F.RXF_CL_CTRL_IMP_EN (i : Nat) : Fld := ⟨(0x40000 + 0x1000 * i), 1, 1, 1⟩
/-- RXF_CL_CTRL [0+:1] RWL, reset 1. -/
abbrev F.RXF_CL_CTRL_CL_EN (i : Nat) : Fld := ⟨(0x40000 + 0x1000 * i), 0, 1, 1⟩
/-- RXF_CL_STATUS [2+:1] RO, reset 0. -/
abbrev F.RXF_CL_STATUS_SPARED (i : Nat) : Fld := ⟨(0x40004 + 0x1000 * i), 2, 1, 0⟩
/-- RXF_CL_STATUS [1+:1] RO, reset 0. -/
abbrev F.RXF_CL_STATUS_WITHDRAWN (i : Nat) : Fld := ⟨(0x40004 + 0x1000 * i), 1, 1, 0⟩
/-- RXF_CL_STATUS [0+:1] RO, reset 0. -/
abbrev F.RXF_CL_STATUS_FE_FAULT (i : Nat) : Fld := ⟨(0x40004 + 0x1000 * i), 0, 1, 0⟩
/-- RXF_CH_EN [0+:64] RWL, reset 0xFFFF_FFFF in each half. -/
abbrev F.RXF_CH_EN (i : Nat) : Fld := ⟨(0x40008 + 0x1000 * i), 0, 64, 0xFFFFFFFFFFFFFFFF⟩
/-- RXF_CH_FAIL [0+:64] RO, reset 0. -/
abbrev F.RXF_CH_FAIL (i : Nat) : Fld := ⟨(0x40010 + 0x1000 * i), 0, 64, 0⟩
/-- RXF_SHADOW_CNT [0+:32] RO, reset 0. -/
abbrev F.RXF_SHADOW_CNT (i : Nat) : Fld := ⟨(0x40024 + 0x1000 * i), 0, 32, 0⟩
/-- RXF_CH_CFG [24+:2] RWL, reset 0b00. -/
abbrev F.RXF_CH_CFG_EDGE_MODE (i : Nat) (j : Nat) : Fld := ⟨(0x40100 + 0x1000 * i + 0x4 * j), 24, 2, 0b00⟩
/-- RXF_CH_CFG [16+:8] RWL, reset 0xC0. -/
abbrev F.RXF_CH_CFG_T1 (i : Nat) (j : Nat) : Fld := ⟨(0x40100 + 0x1000 * i + 0x4 * j), 16, 8, 0xC0⟩
/-- RXF_CH_CFG [8+:8] RWL, reset 0x20. -/
abbrev F.RXF_CH_CFG_T0 (i : Nat) (j : Nat) : Fld := ⟨(0x40100 + 0x1000 * i + 0x4 * j), 8, 8, 0x20⟩
/-- RXF_CH_CFG [4+:1] RW, reset 1. -/
abbrev F.RXF_CH_CFG_AR_EN (i : Nat) (j : Nat) : Fld := ⟨(0x40100 + 0x1000 * i + 0x4 * j), 4, 1, 1⟩
/-- RXF_CH_CFG [0+:2] RW, reset 0b10. -/
abbrev F.RXF_CH_CFG_RANGE (i : Nat) (j : Nat) : Fld := ⟨(0x40100 + 0x1000 * i + 0x4 * j), 0, 2, 0b10⟩
/-- RXF_CH_STAT [16+:16] RO, reset 0. -/
abbrev F.RXF_CH_STAT_SAT_CNT (i : Nat) (j : Nat) : Fld := ⟨(0x40200 + 0x1000 * i + 0x4 * j), 16, 16, 0⟩
/-- RXF_CH_STAT [7+:1] RO, reset 0. -/
abbrev F.RXF_CH_STAT_THR_ERR (i : Nat) (j : Nat) : Fld := ⟨(0x40200 + 0x1000 * i + 0x4 * j), 7, 1, 0⟩
/-- RXF_CH_STAT [6+:1] RO, reset 0. -/
abbrev F.RXF_CH_STAT_RANGE_PEND (i : Nat) (j : Nat) : Fld := ⟨(0x40200 + 0x1000 * i + 0x4 * j), 6, 1, 0⟩
/-- RXF_CH_STAT [0+:2] RO, reset 0b10. -/
abbrev F.RXF_CH_STAT_RANGE_NOW (i : Nat) (j : Nat) : Fld := ⟨(0x40200 + 0x1000 * i + 0x4 * j), 0, 2, 0b10⟩
/-- RXF_IMP [31+:1] RO, reset 0. -/
abbrev F.RXF_IMP_VALID (i : Nat) (j : Nat) : Fld := ⟨(0x40300 + 0x1000 * i + 0x4 * j), 31, 1, 0⟩
/-- RXF_IMP [30+:1] RO, reset 0. -/
abbrev F.RXF_IMP_PASS (i : Nat) (j : Nat) : Fld := ⟨(0x40300 + 0x1000 * i + 0x4 * j), 30, 1, 0⟩
/-- RXF_IMP [16+:12] RO, reset 0. -/
abbrev F.RXF_IMP_LEAK (i : Nat) (j : Nat) : Fld := ⟨(0x40300 + 0x1000 * i + 0x4 * j), 16, 12, 0⟩
/-- RXF_IMP [0+:12] RO, reset 0. -/
abbrev F.RXF_IMP_CAP (i : Nat) (j : Nat) : Fld := ⟨(0x40300 + 0x1000 * i + 0x4 * j), 0, 12, 0⟩
/-- RXF_SPARE_CTRL [0+:1] RW, reset 1. -/
abbrev F.RXF_SPARE_CTRL : Fld := ⟨0x51000, 0, 1, 1⟩
/-- RXF_SPARE_STATUS [8+:16] RO, reset 0. -/
abbrev F.RXF_SPARE_STATUS_ENGAGE_CNT : Fld := ⟨0x51004, 8, 16, 0⟩
/-- RXF_SPARE_STATUS [4+:4] RO, reset 0x0. -/
abbrev F.RXF_SPARE_STATUS_ROUTE : Fld := ⟨0x51004, 4, 4, 0x0⟩
/-- RXF_SPARE_STATUS [0+:3] RO, reset 0b000. -/
abbrev F.RXF_SPARE_STATUS_PHASE : Fld := ⟨0x51004, 0, 3, 0b000⟩
/-- RXF_IMP_CFG [16+:12] RWL, reset 0x064. -/
abbrev F.RXF_IMP_CFG_LEAK_MAX : Fld := ⟨0x51010, 16, 12, 0x064⟩
/-- RXF_IMP_CFG [0+:4] RW, reset 0xF. -/
abbrev F.RXF_IMP_CFG_GROUP_EN : Fld := ⟨0x51010, 0, 4, 0xF⟩
/-- RXF_IMP_STATUS [31+:1] RO, reset 0. -/
abbrev F.RXF_IMP_STATUS_BUSY : Fld := ⟨0x51014, 31, 1, 0⟩
/-- RXF_IMP_STATUS [30+:1] RO, reset 0. -/
abbrev F.RXF_IMP_STATUS_PEND : Fld := ⟨0x51014, 30, 1, 0⟩
/-- RXF_IMP_STATUS [0+:17] RO, reset 0. -/
abbrev F.RXF_IMP_STATUS_FAIL_MASK : Fld := ⟨0x51014, 0, 17, 0⟩
/-- RXF_APDB_CFG [24+:8] RWL, reset 0x00. -/
abbrev F.RXF_APDB_CFG_TC : Fld := ⟨0x51020, 24, 8, 0x00⟩
/-- RXF_APDB_CFG [12+:12] RWL, reset 0xFFF. -/
abbrev F.RXF_APDB_CFG_LIMIT : Fld := ⟨0x51020, 12, 12, 0xFFF⟩
/-- RXF_APDB_CFG [0+:12] RWL, reset 0x000. -/
abbrev F.RXF_APDB_CFG_TARGET : Fld := ⟨0x51020, 0, 12, 0x000⟩
/-- RXF_APDB_CTRL [8+:1] RW, reset 0. -/
abbrev F.RXF_APDB_CTRL_EN : Fld := ⟨0x51024, 8, 1, 0⟩
/-- RXF_APDB_CTRL [0+:8] RW, reset 0x80. -/
abbrev F.RXF_APDB_CTRL_DMAX : Fld := ⟨0x51024, 0, 8, 0x80⟩
/-- RXF_APDB_STAT [31+:1] W1C, reset 0. -/
abbrev F.RXF_APDB_STAT_OV : Fld := ⟨0x51028, 31, 1, 0⟩
/-- RXF_APDB_STAT [30+:1] W1C, reset 0. -/
abbrev F.RXF_APDB_STAT_OPEN : Fld := ⟨0x51028, 30, 1, 0⟩
/-- RXF_APDB_STAT [29+:1] RO, reset 0. -/
abbrev F.RXF_APDB_STAT_SETTLED : Fld := ⟨0x51028, 29, 1, 0⟩
/-- RXF_APDB_STAT [20+:8] RO, reset 0x00. -/
abbrev F.RXF_APDB_STAT_DUTY : Fld := ⟨0x51028, 20, 8, 0x00⟩
/-- RXF_APDB_STAT [0+:12] RO, reset 0x000. -/
abbrev F.RXF_APDB_STAT_SENSE : Fld := ⟨0x51028, 0, 12, 0x000⟩
/-- RXF_OBS [31+:1] RW, reset 0. -/
abbrev F.RXF_OBS_PIN (i : Nat) : Fld := ⟨(0x51100 + 0x4 * i), 31, 1, 0⟩
/-- RXF_OBS [30+:1] RO, reset 0. -/
abbrev F.RXF_OBS_ENGINE (i : Nat) : Fld := ⟨(0x51100 + 0x4 * i), 30, 1, 0⟩
/-- RXF_OBS [24+:4] RW, reset 0x4. -/
abbrev F.RXF_OBS_NAVG (i : Nat) : Fld := ⟨(0x51100 + 0x4 * i), 24, 4, 0x4⟩
/-- RXF_OBS [16+:8] RW, reset 0x00. -/
abbrev F.RXF_OBS_OFFSET (i : Nat) : Fld := ⟨(0x51100 + 0x4 * i), 16, 8, 0x00⟩
/-- RXF_OBS [0+:10] RW, reset 0x000. -/
abbrev F.RXF_OBS_CHANNEL (i : Nat) : Fld := ⟨(0x51100 + 0x4 * i), 0, 10, 0x000⟩
/-- RXF_WS_DONE [0+:32] W1C, reset 0. -/
abbrev F.RXF_WS_DONE : Fld := ⟨0x51200, 0, 32, 0⟩
/-- RXF_WS_ACC [0+:20] RO, reset 0. -/
abbrev F.RXF_WS_ACC (i : Nat) (j : Nat) : Fld := ⟨(0x58000 + 0x400 * i + 0x4 * j), 0, 20, 0⟩
/-- TDC_ZERO [0+:17] RWL, reset 0x0_0000. -/
abbrev F.TDC_ZERO : Fld := ⟨0x60000, 0, 17, 0x00000⟩
/-- TDC_DEVTIME [0+:64] RO, reset 0. -/
abbrev F.TDC_DEVTIME : Fld := ⟨0x60010, 0, 64, 0⟩
/-- TDC_PPS_CFG [31+:1] W1S, reset 0. -/
abbrev F.TDC_PPS_CFG_ALIGN : Fld := ⟨0x60020, 31, 1, 0⟩
/-- TDC_PPS_CFG [30+:1] RW, reset 0. -/
abbrev F.TDC_PPS_CFG_EN : Fld := ⟨0x60020, 30, 1, 0⟩
/-- TDC_PPS_CFG [0+:24] RW, reset 0x00_1F40. -/
abbrev F.TDC_PPS_CFG_TOL : Fld := ⟨0x60020, 0, 24, 0x001F40⟩
/-- TDC_PPS_NEXT [0+:64] RW, reset 0. -/
abbrev F.TDC_PPS_NEXT : Fld := ⟨0x60028, 0, 64, 0⟩
/-- TDC_PPS_CAPT [0+:64] RO, reset 0. -/
abbrev F.TDC_PPS_CAPT : Fld := ⟨0x60030, 0, 64, 0⟩
/-- TDC_PPS_STATUS [16+:16] RO, reset 0. -/
abbrev F.TDC_PPS_STATUS_REJ_CNT : Fld := ⟨0x60038, 16, 16, 0⟩
/-- TDC_PPS_STATUS [3+:1] W1C, reset 0. -/
abbrev F.TDC_PPS_STATUS_STEP_REFUSED : Fld := ⟨0x60038, 3, 1, 0⟩
/-- TDC_PPS_STATUS [2+:1] RO, reset 0. -/
abbrev F.TDC_PPS_STATUS_LOST : Fld := ⟨0x60038, 2, 1, 0⟩
/-- TDC_PPS_STATUS [1+:1] RO, reset 0. -/
abbrev F.TDC_PPS_STATUS_ALIGNED : Fld := ⟨0x60038, 1, 1, 0⟩
/-- TDC_PPS_STATUS [0+:1] W1C, reset 0. -/
abbrev F.TDC_PPS_STATUS_EDGE : Fld := ⟨0x60038, 0, 1, 0⟩
/-- TDC_PPS_ERR [0+:32] RO, reset 0. -/
abbrev F.TDC_PPS_ERR : Fld := ⟨0x6003C, 0, 32, 0⟩
/-- TDC_WIN_PROF [16+:11] RWL, reset 0x666. -/
abbrev F.TDC_WIN_PROF_END (i : Nat) : Fld := ⟨(0x60100 + 0x4 * i), 16, 11, 0x666⟩
/-- TDC_WIN_PROF [0+:11] RWL, reset 0x000. -/
abbrev F.TDC_WIN_PROF_START (i : Nat) : Fld := ⟨(0x60100 + 0x4 * i), 0, 11, 0x000⟩
/-- TDC_FM_CTRL [31+:1] W1S, reset 0; 1 for e = 2, 3. -/
abbrev F.TDC_FM_CTRL_START (i : Nat) : Fld := ⟨(0x60200 + 0x40 * i), 31, 1, (if 2 ≤ i then 1 else 0)⟩
/-- TDC_FM_CTRL [30+:1] RW, reset 0; 1 for e = 2, 3. -/
abbrev F.TDC_FM_CTRL_CONT (i : Nat) : Fld := ⟨(0x60200 + 0x40 * i), 30, 1, (if 2 ≤ i then 1 else 0)⟩
/-- TDC_FM_CTRL [28+:2] RW, reset 0b00; 0b01 for e = 3. -/
abbrev F.TDC_FM_CTRL_MODE (i : Nat) : Fld := ⟨(0x60200 + 0x40 * i), 28, 2, (if i = 3 then 1 else 0)⟩
/-- TDC_FM_CTRL [26+:2] RW, reset 0b00; 0b11 for e = 2, 0b10 for e = 3. -/
abbrev F.TDC_FM_CTRL_GATE (i : Nat) : Fld := ⟨(0x60200 + 0x40 * i), 26, 2, (if i = 2 then 3 else if i = 3 then 2 else 0)⟩
/-- TDC_FM_CTRL [21+:5] RW, reset 0x00; 0x09 for e = 2, 0x0A for e = 3. -/
abbrev F.TDC_FM_CTRL_SRC (i : Nat) : Fld := ⟨(0x60200 + 0x40 * i), 21, 5, (if i = 2 then 0x09 else if i = 3 then 0x0A else 0)⟩
/-- TDC_FM_CTRL [10+:11] RW, reset 0x000. -/
abbrev F.TDC_FM_CTRL_SEL (i : Nat) : Fld := ⟨(0x60200 + 0x40 * i), 10, 11, 0x000⟩
/-- TDC_FM_CTRL [0+:10] RW, reset 0x000. -/
abbrev F.TDC_FM_CTRL_DIV (i : Nat) : Fld := ⟨(0x60200 + 0x40 * i), 0, 10, 0x000⟩
/-- TDC_FM_NOMINAL [0+:32] RW, reset 0; 0x00F4_2400 for e = 2. -/
abbrev F.TDC_FM_NOMINAL (i : Nat) : Fld := ⟨(0x60204 + 0x40 * i), 0, 32, (if i = 2 then 0x00F42400 else 0)⟩
/-- TDC_FM_HINT [0+:32] RW, reset 0. -/
abbrev F.TDC_FM_HINT (i : Nat) : Fld := ⟨(0x60208 + 0x40 * i), 0, 32, 0⟩
/-- TDC_FM_PERIOD [0+:16] RO, reset 0. -/
abbrev F.TDC_FM_PERIOD_PERIOD_FRAC (i : Nat) : Fld := ⟨(0x60210 + 0x40 * i), 0, 16, 0⟩
/-- TDC_FM_PERIOD [16+:48] RO, reset 0. -/
abbrev F.TDC_FM_PERIOD_PERIOD_INT (i : Nat) : Fld := ⟨(0x60210 + 0x40 * i), 16, 48, 0⟩
/-- TDC_FM_PPB [0+:32] RO, reset 0. -/
abbrev F.TDC_FM_PPB (i : Nat) : Fld := ⟨(0x60218 + 0x40 * i), 0, 32, 0⟩
/-- TDC_FM_RESID [0+:16] RO, reset 0. -/
abbrev F.TDC_FM_RESID (i : Nat) : Fld := ⟨(0x6021C + 0x40 * i), 0, 16, 0⟩
/-- TDC_FM_COUNT [0+:24] RO, reset 0. -/
abbrev F.TDC_FM_COUNT (i : Nat) : Fld := ⟨(0x60220 + 0x40 * i), 0, 24, 0⟩
/-- TDC_FM_REJECT [16+:16] RO, reset 0. -/
abbrev F.TDC_FM_REJECT_SKIP (i : Nat) : Fld := ⟨(0x60224 + 0x40 * i), 16, 16, 0⟩
/-- TDC_FM_REJECT [0+:16] RO, reset 0. -/
abbrev F.TDC_FM_REJECT_REJ (i : Nat) : Fld := ⟨(0x60224 + 0x40 * i), 0, 16, 0⟩
/-- TDC_FM_STATUS [31+:1] RO, reset 0. -/
abbrev F.TDC_FM_STATUS_VALID (i : Nat) : Fld := ⟨(0x60228 + 0x40 * i), 31, 1, 0⟩
/-- TDC_FM_STATUS [30+:1] RO, reset 0. -/
abbrev F.TDC_FM_STATUS_REF_SWITCH (i : Nat) : Fld := ⟨(0x60228 + 0x40 * i), 30, 1, 0⟩
/-- TDC_FM_STATUS [29+:1] RO, reset 0. -/
abbrev F.TDC_FM_STATUS_TOO_FEW (i : Nat) : Fld := ⟨(0x60228 + 0x40 * i), 29, 1, 0⟩
/-- TDC_FM_STATUS [0+:1] W1C, reset 0. -/
abbrev F.TDC_FM_STATUS_DONE (i : Nat) : Fld := ⟨(0x60228 + 0x40 * i), 0, 1, 0⟩
/-- TDC_FIRE_CFG [31+:1] RWL, reset 1. -/
abbrev F.TDC_FIRE_CFG_EN : Fld := ⟨0x60300, 31, 1, 1⟩
/-- TDC_FIRE_CFG [0+:16] RWL, reset 0x01F4. -/
abbrev F.TDC_FIRE_CFG_TOL : Fld := ⟨0x60300, 0, 16, 0x01F4⟩
/-- TDC_CH_CNT [16+:16] RO, reset 0. -/
abbrev F.TDC_CH_CNT_DEAD_CNT (i : Nat) : Fld := ⟨(0x61000 + 0x4 * i), 16, 16, 0⟩
/-- TDC_CH_CNT [0+:16] RO, reset 0. -/
abbrev F.TDC_CH_CNT_DROP_CNT (i : Nat) : Fld := ⟨(0x61000 + 0x4 * i), 0, 16, 0⟩
/-- HGE_CTRL [8+:1] RWL, reset 1. -/
abbrev F.HGE_CTRL_WALK_EN : Fld := ⟨0x70000, 8, 1, 1⟩
/-- HGE_CTRL [6+:2] RWL, reset 0b10. -/
abbrev F.HGE_CTRL_PART_MODE : Fld := ⟨0x70000, 6, 2, 0b10⟩
/-- HGE_CTRL [5+:1] RWL, reset 0. -/
abbrev F.HGE_CTRL_PEAK_ORDER : Fld := ⟨0x70000, 5, 1, 0⟩
/-- HGE_CTRL [4+:1] RW, reset 0. -/
abbrev F.HGE_CTRL_EMPTY_REC : Fld := ⟨0x70000, 4, 1, 0⟩
/-- HGE_CTRL [0+:1] RWL, reset 1. -/
abbrev F.HGE_CTRL_PACKED : Fld := ⟨0x70000, 0, 1, 1⟩
/-- HGE_STATUS [23+:1] W1C, reset 0. -/
abbrev F.HGE_STATUS_CODE_ERR : Fld := ⟨0x70004, 23, 1, 0⟩
/-- HGE_STATUS [22+:1] RO, reset 0. -/
abbrev F.HGE_STATUS_REFUSING : Fld := ⟨0x70004, 22, 1, 0⟩
/-- HGE_STATUS [21+:1] RO, reset 0. -/
abbrev F.HGE_STATUS_BACKLOG : Fld := ⟨0x70004, 21, 1, 0⟩
/-- HGE_STATUS [0+:18] RO, reset 0. -/
abbrev F.HGE_STATUS_OPEN_CELLS : Fld := ⟨0x70004, 0, 18, 0⟩
/-- HGE_CODE_EN [0+:16] RWL, reset 0xFFFF. -/
abbrev F.HGE_CODE_EN : Fld := ⟨0x70008, 0, 16, 0xFFFF⟩
/-- HGE_DITHER [0+:9] RWL, reset 0x190. -/
abbrev F.HGE_DITHER : Fld := ⟨0x7000C, 0, 9, 0x190⟩
/-- HGE_SEED [0+:64] RWL, reset Per-device value from provisioning. -/
abbrev F.HGE_SEED : Fld := ⟨0x70010, 0, 64, Config.hgeSeed⟩
/-- HGE_PSEED [0+:64] RO, reset 0. -/
abbrev F.HGE_PSEED : Fld := ⟨0x70018, 0, 64, 0⟩
/-- HGE_DET [24+:8] RWL, reset 0x20. -/
abbrev F.HGE_DET_GHOST_RATIO : Fld := ⟨0x70020, 24, 8, 0x20⟩
/-- HGE_DET [16+:8] RWL, reset 0x10. -/
abbrev F.HGE_DET_AMB_FLOOR : Fld := ⟨0x70020, 16, 8, 0x10⟩
/-- HGE_DET [8+:8] RWL, reset 0x03. -/
abbrev F.HGE_DET_MIN_CNT : Fld := ⟨0x70020, 8, 8, 0x03⟩
/-- HGE_DET [0+:8] RWL, reset 0x50. -/
abbrev F.HGE_DET_K : Fld := ⟨0x70020, 0, 8, 0x50⟩
/-- HGE_PART0 [20+:8] RWL, reset 0x18. -/
abbrev F.HGE_PART0_SPREAD_MIN : Fld := ⟨0x70024, 20, 8, 0x18⟩
/-- HGE_PART0 [8+:12] RWL, reset 0x200. -/
abbrev F.HGE_PART0_INT_MAX : Fld := ⟨0x70024, 8, 12, 0x200⟩
/-- HGE_PART0 [0+:8] RWL, reset 0x50. -/
abbrev F.HGE_PART0_RANGE_MAX : Fld := ⟨0x70024, 0, 8, 0x50⟩
/-- HGE_PART1 [8+:4] RW, reset 0x5. -/
abbrev F.HGE_PART1_NAVG_MAX : Fld := ⟨0x70028, 8, 4, 0x5⟩
/-- HGE_PART1 [0+:8] RWL, reset 0x0C. -/
abbrev F.HGE_PART1_FWHM_MIN : Fld := ⟨0x70028, 0, 8, 0x0C⟩
/-- HGE_CNT_REFUSE [0+:32] RO, reset 0. -/
abbrev F.HGE_CNT_REFUSE : Fld := ⟨0x70030, 0, 32, 0⟩
/-- HGE_CNT_ORPHAN [0+:32] RO, reset 0. -/
abbrev F.HGE_CNT_ORPHAN : Fld := ⟨0x70034, 0, 32, 0⟩
/-- HGE_CNT_SHAPE [16+:16] RO, reset 0. -/
abbrev F.HGE_CNT_SHAPE_MISS : Fld := ⟨0x70038, 16, 16, 0⟩
/-- HGE_CNT_SHAPE [0+:16] RO, reset 0. -/
abbrev F.HGE_CNT_SHAPE_RUN : Fld := ⟨0x70038, 0, 16, 0⟩
/-- HGE_CODE_TAB [24+:6] RWL, reset 0. -/
abbrev F.HGE_CODE_TAB_O3 (i : Nat) : Fld := ⟨(0x70040 + 0x4 * i), 24, 6, 0⟩
/-- HGE_CODE_TAB [16+:6] RWL, reset 0. -/
abbrev F.HGE_CODE_TAB_O2 (i : Nat) : Fld := ⟨(0x70040 + 0x4 * i), 16, 6, 0⟩
/-- HGE_CODE_TAB [8+:6] RWL, reset 0. -/
abbrev F.HGE_CODE_TAB_O1 (i : Nat) : Fld := ⟨(0x70040 + 0x4 * i), 8, 6, 0⟩
/-- HGE_CODE_TAB [0+:2] RWL, reset 0b00. -/
abbrev F.HGE_CODE_TAB_DEPTH (i : Nat) : Fld := ⟨(0x70040 + 0x4 * i), 0, 2, 0b00⟩
/-- HGE_PROF [8+:1] RWL, reset 0. -/
abbrev F.HGE_PROF_PRE_POS (i : Nat) : Fld := ⟨(0x70100 + 0x4 * i), 8, 1, 0⟩
/-- HGE_PROF [4+:4] RWL, reset 0x3. -/
abbrev F.HGE_PROF_PRE (i : Nat) : Fld := ⟨(0x70100 + 0x4 * i), 4, 4, 0x3⟩
/-- HGE_PROF [0+:2] RWL, reset 0b01. -/
abbrev F.HGE_PROF_BW (i : Nat) : Fld := ⟨(0x70100 + 0x4 * i), 0, 2, 0b01⟩
/-- HGE_WALK [0+:16] RO, reset 0. -/
abbrev F.HGE_WALK (i : Nat) (j : Nat) : Fld := ⟨(0x70400 + 0x100 * i + 0x4 * j), 0, 16, 0⟩
/-- HGE_TOT_LUT [0+:12] RO, reset t × 8, limited to 4,095. -/
abbrev F.HGE_TOT_LUT (i : Nat) (j : Nat) : Fld := ⟨(0x72000 + 0x800 * i + 0x4 * j), 0, 12, (min (8 * j) 4095)⟩
/-- HGE_RING_BASE [0+:64] RO, reset 0. -/
abbrev F.HGE_RING_BASE (i : Nat) : Fld := ⟨(0x70800 + 0x40 * i), 0, 64, 0⟩
/-- HGE_RING_CFG [12+:20] RO, reset 0. -/
abbrev F.HGE_RING_CFG_SIZE (i : Nat) : Fld := ⟨(0x70808 + 0x40 * i), 12, 20, 0⟩
/-- HGE_RING_CFG [0+:1] RO, reset 0. -/
abbrev F.HGE_RING_CFG_FUSED (i : Nat) : Fld := ⟨(0x70808 + 0x40 * i), 0, 1, 0⟩
/-- HGE_RING_WPTR [0+:32] RO, reset 0. -/
abbrev F.HGE_RING_WPTR (i : Nat) : Fld := ⟨(0x7080C + 0x40 * i), 0, 32, 0⟩
/-- HGE_RING_LAP [0+:32] RO, reset 0. -/
abbrev F.HGE_RING_LAP (i : Nat) : Fld := ⟨(0x70810 + 0x40 * i), 0, 32, 0⟩
/-- HGE_RING_RPTR [0+:32] RW, reset 0. -/
abbrev F.HGE_RING_RPTR (i : Nat) : Fld := ⟨(0x70814 + 0x40 * i), 0, 32, 0⟩
/-- HGE_RING_WMARK [0+:32] RW, reset 0x0001_0000. -/
abbrev F.HGE_RING_WMARK (i : Nat) : Fld := ⟨(0x70818 + 0x40 * i), 0, 32, 0x00010000⟩
/-- HGE_RING_WB [3+:61] RW, reset 0. -/
abbrev F.HGE_RING_WB (i : Nat) : Fld := ⟨(0x7081C + 0x40 * i), 3, 61, 0⟩
/-- HGE_RING_STATUS [2+:1] W1C, reset 0. -/
abbrev F.HGE_RING_STATUS_PTR_ERR (i : Nat) : Fld := ⟨(0x70824 + 0x40 * i), 2, 1, 0⟩
/-- HGE_RING_STATUS [1+:1] RO, reset 0. -/
abbrev F.HGE_RING_STATUS_BACKLOG (i : Nat) : Fld := ⟨(0x70824 + 0x40 * i), 1, 1, 0⟩
/-- HGE_RING_STATUS [0+:1] W1C, reset 0. -/
abbrev F.HGE_RING_STATUS_WMARK_HIT (i : Nat) : Fld := ⟨(0x70824 + 0x40 * i), 0, 1, 0⟩
/-- YRD_CTRL [1+:1] RW, reset 1. -/
abbrev F.YRD_CTRL_FAR_PAGE_EN : Fld := ⟨0x80000, 1, 1, 1⟩
/-- YRD_CTRL [0+:1] RW, reset 1. -/
abbrev F.YRD_CTRL_PROMOTE_EN : Fld := ⟨0x80000, 0, 1, 1⟩
/-- YRD_CAP [31+:1] RO, reset 0. -/
abbrev F.YRD_CAP_NEAR_OFF : Fld := ⟨0x80004, 31, 1, 0⟩
/-- YRD_CAP [24+:5] RO, reset 0x19. -/
abbrev F.YRD_CAP_MAP_LOG2_NOW : Fld := ⟨0x80004, 24, 5, 0x19⟩
/-- YRD_CAP [0+:18] RO, reset 0. -/
abbrev F.YRD_CAP_NEAR_STALLS : Fld := ⟨0x80004, 0, 18, 0⟩
/-- YRD_MAP_CFG [0+:5] RW, reset 0x19. -/
abbrev F.YRD_MAP_CFG : Fld := ⟨0x80008, 0, 5, 0x19⟩
/-- YRD_LOFT_WM [20+:10] RW, reset 0x28D. -/
abbrev F.YRD_LOFT_WM_LOFT_HWM : Fld := ⟨0x8000C, 20, 10, 0x28D⟩
/-- YRD_LOFT_WM [10+:10] RW, reset 0x266. -/
abbrev F.YRD_LOFT_WM_LOFT_BG : Fld := ⟨0x8000C, 10, 10, 0x266⟩
/-- YRD_LOFT_WM [0+:10] RW, reset 0x21A. -/
abbrev F.YRD_LOFT_WM_LOFT_LWM : Fld := ⟨0x8000C, 0, 10, 0x21A⟩
/-- YRD_NEAR_WM [0+:7] RW, reset 0x5F. -/
abbrev F.YRD_NEAR_WM : Fld := ⟨0x80010, 0, 7, 0x5F⟩
/-- YRD_PIN_CFG [0+:10] RW, reset 0x080. -/
abbrev F.YRD_PIN_CFG : Fld := ⟨0x80014, 0, 10, 0x080⟩
/-- YRD_STATUS [2+:1] W1C, reset 0. -/
abbrev F.YRD_STATUS_FAR_GONE : Fld := ⟨0x80018, 2, 1, 0⟩
/-- YRD_STATUS [1+:1] RO, reset 0. -/
abbrev F.YRD_STATUS_NEAR_FULL : Fld := ⟨0x80018, 1, 1, 0⟩
/-- YRD_STATUS [0+:1] RO, reset 0. -/
abbrev F.YRD_STATUS_SYNC_EVICT : Fld := ⟨0x80018, 0, 1, 0⟩
/-- YRD_LOFT_USE [16+:10] RO, reset 0. -/
abbrev F.YRD_LOFT_USE_PINNED : Fld := ⟨0x80020, 16, 10, 0⟩
/-- YRD_LOFT_USE [0+:10] RO, reset 0. -/
abbrev F.YRD_LOFT_USE_USED : Fld := ⟨0x80020, 0, 10, 0⟩
/-- YRD_NEAR_USE [0+:18] RO, reset 0. -/
abbrev F.YRD_NEAR_USE : Fld := ⟨0x80024, 0, 18, 0⟩
/-- YRD_NEAR_HELD [0+:18] RO, reset 0. -/
abbrev F.YRD_NEAR_HELD : Fld := ⟨0x80028, 0, 18, 0⟩
/-- YRD_FAR_USE [0+:25] RO, reset 0. -/
abbrev F.YRD_FAR_USE : Fld := ⟨0x8002C, 0, 25, 0⟩
/-- YRD_PROG_NEED [0+:18] RO, reset 0. -/
abbrev F.YRD_PROG_NEED : Fld := ⟨0x80030, 0, 18, 0⟩
/-- YRD_CNT_EVICT [0+:32] RO, reset 0. -/
abbrev F.YRD_CNT_EVICT : Fld := ⟨0x80040, 0, 32, 0⟩
/-- YRD_CNT_PAGEOUT [0+:32] RO, reset 0. -/
abbrev F.YRD_CNT_PAGEOUT : Fld := ⟨0x80044, 0, 32, 0⟩
/-- YRD_CNT_PAGEIN [0+:32] RO, reset 0. -/
abbrev F.YRD_CNT_PAGEIN : Fld := ⟨0x80048, 0, 32, 0⟩
/-- YRD_CNT_PROMOTE [0+:32] RO, reset 0. -/
abbrev F.YRD_CNT_PROMOTE : Fld := ⟨0x8004C, 0, 32, 0⟩
/-- YRD_CNT_DEFER [0+:32] RO, reset 0. -/
abbrev F.YRD_CNT_DEFER : Fld := ⟨0x80050, 0, 32, 0⟩
/-- YRD_CNT_SYNC [0+:32] RO, reset 0. -/
abbrev F.YRD_CNT_SYNC : Fld := ⟨0x80054, 0, 32, 0⟩
/-- YRD_FAR_LOST [0+:32] RO, reset 0. -/
abbrev F.YRD_FAR_LOST : Fld := ⟨0x80058, 0, 32, 0⟩
/-- YRD_TLB_HIT [0+:32] RO, reset 0. -/
abbrev F.YRD_TLB_HIT : Fld := ⟨0x80060, 0, 32, 0⟩
/-- YRD_TLB_MISS [0+:32] RO, reset 0. -/
abbrev F.YRD_TLB_MISS : Fld := ⟨0x80064, 0, 32, 0⟩
/-- YRD_ECC [16+:16] RO, reset 0. -/
abbrev F.YRD_ECC_UNCORR : Fld := ⟨0x80068, 16, 16, 0⟩
/-- YRD_ECC [0+:16] RO, reset 0. -/
abbrev F.YRD_ECC_CORR : Fld := ⟨0x80068, 0, 16, 0⟩
/-- YRD_RETIRED [16+:16] RO, reset 0. -/
abbrev F.YRD_RETIRED_NEAR : Fld := ⟨0x8006C, 16, 16, 0⟩
/-- YRD_RETIRED [0+:10] RO, reset 0. -/
abbrev F.YRD_RETIRED_LOFT : Fld := ⟨0x8006C, 0, 10, 0⟩
/-- YRD_BAR2_SEL [0+:4] RW, reset 0x0. -/
abbrev F.YRD_BAR2_SEL : Fld := ⟨0x80070, 0, 4, 0x0⟩
/-- YRD_GRANT_BASE [16+:48] RO, reset 0. -/
abbrev F.YRD_GRANT_BASE (i : Nat) : Fld := ⟨(0x81000 + 0x20 * i), 16, 48, 0⟩
/-- YRD_GRANT_LEN [0+:25] RO, reset 0. -/
abbrev F.YRD_GRANT_LEN (i : Nat) : Fld := ⟨(0x81008 + 0x20 * i), 0, 25, 0⟩
/-- YRD_GRANT_STAT [31+:1] RO, reset 0. -/
abbrev F.YRD_GRANT_STAT_VALID (i : Nat) : Fld := ⟨(0x8100C + 0x20 * i), 31, 1, 0⟩
/-- YRD_GRANT_STAT [30+:1] RO, reset 0. -/
abbrev F.YRD_GRANT_STAT_DRAINING (i : Nat) : Fld := ⟨(0x8100C + 0x20 * i), 30, 1, 0⟩
/-- YRD_GRANT_STAT [29+:1] RO, reset 0. -/
abbrev F.YRD_GRANT_STAT_FAILED (i : Nat) : Fld := ⟨(0x8100C + 0x20 * i), 29, 1, 0⟩
/-- YRD_GRANT_STAT [24+:4] RO, reset 0x0. -/
abbrev F.YRD_GRANT_STAT_CLASS (i : Nat) : Fld := ⟨(0x8100C + 0x20 * i), 24, 4, 0x0⟩
/-- YRD_GRANT_USED [0+:25] RO, reset 0. -/
abbrev F.YRD_GRANT_USED (i : Nat) : Fld := ⟨(0x81010 + 0x20 * i), 0, 25, 0⟩
/-- SCH_STATUS [12+:20] RO, reset 0. -/
abbrev F.SCH_STATUS_SLOT_NOW : Fld := ⟨0x90000, 12, 20, 0⟩
/-- SCH_STATUS [8+:1] W1C, reset 0. -/
abbrev F.SCH_STATUS_TIMING_ERR : Fld := ⟨0x90000, 8, 1, 0⟩
/-- SCH_STATUS [7+:1] W1C, reset 0. -/
abbrev F.SCH_STATUS_CAP_OVER : Fld := ⟨0x90000, 7, 1, 0⟩
/-- SCH_STATUS [6+:1] RO, reset 0. -/
abbrev F.SCH_STATUS_SHORT_NOW : Fld := ⟨0x90000, 6, 1, 0⟩
/-- SCH_STATUS [5+:1] RO, reset 0. -/
abbrev F.SCH_STATUS_UNSURE : Fld := ⟨0x90000, 5, 1, 0⟩
/-- SCH_STATUS [4+:1] RO, reset 0. -/
abbrev F.SCH_STATUS_SWITCH_PEND : Fld := ⟨0x90000, 4, 1, 0⟩
/-- SCH_STATUS [3+:1] RO, reset 0. -/
abbrev F.SCH_STATUS_PROG1_VALID : Fld := ⟨0x90000, 3, 1, 0⟩
/-- SCH_STATUS [2+:1] RO, reset 0. -/
abbrev F.SCH_STATUS_PROG0_VALID : Fld := ⟨0x90000, 2, 1, 0⟩
/-- SCH_STATUS [1+:1] RO, reset 0. -/
abbrev F.SCH_STATUS_PROG_NOW : Fld := ⟨0x90000, 1, 1, 0⟩
/-- SCH_STATUS [0+:1] RO, reset 0. -/
abbrev F.SCH_STATUS_RUNNING : Fld := ⟨0x90000, 0, 1, 0⟩
/-- SCH_CTRL [8+:8] RWL, reset 0xE0. -/
abbrev F.SCH_CTRL_PC_SHARE : Fld := ⟨0x90004, 8, 8, 0xE0⟩
/-- SCH_CTRL [0+:1] RW, reset 1. -/
abbrev F.SCH_CTRL_CARRY_EN : Fld := ⟨0x90004, 0, 1, 1⟩
/-- SCH_PROG_CRC0 [0+:32] RO, reset 0. -/
abbrev F.SCH_PROG_CRC0 : Fld := ⟨0x90008, 0, 32, 0⟩
/-- SCH_PROG_CRC1 [0+:32] RO, reset 0. -/
abbrev F.SCH_PROG_CRC1 : Fld := ⟨0x9000C, 0, 32, 0⟩
/-- SCH_LOAD_ERR [24+:4] RO, reset 0x0. -/
abbrev F.SCH_LOAD_ERR_CHECK : Fld := ⟨0x90010, 24, 4, 0x0⟩
/-- SCH_LOAD_ERR [0+:22] RO, reset 0. -/
abbrev F.SCH_LOAD_ERR_OFFSET : Fld := ⟨0x90010, 0, 22, 0⟩
/-- SCH_CAP [16+:16] RO, reset 0. -/
abbrev F.SCH_CAP_P_EST : Fld := ⟨0x90020, 16, 16, 0⟩
/-- SCH_CAP [0+:16] RO, reset 0x4E20. -/
abbrev F.SCH_CAP_CAP : Fld := ⟨0x90020, 0, 16, 0x4E20⟩
/-- SCH_PBASE [0+:16] RW, reset 0x20F8. -/
abbrev F.SCH_PBASE : Fld := ⟨0x90024, 0, 16, 0x20F8⟩
/-- SCH_SUPPLY [16+:16] RO, reset 0. -/
abbrev F.SCH_SUPPLY_SUPPLY_NOW : Fld := ⟨0x90028, 16, 16, 0⟩
/-- SCH_SUPPLY [0+:16] RWL, reset 0x9C40. -/
abbrev F.SCH_SUPPLY_SUPPLY_CEIL : Fld := ⟨0x90028, 0, 16, 0x9C40⟩
/-- SCH_CHG_INIT [0+:16] RWL, reset 0x01F4. -/
abbrev F.SCH_CHG_INIT : Fld := ⟨0x9002C, 0, 16, 0x01F4⟩
/-- SCH_EYE_CEIL [0+:32] RWL, reset 0. -/
abbrev F.SCH_EYE_CEIL (i : Nat) : Fld := ⟨(0x90030 + 0x4 * i), 0, 32, 0⟩
/-- SCH_EPULSE [0+:16] RWL, reset 0x0000. -/
abbrev F.SCH_EPULSE (i : Nat) : Fld := ⟨(0x90040 + 0x4 * i), 0, 16, 0x0000⟩
/-- SCH_HEAT_CFG [16+:16] RWL, reset 0x07D0. -/
abbrev F.SCH_HEAT_CFG_TAU (i : Nat) : Fld := ⟨(0x90060 + 0x4 * i), 16, 16, 0x07D0⟩
/-- SCH_HEAT_CFG [0+:16] RWL, reset 0x0320. -/
abbrev F.SCH_HEAT_CFG_RTH (i : Nat) : Fld := ⟨(0x90060 + 0x4 * i), 0, 16, 0x0320⟩
/-- SCH_HEAT_LIM [16+:16] RWL, reset 0x00A0. -/
abbrev F.SCH_HEAT_LIM_T_MARGIN : Fld := ⟨0x90080, 16, 16, 0x00A0⟩
/-- SCH_HEAT_LIM [0+:16] RWL, reset 0x0690. -/
abbrev F.SCH_HEAT_LIM_T_LIMIT : Fld := ⟨0x90080, 0, 16, 0x0690⟩
/-- SCH_LBT_DEFAULT [0+:16] RWL, reset 0x0640. -/
abbrev F.SCH_LBT_DEFAULT : Fld := ⟨0x90084, 0, 16, 0x0640⟩
/-- SCH_BANK_RATE [0+:16] RWL, reset 0x0064. -/
abbrev F.SCH_BANK_RATE : Fld := ⟨0x90088, 0, 16, 0x0064⟩
/-- SCH_BANK_STAT [31+:1] RO, reset 0. -/
abbrev F.SCH_BANK_STAT_WITHDRAWN (i : Nat) : Fld := ⟨(0x900A0 + 0x4 * i), 31, 1, 0⟩
/-- SCH_BANK_STAT [16+:5] RO, reset 0x10. -/
abbrev F.SCH_BANK_STAT_F (i : Nat) : Fld := ⟨(0x900A0 + 0x4 * i), 16, 5, 0x10⟩
/-- SCH_BANK_STAT [0+:16] RO, reset 0. -/
abbrev F.SCH_BANK_STAT_T_MODEL (i : Nat) : Fld := ⟨(0x900A0 + 0x4 * i), 0, 16, 0⟩
/-- SCH_EYE_PEAK [16+:10] RO, reset 0. -/
abbrev F.SCH_EYE_PEAK_CELL (i : Nat) : Fld := ⟨(0x900C0 + 0x4 * i), 16, 10, 0⟩
/-- SCH_EYE_PEAK [0+:16] RO, reset 0. -/
abbrev F.SCH_EYE_PEAK_PEAK (i : Nat) : Fld := ⟨(0x900C0 + 0x4 * i), 0, 16, 0⟩
/-- SCH_CNT_SHORT [0+:32] RO, reset 0. -/
abbrev F.SCH_CNT_SHORT : Fld := ⟨0x90100, 0, 32, 0⟩
/-- SCH_CNT_DEFER [0+:32] RO, reset 0. -/
abbrev F.SCH_CNT_DEFER : Fld := ⟨0x90104, 0, 32, 0⟩
/-- SCH_CNT_IDLE [0+:32] RO, reset 0. -/
abbrev F.SCH_CNT_IDLE : Fld := ⟨0x90108, 0, 32, 0⟩
/-- SCH_CNT_EYE [0+:32] RO, reset 0. -/
abbrev F.SCH_CNT_EYE : Fld := ⟨0x9010C, 0, 32, 0⟩
/-- SCH_CNT_HEAT [0+:32] RO, reset 0. -/
abbrev F.SCH_CNT_HEAT : Fld := ⟨0x90110, 0, 32, 0⟩
/-- SCH_CNT_SUPPLY [0+:32] RO, reset 0. -/
abbrev F.SCH_CNT_SUPPLY : Fld := ⟨0x90114, 0, 32, 0⟩
/-- SCH_CNT_CAP [0+:32] RO, reset 0. -/
abbrev F.SCH_CNT_CAP : Fld := ⟨0x90118, 0, 32, 0⟩
/-- SCH_CNT_CARRY [0+:32] RO, reset 0. -/
abbrev F.SCH_CNT_CARRY : Fld := ⟨0x9011C, 0, 32, 0⟩
/-- EMI_CTRL [8+:1] RW, reset 1. -/
abbrev F.EMI_CTRL_SWEEP_EN : Fld := ⟨0xA0000, 8, 1, 1⟩
/-- EMI_CTRL [0+:4] RWL, reset 0x4. -/
abbrev F.EMI_CTRL_PULSE_W : Fld := ⟨0xA0000, 0, 4, 0x4⟩
/-- EMI_STATUS [3+:1] W1C, reset 0. -/
abbrev F.EMI_STATUS_SWEEP_LATE : Fld := ⟨0xA0004, 3, 1, 0⟩
/-- EMI_STATUS [1+:2] RO, reset 0b00. -/
abbrev F.EMI_STATUS_CAUSE : Fld := ⟨0xA0004, 1, 2, 0b00⟩
/-- EMI_STATUS [0+:1] W1C, reset 0. -/
abbrev F.EMI_STATUS_INHIBIT : Fld := ⟨0xA0004, 0, 1, 0⟩
/-- EMI_ROW_EN [0+:32] RWL, reset 0xFFFF_FFFF. -/
abbrev F.EMI_ROW_EN : Fld := ⟨0xA0008, 0, 32, 0xFFFFFFFF⟩
/-- EMI_COL_EN [0+:32] RWL, reset 0xFFFF_FFFF. -/
abbrev F.EMI_COL_EN : Fld := ⟨0xA000C, 0, 32, 0xFFFFFFFF⟩
/-- EMI_BANK_EN [8+:8] W1S, reset 0x00. -/
abbrev F.EMI_BANK_EN_RETRY : Fld := ⟨0xA0010, 8, 8, 0x00⟩
/-- EMI_BANK_EN [0+:8] RWL, reset 0xFF. -/
abbrev F.EMI_BANK_EN_EN : Fld := ⟨0xA0010, 0, 8, 0xFF⟩
/-- EMI_DIAG_CFG [16+:16] RW, reset 0x0064. -/
abbrev F.EMI_DIAG_CFG_SWEEP_PERIOD : Fld := ⟨0xA0014, 16, 16, 0x0064⟩
/-- EMI_DIAG_CFG [0+:8] RWL, reset 0x96. -/
abbrev F.EMI_DIAG_CFG_RCH_MAX : Fld := ⟨0xA0014, 0, 8, 0x96⟩
/-- EMI_BANK_CFG [12+:12] RWL, reset 0xFFF. -/
abbrev F.EMI_BANK_CFG_VOV (i : Nat) : Fld := ⟨(0xA0040 + 0x4 * i), 12, 12, 0xFFF⟩
/-- EMI_BANK_CFG [0+:12] RWL, reset 0x800. -/
abbrev F.EMI_BANK_CFG_VSET (i : Nat) : Fld := ⟨(0xA0040 + 0x4 * i), 0, 12, 0x800⟩
/-- EMI_BANK_CELL [24+:4] RWL, reset 0x8. -/
abbrev F.EMI_BANK_CELL_SHORT_TH (i : Nat) : Fld := ⟨(0xA0060 + 0x4 * i), 24, 4, 0x8⟩
/-- EMI_BANK_CELL [16+:4] RWL, reset 0x8. -/
abbrev F.EMI_BANK_CELL_OPEN_TH (i : Nat) : Fld := ⟨(0xA0060 + 0x4 * i), 16, 4, 0x8⟩
/-- EMI_BANK_CELL [0+:12] RWL, reset 0x060. -/
abbrev F.EMI_BANK_CELL_CELL_CODE (i : Nat) : Fld := ⟨(0xA0060 + 0x4 * i), 0, 12, 0x060⟩
/-- EMI_BANK_STAT [31+:1] RO, reset 0. -/
abbrev F.EMI_BANK_STAT_WITHDRAWN (i : Nat) : Fld := ⟨(0xA0080 + 0x4 * i), 31, 1, 0⟩
/-- EMI_BANK_STAT [28+:3] RO, reset 0b000. -/
abbrev F.EMI_BANK_STAT_CAUSE (i : Nat) : Fld := ⟨(0xA0080 + 0x4 * i), 28, 3, 0b000⟩
/-- EMI_BANK_STAT [20+:8] RO, reset 0x96. -/
abbrev F.EMI_BANK_STAT_RCH_EST (i : Nat) : Fld := ⟨(0xA0080 + 0x4 * i), 20, 8, 0x96⟩
/-- EMI_BANK_STAT [0+:12] RO, reset 0x000. -/
abbrev F.EMI_BANK_STAT_VLAST (i : Nat) : Fld := ⟨(0xA0080 + 0x4 * i), 0, 12, 0x000⟩
/-- EMI_CELL_FAULT [31+:1] W1C, reset 0. -/
abbrev F.EMI_CELL_FAULT_VALID : Fld := ⟨0xA00A0, 31, 1, 0⟩
/-- EMI_CELL_FAULT [28+:2] RO, reset 0b00. -/
abbrev F.EMI_CELL_FAULT_KIND : Fld := ⟨0xA00A0, 28, 2, 0b00⟩
/-- EMI_CELL_FAULT [0+:10] RO, reset 0x000. -/
abbrev F.EMI_CELL_FAULT_CELL : Fld := ⟨0xA00A0, 0, 10, 0x000⟩
/-- EMI_LBT_CFG [16+:12] RWL, reset 0x400. -/
abbrev F.EMI_LBT_CFG_R0_RATIO (i : Nat) : Fld := ⟨(0xA0100 + 0x4 * i), 16, 12, 0x400⟩
/-- EMI_LBT_CFG [0+:16] RWL, reset 0x0D6B. -/
abbrev F.EMI_LBT_CFG_BETA (i : Nat) : Fld := ⟨(0xA0100 + 0x4 * i), 0, 16, 0x0D6B⟩
/-- EMI_LBT [31+:1] RO, reset 0. -/
abbrev F.EMI_LBT_VALID (i : Nat) : Fld := ⟨(0xA0108 + 0x4 * i), 31, 1, 0⟩
/-- EMI_LBT [16+:12] RO, reset 0x000. -/
abbrev F.EMI_LBT_CODE (i : Nat) : Fld := ⟨(0xA0108 + 0x4 * i), 16, 12, 0x000⟩
/-- EMI_LBT [0+:16] RO, reset 0x0000. -/
abbrev F.EMI_LBT_TEMP (i : Nat) : Fld := ⟨(0xA0108 + 0x4 * i), 0, 16, 0x0000⟩
/-- EMI_FL_CTRL [4+:1] RW, reset 1. -/
abbrev F.EMI_FL_CTRL_DIAG_EN : Fld := ⟨0xA0200, 4, 1, 1⟩
/-- EMI_FL_CTRL [2+:2] RW, reset 0b10. -/
abbrev F.EMI_FL_CTRL_FREQ : Fld := ⟨0xA0200, 2, 2, 0b10⟩
/-- EMI_FL_CTRL [0+:1] RW, reset 0. -/
abbrev F.EMI_FL_CTRL_EN : Fld := ⟨0xA0200, 0, 1, 0⟩
/-- EMI_FL_DUTY [0+:10] RW, reset 0x000. -/
abbrev F.EMI_FL_DUTY (i : Nat) : Fld := ⟨(0xA0204 + 0x4 * i), 0, 10, 0x000⟩
/-- EMI_FL_LIM [16+:12] RWL, reset 0xE00. -/
abbrev F.EMI_FL_LIM_OVER_TH : Fld := ⟨0xA0214, 16, 12, 0xE00⟩
/-- EMI_FL_LIM [0+:12] RWL, reset 0x100. -/
abbrev F.EMI_FL_LIM_OPEN_TH : Fld := ⟨0xA0214, 0, 12, 0x100⟩
/-- EMI_FL_TEMP [16+:16] RWL, reset 0x0640. -/
abbrev F.EMI_FL_TEMP_FL_TOFF : Fld := ⟨0xA0218, 16, 16, 0x0640⟩
/-- EMI_FL_TEMP [0+:16] RWL, reset 0x0500. -/
abbrev F.EMI_FL_TEMP_FL_TLIM : Fld := ⟨0xA0218, 0, 16, 0x0500⟩
/-- EMI_FL_STAT [31+:1] W1C, reset 0. -/
abbrev F.EMI_FL_STAT_FAULT : Fld := ⟨0xA021C, 31, 1, 0⟩
/-- EMI_FL_STAT [28+:3] RO, reset 0b000. -/
abbrev F.EMI_FL_STAT_CAUSE : Fld := ⟨0xA021C, 28, 3, 0b000⟩
/-- EMI_FL_STAT [26+:2] RO, reset 0b00. -/
abbrev F.EMI_FL_STAT_STRING : Fld := ⟨0xA021C, 26, 2, 0b00⟩
/-- EMI_FL_STAT [16+:4] RO, reset 0x0. -/
abbrev F.EMI_FL_STAT_UNVERIFIED : Fld := ⟨0xA021C, 16, 4, 0x0⟩
/-- EMI_FL_STAT [0+:5] RO, reset 0x10. -/
abbrev F.EMI_FL_STAT_F_FL : Fld := ⟨0xA021C, 0, 5, 0x10⟩
/-- EMI_CNT_MISMATCH [0+:32] RO, reset 0. -/
abbrev F.EMI_CNT_MISMATCH : Fld := ⟨0xA0300, 0, 32, 0⟩
/-- EMI_CNT_LATE [0+:32] RO, reset 0. -/
abbrev F.EMI_CNT_LATE : Fld := ⟨0xA0304, 0, 32, 0⟩
/-- EMI_CNT_UNSEEN [0+:32] RO, reset 0. -/
abbrev F.EMI_CNT_UNSEEN : Fld := ⟨0xA0308, 0, 32, 0⟩
/-- EMI_CNT_SWEEP [0+:32] RO, reset 0. -/
abbrev F.EMI_CNT_SWEEP : Fld := ⟨0xA030C, 0, 32, 0⟩
/-- THM_CTRL [3+:1] RW, reset 0. -/
abbrev F.THM_CTRL_AUTO_FFC : Fld := ⟨0xB0000, 3, 1, 0⟩
/-- THM_CTRL [2+:1] RW, reset 0. -/
abbrev F.THM_CTRL_NEIGH : Fld := ⟨0xB0000, 2, 1, 0⟩
/-- THM_CTRL [1+:1] RW, reset 0. -/
abbrev F.THM_CTRL_SYNC_EN : Fld := ⟨0xB0000, 1, 1, 0⟩
/-- THM_CTRL [0+:1] RW, reset 0. -/
abbrev F.THM_CTRL_EN : Fld := ⟨0xB0000, 0, 1, 0⟩
/-- THM_STATUS [19+:1] RO, reset 1. -/
abbrev F.THM_STATUS_NO_CORR : Fld := ⟨0xB0004, 19, 1, 1⟩
/-- THM_STATUS [18+:1] W1C, reset 0. -/
abbrev F.THM_STATUS_SHUT_STUCK : Fld := ⟨0xB0004, 18, 1, 0⟩
/-- THM_STATUS [17+:1] W1C, reset 0. -/
abbrev F.THM_STATUS_ILIM : Fld := ⟨0xB0004, 17, 1, 0⟩
/-- THM_STATUS [16+:1] RO, reset 0. -/
abbrev F.THM_STATUS_FFC_BUSY : Fld := ⟨0xB0004, 16, 1, 0⟩
/-- THM_STATUS [14+:2] RO, reset 0b00. -/
abbrev F.THM_STATUS_SHUTTER : Fld := ⟨0xB0004, 14, 2, 0b00⟩
/-- THM_STATUS [13+:1] RO, reset 0. -/
abbrev F.THM_STATUS_CORR1_VALID : Fld := ⟨0xB0004, 13, 1, 0⟩
/-- THM_STATUS [12+:1] RO, reset 0. -/
abbrev F.THM_STATUS_CORR0_VALID : Fld := ⟨0xB0004, 12, 1, 0⟩
/-- THM_STATUS [11+:1] RO, reset 0. -/
abbrev F.THM_STATUS_Q_SET : Fld := ⟨0xB0004, 11, 1, 0⟩
/-- THM_STATUS [10+:1] RO, reset 0. -/
abbrev F.THM_STATUS_QUEUED : Fld := ⟨0xB0004, 10, 1, 0⟩
/-- THM_STATUS [7+:3] RO, reset 0b000. -/
abbrev F.THM_STATUS_FADE_STEP : Fld := ⟨0xB0004, 7, 3, 0b000⟩
/-- THM_STATUS [6+:1] RO, reset 0. -/
abbrev F.THM_STATUS_FADING : Fld := ⟨0xB0004, 6, 1, 0⟩
/-- THM_STATUS [5+:1] RO, reset 0. -/
abbrev F.THM_STATUS_CORR_NOW : Fld := ⟨0xB0004, 5, 1, 0⟩
/-- THM_STATUS [0+:3] RO, reset 0b000. -/
abbrev F.THM_STATUS_STATE : Fld := ⟨0xB0004, 0, 3, 0b000⟩
/-- THM_GEOM [26+:4] RW, reset 0x0. -/
abbrev F.THM_GEOM_ARR_LAT : Fld := ⟨0xB0008, 26, 4, 0x0⟩
/-- THM_GEOM [24+:2] RW, reset 0b10. -/
abbrev F.THM_GEOM_TAPS : Fld := ⟨0xB0008, 24, 2, 0b10⟩
/-- THM_GEOM [12+:11] RW, reset 0x200. -/
abbrev F.THM_GEOM_ROWS : Fld := ⟨0xB0008, 12, 11, 0x200⟩
/-- THM_GEOM [0+:11] RW, reset 0x280. -/
abbrev F.THM_GEOM_COLS : Fld := ⟨0xB0008, 0, 11, 0x280⟩
/-- THM_BLANK [12+:20] RW, reset 0x002C3. -/
abbrev F.THM_BLANK_FBLANK : Fld := ⟨0xB000C, 12, 20, 0x002C3⟩
/-- THM_BLANK [0+:12] RW, reset 0x028. -/
abbrev F.THM_BLANK_LBLANK : Fld := ⟨0xB000C, 0, 12, 0x028⟩
/-- THM_PIXCLK [0+:16] RW, reset 0x0A00. -/
abbrev F.THM_PIXCLK : Fld := ⟨0xB0010, 0, 16, 0x0A00⟩
/-- THM_BIAS [16+:5] RW, reset 0x0A. -/
abbrev F.THM_BIAS_ILIM (i : Nat) : Fld := ⟨(0xB0020 + 0x4 * i), 16, 5, 0x0A⟩
/-- THM_BIAS [0+:12] RW, reset 0x000. -/
abbrev F.THM_BIAS_CODE (i : Nat) : Fld := ⟨(0xB0020 + 0x4 * i), 0, 12, 0x000⟩
/-- THM_TAP [16+:16] RO, reset 0. -/
abbrev F.THM_TAP_OVR (i : Nat) : Fld := ⟨(0xB0040 + 0x4 * i), 16, 16, 0⟩
/-- THM_TAP [1+:2] RW, reset 0b00. -/
abbrev F.THM_TAP_GAIN (i : Nat) : Fld := ⟨(0xB0040 + 0x4 * i), 1, 2, 0b00⟩
/-- THM_TAP [0+:1] RW, reset 1. -/
abbrev F.THM_TAP_EN (i : Nat) : Fld := ⟨(0xB0040 + 0x4 * i), 0, 1, 1⟩
/-- THM_SETTLE [16+:16] RW, reset 0x0200. -/
abbrev F.THM_SETTLE_SETTLE_TOL : Fld := ⟨0xB0080, 16, 16, 0x0200⟩
/-- THM_SETTLE [8+:8] RW, reset 0x14. -/
abbrev F.THM_SETTLE_SETTLE_MAX : Fld := ⟨0xB0080, 8, 8, 0x14⟩
/-- THM_SETTLE [0+:8] RW, reset 0x64. -/
abbrev F.THM_SETTLE_BIAS_SETTLE : Fld := ⟨0xB0080, 0, 8, 0x64⟩
/-- THM_SETTLE2 [16+:16] RO, reset 0. -/
abbrev F.THM_SETTLE2_LAST : Fld := ⟨0xB0084, 16, 16, 0⟩
/-- THM_SETTLE2 [0+:16] RW, reset 0x0010. -/
abbrev F.THM_SETTLE2_SD_MIN : Fld := ⟨0xB0084, 0, 16, 0x0010⟩
/-- THM_TEMP_CAL [16+:16] RW, reset 0x0000. -/
abbrev F.THM_TEMP_CAL_TS_GAIN : Fld := ⟨0xB0090, 16, 16, 0x0000⟩
/-- THM_TEMP_CAL [0+:16] RW, reset 0x0000. -/
abbrev F.THM_TEMP_CAL_TS_OFF : Fld := ⟨0xB0090, 0, 16, 0x0000⟩
/-- THM_TEMP [16+:1] RO, reset 0. -/
abbrev F.THM_TEMP_VALID : Fld := ⟨0xB0094, 16, 1, 0⟩
/-- THM_TEMP [0+:16] RO, reset 0x0000. -/
abbrev F.THM_TEMP_T_ARRAY : Fld := ⟨0xB0094, 0, 16, 0x0000⟩
/-- THM_FFC_CFG [16+:16] RW, reset 0x0800. -/
abbrev F.THM_FFC_CFG_FFC_DEV_MAX : Fld := ⟨0xB00A0, 16, 16, 0x0800⟩
/-- THM_FFC_CFG [8+:8] RW, reset 0x04. -/
abbrev F.THM_FFC_CFG_FFC_DT_MAX : Fld := ⟨0xB00A0, 8, 8, 0x04⟩
/-- THM_FFC_CFG [4+:4] RW, reset 0x2. -/
abbrev F.THM_FFC_CFG_FFC_SKIP : Fld := ⟨0xB00A0, 4, 4, 0x2⟩
/-- THM_FFC_CFG [0+:3] RW, reset 0b011. -/
abbrev F.THM_FFC_CFG_FFC_AVG : Fld := ⟨0xB00A0, 0, 3, 0b011⟩
/-- THM_FFC_LIM [0+:20] RW, reset 0x0_0400. -/
abbrev F.THM_FFC_LIM : Fld := ⟨0xB00A4, 0, 20, 0x00400⟩
/-- THM_FFC_AUTO [16+:8] RW, reset 0x10. -/
abbrev F.THM_FFC_AUTO_FFC_TRIG_DT : Fld := ⟨0xB00A8, 16, 8, 0x10⟩
/-- THM_FFC_AUTO [0+:16] RW, reset 0x012C. -/
abbrev F.THM_FFC_AUTO_FFC_PERIOD : Fld := ⟨0xB00A8, 0, 16, 0x012C⟩
/-- THM_SHUT [16+:16] RW, reset 0xC000. -/
abbrev F.THM_SHUT_SH_CLOSED : Fld := ⟨0xB00AC, 16, 16, 0xC000⟩
/-- THM_SHUT [0+:16] RW, reset 0x2000. -/
abbrev F.THM_SHUT_SH_OPEN : Fld := ⟨0xB00AC, 0, 16, 0x2000⟩
/-- THM_FFC_RES [31+:1] RO, reset 0. -/
abbrev F.THM_FFC_RES_ACCEPT : Fld := ⟨0xB00B0, 31, 1, 0⟩
/-- THM_FFC_RES [28+:3] RO, reset 0b000. -/
abbrev F.THM_FFC_RES_CAUSE : Fld := ⟨0xB00B0, 28, 3, 0b000⟩
/-- THM_FFC_RES [0+:20] RO, reset 0. -/
abbrev F.THM_FFC_RES_BAD_CNT : Fld := ⟨0xB00B0, 0, 20, 0⟩
/-- THM_SEQ [0+:32] RO, reset 0. -/
abbrev F.THM_SEQ : Fld := ⟨0xB00C0, 0, 32, 0⟩
/-- THM_SYNC_TIME [0+:64] RO, reset 0. -/
abbrev F.THM_SYNC_TIME : Fld := ⟨0xB00C8, 0, 64, 0⟩
/-- THM_RING_BASE [12+:52] RW, reset 0. -/
abbrev F.THM_RING_BASE : Fld := ⟨0xB0100, 12, 52, 0⟩
/-- THM_RING_CFG [0+:16] RW, reset 0x0000. -/
abbrev F.THM_RING_CFG : Fld := ⟨0xB0108, 0, 16, 0x0000⟩
/-- THM_RING_PTR [16+:16] RW, reset 0. -/
abbrev F.THM_RING_PTR_RSLOT : Fld := ⟨0xB010C, 16, 16, 0⟩
/-- THM_RING_PTR [0+:16] RO, reset 0. -/
abbrev F.THM_RING_PTR_WSLOT : Fld := ⟨0xB010C, 0, 16, 0⟩
/-- THM_MON_CFG [8+:2] RW, reset 0b00. -/
abbrev F.THM_MON_CFG_TONE_SEL : Fld := ⟨0xB0200, 8, 2, 0b00⟩
/-- THM_MON_CFG [7+:1] RO, reset 0. -/
abbrev F.THM_MON_CFG_BANK1_VALID : Fld := ⟨0xB0200, 7, 1, 0⟩
/-- THM_MON_CFG [6+:1] RO, reset 0. -/
abbrev F.THM_MON_CFG_BANK0_VALID : Fld := ⟨0xB0200, 6, 1, 0⟩
/-- THM_MON_CFG [5+:1] RO, reset 0. -/
abbrev F.THM_MON_CFG_Q_BANK : Fld := ⟨0xB0200, 5, 1, 0⟩
/-- THM_MON_CFG [4+:1] RO, reset 0. -/
abbrev F.THM_MON_CFG_COEF_QUEUED : Fld := ⟨0xB0200, 4, 1, 0⟩
/-- THM_MON_CFG [3+:1] RO, reset 0. -/
abbrev F.THM_MON_CFG_XFADE : Fld := ⟨0xB0200, 3, 1, 0⟩
/-- THM_MON_CFG [2+:1] RO, reset 0. -/
abbrev F.THM_MON_CFG_COEF_NOW : Fld := ⟨0xB0200, 2, 1, 0⟩
/-- THM_MON_CFG [0+:2] RW, reset 0b01. -/
abbrev F.THM_MON_CFG_FIR_N : Fld := ⟨0xB0200, 0, 2, 0b01⟩
/-- THM_MON_CH [13+:1] RO, reset 0. -/
abbrev F.THM_MON_CH_VALID (i : Nat) : Fld := ⟨(0xB0210 + 0x4 * i), 13, 1, 0⟩
/-- THM_MON_CH [12+:1] RW, reset 1. -/
abbrev F.THM_MON_CH_EN (i : Nat) : Fld := ⟨(0xB0210 + 0x4 * i), 12, 1, 1⟩
/-- THM_MON_CH [8+:4] RW, reset 0x6. -/
abbrev F.THM_MON_CH_ENV_K (i : Nat) : Fld := ⟨(0xB0210 + 0x4 * i), 8, 4, 0x6⟩
/-- THM_MON_CH [4+:4] RW, reset 0x8. -/
abbrev F.THM_MON_CH_DW (i : Nat) : Fld := ⟨(0xB0210 + 0x4 * i), 4, 4, 0x8⟩
/-- THM_MON_CH [0+:4] RW, reset 0xA. -/
abbrev F.THM_MON_CH_RLOG (i : Nat) : Fld := ⟨(0xB0210 + 0x4 * i), 0, 4, 0xA⟩
/-- THM_MON_OUT0 [16+:16] RO, reset 0. -/
abbrev F.THM_MON_OUT0_ENV (i : Nat) : Fld := ⟨(0xB0220 + 0x10 * i), 16, 16, 0⟩
/-- THM_MON_OUT0 [0+:16] RO, reset 0. -/
abbrev F.THM_MON_OUT0_VALUE (i : Nat) : Fld := ⟨(0xB0220 + 0x10 * i), 0, 16, 0⟩
/-- THM_MON_OUT1 [16+:16] RO, reset 0. -/
abbrev F.THM_MON_OUT1_RMS (i : Nat) : Fld := ⟨(0xB0224 + 0x10 * i), 16, 16, 0⟩
/-- THM_MON_OUT1 [0+:16] RO, reset 0. -/
abbrev F.THM_MON_OUT1_PEAK (i : Nat) : Fld := ⟨(0xB0224 + 0x10 * i), 0, 16, 0⟩
/-- THM_CNT_RESETTLE [0+:32] RO, reset 0. -/
abbrev F.THM_CNT_RESETTLE : Fld := ⟨0xB0300, 0, 32, 0⟩
/-- THM_CNT_SKIP [0+:32] RO, reset 0. -/
abbrev F.THM_CNT_SKIP : Fld := ⟨0xB0304, 0, 32, 0⟩
/-- THM_CNT_ABANDON [0+:32] RO, reset 0. -/
abbrev F.THM_CNT_ABANDON : Fld := ⟨0xB0308, 0, 32, 0⟩
/-- THM_CNT_SYNCIGN [0+:32] RO, reset 0. -/
abbrev F.THM_CNT_SYNCIGN : Fld := ⟨0xB030C, 0, 32, 0⟩
/-- HKC_CTRL [8+:13] RWL, reset 0x0000. -/
abbrev F.HKC_CTRL_PERIOD (i : Nat) : Fld := ⟨(0xC0000 + 0x4000 * i), 8, 13, 0x0000⟩
/-- HKC_CTRL [1+:5] RWL, reset 0x0B. -/
abbrev F.HKC_CTRL_LEN (i : Nat) : Fld := ⟨(0xC0000 + 0x4000 * i), 1, 5, 0x0B⟩
/-- HKC_CTRL [0+:1] RWL, reset 1. -/
abbrev F.HKC_CTRL_EN (i : Nat) : Fld := ⟨(0xC0000 + 0x4000 * i), 0, 1, 1⟩
/-- HKC_CAL [5+:1] W1C, reset 0. -/
abbrev F.HKC_CAL_SLICE_ERR (i : Nat) : Fld := ⟨(0xC0004 + 0x4000 * i), 5, 1, 0⟩
/-- HKC_CAL [4+:1] RO, reset 0. -/
abbrev F.HKC_CAL_CAL_BUSY (i : Nat) : Fld := ⟨(0xC0004 + 0x4000 * i), 4, 1, 0⟩
/-- HKC_CAL [3+:1] RO, reset 1. -/
abbrev F.HKC_CAL_REF_ON (i : Nat) : Fld := ⟨(0xC0004 + 0x4000 * i), 3, 1, 1⟩
/-- HKC_CAL [2+:1] RW, reset 0. -/
abbrev F.HKC_CAL_REF_LP (i : Nat) : Fld := ⟨(0xC0004 + 0x4000 * i), 2, 1, 0⟩
/-- HKC_CAL [1+:1] RW, reset 1. -/
abbrev F.HKC_CAL_BGCAL_EN (i : Nat) : Fld := ⟨(0xC0004 + 0x4000 * i), 1, 1, 1⟩
/-- HKC_CAL [0+:1] W1S, reset 0. -/
abbrev F.HKC_CAL_SELFCAL (i : Nat) : Fld := ⟨(0xC0004 + 0x4000 * i), 0, 1, 0⟩
/-- HKC_INJ [31+:1] W1S, reset 0. -/
abbrev F.HKC_INJ_GO (i : Nat) : Fld := ⟨(0xC0080 + 0x4000 * i), 31, 1, 0⟩
/-- HKC_INJ [30+:1] W1C, reset 0. -/
abbrev F.HKC_INJ_INJ_LOST (i : Nat) : Fld := ⟨(0xC0080 + 0x4000 * i), 30, 1, 0⟩
/-- HKC_INJ [0+:6] RW, reset 0x00. -/
abbrev F.HKC_INJ_INPUT (i : Nat) : Fld := ⟨(0xC0080 + 0x4000 * i), 0, 6, 0x00⟩
/-- HKC_INJ_RES [31+:1] W1C, reset 0. -/
abbrev F.HKC_INJ_RES_VALID (i : Nat) : Fld := ⟨(0xC0084 + 0x4000 * i), 31, 1, 0⟩
/-- HKC_INJ_RES [30+:1] RO, reset 0. -/
abbrev F.HKC_INJ_RES_OVR (i : Nat) : Fld := ⟨(0xC0084 + 0x4000 * i), 30, 1, 0⟩
/-- HKC_INJ_RES [29+:1] RO, reset 0. -/
abbrev F.HKC_INJ_RES_AFTER_OVR (i : Nat) : Fld := ⟨(0xC0084 + 0x4000 * i), 29, 1, 0⟩
/-- HKC_INJ_RES [0+:12] RO, reset 0x000. -/
abbrev F.HKC_INJ_RES_CODE (i : Nat) : Fld := ⟨(0xC0084 + 0x4000 * i), 0, 12, 0x000⟩
/-- HKC_DONE [0+:32] W1C, reset 0. -/
abbrev F.HKC_DONE (i : Nat) : Fld := ⟨(0xC008C + 0x4000 * i), 0, 32, 0⟩
/-- HKC_MM_CLR [0+:32] W1S, reset 0. -/
abbrev F.HKC_MM_CLR (i : Nat) : Fld := ⟨(0xC0090 + 0x4000 * i), 0, 32, 0⟩
/-- HKC_OVR_CNT [0+:32] RO, reset 0. -/
abbrev F.HKC_OVR_CNT (i : Nat) : Fld := ⟨(0xC0094 + 0x4000 * i), 0, 32, 0⟩
/-- HKC_SEQ [17+:1] RWL, reset 0. -/
abbrev F.HKC_SEQ_DUMMY_AFTER_OVR (i : Nat) (j : Nat) : Fld := ⟨(0xC0100 + 0x4000 * i + 0x4 * j), 17, 1, 0⟩
/-- HKC_SEQ [16+:1] RWL, reset 0. -/
abbrev F.HKC_SEQ_DUMMY (i : Nat) (j : Nat) : Fld := ⟨(0xC0100 + 0x4000 * i + 0x4 * j), 16, 1, 0⟩
/-- HKC_SEQ [12+:4] RWL, reset 0x4. -/
abbrev F.HKC_SEQ_AVG (i : Nat) (j : Nat) : Fld := ⟨(0xC0100 + 0x4000 * i + 0x4 * j), 12, 4, 0x4⟩
/-- HKC_SEQ [8+:4] RWL, reset 0x0. -/
abbrev F.HKC_SEQ_ACQ (i : Nat) (j : Nat) : Fld := ⟨(0xC0100 + 0x4000 * i + 0x4 * j), 8, 4, 0x0⟩
/-- HKC_SEQ [0+:6] RWL, reset as in the default sequence; 0x23 for e = 12 to 31. -/
abbrev F.HKC_SEQ_INPUT (i : Nat) (j : Nat) : Fld := ⟨(0xC0100 + 0x4000 * i + 0x4 * j), 0, 6, (Config.hkSeqInput j)⟩
/-- HKC_ACC [31+:1] RO, reset 0. -/
abbrev F.HKC_ACC_FRESH (i : Nat) (j : Nat) : Fld := ⟨(0xC0200 + 0x4000 * i + 0x8 * j), 31, 1, 0⟩
/-- HKC_ACC [30+:1] RO, reset 0. -/
abbrev F.HKC_ACC_OVR (i : Nat) (j : Nat) : Fld := ⟨(0xC0200 + 0x4000 * i + 0x8 * j), 30, 1, 0⟩
/-- HKC_ACC [29+:1] RO, reset 0. -/
abbrev F.HKC_ACC_AFTER_OVR (i : Nat) (j : Nat) : Fld := ⟨(0xC0200 + 0x4000 * i + 0x8 * j), 29, 1, 0⟩
/-- HKC_ACC [0+:20] RO, reset 0. -/
abbrev F.HKC_ACC_SUM (i : Nat) (j : Nat) : Fld := ⟨(0xC0200 + 0x4000 * i + 0x8 * j), 0, 20, 0⟩
/-- HKC_MM [16+:12] RO, reset 0x000. -/
abbrev F.HKC_MM_MAX (i : Nat) (j : Nat) : Fld := ⟨(0xC0204 + 0x4000 * i + 0x8 * j), 16, 12, 0x000⟩
/-- HKC_MM [0+:12] RO, reset 0xFFF. -/
abbrev F.HKC_MM_MIN (i : Nat) (j : Nat) : Fld := ⟨(0xC0204 + 0x4000 * i + 0x8 * j), 0, 12, 0xFFF⟩
/-- HKC_TDAC [0+:12] RW, reset 0x800. -/
abbrev F.HKC_TDAC : Fld := ⟨0xC0300, 0, 12, 0x800⟩
/-- HKC_XCMP [31+:1] RWL, reset 1 for k = 0 to 6; 0 for k = 7. -/
abbrev F.HKC_XCMP_EN (i : Nat) : Fld := ⟨(0xC8000 + 0x8 * i), 31, 1, (if i < 7 then 1 else 0)⟩
/-- HKC_XCMP [16+:8] RWL, reset as in the default pairs table. -/
abbrev F.HKC_XCMP_TOL (i : Nat) : Fld := ⟨(0xC8000 + 0x8 * i), 16, 8, (Config.hkPairTol i)⟩
/-- HKC_XCMP [8+:5] RWL, reset as in the default pairs table. -/
abbrev F.HKC_XCMP_ENT_B (i : Nat) : Fld := ⟨(0xC8000 + 0x8 * i), 8, 5, (Config.hkPairEnt i)⟩
/-- HKC_XCMP [0+:5] RWL, reset as in the default pairs table. -/
abbrev F.HKC_XCMP_ENT_A (i : Nat) : Fld := ⟨(0xC8000 + 0x8 * i), 0, 5, (Config.hkPairEnt i)⟩
/-- HKC_XLIM [16+:12] RWL, reset as in the default pairs table; 0xFFF for k = 7. -/
abbrev F.HKC_XLIM_HI (i : Nat) : Fld := ⟨(0xC8004 + 0x8 * i), 16, 12, (Config.hkPairHi i)⟩
/-- HKC_XLIM [0+:12] RWL, reset as in the default pairs table; 0x000 for k = 7. -/
abbrev F.HKC_XLIM_LO (i : Nat) : Fld := ⟨(0xC8004 + 0x8 * i), 0, 12, (Config.hkPairLo i)⟩
/-- HKC_XSTAT [8+:3] RO, reset 0b000. -/
abbrev F.HKC_XSTAT_FIRST : Fld := ⟨0xC8040, 8, 3, 0b000⟩
/-- HKC_XSTAT [0+:8] W1C, reset 0x00. -/
abbrev F.HKC_XSTAT_XFAIL : Fld := ⟨0xC8040, 0, 8, 0x00⟩
/-- SAF_STATUS [23+:1] RO, reset 0. -/
abbrev F.SAF_STATUS_LOCK_LATCH : Fld := ⟨0xD0000, 23, 1, 0⟩
/-- SAF_STATUS [22+:1] RO, reset 0. -/
abbrev F.SAF_STATUS_CLEARABLE : Fld := ⟨0xD0000, 22, 1, 0⟩
/-- SAF_STATUS [21+:1] RO, reset 0. -/
abbrev F.SAF_STATUS_COMMITTED : Fld := ⟨0xD0000, 21, 1, 0⟩
/-- SAF_STATUS [20+:1] RO, reset 0. -/
abbrev F.SAF_STATUS_STAGED : Fld := ⟨0xD0000, 20, 1, 0⟩
/-- SAF_STATUS [19+:1] RO, reset 0. -/
abbrev F.SAF_STATUS_ARMED : Fld := ⟨0xD0000, 19, 1, 0⟩
/-- SAF_STATUS [4+:4] RO, reset 0x0. -/
abbrev F.SAF_STATUS_HOLD_CAUSE : Fld := ⟨0xD0000, 4, 4, 0x0⟩
/-- SAF_STATUS [0+:2] RO, reset 0b00. -/
abbrev F.SAF_STATUS_LOCK_CAUSE : Fld := ⟨0xD0000, 0, 2, 0b00⟩
/-- SAF_FSET [8+:3] RO, reset 0b000. -/
abbrev F.SAF_FSET_RAW : Fld := ⟨0xD0004, 8, 3, 0b000⟩
/-- SAF_FSET [7+:1] RO, reset 0. -/
abbrev F.SAF_FSET_OVERLAP : Fld := ⟨0xD0004, 7, 1, 0⟩
/-- SAF_FSET [4+:3] RO, reset 0b000. -/
abbrev F.SAF_FSET_PREV : Fld := ⟨0xD0004, 4, 3, 0b000⟩
/-- SAF_FSET [3+:1] RO, reset 0. -/
abbrev F.SAF_FSET_VALID : Fld := ⟨0xD0004, 3, 1, 0⟩
/-- SAF_FSET [0+:3] RO, reset 0b000. -/
abbrev F.SAF_FSET_ACTIVE : Fld := ⟨0xD0004, 0, 3, 0b000⟩
/-- SAF_PAD [16+:16] RO, reset 0. -/
abbrev F.SAF_PAD_INCOMPLETE : Fld := ⟨0xD0008, 16, 16, 0⟩
/-- SAF_PAD [0+:16] RO, reset 0. -/
abbrev F.SAF_PAD_VIOLATED : Fld := ⟨0xD0008, 0, 16, 0⟩
/-- SAF_GUARD [3+:1] RO, reset 1. -/
abbrev F.SAF_GUARD_PEND (k : Nat) : Fld := ⟨0xD0010, (4 * k + 3), 1, 1⟩
/-- SAF_GUARD [2+:1] RO, reset 0. -/
abbrev F.SAF_GUARD_DISC (k : Nat) : Fld := ⟨0xD0010, (4 * k + 2), 1, 0⟩
/-- SAF_GUARD [1+:1] RO, reset 0. -/
abbrev F.SAF_GUARD_CH_B (k : Nat) : Fld := ⟨0xD0010, (4 * k + 1), 1, 0⟩
/-- SAF_GUARD [0+:1] RO, reset 0. -/
abbrev F.SAF_GUARD_CH_A (k : Nat) : Fld := ⟨0xD0010, (4 * k), 1, 0⟩
/-- SAF_RST [16+:16] RO, reset 0. -/
abbrev F.SAF_RST_ACCEPT_CNT : Fld := ⟨0xD0014, 16, 16, 0⟩
/-- SAF_RST [8+:8] RO, reset 0. -/
abbrev F.SAF_RST_REFUSE_CNT : Fld := ⟨0xD0014, 8, 8, 0⟩
/-- SAF_RST [2+:1] RO, reset 0. -/
abbrev F.SAF_RST_LEVEL : Fld := ⟨0xD0014, 2, 1, 0⟩
/-- SAF_RST [1+:1] W1C, reset 0. -/
abbrev F.SAF_RST_JAM : Fld := ⟨0xD0014, 1, 1, 0⟩
/-- SAF_RST [0+:1] W1C, reset 0. -/
abbrev F.SAF_RST_EDGE : Fld := ⟨0xD0014, 0, 1, 0⟩
/-- SAF_XCMP [16+:16] RO, reset 0. -/
abbrev F.SAF_XCMP_MISMATCH_CNT : Fld := ⟨0xD0018, 16, 16, 0⟩
/-- SAF_XCMP [1+:1] RO, reset 0. -/
abbrev F.SAF_XCMP_FRAME_FAIL : Fld := ⟨0xD0018, 1, 1, 0⟩
/-- SAF_XCMP [0+:1] RO, reset 0. -/
abbrev F.SAF_XCMP_HB_FAIL : Fld := ⟨0xD0018, 0, 1, 0⟩
/-- SAF_LOAD_ERR [24+:4] RO, reset 0x0. -/
abbrev F.SAF_LOAD_ERR_CHECK : Fld := ⟨0xD001C, 24, 4, 0x0⟩
/-- SAF_LOAD_ERR [0+:24] RO, reset 0. -/
abbrev F.SAF_LOAD_ERR_OFFSET : Fld := ⟨0xD001C, 0, 24, 0⟩
/-- SAF_DIGEST [0+:64] RO, reset 0. -/
abbrev F.SAF_DIGEST : Fld := ⟨0xD0020, 0, 64, 0⟩
/-- SAF_COUNTER [0+:64] RO, reset Stored value. -/
abbrev F.SAF_COUNTER : Fld := ⟨0xD0028, 0, 64, 0⟩
/-- SAF_EVENT [7+:1] W1C, reset 0. -/
abbrev F.SAF_EVENT_EDM : Fld := ⟨0xD0030, 7, 1, 0⟩
/-- SAF_EVENT [6+:1] W1C, reset 0. -/
abbrev F.SAF_EVENT_LOCKOUT : Fld := ⟨0xD0030, 6, 1, 0⟩
/-- SAF_EVENT [5+:1] W1C, reset 0. -/
abbrev F.SAF_EVENT_HOLD : Fld := ⟨0xD0030, 5, 1, 0⟩
/-- SAF_EVENT [4+:1] W1C, reset 0. -/
abbrev F.SAF_EVENT_GUARD_OPEN : Fld := ⟨0xD0030, 4, 1, 0⟩
/-- SAF_EVENT [3+:1] W1C, reset 0. -/
abbrev F.SAF_EVENT_FSET_CHANGE : Fld := ⟨0xD0030, 3, 1, 0⟩
/-- SAF_EVENT [2+:1] W1C, reset 0. -/
abbrev F.SAF_EVENT_WARN : Fld := ⟨0xD0030, 2, 1, 0⟩
/-- SAF_EVENT [1+:1] W1C, reset 0. -/
abbrev F.SAF_EVENT_GAP_TRIP : Fld := ⟨0xD0030, 1, 1, 0⟩
/-- SAF_EVENT [0+:1] W1C, reset 0. -/
abbrev F.SAF_EVENT_TRIP : Fld := ⟨0xD0030, 0, 1, 0⟩
/-- SAF_PAIR [22+:1] RO, reset 1. -/
abbrev F.SAF_PAIR_FORCED (i : Nat) : Fld := ⟨(0xD0040 + 0x4 * i), 22, 1, 1⟩
/-- SAF_PAIR [21+:1] RO, reset 0. -/
abbrev F.SAF_PAIR_EDM_NOT_READY (i : Nat) : Fld := ⟨(0xD0040 + 0x4 * i), 21, 1, 0⟩
/-- SAF_PAIR [20+:1] RO, reset 0. -/
abbrev F.SAF_PAIR_FSET (i : Nat) : Fld := ⟨(0xD0040 + 0x4 * i), 20, 1, 0⟩
/-- SAF_PAIR [19+:1] RO, reset 0. -/
abbrev F.SAF_PAIR_GUARD_PEND (i : Nat) : Fld := ⟨(0xD0040 + 0x4 * i), 19, 1, 0⟩
/-- SAF_PAIR [18+:1] RO, reset 0. -/
abbrev F.SAF_PAIR_GUARD (i : Nat) : Fld := ⟨(0xD0040 + 0x4 * i), 18, 1, 0⟩
/-- SAF_PAIR [17+:1] RO, reset 0. -/
abbrev F.SAF_PAIR_COVERAGE (i : Nat) : Fld := ⟨(0xD0040 + 0x4 * i), 17, 1, 0⟩
/-- SAF_PAIR [16+:1] RO, reset 0. -/
abbrev F.SAF_PAIR_VIOL (i : Nat) : Fld := ⟨(0xD0040 + 0x4 * i), 16, 1, 0⟩
/-- SAF_PAIR [11+:1] RO, reset 0. -/
abbrev F.SAF_PAIR_SRB_B (i : Nat) : Fld := ⟨(0xD0040 + 0x4 * i), 11, 1, 0⟩
/-- SAF_PAIR [10+:1] RO, reset 0. -/
abbrev F.SAF_PAIR_SRB_A (i : Nat) : Fld := ⟨(0xD0040 + 0x4 * i), 10, 1, 0⟩
/-- SAF_PAIR [9+:1] RO, reset 0. -/
abbrev F.SAF_PAIR_EDM (i : Nat) : Fld := ⟨(0xD0040 + 0x4 * i), 9, 1, 0⟩
/-- SAF_PAIR [8+:1] RO, reset 0. -/
abbrev F.SAF_PAIR_EDM_PEND (i : Nat) : Fld := ⟨(0xD0040 + 0x4 * i), 8, 1, 0⟩
/-- SAF_PAIR [0+:3] RO, reset 0b000. -/
abbrev F.SAF_PAIR_STATE (i : Nat) : Fld := ⟨(0xD0040 + 0x4 * i), 0, 3, 0b000⟩
/-- SAF_LINE_FAULT [16+:4] RO, reset 0. -/
abbrev F.SAF_LINE_FAULT_EDM_FAULT : Fld := ⟨0xD0060, 16, 4, 0⟩
/-- SAF_LINE_FAULT [8+:8] RO, reset 0. -/
abbrev F.SAF_LINE_FAULT_TP_FAULT : Fld := ⟨0xD0060, 8, 8, 0⟩
/-- SAF_LINE_FAULT [0+:8] RO, reset 0. -/
abbrev F.SAF_LINE_FAULT_RB_FAULT : Fld := ⟨0xD0060, 0, 8, 0⟩
/-- SAF_CNT_TRIP [0+:32] RO, reset 0. -/
abbrev F.SAF_CNT_TRIP : Fld := ⟨0xD0080, 0, 32, 0⟩
/-- SAF_CNT_GAP [0+:32] RO, reset 0. -/
abbrev F.SAF_CNT_GAP : Fld := ⟨0xD0084, 0, 32, 0⟩
/-- SAF_CNT_GRACE [0+:32] RO, reset 0. -/
abbrev F.SAF_CNT_GRACE : Fld := ⟨0xD0088, 0, 32, 0⟩
/-- RED_CTRL [1+:1] W1S, reset 0. -/
abbrev F.RED_CTRL_RELEASE : Fld := ⟨0xE0000, 1, 1, 0⟩
/-- RED_CTRL [0+:1] RWL, reset 0. -/
abbrev F.RED_CTRL_SIDE : Fld := ⟨0xE0000, 0, 1, 0⟩
/-- RED_STATUS [17+:1] RO, reset 0. -/
abbrev F.RED_STATUS_CAL_DIFF : Fld := ⟨0xE0004, 17, 1, 0⟩
/-- RED_STATUS [16+:1] W1C, reset 0. -/
abbrev F.RED_STATUS_BUS_FAULT : Fld := ⟨0xE0004, 16, 1, 0⟩
/-- RED_STATUS [12+:2] RO, reset 0b00. -/
abbrev F.RED_STATUS_ALT_CAUSE : Fld := ⟨0xE0004, 12, 2, 0b00⟩
/-- RED_STATUS [11+:1] RO, reset 0. -/
abbrev F.RED_STATUS_ALT : Fld := ⟨0xE0004, 11, 1, 0⟩
/-- RED_STATUS [10+:1] RO, reset 0. -/
abbrev F.RED_STATUS_SILENCE : Fld := ⟨0xE0004, 10, 1, 0⟩
/-- RED_STATUS [9+:1] RO, reset 0. -/
abbrev F.RED_STATUS_STANDBY : Fld := ⟨0xE0004, 9, 1, 0⟩
/-- RED_STATUS [8+:1] RO, reset 0. -/
abbrev F.RED_STATUS_HALTER : Fld := ⟨0xE0004, 8, 1, 0⟩
/-- RED_STATUS [4+:3] RO, reset 0b000. -/
abbrev F.RED_STATUS_ROLE : Fld := ⟨0xE0004, 4, 3, 0b000⟩
/-- RED_STATUS [0+:2] RO, reset 0b00. -/
abbrev F.RED_STATUS_MODE : Fld := ⟨0xE0004, 0, 2, 0b00⟩
/-- RED_HERD [16+:16] RO, reset 0. -/
abbrev F.RED_HERD_SWITCH_CNT : Fld := ⟨0xE0008, 16, 16, 0⟩
/-- RED_HERD [2+:1] RO, reset 1. -/
abbrev F.RED_HERD_H1_OK : Fld := ⟨0xE0008, 2, 1, 1⟩
/-- RED_HERD [1+:1] RO, reset 1. -/
abbrev F.RED_HERD_H0_OK : Fld := ⟨0xE0008, 1, 1, 1⟩
/-- RED_HERD [0+:1] RO, reset 0. -/
abbrev F.RED_HERD_ACTIVE : Fld := ⟨0xE0008, 0, 1, 0⟩
/-- RED_SCHEMA [8+:8] RO, reset 0x00. -/
abbrev F.RED_SCHEMA_PARTNER : Fld := ⟨0xE000C, 8, 8, 0x00⟩
/-- RED_SCHEMA [0+:8] RO, reset 0x00. -/
abbrev F.RED_SCHEMA_OWN : Fld := ⟨0xE000C, 0, 8, 0x00⟩
/-- RED_HASH [0+:64] RO, reset 0. -/
abbrev F.RED_HASH : Fld := ⟨0xE0010, 0, 64, 0⟩
/-- RED_PHASH [0+:64] RO, reset 0. -/
abbrev F.RED_PHASH : Fld := ⟨0xE0018, 0, 64, 0⟩
/-- RED_CAL_VER [16+:16] RO, reset 0. -/
abbrev F.RED_CAL_VER_PARTNER : Fld := ⟨0xE0020, 16, 16, 0⟩
/-- RED_CAL_VER [0+:16] RO, reset 0. -/
abbrev F.RED_CAL_VER_OWN : Fld := ⟨0xE0020, 0, 16, 0⟩
/-- RED_PSKEW [0+:16] RO, reset 0. -/
abbrev F.RED_PSKEW : Fld := ⟨0xE0024, 0, 16, 0⟩
/-- RED_PZERO [0+:16] RO, reset 0. -/
abbrev F.RED_PZERO : Fld := ⟨0xE0028, 0, 16, 0⟩
/-- RED_ILK [16+:16] RO, reset 0. -/
abbrev F.RED_ILK_CLAIM_CNT : Fld := ⟨0xE002C, 16, 16, 0⟩
/-- RED_ILK [1+:1] RO, reset 0. -/
abbrev F.RED_ILK_DRIVING : Fld := ⟨0xE002C, 1, 1, 0⟩
/-- RED_ILK [0+:1] RO, reset 1. -/
abbrev F.RED_ILK_LEVEL : Fld := ⟨0xE002C, 0, 1, 1⟩
/-- RED_DBL_MAX [0+:16] RO, reset 0. -/
abbrev F.RED_DBL_MAX : Fld := ⟨0xE0030, 0, 16, 0⟩
/-- RED_CNT_SILENCE [0+:32] RO, reset 0. -/
abbrev F.RED_CNT_SILENCE : Fld := ⟨0xE0040, 0, 32, 0⟩
/-- RED_CNT_TAKEOVER [0+:32] RO, reset 0. -/
abbrev F.RED_CNT_TAKEOVER : Fld := ⟨0xE0044, 0, 32, 0⟩
/-- RED_CNT_LATE [0+:32] RO, reset 0. -/
abbrev F.RED_CNT_LATE : Fld := ⟨0xE0048, 0, 32, 0⟩
/-- RED_CNT_ALT [0+:32] RO, reset 0. -/
abbrev F.RED_CNT_ALT : Fld := ⟨0xE004C, 0, 32, 0⟩
/-- ACQ_STATUS [8+:8] RO, reset 0x00. -/
abbrev F.ACQ_STATUS_LAST_SRC : Fld := ⟨0x100000, 8, 8, 0x00⟩
/-- ACQ_STATUS [7+:1] RO, reset 0. -/
abbrev F.ACQ_STATUS_CFG_VALID : Fld := ⟨0x100000, 7, 1, 0⟩
/-- ACQ_STATUS [6+:1] RO, reset 0. -/
abbrev F.ACQ_STATUS_PRE_FULL : Fld := ⟨0x100000, 6, 1, 0⟩
/-- ACQ_STATUS [0+:3] RO, reset 0b000. -/
abbrev F.ACQ_STATUS_STATE : Fld := ⟨0x100000, 0, 3, 0b000⟩
/-- ACQ_EVENT [3+:1] W1C, reset 0. -/
abbrev F.ACQ_EVENT_LOG_FULL : Fld := ⟨0x100004, 3, 1, 0⟩
/-- ACQ_EVENT [2+:1] W1C, reset 0. -/
abbrev F.ACQ_EVENT_MISSED : Fld := ⟨0x100004, 2, 1, 0⟩
/-- ACQ_EVENT [1+:1] W1C, reset 0. -/
abbrev F.ACQ_EVENT_CLOSED : Fld := ⟨0x100004, 1, 1, 0⟩
/-- ACQ_EVENT [0+:1] W1C, reset 0. -/
abbrev F.ACQ_EVENT_TRIG : Fld := ⟨0x100004, 0, 1, 0⟩
/-- ACQ_REC_SEQ [0+:32] RO, reset 0. -/
abbrev F.ACQ_REC_SEQ : Fld := ⟨0x100008, 0, 32, 0⟩
/-- ACQ_REC_LOC [31+:1] RO, reset 0. -/
abbrev F.ACQ_REC_LOC_VALID : Fld := ⟨0x10000C, 31, 1, 0⟩
/-- ACQ_REC_LOC [6+:25] RO, reset 0. -/
abbrev F.ACQ_REC_LOC_OFFSET : Fld := ⟨0x10000C, 6, 25, 0⟩
/-- ACQ_REC_LOC [0+:6] RO, reset 0. -/
abbrev F.ACQ_REC_LOC_WINDOW : Fld := ⟨0x10000C, 0, 6, 0⟩
/-- ACQ_LAST_TRIG [0+:64] RO, reset 0. -/
abbrev F.ACQ_LAST_TRIG : Fld := ⟨0x100010, 0, 64, 0⟩
/-- ACQ_MISSED [0+:32] RO, reset 0. -/
abbrev F.ACQ_MISSED : Fld := ⟨0x100018, 0, 32, 0⟩
/-- ACQ_LOG [16+:16] RO, reset 0. -/
abbrev F.ACQ_LOG_LOG_OVF : Fld := ⟨0x10001C, 16, 16, 0⟩
/-- ACQ_LOG [8+:8] RO, reset 0. -/
abbrev F.ACQ_LOG_TB_DROP : Fld := ⟨0x10001C, 8, 8, 0⟩
/-- ACQ_LOG [0+:5] RO, reset 0. -/
abbrev F.ACQ_LOG_ENTRIES : Fld := ⟨0x10001C, 0, 5, 0⟩
/-- ACQ_TB_CFG [0+:4] RW, reset 0x0. -/
abbrev F.ACQ_TB_CFG : Fld := ⟨0x100020, 0, 4, 0x0⟩
/-- ACQ_CNT_REC [0+:32] RO, reset 0. -/
abbrev F.ACQ_CNT_REC : Fld := ⟨0x100030, 0, 32, 0⟩
/-- ACQ_CNT_OVF [0+:32] RO, reset 0. -/
abbrev F.ACQ_CNT_OVF : Fld := ⟨0x100034, 0, 32, 0⟩
/-- ACQ_TB_DLY [31+:1] RO, reset 0. -/
abbrev F.ACQ_TB_DLY_VALID (i : Nat) : Fld := ⟨(0x100100 + 0x4 * i), 31, 1, 0⟩
/-- ACQ_TB_DLY [0+:24] RO, reset 0. -/
abbrev F.ACQ_TB_DLY_DELAY (i : Nat) : Fld := ⟨(0x100100 + 0x4 * i), 0, 24, 0⟩
/-- IRQ_HERD_STAT [25+:1] RO, reset 0. -/
abbrev F.IRQ_HERD_STAT_SPUR : Fld := ⟨0x30000, 25, 1, 0⟩
/-- IRQ_HERD_STAT [16+:9] RO, reset 0x000. -/
abbrev F.IRQ_HERD_STAT_VECTOR : Fld := ⟨0x30000, 16, 9, 0x000⟩
/-- IRQ_HERD_STAT [8+:2] RO, reset 0b00. -/
abbrev F.IRQ_HERD_STAT_PHASE : Fld := ⟨0x30000, 8, 2, 0b00⟩
/-- IRQ_HERD_STAT [0+:5] RO, reset 0x1F. -/
abbrev F.IRQ_HERD_STAT_RUNNING : Fld := ⟨0x30000, 0, 5, 0x1F⟩
/-- IRQ_CNT_SPUR [0+:32] RO, reset 0. -/
abbrev F.IRQ_CNT_SPUR : Fld := ⟨0x30008, 0, 32, 0⟩
/-- IRQ_CNT_RESEND [0+:32] RO, reset 0. -/
abbrev F.IRQ_CNT_RESEND : Fld := ⟨0x3000C, 0, 32, 0⟩
/-- IRQ_HOST_EOI [0+:6] WO, reset 0. -/
abbrev F.IRQ_HOST_EOI : Fld := ⟨0x30010, 0, 6, 0⟩
/-- IRQ_LEVEL [0+:32] RO, reset 0. -/
abbrev F.IRQ_LEVEL (i : Nat) : Fld := ⟨(0x30100 + 0x4 * i), 0, 32, 0⟩
/-- IRQ_STICKY [0+:32] W1C, reset 0. -/
abbrev F.IRQ_STICKY (i : Nat) : Fld := ⟨(0x30180 + 0x4 * i), 0, 32, 0⟩
/-- IRQ_SWSET [0+:32] W1S, reset 0. -/
abbrev F.IRQ_SWSET (i : Nat) : Fld := ⟨(0x30200 + 0x4 * i), 0, 32, 0⟩
/-- IRQ_SWCLR [0+:32] W1C, reset 0. -/
abbrev F.IRQ_SWCLR (i : Nat) : Fld := ⟨(0x30280 + 0x4 * i), 0, 32, 0⟩
/-- IRQ_VEC_STAT [16+:16] RO, reset 0. -/
abbrev F.IRQ_VEC_STAT_SEND_CNT (i : Nat) : Fld := ⟨(0x30400 + 0x4 * i), 16, 16, 0⟩
/-- IRQ_VEC_STAT [1+:1] RO, reset 0. -/
abbrev F.IRQ_VEC_STAT_LEVEL (i : Nat) : Fld := ⟨(0x30400 + 0x4 * i), 1, 1, 0⟩
/-- IRQ_VEC_STAT [0+:1] RO, reset 0. -/
abbrev F.IRQ_VEC_STAT_SENT (i : Nat) : Fld := ⟨(0x30400 + 0x4 * i), 0, 1, 0⟩
/-- IRQ_AON_SEL [31+:1] RW, reset 0. -/
abbrev F.IRQ_AON_SEL_EN (i : Nat) : Fld := ⟨(0x30800 + 0x4 * i), 31, 1, 0⟩
/-- IRQ_AON_SEL [0+:9] RW, reset 0x000. -/
abbrev F.IRQ_AON_SEL_SRC (i : Nat) : Fld := ⟨(0x30800 + 0x4 * i), 0, 9, 0x000⟩
/-- IRQ_AON_CAUSE [0+:32] W1C, reset 0. -/
abbrev F.IRQ_AON_CAUSE : Fld := ⟨0x30880, 0, 32, 0⟩
/-- IRQ_SRC_CFG [31+:1] RO, reset 0. -/
abbrev F.IRQ_SRC_CFG_LEVEL (i : Nat) : Fld := ⟨(0x31000 + 0x4 * i), 31, 1, 0⟩
/-- IRQ_SRC_CFG [30+:1] RO, reset 0. -/
abbrev F.IRQ_SRC_CFG_ACTIVE (i : Nat) : Fld := ⟨(0x31000 + 0x4 * i), 30, 1, 0⟩
/-- IRQ_SRC_CFG [25+:1] RO, reset 0. -/
abbrev F.IRQ_SRC_CFG_MASK (i : Nat) : Fld := ⟨(0x31000 + 0x4 * i), 25, 1, 0⟩
/-- IRQ_SRC_CFG [24+:1] RO, reset 0. -/
abbrev F.IRQ_SRC_CFG_HERD_EN (i : Nat) : Fld := ⟨(0x31000 + 0x4 * i), 24, 1, 0⟩
/-- IRQ_SRC_CFG [23+:1] RW, reset 0. -/
abbrev F.IRQ_SRC_CFG_HOST_EN (i : Nat) : Fld := ⟨(0x31000 + 0x4 * i), 23, 1, 0⟩
/-- IRQ_SRC_CFG [16+:6] RW, reset 0. -/
abbrev F.IRQ_SRC_CFG_VECTOR (i : Nat) : Fld := ⟨(0x31000 + 0x4 * i), 16, 6, 0⟩
/-- IRQ_SRC_CFG [0+:4] RW, reset 0x0. -/
abbrev F.IRQ_SRC_CFG_PRIO (i : Nat) : Fld := ⟨(0x31000 + 0x4 * i), 0, 4, 0x0⟩
/-- LNK_PCIE_STATUS [17+:3] RO, reset 0b100. -/
abbrev F.LNK_PCIE_STATUS_PWR : Fld := ⟨0xF0000, 17, 3, 0b100⟩
/-- LNK_PCIE_STATUS [16+:1] RO, reset 0. -/
abbrev F.LNK_PCIE_STATUS_D3HOT : Fld := ⟨0xF0000, 16, 1, 0⟩
/-- LNK_PCIE_STATUS [15+:1] RO, reset 0. -/
abbrev F.LNK_PCIE_STATUS_FN_MASK : Fld := ⟨0xF0000, 15, 1, 0⟩
/-- LNK_PCIE_STATUS [14+:1] RO, reset 0. -/
abbrev F.LNK_PCIE_STATUS_MSIX_EN : Fld := ⟨0xF0000, 14, 1, 0⟩
/-- LNK_PCIE_STATUS [13+:1] RO, reset 0. -/
abbrev F.LNK_PCIE_STATUS_BME : Fld := ⟨0xF0000, 13, 1, 0⟩
/-- LNK_PCIE_STATUS [12+:1] RO, reset 0. -/
abbrev F.LNK_PCIE_STATUS_REVERSED : Fld := ⟨0xF0000, 12, 1, 0⟩
/-- LNK_PCIE_STATUS [8+:4] RO, reset 0x0. -/
abbrev F.LNK_PCIE_STATUS_WIDTH : Fld := ⟨0xF0000, 8, 4, 0x0⟩
/-- LNK_PCIE_STATUS [0+:3] RO, reset 0b000. -/
abbrev F.LNK_PCIE_STATUS_SPEED : Fld := ⟨0xF0000, 0, 3, 0b000⟩
/-- LNK_PCIE_ID [16+:16] RO, reset 0x8960. -/
abbrev F.LNK_PCIE_ID_DEVICE : Fld := ⟨0xF0004, 16, 16, 0x8960⟩
/-- LNK_PCIE_ID [0+:16] RO, reset Syranth Vendor ID. -/
abbrev F.LNK_PCIE_ID_VENDOR : Fld := ⟨0xF0004, 0, 16, Config.pcieVendor⟩
/-- LNK_PCIE_SUBSYS [16+:16] RO, reset From provisioning. -/
abbrev F.LNK_PCIE_SUBSYS_SUBSYS_ID : Fld := ⟨0xF0008, 16, 16, Config.pcieSubsysId⟩
/-- LNK_PCIE_SUBSYS [0+:16] RO, reset From provisioning. -/
abbrev F.LNK_PCIE_SUBSYS_SUBSYS_VID : Fld := ⟨0xF0008, 0, 16, Config.pcieSubsysVid⟩
/-- LNK_PCIE_CTRL [16+:16] RW, reset 0x0064. -/
abbrev F.LNK_PCIE_CTRL_PME_WAIT : Fld := ⟨0xF000C, 16, 16, 0x0064⟩
/-- LNK_PCIE_CTRL [0+:1] RW, reset 1. -/
abbrev F.LNK_PCIE_CTRL_WAKE_EN : Fld := ⟨0xF000C, 0, 1, 1⟩
/-- LNK_PCIE_USE [8+:8] RO, reset 0. -/
abbrev F.LNK_PCIE_USE_USE_TX : Fld := ⟨0xF0010, 8, 8, 0⟩
/-- LNK_PCIE_USE [0+:8] RO, reset 0. -/
abbrev F.LNK_PCIE_USE_USE_RX : Fld := ⟨0xF0010, 0, 8, 0⟩
/-- LNK_PCIE_ERR [24+:8] RO, reset 0. -/
abbrev F.LNK_PCIE_ERR_CTO : Fld := ⟨0xF0014, 24, 8, 0⟩
/-- LNK_PCIE_ERR [16+:8] RO, reset 0. -/
abbrev F.LNK_PCIE_ERR_POISON : Fld := ⟨0xF0014, 16, 8, 0⟩
/-- LNK_PCIE_ERR [8+:8] RO, reset 0. -/
abbrev F.LNK_PCIE_ERR_UNCORR : Fld := ⟨0xF0014, 8, 8, 0⟩
/-- LNK_PCIE_ERR [0+:8] RO, reset 0. -/
abbrev F.LNK_PCIE_ERR_CORR : Fld := ⟨0xF0014, 0, 8, 0⟩
/-- LNK_PCIE_DOWN_CNT [0+:16] RO, reset 0. -/
abbrev F.LNK_PCIE_DOWN_CNT : Fld := ⟨0xF0018, 0, 16, 0⟩
/-- LNK_PRT_CTRL [3+:1] RW, reset 1. -/
abbrev F.LNK_PRT_CTRL_TBUS_EN : Fld := ⟨0xF0100, 3, 1, 1⟩
/-- LNK_PRT_CTRL [2+:1] RW, reset 0. -/
abbrev F.LNK_PRT_CTRL_DEEP_EN : Fld := ⟨0xF0100, 2, 1, 0⟩
/-- LNK_PRT_CTRL [1+:1] RW, reset 1. -/
abbrev F.LNK_PRT_CTRL_DOZE_EN : Fld := ⟨0xF0100, 1, 1, 1⟩
/-- LNK_PRT_CTRL [0+:1] RW, reset 0. -/
abbrev F.LNK_PRT_CTRL_EN : Fld := ⟨0xF0100, 0, 1, 0⟩
/-- LNK_PRT_STATUS [28+:4] RO, reset 0x0. -/
abbrev F.LNK_PRT_STATUS_FAIL_STEP : Fld := ⟨0xF0104, 28, 4, 0x0⟩
/-- LNK_PRT_STATUS [27+:1] W1C, reset 0. -/
abbrev F.LNK_PRT_STATUS_LANE_SWAP : Fld := ⟨0xF0104, 27, 1, 0⟩
/-- LNK_PRT_STATUS [25+:2] RO, reset 0b00. -/
abbrev F.LNK_PRT_STATUS_POL_INV : Fld := ⟨0xF0104, 25, 2, 0b00⟩
/-- LNK_PRT_STATUS [24+:1] RO, reset 0. -/
abbrev F.LNK_PRT_STATUS_SESSION : Fld := ⟨0xF0104, 24, 1, 0⟩
/-- LNK_PRT_STATUS [22+:2] RO, reset 0b00. -/
abbrev F.LNK_PRT_STATUS_LANES_UP : Fld := ⟨0xF0104, 22, 2, 0b00⟩
/-- LNK_PRT_STATUS [0+:4] RO, reset 0x0. -/
abbrev F.LNK_PRT_STATUS_STATE : Fld := ⟨0xF0104, 0, 4, 0x0⟩
/-- LNK_PRT_PCAP [0+:24] RO, reset 0. -/
abbrev F.LNK_PRT_PCAP : Fld := ⟨0xF0108, 0, 24, 0⟩
/-- LNK_PRT_LAT [20+:12] RO, reset 0. -/
abbrev F.LNK_PRT_LAT_RMS : Fld := ⟨0xF010C, 20, 12, 0⟩
/-- LNK_PRT_LAT [0+:20] RO, reset 0. -/
abbrev F.LNK_PRT_LAT_LAT : Fld := ⟨0xF010C, 0, 20, 0⟩
/-- LNK_PRT_EYE [31+:1] RO, reset 0. -/
abbrev F.LNK_PRT_EYE_VALID (i : Nat) : Fld := ⟨(0xF0110 + 0x4 * i), 31, 1, 0⟩
/-- LNK_PRT_EYE [30+:1] RO, reset 0. -/
abbrev F.LNK_PRT_EYE_LOW (i : Nat) : Fld := ⟨(0xF0110 + 0x4 * i), 30, 1, 0⟩
/-- LNK_PRT_EYE [16+:6] RO, reset 0. -/
abbrev F.LNK_PRT_EYE_WIDTH (i : Nat) : Fld := ⟨(0xF0110 + 0x4 * i), 16, 6, 0⟩
/-- LNK_PRT_EYE [0+:8] RO, reset 0. -/
abbrev F.LNK_PRT_EYE_HEIGHT (i : Nat) : Fld := ⟨(0xF0110 + 0x4 * i), 0, 8, 0⟩
/-- LNK_PRT_CNT_TAG [0+:32] RO, reset 0. -/
abbrev F.LNK_PRT_CNT_TAG : Fld := ⟨0xF0120, 0, 32, 0⟩
/-- LNK_PRT_CNT_SEQ [0+:32] RO, reset 0. -/
abbrev F.LNK_PRT_CNT_SEQ : Fld := ⟨0xF0124, 0, 32, 0⟩
/-- LNK_PRT_CNT_HDR [0+:32] RO, reset 0. -/
abbrev F.LNK_PRT_CNT_HDR : Fld := ⟨0xF0128, 0, 32, 0⟩
/-- LNK_PRT_CNT_LOSS [0+:32] RO, reset 0. -/
abbrev F.LNK_PRT_CNT_LOSS : Fld := ⟨0xF012C, 0, 32, 0⟩
/-- LNK_PRT_CNT_TRAIN [0+:32] RO, reset 0. -/
abbrev F.LNK_PRT_CNT_TRAIN : Fld := ⟨0xF0130, 0, 32, 0⟩
/-- CAL_STATUS [31+:1] RO, reset 0. -/
abbrev F.CAL_STATUS_BUSY : Fld := ⟨0x110000, 31, 1, 0⟩
/-- CAL_STATUS [30+:1] RO, reset 0. -/
abbrev F.CAL_STATUS_STORE_BUSY : Fld := ⟨0x110000, 30, 1, 0⟩
/-- CAL_STATUS [29+:1] W1C, reset 0. -/
abbrev F.CAL_STATUS_ZERO_REFUSED : Fld := ⟨0x110000, 29, 1, 0⟩
/-- CAL_STATUS [27+:2] RO, reset 0b00. -/
abbrev F.CAL_STATUS_KIND : Fld := ⟨0x110000, 27, 2, 0b00⟩
/-- CAL_STATUS [0+:17] RO, reset 0. -/
abbrev F.CAL_STATUS_STALE : Fld := ⟨0x110000, 0, 17, 0⟩
/-- CAL_CTRL [8+:8] RW, reset 0x20. -/
abbrev F.CAL_CTRL_REGROOM_DT : Fld := ⟨0x110004, 8, 8, 0x20⟩
/-- CAL_CTRL [0+:1] RW, reset 0. -/
abbrev F.CAL_CTRL_AUTO_EN : Fld := ⟨0x110004, 0, 1, 0⟩
/-- CAL_VERSION [16+:16] RO, reset 0. -/
abbrev F.CAL_VERSION_STORED : Fld := ⟨0x110008, 16, 16, 0⟩
/-- CAL_VERSION [0+:16] RO, reset 0. -/
abbrev F.CAL_VERSION_WORKING : Fld := ⟨0x110008, 0, 16, 0⟩
/-- CAL_REFUSED [0+:17] W1C, reset 0. -/
abbrev F.CAL_REFUSED : Fld := ⟨0x11000C, 0, 17, 0⟩
/-- CAL_CG [16+:4] RWL, reset 0x0. -/
abbrev F.CAL_CG_CG_PROF : Fld := ⟨0x110010, 16, 4, 0x0⟩
/-- CAL_CG [0+:16] RWL, reset 0x0000. -/
abbrev F.CAL_CG_CG_DIST : Fld := ⟨0x110010, 0, 16, 0x0000⟩
/-- CAL_FLASH [17+:1] RO, reset 0. -/
abbrev F.CAL_FLASH_B_OK : Fld := ⟨0x110014, 17, 1, 0⟩
/-- CAL_FLASH [16+:1] RO, reset 0. -/
abbrev F.CAL_FLASH_A_OK : Fld := ⟨0x110014, 16, 1, 0⟩
/-- CAL_FLASH [0+:16] RO, reset 0. -/
abbrev F.CAL_FLASH_COPY_ERR : Fld := ⟨0x110014, 0, 16, 0⟩
/-- CAL_QUAL [28+:4] RO, reset 0x0. -/
abbrev F.CAL_QUAL_FAIL (i : Nat) : Fld := ⟨(0x110100 + 0x4 * i), 28, 4, 0x0⟩
/-- CAL_QUAL [16+:8] RO, reset 0. -/
abbrev F.CAL_QUAL_NOISE (i : Nat) : Fld := ⟨(0x110100 + 0x4 * i), 16, 8, 0⟩
/-- CAL_QUAL [8+:8] RO, reset 0. -/
abbrev F.CAL_QUAL_SKEW_MAX (i : Nat) : Fld := ⟨(0x110100 + 0x4 * i), 8, 8, 0⟩
/-- CAL_QUAL [0+:8] RO, reset 0. -/
abbrev F.CAL_QUAL_DNL_MAX (i : Nat) : Fld := ⟨(0x110100 + 0x4 * i), 0, 8, 0⟩
/-- CAL_LANE [31+:1] RO, reset 0. -/
abbrev F.CAL_LANE_VALID (i : Nat) : Fld := ⟨(0x110180 + 0x4 * i), 31, 1, 0⟩
/-- CAL_LANE [8+:6] RO, reset 0. -/
abbrev F.CAL_LANE_WIDTH (i : Nat) : Fld := ⟨(0x110180 + 0x4 * i), 8, 6, 0⟩
/-- CAL_LANE [0+:3] RO, reset 0b000. -/
abbrev F.CAL_LANE_PRESET (i : Nat) : Fld := ⟨(0x110180 + 0x4 * i), 0, 3, 0b000⟩
/-- SYS_RESET_CAUSE [5+:1] W1C, reset 0. -/
abbrev F.SYS_RESET_CAUSE_REPROV : Fld := ⟨0x10, 5, 1, 0⟩
/-- SYS_RESET_CAUSE [4+:1] W1C, reset 0. -/
abbrev F.SYS_RESET_CAUSE_WAKE : Fld := ⟨0x10, 4, 1, 0⟩
/-- SYS_RESET_CAUSE [3+:1] W1C, reset 0. -/
abbrev F.SYS_RESET_CAUSE_CMD : Fld := ⟨0x10, 3, 1, 0⟩
/-- SYS_RESET_CAUSE [2+:1] W1C, reset 0. -/
abbrev F.SYS_RESET_CAUSE_F4 : Fld := ⟨0x10, 2, 1, 0⟩
/-- SYS_RESET_CAUSE [1+:1] W1C, reset 0. -/
abbrev F.SYS_RESET_CAUSE_RAIL : Fld := ⟨0x10, 1, 1, 0⟩
/-- SYS_RESET_CAUSE [0+:1] W1C, reset 1 after power-on reset of VDD_AON. -/
abbrev F.SYS_RESET_CAUSE_POR : Fld := ⟨0x10, 0, 1, 1⟩
/-- SYS_FAULT_FIRST [31+:1] W1C, reset 0. -/
abbrev F.SYS_FAULT_FIRST_VALID : Fld := ⟨0x20, 31, 1, 0⟩
/-- SYS_FAULT_FIRST [16+:3] RO, reset 0b000. -/
abbrev F.SYS_FAULT_FIRST_CLASS : Fld := ⟨0x20, 16, 3, 0b000⟩
/-- SYS_FAULT_FIRST [0+:16] RO, reset 0x0000. -/
abbrev F.SYS_FAULT_FIRST_CODE : Fld := ⟨0x20, 0, 16, 0x0000⟩
/-- SYS_FAULT_FIRST_DETAIL [0+:32] RO, reset 0. -/
abbrev F.SYS_FAULT_FIRST_DETAIL : Fld := ⟨0x24, 0, 32, 0⟩
/-- SYS_FAULT_FIRST_TIME [0+:64] RO, reset 0. -/
abbrev F.SYS_FAULT_FIRST_TIME : Fld := ⟨0x28, 0, 64, 0⟩
/-- SYS_FAULT_CTRL [0+:3] RW, reset 0b001. -/
abbrev F.SYS_FAULT_CTRL : Fld := ⟨0x30, 0, 3, 0b001⟩
/-- SYS_FAULT_QUEUE [0+:5] RO, reset 0. -/
abbrev F.SYS_FAULT_QUEUE_DEPTH (k : Nat) : Fld := ⟨0x34, (5 * k), 5, 0⟩
/-- SYS_FAULT_QOVF [0+:8] RO, reset 0. -/
abbrev F.SYS_FAULT_QOVF (k : Nat) : Fld := ⟨0x38, (8 * k), 8, 0⟩
/-- SYS_FAULT_CNT [0+:32] RO, reset 0. -/
abbrev F.SYS_FAULT_CNT (i : Nat) : Fld := ⟨(0x40 + 0x4 * i), 0, 32, 0⟩
/-- SYS_FAULT_LOG [16+:16] RO, reset 0. -/
abbrev F.SYS_FAULT_LOG_LOST : Fld := ⟨0x60, 16, 16, 0⟩
/-- SYS_FAULT_LOG [0+:7] RO, reset 0. -/
abbrev F.SYS_FAULT_LOG_ENTRIES : Fld := ⟨0x60, 0, 7, 0⟩
/-- SYS_FAULT_ENTRY [0+:32] RO, reset 0. -/
abbrev F.SYS_FAULT_ENTRY (i : Nat) (j : Nat) : Fld := ⟨(0x400 + 0x10 * i + 0x4 * j), 0, 32, 0⟩
/-- SEC_STATUS [31+:1] RO, reset Stored. -/
abbrev F.SEC_STATUS_OPENED : Fld := ⟨0x120000, 31, 1, 0⟩
/-- SEC_STATUS [30+:1] RO, reset Stored. -/
abbrev F.SEC_STATUS_ENDORSED : Fld := ⟨0x120000, 30, 1, 1⟩
/-- SEC_STATUS [29+:1] RO, reset Stored. -/
abbrev F.SEC_STATUS_IDKEY : Fld := ⟨0x120000, 29, 1, 1⟩
/-- SEC_STATUS [28+:1] RO, reset 0. -/
abbrev F.SEC_STATUS_SESSION_KEYS : Fld := ⟨0x120000, 28, 1, 0⟩
/-- SEC_STATUS [26+:2] RO, reset 0b00. -/
abbrev F.SEC_STATUS_PENDING : Fld := ⟨0x120000, 26, 2, 0b00⟩
/-- SEC_STATUS [24+:2] RO, reset 0b00. -/
abbrev F.SEC_STATUS_ACTIVE : Fld := ⟨0x120000, 24, 2, 0b00⟩
/-- SEC_STATUS [0+:8] RO, reset 0x00. -/
abbrev F.SEC_STATUS_SLOT_VALID : Fld := ⟨0x120000, 0, 8, 0x00⟩
/-- SEC_UID [0+:32] RO, reset Fused. -/
abbrev F.SEC_UID (i : Nat) : Fld := ⟨(0x120010 + 0x4 * i), 0, 32, (Config.uid i)⟩
/-- SEC_FW_A [0+:32] RO, reset From flash. -/
abbrev F.SEC_FW_A : Fld := ⟨0x120020, 0, 32, Config.fwVersionA⟩
/-- SEC_FW_B [0+:32] RO, reset From flash. -/
abbrev F.SEC_FW_B : Fld := ⟨0x120024, 0, 32, Config.fwVersionB⟩
/-- SEC_SVN_MIN [0+:32] RO, reset Stored. -/
abbrev F.SEC_SVN_MIN : Fld := ⟨0x120028, 0, 32, 0⟩
/-- SEC_STAGE [0+:24] RO, reset 0. -/
abbrev F.SEC_STAGE : Fld := ⟨0x120030, 0, 24, 0⟩
/-- SEC_KEY_SLOT [31+:1] RO, reset Stored. -/
abbrev F.SEC_KEY_SLOT_VALID (i : Nat) : Fld := ⟨(0x120040 + 0x4 * i), 31, 1, (Config.keySlotValid i)⟩
/-- SEC_KEY_SLOT [0+:5] RO, reset Stored. -/
abbrev F.SEC_KEY_SLOT_PURPOSE (i : Nat) : Fld := ⟨(0x120040 + 0x4 * i), 0, 5, (Config.keySlotPurpose i)⟩
/-- SEC_ZERO_TIME [0+:64] RO, reset 0. -/
abbrev F.SEC_ZERO_TIME : Fld := ⟨0x120060, 0, 64, 0⟩
/-- SEC_ZERO_CNT [0+:16] RO, reset Stored. -/
abbrev F.SEC_ZERO_CNT : Fld := ⟨0x120068, 0, 16, 0⟩

/-- Registers of the BAR0 block at 0x0_0000, part 0. -/
def regSpecs_0_0 : List RegSpec :=
  [⟨0x0, 4, 1, 0x0, 1, 0x0, fun _ _ => [⟨F.SYS_ID_FAMILY, .ro⟩, ⟨F.SYS_ID_MEMBER, .ro⟩, ⟨F.SYS_ID_STEP_MAJ, .ro⟩, ⟨F.SYS_ID_STEP_MIN, .ro⟩]⟩,
   ⟨0x4, 4, 1, 0x0, 1, 0x0, fun _ _ => [⟨F.SYS_PARAM_TWIN, .ro⟩, ⟨F.SYS_PARAM_ILK, .ro⟩, ⟨F.SYS_PARAM_PCIE_LANES, .ro⟩, ⟨F.SYS_PARAM_RLM_CH, .ro⟩, ⟨F.SYS_PARAM_LOFT_MIB, .ro⟩, ⟨F.SYS_PARAM_SPARE, .ro⟩, ⟨F.SYS_PARAM_CLUSTERS, .ro⟩]⟩,
   ⟨0x8, 4, 1, 0x0, 1, 0x0, fun _ _ => [⟨F.SYS_STATUS_GUARD_PEND, .ro⟩, ⟨F.SYS_STATUS_PARTNER_UP, .ro⟩, ⟨F.SYS_STATUS_CAL_STALE, .ro⟩, ⟨F.SYS_STATUS_DEGRADED, .ro⟩, ⟨F.SYS_STATUS_CMD_LIVE, .ro⟩, ⟨F.SYS_STATUS_PCIE_CFG, .ro⟩, ⟨F.SYS_STATUS_STEP, .ro⟩, ⟨F.SYS_STATUS_READY, .ro⟩, ⟨F.SYS_STATUS_STATE, .ro⟩]⟩,
   ⟨0xC, 4, 1, 0x0, 1, 0x0, fun _ _ => [⟨F.SYS_START_IMAGE, .ro⟩, ⟨F.SYS_START_IMG_FALLBACK, .ro⟩, ⟨F.SYS_START_GROOM_FULL, .ro⟩, ⟨F.SYS_START_START_KIND, .ro⟩, ⟨F.SYS_START_START_FAILS, .ro⟩, ⟨F.SYS_START_FAIL_STEP, .ro⟩, ⟨F.SYS_START_READY_MS, .ro⟩]⟩,
   ⟨0x10, 4, 1, 0x0, 1, 0x0, fun _ _ => [⟨F.SYS_RESET_CAUSE_REPROV, .w1c⟩, ⟨F.SYS_RESET_CAUSE_WAKE, .w1c⟩, ⟨F.SYS_RESET_CAUSE_CMD, .w1c⟩, ⟨F.SYS_RESET_CAUSE_F4, .w1c⟩, ⟨F.SYS_RESET_CAUSE_RAIL, .w1c⟩, ⟨F.SYS_RESET_CAUSE_POR, .w1c⟩]⟩,
   ⟨0x20, 4, 1, 0x0, 1, 0x0, fun _ _ => [⟨F.SYS_FAULT_FIRST_VALID, .w1c⟩, ⟨F.SYS_FAULT_FIRST_CLASS, .ro⟩, ⟨F.SYS_FAULT_FIRST_CODE, .ro⟩]⟩,
   ⟨0x24, 4, 1, 0x0, 1, 0x0, fun _ _ => [⟨F.SYS_FAULT_FIRST_DETAIL, .ro⟩]⟩,
   ⟨0x28, 8, 1, 0x0, 1, 0x0, fun _ _ => [⟨F.SYS_FAULT_FIRST_TIME, .ro⟩]⟩,
   ⟨0x30, 4, 1, 0x0, 1, 0x0, fun _ _ => [⟨F.SYS_FAULT_CTRL, .rw⟩]⟩,
   ⟨0x34, 4, 1, 0x0, 1, 0x0, fun _ _ => [⟨F.SYS_FAULT_QUEUE_DEPTH 0, .ro⟩, ⟨F.SYS_FAULT_QUEUE_DEPTH 1, .ro⟩, ⟨F.SYS_FAULT_QUEUE_DEPTH 2, .ro⟩, ⟨F.SYS_FAULT_QUEUE_DEPTH 3, .ro⟩]⟩,
   ⟨0x38, 4, 1, 0x0, 1, 0x0, fun _ _ => [⟨F.SYS_FAULT_QOVF 0, .ro⟩, ⟨F.SYS_FAULT_QOVF 1, .ro⟩, ⟨F.SYS_FAULT_QOVF 2, .ro⟩, ⟨F.SYS_FAULT_QOVF 3, .ro⟩]⟩,
   ⟨0x40, 4, 5, 0x4, 1, 0x0, fun i _ => [⟨F.SYS_FAULT_CNT i, .ro⟩]⟩]

/-- Registers of the BAR0 block at 0x0_0000, part 1. -/
def regSpecs_0_1 : List RegSpec :=
  [⟨0x60, 4, 1, 0x0, 1, 0x0, fun _ _ => [⟨F.SYS_FAULT_LOG_LOST, .ro⟩, ⟨F.SYS_FAULT_LOG_ENTRIES, .ro⟩]⟩,
   ⟨0x400, 4, 64, 0x10, 4, 0x4, fun i j => [⟨F.SYS_FAULT_ENTRY i j, .ro⟩]⟩]

/-- Registers of the BAR0 block at 0x0_0000. -/
def regSpecs_0 : List RegSpec := regSpecs_0_0 ++ regSpecs_0_1

/-- Registers of the BAR0 block at 0x1_0000, part 0. -/
def regSpecs_1_0 : List RegSpec :=
  [⟨0x10000, 4, 1, 0x0, 1, 0x0, fun _ _ => [⟨F.SHD_STATE_HKB, .ro⟩, ⟨F.SHD_STATE_HKA, .ro⟩, ⟨F.SHD_STATE_SAFB, .ro⟩, ⟨F.SHD_STATE_SAFA, .ro⟩, ⟨F.SHD_STATE_EMI, .ro⟩, ⟨F.SHD_STATE_THM, .ro⟩, ⟨F.SHD_STATE_HGE, .ro⟩, ⟨F.SHD_STATE_MEM, .ro⟩, ⟨F.SHD_STATE_PRT, .ro⟩, ⟨F.SHD_STATE_LNK, .ro⟩, ⟨F.SHD_STATE_CTL, .ro⟩]⟩,
   ⟨0x10004, 4, 1, 0x0, 1, 0x0, fun _ _ => [⟨F.SHD_ALLOW_COLD_EN, .rw⟩, ⟨F.SHD_ALLOW_PRT_ALLOW, .rw⟩, ⟨F.SHD_ALLOW_THM_ALLOW, .rw⟩]⟩,
   ⟨0x10010, 4, 1, 0x0, 1, 0x0, fun _ _ => [⟨F.SHD_CLST0_ST 0, .ro⟩, ⟨F.SHD_CLST0_ST 1, .ro⟩, ⟨F.SHD_CLST0_ST 2, .ro⟩, ⟨F.SHD_CLST0_ST 3, .ro⟩, ⟨F.SHD_CLST0_ST 4, .ro⟩, ⟨F.SHD_CLST0_ST 5, .ro⟩, ⟨F.SHD_CLST0_ST 6, .ro⟩, ⟨F.SHD_CLST0_ST 7, .ro⟩]⟩,
   ⟨0x10014, 4, 1, 0x0, 1, 0x0, fun _ _ => [⟨F.SHD_CLST1_ST 0, .ro⟩, ⟨F.SHD_CLST1_ST 1, .ro⟩, ⟨F.SHD_CLST1_ST 2, .ro⟩, ⟨F.SHD_CLST1_ST 3, .ro⟩, ⟨F.SHD_CLST1_ST 4, .ro⟩, ⟨F.SHD_CLST1_ST 5, .ro⟩, ⟨F.SHD_CLST1_ST 6, .ro⟩, ⟨F.SHD_CLST1_ST 7, .ro⟩]⟩,
   ⟨0x10018, 4, 1, 0x0, 1, 0x0, fun _ _ => [⟨F.SHD_CLST2_ST, .ro⟩]⟩,
   ⟨0x10020, 4, 1, 0x0, 1, 0x0, fun _ _ => [⟨F.SHD_RAIL_IO_PE, .ro⟩, ⟨F.SHD_RAIL_IO_SYS, .ro⟩, ⟨F.SHD_RAIL_IO_FPA, .ro⟩, ⟨F.SHD_RAIL_IO_EMI, .ro⟩, ⟨F.SHD_RAIL_IO_SAF, .ro⟩, ⟨F.SHD_RAIL_SER, .ro⟩, ⟨F.SHD_RAIL_RL, .ro⟩, ⟨F.SHD_RAIL_TAP, .ro⟩, ⟨F.SHD_RAIL_AFE, .ro⟩, ⟨F.SHD_RAIL_CORE, .ro⟩]⟩,
   ⟨0x10030, 4, 1, 0x0, 1, 0x0, fun _ _ => [⟨F.SHD_WAKE_CFG_AUTO_READY, .rw⟩, ⟨F.SHD_WAKE_CFG_PERST_EN, .rw⟩, ⟨F.SHD_WAKE_CFG_IRQW_EN, .rw⟩, ⟨F.SHD_WAKE_CFG_ALARM_EN, .rw⟩, ⟨F.SHD_WAKE_CFG_MGMT_EN, .rw⟩, ⟨F.SHD_WAKE_CFG_WAKE_POL, .rw⟩, ⟨F.SHD_WAKE_CFG_WAKE_EN, .rw⟩]⟩,
   ⟨0x10034, 4, 1, 0x0, 1, 0x0, fun _ _ => [⟨F.SHD_WAKE_CAUSE_POWER, .w1c⟩, ⟨F.SHD_WAKE_CAUSE_PERST, .w1c⟩, ⟨F.SHD_WAKE_CAUSE_IRQW, .w1c⟩, ⟨F.SHD_WAKE_CAUSE_ALARM, .w1c⟩, ⟨F.SHD_WAKE_CAUSE_MGMT, .w1c⟩, ⟨F.SHD_WAKE_CAUSE_WAKE, .w1c⟩]⟩,
   ⟨0x10038, 8, 1, 0x0, 1, 0x0, fun _ _ => [⟨F.SHD_AON_TIME, .ro⟩]⟩,
   ⟨0x10040, 8, 1, 0x0, 1, 0x0, fun _ _ => [⟨F.SHD_ALARM, .rw⟩]⟩,
   ⟨0x10100, 4, 1, 0x0, 1, 0x0, fun _ _ => [⟨F.CLK_STATUS_FMON_OK, .ro⟩, ⟨F.CLK_STATUS_REF_ACTIVE, .ro⟩, ⟨F.CLK_STATUS_REF_PRESENT, .ro⟩, ⟨F.CLK_STATUS_RC_ACTIVE, .ro⟩, ⟨F.CLK_STATUS_XAON_OK, .ro⟩, ⟨F.CLK_STATUS_XREF_OK, .ro⟩, ⟨F.CLK_STATUS_SAFB_LK, .ro⟩, ⟨F.CLK_STATUS_MEM_LK, .ro⟩, ⟨F.CLK_STATUS_TIME_LK, .ro⟩, ⟨F.CLK_STATUS_CORE_LK, .ro⟩]⟩,
   ⟨0x10104, 4, 1, 0x0, 1, 0x0, fun _ _ => [⟨F.CLK_REF_CFG_AUTO_RETURN, .rw⟩, ⟨F.CLK_REF_CFG_REF_SEL, .rw⟩, ⟨F.CLK_REF_CFG_REF_SE, .rw⟩, ⟨F.CLK_REF_CFG_PRESC, .rw⟩, ⟨F.CLK_REF_CFG_REF_FREQ, .rw⟩]⟩]

/-- Registers of the BAR0 block at 0x1_0000, part 1. -/
def regSpecs_1_1 : List RegSpec :=
  [⟨0x10108, 4, 1, 0x0, 1, 0x0, fun _ _ => [⟨F.CLK_REF_EVENT_RETURN, .w1c⟩, ⟨F.CLK_REF_EVENT_LOSS, .w1c⟩]⟩,
   ⟨0x1010C, 4, 1, 0x0, 1, 0x0, fun _ _ => [⟨F.CLK_REF_LOSS_CNT, .ro⟩]⟩,
   ⟨0x10110, 4, 1, 0x0, 1, 0x0, fun _ _ => [⟨F.CLK_PCIE_CFG_SSC, .rw⟩, ⟨F.CLK_PCIE_CFG_SEP_REF, .rw⟩]⟩]

/-- Registers of the BAR0 block at 0x1_0000. -/
def regSpecs_1 : List RegSpec := regSpecs_1_0 ++ regSpecs_1_1

/-- Registers of the BAR0 block at 0x2_0000, part 0. -/
def regSpecs_2_0 : List RegSpec :=
  [⟨0x20000, 4, 1, 0x0, 1, 0x0, fun _ _ => [⟨F.CMD_INFO_PREV_VALID, .ro⟩, ⟨F.CMD_INFO_PREV_MAJ, .ro⟩, ⟨F.CMD_INFO_CUR_MAJ, .ro⟩]⟩,
   ⟨0x20004, 4, 1, 0x0, 1, 0x0, fun _ _ => [⟨F.CMD_CTRL_CMP_IRQ_EN, .rw⟩, ⟨F.CMD_CTRL_EN, .rw⟩]⟩,
   ⟨0x20008, 4, 1, 0x0, 1, 0x0, fun _ _ => [⟨F.CMD_STATUS_PERST_SEEN, .w1c⟩, ⟨F.CMD_STATUS_CMP_WR_ERR, .w1c⟩, ⟨F.CMD_STATUS_FETCH_ERR, .w1c⟩, ⟨F.CMD_STATUS_CMP_FULL, .ro⟩, ⟨F.CMD_STATUS_IDLE, .ro⟩]⟩,
   ⟨0x20010, 8, 1, 0x0, 1, 0x0, fun _ _ => [⟨F.CMD_RING_BASE, .rw⟩]⟩,
   ⟨0x20018, 4, 1, 0x0, 1, 0x0, fun _ _ => [⟨F.CMD_HEAD, .ro⟩]⟩,
   ⟨0x20020, 4, 1, 0x0, 1, 0x0, fun _ _ => [⟨F.CMD_DB0, .wo⟩]⟩,
   ⟨0x20030, 8, 1, 0x0, 1, 0x0, fun _ _ => [⟨F.CMP_RING_BASE, .rw⟩]⟩,
   ⟨0x20038, 4, 1, 0x0, 1, 0x0, fun _ _ => [⟨F.CMP_RING_SIZE, .rw⟩]⟩,
   ⟨0x2003C, 4, 1, 0x0, 1, 0x0, fun _ _ => [⟨F.CMP_TAIL_PHASE, .ro⟩, ⟨F.CMP_TAIL_TAIL, .ro⟩]⟩,
   ⟨0x20040, 4, 1, 0x0, 1, 0x0, fun _ _ => [⟨F.CMD_DB1, .wo⟩]⟩,
   ⟨0x20048, 4, 1, 0x0, 1, 0x0, fun _ _ => [⟨F.CMP_NOTIFY_TIME, .rw⟩, ⟨F.CMP_NOTIFY_COUNT, .rw⟩]⟩,
   ⟨0x20050, 4, 1, 0x0, 1, 0x0, fun _ _ => [⟨F.CMD_ERR_CNT_SIG_FAIL_CNT, .ro⟩, ⟨F.CMD_ERR_CNT_DISCARD_CNT, .ro⟩]⟩]

/-- Registers of the BAR0 block at 0x2_0000, part 1. -/
def regSpecs_2_1 : List RegSpec :=
  [⟨0x20100, 4, 1, 0x0, 1, 0x0, fun _ _ => [⟨F.MGMT_STAT_OUTSTANDING, .ro⟩, ⟨F.MGMT_STAT_RESP_LOST, .w1c⟩, ⟨F.MGMT_STAT_HELD, .ro⟩, ⟨F.MGMT_STAT_ALERT, .ro⟩]⟩,
   ⟨0x20104, 4, 1, 0x0, 1, 0x0, fun _ _ => [⟨F.MGMT_CRC_CNT, .ro⟩]⟩]

/-- Registers of the BAR0 block at 0x2_0000. -/
def regSpecs_2 : List RegSpec := regSpecs_2_0 ++ regSpecs_2_1

/-- Registers of the BAR0 block at 0x3_0000, part 0. -/
def regSpecs_3_0 : List RegSpec :=
  [⟨0x30000, 4, 1, 0x0, 1, 0x0, fun _ _ => [⟨F.IRQ_HERD_STAT_SPUR, .ro⟩, ⟨F.IRQ_HERD_STAT_VECTOR, .ro⟩, ⟨F.IRQ_HERD_STAT_PHASE, .ro⟩, ⟨F.IRQ_HERD_STAT_RUNNING, .ro⟩]⟩,
   ⟨0x30008, 4, 1, 0x0, 1, 0x0, fun _ _ => [⟨F.IRQ_CNT_SPUR, .ro⟩]⟩,
   ⟨0x3000C, 4, 1, 0x0, 1, 0x0, fun _ _ => [⟨F.IRQ_CNT_RESEND, .ro⟩]⟩,
   ⟨0x30010, 4, 1, 0x0, 1, 0x0, fun _ _ => [⟨F.IRQ_HOST_EOI, .wo⟩]⟩,
   ⟨0x30100, 4, 16, 0x4, 1, 0x0, fun i _ => [⟨F.IRQ_LEVEL i, .ro⟩]⟩,
   ⟨0x30180, 4, 16, 0x4, 1, 0x0, fun i _ => [⟨F.IRQ_STICKY i, .w1c⟩]⟩,
   ⟨0x30200, 4, 16, 0x4, 1, 0x0, fun i _ => [⟨F.IRQ_SWSET i, .w1s⟩]⟩,
   ⟨0x30280, 4, 16, 0x4, 1, 0x0, fun i _ => [⟨F.IRQ_SWCLR i, .w1c⟩]⟩,
   ⟨0x30400, 4, 64, 0x4, 1, 0x0, fun i _ => [⟨F.IRQ_VEC_STAT_SEND_CNT i, .ro⟩, ⟨F.IRQ_VEC_STAT_LEVEL i, .ro⟩, ⟨F.IRQ_VEC_STAT_SENT i, .ro⟩]⟩,
   ⟨0x30800, 4, 32, 0x4, 1, 0x0, fun i _ => [⟨F.IRQ_AON_SEL_EN i, .rw⟩, ⟨F.IRQ_AON_SEL_SRC i, .rw⟩]⟩,
   ⟨0x30880, 4, 1, 0x0, 1, 0x0, fun _ _ => [⟨F.IRQ_AON_CAUSE, .w1c⟩]⟩,
   ⟨0x31000, 4, 512, 0x4, 1, 0x0, fun i _ => [⟨F.IRQ_SRC_CFG_LEVEL i, .ro⟩, ⟨F.IRQ_SRC_CFG_ACTIVE i, .ro⟩, ⟨F.IRQ_SRC_CFG_MASK i, .ro⟩, ⟨F.IRQ_SRC_CFG_HERD_EN i, .ro⟩, ⟨F.IRQ_SRC_CFG_HOST_EN i, .rw⟩, ⟨F.IRQ_SRC_CFG_VECTOR i, .rw⟩, ⟨F.IRQ_SRC_CFG_PRIO i, .rw⟩]⟩]

/-- Registers of the BAR0 block at 0x3_0000. -/
def regSpecs_3 : List RegSpec := regSpecs_3_0

/-- Registers of the BAR0 block at 0x4_0000, part 0. -/
def regSpecs_4_0 : List RegSpec :=
  [⟨0x40000, 4, 17, 0x1000, 1, 0x0, fun i _ => [⟨F.RXF_CL_CTRL_SHADOW_SCOPE i, .rwl⟩, ⟨F.RXF_CL_CTRL_AR_WIN i, .rw⟩, ⟨F.RXF_CL_CTRL_AR_SAT i, .rw⟩, ⟨F.RXF_CL_CTRL_IMP_EN i, .rw⟩, ⟨F.RXF_CL_CTRL_CL_EN i, .rwl⟩]⟩,
   ⟨0x40004, 4, 17, 0x1000, 1, 0x0, fun i _ => [⟨F.RXF_CL_STATUS_SPARED i, .ro⟩, ⟨F.RXF_CL_STATUS_WITHDRAWN i, .ro⟩, ⟨F.RXF_CL_STATUS_FE_FAULT i, .ro⟩]⟩,
   ⟨0x40008, 8, 17, 0x1000, 1, 0x0, fun i _ => [⟨F.RXF_CH_EN i, .rwl⟩]⟩,
   ⟨0x40010, 8, 17, 0x1000, 1, 0x0, fun i _ => [⟨F.RXF_CH_FAIL i, .ro⟩]⟩,
   ⟨0x40024, 4, 17, 0x1000, 1, 0x0, fun i _ => [⟨F.RXF_SHADOW_CNT i, .ro⟩]⟩,
   ⟨0x40100, 4, 17, 0x1000, 64, 0x4, fun i j => [⟨F.RXF_CH_CFG_EDGE_MODE i j, .rwl⟩, ⟨F.RXF_CH_CFG_T1 i j, .rwl⟩, ⟨F.RXF_CH_CFG_T0 i j, .rwl⟩, ⟨F.RXF_CH_CFG_AR_EN i j, .rw⟩, ⟨F.RXF_CH_CFG_RANGE i j, .rw⟩]⟩,
   ⟨0x40200, 4, 17, 0x1000, 64, 0x4, fun i j => [⟨F.RXF_CH_STAT_SAT_CNT i j, .ro⟩, ⟨F.RXF_CH_STAT_THR_ERR i j, .ro⟩, ⟨F.RXF_CH_STAT_RANGE_PEND i j, .ro⟩, ⟨F.RXF_CH_STAT_RANGE_NOW i j, .ro⟩]⟩,
   ⟨0x40300, 4, 17, 0x1000, 64, 0x4, fun i j => [⟨F.RXF_IMP_VALID i j, .ro⟩, ⟨F.RXF_IMP_PASS i j, .ro⟩, ⟨F.RXF_IMP_LEAK i j, .ro⟩, ⟨F.RXF_IMP_CAP i j, .ro⟩]⟩]

/-- Registers of the BAR0 block at 0x4_0000. -/
def regSpecs_4 : List RegSpec := regSpecs_4_0

/-- Registers of the BAR0 block at 0x5_0000, part 0. -/
def regSpecs_5_0 : List RegSpec :=
  [⟨0x51000, 4, 1, 0x0, 1, 0x0, fun _ _ => [⟨F.RXF_SPARE_CTRL, .rw⟩]⟩,
   ⟨0x51004, 4, 1, 0x0, 1, 0x0, fun _ _ => [⟨F.RXF_SPARE_STATUS_ENGAGE_CNT, .ro⟩, ⟨F.RXF_SPARE_STATUS_ROUTE, .ro⟩, ⟨F.RXF_SPARE_STATUS_PHASE, .ro⟩]⟩,
   ⟨0x51010, 4, 1, 0x0, 1, 0x0, fun _ _ => [⟨F.RXF_IMP_CFG_LEAK_MAX, .rwl⟩, ⟨F.RXF_IMP_CFG_GROUP_EN, .rw⟩]⟩,
   ⟨0x51014, 4, 1, 0x0, 1, 0x0, fun _ _ => [⟨F.RXF_IMP_STATUS_BUSY, .ro⟩, ⟨F.RXF_IMP_STATUS_PEND, .ro⟩, ⟨F.RXF_IMP_STATUS_FAIL_MASK, .ro⟩]⟩,
   ⟨0x51020, 4, 1, 0x0, 1, 0x0, fun _ _ => [⟨F.RXF_APDB_CFG_TC, .rwl⟩, ⟨F.RXF_APDB_CFG_LIMIT, .rwl⟩, ⟨F.RXF_APDB_CFG_TARGET, .rwl⟩]⟩,
   ⟨0x51024, 4, 1, 0x0, 1, 0x0, fun _ _ => [⟨F.RXF_APDB_CTRL_EN, .rw⟩, ⟨F.RXF_APDB_CTRL_DMAX, .rw⟩]⟩,
   ⟨0x51028, 4, 1, 0x0, 1, 0x0, fun _ _ => [⟨F.RXF_APDB_STAT_OV, .w1c⟩, ⟨F.RXF_APDB_STAT_OPEN, .w1c⟩, ⟨F.RXF_APDB_STAT_SETTLED, .ro⟩, ⟨F.RXF_APDB_STAT_DUTY, .ro⟩, ⟨F.RXF_APDB_STAT_SENSE, .ro⟩]⟩,
   ⟨0x51100, 4, 32, 0x4, 1, 0x0, fun i _ => [⟨F.RXF_OBS_PIN i, .rw⟩, ⟨F.RXF_OBS_ENGINE i, .ro⟩, ⟨F.RXF_OBS_NAVG i, .rw⟩, ⟨F.RXF_OBS_OFFSET i, .rw⟩, ⟨F.RXF_OBS_CHANNEL i, .rw⟩]⟩,
   ⟨0x51200, 4, 1, 0x0, 1, 0x0, fun _ _ => [⟨F.RXF_WS_DONE, .w1c⟩]⟩,
   ⟨0x58000, 4, 32, 0x400, 256, 0x4, fun i j => [⟨F.RXF_WS_ACC i j, .ro⟩]⟩]

/-- Registers of the BAR0 block at 0x5_0000. -/
def regSpecs_5 : List RegSpec := regSpecs_5_0

/-- Registers of the BAR0 block at 0x6_0000, part 0. -/
def regSpecs_6_0 : List RegSpec :=
  [⟨0x60000, 4, 1, 0x0, 1, 0x0, fun _ _ => [⟨F.TDC_ZERO, .rwl⟩]⟩,
   ⟨0x60010, 8, 1, 0x0, 1, 0x0, fun _ _ => [⟨F.TDC_DEVTIME, .ro⟩]⟩,
   ⟨0x60020, 4, 1, 0x0, 1, 0x0, fun _ _ => [⟨F.TDC_PPS_CFG_ALIGN, .w1s⟩, ⟨F.TDC_PPS_CFG_EN, .rw⟩, ⟨F.TDC_PPS_CFG_TOL, .rw⟩]⟩,
   ⟨0x60028, 8, 1, 0x0, 1, 0x0, fun _ _ => [⟨F.TDC_PPS_NEXT, .rw⟩]⟩,
   ⟨0x60030, 8, 1, 0x0, 1, 0x0, fun _ _ => [⟨F.TDC_PPS_CAPT, .ro⟩]⟩,
   ⟨0x60038, 4, 1, 0x0, 1, 0x0, fun _ _ => [⟨F.TDC_PPS_STATUS_REJ_CNT, .ro⟩, ⟨F.TDC_PPS_STATUS_STEP_REFUSED, .w1c⟩, ⟨F.TDC_PPS_STATUS_LOST, .ro⟩, ⟨F.TDC_PPS_STATUS_ALIGNED, .ro⟩, ⟨F.TDC_PPS_STATUS_EDGE, .w1c⟩]⟩,
   ⟨0x6003C, 4, 1, 0x0, 1, 0x0, fun _ _ => [⟨F.TDC_PPS_ERR, .ro⟩]⟩,
   ⟨0x60100, 4, 16, 0x4, 1, 0x0, fun i _ => [⟨F.TDC_WIN_PROF_END i, .rwl⟩, ⟨F.TDC_WIN_PROF_START i, .rwl⟩]⟩,
   ⟨0x60200, 4, 4, 0x40, 1, 0x0, fun i _ => [⟨F.TDC_FM_CTRL_START i, .w1s⟩, ⟨F.TDC_FM_CTRL_CONT i, .rw⟩, ⟨F.TDC_FM_CTRL_MODE i, .rw⟩, ⟨F.TDC_FM_CTRL_GATE i, .rw⟩, ⟨F.TDC_FM_CTRL_SRC i, .rw⟩, ⟨F.TDC_FM_CTRL_SEL i, .rw⟩, ⟨F.TDC_FM_CTRL_DIV i, .rw⟩]⟩,
   ⟨0x60204, 4, 4, 0x40, 1, 0x0, fun i _ => [⟨F.TDC_FM_NOMINAL i, .rw⟩]⟩,
   ⟨0x60208, 4, 4, 0x40, 1, 0x0, fun i _ => [⟨F.TDC_FM_HINT i, .rw⟩]⟩,
   ⟨0x60210, 8, 4, 0x40, 1, 0x0, fun i _ => [⟨F.TDC_FM_PERIOD_PERIOD_FRAC i, .ro⟩, ⟨F.TDC_FM_PERIOD_PERIOD_INT i, .ro⟩]⟩]

/-- Registers of the BAR0 block at 0x6_0000, part 1. -/
def regSpecs_6_1 : List RegSpec :=
  [⟨0x60218, 4, 4, 0x40, 1, 0x0, fun i _ => [⟨F.TDC_FM_PPB i, .ro⟩]⟩,
   ⟨0x6021C, 4, 4, 0x40, 1, 0x0, fun i _ => [⟨F.TDC_FM_RESID i, .ro⟩]⟩,
   ⟨0x60220, 4, 4, 0x40, 1, 0x0, fun i _ => [⟨F.TDC_FM_COUNT i, .ro⟩]⟩,
   ⟨0x60224, 4, 4, 0x40, 1, 0x0, fun i _ => [⟨F.TDC_FM_REJECT_SKIP i, .ro⟩, ⟨F.TDC_FM_REJECT_REJ i, .ro⟩]⟩,
   ⟨0x60228, 4, 4, 0x40, 1, 0x0, fun i _ => [⟨F.TDC_FM_STATUS_VALID i, .ro⟩, ⟨F.TDC_FM_STATUS_REF_SWITCH i, .ro⟩, ⟨F.TDC_FM_STATUS_TOO_FEW i, .ro⟩, ⟨F.TDC_FM_STATUS_DONE i, .w1c⟩]⟩,
   ⟨0x60300, 4, 1, 0x0, 1, 0x0, fun _ _ => [⟨F.TDC_FIRE_CFG_EN, .rwl⟩, ⟨F.TDC_FIRE_CFG_TOL, .rwl⟩]⟩,
   ⟨0x61000, 4, 1024, 0x4, 1, 0x0, fun i _ => [⟨F.TDC_CH_CNT_DEAD_CNT i, .ro⟩, ⟨F.TDC_CH_CNT_DROP_CNT i, .ro⟩]⟩]

/-- Registers of the BAR0 block at 0x6_0000. -/
def regSpecs_6 : List RegSpec := regSpecs_6_0 ++ regSpecs_6_1

/-- Registers of the BAR0 block at 0x7_0000, part 0. -/
def regSpecs_7_0 : List RegSpec :=
  [⟨0x70000, 4, 1, 0x0, 1, 0x0, fun _ _ => [⟨F.HGE_CTRL_WALK_EN, .rwl⟩, ⟨F.HGE_CTRL_PART_MODE, .rwl⟩, ⟨F.HGE_CTRL_PEAK_ORDER, .rwl⟩, ⟨F.HGE_CTRL_EMPTY_REC, .rw⟩, ⟨F.HGE_CTRL_PACKED, .rwl⟩]⟩,
   ⟨0x70004, 4, 1, 0x0, 1, 0x0, fun _ _ => [⟨F.HGE_STATUS_CODE_ERR, .w1c⟩, ⟨F.HGE_STATUS_REFUSING, .ro⟩, ⟨F.HGE_STATUS_BACKLOG, .ro⟩, ⟨F.HGE_STATUS_OPEN_CELLS, .ro⟩]⟩,
   ⟨0x70008, 4, 1, 0x0, 1, 0x0, fun _ _ => [⟨F.HGE_CODE_EN, .rwl⟩]⟩,
   ⟨0x7000C, 4, 1, 0x0, 1, 0x0, fun _ _ => [⟨F.HGE_DITHER, .rwl⟩]⟩,
   ⟨0x70010, 8, 1, 0x0, 1, 0x0, fun _ _ => [⟨F.HGE_SEED, .rwl⟩]⟩,
   ⟨0x70018, 8, 1, 0x0, 1, 0x0, fun _ _ => [⟨F.HGE_PSEED, .ro⟩]⟩,
   ⟨0x70020, 4, 1, 0x0, 1, 0x0, fun _ _ => [⟨F.HGE_DET_GHOST_RATIO, .rwl⟩, ⟨F.HGE_DET_AMB_FLOOR, .rwl⟩, ⟨F.HGE_DET_MIN_CNT, .rwl⟩, ⟨F.HGE_DET_K, .rwl⟩]⟩,
   ⟨0x70024, 4, 1, 0x0, 1, 0x0, fun _ _ => [⟨F.HGE_PART0_SPREAD_MIN, .rwl⟩, ⟨F.HGE_PART0_INT_MAX, .rwl⟩, ⟨F.HGE_PART0_RANGE_MAX, .rwl⟩]⟩,
   ⟨0x70028, 4, 1, 0x0, 1, 0x0, fun _ _ => [⟨F.HGE_PART1_NAVG_MAX, .rw⟩, ⟨F.HGE_PART1_FWHM_MIN, .rwl⟩]⟩,
   ⟨0x70030, 4, 1, 0x0, 1, 0x0, fun _ _ => [⟨F.HGE_CNT_REFUSE, .ro⟩]⟩,
   ⟨0x70034, 4, 1, 0x0, 1, 0x0, fun _ _ => [⟨F.HGE_CNT_ORPHAN, .ro⟩]⟩,
   ⟨0x70038, 4, 1, 0x0, 1, 0x0, fun _ _ => [⟨F.HGE_CNT_SHAPE_MISS, .ro⟩, ⟨F.HGE_CNT_SHAPE_RUN, .ro⟩]⟩]

/-- Registers of the BAR0 block at 0x7_0000, part 1. -/
def regSpecs_7_1 : List RegSpec :=
  [⟨0x70040, 4, 16, 0x4, 1, 0x0, fun i _ => [⟨F.HGE_CODE_TAB_O3 i, .rwl⟩, ⟨F.HGE_CODE_TAB_O2 i, .rwl⟩, ⟨F.HGE_CODE_TAB_O1 i, .rwl⟩, ⟨F.HGE_CODE_TAB_DEPTH i, .rwl⟩]⟩,
   ⟨0x70100, 4, 16, 0x4, 1, 0x0, fun i _ => [⟨F.HGE_PROF_PRE_POS i, .rwl⟩, ⟨F.HGE_PROF_PRE i, .rwl⟩, ⟨F.HGE_PROF_BW i, .rwl⟩]⟩,
   ⟨0x70400, 4, 4, 0x100, 64, 0x4, fun i j => [⟨F.HGE_WALK i j, .ro⟩]⟩,
   ⟨0x72000, 4, 4, 0x800, 512, 0x4, fun i j => [⟨F.HGE_TOT_LUT i j, .ro⟩]⟩,
   ⟨0x70800, 8, 4, 0x40, 1, 0x0, fun i _ => [⟨F.HGE_RING_BASE i, .ro⟩]⟩,
   ⟨0x70808, 4, 4, 0x40, 1, 0x0, fun i _ => [⟨F.HGE_RING_CFG_SIZE i, .ro⟩, ⟨F.HGE_RING_CFG_FUSED i, .ro⟩]⟩,
   ⟨0x7080C, 4, 4, 0x40, 1, 0x0, fun i _ => [⟨F.HGE_RING_WPTR i, .ro⟩]⟩,
   ⟨0x70810, 4, 4, 0x40, 1, 0x0, fun i _ => [⟨F.HGE_RING_LAP i, .ro⟩]⟩,
   ⟨0x70814, 4, 4, 0x40, 1, 0x0, fun i _ => [⟨F.HGE_RING_RPTR i, .rw⟩]⟩,
   ⟨0x70818, 4, 4, 0x40, 1, 0x0, fun i _ => [⟨F.HGE_RING_WMARK i, .rw⟩]⟩,
   ⟨0x7081C, 8, 4, 0x40, 1, 0x0, fun i _ => [⟨F.HGE_RING_WB i, .rw⟩]⟩,
   ⟨0x70824, 4, 4, 0x40, 1, 0x0, fun i _ => [⟨F.HGE_RING_STATUS_PTR_ERR i, .w1c⟩, ⟨F.HGE_RING_STATUS_BACKLOG i, .ro⟩, ⟨F.HGE_RING_STATUS_WMARK_HIT i, .w1c⟩]⟩]

/-- Registers of the BAR0 block at 0x7_0000. -/
def regSpecs_7 : List RegSpec := regSpecs_7_0 ++ regSpecs_7_1

/-- Registers of the BAR0 block at 0x8_0000, part 0. -/
def regSpecs_8_0 : List RegSpec :=
  [⟨0x80000, 4, 1, 0x0, 1, 0x0, fun _ _ => [⟨F.YRD_CTRL_FAR_PAGE_EN, .rw⟩, ⟨F.YRD_CTRL_PROMOTE_EN, .rw⟩]⟩,
   ⟨0x80004, 4, 1, 0x0, 1, 0x0, fun _ _ => [⟨F.YRD_CAP_NEAR_OFF, .ro⟩, ⟨F.YRD_CAP_MAP_LOG2_NOW, .ro⟩, ⟨F.YRD_CAP_NEAR_STALLS, .ro⟩]⟩,
   ⟨0x80008, 4, 1, 0x0, 1, 0x0, fun _ _ => [⟨F.YRD_MAP_CFG, .rw⟩]⟩,
   ⟨0x8000C, 4, 1, 0x0, 1, 0x0, fun _ _ => [⟨F.YRD_LOFT_WM_LOFT_HWM, .rw⟩, ⟨F.YRD_LOFT_WM_LOFT_BG, .rw⟩, ⟨F.YRD_LOFT_WM_LOFT_LWM, .rw⟩]⟩,
   ⟨0x80010, 4, 1, 0x0, 1, 0x0, fun _ _ => [⟨F.YRD_NEAR_WM, .rw⟩]⟩,
   ⟨0x80014, 4, 1, 0x0, 1, 0x0, fun _ _ => [⟨F.YRD_PIN_CFG, .rw⟩]⟩,
   ⟨0x80018, 4, 1, 0x0, 1, 0x0, fun _ _ => [⟨F.YRD_STATUS_FAR_GONE, .w1c⟩, ⟨F.YRD_STATUS_NEAR_FULL, .ro⟩, ⟨F.YRD_STATUS_SYNC_EVICT, .ro⟩]⟩,
   ⟨0x80020, 4, 1, 0x0, 1, 0x0, fun _ _ => [⟨F.YRD_LOFT_USE_PINNED, .ro⟩, ⟨F.YRD_LOFT_USE_USED, .ro⟩]⟩,
   ⟨0x80024, 4, 1, 0x0, 1, 0x0, fun _ _ => [⟨F.YRD_NEAR_USE, .ro⟩]⟩,
   ⟨0x80028, 4, 1, 0x0, 1, 0x0, fun _ _ => [⟨F.YRD_NEAR_HELD, .ro⟩]⟩,
   ⟨0x8002C, 4, 1, 0x0, 1, 0x0, fun _ _ => [⟨F.YRD_FAR_USE, .ro⟩]⟩,
   ⟨0x80030, 4, 1, 0x0, 1, 0x0, fun _ _ => [⟨F.YRD_PROG_NEED, .ro⟩]⟩]

/-- Registers of the BAR0 block at 0x8_0000, part 1. -/
def regSpecs_8_1 : List RegSpec :=
  [⟨0x80040, 4, 1, 0x0, 1, 0x0, fun _ _ => [⟨F.YRD_CNT_EVICT, .ro⟩]⟩,
   ⟨0x80044, 4, 1, 0x0, 1, 0x0, fun _ _ => [⟨F.YRD_CNT_PAGEOUT, .ro⟩]⟩,
   ⟨0x80048, 4, 1, 0x0, 1, 0x0, fun _ _ => [⟨F.YRD_CNT_PAGEIN, .ro⟩]⟩,
   ⟨0x8004C, 4, 1, 0x0, 1, 0x0, fun _ _ => [⟨F.YRD_CNT_PROMOTE, .ro⟩]⟩,
   ⟨0x80050, 4, 1, 0x0, 1, 0x0, fun _ _ => [⟨F.YRD_CNT_DEFER, .ro⟩]⟩,
   ⟨0x80054, 4, 1, 0x0, 1, 0x0, fun _ _ => [⟨F.YRD_CNT_SYNC, .ro⟩]⟩,
   ⟨0x80058, 4, 1, 0x0, 1, 0x0, fun _ _ => [⟨F.YRD_FAR_LOST, .ro⟩]⟩,
   ⟨0x80060, 4, 1, 0x0, 1, 0x0, fun _ _ => [⟨F.YRD_TLB_HIT, .ro⟩]⟩,
   ⟨0x80064, 4, 1, 0x0, 1, 0x0, fun _ _ => [⟨F.YRD_TLB_MISS, .ro⟩]⟩,
   ⟨0x80068, 4, 1, 0x0, 1, 0x0, fun _ _ => [⟨F.YRD_ECC_UNCORR, .ro⟩, ⟨F.YRD_ECC_CORR, .ro⟩]⟩,
   ⟨0x8006C, 4, 1, 0x0, 1, 0x0, fun _ _ => [⟨F.YRD_RETIRED_NEAR, .ro⟩, ⟨F.YRD_RETIRED_LOFT, .ro⟩]⟩,
   ⟨0x80070, 4, 1, 0x0, 1, 0x0, fun _ _ => [⟨F.YRD_BAR2_SEL, .rw⟩]⟩]

/-- Registers of the BAR0 block at 0x8_0000, part 2. -/
def regSpecs_8_2 : List RegSpec :=
  [⟨0x81000, 8, 64, 0x20, 1, 0x0, fun i _ => [⟨F.YRD_GRANT_BASE i, .ro⟩]⟩,
   ⟨0x81008, 4, 64, 0x20, 1, 0x0, fun i _ => [⟨F.YRD_GRANT_LEN i, .ro⟩]⟩,
   ⟨0x8100C, 4, 64, 0x20, 1, 0x0, fun i _ => [⟨F.YRD_GRANT_STAT_VALID i, .ro⟩, ⟨F.YRD_GRANT_STAT_DRAINING i, .ro⟩, ⟨F.YRD_GRANT_STAT_FAILED i, .ro⟩, ⟨F.YRD_GRANT_STAT_CLASS i, .ro⟩]⟩,
   ⟨0x81010, 4, 64, 0x20, 1, 0x0, fun i _ => [⟨F.YRD_GRANT_USED i, .ro⟩]⟩]

/-- Registers of the BAR0 block at 0x8_0000. -/
def regSpecs_8 : List RegSpec := regSpecs_8_0 ++ regSpecs_8_1 ++ regSpecs_8_2

/-- Registers of the BAR0 block at 0x9_0000, part 0. -/
def regSpecs_9_0 : List RegSpec :=
  [⟨0x90000, 4, 1, 0x0, 1, 0x0, fun _ _ => [⟨F.SCH_STATUS_SLOT_NOW, .ro⟩, ⟨F.SCH_STATUS_TIMING_ERR, .w1c⟩, ⟨F.SCH_STATUS_CAP_OVER, .w1c⟩, ⟨F.SCH_STATUS_SHORT_NOW, .ro⟩, ⟨F.SCH_STATUS_UNSURE, .ro⟩, ⟨F.SCH_STATUS_SWITCH_PEND, .ro⟩, ⟨F.SCH_STATUS_PROG1_VALID, .ro⟩, ⟨F.SCH_STATUS_PROG0_VALID, .ro⟩, ⟨F.SCH_STATUS_PROG_NOW, .ro⟩, ⟨F.SCH_STATUS_RUNNING, .ro⟩]⟩,
   ⟨0x90004, 4, 1, 0x0, 1, 0x0, fun _ _ => [⟨F.SCH_CTRL_PC_SHARE, .rwl⟩, ⟨F.SCH_CTRL_CARRY_EN, .rw⟩]⟩,
   ⟨0x90008, 4, 1, 0x0, 1, 0x0, fun _ _ => [⟨F.SCH_PROG_CRC0, .ro⟩]⟩,
   ⟨0x9000C, 4, 1, 0x0, 1, 0x0, fun _ _ => [⟨F.SCH_PROG_CRC1, .ro⟩]⟩,
   ⟨0x90010, 4, 1, 0x0, 1, 0x0, fun _ _ => [⟨F.SCH_LOAD_ERR_CHECK, .ro⟩, ⟨F.SCH_LOAD_ERR_OFFSET, .ro⟩]⟩,
   ⟨0x90020, 4, 1, 0x0, 1, 0x0, fun _ _ => [⟨F.SCH_CAP_P_EST, .ro⟩, ⟨F.SCH_CAP_CAP, .ro⟩]⟩,
   ⟨0x90024, 4, 1, 0x0, 1, 0x0, fun _ _ => [⟨F.SCH_PBASE, .rw⟩]⟩,
   ⟨0x90028, 4, 1, 0x0, 1, 0x0, fun _ _ => [⟨F.SCH_SUPPLY_SUPPLY_NOW, .ro⟩, ⟨F.SCH_SUPPLY_SUPPLY_CEIL, .rwl⟩]⟩,
   ⟨0x9002C, 4, 1, 0x0, 1, 0x0, fun _ _ => [⟨F.SCH_CHG_INIT, .rwl⟩]⟩,
   ⟨0x90030, 4, 4, 0x4, 1, 0x0, fun i _ => [⟨F.SCH_EYE_CEIL i, .rwl⟩]⟩,
   ⟨0x90040, 4, 8, 0x4, 1, 0x0, fun i _ => [⟨F.SCH_EPULSE i, .rwl⟩]⟩,
   ⟨0x90060, 4, 8, 0x4, 1, 0x0, fun i _ => [⟨F.SCH_HEAT_CFG_TAU i, .rwl⟩, ⟨F.SCH_HEAT_CFG_RTH i, .rwl⟩]⟩]

/-- Registers of the BAR0 block at 0x9_0000, part 1. -/
def regSpecs_9_1 : List RegSpec :=
  [⟨0x90080, 4, 1, 0x0, 1, 0x0, fun _ _ => [⟨F.SCH_HEAT_LIM_T_MARGIN, .rwl⟩, ⟨F.SCH_HEAT_LIM_T_LIMIT, .rwl⟩]⟩,
   ⟨0x90084, 4, 1, 0x0, 1, 0x0, fun _ _ => [⟨F.SCH_LBT_DEFAULT, .rwl⟩]⟩,
   ⟨0x90088, 4, 1, 0x0, 1, 0x0, fun _ _ => [⟨F.SCH_BANK_RATE, .rwl⟩]⟩,
   ⟨0x900A0, 4, 8, 0x4, 1, 0x0, fun i _ => [⟨F.SCH_BANK_STAT_WITHDRAWN i, .ro⟩, ⟨F.SCH_BANK_STAT_F i, .ro⟩, ⟨F.SCH_BANK_STAT_T_MODEL i, .ro⟩]⟩,
   ⟨0x900C0, 4, 4, 0x4, 1, 0x0, fun i _ => [⟨F.SCH_EYE_PEAK_CELL i, .ro⟩, ⟨F.SCH_EYE_PEAK_PEAK i, .ro⟩]⟩,
   ⟨0x90100, 4, 1, 0x0, 1, 0x0, fun _ _ => [⟨F.SCH_CNT_SHORT, .ro⟩]⟩,
   ⟨0x90104, 4, 1, 0x0, 1, 0x0, fun _ _ => [⟨F.SCH_CNT_DEFER, .ro⟩]⟩,
   ⟨0x90108, 4, 1, 0x0, 1, 0x0, fun _ _ => [⟨F.SCH_CNT_IDLE, .ro⟩]⟩,
   ⟨0x9010C, 4, 1, 0x0, 1, 0x0, fun _ _ => [⟨F.SCH_CNT_EYE, .ro⟩]⟩,
   ⟨0x90110, 4, 1, 0x0, 1, 0x0, fun _ _ => [⟨F.SCH_CNT_HEAT, .ro⟩]⟩,
   ⟨0x90114, 4, 1, 0x0, 1, 0x0, fun _ _ => [⟨F.SCH_CNT_SUPPLY, .ro⟩]⟩,
   ⟨0x90118, 4, 1, 0x0, 1, 0x0, fun _ _ => [⟨F.SCH_CNT_CAP, .ro⟩]⟩]

/-- Registers of the BAR0 block at 0x9_0000, part 2. -/
def regSpecs_9_2 : List RegSpec :=
  [⟨0x9011C, 4, 1, 0x0, 1, 0x0, fun _ _ => [⟨F.SCH_CNT_CARRY, .ro⟩]⟩]

/-- Registers of the BAR0 block at 0x9_0000. -/
def regSpecs_9 : List RegSpec := regSpecs_9_0 ++ regSpecs_9_1 ++ regSpecs_9_2

/-- Registers of the BAR0 block at 0xA_0000, part 0. -/
def regSpecs_A_0 : List RegSpec :=
  [⟨0xA0000, 4, 1, 0x0, 1, 0x0, fun _ _ => [⟨F.EMI_CTRL_SWEEP_EN, .rw⟩, ⟨F.EMI_CTRL_PULSE_W, .rwl⟩]⟩,
   ⟨0xA0004, 4, 1, 0x0, 1, 0x0, fun _ _ => [⟨F.EMI_STATUS_SWEEP_LATE, .w1c⟩, ⟨F.EMI_STATUS_CAUSE, .ro⟩, ⟨F.EMI_STATUS_INHIBIT, .w1c⟩]⟩,
   ⟨0xA0008, 4, 1, 0x0, 1, 0x0, fun _ _ => [⟨F.EMI_ROW_EN, .rwl⟩]⟩,
   ⟨0xA000C, 4, 1, 0x0, 1, 0x0, fun _ _ => [⟨F.EMI_COL_EN, .rwl⟩]⟩,
   ⟨0xA0010, 4, 1, 0x0, 1, 0x0, fun _ _ => [⟨F.EMI_BANK_EN_RETRY, .w1s⟩, ⟨F.EMI_BANK_EN_EN, .rwl⟩]⟩,
   ⟨0xA0014, 4, 1, 0x0, 1, 0x0, fun _ _ => [⟨F.EMI_DIAG_CFG_SWEEP_PERIOD, .rw⟩, ⟨F.EMI_DIAG_CFG_RCH_MAX, .rwl⟩]⟩,
   ⟨0xA0040, 4, 8, 0x4, 1, 0x0, fun i _ => [⟨F.EMI_BANK_CFG_VOV i, .rwl⟩, ⟨F.EMI_BANK_CFG_VSET i, .rwl⟩]⟩,
   ⟨0xA0060, 4, 8, 0x4, 1, 0x0, fun i _ => [⟨F.EMI_BANK_CELL_SHORT_TH i, .rwl⟩, ⟨F.EMI_BANK_CELL_OPEN_TH i, .rwl⟩, ⟨F.EMI_BANK_CELL_CELL_CODE i, .rwl⟩]⟩,
   ⟨0xA0080, 4, 8, 0x4, 1, 0x0, fun i _ => [⟨F.EMI_BANK_STAT_WITHDRAWN i, .ro⟩, ⟨F.EMI_BANK_STAT_CAUSE i, .ro⟩, ⟨F.EMI_BANK_STAT_RCH_EST i, .ro⟩, ⟨F.EMI_BANK_STAT_VLAST i, .ro⟩]⟩,
   ⟨0xA00A0, 4, 1, 0x0, 1, 0x0, fun _ _ => [⟨F.EMI_CELL_FAULT_VALID, .w1c⟩, ⟨F.EMI_CELL_FAULT_KIND, .ro⟩, ⟨F.EMI_CELL_FAULT_CELL, .ro⟩]⟩,
   ⟨0xA0100, 4, 2, 0x4, 1, 0x0, fun i _ => [⟨F.EMI_LBT_CFG_R0_RATIO i, .rwl⟩, ⟨F.EMI_LBT_CFG_BETA i, .rwl⟩]⟩,
   ⟨0xA0108, 4, 2, 0x4, 1, 0x0, fun i _ => [⟨F.EMI_LBT_VALID i, .ro⟩, ⟨F.EMI_LBT_CODE i, .ro⟩, ⟨F.EMI_LBT_TEMP i, .ro⟩]⟩]

/-- Registers of the BAR0 block at 0xA_0000, part 1. -/
def regSpecs_A_1 : List RegSpec :=
  [⟨0xA0200, 4, 1, 0x0, 1, 0x0, fun _ _ => [⟨F.EMI_FL_CTRL_DIAG_EN, .rw⟩, ⟨F.EMI_FL_CTRL_FREQ, .rw⟩, ⟨F.EMI_FL_CTRL_EN, .rw⟩]⟩,
   ⟨0xA0204, 4, 4, 0x4, 1, 0x0, fun i _ => [⟨F.EMI_FL_DUTY i, .rw⟩]⟩,
   ⟨0xA0214, 4, 1, 0x0, 1, 0x0, fun _ _ => [⟨F.EMI_FL_LIM_OVER_TH, .rwl⟩, ⟨F.EMI_FL_LIM_OPEN_TH, .rwl⟩]⟩,
   ⟨0xA0218, 4, 1, 0x0, 1, 0x0, fun _ _ => [⟨F.EMI_FL_TEMP_FL_TOFF, .rwl⟩, ⟨F.EMI_FL_TEMP_FL_TLIM, .rwl⟩]⟩,
   ⟨0xA021C, 4, 1, 0x0, 1, 0x0, fun _ _ => [⟨F.EMI_FL_STAT_FAULT, .w1c⟩, ⟨F.EMI_FL_STAT_CAUSE, .ro⟩, ⟨F.EMI_FL_STAT_STRING, .ro⟩, ⟨F.EMI_FL_STAT_UNVERIFIED, .ro⟩, ⟨F.EMI_FL_STAT_F_FL, .ro⟩]⟩,
   ⟨0xA0300, 4, 1, 0x0, 1, 0x0, fun _ _ => [⟨F.EMI_CNT_MISMATCH, .ro⟩]⟩,
   ⟨0xA0304, 4, 1, 0x0, 1, 0x0, fun _ _ => [⟨F.EMI_CNT_LATE, .ro⟩]⟩,
   ⟨0xA0308, 4, 1, 0x0, 1, 0x0, fun _ _ => [⟨F.EMI_CNT_UNSEEN, .ro⟩]⟩,
   ⟨0xA030C, 4, 1, 0x0, 1, 0x0, fun _ _ => [⟨F.EMI_CNT_SWEEP, .ro⟩]⟩]

/-- Registers of the BAR0 block at 0xA_0000. -/
def regSpecs_A : List RegSpec := regSpecs_A_0 ++ regSpecs_A_1

/-- Registers of the BAR0 block at 0xB_0000, part 0. -/
def regSpecs_B_0 : List RegSpec :=
  [⟨0xB0000, 4, 1, 0x0, 1, 0x0, fun _ _ => [⟨F.THM_CTRL_AUTO_FFC, .rw⟩, ⟨F.THM_CTRL_NEIGH, .rw⟩, ⟨F.THM_CTRL_SYNC_EN, .rw⟩, ⟨F.THM_CTRL_EN, .rw⟩]⟩,
   ⟨0xB0004, 4, 1, 0x0, 1, 0x0, fun _ _ => [⟨F.THM_STATUS_NO_CORR, .ro⟩, ⟨F.THM_STATUS_SHUT_STUCK, .w1c⟩, ⟨F.THM_STATUS_ILIM, .w1c⟩, ⟨F.THM_STATUS_FFC_BUSY, .ro⟩, ⟨F.THM_STATUS_SHUTTER, .ro⟩, ⟨F.THM_STATUS_CORR1_VALID, .ro⟩, ⟨F.THM_STATUS_CORR0_VALID, .ro⟩, ⟨F.THM_STATUS_Q_SET, .ro⟩, ⟨F.THM_STATUS_QUEUED, .ro⟩, ⟨F.THM_STATUS_FADE_STEP, .ro⟩, ⟨F.THM_STATUS_FADING, .ro⟩, ⟨F.THM_STATUS_CORR_NOW, .ro⟩, ⟨F.THM_STATUS_STATE, .ro⟩]⟩,
   ⟨0xB0008, 4, 1, 0x0, 1, 0x0, fun _ _ => [⟨F.THM_GEOM_ARR_LAT, .rw⟩, ⟨F.THM_GEOM_TAPS, .rw⟩, ⟨F.THM_GEOM_ROWS, .rw⟩, ⟨F.THM_GEOM_COLS, .rw⟩]⟩,
   ⟨0xB000C, 4, 1, 0x0, 1, 0x0, fun _ _ => [⟨F.THM_BLANK_FBLANK, .rw⟩, ⟨F.THM_BLANK_LBLANK, .rw⟩]⟩,
   ⟨0xB0010, 4, 1, 0x0, 1, 0x0, fun _ _ => [⟨F.THM_PIXCLK, .rw⟩]⟩,
   ⟨0xB0020, 4, 4, 0x4, 1, 0x0, fun i _ => [⟨F.THM_BIAS_ILIM i, .rw⟩, ⟨F.THM_BIAS_CODE i, .rw⟩]⟩,
   ⟨0xB0040, 4, 16, 0x4, 1, 0x0, fun i _ => [⟨F.THM_TAP_OVR i, .ro⟩, ⟨F.THM_TAP_GAIN i, .rw⟩, ⟨F.THM_TAP_EN i, .rw⟩]⟩,
   ⟨0xB0080, 4, 1, 0x0, 1, 0x0, fun _ _ => [⟨F.THM_SETTLE_SETTLE_TOL, .rw⟩, ⟨F.THM_SETTLE_SETTLE_MAX, .rw⟩, ⟨F.THM_SETTLE_BIAS_SETTLE, .rw⟩]⟩,
   ⟨0xB0084, 4, 1, 0x0, 1, 0x0, fun _ _ => [⟨F.THM_SETTLE2_LAST, .ro⟩, ⟨F.THM_SETTLE2_SD_MIN, .rw⟩]⟩,
   ⟨0xB0090, 4, 1, 0x0, 1, 0x0, fun _ _ => [⟨F.THM_TEMP_CAL_TS_GAIN, .rw⟩, ⟨F.THM_TEMP_CAL_TS_OFF, .rw⟩]⟩,
   ⟨0xB0094, 4, 1, 0x0, 1, 0x0, fun _ _ => [⟨F.THM_TEMP_VALID, .ro⟩, ⟨F.THM_TEMP_T_ARRAY, .ro⟩]⟩,
   ⟨0xB00A0, 4, 1, 0x0, 1, 0x0, fun _ _ => [⟨F.THM_FFC_CFG_FFC_DEV_MAX, .rw⟩, ⟨F.THM_FFC_CFG_FFC_DT_MAX, .rw⟩, ⟨F.THM_FFC_CFG_FFC_SKIP, .rw⟩, ⟨F.THM_FFC_CFG_FFC_AVG, .rw⟩]⟩]

/-- Registers of the BAR0 block at 0xB_0000, part 1. -/
def regSpecs_B_1 : List RegSpec :=
  [⟨0xB00A4, 4, 1, 0x0, 1, 0x0, fun _ _ => [⟨F.THM_FFC_LIM, .rw⟩]⟩,
   ⟨0xB00A8, 4, 1, 0x0, 1, 0x0, fun _ _ => [⟨F.THM_FFC_AUTO_FFC_TRIG_DT, .rw⟩, ⟨F.THM_FFC_AUTO_FFC_PERIOD, .rw⟩]⟩,
   ⟨0xB00AC, 4, 1, 0x0, 1, 0x0, fun _ _ => [⟨F.THM_SHUT_SH_CLOSED, .rw⟩, ⟨F.THM_SHUT_SH_OPEN, .rw⟩]⟩,
   ⟨0xB00B0, 4, 1, 0x0, 1, 0x0, fun _ _ => [⟨F.THM_FFC_RES_ACCEPT, .ro⟩, ⟨F.THM_FFC_RES_CAUSE, .ro⟩, ⟨F.THM_FFC_RES_BAD_CNT, .ro⟩]⟩,
   ⟨0xB00C0, 4, 1, 0x0, 1, 0x0, fun _ _ => [⟨F.THM_SEQ, .ro⟩]⟩,
   ⟨0xB00C8, 8, 1, 0x0, 1, 0x0, fun _ _ => [⟨F.THM_SYNC_TIME, .ro⟩]⟩,
   ⟨0xB0100, 8, 1, 0x0, 1, 0x0, fun _ _ => [⟨F.THM_RING_BASE, .rw⟩]⟩,
   ⟨0xB0108, 4, 1, 0x0, 1, 0x0, fun _ _ => [⟨F.THM_RING_CFG, .rw⟩]⟩,
   ⟨0xB010C, 4, 1, 0x0, 1, 0x0, fun _ _ => [⟨F.THM_RING_PTR_RSLOT, .rw⟩, ⟨F.THM_RING_PTR_WSLOT, .ro⟩]⟩,
   ⟨0xB0200, 4, 1, 0x0, 1, 0x0, fun _ _ => [⟨F.THM_MON_CFG_TONE_SEL, .rw⟩, ⟨F.THM_MON_CFG_BANK1_VALID, .ro⟩, ⟨F.THM_MON_CFG_BANK0_VALID, .ro⟩, ⟨F.THM_MON_CFG_Q_BANK, .ro⟩, ⟨F.THM_MON_CFG_COEF_QUEUED, .ro⟩, ⟨F.THM_MON_CFG_XFADE, .ro⟩, ⟨F.THM_MON_CFG_COEF_NOW, .ro⟩, ⟨F.THM_MON_CFG_FIR_N, .rw⟩]⟩,
   ⟨0xB0210, 4, 4, 0x4, 1, 0x0, fun i _ => [⟨F.THM_MON_CH_VALID i, .ro⟩, ⟨F.THM_MON_CH_EN i, .rw⟩, ⟨F.THM_MON_CH_ENV_K i, .rw⟩, ⟨F.THM_MON_CH_DW i, .rw⟩, ⟨F.THM_MON_CH_RLOG i, .rw⟩]⟩,
   ⟨0xB0220, 4, 4, 0x10, 1, 0x0, fun i _ => [⟨F.THM_MON_OUT0_ENV i, .ro⟩, ⟨F.THM_MON_OUT0_VALUE i, .ro⟩]⟩]

/-- Registers of the BAR0 block at 0xB_0000, part 2. -/
def regSpecs_B_2 : List RegSpec :=
  [⟨0xB0224, 4, 4, 0x10, 1, 0x0, fun i _ => [⟨F.THM_MON_OUT1_RMS i, .ro⟩, ⟨F.THM_MON_OUT1_PEAK i, .ro⟩]⟩,
   ⟨0xB0300, 4, 1, 0x0, 1, 0x0, fun _ _ => [⟨F.THM_CNT_RESETTLE, .ro⟩]⟩,
   ⟨0xB0304, 4, 1, 0x0, 1, 0x0, fun _ _ => [⟨F.THM_CNT_SKIP, .ro⟩]⟩,
   ⟨0xB0308, 4, 1, 0x0, 1, 0x0, fun _ _ => [⟨F.THM_CNT_ABANDON, .ro⟩]⟩,
   ⟨0xB030C, 4, 1, 0x0, 1, 0x0, fun _ _ => [⟨F.THM_CNT_SYNCIGN, .ro⟩]⟩]

/-- Registers of the BAR0 block at 0xB_0000. -/
def regSpecs_B : List RegSpec := regSpecs_B_0 ++ regSpecs_B_1 ++ regSpecs_B_2

/-- Registers of the BAR0 block at 0xC_0000, part 0. -/
def regSpecs_C_0 : List RegSpec :=
  [⟨0xC0000, 4, 2, 0x4000, 1, 0x0, fun i _ => [⟨F.HKC_CTRL_PERIOD i, .rwl⟩, ⟨F.HKC_CTRL_LEN i, .rwl⟩, ⟨F.HKC_CTRL_EN i, .rwl⟩]⟩,
   ⟨0xC0004, 4, 2, 0x4000, 1, 0x0, fun i _ => [⟨F.HKC_CAL_SLICE_ERR i, .w1c⟩, ⟨F.HKC_CAL_CAL_BUSY i, .ro⟩, ⟨F.HKC_CAL_REF_ON i, .ro⟩, ⟨F.HKC_CAL_REF_LP i, .rw⟩, ⟨F.HKC_CAL_BGCAL_EN i, .rw⟩, ⟨F.HKC_CAL_SELFCAL i, .w1s⟩]⟩,
   ⟨0xC0080, 4, 2, 0x4000, 1, 0x0, fun i _ => [⟨F.HKC_INJ_GO i, .w1s⟩, ⟨F.HKC_INJ_INJ_LOST i, .w1c⟩, ⟨F.HKC_INJ_INPUT i, .rw⟩]⟩,
   ⟨0xC0084, 4, 2, 0x4000, 1, 0x0, fun i _ => [⟨F.HKC_INJ_RES_VALID i, .w1c⟩, ⟨F.HKC_INJ_RES_OVR i, .ro⟩, ⟨F.HKC_INJ_RES_AFTER_OVR i, .ro⟩, ⟨F.HKC_INJ_RES_CODE i, .ro⟩]⟩,
   ⟨0xC008C, 4, 2, 0x4000, 1, 0x0, fun i _ => [⟨F.HKC_DONE i, .w1c⟩]⟩,
   ⟨0xC0090, 4, 2, 0x4000, 1, 0x0, fun i _ => [⟨F.HKC_MM_CLR i, .w1s⟩]⟩,
   ⟨0xC0094, 4, 2, 0x4000, 1, 0x0, fun i _ => [⟨F.HKC_OVR_CNT i, .ro⟩]⟩,
   ⟨0xC0100, 4, 2, 0x4000, 32, 0x4, fun i j => [⟨F.HKC_SEQ_DUMMY_AFTER_OVR i j, .rwl⟩, ⟨F.HKC_SEQ_DUMMY i j, .rwl⟩, ⟨F.HKC_SEQ_AVG i j, .rwl⟩, ⟨F.HKC_SEQ_ACQ i j, .rwl⟩, ⟨F.HKC_SEQ_INPUT i j, .rwl⟩]⟩,
   ⟨0xC0200, 4, 2, 0x4000, 32, 0x8, fun i j => [⟨F.HKC_ACC_FRESH i j, .ro⟩, ⟨F.HKC_ACC_OVR i j, .ro⟩, ⟨F.HKC_ACC_AFTER_OVR i j, .ro⟩, ⟨F.HKC_ACC_SUM i j, .ro⟩]⟩,
   ⟨0xC0204, 4, 2, 0x4000, 32, 0x8, fun i j => [⟨F.HKC_MM_MAX i j, .ro⟩, ⟨F.HKC_MM_MIN i j, .ro⟩]⟩,
   ⟨0xC0300, 4, 1, 0x0, 1, 0x0, fun _ _ => [⟨F.HKC_TDAC, .rw⟩]⟩,
   ⟨0xC8000, 4, 8, 0x8, 1, 0x0, fun i _ => [⟨F.HKC_XCMP_EN i, .rwl⟩, ⟨F.HKC_XCMP_TOL i, .rwl⟩, ⟨F.HKC_XCMP_ENT_B i, .rwl⟩, ⟨F.HKC_XCMP_ENT_A i, .rwl⟩]⟩]

/-- Registers of the BAR0 block at 0xC_0000, part 1. -/
def regSpecs_C_1 : List RegSpec :=
  [⟨0xC8004, 4, 8, 0x8, 1, 0x0, fun i _ => [⟨F.HKC_XLIM_HI i, .rwl⟩, ⟨F.HKC_XLIM_LO i, .rwl⟩]⟩,
   ⟨0xC8040, 4, 1, 0x0, 1, 0x0, fun _ _ => [⟨F.HKC_XSTAT_FIRST, .ro⟩, ⟨F.HKC_XSTAT_XFAIL, .w1c⟩]⟩]

/-- Registers of the BAR0 block at 0xC_0000. -/
def regSpecs_C : List RegSpec := regSpecs_C_0 ++ regSpecs_C_1

/-- Registers of the BAR0 block at 0xD_0000, part 0. -/
def regSpecs_D_0 : List RegSpec :=
  [⟨0xD0000, 4, 1, 0x0, 1, 0x0, fun _ _ => [⟨F.SAF_STATUS_LOCK_LATCH, .ro⟩, ⟨F.SAF_STATUS_CLEARABLE, .ro⟩, ⟨F.SAF_STATUS_COMMITTED, .ro⟩, ⟨F.SAF_STATUS_STAGED, .ro⟩, ⟨F.SAF_STATUS_ARMED, .ro⟩, ⟨F.SAF_STATUS_HOLD_CAUSE, .ro⟩, ⟨F.SAF_STATUS_LOCK_CAUSE, .ro⟩]⟩,
   ⟨0xD0004, 4, 1, 0x0, 1, 0x0, fun _ _ => [⟨F.SAF_FSET_RAW, .ro⟩, ⟨F.SAF_FSET_OVERLAP, .ro⟩, ⟨F.SAF_FSET_PREV, .ro⟩, ⟨F.SAF_FSET_VALID, .ro⟩, ⟨F.SAF_FSET_ACTIVE, .ro⟩]⟩,
   ⟨0xD0008, 4, 1, 0x0, 1, 0x0, fun _ _ => [⟨F.SAF_PAD_INCOMPLETE, .ro⟩, ⟨F.SAF_PAD_VIOLATED, .ro⟩]⟩,
   ⟨0xD0010, 4, 1, 0x0, 1, 0x0, fun _ _ => [⟨F.SAF_GUARD_PEND 0, .ro⟩, ⟨F.SAF_GUARD_PEND 1, .ro⟩, ⟨F.SAF_GUARD_PEND 2, .ro⟩, ⟨F.SAF_GUARD_PEND 3, .ro⟩, ⟨F.SAF_GUARD_DISC 0, .ro⟩, ⟨F.SAF_GUARD_DISC 1, .ro⟩, ⟨F.SAF_GUARD_DISC 2, .ro⟩, ⟨F.SAF_GUARD_DISC 3, .ro⟩, ⟨F.SAF_GUARD_CH_B 0, .ro⟩, ⟨F.SAF_GUARD_CH_B 1, .ro⟩, ⟨F.SAF_GUARD_CH_B 2, .ro⟩, ⟨F.SAF_GUARD_CH_B 3, .ro⟩, ⟨F.SAF_GUARD_CH_A 0, .ro⟩, ⟨F.SAF_GUARD_CH_A 1, .ro⟩, ⟨F.SAF_GUARD_CH_A 2, .ro⟩, ⟨F.SAF_GUARD_CH_A 3, .ro⟩]⟩,
   ⟨0xD0014, 4, 1, 0x0, 1, 0x0, fun _ _ => [⟨F.SAF_RST_ACCEPT_CNT, .ro⟩, ⟨F.SAF_RST_REFUSE_CNT, .ro⟩, ⟨F.SAF_RST_LEVEL, .ro⟩, ⟨F.SAF_RST_JAM, .w1c⟩, ⟨F.SAF_RST_EDGE, .w1c⟩]⟩,
   ⟨0xD0018, 4, 1, 0x0, 1, 0x0, fun _ _ => [⟨F.SAF_XCMP_MISMATCH_CNT, .ro⟩, ⟨F.SAF_XCMP_FRAME_FAIL, .ro⟩, ⟨F.SAF_XCMP_HB_FAIL, .ro⟩]⟩,
   ⟨0xD001C, 4, 1, 0x0, 1, 0x0, fun _ _ => [⟨F.SAF_LOAD_ERR_CHECK, .ro⟩, ⟨F.SAF_LOAD_ERR_OFFSET, .ro⟩]⟩,
   ⟨0xD0020, 8, 1, 0x0, 1, 0x0, fun _ _ => [⟨F.SAF_DIGEST, .ro⟩]⟩,
   ⟨0xD0028, 8, 1, 0x0, 1, 0x0, fun _ _ => [⟨F.SAF_COUNTER, .ro⟩]⟩,
   ⟨0xD0030, 4, 1, 0x0, 1, 0x0, fun _ _ => [⟨F.SAF_EVENT_EDM, .w1c⟩, ⟨F.SAF_EVENT_LOCKOUT, .w1c⟩, ⟨F.SAF_EVENT_HOLD, .w1c⟩, ⟨F.SAF_EVENT_GUARD_OPEN, .w1c⟩, ⟨F.SAF_EVENT_FSET_CHANGE, .w1c⟩, ⟨F.SAF_EVENT_WARN, .w1c⟩, ⟨F.SAF_EVENT_GAP_TRIP, .w1c⟩, ⟨F.SAF_EVENT_TRIP, .w1c⟩]⟩,
   ⟨0xD0040, 4, 4, 0x4, 1, 0x0, fun i _ => [⟨F.SAF_PAIR_FORCED i, .ro⟩, ⟨F.SAF_PAIR_EDM_NOT_READY i, .ro⟩, ⟨F.SAF_PAIR_FSET i, .ro⟩, ⟨F.SAF_PAIR_GUARD_PEND i, .ro⟩, ⟨F.SAF_PAIR_GUARD i, .ro⟩, ⟨F.SAF_PAIR_COVERAGE i, .ro⟩, ⟨F.SAF_PAIR_VIOL i, .ro⟩, ⟨F.SAF_PAIR_SRB_B i, .ro⟩, ⟨F.SAF_PAIR_SRB_A i, .ro⟩, ⟨F.SAF_PAIR_EDM i, .ro⟩, ⟨F.SAF_PAIR_EDM_PEND i, .ro⟩, ⟨F.SAF_PAIR_STATE i, .ro⟩]⟩,
   ⟨0xD0060, 4, 1, 0x0, 1, 0x0, fun _ _ => [⟨F.SAF_LINE_FAULT_EDM_FAULT, .ro⟩, ⟨F.SAF_LINE_FAULT_TP_FAULT, .ro⟩, ⟨F.SAF_LINE_FAULT_RB_FAULT, .ro⟩]⟩]

/-- Registers of the BAR0 block at 0xD_0000, part 1. -/
def regSpecs_D_1 : List RegSpec :=
  [⟨0xD0080, 4, 1, 0x0, 1, 0x0, fun _ _ => [⟨F.SAF_CNT_TRIP, .ro⟩]⟩,
   ⟨0xD0084, 4, 1, 0x0, 1, 0x0, fun _ _ => [⟨F.SAF_CNT_GAP, .ro⟩]⟩,
   ⟨0xD0088, 4, 1, 0x0, 1, 0x0, fun _ _ => [⟨F.SAF_CNT_GRACE, .ro⟩]⟩]

/-- Registers of the BAR0 block at 0xD_0000. -/
def regSpecs_D : List RegSpec := regSpecs_D_0 ++ regSpecs_D_1

/-- Registers of the BAR0 block at 0xE_0000, part 0. -/
def regSpecs_E_0 : List RegSpec :=
  [⟨0xE0000, 4, 1, 0x0, 1, 0x0, fun _ _ => [⟨F.RED_CTRL_RELEASE, .w1s⟩, ⟨F.RED_CTRL_SIDE, .rwl⟩]⟩,
   ⟨0xE0004, 4, 1, 0x0, 1, 0x0, fun _ _ => [⟨F.RED_STATUS_CAL_DIFF, .ro⟩, ⟨F.RED_STATUS_BUS_FAULT, .w1c⟩, ⟨F.RED_STATUS_ALT_CAUSE, .ro⟩, ⟨F.RED_STATUS_ALT, .ro⟩, ⟨F.RED_STATUS_SILENCE, .ro⟩, ⟨F.RED_STATUS_STANDBY, .ro⟩, ⟨F.RED_STATUS_HALTER, .ro⟩, ⟨F.RED_STATUS_ROLE, .ro⟩, ⟨F.RED_STATUS_MODE, .ro⟩]⟩,
   ⟨0xE0008, 4, 1, 0x0, 1, 0x0, fun _ _ => [⟨F.RED_HERD_SWITCH_CNT, .ro⟩, ⟨F.RED_HERD_H1_OK, .ro⟩, ⟨F.RED_HERD_H0_OK, .ro⟩, ⟨F.RED_HERD_ACTIVE, .ro⟩]⟩,
   ⟨0xE000C, 4, 1, 0x0, 1, 0x0, fun _ _ => [⟨F.RED_SCHEMA_PARTNER, .ro⟩, ⟨F.RED_SCHEMA_OWN, .ro⟩]⟩,
   ⟨0xE0010, 8, 1, 0x0, 1, 0x0, fun _ _ => [⟨F.RED_HASH, .ro⟩]⟩,
   ⟨0xE0018, 8, 1, 0x0, 1, 0x0, fun _ _ => [⟨F.RED_PHASH, .ro⟩]⟩,
   ⟨0xE0020, 4, 1, 0x0, 1, 0x0, fun _ _ => [⟨F.RED_CAL_VER_PARTNER, .ro⟩, ⟨F.RED_CAL_VER_OWN, .ro⟩]⟩,
   ⟨0xE0024, 4, 1, 0x0, 1, 0x0, fun _ _ => [⟨F.RED_PSKEW, .ro⟩]⟩,
   ⟨0xE0028, 4, 1, 0x0, 1, 0x0, fun _ _ => [⟨F.RED_PZERO, .ro⟩]⟩,
   ⟨0xE002C, 4, 1, 0x0, 1, 0x0, fun _ _ => [⟨F.RED_ILK_CLAIM_CNT, .ro⟩, ⟨F.RED_ILK_DRIVING, .ro⟩, ⟨F.RED_ILK_LEVEL, .ro⟩]⟩,
   ⟨0xE0030, 4, 1, 0x0, 1, 0x0, fun _ _ => [⟨F.RED_DBL_MAX, .ro⟩]⟩,
   ⟨0xE0040, 4, 1, 0x0, 1, 0x0, fun _ _ => [⟨F.RED_CNT_SILENCE, .ro⟩]⟩]

/-- Registers of the BAR0 block at 0xE_0000, part 1. -/
def regSpecs_E_1 : List RegSpec :=
  [⟨0xE0044, 4, 1, 0x0, 1, 0x0, fun _ _ => [⟨F.RED_CNT_TAKEOVER, .ro⟩]⟩,
   ⟨0xE0048, 4, 1, 0x0, 1, 0x0, fun _ _ => [⟨F.RED_CNT_LATE, .ro⟩]⟩,
   ⟨0xE004C, 4, 1, 0x0, 1, 0x0, fun _ _ => [⟨F.RED_CNT_ALT, .ro⟩]⟩]

/-- Registers of the BAR0 block at 0xE_0000. -/
def regSpecs_E : List RegSpec := regSpecs_E_0 ++ regSpecs_E_1

/-- Registers of the BAR0 block at 0xF_0000, part 0. -/
def regSpecs_F_0 : List RegSpec :=
  [⟨0xF0000, 4, 1, 0x0, 1, 0x0, fun _ _ => [⟨F.LNK_PCIE_STATUS_PWR, .ro⟩, ⟨F.LNK_PCIE_STATUS_D3HOT, .ro⟩, ⟨F.LNK_PCIE_STATUS_FN_MASK, .ro⟩, ⟨F.LNK_PCIE_STATUS_MSIX_EN, .ro⟩, ⟨F.LNK_PCIE_STATUS_BME, .ro⟩, ⟨F.LNK_PCIE_STATUS_REVERSED, .ro⟩, ⟨F.LNK_PCIE_STATUS_WIDTH, .ro⟩, ⟨F.LNK_PCIE_STATUS_SPEED, .ro⟩]⟩,
   ⟨0xF0004, 4, 1, 0x0, 1, 0x0, fun _ _ => [⟨F.LNK_PCIE_ID_DEVICE, .ro⟩, ⟨F.LNK_PCIE_ID_VENDOR, .ro⟩]⟩,
   ⟨0xF0008, 4, 1, 0x0, 1, 0x0, fun _ _ => [⟨F.LNK_PCIE_SUBSYS_SUBSYS_ID, .ro⟩, ⟨F.LNK_PCIE_SUBSYS_SUBSYS_VID, .ro⟩]⟩,
   ⟨0xF000C, 4, 1, 0x0, 1, 0x0, fun _ _ => [⟨F.LNK_PCIE_CTRL_PME_WAIT, .rw⟩, ⟨F.LNK_PCIE_CTRL_WAKE_EN, .rw⟩]⟩,
   ⟨0xF0010, 4, 1, 0x0, 1, 0x0, fun _ _ => [⟨F.LNK_PCIE_USE_USE_TX, .ro⟩, ⟨F.LNK_PCIE_USE_USE_RX, .ro⟩]⟩,
   ⟨0xF0014, 4, 1, 0x0, 1, 0x0, fun _ _ => [⟨F.LNK_PCIE_ERR_CTO, .ro⟩, ⟨F.LNK_PCIE_ERR_POISON, .ro⟩, ⟨F.LNK_PCIE_ERR_UNCORR, .ro⟩, ⟨F.LNK_PCIE_ERR_CORR, .ro⟩]⟩,
   ⟨0xF0018, 4, 1, 0x0, 1, 0x0, fun _ _ => [⟨F.LNK_PCIE_DOWN_CNT, .ro⟩]⟩,
   ⟨0xF0100, 4, 1, 0x0, 1, 0x0, fun _ _ => [⟨F.LNK_PRT_CTRL_TBUS_EN, .rw⟩, ⟨F.LNK_PRT_CTRL_DEEP_EN, .rw⟩, ⟨F.LNK_PRT_CTRL_DOZE_EN, .rw⟩, ⟨F.LNK_PRT_CTRL_EN, .rw⟩]⟩,
   ⟨0xF0104, 4, 1, 0x0, 1, 0x0, fun _ _ => [⟨F.LNK_PRT_STATUS_FAIL_STEP, .ro⟩, ⟨F.LNK_PRT_STATUS_LANE_SWAP, .w1c⟩, ⟨F.LNK_PRT_STATUS_POL_INV, .ro⟩, ⟨F.LNK_PRT_STATUS_SESSION, .ro⟩, ⟨F.LNK_PRT_STATUS_LANES_UP, .ro⟩, ⟨F.LNK_PRT_STATUS_STATE, .ro⟩]⟩,
   ⟨0xF0108, 4, 1, 0x0, 1, 0x0, fun _ _ => [⟨F.LNK_PRT_PCAP, .ro⟩]⟩,
   ⟨0xF010C, 4, 1, 0x0, 1, 0x0, fun _ _ => [⟨F.LNK_PRT_LAT_RMS, .ro⟩, ⟨F.LNK_PRT_LAT_LAT, .ro⟩]⟩,
   ⟨0xF0110, 4, 2, 0x4, 1, 0x0, fun i _ => [⟨F.LNK_PRT_EYE_VALID i, .ro⟩, ⟨F.LNK_PRT_EYE_LOW i, .ro⟩, ⟨F.LNK_PRT_EYE_WIDTH i, .ro⟩, ⟨F.LNK_PRT_EYE_HEIGHT i, .ro⟩]⟩]

/-- Registers of the BAR0 block at 0xF_0000, part 1. -/
def regSpecs_F_1 : List RegSpec :=
  [⟨0xF0120, 4, 1, 0x0, 1, 0x0, fun _ _ => [⟨F.LNK_PRT_CNT_TAG, .ro⟩]⟩,
   ⟨0xF0124, 4, 1, 0x0, 1, 0x0, fun _ _ => [⟨F.LNK_PRT_CNT_SEQ, .ro⟩]⟩,
   ⟨0xF0128, 4, 1, 0x0, 1, 0x0, fun _ _ => [⟨F.LNK_PRT_CNT_HDR, .ro⟩]⟩,
   ⟨0xF012C, 4, 1, 0x0, 1, 0x0, fun _ _ => [⟨F.LNK_PRT_CNT_LOSS, .ro⟩]⟩,
   ⟨0xF0130, 4, 1, 0x0, 1, 0x0, fun _ _ => [⟨F.LNK_PRT_CNT_TRAIN, .ro⟩]⟩]

/-- Registers of the BAR0 block at 0xF_0000. -/
def regSpecs_F : List RegSpec := regSpecs_F_0 ++ regSpecs_F_1

/-- Registers of the BAR0 block at 0x10_0000, part 0. -/
def regSpecs_10_0 : List RegSpec :=
  [⟨0x100000, 4, 1, 0x0, 1, 0x0, fun _ _ => [⟨F.ACQ_STATUS_LAST_SRC, .ro⟩, ⟨F.ACQ_STATUS_CFG_VALID, .ro⟩, ⟨F.ACQ_STATUS_PRE_FULL, .ro⟩, ⟨F.ACQ_STATUS_STATE, .ro⟩]⟩,
   ⟨0x100004, 4, 1, 0x0, 1, 0x0, fun _ _ => [⟨F.ACQ_EVENT_LOG_FULL, .w1c⟩, ⟨F.ACQ_EVENT_MISSED, .w1c⟩, ⟨F.ACQ_EVENT_CLOSED, .w1c⟩, ⟨F.ACQ_EVENT_TRIG, .w1c⟩]⟩,
   ⟨0x100008, 4, 1, 0x0, 1, 0x0, fun _ _ => [⟨F.ACQ_REC_SEQ, .ro⟩]⟩,
   ⟨0x10000C, 4, 1, 0x0, 1, 0x0, fun _ _ => [⟨F.ACQ_REC_LOC_VALID, .ro⟩, ⟨F.ACQ_REC_LOC_OFFSET, .ro⟩, ⟨F.ACQ_REC_LOC_WINDOW, .ro⟩]⟩,
   ⟨0x100010, 8, 1, 0x0, 1, 0x0, fun _ _ => [⟨F.ACQ_LAST_TRIG, .ro⟩]⟩,
   ⟨0x100018, 4, 1, 0x0, 1, 0x0, fun _ _ => [⟨F.ACQ_MISSED, .ro⟩]⟩,
   ⟨0x10001C, 4, 1, 0x0, 1, 0x0, fun _ _ => [⟨F.ACQ_LOG_LOG_OVF, .ro⟩, ⟨F.ACQ_LOG_TB_DROP, .ro⟩, ⟨F.ACQ_LOG_ENTRIES, .ro⟩]⟩,
   ⟨0x100020, 4, 1, 0x0, 1, 0x0, fun _ _ => [⟨F.ACQ_TB_CFG, .rw⟩]⟩,
   ⟨0x100030, 4, 1, 0x0, 1, 0x0, fun _ _ => [⟨F.ACQ_CNT_REC, .ro⟩]⟩,
   ⟨0x100034, 4, 1, 0x0, 1, 0x0, fun _ _ => [⟨F.ACQ_CNT_OVF, .ro⟩]⟩,
   ⟨0x100100, 4, 16, 0x4, 1, 0x0, fun i _ => [⟨F.ACQ_TB_DLY_VALID i, .ro⟩, ⟨F.ACQ_TB_DLY_DELAY i, .ro⟩]⟩]

/-- Registers of the BAR0 block at 0x10_0000. -/
def regSpecs_10 : List RegSpec := regSpecs_10_0

/-- Registers of the BAR0 block at 0x11_0000, part 0. -/
def regSpecs_11_0 : List RegSpec :=
  [⟨0x110000, 4, 1, 0x0, 1, 0x0, fun _ _ => [⟨F.CAL_STATUS_BUSY, .ro⟩, ⟨F.CAL_STATUS_STORE_BUSY, .ro⟩, ⟨F.CAL_STATUS_ZERO_REFUSED, .w1c⟩, ⟨F.CAL_STATUS_KIND, .ro⟩, ⟨F.CAL_STATUS_STALE, .ro⟩]⟩,
   ⟨0x110004, 4, 1, 0x0, 1, 0x0, fun _ _ => [⟨F.CAL_CTRL_REGROOM_DT, .rw⟩, ⟨F.CAL_CTRL_AUTO_EN, .rw⟩]⟩,
   ⟨0x110008, 4, 1, 0x0, 1, 0x0, fun _ _ => [⟨F.CAL_VERSION_STORED, .ro⟩, ⟨F.CAL_VERSION_WORKING, .ro⟩]⟩,
   ⟨0x11000C, 4, 1, 0x0, 1, 0x0, fun _ _ => [⟨F.CAL_REFUSED, .w1c⟩]⟩,
   ⟨0x110010, 4, 1, 0x0, 1, 0x0, fun _ _ => [⟨F.CAL_CG_CG_PROF, .rwl⟩, ⟨F.CAL_CG_CG_DIST, .rwl⟩]⟩,
   ⟨0x110014, 4, 1, 0x0, 1, 0x0, fun _ _ => [⟨F.CAL_FLASH_B_OK, .ro⟩, ⟨F.CAL_FLASH_A_OK, .ro⟩, ⟨F.CAL_FLASH_COPY_ERR, .ro⟩]⟩,
   ⟨0x110100, 4, 17, 0x4, 1, 0x0, fun i _ => [⟨F.CAL_QUAL_FAIL i, .ro⟩, ⟨F.CAL_QUAL_NOISE i, .ro⟩, ⟨F.CAL_QUAL_SKEW_MAX i, .ro⟩, ⟨F.CAL_QUAL_DNL_MAX i, .ro⟩]⟩,
   ⟨0x110180, 4, 18, 0x4, 1, 0x0, fun i _ => [⟨F.CAL_LANE_VALID i, .ro⟩, ⟨F.CAL_LANE_WIDTH i, .ro⟩, ⟨F.CAL_LANE_PRESET i, .ro⟩]⟩]

/-- Registers of the BAR0 block at 0x11_0000. -/
def regSpecs_11 : List RegSpec := regSpecs_11_0

/-- Registers of the BAR0 block at 0x12_0000, part 0. -/
def regSpecs_12_0 : List RegSpec :=
  [⟨0x120000, 4, 1, 0x0, 1, 0x0, fun _ _ => [⟨F.SEC_STATUS_OPENED, .ro⟩, ⟨F.SEC_STATUS_ENDORSED, .ro⟩, ⟨F.SEC_STATUS_IDKEY, .ro⟩, ⟨F.SEC_STATUS_SESSION_KEYS, .ro⟩, ⟨F.SEC_STATUS_PENDING, .ro⟩, ⟨F.SEC_STATUS_ACTIVE, .ro⟩, ⟨F.SEC_STATUS_SLOT_VALID, .ro⟩]⟩,
   ⟨0x120010, 4, 4, 0x4, 1, 0x0, fun i _ => [⟨F.SEC_UID i, .ro⟩]⟩,
   ⟨0x120020, 4, 1, 0x0, 1, 0x0, fun _ _ => [⟨F.SEC_FW_A, .ro⟩]⟩,
   ⟨0x120024, 4, 1, 0x0, 1, 0x0, fun _ _ => [⟨F.SEC_FW_B, .ro⟩]⟩,
   ⟨0x120028, 4, 1, 0x0, 1, 0x0, fun _ _ => [⟨F.SEC_SVN_MIN, .ro⟩]⟩,
   ⟨0x120030, 4, 1, 0x0, 1, 0x0, fun _ _ => [⟨F.SEC_STAGE, .ro⟩]⟩,
   ⟨0x120040, 4, 8, 0x4, 1, 0x0, fun i _ => [⟨F.SEC_KEY_SLOT_VALID i, .ro⟩, ⟨F.SEC_KEY_SLOT_PURPOSE i, .ro⟩]⟩,
   ⟨0x120060, 8, 1, 0x0, 1, 0x0, fun _ _ => [⟨F.SEC_ZERO_TIME, .ro⟩]⟩,
   ⟨0x120068, 4, 1, 0x0, 1, 0x0, fun _ _ => [⟨F.SEC_ZERO_CNT, .ro⟩]⟩]

/-- Registers of the BAR0 block at 0x12_0000. -/
def regSpecs_12 : List RegSpec := regSpecs_12_0

/-- The registers of the block that holds a BAR0 offset (R14); the front-end block spans two (R15). -/
def regSpecsOf (off : Nat) : List RegSpec :=
  match off / 0x10000 with
  | 0 => regSpecs_0
  | 1 => regSpecs_1
  | 2 => regSpecs_2
  | 3 => regSpecs_3
  | 4 => regSpecs_4 ++ regSpecs_5
  | 5 => regSpecs_4 ++ regSpecs_5
  | 6 => regSpecs_6
  | 7 => regSpecs_7
  | 8 => regSpecs_8
  | 9 => regSpecs_9
  | 10 => regSpecs_A
  | 11 => regSpecs_B
  | 12 => regSpecs_C
  | 13 => regSpecs_D
  | 14 => regSpecs_E
  | 15 => regSpecs_F
  | 16 => regSpecs_10
  | 17 => regSpecs_11
  | 18 => regSpecs_12
  | _ => []

end Sys2Proof.Machine
end

