-- ==== Sys2Proof/Machine/Ops.lean ====
section
/-! DEFINITION. Named operations that every family shares: the register store, rounding, bit fields, byte order,
the fault log with its queues and latch (chapter 20), and the changes of device state that faults cause. -/

namespace Sys2Proof.Machine

/-! ### Plain arithmetic -/

/-- Bit i of a word. -/
def bit (w i : Nat) : Bool := w.testBit i

/-- The field of width n at bit i of a word. -/
def bits (w i n : Nat) : Nat := (w >>> i) % 2 ^ n

/-- 1 for true, 0 for false. -/
def b2n (b : Bool) : Nat := if b then 1 else 0

/-- The word with bit i set. -/
def setBit (w i : Nat) : Nat := w ||| 2 ^ i

/-- The word with bit i cleared. -/
def clearBit (w i : Nat) : Nat := if w.testBit i then w - 2 ^ i else w

/-- How many of the low n bits of a word are 1. -/
def popCount : Nat → Nat → Nat
  | 0, _ => 0
  | n + 1, w => popCount n w + b2n (w.testBit n)

/-- Division rounded to the nearest integer, halves away from zero (R686). -/
def divRound (a b : Nat) : Nat := (2 * a + b) / (2 * b)

/-- Signed division rounded to the nearest integer, halves away from zero (R686). -/
def divRoundInt (a : Int) (b : Nat) : Int :=
  if a < 0 then - Int.ofNat (divRound a.natAbs b) else Int.ofNat (divRound a.natAbs b)

/-- Rounded up division. -/
def divUp (a b : Nat) : Nat := (a + b - 1) / b

/-- A signed number as the low n bits of its two's complement. -/
def toBits (n : Nat) (x : Int) : Nat := (x % (2 ^ n : Nat)).toNat

/-- The signed number that n bits of two's complement hold. -/
def ofBits (n w : Nat) : Int :=
  let v := w % 2 ^ n
  if v < 2 ^ (n - 1) then Int.ofNat v else Int.ofNat v - Int.ofNat (2 ^ n)

/-- A number held between two bounds. -/
def clampInt (lo hi x : Int) : Int := max lo (min hi x)

/-! ### Bytes (little-endian, R5) -/

/-- The bytes of a number, lowest first. -/
def leBytes : Nat → Nat → List Byte
  | 0, _ => []
  | n + 1, w => BitVec.ofNat 8 w :: leBytes n (w / 256)

/-- The number that bytes hold, lowest first. -/
def ofLe : List Byte → Nat
  | [] => 0
  | b :: r => b.toNat + 256 * ofLe r

/-- The n-byte little-endian field at an offset; bytes beyond the end count as 0. -/
def leAt (l : List Byte) (off n : Nat) : Nat := ofLe ((l.drop off).take n)

/-- Whether every byte of a range is 0. -/
def zeroAt (l : List Byte) (off n : Nat) : Bool := ((l.drop off).take n).all (· == 0)

/-- One step of the reflected CRC-32C over one bit (R155). -/
def crcBit (c : Nat) : Nat := if c % 2 = 1 then (c / 2) ^^^ 0x82F63B78 else c / 2

/-- CRC-32C register after n further bits. -/
def crcBits : Nat → Nat → Nat
  | 0, c => c
  | n + 1, c => crcBits n (crcBit c)

/-- CRC-32C register after bytes. -/
def crcFrom (c : Nat) : List Byte → Nat
  | [] => c
  | b :: r => crcFrom (crcBits 8 (c ^^^ b.toNat)) r

/-- The CRC-32C of bytes (R155). -/
def crc32c (l : List Byte) : Nat := crcFrom 0xFFFFFFFF l ^^^ 0xFFFFFFFF

/-! ### The register store -/

/-- The key of a field in the store: its bit address. -/
def Fld.key (f : Fld) : Nat := 8 * f.off + f.lsb

/-- The value listed for a key. -/
def lookupReg : List (Nat × Nat) → Nat → Option Nat
  | [], _ => none
  | (k, v) :: r, x => if x = k then some v else lookupReg r x

/-- The list with a key set to a value, in rising order. -/
def insertReg : List (Nat × Nat) → Nat → Nat → List (Nat × Nat)
  | [], x, w => [(x, w)]
  | (k, v) :: r, x, w =>
    if x < k then (x, w) :: (k, v) :: r
    else if x = k then (x, w) :: r
    else (k, v) :: insertReg r x w

/-- The list without a key. -/
def eraseReg : List (Nat × Nat) → Nat → List (Nat × Nat)
  | [], _ => []
  | (k, v) :: r, x => if x = k then eraseReg r x else (k, v) :: eraseReg r x

/-- The present value of a field. -/
def State.get (s : State) (f : Fld) : Nat := (lookupReg s.regs f.key).getD f.reset

/-- Whether a one-bit field is 1. -/
def State.flag (s : State) (f : Fld) : Bool := s.get f != 0

/-- The store after a field takes a value; a value equal to the reset value is not listed. -/
def putReg (l : List (Nat × Nat)) (f : Fld) (w : Nat) : List (Nat × Nat) :=
  if w = f.reset then eraseReg l f.key else insertReg l f.key w

/-- A field takes a value, cut to the field's width. -/
def State.set (s : State) (f : Fld) (v : Nat) : State := { s with regs := putReg s.regs f (v % 2 ^ f.width) }

/-- A one-bit field takes a truth value. -/
def State.put (s : State) (f : Fld) (b : Bool) : State := s.set f (b2n b)

/-- A counter field adds n and holds at its largest value. -/
def State.add (s : State) (f : Fld) (n : Nat) : State := s.set f (min (s.get f + n) (2 ^ f.width - 1))

/-- A counter field adds one and holds at its largest value. -/
def State.inc (s : State) (f : Fld) : State := s.add f 1

/-- A field takes a signed value in two's complement. -/
def State.setInt (s : State) (f : Fld) (x : Int) : State := s.set f (toBits f.width x)

/-- The signed value of a two's complement field. -/
def State.getInt (s : State) (f : Fld) : Int := ofBits f.width (s.get f)

/-- A field returns to its reset value. -/
def State.clear (s : State) (f : Fld) : State := { s with regs := eraseReg s.regs f.key }

/-- The next free value, below 2^w, and the state that has taken it (log entry 5). -/
def State.takeFree (s : State) (w : Nat) : Nat × State :=
  (Config.freeValue s.free % 2 ^ w, { s with free := s.free + 1 })

/-- DEVTIME now. -/
def State.now (s : State) : Nat := s.get F.TDC_DEVTIME

/-- A stamp on the raw time base in steps of 15.625 ps: a number of ticks of PLL_TIME since the main reset release and steps more
(R221, R226). -/
def stampAt (s : State) (raw steps : Nat) : Nat := 80 * (raw - s.sys.rawZero) + steps

/-- An edge of a source reaches the frequency engines that run on it; sel is what SEL must name, where the source has one (R221). -/
def noteEdge (s : State) (src : Nat) (sel : Option Nat) (x : Edge) : State :=
  let takes (e : Nat) : Bool :=
    s.flag (F.TDC_FM_CTRL_START e) && s.get (F.TDC_FM_CTRL_SRC e) = src && sel.all fun k => s.get (F.TDC_FM_CTRL_SEL e) = k
  { s with tdc := { s.tdc with stamps := s.tdc.stamps.mapIdx fun e l => if takes e then l ++ [x] else l } }

/-- A COMMAND frame is held through the wake (R162). -/
def mgmtHeld (s : State) : Bool := s.cmd.held.any fun (h : HeldFrame) => h.sleep && h.kind == 1

/-- The condition of a sticky source rises: its IRQ_STICKY bit is set (R557). -/
def stick (s : State) (src : Nat) : State :=
  s.set (F.IRQ_STICKY (src / 32)) (s.get (F.IRQ_STICKY (src / 32)) ||| 2 ^ (src % 32))

/-- PLL_TIME has switched its reference: the gates that run see it (R225). -/
def noteRefSwitch (s : State) : State := { s with tdc := { s.tdc with refSwitched := [true, true, true, true] } }

/-- A square root bit by bit: r grown by the powers of two below 2^k that keep its square at most n. -/
def sqrtBits (n : Nat) : Nat → Nat → Nat
  | 0, r => r
  | k + 1, r => if (r + 2 ^ k) * (r + 2 ^ k) ≤ n then sqrtBits n k (r + 2 ^ k) else sqrtBits n k r

/-- The whole part of a square root. -/
def isqrt (n : Nat) : Nat := sqrtBits n (n.log2 / 2 + 1) 0

/-- The square root of a fraction a / b, rounded to the nearest integer (R686). -/
def sqrtRound (a b : Nat) : Nat := if b = 0 then 0 else (isqrt (4 * a / b) + 1) / 2

/-! ### Fractions -/

/-- The fraction of a whole number. -/
def Frac.ofNat (n : Nat) : Frac := { num := Int.ofNat n, den := 1 }
/-- Sum. -/
def Frac.add (a b : Frac) : Frac :=
  if a.den = b.den then { num := a.num + b.num, den := a.den }
  else { num := a.num * Int.ofNat b.den + b.num * Int.ofNat a.den, den := a.den * b.den }
/-- Product with a whole number. -/
def Frac.scale (a : Frac) (n : Nat) : Frac := { num := a.num * Int.ofNat n, den := a.den }
/-- Whether a is at most b. -/
def Frac.le (a b : Frac) : Bool := a.num * Int.ofNat b.den ≤ b.num * Int.ofNat a.den
/-- Sum of a list. -/
def Frac.sum (l : List Frac) : Frac := l.foldl Frac.add (Frac.ofNat 0)
/-- Lowest terms. -/
def Frac.reduce (a : Frac) : Frac :=
  let g := Nat.gcd a.num.natAbs a.den
  if g ≤ 1 then a else { num := a.num / Int.ofNat g, den := a.den / g }

/-! ### Faults (chapter 20) -/

/-- Whether a fault code marks an event that leaves no condition behind (R690). -/
def faultIsEvent (code detail : Nat) : Bool :=
  [0x0005, 0x0007, 0x0008, 0x0701, 0x0803, 0x0903, 0x0904, 0x0A05, 0x1101, 0x1104].contains code
    || (code == 0x0F02 && detail == 0)

/-- The record of a repeat: one more occurrence, ACTIVE and CLASS only ever raised (R638). -/
def FaultRec.repeated (r : FaultRec) (cls : Nat) (active : Bool) : FaultRec :=
  { r with occ := min (r.occ + 1) 255, active := r.active || active, cls := max r.cls cls }

/-- The log after the first record that meets p is taken out. -/
def dropFirst (p : FaultRec → Bool) : List FaultRec → List FaultRec
  | [] => []
  | r :: l => if p r then l else r :: dropFirst p l

/-- The lowest class among records; 4 where there is none. -/
def lowestClass : List FaultRec → Nat
  | [] => 4
  | r :: l => l.foldl (fun m x => min m x.cls) r.cls

/-- The log with a new record, and whether a record was replaced or dropped (R639). -/
def insertFault (l : List FaultRec) (r : FaultRec) : List FaultRec × Bool :=
  if l.length < 64 then (l ++ [r], false)
  else if l.any (fun x => !x.active) then (dropFirst (fun x => !x.active) l ++ [r], true)
  else if lowestClass l < r.cls then (dropFirst (fun x => x.cls == lowestClass l) l ++ [r], true)
  else (l, true)

/-- Whether a record has this code and DETAIL. -/
def FaultRec.is (r : FaultRec) (code detail : Nat) : Bool := r.code == code && r.detail == detail

/-- A condition of a trigger source (trigger sources table) arises at a DEVTIME: while the recorder is armed and the source
enabled it waits for the trigger sample (R538, R540). -/
def triggerAt (s : State) (source date : Nat) : State :=
  match s.acq.cfg with
  | some c =>
    if bit c.srcEn source && s.get F.ACQ_STATUS_STATE != 0 then { s with acq := { s.acq with pend := s.acq.pend ++ [(source, date)] } }
    else s
  | none => s

/-- A trigger source's condition arises now. -/
def trigger (s : State) (source : Nat) : State := triggerAt s source s.now

/-- A logged fault of class FAULT_MIN or higher is a trigger (source 0). -/
def faultTrigger (s : State) (cls : Nat) : State :=
  match s.acq.cfg with
  | some c => if c.faultMin ≤ cls then trigger s 0 else s
  | none => s

/-- The log entry of a fault (R638, R639). -/
def logRecord (s : State) (cls code detail : Nat) (active : Bool) : State :=
  let s := faultTrigger s cls
  if s.faults.any (fun (r : FaultRec) => r.is code detail) then
    { s with faults := s.faults.map fun (r : FaultRec) => if r.is code detail then r.repeated cls active else r }
  else
    let (l, lost) := insertFault s.faults
      { code := code, cls := cls, active := active, noReact := false, occ := 1, detail := detail, time := s.now }
    let t := { s with faults := l }
    if lost then t.inc F.SYS_FAULT_LOG_LOST else t

/-- The first-fault latch (R641). -/
def latchFirst (s : State) (cls code detail : Nat) : State :=
  if s.flag F.SYS_FAULT_FIRST_VALID || cls < s.get F.SYS_FAULT_CTRL then s
  else ((((s.set F.SYS_FAULT_FIRST_VALID 1).set F.SYS_FAULT_FIRST_CLASS cls).set F.SYS_FAULT_FIRST_CODE code).set
    F.SYS_FAULT_FIRST_DETAIL detail).set F.SYS_FAULT_FIRST_TIME s.now

/-- How many reactions of a class wait. -/
def queueDepth (s : State) (cls : Nat) : Nat := (s.reactions.filter (·.cls == cls)).length

/-- Queue the follow-up reaction of a fault (R642); F4 has none. -/
def queueReaction (s : State) (cls code detail : Nat) : State :=
  if 3 < cls then s
  else if queueDepth s cls < 16 then
    { s with reactions := s.reactions ++ [{ cls := cls, code := code, detail := detail }] }
  else
    ({ s with faults := s.faults.map fun (r : FaultRec) => if r.is code detail then { r with noReact := true } else r }).inc
      (F.SYS_FAULT_QOVF cls)

/-- A fault is detected: counted, logged, latched and queued (R635, R638 to R642). The block's own action is its
caller's. -/
def raiseFault (s : State) (cls code detail : Nat) : State :=
  let s1 := s.inc (F.SYS_FAULT_CNT cls)
  let s2 := logRecord s1 cls code detail (!faultIsEvent code detail)
  let s3 := latchFirst s2 cls code detail
  queueReaction s3 cls code detail

/-- The condition of a fault ends: its record turns inactive (R690). -/
def endFault (s : State) (code detail : Nat) : State :=
  { s with faults := s.faults.map fun (r : FaultRec) => if r.is code detail then { r with active := false } else r }

/-- Whether a fault is in the log as active. -/
def faultActive (s : State) (code detail : Nat) : Bool := s.faults.any fun (r : FaultRec) => r.is code detail && r.active

/-! ### Output pairs -/

/-- The state of pair n as an evaluator has it. -/
def Evaluator.pair (e : Evaluator) (n : Nat) : PairState := e.pairs.getD n .disabled

/-- What one evaluator keeps. -/
def State.ev (s : State) : Side → Evaluator
  | .a => s.saf.evA
  | .b => s.saf.evB

/-- One evaluator's record changes. -/
def State.setEv (s : State) (d : Side) (e : Evaluator) : State :=
  match d with
  | .a => { s with saf := { s.saf with evA := e } }
  | .b => { s with saf := { s.saf with evB := e } }

/-- Whether both lines of pair n are on. -/
def pairOn (s : State) (n : Nat) : Bool := s.saf.evA.pair n == .on && s.saf.evB.pair n == .on

/-- Whether EDM_EN is set for pair n in the committed configuration (R459). -/
def edmEnabled (s : State) (n : Nat) : Bool :=
  match s.saf.cfg with
  | some c => (c.pairs[n]?.map (·.edmEn)).getD false
  | none => false

/-- A list with another entry n; a list too short for it is first filled up with what its missing entries read as. -/
def putAt {α : Type} (l : List α) (n : Nat) (rest x : α) : List α := (l ++ List.replicate (n + 1 - l.length) rest).set n x

/-- The contactor feedback record of pair n. -/
def pairAt (s : State) (n : Nat) : Pair := s.saf.pairs.getD n { edmPend := false, edm := false }

/-- The contactor feedback record of pair n changes. -/
def setPairAt (s : State) (n : Nat) (p : Pair) : State := { s with saf := { s.saf with pairs := putAt s.saf.pairs n { edmPend := false, edm := false } p } }

/-- A pair takes a state in one evaluator. Evaluator A's leaving of ON is counted and reported (R503); a pair that switches
on or off opens its EDM window (R485). -/
def setPair (s : State) (d : Side) (n : Nat) (st : PairState) : State :=
  let e := s.ev d
  let t := s.setEv d { e with pairs := putAt e.pairs n .disabled st }
  let u := if d == .a && e.pair n == .on && st != .on then (t.set F.SAF_EVENT_TRIP 1).inc F.SAF_CNT_TRIP else t
  if pairOn s n != pairOn t n then setPairAt u n { pairAt u n with edmPend := edmEnabled s n } else u

/-- One pair goes to FORCED in both evaluators unless it is disabled (R482). -/
def forcePair (s : State) (n : Nat) : State :=
  let f (s : State) (d : Side) : State := if (s.ev d).pair n == .disabled then s else setPair s d n .forced
  f (f s .a) .b

/-- Every pair goes to FORCED unless it is disabled (R482). -/
def forcePairs (s : State) : State := forcePair (forcePair (forcePair (forcePair s 0) 1) 2) 3

/-! ### Device state -/

/-- The state code of R29; OFF has none and reads 0. -/
def Mode.code : Mode → Nat
  | .off => 0 | .sleep => 1 | .standby => 2 | .ready => 3 | .scan => 4
  | .safeHold => 5 | .lockout => 6 | .opened => 7 | .fatal => 8

/-- The device takes a state; outside SCAN every pair is forced (R30, R482). -/
def setMode (s : State) (m : Mode) : State :=
  let t := if m == .scan then s else forcePairs s
  { t with mode := m }

/-- Whether a mode is SCAN, SAFE-HOLD or LOCKOUT: ranging can run. -/
def Mode.scanning : Mode → Bool
  | .scan | .safeHold | .lockout => true
  | _ => false

/-- The start-up step in progress (R117). -/
def State.step (s : State) : Nat := s.get F.SYS_STATUS_STEP

/-- Entry to SAFE-HOLD with its cause (R492). -/
def enterSafeHold (s : State) (cause : Nat) : State :=
  (setMode ((s.set F.SAF_STATUS_HOLD_CAUSE cause).set F.SAF_EVENT_HOLD 1) .safeHold)

/-- Entry to LOCKOUT with its cause (R492). -/
def enterLockout (s : State) (cause : Nat) : State :=
  setMode ((((s.set F.SAF_STATUS_LOCK_LATCH 1).set F.SAF_STATUS_LOCK_CAUSE cause).set F.SAF_EVENT_LOCKOUT 1)) .lockout

/-- The two kinds of F3 fault, with HOLD_CAUSE or LOCK_CAUSE (R492, R503). -/
inductive F3Kind where
  | hold (cause : Nat)
  | lock (cause : Nat)
  deriving DecidableEq, Repr

/-- The device reaction to an F3 fault in its present state (R493). -/
def reactF3 (s : State) (k : F3Kind) : State :=
  match s.mode, k with
  | .scan, .hold c => enterSafeHold s c
  | .scan, .lock c => enterLockout s c
  | .safeHold, .hold _ => s
  | .safeHold, .lock c => enterLockout s c
  | .lockout, _ => s
  | _, .hold _ => s
  | _, .lock c => (s.set F.SAF_STATUS_LOCK_LATCH 1).set F.SAF_STATUS_LOCK_CAUSE c

/-- An F3 fault: logged, its cause held, and the device reaction taken (R493, R634). -/
def raiseF3 (s : State) (code detail : Nat) (k : F3Kind) : State :=
  let s1 := raiseFault s 3 code detail
  let s2 := if s1.saf.f3.contains (code, detail) then s1
    else { s1 with saf := { s1.saf with f3 := s1.saf.f3 ++ [(code, detail)] } }
  reactF3 s2 k

/-- An F3 cause counts as cleared (R494, R645). -/
def clearF3 (s : State) (code detail : Nat) : State :=
  endFault { s with saf := { s.saf with f3 := s.saf.f3.filter (· != (code, detail)) } } code detail

/-- Emitter and floodlight balls go low (R646). -/
def ballsLow (s : State) : State := { s with pins := { s.pins with erow := 0, ecol := 0, pre := 0, pulses := [], ebk := 0, fls := 0 } }

/-- Whether a start-up is in progress: READY has not been reached since the reset (R113, R115). An opened device starts up
as well, as far as the firmware (log entry 12). -/
def State.starting (s : State) : Bool := (s.mode == .standby || s.mode == .opened) && s.step != 0

/-- Whether the start-up is at a step. -/
def State.atStep (s : State) (n : Nat) : Bool := (s.mode == .standby || s.mode == .opened) && s.step == n

/-- A step of the start-up has failed (R112, R117). -/
def stepFailed (s : State) (step : Nat) : State := s.set F.SYS_START_FAIL_STEP step

/-- The condition field of cluster n; 16 is CLS (R95). -/
def clst (n : Nat) : Fld := if n < 8 then F.SHD_CLST0_ST n else if n < 16 then F.SHD_CLST1_ST (n - 8) else F.SHD_CLST2_ST

/-- Every cluster takes a condition. -/
def setClusters (s : State) (v : Nat) : State :=
  (List.range 17).foldl (fun t n => t.set (clst n) v) s

/-- The status fields that CTL drives, and the states of the clusters, read off while CTL is off (R74, R117, R660). -/
def clearCtl (s : State) : State :=
  [F.SYS_STATUS_CMD_LIVE, F.SYS_START_IMAGE, F.SYS_STATUS_PARTNER_UP, F.LNK_PRT_STATUS_SESSION, F.SEC_STATUS_SESSION_KEYS,
    F.SCH_STATUS_RUNNING, F.RED_STATUS_HALTER, F.RED_ILK_DRIVING].foldl (fun (t : State) f => t.set f 0) (setClusters s 0)

/-- CTL goes off, and with it the herd firmware, the session of the partner link and every cluster (R74, R117, R660): no
start-up, change of state or frame goes on. -/
def ctlOff (s : State) : State :=
  let t := clearCtl s
  { t with pins := { t.pins with halter := false }, sys := { t.sys with trans := none, sleepEntering := false }, sch := { t.sch with running := false, committed := none } }

/-- A start-up that ends in an F4 fault is counted (R113). -/
def countStart (s : State) : State :=
  if s.starting then
    (stepFailed s s.step).set F.SYS_START_START_FAILS (min (s.get F.SYS_START_START_FAILS + 1) 15)
  else s

/-- The device is held in FATAL after the third start-up in a row that ended in an F4 fault (R113). -/
def State.held (s : State) : Bool := s.mode == .fatal && s.step == 0xE

/-- An F4 fault (R113, R646): balls low, logged, F4 recorded, FATAL, where CTL is off. A start-up that ends so is counted, and
the third in a row holds the device with STEP 0xE; a device that is held stays so. In OPENED the state stays OPENED and a
reset is due (R34). OFF has no faults (state transitions table). -/
def raiseF4 (s : State) (code detail : Nat) : State :=
  if s.mode == .off then s
  else
    let s1 := countStart ((raiseFault (ballsLow s) 4 code detail).set F.SYS_RESET_CAUSE_F4 1)
    if s.mode == .opened then { s1 with fatalReset := true }
    else
      let third := s.starting && 3 ≤ s1.get F.SYS_START_START_FAILS
      let s2 := if third then s1.set F.SYS_STATUS_STEP 0xE else s1
      { setMode (ctlOff s2) .fatal with fatalReset := !(third || s.held) }

/-- RED_CTRL SIDE. -/
def sideNow (s : State) : Nat := s.get F.RED_CTRL_SIDE

end Sys2Proof.Machine
end

