-- ==== Sys2Proof/Machine/Bus.lean ====
section
/-! DEFINITION. The frames of the trigger bus (R552 to R554, trigger bus frame table). -/

namespace Sys2Proof.Machine

/-- Frame types of the trigger bus. -/
abbrev Bus.trigger : Nat := 1
abbrev Bus.beacon : Nat := 2
abbrev Bus.query : Nat := 3
abbrev Bus.measure : Nat := 4
abbrev Bus.measureReply : Nat := 5

/-- CRC-8 with polynomial 0x07 and initial value 0 over the low k bits of a word, from the highest down. -/
def crc8 (w : Nat) : Nat → Nat
  | 0 => 0
  | k + 1 =>
    let c := crc8 (w / 2) k
    let top := bit c 7 != bit w 0
    (2 * c % 256) ^^^ (if top then 7 else 0)

/-- A frame of a type, an origin and 24 bits of data. -/
def busFrame (type origin data : Nat) : BitVec 48 :=
  let w := 2 ^ 28 * (type % 16) + 2 ^ 24 * (origin % 16) + data % 2 ^ 24
  BitVec.ofNat 48 (2 ^ 40 * 0xA5 + 2 ^ 8 * w + crc8 w 32)

/-- Whether the trigger bus is driven and read. -/
def busOn (s : State) : Bool := s.flag F.LNK_PRT_CTRL_TBUS_EN

/-- A frame of this unit is sent (R552); TB_ID is the one at the time of sending. -/
def sendBus (s : State) (type data : Nat) : State := { s with tx := s.tx ++ [.bus (busFrame type (s.get F.ACQ_TB_CFG) data)] }

/-- Fields of a frame that has arrived. -/
def busType (w : BitVec 48) : Nat := bits w.toNat 36 4
def busOrigin (w : BitVec 48) : Nat := bits w.toNat 32 4
def busData (w : BitVec 48) : Nat := bits w.toNat 8 24

/-- R552: a frame that arrives is taken when it is one of the type awaited with a good CRC; any other is discarded. -/
def busTakes (s : State) (type : Nat) (w : BitVec 48) : Bool := busOn s && w == busFrame type (busOrigin w) (busData w)

end Sys2Proof.Machine
end

