-- ==== Sys2Proof/Machine/Command.lean ====
section
/-! DEFINITION. Fetched commands, their order and their completions (chapter 05): the operations that every opcode
shares. -/

namespace Sys2Proof.Machine

/-! ### Status codes (R135) -/

abbrev St.done : Nat := 0x00
abbrev St.accepted : Nat := 0x01
abbrev St.badOpcode : Nat := 0x10
abbrev St.badParam : Nat := 0x11
abbrev St.badState : Nat := 0x12
abbrev St.busy : Nat := 0x13
abbrev St.badVersion : Nat := 0x14
abbrev St.sigFail : Nat := 0x20
abbrev St.locked : Nat := 0x21
abbrev St.resource : Nat := 0x30
abbrev St.hwFault : Nat := 0x40
abbrev St.timeout : Nat := 0x41
abbrev St.aborted : Nat := 0x50

/-! ### Fields of a command -/

/-- The opcode group (R132). -/
def Cmd.group (c : Cmd) : Nat := c.opcode / 256
def Cmd.buf (c : Cmd) : Bool := bit c.flags 0
def Cmd.signed (c : Cmd) : Bool := bit c.flags 1
def Cmd.fence (c : Cmd) : Bool := bit c.flags 2
def Cmd.imm (c : Cmd) : Bool := bit c.flags 3
/-- Entry dword n, 4 to 15 (R122). -/
def Cmd.dw (c : Cmd) (n : Nat) : Nat := c.inl.getD (n - 4) 0

/-- Whether the command is the one that a source sent with a tag and an opcode. -/
def Cmd.is (c : Cmd) (p : Port) (tag op : Nat) : Bool := c.port == p && c.tag == tag && c.opcode == op

/-- The oldest command without a final completion that a source sent with a tag and an opcode. -/
def findCmd (s : State) (p : Port) (tag op : Nat) : Option Cmd :=
  s.cmd.cmds.find? fun (c : Cmd) => c.is p tag op && c.phase != .done

/-- The list with the first entry that equals a command replaced. -/
def replaceFirst (c c' : Cmd) : List Cmd → List Cmd
  | [] => []
  | x :: r => if x = c then c' :: r else x :: replaceFirst c c' r

/-- A command changes in the list. -/
def replaceCmd (s : State) (c c' : Cmd) : State := { s with cmd := { s.cmd with cmds := replaceFirst c c' s.cmd.cmds } }

/-- Whether a completion is a command's. -/
def Comp.of (x : Comp) (c : Cmd) : Bool := x.port == c.port && x.tag == c.tag && x.index == c.index

/-- The commands of a list before the first that equals c. -/
def before (c : Cmd) : List Cmd → List Cmd
  | [] => []
  | x :: r => if x = c then [] else x :: before c r

/-! ### The completion ring -/

/-- Entries of the completion ring (R118). -/
def ringSize (s : State) : Nat := 2 ^ s.get F.CMP_RING_SIZE

/-- Completions written and not released (R128). -/
def unreleased (s : State) : Nat := (s.get F.CMP_TAIL_TAIL + ringSize s - s.cmd.head % ringSize s) % ringSize s

/-- The completion ring is full (R128). -/
def ringFull (s : State) : Bool := ringSize s - 1 ≤ unreleased s

/-- Whether the endpoint can send requests (R125, R578). -/
def pcieUsable (s : State) : Bool :=
  !s.pins.perst && s.link.up && !s.link.flr && s.flag F.LNK_PCIE_STATUS_BME && !s.flag F.LNK_PCIE_STATUS_D3HOT
    && s.get F.LNK_PCIE_STATUS_PWR != 3

/-- The packets of an access of n bytes at address a: at most most bytes each, none across a 4 KiB boundary (R580). Fuel is n. -/
def pieces (most : Nat) : Nat → Nat → Nat → List (Nat × Nat)
  | 0, _, _ => []
  | fuel + 1, a, n =>
    if n = 0 then []
    else
      let k := min n (min most (4096 - a % 4096))
      (a, k) :: pieces most fuel (a + k) (n - k)

/-- Data is written to host memory, in packets of at most Max Payload Size (R580). -/
def sendMem (s : State) (addr : Nat) (data : List Byte) : State :=
  { s with tx := s.tx ++ (pieces (128 * 2 ^ s.link.mps) data.length addr data.length).map fun (e : Nat × Nat) =>
      Sent.mem e.1 ((data.drop (e.1 - addr)).take e.2) }

/-- n bytes of host memory are read, in requests of at most Max Read Request Size (R580). -/
def sendRead (s : State) (addr n : Nat) : State :=
  { s with tx := s.tx ++ (pieces (128 * 2 ^ s.link.mrrs) n addr n).map fun (e : Nat × Nat) => Sent.read e.1 e.2 }

/-- A completion joins those to be written; one that is discarded is counted instead (R151). -/
def queueComp (s : State) (c : Cmd) (status detail result : Nat) (final : Bool) (out : List Byte) : State :=
  if c.discard then s.inc F.CMD_ERR_CNT_DISCARD_CNT else
  { s with cmd := { s.cmd with comps := s.cmd.comps ++
    [{ port := c.port, tag := c.tag, status := status, detail := detail, index := c.index, final := final, first := !c.first,
       result := result % 2 ^ 64, imm := c.imm, out := out }] } }

/-- CMD_INFO as one dword (R165). -/
def cmdInfo (s : State) : Nat :=
  s.get F.CMD_INFO_CUR_MAJ + 2 ^ 8 * s.get F.CMD_INFO_PREV_MAJ + 2 ^ 16 * s.get F.CMD_INFO_PREV_VALID

/-- RESULT of a completion (R136): 0 after any status other than DONE, but for UNSUPPORTED_VERSION. -/
def resultOf (s : State) (status result : Nat) : Nat :=
  if status = St.done then result else if status = St.badVersion then cmdInfo s else 0

/-- A command ends: its final completion is formed (R131). -/
def finishWith (s : State) (c : Cmd) (status detail result : Nat) (out : List Byte) : State :=
  let t := queueComp s c status detail (resultOf s status result) true out
  if c.discard then { t with cmd := { t.cmd with cmds := t.cmd.cmds.erase c } }
  else replaceCmd t c { c with phase := .done, first := true }

/-- A command ends with a status. -/
def finish (s : State) (c : Cmd) (status detail result : Nat) : State := finishWith s c status detail result []

/-- A command ends with DONE and a result. -/
def finishOk (s : State) (c : Cmd) (result : Nat) : State := finish s c St.done 0 result

/-- A long operation gets ACCEPTED and runs (R131). -/
def accept (s : State) (c : Cmd) : State :=
  replaceCmd (queueComp s c St.accepted 0 0 false []) c { c with phase := .running, first := true }

/-- The running long operation of an opcode, if one runs. -/
def runningCmd (s : State) (op : Nat) : Option Cmd :=
  s.cmd.cmds.find? fun (c : Cmd) => c.opcode == op && c.phase == .running

/-- Whether a long operation of an opcode that has received ACCEPTED is not at its end: it holds the objects it works on
(R133). -/
def holds (s : State) (op : Nat) : Bool := s.cmd.cmds.any fun (c : Cmd) => c.opcode == op && c.first && c.phase != .done

/-- Whether one of them names object n in dword 4. -/
def holdsOne (s : State) (op n : Nat) : Bool :=
  s.cmd.cmds.any fun (c : Cmd) => c.opcode == op && c.first && c.phase != .done && c.dw 4 == n

/-- A running long operation of an opcode, if one runs, ends. -/
def finishRunning (s : State) (op status result : Nat) : State :=
  match runningCmd s op with
  | some c => finish s c status 0 result
  | none => s

/-- An Out command writes its data (R125, R157): as much as the buffer holds, in whole units of unit bytes; the result
is the number of bytes written. Over PCIe a buffer that cannot be accessed ends it with TIMEOUT. -/
def finishOut (s : State) (c : Cmd) (data : List Byte) (unit : Nat) : State :=
  let cap := 64 * c.paramLen / unit * unit
  let d := data.take cap
  match c.port with
  | .mgmt => finishWith s c St.done 0 d.length d
  | .ring =>
    if pcieUsable s then finishOk (sendMem s c.bufAddr d) c d.length
    else finish s c St.timeout 0 0

/-! ### Order (R128, R132) -/

/-- Whether a command may start now: its group's earlier commands have their first completions, FENCE holds nothing
back, and the completion ring is not full. -/
def startable (s : State) (c : Cmd) : Bool :=
  let earlier := (before c s.cmd.cmds).filter fun (x : Cmd) => x.port == c.port
  s.flag F.SYS_STATUS_CMD_LIVE
    && earlier.all (fun (x : Cmd) => x.group != c.group || x.first)
    && (!c.fence || earlier.isEmpty)
    && (c.port == .mgmt || c.discard || !ringFull s)

/-- How many long operations run (R133): commands between their first completion and their final one. -/
def longRunning (s : State) : Nat := (s.cmd.cmds.filter fun (c : Cmd) => c.first && c.phase != .done).length

end Sys2Proof.Machine
end

