-- ==== Sys2Proof/Machine/Irq.lean ====
section
/-! DEFINITION. The interrupt controller: source levels (R556, R557), delivery to the herd controller (R558 to R564), MSI-X
vectors (R565 to R568) and software bits (R569). -/

namespace Sys2Proof.Machine

/-! ### Source levels -/

/-- The eight bits of SAF_EVENT, from bit 0 (source 0x1A0 + k). -/
def safEvents : List Fld :=
  [F.SAF_EVENT_TRIP, F.SAF_EVENT_GAP_TRIP, F.SAF_EVENT_WARN, F.SAF_EVENT_FSET_CHANGE, F.SAF_EVENT_GUARD_OPEN, F.SAF_EVENT_HOLD,
    F.SAF_EVENT_LOCKOUT, F.SAF_EVENT_EDM]

/-- The four bits of ACQ_EVENT, from bit 0 (source 0x1E0 + k). -/
def acqEvents : List Fld := [F.ACQ_EVENT_TRIG, F.ACQ_EVENT_CLOSED, F.ACQ_EVENT_MISSED, F.ACQ_EVENT_LOG_FULL]

/-- One of some fields is 1. -/
def anyFlag (s : State) (l : List Fld) : Bool := l.any s.flag

/-- The captured edge of a sticky source (R557). -/
def stickyBit (s : State) (n : Nat) : Bool := bit (s.get (F.IRQ_STICKY (n / 32))) (n % 32)

/-- The hardware condition of a source (named sources table). -/
def sourceCond (s : State) (n : Nat) : Bool :=
  if n ≤ 4 then s.faults.any fun (r : FaultRec) => r.cls = n
  else if 0x80 ≤ n && n ≤ 0x90 then s.flag (F.RXF_CL_STATUS_FE_FAULT (n - 0x80))
  else if 0xC0 ≤ n && n ≤ 0xC3 then s.flag (F.TDC_FM_STATUS_DONE (n - 0xC0))
  else if 0xE0 ≤ n && n ≤ 0xE3 then anyFlag s [F.HGE_RING_STATUS_WMARK_HIT (n - 0xE0), F.HGE_RING_STATUS_PTR_ERR (n - 0xE0)]
  else if 0x1A0 ≤ n && n ≤ 0x1A7 then ((safEvents[n - 0x1A0]?).map s.flag).getD false
  else if 0x1E0 ≤ n && n ≤ 0x1E3 then ((acqEvents[n - 0x1E0]?).map s.flag).getD false
  else if 0x1F0 ≤ n && n ≤ 0x1F3 then bit s.irq.wakePins (n - 0x1F0)
  else match n with
    | 0x020 => anyFlag s [F.CLK_REF_EVENT_RETURN, F.CLK_REF_EVENT_LOSS]
    | 0x040 => s.cmd.cmpSource
    | 0x041 => anyFlag s [F.CMD_STATUS_FETCH_ERR, F.CMD_STATUS_CMP_WR_ERR, F.CMD_STATUS_PERST_SEEN]
    | 0x091 => anyFlag s [F.RXF_APDB_STAT_OV, F.RXF_APDB_STAT_OPEN]
    | 0x092 => s.flag F.RXF_WS_DONE
    | 0x0C4 => anyFlag s [F.TDC_PPS_STATUS_EDGE, F.TDC_PPS_STATUS_STEP_REFUSED]
    | 0x0E4 => s.flag F.HGE_STATUS_CODE_ERR
    | 0x100 => s.flag F.YRD_STATUS_FAR_GONE
    | 0x121 => s.flag F.SCH_STATUS_CAP_OVER
    | 0x122 => s.flag F.SCH_STATUS_TIMING_ERR
    | 0x141 => s.flag F.EMI_STATUS_INHIBIT
    | 0x142 => s.flag F.EMI_FL_STAT_FAULT
    | 0x160 => s.get F.THM_RING_PTR_WSLOT != s.get F.THM_RING_PTR_RSLOT
    | 0x161 => anyFlag s [F.THM_STATUS_ILIM, F.THM_STATUS_SHUT_STUCK]
    | 0x180 => s.flag F.HKC_XSTAT_XFAIL
    | 0x1F4 => s.irq.alarm
    | 0x1F5 => mgmtHeld s
    | 0x120 | 0x140 | 0x1C0 | 0x1D0 | 0x1F6 => stickyBit s n
    | _ => false

/-- R557: a source's level: its hardware condition or its software bit. -/
def sourceLevel (s : State) (n : Nat) : Bool := sourceCond s n || bit (s.get (F.IRQ_SWSET (n / 32))) (n % 32)

/-- R571: the level of a source as the always-on watcher sees it: its own sources and the software bits. -/
def aonLevel (s : State) (n : Nat) : Bool := (0x1F0 ≤ n && sourceCond s n) || bit (s.get (F.IRQ_SWSET (n / 32))) (n % 32)

/-- R570: the enabled watched sources that are high, by their IRQ_AON_SEL entry. -/
def watchedHigh (s : State) : Nat :=
  (List.range 32).foldl (fun w k => if s.flag (F.IRQ_AON_SEL_EN k) && aonLevel s (s.get (F.IRQ_AON_SEL_SRC k)) then setBit w k else w) 0

/-! ### The herd controller (R558 to R564) -/

/-- The running priority plus 1: 0 when no source is active. -/
def running1 (s : State) : Nat := match s.irq.stack with
  | e :: _ => e.2 + 1
  | [] => 0

/-- A source is eligible for the herd controller. -/
def eligible (s : State) (n : Nat) : Bool :=
  s.flag (F.IRQ_SRC_CFG_HERD_EN n) && !s.flag (F.IRQ_SRC_CFG_MASK n) && running1 s ≤ s.get (F.IRQ_SRC_CFG_PRIO n)
    && !s.irq.stack.any (fun e => e.1 = n) && sourceLevel s n

/-- R558: the eligible source with the highest PRIO, the lower number on a tie. -/
def winner (s : State) : Option Nat :=
  ((List.range 512).filter (eligible s)).foldl (fun b n => match b with
    | none => some n
    | some m => if s.get (F.IRQ_SRC_CFG_PRIO m) < s.get (F.IRQ_SRC_CFG_PRIO n) then some n else some m) none

/-- RUNNING follows the active sources. -/
def noteRunning (s : State) : State :=
  s.set F.IRQ_HERD_STAT_RUNNING (match s.irq.stack with
    | e :: _ => e.2
    | [] => 0x1F)

/-- A source takes the vector: it becomes active (R559). -/
def deliver (s : State) (n : Nat) : State :=
  let t := (((s.set F.IRQ_HERD_STAT_VECTOR n).set F.IRQ_HERD_STAT_SPUR 0).set F.IRQ_HERD_STAT_PHASE 0).set (F.IRQ_SRC_CFG_ACTIVE n) 1
  noteRunning { t with irq := { t.irq with stack := (n, s.get (F.IRQ_SRC_CFG_PRIO n)) :: t.irq.stack, entry := none, exiting := false } }

/-- R561, R562: the spurious vector. -/
def spurious (s : State) : State :=
  let t := (((s.set F.IRQ_HERD_STAT_VECTOR 0x1FF).set F.IRQ_HERD_STAT_SPUR 1).set F.IRQ_HERD_STAT_PHASE 0).inc F.IRQ_CNT_SPUR
  { t with irq := { t.irq with entry := none } }

/-- R559 to R562: the first event of an entry is cycle 0, where an eligible source wins arbitration; the next one is the
selection of cycle 10 and the vector fetch, where the winner of that moment takes the vector, or the spurious one is
delivered. -/
def execIrqEntry (s : State) : Host.Outcome State Fault Refusal :=
  match s.irq.entry with
  | none =>
    if s.irq.exiting then .next s
    else match winner s with
      | some n => .next { s.set F.IRQ_HERD_STAT_PHASE 1 with irq := { s.irq with entry := some n } }
      | none => .next s
  | some _ => match winner s with
    | some n => .next (deliver s n)
    | none => .next (spurious s)

/-- R563, R564: the innermost handler ends; exit begins, or chaining where a source is eligible. -/
def execHerdEoi (s : State) : Host.Outcome State Fault Refusal :=
  match s.irq.stack with
  | [] => .next s
  | e :: r =>
    let t := noteRunning { s.set (F.IRQ_SRC_CFG_ACTIVE e.1) 0 with irq := { s.irq with stack := r, exiting := true } }
    .next (t.set F.IRQ_HERD_STAT_PHASE (if (winner t).isSome then 3 else 2))

/-- R564: exit ends: a source eligible during it is delivered directly. -/
def execIrqExit (s : State) : Host.Outcome State Fault Refusal :=
  if !s.irq.exiting then .next s
  else match winner s with
    | some n => .next (deliver s n)
    | none => .next { s.set F.IRQ_HERD_STAT_PHASE 0 with irq := { s.irq with exiting := false } }

/-! ### MSI-X (R565 to R568) -/

/-- Sources routed to a vector whose level is high. -/
def vectorSources (s : State) (v : Nat) : List Nat :=
  (List.range 512).filter fun n => s.flag (F.IRQ_SRC_CFG_HOST_EN n) && s.get (F.IRQ_SRC_CFG_VECTOR n) = v && sourceLevel s n

/-- A vector's level. -/
def vectorLevel (s : State) (v : Nat) : Bool := !(vectorSources s v).isEmpty

/-- The highest PRIO among a vector's asserted sources (R568). -/
def vectorPrio (s : State) (v : Nat) : Nat := ((vectorSources s v).map fun n => s.get (F.IRQ_SRC_CFG_PRIO n)).foldl max 0

/-- R567: no message of a vector may be sent. -/
def vectorBlocked (s : State) (v : Nat) : Bool :=
  bit s.irq.vecMask v || s.flag F.LNK_PCIE_STATUS_FN_MASK || !s.flag F.LNK_PCIE_STATUS_MSIX_EN || !pcieUsable s

/-- The message of a vector as the MSI-X table gives it: address 0 and data 0 where the host has written no entry (R577). -/
def vectorMsg (s : State) (v : Nat) : Sent := match s.irq.table.find? fun (e : MsixEntry) => e.vector.val = v with
  | some e => .msix v e.address e.data
  | none => .msix v 0 0

/-- A vector's message is sent (R565). -/
def sendVector (s : State) (v : Nat) : State :=
  let t := (s.set (F.IRQ_VEC_STAT_SENT v) 1).inc (F.IRQ_VEC_STAT_SEND_CNT v)
  { t with tx := t.tx ++ [vectorMsg t v], irq := { t.irq with pba := clearBit t.irq.pba v } }

/-- R565, R567: a vector in IDLE with a high level sends its message, or has its pending bit set. -/
def raiseVector (s : State) (v : Nat) : State :=
  if vectorBlocked s v then { s with irq := { s.irq with pba := setBit s.irq.pba v } } else sendVector s v

/-- The first of some vectors in the order of R568. -/
def firstVector (s : State) (l : List Nat) : Option Nat :=
  l.foldl (fun b v => match b with
    | none => some v
    | some w => if vectorPrio s w < vectorPrio s v then some v else some w) none

/-- Vectors that are due: in IDLE with a high level, and not already pending behind a block. -/
def dueVectors (s : State) : List Nat :=
  (List.range 64).filter fun v =>
    !s.flag (F.IRQ_VEC_STAT_SENT v) && vectorLevel s v && !(bit s.irq.pba v && vectorBlocked s v)

/-- R565, R568: the first due vector sends its message. -/
def execMsixSend (s : State) : Host.Outcome State Fault Refusal :=
  match firstVector s (dueVectors s) with
  | some v => .next (raiseVector s v)
  | none => .next s

/-- R566: the host's end of interrupt of a vector. -/
def hostEoi (s : State) (v : Nat) : State :=
  if !s.flag (F.IRQ_VEC_STAT_SENT v) then s
  else
    let t := s.set (F.IRQ_VEC_STAT_SENT v) 0
    if !vectorLevel t v then t
    else if vectorBlocked t v then raiseVector t v
    else (raiseVector t v).inc F.IRQ_CNT_RESEND

/-- R566: a write of a vector number to IRQ_HOST_EOI. -/
def execIrqHostEoi (value : Dword) (s : State) : Host.Outcome State Fault Refusal := .next (hostEoi s (value.toNat % 64))

/-- Pending vectors without a block send their messages in the order of R568, or lose their bits (R567). Fuel is the number
of vectors. -/
def sendPending : Nat → State → State
  | 0, s => s
  | fuel + 1, s =>
    match firstVector s ((List.range 64).filter fun v => bit s.irq.pba v && !vectorBlocked s v) with
    | none => s
    | some v =>
      let t := { s with irq := { s.irq with pba := clearBit s.irq.pba v } }
      sendPending fuel (if vectorLevel s v && !s.flag (F.IRQ_VEC_STAT_SENT v) then sendVector t v else t)

/-- R577: the host writes an entry of the MSI-X table. -/
def writeEntry (s : State) (e : MsixEntry) : State :=
  { s with irq := { s.irq with
      vecMask := if e.masked then setBit s.irq.vecMask e.vector.val else clearBit s.irq.vecMask e.vector.val
      table := e :: s.irq.table.filter fun (x : MsixEntry) => x.vector != e.vector } }

/-- R567, R577: the host writes entries of the MSI-X table, and what they no longer block is sent. -/
def execMsixUnblock (writes : List MsixEntry) (s : State) : Host.Outcome State Fault Refusal :=
  .next (sendPending 64 (writes.foldl writeEntry s))

/-! ### Software bits (R569) -/

/-- R569: software bits are set. -/
def swSet (s : State) (i w : Nat) : State := s.set (F.IRQ_SWSET i) (s.get (F.IRQ_SWSET i) ||| w)

/-- R569: software bits are cleared. -/
def swClr (s : State) (i w : Nat) : State := s.set (F.IRQ_SWSET i) (s.get (F.IRQ_SWSET i) - (s.get (F.IRQ_SWSET i) &&& w))

/-- R569: a write to IRQ_SWSET i. -/
def execIrqSwset (i : Fin 16) (value : Dword) (s : State) : Host.Outcome State Fault Refusal := .next (swSet s i.val value.toNat)

/-- R569: a write to IRQ_SWCLR i. -/
def execIrqSwclr (i : Fin 16) (value : Dword) (s : State) : Host.Outcome State Fault Refusal := .next (swClr s i.val value.toNat)

end Sys2Proof.Machine
end

