-- ==== Sys2Proof/Machine/Reset.lean ====
section
/-! DEFINITION. What a device reset keeps and what it loses (R7, R688), and the state in which the start-up begins. -/

namespace Sys2Proof.Machine

/-- Whether the field at a store key keeps its value across a device reset: the AON shed's registers and those held in
non-volatile storage (R35, R95, R117, R215, R494, R503, R572, R605, R651, R664). -/
def keptKey (k : Nat) : Bool :=
  let off := k / 8
  (0x10030 ≤ off && off < 0x10048)          -- SHD_WAKE_CFG to SHD_ALARM
    || (0x20100 ≤ off && off < 0x20108)     -- MGMT_STAT, MGMT_CRC_CNT
    || (0x10 ≤ off && off < 0x3C)           -- SYS_RESET_CAUSE to SYS_FAULT_QOVF
    || (0x60 ≤ off && off < 0x64)           -- SYS_FAULT_LOG
    || (0x120000 ≤ off && off < 0x130000)   -- SEC
    || (0x60010 ≤ off && off < 0x60018)     -- TDC_DEVTIME
    || (0x30800 ≤ off && off < 0x30900)     -- IRQ_AON_SEL, IRQ_AON_CAUSE
    || k == F.SYS_START_START_FAILS.key || k == F.SYS_START_FAIL_STEP.key
    || k == F.SAF_STATUS_LOCK_LATCH.key || k == F.SAF_STATUS_LOCK_CAUSE.key || k == F.SAF_COUNTER.key
    || k == F.LNK_PCIE_CTRL_WAKE_EN.key || off == F.LNK_PCIE_SUBSYS_SUBSYS_ID.off

/-- Whether a field of the always-on clocks, which a device reset does not touch, is kept: the state of the oscillators
and of the rails as AON sees them. -/
def aonClockKey (k : Nat) : Bool :=
  k == F.CLK_STATUS_XAON_OK.key || k == F.CLK_STATUS_RC_ACTIVE.key || (0x10020 ≤ k / 8 && k / 8 < 0x10024)

/-- HGE_SEED starts from the seed in non-volatile storage, where zeroization or reprovisioning has changed the one the part
was shipped with (R270, R654, R663). -/
def withSeed (s : State) : State :=
  match s.sec.seed with
  | some v => s.set F.HGE_SEED v
  | none => s

/-- A device reset without loss of VDD_AON (R688): everything outside the AON shed and non-volatile storage returns to
its reset value; every fault record turns inactive (R690); commands without a final completion get none (R147). In an
opened device the state stays OPENED (R34). The queue of commands to the model, what has been sent and the count of free
values are the model's own and stay. -/
def deviceReset (s : State) (kind : Nat) : State :=
  let r := State.reset
  let t : State := { r with
    regs := s.regs.filter fun (e : Nat × Nat) => keptKey e.1 || aonClockKey e.1
    mode := if s.flag F.SEC_STATUS_OPENED then .opened else .standby
    pending := s.pending, tx := s.tx, free := s.free, aonFine := s.aonFine
    faults := s.faults.map fun (x : FaultRec) => { x with active := false }
    reactions := s.reactions
    sec := s.sec
    cal := { r.cal with flash := s.cal.flash, flashBad := s.cal.flashBad }
    pins := { r.pins with tstMode := s.pins.tstMode, perst := s.pins.perst }
    link := { r.link with up := s.link.up && !s.pins.perst }
    sys := { r.sys with startAt := s.sys.raw, railsDown := s.sys.railsDown, raw := s.sys.raw, xaonLate := s.sys.xaonLate }
    irq := { r.irq with alarm := s.irq.alarm, wakePins := s.irq.wakePins }
    cmd := { r.cmd with mgmtComps := s.cmd.mgmtComps, resp := s.cmd.resp, lastAck := s.cmd.lastAck,
                        held := s.cmd.held, wakeStatus := s.cmd.wakeStatus } }
  ((withSeed t).set F.SYS_START_START_KIND kind).set F.SEC_STATUS_SESSION_KEYS 0

/-- The start-up begins at a step (R97, R98). -/
def startAt (s : State) (step : Nat) : State := s.set F.SYS_STATUS_STEP step

end Sys2Proof.Machine
end

