-- ==== Sys2Proof/Machine/Roles.lean ====
section
/-! DEFINITION. Twin operation (chapter 15): the mode, the role, and the entry into alternation. -/

namespace Sys2Proof.Machine

/-- Native twin mode, and interlock mode. -/
def native (s : State) : Bool := s.get F.RED_STATUS_MODE == 1
def interlock (s : State) : Bool := s.get F.RED_STATUS_MODE == 2

/-- TWIN_ROLE (frame header table; R517, R523, R527, R528). -/
def twinRole (s : State) : Nat :=
  if interlock s then (if s.flag F.RED_STATUS_HALTER then 4 else 5)
  else if !native s || s.flag F.RED_STATUS_ALT then 0
  else if s.red.mute || (s.red.halves && !s.flag F.RED_STATUS_SILENCE) then sideNow s + 1
  else 3

/-- RED_STATUS ROLE follows the state. -/
def noteRole (s : State) : State := s.set F.RED_STATUS_ROLE (twinRole s)

/-- UNSURE ends: ownership has settled (R521, R522, R524). -/
def clearUnsure (s : State) : State :=
  if !s.flag F.SCH_STATUS_UNSURE then s
  else
    let us := match s.red.since with
      | some a => (s.sch.abs + s.sch.next - a) * s.sch.slotNs / 1000
      | none => 0
    let t := (s.set F.SCH_STATUS_UNSURE 0).set F.RED_DBL_MAX (max (s.get F.RED_DBL_MAX) (min us 0xFFFF))
    { t with red := { t.red with since := none } }

/-- Partner shots leave the look-ahead; their charges stay (R513). -/
def dropPartnerShots (s : State) : State :=
  { s with sch := { s.sch with look := s.sch.look.filter fun (x : Shot) => match x.use with
      | .partner _ => false
      | _ => true } }

/-- The pair falls back to alternation with a cause: 1 SCHEMA, 2 CONFIG, 3 ALIGN (R511, R516, R528, R530). -/
def enterAlt (s : State) (cause : Nat) : State :=
  if s.flag F.RED_STATUS_ALT then s
  else
    let t := ((stick s 0x1C0).set F.RED_STATUS_ALT 1).set F.RED_STATUS_ALT_CAUSE cause
    let u := dropPartnerShots (clearUnsure ((((t.inc F.RED_CNT_ALT).set F.RED_STATUS_HALTER 0).set F.RED_STATUS_STANDBY 0).set
      F.RED_STATUS_SILENCE 0))
    noteRole { u with red := { u.red with halves := false, mute := false, matched := 0, joinFrom := none, adopt := none } }

/-- PLL_TIME runs from the crystal: a pair that fires in halves falls back to alternation (R511). -/
def crystalAlt (s : State) : State :=
  if native s && s.red.halves && !s.flag F.CLK_STATUS_REF_ACTIVE then enterAlt s 3 else s

end Sys2Proof.Machine
end

