-- ==== Sys2Proof/Machine/Power.lean ====
section
/-! DEFINITION. Rails, clocks, start-up and wake (chapters 03 and 04). -/

namespace Sys2Proof.Machine

/-! ### Sheds as views of the state (R74, R75) -/

/-- HGE and the clusters are powered: READY and above, and the last steps of a start-up (cold start-up table). -/
def hgeUp (s : State) : Bool :=
  s.mode == .ready || s.mode.scanning || (s.mode == .standby && (s.step == 5 || s.step == 6))

/-- Every shed other than AON is in reset: OFF, SLEEP, and the reset hold (R98). -/
def mainDown (s : State) : Bool := s.mode == .off || s.mode == .sleep || s.step == 1

/-- CTL is up in STANDBY and above and in OPENED. -/
def ctlUp (s : State) : Bool := !mainDown s && s.mode != .fatal

def lnkUp (s : State) : Bool := !mainDown s

/-- MEM, SAFA and SAFB are up in STANDBY and above. -/
def safUp (s : State) : Bool := ctlUp s && s.mode != .opened

/-- THM is up with HGE and in OPENED, unless THM_ALLOW is 0 (R76). -/
def thmUp (s : State) : Bool := (hgeUp s || (s.mode == .opened && !mainDown s)) && s.flag F.SHD_ALLOW_THM_ALLOW

def emiUp (s : State) : Bool := s.mode.scanning

/-- PRT is up whenever the partner link is enabled and PRT_ALLOW is 1 (R75). -/
def prtUp (s : State) : Bool := safUp s && s.flag F.LNK_PRT_CTRL_EN && s.flag F.SHD_ALLOW_PRT_ALLOW

/-- Conditions of a cluster shed. -/
abbrev Cl.off : Nat := 0
abbrev Cl.cold : Nat := 1
abbrev Cl.warm : Nat := 2
abbrev Cl.running : Nat := 3
abbrev Cl.restarting : Nat := 4

/-- Clusters that are off go to cold on entry to READY (R80). -/
def clustersCold (s : State) : State :=
  (List.range 17).foldl (fun t n => if t.get (clst n) = Cl.off then t.set (clst n) Cl.cold else t) s

/-! ### Rails and power -/

/-- The fields of SHD_RAIL, one for each rail. -/
def railFields : List Fld :=
  [F.SHD_RAIL_CORE, F.SHD_RAIL_AFE, F.SHD_RAIL_TAP, F.SHD_RAIL_RL, F.SHD_RAIL_SER, F.SHD_RAIL_IO_SAF, F.SHD_RAIL_IO_EMI,
    F.SHD_RAIL_IO_FPA, F.SHD_RAIL_IO_SYS, F.SHD_RAIL_IO_PE]

/-- SHD_RAIL as a whole. -/
def setRails (s : State) (w : Nat) : State := railFields.foldl (fun t f => t.put f (bit w f.lsb)) s

/-- R97, R98: the last rail enters its range; every shed except AON is held in reset for 10 ms. From OFF the device
comes with VDD_AON, so there it takes STANDBY, step 1. -/
def execRailsValid (s : State) : Host.Outcome State Fault Refusal :=
  let t := setRails s 0x3FF
  let u := startAt { t with sys := { t.sys with startAt := t.sys.raw, railsDown := 0 } } 1
  .next (if s.mode == .off then setMode u (if s.flag F.SEC_STATUS_OPENED then .opened else .standby) else u)

/-- Whether the field of a key is held in non-volatile storage (R34, R83, R464, R573, R652, R657). The marks of the images
are too, in the state's own fields: SEC_STATUS shows them once the boot ROM has read them. -/
def nvKey (k : Nat) : Bool :=
  k == F.SEC_STATUS_OPENED.key || k == F.SEC_STATUS_ENDORSED.key || k == F.SEC_STATUS_IDKEY.key
    || k == F.SEC_SVN_MIN.key || k == F.SEC_ZERO_CNT.key || k == F.SAF_COUNTER.key
    || k == F.SEC_FW_A.key || k == F.SEC_FW_B.key
    || (0x120040 ≤ k / 8 && k / 8 < 0x120060) || k / 8 == F.LNK_PCIE_SUBSYS_SUBSYS_ID.off

/-- The block after the power-on reset of VDD_AON (R7, R83): every register at its reset value but what is held in
non-volatile memory, and the pins as they are. -/
def powerOn (s : State) : State :=
  let r := State.reset
  withSeed { r with
    regs := s.regs.filter fun (e : Nat × Nat) => nvKey e.1
    mode := if s.flag F.SEC_STATUS_OPENED then .opened else .standby
    pending := s.pending, tx := s.tx, free := s.free
    sec := s.sec
    cal := { r.cal with flash := s.cal.flash, flashBad := s.cal.flashBad }
    pins := { r.pins with tstMode := s.pins.tstMode, perst := s.pins.perst } }

/-- R83, R95: the power-on reset of VDD_AON. Only non-volatile storage survives: OPENED and the other stored SEC fields,
the safety counter, the calibration copies. -/
def execPowerOnReset (s : State) : Host.Outcome State Fault Refusal := .next (powerOn s)

/-- R72, R112: a rail trip. Every SOUT goes low, RAIL is recorded and the device is held in reset until the rails are
valid again; it does not count under R113. In OFF nothing happens. -/
def execRailTrip (rail : Fin 10) (s : State) : Host.Outcome State Fault Refusal :=
  if s.mode == .off then .next s
  else
    let t := deviceReset ((if s.starting then stepFailed s s.step else s).set F.SYS_RESET_CAUSE_RAIL 1) 0
    let w := setBit t.sys.railsDown rail.val
    let u := setRails { t with sys := { t.sys with railsDown := w } } (0x3FF - w % 0x400)
    .next (startAt u 1)

/-- R68, R113: VDD_AON falls below 1.55 V. The device goes to OFF; the AON contents are lost, non-volatile storage is
not. -/
def execAonPowerLoss (s : State) : Host.Outcome State Fault Refusal :=
  .next (setMode (powerOn s) .off)

/-- R98: the reset hold ends and the start-up goes to its clock step; the raw time base starts (R226). Nothing happens
while a rail is out of range or outside the hold. -/
def execMainResetRelease (s : State) : Host.Outcome State Fault Refusal :=
  if !s.atStep 1 || s.sys.railsDown != 0 then .next s
  else .next (startAt { s with sys := { s.sys with rawZero := s.sys.raw } } 2)

/-! ### Waking -/

/-- The enabled wake sources, laid out as SHD_WAKE_CAUSE: WAKEn in bits 0 to 3, MGMT 8, ALARM 9, IRQW 10, PERST 11. -/
def wakeEnabled (s : State) : Nat :=
  s.get F.SHD_WAKE_CFG_WAKE_EN + 2 ^ 8 * s.get F.SHD_WAKE_CFG_MGMT_EN + 2 ^ 9 * s.get F.SHD_WAKE_CFG_ALARM_EN
    + 2 ^ 10 * s.get F.SHD_WAKE_CFG_IRQW_EN + 2 ^ 11 * s.get F.SHD_WAKE_CFG_PERST_EN

/-- Set the wake causes of a mask (R94). -/
def recordWake (s : State) (m : Nat) : State :=
  let t := s.set F.SHD_WAKE_CAUSE_WAKE (s.get F.SHD_WAKE_CAUSE_WAKE ||| (m % 16))
  let u (t : State) (f : Fld) : State := if bit m f.lsb then t.set f 1 else t
  u (u (u (u t F.SHD_WAKE_CAUSE_MGMT) F.SHD_WAKE_CAUSE_ALARM) F.SHD_WAKE_CAUSE_IRQW) F.SHD_WAKE_CAUSE_PERST

/-- The device leaves SLEEP (R91, R94, R163, R584): the start-up runs from its clock step, and PE_WAKE# is driven low
unless PERST# is the source. -/
def wakeNow (s : State) (m : Nat) : State :=
  let t := recordWake (s.set F.SYS_RESET_CAUSE_WAKE 1) m
  let u := deviceReset { t with cmd := { t.cmd with wakeStatus := !bit m 8 } } 1
  let v := startAt { u with sys := { u.sys with goReady := u.flag F.SHD_WAKE_CFG_AUTO_READY } } 2
  if v.flag F.LNK_PCIE_CTRL_WAKE_EN && !bit m 11 then { v with pins := { v.pins with peWake := true } } else v

/-- SLEEP is being entered: its SET_STATE has been accepted (R93). -/
def sleepAsked (s : State) : Bool :=
  s.sys.sleepEntering || (match s.sys.trans with | some x => x.target == 1 | none => false)

/-- The watched sources that are high are noted, while SLEEP lasts or is entered and IRQW_EN is 1 (R570). -/
def noteWatched (s : State) : State :=
  if s.flag F.SHD_WAKE_CFG_IRQW_EN && (s.mode == .sleep || sleepAsked s) then
    s.set F.IRQ_AON_CAUSE (s.get F.IRQ_AON_CAUSE ||| watchedHigh s) else s

/-- The causes of a wake: those of a mask that are enabled, and IRQW while a watched source is high (R91, R570). -/
def wakeCauses (s : State) (m : Nat) : Nat := (if watchedHigh s = 0 then clearBit m 10 else setBit m 10) &&& wakeEnabled s

/-- A set of wake sources becomes active: enabled ones wake from SLEEP, or are latched while SLEEP is entered (R91, R93). -/
def wakeBy (s : State) (m : Nat) : State :=
  let e := wakeCauses s m
  let t := noteWatched s
  if e = 0 then s
  else if s.mode == .sleep then wakeNow t e
  else if sleepAsked s then { t with sys := { t.sys with wakeLatched := t.sys.wakeLatched ||| e } }
  else s

/-- AON runs from XTAL_AON. -/
def xtalAonIn (s : State) : State := endFault ((s.set F.CLK_STATUS_XAON_OK 1).set F.CLK_STATUS_RC_ACTIVE 0) 0x0101 0

/-- R83: the 32.768 kHz crystal is stable. After the 800 ms AON stays on RC_AON. -/
def execXtalAonStable (s : State) : Host.Outcome State Fault Refusal := .next (if s.sys.xaonLate then s else xtalAonIn s)

/-- XTAL_AON is not in use: RC_AON runs, and the fall of XAON_OK is captured (R83, R557). -/
def xtalAonOut (s : State) : State :=
  let t := if s.flag F.CLK_STATUS_XAON_OK then stick s 0x1F6 else s
  raiseFault ((t.set F.CLK_STATUS_XAON_OK 0).set F.CLK_STATUS_RC_ACTIVE 1) 0 0x0101 0

/-- R83, R112: the crystal is not stable 800 ms after power-on reset: AON stays on RC_AON from here on. Nothing happens if it
is already in use. -/
def execXtalAonTimeout (s : State) : Host.Outcome State Fault Refusal :=
  if s.flag F.CLK_STATUS_XAON_OK then .next s
  else
    let t := stepFailed (xtalAonOut s) 2
    .next { t with sys := { t.sys with xaonLate := true } }

/-- The near yard is disabled, and the map has 2^16 entries (R279). -/
def nearOff (s : State) : State := (s.set F.YRD_CAP_NEAR_OFF 1).set F.YRD_CAP_MAP_LOG2_NOW 16

/-- R112, R279: the clock step ends. A missing XTAL_REF, PLL_CORE, PLL_TIME or PLL_SAFB is an F4 fault under that clock's
code; a missing PLL_MEM disables the near yard with an F2 fault. -/
def execClocksLocked (xref core time mem safb : Bool) (s : State) : Host.Outcome State Fault Refusal :=
  if !s.atStep 2 then .next s
  else
    let t := ((((s.put F.CLK_STATUS_XREF_OK xref).put F.CLK_STATUS_CORE_LK core).put F.CLK_STATUS_TIME_LK time).put
      F.CLK_STATUS_SAFB_LK safb).put F.CLK_STATUS_MEM_LK mem
    if !xref then .next (raiseF4 t 0x0102 0)
    else if !core then .next (raiseF4 t 0x0105 0)
    else if !time then .next (raiseF4 t 0x0106 0)
    else if !safb then .next (raiseF4 t 0x0108 0)
    else
      let u := if mem then t else raiseFault (stepFailed (nearOff t) 2) 2 0x0107 0
      .next (startAt u 3)

/-- Whether the boot ROM accepts an image: its checks pass and its SVN is not below SVN_MIN (R103, R657). -/
def imageGood (s : State) (i : ImgRead) : Bool := i.ok && s.get F.SEC_SVN_MIN ≤ i.svn

/-- The region the boot ROM tries first, 1 A or 2 B: the pending one, else the active one, else A (R103; log entry 11). -/
def firstImage (s : State) : Nat :=
  if s.sec.marked != 0 then s.sec.marked else if s.sec.active != 0 then s.sec.active else 1

/-- The key slots in use as a mask (R653). -/
def validSlots (s : State) : Nat :=
  (List.range 8).foldl (fun w k => if s.flag (F.SEC_KEY_SLOT_VALID k) then setBit w k else w) 0

/-- The marks of the images in non-volatile storage, which SEC_STATUS shows with the key slots once the boot ROM has read them
(R103, R653, R656, R657; log entry 62). -/
def setMarks (s : State) (active pending : Nat) : State :=
  { ((s.set F.SEC_STATUS_ACTIVE active).set F.SEC_STATUS_PENDING pending).set F.SEC_STATUS_SLOT_VALID (validSlots s) with sec := { s.sec with active := active, marked := pending } }

/-- The image of region n runs; active is what the header of the active image says of the start-up target (R107). -/
def loadImage (s : State) (n : Nat) (i active : ImgRead) : State :=
  let t := s.set F.SYS_START_IMAGE n
  { t with sys := { t.sys with fw := i, goReady := t.sys.goReady && !active.standby } }

/-- R103, R107, R112, R657: the boot ROM verifies the image it chose, and the other one if that fails; the pending mark is
cleared then. Versions of verified images show in SEC_FW_A and SEC_FW_B (R664). A flash that does not answer is two images
that fail: the pending mark goes and F1 0x0005 is logged before the F4 fault (log entry 11). -/
def execImageCheckDone (imgA imgB : ImgRead) (s : State) : Host.Outcome State Fault Refusal :=
  if !s.atStep 3 || s.get F.SYS_START_IMAGE != 0 then .next s
  else
    let v := (s.set F.SEC_FW_A (if imgA.ok then imgA.version else 0)).set F.SEC_FW_B (if imgB.ok then imgB.version else 0)
    let t := setMarks v s.sec.active s.sec.marked
    let n := firstImage s
    let image (k : Nat) : ImgRead := if k = 1 then imgA else imgB
    let active := image (if s.sec.active != 0 then s.sec.active else 1)
    if imageGood s (image n) then .next (loadImage t n (image n) active)
    else
      let u := raiseFault (stepFailed ((setMarks t s.sec.active 0).set F.SYS_START_IMG_FALLBACK 1) 3) 1 0x0005 n
      if imageGood s (image (3 - n)) then .next (loadImage u (3 - n) (image (3 - n)) active)
      else .next (raiseF4 u 0x0006 0)

/-- The STATUS response body (R158): SYS_STATUS is the caller's view. -/
def statusWord (s : State) : Nat :=
  let code := s.mode.code
  let ready := (s.mode == .ready || s.mode.scanning) && s.step == 0
  let degraded := s.faults.any fun (r : FaultRec) => r.active && (r.cls == 1 || r.cls == 2)
  let en := match s.saf.cfg with | some c => c.guardsEn | none => 0xF
  let pend := (List.range 4).foldl (fun w g => if bit en g && (s.saf.guards[g]?.map (·.pend)).getD false then setBit w g else w) 0
  code + 2 ^ 4 * b2n ready + 2 ^ 8 * s.step + 2 ^ 16 * s.get F.SYS_STATUS_PCIE_CFG + 2 ^ 17 * s.get F.SYS_STATUS_CMD_LIVE
    + 2 ^ 18 * b2n degraded + 2 ^ 19 * s.get F.SYS_STATUS_CAL_STALE + 2 ^ 20 * s.get F.SYS_STATUS_PARTNER_UP + 2 ^ 24 * pend

/-- SYS_START as one dword (R117). -/
def startWord (s : State) : Nat :=
  s.get F.SYS_START_READY_MS + 2 ^ 16 * s.get F.SYS_START_FAIL_STEP + 2 ^ 20 * s.get F.SYS_START_START_FAILS
    + 2 ^ 24 * s.get F.SYS_START_START_KIND + 2 ^ 26 * s.get F.SYS_START_GROOM_FULL
    + 2 ^ 27 * s.get F.SYS_START_IMG_FALLBACK + 2 ^ 28 * s.get F.SYS_START_IMAGE

/-- SHD_WAKE_CAUSE as one dword (R95). -/
def wakeCauseWord (s : State) : Nat :=
  s.get F.SHD_WAKE_CAUSE_WAKE + 2 ^ 8 * s.get F.SHD_WAKE_CAUSE_MGMT + 2 ^ 9 * s.get F.SHD_WAKE_CAUSE_ALARM
    + 2 ^ 10 * s.get F.SHD_WAKE_CAUSE_IRQW + 2 ^ 11 * s.get F.SHD_WAKE_CAUSE_PERST + 2 ^ 16 * s.get F.SHD_WAKE_CAUSE_POWER

/-- CLK_STATUS as one dword (R95). -/
def clkStatusWord (s : State) : Nat :=
  [F.CLK_STATUS_CORE_LK, F.CLK_STATUS_TIME_LK, F.CLK_STATUS_MEM_LK, F.CLK_STATUS_SAFB_LK, F.CLK_STATUS_XREF_OK,
    F.CLK_STATUS_XAON_OK, F.CLK_STATUS_RC_ACTIVE, F.CLK_STATUS_REF_PRESENT, F.CLK_STATUS_REF_ACTIVE, F.CLK_STATUS_FMON_OK].foldl
    (fun w f => w + 2 ^ f.lsb * s.get f) 0

/-- The body of a STATUS response (R158). -/
def statusBody (s : State) : List Byte :=
  leBytes 4 (statusWord s) ++ leBytes 4 (startWord s) ++ leBytes 4 (wakeCauseWord s) ++ leBytes 4 (clkStatusWord s)

/-- R101, R163: the herd firmware runs; CMD_LIVE and the versions are set (R165), the mirror schema is its own (R516), and
after a wake that MGMT_CS# did not cause a STATUS response, with SEQ 0, is placed in an empty slot (log entry 93). An opened device starts up no
further (log entry 12). -/
def execHerdFirmwareRunning (s : State) : Host.Outcome State Fault Refusal :=
  if !s.atStep 3 || s.get F.SYS_START_IMAGE == 0 then .next s
  else
    let fw := s.sys.fw
    let t := (((s.set F.SYS_STATUS_CMD_LIVE 1).set F.CMD_INFO_CUR_MAJ fw.major).set F.CMD_INFO_PREV_MAJ fw.prev).put
      F.CMD_INFO_PREV_VALID (fw.prev != 0)
    let u := startAt (t.set F.RED_SCHEMA_OWN fw.schema) (if s.mode == .opened then 0 else 4)
    let v := if u.cmd.wakeStatus && u.cmd.resp.isNone then
        { u with cmd := { u.cmd with resp := some (0x82, 0, statusBody u) } } else u
    .next { v with cmd := { v.cmd with wakeStatus := false } }

/-- R91 to R107: the start-up ends in STANDBY or goes on to READY. -/
def endStandby (s : State) : State := startAt s 0

/-- The smallest MAP_LOG2, from m up, that numbers every loft stall and every near-yard stall outside the map (R278). -/
def mapFits (near : Nat) : Nat → Nat → Nat
  | 0, m => m
  | fuel + 1, m => if 768 + near ≤ 2 ^ m + 2 ^ (m - 13) then m else mapFits near fuel (m + 1)

/-- MAP_LOG2_NOW for the near yard as it is (R278, R279). -/
def mapNow (s : State) : Nat :=
  if s.flag F.YRD_CAP_NEAR_OFF then 16 else mapFits (s.get F.YRD_CAP_NEAR_STALLS) 11 (s.get F.YRD_MAP_CFG)

/-- The records of which one copy alone is among the bad ones, each once: record number, plus 65,536 for copy B. -/
def besideGood (badCopies : List Nat) : List Nat :=
  badCopies.filter fun n => !(badCopies.contains (if n < 65536 then n + 65536 else n - 65536))

/-- R105: at least one copy of every record passes. -/
def calGood (badCopies : List Nat) : Bool := badCopies.all fun n => (besideGood badCopies).contains n

/-- R105, R629, R630, R688: the stored calibration is checked and becomes the working one where every record has a good copy.
badCopies lists the record copies that fail or do not match the calibration version: the record number, plus 65,536 for
copy B. A failing copy beside a good one is an F0 fault. -/
def checkFlash (s : State) (badCopies : List Nat) : State :=
  let good := calGood badCopies
  let t := (besideGood badCopies).foldl (fun x n => raiseFault x 0 0x1104 (n % 65536))
    { s with cal := { s.cal with flashBad := badCopies, valid := good, work := if good then s.cal.flash else s.cal.work } }
  let u := ((t.put F.CAL_FLASH_A_OK (badCopies.all (65536 ≤ ·))).put F.CAL_FLASH_B_OK (badCopies.all (· < 65536))).add
    F.CAL_FLASH_COPY_ERR badCopies.length
  (u.set F.CAL_VERSION_STORED s.cal.flash.version).set F.CAL_VERSION_WORKING s.cal.flash.version

/-- The stalls of one RL memory channel: one or two ranks of 2 or 4 Gbit parts, 64 KiB each (R55, R274). -/
def channelStalls (dual big : Bool) : Nat := 4096 * (if dual then 2 else 1) * (if big then 2 else 1)

/-- The channels that the near yard uses of those fitted and trained: all 8, or 0 to 3, or none (R104). -/
def channelsUsed (eight : Bool) (rlm : Nat) : Nat :=
  if rlm % 16 != 15 then 0 else if eight && rlm = 255 then 8 else 4

/-- A channel passes its training: its data do, and no command word met a second parity error, after which it would have failed
(R54, R104). -/
def rlmPasses (c : RlmTrain) : Bool := c.ok && c.errs.all (· < 2)

/-- The channels that pass, as a mask (R104). -/
def rlmMask (l : List RlmTrain) : Nat :=
  (l.take 8).zipIdx.foldl (fun w e => if rlmPasses e.1 then setBit w e.2 else w) 0

/-- R54, R55, R104, R105, R112, R274: RL training ends. Channels 0 to 3 are fitted, or all eight, with one rank or two of
2 Gbit or 4 Gbit parts; trained is what each fitted channel's training found. badCopies lists the failing copies of calibration
records. -/
def execRlTrainingDone (eight dual big : Bool) (trained : List RlmTrain) (badCopies : List Nat) (s : State) :
    Host.Outcome State Fault Refusal :=
  if !s.atStep 4 then .next s
  else
    let fitted := if eight then 255 else 15
    let rlm := rlmMask trained &&& fitted
    let bad := (List.range 8).filter fun n => bit fitted n && !bit rlm n
    let t := bad.foldl (fun u n => raiseFault u 2 0x0801 n) (if bad.isEmpty then s else stepFailed s 4)
    let near := if s.flag F.YRD_CAP_NEAR_OFF then 0 else channelsUsed eight rlm * channelStalls dual big
    let w := ({ t with sys := { t.sys with rlm := rlm, rlmDual := dual, rlmLat := trained.map fun (c : RlmTrain) => (c.readLat, c.writeLat) } }.set F.YRD_CAP_NEAR_STALLS near).put F.YRD_CAP_NEAR_OFF (near == 0)
    let u := w.set F.YRD_CAP_MAP_LOG2_NOW (mapNow w)
    let v := checkFlash u badCopies
    let goReady := if s.get F.SYS_START_START_KIND = 1 then s.flag F.SHD_WAKE_CFG_AUTO_READY else s.sys.goReady
    if !goReady then .next (endStandby v)
    else
      let w := (clustersCold v).put F.SYS_START_GROOM_FULL (!calGood badCopies)
      .next (startAt { w with cal := { w.cal with grooms := w.cal.grooms ++
        [{ cmd := none, full := !calGood badCopies, mask := 0x1FFFF, background := false, startUp := true, release := false,
           waiting := false, refused := 0 }] } } 5)

/-- R112: a start-up that has stopped for want of the APD bias; a SET_STATE to READY runs the excitation step again. -/
def startStopped (s : State) : Bool := s.mode == .standby && s.step = 6 && s.sys.trans.isNone && faultActive s 0x0409 0

/-- A change of state, or a start-up, is in progress (R90, R114): one asked for, a SLEEP entry, a SCAN_STOP before its boundary or a
SCAN_START that waits for the partner. -/
def changing (s : State) : Bool :=
  s.sys.trans.isSome || s.sys.sleepEntering || s.sch.stop.isSome || s.red.wait.isSome || (s.mode == .standby && s.step != 0)

/-- READY is reached: READY_MS is taken, the count of failed start-ups returns to 0 (R113), and the image that runs
raises SVN_MIN and becomes the active one (R657). -/
def reachReady (s : State) : State :=
  let ms := (s.sys.raw - s.sys.startAt) / 800000
  let t := setMode (startAt (s.set F.SYS_START_READY_MS (min ms 0xFFFF)) 0) .ready
  let img := s.get F.SYS_START_IMAGE
  let u := (t.set F.SYS_START_START_FAILS 0).set F.SEC_SVN_MIN (max (s.get F.SEC_SVN_MIN) s.sys.fw.svn)
  setMarks u img (if s.sec.marked = img then 0 else s.sec.marked)

/-! ### REF_IN -/

/-- R84: REF_IN is declared lost. Nothing happens while it is not qualified as present. -/
def execRefInLoss (s : State) : Host.Outcome State Fault Refusal :=
  if !s.flag F.CLK_STATUS_REF_PRESENT then .next { s with sys := { s.sys with refReturn := none } }
  else
    let s0 := if s.flag F.CLK_STATUS_REF_ACTIVE then noteRefSwitch s else s
    let t := (((s0.set F.CLK_STATUS_REF_ACTIVE 0).set F.CLK_STATUS_REF_PRESENT 0).set F.CLK_REF_EVENT_LOSS 1).inc F.CLK_REF_LOSS_CNT
    .next (crystalAlt (raiseFault { t with sys := { t.sys with refReturn := none } } 0 0x0103 0))

/-- PLL_TIME runs from REF_IN again; DEVTIME is slewed by the error it has gathered, never stepped (R85), unless PPS
alignment slews it (R219). -/
def returnToRef (s : State) (offset : Int) : State :=
  let t := (noteRefSwitch (s.set F.CLK_STATUS_REF_ACTIVE 1)).set F.CLK_REF_EVENT_RETURN 1
  { t with sys := { t.sys with refReturn := none,
                               slew := if s.flag F.TDC_PPS_STATUS_ALIGNED then t.sys.slew else t.sys.slew + offset } }

/-- A return to REF_IN that waits for a frame boundary happens at once (R85). -/
def returnAnyway (s : State) : State :=
  match s.sys.refReturn with
  | some d => if s.flag F.CLK_REF_CFG_AUTO_RETURN then returnToRef s d else s
  | none => s

/-- R85, R86: REF_IN has been clean for 100 ms. With REF_SEL and AUTO_RETURN the reference returns at the next frame
boundary in READY and SCAN, at once elsewhere. offset is the DEVTIME error in
ticks against REF_IN time. -/
def execRefInQualified (offset : Int) (s : State) : Host.Outcome State Fault Refusal :=
  let t := endFault (s.set F.CLK_STATUS_REF_PRESENT 1) 0x0103 0
  if !s.flag F.CLK_REF_CFG_REF_SEL || !s.flag F.CLK_REF_CFG_AUTO_RETURN || s.flag F.CLK_STATUS_REF_ACTIVE then .next t
  else if s.mode == .ready || s.mode == .scan then .next { t with sys := { t.sys with refReturn := some offset } }
  else .next (returnToRef t offset)

/-- A CLK_REF_CFG value takes effect (R87): with REF_SEL 0 the crystal is used; selecting a present REF_IN uses it. -/
def applyRefCfg (s : State) (v : Nat) : State :=
  let sel := bit v 8
  let was := s.flag F.CLK_REF_CFG_REF_SEL
  let t := (((s.set F.CLK_REF_CFG_REF_FREQ v).set F.CLK_REF_CFG_PRESC (v / 4)).put F.CLK_REF_CFG_REF_SE (bit v 4)).put F.CLK_REF_CFG_REF_SEL sel
  if !sel then
    let u := if t.flag F.CLK_STATUS_REF_ACTIVE then noteRefSwitch t else t
    { u.set F.CLK_STATUS_REF_ACTIVE 0 with sys := { u.sys with refReturn := none } }
  else if !was && t.flag F.CLK_STATUS_REF_PRESENT then (noteRefSwitch t).set F.CLK_STATUS_REF_ACTIVE 1 else t

/-- R87: a write to the REF_IN configuration; in SCAN its fields but AUTO_RETURN wait for the frame boundary. -/
def writeRefCfg (s : State) (v : Nat) : State :=
  let t := s.put F.CLK_REF_CFG_AUTO_RETURN (bit v 9)
  if s.mode == .scan then { t with sys := { t.sys with refCfg := some v } }
  else applyRefCfg { t with sys := { t.sys with refCfg := none } } v

/-- R87: a write to the REF_IN configuration. -/
def execClkRefCfgWrite (value : Dword) (s : State) : Host.Outcome State Fault Refusal := .next (writeRefCfg s value.toNat)

/-! ### Wake and sleep -/

/-- R91, R94: wake sources are active, laid out as SHD_WAKE_CAUSE; pins are the WAKE balls at their active level. -/
def execWake (sources pins : Nat) (s : State) : Host.Outcome State Fault Refusal :=
  .next (wakeBy { s with irq := { s.irq with wakePins := pins % 16 } } sources)

/-- R91: AON_TIME reaches ALARM: its source rises, and wakes the device where it is enabled. -/
def execAonAlarm (s : State) : Host.Outcome State Fault Refusal :=
  let t := { s with irq := { s.irq with alarm := true } }
  .next (wakeBy t (2 ^ 9))

/-- What AON still sees of the sources in SLEEP (R571): the software bits set before, and the captures of its own sources. -/
def keepLevels (s t : State) : State :=
  ((List.range 16).foldl (fun (u : State) i => u.set (F.IRQ_SWSET i) (s.get (F.IRQ_SWSET i))) t).set (F.IRQ_STICKY 15)
    (s.get (F.IRQ_STICKY 15) / 2 ^ 16 * 2 ^ 16)

/-- The device as it stands in SLEEP: reset, with the levels kept that wake it, and the link down (R91, R93). -/
def asleep (s : State) : State :=
  let t := keepLevels s (deviceReset s (s.get F.SYS_START_START_KIND))
  setMode { t with link := { t.link with up := false } } .sleep

/-- R89, R93, R571: SLEEP entry ends: every shed except AON is gated and its contents are lost; a wake latched during the
entry, or a watched source that is high, wakes the device at once. -/
def execSleepEntryDone (s : State) : Host.Outcome State Fault Refusal :=
  if !s.sys.sleepEntering || s.mode != .standby then .next s
  else .next (wakeBy (asleep s) s.sys.wakeLatched)

end Sys2Proof.Machine
end

