-- ==== Sys2Proof/Machine/Opcode.lean ====
section
/-! DEFINITION. What the opcode table says of every opcode (R148): its kind, its buffer, the states that permit it (R146)
and the sheds it needs; and the frame in which an opcode's own row runs. -/

namespace Sys2Proof.Machine

/-- The opcodes of R148. -/
def opcodes : List Nat :=
  [0x0100, 0x0101, 0x0102, 0x0103, 0x0104, 0x0105, 0x0106, 0x0200, 0x0201, 0x0202, 0x0203, 0x0204, 0x0205, 0x0300, 0x0301,
    0x0302, 0x0400, 0x0401, 0x0402, 0x0403, 0x0404, 0x0405, 0x0406, 0x0407, 0x0500, 0x0501, 0x0502, 0x0503, 0x0504, 0x0600,
    0x0601, 0x0602, 0x0603, 0x0604, 0x0700, 0x0701, 0x0702, 0x0703, 0x0704, 0x0800, 0x0801, 0x0802, 0x0900, 0x0901, 0x0902,
    0x0903, 0x0904, 0x0A00, 0x0A01, 0x0A02, 0x0A03, 0x0A04, 0x0A05]

/-- Opcodes that read a host buffer. -/
def opReads (op : Nat) : Bool :=
  [0x0200, 0x0400, 0x0401, 0x0404, 0x0406, 0x0500, 0x0501, 0x0502, 0x0503, 0x0504, 0x0600, 0x0A02, 0x0A05].contains op

/-- Opcodes that write a host buffer. -/
def opWrites (op : Nat) : Bool := [0x0604, 0x0702, 0x0900, 0x0904, 0x0A00, 0x0A04].contains op

/-- Opcodes with a signed block (R139). -/
def opSigned (op : Nat) : Bool := op / 256 = 5 || op = 0x0A05

/-- Long operations (kinds A and A*). -/
def opLong (op : Nat) : Bool :=
  [0x0102, 0x0106, 0x0200, 0x0202, 0x0203, 0x0301, 0x0400, 0x0401, 0x0403, 0x0404, 0x0406, 0x0500, 0x0501, 0x0700, 0x0701,
    0x0703, 0x0704, 0x0801, 0x0802, 0x0902, 0x0903, 0x0A02, 0x0A03, 0x0A05].contains op

/-- Long operations that ABORT can stop (kind A*). -/
def opStops (op : Nat) : Bool := [0x0700, 0x0801, 0x0802, 0x0902, 0x0903].contains op

/-- STANDBY, READY, SCAN, SAFE-HOLD and LOCKOUT (R146). -/
def defaultStates (m : Mode) : Bool := m == .standby || m == .ready || m.scanning

/-- The states that permit an opcode (R146, R148), but for the sheds. -/
def opPermitted (s : State) (op : Nat) : Bool :=
  let m := s.mode
  if [0x0100, 0x0101, 0x0103, 0x0900, 0x0A00, 0x0A01].contains op then defaultStates m || m == .opened
  else if op = 0x0A05 then m == .opened
  else if [0x0200, 0x0A02, 0x0A03].contains op then m == .standby || m == .ready || m == .scan
  else if [0x0204, 0x0205, 0x0400, 0x0800, 0x0802].contains op then m == .standby || m == .ready
  else if [0x0201, 0x0902, 0x0903].contains op then m == .ready
  else if op = 0x0202 then m.scanning
  else if op = 0x0203 then m == .scan
  else if op = 0x0500 || op = 0x0501 then defaultStates m && !s.saf.armed
  else if op = 0x0502 then m == .ready || m == .scan
  else if op = 0x0503 then m == .ready || m == .scan || m == .safeHold
  else if op = 0x0504 then m == .lockout
  else defaultStates m

/-- The sheds that an opcode needs beyond those of its states are up (R146; log entry 18). -/
def opSheds (s : State) (op : Nat) : Bool :=
  if [0x0401, 0x0402, 0x0403, 0x0404, 0x0405, 0x0406, 0x0407].contains op then thmUp s
  else if op = 0x0400 then s.flag F.SHD_ALLOW_THM_ALLOW
  else if op / 256 = 3 || [0x0601, 0x0700, 0x0703, 0x0704].contains op then hgeUp s
  else if op = 0x0801 then prtUp s
  else true

/-- Checks 5 to 7 of R135 in their order: a lock, the state (with a condition of the opcode's own), a conflict; none when
all pass. -/
def stdCheck (s : State) (c : Cmd) (lock badState busy : Bool) : Option Nat :=
  if lock then some St.locked
  else if !opPermitted s c.opcode || !opSheds s c.opcode || badState then some St.badState
  else if busy || (opLong c.opcode && 16 ≤ longRunning s) then some St.busy
  else none

/-- A command is refused with a status; a lock is logged (R145). -/
def refuse (s : State) (c : Cmd) (status detail : Nat) : State :=
  finish (if status = St.locked then raiseFault s 0 0x0008 c.opcode else s) c status detail 0

/-- The DETAIL of a check's status: a parameter that the state makes wrong stands in dword 4 (R136). -/
def checkDetail (status : Nat) : Nat := if status = St.badParam then 4 else 0

/-- The row of an opcode runs for the command of a source and a tag: nothing happens unless such a command waits and may
start; one whose checks fail is refused (a parameter that the state makes wrong stands in dword 4), but an operation that has received
ACCEPTED has passed them (R692); a buffer must have been read where the opcode reads one. -/
def withCmd (s : State) (p : Port) (tag op : Nat) (check : State → Cmd → Option Nat) (run : State → Cmd → State) :
    Host.Outcome State Fault Refusal :=
  match findCmd s p tag op with
  | none => .next s
  | some c =>
    if c.phase != (if opReads op then .ready else .fetched) || !startable s c then .next s
    else match (if c.first then none else check s c) with
      | some st => .next (refuse s c st (checkDetail st))
      | none => .next (run s c)

/-- The command of a source and a tag as it now stands in the list, else as it was. -/
def cmdNow (s : State) (c : Cmd) : Cmd :=
  (s.cmd.cmds.find? fun (x : Cmd) => x.port == c.port && x.tag == c.tag && x.index == c.index && x.phase != .done).getD c

/-- A long operation is accepted, unless it has been already, and runs; what follows gets the state and the command. -/
def begin_ (s : State) (c : Cmd) (run : State → Cmd → State) : State :=
  let t := if c.first then replaceCmd s c { c with phase := .running } else accept s c
  run t { c with phase := .running, first := true }

end Sys2Proof.Machine
end

