-- ==== Sys2Proof/Machine/Write.lean ====
section
/-! DEFINITION. Register writes by access type (R8 to R13), the RWL lock (R9), and the settings that wait for a frame
boundary (R201, R210, R691). -/

namespace Sys2Proof.Machine

/-- The value that a write carries for a field. -/
def Fld.of (f : Fld) (v : Nat) : Nat := bits v f.lsb f.width

/-- Whether the safety configuration is committed, so that RWL fields are locked (R9, R465). -/
def committed (s : State) : Bool := s.saf.cfg.isSome

/-- The instance of a register table that covers a dword offset: the register's own offset and its fields. -/
def RegSpec.find (r : RegSpec) (x : Nat) : Option (Nat × List (Fld × Acc)) :=
  if x < r.off then none
  else
    let d := x - r.off
    let i := d / r.s1
    let d1 := if r.s1 = 0 then d else d % r.s1
    let j := d1 / r.s2
    let d2 := if r.s2 = 0 then d1 else d1 % r.s2
    if i < r.n1 && j < r.n2 && d2 < r.size then some (x - d2, r.fields i j) else none

/-- The first instance among register tables that covers an offset. -/
def findReg : List RegSpec → Nat → Option (Nat × List (Fld × Acc))
  | [], _ => none
  | r :: l, x => match r.find x with
    | some a => some a
    | none => findReg l x

/-- The register at a dword offset of BAR0. -/
def regAt (x : Nat) : Option (Nat × List (Fld × Acc)) := findReg (regSpecsOf x) x

/-- Whether a write would change an RWL field in the dword at bit lo of the register (R9). -/
def rwlHit (s : State) (fs : List (Fld × Acc)) (v lo : Nat) : Bool :=
  fs.any fun (e : Fld × Acc) => e.2 == .rwl && bits ((s.get e.1 ^^^ e.1.of v) <<< e.1.lsb) lo 32 != 0

/-- R9: a write that would change locked fields is logged, once for each dword of a pair. -/
def lockLog (s : State) (off : Nat) (fs : List (Fld × Acc)) (v : Nat) : State :=
  if !committed s then s
  else
    let t := if rwlHit s fs v 0 then raiseFault s 0 0x0007 off else s
    if rwlHit s fs v 32 then raiseFault t 0 0x0007 (off + 4) else t

/-- A field's value is held for a frame boundary. -/
def holdField (s : State) (late : Bool) (f : Fld) (v : Nat) : State :=
  { s with hold := s.hold ++ [{ late := late, fld := f, val := v }] }

/-- A field takes a value at once; an older one that waits for a boundary is not applied over it. -/
def setNow (s : State) (f : Fld) (v : Nat) : State :=
  let t := s.set f v
  if s.hold.any (fun (h : Held) => h.fld == f) then { t with hold := t.hold.filter fun (h : Held) => h.fld != f } else t

/-- One field takes its part of a write as its access type says (R8); stage says whether it waits for a boundary. -/
def writeField (s : State) (stage : Option Bool) (v : Nat) (e : Fld × Acc) : State :=
  let f := e.1
  let w := f.of v
  let put (s : State) : State := match stage with
    | some late => holdField s late f w
    | none => setNow s f w
  match e.2 with
  | .ro => s
  | .rw => put s
  | .rwl => if committed s then s else put s
  | .w1c => s.set f (s.get f - (s.get f &&& w))
  | .w1s => s.set f (s.get f ||| w)
  | .wo => s

/-- Whether the next boundary's slot 0 has been admitted, so that a write waits for the boundary after it (R691). -/
def lateNow (s : State) : Bool := s.sch.slots < s.sch.next + 64

/-- Whether a write while frames run, in SCAN, SAFE-HOLD or LOCKOUT, waits for a frame boundary (R691; log entry 94): RWL fields of
the front end (R201), window profiles (R210), the HGE registers named in its register rules, and the emitter enables (R348,
R365). -/
def stageOf (s : State) (off : Nat) (a : Acc) : Option Bool :=
  if !s.mode.scanning then none
  else if 0x40000 ≤ off && off < 0x60000 then if a == .rwl then some false else none
  else if 0x60100 ≤ off && off < 0x60140 then some (lateNow s)
  else if hgeHeld off then some (lateNow s)
  else if emiHeld off then some false
  else none
where
  hgeHeld (off : Nat) : Bool :=
    [F.HGE_CTRL_PACKED.off, F.HGE_DITHER.off, F.HGE_SEED.off, F.HGE_SEED.off + 4, F.HGE_DET_K.off, F.HGE_PART0_RANGE_MAX.off,
      F.HGE_PART1_FWHM_MIN.off].contains off || ((F.HGE_PROF_BW 0).off ≤ off && off < (F.HGE_PROF_BW 16).off)
  emiHeld (off : Nat) : Bool := [F.EMI_ROW_EN.off, F.EMI_COL_EN.off, F.EMI_BANK_EN_EN.off].contains off

/-- A write of one register's fields by their access types. -/
def writeFields (s : State) (off : Nat) (fs : List (Fld × Acc)) (v : Nat) : State :=
  fs.foldl (fun t e => writeField t (stageOf s off e.2) v e) (lockLog s off fs v)

/-- A write of a whole register: 32 bits, or 64 for a _LO/_HI pair (R11). An unassigned offset takes nothing (R13). -/
def writeAt (s : State) (x v : Nat) : State :=
  match regAt x with
  | some (off, fs) => writeFields s off fs v
  | none => s

/-- The fields held for the next boundary take effect; those of the boundary after it move up. -/
def applyHeld (s : State) : State :=
  let t := s.hold.foldl (fun (t : State) (h : Held) => if h.late then t else t.set h.fld h.val) s
  { t with hold := (s.hold.filter (·.late)).map fun (h : Held) => { h with late := false } }

/-- The state whose registers are those of the next frame, for slots admitted across the boundary (R691). -/
def nextFrameRegs (s : State) : State :=
  s.hold.foldl (fun (t : State) (h : Held) => if h.late then t else t.set h.fld h.val) s

end Sys2Proof.Machine
end

