-- ==== Sys2Proof/Machine/Saf.lean ====
section
/-! DEFINITION. The safety functions: the configuration image, the two evaluators, output pairs, guards, reset request and
safety states (chapter 14). -/

namespace Sys2Proof.Machine

/-! ### The configuration image (R458 to R463) -/

/-- Number of set bits among 16. -/
def pop16 (w : Nat) : Nat := popCount 16 w

/-- A check that fails, with its number and the byte offset at fault; none when it passes. -/
abbrev LoadErr := Option (Nat × Nat)

/-- A failing condition as an error. -/
def failIf (c : Bool) (check off : Nat) : LoadErr := if c then some (check, off) else none

/-- The first error of a list. -/
def firstErr (l : List LoadErr) : LoadErr := l.findSome? id

/-- The offset of the first byte other than 0 in a range. -/
def firstNonZero (b : List Byte) (off : Nat) : Nat → Option Nat
  | 0 => none
  | n + 1 => if (b.getD off 0) != 0 then some off else firstNonZero b (off + 1) n

/-- Reserved bytes that must be 0. -/
def mustBeZero (b : List Byte) (check off n : Nat) : LoadErr := (firstNonZero b off n).map fun o => (check, o)

/-- Header checks (R458) against the present frame length. -/
def headerErr (b : List Byte) (frameUs : Nat) : LoadErr :=
  firstErr [
    failIf (b.length < 0x1C0) 1 0x24,
    failIf (leAt b 0 4 != 0x43464153) 1 0, failIf (leAt b 4 2 != 1) 1 4, failIf (leAt b 6 1 = 0) 1 6,
    failIf (16 ≤ leAt b 7 1) 1 7, failIf (leAt b 8 4 != frameUs) 1 8,
    failIf (leAt b 0xC 1 = 0 || 4 < leAt b 0xC 1) 1 0xC, failIf (7 < leAt b 0xD 1) 1 0xD,
    failIf (leAt b 0xE 1 = 0 || 16 < leAt b 0xE 1) 1 0xE, mustBeZero b 1 0xF 1,
    failIf (zeroAt b 0x10 16) 1 0x10, failIf (leAt b 0x20 2 < 20 || 500 < leAt b 0x20 2) 1 0x20,
    mustBeZero b 1 0x22 2, failIf (leAt b 0x24 4 != b.length) 1 0x24, mustBeZero b 1 0x28 24]

/-- The paddocks of set s that can gate a pair: defined and no warning fields; none of a disabled set. -/
def gatePads (b : List Byte) (s : Nat) : Nat :=
  if bit (leAt b 6 1) s then
    (List.range 16).foldl (fun w p => if bit (leAt b (0xC2 + 32 * s) 2) p && !bit (leAt b (0xC4 + 32 * s) 2) p then setBit w p else w) 0
  else 0

/-- Whether every bit of a is a bit of c. -/
def subMask (a c : Nat) : Bool := a &&& c = a

/-- Checks of pair record n (R459, R463). -/
def pairErr (b : List Byte) (n : Nat) : LoadErr :=
  let o := 0x40 + 32 * n
  let auto := bit (leAt b o 1) 1
  let ms := leAt b (o + 2) 2
  firstErr ([failIf (8 ≤ leAt b o 1) 2 o, failIf (16 ≤ leAt b (o + 1) 1 || !subMask (leAt b (o + 1) 1) (leAt b 7 1)) 2 (o + 1),
      failIf (if auto then ms < 100 || 10000 < ms else ms != 0) 2 (o + 2), mustBeZero b 2 (o + 4) 4]
    ++ ((List.range 8).map fun s => failIf (!subMask (leAt b (o + 8 + 2 * s) 2) (gatePads b s)) 2 (o + 8 + 2 * s))
    ++ [mustBeZero b 2 (o + 0x18) 8])

/-- Checks of set descriptor s and its direction list (R460, R461). -/
def setErr (b : List Byte) (s : Nat) : LoadErr :=
  let o := 0xC0 + 32 * s
  if !bit (leAt b 6 1) s then mustBeZero b 3 o 32
  else
    let nd := leAt b o 2
    let table (f size : Nat) : LoadErr := failIf (leAt b (o + f) 4 % 4 != 0 || b.length < leAt b (o + f) 4 + size) 3 (o + f)
    let d := leAt b (o + 8) 4
    firstErr ([failIf (nd = 0 || 1024 < nd) 3 o, failIf (leAt b (o + 2) 2 = 0) 3 (o + 2), table 8 (4 * nd), table 0xC (32 * nd),
        table 0x10 (256 * nd), mustBeZero b 3 (o + 0x1C) 4]
      ++ (if 1024 < nd then [] else (List.range nd).map fun i =>
        let v := leAt b (d + 4 * i) 4
        failIf (2 ^ 17 ≤ v || (0 < i && v ≤ leAt b (d + 4 * (i - 1)) 4)) 3 (d + 4 * i)))

/-- The checks of one A entry at its offset (R461, R463). -/
def entryErr (pad p v off : Nat) : LoadErr :=
  if bit pad p && bit v 15 then failIf (bit v 7 || bits v 8 7 < bits v 0 7) 4 off else failIf (v != 0) 4 off

/-- Checks of the A table of set s (R463); a defined paddock without a direction is named at its first entry. -/
def aTableErr (b : List Byte) (s : Nat) : LoadErr :=
  if !bit (leAt b 6 1) s then none
  else
    let o := 0xC0 + 32 * s
    let nd := leAt b o 2
    let pad := leAt b (o + 2) 2
    let a := leAt b (o + 0xC) 4
    firstErr (((List.range (16 * nd)).map fun k => entryErr pad (k % 16) (leAt b (a + 2 * k) 2) (a + 2 * k))
      ++ (List.range 16).map fun p =>
        failIf (bit pad p && (List.range nd).all fun i => !bit (leAt b (a + 32 * i + 2 * p) 2) 15) 4 (a + 2 * p))

/-- The paddock mask that the A entries of a direction give for a bucket. -/
def aMask (l : List Nat) (bucket : Nat) : Nat :=
  (List.range 16).foldl (fun w p =>
    let v := l.getD p 0
    if bit v 15 && bits v 0 7 ≤ bucket && bucket ≤ bits v 8 7 then setBit w p else w) 0

/-- Checks of the B table of set s against its A table (R463). -/
def bTableErr (b : List Byte) (s : Nat) : LoadErr :=
  if !bit (leAt b 6 1) s then none
  else
    let o := 0xC0 + 32 * s
    let nd := leAt b o 2
    let a := leAt b (o + 0xC) 4
    let t := leAt b (o + 0x10) 4
    firstErr ((List.range (128 * nd)).map fun k =>
      let i := k % nd
      let row := (List.range 16).map fun p => leAt b (a + 32 * i + 2 * p) 2
      failIf (leAt b (t + 2 * k) 2 != aMask row (k / nd)) 5 (t + 2 * k))

/-- R463: the first failing check of an image. -/
def imageErr (b : List Byte) (frameUs : Nat) : LoadErr :=
  let eight (f : Nat → LoadErr) : LoadErr := firstErr ((List.range 8).map f)
  firstErr [headerErr b frameUs, firstErr ((List.range 4).map (pairErr b)), eight (setErr b), eight (aTableErr b), eight (bTableErr b)]

/-- One set of an image that passes its checks. -/
def parseSet (b : List Byte) (s : Nat) : SetCfg :=
  let o := 0xC0 + 32 * s
  let nd := leAt b o 2
  let d := leAt b (o + 8) 4
  let a := leAt b (o + 0xC) 4
  let t := leAt b (o + 0x10) 4
  { padEn := leAt b (o + 2) 2, warn := leAt b (o + 4) 2, partIgn := leAt b (o + 6) 2,
    minDirs := (List.range 16).map fun p => bits (leAt b (o + 0x14) 8) (4 * p) 4,
    dirs := (List.range nd).map fun i => leAt b (d + 4 * i) 4,
    aTab := (List.range (16 * nd)).map fun k => leAt b (a + 2 * k) 2,
    bTab := (List.range (128 * nd)).map fun k => leAt b (t + 2 * k) 2 }

/-- An image that passes its checks. -/
def parseImage (b : List Byte) : SafCfg :=
  { setsEn := leAt b 6 1, guardsEn := leAt b 7 1, frameUs := leAt b 8 4, kFrames := leAt b 0xC 1, covGrace := leAt b 0xD 1,
    spanMax := leAt b 0xE 1, progCrc := (List.range 4).map fun i => leAt b (0x10 + 4 * i) 4, edmWin := leAt b 0x20 2,
    pairs := (List.range 4).map fun n =>
      let o := 0x40 + 32 * n
      let f := leAt b o 1
      { en := bit f 0, autoRestart := bit f 1, edmEn := bit f 2, guardMask := leAt b (o + 1) 1, restartMs := leAt b (o + 2) 2,
        pmask := (List.range 8).map fun s => leAt b (o + 8 + 2 * s) 2 }
    sets := (List.range 8).map (parseSet b) }

/-! ### Judging by the two evaluators -/

/-- A return as the evaluators receive it: range in 0.125 mm, and both PARTICULATE and SHAPE_TESTED (R468). -/
structure SafReturn where
  range : Nat
  spray : Bool
  deriving DecidableEq, Repr

/-- A cell notice (R263, R474). -/
structure Notice where
  dir : Nat
  /-- It carries one of SHORT, BRIDGE, REFUSED, STALE and AMB_HIGH, or reports a lost cell. -/
  bad : Bool
  /-- Time from the first shot's slot start to the close in ns. -/
  span : Nat
  /-- Close of the window in 15.625 ps after the shot reference. -/
  close : Nat
  returns : List SafReturn
  deriving DecidableEq, Repr

/-- Evaluator A's bucket of a range: the quotient by 800 (R462). -/
def bucketA (range : Nat) : Option Nat := if range / 800 < 128 then some (range / 800) else none

/-- The upper half of a search among bucket boundaries: the largest bucket below lo + 2^n whose boundary is not beyond the
range (R462). -/
def searchBucket (range : Nat) : Nat → Nat → Nat
  | 0, lo => lo
  | n + 1, lo => if 800 * (lo + 2 ^ n) ≤ range then searchBucket range n (lo + 2 ^ n) else searchBucket range n lo

/-- Evaluator B's bucket of a range: a binary search of the boundaries. -/
def bucketB (range : Nat) : Option Nat := if range < 102400 then some (searchBucket range 7 0) else none

/-- The set-local index of a direction (R461). -/
def dirIndex (c : SetCfg) (dir : Nat) : Option Nat := c.dirs.findIdx? (· == dir)

/-- The mask without the paddocks that ignore a tested particulate return (R468). -/
def counting (c : SetCfg) (r : SafReturn) (mask : Nat) : Nat := if r.spray then mask - (mask &&& c.partIgn) else mask

/-- The paddocks that one return intrudes, by the A table. -/
def intrudeA (c : SetCfg) (i : Nat) (r : SafReturn) : Nat :=
  match bucketA r.range with
  | some b => counting c r (aMask ((c.aTab.drop (16 * i)).take 16) b)
  | none => 0

/-- The paddocks that one return intrudes, by the B table. -/
def intrudeB (c : SetCfg) (i : Nat) (r : SafReturn) : Nat :=
  match bucketB r.range with
  | some b => counting c r (c.bTab.getD (c.dirs.length * b + i) 0)
  | none => 0

/-- The intruding mask of a notice (R468). -/
def intruding (d : Side) (c : SetCfg) (i : Nat) (l : List SafReturn) : Nat :=
  l.foldl (fun w r => w ||| (match d with
    | .a => intrudeA c i r
    | .b => intrudeB c i r)) 0

/-- The buckets at which direction i lies in some paddock, with the masks, as an evaluator's own table gives them. -/
def rowMasks (d : Side) (c : SetCfg) (i : Nat) : List Nat :=
  (List.range 128).map fun b => match d with
    | .a => aMask ((c.aTab.drop (16 * i)).take 16) b
    | .b => c.bTab.getD (c.dirs.length * b + i) 0

/-- The paddocks that direction i belongs to. -/
def dirPads (d : Side) (c : SetCfg) (i : Nat) : Nat := (rowMasks d c i).foldl (· ||| ·) 0

/-- The far edge of direction i's furthest bucket in 0.125 mm; 0 when it lies in no paddock. -/
def farEdge (d : Side) (c : SetCfg) (i : Nat) : Nat :=
  (rowMasks d c i).zipIdx.foldl (fun m e => if e.1 = 0 then m else 800 * (e.2 + 1)) 0

/-- R474: whether a notice is good for a direction with this far edge. -/
def goodNotice (s : State) (c : SafCfg) (far : Nat) (n : Notice) : Bool :=
  !n.bad && n.span ≤ 1000000 * c.spanMax
    && far * 10 ^ 10 < (n.close - s.get F.TDC_ZERO) * 299792458 * 625

/-- The run of a direction for a paddock in a set. -/
def runOf (e : Evaluator) (set i p : Nat) : Nat :=
  match e.runs.find? (fun (r : Run) => r.set == set && r.dir == i && r.pad == p) with
  | some r => r.n
  | none => 0

/-- Runs of a direction of a set after a good cell with this intruding mask (R469). -/
def nextRuns (e : Evaluator) (c : SetCfg) (set i mask : Nat) : List Run :=
  let others := e.runs.filter fun (r : Run) => !(r.set == set && r.dir == i)
  others ++ (List.range 16).filterMap fun p =>
    if bit c.padEn p && bit mask p then some { set := set, dir := i, pad := p, n := min 4 (runOf e set i p + 1) } else none

/-- R469: the violated paddocks of a set. -/
def violatedMask (e : Evaluator) (k : Nat) (c : SetCfg) (set : Nat) : Nat :=
  (List.range 16).foldl (fun w p =>
    let n := (e.runs.filter fun (r : Run) => r.set == set && r.pad == p && k ≤ r.n).length
    if bit c.padEn p && c.minDirs.getD p 0 < n then setBit w p else w) 0

/-- Whether a direction is in a gap (R475); one that has had no good cell yet is. -/
def inGap (e : Evaluator) (dir : Nat) : Bool := !e.covered.contains dir || e.short.contains dir

/-- R476: the incomplete paddocks of a set. -/
def incompleteMask (d : Side) (e : Evaluator) (c : SetCfg) : Nat :=
  (c.dirs.zipIdx.filter fun x => inGap e x.1).foldl (fun w x => w ||| dirPads d c x.2) 0 &&& c.padEn

/-- The sets that an evaluator applies: the one in force and those replaced within one frame period (R472, R473). -/
def appliedSets (e : Evaluator) : List Nat := e.active :: e.replaced

/-- A set of the configuration. -/
def SafCfg.set (c : SafCfg) (k : Nat) : SetCfg :=
  c.sets.getD k { padEn := 0, warn := 0, partIgn := 0, minDirs := [], dirs := [], aTab := [], bTab := [] }

/-- A pair record of the configuration. -/
def SafCfg.pair (c : SafCfg) (n : Nat) : PairCfg :=
  c.pairs.getD n { en := false, autoRestart := false, edmEn := false, guardMask := 0, restartMs := 0, pmask := [] }

/-! ### Demands and pair states (R476, R481, R482) -/

/-- A guard whose lines are low. -/
def restGuard : Guard := { a := false, b := false, disc := false, pend := false, lowSeen := false }

/-- A guard. -/
def guardAt (s : State) (g : Nat) : Guard :=
  s.saf.guards.getD g restGuard

/-- The demand-off causes of a pair in an evaluator (R481), as bits 0 to 5 in the order VIOL, COVERAGE, GUARD,
GUARD_PEND, FSET, EDM_NOT_READY. COVERAGE is the state of R476 that keeps a pair that is off from being released. -/
def causes (s : State) (c : SafCfg) (d : Side) (n : Nat) : Nat :=
  let e := s.ev d
  let p := c.pair n
  let any (f : Nat → Nat) : Bool := (appliedSets e).any fun k => f k &&& p.pmask.getD k 0 != 0
  let guards := (List.range 4).filter fun g => bit p.guardMask g
  b2n (any fun k => violatedMask e c.kFrames (c.set k) k)
    + 2 * b2n (any fun k => incompleteMask d e (c.set k))
    + 4 * b2n (guards.any fun g => !((guardAt s g).a && (guardAt s g).b) || (guardAt s g).disc)
    + 8 * b2n (guards.any fun g => (guardAt s g).pend)
    + 16 * b2n (!bit c.setsEn e.fsel)
    + 32 * b2n (p.edmEn && !pairOn s n && !(pairAt s n).edm)

/-- A coverage trip is counted and reported by evaluator A (R476, R503). -/
def countTrip (s : State) (d : Side) : State := if d == .a then (s.set F.SAF_EVENT_GAP_TRIP 1).inc F.SAF_CNT_GRACE else s

/-- One pair in one evaluator takes the state that its causes give (R481, R482). A pair that is on goes off for missing
coverage here only with COV_GRACE 0. -/
def settlePair (c : SafCfg) (d : Side) (s : State) (n : Nat) : State :=
  let st := (s.ev d).pair n
  if !(c.pair n).en then if st == .disabled then s else setPair s d n .disabled
  else if !s.saf.armed || s.mode != .scan then if st == .forced then s else setPair s d n .forced
  else
    let w := causes s c d n
    let cover := bit w 1
    let other := w - 2 * b2n cover
    if st == .on then
      if other != 0 then setPair s d n .blocked
      else if cover && c.covGrace = 0 then countTrip (setPair s d n .blocked) d
      else s
    else if w != 0 then if st == .blocked then s else setPair s d n .blocked
    else if st == .wait then s else setPair s d n .wait

/-- Every pair takes the state that its causes give. -/
def settle (s : State) : State :=
  match s.saf.cfg with
  | none => s
  | some c => (List.range 4).foldl (settlePair c .b) ((List.range 4).foldl (settlePair c .a) s)

/-- A gap opens in a direction (R475); evaluator A counts it. -/
def openGap (s : State) (d : Side) (dir : Nat) (short : Bool) : State :=
  let e := s.ev d
  let e' := { e with covered := e.covered.filter (· != dir),
                     short := if short && !e.short.contains dir then e.short ++ [dir] else e.short }
  let t := s.setEv d e'
  if d == .a && !inGap e dir then t.inc F.SAF_CNT_GAP else t

/-- Gaps open in directions, in both evaluators. -/
def openGaps (s : State) (dirs : List Nat) (short : Bool) : State :=
  settle (dirs.foldl (fun t x => openGap (openGap t .a x short) .b x short) s)

/-- One evaluator judges a notice in one of the sets it applies: the runs (R469). -/
def judgeSet (c : SafCfg) (d : Side) (good : Bool) (n : Notice) (e : Evaluator) (k : Nat) : Evaluator :=
  match dirIndex (c.set k) n.dir with
  | some i => if good then { e with runs := nextRuns e (c.set k) k i (intruding d (c.set k) i n.returns) } else e
  | none => e

/-- One evaluator judges a notice (R468 to R476, R479). A direction that no applied set lists is not accounted for. -/
def judge (d : Side) (s : State) (n : Notice) : State :=
  match s.saf.cfg with
  | none => s
  | some c =>
    let e := s.ev d
    let sets := appliedSets e
    let listed := sets.any fun k => (dirIndex (c.set k) n.dir).isSome
    if !listed then s
    else
      let far := match dirIndex (c.set e.active) n.dir with
        | some i => farEdge d (c.set e.active) i
        | none => 0
      let good := goodNotice s c far n
      let e1 := sets.foldl (judgeSet c d good n) e
      let res := match dirIndex (c.set e.active) n.dir with
        | some i => [(i, good, intruding d (c.set e.active) i n.returns)]
        | none => []
      let e2 := { e1 with results := res ++ e1.results, last := s.saf.notices }
      if good then
        s.setEv d { e2 with covered := if e2.covered.contains n.dir then e2.covered else e2.covered ++ [n.dir] }
      else openGap (s.setEv d e2) d n.dir false

/-- The warning fields of the sets in force that are intruded now, for the event (R503). -/
def warnMask (s : State) : Nat :=
  match s.saf.cfg with
  | some c =>
    let e := s.saf.evA
    violatedMask e c.kFrames (c.set e.active) e.active &&& (c.set e.active).warn
  | none => 0

/-- The paddocks of a kind (violated, or warnings) of the active set of evaluator A that a mask of the recorder names and that
are in the second state and not in the first. -/
def newInMask (s t : State) (warn : Bool) (mask : Nat) : Bool :=
  let f (x : State) : Nat := match x.saf.cfg with
    | some c =>
      let k := c.set x.saf.evA.active
      let v := violatedMask x.saf.evA c.kFrames k x.saf.evA.active
      if warn then v &&& k.warn else v - (v &&& k.warn)
    | none => 0
  let n := f t &&& mask
  n - (n &&& f s) != 0

/-- Trigger sources 1 and 3: a paddock of PAD_MASK becomes violated, a warning field of WARN_MASK intruded. -/
def paddockTrigger (s t : State) : State :=
  match s.acq.cfg with
  | none => t
  | some c =>
    let u := if newInMask s t false c.padMask then trigger t 1 else t
    if newInMask s t true c.warnMask then trigger u 3 else u

/-- A cell notice is handed to both evaluators (R21, R263, R478). -/
def notify (s : State) (n : Notice) : State :=
  let t := { s with saf := { s.saf with notices := s.saf.notices + 1 } }
  let u := judge .b (judge .a t n) n
  let v := if warnMask u - (warnMask u &&& warnMask s) != 0 then u.set F.SAF_EVENT_WARN 1 else u
  settle (paddockTrigger s v)

/-- The notice of a direction whose cell is lost or refused: it is not good. -/
def badNotice (s : State) (dir : Nat) : State := notify s { dir := dir, bad := true, span := 0, close := 0, returns := [] }

/-- The directions that a cluster's channels serve under the program in use. -/
def clusterDirs (s : State) (n : Nat) : List Nat :=
  match s.sch.progs.getD s.sch.cur none with
  | some p => p.groups.foldl (fun l (g : ShotGroup) => l ++ ((p.entries.drop g.first).take g.count).foldl (fun l (e : Entry) =>
      if bit e.cl n then l ++ (List.range 64).map fun j => e.dir + 64 * popCount n e.cl + j else l) []) []
  | none => []

/-- The directions of a bank's entries under the program in use. -/
def bankDirs (s : State) (b : Nat) : List Nat :=
  match s.sch.progs.getD s.sch.cur none with
  | some p => p.groups.foldl (fun l (g : ShotGroup) => l ++ ((p.entries.drop g.first).take g.count).foldl (fun l (e : Entry) =>
      if e.row / 4 = b then l ++ (List.range (64 * pop16 e.cl)).map fun j => e.dir + j else l) []) []
  | none => []

/-! ### Coverage -/

/-- R475: one frame period after a good cell a direction's coverage lapses. -/
def execCoverageLapse (dir : Nat) (s : State) : Host.Outcome State Fault Refusal :=
  if s.saf.evA.covered.contains dir || s.saf.evB.covered.contains dir then .next (openGaps s [dir] false) else .next s

/-- R476: a gating paddock of a pair that is on has been incomplete for COV_GRACE frames. Nothing happens while none is. -/
def execCoverageTrip (side : Side) (pair : Fin 4) (s : State) : Host.Outcome State Fault Refusal :=
  match s.saf.cfg with
  | none => .next s
  | some c =>
    if (s.ev side).pair pair.val == .on && bit (causes s c side pair.val) 1 then
      .next (settle (countTrip (setPair s side pair.val .blocked) side))
    else .next s

/-! ### Field sets (R470 to R473) -/

/-- R470 to R472: an evaluator accepts an FSEL value. -/
def acceptFsel (s : State) (d : Side) (v : Nat) : State :=
  let e := s.ev d
  match s.saf.cfg with
  | none => s.setEv d { e with fsel := v }
  | some c =>
    if !bit c.setsEn v then settle (raiseFault (s.setEv d { e with fsel := v }) 0 0x0D08 v)
    else
      let t := endFault s 0x0D08 e.fsel
      if v = e.active then settle (t.setEv d { e with fsel := v })
      else
        let kept := e.replaced.contains v
        let e' := { e with fsel := v, active := v, replaced := e.active :: e.replaced.filter (· != v),
                           runs := if kept then e.runs else e.runs.filter fun (r : Run) => r.set != v }
        settle ((t.setEv d e').set F.SAF_EVENT_FSET_CHANGE 1)

/-- R470: an FSEL value is stable for 3 ms and accepted by an evaluator. -/
def execFselAccept (side : Side) (value : Fin 8) (s : State) : Host.Outcome State Fault Refusal :=
  .next (acceptFsel s side value.val)

/-- R470: the accepted values have differed for 10 ms. -/
def execFsetDisagree (s : State) : Host.Outcome State Fault Refusal :=
  if s.saf.evA.fsel = s.saf.evB.fsel then .next s else .next (raiseF3 s 0x0D06 0 (.hold 5))

/-- R472, R473: the set replaced longest ago is no longer applied. -/
def execFsetOverlapEnd (side : Side) (s : State) : Host.Outcome State Fault Refusal :=
  let e := s.ev side
  match e.replaced.getLast? with
  | none => .next s
  | some k =>
    .next (settle (s.setEv side { e with replaced := e.replaced.dropLast, runs := e.runs.filter fun (r : Run) => r.set != k }))

/-! ### Comparison and self-test -/

/-- What an evaluator reports at a heartbeat: violated, incomplete and warning masks of the set in force (R478). -/
def reportMasks (d : Side) (e : Evaluator) (c : SafCfg) : Nat × Nat × Nat :=
  let k := c.set e.active
  let v := violatedMask e c.kFrames k e.active
  (v - (v &&& k.warn), incompleteMask d e k, v &&& k.warn)

/-- The demand of each pair (R478). -/
def demands (s : State) (c : SafCfg) (d : Side) : List Bool := (List.range 4).map fun n => causes s c d n != 0

/-- R478: whether the reported states of the two evaluators differ; the demands are left out while the accepted sets do. -/
def evaluatorsDiffer (s : State) : Bool :=
  match s.saf.cfg with
  | none => false
  | some c =>
    reportMasks .a s.saf.evA c != reportMasks .b s.saf.evB c
      || (s.saf.evA.fsel = s.saf.evB.fsel && demands s c .a != demands s c .b)

/-- R478: the comparison of one heartbeat; upset says that a failure inside an evaluator changed what it reports. -/
def heartbeatCompare (s : State) (upset : Bool) : State :=
  if upset || evaluatorsDiffer s then
    let t := { s.inc F.SAF_XCMP_MISMATCH_CNT with saf := { s.saf with hbMiss := true } }
    if s.saf.hbMiss then raiseF3 (t.set F.SAF_XCMP_HB_FAIL 1) 0x0D01 0 (.lock 2) else t
  else { s with saf := { s.saf with hbMiss := false } }

/-- The bytes over which an evaluator forms its frame CRC (R479): for each notice in order the set-local index, the good
flag and the intruding mask. -/
def resultBytes (l : List (Nat × Bool × Nat)) : List Byte :=
  l.reverse.foldl (fun r e => r ++ leBytes 2 e.1 ++ leBytes 1 (b2n e.2.1) ++ leBytes 2 e.2.2) []

/-- R479: the frame results are compared at a frame boundary, and a new frame begins: shortfall gaps of the old one can
end (R475). -/
def frameCompare (s : State) : State :=
  let differ := crc32c (resultBytes s.saf.evA.results) != crc32c (resultBytes s.saf.evB.results)
  let clr (e : Evaluator) : Evaluator := { e with results := [], short := [] }
  let t := { s with saf := { s.saf with evA := clr s.saf.evA, evB := clr s.saf.evB } }
  if differ && s.saf.cfg.isSome then raiseF3 (t.set F.SAF_XCMP_FRAME_FAIL 1) 0x0D01 0 (.lock 2) else settle t

/-- R480: an evaluator's test of every 20 ms. -/
def execEvaluatorSelfTest (side : Side) (vectorOk tablesOk : Bool) (s : State) : Host.Outcome State Fault Refusal :=
  if !safUp s then .next s
  else
    let d := match side with
      | .a => 0
      | .b => 1
    if vectorOk && tablesOk then .next s
    else .next (raiseF3 s 0x0D05 d (.hold (if vectorOk then 4 else 3)))

/-! ### Lines, contactors, guards -/

/-- Whether a line (2n for A, 2n + 1 for B) is on. -/
def lineOn (s : State) (line : Nat) : Bool := (s.ev (if line % 2 = 0 then .a else .b)).pair (line / 2) == .on

/-- R483: the test pulse of a line that is on, with what its readbacks gave. -/
def execTestPulse (line : Fin 8) (ownLow otherHigh backHigh : Bool) (s : State) : Host.Outcome State Fault Refusal :=
  let other := line.val / 2 * 2 + (1 - line.val % 2)
  if !lineOn s line.val || (ownLow && (otherHigh || !lineOn s other) && backHigh) then .next s
  else .next (raiseF3 (s.set F.SAF_LINE_FAULT_TP_FAULT (setBit (s.get F.SAF_LINE_FAULT_TP_FAULT) line.val)) 0x0D04 line.val (.hold 2))

/-- R484: a readback has broken its rule for 200 us. -/
def execReadbackFault (line : Fin 8) (s : State) : Host.Outcome State Fault Refusal :=
  if !safUp s then .next s
  else .next (raiseF3 (s.set F.SAF_LINE_FAULT_RB_FAULT (setBit (s.get F.SAF_LINE_FAULT_RB_FAULT) line.val)) 0x0D04 line.val (.hold 1))

/-- R485: the EDM window ends without the feedback that the pair asks for: low while it is on, high while it is off. -/
def execEdmWindowExpiry (pair : Fin 4) (s : State) : Host.Outcome State Fault Refusal :=
  let n := pair.val
  let p := pairAt s n
  if !p.edmPend then .next s
  else
    let t := setPairAt s n { p with edmPend := false }
    if p.edm != pairOn s n then .next t
    else
      let u := (t.set F.SAF_EVENT_EDM 1).set F.SAF_LINE_FAULT_EDM_FAULT (setBit (s.get F.SAF_LINE_FAULT_EDM_FAULT) n)
      .next (raiseF3 u 0x0D02 n (.lock 1))

/-- R481, R485: a new level of EDMn; it ends a window that it satisfies, and a low level while the pair is off opens one. -/
def execEdmAccept (pair : Fin 4) (level : Bool) (s : State) : Host.Outcome State Fault Refusal :=
  let n := pair.val
  let right := level != pairOn s n
  .next (settle (setPairAt s n { edm := level, edmPend := edmEnabled s n && !right }))

/-- A guard's record changes. -/
def setGuard (s : State) (g : Nat) (x : Guard) : State := { s with saf := { s.saf with guards := putAt s.saf.guards g restGuard x } }

/-- A guard of GUARD_MASK becomes open: trigger source 2. -/
def guardTrigger (s : State) (g : Nat) : State :=
  match s.acq.cfg with
  | some c => if bit c.guardMask g then trigger s 2 else s
  | none => s

/-- R486 to R488: a guard channel's level is accepted; near says that a rising edge lies less than 50 ms from the other
channel's. -/
def execGuardAccept (guard : Fin 4) (channel : Side) (level near : Bool) (s : State) : Host.Outcome State Fault Refusal :=
  let g := guard.val
  let x := guardAt s g
  let y := match channel with
    | .a => { x with a := level }
    | .b => { x with b := level }
  let y := if !y.a && !y.b then { y with lowSeen := true } else y
  let passed := y.a && y.b && y.lowSeen && near
  let z := if passed then { y with disc := false, pend := false, lowSeen := false } else y
  let t := setGuard s g z
  let t := if x.disc && !z.disc then endFault t 0x0D07 g else t
  let opens := (x.a && x.b) && !(z.a && z.b)
  let t := if opens then guardTrigger (t.set F.SAF_EVENT_GUARD_OPEN 1) g else t
  .next (settle t)

/-- R487: a guard's channels have differed for 50 ms. -/
def execGuardDiscrepancy (guard : Fin 4) (s : State) : Host.Outcome State Fault Refusal :=
  let x := guardAt s guard.val
  if x.a = x.b then .next s
  else .next (settle (raiseFault (setGuard s guard.val { x with disc := true, lowSeen := false }) 2 0x0D07 guard.val))

/-! ### Reset request -/

/-- Whether a fault code is of the LOCKOUT kind (safety faults table). -/
def lockCode (code : Nat) : Bool := code = 0x0D01 || code = 0x0D02 || code = 0x0D03

/-- Whether a lock-out cause is present. -/
def lockCause (s : State) : Bool := s.saf.f3.any fun (e : Nat × Nat) => lockCode e.1

/-- A lock-out is cleared: SCAN, the latch is released, and every enabled guard has its start-up test before it (R488,
R492). -/
def clearLockout (s : State) : State :=
  let en := match s.saf.cfg with
    | some c => c.guardsEn
    | none => 0xF
  let t := (s.set F.SAF_STATUS_LOCK_LATCH 0).set F.SAF_STATUS_LOCK_CAUSE 0
  let gs := t.saf.guards.zipIdx.map fun (x : Guard × Nat) => if bit en x.2 then { x.1 with pend := true, lowSeen := false } else x.1
  settle (setMode { t with saf := { t.saf with clearable := false, guards := gs } } .scan)

/-- A pair that waits goes on in an evaluator when its configuration asks for this kind of release (R481, R491). -/
def releasePair (c : SafCfg) (auto : Bool) (s : State) (n : Nat) : State :=
  let f (s : State) (d : Side) : State :=
    if (s.ev d).pair n == .wait && (c.pair n).autoRestart == auto then setPair s d n .on else s
  f (f s .a) .b

/-- R491: what an accepted edge does. -/
def resetEdge (s : State) : State :=
  let acc (s : State) : State := (s.inc F.SAF_RST_ACCEPT_CNT).set F.SAF_RST_EDGE 1
  match s.mode with
  | .lockout =>
    if s.saf.clearable then if lockCause s then s.inc F.SAF_RST_REFUSE_CNT else clearLockout (acc s) else acc s
  | .safeHold => if s.saf.f3.isEmpty then settle (setMode (acc s) .scan) else acc s
  | .scan => match s.saf.cfg with
    | some c => if s.saf.armed then (List.range 4).foldl (releasePair c false) (acc s) else acc s
    | none => acc s
  | _ => acc s

/-- R489, R491, R494: the falling edge of a press, with its length as each evaluator saw it in 100 us samples (0 not
seen) and the distance of the two falling edges. A press beyond 5 s is left to JAM. -/
def execRstReqAccept (lenA lenB skew : Nat) (s : State) : Host.Outcome State Fault Refusal :=
  let t := s.set F.SAF_RST_LEVEL 0
  let ok (n : Nat) : Bool := 1000 ≤ n && n ≤ 50000
  if ok lenA && ok lenB && skew < 100 then .next (resetEdge t)
  else if 50000 < lenA || 50000 < lenB then .next t
  else .next (t.inc F.SAF_RST_REFUSE_CNT)

/-- R490: a press held beyond 5 s. -/
def execRstReqJam (s : State) : Host.Outcome State Fault Refusal :=
  .next (raiseFault ((s.set F.SAF_RST_JAM 1).set F.SAF_RST_LEVEL 1) 0 0x0D09 0)

/-- R481: RESTART_MS elapses without a cause. -/
def execAutoRestartExpiry (pair : Fin 4) (s : State) : Host.Outcome State Fault Refusal :=
  match s.saf.cfg with
  | some c => if s.mode == .scan && s.saf.armed then .next (releasePair c true s pair.val) else .next s
  | none => .next s

/-- R492: 60 s after SAFE_LOCKOUT_CLEAR. -/
def execClearableExpiry (s : State) : Host.Outcome State Fault Refusal :=
  .next { s with saf := { s.saf with clearable := false } }

/-! ### F3 faults -/

/-- The kind and cause of an F3 code (safety faults table, SAF_STATUS); none of a code that is no F3 fault. -/
def f3Kind (code : Nat) : Option F3Kind :=
  match code with
  | 0x0106 | 0x0108 | 0x0109 => some (.hold 7)
  | 0x0408 => some (.hold 8)
  | 0x0C02 => some (.hold 6)
  | 0x0D01 => some (.lock 2)
  | 0x0D02 => some (.lock 1)
  | 0x0D03 => some (.lock 3)
  | 0x0D04 => some (.hold 1)
  | 0x0D05 => some (.hold 3)
  | 0x0D06 => some (.hold 5)
  | _ => none

/-- R493: a safety fault. -/
def execF3Fault (code detail : Nat) (s : State) : Host.Outcome State Fault Refusal :=
  if !safUp s then .next s
  else match f3Kind code with
    | some k => .next (raiseF3 s code detail k)
    | none => .next s

/-- R494, R645: an F3 cause counts as cleared; the fault bits of the check that passes again are cleared with it. -/
def execF3CauseCleared (code detail : Nat) (s : State) : Host.Outcome State Fault Refusal :=
  let t := clearF3 s code detail
  match code with
  | 0x0D01 => .next ((t.set F.SAF_XCMP_HB_FAIL 0).set F.SAF_XCMP_FRAME_FAIL 0)
  | 0x0D02 => .next (t.set F.SAF_LINE_FAULT_EDM_FAULT (clearBit (s.get F.SAF_LINE_FAULT_EDM_FAULT) detail))
  | 0x0D04 => .next ((t.set F.SAF_LINE_FAULT_TP_FAULT (clearBit (s.get F.SAF_LINE_FAULT_TP_FAULT) detail)).set
      F.SAF_LINE_FAULT_RB_FAULT (clearBit (s.get F.SAF_LINE_FAULT_RB_FAULT) detail))
  | _ => .next t

/-- R492: TST_MODE rises (ball), or a forbidden test instruction arrives; a tamper fault while armed. -/
def execTstModeRise (ball : Bool) (s : State) : Host.Outcome State Fault Refusal :=
  let t := if ball then { s with pins := { s.pins with tstMode := true } } else s
  if s.saf.armed then .next (raiseF3 t 0x0D03 0 (.lock 3)) else .next t

end Sys2Proof.Machine
end

