-- ==== Sys2Proof/Machine/Return.lean ====
section
/-! DEFINITION. The return front end: channels and ranges, events, cluster sparing, APD bias, impedance check and
waveform slices (chapter 06), with stop windows, dead time and burst FIFOs (chapter 07). -/

namespace Sys2Proof.Machine

/-! ### Clusters and routes -/

/-- The physical cluster that serves logical cluster n: CLS while it is connected in its place (R17, R190). -/
def servedBy (s : State) (n : Nat) : Nat :=
  if n < 16 && (s.get F.RXF_SPARE_STATUS_PHASE = 3 || s.get F.RXF_SPARE_STATUS_PHASE = 4)
    && s.get F.RXF_SPARE_STATUS_ROUTE = n then 16 else n

/-- CLS is free (R188). -/
def clsFree (s : State) : Bool := s.get F.RXF_SPARE_STATUS_PHASE = 0

/-- Whether the physical cluster is in a groom that has started. -/
def inGroom (s : State) (n : Nat) : Bool := s.cal.grooms.any fun (g : Groom) => bit g.mask n && !g.waiting

/-- Whether logical cluster n can open stop windows at all: enabled, not withdrawn, no front-end fault waiting for CLS,
no groom (R189, R322, R606). -/
def clusterOpen (s : State) (n : Nat) : Bool :=
  let p := servedBy s n
  s.flag (F.RXF_CL_CTRL_CL_EN p) && !s.flag (F.RXF_CL_STATUS_WITHDRAWN n)
    && (p = 16 || !s.flag (F.RXF_CL_STATUS_FE_FAULT n)) && !inGroom s p

/-- Whether channel c of logical cluster n is enabled and not withdrawn (R186, R311). -/
def channelOpen (s : State) (n c : Nat) : Bool :=
  bit (s.get (F.RXF_CH_EN (servedBy s n))) c && !bit (s.get (F.RXF_CH_FAIL n)) c

/-- The channels of a group of bits, 0 to 63. -/
def channels64 : List Nat := List.range 64

/-- A write that still waits for a boundary when CLS is engaged for cluster n: one to the window of n applies to CLS, and one to the
window of CLS has no effect (R191). -/
def heldForSpare (n : Nat) (h : Held) : Option Held :=
  if 0x50000 ≤ h.fld.off && h.fld.off < 0x51000 then none
  else if 0x40000 + 0x1000 * n ≤ h.fld.off && h.fld.off < 0x41000 + 0x1000 * n then
    some { h with fld := { h.fld with off := h.fld.off + 0x1000 * (16 - n) } }
  else some h

/-- CLS takes a copy of a cluster's configuration, and what its own window still requested is dropped; the states of its channels
are those of the logical channels (R191). -/
def copyConfig (s : State) (n : Nat) : State :=
  let cl := [F.RXF_CL_CTRL_SHADOW_SCOPE, F.RXF_CL_CTRL_AR_WIN, F.RXF_CL_CTRL_AR_SAT, F.RXF_CL_CTRL_IMP_EN,
    F.RXF_CL_CTRL_CL_EN, F.RXF_CH_EN]
  let ch := [F.RXF_CH_CFG_EDGE_MODE, F.RXF_CH_CFG_T1, F.RXF_CH_CFG_T0, F.RXF_CH_CFG_AR_EN, F.RXF_CH_CFG_RANGE, F.RXF_CH_STAT_SAT_CNT,
    F.RXF_CH_STAT_RANGE_PEND]
  let t := cl.foldl (fun t f => t.set (f 16) (s.get (f n)))
    { s with rxf := { s.rxf with chans := s.rxf.chans.filter fun (c : Chan) => c.id < 1024 },
             hold := s.hold.filterMap (heldForSpare n) }
  channels64.foldl (fun t c =>
    (ch.foldl (fun t f => t.set (f 16 c) (s.get (f n c))) t).set (F.RXF_CH_STAT_RANGE_NOW 16 c) (s.get (F.RXF_CH_CFG_RANGE n c))) t

/-- A cluster is withdrawn with its F2 fault (R188, R195), and gaps open in its directions (R475). -/
def withdrawCluster (s : State) (n code : Nat) : State :=
  openGaps (raiseFault (s.set (F.RXF_CL_STATUS_WITHDRAWN n) 1) 2 code n) (clusterDirs s n) false

/-- A groom holds directions stale: those of a refused cluster (R106), or of one whose groom has begun and whose trims have not held
from a frame boundary yet (R117, R627). -/
def groomStale (s : State) : Bool :=
  s.cal.owed != 0 || (List.range 16).any fun n => bit (s.get F.CAL_STATUS_STALE) (servedBy s n)

/-- CAL_STATUS BUSY and KIND, and SYS_STATUS CAL_STALE, follow the grooms (R106, R627, R631). -/
def noteGrooms (s : State) : State :=
  let run := s.cal.grooms.filter fun (g : Groom) => !g.waiting
  let t := (s.put F.CAL_STATUS_BUSY (!run.isEmpty)).set F.CAL_STATUS_KIND
    (if run.isEmpty then 0 else if run.any (·.full) then 2 else 1)
  t.put F.SYS_STATUS_CAL_STALE (groomStale s)

/-- A mask without the bits of another. -/
def maskOut (a b : Nat) : Nat := a - (a &&& b)

/-- Grooms lose clusters, which keep their trims; refused ones are noted (R613, R614). -/
def dropFromGrooms (s : State) (m : Nat) (refused : Bool) : State :=
  noteGrooms { s with cal := { s.cal with grooms := s.cal.grooms.map fun (g : Groom) =>
    { g with mask := maskOut g.mask m, refused := if refused then g.refused ||| (g.mask &&& m) else g.refused } } }

/-- R614: an engagement of CLS stops its groom, which reruns once CLS is released. -/
def stopClsGroom (s : State) : State :=
  match s.cal.grooms.find? fun (g : Groom) => bit g.mask 16 with
  | some g => let t := dropFromGrooms s (2 ^ 16) false
    { t with cal := { t.cal with rerun := some g.full } }
  | none => s

/-- A front-end fault of a physical cluster, 16 for CLS (R188, R189, R195, R614). -/
def feFault (s : State) (n : Nat) : State :=
  if s.flag (F.RXF_CL_STATUS_FE_FAULT n) then s
  else
    let phase := s.get F.RXF_SPARE_STATUS_PHASE
    let route := s.get F.RXF_SPARE_STATUS_ROUTE
    let t := s.set (F.RXF_CL_STATUS_FE_FAULT n) 1
    let t := if inGroom s n then (dropFromGrooms t (2 ^ n) true).set F.CAL_REFUSED (s.get F.CAL_REFUSED ||| 2 ^ n) else t
    if n = 16 then
      if phase = 0 then raiseFault (t.set F.RXF_SPARE_STATUS_PHASE 5) 0 0x0404 0
      else if phase = 1 || phase = 2 then withdrawCluster (t.set F.RXF_SPARE_STATUS_PHASE 5) route 0x0402
      else if phase = 3 || phase = 4 then withdrawCluster t route 0x0405
      else t
    else if s.flag F.RXF_SPARE_CTRL && phase = 0 then
      let u := ((t.set F.RXF_SPARE_STATUS_PHASE 1).set F.RXF_SPARE_STATUS_ROUTE n).set (clst 16) Cl.restarting
      raiseFault (stopClsGroom u) 1 0x0401 n
    else withdrawCluster t n 0x0402

/-- R188, R192: front-end faults of a set of clusters, taken in rising order. -/
def execClusterFeFault (clusters : Nat) (s : State) : Host.Outcome State Fault Refusal :=
  .next ((List.range 17).foldl (fun t n => if bit clusters n then feFault t n else t) s)

/-- R190, R504: CLS has restarted with the route's calibration and waits for a frame boundary. -/
def execSpareRestartDone (s : State) : Host.Outcome State Fault Refusal :=
  if s.get F.RXF_SPARE_STATUS_PHASE = 1 then
    .next ((s.set F.RXF_SPARE_STATUS_PHASE 2).set (clst 16) Cl.running)
  else .next s

/-- A groom of clusters is added (R612): it starts at once, or with frames running at the next boundary. -/
def addGroom (s : State) (g : Groom) : State :=
  noteGrooms { s with cal := { s.cal with grooms := s.cal.grooms ++ [{ g with waiting := s.mode.scanning }] } }

/-- R614: a stopped groom of CLS reruns. -/
def rerunCls (s : State) : State :=
  match s.cal.rerun with
  | some full => addGroom { s with cal := { s.cal with rerun := none } }
      { cmd := none, full := full, mask := 2 ^ 16, background := false, startUp := false, release := false, waiting := false,
        refused := 0 }
  | none => s

/-- R190, R193: the switches of the crossbar at a frame boundary: an engagement that waits, or a release. A released cluster was
powered for its groom, and takes up its own configuration (log entry 92). -/
def spareSwitch (s : State) : State :=
  let n := s.get F.RXF_SPARE_STATUS_ROUTE
  match s.get F.RXF_SPARE_STATUS_PHASE with
  | 2 =>
    let t := (((copyConfig s n).set F.RXF_SPARE_STATUS_PHASE 3).inc F.RXF_SPARE_STATUS_ENGAGE_CNT).set (F.RXF_CL_STATUS_SPARED n) 1
    finishSpare (endFault ((t.set (clst n) Cl.off).set (F.RXF_CL_STATUS_WITHDRAWN n) 0) 0x0402 n) 0x0703
  | 4 =>
    let t := ((s.set F.RXF_SPARE_STATUS_PHASE 0).set (F.RXF_CL_STATUS_SPARED n) 0).set (F.RXF_CL_STATUS_FE_FAULT n) 0
    finishSpare (rerunCls (endFault (t.set (clst 16) Cl.cold) 0x0401 n)) 0x0704
  | _ => s
where
  /-- CAL_SPARE_ENGAGE or CAL_SPARE_RELEASE ends with the frame from which the change holds. -/
  finishSpare (s : State) (op : Nat) : State := finishRunning { s with cal := { s.cal with spare := none } } op St.done s.sch.frame

/-- R78, R79: a cluster's restart completes; where SCAN has been left meanwhile, it goes cold now. -/
def execClusterRestartDone (cluster : Fin 17) (s : State) : Host.Outcome State Fault Refusal :=
  if s.get (clst cluster.val) = Cl.restarting then
    .next (s.set (clst cluster.val) (if s.mode == .ready then Cl.cold else Cl.running))
  else .next s

/-! ### Channels -/

/-- The channel record of a logical channel; a channel without one is at rest. -/
def chanAt (s : State) (id : Nat) : Chan :=
  (s.rxf.chans.find? (fun (c : Chan) => c.id == id)).getD
    { id := id, sat := 0, quiet := 0, shots := 0, host := none, auto := none, win := none, cur := none, last := none,
      fifo := [], drop := false, edgeT1 := false, noT1 := false, wait := false }

/-- Put a channel record in place, in rising order of channels. -/
def insertChan : List Chan → Chan → List Chan
  | [], c => [c]
  | x :: r, c => if c.id < x.id then c :: x :: r else if c.id = x.id then c :: r else x :: insertChan r c

/-- A channel takes a record. -/
def setChan (s : State) (c : Chan) : State := { s with rxf := { s.rxf with chans := insertChan s.rxf.chans c } }

/-- R175, R176: RANGE is requested for a channel of physical cluster p and is held for the next slot start. -/
def holdRange (s : State) (p : Nat) (c : Chan) (range : Nat) : State :=
  ((setChan s c).set (F.RXF_CH_CFG_RANGE p (c.id % 64)) range).set (F.RXF_CH_STAT_RANGE_PEND p (c.id % 64)) 1

/-- R175: the auto-range logic at the end of a shot; the channel is served by physical cluster p. -/
def autoRange (s : State) (p : Nat) (c : Chan) (saturated t1 : Bool) : State :=
  let j := c.id % 64
  let range := s.get (F.RXF_CH_STAT_RANGE_NOW p j)
  let win := 2 ^ s.get (F.RXF_CL_CTRL_AR_WIN p)
  let need := max 1 (s.get (F.RXF_CL_CTRL_AR_SAT p))
  let sat := c.sat + b2n saturated
  let quiet := if saturated || t1 then 0 else c.quiet + 1
  let shots := c.shots + 1
  if need ≤ sat && 0 < range then
    holdRange s p { c with sat := 0, quiet := 0, shots := 0, auto := some (range - 1) } (range - 1)
  else if win ≤ quiet && range < 3 then
    holdRange s p { c with sat := 0, quiet := 0, shots := 0, auto := some (range + 1) } (range + 1)
  else if win ≤ shots then setChan s { c with sat := 0, quiet := quiet, shots := 0 }
  else setChan s { c with sat := sat, quiet := quiet, shots := shots }

/-- R170, R175, R179: the span of a channel's shot ends; saturated and t1 say what happened in it. Nothing happens while no
window of the channel has opened in this slot or an accepted event has not completed. -/
def execShotEnd (ch : Fin 1024) (saturated t1 : Bool) (s : State) : Host.Outcome State Fault Refusal :=
  let c := chanAt s ch.val
  if c.win.isNone || c.cur.isSome then .next s
  else
    let p := servedBy s (ch.val / 64)
    let c' := { c with win := none }
    let t := if saturated then s.inc (F.RXF_CH_STAT_SAT_CNT p (ch.val % 64)) else s
    if s.flag (F.RXF_CH_CFG_AR_EN p (ch.val % 64)) then .next (autoRange t p c' saturated (t1 && !c.noT1)) else .next (setChan t c')

/-- Whether a change of a channel's T0, T1 or EDGE_MODE waits for the next frame boundary (R201). -/
def edgeHeld (s : State) (p j : Nat) : Bool :=
  s.hold.any fun (h : Held) => [F.RXF_CH_CFG_T0 p j, F.RXF_CH_CFG_T1 p j, F.RXF_CH_CFG_EDGE_MODE p j].contains h.fld

/-- What a channel held takes effect at a slot start (R173, R176): a host request of RANGE discards one of the auto-range logic, and a
change that waits for the frame boundary waits on. -/
def channelAtSlot (s t : State) (c0 : Chan) : State :=
  let j := c0.id % 64
  let p := servedBy s (c0.id / 64)
  if c0.host.isNone && c0.auto.isNone && !c0.wait then t
  else
    let still := c0.wait && edgeHeld s p j
    let c := { c0 with wait := still }
    let u := ((setChan t (match c.host, c.auto with
      | some _, some _ => { c with host := none, auto := none, sat := 0, quiet := 0, shots := 0 }
      | _, _ => { c with host := none, auto := none })).set (F.RXF_CH_STAT_RANGE_PEND (c.id / 64) j) (b2n still)).set
        (F.RXF_CH_STAT_RANGE_PEND p j) (b2n still)
    match c.host <|> c.auto with
    | some r => u.set (F.RXF_CH_STAT_RANGE_NOW p j) r
    | none => u

/-- R173, R176: held requests take effect at a slot start. -/
def rangesAtSlot (s : State) : State := s.rxf.chans.foldl (channelAtSlot s) s

/-- The physical cluster that a write to cluster window n acts on; none while the CLS window has no effect (R191). -/
def writeWindow (s : State) (n : Nat) : Option Nat :=
  let serving := s.get F.RXF_SPARE_STATUS_PHASE = 3 || s.get F.RXF_SPARE_STATUS_PHASE = 4
  if n = 16 then if serving then none else some 16 else some (servedBy s n)

/-- R168, R173, R176, R687: a write of a channel's configuration; RANGE is requested only when the value differs, and a change of T0,
T1 or EDGE_MODE waits for a slot start. A refused write is logged at its offset in the window that it reaches (log entry 92). -/
def writeChCfg (s : State) (n j v : Nat) : State :=
  match writeWindow s n with
  | none => s
  | some p =>
    if 2 ≤ (F.RXF_CH_CFG_EDGE_MODE p j).of v then s
    else
      let r := (F.RXF_CH_CFG_RANGE p j).of v
      let off := (F.RXF_CH_CFG_RANGE p j).off
      let fs := [(F.RXF_CH_CFG_EDGE_MODE p j, Acc.rwl), (F.RXF_CH_CFG_T1 p j, .rwl), (F.RXF_CH_CFG_T0 p j, .rwl),
        (F.RXF_CH_CFG_AR_EN p j, .rw)]
      let t := writeFields s off fs v
      let id := if p = 16 && n < 16 then 64 * n + j else 64 * p + j
      let edge := !committed s && [F.RXF_CH_CFG_EDGE_MODE p j, F.RXF_CH_CFG_T1 p j, F.RXF_CH_CFG_T0 p j].any fun f => f.of v != s.get f
      let u := if edge then (setChan t { chanAt t id with wait := true }).set (F.RXF_CH_STAT_RANGE_PEND p j) 1 else t
      if r = s.get (F.RXF_CH_CFG_RANGE p j) then u else holdRange u p { chanAt u id with host := some r } r

/-- R176: a channel configuration write. -/
def execRxfChCfgWrite (cluster : Fin 17) (ch : Fin 64) (value : Dword) (s : State) : Host.Outcome State Fault Refusal :=
  .next (writeChCfg s cluster.val ch.val value.toNat)

/-! ### Edges and events -/

/-- The stored trims of a physical cluster's channel. -/
def trimOf (d : CalData) (cl ch : Nat) : Option Trim := d.trims.find? fun (t : Trim) => t.cl == cl && t.ch == ch

/-- A channel of physical cluster p: whether its edges come from T1 (R168), and whether T1 counts as never crossed, which THR_ERR
shows (R167, R170). -/
def edgeSetup (s : State) (p c : Nat) : Bool × Bool :=
  let tr := trimOf s.cal.work p c
  let code (f : Fld) (trim : Int) : Int := clampInt 0 255 (Int.ofNat (s.get f) + trim)
  let t0 := code (F.RXF_CH_CFG_T0 p c) ((tr.map (·.t0)).getD 0)
  let t1 := code (F.RXF_CH_CFG_T1 p c) ((tr.map (·.t1)).getD 0)
  let mode := s.get (F.RXF_CH_CFG_EDGE_MODE p c)
  (mode = 1, mode = 0 && t1 ≤ t0)

/-- The offset of route m for channel ch of CLS (R622). -/
def routeOffset (d : CalData) (m ch : Nat) : Int :=
  match d.routes.find? fun (r : Nat × Nat × Int) => r.1 == m && r.2.1 == ch with
  | some r => r.2.2
  | none => 0

/-- Sum of two parts of the skew of channel ch on CLS connected to route m (R622). -/
def clsSkewSum (d : CalData) (m ch : Nat) : Int :=
  ((trimOf d m ch).map (·.ext)).getD 0 + ((trimOf d 16 ch).map (·.int)).getD 0 + routeOffset d m ch

/-- Mean of 64 values, rounded (R686). -/
def meanInt (l : List Int) : Int := if l.isEmpty then 0 else divRoundInt (l.foldl (· + ·) 0) l.length

/-- The skew trim of logical channel n, c in 15.625 ps (R202, R619, R622). -/
def skewTrim (s : State) (n c : Nat) : Int :=
  let d := s.cal.work
  if servedBy s n = 16 then
    clampInt (-32) 32 (meanInt (channels64.map (clsSkewSum d n)) - clsSkewSum d n c)
  else ((trimOf d n c).map (·.skew)).getD 0

/-- The fine value of a raw tap (R616); a channel without a table reads the tap itself. -/
def fineValue (s : State) (n c tap : Nat) : Nat :=
  match trimOf s.cal.work (servedBy s n) c with
  | some t => t.lut.getD tap (min tap 79)
  | none => min tap 79

/-- The next leading edge of a channel is lost to dead time (R211): an event is open, or the last accepted edge is less
than 2.5 ns (160 steps) old, or its event's falling crossing has not come. -/
def inDeadTime (c : Chan) (t : Nat) : Bool :=
  c.cur.isSome || match c.last with
    | some (le, e) => t < le + 160 || t < e
    | none => false

/-- R207, R208, R211: a rising crossing of the channel's comparator at a coarse tick and raw tap of its slot. A cluster in a groom
opens no stop window (R606) and takes the groom's reference pulses as they come (R169). Windows and dead time are compared with the
time before the skew trim (log entry 92). -/
def execReturnEdge (ch : Fin 1024) (coarse tap : Nat) (s : State) : Host.Outcome State Fault Refusal :=
  let c := chanAt s ch.val
  let t := 80 * coarse + fineValue s (ch.val / 64) (ch.val % 64) tap
  if inDeadTime c t then .next (s.inc (F.TDC_CH_CNT_DEAD_CNT ch.val))
  else match c.win with
    | some (o, e) => if o ≤ t && t < e then .next (setChan s { c with cur := some t }) else .next s
    | none => if inGroom s (servedBy s (ch.val / 64)) then .next (setChan s { c with cur := some t }) else .next s

/-- FILL of the event word from the FIFO occupancy after the write (R204). -/
def fillCode (n : Nat) : Nat := if n ≤ 2 then 0 else if n ≤ 4 then 1 else if n ≤ 7 then 2 else 3

/-- The event word (R204). -/
def eventWord (fill : Nat) (shadow sat : Bool) (thr tot le : Nat) : Nat :=
  2 ^ 30 * fill + 2 ^ 29 * b2n shadow + 2 ^ 28 * b2n sat + 2 ^ 26 * thr + 2 ^ 17 * tot + le

/-- An accepted edge of a channel reaches the engines: the stamp of the reference of the slot's shot plus T_LE, in all slots and in
listen slots (R221). -/
def noteReturn (s : State) (ch le : Nat) : State :=
  match s.sch.fired.find? fun (f : Fired) => f.shot.slot + 1 = s.sch.next && f.shot.frame = s.sch.frame with
  | none => s
  | some f =>
    let x : Edge := { time := stampAt s s.pins.slotAt (2560 + 80 * f.shot.dither + le), window := f.shot.at_ }
    let t := noteEdge s 5 (some ch) x
    if f.shot.use == .listen then noteEdge t 4 (some ch) x else t

/-- R177: an event with a leading edge and a falling crossing carries SAT for an overload of its channel: one that reaches into the
pulse, or ended less than 20 ns before the leading edge. -/
def overloads (le fall : Int) (o : Overload) : Bool :=
  o.start ≤ fall && match o.stop with
    | none => true
    | some e => le < e + 1280

/-- R41, R178: an event carries SHADOW for an overload of a neighbour, a channel of its octet or of its whole cluster, whose leading
edge falls between the overload's beginning and 40 ns after its end. -/
def shadows (scope : Bool) (ch : Nat) (le : Int) (o : Overload) : Bool :=
  o.ch != ch && (if scope then o.ch / 64 == ch / 64 else o.ch / 8 == ch / 8)
    && o.start ≤ le && match o.stop with
      | none => true
      | some e => le ≤ e + 2560

/-- The threshold identity of an event (R169): 3 for an internal reference pulse of a groom. -/
def thrId (c : Chan) (reference t1 : Bool) : Nat :=
  if reference then 3 else if c.edgeT1 then 2 else if t1 && !c.noT1 then 1 else 0

/-- R169, R171, R177 to R179, R202, R209, R213: an accepted edge completes after a width in 62.5 ps, 511 at most; own and others are
the overloads of its channel and of other channels about the slot. An internal reference pulse of a groom is no return, and no other
pulse makes an event outside a stop window (R169, R207). T_LE is held within its field (log entry 92). -/
def execEventWordFormed (ch : Fin 1024) (width : Nat) (t1 : Bool) (own others : List Overload) (reference : Bool) (s : State) :
    Host.Outcome State Fault Refusal :=
  let c := chanAt s ch.val
  match c.cur with
  | none => .next s
  | some t =>
    if c.win.isNone && !reference then .next (setChan s { c with cur := none, last := some (t, t + 4 * min width 511) }) else
    let n := ch.val / 64
    let p := servedBy s n
    let tot := min width 511
    let le := (clampInt 0 131071 (Int.ofNat t + skewTrim s n (ch.val % 64))).toNat
    let sat := own.any (overloads (Int.ofNat t) (Int.ofNat (t + 4 * width)))
    let shadow := others.any (shadows (s.flag (F.RXF_CL_CTRL_SHADOW_SCOPE p)) ch.val (Int.ofNat t))
    let s := if reference then s else noteReturn s ch.val le
    let thr := thrId c reference t1
    let done := { c with cur := none, last := some (t, t + 4 * tot) }
    let u := if shadow && !bit s.rxf.shadowSeen n then
        { s.inc (F.RXF_SHADOW_CNT p) with rxf := { s.rxf with shadowSeen := setBit s.rxf.shadowSeen n } } else s
    if 8 ≤ c.fifo.length then
      .next ((setChan u { done with drop := true }).inc (F.TDC_CH_CNT_DROP_CNT ch.val))
    else
      let w := eventWord (fillCode (c.fifo.length + 1)) shadow sat thr tot le
      .next (setChan u { done with fifo := c.fifo ++ [(s.sch.next - 1, w)] })

/-! ### APD bias -/

/-- R180, R182: EN starts or stops the loop; after OV or OPEN it stays off until the bit is cleared and EN written 1. -/
def writeApdbCtrl (s : State) (v : Nat) : State :=
  let t := (s.set F.RXF_APDB_CTRL_DMAX v).put F.RXF_APDB_CTRL_EN (bit v 8)
  let off := s.rxf.apdbOff && !(bit v 8 && !s.flag F.RXF_APDB_STAT_OV && !s.flag F.RXF_APDB_STAT_OPEN)
  let u := { t with rxf := { t.rxf with apdbOff := off } }
  if bit v 8 && !off then endFault (endFault u 0x0406 31) 0x0406 30 else u

/-- R180: a write of the bias control. -/
def execApdbCtrlWrite (value : Dword) (s : State) : Host.Outcome State Fault Refusal := .next (writeApdbCtrl s value.toNat)

/-- The loop runs (R180, R182). -/
def apdbRuns (s : State) : Bool := hgeUp s && s.flag F.RXF_APDB_CTRL_EN && !s.rxf.apdbOff

/-- 256 times the effective target: TARGET + TC x (T_AD - 25 C) / 16, with TC in 1/16 code per C and T_AD in 1/16 C (R180). -/
def effTarget256 (s : State) : Int :=
  256 * Int.ofNat (s.get F.RXF_APDB_CFG_TARGET) + s.getInt F.RXF_APDB_CFG_TC * (s.rxf.tAd - 400)

/-- 256 times the distance of a reading from the effective target. -/
def biasError256 (s : State) (sense : Nat) : Nat := (256 * Int.ofNat sense - effTarget256 s).natAbs

/-- R181: SETTLED changes, with the reading in codes: it becomes 1 within 0.5 % of the effective target with the loop running, and 0
outside 2 %. -/
def execApdbSettledChange (settled : Bool) (sense : Nat) (s : State) : Host.Outcome State Fault Refusal :=
  let t := s.set F.RXF_APDB_STAT_SENSE (min sense 4095)
  let near := 200 * biasError256 s sense ≤ (effTarget256 s).natAbs
  let far := (effTarget256 s).natAbs < 50 * biasError256 s sense
  .next (if (settled && near && apdbRuns s) || (!settled && far) then t.put F.RXF_APDB_STAT_SETTLED settled else t)

/-- R182: over-voltage above LIMIT, or open bias below 5 % of the effective target, with the loop running. DETAIL is the bit set (31
OV, 30 OPEN). -/
def execApdbTrip (trip : BiasTrip) (s : State) : Host.Outcome State Fault Refusal :=
  let t := s.set F.RXF_APDB_STAT_SENSE (min trip.sense 4095)
  let holds := if trip.opened then 20 * (256 * Int.ofNat trip.sense) < effTarget256 s else s.get F.RXF_APDB_CFG_LIMIT < trip.sense
  if !apdbRuns s || !holds then .next t
  else
    let u := if trip.opened then t.set F.RXF_APDB_STAT_OPEN 1 else t.set F.RXF_APDB_STAT_OV 1
    .next (raiseFault { u with rxf := { u.rxf with apdbOff := true } } 2 0x0406 (if trip.opened then 30 else 31))

/-! ### Impedance check -/

/-- CAP in 0.01 pF from the amplitudes at channel and ball: A_out / (2 pi x 1 MHz x A_tone x 40 kOhm) (R184). -/
def capOf (aOut aTone : Nat) : Nat :=
  if aTone = 0 then 4095 else min 4095 (divRound (aOut * 39788735772973836) (aTone * 100000000000000))

/-- LEAK in nA from the DC output in nV over 40 kOhm (R184). -/
def leakOf (dc : Nat) : Nat := divRound dc 40000

/-- Whether a channel passes (R184). -/
def impPass (s : State) (cap leak : Nat) : Bool :=
  20 ≤ cap && cap ≤ 300 && leak ≤ max 1 (s.get F.RXF_IMP_CFG_LEAK_MAX)

/-- The results of one measurement go to RXF_IMP; the tone is that of the channel's group (R43, R184). -/
def recordImp (s : State) (tones : List Nat) (m : ImpMeas) : State :=
  let n := m.ch / 64
  let j := m.ch % 64
  let cap := capOf m.tone (tones.getD (n / 4) 0)
  let leak := leakOf m.dc
  (((s.set (F.RXF_IMP_VALID n j) 1).put (F.RXF_IMP_PASS n j) (impPass s cap leak)).set (F.RXF_IMP_LEAK n j) (min leak 4095)).set
    (F.RXF_IMP_CAP n j) cap

/-- Whether a measurement passes. -/
def measPass (s : State) (tones : List Nat) (m : ImpMeas) : Bool :=
  impPass s (capOf m.tone (tones.getD (m.ch / 64 / 4) 0)) (leakOf m.dc)

/-- Whether the check covers a channel: its cluster's group and the cluster are included and the channel is enabled, by the
configuration of the physical cluster that serves it (R59, R183, R191). -/
def impCovers (s : State) (ch : Nat) : Bool :=
  let n := ch / 64
  let p := servedBy s n
  n < 16 && bit (s.rxf.impFrom.getD 0x1FFFF) n && bit (s.get F.RXF_IMP_CFG_GROUP_EN) (n / 4) && s.flag (F.RXF_CL_CTRL_IMP_EN p)
    && bit (s.get (F.RXF_CH_EN p)) (ch % 64)

/-- RANGE_NOW of a channel of physical cluster p: 0b11 while the impedance check that runs covers it (R183; log entry 81). -/
def rangeShown (s : State) (p j : Nat) : Nat :=
  let n := if p = 16 then s.get F.RXF_SPARE_STATUS_ROUTE else p
  if s.flag F.RXF_IMP_STATUS_BUSY && servedBy s n = p && impCovers s (64 * n + j) then 3 else s.get (F.RXF_CH_STAT_RANGE_NOW p j)

/-- R186, R187: an element fault withdraws a channel. -/
def elementFault (s : State) (ch : Nat) : State :=
  let f := F.RXF_CH_FAIL (ch / 64)
  raiseFault (s.set f (setBit (s.get f) (ch % 64))) 2 0x0403 ch

/-- One channel of the check is judged (R184, R186, R187); again holds the measurements through CLS. -/
def judgeChannel (tones : List Nat) (again : List ImpMeas) (s : State) (m : ImpMeas) : State :=
  let n := m.ch / 64
  let t := recordImp s tones m
  if measPass s tones m then
    let f := F.RXF_CH_FAIL n
    endFault (t.set f (clearBit (t.get f) (m.ch % 64))) 0x0403 m.ch
  else
    match again.find? (fun (x : ImpMeas) => x.ch == m.ch) with
    | some x =>
      let u := recordImp t tones x
      if measPass s tones x then feFault u n else elementFault u m.ch
    | none => elementFault t m.ch

/-- The mask of clusters with a failing element; bit 16 is CLS, for the cluster that it serves (FAIL_MASK; log entry 81). -/
def impMask (s : State) : Nat :=
  (List.range 16).foldl (fun w n =>
    if s.get (F.RXF_CH_FAIL n) = 0 then w else setBit (if servedBy s n = 16 then setBit w 16 else w) n) 0

/-- The clusters that a running DIAG_IMPEDANCE named. -/
def diagClusters (s : State) : Nat := ((runningCmd s 0x0902).map fun (c : Cmd) => c.dw 4 % 2 ^ 17).getD 0x1FFFF

/-- R184 to R187: the check ends. Measurements of channels it does not cover count for nothing; without a free CLS no
channel is measured again; whether CLS is free is judged once (log entry 92). A DIAG_IMPEDANCE ends with the mask of failing clusters. -/
def execImpedanceCheckDone (tones : List Nat) (first again : List ImpMeas) (s : State) : Host.Outcome State Fault Refusal :=
  if !s.flag F.RXF_IMP_STATUS_BUSY then .next s
  else
    let again' := if clsFree s then again else []
    let t := (first.filter fun (m : ImpMeas) => impCovers s m.ch).foldl (judgeChannel tones again') s
    let u := (t.set F.RXF_IMP_STATUS_BUSY 0).set F.RXF_IMP_STATUS_FAIL_MASK (impMask t)
    let v := { u with rxf := { u.rxf with impFrom := none } }
    .next (finishRunning v 0x0902 St.done (impMask t &&& diagClusters s))

/-- The impedance check of a mask of clusters starts, or the one that runs takes them in (R183; log entry 92); one of them all is
what PEND waited for (R185). -/
def startImpedance (s : State) (mask : Nat) : State :=
  let all := if s.flag F.RXF_IMP_STATUS_BUSY then mask ||| s.rxf.impFrom.getD 0 else mask
  let t := if all % 2 ^ 16 = 2 ^ 16 - 1 then (s.set F.RXF_IMP_STATUS_BUSY 1).set F.RXF_IMP_STATUS_PEND 0 else s.set F.RXF_IMP_STATUS_BUSY 1
  { t with rxf := { t.rxf with impFrom := some all } }

/-! ### Waveform slices -/

/-- The slice record of slice n. -/
def sliceAt (s : State) (n : Nat) : Option Slice := s.rxf.slices.find? fun (x : Slice) => x.n == n

/-- Shots of an average: 2^NAVG with NAVG at most 10 (R197). -/
def sliceShots (s : State) (n : Nat) : Nat := 2 ^ min 10 (s.get (F.RXF_OBS_NAVG n))

/-- Slice n takes a record, or none. -/
def setSlice (s : State) (n : Nat) (x : Option Slice) : State :=
  let l := s.rxf.slices.filter fun (y : Slice) => y.n != n
  { s with rxf := { s.rxf with slices := match x with | some y => y :: l | none => l } }

/-- How many slices other than n a channel feeds, or will feed once the engine's average on them completes (R196, R200). -/
def slicesOn (s : State) (n ch : Nat) : Nat :=
  (s.rxf.slices.filter fun (y : Slice) =>
    y.n != n && (s.get (F.RXF_OBS_CHANNEL y.n) == ch || y.pinPend.any fun v => bits v 0 10 == ch)).length

/-- The fields of an attachment write. -/
def setAttach (s : State) (n v : Nat) : State :=
  (((s.put (F.RXF_OBS_PIN n) (bit v 31)).set (F.RXF_OBS_NAVG n) (bits v 24 4)).set (F.RXF_OBS_OFFSET n) (bits v 16 8)).set
    (F.RXF_OBS_CHANNEL n) (bits v 0 10)

/-- The fields of an attachment write take their values; an attached slice starts a new average (R199). -/
def attachSlice (s : State) (n v : Nat) : State :=
  let t := setAttach s n v
  if bit v 31 then setSlice t n (some { n := n, left := sliceShots t n, dir := none, pinPend := none }) else setSlice t n none

/-- The pulse-shape test of a slice does not run (R256). -/
def shapeMissed (s : State) (n : Nat) : State :=
  let t := (s.inc F.HGE_CNT_SHAPE_MISS).set (F.RXF_OBS_ENGINE n) 0
  { t with hge := { t.hge with shape := t.hge.shape.filter fun (x : Shape) => x.slice != some n } }

/-- R196, R199, R200: a write of a slice's attachment. One that would give a channel a third slice is discarded; one with
PIN = 1 to a slice in engine use waits for the engine's average; any other abandons the average and starts a new one. -/
def writeObs (s : State) (n v : Nat) : State :=
  let ch := bits v 0 10
  if (bit v 31 || s.flag (F.RXF_OBS_ENGINE n)) && 2 ≤ slicesOn s n ch then s
  else match sliceAt s n with
    | some x =>
      if s.flag (F.RXF_OBS_ENGINE n) then
        if bit v 31 then setSlice s n (some { x with pinPend := some v })
        else
          let t := setAttach s n v
          setSlice t n (some { x with left := sliceShots t n, pinPend := none })
      else attachSlice s n v
    | none => attachSlice s n v

/-- R199: a write of a slice's attachment. -/
def execRxfObsWrite (slice : Fin 32) (value : Dword) (s : State) : Host.Outcome State Fault Refusal :=
  .next (writeObs s slice.val value.toNat)

/-- The mean of the first 16 samples of an average, as 16 times the mean (R255). -/
def base16 (sums : List Nat) : Nat := (sums.take 16).foldl (· + ·) 0

/-- Index and height times 16 above the mean of the largest sample (R255). -/
def peak16 (sums : List Nat) : Nat × Int :=
  (sums.zipIdx).foldl (fun (b : Nat × Int) (x : Nat × Nat) =>
    let h := 16 * Int.ofNat x.1 - Int.ofNat (base16 sums)
    if b.2 < h then (x.2, h) else b) (0, 0)

/-- Whether sample i lies at half of the peak's height or above. -/
def aboveHalf (sums : List Nat) (h : Int) (i : Nat) : Bool :=
  i < sums.length && h ≤ 2 * (16 * Int.ofNat (sums.getD i 0) - Int.ofNat (base16 sums))

/-- How many samples in a row from i on, step by step in one direction, lie above half of the height. -/
def runAbove (sums : List Nat) (h : Int) : Nat → Nat → Bool → Nat
  | 0, _, _ => 0
  | fuel + 1, i, up =>
    if aboveHalf sums h i then
      if up then 1 + runAbove sums h fuel (i + 1) up else if i = 0 then 1 else 1 + runAbove sums h fuel (i - 1) up
    else 0

/-- Full width at half maximum of the largest pulse in samples of 0.5 ns. -/
def fwhm (sums : List Nat) : Nat :=
  let (i, h) := peak16 sums
  if h ≤ 0 then 0
  else runAbove sums h sums.length i true + (if i = 0 then 0 else runAbove sums h sums.length (i - 1) false)

/-- R198, R200, R255: a slice completes its average: the sums replace the readable copy. The engine's use ends with it,
and a host write of PIN that waited takes effect. -/
def execSliceAverageDone (slice : Fin 32) (sums : List Nat) (s : State) : Host.Outcome State Fault Refusal :=
  let n := slice.val
  match sliceAt s n with
  | none => .next s
  | some x =>
    if x.left != 0 then .next s
    else
      let t := ((List.range 256).foldl (fun t i => t.set (F.RXF_WS_ACC n i) (sums.getD i 0)) s).set F.RXF_WS_DONE
        (setBit (s.get F.RXF_WS_DONE) n)
      if s.flag (F.RXF_OBS_ENGINE n) then
        let wide := s.get F.HGE_PART1_FWHM_MIN ≤ fwhm (sums.take 256)
        let u := (t.inc F.HGE_CNT_SHAPE_RUN).set (F.RXF_OBS_ENGINE n) 0
        let seen (y : Shape) : Shape :=
          if y.slice = some n then { y with verdict := some (512 * s.get (F.RXF_OBS_OFFSET n), wide) } else y
        let v := { u with hge := { u.hge with shape := u.hge.shape.map seen } }
        match x.pinPend with
        | some w => .next (attachSlice v n w)
        | none => .next (setSlice v n none)
      else .next (setSlice t n (some { x with left := sliceShots s n }))

end Sys2Proof.Machine
end

