-- ==== Sys2Proof/Machine/Cal.lean ====
section
/-! DEFINITION. Calibration (chapter 19): grooms, their acceptance and what they load, the spare's engagement and release by
command, and the stored calibration. -/

namespace Sys2Proof.Machine

/-! ### Starting a groom -/

/-- The impedance check of a full groom on its clusters (R185): run in READY with SETTLED, else left pending. -/
def groomImpedance (s : State) (mask : Nat) : State :=
  if s.mode == .ready && s.flag F.RXF_APDB_STAT_SETTLED then startImpedance s mask else s.set F.RXF_IMP_STATUS_PEND 1

/-- A groom starts, or in SCAN waits for the frame boundary (R612); a full groom brings the impedance check (R609). -/
def startGroom (s : State) (g : Groom) : State :=
  let t := addGroom s g
  if g.full && !s.mode.scanning then groomImpedance t g.mask else t

/-- R612, R618, R627: at a frame boundary trims that have been loaded end their stale hold, waiting grooms start and hold
their clusters stale, and recomputed tables load. -/
def groomsAtBoundary (s : State) : State :=
  let starting := s.cal.grooms.filter (·.waiting)
  let grooms := s.cal.grooms.map fun (g : Groom) => { g with waiting := false }
  let mask := grooms.foldl (fun w (g : Groom) => w ||| g.mask) 0
  let t := s.set F.CAL_STATUS_STALE (maskOut (s.get F.CAL_STATUS_STALE) s.cal.loaded ||| mask)
  let u := { t with cal := { t.cal with grooms := grooms, loaded := 0, tables := none } }
  let v := if starting.any (·.full) then u.set F.RXF_IMP_STATUS_PEND 1 else u
  let w := match s.cal.tables with
    | some (walk, tot) =>
      let a := (walk.zipIdx).foldl (fun (x : State) (e : Int × Nat) => x.setInt (F.HGE_WALK (e.2 / 64) (e.2 % 64)) e.1) v
      (tot.zipIdx).foldl (fun (x : State) (e : Nat × Nat) => x.set (F.HGE_TOT_LUT (e.2 / 512) (e.2 % 512)) e.1) a
    | none => v
  noteGrooms w

/-- R612: CAL_GROOM; a mask that overlaps a groom in progress is BUSY. -/
def calGroomCheck (s : State) (c : Cmd) : Option Nat :=
  stdCheck s c false false (s.cal.grooms.any fun (g : Groom) => g.mask &&& c.dw 5 != 0)

/-- R609, R610, R612: CAL_GROOM. -/
def execCalGroom (port : Port) (tag : Nat) (s : State) : Host.Outcome State Fault Refusal :=
  withCmd s port tag 0x0700 calGroomCheck fun s c => begin_ s c fun t c =>
    startGroom t { cmd := some (c.port, c.tag), full := bit (c.dw 4) 0, mask := c.dw 5 % 2 ^ 17, background := false,
                   startUp := false, release := false, waiting := false, refused := 0 }

/-- T_AD at the last accepted groom of a cluster. -/
def lastGroomT (s : State) (n : Nat) : Option Int := (s.cal.lastT.find? fun (e : Nat × Int) => e.1 == n).map (·.2)

/-- R615: an automatic warm groom of one cluster. -/
def execAutoGroomStart (cluster : Fin 16) (s : State) : Host.Outcome State Fault Refusal :=
  let n := cluster.val
  let moved := match lastGroomT s n with
    | some t => 4 * s.get F.CAL_CTRL_REGROOM_DT ≤ (s.rxf.tAd - t).natAbs
    | none => false
  if s.flag F.CAL_CTRL_AUTO_EN && moved && s.cal.grooms.isEmpty && (s.mode == .ready || s.mode.scanning)
      && (s.get F.RXF_SPARE_STATUS_PHASE = 0 || s.get F.RXF_SPARE_STATUS_PHASE = 5) then
    .next (startGroom s { cmd := none, full := false, mask := 2 ^ n, background := false, startUp := false, release := false,
                          waiting := false, refused := 0 })
  else .next s

/-! ### Measurements and figures (R616 to R625) -/

/-- A channel's stored trims; a channel that no record lists has a table of its raw taps and no trims. -/
def trimIn (d : CalData) (cl ch : Nat) : Trim :=
  (trimOf d cl ch).getD { cl := cl, ch := ch, lut := List.range 80, t0 := 0, t1 := 0, skew := 0, ext := 0, int := 0, walk := [],
                          width := [] }

/-- A channel takes trims. -/
def CalData.put (d : CalData) (t : Trim) : CalData :=
  { d with trims := t :: d.trims.filter fun (x : Trim) => !(x.cl == t.cl && x.ch == t.ch) }

/-- Hits of the taps before k, and of k, over both runs. -/
def lutEntry (counts : List Nat) (total k : Nat) : Nat :=
  min 79 (divRound ((2 * (counts.take k).foldl (· + ·) 0 + counts.getD k 0) * 80) (2 * total))

/-- The lookup of R616 from the counts of 80 taps among all hits. -/
def lutOf (counts : List Nat) (total : Nat) : List Nat := (List.range 80).map (lutEntry counts total)

/-- |DNL| of a tap in 1/64 LSB (R616). -/
def dnl64 (count total : Nat) : Nat := divRound (64 * (Int.ofNat (80 * count) - Int.ofNat total).natAbs) total

/-- Mean of two runs, rounded (R686). -/
def mean2 (a b : Int) : Int := divRoundInt (a + b) 2

/-- The threshold trim: the nominal code, A_REF x feedback / 2 mV = 40 in every range, less the code found (R617). -/
def thrTrim (code : Int) : Int := 40 - code

/-- Median of a list; of an even number of values the mean of the two in the middle. -/
def median (l : List Int) : Int :=
  let m := l.mergeSort (· ≤ ·)
  let n := m.length
  if n = 0 then 0 else if n % 2 = 1 then m.getD (n / 2) 0 else mean2 (m.getD (n / 2 - 1) 0) (m.getD (n / 2) 0)

/-- The value that a list of amplitude and shift gives for an amplitude. -/
def walkAt (l : List (Nat × Int)) (i : Nat) : Option Int := (l.find? fun (e : Nat × Int) => e.1 == i).map (·.2)

/-- The 256 medians of the walk over channels with walk data (R618). -/
def walkMedians (l : List (List Int)) : List Int := (List.range 256).map fun i => median (l.map (·.getD i 0))

/-- What a groom finds of a channel: its new trims, but for the skew's reference to the mean, with the raw counts. -/
def measuredTrim (full extRun : Bool) (old : Trim) (cl : Nat) (m : ChanMeas) : Trim :=
  if full then
    let counts := (List.range 80).map fun k => m.hits1.getD k 0 + m.hits2.getD k 0
    { cl := cl, ch := m.ch, lut := lutOf counts (2 ^ 18), width := counts,
      t0 := thrTrim (mean2 (Int.ofNat m.t01) (Int.ofNat m.t02)), t1 := thrTrim (mean2 (Int.ofNat m.t11) (Int.ofNat m.t12)),
      ext := if extRun then mean2 m.ext1 m.ext2 else old.ext, int := mean2 m.int1 m.int2, skew := 0,
      walk := (List.range 256).map fun i => mean2 ((walkAt m.walk1 i).getD 0) ((walkAt m.walk2 i).getD 0) }
  else
    { old with t0 := thrTrim (Int.ofNat m.t01), t1 := thrTrim (Int.ofNat m.t11), int := m.int1 }

/-- The skew trims of a cluster's channels: the negated sum of external and internal skew about the cluster's mean
(R619); CLS has no external skew of its own (R622). -/
def withSkew (cl : Nat) (l : List Trim) : List Trim :=
  let sum (t : Trim) : Int := if cl = 16 then t.int else t.ext + t.int
  let mean := meanInt (l.map sum)
  l.map fun t => { t with skew := mean - sum t }

/-- Two runs agree. -/
def near_ (a b : Int) (lim : Nat) : Bool := (a - b).natAbs ≤ lim

/-- Whether a full groom's channel passes figure k of the quality table, 1 to 7 and 9, but for those of its cluster
(R624). -/
def figureOk (ref : List Int) (extRun : Bool) (m : ChanMeas) (t : Trim) (k : Nat) : Bool :=
  match k with
  | 1 => (List.range 80).all fun i =>
      let a := m.hits1.getD i 0
      let b := m.hits2.getD i 0
      10 * (Int.ofNat (80 * (a + b)) - Int.ofNat (2 ^ 18)).natAbs ≤ 3 * 2 ^ 18 && 800 * (Int.ofNat a - Int.ofNat b).natAbs ≤ 2 ^ 17
  | 3 => t.t0.natAbs ≤ 32 && t.t1.natAbs ≤ 32 && near_ (Int.ofNat m.t01) (Int.ofNat m.t02) 2 && near_ (Int.ofNat m.t11) (Int.ofNat m.t12) 2
  | 4 => m.trans ≤ 4
  | 5 => t.skew.natAbs ≤ 32 && near_ m.int1 m.int2 2 && (!extRun || near_ m.ext1 m.ext2 2)
  | 6 => m.noise ≤ 16
  | 7 => (List.range 256).all fun i =>
      near_ (t.walk.getD i 0) (ref.getD i 0) 4 && near_ ((walkAt m.walk1 i).getD 0) ((walkAt m.walk2 i).getD 0) 2
  | 9 => t.cl != 16 || (List.range 16).all fun i =>
      (mean2 (m.route1.getD i 0) (m.route2.getD i 0)).natAbs ≤ 16 && near_ (m.route1.getD i 0) (m.route2.getD i 0) 2
  | _ => true

/-- Whether a warm groom's channel passes figure k against its limit and against the stored trims, within twice the
agreement (R625); figures 8 and 9 are not measured (R610). -/
def warmOk (ref : List Int) (m : ChanMeas) (old t : Trim) (k : Nat) : Bool :=
  match k with
  | 1 => (List.range 80).all fun i =>
      let a := m.hits1.getD i 0
      10 * (Int.ofNat (80 * a) - Int.ofNat (2 ^ 14)).natAbs ≤ 3 * 2 ^ 14
        && (old.width.isEmpty || 400 * (16 * Int.ofNat a - Int.ofNat (old.width.getD i 0)).natAbs ≤ 2 ^ 18)
  | 3 => t.t0.natAbs ≤ 32 && t.t1.natAbs ≤ 32 && near_ t.t0 old.t0 4 && near_ t.t1 old.t1 4
  | 4 => m.trans ≤ 4
  | 5 => t.skew.natAbs ≤ 32 && near_ t.skew old.skew 4
  | 6 => m.noise ≤ 16
  | 7 => m.walk1.all fun e => near_ e.2 (ref.getD e.1 0) 4 && (old.walk.isEmpty || near_ e.2 (old.walk.getD e.1 0) 4)
  | _ => true

/-- The preset with the widest eye, the first of equals: preset, width and height (R623). -/
def bestEye (l : List (Nat × Nat)) : Nat × Nat × Nat :=
  (l.take 8).zipIdx.foldl (fun (b : Nat × Nat × Nat) (e : (Nat × Nat) × Nat) => if b.2.1 < e.1.1 then (e.2, e.1) else b)
    (0, l.headD (0, 0))

/-- The lane that the full groom of a physical cluster equalises, if any (R623). -/
def laneOf (s : State) (cl : Nat) : Option Nat :=
  if cl < 16 then some cl else if servedBy s (s.get F.RXF_SPARE_STATUS_ROUTE) = 16 then some (s.get F.RXF_SPARE_STATUS_ROUTE) else none

/-- The first failing figure of a cluster, 0 for none (R624, R625); l pairs each measurement with the trims found. -/
def firstFail (s : State) (full extRun : Bool) (ref : List Int) (c : ClusterMeas) (l : List (ChanMeas × Trim)) : Nat :=
  let lane := match laneOf s c.cl with
    | some _ => !full || (24 ≤ (bestEye c.eyes).2.1 && 50 ≤ (bestEye c.eyes).2.2)
    | none => true
  let ok (k : Nat) : Bool :=
    if k = 2 then 10 ≤ c.control && c.control ≤ 90
    else if k = 8 then lane
    else l.all fun e => if full then figureOk ref extRun e.1 e.2 k else warmOk ref e.1 (trimIn s.cal.flash c.cl e.1.ch) e.2 k
  ((List.range 9).map (· + 1)).find? (fun k => !ok k) |>.getD 0

/-- The channels groomed: enabled and not withdrawn (R611). -/
def groomsChannel (s : State) (cl ch : Nat) : Bool :=
  bit (s.get (F.RXF_CH_EN cl)) ch && (cl = 16 || !bit (s.get (F.RXF_CH_FAIL cl)) ch)

/-- What a groom finds of a cluster. -/
def measureCluster (s : State) (full extRun : Bool) (c : ClusterMeas) : List (ChanMeas × Trim) :=
  let ms := c.chans.filter fun (m : ChanMeas) => m.ch < 64 && groomsChannel s c.cl m.ch
  ms.zip (withSkew c.cl (ms.map fun m =>
    measuredTrim full extRun (trimIn (if full then s.cal.work else s.cal.flash) c.cl m.ch) c.cl m))

/-- The largest of a list. -/
def maxNat (l : List Nat) : Nat := l.foldl max 0

/-- CAL_QUAL of a cluster (R631). -/
def noteQuality (s : State) (full : Bool) (cl code : Nat) (l : List (ChanMeas × Trim)) : State :=
  let total := if full then 2 ^ 18 else 2 ^ 14
  let dnl := maxNat (l.map fun e => maxNat ((List.range 80).map fun k =>
    dnl64 (e.1.hits1.getD k 0 + (if full then e.1.hits2.getD k 0 else 0)) total))
  (((s.set (F.CAL_QUAL_FAIL cl) code).set (F.CAL_QUAL_NOISE cl) (min 255 (maxNat (l.map (·.1.noise))))).set
    (F.CAL_QUAL_SKEW_MAX cl) (min 255 (maxNat (l.map (·.2.skew.natAbs))))).set (F.CAL_QUAL_DNL_MAX cl) (min 255 dnl)

/-- A cluster's trims are loaded; its stale hold ends at the next frame boundary (R627). -/
def loaded (s : State) (cl : Nat) (d : CalData) : State :=
  { s with cal := { s.cal with work := d, loaded := setBit s.cal.loaded cl,
                               lastT := (cl, s.rxf.tAd) :: s.cal.lastT.filter (·.1 != cl) } }

/-- A lane keeps a preset. -/
def keepPreset (s : State) (lane : Nat) (eyes : List (Nat × Nat)) : State :=
  let (p, w, _) := bestEye eyes
  let t := ((s.set (F.CAL_LANE_VALID lane) 1).set (F.CAL_LANE_WIDTH lane) (min w 63)).set (F.CAL_LANE_PRESET lane) p
  { t with cal := { t.cal with work := { t.cal.work with
      presets := (lane, p) :: t.cal.work.presets.filter fun (e : Nat × Nat) => e.1 != lane } } }

/-- A full groom accepts a cluster (R622 to R624, R630). -/
def acceptFull (s : State) (c : ClusterMeas) (l : List (ChanMeas × Trim)) : State :=
  let d := l.foldl (fun (d : CalData) e => d.put e.2) s.cal.work
  let routes := if c.cl = 16 then (List.range 16).flatMap fun m => l.map fun e =>
      (m, e.2.ch, mean2 (e.1.route1.getD m 0) (e.1.route2.getD m 0)) else []
  let v := s.get F.CAL_VERSION_STORED + 1
  let d := { d with version := v % 65536, tAd := (c.cl, s.rxf.tAd) :: d.tAd.filter (·.1 != c.cl),
                    routes := routes ++ d.routes.filter fun r => !(routes.any fun x => x.1 == r.1 && x.2.1 == r.2.1) }
  let t := (loaded s c.cl d).set F.CAL_VERSION_WORKING v
  let u := { t with cal := { t.cal with owed := maskOut t.cal.owed (2 ^ c.cl) } }
  match laneOf s c.cl with
  | some n => keepPreset u n c.eyes
  | none => u

/-- A warm groom accepts a cluster: the stored trims of its channels are loaded (R610, R625). -/
def acceptWarm (s : State) (c : ClusterMeas) (l : List (ChanMeas × Trim)) : State :=
  loaded s c.cl (l.foldl (fun (d : CalData) e => d.put (trimIn s.cal.flash c.cl e.2.ch)) s.cal.work)

/-- A groom refuses a cluster (R106, R112, R188, R624, R625). -/
def refuseCluster (s : State) (g : Groom) (cl : Nat) : State :=
  let t := s.set F.CAL_REFUSED (s.get F.CAL_REFUSED ||| 2 ^ cl)
  if g.full then
    let spared := cl != 16 && s.flag F.RXF_SPARE_CTRL && clsFree s
    feFault (raiseFault t (if spared then 1 else 2) 0x1102 cl) cl
  else
    let u := raiseFault t 0 0x1101 cl
    if g.release then u
    else startGroom { u.set F.CAL_STATUS_STALE (u.get F.CAL_STATUS_STALE ||| 2 ^ cl) with cal := { u.cal with owed := setBit u.cal.owed cl } }
      { cmd := none, full := true, mask := 2 ^ cl, background := true, startUp := false, release := false, waiting := false,
        refused := 0 }

/-- A calibration record has a copy that passes its check (R105, R628). -/
def recordGood (s : State) (n : Nat) : Bool := !(s.cal.flashBad.contains n && s.cal.flashBad.contains (n + 65536))

/-- R625: a warm groom finds a valid record of the cluster in the current version: with every record whole, or with the directory's
and the cluster's own. -/
def hasRecord (s : State) (cl : Nat) : Bool := s.cal.valid || (recordGood s 0 && recordGood s (0x10 + cl))

/-- One cluster of a groom is judged (R624, R625); the reference for the walk is the median of R618. -/
def judgeCluster (g : Groom) (extRun : Bool) (ref : List Int) (acc : State × Nat) (c : ClusterMeas) : State × Nat :=
  let (s, refused) := acc
  let l := measureCluster s g.full extRun c
  let f := firstFail s g.full extRun ref c l
  let code := if f = 0 && !g.full && !hasRecord s c.cl then 1 else f
  let t := noteQuality s g.full c.cl f l
  if code = 0 then (if g.full then acceptFull t c l else acceptWarm t c l, refused)
  else (refuseCluster t g c.cl, setBit refused c.cl)

/-- The walk data that the median of R618 takes: of the working calibration, or where it has none, of the groom itself. -/
def walkRef (s : State) (g : Groom) (extRun : Bool) (meas : List ClusterMeas) : List Int :=
  let w := (s.cal.work.trims.map (·.walk)).filter (!·.isEmpty)
  if w.isEmpty then
    walkMedians ((meas.flatMap fun c => (measureCluster s g.full extRun c).map (·.2.walk)).filter (!·.isEmpty))
  else walkMedians w

/-! ### ZERO and PZERO -/

/-- Interpolated time of the cover-glass return in 1/32 step less the way to the cover glass and back, in steps (R620):
one step of 15.625 ps is 4.68425715625 mm of light's way, CG_DIST is in 0.125 mm. -/
def zeroOf (s : State) (t32 : Nat) : Int :=
  divRoundInt (Int.ofNat (468425715625 * t32) - Int.ofNat (32 * 25000000000 * s.get F.CAL_CG_CG_DIST)) (32 * 468425715625)

/-- The accepted value of two runs against the stored one, if it is accepted (R626). -/
def runsResult (a b stored : Int) : Option Int :=
  if near_ a b 2 && near_ (mean2 a b) stored 32 then some (mean2 a b) else none

/-- R510, R620, R621, R626: a groom loads TDC_ZERO and RED_PZERO: a full groom in SCAN with CG_DIST measures ZERO, and in native
twin mode PZERO, what the cover-glass return of the partner's light differs by from the own; otherwise both come from the device
record. zero and pzero are the interpolated times of the own and of the partner's returns in two runs. -/
def groomZero (s : State) (full : Bool) (zero pzero : Nat × Nat) : State :=
  if !full || !(s.mode.scanning && s.get F.CAL_CG_CG_DIST != 0) then
    let t := (s.set F.TDC_ZERO s.cal.flash.zero).setInt F.RED_PZERO s.cal.flash.pzero
    { t with cal := { t.cal with work := { t.cal.work with zero := s.cal.flash.zero, pzero := s.cal.flash.pzero } } }
  else
    let t := match runsResult (zeroOf s zero.1) (zeroOf s zero.2) (Int.ofNat s.cal.flash.zero) with
      | some z => let u := s.set F.TDC_ZERO z.toNat
        { u with cal := { u.cal with work := { u.cal.work with zero := z.toNat } } }
      | none => raiseFault (s.set F.CAL_STATUS_ZERO_REFUSED 1) 2 0x1103 0
    if s.get F.RED_STATUS_MODE != 1 then t
    else match runsResult (zeroOf s pzero.1 - zeroOf s zero.1) (zeroOf s pzero.2 - zeroOf s zero.2) s.cal.flash.pzero with
      | some z => let u := t.setInt F.RED_PZERO z
        { u with cal := { u.cal with work := { u.cal.work with pzero := z } } }
      | none => raiseFault (t.set F.CAL_STATUS_ZERO_REFUSED 1) 2 0x1103 1

/-! ### The end of a groom -/

/-- R618: the tables are recomputed after an accepted full groom: the walk medians, and intensities that the spec does not
say how to form from the widths at 64 amplitudes (log entry 20). -/
def newTables (s : State) : State :=
  let walk := walkMedians ((s.cal.work.trims.map (·.walk)).filter (!·.isEmpty))
  let tot := (List.range 2048).map fun k => Config.freeValue (s.free + k) % 4096
  { s with free := s.free + 2048,
           cal := { s.cal with work := { s.cal.work with walkTab := walk, totTab := tot }, tables := some (walk, tot) } }

/-- R610, R621: every groom loads the tables: a warm one those of the stored calibration, where a part as shipped has tables of its
own (log entry 20), and a full one that has accepted no cluster those that it works with. -/
def loadTables (s : State) (full : Bool) : State :=
  let d := if full then s.cal.work else s.cal.flash
  let walk := if d.walkTab.isEmpty && !full then (List.range 256).map Config.calWalk else d.walkTab
  let tot := if d.totTab.isEmpty && !full then (List.range 2048).map Config.calTot else d.totTab
  { s with cal := { s.cal with work := { s.cal.work with walkTab := walk, totTab := tot }, tables := some (walk, tot) } }

/-- The command of a groom ends with the mask of refused clusters (R148). -/
def finishGroom (s : State) (g : Groom) (status refused : Nat) : State :=
  match g.cmd with
  | some (p, tag) => match s.cmd.cmds.find? fun (c : Cmd) => c.port == p && c.tag == tag && c.phase == .running with
    | some c => finish s c status 0 refused
    | none => s
  | none => s

/-- R193: the warm groom of a release ends: the crossbar switches back at the next frame boundary, or the command ends with
HW_FAULT. PHASE reads releasing from here on (log entry 92). -/
def endRelease (s : State) (refused : Nat) : State :=
  if refused = 0 then s.set F.RXF_SPARE_STATUS_PHASE 4
  else
    let t := s.set (clst (s.get F.RXF_SPARE_STATUS_ROUTE)) Cl.off
    finishRunning { t with cal := { t.cal with spare := none } } 0x0704 St.hwFault 0

/-- R105, R106, R609 to R626: the groom at a place in the list of grooms ends with its measurements of clusters, of the
lanes SB0 and SB1 (used by a full groom at start-up) and of ZERO and PZERO. -/
def execGroomDone (groom : Nat) (meas : List ClusterMeas) (sb : List (List (Nat × Nat))) (zero pzero : Nat × Nat) (s : State) :
    Host.Outcome State Fault Refusal :=
  match s.cal.grooms[groom]? with
  | none => .next s
  | some g =>
    if g.waiting then .next s
    else
      let s0 := { s with cal := { s.cal with grooms := s.cal.grooms.eraseIdx groom } }
      let extRun := s.mode == .ready && s.flag F.RXF_APDB_STAT_SETTLED
      let ms := (List.range 17).filterMap fun n =>
        if bit g.mask n then some ((meas.find? fun (c : ClusterMeas) => c.cl == n).getD { cl := n, control := 0, eyes := [], chans := [] })
        else none
      let (t, refused) := ms.foldl (judgeCluster g extRun (walkRef s g extRun ms)) (s0, g.refused)
      let u := groomZero t g.full zero pzero
      let u := if g.full && g.mask &&& refused != g.mask then newTables u else loadTables u g.full
      let u := if g.full && g.startUp then (sb.take 2).zipIdx.foldl (fun x e => keepPreset x (16 + e.2) e.1) u else u
      let v := if g.release then endRelease u refused else finishGroom u g St.done refused
      let w := noteGrooms (if g.startUp && refused != 0 then stepFailed v 5 else v)
      .next (if g.startUp && w.mode == .standby && w.step == 5 then startAt w 6 else w)

/-- R613, R150: a groom is stopped by ABORT: clusters not loaded keep their trims, and their stale hold ends at the next
frame boundary. -/
def abortGroom (s : State) (g : Groom) : State :=
  noteGrooms { s with cal := { s.cal with grooms := s.cal.grooms.filter (· != g), loaded := s.cal.loaded ||| g.mask } }

/-! ### The stored calibration -/

/-- R630: CAL_STORE; BUSY while a groom or another CAL_STORE runs. -/
def calStoreCheck (s : State) (c : Cmd) : Option Nat :=
  stdCheck s c false false (!s.cal.grooms.isEmpty || s.flag F.CAL_STATUS_STORE_BUSY)

/-- R630: CAL_STORE begins to write. -/
def execCalStore (port : Port) (tag : Nat) (s : State) : Host.Outcome State Fault Refusal :=
  withCmd s port tag 0x0701 calStoreCheck fun s c => begin_ s c fun t _ => t.set F.CAL_STATUS_STORE_BUSY 1

/-- R629, R630: CAL_STORE ends; ok: both read-backs passed. -/
def execCalStoreDone (ok : Bool) (s : State) : Host.Outcome State Fault Refusal :=
  if !s.flag F.CAL_STATUS_STORE_BUSY then .next s
  else
    let t := s.set F.CAL_STATUS_STORE_BUSY 0
    if !ok then .next (finishRunning t 0x0701 St.hwFault 0)
    else
      let v := t.get F.CAL_VERSION_WORKING
      let u := ((t.set F.CAL_VERSION_STORED v).set F.CAL_FLASH_A_OK 1).set F.CAL_FLASH_B_OK 1
      .next (finishRunning { u with cal := { u.cal with flash := { u.cal.work with version := v }, flashBad := [], valid := true } }
        0x0701 St.done v)

/-- Whether a record number is listed (R628). -/
def calRecordOk (n : Nat) : Bool := n = 0 || n = 1 || (0x10 ≤ n && n ≤ 0x20)

/-- A signed number as n little-endian bytes. -/
def leInt (n : Nat) (x : Int) : List Byte := leBytes n (toBits (8 * n) x)

/-- The 96 bytes of a channel in a cluster record: lookup, T0 and T1 trims (1 byte each), skew trim, external and internal
skew (2 bytes each; log entry 21), 8 zero bytes. -/
def trimBytes (t : Trim) : List Byte :=
  (List.range 80).flatMap (fun k => leBytes 1 (t.lut.getD k 0)) ++ leInt 1 t.t0 ++ leInt 1 t.t1 ++ leInt 2 t.skew ++ leInt 2 t.ext
    ++ leInt 2 t.int ++ List.replicate 8 0

/-- The body of a stored record, where the spec gives its layout; the first free value it may use. The bodies of the directory
and of the device record, whose layouts it does not give, are free bytes (log entry 21). -/
def calBody (d : CalData) (free n : Nat) : List Byte × Nat :=
  if n < 0x10 then
    let len := Config.freeValue free % 2 ^ 14
    ((List.range len).map fun k => BitVec.ofNat 8 (Config.freeValue (free + 1 + k)), free + 1 + len)
  else
    let cl := n - 0x10
    let preset := leBytes 1 (((d.presets.find? fun (e : Nat × Nat) => e.1 == cl).map (·.2)).getD 0)
    let chans := channels64.flatMap fun j => trimBytes (trimIn d cl j)
    let routes := if cl = 16 then (List.range 16).flatMap fun m => channels64.flatMap fun j => leInt 2 (routeOffset d m j) else []
    (preset ++ chans ++ routes, free)

/-- A stored record: header and body (R628). -/
def calRecord (d : CalData) (n : Nat) (body : List Byte) : List Byte :=
  let tAd := ((d.tAd.find? fun (e : Nat × Int) => e.1 + 0x10 == n).map (·.2)).getD 0
  let head := leBytes 4 0x4C414346 ++ leBytes 2 n ++ leBytes 2 d.version ++ leBytes 4 body.length ++ leInt 2 tAd ++ List.replicate 14 0
  head ++ leBytes 4 (crc32c (head ++ body)) ++ body

/-- R628: CAL_READ returns a stored record. -/
def execCalRead (port : Port) (tag : Nat) (s : State) : Host.Outcome State Fault Refusal :=
  withCmd s port tag 0x0702 (fun s c => stdCheck s c false false false) fun s c =>
    let n := c.dw 4 % 65536
    let (body, free) := calBody s.cal.flash s.free n
    finishOut { s with free := free } c (calRecord s.cal.flash n body) 1

/-! ### The spare by command -/

/-- R194: CAL_SPARE_ENGAGE. -/
def engageCheck (s : State) (c : Cmd) : Option Nat :=
  let p := s.get F.RXF_SPARE_STATUS_PHASE
  let other := (p = 3 || p = 4) && s.get F.RXF_SPARE_STATUS_ROUTE != c.dw 4 % 16
  stdCheck s c false (p = 5 || other) (p = 1 || p = 2 || p = 4 || s.cal.spare.isSome)

/-- R190, R194: CLS is engaged for a cluster; where it serves that cluster already, the command ends at once. -/
def execCalSpareEngage (port : Port) (tag : Nat) (s : State) : Host.Outcome State Fault Refusal :=
  withCmd s port tag 0x0703 engageCheck fun s c => begin_ s c fun t c =>
    if t.get F.RXF_SPARE_STATUS_PHASE = 3 then finishOk t c t.sch.frame
    else
      let u := ((t.set F.RXF_SPARE_STATUS_PHASE 1).set F.RXF_SPARE_STATUS_ROUTE (c.dw 4)).set (clst 16) Cl.restarting
      let v := stopClsGroom u
      { v with cal := { v.cal with spare := some (c.port, c.tag) } }

/-- R133, R193, R612: CAL_SPARE_RELEASE: CLS must serve a cluster, and no groom of that cluster may run. -/
def releaseCheck (s : State) (c : Cmd) : Option Nat :=
  let p := s.get F.RXF_SPARE_STATUS_PHASE
  stdCheck s c false (p = 0 || p = 5) (p != 3 || s.cal.spare.isSome
    || s.cal.grooms.any fun (g : Groom) => bit g.mask (s.get F.RXF_SPARE_STATUS_ROUTE))

/-- R80, R193: the replaced cluster is powered and makes a cold restart, in READY it is cold, and its warm groom begins. -/
def execCalSpareRelease (port : Port) (tag : Nat) (s : State) : Host.Outcome State Fault Refusal :=
  withCmd s port tag 0x0704 releaseCheck fun s c => begin_ s c fun t c =>
    let t := t.set (clst (t.get F.RXF_SPARE_STATUS_ROUTE)) (if t.mode.scanning then Cl.restarting else Cl.cold)
    startGroom { t with cal := { t.cal with spare := some (c.port, c.tag) } }
      { cmd := none, full := false, mask := 2 ^ t.get F.RXF_SPARE_STATUS_ROUTE, background := false, startUp := false,
        release := true, waiting := false, refused := 0 }

end Sys2Proof.Machine
end

