-- ==== Sys2Proof/Machine/Time.lean ====
section
/-! DEFINITION. Window profiles, PPS alignment of DEVTIME and the frequency engines (chapter 07). -/

namespace Sys2Proof.Machine

/-! ### Window profiles -/

/-- R205, R210, R687: a window profile write, discarded whole when out of limits. -/
def writeWinProf (s : State) (p v : Nat) : State :=
  let a := (F.TDC_WIN_PROF_START p).of v
  let e := (F.TDC_WIN_PROF_END p).of v
  if 1638 < e || e < a + 8 then s
  else writeFields s (F.TDC_WIN_PROF_START p).off [(F.TDC_WIN_PROF_END p, .rwl), (F.TDC_WIN_PROF_START p, .rwl)] v

/-- R205: a write of a window profile. -/
def execTdcWinProfWrite (prof : Fin 16) (value : Dword) (s : State) : Host.Outcome State Fault Refusal :=
  .next (writeWinProf s prof.val value.toNat)

/-! ### PPS -/

/-- R218, R687: a write of TDC_PPS_CFG; one with ALIGN = 1 is discarded in SCAN, SAFE-HOLD and LOCKOUT. -/
def writePpsCfg (s : State) (v : Nat) : State :=
  if bit v 31 && s.mode.scanning then s.set F.TDC_PPS_STATUS_STEP_REFUSED 1
  else
    let t := (s.put F.TDC_PPS_CFG_EN (bit v 30)).set F.TDC_PPS_CFG_TOL v
    if bit v 31 then t.set F.TDC_PPS_CFG_ALIGN 1 else t

/-- R218: a write that arms ALIGN, or is refused. -/
def execPpsAlignWrite (value : Dword) (s : State) : Host.Outcome State Fault Refusal := .next (writePpsCfg s value.toNat)

/-- What every accepted edge does: EDGE, the next expected time (TDC_PPS_NEXT), and the end of LOST (R220). -/
def acceptPps (s : State) (at_ : Nat) : State :=
  let t := ((s.set F.TDC_PPS_STATUS_EDGE 1).set F.TDC_PPS_NEXT (s.get F.TDC_PPS_NEXT + 800000000)).set F.TDC_PPS_STATUS_LOST 0
  endFault { t with tdc := { t.tdc with lastPps := some at_ } } 0x0601 0

/-- R217 to R219, R221: a rising edge of PPS_IN, phase fine steps after the present DEVTIME tick. -/
def execPpsEdge (phase : Fin 80) (s0 : State) : Host.Outcome State Fault Refusal :=
  let s := noteEdge s0 6 none { time := stampAt s0 s0.sys.raw phase.val, window := 0 }
  if !s.flag F.TDC_PPS_CFG_EN then .next s
  else
    let now := s.now
    let err : Int := (Int.ofNat now - Int.ofNat (s.get F.TDC_PPS_NEXT)) * 80 + Int.ofNat phase.val
    let t := s.set F.TDC_PPS_CAPT now
    if s.flag F.TDC_PPS_CFG_ALIGN then
      let next := s.get F.TDC_PPS_NEXT
      let u := (((t.set F.TDC_DEVTIME next).set F.TDC_PPS_STATUS_ALIGNED 1).set F.TDC_PPS_CFG_ALIGN 0).setInt F.TDC_PPS_ERR err
      .next (acceptPps { u with sys := { u.sys with slew := 0, slewCount := 0 } } next)
    else
      let early := match s.tdc.lastPps with
        | some a => now < a + 400000000
        | none => false
      if s.get F.TDC_PPS_CFG_TOL * 80 < err.natAbs || early then .next (t.inc F.TDC_PPS_STATUS_REJ_CNT)
      else
        let u := acceptPps (t.setInt F.TDC_PPS_ERR err) now
        if s.flag F.TDC_PPS_STATUS_ALIGNED then
          .next { u with sys := { u.sys with slew := - divRoundInt err 80, slewCount := 0 } }
        else .next u

/-- R220: 1.5 s without an accepted edge; slewing ends until the next one. With EN = 0 there is no PPS to lose (log entry 93). -/
def execPpsLost (s : State) : Host.Outcome State Fault Refusal :=
  if !s.flag F.TDC_PPS_CFG_EN || s.flag F.TDC_PPS_STATUS_LOST then .next s
  else
    let t := s.set F.TDC_PPS_STATUS_LOST 1
    .next (raiseFault { t with sys := { t.sys with slew := 0, slewCount := 0 } } 0 0x0601 0)

/-! ### Frequency engines -/

/-- R221, R224, R227, R687: a write of an engine's control. A write of MODE 0b11 or an unlisted SRC is discarded, and so
is every write to FM3 under the firing check. -/
def writeFmCtrl (s : State) (e v : Nat) : State :=
  if e = 3 && s.flag F.TDC_FIRE_CFG_EN then s
  else if (F.TDC_FM_CTRL_MODE e).of v = 3 || 0x0A < (F.TDC_FM_CTRL_SRC e).of v then s
  else
    let t := [F.TDC_FM_CTRL_CONT, F.TDC_FM_CTRL_MODE, F.TDC_FM_CTRL_GATE, F.TDC_FM_CTRL_SRC, F.TDC_FM_CTRL_SEL,
      F.TDC_FM_CTRL_DIV].foldl (fun t f => t.set (f e) ((f e).of v)) s
    if bit v 31 && !s.flag (F.TDC_FM_CTRL_START e) then
      { t.set (F.TDC_FM_CTRL_START e) 1 with tdc := { t.tdc with refSwitched := t.tdc.refSwitched.set e false, stamps := t.tdc.stamps.set e [] } }
    else t

/-- R227: TDC_FIRE_CFG with EN takes FM3: it runs on SRC 0x0A in GRID mode with gates of 100 ms. -/
def takeFm3 (s : State) : State :=
  if !s.flag F.TDC_FIRE_CFG_EN then s
  else
    let t := (((((s.set (F.TDC_FM_CTRL_CONT 3) 1).set (F.TDC_FM_CTRL_MODE 3) 1).set (F.TDC_FM_CTRL_GATE 3) 2).set (F.TDC_FM_CTRL_SRC 3) 10).set
      (F.TDC_FM_CTRL_SEL 3) 0).set (F.TDC_FM_CTRL_DIV 3) 0
    { t.set (F.TDC_FM_CTRL_START 3) 1 with tdc := { t.tdc with refSwitched := t.tdc.refSwitched.set 3 false,
                                                               stamps := t.tdc.stamps.set 3 [] } }

/-- R227, R228: a write of the firing check. Writing EN = 1 over 1 leaves the gate of FM3 as it runs. -/
def writeFireCfg (s : State) (v : Nat) : State :=
  let t := writeAt s 0x60300 v
  if t.flag F.TDC_FIRE_CFG_EN && !s.flag F.TDC_FIRE_CFG_EN then takeFm3 t else t

/-- R224: a write of an engine's control. -/
def execFmCtrlWrite (engine : Fin 4) (value : Dword) (s : State) : Host.Outcome State Fault Refusal :=
  .next (writeFmCtrl s engine.val value.toNat)

/-- Every (d + 1)-th edge of a list (R221). -/
def everyNth (d : Nat) : Nat → List Edge → List Edge
  | _, [] => []
  | 0, e :: r => e :: everyNth d d r
  | k + 1, _ :: r => everyNth d k r

/-- At most one stamp per 80 ns (5,120 steps): the stamps taken and how many edges were skipped (R221). -/
def takeStamps : Option Nat → List Edge → List Edge × Nat
  | _, [] => ([], 0)
  | last, e :: r =>
    match last with
    | some t => if e.time < t + 5120 then let (l, n) := takeStamps last r; (l, n + 1)
                else let (l, n) := takeStamps (some e.time) r; (e :: l, n)
    | none => let (l, n) := takeStamps (some e.time) r; (e :: l, n)

/-- Sums over accepted stamps (index x, time y from the first stamp): N, x, y, xx, xy, yy. -/
structure Fit where
  n : Nat
  x : Nat
  y : Nat
  xx : Nat
  xy : Nat
  yy : Nat
  deriving DecidableEq, Repr

/-- One more point of a fit. -/
def Fit.point (f : Fit) (x y : Nat) : Fit :=
  { n := f.n + 1, x := f.x + x, y := f.y + y, xx := f.xx + x * x, xy := f.xy + x * y, yy := f.yy + y * y }

/-- Numerator and denominator of the slope (R223). -/
def Fit.slope (f : Fit) : Int × Nat :=
  (Int.ofNat (f.n * f.xy) - Int.ofNat (f.x * f.y), f.n * f.xx - f.x * f.x)

/-- Numerator and denominator of the mean square residual about the fit, in squared steps (R223). -/
def Fit.resid (f : Fit) : Nat × Nat :=
  let (a, d) := f.slope
  let syy := f.n * f.yy - f.y * f.y
  ((Int.ofNat (syy * d) - a * a).toNat, f.n * f.n * d)

/-- CONSEC: each stamp has the index after the previous one (R222). -/
def fitConsec (t0 : Nat) : Fit → List Edge → Fit
  | f, [] => f
  | f, e :: r => fitConsec t0 (f.point f.n (e.time - t0)) r

/-- The period P that GRID uses, as a fraction in steps: the running fit after 64 stamps, the start value before. -/
def gridPeriod (fixed : Bool) (p0 : Nat × Nat) (f : Fit) : Nat × Nat :=
  if fixed || f.n < 64 then p0 else (f.slope.1.toNat, f.slope.2)

/-- GRID: the index steps by round(D / P); a stamp further than P / 8 from the grid is rejected (R222). The result is
the fit and the stamps rejected. -/
def fitGrid (fixed : Bool) (p0 : Nat × Nat) (t0 : Nat) : Fit → Nat → Nat → List Edge → Fit × Nat
  | f, _, _, [] => (f, 0)
  | f, idx, last, e :: r =>
    let (a, b) := gridPeriod fixed p0 f
    let d := e.time - last
    let k := if a = 0 then 0 else divRound (d * b) a
    let dev := (Int.ofNat (d * b) - Int.ofNat (k * a)).natAbs
    if a < 8 * dev then let (g, n) := fitGrid fixed p0 t0 f idx last r; (g, n + 1)
    else fitGrid fixed p0 t0 (f.point (idx + k) (e.time - t0)) (idx + k) e.time r

/-- Intervals of successive stamps; with sameWin only those inside one stop window (R222). -/
def intervals (sameWin : Bool) : List Edge → List Nat
  | a :: b :: r => if sameWin && a.window != b.window then intervals sameWin (b :: r)
                   else (b.time - a.time) :: intervals sameWin (b :: r)
  | _ => []

/-- The fullest of 256 bins of 8 ns (512 steps), the lower bin winning a tie (R222). -/
def fullestBin (l : List Nat) : Nat :=
  ((List.range 256).foldl (fun (b : Nat × Nat) i =>
    let n := (l.filter fun d => d / 512 == i).length
    if b.2 < n then (i, n) else b) (0, 0)).1

/-- The intervals within 5 % of the fullest bin's centre (R222). -/
def usedIntervals (l : List Nat) : List Nat :=
  let c := (2 * fullestBin l + 1) * 512
  if l.any (· < 131072) then l.filter fun d => 20 * (Int.ofNat (2 * d) - Int.ofNat c).natAbs ≤ c else []

/-- What a gate found: stamps used, stamps rejected, period as a fraction of steps, mean square residual as a fraction. -/
structure GateResult where
  used : Nat
  rej : Nat
  period : Nat × Nat
  resid : Nat × Nat
  tooFew : Bool
  deriving DecidableEq, Repr

/-- The result of a gate from its stamps (R222, R223). -/
def gateResult (s : State) (e : Nat) (stamps : List Edge) : GateResult :=
  let none_ : Fit := { n := 0, x := 0, y := 0, xx := 0, xy := 0, yy := 0 }
  let firing := e = 3 && s.flag F.TDC_FIRE_CFG_EN
  match s.get (F.TDC_FM_CTRL_MODE e), stamps with
  | 2, _ =>
    let src := s.get (F.TDC_FM_CTRL_SRC e)
    let u := usedIntervals (intervals (src = 4 || src = 5) stamps)
    let n := u.length
    let sum := u.foldl (· + ·) 0
    let sq := (u.map fun d => d * d).foldl (· + ·) 0
    { used := n, rej := 0, period := (sum, n), resid := (n * sq - sum * sum, n * n), tooFew := n < 16 }
  | _, [] => { used := 0, rej := 0, period := (0, 1), resid := (0, 1), tooFew := true }
  | 0, a :: r =>
    let f := fitConsec a.time none_ (a :: r)
    { used := f.n, rej := 0, period := (f.slope.1.toNat, f.slope.2), resid := f.resid, tooFew := f.n < 16 }
  | _, a :: r =>
    let p0 := if firing then (s.sch.slotNs * 64, 1) else (s.get (F.TDC_FM_HINT e), 250)
    if p0.1 = 0 then { used := 0, rej := 0, period := (0, 1), resid := (0, 1), tooFew := true }
    else
      let (f, n) := fitGrid firing p0 a.time (none_.point 0 0) 0 a.time r
      { used := f.n, rej := n, period := (f.slope.1.toNat, f.slope.2), resid := f.resid, tooFew := f.n < 16 || f.slope.2 = 0 }

/-- The emitter is inhibited with its cause: 1 firing check, 2 stray current (R228, R366). -/
def inhibitEmitter (s : State) (cause : Nat) : State := (s.set F.EMI_STATUS_INHIBIT 1).set F.EMI_STATUS_CAUSE cause

/-- The results of a complete gate go to the registers together (R224): PERIOD in 1/65,536 ps, PPB, RESID in 0.1 ps. -/
def storeGate (s : State) (e : Nat) (g : GateResult) : State :=
  let p := divRound (g.period.1 * 1024000) g.period.2
  let t := (s.set (F.TDC_FM_PERIOD_PERIOD_FRAC e) p).set (F.TDC_FM_PERIOD_PERIOD_INT e) (p / 65536)
  let nom := s.get (F.TDC_FM_NOMINAL e)
  let u := if nom = 0 then t
    else t.setInt (F.TDC_FM_PPB e)
      (divRoundInt ((Int.ofNat (g.period.1 * 250) - Int.ofNat (nom * g.period.2)) * 1000000000) (nom * g.period.2))
  (u.set (F.TDC_FM_RESID e) (min 0xFFFF (sqrtRound (g.resid.1 * 244140625) (g.resid.2 * 10000)))).set
    (F.TDC_FM_STATUS_VALID e) 1

/-- R228: whether a gate of the firing check fails: its period is more than TOL ppm from the slot length, or more than 1 %
of its stamps were rejected. -/
def firingFails (s : State) (g : GateResult) : Bool :=
  let slot := s.sch.slotNs * 64 * g.period.2
  (!g.tooFew && s.get F.TDC_FIRE_CFG_TOL * slot < (Int.ofNat g.period.1 - Int.ofNat slot).natAbs * 1000000)
    || g.used + g.rej < 100 * g.rej

/-- Frequency of REF_IN after the prescaler in MHz, from REF_FREQ (R86). -/
def refMhz (s : State) : Nat := [10, 25, 50, 100].getD (s.get F.CLK_REF_CFG_REF_FREQ) 10

/-- What each stamp of the emitters' first pulses loses: the start dither of its shot, the latest whose reference is not after it
(R221). The references come newest first. -/
def lessDither (refs : List Edge) (x : Edge) : Edge :=
  match refs.find? fun (r : Edge) => r.time ≤ x.time with
  | some r => { x with time := x.time - 80 * r.window }
  | none => x

/-- The edges of an engine's source in its gate (R221). Those that reach the device as events of their own are in the state;
clock edges, those of TRIG_IN and those of the pulse current sense, each with its bank as its window, come as measured; the clock that
PLL_TIME does not use is divided to 1 MHz. -/
def gateEdges (s : State) (e : Nat) (edges : List Edge) : List Edge :=
  let own := s.tdc.stamps.getD e []
  match s.get (F.TDC_FM_CTRL_SRC e) with
  | 9 => let n := if s.flag F.CLK_STATUS_REF_ACTIVE then 25 else refMhz s
         everyNth (n - 1) 0 edges
  | 10 => edges.map (lessDither own.reverse)
  | 3 => everyNth (s.get (F.TDC_FM_CTRL_DIV e)) 0 (edges.filter fun (x : Edge) => x.window == s.get (F.TDC_FM_CTRL_SEL e))
  | src => everyNth (s.get (F.TDC_FM_CTRL_DIV e)) 0 (if src = 0 || src = 1 || src = 7 then edges else own)

/-- R221 to R228: a gate ends; edges are those of a clock, of TRIG_IN or of the pulse current sense in the gate, in time order. -/
def execFmGateEnd (engine : Fin 4) (edges : List Edge) (s : State) : Host.Outcome State Fault Refusal :=
  let e := engine.val
  if !s.flag (F.TDC_FM_CTRL_START e) then .next s
  else
    let (stamps, skip) := takeStamps none (gateEdges s e edges)
    let sw := s.tdc.refSwitched.getD e false
    let t := { s with tdc := { s.tdc with refSwitched := s.tdc.refSwitched.set e false, stamps := s.tdc.stamps.set e [] } }
    let t := if t.flag (F.TDC_FM_CTRL_CONT e) then t else t.set (F.TDC_FM_CTRL_START e) 0
    let t := (t.set (F.TDC_FM_STATUS_DONE e) 1).put (F.TDC_FM_STATUS_REF_SWITCH e) sw
    if sw then .next (t.set (F.TDC_FM_STATUS_VALID e) 0)
    else
      let g := gateResult s e stamps
      let t := ((t.set (F.TDC_FM_COUNT e) (min g.used 0xFFFFFF)).set (F.TDC_FM_REJECT_SKIP e) (min skip 0xFFFF)).set
        (F.TDC_FM_REJECT_REJ e) (min g.rej 0xFFFF)
      let t := t.put (F.TDC_FM_STATUS_TOO_FEW e) g.tooFew
      let t := if g.tooFew then t.set (F.TDC_FM_STATUS_VALID e) 0 else storeGate t e g
      if e = 3 && s.flag F.TDC_FIRE_CFG_EN && firingFails s g then
        .next (raiseFault (inhibitEmitter t 1) 2 0x0602 0)
      else .next t

end Sys2Proof.Machine
end

