-- ==== Sys2Proof/Machine/Emi.lean ====
section
/-! DEFINITION. The emitter matrix: bank charging, withdrawal, cell tests, lamp-board temperature, heat model, and the
floodlight (chapter 11, with R323 and R328 to R333 of chapter 10). -/

namespace Sys2Proof.Machine

/-! ### Banks -/

/-- A bank at rest. -/
def restBank : Bank :=
  { dT := Frac.ofNat 0, acc := 0, pulses := [], recent := [], rch := [], run := 0, charging := false, due := none,
    depth := 0, initial := false, range := false, back := false, was := 0, found := false }

/-- The record of bank b. -/
def bankAt (s : State) (b : Nat) : Bank := s.emi.banks.getD b restBank

/-- Bank b takes a record. -/
def setBank (s : State) (b : Nat) (x : Bank) : State :=
  { s with emi := { s.emi with banks := putAt s.emi.banks b restBank x } }

/-- Start of the present slot in ns from the start of SCAN. -/
def slotTime (s : State) : Nat := (s.sch.abs + s.sch.next - 1) * s.sch.slotNs

/-- A bank is out of service (R361, R365). -/
def bankOut (s : State) (b : Nat) : Bool := s.flag (F.EMI_BANK_STAT_WITHDRAWN b)

/-- EBK of a bank goes low. -/
def ebkLow (s : State) (b : Nat) : State :=
  setBank { s with pins := { s.pins with ebk := clearBit s.pins.ebk b } } b { bankAt s b with charging := false }

/-- EBK of a bank is driven low in mid-recharge: VLAST is EBKV as it then reads (R350), which no command has sensed: free. -/
def ebkCut (s : State) (b : Nat) : State :=
  if (bankAt s b).charging then
    let (v, t) := s.takeFree 12
    ebkLow (t.set (F.EMI_BANK_STAT_VLAST b) v) b
  else ebkLow s b

/-- A committed shot that does not fire in its slot gives its charge back. -/
def uncharge (s : State) (x : Shot) : State :=
  { s with sch := { s.sch with charges := s.sch.charges.filter fun (c : Charge) => !(c.own && c.at_ = x.at_) } }

/-- The tests of a withdrawn bank end: its locating pass and its retry sweep fire no more. -/
def dropTests (s : State) (b : Nat) : State :=
  let t := match s.sch.committed with
    | some x =>
      if x.row / 4 = b && (x.use == Use.locate || x.use == Use.retry) then
        uncharge { s with sch := { s.sch with committed := none } } x
      else s
    | none => s
  let u := { t with emi := { t.emi with locate := t.emi.locate.filter (fun c => c / 128 != b),
                                        retry := t.emi.retry.filter fun c => c / 128 != b } }
  u.set F.EMI_BANK_EN_RETRY (clearBit (u.get F.EMI_BANK_EN_RETRY) b)

/-- The program in use. -/
def progNow (s : State) : Option Prog := s.sch.progs.getD s.sch.cur none

/-- An entry of the program in use. -/
def entryAt (s : State) (i : Nat) : Option Entry :=
  match progNow s with
  | some p => p.entries[i]?
  | none => none

/-- The directions that an entry serves (R311). -/
def entryDirs (e : Entry) : List Nat := (List.range (64 * pop16 e.cl)).map fun r => e.dir + r

/-- A paddock-critical entry is marked short for the present frame (R337, R338). -/
def markShort (s : State) (i : Nat) : State :=
  let mark (o : Owe) : Owe := if o.entry = i then { o with short := true } else o
  let t := { s with sch := { s.sch with owes := s.sch.owes.map mark } }
  let dirs := match entryAt s i with
    | some e => entryDirs e
    | none => []
  let u := if s.flag F.SCH_STATUS_SHORT_NOW then t else stick (t.set F.SCH_STATUS_SHORT_NOW 1) 0x120
  openGaps (u.inc F.SCH_CNT_SHORT) dirs true

/-- Paddock-critical entries of a bank that are not marked yet. -/
def unmarkedOf (s : State) (b : Nat) : List Nat :=
  s.sch.owes.filterMap fun (o : Owe) =>
    match entryAt s o.entry with
    | some e => if o.cls = 0 && !o.short && e.row / 4 = b then some o.entry else none
    | none => none

/-- A shot taken out of the look-ahead goes back to its entry as owed (R319). -/
def giveBack (s : State) (x : Shot) : State :=
  let f (o : Owe) : Owe := if o.entry = x.entry then { o with owed := o.owed + 1 } else o
  match x.use with
  | .own =>
    if x.frame = s.sch.frame then { s with sch := { s.sch with owes := s.sch.owes.map f } }
    else { s with sch := { s.sch with owesNext := s.sch.owesNext.map f } }
  | .sweep =>
    if bankOut s (x.row / 4) then s else { s with emi := { s.emi with sweep := (32 * x.row + x.cols.log2) :: s.emi.sweep } }
  | .locate => { s with emi := { s.emi with locate := (32 * x.row + x.cols.log2) :: s.emi.locate } }
  | .retry => { s with emi := { s.emi with retry := (32 * x.row + x.cols.log2) :: s.emi.retry } }
  | _ => s

/-- Whether a shot is a program shot of this device on a bank. -/
def ownOn (b : Nat) (x : Shot) : Bool := x.use == .own && x.row / 4 = b

/-- R340: the scheduler drops a bank's own shots and marks its paddock-critical entries short. -/
def dropBank (s : State) (b : Nat) : State :=
  let t := (s.sch.look.filter (ownOn b)).foldl giveBack s
  let u := { t with sch := { t.sch with look := t.sch.look.filter fun (x : Shot) => !ownOn b x },
                    emi := { t.emi with sweep := t.emi.sweep.filter fun c => c / 128 != b } }
  let v := u.set (F.SCH_BANK_STAT_WITHDRAWN b) 1
  (unmarkedOf v b).foldl markShort v

/-- R361: a bank is withdrawn with a cause. -/
def withdrawBank (s : State) (b cause : Nat) : State :=
  if bankOut s b then s
  else
    let t := ebkCut (((stick s 0x140).set (F.EMI_BANK_STAT_WITHDRAWN b) 1).set (F.EMI_BANK_STAT_CAUSE b) cause) b
    dropBank (raiseFault (setBank t b { bankAt t b with due := none, initial := false }) 2 0x0A01 (b + 256 * cause)) b

/-- R694: a bank that comes into service makes an initial recharge; until it has ended VLAST reads 0, and a low reading of an
earlier SCAN refuses it nothing. -/
def initialRecharge (s : State) (b : Nat) : State :=
  setBank (endFault (s.set (F.EMI_BANK_STAT_VLAST b) 0) 0x0902 b) b
    { bankAt s b with due := some (slotTime s), depth := 0, initial := true, charging := false, range := false, back := false }

/-- A bank returns to service (R340, R364, R365). -/
def returnBank (s : State) (b : Nat) : State :=
  let t := endFault s 0x0A01 (b + 256 * s.get (F.EMI_BANK_STAT_CAUSE b))
  let u := ((t.set (F.EMI_BANK_STAT_WITHDRAWN b) 0).set (F.EMI_BANK_STAT_CAUSE b) 0).set (F.SCH_BANK_STAT_WITHDRAWN b) 0
  if s.mode.scanning then initialRecharge u b else setBank u b { bankAt u b with back := false }

/-- R365: the enables of EMI_BANK_EN as they now stand: a cleared bank counts as withdrawn with CAUSE 0b110 and no fault, and its
tests end; one set again returns where it was in service, and is withdrawn as before where it was not (R364). -/
def banksEnabledNow (s : State) : State :=
  (List.range 8).foldl (fun (t : State) b =>
    let en := bit (s.get F.EMI_BANK_EN_EN) b
    let none_ := bankOut t b && t.get (F.EMI_BANK_STAT_CAUSE b) = 6
    let was := (bankAt t b).was
    if en then
      if !none_ then t
      else if was = 0 then returnBank t b
      else setBank (t.set (F.EMI_BANK_STAT_CAUSE b) was) b { bankAt t b with was := 0 }
    else if none_ then t
    else
      let cause := if bankOut t b then t.get (F.EMI_BANK_STAT_CAUSE b) else 0
      let u := dropTests (ebkCut t b) b
      let u := (u.set (F.EMI_BANK_STAT_WITHDRAWN b) 1).set (F.EMI_BANK_STAT_CAUSE b) 6
      dropBank (setBank u b { bankAt u b with due := none, initial := false, back := false, was := cause }) b) s

/-- R365: a write of the bank enables. -/
def writeBankEn (s : State) (v : Nat) : State :=
  let t := writeFields s F.EMI_BANK_EN_EN.off [(F.EMI_BANK_EN_EN, .rwl)] v
  if s.mode.scanning then t else banksEnabledNow t

/-- The columns of EMI_COL_EN. -/
def enabledCols (s : State) : List Nat := (List.range 32).filter fun c => bit (s.get F.EMI_COL_EN) c

/-- The enabled cells of a bank, 32 times the row plus the column. -/
def bankCells (s : State) (b : Nat) : List Nat :=
  ((List.range 4).filter fun r => bit (s.get F.EMI_ROW_EN) (4 * b + r)).foldl
    (fun l r => l ++ (enabledCols s).map fun c => 32 * (4 * b + r) + c) []

/-- R364: RETRY of one bank; with no cell enabled there is none that could fail. -/
def retryBank (s : State) (b : Nat) : State :=
  if s.mode != .scan || !bankOut s b || !bit (s.get F.EMI_BANK_EN_EN) b || bit (s.get F.EMI_BANK_EN_RETRY) b then s
  else if (bankCells s b).isEmpty then setBank s b { bankAt s b with back := true }
  else
    let t := s.set F.EMI_BANK_EN_RETRY (setBit (s.get F.EMI_BANK_EN_RETRY) b)
    let u := { t with emi := { t.emi with retry := t.emi.retry ++ bankCells s b } }
    setBank u b { bankAt u b with due := some (slotTime s), depth := 0 }

/-- R364, R687: every bank that a write of RETRY bits names is withdrawn and enabled in EN; an access with another one is discarded
whole. -/
def retryOk (s : State) (w : Nat) : Bool :=
  (List.range 8).all fun b => !bit w b || (bankOut s b && bit (s.get F.EMI_BANK_EN_EN) b)

/-- R364: a write of RETRY bits. -/
def writeRetry (s : State) (w : Nat) : State :=
  if retryOk s w then (List.range 8).foldl (fun t b => if bit w b then retryBank t b else t) s else s

/-- R364, R365, R687: a write of EMI_BANK_EN with its RETRY bits. -/
def writeBankReg (s : State) (v : Nat) : State :=
  let w := F.EMI_BANK_EN_RETRY.of v
  if retryOk s w then writeRetry (writeBankEn s v) w else s

/-- R365: a bank enable write. -/
def execEmiBankEnWrite (value : Dword) (s : State) : Host.Outcome State Fault Refusal := .next (writeBankReg s value.toNat)

/-- R364: a write of 1 to RETRY bits. -/
def execEmiBankRetry (banks : Fin 256) (s : State) : Host.Outcome State Fault Refusal := .next (writeRetry s banks.val)

/-! ### Recharge -/

/-- Whether a withdrawn bank still has cells to test (R362). -/
def testsBank (s : State) (b : Nat) : Bool :=
  (s.emi.locate ++ s.emi.retry).any (fun c => c / 128 = b)
    || match s.sch.committed with
      | some x => (x.use == .locate || x.use == .retry) && x.row / 4 = b
      | none => false

/-- R349, R362: a recharge starts at the bank's phase mark. Nothing happens unless one is due; an inhibited emitter holds
every EBK low (R366). -/
def execRechargeStart (bank : Fin 8) (s : State) : Host.Outcome State Fault Refusal :=
  let b := bank.val
  let x := bankAt s b
  if !emiUp s || x.due.isNone || x.charging || x.range || s.flag F.EMI_STATUS_INHIBIT || (bankOut s b && !testsBank s b) then .next s
  else .next (setBank { s with pins := { s.pins with ebk := setBit s.pins.ebk b } } b { x with charging := true })

/-- RCH_EST: the longest of the last 64 recharges, or RCH_MAX until 64 have been made (R352). -/
def rchEst (s : State) (b : Nat) : Nat :=
  let l := (bankAt s b).rch
  if l.length < 64 then s.get F.EMI_DIAG_CFG_RCH_MAX else l.foldl max 0

/-- The bank's record after a recharge of a length in 10 ns and an energy in 0.1 uJ (R330, R333, R352). -/
def rechargedBank (now : Nat) (x : Bank) (dur energy : Nat) : Bank :=
  let per := List.replicate x.depth (12 * energy / max 1 x.depth)
  { x with charging := false, due := none, depth := 0, initial := false, range := false,
           rch := (dur :: x.rch).take 64, acc := x.acc + energy,
           pulses := (per ++ x.pulses).take 1024,
           recent := ((now, energy) :: x.recent).filter fun (e : Nat × Nat) => now < e.1 + 800000 }

/-- R350, R351: a recharge ends with EBKV at code v: at VSET, or by RCH_MAX below it. -/
def execRechargeEnd (bank : Fin 8) (v dur energy : Nat) (s : State) : Host.Outcome State Fault Refusal :=
  let b := bank.val
  let x := bankAt s b
  if !x.charging then .next s
  else
    let reached := s.get (F.EMI_BANK_CFG_VSET b) ≤ v
    let run := if reached then 0 else x.run + 1
    let t := ebkLow s b
    let t := setBank t b { rechargedBank s.sys.raw x dur energy with run := run }
    let t := endFault ((t.set (F.EMI_BANK_STAT_VLAST b) v).set (F.EMI_BANK_STAT_RCH_EST b) (rchEst t b)) 0x0902 b
    if 3 ≤ run then .next (withdrawBank t b 4) else .next t

/-- R328, R352, R362, R694: EBKV exceeds VOV, or leaves or regains its measurement range. A recharge that runs is ended by EBK
going low, and VLAST is the reading then (R350); above VOV EBK is held low, which ends the tests of a withdrawn bank. -/
def execBankOvervoltage (bank : Fin 8) (code : Nat) (s : State) : Host.Outcome State Fault Refusal :=
  let b := bank.val
  let x := bankAt s b
  let drop (s : State) : State := ebkLow (if x.charging then s.set (F.EMI_BANK_STAT_VLAST b) code else s) b
  if !emiUp s then .next s
  else if s.get (F.EMI_BANK_CFG_VOV b) < code then
    let t := drop s
    let t := if 0xFBF < code then raiseFault (setBank t b { bankAt t b with range := true }) 2 0x0902 b else t
    let t := if bankOut t b then dropTests (setBank t b { bankAt t b with due := none }) b else t
    .next (withdrawBank t b 5)
  else if 0xFBF < code || (code < 0x040 && !x.initial) then
    let t := drop s
    .next (raiseFault (setBank t b { bankAt t b with range := true }) 2 0x0902 b)
  else if code < 0x040 then .next s
  else .next (endFault (setBank s b { x with range := false }) 0x0902 b)

/-! ### Pulse current (R355 to R364) -/

/-- VLAST as the checks take it: VSET until the first recharge has ended (R694). -/
def vLast (s : State) (b : Nat) : Nat :=
  let v := s.get (F.EMI_BANK_STAT_VLAST b)
  if v = 0 then s.get (F.EMI_BANK_CFG_VSET b) else v

/-- One cell's expected current times VSET (R356). -/
def cellTimes (s : State) (b : Nat) : Nat := s.get (F.EMI_BANK_CELL_CELL_CODE b) * vLast s b

/-- Whether a pulse is seen for n columns (R355). -/
def pulseSeen (s : State) (b n i : Nat) : Bool := n * cellTimes s b ≤ 2 * i * s.get (F.EMI_BANK_CFG_VSET b)

/-- Whether a pulse mismatches for n columns (R357). -/
def pulseMismatch (s : State) (b n i : Nat) : Bool :=
  cellTimes s b < 2 * (Int.ofNat (i * s.get (F.EMI_BANK_CFG_VSET b)) - Int.ofNat (n * cellTimes s b)).natAbs

/-- R359: whether a cell alone is open (1) or shorted (2) at a current; 0 when it passes. -/
def cellKind (s : State) (b i : Nat) : Nat :=
  let c := cellTimes s b
  let v := 16 * i * s.get (F.EMI_BANK_CFG_VSET b)
  if v < s.get (F.EMI_BANK_CELL_OPEN_TH b) * c then 1
  else if (16 + s.get (F.EMI_BANK_CELL_SHORT_TH b)) * c < v then 2 else 0

/-- The finding of a single-cell shot from its pulses: open where one reads open, else shorted where one does. -/
def cellFinding (s : State) (b : Nat) (l : List Nat) : Nat :=
  if l.any fun i => cellKind s b i = 1 then 1 else if l.any fun i => cellKind s b i = 2 then 2 else 0

/-- EMI_CELL_FAULT keeps its first finding. -/
def reportCell (s : State) (cell kind : Nat) : State :=
  if s.flag F.EMI_CELL_FAULT_VALID then s
  else ((s.set F.EMI_CELL_FAULT_VALID 1).set F.EMI_CELL_FAULT_KIND kind).set F.EMI_CELL_FAULT_CELL cell

/-- R363: a locating pass over a row of a withdrawn bank; columns that are not fitted are never fired (R344). Its first recharge
follows the shot just fired, whose last pulse ends at due (R362). -/
def startLocate (s : State) (row : Nat) (due : Option Nat) : State :=
  let b := row / 4
  let t := { s with emi := { s.emi with locate := s.emi.locate ++ (enabledCols s).map fun c => 32 * row + c } }
  setBank t b { bankAt t b with due := some (due.getD (slotTime s)), depth := 0, found := false }

/-- The run of mismatching shots of a row (R358). -/
def rowRun (s : State) (row : Nat) : Nat :=
  match s.emi.rowRun.find? (fun (e : Nat × Nat) => e.1 == row) with
  | some e => e.2
  | none => 0

/-- The run of a row takes a value. -/
def setRowRun (s : State) (row n : Nat) : State :=
  let l := s.emi.rowRun.filter fun (e : Nat × Nat) => e.1 != row
  { s with emi := { s.emi with rowRun := if n = 0 then l else l ++ [(row, n)] } }

/-- R357, R358: a fired shot of a row with n columns is checked. -/
def checkRow (s : State) (row n : Nat) (l : List Nat) : State :=
  let b := row / 4
  if l.any (pulseMismatch s b n) then
    let t := s.inc F.EMI_CNT_MISMATCH
    if 2 ≤ rowRun s row then
      let u := setRowRun t row 0
      if bankOut u b then u else startLocate (withdrawBank u b 1) row (bankAt u b).due
    else setRowRun t row (rowRun s row + 1)
  else setRowRun s row 0

/-- RETRY of a bank ends (R364). -/
def endRetry (s : State) (b : Nat) (pass : Bool) : State :=
  let t := s.set F.EMI_BANK_EN_RETRY (clearBit (s.get F.EMI_BANK_EN_RETRY) b)
  let u := { t with emi := { t.emi with retry := t.emi.retry.filter fun c => c / 128 != b } }
  setBank u b { bankAt u b with back := pass }

/-- R359 to R364: a single-cell shot has fired; l holds its pulses' currents. A locating pass goes on over its row and reports
its first finding. -/
def judgeCell (s : State) (use : Use) (cell : Nat) (l : List Nat) : State :=
  let b := cell / 128
  let k := cellFinding s b l
  match use with
  | .sweep =>
    if k = 0 then s else withdrawBank (reportCell s cell k) b (k + 1)
  | .locate =>
    if k = 0 || (bankAt s b).found then s else setBank (reportCell s cell k) b { bankAt s b with found := true }
  | .retry =>
    if k != 0 then endRetry s b false
    else if s.emi.retry.any (fun c => c / 128 = b) then s
    else endRetry s b true
  | _ => s

/-- The cells that the sweep still has to test: none while SWEEP_EN is 0, and none of a bank, row or column out of service
(R344, R359, R361). -/
def sweepLeft (s : State) : List Nat :=
  if s.flag F.EMI_CTRL_SWEEP_EN then
    s.emi.sweep.filter fun c => !bankOut s (c / 128) && bit (s.get F.EMI_ROW_EN) (c / 32) && bit (s.get F.EMI_COL_EN) (c % 32)
  else []

/-- R359: a sweep is complete once every cell of it has been tested or is out of service. -/
def endSweep (s : State) : State :=
  let fires := match s.sch.committed with
    | some x => x.use == .sweep
    | none => false
  if s.emi.sweeping && s.flag F.EMI_CTRL_SWEEP_EN && (sweepLeft s).isEmpty && !fires then
    { s.inc F.EMI_CNT_SWEEP with emi := { s.emi with sweep := [], sweeping := false } }
  else s

/-- R359, R360: a sweep period starts; one that ends with SWEEP_EN at 0 had no sweep. -/
def execSweepPeriod (s : State) : Host.Outcome State Fault Refusal :=
  if !emiUp s then .next s
  else if !s.flag F.EMI_CTRL_SWEEP_EN then .next { s with emi := { s.emi with sweep := [], sweeping := false } }
  else if s.emi.sweeping then
    .next (raiseFault (s.set F.EMI_STATUS_SWEEP_LATE 1) 0 0x0A05 0)
  else
    let cells := ((List.range 8).filter fun b => !bankOut s b).foldl (fun l b => l ++ bankCells s b) []
    .next { s with emi := { s.emi with sweep := cells, sweeping := !cells.isEmpty } }

/-! ### Inhibition -/

/-- Whether nothing may fire: INHIBIT, or cleared and waiting for the boundary (R367). -/
def inhibited (s : State) : Bool := s.flag F.EMI_STATUS_INHIBIT || s.emi.clearing

/-- The emitter balls go low (R366). -/
def emitterLow (s : State) : State :=
  let t := (List.range 8).foldl ebkCut s
  { t with pins := { t.pins with erow := 0, ecol := 0, pre := 0, pulses := [], ebk := 0 } }

/-- R366: stray current on a bank inhibits the emitter. -/
def strayInhibit (s : State) (b : Nat) : State := raiseFault (inhibitEmitter (emitterLow s) 2) 2 0x0A02 b

/-- R366: a current on EPS of a bank, in codes, is above a quarter of one cell's. -/
def strays (s : State) (b current : Nat) : Bool := s.get (F.EMI_BANK_CELL_CELL_CODE b) < 4 * current

/-- R366, R367: the current on EPS of a bank, in codes, outside the interval of a shot. -/
def execStrayCurrent (bank : Fin 8) (current : Nat) (s : State) : Host.Outcome State Fault Refusal :=
  let above := emiUp s && strays s bank.val current
  let t := { s with emi := { s.emi with stray := if above then setBit s.emi.stray bank.val else clearBit s.emi.stray bank.val } }
  if above then .next (strayInhibit t bank.val) else .next t

/-- R367: INHIBIT is written 1. -/
def clearInhibit (s : State) : State :=
  if !s.flag F.EMI_STATUS_INHIBIT then s
  else
    let t := (s.set F.EMI_STATUS_INHIBIT 0).set F.EMI_STATUS_CAUSE 0
    let u := (List.range 8).foldl (fun t b => endFault t 0x0A02 b) (endFault t 0x0602 0)
    { u with emi := { u.emi with clearing := true } }

/-- R367: a write of 1 to INHIBIT. -/
def execEmiInhibitClear (s : State) : Host.Outcome State Fault Refusal := .next (clearInhibit s)

/-- The boundary's part for the emitter: banks return (R364), enables take effect (R365), firing resumes, or the emitter
is inhibited again while the stray current lasts (R367). -/
def emitterAtBoundary (s : State) : State :=
  let t := banksEnabledNow s
  let t := (List.range 8).foldl (fun (t : State) b => if (bankAt t b).back then returnBank t b else t) t
  if t.emi.clearing then
    let u := { t with emi := { t.emi with clearing := false } }
    (List.range 8).foldl (fun (v : State) b => if bit u.emi.stray b then strayInhibit v b else v) u
  else t

/-! ### Lamp-board temperature (R368, R369) -/

/-- Scale of the fixed-point logarithm. -/
def lnOne : Nat := 2 ^ 96

/-- The series z + z^3/3 + z^5/5 + ...; p is the present power of z, z2 its square, all times lnOne. -/
def atanhSum (z2 : Nat) : Nat → Nat → Nat → Nat
  | 0, _, _ => 0
  | n + 1, k, p => p / k + atanhSum z2 n (k + 2) (p * z2 / lnOne)

/-- ln of a number between 1 and 2, both times lnOne. -/
def lnSmall (m : Nat) : Nat :=
  let z := (m - lnOne) * lnOne / (m + lnOne)
  2 * atanhSum (z * z / lnOne) 40 1 z

/-- ln (a / b) times lnOne, for a and b above 0. -/
def lnRatio (a b : Nat) : Int :=
  let ln (n : Nat) : Nat := n.log2 * lnSmall (2 * lnOne) + lnSmall (n * lnOne / 2 ^ n.log2)
  Int.ofNat (ln a) - Int.ofNat (ln b)

/-- R368: the temperature of a mean code in 1/16 degree C; none where the formula gives no number that TEMP can hold. -/
def lbtTemp (r0 beta c : Nat) : Option Int :=
  if r0 = 0 || beta = 0 then none
  else
  let l := lnRatio (1024 * c) ((4096 - c) * r0)
  let den := Int.ofNat (100 * beta * lnOne) + 29815 * l
  if den ≤ 0 then none
  else
    let t := divRoundInt (16 * (Int.ofNat (29815 * beta * lnOne * 100) - 27315 * den)) (100 * den.toNat)
    if -32768 ≤ t && t ≤ 32767 then some t else none

/-- Whether LBT k is configured (R369). -/
def lbtConfigured (s : State) (k : Nat) : Bool := s.get (F.EMI_LBT_CFG_R0_RATIO k) != 0 && s.get (F.EMI_LBT_CFG_BETA k) != 0

/-- f_FL as numerator over denominator, limited to 0 to 1 (R371). -/
def flDerate (s : State) : Nat × Nat :=
  let off := s.getInt F.EMI_FL_TEMP_FL_TOFF
  let d := off - s.getInt F.EMI_FL_TEMP_FL_TLIM
  let n := off - s.getInt (F.EMI_LBT_TEMP 1)
  if d ≤ 0 then (1, 1) else ((clampInt 0 d n).toNat, d.toNat)

/-- R374: the floodlight is switched off: string, and cause 1 open, 2 over-current, 3 LBT1 invalid. -/
def floodOff (s : State) (n cause : Nat) : State :=
  let off (x : FlString) : FlString := { x with on := false, diag := false, pulse := false, fails := 0 }
  let t := { s with pins := { s.pins with fls := 0 }, emi := { s.emi with flOff := true, strings := s.emi.strings.map off } }
  raiseFault (((t.set F.EMI_FL_STAT_FAULT 1).set F.EMI_FL_STAT_CAUSE cause).set F.EMI_FL_STAT_STRING n) 2 0x0A03 (n + 4 * cause)

/-- LBT k is invalid (R332, R369, R374); which string an invalid LBT1 names is open. -/
def lbtInvalid (s : State) (k : Nat) : State :=
  let was := s.flag (F.EMI_LBT_VALID k)
  let t := s.set (F.EMI_LBT_VALID k) 0
  if k = 0 then if faultActive t 0x0901 0 then t else raiseFault t 2 0x0901 0
  else if was then
    let (n, u) := t.takeFree 2
    floodOff u n 3
  else t

/-- R369: an input is valid once 16 valid means have come in a row and while neither field of its EMI_LBT_CFG is 0. -/
def lbtJudge (s : State) (k : Nat) : State :=
  if s.emi.lbtRun.getD k 16 = 0 && lbtConfigured s k then
    let t := s.set (F.EMI_LBT_VALID k) 1
    if k = 0 then endFault t 0x0901 0 else t
  else if s.flag (F.EMI_LBT_VALID k) then lbtInvalid s k
  else s

/-- R332, R369: EMI_LBT_CFG of an input has been written. -/
def lbtConfigWritten (s : State) (k : Nat) : State := if emiUp s then lbtJudge s k else s

/-- A valid mean code of LBT k: TEMP follows, and VALID returns after 16 in a row (R369); f_FL follows LBT1 (R371). -/
def lbtGood (s : State) (k w : Nat) : State :=
  let run := (s.emi.lbtRun.getD k 16) - 1
  let u := lbtJudge { s.set (F.EMI_LBT_TEMP k) w with emi := { s.emi with lbtRun := putAt s.emi.lbtRun k 16 run } } k
  if k = 0 then u else u.set F.EMI_FL_STAT_F_FL (divRound (16 * (flDerate u).1) (flDerate u).2)

/-- A valid mean code with the temperature of the formula; a free value where it gives none (log entry 5). -/
def lbtStore (s : State) (k : Nat) (temp : Option Int) : State :=
  match temp with
  | some x => lbtGood s k (toBits 16 x)
  | none => lbtGood (s.takeFree 16).2 k (s.takeFree 16).1

/-- The mean code of 16 samples (R368, R686). -/
def lbtMeanCode (samples : List Nat) : Nat := divRound (samples.foldl (· + ·) 0) 16

/-- R368, R369: the 16 samples of an LBT input are averaged. A temperature that the formula does not give, or that TEMP cannot
hold, is free. -/
def execLbtMean (input : Fin 2) (samples : List Nat) (s : State) : Host.Outcome State Fault Refusal :=
  let k := input.val
  let code := lbtMeanCode samples
  let t := s.set (F.EMI_LBT_CODE k) code
  if !emiUp s then .next s
  else if code < 0x010 || 0xFF0 < code then
    .next (lbtInvalid { t with emi := { t.emi with lbtRun := putAt t.emi.lbtRun k 16 16 } } k)
  else .next (lbtStore t k (lbtTemp (s.get (F.EMI_LBT_CFG_R0_RATIO k)) (s.get (F.EMI_LBT_CFG_BETA k)) code))

/-! ### Heat model (R330 to R332) -/

/-- T_LBT0 as the heat model takes it, in 1/16 degree C (R332). -/
def lampTemp (s : State) : Int :=
  if s.flag (F.EMI_LBT_VALID 0) then s.getInt (F.EMI_LBT_TEMP 0) else s.getInt F.SCH_LBT_DEFAULT

/-- One millisecond of a bank's model: the energy is in 0.1 uJ, so the power is in 0.1 mW, and RTH in 0.01 K/W (R330). -/
def heatStep (s : State) (b : Nat) (x : Bank) : Frac :=
  let tau := max 1 (s.get (F.SCH_HEAT_CFG_TAU b))
  let p : Frac := { num := Int.ofNat (x.acc * s.get (F.SCH_HEAT_CFG_RTH b)), den := 1000000 * tau }
  (Frac.add { num := x.dT.num * Int.ofNat (tau - 1), den := x.dT.den * tau } p).reduce

/-- T_b in 1/16 degree C as a fraction. -/
def bankTemp (s : State) (dT : Frac) : Frac := { num := 16 * dT.num + lampTemp s * Int.ofNat dT.den, den := dT.den }

/-- f_b in 1/16 (R331). -/
def bankDerate (s : State) (dT : Frac) : Nat :=
  let t := bankTemp s dT
  let n := s.getInt F.SCH_HEAT_LIM_T_LIMIT * Int.ofNat t.den - t.num
  (clampInt 0 16 ((16 * n) / Int.ofNat (s.get F.SCH_HEAT_LIM_T_MARGIN * t.den))).toNat

/-- R330, R331: each bank's model takes one step. A T_b beyond T_MODEL's range is held at its limit (log entry 16). -/
def execHeatModelTick (s : State) : Host.Outcome State Fault Refusal :=
  if !hgeUp s then .next s
  else .next ((List.range 8).foldl (fun (t : State) b =>
    let x := bankAt t b
    let d := heatStep s b x
    let m := bankTemp s d
    let u := setBank t b { x with dT := d, acc := 0 }
    (u.set (F.SCH_BANK_STAT_F b) (bankDerate s d)).setInt (F.SCH_BANK_STAT_T_MODEL b)
      (clampInt (-32768) 32767 (divRoundInt m.num m.den))) s)

/-! ### Floodlight -/

/-- A string at rest. -/
def restString : FlString := { duty := 0, fails := 0, diag := false, pulse := false, on := false }

/-- The record of string n. -/
def stringAt (s : State) (n : Nat) : FlString := s.emi.strings.getD n restString

/-- String n takes a record, and its ball follows it. -/
def setString (s : State) (n : Nat) (x : FlString) : State :=
  { s with emi := { s.emi with strings := putAt s.emi.strings n restString x },
           pins := { s.pins with fls := if x.on then setBit s.pins.fls n else clearBit s.pins.fls n } }

/-- R370, R375: a write of the floodlight control; EN written 1 with FAULT clear ends a switch-off. -/
def writeFlCtrl (s : State) (v : Nat) : State :=
  let t := ((s.put F.EMI_FL_CTRL_DIAG_EN (bit v 4)).set F.EMI_FL_CTRL_FREQ (bits v 2 2)).put F.EMI_FL_CTRL_EN (bit v 0)
  if bit v 0 then
    if s.emi.flOff && !s.flag F.EMI_FL_STAT_FAULT then
      let u := { t with emi := { t.emi with flOff := false, flWait := true } }
      { u with faults := u.faults.map fun (r : FaultRec) => if r.code = 0x0A03 then { r with active := false } else r }
    else t
  else (List.range 4).foldl (fun t n => setString t n { stringAt t n with on := false, pulse := false }) t

/-- R375: a write of the floodlight control. -/
def execEmiFlCtrlWrite (value : Dword) (s : State) : Host.Outcome State Fault Refusal := .next (writeFlCtrl s value.toNat)

/-- R370, R687: a duty above 1,000 is discarded. -/
def writeFlDuty (s : State) (n v : Nat) : State :=
  let d := (F.EMI_FL_DUTY n).of v
  if 1000 < d then s else s.set (F.EMI_FL_DUTY n) d

/-- R370: a write of a string's duty. -/
def execEmiFlDutyWrite (string : Fin 4) (value : Dword) (s : State) : Host.Outcome State Fault Refusal :=
  .next (writeFlDuty s string.val value.toNat)

/-- R370, R371, R373, R375: a string's on-time starts, or ends; that of string 0 starts the period. -/
def execFloodOnTime (string : Fin 4) (start : Bool) (s : State) : Host.Outcome State Fault Refusal :=
  let n := string.val
  let s0 := if n = 0 && start then { s with emi := { s.emi with flFreq := s.get F.EMI_FL_CTRL_FREQ, flWait := false } } else s
  let x := stringAt s0 n
  if start then
    let (a, b) := flDerate s0
    let d := s0.get (F.EMI_FL_DUTY n) * a / b
    if emiUp s0 && s0.flag F.EMI_FL_CTRL_EN && !s0.emi.flOff && !s0.emi.flWait && d != 0 then
      .next (setString s0 n { x with duty := d, on := true, pulse := x.diag, diag := false })
    else .next (setString s0 n { x with duty := d, on := false, pulse := false })
  else if x.on then .next (setString s0 n { x with on := false, pulse := false }) else .next s0

/-- Length of a string's on-time in ns (R370, R373). -/
def onTimeNs (s : State) (x : FlString) : Nat := if x.pulse then 2000 else x.duty * (4000 / 2 ^ s.emi.flFreq)

/-- R372 to R374: a string's current is sampled; over-current in it switches off too. -/
def execFloodOpenCheck (string : Fin 4) (sample : Nat) (s : State) : Host.Outcome State Fault Refusal :=
  let n := string.val
  let x := stringAt s n
  if !x.on then .next s
  else if s.get F.EMI_FL_LIM_OVER_TH < sample then .next (floodOff s n 2)
  else if onTimeNs s x < 2000 then .next s
  else if s.get F.EMI_FL_LIM_OPEN_TH ≤ sample then
    let t := s.set F.EMI_FL_STAT_UNVERIFIED (clearBit (s.get F.EMI_FL_STAT_UNVERIFIED) n)
    .next (endFault (setString t n { x with fails := 0 }) 0x0A04 n)
  else if 1 ≤ x.fails then .next (floodOff s n 1)
  else .next (setString s n { x with fails := x.fails + 1 })

/-- R373: a string with an applied duty above 0 has had no check for 100 ms. -/
def execFloodDiagTimeout (string : Fin 4) (s : State) : Host.Outcome State Fault Refusal :=
  let n := string.val
  let x := stringAt s n
  if x.duty = 0 || !s.flag F.EMI_FL_CTRL_EN || s.emi.flOff || !emiUp s then .next s
  else if s.flag F.EMI_FL_CTRL_DIAG_EN then .next (setString s n { x with diag := true })
  else .next (raiseFault (s.set F.EMI_FL_STAT_UNVERIFIED (setBit (s.get F.EMI_FL_STAT_UNVERIFIED) n)) 0 0x0A04 n)

/-- R374: a sample of a string's current outside its check; above OVER_TH it switches the floodlight off. -/
def execFloodSwitchOff (string : Fin 4) (sample : Nat) (s : State) : Host.Outcome State Fault Refusal :=
  if emiUp s && s.get F.EMI_FL_LIM_OVER_TH < sample then .next (floodOff s string.val 2) else .next s

end Sys2Proof.Machine
end

