-- ==== Sys2Proof/Machine/Yard.lean ====
section
/-! DEFINITION. The yard: stalls, tiers, placement, eviction and moves (chapter 09). -/

namespace Sys2Proof.Machine

/-! ### Capacities -/

/-- Physical loft stalls that stalls can use: the map holds 760 to 767 while the near yard is disabled (R279). -/
def loftCap (s : State) : Nat := if s.flag F.YRD_CAP_NEAR_OFF then 760 else 768

/-- Stalls of the near yard that hold the map (R277). -/
def mapStalls (s : State) : Nat := 2 ^ (s.get F.YRD_CAP_MAP_LOG2_NOW - 13)

/-- Near-yard stalls outside the map. -/
def nearCap (s : State) : Nat := if s.flag F.YRD_CAP_NEAR_OFF then 0 else s.get F.YRD_CAP_NEAR_STALLS - mapStalls s

/-- Whether window w takes cell stalls: granted, PAGE class, not draining and not failed (R293, R294, R296). -/
def pageWindow (s : State) (w : Nat) : Bool :=
  s.flag (F.YRD_GRANT_STAT_VALID w) && !s.flag (F.YRD_GRANT_STAT_DRAINING w) && !s.flag (F.YRD_GRANT_STAT_FAILED w)
    && bit (s.get (F.YRD_GRANT_STAT_CLASS w)) 0

/-- Whether window w takes recorder stalls. -/
def recordWindow (s : State) (w : Nat) : Bool :=
  s.flag (F.YRD_GRANT_STAT_VALID w) && !s.flag (F.YRD_GRANT_STAT_DRAINING w) && !s.flag (F.YRD_GRANT_STAT_FAILED w)
    && bit (s.get (F.YRD_GRANT_STAT_CLASS w)) 1

/-- Whether a place lies in a tier, and for the far yard in window w. -/
def Place.within (p : Place) (t : Tier) (w : Nat) : Bool := p.tier == t && (t != .far || p.window == w)

/-- Physical stalls taken in a tier (window w of the far yard), those that moves will fill and retired ones included. -/
def takenLocs (s : State) (t : Tier) (w : Nat) : List Nat :=
  (s.yrd.stalls.filter fun (x : Stall) => x.at_.within t w).map (fun (x : Stall) => x.at_.loc)
    ++ s.yrd.stalls.filterMap (fun (x : Stall) => match x.moving with
      | some p => if p.within t w then some p.loc else none
      | none => none)
    ++ (s.yrd.retired.filter fun (p : Place) => p.within t w).map (fun (p : Place) => p.loc)

/-- The lowest number from n on that a list does not hold, below a bound. -/
def firstFree (l : List Nat) (bound : Nat) : Nat → Nat → Option Nat
  | 0, _ => none
  | fuel + 1, n => if bound ≤ n then none else if l.contains n then firstFree l bound fuel (n + 1) else some n

/-- A free physical stall of a tier. -/
def freeLoc (s : State) (t : Tier) (w : Nat) : Option Nat :=
  let bound := match t with
    | .loft => loftCap s
    | .near => nearCap s
    | .far => s.get (F.YRD_GRANT_LEN w)
  let l := takenLocs s t w
  firstFree l bound (l.length + 1) 0

/-- A place for a stall in a tier; in the far yard in the lowest window that page says takes it. -/
def freePlace (s : State) (t : Tier) (page : State → Nat → Bool) : Option Place :=
  match t with
  | .far => (List.range 64).findSome? fun w =>
      if page s w then (freeLoc s .far w).map fun l => { tier := .far, loc := l, window := w } else none
  | t => (freeLoc s t 0).map fun l => { tier := t, loc := l, window := 0 }

/-- The lowest free stall number (R286). -/
def freeNum (s : State) : Option Nat :=
  let l := s.yrd.stalls.map fun (x : Stall) => x.num
  firstFree l (2 ^ s.get F.YRD_CAP_MAP_LOG2_NOW) (l.length + 1) 0

/-! ### Stalls -/

/-- Stall number n. -/
def stallAt (s : State) (n : Nat) : Option Stall := s.yrd.stalls.find? fun (x : Stall) => x.num == n

/-- A stall changes. -/
def updStall (s : State) (n : Nat) (f : Stall → Stall) : State :=
  { s with yrd := { s.yrd with stalls := s.yrd.stalls.map fun (x : Stall) => if x.num = n then f x else x } }

/-- A new stall that waits for another one's move has the place which that one is to leave. -/
def sharesPlace (s : State) (x : Stall) : Bool := x.waits.any fun n => (stallAt s n).any fun (y : Stall) => y.at_ == x.at_

/-- Stalls used in a tier as the USED counts show them, one for each physical stall; the loft counts the map (YRD_LOFT_USE). -/
def tierUsed (s : State) (t : Tier) : Nat :=
  (s.yrd.stalls.filter fun (x : Stall) => x.at_.tier == t && !sharesPlace s x).length
    + if t == .loft && s.flag F.YRD_CAP_NEAR_OFF then 8 else 0

/-- A stall no longer waits for the move of stall n. -/
def Stall.freed (n : Nat) (x : Stall) : Stall := if x.waits = some n then { x with waits := none } else x

/-- Stall n has left its place: nothing waits for it any more. -/
def leftPlace (s : State) (n : Nat) : State := { s with yrd := { s.yrd with stalls := s.yrd.stalls.map (Stall.freed n) } }

/-- A stall is given up. -/
def dropStall (s : State) (n : Nat) : State :=
  leftPlace { s with yrd := { s.yrd with stalls := s.yrd.stalls.filter fun (x : Stall) => x.num != n } } n

/-- A new stall at a free physical place of a tier (R286); one that waits for the move of another stall has that one's place where
there is no other (R287). -/
def newStall (s : State) (t : Tier) (owner size : Nat) (waits : Option Nat) : Option (Nat × State) :=
  let place := freePlace s t (if owner = 2 then recordWindow else pageWindow) <|> (waits.bind (stallAt s)).map fun (x : Stall) => x.at_
  match freeNum s, place with
  | some n, some p =>
    some (n, { s with yrd := { s.yrd with stalls := s.yrd.stalls ++
      [{ num := n, at_ := p, pinned := owner == 1, moving := none, owner := owner, size := size, used := [], frees := [],
         hot := false, acc := s.now, waits := waits }] } })
  | _, _ => none

/-- Cell slots of a stall of a slot size (R273). -/
def slotsOf (size : Nat) : Nat := 32 / 2 ^ size

/-- The better of two partial stalls: higher USED, then lower number (R286). -/
def fuller (a : Option Stall) (b : Stall) : Option Stall :=
  match a with
  | none => some b
  | some x => if x.used.length < b.used.length || (x.used.length = b.used.length && b.num < x.num) then some b else some x

/-- The fullest partial stall of a tier and a size (R286). -/
def fullestPartial (s : State) (t : Tier) (size : Nat) : Option Stall :=
  (s.yrd.stalls.filter fun (x : Stall) => x.at_.tier == t && x.owner = 0 && x.size = size
    && x.used.length < slotsOf size).foldl fuller none

/-! ### Eviction -/

/-- Whether a cell is served by a shot of its frame in the look-ahead, the committed one of the next slot included; the windows of a
listen slot serve no direction (R309). -/
def inLook (s : State) (c : Cell) : Bool :=
  (s.sch.look ++ s.sch.committed.toList).any fun (x : Shot) =>
    x.use != .listen && x.frame = c.frame && x.dir ≤ c.dir && c.dir < x.dir + 64 * popCount 16 x.cl

/-- Whether a stall may be evicted (R288); one that waits for the place it is to take is not there yet. -/
def evictable (s : State) (x : Stall) : Bool :=
  x.owner = 0 && x.moving.isNone && x.waits.isNone
    && !(s.hge.cells.any fun (c : Cell) => c.stall = x.num && (c.closed || inLook s c))

/-- The older of two stalls: oldest accumulation time, then lower number (R288). -/
def older (a : Option Stall) (b : Stall) : Option Stall :=
  match a with
  | none => some b
  | some x => if b.acc < x.acc || (b.acc = x.acc && b.num < x.num) then some b else some x

/-- The least recently accumulated stall of a tier that may be evicted. -/
def oldest (s : State) (t : Tier) : Option Stall :=
  (s.yrd.stalls.filter fun (x : Stall) => x.at_.tier == t && evictable s x).foldl older none

/-- The host address of a far-yard place (R293). -/
def farAddr (s : State) (p : Place) : Nat := 65536 * s.get (F.YRD_GRANT_BASE p.window) + 65536 * p.loc

/-- The counter of a move (YRD_CNT_EVICT, PAGEOUT, PAGEIN, PROMOTE). -/
def countMove (s : State) (a b : Tier) : State :=
  match a, b with
  | .loft, .near => s.inc F.YRD_CNT_EVICT
  | .near, .far => s.inc F.YRD_CNT_PAGEOUT
  | .far, .near => s.inc F.YRD_CNT_PAGEIN
  | .near, .loft => s.inc F.YRD_CNT_PROMOTE
  | _, _ => s

/-- An access to the map entry of a stall goes through the translation cache of 256 sets of 16 ways: a hit, or a miss that
brings the entry in. The spec gives neither the set of an entry nor the entry that a miss replaces: the set is the low 8 bits of
the stall number, and the way replaced is free (R281; log entry 73). -/
def lookMap (s : State) (n : Nat) : State :=
  if s.yrd.cache.contains n then s.inc F.YRD_TLB_HIT
  else
    let t := s.inc F.YRD_TLB_MISS
    let mates := t.yrd.cache.filter fun k => k % 256 = n % 256
    if mates.length < 16 then { t with yrd := { t.yrd with cache := n :: t.yrd.cache } }
    else
      let (w, u) := t.takeFree 4
      { u with yrd := { u.yrd with cache := n :: u.yrd.cache.erase (mates.getD w 0) } }

/-- Slots of a stall that are left when its move ends: those freed meanwhile are freed now (R290). -/
def Stall.left (x : Stall) : List Nat := x.used.filter fun k => !x.frees.contains k

/-- A stall has arrived at its new place (R286, R290): one map update, slots freed meanwhile are freed, arrival counts as
accumulation, and what waited for its old place goes on. A stall left without slots is given up (R291). -/
def arrive (s : State) (x : Stall) (p : Place) : State :=
  let t := lookMap (countMove s x.at_.tier p.tier) x.num
  if x.owner = 0 && x.left.isEmpty then dropStall t x.num
  else leftPlace (updStall t x.num fun y =>
    { y with at_ := p, moving := none, used := x.left, frees := [], hot := false, acc := s.now }) x.num

/-- A move of a stall to a place begins (R281, R290). -/
def startMove (s : State) (n : Nat) (p : Place) : State := updStall (lookMap s n) n fun x => { x with moving := some p }

/-- A move that cannot end where it was to go ends where the stall is (log entry 46). What moves to its place stays too, and a new
stall that waits for it waits on only where it has no place of its own. Fuel is how deep moves can wait for each other. -/
def cancelMove : Nat → State → Nat → State
  | 0, s, _ => s
  | fuel + 1, s, n => match stallAt s n with
    | none => s
    | some x =>
      if x.owner = 0 && x.left.isEmpty then dropStall s n
      else
        let t := updStall s n fun y => { y with moving := none, used := x.left, frees := [], waits := none }
        t.yrd.stalls.foldl (fun (u : State) (y : Stall) =>
          if y.waits != some n then u
          else if y.moving.isSome then cancelMove fuel u y.num
          else if y.at_ == x.at_ then u
          else updStall u y.num (Stall.freed n)) t

/-- Where cell stalls may be evicted to from a tier; the far yard only with FAR_PAGE_EN. -/
def evictPlace (s : State) (t : Tier) : Option Place :=
  match t with
  | .loft => freePlace s .near pageWindow
  | _ => if s.flag F.YRD_CTRL_FAR_PAGE_EN then freePlace s .far pageWindow else none

/-- Evict one loft stall to the near yard, into a free stall or into that of a near-yard stall that is evicted to the far yard first,
for a placement that waits for it (R286, R287). The result is the stall evicted, if any, and the new state. -/
def evictLoft (s : State) : Option Nat × State :=
  match oldest s .loft with
  | none => (none, s)
  | some v => match evictPlace s .loft with
    | some p => (some v.num, (startMove s v.num p).inc F.YRD_CNT_SYNC)
    | none => match oldest s .near, evictPlace s .near with
      | some u, some p =>
        let t := startMove (startMove s u.num p) v.num u.at_
        (some v.num, (updStall t v.num fun y => { y with waits := some u.num }).inc F.YRD_CNT_SYNC)
      | _, _ => (none, s)

/-- While the loft holds LOFT_HWM stalls, a new loft stall waits for a synchronous eviction (R287). -/
def syncEvict (s : State) : Option Nat × State :=
  if s.get F.YRD_LOFT_WM_LOFT_HWM ≤ tierUsed s .loft then evictLoft s else (none, s)

/-! ### Placement -/

/-- Take the lowest free slot of a stall. -/
def takeSlot (s : State) (x : Stall) : Option (Nat × Nat × State) :=
  (firstFree x.used (slotsOf x.size) (x.used.length + 1) 0).map fun k =>
    (x.num, k, updStall (lookMap s x.num) x.num fun y => { y with used := y.used ++ [k], acc := s.now })

/-- Take a slot in a new stall of a tier. -/
def takeNew (s : State) (t : Tier) (size : Nat) (waits : Option Nat) : Option (Nat × Nat × State) :=
  match newStall s t 0 size waits with
  | some (n, u) => match stallAt u n with
    | some x => takeSlot u x
    | none => none
  | none => none

/-- R286: place a cell of a slot size; none is the refusal of R234. The result is stall, slot and the new state. -/
def placeCell (s : State) (size : Nat) : Option (Nat × Nat × State) :=
  match fullestPartial s .loft size with
  | some x => takeSlot s x
  | none =>
    let (w, t) := syncEvict s
    match takeNew t .loft size w with
    | some r => some r
    | none => match fullestPartial t .near size with
      | some x => takeSlot t x
      | none => takeNew t .near size none

/-- Promotion is on: PROMOTE_EN with fewer loft stalls used than LOFT_LWM (R289). -/
def promotes (s : State) : Bool := s.flag F.YRD_CTRL_PROMOTE_EN && tierUsed s .loft < s.get F.YRD_LOFT_WM_LOFT_LWM

/-- A bin update of a stall: its entry is looked up, its accumulation time is now, and a near-yard stall is to be promoted
while promotion is on (R281, R289). -/
def touchStall (s : State) (n : Nat) : State :=
  let on := promotes s
  updStall (lookMap s n) n fun x => { x with acc := s.now, hot := x.hot || (on && x.at_.tier == .near) }

/-- A stall is in the far yard or on its way there. -/
def Stall.far (x : Stall) : Bool := x.at_.tier == .far || x.moving.any fun (p : Place) => p.tier == .far

/-- A stall has its place: it is no new one that waits for a synchronous eviction. -/
def Stall.placed (x : Stall) : Bool := x.moving.isSome || x.waits.isNone

/-- Whether a stall lies in the loft or the near yard and stays there (R276, R285, R297): it does not move to the far yard. -/
def stallNear (s : State) (n : Nat) : Bool :=
  match stallAt s n with
  | some x => !x.far && x.placed
  | none => false

/-- Whether a stall lies in the loft or the near yard and is not moving (R276, R290). -/
def stallReady (s : State) (n : Nat) : Bool :=
  match stallAt s n with
  | some x => x.at_.tier != .far && x.moving.isNone && x.placed
  | none => false

/-! ### Moves -/

/-- A stall that is or will be in the far yard is to be fetched (R297); it waits in order of arrival (R292). -/
def askFetch (s : State) (n : Nat) : State :=
  if !((stallAt s n).any Stall.far) || s.yrd.fetches.contains n then s
  else { s with yrd := { s.yrd with fetches := s.yrd.fetches ++ [n] } }

/-- Stalls of a tier that are on their way to another one. -/
def leaving (s : State) (t : Tier) : Nat :=
  (s.yrd.stalls.filter fun (x : Stall) => x.at_.tier == t && x.moving.any fun (p : Place) => p.tier != t).length

/-- Near-yard stalls on their way out whose places no synchronous eviction waits for. -/
def makingRoom (s : State) : Nat :=
  leaving s .near - (s.yrd.stalls.filter fun (x : Stall) => x.waits.isSome && x.moving.isSome).length

/-- R297: near-yard stalls start to move to the far yard until each fetch that waits has one. Fuel is the number of fetches. -/
def makeRoom : Nat → State → State
  | 0, s => s
  | fuel + 1, s =>
    if s.yrd.fetches.length ≤ makingRoom s then s
    else match oldest s .near, evictPlace s .near with
      | some v, some p => makeRoom fuel (startMove s v.num p)
      | _, _ => s

/-- R292, R297: the fetches that wait start in order of arrival while the near yard has a free stall; one whose stall is gone or
back is dropped, and behind one whose stall still moves out the others wait. -/
def startFetches : Nat → State → State
  | 0, s => s
  | fuel + 1, s => match s.yrd.fetches with
    | [] => s
    | n :: r =>
      let t := { s with yrd := { s.yrd with fetches := r } }
      match stallAt s n with
      | none => startFetches fuel t
      | some x =>
        if !x.far || x.moving.any (fun (p : Place) => p.tier != .far) then startFetches fuel t
        else if x.moving.isSome then s
        else match freePlace s .near pageWindow with
          | some p => startFetches fuel (startMove t n p)
          | none => s

/-- The look-ahead work that waits goes before everything else that needs a free near-yard stall (R289, R292). -/
def serveFetches (s : State) : State :=
  let t := startFetches s.yrd.fetches.length s
  makeRoom t.yrd.fetches.length t

/-- R291: a cell slot is freed; in a moving stall the freeing waits (R290). What the stall leaves free goes to the fetches that wait
(R292). -/
def freeSlot (s : State) (n k : Nat) : State :=
  match stallAt s n with
  | none => s
  | some x =>
    if x.moving.isSome then updStall s n fun y => { y with frees := y.frees ++ [k] }
    else
      let used := x.used.filter (· != k)
      if used.isEmpty then serveFetches (dropStall s n) else updStall s n fun y => { y with used := used }

/-- R294, R296, R299: moves under way into places that take no new stall go elsewhere, or end where the stalls are. -/
def divert (s : State) (bad : Place → Bool) : State :=
  let other (t : State) (x : Stall) (p : Place) : Option Place :=
    if p.tier == .far && x.at_.tier != .far then freePlace t .far pageWindow
    else if x.at_.tier == .far then freePlace t .near pageWindow <|> freePlace t .far pageWindow
    else freePlace t p.tier pageWindow
  s.yrd.stalls.foldl (fun (t : State) (x : Stall) => match x.moving with
    | some p =>
      if !bad p then t
      else match other t x p with
        | some q => updStall t x.num fun y => { y with moving := some q, waits := none }
        | none => cancelMove 3 t x.num
    | none => t) s

/-- R297: far-yard stalls that hold cells of these directions are fetched into the near yard. -/
def fetchFar (s : State) (serves : Nat → Bool) : State :=
  let nums := s.hge.cells.filterMap fun (c : Cell) => if serves c.dir then some c.stall else none
  serveFetches (nums.foldl askFetch s)

/-- R294: a draining window takes no stall, moves under way included, and its stalls move out: cell stalls to the near yard or to
other windows; recorder stalls whose recording is complete are given up. -/
def drainWindow (s : State) (w : Nat) (recording : Nat → Bool) : State :=
  let s := divert s fun p => p.within .far w
  s.yrd.stalls.foldl (fun (t : State) (x : Stall) =>
    if x.at_.within .far w then
      if x.owner = 2 then if recording x.num then t else dropStall t x.num
      else if x.moving.isSome then t
      else match freePlace t .near pageWindow with
        | some p => startMove t x.num p
        | none => match freePlace t .far pageWindow with
          | some p => startMove t x.num p
          | none => t
    else t) s

/-- The end of a stall's move (R290); a stall that leaves a draining window counts for its YARD_REVOKE (R294), and fetches
that wait take what has become free (R292). -/
def moveEnds (s : State) (x : Stall) (p : Place) : State :=
  let t := arrive s x p
  serveFetches (match t.yrd.revoke with
    | some (w, n) => if x.at_.within .far w then { t with yrd := { t.yrd with revoke := some (w, n + 1) } } else t
    | none => t)

/-- R289: the first background work that is due starts a move: loft stalls above LOFT_BG, near-yard stalls above NEAR_BG,
then promotion. Stalls on their way out count no longer. -/
def background (s : State) : State :=
  let toNear := match oldest s .loft, evictPlace s .loft with
    | some v, some p =>
      if s.get F.YRD_LOFT_WM_LOFT_BG < tierUsed s .loft - leaving s .loft then some (startMove s v.num p) else none
    | _, _ => none
  let toFar := match oldest s .near, evictPlace s .near with
    | some v, some p =>
      if s.get F.YRD_NEAR_WM < 100 && s.get F.YRD_NEAR_WM * nearCap s < 100 * (tierUsed s .near - leaving s .near) then
        some (startMove s v.num p) else none
    | _, _ => none
  let promote := match s.yrd.stalls.find? (fun (x : Stall) => x.hot && x.owner = 0 && x.at_.tier == .near && x.moving.isNone),
      freePlace s .loft pageWindow with
    | some x, some p => if promotes s then some (startMove s x.num p) else none
    | _, _ => none
  (toNear <|> (toFar <|> promote)).getD s

/-- R289, R292: background work runs once no look-ahead work waits. -/
def execBackgroundWork (s : State) : Host.Outcome State Fault Refusal :=
  let t := serveFetches s
  .next (if t.yrd.fetches.isEmpty then background t else t)

/-! ### Cells of stalls that are lost -/

/-- The number of no stall: that of cells and records whose stall is lost. -/
def noStall : Nat := 2 ^ 25

/-- Records that are held with the slots of stall n hold them no more. -/
def unheld (n : Nat) : Item → Item
  | .recs f l (some (a, k)) => .recs f l (if a = n then none else some (a, k))
  | x => x

/-- A stall is lost with what it held: its open cells are closed without detection and open no second cell, and what is left of them
is the directions they served and their frames (R230, R298, R299). A cell that waits for detection and records that are held
have been read from the stall (log entry 74). -/
def loseCells (s : State) (n : Nat) : State × List (Nat × Nat) :=
  let mine (c : Cell) : Bool := c.stall == n && !c.closed
  let l := (s.hge.cells.filter mine).map fun (c : Cell) => (c.dir, c.frame)
  ({ s with hge := { s.hge with
      cells := (s.hge.cells.filter fun c => !mine c).map fun (c : Cell) => if c.stall = n then { c with stall := noStall } else c,
      rings := s.hge.rings.map fun (r : PointRing) => { r with queue := r.queue.map (unheld n) },
      lost := s.hge.lost ++ l, waiting := s.hge.waiting.filter fun (e : Late) => e.stall != n } }, l)

/-- R299: an uncorrectable error in a cell stall: its cells are lost, the fault is logged, the physical stall is retired, and what
was to move there goes elsewhere. -/
def retireStall (s : State) (x : Stall) : State × List (Nat × Nat) :=
  let (t, l) := loseCells s x.num
  let u := (dropStall t x.num).inc F.YRD_ECC_UNCORR
  let v := match x.at_.tier with
    | .loft => (u.inc F.YRD_RETIRED_LOFT)
    | .near => (u.inc F.YRD_RETIRED_NEAR)
    | .far => u
  let w := { v with yrd := { v.yrd with retired := v.yrd.retired ++ [x.at_] } }
  (raiseFault (divert w fun p => p == x.at_) 0 0x0803 x.num, l)

/-- A window's registers return to their values without a grant, and its physical stalls are gone. -/
def clearWindow (s : State) (w : Nat) : State :=
  let s := { s with yrd := { s.yrd with retired := s.yrd.retired.filter fun (p : Place) => !p.within .far w } }
  [F.YRD_GRANT_STAT_VALID, F.YRD_GRANT_STAT_DRAINING, F.YRD_GRANT_STAT_FAILED, F.YRD_GRANT_STAT_CLASS, F.YRD_GRANT_LEN,
    F.YRD_GRANT_BASE].foldl (fun t f => t.set (f w) 0) s

/-- R298: every far window is withdrawn at once and the open cells held there are lost. -/
def withdrawFar (s : State) : State × List (Nat × Nat) :=
  let far := s.yrd.stalls.filter fun (x : Stall) => x.at_.tier == .far
  let any := (List.range 64).any fun w => s.flag (F.YRD_GRANT_STAT_VALID w)
  let t := (List.range 64).foldl (fun t w => if t.flag (F.YRD_GRANT_STAT_VALID w) then endFault (clearWindow t w) 0x0802 w else t) s
  let (u, l) := far.foldl (fun (a : State × List (Nat × Nat)) (x : Stall) =>
    let (v, m) := loseCells a.1 x.num
    (dropStall v x.num, a.2 ++ m)) (t, [])
  let v := divert u fun p => p.tier == .far
  let w := if any then v.set F.YRD_STATUS_FAR_GONE 1 else v
  let w := w.add F.YRD_FAR_LOST l.length
  match w.yrd.revoke with
  | some (_, n) => (finishRunning { w with yrd := { w.yrd with revoke := none } } 0x0301 St.done n, l)
  | none => (w, l)

/-! ### Requests of other owners, and the map -/

/-- Stalls available to cells (R300). -/
def availableStalls (s : State) : Nat :=
  let held (t : Tier) : Nat := (s.yrd.stalls.filter fun (x : Stall) => x.at_.tier == t && x.owner != 0).length
  (loftCap s - held .loft) + (nearCap s - held .near)

/-- A new stall of another owner in the tier asked for (R282): the thermal pipeline holds at most PIN_MAX_LOFT loft stalls, and what
it asks for beyond them is placed in the near yard (R283); a new loft stall waits for the synchronous eviction (R287). -/
def ownedStall (s : State) (t : Tier) (owner : Nat) : Option (Nat × State) :=
  let pinned := (s.yrd.stalls.filter fun (x : Stall) => x.owner = 1 && x.at_.tier == .loft).length
  if t == .loft && pinned < s.get F.YRD_PIN_CFG then let (w, u) := syncEvict s; newStall u .loft owner 0 w
  else newStall s (if t == .loft then .near else t) owner 0 none

/-- R282, R283, R301: place n stalls for the thermal pipeline (owner 1) or the recorder (owner 2) in a tier; none when a request would
leave fewer stalls than the program in use needs, or finds no room. Fetches that wait go first (R292). -/
def placeOwned (owner : Nat) (tier : Tier) : Nat → State → Option (List Nat × State)
  | 0, s => some ([], s)
  | n + 1, s =>
    match ownedStall (serveFetches s) tier owner with
    | some (k, t) =>
      if availableStalls t < t.yrd.need then none
      else (placeOwned owner tier n t).map fun (l, u) => (k :: l, u)
    | none => none

/-- Give up stalls; the fetches that wait take what becomes free (R292). -/
def dropStalls (s : State) (l : List Nat) : State := serveFetches (l.foldl dropStall s)

/-- R278, R687: MAP_LOG2 takes a value of 15 to 25 while the yard holds no stall and no window is granted. -/
def writeMapCfg (s : State) (v : Nat) : State :=
  let m := F.YRD_MAP_CFG.of v
  if m < 15 || 25 < m || !s.yrd.stalls.isEmpty || (List.range 64).any (fun w => s.flag (F.YRD_GRANT_STAT_VALID w)) then s
  else
    let t := s.set F.YRD_MAP_CFG m
    t.set F.YRD_CAP_MAP_LOG2_NOW (mapNow t)

/-- R278: a write of the map size. -/
def execYrdMapCfgWrite (value : Dword) (s : State) : Host.Outcome State Fault Refusal := .next (writeMapCfg s value.toNat)

end Sys2Proof.Machine
end

