-- ==== Sys2Proof/Machine/Recorder.lean ====
section
/-! DEFINITION. The streams of the incident recorder: pre-trigger rings (R536), the sections of a recording with their far
stalls (R545 to R548), and their reduction (R549, R550). -/

namespace Sys2Proof.Machine

/-- Data bytes of a recorder stall (stall header table). -/
def stallData : Nat := 65504

/-! ### Reduction (R549, R550) -/

/-- Bytes of a list of pieces. -/
def itemBytes (l : List RecItem) : List Byte := l.foldl (fun r (x : RecItem) => r ++ x.data) []

/-- Pieces cut into groups of n; what is left over makes no group. Fuel is the number of pieces. -/
def chunks (n : Nat) : Nat → List RecItem → List (List RecItem)
  | 0, _ => []
  | fuel + 1, l => if l.length < n then [] else l.take n :: chunks n fuel (l.drop n)

/-- R549: one frame of rounded pixel means for a group of thermal frames, with the last one's header and the exponent in
FLAGS [15:8]. -/
def meanFrame (a : Nat) (g : List RecItem) : List Byte :=
  let last := (g.getLast?.map fun (x : RecItem) => x.data).getD []
  let pixels := (last.length - 32) / 2
  (last.take 23 ++ leBytes 1 a ++ (last.drop 24).take 8) ++ (List.range pixels).foldl (fun r p =>
    r ++ leBytes 2 (divRound ((g.map fun (x : RecItem) => leAt x.data (32 + 2 * p) 2).foldl (· + ·) 0) (max 1 g.length))) []

/-- What the records of a direction and return index contribute (R550). -/
structure PointMean where
  key : Nat
  n : Nat
  range : Nat
  int : Nat
  deriving DecidableEq, Repr

/-- One record enters the means of its group; NO_RETURN and REFUSED records do not. -/
def addRecord (l : List PointMean) (x : RecItem) : List PointMean :=
  let d0 := leAt x.data 0 4
  let key := bits d0 0 19
  let r := leAt x.data 4 4 % 2 ^ 22
  let i := leAt x.data 8 4 % 2 ^ 12
  if x.header || bit d0 29 || bit d0 30 then l
  else if l.any fun (m : PointMean) => m.key = key then
    l.map fun (m : PointMean) => if m.key = key then { m with n := m.n + 1, range := m.range + r, int := m.int + i } else m
  else l ++ [{ key := key, n := 1, range := r, int := i }]

/-- R550: the header of a group's first frame and one entry for each direction and return index of its records, in the order
in which they first appear. -/
def meanPoints (g : List RecItem) : List Byte :=
  let head := ((g.find? fun (x : RecItem) => x.header).map fun (x : RecItem) => x.data).getD []
  (g.foldl addRecord []).foldl (fun r (m : PointMean) =>
    r ++ leBytes 4 (m.key + 2 ^ 19 * (m.n % 32))
      ++ leBytes 4 (divRound (4 * m.range) m.n % 2 ^ 24 + 2 ^ 24 * (divRound m.int m.n / 16))) head

/-- Pieces of one ring cut at every n-th header, the last group only when it has n; cur holds the present group, newest last,
and k its headers. -/
def framesOf (n : Nat) : List RecItem → List RecItem → Nat → List (List RecItem)
  | [], cur, k => if k < n then [] else [cur]
  | x :: r, cur, k =>
    if x.header && n ≤ k then cur :: framesOf n r [x] 1
    else framesOf n r (cur ++ [x]) (if x.header then k + 1 else k)

/-- The bytes of a section as they are stored: 0 point, 1 thermal, 2 raw. -/
def sectionBytes (c : AcqCfg) (k : Nat) (l : List RecItem) : List Byte :=
  if k = 0 && c.ptAvg != 0 then
    (List.range 4).foldl (fun r n =>
      r ++ ((framesOf (2 ^ c.ptAvg) (l.filter fun (x : RecItem) => x.ring = n) [] 0).map meanPoints).foldl (· ++ ·) []) []
  else if k = 1 && c.thmAvg != 0 then
    ((chunks (2 ^ c.thmAvg) l.length l).map (meanFrame c.thmAvg)).foldl (· ++ ·) []
  else itemBytes l

/-! ### Rings and capture -/

/-- The pre-trigger ring of a section. -/
def recRing (s : State) (k : Nat) : RecRing := s.acq.rings.getD k { items := [], wrapped := false, stalls := [] }

/-- Oldest pieces leave a ring until it fits its stalls. Fuel is the number of pieces. -/
def trimRing (cap : Nat) : Nat → List RecItem → Bool → List RecItem × Bool
  | 0, l, w => (l, w)
  | fuel + 1, l, w => if (itemBytes l).length ≤ cap then (l, w) else trimRing cap fuel (l.drop 1) true

/-- A piece enters a pre-trigger ring. -/
def ringPut (s : State) (k : Nat) (x : RecItem) : State :=
  let r := recRing s k
  let l := r.items ++ [x]
  let (m, w) := trimRing (65536 * r.stalls.length) l.length l r.wrapped
  { s with acq := { s.acq with rings := s.acq.rings.set k { r with items := m, wrapped := w } } }

/-- A section stops capturing (R547). -/
def stopSection (s : State) (sec : RecSection) (ovf : Bool) : RecSection :=
  if sec.active then { sec with active := false, stop := some s.now, ovf := sec.ovf || ovf } else sec

/-- R548: no RECORD-class stall is free: every section that captures stops as under R547, and FULL is set. -/
def recordingFull (s : State) (r : Recording) : Recording :=
  { r with full := true, stopAt := if r.stopAt = 0 then s.now else r.stopAt,
           secs := r.secs.map fun (o : Option RecSection) => o.map fun x => stopSection s x true }

/-- Far stalls are taken until a section has n; how many could be had, with the state. -/
def takeFar : Nat → State → List Nat × State
  | 0, s => ([], s)
  | n + 1, s => match newStall s .far 2 0 none with
    | some (k, t) =>
      let (l, u) := takeFar n t
      (k :: l, u)
    | none => ([], s)

/-- Section k of a recording takes its items and the stalls it got; one stall too few makes the recording full (R548). -/
def keepItems (s : State) (r : Recording) (k need : Nat) (sec : RecSection) (got : List Nat) : State :=
  let r' := { r with secs := r.secs.set k (some { sec with stalls := sec.stalls ++ got }) }
  if got.length < need then
    let u := if s.get F.ACQ_STATUS_STATE = 2 then s.set F.ACQ_STATUS_STATE 3 else s
    { u with acq := { u.acq with run := some (recordingFull s r'), lastEnd := u.now } }
  else { s with acq := { s.acq with run := some r' } }

/-- Pieces enter a running section, which takes the far stalls that its data needs. -/
def capture (s : State) (k : Nat) (l : List RecItem) : State :=
  match s.acq.run, s.acq.cfg with
  | some r, some c => match r.secs.getD k none with
    | some sec =>
      if !sec.active then s
      else
        let items := sec.items ++ l
        let need := divUp (sectionBytes c k items).length stallData - sec.stalls.length
        let p := takeFar need s
        keepItems p.2 r k need { sec with items := items } p.1
    | none => s
  | _, _ => s

/-- One piece of a stream: into its ring, and into the section that captures. -/
def recordItem (s : State) (k ring : Nat) (header : Bool) (data : List Byte) : State :=
  let x : RecItem := { time := s.now, ring := ring, header := header, data := data }
  capture (ringPut s k x) k [x]

/-- A frame header or record of a point ring, as it is delivered. -/
def recordPoint (s : State) (n : Nat) (header : Bool) (data : List Byte) : State :=
  match s.acq.cfg with
  | some c => if s.get F.ACQ_STATUS_STATE != 0 && bit c.ptRings n then recordItem s 0 n header data else s
  | none => s

/-- A delivered thermal frame: every THM_KEEP-th is recorded. -/
def recordThermal (s : State) (data : List Byte) : State :=
  match s.acq.cfg with
  | some c =>
    if s.get F.ACQ_STATUS_STATE = 0 || c.thmKeep = 0 then s
    else if c.thmKeep ≤ s.acq.kept + 1 then recordItem { s with acq := { s.acq with kept := 0 } } 1 4 false data
    else { s with acq := { s.acq with kept := s.acq.kept + 1 } }
  | none => s

/-- An event of a cluster in RAW_CL: its word, its logical channel (64 times the cluster and the channel), its slot and
its frame. -/
def recordRaw (s : State) (id frame slot word : Nat) : State :=
  match s.acq.cfg with
  | some c =>
    if s.get F.ACQ_STATUS_STATE != 0 && bit c.rawCl (id / 64) then
      recordItem s 2 4 false (leBytes 4 word ++ leBytes 4 (id + 2 ^ 10 * (slot % 2 ^ 20) + 2 ^ 30 * (frame % 4)))
    else s
  | none => s

/-- A frame boundary, by which a trigger's frame and the measurements are dated. -/
def recordFrame (s : State) : State :=
  if s.get F.ACQ_STATUS_STATE = 0 then s
  else { s with acq := { s.acq with frames := ((s.sch.frame, s.now) :: s.acq.frames).take 64 } }

/-- Whether a far window holds stalls of the recording in progress (R294). -/
def recordsIn (s : State) (w : Nat) : Bool :=
  match s.acq.run with
  | none => false
  | some r =>
    let l := r.header.toList ++ (r.secs.map fun (o : Option RecSection) => (o.map fun x => x.stalls).getD []).foldl (· ++ ·) []
    l.any fun k => match stallAt s k with
      | some x => x.at_.within .far w
      | none => false

end Sys2Proof.Machine
end

