-- ==== Sys2Proof/Machine/Hge.lean ====
section
/-! DEFINITION. The histogram engine: cell geometry, codes, accumulation, detection, records and point rings (chapter
08). -/

namespace Sys2Proof.Machine

/-! ### Cell geometry (R231 to R233) -/

/-- Bin width of a BW code in steps of 15.625 ps (R231). -/
def binSteps (bw : Nat) : Nat := 8 * 2 ^ bw

/-- Window length in steps: START and END in 1.25 ns, with END = 1,638 closing at 2.048 us (R206). -/
def windowSteps (a e : Nat) : Nat := (if e = 1638 then 131072 else 80 * e) - 80 * a

/-- Bins of a cell (R231). -/
def cellBins (a e bw : Nat) : Nat := 64 * divUp (windowSteps a e) (64 * binSteps bw)

/-- Slot size code of a cell of n bins; none when it fits no slot (R232). -/
def cellSize (packed : Bool) (n : Nat) : Option Nat :=
  let bytes2 := if packed then 4 * n else 5 * n
  [0, 1, 2, 3].find? fun k => bytes2 ≤ 4096 * 2 ^ k

/-- Saturation value of a count (R232). -/
def countMax (packed : Bool) : Nat := if packed then 4095 else 65535

/-- Bins of the pre-gate (R233). -/
def preBins (pre : Nat) : Nat := 16 * (pre + 1)

/-! ### Codes (R237 to R239) -/

/-- Pulse offsets of code entry e in the registers of s, the first 0. -/
def codeOffsets (s : State) (e : Nat) : List Nat :=
  ([0, s.get (F.HGE_CODE_TAB_O1 e), s.get (F.HGE_CODE_TAB_O2 e), s.get (F.HGE_CODE_TAB_O3 e)]).take (s.get (F.HGE_CODE_TAB_DEPTH e) + 1)

/-- Whether a value is a legal code entry (R237). -/
def codeLegal (v : Nat) : Bool :=
  let d := bits v 0 2
  let o1 := bits v 8 6
  let o2 := bits v 16 6
  let o3 := bits v 24 6
  (if 1 ≤ d then 3 ≤ o1 && o1 ≤ 32 else o1 = 0)
    && (if 2 ≤ d then o1 + 3 ≤ o2 && o2 ≤ 32 else o2 = 0)
    && (if 3 ≤ d then o2 + 3 ≤ o3 && o3 ≤ 32 else o3 = 0)

/-- Pulse pairs of a code spaced d apart. -/
def pairsApart (l : List Nat) (d : Nat) : Nat :=
  (l.map fun a => (l.filter fun b => a + d = b).length).foldl (· + ·) 0

/-- R238: HGE_CODE_EN is not 0, and no spacing has more pulse pairs than a quarter of the enabled entries. -/
def codeSetOk (s : State) : Bool :=
  let en := (List.range 16).filter fun e => bit (s.get F.HGE_CODE_EN) e
  !en.isEmpty && (List.range 33).all fun d =>
    d = 0 || 4 * ((en.map fun e => pairsApart (codeOffsets s e) d).foldl (· + ·) 0) ≤ en.length

/-- Largest offset of the enabled entries. -/
def codeSpan (s : State) : Nat :=
  (List.range 16).foldl (fun m e => if bit (s.get F.HGE_CODE_EN) e then max m ((codeOffsets s e).foldl max 0) else m) 0

/-- R239: one step of the 64-bit generator. -/
def genStep (g : Nat) : Nat :=
  let m := 2 ^ 64
  let a := g ^^^ ((g <<< 13) % m)
  let b := a ^^^ (a >>> 7)
  b ^^^ ((b <<< 17) % m)

/-- The generator after n steps. -/
def genSteps : Nat → Nat → Nat
  | 0, g => g
  | n + 1, g => genSteps n (genStep g)

/-- The first enabled entry from idx up, wrapping (R239). -/
def enabledFrom (en : Nat) : Nat → Nat → Nat
  | 0, idx => idx
  | fuel + 1, idx => if bit en idx then idx else enabledFrom en fuel ((idx + 1) % 16)

/-- R239, R240: code entry and dither of a slot of frame f, from a seed and the settings of s. -/
def slotCode (s : State) (seed f slot : Nat) : Nat × Nat :=
  let s0 := seed ^^^ (((f % 2 ^ 32) <<< 32) ||| (f % 2 ^ 32))
  let g := genSteps (slot + 1) (if s0 = 0 then 1 else s0)
  (enabledFrom (s.get F.HGE_CODE_EN) 16 (g % 16), bits g 16 16 * (s.get F.HGE_DITHER + 1) / 65536)

/-- R23 in quarters of a nanosecond: window close, dither and code span fit the slot less 80 ns. -/
def windowFits (e dither span slotNs : Nat) : Bool :=
  (if e = 1638 then 8192 else 5 * e) + 5 * (dither + span) + 320 ≤ 4 * slotNs

/-- R313 check 4, R314: R23 holds for every entry of the groups and the listen entry of a program under the settings of s. -/
def programFits (s : State) (p : Prog) : Bool :=
  let ok (e : Entry) (dither span : Nat) : Bool := windowFits (s.get (F.TDC_WIN_PROF_END e.prof)) dither span p.slotNs
  p.groups.all (fun (g : ShotGroup) => ((p.entries.drop g.first).take g.count).all fun e => ok e (s.get F.HGE_DITHER) (codeSpan s))
    && (p.period = 0 || match p.entries[p.listen]? with
      | some e => ok e 0 0
      | none => true)

/-- R314: R23 holds for both loaded programs. -/
def programsFit (s : State) : Bool :=
  s.sch.progs.all fun (p : Option Prog) => match p with
    | some q => programFits s q
    | none => true

/-- R237, R238, R687: a write of a code entry (0 to 15) or of the enables (16) is staged; after the commit it is locked. -/
def writeCode (s : State) (i v : Nat) : State :=
  let fs := if i = 16 then [F.HGE_CODE_EN] else [F.HGE_CODE_TAB_O3 i, F.HGE_CODE_TAB_O2 i, F.HGE_CODE_TAB_O1 i, F.HGE_CODE_TAB_DEPTH i]
  if i < 16 && !codeLegal v then s
  else if committed s then lockLog s ((fs.map (·.off)).headD 0) (fs.map fun f => (f, Acc.rwl)) v
  else
    let late := s.mode.scanning && lateNow s
    { s with hge := { s.hge with code := s.hge.code ++ fs.map fun f => { late := late, fld := f, val := f.of v } } }

/-- R238: a code table or code enable write. -/
def execHgeCodeWrite (index : Fin 17) (value : Dword) (s : State) : Host.Outcome State Fault Refusal :=
  .next (writeCode s index.val value.toNat)

/-- The register store with the staged code fields in it. -/
def withCode (s : State) (l : List Held) : State := l.foldl (fun (t : State) (h : Held) => t.set h.fld h.val) s

/-- R238, R314, R691: at a frame boundary the staged code set takes effect, or is discarded with its fault. -/
def codeAtBoundary (s : State) : State :=
  let now := s.hge.code.filter fun (h : Held) => !h.late
  let rest := (s.hge.code.filter fun (h : Held) => h.late).map fun (h : Held) => { h with late := false }
  let t := { s with hge := { s.hge with code := rest } }
  if now.isEmpty then t
  else
    let u := withCode t now
    if !codeSetOk u then raiseFault (t.set F.HGE_STATUS_CODE_ERR 1) 0 0x0701 0
    else if !programsFit u then raiseFault (t.set F.SCH_STATUS_TIMING_ERR 1) 0 0x0904 0
    else u

/-- A held DITHER_MAX that takes effect at the next boundary would break R23 for a loaded program (R314). -/
def ditherBreaks (s : State) : Bool :=
  s.hold.any (fun (h : Held) => !h.late && h.fld == F.HGE_DITHER) && !programsFit (nextFrameRegs s)

/-- A held DITHER_MAX of the next boundary is discarded. -/
def dropDither (s : State) : State := { s with hold := s.hold.filter fun (h : Held) => h.late || h.fld != F.HGE_DITHER }

/-- The settings of the next frame as admission across the boundary sees them (R314, R691). -/
def nextFrame (s : State) : State :=
  let t := nextFrameRegs (if ditherBreaks s then dropDither s else s)
  let u := withCode t (s.hge.code.filter fun (h : Held) => !h.late)
  if codeSetOk u && programsFit u then u else t

/-- R314, R687: a DITHER_MAX write. -/
def writeDither (s : State) (v : Nat) : State :=
  let d := F.HGE_DITHER.of v
  if 400 < d then s
  else
    let t := writeFields s F.HGE_DITHER.off [(F.HGE_DITHER, .rwl)] v
    if s.mode.scanning || programsFit t then t
    else raiseFault (s.set F.SCH_STATUS_TIMING_ERR 1) 0 0x0904 0

/-- R314: a DITHER_MAX write. -/
def execHgeDitherWrite (value : Dword) (s : State) : Host.Outcome State Fault Refusal := .next (writeDither s value.toNat)

/-- R314: a held DITHER_MAX that would break R23 is discarded at the boundary where it would take effect. -/
def ditherAtBoundary (s : State) : State :=
  if ditherBreaks s then raiseFault ((dropDither s).set F.SCH_STATUS_TIMING_ERR 1) 0 0x0904 0 else s

/-! ### Cells -/

/-- The cell of a direction in a frame. -/
def cellOf (s : State) (dir frame : Nat) : Option Cell := s.hge.cells.find? fun (c : Cell) => c.dir == dir && c.frame == frame

/-- Cells that count as open: from their placement to their release, the slots of held records included (R230, R236, R268). -/
def openCells (s : State) : Nat :=
  let held (x : Item) : Bool := match x with
    | .recs _ _ keep => keep.isSome
    | .header _ _ _ => false
  s.hge.rings.foldl (fun n (r : PointRing) => n + (r.queue.filter held).length) s.hge.cells.length

/-- Absolute slot of the last frame accepted on an event lane. -/
def lastAccepted (s : State) (lane : Nat) : Nat := ((s.rxf.laneSlot.find? fun (e : Nat × Nat) => e.1 = lane).map fun e => e.2).getD 0

/-- R20: a cell of a lane with discards since its last accepted frame is flagged where it took a shot from that frame's slot to
another slot. -/
def bridgeFlag (s : State) (upto : Nat) (c : Cell) : Cell :=
  let lane := c.chan / 64
  if s.rxf.laneDirty.contains lane
      && c.taken.any (fun (k : Nat × Nat) => lastAccepted s lane ≤ c.base + k.1 && c.base + k.1 ≤ upto) then
    { c with bridge := true } else c

/-- A cell changes. -/
def updCell (s : State) (dir frame : Nat) (f : Cell → Cell) : State :=
  { s with hge := { s.hge with cells := s.hge.cells.map fun (c : Cell) => if c.dir = dir && c.frame = frame then f c else c } }

/-- R241: the bin of an event for a pulse offset; none outside the cell. -/
def eventBin (c : Cell) (le off : Nat) : Option Nat :=
  let t0 := 80 * (c.start + off)
  if le < t0 then none
  else
    let b := (le - t0) / c.bw
    if b < c.bins.length then some b else none

/-- R241, R242: one entry of an event in bin b with its intensity code. -/
def enterBin (sat : Bool) (int : Nat) (c : Cell) (b : Nat) : Cell :=
  let m := countMax c.packed
  let n := min (c.bins.getD b 0 + 1) m
  let g := b / 8
  { c with bins := c.bins.set b n, cntSat := c.cntSat || n = m,
           wsum := c.wsum.set g (min (c.wsum.getD g 0 + int) (2 ^ 24 - 1)),
           wsat := if sat then c.wsat.set g (min (c.wsat.getD g 0 + 1) 255) else c.wsat }

/-- R241 to R243: an event word is entered into its cell for each pulse of its shot's code. -/
def enterEvent (s : State) (c : Cell) (code : List Nat) (range word : Nat) : Cell :=
  let sat := bit word 28
  let int := s.get (F.HGE_TOT_LUT range (bits word 17 9))
  let d := (code.filterMap (eventBin c (bits word 0 17))).foldl (enterBin sat int) c
  { d with events := d.events + 1, sats := d.sats + b2n sat, shadows := d.shadows + b2n (bit word 29) }

/-! ### Detection (R245 to R257) -/

/-- Indices of the pre-gate bins of a cell. -/
def preGate (c : Cell) : List Nat :=
  let p := min (preBins c.pre) c.bins.length
  if c.prePos then (List.range p).map fun i => c.bins.length - p + i else List.range p

/-- A number put in place in a rising list. -/
def insertNat (x : Nat) : List Nat → List Nat
  | [] => [x]
  | y :: r => if x ≤ y then x :: y :: r else y :: insertNat x r

/-- A list in rising order. -/
def sortNat (l : List Nat) : List Nat := l.foldl (fun m x => insertNat x m) []

/-- The ambient: numerator and divisor of A, and whether it is the median (R245, R246). -/
structure Ambient where
  a : Nat
  d : Nat
  high : Bool
  deriving DecidableEq, Repr

/-- The net count of a bin times the ambient's divisor; 0 outside the cell (R247). -/
def netCount (c : Cell) (m : Ambient) (b : Int) : Int :=
  if b < 0 then 0
  else match c.bins[b.toNat]? with
    | some n => Int.ofNat (n * m.d) - Int.ofNat m.a
    | none => 0

/-- The larger of A and AMB_FLOOR as a fraction (R245). -/
def floorA (s : State) (m : Ambient) : Nat × Nat :=
  let f := s.get F.HGE_DET_AMB_FLOOR
  if f * m.d ≤ 16 * m.a then (m.a, m.d) else (f, 16)

/-- Whether a net count reaches T = K x sqrt(max(A, AMB_FLOOR)), with K in 1/16 (R245). -/
def reachesT (s : State) (m : Ambient) (n : Int) : Bool :=
  let (p, q) := floorA s m
  let k := s.get F.HGE_DET_K
  0 ≤ n && k * k * p * m.d * m.d ≤ n.toNat * n.toNat * 256 * q

/-- R245, R246: the ambient of a cell. -/
def ambient (s : State) (c : Cell) : Ambient :=
  let pre := (preGate c).map fun i => c.bins.getD i 0
  let n := pre.length
  let mean : Ambient := { a := pre.foldl (· + ·) 0, d := max 1 n, high := false }
  if pre.any fun x => reachesT s mean (Int.ofNat (x * mean.d) - Int.ofNat mean.a) then
    let l := sortNat pre
    { a := l.getD ((n - 1) / 2) 0 + l.getD (n / 2) 0, d := 2, high := true }
  else mean

/-- R247: the candidate bins of a cell. -/
def candidates (s : State) (c : Cell) (m : Ambient) : List Nat :=
  let gate := preGate c
  (List.range c.bins.length).filter fun b =>
    let n := netCount c m b
    !gate.contains b && reachesT s m n && s.get F.HGE_DET_MIN_CNT ≤ c.bins.getD b 0
      && netCount c m (Int.ofNat b - 1) < n && netCount c m (Int.ofNat b + 1) ≤ n

/-- A candidate put in place by n, highest first, then by bin. -/
def insertPeak (x : Nat × Int) : List (Nat × Int) → List (Nat × Int)
  | [] => [x]
  | y :: r => if y.2 < x.2 || (y.2 = x.2 && x.1 < y.1) then x :: y :: r else y :: insertPeak x r

/-- Distance of two bins. -/
def binDist (a b : Nat) : Nat := if a ≤ b then b - a else a - b

/-- R248: whether a kept candidate k drops candidate x. -/
def dropsPeak (s : State) (bw : Nat) (x k : Nat × Int) : Bool :=
  let g := s.get F.HGE_DET_GHOST_RATIO
  binDist x.1 k.1 < 3 || (g != 0 && binDist x.1 k.1 * bw ≤ 2560 && x.2 * 256 < Int.ofNat g * k.2)

/-- R248: candidates thinned from the strongest down. -/
def thin (s : State) (c : Cell) (m : Ambient) (l : List Nat) : List (Nat × Int) :=
  let sorted := (l.map fun (b : Nat) => (b, netCount c m (Int.ofNat b))).foldl (fun r x => insertPeak x r) []
  sorted.foldl (fun kept x => if kept.any (dropsPeak s c.bw x) then kept else kept ++ [x]) []

/-- One return with its figures. -/
structure Return where
  bin : Nat
  /-- Net count times the divisor of the ambient. -/
  net : Int
  range : Nat
  int : Nat
  height : Nat
  quality : Nat
  sat : Bool
  /-- Peak time in 15.625 ps, whole steps. -/
  tp : Nat
  particulate : Bool
  tested : Bool
  /-- A particulate candidate that no test has covered (R255). -/
  untested : Bool
  deriving DecidableEq, Repr

/-- A net count held at 0 or above. -/
def posNet (c : Cell) (m : Ambient) (b : Int) : Nat := (netCount c m b).toNat

/-- Peak time in 1/32 of a step (R250). -/
def peakTime32 (c : Cell) (m : Ambient) (b : Nat) : Nat :=
  let l := posNet c m (Int.ofNat b - 1)
  let r := posNet c m (Int.ofNat b + 1)
  let sum := l + posNet c m b + r
  let d16 := if sum = 0 then 0 else divRoundInt (16 * (Int.ofNat r - Int.ofNat l)) sum
  (Int.ofNat (2560 * c.start) + (Int.ofNat (32 * b + 16) + 2 * d16) * Int.ofNat c.bw).toNat

/-- The groups of 8 bins that hold bins b - 1 to b + 1 (R252). -/
def peakGroups (c : Cell) (b : Nat) : List Nat :=
  let g1 := (b - 1) / 8
  let g2 := (min (b + 1) (c.bins.length - 1)) / 8
  if g1 = g2 then [g1] else [g1, g2]

/-- Intensity I (R252). -/
def intensity (c : Cell) (m : Ambient) (b : Nat) : Nat :=
  let gs := peakGroups c b
  let g := gs.length
  let sw := (gs.map fun i => c.wsum.getD i 0).foldl (· + ·) 0
  let sc := (gs.map fun i => ((c.bins.drop (8 * i)).take 8).foldl (· + ·) 0).foldl (· + ·) 0
  let gate := preGate c
  let n := max 1 (gate.length / 8)
  let wp := ((List.range n).map fun i => c.wsum.getD (gate.headD 0 / 8 + i) 0).foldl (· + ·) 0
  let num := (Int.ofNat (sw * n) - Int.ofNat (g * wp)) * Int.ofNat m.d
  let den := Int.ofNat (sc * m.d) - Int.ofNat (8 * g * m.a)
  if den ≤ 0 then 0 else (clampInt 0 4095 (divRoundInt num (n * den.toNat))).toNat

/-- Quality Q (R252). -/
def quality (s : State) (m : Ambient) (n : Int) : Nat :=
  let (p, q) := floorA s m
  let k := s.get F.HGE_DET_K
  let t := k * k * p * m.d * m.d
  if t = 0 then 255 else min 255 (isqrt (65536 * n.toNat * n.toNat * q / t))

/-- R253: whether the spread about the peak reaches SPREAD_MIN. -/
def spreadWide (s : State) (c : Cell) (m : Ambient) (b : Nat) : Bool :=
  let l := (List.range 9).map fun i => (i, posNet c m (Int.ofNat b + Int.ofNat i - 4))
  let w := (l.map fun e => e.2).foldl (· + ·) 0
  let x := (l.map fun e => e.1 * e.2).foldl (· + ·) 0
  let xx := (l.map fun e => e.1 * e.1 * e.2).foldl (· + ·) 0
  let k := s.get F.HGE_PART0_SPREAD_MIN
  if w = 0 then k = 0 else k * k * w * w ≤ 256 * (w * xx - x * x)

/-- RANGE in 0.125 mm of a corrected time in 1/32 steps (R251). -/
def rangeOf (t32 : Int) : Nat := if t32 < 0 then 0 else min (2 ^ 22 - 1) (divRound (t32.toNat * 299792458 * 625) (32 * 10 ^ 10))

/-- R250 to R254: the figures of a peak; verdict is the test that covers the cell's burst, if one ran. -/
def makeReturn (s : State) (c : Cell) (m : Ambient) (verdict : Option (Nat × Bool)) (e : Nat × Int) : Return :=
  let b := e.1
  let tp32 := peakTime32 c m b
  let i := intensity c m b
  let fb := (c.taken.headD (0, 0)).2
  let walk : Int := if s.flag F.HGE_CTRL_WALK_EN then s.getInt (F.HGE_WALK fb (i / 64)) else 0
  let r := rangeOf (Int.ofNat tp32 - 32 * Int.ofNat (s.get F.TDC_ZERO) + 32 * walk)
  let h := posNet c m (Int.ofNat b - 1) + posNet c m b + posNet c m (Int.ofNat b + 1)
  let cand := r < 800 * s.get F.HGE_PART0_RANGE_MAX && i ≤ s.get F.HGE_PART0_INT_MAX && spreadWide s c m b
  let mode := s.get F.HGE_CTRL_PART_MODE
  let covered := match verdict with
    | some (t0, _) => 32 * t0 ≤ tp32 && tp32 < 32 * (t0 + 8192)
    | none => false
  let wide := match verdict with
    | some (_, w) => w
    | none => false
  { bin := b, net := e.2, range := r, int := i, height := min 4095 (divRound h m.d), quality := quality s m e.2,
    sat := (peakGroups c b).any fun g => c.wsat.getD g 0 != 0, tp := tp32 / 32,
    particulate := cand && (mode = 1 || (mode = 2 && covered && wide)),
    tested := cand && mode = 2 && covered, untested := cand && mode = 2 && !covered }

/-- A return put in place by rising range, then bin. -/
def insertReturn (x : Return) : List Return → List Return
  | [] => [x]
  | y :: r => if x.range < y.range || (x.range = y.range && x.bin < y.bin) then x :: y :: r else y :: insertReturn x r

/-- A return put in place by rising bin (nearest first). -/
def insertByBin (x : Return) : List Return → List Return
  | [] => [x]
  | y :: r => if x.bin < y.bin then x :: y :: r else y :: insertByBin x r

/-- R249, R257: up to four returns: non-particulate ones first, by PEAK_ORDER, numbered in rising range. -/
def chooseReturns (s : State) (l : List Return) : List Return :=
  let ord := if s.flag F.HGE_CTRL_PEAK_ORDER then l else l.foldl (fun r x => insertByBin x r) []
  let four := ((ord.filter fun (x : Return) => !x.particulate) ++ ord.filter fun (x : Return) => x.particulate).take 4
  four.foldl (fun r x => insertReturn x r) []

/-- R245 to R257: all the returns that detection finds in a cell, with the ambient. -/
def detect (s : State) (c : Cell) (verdict : Option (Nat × Bool)) : List Return × Ambient × List Return :=
  let m := ambient s c
  let all := (thin s c m (candidates s c m)).map (makeReturn s c m verdict)
  (chooseReturns s all, m, all)

/-! ### Records (R259 to R262) -/

/-- The flags of a cell that every one of its records carries. -/
def cellFlags (c : Cell) (m : Ambient) : Nat :=
  2 ^ 20 * b2n (c.events < 8 * c.shadows) + 2 ^ 21 * b2n c.short + 2 ^ 22 * b2n c.bridge + 2 ^ 23 * b2n c.drop
    + 2 ^ 26 * b2n c.stale + 2 ^ 27 * b2n m.high + 2 ^ 28 * b2n c.cntSat + 2 ^ 31 * b2n c.mixed

/-- The four dwords of a record. -/
def recordBytes (dw0 range fb shots int height quality slot frame : Nat) : List Byte :=
  leBytes 4 dw0 ++ leBytes 4 (range + 2 ^ 22 * fb + 2 ^ 24 * min shots 255) ++ leBytes 4 (int + 2 ^ 12 * height + 2 ^ 24 * quality)
    ++ leBytes 4 (slot % 2 ^ 20 + 2 ^ 20 * (frame % 4096))

/-- The standard record of return k of a cell (R259). -/
def returnRecord (c : Cell) (m : Ambient) (k : Nat) (r : Return) : List Byte :=
  let flags := cellFlags c m + 2 ^ 19 * b2n r.sat + 2 ^ 24 * b2n r.particulate + 2 ^ 25 * b2n r.tested
  let last := c.taken.headD (0, 0)
  recordBytes (c.dir + 2 ^ 17 * k + flags) r.range last.2 c.shots r.int r.height r.quality last.1 c.frame

/-- The NO_RETURN record of a cell; without a shot it names the last slot of the frame (R235, R262). -/
def emptyRecord (s : State) (c : Cell) (m : Ambient) : List Byte :=
  let last := c.taken.headD (s.sch.slots - 1, 0)
  recordBytes (c.dir + cellFlags c m + 2 ^ 29) 0 last.2 c.shots 0 0 0 last.1 c.frame

/-- The REFUSED record of a direction (R262). -/
def refusedRecord (dir slot frame : Nat) : List Byte := recordBytes (dir + 2 ^ 30) 0 0 0 0 0 0 slot frame

/-! ### Point rings (R264 to R269) -/

/-- A ring that holds nothing. -/
def restRing : PointRing := { queue := [], count := 0, prev := 0, backlog := false, lastHdr := none, hdrDue := false }

/-- The ring record of ring n. -/
def ringAt (s : State) (n : Nat) : PointRing :=
  s.hge.rings.getD n restRing

/-- A ring takes a record. -/
def setRing (s : State) (n : Nat) (r : PointRing) : State := { s with hge := { s.hge with rings := putAt s.hge.rings n restRing r } }

/-- Bytes of ring n and of one unit in it. -/
def ringBytes (s : State) (n : Nat) : Nat := 4096 * s.get (F.HGE_RING_CFG_SIZE n)
def ringUnit (s : State) (n : Nat) : Nat := if s.flag (F.HGE_RING_CFG_FUSED n) then 24 else 16

/-- Bytes written and not released (R267). -/
def ringUnread (s : State) (n : Nat) : Nat :=
  let b := ringBytes s n
  if b = 0 then 0 else (s.get (F.HGE_RING_WPTR n) + b - s.get (F.HGE_RING_RPTR n)) % b

/-- Units that can be written, one always left (R267). -/
def ringRoom (s : State) (n : Nat) : Nat :=
  let b := ringBytes s n
  if b = 0 then 0 else (b - ringUnread s n) / ringUnit s n - 1

/-- Units that an item takes at the present place: a header never wraps (R264). -/
def itemUnits (s : State) (n : Nat) : Item → Nat
  | .header _ _ _ => if ringBytes s n - s.get (F.HGE_RING_WPTR n) = ringUnit s n then 3 else 2
  | .recs _ l _ => l.length

/-- Write one unit at WPTR. -/
def writeUnit (s : State) (n : Nat) (data : List Byte) : State :=
  let u := ringUnit s n
  let w := s.get (F.HGE_RING_WPTR n)
  let t := sendMem s (s.get (F.HGE_RING_BASE n) + w) ((data ++ List.replicate u 0).take u)
  if ringBytes s n ≤ w + u then (t.set (F.HGE_RING_WPTR n) 0).set (F.HGE_RING_LAP n) (s.get (F.HGE_RING_LAP n) + 1)
  else t.set (F.HGE_RING_WPTR n) (w + u)

/-- Write a header, after a padding unit where only one unit is left before the end (R264). -/
def writeHeader (s : State) (n : Nat) (body : List Byte) : State :=
  let t := if ringBytes s n - s.get (F.HGE_RING_WPTR n) = ringUnit s n then writeUnit s n (leBytes 4 0xFFFFFFFE) else s
  let u := ringUnit s n
  writeUnit (writeUnit t n (body.take u)) n (body.drop u)

/-- Whether a ring can take a record now: enabled, requests allowed, nothing held before it and room (R268). -/
def ringTakes (s : State) (n units : Nat) : Bool :=
  ringBytes s n != 0 && pcieUsable s && !(s.flag (F.HGE_RING_STATUS_BACKLOG n))
    && ((ringAt s n).queue.map (itemUnits s n)).foldl (· + ·) 0 + units ≤ ringRoom s n

/-- Put an item that stands for n records before the first header, which counts them in REC_PREV (R258, R265). -/
def putBefore (n : Nat) (x : Item) : List Item → List Item
  | [] => [x]
  | .header f r b :: l => x :: .header f (r + n) b :: l
  | y :: l => y :: putBefore n x l

/-- Whether an item is the header of a frame. -/
def Item.opens (frame : Nat) : Item → Bool
  | .header f _ _ => f == frame
  | .recs _ _ _ => false

/-- Put the n records of a cell behind the last ones of its frame (R265): before the header that follows the frame's own, or, when
that has been written, before the first one. Frames follow each other in the queue whatever their numbers. -/
def insertItem (frame n : Nat) (x : Item) : List Item → List Item
  | [] => [x]
  | y :: l =>
    if y.opens frame then y :: putBefore n x l
    else if l.any (Item.opens frame) then y :: insertItem frame n x l
    else putBefore n x (y :: l)

/-- HGE_STATUS BACKLOG follows the rings (R268). -/
def backlogNow (s : State) : State :=
  s.put F.HGE_STATUS_BACKLOG ((List.range 4).any fun n => s.flag (F.HGE_RING_STATUS_BACKLOG n))

/-- Queue the records of one cell in a ring (R236, R265, R268). With room the cell slot is freed now; without, the records
are held with it and the ring is in backlog. -/
def queueRecords (s : State) (n frame : Nat) (data : List (List Byte)) (slot : Option (Nat × Nat)) : State :=
  if data.isEmpty then
    match slot with
    | some (a, k) => freeSlot s a k
    | none => s
  else
    let r := ringAt s n
    let fits := ringTakes s n data.length
    let keep := if fits then none else slot
    let q := insertItem frame data.length (.recs frame data keep) r.queue
    let r' := if frame = s.sch.frame then { r with queue := q, count := r.count + data.length } else { r with queue := q }
    let t := setRing s n { r' with backlog := r'.backlog || !fits }
    if fits then
      match slot with
      | some (a, k) => freeSlot t a k
      | none => t
    else backlogNow (t.set (F.HGE_RING_STATUS_BACKLOG n) 1)

/-- Whether a header may be written: every closed cell of an earlier frame in this ring has given its records (R265). A closed
cell of a later frame has its frame's header in the queue still. -/
def headerReady (s : State) (n frame : Nat) : Bool :=
  s.hge.cells.all fun (c : Cell) => c.ring != n || !c.closed || c.frame = frame || (ringAt s n).queue.any (Item.opens c.frame)

/-- The stall of held records is in the loft or the near yard (R284); a stall that is lost holds nothing back (log entry 74). -/
def keepReady (s : State) : Item → Bool
  | .recs _ _ (some (a, _)) => stallReady s a || (stallAt s a).isNone
  | _ => true

/-- The stall of the records at the front of a ring is brought back from the far yard where they could be written but for it
(R268, R284, R292). -/
def wantBack (s : State) : List Item → State
  | .recs _ _ (some (a, _)) :: _ => serveFetches (askFetch s a)
  | _ => s

/-- A frame header as it is written, or written again: with the ring's present record type in RING (R258, R264). -/
def headerAgain (s : State) (n : Nat) (b : List Byte) : List Byte :=
  b.set 0x15 (BitVec.ofNat 8 (n + 4 * s.get (F.HGE_RING_CFG_FUSED n)))

/-- The header that is written again before the oldest held record (R264). -/
def dueHeader (s : State) (n : Nat) (x : Item) : Option (List Byte) :=
  match x, (ringAt s n).lastHdr with
  | .recs _ _ _, some (_, b) => if (ringAt s n).hdrDue then some (headerAgain s n b) else none
  | _, _ => none

/-- Units that the item at the front of a ring takes, with the header before it. -/
def frontUnits (s : State) (n : Nat) (x : Item) : Nat := itemUnits s n x + (if (dueHeader s n x).isSome then 3 else 0)

/-- Whether an item may be written, room apart. -/
def itemReady (s : State) (n : Nat) (x : Item) : Bool :=
  match x with
  | .header f _ _ => headerReady s n f
  | .recs _ _ _ => keepReady s x

/-- Whether a ring has something to write and room for it. -/
def frontReady (s : State) (n : Nat) : Bool :=
  match (ringAt s n).queue with
  | [] => false
  | x :: _ => ringBytes s n != 0 && frontUnits s n x ≤ ringRoom s n && itemReady s n x

/-- R425: a thermal frame that arrived before what a ring still holds is delivered first. -/
def frameFirst (s : State) (n : Nat) : Bool :=
  1 < s.get F.THM_RING_CFG && s.thm.queue.any fun (f : ThmFrame) => f.ahead.getD n 0 = 0

/-- An item of ring n that was ahead of the queued thermal frame has been written. -/
def passItem (s : State) (n : Nat) : State :=
  { s with thm := { s.thm with queue := s.thm.queue.map fun (f : ThmFrame) => { f with ahead := f.ahead.modify n (· - 1) } } }

/-- Write queued items while they fit (R266, R268); the header of the oldest held record comes first where it is due
(R264). Fuel is the number of items. -/
def drainRing (n : Nat) : Nat → State → State
  | 0, s => s
  | fuel + 1, s =>
    let r := ringAt s n
    match r.queue with
    | [] => s
    | x :: q =>
      if ringRoom s n < frontUnits s n x || frameFirst s n then s
      else if !itemReady s n x then wantBack s r.queue
      else
        let s := passItem s n
        let s := match dueHeader s n x with
          | some b => (writeHeader s n b).set (F.HGE_RING_STATUS_WMARK_HIT n) 1
          | none => s
        match x with
        | .header f k b =>
          let body := headerAgain s n (b ++ leBytes 4 k)
          let t := (writeHeader (recordPoint s n true body) n body).set (F.HGE_RING_STATUS_WMARK_HIT n) 1
          drainRing n fuel (setRing t n { ringAt t n with queue := q, lastHdr := some (f, body), hdrDue := false })
        | .recs _ l keep =>
          let t := l.foldl (fun t d => writeUnit (recordPoint t n false d) n d) s
          let t := setRing t n { ringAt t n with queue := q, hdrDue := false }
          let t := match keep with
            | some (a, k) => freeSlot t a k
            | none => t
          drainRing n fuel t

/-- R266, R268, R269: one DMA burst of a ring. -/
def dmaRing (s : State) (n : Nat) : State :=
  if ringBytes s n = 0 || !pcieUsable s then
    if (ringAt s n).queue.isEmpty then s
    else backlogNow ((setRing s n { ringAt s n with backlog := true }).set (F.HGE_RING_STATUS_BACKLOG n) 1)
  else
    let t := drainRing n (ringAt s n).queue.length s
    let r := ringAt t n
    let held := match r.queue with
      | [] => false
      | x :: _ => ringRoom t n < itemUnits t n x
    let t := backlogNow ((setRing t n { r with backlog := r.backlog || held }).put (F.HGE_RING_STATUS_BACKLOG n) held)
    let t := if ringUnread s n < s.get (F.HGE_RING_WMARK n) && s.get (F.HGE_RING_WMARK n) ≤ ringUnread t n then
        t.set (F.HGE_RING_STATUS_WMARK_HIT n) 1 else t
    let wb := t.get (F.HGE_RING_WB n)
    if wb = 0 || t.tx.length = s.tx.length then t
    else sendMem t (8 * wb) (leBytes 4 (t.get (F.HGE_RING_WPTR n)) ++ leBytes 4 (t.get (F.HGE_RING_LAP n)))

/-- R266: a DMA burst of a point ring. -/
def execRecordDma (ring : Fin 4) (s : State) : Host.Outcome State Fault Refusal := .next (dmaRing s ring.val)

/-- R267: a write of RPTR. -/
def writeRptr (s : State) (n v : Nat) : State :=
  let b := ringBytes s n
  let d := if b = 0 then 0 else (v + b - s.get (F.HGE_RING_RPTR n)) % b
  if v % ringUnit s n != 0 || (b ≤ v && v != s.get (F.HGE_RING_WPTR n)) || ringUnread s n < d then s.set (F.HGE_RING_STATUS_PTR_ERR n) 1
  else s.set (F.HGE_RING_RPTR n) v

/-- R267: the host releases ring space. -/
def execHgeRingRptrWrite (ring : Fin 4) (value : Dword) (s : State) : Host.Outcome State Fault Refusal :=
  .next (writeRptr s ring.val value.toNat)

end Sys2Proof.Machine
end

