-- ==== Sys2Proof/Machine/Sched.lean ====
section
/-! DEFINITION. The scan scheduler: slots and ownership, budgets, the choice of a shot, admission, commit and shortfall
(chapter 10, with R306 to R309 and R520 to R530 on ownership). -/

namespace Sys2Proof.Machine

/-! ### Slots -/

/-- Whether this device owns slot i of a frame (R306, R508, R518, R520 to R523, R526 to R530). -/
def ownsSlot (s : State) (i : Nat) : Bool :=
  match s.get F.RED_STATUS_MODE with
  | 0 => true
  | 1 => !s.red.mute && (s.flag F.RED_STATUS_SILENCE || !(s.flag F.RED_STATUS_ALT || s.red.halves) || i % 2 = sideNow s)
  | 2 => s.flag F.RED_STATUS_HALTER
  | _ => true

/-- Whether entries are split by parity: native halves (R307). -/
def splitsEntries (s : State) : Bool :=
  s.get F.RED_STATUS_MODE = 1 && s.red.halves && !s.flag F.RED_STATUS_SILENCE && !s.flag F.RED_STATUS_ALT

/-- Own shots are charged twice: while UNSURE, and in alternation (R327, R528). -/
def doubled (s : State) : Bool :=
  s.flag F.SCH_STATUS_UNSURE || (s.get F.RED_STATUS_MODE = 1 && s.flag F.RED_STATUS_ALT)

/-- Whether an own shot may fire in slot i: the slot is this device's, and the entry of its parity (R306, R307). -/
def mayFire (s : State) (i : Nat) (x : Shot) : Bool :=
  ownsSlot s i && !(x.use == .own && splitsEntries s && x.entry % 2 != sideNow s)

/-- Whether frame f, the present one or the next, runs under the program that a waiting SCAN_SWITCH names (R317). -/
def switched (s : State) (f : Nat) : Bool :=
  match s.sch.switchTo with
  | some (_, g) => (f + 2 ^ 32 - g) % 2 ^ 32 < 2 ^ 31
  | none => false

/-- The program of frame f: the one switched to, from its frame on (R317). -/
def progFor (s : State) (f : Nat) : Option Prog :=
  match s.sch.switchTo with
  | some (k, _) => if switched s f then s.sch.progs.getD k none else progNow s
  | none => progNow s

/-- Slot i is a listen slot of a program (R309). -/
def Prog.listens (p : Prog) (i : Nat) : Bool := p.period != 0 && i % p.period = p.phase

/-- Owned non-listen slots of a frame after slot i. -/
def slotsAfter (s : State) (p : Prog) (i : Nat) : Nat :=
  ((List.range s.sch.slots).filter fun j => i < j && ownsSlot s j && !p.listens j).length

/-- A slot within the look-ahead: absolute number, frame sequence and index. -/
structure SlotId where
  at_ : Nat
  frame : Nat
  i : Nat
  deriving DecidableEq, Repr

/-- The slot n after the present one. -/
def slotAhead (s : State) (n : Nat) : SlotId :=
  let i := s.sch.next - 1 + n
  if i < s.sch.slots then { at_ := s.sch.abs + i, frame := s.sch.frame, i := i }
  else { at_ := s.sch.abs + i, frame := (s.sch.frame + 1) % 2 ^ 32, i := i - s.sch.slots }

/-- The settings of the frame that a slot belongs to (R691). -/
def settingsOf (s : State) (x : SlotId) : State := if x.frame = s.sch.frame then s else nextFrame s

/-- The owed work of a frame. -/
def owesOf (s : State) (frame : Nat) : List Owe := if frame = s.sch.frame then s.sch.owes else s.sch.owesNext

/-- One entry's owed work changes. -/
def updOwe (s : State) (frame entry : Nat) (f : Owe → Owe) : State :=
  let g (o : Owe) : Owe := if o.entry = entry then f o else o
  if frame = s.sch.frame then { s with sch := { s.sch with owes := s.sch.owes.map g } }
  else { s with sch := { s.sch with owesNext := s.sch.owesNext.map g } }

/-- What the groups of a program owe in frame f (R312). -/
def dueOwes (p : Prog) (f : Nat) : List Owe :=
  (p.groups.filter fun (g : ShotGroup) => (f + g.revisit - g.phase) % g.revisit = 0).foldl (fun l (g : ShotGroup) =>
    l ++ (List.range g.count).map fun k =>
      { entry := g.first + k, cls := g.cls, owed := g.burst, burst := g.burst, spacing := g.spacing, ring := g.ring,
        fired := 0, short := false }) []

/-- The class in which an entry is chosen: a short one counts as survey. -/
def Owe.rank (o : Owe) : Nat := if o.short then 2 else o.cls

/-- Minimum distance of two shots of an entry (R310). -/
def Owe.gap (o : Owe) : Nat := max 1 o.spacing

/-- The slot of an entry's last committed shot under the program of a frame; none before a switch to another one (R317). -/
def lastShotOf (s : State) (frame entry : Nat) : Option Nat :=
  let from_ := if switched s frame && !switched s s.sch.frame then s.sch.abs + s.sch.slots else 0
  (s.sch.lasts.find? fun (e : Nat × Nat) => e.1 = entry && from_ ≤ e.2).map (·.2)

/-- A shot of an entry is committed, or announced by the partner, for an absolute slot (R310). -/
def noteLast (s : State) (entry at_ : Nat) : State :=
  { s with sch := { s.sch with lasts := (entry, at_) :: s.sch.lasts.filter fun (e : Nat × Nat) => e.1 != entry } }

/-- Whether slot t of a frame keeps its distance from every other shot of the entry in the same program (R310). -/
def spacingOk (s : State) (frame t : Nat) (o : Owe) : Bool :=
  let same (f : Nat) : Bool := switched s f = switched s frame
  (match lastShotOf s frame o.entry with
    | some l => l + o.gap ≤ t
    | none => true)
  && s.sch.look.all fun (x : Shot) =>
      x.use != .own || !same x.frame || x.entry != o.entry || x.at_ = t || x.at_ + o.gap ≤ t || t + o.gap ≤ x.at_

/-- An entry counts as belonging to a withdrawn bank (R340, R348). -/
def entryOut (s : State) (e : Entry) : Bool :=
  bankOut s (e.row / 4) || !bit (s.get F.EMI_ROW_EN) e.row || e.cols &&& s.get F.EMI_COL_EN = 0

/-- Whether some cluster of a mask can open a window. -/
def anyWindow (s : State) (cl : Nat) : Bool := (List.range 16).any fun n => bit cl n && clusterOpen s n

/-! ### Eye-safety budget (R323 to R327) -/

/-- The columns that a shot fires (R344). -/
def firedCols (s : State) (cols : Nat) : List Nat := (List.range 32).filter fun c => bit (cols &&& s.get F.EMI_COL_EN) c

/-- The charge of a shot at bank voltage v, in 0.01 nJ (R323). -/
def shotCharge (s : State) (x : Shot) (v : Nat) : Frac :=
  let b := x.row / 4
  let q := s.get (F.EMI_BANK_CFG_VSET b)
  { num := Int.ofNat (s.get (F.SCH_EPULSE b) * x.code.length * max (q * q) (v * v)), den := q * q }

/-- The charge of an own shot, twice while R327 or R528 asks for it. -/
def ownCharge (s : State) (x : Shot) (v : Nat) : Frac := (shotCharge s x v).scale (if doubled s then 2 else 1)

/-- A charge record of a shot. -/
def chargeOf (s : State) (x : Shot) (amount : Frac) (own : Bool) : Charge :=
  { at_ := x.at_, frame := x.frame, row := x.row, cols := x.cols &&& s.get F.EMI_COL_EN, amount := amount, own := own }

/-- The charges of shots admitted and not yet committed, with V = Vset. -/
def lookCharges (s : State) : List Charge :=
  (s.sch.look.filter fun (x : Shot) => x.use == .own).map fun (x : Shot) =>
    chargeOf s x (ownCharge s x (s.get (F.EMI_BANK_CFG_VSET (x.row / 4)))) true

/-- Whether a slot's charge counts in window k for a candidate at slot t (R324). -/
def inWindow (s : State) (k t a : Nat) : Bool :=
  let ns := s.sch.slotNs
  a ≤ t && match k with
    | 0 => t * ns < a * ns + 10000
    | 1 => t * ns < a * ns + 1000000
    | 2 => t * ns / 1000000 ≤ a * ns / 1000000 + 100
    | _ => t * ns / 100000000 ≤ a * ns / 100000000 + 100

/-- What the buckets before the entry to SCAN still hold in window k at slot t (R326). -/
def pastFill (s : State) (k t : Nat) : Frac :=
  let len := if k = 2 then 1000000 else 100000000
  let bucket := t * s.sch.slotNs / len - s.sch.fillFrom * s.sch.slotNs / len
  if k < 2 then Frac.ofNat 0 else { num := Int.ofNat (s.sch.fill.getD (k - 2) 0 * (100 - bucket)), den := 101 }

/-- The sum of a cell in window k at slot t. -/
def windowSum (s : State) (l : List Charge) (row col k t : Nat) : Frac :=
  Frac.add (pastFill s k t) (Frac.sum ((l.filter fun (c : Charge) =>
    c.row = row && bit c.cols col && inWindow s k t c.at_).map fun (c : Charge) => c.amount))

/-- The largest code depth of the enabled entries: what a shot that has no slot yet may cost (log entry 17). -/
def deepest (s : State) : Nat :=
  (List.range 16).foldl (fun m e => if bit (s.get F.HGE_CODE_EN) e then max m (s.get (F.HGE_CODE_TAB_DEPTH e) + 1) else m) 1

/-- R325: the charges of paddock-critical shots still owed in a frame on a cell. -/
def reserved (s : State) (frame row col : Nat) : Nat :=
  match progFor s frame with
  | none => 0
  | some p => (owesOf s frame).foldl (fun n (o : Owe) =>
      match p.entries[o.entry]? with
      | some e =>
        if o.cls = 0 && !o.short && e.row = row && bit (e.cols &&& s.get F.EMI_COL_EN) col then
          n + o.owed * s.get (F.SCH_EPULSE (row / 4)) * deepest s * (if doubled s then 2 else 1)
        else n
      | none => n) 0

/-- R324, R325: the eye-safety check of a candidate of a class with its charge, against charges l. -/
def eyeOk (s : State) (l : List Charge) (x : Shot) (rank : Nat) (amount : Frac) : Bool :=
  (firedCols s x.cols).all fun col => (List.range 4).all fun k =>
    let keep := if 2 ≤ k && rank != 0 then reserved s x.frame x.row col else 0
    Frac.le (Frac.add (Frac.add (windowSum s l x.row col k x.at_) amount) (Frac.ofNat keep)) (Frac.ofNat (s.get (F.SCH_EYE_CEIL k)))

/-- SCH_EYE_PEAK's account: the highest sum of each window in this frame, after a charge of a shot. -/
def notePeak (s : State) (x : Shot) : State :=
  let best (k : Nat) : Nat × Nat := (firedCols s x.cols).foldl (fun (b : Nat × Nat) col =>
    let w := windowSum s s.sch.charges x.row col k x.at_
    let ceil := s.get (F.SCH_EYE_CEIL k)
    let v := if ceil = 0 then 0xFFFF else min 0xFFFF (divRound (w.num.toNat * 65536) (w.den * ceil))
    if b.2 < v then (32 * x.row + col, v) else b) (s.sch.peak.getD k (0, 0))
  { s with sch := { s.sch with peak := (List.range 4).map best } }

/-! ### Heat, supply and power cap -/

/-- R331: fewer shots of the bank within the last 1 ms than its derated rate. -/
def heatOk (s : State) (l : List Charge) (b t : Nat) : Bool :=
  let ns := s.sch.slotNs
  let n := (l.filter fun (c : Charge) => c.own && c.row / 4 = b && c.at_ ≤ t && t * ns < c.at_ * ns + 1000000).length
  n < bankDerate s (bankAt s b).dT * s.get F.SCH_BANK_RATE / 16

/-- Mean charging energy per pulse of a bank in 1/12,288 of 0.1 uJ (R333). -/
def chargePerPulse (s : State) (b : Nat) : Nat :=
  let l := (bankAt s b).pulses
  if l.length < 1024 then 12288 * s.get F.SCH_CHG_INIT else l.foldl (· + ·) 0

/-- Charging energy of the last 1 ms in 0.1 uJ (R333, SUPPLY_NOW). -/
def energyNow (s : State) : Nat :=
  s.emi.banks.foldl (fun n (b : Bank) => b.recent.foldl (fun n (e : Nat × Nat) =>
    if s.sys.raw < e.1 + 800000 then n + e.2 else n) n) 0

/-- Predicted charge of shots not yet recharged: those in the look-ahead, the committed one and those fired. -/
def predicted (s : State) : Nat :=
  let one (x : Shot) : Nat := x.code.length * chargePerPulse s (x.row / 4)
  let own (x : Shot) : Bool := x.use != .listen && match x.use with
    | .partner _ => false
    | _ => true
  let com := match s.sch.committed with
    | some x => if own x then one x else 0
    | none => 0
  (s.sch.look.filter own).foldl (fun n x => n + one x) com
    + (List.range 8).foldl (fun n b => n + (bankAt s b).depth * chargePerPulse s b) 0

/-- R333: the supply check of an own shot; at commit its own charge is already among those admitted. -/
def supplyOk (s : State) (x : Shot) (counted : Bool) : Bool :=
  let own := if counted then 0 else x.code.length * chargePerPulse s (x.row / 4)
  12288 * energyNow s + predicted s + own ≤ 12288 * 10 * s.get F.SCH_SUPPLY_SUPPLY_CEIL

/-- Power of a cluster shed in a condition, in mW (cluster shed conditions table). -/
def clusterPower (c : Nat) : Nat := [0, 40, 120, 450, 450].getD c 0

/-- Whether a cluster is used by an admitted shot, or by the one whose windows have opened in the present slot (R79). -/
def clusterUsed (s : State) (n : Nat) : Bool :=
  s.sch.look.any (fun (x : Shot) => bit x.cl n)
    || (s.sch.committed.toList ++ (s.sch.fired.take 1).map (·.shot)).any fun (x : Shot) =>
      s.sch.abs + s.sch.next ≤ x.at_ + 1 && bit x.cl n

/-- Planned power of logical cluster n: running for one that an admitted shot uses (R334). -/
def plannedPower (s : State) (cl n : Nat) : Nat :=
  let c := s.get (clst (servedBy s n))
  if (clusterUsed s n || bit cl n) && c != Cl.off then 450 else clusterPower c

/-- R334: P_EST in mW when a shot with a cluster mask is admitted besides (0: none). -/
def powerEstimate (s : State) (cl : Nat) : Nat :=
  s.get F.SCH_PBASE + (List.range 16).foldl (fun n c => n + plannedPower s cl c) 0 + 90 * s.rxf.slices.length

/-- R335: a tracking or survey shot is refused when its admission would raise P_EST above CAP. -/
def capOk (s : State) (cl : Nat) : Bool :=
  powerEstimate s cl ≤ s.get F.SCH_CAP_CAP || powerEstimate s cl ≤ powerEstimate s 0

/-! ### Choosing a shot (R322) -/

/-- The shot of an entry in a slot with the settings and the code of its frame. -/
def shotOf (n : State) (e : Entry) (use : Use) (entry ring : Nat) (pc : Bool) (x : SlotId) (code : Nat × Nat) : Shot :=
  { at_ := x.at_, frame := x.frame, slot := x.i, use := use, entry := entry, row := e.row, cols := e.cols, cl := e.cl, dir := e.dir,
    prof := e.prof, start := n.get (F.TDC_WIN_PROF_START e.prof), stop := n.get (F.TDC_WIN_PROF_END e.prof),
    code := codeOffsets n code.1, dither := code.2, pc := pc, ring := ring }

/-- Code entry and dither of a slot: from the device's own generator, or the partner's for a slot it owns (R240). -/
def codeOf (n : State) (own : Bool) (x : SlotId) : Nat × Nat :=
  slotCode n (n.get (if own then F.HGE_SEED else F.HGE_PSEED)) x.frame x.i

/-- Whether candidate a comes before b for slots left after the slot (R322). -/
def comesBefore (left : Nat) (a b : Owe) : Bool :=
  let slack (o : Owe) : Int := Int.ofNat left - (Int.ofNat o.owed - 1) * Int.ofNat o.gap
  let started (o : Owe) : Bool := 0 < o.fired || o.owed < o.burst
  if a.rank = 0 then slack a < slack b || (slack a = slack b && a.entry < b.entry)
  else (started a && !started b) || (started a = started b && a.entry < b.entry)

/-- What the search for a shot has found so far. -/
structure Search where
  s : State
  best : Option (Owe × Shot)

/-- One entry is weighed; a refusal by a budget is counted. -/
def weigh (n : State) (p : Prog) (x : SlotId) (code : Nat × Nat) (rank : Nat) (a : Search) (o : Owe) : Search :=
  let s := a.s
  match p.entries[o.entry]? with
  | none => a
  | some e =>
    if o.rank != rank || o.owed = 0 || (splitsEntries s && o.entry % 2 != sideNow s) || !spacingOk s x.frame x.at_ o
      || entryOut s e || !anyWindow s e.cl then a
    else
      let y := shotOf n e .own o.entry o.ring (o.cls = 0) x code
      let b := e.row / 4
      let l := s.sch.charges ++ lookCharges s
      if !eyeOk s l y rank (ownCharge s y (s.get (F.EMI_BANK_CFG_VSET b))) then { a with s := s.inc F.SCH_CNT_EYE }
      else if !heatOk s l b x.at_ then { a with s := s.inc F.SCH_CNT_HEAT }
      else if !supplyOk s y false then { a with s := s.inc F.SCH_CNT_SUPPLY }
      else if rank != 0 && !capOk s e.cl then { a with s := s.inc F.SCH_CNT_CAP }
      else match a.best with
        | some (b, _) => if comesBefore (slotsAfter s p x.i) o b then { a with best := some (o, y) } else a
        | none => { a with best := some (o, y) }

/-- The classes in order, until one offers a shot. -/
def choose (n : State) (p : Prog) (x : SlotId) (code : Nat × Nat) : List Nat → State → Search
  | [], s => { s := s, best := none }
  | rank :: r, s =>
    let a := (owesOf s x.frame).foldl (weigh n p x code rank) { s := s, best := none }
    if a.best.isSome then a else choose n p x code r a.s

/-! ### Admission (R230, R234, R285, R297, R318, R341) -/

/-- Logical cluster, channel and direction of every channel of a shot, in rank order (R311). -/
def servedDirs (x : Shot) : List (Nat × Nat × Nat) :=
  ((List.range 16).filter fun n => bit x.cl n).zipIdx.foldl (fun l (e : Nat × Nat) =>
    l ++ channels64.map fun c => (e.1, c, x.dir + 64 * e.2 + c)) []

/-- A direction's burst is refused (R234). -/
def refuseBurst (s : State) (x : Shot) (dir : Nat) : State :=
  { s with hge := { s.hge with refused := s.hge.refused ++ [{ dir := dir, frame := x.frame, slot := x.at_, ring := x.ring }] } }

/-- A direction's cell is placed, or its burst refused (R230 to R234); shots is how many its entry owes, and e the logical cluster,
the channel and the direction. -/
def placeDir (n : State) (shots : Nat) (x : Shot) (s : State) (e : Nat × Nat × Nat) : State :=
  let dir := e.2.2
  let bw := n.get (F.HGE_PROF_BW x.prof)
  let bins := cellBins x.start x.stop bw
  let packed := n.flag F.HGE_CTRL_PACKED
  if (cellOf s dir x.frame).isSome || s.hge.refused.any (fun (r : Refused) => r.dir = dir && r.frame = x.frame)
    || s.hge.lost.contains (dir, x.frame) then s
  else if 131072 ≤ openCells s then refuseBurst s x dir
  else match (cellSize packed bins).bind (placeCell s) with
    | none => refuseBurst s x dir
    | some (stall, k, t) =>
      { t with hge := { t.hge with cells := t.hge.cells ++
        [{ dir := dir, frame := x.frame, pc := x.pc, ring := x.ring, start := x.start,
           stop := if x.stop = 1638 then 131072 else 80 * x.stop, bw := binSteps bw,
           pre := n.get (F.HGE_PROF_PRE x.prof), prePos := n.flag (F.HGE_PROF_PRE_POS x.prof), packed := packed,
           stall := stall, k := k, bins := List.replicate bins 0, wsum := List.replicate (bins / 8) 0,
           wsat := List.replicate (bins / 8) 0, left := shots, shots := 0, events := 0, sats := 0, shadows := 0,
           drop := false, bridge := false, mixed := false, cntSat := false, taken := [], base := x.at_ - x.slot, chan := 64 * e.1 + e.2.1, closed := false,
           short := false, stale := false, closedAt := 0, src := none }] } }

/-- The cells of a shot are placed and far-yard stalls fetched. -/
def placeCells (n : State) (shots : Nat) (x : Shot) (s : State) : State :=
  let l := (servedDirs x).filter fun e => clusterOpen s e.1 && channelOpen s e.1 e.2.1
  let dirs := l.map fun e => e.2.2
  fetchFar (l.foldl (placeDir n shots x) (serveFetches s)) fun d => dirs.contains d

/-- The clusters of an admitted shot that are cold or warm restart (R341). -/
def wakeClusters (s : State) (cl : Nat) : State :=
  (List.range 16).foldl (fun (t : State) k =>
    let f := clst (servedBy s k)
    if bit cl k && clusterOpen s k && (t.get f = Cl.cold || t.get f = Cl.warm) then
      { t.set f Cl.restarting with sch := { t.sch with capCold := clearBit t.sch.capCold k } }
    else t) s

/-- A paddock-critical shot takes P_EST above CAP (R336). -/
def noteCap (s : State) (rank cl : Nat) : State :=
  if rank = 0 && s.get F.SCH_CAP_CAP < powerEstimate s cl && !s.sch.capDone then
    raiseFault { s.set F.SCH_STATUS_CAP_OVER 1 with sch := { s.sch with capDone := true } } 0 0x0903 0
  else s

/-- A shot enters the look-ahead. -/
def enterLook (s : State) (x : Shot) : State := { s with sch := { s.sch with look := s.sch.look ++ [x] } }

/-- The listen entry's shot in a slot (R309). -/
def listenShot (n : State) (p : Prog) (x : SlotId) : Option Shot :=
  (p.entries[p.listen]?).map fun e => { shotOf n e .listen p.listen 0 false x (0, 0) with code := [0], cols := 0 }

/-- R318: admission for slot x. -/
def admitShot (s : State) (x : SlotId) : State :=
  match progFor s x.frame with
  | none => s
  | some p =>
    let s := if x.i = 0 then { s with sch := { s.sch with owesNext := dueOwes p x.frame } } else s
    let n := settingsOf s x
    if p.listens x.i then
      match listenShot n p x with
      | some y => enterLook (wakeClusters s y.cl) y
      | none => s
    else if !ownsSlot s x.i then s
    else
      let a := choose n p x (codeOf n true x) [0, 1, 2] s
      match a.best with
      | none => a.s
      | some (o, y) =>
        let t := updOwe (noteCap a.s o.rank y.cl) x.frame o.entry fun o => { o with owed := o.owed - 1 }
        placeCells n o.owed y (enterLook (wakeClusters t y.cl) y)

/-! ### Commit (R319 to R321, R328, R353) -/

/-- Whether every cluster that can open windows for a shot runs (R78). -/
def clustersRun (s : State) (cl : Nat) : Bool :=
  (List.range 16).all fun n => !bit cl n || !clusterOpen s n || s.get (clst (servedBy s n)) = Cl.running

/-- Whether the cells of a shot are placed in the loft or the near yard (R276, R285); the updates of one that moves between them
wait for its move (R290). A listen shot has no cells (R309). -/
def cellsReady (s : State) (x : Shot) : Bool :=
  x.use == .listen || (servedDirs x).all fun e => match cellOf s e.2.2 x.frame with
    | some c => stallNear s c.stall
    | none => true

/-- First phase mark of bank b at or after a time in ns (R349). -/
def phaseMark (b t : Nat) : Nat := divUp (t - 40 * b) 320 * 320 + 40 * b

/-- R353, R694: the bank's recharge will have ended by the row select of slot t. -/
def rechargeInTime (s : State) (b t : Nat) : Bool :=
  let x := bankAt s b
  match x.due with
  | none => true
  | some e => !x.initial && phaseMark b (e + 50) + 10 * rchEst s b ≤ t * s.sch.slotNs + 40

/-- R326: the first shot of a SCAN comes no earlier than 1 ms after the last shot of the previous one. -/
def tooEarly (s : State) : Bool :=
  match s.sch.lastShot with
  | some t => t < s.sch.startAt && s.sys.raw + 4 * s.sch.slotNs / 5 < t + 800000
  | none => false

/-- Why a commit fails: 0 nothing, 1 cells or clusters, 2 eye, 3 heat, 4 supply or recharge (R353), 5 the bank's range (R328). -/
def commitFails (s : State) (x : Shot) (rank : Nat) : Nat :=
  let b := x.row / 4
  let l := s.sch.charges ++ (lookCharges s).filter fun (c : Charge) => c.at_ < x.at_
  if !cellsReady s x || !clustersRun s x.cl || tooEarly s then 1
  else if !eyeOk s l x rank (ownCharge s x (vLast s b)) then 2
  else if !heatOk s l b x.at_ then 3
  else if (bankAt s b).range then 5
  else if !supplyOk s x (s.sch.look.contains x) || !rechargeInTime s b x.at_ then 4
  else 0

/-- A budget that refuses is counted. -/
def countFail (s : State) (k : Nat) : State :=
  match k with
  | 2 => s.inc F.SCH_CNT_EYE
  | 3 => s.inc F.SCH_CNT_HEAT
  | 4 => s.inc F.SCH_CNT_SUPPLY
  | _ => s

/-- A shot is committed: charged at the bank's voltage, and out of the look-ahead (R319, R323). -/
def commitShot (s : State) (x : Shot) (old : Shot) : State :=
  let t := { s with sch := { s.sch with look := s.sch.look.filter (· != old), committed := some x,
                                        charges := s.sch.charges ++ [chargeOf s x (ownCharge s x (vLast s (x.row / 4))) true] } }
  notePeak (if x.use == .own then noteLast t x.entry x.at_ else t) x

/-- The class of a shot's entry as it counts now. -/
def rankOf (s : State) (x : Shot) : Nat :=
  match (owesOf s x.frame).find? fun (o : Owe) => o.entry == x.entry with
  | some o => o.rank
  | none => 2

/-- A shot is deferred (R319). -/
def deferShot (s : State) (x : Shot) : State :=
  let t := giveBack { s with sch := { s.sch with look := s.sch.look.filter (· != x) } } x
  (if cellsReady s x then t else t.inc F.YRD_CNT_DEFER).inc F.SCH_CNT_DEFER

/-- A shot as it would fire in slot x: with the code and the dither of that slot (R320). -/
def movedTo (n : State) (x : SlotId) (y : Shot) : Shot :=
  let c := codeOf n true x
  { y with at_ := x.at_, slot := x.i, code := codeOffsets n c.1, dither := c.2 }

/-- R320: the earliest later own shot of the same frame that passes R319 and keeps its spacing moves forward; y is the
list of shots still to try. -/
def refill (n : State) (x : SlotId) (s : State) : List Shot → Option State
  | [] => none
  | y :: r =>
    let z := movedTo n x y
    let t := { s with sch := { s.sch with look := s.sch.look.map fun (w : Shot) => if w = y then z else w } }
    let near := match (owesOf s y.frame).find? fun (o : Owe) => o.entry == y.entry with
      | some o => spacingOk t x.frame x.at_ o
      | none => true
    if y.use == .own && y.frame = x.frame && mayFire s x.i y && near && commitFails t z (rankOf s y) = 0 then some (commitShot t z z)
    else refill n x s r

/-- R321, R359 to R364: the single-cell shot that waits, with the state that has taken it from its list. -/
def nextCell (s : State) : Option (Use × Nat × State) :=
  match s.emi.locate, s.emi.retry, sweepLeft s with
  | c :: r, _, _ => some (.locate, c, { s with emi := { s.emi with locate := r } })
  | [], c :: r, _ => some (.retry, c, { s with emi := { s.emi with retry := r } })
  | [], [], c :: r => some (.sweep, c, { s with emi := { s.emi with sweep := r } })
  | [], [], [] => none

/-- R321, R620: whether a groom may ask for shots: a full one that runs in SCAN with a cover glass. -/
def groomAsks (s : State) : Bool :=
  s.mode.scanning && s.get F.CAL_CG_CG_DIST != 0 && s.cal.grooms.any fun (g : Groom) => g.full && !g.waiting

/-- R321: an idle slot is offered to a groom. How many shots it asks for, and their rows and columns, are open (log entry 72). -/
def offerGroom (n : State) (x : SlotId) (s : State) : Bool × State :=
  if !groomAsks s then (false, s)
  else
    let (v, t) := s.takeFree 38
    let e : Entry := { row := bits v 1 5, prof := n.get F.CAL_CG_CG_PROF, cl := 0, cols := bits v 6 32, dir := 0 }
    let y := shotOf n e .groom 0 0 false x (codeOf n true x)
    if bit v 0 && !entryOut t e && commitFails t y 2 = 0 then (true, commitShot t y y) else (false, t)

/-- R321: an idle slot is offered to emitter diagnosis. -/
def offerCell (n : State) (x : SlotId) (s : State) : Option State :=
  match nextCell s with
  | none => none
  | some (use, cell, t) =>
    let e : Entry := { row := cell / 32, prof := 0, cl := 0, cols := 2 ^ (cell % 32), dir := 0 }
    let y := shotOf n e use 0 0 false x (codeOf n true x)
    if commitFails s y 2 = 0 then some (commitShot t y y) else none

/-- R319 to R321: the commit for the slot after the present one. A shot admitted before the slot or its entry's parity went to
the partner is deferred (R306, R307). -/
def commitNext (s : State) : State :=
  let x := slotAhead s 1
  let n := settingsOf s x
  let s := { s with sch := { s.sch with committed := none } }
  match s.sch.look.find? fun (y : Shot) => y.at_ == x.at_ with
  | some y =>
    match y.use with
    | .own =>
      if mayFire s x.i y then
        let k := commitFails s y (rankOf s y)
        if k = 0 then commitShot s y y else fill n x (countFail (deferShot s y) k)
      else if ownsSlot s x.i then fill n x (deferShot s y)
      else deferShot s y
    | _ =>
      let t := { s with sch := { s.sch with look := s.sch.look.filter (· != y) } }
      if cellsReady s y && clustersRun s y.cl then { t with sch := { t.sch with committed := some y } } else t
  | none =>
    if ownsSlot s x.i && !((progFor s x.frame).map fun p => p.listens x.i).getD true then fill n x s else s
where
  /-- R320, R321: the slot is refilled, offered to a groom and to diagnosis, or idle. -/
  fill (n : State) (x : SlotId) (s : State) : State :=
    match refill n x s s.sch.look with
    | some t => t
    | none =>
      let (taken, t) := offerGroom n x s
      if taken then t else (offerCell n x t).getD (t.inc F.SCH_CNT_IDLE)

/-! ### Shortfall (R337 to R339) -/

/-- Shots of an entry not yet fired in the present frame: owed, in the look-ahead, or committed. -/
def stillOwed (s : State) (o : Owe) : Nat :=
  let mine (x : Shot) : Bool := x.use == .own && x.frame = s.sch.frame && x.entry = o.entry
  let com := match s.sch.committed with
    | some x => b2n (mine x)
    | none => 0
  o.owed + (s.sch.look.filter mine).length + com

/-- The entry with most shots owed, the higher index on a tie. -/
def mostOwed (s : State) (l : List Owe) : Option Owe :=
  l.foldl (fun b (o : Owe) => match b with
    | none => some o
    | some x =>
      if stillOwed s x < stillOwed s o || (stillOwed s x = stillOwed s o && x.entry < o.entry) then some o else some x) none

/-- Whether this device must fire an entry's shots (R307). -/
def firesEntry (s : State) (o : Owe) : Bool := !(splitsEntries s && o.entry % 2 != sideNow s)

/-- Unmarked paddock-critical entries of the present frame that this device must fire. -/
def criticalOwes (s : State) : List Owe := s.sch.owes.filter fun (o : Owe) => o.cls = 0 && !o.short && firesEntry s o

/-- The last case of R337: entries are marked until the sum fits. -/
def markUntilFits (left : Nat) : Nat → State → State
  | 0, s => s
  | fuel + 1, s =>
    let l := criticalOwes s
    if (l.map (stillOwed s)).foldl (· + ·) 0 ≤ left then s
    else match mostOwed s l with
      | some o => markUntilFits left fuel (markShort s o.entry)
      | none => s

/-- R337: the test of a slot start; a bank or clusters out of service mark the partner's entries too. -/
def shortfall (s : State) : State :=
  match progNow s with
  | none => s
  | some p =>
    let left := slotsAfter s p (s.sch.next - 1)
    let t := (s.sch.owes.filter fun (o : Owe) => o.cls = 0 && !o.short).foldl (fun (t : State) (o : Owe) =>
      let out := match p.entries[o.entry]? with
        | some e => entryOut s e || !anyWindow s e.cl
        | none => false
      let n := stillOwed s o
      if out || (firesEntry s o && n != 0 && left < (n - 1) * o.gap + 1) then markShort t o.entry else t) s
    markUntilFits left t.sch.owes.length t

/-! ### Clusters and cap at each slot (R77, R335) -/

/-- The entries due in the next frame, with those of this one that carrying will make due (R312). -/
def nextDue (s : State) : List Nat :=
  let next := (s.sch.frame + 1) % 2 ^ 32
  let due := ((progFor s next).map fun p => (dueOwes p next).map fun (o : Owe) => o.entry).getD []
  if s.flag F.SCH_CTRL_CARRY_EN && !switched s next then
    due ++ (s.sch.owes.filter fun (o : Owe) => o.cls != 0 && o.fired = 0).map fun (o : Owe) => o.entry
  else due

/-- Whether an entry due in the next frame needs logical cluster n (R342). -/
def nextNeeds (s : State) (n : Nat) : Bool :=
  match progFor s ((s.sch.frame + 1) % 2 ^ 32) with
  | some p => (nextDue s).any fun k => match p.entries[k]? with
    | some e => bit e.cl n
    | none => false
  | none => false

/-- R342: 64 slots and 200 us remain in the frame, or less. -/
def frameEnds (s : State) : Bool := (s.sch.slots - s.sch.next) * s.sch.slotNs ≤ 64 * s.sch.slotNs + 200000

/-- R77: clusters without a shot in the look-ahead go to warm, or to cold where COLD_EN allows it and neither the rest of the
frame nor, towards its end, the next one needs them (R342). -/
def parkClusters (s : State) : State :=
  let uses (p : Prog) (k n : Nat) : Bool := match p.entries[k]? with
    | some e => bit e.cl n
    | none => false
  let needed (n : Nat) : Bool := match progNow s with
    | some p => s.sch.owes.any (fun (o : Owe) => o.owed != 0 && uses p o.entry n)
        || (uses p p.listen n && (List.range s.sch.slots).any fun i => s.sch.next ≤ i && p.listens i)
        || (frameEnds s && nextNeeds s n)
    | none => false
  (List.range 16).foldl (fun (t : State) n =>
    let f := clst (servedBy s n)
    let c := t.get f
    if clusterUsed s n || !(c = Cl.running || c = Cl.warm) then t
    else if s.flag F.SHD_ALLOW_COLD_EN && !needed n then t.set f Cl.cold
    else if c = Cl.running then t.set f Cl.warm else t) s

/-- R335: while P_EST exceeds CAP, warm clusters without an admitted shot go cold, then engine slices whose average has not
started are given up. -/
def enforceCap (s : State) : State :=
  let above (t : State) : Bool := t.get F.SCH_CAP_CAP < powerEstimate t 0
  let t := (List.range 16).foldl (fun (t : State) n =>
    let f := clst (servedBy s n)
    if above t && t.get f = Cl.warm && !clusterUsed t n then
      { t.set f Cl.cold with sch := { t.sch with capCold := setBit t.sch.capCold n } }
    else t) s
  s.rxf.slices.foldl (fun (t : State) (y : Slice) =>
    if above t && t.flag (F.RXF_OBS_ENGINE y.n) && y.left = sliceShots t y.n then setSlice (shapeMissed t y.n) y.n none else t) t

/-- R342: 64 slots and 200 us before the frame's end a cold cluster that an entry due in the next frame needs starts its
restart; one held cold by the cap only where P_EST with it warm stays within CAP. -/
def execClusterRestartStart (cluster : Fin 16) (s : State) : Host.Outcome State Fault Refusal :=
  let n := cluster.val
  let f := clst (servedBy s n)
  if !s.sch.running || s.get f != Cl.cold || !nextNeeds s n
    || (bit s.sch.capCold n && s.get F.SCH_CAP_CAP < powerEstimate s 0 + 80) then .next s
  else .next { s.set f Cl.restarting with sch := { s.sch with capCold := clearBit s.sch.capCold n } }

end Sys2Proof.Machine
end

