-- ==== Sys2Proof/Machine/Prog.lean ====
section
/-! DEFINITION. Scan programs: their layout, load checks and need (R300, R310, R313, R695), and the commands LOAD_SCAN_PROG,
SET_TIMING and SET_POINT_RING. -/

namespace Sys2Proof.Machine

/-! ### Layout (R310) -/

/-- Byte offset of group g and of entry e in a program with so many groups. -/
def groupAt (g : Nat) : Nat := 64 + 32 * g
def entryOff (groups e : Nat) : Nat := 64 + 32 * groups + 16 * e

/-- The group record at an offset. -/
def readGroup (d : List Byte) (o : Nat) : ShotGroup :=
  { first := leAt d o 4, count := leAt d (o + 4) 4, cls := leAt d (o + 8) 1, burst := leAt d (o + 9) 1,
    revisit := leAt d (o + 0xA) 1, phase := leAt d (o + 0xB) 1, ring := leAt d (o + 0xC) 1, spacing := leAt d (o + 0xE) 2 }

/-- The shot entry at an offset. -/
def readEntry (d : List Byte) (o : Nat) : Entry :=
  let w := leAt d o 4
  { row := bits w 0 5, prof := bits w 5 4, cl := bits w 16 16, cols := leAt d (o + 4) 4, dir := bits (leAt d (o + 8) 4) 0 17 }

/-- The program that a buffer spells; its need is set by the caller. -/
def readProg (d : List Byte) : Prog :=
  let groups := leAt d 6 2
  { slotNs := leAt d 0xC 4, frameUs := leAt d 0x10 4, period := leAt d 0x14 2, phase := leAt d 0x16 2, listen := leAt d 0x18 4,
    groups := (List.range groups).map fun g => readGroup d (groupAt g),
    entries := (List.range (leAt d 8 4)).map fun e => readEntry d (entryOff groups e), crc := crc32c d, need := 0 }

/-! ### Load checks (R313, R695): check number and byte offset of the first fault -/

/-- The first pair of a list whose condition fails, as its offset. -/
def firstBad (l : List (Bool × Nat)) : Option Nat := (l.find? fun e => !e.1).map (·.2)

/-- Limits of SET_TIMING (R148). -/
def slotOk (ns : Nat) : Bool := 1000 ≤ ns && ns ≤ 10000 && ns % 5 = 0
def frameOk (ns us : Nat) : Bool := 20000 ≤ us && us ≤ 100000 && us * 1000 % ns = 0

/-- The first byte of a range that is not 0. -/
def firstSetByte (d : List Byte) (off n : Nat) : Option Nat :=
  ((List.range n).find? fun i => (d.getD (off + i) 0) != 0).map (off + ·)

/-- Check 1: header fields, length, reserved bits. -/
def progCheck1 (d : List Byte) : Option Nat :=
  let g := leAt d 6 2
  let n := leAt d 8 4
  let per := leAt d 0x14 2
  let head := firstBad [(leAt d 0 4 == 0x50535A46, 0), (leAt d 4 2 == 1, 4), (1 ≤ g && g ≤ 256, 6), (1 ≤ n && n ≤ 65536, 8),
    (slotOk (leAt d 0xC 4), 0xC), (frameOk (leAt d 0xC 4) (leAt d 0x10 4), 0x10), (per = 0 || (2 ≤ per && per ≤ 1024), 0x14),
    (if per = 0 then leAt d 0x16 2 == 0 else leAt d 0x16 2 < per, 0x16),
    (if per = 0 then leAt d 0x18 4 == 0xFFFFFFFF else leAt d 0x18 4 < n, 0x18), (zeroAt d 0x1C 36, (firstSetByte d 0x1C 36).getD 0)]
  match head with
  | some o => some o
  | none =>
    if d.length < entryOff g n then some d.length
    else match (List.range g).findSome? fun k => match firstSetByte d (groupAt k + 0xD) 1 with
        | some o => some o
        | none => firstSetByte d (groupAt k + 0x10) 16 with
      | some o => some o
      | none => match (List.range n).findSome? fun k =>
          let o := entryOff g k
          firstBad [(bits (leAt d o 4) 9 7 == 0, o + 1), (bits (leAt d (o + 8) 4) 17 15 == 0, o + 10), (leAt d (o + 12) 4 == 0, o + 12)] with
        | some o => some o
        | none => firstSetByte d (entryOff g n) (d.length - entryOff g n)

/-- Check 2: the groups. -/
def progCheck2 (p : Prog) : Option Nat :=
  (p.groups.zipIdx).findSome? fun e =>
    let g := e.1
    let o := groupAt e.2
    let apart := (p.groups.take e.2).all fun (x : ShotGroup) => x.first + x.count ≤ g.first || g.first + g.count ≤ x.first
    firstBad [(g.first < p.entries.length, o), (apart, o), (1 ≤ g.count && g.first + g.count ≤ p.entries.length, o + 4), (g.cls ≤ 2, o + 8),
      (1 ≤ g.burst, o + 9), (1 ≤ g.revisit && g.revisit ≤ 16 && (g.cls != 0 || g.revisit = 1), o + 0xA), (g.phase < g.revisit, o + 0xB),
      (g.ring ≤ 3, o + 0xC)]

/-- Whether an entry belongs to a group. -/
def Prog.grouped (p : Prog) (e : Nat) : Bool := p.groups.any fun (g : ShotGroup) => g.first ≤ e && e < g.first + g.count

/-- Directions that an entry serves: a run from DIR_BASE (R311). -/
def Entry.span (e : Entry) : Nat := 64 * popCount 16 e.cl

/-- Check 3: the entries, and the listen entry. -/
def progCheck3 (p : Prog) : Option Nat :=
  let off (k : Nat) : Nat := entryOff p.groups.length k
  let l := p.entries.zipIdx
  match l.findSome? fun e =>
      let x := e.1
      let n := popCount 16 x.cl
      let dup := p.grouped e.2 && (l.take e.2).any fun y => p.grouped y.2 && x.dir < y.1.dir + y.1.span && y.1.dir < x.dir + x.span
      firstBad [(1 ≤ n && n ≤ 4, off e.2 + 2), (x.cols != 0, off e.2 + 4), (x.dir + x.span ≤ 131072 && !dup, off e.2 + 8)] with
  | some o => some o
  | none => if p.period != 0 && p.grouped p.listen then some 0x18 else none

/-- Check 4: R23 (the offset is that of the entry's profile). -/
def progCheck4 (s : State) (p : Prog) : Option Nat :=
  (p.entries.zipIdx).findSome? fun e =>
    let x := e.1
    let ok (dither span : Nat) : Bool := windowFits (s.get (F.TDC_WIN_PROF_END x.prof)) dither span p.slotNs
    let fine := (!p.grouped e.2 || ok (s.get F.HGE_DITHER) (codeSpan s)) && (p.period = 0 || e.2 != p.listen || ok 0 0)
    if fine then none else some (entryOff p.groups.length e.2)

/-- Bins of the cells of a profile now. -/
def profBins (s : State) (x : Entry) : Nat :=
  cellBins (s.get (F.TDC_WIN_PROF_START x.prof)) (s.get (F.TDC_WIN_PROF_END x.prof)) (s.get (F.HGE_PROF_BW x.prof))

/-- Check 5: R232 and R233. -/
def progCheck5 (s : State) (p : Prog) : Option Nat :=
  (p.entries.zipIdx).findSome? fun e =>
    let n := profBins s e.1
    if !p.grouped e.2 || ((cellSize (s.flag F.HGE_CTRL_PACKED) n).isSome && 2 * preBins (s.get (F.HGE_PROF_PRE e.1.prof)) ≤ n) then none
    else some (entryOff p.groups.length e.2)

/-- Slots of a frame of a program, and the listen slots among them (R309). -/
def Prog.slots (p : Prog) : Nat := p.frameUs * 1000 / p.slotNs
def Prog.listenSlots (p : Prog) : Nat := if p.period = 0 then 0 else divUp (p.slots - p.phase) p.period

/-- Paddock-critical shots of a frame up to and with group k: all of them, or those of the entries of one parity. -/
def criticalShots (p : Prog) (parity : Option Nat) (k : Nat) : Nat :=
  (p.groups.take (k + 1)).foldl (fun n (g : ShotGroup) =>
    if g.cls != 0 then n
    else n + g.burst * (match parity with
      | none => g.count
      | some q => (g.count + 1 - (g.first + q) % 2) / 2)) 0

/-- Check 6: the share of paddock-critical shots. -/
def progCheck6 (s : State) (p : Prog) : Option Nat :=
  let room := s.get F.SCH_CTRL_PC_SHARE * (p.slots - p.listenSlots)
  let exceeds (k : Nat) : Bool :=
    if s.get F.RED_STATUS_MODE = 1 then room < 512 * criticalShots p (some 0) k || room < 512 * criticalShots p (some 1) k
    else room < 256 * criticalShots p none k
  ((List.range p.groups.length).find? fun k => (p.groups[k]?.map (·.cls)) == some 0 && exceeds k).map fun k => groupAt k + 8

/-- R313: the first failing check of a buffer with its offset. -/
def progFault (s : State) (d : List Byte) : Option (Nat × Nat) :=
  let p := readProg d
  match progCheck1 d with
  | some o => some (1, o)
  | none => match progCheck2 p with
    | some o => some (2, o)
    | none => match progCheck3 p with
      | some o => some (3, o)
      | none => match progCheck4 s p with
        | some o => some (4, o)
        | none => match progCheck5 s p with
          | some o => some (5, o)
          | none => (progCheck6 s p).map fun o => (6, o)

/-- R300: stalls that the cells of a program's groups need. -/
def progNeed (s : State) (p : Prog) : Nat :=
  let l := (p.entries.zipIdx).filter fun e => p.grouped e.2
  (List.range 4).foldl (fun n k => n + divUp ((l.foldl (fun m e =>
    if cellSize (s.flag F.HGE_CTRL_PACKED) (profBins s e.1) = some k then m + e.1.span else m) 0) * 2 ^ k) 32) 0

/-! ### LOAD_SCAN_PROG -/

/-- The program slot that a scan command names. -/
def Cmd.slot (c : Cmd) : Nat := c.dw 4 % 2

/-- Whether the committed configuration lists a program's CRC-32C (R145, R316). -/
def crcListed (s : State) (crc : Nat) : Bool :=
  match s.saf.cfg with
  | some c => c.progCrc.contains crc
  | none => false

/-- An accepted LOAD_SCAN_PROG of a program slot has not ended: it holds the slot (R133). -/
def loadHolds (s : State) (k : Nat) : Bool :=
  s.cmd.cmds.any fun (x : Cmd) => x.opcode == 0x0200 && x.first && x.phase != .done && x.slot = k

/-- R133, R315: LOAD_SCAN_PROG of the slot in use while frames run, or of the one a SCAN_SWITCH waits for, is BUSY. -/
def loadProgCheck (s : State) (c : Cmd) : Option Nat :=
  stdCheck s c false false ((s.mode.scanning && c.slot = s.sch.cur) || (s.sch.switchTo.map (·.1)) == some c.slot || s.red.wait == some c.slot
    || loadHolds s c.slot)

/-- R313, R692: the checks of the buffer's contents, with SCH_LOAD_ERR: status and DETAIL of the first that fails. -/
def loadProgContents (s : State) (d : List Byte) : Option (Nat × Nat) × State :=
  match progFault s d with
  | some (k, o) => (some (St.badParam, 0x7C), (s.set F.SCH_LOAD_ERR_CHECK k).set F.SCH_LOAD_ERR_OFFSET o)
  | none =>
    let p := readProg d
    let t := (s.set F.SCH_LOAD_ERR_CHECK 0).set F.SCH_LOAD_ERR_OFFSET 0
    if s.saf.cfg.isSome && !crcListed s p.crc then (some (St.locked, 0), t)
    else if availableStalls s < progNeed s p then (some (St.resource, 0), t)
    else (none, t)

/-- R313: LOAD_SCAN_PROG puts the program in its slot. -/
def execLoadScanProg (port : Port) (tag : Nat) (s : State) : Host.Outcome State Fault Refusal :=
  withCmd s port tag 0x0200 loadProgCheck fun s c => begin_ s c fun t c =>
    match loadProgContents t c.data with
    | (some (st, detail), u) => refuse u c st detail
    | (none, u) =>
      let q := readProg c.data
      let p := { q with need := progNeed u q }
      let w := if c.slot = 0 then (u.set F.SCH_PROG_CRC0 p.crc).set F.SCH_STATUS_PROG0_VALID 1
        else (u.set F.SCH_PROG_CRC1 p.crc).set F.SCH_STATUS_PROG1_VALID 1
      finishOk { w with sch := { w.sch with progs := putAt w.sch.progs c.slot none (some p) } } c p.crc

/-! ### SET_TIMING and SET_POINT_RING -/

/-- R145, R148: SET_TIMING; it is locked by a commit. -/
def execSetTiming (port : Port) (tag : Nat) (s : State) : Host.Outcome State Fault Refusal :=
  withCmd s port tag 0x0204 (fun s c => stdCheck s c (committed s) false s.sys.trans.isSome) fun s c =>
    let ns := c.dw 4
    let us := c.dw 5
    finishOk { s with sch := { s.sch with slotNs := ns, frameUs := us, slots := us * 1000 / ns } } c 0

/-- R264: the limits of SET_POINT_RING. -/
def pointRingOk (c : Cmd) : Bool :=
  let size := c.dw 7
  let unit := if bit (c.dw 8) 0 then 12288 else 4096
  c.dw 5 % 4096 = 0 && (size = 0 || (65536 ≤ size && size ≤ 3 * 2 ^ 30 && size % unit = 0))

/-- R264: SET_POINT_RING: pointers return to 0, records held stay, and the header of their frame is due again. -/
def execSetPointRing (port : Port) (tag : Nat) (s : State) : Host.Outcome State Fault Refusal :=
  withCmd s port tag 0x0205 (fun s c => stdCheck s c false false s.sys.trans.isSome) fun s c =>
    let n := c.dw 4 % 4
    let t := ((s.set (F.HGE_RING_BASE n) (c.dw 5 + 2 ^ 32 * c.dw 6)).set (F.HGE_RING_CFG_SIZE n) (c.dw 7 / 4096)).put
      (F.HGE_RING_CFG_FUSED n) (bit (c.dw 8) 0)
    let u := ((t.set (F.HGE_RING_WPTR n) 0).set (F.HGE_RING_LAP n) 0).set (F.HGE_RING_RPTR n) 0
    let r := ringAt u n
    finishOk (setRing u n { r with hdrDue := !r.queue.isEmpty }) c 0

end Sys2Proof.Machine
end

