-- ==== Sys2Proof/Machine/Thm.lean ====
section
/-! DEFINITION. The thermal path: configuration and settling, the monitor chain, correction, flat field, frames and the
radiance of fused records (chapter 12). -/

namespace Sys2Proof.Machine

/-! ### Geometry (R377 to R379) -/

/-- Taps of a TAPS code. -/
def tapsOf (code : Nat) : Nat := 4 * 2 ^ min code 2

/-- Frame length in pixel periods for a geometry (R379). -/
def framePeriods (cols rows taps lblank fblank : Nat) : Nat := rows * (cols / taps + lblank) + fblank

/-- The present frame length in pixel periods. -/
def frameLen (s : State) : Nat :=
  framePeriods (s.get F.THM_GEOM_COLS) (s.get F.THM_GEOM_ROWS) (tapsOf (s.get F.THM_GEOM_TAPS)) (s.get F.THM_BLANK_LBLANK)
    (s.get F.THM_BLANK_FBLANK)

/-- Whether a state's geometry registers meet R377 and R379. F / f_pix in us is F * PIX_DIV / 12,800. -/
def geometryOk (s : State) : Bool :=
  let cols := s.get F.THM_GEOM_COLS
  let rows := s.get F.THM_GEOM_ROWS
  let code := s.get F.THM_GEOM_TAPS
  let d := s.get F.THM_PIXCLK
  let f := frameLen s * d
  code ≤ 2 && 64 ≤ cols && cols ≤ 1280 && cols % tapsOf code = 0 && 48 ≤ rows && rows ≤ 1024
    && 4 ≤ s.get F.THM_BLANK_LBLANK && 64 ≤ s.get F.THM_BLANK_FBLANK && 2443 ≤ d && d ≤ 40960
    && 8333 * 12800 ≤ f && f ≤ 1000000 * 12800

/-- Columns times rows. -/
def pixelCount (s : State) : Nat := s.get F.THM_GEOM_COLS * s.get F.THM_GEOM_ROWS

/-- Whether frames run: EN is 1 and the path is settling or running. -/
def framesRun (s : State) : Bool := thmUp s && s.flag F.THM_CTRL_EN && (s.get F.THM_STATUS_STATE = 1 || s.get F.THM_STATUS_STATE = 2)

/-- The thermal state changes. -/
def setThm (s : State) (f : ThmSt → ThmSt) : State := { s with thm := f s.thm }

/-! ### Monitor channels after a reset (R405) -/

/-- Taps of the FIR: 31, 63 or 127 (R401). -/
def firTaps (s : State) : Nat := [31, 63, 127, 127].getD (s.get F.THM_MON_CFG_FIR_N) 127

/-- A CIC after a reset. -/
def restCic : Cic := { ints := [0, 0, 0, 0], combs := [0, 0, 0, 0] }

/-- The record of monitor channel n. -/
def monAt (s : State) (n : Nat) : MonCh :=
  (s.thm.mon.find? fun (c : MonCh) => c.n == n).getD
    { n := n, cicI := restCic, cicQ := restCic, hist := [], mute := 4 + firTaps s, count := 0, peak := 0, sq := 0, fade := 0 }

/-- Monitor channel n takes a record. -/
def setMon (s : State) (c : MonCh) : State :=
  setThm s fun x => { x with mon := c :: x.mon.filter fun (y : MonCh) => y.n != c.n }

/-- R405: a monitor channel starts afresh: its outputs are suppressed for 4 + N CIC outputs, and its window starts anew. -/
def muteMon (s : State) (n : Nat) : State :=
  let t := setMon s { monAt s n with cicI := restCic, cicQ := restCic, hist := [], mute := 4 + firTaps s, count := 0, peak := 0, sq := 0 }
  let u := t.set (F.THM_MON_CH_VALID n) 0
  if n = 0 then u.set F.THM_TEMP_VALID 0 else u

/-- Every monitor channel starts afresh. -/
def muteAll (s : State) : State := (List.range 4).foldl muteMon s

/-! ### Settling and loss -/

/-- Settling starts, inside a settling period again; fast is a decimator reset (R394, R398). -/
def startSettling (s : State) (fast : Bool) : State :=
  let t := if s.get F.THM_STATUS_STATE = 1 then s.inc F.THM_CNT_RESETTLE else s
  let now := s.sys.raw
  setThm (t.set F.THM_STATUS_STATE 1) fun x =>
    { x with settleAt := now, fast := fast, check := [], passed := none, run := x.run.map fun (r : FfcRun) => { r with disturbed := true } }

/-- A running THM_CONFIG ends. -/
def endConfig (s : State) (status result : Nat) : State :=
  match s.thm.cfgWait with
  | some (p, tag) =>
    let t := setThm s fun x => { x with cfgWait := none }
    match findCmd t p tag 0x0400 with
    | some c => finish t c status 0 result
    | none => t
  | none => s

/-- A flat field starts: FPA_SHDRV goes high. -/
def startFfc (s : State) (cmd : Option (Port × Nat)) : State :=
  let r : FfcRun := { cmd := cmd, phase := 0, left := 0, frames := 1, acc := [], tMin := 1, tMax := 0, closed := true, disturbed := false }
  setThm { s.set F.THM_STATUS_FFC_BUSY 1 with pins := { s.pins with shutOpen := false } } fun x => { x with run := some r }

/-- R422: an automatic flat field that waited for the end of a fade or of a THM_FFC starts. -/
def startHeld (s : State) : State :=
  if s.thm.ffcDue && s.thm.run.isNone && s.thm.fade.isNone then
    let t := setThm s fun x => { x with ffcDue := false }
    if framesRun t && t.flag F.THM_CTRL_AUTO_FFC then startFfc t none else t
  else s

/-- R422: what the automatic flat field counts from: an accepted one, or for 10 s the refusal of an automatic one. -/
def noteFfc (s : State) (auto accepted : Bool) : State :=
  setThm s fun x =>
    if accepted then
      { x with ffcAt := s.sys.raw, ffcT := if s.flag F.THM_TEMP_VALID then some (s.getInt F.THM_TEMP_T_ARRAY) else none }
    else if auto then { x with ffcRest := s.sys.raw + 8000000000 } else x

/-- A flat field ends: accepted, or refused with a cause (R418, R419). -/
def endFfc (s : State) (cause bad : Nat) : State :=
  let cmd := s.thm.run.bind fun (r : FfcRun) => r.cmd
  let s := noteFfc s cmd.isNone (cause = 0)
  let t := (((s.set F.THM_STATUS_FFC_BUSY 0).put F.THM_FFC_RES_ACCEPT (cause = 0)).set F.THM_FFC_RES_CAUSE cause).set F.THM_FFC_RES_BAD_CNT bad
  let u := setThm { t with pins := { t.pins with shutOpen := true } } fun x => { x with run := none }
  match cmd with
  | some (p, tag) => match findCmd u p tag 0x0403 with
    | some c => startHeld (finishOk u c (b2n (cause = 0)))
    | none => startHeld u
  | none => u

/-- Writes of the biases and the taps that wait for FPA_FSYNC take effect when frames stop: without frames such a write acts at once,
and a later one stands over it (R382, R394; log entry 96). -/
def applyNow (s : State) : State :=
  let mine (h : Held) : Bool := h.fld.off < F.THM_RING_BASE.off
  let t := (s.thm.hold.filter mine).foldl (fun (t : State) (h : Held) => t.set h.fld h.val) s
  setThm t fun x => { x with hold := x.hold.filter fun (h : Held) => !mine h }

/-- Frames stop with the path in a state without frames, and a flat field that ran with them is refused as disturbed (log entry 19). -/
def stopFrames (s : State) (state : Nat) : State :=
  let t := setThm ((applyNow s).set F.THM_STATUS_STATE state) fun x => { x with frame := none }
  if t.thm.run.isSome then endFfc t 4 (t.get F.THM_FFC_RES_BAD_CNT) else t

/-- R383, R397: the path is LOST: biases at 0 V and FPA_RST# low. -/
def losePath (s : State) (detail : Nat) : State :=
  let t := stopFrames s 3
  raiseFault { t with pins := { t.pins with fpaRst := false } } 2 0x0B01 detail

/-- The record of a LOST path turns inactive when the path is started again. -/
def foundPath (s : State) : State := endFault (endFault s 0x0B01 0) 0x0B01 1

/-- R383: a bias DAC has stayed at its limit for 1 ms. -/
def execFpaBiasLimit (s : State) : Host.Outcome State Fault Refusal :=
  if !framesRun s then .next s
  else .next (endConfig ((losePath s 0).set F.THM_STATUS_ILIM 1) St.hwFault 0)

/-- One pixel of a tap in the settling check: a block of 4,096 passes when its standard deviation is at least SD_MIN and its mean is
within SETTLE_TOL of that of the block before it, if there is one (R395). -/
def checkPixel (sdMin tol : Nat) (c : TapCheck) (v : Nat) : TapCheck :=
  let sum := c.sum + Int.ofNat v
  let sq := c.sq + v * v
  if c.count + 1 < 4096 then { c with count := c.count + 1, sum := sum, sq := sq }
  else
    let wide := Int.ofNat ((4096 * sdMin) ^ 2) ≤ Int.ofNat (4096 * sq) - sum * sum
    let near := match c.prev with
      | some p => (sum - p).natAbs ≤ 4096 * tol
      | none => true
    { count := 0, sum := 0, sq := 0, prev := some sum, run := if wide && near then c.run + 1 else 0 }

/-- A tap at the start of the check. -/
def restCheck : TapCheck := { count := 0, sum := 0, sq := 0, prev := none, run := 0 }

/-- R395: the pixels of a frame go through the settling check, from the end of BIAS_SETTLE on; raw holds them in row-major order, and
start is the raw time of FPA_FSYNC. The taps run in step, so the check has passed with the pixel at which every enabled tap has
passed four blocks in a row. -/
def checkFrame (s : State) (start : Nat) (raw : List Nat) : State :=
  let cols := s.get F.THM_GEOM_COLS
  let taps := tapsOf (s.get F.THM_GEOM_TAPS)
  let line := cols / taps
  let div := s.get F.THM_PIXCLK
  let open_ := s.thm.settleAt + 80000 * s.get F.THM_SETTLE_BIAS_SETTLE
  let at_ (k : Nat) : Nat := 16 * start + (k / line * (line + s.get F.THM_BLANK_LBLANK) + k % line + s.get F.THM_GEOM_ARR_LAT) * div
  let on := (List.range taps).filter fun n => s.flag (F.THM_TAP_EN n)
  let step (a : List TapCheck × Option Nat) (k : Nat) : List TapCheck × Option Nat :=
    if a.2.isSome || at_ k < 16 * open_ then a
    else
      let l := (List.range taps).map fun n =>
        checkPixel (s.get F.THM_SETTLE2_SD_MIN) (s.get F.THM_SETTLE_SETTLE_TOL) (a.1.getD n restCheck)
          (raw.getD (k / line * cols + taps * (k % line) + n) 0)
      (l, if on.all fun n => 4 ≤ (l.getD n restCheck).run then some ((at_ k + div) / 16) else none)
  let (l, p) := (List.range (line * s.get F.THM_GEOM_ROWS)).foldl step (s.thm.check, s.thm.passed)
  setThm s fun x => { x with check := l, passed := p }

/-- R395: the path has settled: the check has passed, or 7 pixel periods have followed a decimator reset. LAST is in 0.1 ms; a
THM_CONFIG ends with the time in us from its own start (R389, R398). -/
def execPathSettled (s : State) : Host.Outcome State Fault Refusal :=
  if !framesRun s || s.get F.THM_STATUS_STATE != 1 then .next s
  else match if s.thm.fast then some s.sys.raw else s.thm.passed with
    | none => .next s
    | some at_ =>
      let t := (s.set F.THM_STATUS_STATE 2).set F.THM_SETTLE2_LAST (min ((at_ - s.thm.settleAt) / 80000) 0xFFFF)
      .next (endConfig t St.done ((at_ - s.thm.cfgAt) / 800))

/-- R397: the path has not settled in SETTLE_MAX. -/
def execSettleTimeout (s : State) : Host.Outcome State Fault Refusal :=
  if !framesRun s || s.get F.THM_STATUS_STATE != 1 then .next s
  else .next (endConfig (losePath s 1) St.hwFault 0)

/-! ### Stalls and geometry changes (R414, R423) -/

/-- Stalls asked for in the near yard and in the loft for a number of pixels (R423). -/
def thermalStalls (p : Nat) : Nat × Nat :=
  (2 * divUp (8 * p) 65536 + divUp (2 * p) 65536 + divUp (4 * p) 65536, 3 * divUp (2 * p) 65536 + 8)

/-- The geometry registers as the path takes them. -/
def geomNow (s : State) : Nat × Nat × Nat := (s.get F.THM_GEOM_COLS, s.get F.THM_GEOM_ROWS, s.get F.THM_GEOM_TAPS)

/-- R414: both sets, the flat-field table, fades and queued requests are cleared. -/
def clearCorrection (s : State) : State :=
  let t := [F.THM_STATUS_CORR0_VALID, F.THM_STATUS_CORR1_VALID, F.THM_STATUS_FADING, F.THM_STATUS_QUEUED,
    F.THM_STATUS_FADE_STEP].foldl (fun (t : State) f => t.set f 0) s
  setThm (t.set F.THM_STATUS_NO_CORR 1) fun x => { x with sets := [], ffc := [], ffcNew := none, fade := none }

/-- The geometry takes effect: the stalls it needs are placed; none when the yard refuses them (R301). -/
def takeGeometry (s : State) : Option State :=
  let g := geomNow s
  if s.thm.geom = some g then some s
  else
    let u := setThm (dropStalls s s.thm.stalls) fun x => { x with stalls := [], geom := none }
    let (near, loft) := thermalStalls (pixelCount s)
    match placeOwned 1 .near near u with
    | none => none
    | some (a, v) => match placeOwned 1 .loft loft v with
      | none => none
      | some (b, w) => some (setThm w fun x => { x with stalls := a ++ b, geom := some g })

/-- EN returns to 0 without stalls, and FPA_RST# goes low with it (R380, R391). -/
def noStalls (s : State) : State :=
  let t := (s.set F.THM_CTRL_EN 0).set F.THM_STATUS_STATE 0
  { t with pins := { t.pins with fpaRst := false } }

/-- The path starts with EN at 1: the monitor chain starts afresh, and settling begins (R394, R405). -/
def startPath (s : State) : State :=
  match takeGeometry s with
  | some t => startSettling (muteAll (foundPath t)) false
  | none => noStalls s

/-- R380, R383, R394: a write of THM_CTRL. A LOST path stays so with EN at 0, until EN is 1 again. -/
def writeThmCtrl (s : State) (v : Nat) : State :=
  let t := ((s.put F.THM_CTRL_AUTO_FFC (bit v 3)).put F.THM_CTRL_NEIGH (bit v 2)).put F.THM_CTRL_SYNC_EN (bit v 1)
  let was := s.flag F.THM_CTRL_EN
  if bit v 0 && !was then
    let u := foundPath ((t.set F.THM_CTRL_EN 1).set F.THM_STATUS_STATE 0)
    if thmUp u then startPath u else u
  else if !bit v 0 && was then
    let u := (stopFrames t (if t.get F.THM_STATUS_STATE = 3 then 3 else 0)).set F.THM_CTRL_EN 0
    endConfig { u with pins := { u.pins with fpaRst := false } } St.hwFault 0
  else t

/-- R380: a write of EN. -/
def execThmCtrlWrite (value : Dword) (s : State) : Host.Outcome State Fault Refusal := .next (writeThmCtrl s value.toNat)

/-- R380: FPA_RST# goes high 100 us after EN became 1. -/
def execFpaResetRelease (s : State) : Host.Outcome State Fault Refusal :=
  if s.flag F.THM_CTRL_EN && s.get F.THM_STATUS_STATE != 3 then .next { s with pins := { s.pins with fpaRst := true } } else .next s

/-! ### Register writes of the block -/

/-- A field's value waits for the next FPA_FSYNC. -/
def holdFsync (s : State) (f : Fld) (v : Nat) : State :=
  setThm s fun x => { x with hold := x.hold ++ [{ late := false, fld := f, val := f.of v }] }

/-- A write of a monitor channel, discarded whole outside its limits (R687). Another DW starts its window afresh (R404; log entry 96). -/
def writeMonCh (s : State) (n v : Nat) : State :=
  let rlog := (F.THM_MON_CH_RLOG n).of v
  let dw := (F.THM_MON_CH_DW n).of v
  if dw < 4 || rlog < 3 || 10 < rlog then s
  else
    let on := bit v 12
    let t := (((s.put (F.THM_MON_CH_EN n) on).set (F.THM_MON_CH_ENV_K n) ((F.THM_MON_CH_ENV_K n).of v)).set (F.THM_MON_CH_DW n) dw).set
      (F.THM_MON_CH_RLOG n) rlog
    if rlog != s.get (F.THM_MON_CH_RLOG n) || on != s.flag (F.THM_MON_CH_EN n) then muteMon t n
    else if dw != s.get (F.THM_MON_CH_DW n) then setMon t { monAt t n with count := 0, peak := 0, sq := 0 }
    else t

/-- A write in the THM block at an offset from its base, directly or by THM_CONFIG. A direct write of the geometry with EN = 1
is discarded (R393), and a change of COLS, ROWS or TAPS clears the correction (R414). What the ring registers take waits for the
next FPA_FSYNC (R426). A direct write of THM_MON_CFG takes TONE_SEL and leaves FIR_N, which only THM_CONFIG writes (log entry 83). -/
def writeThm (s : State) (config : Bool) (o v : Nat) : State :=
  let hold (f : Fld) (s : State) : State := if framesRun s && !config then holdFsync s f v else s.set f (f.of v)
  if o = 0x000 then if config then
      let on := bit v 0 && !s.flag F.THM_CTRL_EN
      let t := (((s.put F.THM_CTRL_AUTO_FFC (bit v 3)).put F.THM_CTRL_NEIGH (bit v 2)).put F.THM_CTRL_SYNC_EN (bit v 1)).put F.THM_CTRL_EN (bit v 0)
      let t := if on then muteAll t else t
      { t with pins := { t.pins with fpaRst := t.pins.fpaRst && bit v 0 } }
    else writeThmCtrl s v
  else if o = 0x004 then
    let t := if bit v 18 then endFault (s.set F.THM_STATUS_SHUT_STUCK 0) 0x0B02 0 else s
    if bit v 17 then t.set F.THM_STATUS_ILIM 0 else t
  else if o = 0x008 || o = 0x00C || o = 0x010 then
    if s.flag F.THM_CTRL_EN && !config then s
    else
      let t := writeAt s (0xB0000 + o) v
      if geomNow t = geomNow s then t else clearCorrection t
  else if 0x020 ≤ o && o < 0x030 then hold (F.THM_BIAS_CODE ((o - 0x20) / 4)) (hold (F.THM_BIAS_ILIM ((o - 0x20) / 4)) s)
  else if 0x040 ≤ o && o < 0x080 then hold (F.THM_TAP_EN ((o - 0x40) / 4)) (hold (F.THM_TAP_GAIN ((o - 0x40) / 4)) s)
  else if o = 0x0A0 then if 4 < (F.THM_FFC_CFG_FFC_AVG).of v then s else writeAt s (0xB0000 + o) v
  else if o = 0x100 then holdFsync s F.THM_RING_BASE v
  else if o = 0x108 then holdFsync s F.THM_RING_CFG v
  else if o = 0x10C then holdFsync s F.THM_RING_PTR_RSLOT v
  else if o = 0x200 then
    let t := s.set F.THM_MON_CFG_TONE_SEL (F.THM_MON_CFG_TONE_SEL.of v)
    let n := F.THM_MON_CFG_FIR_N.of v
    if config && n ≤ 2 && n != s.get F.THM_MON_CFG_FIR_N then muteAll (t.set F.THM_MON_CFG_FIR_N n) else t
  else if 0x210 ≤ o && o < 0x220 then writeMonCh s ((o - 0x210) / 4) v
  else writeAt s (0xB0000 + o) v

/-- R426: a write of THM_RING_PTR waits for the next FPA_FSYNC. -/
def execThmRingPtrWrite (value : Dword) (s : State) : Host.Outcome State Fault Refusal := .next (writeThm s false 0x10C value.toNat)

/-! ### THM_CONFIG -/

/-- The entries of a THM_CONFIG buffer: pairs of dwords. -/
def configEntries (b : List Byte) : List (Nat × Nat) :=
  (List.range (leAt b 4 2)).map fun k => (leAt b (8 + 8 * k) 4, leAt b (12 + 8 * k) 4)

/-- The kind of an entry. -/
def entryKind (e : Nat × Nat) : Nat := bits e.1 28 4

/-- Whether one entry is in range (R388). -/
def entryOk (e : Nat × Nat) : Bool :=
  let arg := bits e.1 0 16
  bits e.1 16 12 = 0 && match entryKind e with
    | 1 => arg % 4 = 0 && (arg < 0x0C0 || (0x200 ≤ arg && arg ≤ 0x21C))
    | 2 => !bit arg 7
    | 3 => e.2 ≤ 100000
    | _ => false

/-- The state after the register writes of a list. -/
def applyWrites (s : State) (l : List (Nat × Nat)) : State :=
  l.foldl (fun t e => if entryKind e = 1 then writeThm t true (bits e.1 0 16) e.2 else t) s

/-- R388: whether a THM_CONFIG buffer is in range and leaves a geometry within R379. -/
def configOk (s : State) (b : List Byte) : Bool :=
  let n := leAt b 4 2
  let l := configEntries b
  leAt b 0 4 = 0x47464354 && 1 ≤ n && n ≤ 256 && zeroAt b 6 2 && 8 + 8 * n ≤ b.length && l.all entryOk && geometryOk (applyWrites s l)

/-- Carry out a list: register writes, and array bus writes of which the first acked are acknowledged; false when one is
not (R390, R391). -/
def runList : List (Nat × Nat) → Nat → State → State × Bool
  | [], _, s => (s, true)
  | e :: r, acked, s =>
    match entryKind e with
    | 1 => runList r acked (writeThm s true (bits e.1 0 16) e.2)
    | 2 =>
      let t := { s with tx := s.tx ++ [Sent.array [2 * bits e.1 0 7, bits e.1 8 8, e.2 % 256]] }
      match acked with
      | 0 => (t, false)
      | n + 1 => runList r n t
    | _ => runList r acked s

/-- R389: the frame in progress is abandoned and frames stop before the entries are carried out. -/
def haltFrames (s : State) : State := setThm ((applyNow s).set F.THM_STATUS_STATE 0) fun x => { x with frame := none }

/-- The THM shed goes off: frames stop, a flat field and a THM_CONFIG that need them end (log entry 19), and the array's balls return
to their reset states (R45, R74, R76). -/
def thmOff (s : State) : State :=
  let t := endConfig (stopFrames s 0) St.hwFault 0
  { t with pins := { t.pins with fpaRst := false, shutOpen := true } }

/-- R388: THM_CONFIG's checks. -/
def thmConfigCheck (s : State) (c : Cmd) : Option Nat := stdCheck s c false false (s.thm.run.isSome || s.thm.cfgWait.isSome || holds s 0x0400)

/-- R389 to R392, R398: THM_CONFIG in READY, or stored in STANDBY. Inside a settling period its restart abandons the check. -/
def runThmConfig (acked : Nat) (s : State) (c : Cmd) : State :=
  let l := configEntries c.data
  if s.mode == .standby then finishOk (setThm s fun x => { x with list := l }) c 0
  else
    let (t, ok) := runList l acked (foundPath (haltFrames s))
    if !ok then finish t c St.timeout 0 0
    else if !t.flag F.THM_CTRL_EN then finishOk t c 0
    else match takeGeometry t with
      | none => finish (noStalls t) c St.resource 0 0
      | some u =>
        let inside := framesRun s && s.get F.THM_STATUS_STATE = 1
        let v := startSettling (if inside then u.set F.THM_STATUS_STATE 1 else u) false
        setThm (replaceCmd v c { c with phase := .running }) fun x => { x with cfgWait := some (c.port, c.tag), cfgAt := x.settleAt }

/-- R389: THM_CONFIG; acked is how many of its array bus writes are acknowledged. -/
def execThmConfig (port : Port) (tag acked : Nat) (s : State) : Host.Outcome State Fault Refusal :=
  withCmd s port tag 0x0400 thmConfigCheck (runThmConfig acked)

/-- R112, R391, R392: the stored list is carried out on entry to READY, until an array bus write is not acknowledged, and the path
settles or is lost. -/
def excite (s : State) (r : ExciteEnd) : State :=
  if !thmUp s then s
  else
    let acked := match r with
      | .nack n => n
      | _ => s.thm.list.length
    let (t, ok) := runList s.thm.list acked (haltFrames s)
    if !ok || !t.flag F.THM_CTRL_EN then t
    else match takeGeometry t with
      | none => noStalls t
      | some u => match r with
        | .limited => losePath (u.set F.THM_STATUS_ILIM 1) 0
        | .late => losePath u 1
        | _ => (foundPath (muteAll u)).set F.THM_STATUS_STATE 2

/-- R59, R107, R112: excitation settles or times out. Without the APD bias the start-up stops in STANDBY with step 6
and fault 0x0409; without the thermal array READY is reached and the path is LOST. -/
def execExcitationSettled (apdOk : Bool) (thermal : ExciteEnd) (s : State) : Host.Outcome State Fault Refusal :=
  if s.mode != .standby || s.step != 6 || startStopped s then .next s
  else
    let t := excite (if thermal = .limited || thermal = .late then stepFailed s 6 else s) thermal
    if apdOk then
      let u := reachReady (endFault (t.set F.RXF_APDB_STAT_SETTLED 1) 0x0409 0)
      .next (if u.flag F.RXF_IMP_STATUS_PEND then startImpedance u 0x1FFFF else u)
    else
      let u := raiseFault (t.set F.SYS_START_FAIL_STEP 6) 2 0x0409 0
      match u.sys.trans with
      | some { cmd := some (p, tag), .. } =>
        let v := { u with sys := { u.sys with trans := none } }
        match findCmd v p tag 0x0102 with
        | some c => .next (finish v c St.hwFault 0 0)
        | none => .next v
      | _ => .next { u with sys := { u.sys with trans := none } }

/-! ### Frame start -/

/-- Whether a held field is one whose change, from state s to t, starts settling (R394). -/
def settles (s t : State) (h : Held) : Bool :=
  ((0xB0020 ≤ h.fld.off && h.fld.off < 0xB0030) || (0xB0040 ≤ h.fld.off && h.fld.off < 0xB0080)) && s.get h.fld != t.get h.fld

/-- The fields held for FPA_FSYNC take effect. -/
def applyFsync (s : State) : State :=
  let t := s.thm.hold.foldl (fun (t : State) (h : Held) => t.set h.fld h.val) s
  let u := setThm t fun x => { x with hold := [] }
  if s.thm.hold.any (settles s t) then startSettling u false else u

/-- The fade at an FPA_FSYNC (R415, R416): its next frame, or its end and a queued request. -/
def stepFade (s : State) : State :=
  match s.thm.fade with
  | none => s
  | some (n, k) =>
    if k < 8 then
      setThm ((s.set F.THM_STATUS_FADING 1).set F.THM_STATUS_FADE_STEP k) fun x => { x with fade := some (n, k + 1) }
    else
      let t := ((s.set F.THM_STATUS_CORR_NOW n).set F.THM_STATUS_NO_CORR 0).set F.THM_STATUS_FADE_STEP 0
      let q := s.get F.THM_STATUS_Q_SET
      let again := s.flag F.THM_STATUS_QUEUED && q != n
      let u := (t.set F.THM_STATUS_QUEUED 0).put F.THM_STATUS_FADING again
      startHeld (setThm u fun x => { x with fade := if again then some (q, 1) else none })

/-- The flat-field table is replaced once the shutter reads open (R419). -/
def takeFfc (s : State) : State × Bool :=
  match s.thm.ffcNew with
  | some t => if s.get F.THM_STATUS_SHUTTER = 0 then (setThm s fun x => { x with ffc := t, ffcNew := none }, true) else (s, false)
  | none => (s, false)

/-- R382, R394, R411, R415, R419, R426: FPA_FSYNC. -/
def frameStart (s : State) : State :=
  let t := stepFade (applyFsync s)
  let (u, replaced) := takeFfc t
  let v := u.set F.THM_SEQ (u.get F.THM_SEQ + 1)
  let run : ThmRun :=
    { seq := v.get F.THM_SEQ, time := v.now, tArray := if v.flag F.THM_TEMP_VALID then some (v.getInt F.THM_TEMP_T_ARRAY) else none,
      settled := v.get F.THM_STATUS_STATE = 2, fade := v.thm.fade, ffcReplaced := replaced,
      open_ := v.get F.THM_STATUS_SHUTTER = 0, closed := v.get F.THM_STATUS_SHUTTER = 2, start := v.sys.raw }
  setThm v fun x => { x with frame := some run }

/-- R382: a thermal frame starts. -/
def execThermalFrameStart (s : State) : Host.Outcome State Fault Refusal := if framesRun s then .next (frameStart s) else .next s

/-! ### Decimator reset (R399, R400) -/

/-- The decimators are reset and a new frame starts. -/
def decimatorReset (s : State) : State :=
  let t := if s.thm.frame.isSome then s.inc F.THM_CNT_ABANDON else s
  frameStart (startSettling (muteAll (t.set F.THM_SYNC_TIME s.now)) true)

/-- R399, R400: a rising edge on SYNC_DEC. -/
def execSyncDecEdge (s : State) : Host.Outcome State Fault Refusal :=
  if !framesRun s || !s.flag F.THM_CTRL_SYNC_EN then .next s
  else if s.get F.THM_STATUS_STATE = 1 && s.thm.fast then .next (s.inc F.THM_CNT_SYNCIGN)
  else .next (decimatorReset s)

/-- THM_SYNC needs running frames (log entry 18). -/
def thmSyncCheck (s : State) (c : Cmd) : Option Nat := stdCheck s c false (!framesRun s) false

/-- R399: THM_SYNC. -/
def execThmSync (port : Port) (tag : Nat) (s : State) : Host.Outcome State Fault Refusal :=
  withCmd s port tag 0x0407 thmSyncCheck fun s c => let t := decimatorReset s; finishOk t c (t.get F.THM_SYNC_TIME)

/-! ### Monitor chain (R401 to R409) -/

/-- A sample enters the integrators of a CIC (R401). -/
def Cic.push (c : Cic) (v : Int) : Cic :=
  { c with ints := (c.ints.foldl (fun (a : List Int × Int) i => (a.1 ++ [i + a.2], i + a.2)) ([], v)).1 }

/-- An output of a CIC, R^4 times the mean that it forms, and the CIC after it (R401). -/
def Cic.take (c : Cic) : Int × Cic :=
  let (l, y) := c.combs.foldl (fun (a : List Int × Int) d => (a.1 ++ [a.2], a.2 - d)) ([], c.ints.getD 3 0)
  (y, { c with combs := l })

/-- What the paths of a channel take of a sample: M3 multiplies it by the reference in phase and in quadrature (R403). -/
def pathInputs (n phase k v : Nat) : Int × Int :=
  if n = 3 then
    (Int.ofNat v * Config.toneRef false ((phase + k) % 10), Int.ofNat v * Config.toneRef true ((phase + k) % 10))
  else (Int.ofNat v, 0)

/-- R401, R403: the R modulator samples of one CIC output period enter a channel. -/
def decimate (s : State) (c : MonCh) (phase : Nat) (codes : List Nat) : MonCh :=
  let c := (List.range (2 ^ s.get (F.THM_MON_CH_RLOG c.n))).foldl (fun (c : MonCh) k =>
    let (i, q) := pathInputs c.n phase k (codes.getD k 0)
    { c with cicI := c.cicI.push i, cicQ := c.cicQ.push q }) c
  let (i, a) := c.cicI.take
  let (q, b) := c.cicQ.take
  { c with cicI := a, cicQ := b, hist := ((i, q) :: c.hist).take 127 }

/-- FIR over the newest N CIC outputs with the coefficients of a bank, in 1/32,768 (R401). -/
def fir (n : Nat) (h : List Int) (x : List Int) : Int :=
  ((List.range n).map fun i => h.getD (min i (n - 1 - i)) 0 * x.getD i 0).foldl (· + ·) 0

/-- The scale of a channel's FIR sums: Q1.15 coefficients times the gain R^4 of the CIC. -/
def monScale (s : State) (n : Nat) : Nat := 32768 * 2 ^ (4 * s.get (F.THM_MON_CH_RLOG n))

/-- The output of a channel with one bank, rounded and limited to 16 bits: M3 is the magnitude of its two paths (R403). -/
def bankOutput (s : State) (c : MonCh) (h : List Int) : Nat :=
  let n := firTaps s
  let i := fir n h (c.hist.map fun e => e.1)
  if c.n = 3 then
    let q := fir n h (c.hist.map fun e => e.2)
    min 65535 (sqrtRound (i * i + q * q).toNat ((32768 * monScale s c.n) ^ 2))
  else (clampInt 0 65535 (divRoundInt i (monScale s c.n))).toNat

/-- The coefficients of bank n; a bank never loaded has none that the spec gives. -/
def coefs (s : State) (n : Nat) : Option (List Int) := s.thm.banks.getD n none

/-- A channel's output with bank n; free where the bank was never loaded. -/
def outputOf (s : State) (c : MonCh) (n : Nat) : Nat × State :=
  match coefs s n with
  | none => s.takeFree 16
  | some h => (bankOutput s c h, s)

/-- The channel's new output: of the bank in use, or during a crossfade mixed with the other's, whose coefficients are loaded (R407). -/
def monOutput (s : State) (c : MonCh) : Nat × State :=
  let now := s.get F.THM_MON_CFG_COEF_NOW
  let (old, t) := outputOf s c now
  if s.flag F.THM_MON_CFG_XFADE then
    let (new, u) := outputOf t c (1 - now)
    (divRound ((256 - c.fade) * old + c.fade * new) 256, u)
  else (old, t)

/-- T_array from M0 (R409); beyond 16 bits it is held at its limit (log entry 16). -/
def arrayTemp (s : State) (m0 : Nat) : Int :=
  clampInt (-32768) 32767 (s.getInt F.THM_TEMP_CAL_TS_OFF + divRoundInt (Int.ofNat m0 * s.getInt F.THM_TEMP_CAL_TS_GAIN) 65536)

/-- The shutter position from M1 (R409), and its trace in the frame in progress. -/
def noteShutter (s : State) (m1 : Nat) : State :=
  let p := if s.get F.THM_SHUT_SH_CLOSED ≤ m1 then 2 else if m1 ≤ s.get F.THM_SHUT_SH_OPEN then 0 else 1
  setThm (s.set F.THM_STATUS_SHUTTER p) fun x =>
    { x with frame := x.frame.map fun (r : ThmRun) => { r with open_ := r.open_ && p = 0, closed := r.closed && p = 2 } }

/-- The detectors of a channel after an output y (R404). -/
def detectors (s : State) (c : MonCh) (y : Nat) : State :=
  let e := s.get (F.THM_MON_OUT0_ENV c.n)
  let e' := max (Int.ofNat y) (Int.ofNat e - divRoundInt (Int.ofNat e - Int.ofNat y) (2 ^ s.get (F.THM_MON_CH_ENV_K c.n)))
  let t := (s.set (F.THM_MON_OUT0_VALUE c.n) y).set (F.THM_MON_OUT0_ENV c.n) e'.toNat
  let peak := max c.peak y
  let sq := c.sq + y * y
  let n := c.count + 1
  let w := 2 ^ s.get (F.THM_MON_CH_DW c.n)
  if w ≤ n then
    setMon ((t.set (F.THM_MON_OUT1_PEAK c.n) peak).set (F.THM_MON_OUT1_RMS c.n) (sqrtRound sq w)) { c with count := 0, peak := 0, sq := 0 }
  else setMon t { c with count := n, peak := peak, sq := sq }

/-- R401 to R409: a CIC output period of a monitor channel ends, and the channel gives its output. codes holds the samples of its
modulator in the period, and phase is the place of the first in the ten of the tone's cycle. -/
def execMonitorOutput (ch : Fin 4) (codes : List Nat) (phase : Fin 10) (s : State) : Host.Outcome State Fault Refusal :=
  let n := ch.val
  if !thmUp s || !s.flag F.THM_CTRL_EN || !s.flag (F.THM_MON_CH_EN n) then .next s
  else
    let c := decimate s (monAt s n) phase.val codes
    if c.mute != 0 then .next (setMon s { c with mute := c.mute - 1 })
    else
      let c := { c with fade := if s.flag F.THM_MON_CFG_XFADE then min 256 (c.fade + 1) else 0 }
      let (y, t) := monOutput s c
      let u := (detectors t c y).set (F.THM_MON_CH_VALID n) 1
      if n = 0 then .next ((u.setInt F.THM_TEMP_T_ARRAY (arrayTemp u y)).set F.THM_TEMP_VALID 1)
      else if n = 1 then .next (noteShutter u y)
      else .next u

/-- A crossfade towards the other bank starts. -/
def startXfade (s : State) : State :=
  setThm (s.set F.THM_MON_CFG_XFADE 1) fun x => { x with mon := x.mon.map fun (c : MonCh) => { c with fade := 0 } }

/-- R408: the crossfade has ended on every channel that is on; a queued request naming the other bank starts the next. -/
def execCoefCrossfadeEnd (s : State) : Host.Outcome State Fault Refusal :=
  let ended := (List.range 4).all fun n => !s.flag (F.THM_MON_CH_EN n) || (monAt s n).fade = 256
  if !s.flag F.THM_MON_CFG_XFADE || !ended then .next s
  else
    let now := 1 - s.get F.THM_MON_CFG_COEF_NOW
    let t := (s.set F.THM_MON_CFG_COEF_NOW now).set F.THM_MON_CFG_XFADE 0
    let again := s.flag F.THM_MON_CFG_COEF_QUEUED && s.get F.THM_MON_CFG_Q_BANK != now
    let u := t.set F.THM_MON_CFG_COEF_QUEUED 0
    .next (if again then startXfade u else u)

/-- THM_LOAD_COEF's checks (R406). -/
def thmLoadCoefCheck (s : State) (c : Cmd) : Option Nat :=
  stdCheck s c false false (s.flag F.THM_MON_CFG_XFADE || c.dw 4 % 2 = s.get F.THM_MON_CFG_COEF_NOW || holdsOne s 0x0404 (c.dw 4 % 2))

/-- R406: THM_LOAD_COEF loads 64 coefficients. -/
def execThmLoadCoef (port : Port) (tag : Nat) (s : State) : Host.Outcome State Fault Refusal :=
  withCmd s port tag 0x0404 thmLoadCoefCheck fun s c =>
    let n := c.dw 4 % 2
    let h := (List.range 64).map fun i => ofBits 16 (leAt c.data (2 * i) 2)
    let t := setThm s fun x => { x with banks := putAt x.banks n none (some h) }
    finishOk (t.set (if n = 0 then F.THM_MON_CFG_BANK0_VALID else F.THM_MON_CFG_BANK1_VALID) 1) c (crc32c (c.data.take 128))

/-- THM_SELECT_COEF's checks (R407). -/
def thmSelectCoefCheck (s : State) (c : Cmd) : Option Nat := stdCheck s c false (coefs s (c.dw 4 % 2)).isNone false

/-- R407, R408: THM_SELECT_COEF. -/
def execThmSelectCoef (port : Port) (tag : Nat) (s : State) : Host.Outcome State Fault Refusal :=
  withCmd s port tag 0x0405 thmSelectCoefCheck fun s c =>
    let n := c.dw 4 % 2
    if s.flag F.THM_MON_CFG_XFADE then finishOk ((s.set F.THM_MON_CFG_COEF_QUEUED 1).set F.THM_MON_CFG_Q_BANK n) c 0
    else if n = s.get F.THM_MON_CFG_COEF_NOW then finishOk s c 0
    else finishOk (startXfade s) c 0

/-! ### Correction (R410 to R416) -/

/-- The set n as far as it is loaded. -/
def corrSet (s : State) (n : Nat) : Option CorrSet := s.thm.sets.find? fun (c : CorrSet) => c.n == n

/-- Whether set n is valid. -/
def corrValid (s : State) (n : Nat) : Bool := s.flag (if n = 0 then F.THM_STATUS_CORR0_VALID else F.THM_STATUS_CORR1_VALID)

/-- The set in full use; none while NO_CORR. -/
def corrInUse (s : State) : Option CorrSet := if s.flag F.THM_STATUS_NO_CORR then none else corrSet s (s.get F.THM_STATUS_CORR_NOW)

/-- The correction entry of pixel p; without a set OFFSET 0, GAIN 1.0, DRIFT 0 and not BAD (R414). -/
def corrEntry (c : Option CorrSet) (p : Nat) : CorrEntry :=
  let none_ : CorrEntry := { offset := 0, gain := 0x8000, drift := 0, bad := false }
  match c with
  | some x => x.entries.getD p none_
  | none => none_

/-- DRIFT x dT / 256, rounded, for temperatures in 1/16 degree C (R410, R411). -/
def driftOf (c : Option CorrSet) (e : CorrEntry) (t : Option Int) : Int :=
  match c, t with
  | some x, some a => divRoundInt (e.drift * (a - x.tCal)) 4096
  | _, _ => 0

/-- Raw code less OFFSET and drift: what a flat field sums (R417). -/
def offsetCode (c : Option CorrSet) (t : Option Int) (p raw : Nat) : Int :=
  let e := corrEntry c p
  Int.ofNat raw - e.offset - driftOf c e t

/-- The corrected value of pixel p before bad-pixel replacement (R410). -/
def correctPixel (c : Option CorrSet) (ffc : List (Int × Bool)) (t : Option Int) (p raw : Nat) : Nat :=
  let e := corrEntry c p
  let v := divRoundInt ((offsetCode c t p raw - (ffc.getD p (0, false)).1) * Int.ofNat e.gain) 32768
  let ped := match c with
    | some x => x.pedestal
    | none => 0
  (clampInt 0 65535 (v + Int.ofNat ped)).toNat

/-- Whether pixel p is bad (R412), as one of a disabled tap is (R387). -/
def badPixel (s : State) (c : Option CorrSet) (cols p : Nat) : Bool :=
  (corrEntry c p).bad || (s.thm.ffc.getD p (0, false)).2 || !s.flag (F.THM_TAP_EN (p % cols % tapsOf (s.get F.THM_GEOM_TAPS)))

/-- The nearest good pixel of a row to one side within 4 columns. -/
def nearGood (row : List (Nat × Bool)) (col : Nat) (left : Bool) : Option Nat :=
  [1, 2, 3, 4].findSome? fun d =>
    if left && col < d then none
    else match row[if left then col - d else col + d]? with
      | some (v, false) => some v
      | _ => none

/-- One row after replacement: its values with their bad flags, and the row before it (R412). -/
def replaceRow (prev : List Nat) (row : List (Nat × Bool)) : List Nat :=
  row.zipIdx.map fun x =>
    if !x.1.2 then x.1.1
    else match nearGood row x.2 true, nearGood row x.2 false with
      | some a, some b => divRound (a + b) 2
      | some a, none => a
      | none, some b => b
      | none, none => prev.getD x.2 0

/-- Rows one after another. -/
def replaceRows : List Nat → List (List (Nat × Bool)) → List Nat
  | _, [] => []
  | prev, r :: rest => let o := replaceRow prev r; o ++ replaceRows o rest

/-- A frame corrected with one set: its pixels and which of them were replaced (R410 to R412). -/
def correctFrame (s : State) (c : Option CorrSet) (t : Option Int) (cols rows : Nat) (raw : List Nat) : List Nat × List Bool :=
  let cell (p : Nat) : Nat × Bool := (correctPixel c s.thm.ffc t p (raw.getD p 0), badPixel s c cols p)
  let grid := (List.range rows).map fun r => (List.range cols).map fun k => cell (cols * r + k)
  (replaceRows [] grid, (List.range (cols * rows)).map (badPixel s c cols))

/-- The k-th frame of a fade between two frames (R415). -/
def mixFrames (k : Nat) (a b : List Nat × List Bool) : List Nat × List Bool :=
  ((a.1.zip b.1).map fun e => divRound ((8 - k) * e.1 + k * e.2) 8, (a.2.zip b.2).map fun e => e.1 || e.2)

/-- R384, R385: the code of a pixel before it pins: sum is that of V over the 64 modulator cycles of its integration, in microvolts. -/
def tapCode (gain : Nat) (sum : Int) : Int := 32768 + divRoundInt (sum * Int.ofNat (65536 * 2 ^ gain)) (64 * 1800000)

/-- Whether a result lies beyond the span (R386). -/
def beyond (v : Int) : Bool := v < 0 || 65535 < v

/-- R378, R384: the codes of a frame before they pin; the pixel of column c lies on tap c mod TAPS. -/
def tapCodes (s : State) (sums : List Int) : List Int :=
  let cols := s.get F.THM_GEOM_COLS
  (List.range (pixelCount s)).map fun p =>
    tapCode (s.get (F.THM_TAP_GAIN (p % cols % tapsOf (s.get F.THM_GEOM_TAPS)))) (sums.getD p 0)

/-- Pinned pixels of tap n (R386). -/
def pinned (cols taps n : Nat) (codes : List Int) : Nat :=
  (codes.zipIdx.filter fun e => e.2 % cols % taps = n && beyond e.1).length

/-- The frame ring is full (R426). -/
def thmRingFull (s : State) : Bool :=
  (s.get F.THM_RING_PTR_WSLOT + 1) % max 1 (s.get F.THM_RING_CFG) = s.get F.THM_RING_PTR_RSLOT % max 1 (s.get F.THM_RING_CFG)

/-- A completed frame is queued, or skipped (R425); SLOTS of 0 or 1 turns delivery off. -/
def queueFrame (s : State) (f : ThmFrame) : State :=
  if s.get F.THM_RING_CFG ≤ 1 then s
  else if s.thm.queue.isSome || thmRingFull s then setThm (s.inc F.THM_CNT_SKIP) fun x => { x with skipped := x.skipped + 1 }
  else
    let ahead := s.hge.rings.map fun (r : PointRing) => r.queue.length
    setThm s fun x => { x with queue := some { f with skips := x.skipped, ahead := ahead }, skipped := 0 }

/-- Sources that are still needed: the newest, and those that closed cells name (R22). -/
def keepSources (s : State) (l : List ThmFrame) : List ThmFrame :=
  match l with
  | [] => []
  | f :: r => f :: r.filter fun (x : ThmFrame) => s.hge.cells.any fun (c : Cell) => c.closed && c.src = some x.seq

/-- One frame of a flat field (R417). -/
def stepFfc (s : State) (r : ThmRun) (raw : List Nat) : State :=
  match s.thm.run with
  | none => s
  | some x =>
    let seen : FfcRun := match r.tArray with
      | some t =>
        if x.tMax < x.tMin then { x with closed := x.closed && r.closed, tMin := t, tMax := t }
        else { x with closed := x.closed && r.closed, tMin := min x.tMin t, tMax := max x.tMax t }
      | none => { x with closed := x.closed && r.closed }
    let add (x : FfcRun) : List Int :=
      (List.range (pixelCount s)).map fun p => x.acc.getD p 0 + offsetCode (corrInUse s) r.tArray p (raw.getD p 0)
    let sums := 2 ^ s.get F.THM_FFC_CFG_FFC_AVG
    let skip := s.get F.THM_FFC_CFG_FFC_SKIP
    let y : FfcRun := match x.phase with
      | 0 =>
        if r.closed then { x with phase := if skip = 0 then 2 else 1, left := if skip = 0 then sums else skip, frames := sums } else x
      | 1 => if x.left ≤ 1 then { seen with phase := 2, left := sums, frames := sums } else { seen with left := x.left - 1 }
      | 2 =>
        if x.left ≤ 1 then { seen with phase := 3, left := 0, acc := add x } else { seen with left := x.left - 1, acc := add x }
      | _ => x
    let shut := if x.phase != 3 && y.phase = 3 then { s with pins := { s.pins with shutOpen := true } } else s
    setThm shut fun z => { z with run := some y }

/-- Trigger source 4: a corrected frame with more than THM_PIX pixels at or above THM_THR. -/
def hotTrigger (s : State) (f : ThmFrame) : State :=
  match s.acq.cfg with
  | some c => if c.thmPix < (f.pixels.filter fun v => c.thmThr ≤ v).length then trigger s 4 else s
  | none => s

/-- R384 to R386, R395, R396, R410 to R412, R420, R424: the last pixel of a frame is converted; sums holds in row-major order what each
pixel's integration sums. While the path settles, its codes go to the settling check alone. The correction CRC of a frame without a
set is free. -/
def execThermalFrameComplete (sums : List Int) (s : State) : Host.Outcome State Fault Refusal :=
  match s.thm.frame with
  | none => .next s
  | some r =>
    let cols := s.get F.THM_GEOM_COLS
    let rows := s.get F.THM_GEOM_ROWS
    let taps := tapsOf (s.get F.THM_GEOM_TAPS)
    let codes := tapCodes s sums
    let raw := codes.map fun v => (clampInt 0 65535 v).toNat
    let ovr := (List.range 16).map fun n => if n < taps && s.flag (F.THM_TAP_EN n) then pinned cols taps n codes else 0
    let t := ovr.zipIdx.foldl (fun (t : State) e => t.set (F.THM_TAP_OVR e.2) (min e.1 0xFFFF)) s
    let t := setThm (stepFfc t r raw) fun x => { x with frame := none }
    if !r.settled then .next (if t.get F.THM_STATUS_STATE = 1 && !t.thm.fast then checkFrame t r.start raw else t)
    else
      let old := corrInUse s
      let a := correctFrame s old r.tArray cols rows raw
      let px := match r.fade with
        | some (n, k) => mixFrames k a (correctFrame s (corrSet s n) r.tArray cols rows raw)
        | none => a
      let used := match r.fade with
        | some (n, _) => n
        | none => s.get F.THM_STATUS_CORR_NOW
      let flags := b2n (!r.open_) + 2 * b2n r.fade.isSome + 4 * used + 8 * b2n r.ffcReplaced + 16 * b2n (ovr.any (· != 0))
        + 32 * b2n old.isNone + 64 * b2n r.tArray.isNone + 128 * b2n (s.flag F.TDC_PPS_STATUS_ALIGNED)
      let (crc, t) := match old with
        | some c => (c.crc ^^^ 0xFFFFFFFF, t)
        | none => t.takeFree 32
      let f : ThmFrame := { seq := r.seq, time := r.time, cols := cols, rows := rows, tArray := toBits 16 (r.tArray.getD 0),
                            flags := flags, crc := crc, pixels := px.1, replaced := px.2, skips := 0, done := s.sys.raw,
                            ahead := [] }
      let t := if r.open_ then setThm t fun x => { x with sources := keepSources t (f :: x.sources) } else t
      .next (hotTrigger (queueFrame t f) f)

/-- Bytes of a ring slot (R426). -/
def slotBytes (cols rows : Nat) : Nat := divUp (32 + 2 * cols * rows) 4096 * 4096

/-- A frame as its ring slot holds it (thermal frame header). -/
def frameBytes (f : ThmFrame) : List Byte :=
  leBytes 4 0xFFFFFFFD ++ leBytes 4 f.seq ++ leBytes 8 f.time ++ leBytes 2 f.cols ++ leBytes 2 f.rows ++ leBytes 2 f.tArray
    ++ leBytes 2 f.flags ++ leBytes 4 f.crc ++ leBytes 4 f.skips ++ f.pixels.foldl (fun l v => l ++ leBytes 2 v) []

/-- Whether a point ring has records to write that arrived before the queued frame (R425). -/
def recordsFirst (s : State) (f : ThmFrame) : Bool := (List.range 4).any fun n => f.ahead.getD n 0 != 0 && frontReady s n

/-- R425, R426: the queued frame is written into its slot. It waits while the endpoint may send no request, and for the records that
arrived before it. -/
def execThermalFrameDelivery (s : State) : Host.Outcome State Fault Refusal :=
  match s.thm.queue with
  | none => .next s
  | some f =>
    if s.get F.THM_RING_CFG ≤ 1 then .next (setThm s fun x => { x with queue := none })
    else if !pcieUsable s || recordsFirst s f then .next s
    else
      let w := s.get F.THM_RING_PTR_WSLOT
      let t := sendMem s (4096 * s.get F.THM_RING_BASE + w * slotBytes f.cols f.rows) (frameBytes f)
      let u := t.set F.THM_RING_PTR_WSLOT ((w + 1) % s.get F.THM_RING_CFG)
      .next (recordThermal (setThm u fun x => { x with queue := none }) (frameBytes f))

/-! ### Correction sets and lookups -/

/-- THM_LOAD_CORR's checks (R414). -/
def thmLoadCorrCheck (s : State) (c : Cmd) : Option Nat :=
  let n := c.dw 4 % 2
  stdCheck s c false false (s.thm.fade.isSome || (!s.flag F.THM_STATUS_NO_CORR && s.get F.THM_STATUS_CORR_NOW = n) || holdsOne s 0x0401 n)

/-- R413: whether a piece fits its set. -/
def pieceOk (s : State) (n : Nat) (b : List Byte) : Bool :=
  let cols := s.get F.THM_GEOM_COLS
  let rows := s.get F.THM_GEOM_ROWS
  let first := leAt b 0x10 2
  let k := leAt b 0x12 2
  let size := 32 + 8 * cols * k
  let goesOn := match corrSet s n with
    | some c => c.row = first && c.row != rows && c.tCal = ofBits 16 (leAt b 0xC 2) && c.pedestal = leAt b 0xE 2
    | none => false
  leAt b 0 4 = 0x52524F43 && leAt b 4 2 = 1 && zeroAt b 6 2 && leAt b 8 2 = cols && leAt b 0xA 2 = rows && 1 ≤ k
    && first + k ≤ rows && zeroAt b 0x14 12 && b.length = 64 * divUp size 64 && zeroAt b size (b.length - size)
    && (first = 0 || goesOn) && (List.range (cols * k)).all fun i => leAt b (32 + 8 * i + 6) 2 < 2

/-- One entry of a piece. -/
def parseCorr (b : List Byte) (i : Nat) : CorrEntry :=
  let o := 32 + 8 * i
  { offset := ofBits 16 (leAt b o 2), gain := leAt b (o + 2) 2, drift := ofBits 16 (leAt b (o + 4) 2), bad := bit (leAt b (o + 6) 2) 0 }

/-- R413: THM_LOAD_CORR loads a piece. -/
def execThmLoadCorr (port : Port) (tag : Nat) (s : State) : Host.Outcome State Fault Refusal :=
  withCmd s port tag 0x0401 thmLoadCorrCheck fun s c =>
    let n := c.dw 4 % 2
    let b := c.data
    let cols := s.get F.THM_GEOM_COLS
    let first := leAt b 0x10 2
    let k := leAt b 0x12 2
    let base : CorrSet := if first = 0 then
        { n := n, tCal := ofBits 16 (leAt b 0xC 2), pedestal := leAt b 0xE 2, row := 0, crc := 0xFFFFFFFF, entries := [] }
      else (corrSet s n).getD { n := n, tCal := 0, pedestal := 0, row := 0, crc := 0xFFFFFFFF, entries := [] }
    let new : CorrSet := { base with row := first + k, crc := crcFrom base.crc ((b.drop 32).take (8 * cols * k)),
                                     entries := base.entries ++ (List.range (cols * k)).map (parseCorr b) }
    let t := setThm s fun x => { x with sets := new :: x.sets.filter fun (y : CorrSet) => y.n != n }
    let u := t.put (if n = 0 then F.THM_STATUS_CORR0_VALID else F.THM_STATUS_CORR1_VALID) (new.row = s.get F.THM_GEOM_ROWS)
    finishOk u c (new.crc ^^^ 0xFFFFFFFF)

/-- THM_SELECT_CORR's checks (R415, R421). -/
def thmSelectCorrCheck (s : State) (c : Cmd) : Option Nat := stdCheck s c false (!corrValid s (c.dw 4 % 2)) (s.thm.run.isSome || holdsOne s 0x0401 (c.dw 4 % 2))

/-- R415, R416: THM_SELECT_CORR. The fade's first frame is the next; a queued one starts after the running fade's eighth. -/
def execThmSelectCorr (port : Port) (tag : Nat) (s : State) : Host.Outcome State Fault Refusal :=
  withCmd s port tag 0x0402 thmSelectCorrCheck fun s c =>
    let n := c.dw 4 % 2
    match s.thm.fade with
    | some (_, k) => finishOk ((s.set F.THM_STATUS_QUEUED 1).set F.THM_STATUS_Q_SET n) c ((s.get F.THM_SEQ + 9 - k) % 2 ^ 32)
    | none =>
      if !s.flag F.THM_STATUS_NO_CORR && s.get F.THM_STATUS_CORR_NOW = n then finishOk s c (s.get F.THM_SEQ)
      else finishOk (setThm s fun x => { x with fade := some (n, 0) }) c ((s.get F.THM_SEQ + 1) % 2 ^ 32)

/-- R427: whether a lookup buffer is in range. -/
def lutOk (b : List Byte) : Bool :=
  b.length = 524288 && (List.range 131072).all fun d => bits (leAt b (4 * d) 4) 21 10 = 0

/-- THM_LOAD_REGLUT's checks. -/
def thmLoadReglutCheck (s : State) (c : Cmd) : Option Nat := stdCheck s c false false (holds s 0x0406)

/-- R427: THM_LOAD_REGLUT. -/
def execThmLoadReglut (port : Port) (tag : Nat) (s : State) : Host.Outcome State Fault Refusal :=
  withCmd s port tag 0x0406 thmLoadReglutCheck fun s c =>
    let l := (List.range 131072).map fun d => leAt c.data (4 * d) 4
    let t := setThm s fun x => if s.mode.scanning then { x with lutNew := some l } else { x with lut := l, lutNew := none }
    finishOk t c (crc32c c.data)

/-! ### Flat field (R417 to R422) -/

/-- THM_FFC's checks (R421); without frames it gives up after 200 ms (R417). -/
def thmFfcCheck (s : State) (c : Cmd) : Option Nat := stdCheck s c false false (s.thm.run.isSome || s.thm.fade.isSome)

/-- R417: THM_FFC. -/
def execThmFfc (port : Port) (tag : Nat) (s : State) : Host.Outcome State Fault Refusal :=
  withCmd s port tag 0x0403 thmFfcCheck fun s c => begin_ s c fun s _ => startFfc s (some (port, tag))

/-- R422: FFC_PERIOD has passed or T_array has moved since the last accepted flat field, and 10 s since a refused automatic one. Before
the first one, time counts from the main reset release, and there is no temperature to compare (log entry 96). -/
def autoFfcDue (s : State) : Bool :=
  let period := s.get F.THM_FFC_AUTO_FFC_PERIOD
  let moved := s.flag F.THM_TEMP_VALID && match s.thm.ffcT with
    | some t => s.get F.THM_FFC_AUTO_FFC_TRIG_DT ≤ (s.getInt F.THM_TEMP_T_ARRAY - t).natAbs
    | none => false
  s.thm.ffcRest ≤ s.sys.raw && ((period != 0 && s.thm.ffcAt + 800000000 * period ≤ s.sys.raw) || moved)

/-- R422: the herd firmware starts a flat field; a fade or a THM_FFC makes it wait. -/
def execAutoFfcStart (s : State) : Host.Outcome State Fault Refusal :=
  if !framesRun s || !s.flag F.THM_CTRL_AUTO_FFC || !autoFfcDue s then .next s
  else if s.thm.fade.isSome || s.thm.run.any (fun (r : FfcRun) => r.cmd.isSome) then .next (setThm s fun x => { x with ffcDue := true })
  else if s.thm.run.isSome then .next s
  else .next (startFfc s none)

/-- R417, R418: the shutter has not read closed within 200 ms; a disturbed run fails that first. -/
def execFfcShutterTimeout (s : State) : Host.Outcome State Fault Refusal :=
  match s.thm.run with
  | some r => if r.phase = 0 then .next (endFfc s (if r.disturbed then 4 else 5) (s.get F.THM_FFC_RES_BAD_CNT)) else .next s
  | none => .next s

/-- d[p] of every pixel: the mean of pixel p less that of the pixels not BAD, rounded (R417). -/
def flatField (s : State) (acc : List Int) (frames : Nat) : List Int :=
  let good := acc.zipIdx.filter fun e => !(corrEntry (corrInUse s) e.2).bad
  let n := max 1 good.length
  let sum := good.foldl (fun a e => a + e.1) 0
  acc.map fun a => divRoundInt (a * Int.ofNat n - sum) (frames * n)

/-- R418, R419: the summing has ended; the result is judged. -/
def execFfcSumDone (s : State) : Host.Outcome State Fault Refusal :=
  match s.thm.run with
  | none => .next s
  | some r =>
    if r.phase != 3 then .next s
    else
      let lim := s.get F.THM_FFC_CFG_FFC_DEV_MAX
      let d := flatField s r.acc r.frames
      let table := d.map fun (x : Int) => (clampInt (-16383) 16383 x, decide (lim < x.natAbs))
      let bad := (table.zipIdx.filter fun e => e.1.2 && !(corrEntry (corrInUse s) e.2).bad).length
      let cause := if !r.closed then 1 else if Int.ofNat (s.get F.THM_FFC_CFG_FFC_DT_MAX) < r.tMax - r.tMin then 2
        else if s.get F.THM_FFC_LIM < bad then 3 else if r.disturbed then 4 else 0
      if cause = 0 then
        .next (endFfc (setThm s fun x => { x with ffcNew := some table }) 0 (table.filter fun e => e.2).length)
      else .next (endFfc s cause (s.get F.THM_FFC_RES_BAD_CNT))

/-- R420: the shutter has not read open within 200 ms of FPA_SHDRV going low. -/
def execShutterStuck (s : State) : Host.Outcome State Fault Refusal :=
  if !thmUp s || !s.pins.shutOpen || s.get F.THM_STATUS_SHUTTER = 0 then .next s
  else .next (raiseFault (s.set F.THM_STATUS_SHUT_STUCK 1) 2 0x0B02 0)

/-! ### Radiance of fused records (R22, R261, R428, R429) -/

/-- The pixels around a position: itself, or the 3 by 3 inside the array (R428). -/
def neighbours (s : State) (f : ThmFrame) (col row : Nat) : List Nat :=
  if s.flag F.THM_CTRL_NEIGH then
    [0, 1, 2].foldl (fun l dr => l ++ [0, 1, 2].filterMap fun dc =>
      let r := row + dr
      let c := col + dc
      if 1 ≤ r && r ≤ f.rows && 1 ≤ c && c ≤ f.cols then some (f.cols * (r - 1) + (c - 1)) else none) []
  else [f.cols * row + col]

/-- Dwords 4 and 5 of a fused record of a cell. -/
def fusedBytes (s : State) (c : Cell) : List Byte :=
  let e := s.thm.lut.getD c.dir 0
  let valid := bit e 31
  let col := bits e 0 11
  let row := bits e 11 10
  let src := s.thm.sources.find? fun (f : ThmFrame) => c.src == some f.seq
  let pos := if valid then bits e 0 21 else 0
  match src with
  | none => leBytes 4 0 ++ leBytes 4 pos
  | some f =>
    let seq := f.seq % 65536
    let old := 2 ^ 30 * b2n (2 * frameLen s * s.get F.THM_PIXCLK < 16 * (c.closedAt - f.done))
    if valid && col < f.cols && row < f.rows && s.get F.THM_STATUS_STATE != 3 then
      let l := neighbours s f col row
      let v := divRound (l.foldl (fun a p => a + f.pixels.getD p 0) 0) (max 1 l.length)
      let replaced := l.any fun p => f.replaced.getD p false
      leBytes 4 (v + 65536 * seq) ++ leBytes 4 (pos + 2 ^ 28 + 2 ^ 29 * b2n replaced + old)
    else leBytes 4 (65536 * seq) ++ leBytes 4 (pos + old)

end Sys2Proof.Machine
end

