-- ==== Sys2Proof/Machine/Crypto.lean ====
section
/-! DEFINITION. The digests and signatures that the spec names: SHA-256 and SHA-384 (FIPS 180-4), and ECDSA over P-256 and
P-384 (FIPS 186-5) with the byte orders of R140 and R141. The constants are those of the two standards (log entry 15). -/

namespace Sys2Proof.Machine

/-! ### Digests -/

/-- The round constants of SHA-256. -/
def Sha.k256 : List Nat :=
  [0x428A2F98, 0x71374491, 0xB5C0FBCF, 0xE9B5DBA5, 0x3956C25B, 0x59F111F1, 0x923F82A4, 0xAB1C5ED5]
    ++ [0xD807AA98, 0x12835B01, 0x243185BE, 0x550C7DC3, 0x72BE5D74, 0x80DEB1FE, 0x9BDC06A7, 0xC19BF174]
    ++ [0xE49B69C1, 0xEFBE4786, 0xFC19DC6, 0x240CA1CC, 0x2DE92C6F, 0x4A7484AA, 0x5CB0A9DC, 0x76F988DA]
    ++ [0x983E5152, 0xA831C66D, 0xB00327C8, 0xBF597FC7, 0xC6E00BF3, 0xD5A79147, 0x6CA6351, 0x14292967]
    ++ [0x27B70A85, 0x2E1B2138, 0x4D2C6DFC, 0x53380D13, 0x650A7354, 0x766A0ABB, 0x81C2C92E, 0x92722C85]
    ++ [0xA2BFE8A1, 0xA81A664B, 0xC24B8B70, 0xC76C51A3, 0xD192E819, 0xD6990624, 0xF40E3585, 0x106AA070]
    ++ [0x19A4C116, 0x1E376C08, 0x2748774C, 0x34B0BCB5, 0x391C0CB3, 0x4ED8AA4A, 0x5B9CCA4F, 0x682E6FF3]
    ++ [0x748F82EE, 0x78A5636F, 0x84C87814, 0x8CC70208, 0x90BEFFFA, 0xA4506CEB, 0xBEF9A3F7, 0xC67178F2]

/-- The initial value of SHA-256. -/
def Sha.h256 : List Nat :=
  [0x6A09E667, 0xBB67AE85, 0x3C6EF372, 0xA54FF53A, 0x510E527F, 0x9B05688C, 0x1F83D9AB, 0x5BE0CD19]

/-- The round constants of SHA-384. -/
def Sha.k512 : List Nat :=
  [0x428A2F98D728AE22, 0x7137449123EF65CD, 0xB5C0FBCFEC4D3B2F, 0xE9B5DBA58189DBBC, 0x3956C25BF348B538, 0x59F111F1B605D019]
    ++ [0x923F82A4AF194F9B, 0xAB1C5ED5DA6D8118, 0xD807AA98A3030242, 0x12835B0145706FBE, 0x243185BE4EE4B28C, 0x550C7DC3D5FFB4E2]
    ++ [0x72BE5D74F27B896F, 0x80DEB1FE3B1696B1, 0x9BDC06A725C71235, 0xC19BF174CF692694, 0xE49B69C19EF14AD2, 0xEFBE4786384F25E3]
    ++ [0xFC19DC68B8CD5B5, 0x240CA1CC77AC9C65, 0x2DE92C6F592B0275, 0x4A7484AA6EA6E483, 0x5CB0A9DCBD41FBD4, 0x76F988DA831153B5]
    ++ [0x983E5152EE66DFAB, 0xA831C66D2DB43210, 0xB00327C898FB213F, 0xBF597FC7BEEF0EE4, 0xC6E00BF33DA88FC2, 0xD5A79147930AA725]
    ++ [0x6CA6351E003826F, 0x142929670A0E6E70, 0x27B70A8546D22FFC, 0x2E1B21385C26C926, 0x4D2C6DFC5AC42AED, 0x53380D139D95B3DF]
    ++ [0x650A73548BAF63DE, 0x766A0ABB3C77B2A8, 0x81C2C92E47EDAEE6, 0x92722C851482353B, 0xA2BFE8A14CF10364, 0xA81A664BBC423001]
    ++ [0xC24B8B70D0F89791, 0xC76C51A30654BE30, 0xD192E819D6EF5218, 0xD69906245565A910, 0xF40E35855771202A, 0x106AA07032BBD1B8]
    ++ [0x19A4C116B8D2D0C8, 0x1E376C085141AB53, 0x2748774CDF8EEB99, 0x34B0BCB5E19B48A8, 0x391C0CB3C5C95A63, 0x4ED8AA4AE3418ACB]
    ++ [0x5B9CCA4F7763E373, 0x682E6FF3D6B2B8A3, 0x748F82EE5DEFB2FC, 0x78A5636F43172F60, 0x84C87814A1F0AB72, 0x8CC702081A6439EC]
    ++ [0x90BEFFFA23631E28, 0xA4506CEBDE82BDE9, 0xBEF9A3F7B2C67915, 0xC67178F2E372532B, 0xCA273ECEEA26619C, 0xD186B8C721C0C207]
    ++ [0xEADA7DD6CDE0EB1E, 0xF57D4F7FEE6ED178, 0x6F067AA72176FBA, 0xA637DC5A2C898A6, 0x113F9804BEF90DAE, 0x1B710B35131C471B]
    ++ [0x28DB77F523047D84, 0x32CAAB7B40C72493, 0x3C9EBE0A15C9BEBC, 0x431D67C49C100D4C, 0x4CC5D4BECB3E42B6, 0x597F299CFC657E2A]
    ++ [0x5FCB6FAB3AD6FAEC, 0x6C44198C4A475817]

/-- The initial value of SHA-384. -/
def Sha.h384 : List Nat :=
  [0xCBBB9D5DC1059ED8, 0x629A292A367CD507, 0x9159015A3070DD17, 0x152FECD8F70E5939]
    ++ [0x67332667FFC00B31, 0x8EB44A8768581511, 0xDB0C2E0D64F98FA7, 0x47B5481DBEFA4FA4]

/-- One of the two digests: bits of a word, constants, initial value, and the rotations of its four functions (the last one of
each lower-case pair is a shift). -/
structure Sha where
  w : Nat
  k : List Nat
  h : List Nat
  big0 : List Nat
  big1 : List Nat
  small0 : List Nat
  small1 : List Nat

/-- SHA-256. -/
def Sha.s256 : Sha :=
  { w := 32, k := Sha.k256, h := Sha.h256, big0 := [2, 13, 22], big1 := [6, 11, 25], small0 := [7, 18, 3], small1 := [17, 19, 10] }

/-- SHA-384. -/
def Sha.s384 : Sha :=
  { w := 64, k := Sha.k512, h := Sha.h384, big0 := [28, 34, 39], big1 := [14, 18, 41], small0 := [1, 8, 7], small1 := [19, 61, 6] }

/-- A word rotated right. -/
def Sha.rot (c : Sha) (n x : Nat) : Nat := (x >>> n) ||| ((x <<< (c.w - n)) % 2 ^ c.w)

/-- Three rotations of a word, exclusive-ored. -/
def Sha.big (c : Sha) (l : List Nat) (x : Nat) : Nat := c.rot (l.getD 0 0) x ^^^ c.rot (l.getD 1 0) x ^^^ c.rot (l.getD 2 0) x

/-- Two rotations and a shift of a word, exclusive-ored. -/
def Sha.small (c : Sha) (l : List Nat) (x : Nat) : Nat := c.rot (l.getD 0 0) x ^^^ c.rot (l.getD 1 0) x ^^^ (x >>> l.getD 2 0)

/-- The number that bytes hold, highest first. -/
def ofBe (l : List Byte) : Nat := l.foldl (fun v b => 256 * v + b.toNat) 0

/-- The bytes of a number, highest first. -/
def beBytes (n w : Nat) : List Byte := (leBytes n w).reverse

/-- A message with its padding: a bit 1, zeros, and its length in bits in two words. -/
def Sha.padded (c : Sha) (m : List Byte) : List Byte :=
  let block := 2 * c.w
  let len := c.w / 4
  m ++ 0x80#8 :: List.replicate ((2 * block - (m.length + 1 + len) % block) % block) 0 ++ beBytes len (8 * m.length)

/-- The message schedule, last word first, grown by n words. -/
def Sha.schedule (c : Sha) : Nat → List Nat → List Nat
  | 0, l => l
  | n + 1, l =>
    c.schedule n ((c.small c.small1 (l.getD 1 0) + l.getD 6 0 + c.small c.small0 (l.getD 14 0) + l.getD 15 0) % 2 ^ c.w :: l)

/-- One round with its constant and its word of the schedule. -/
def Sha.round (c : Sha) (v : List Nat) (kw : Nat × Nat) : List Nat :=
  match v with
  | [a, b, d, e, f, g, h, i] =>
    let t1 := i + c.big c.big1 f + ((f &&& g) ^^^ ((2 ^ c.w - 1 - f) &&& h)) + kw.1 + kw.2
    let t2 := c.big c.big0 a + ((a &&& b) ^^^ (a &&& d) ^^^ (b &&& d))
    [(t1 + t2) % 2 ^ c.w, a, b, d, (e + t1) % 2 ^ c.w, f, g, h]
  | l => l

/-- The words of a block, first word first. -/
def Sha.words (c : Sha) : Nat → List Byte → List Nat
  | 0, _ => []
  | n + 1, m => ofBe (m.take (c.w / 8)) :: c.words n (m.drop (c.w / 8))

/-- The value after one block. -/
def Sha.block (c : Sha) (h : List Nat) (m : List Byte) : List Nat :=
  let ws := (c.schedule (c.k.length - 16) (c.words 16 m).reverse).reverse
  let v := (c.k.zip ws).foldl c.round h
  (h.zip v).map fun p => (p.1 + p.2) % 2 ^ c.w

/-- The value after n blocks of a padded message. -/
def Sha.blocks (c : Sha) : Nat → List Nat → List Byte → List Nat
  | 0, h, _ => h
  | n + 1, h, m => c.blocks n (c.block h (m.take (2 * c.w))) (m.drop (2 * c.w))

/-- The digest as bytes. -/
def Sha.digest (c : Sha) (m : List Byte) : List Byte :=
  let p := c.padded m
  (c.blocks (p.length / (2 * c.w)) c.h p).flatMap fun x => beBytes (c.w / 8) x

/-- The SHA-256 digest, 32 bytes. -/
def sha256 (m : List Byte) : List Byte := Sha.s256.digest m

/-- The SHA-384 digest, 48 bytes. -/
def sha384 (m : List Byte) : List Byte := (Sha.s384.digest m).take 48

/-! ### Signatures -/

/-- A curve y^2 = x^3 - 3x + b over the integers modulo p, its base point, and that point's order. -/
structure Curve where
  p : Nat
  b : Nat
  gx : Nat
  gy : Nat
  n : Nat

/-- P-384. -/
def p384 : Curve :=
  { p := 0xFFFFFFFFFFFFFFFFFFFFFFFFFFFFFFFFFFFFFFFFFFFFFFFFFFFFFFFFFFFFFFFEFFFFFFFF0000000000000000FFFFFFFF
    b := 0xB3312FA7E23EE7E4988E056BE3F82D19181D9C6EFE8141120314088F5013875AC656398D8A2ED19D2A85C8EDD3EC2AEF
    gx := 0xAA87CA22BE8B05378EB1C71EF320AD746E1D3B628BA79B9859F741E082542A385502F25DBF55296C3A545E3872760AB7
    gy := 0x3617DE4A96262C6F5D9E98BF9292DC29F8F41DBD289A147CE9DA3113B5F0B8C00A60B1CE1D7E819D7A431D7C90EA0E5F
    n := 0xFFFFFFFFFFFFFFFFFFFFFFFFFFFFFFFFFFFFFFFFFFFFFFFFC7634D81F4372DDF581A0DB248B0A77AECEC196ACCC52973 }

/-- P-256. -/
def p256 : Curve :=
  { p := 0xFFFFFFFF00000001000000000000000000000000FFFFFFFFFFFFFFFFFFFFFFFF
    b := 0x5AC635D8AA3A93E7B3EBBD55769886BC651D06B0CC53B0F63BCE3C3E27D2604B
    gx := 0x6B17D1F2E12C4247F8BCE6E563A440F277037D812DEB33A0F4A13945D898C296
    gy := 0x4FE342E2FE1A7F9B8EE7EB4A7C0F9E162BCE33576B315ECECBB6406837BF51F5
    n := 0xFFFFFFFF00000000FFFFFFFFFFFFFFFFBCE6FAADA7179E84F3B9CAC2FC632551 }

/-- A power modulo m, over the low k bits of the exponent. -/
def powMod (m : Nat) : Nat → Nat → Nat → Nat
  | 0, _, _ => 1 % m
  | k + 1, x, e => let r := powMod m k (x * x % m) (e / 2); if e % 2 = 1 then x * r % m else r

/-- The inverse modulo a prime. -/
def invMod (m x : Nat) : Nat := powMod m (m.log2 + 1) (x % m) (m - 2)

/-- A point of a curve in projective coordinates: (x / z^2, y / z^3) modulo p, or infinity where z is 0. -/
structure Point where
  x : Nat
  y : Nat
  z : Nat

/-- The point at infinity. -/
def Point.infinity : Point := { x := 1, y := 1, z := 0 }

/-- A point of two coordinates. -/
def Point.of (x y : Nat) : Point := { x := x, y := y, z := 1 }

/-- The double of a point. -/
def Curve.double (c : Curve) (q : Point) : Point :=
  let a := q.z * q.z % c.p
  let b := q.y * q.y % c.p
  let g := q.x * b % c.p
  let m := 3 * ((q.x + c.p - a) * (q.x + a)) % c.p
  let x := (m * m + 8 * (c.p - g)) % c.p
  { x := x, y := (m * (4 * g + c.p - x) + 8 * (c.p - b * b % c.p)) % c.p, z := 2 * (q.y * q.z) % c.p }

/-- The sum of two points. -/
def Curve.add (c : Curve) (q r : Point) : Point :=
  if q.z = 0 then r
  else if r.z = 0 then q
  else
    let zq := q.z * q.z % c.p
    let zr := r.z * r.z % c.p
    let u := q.x * zr % c.p
    let h := (r.x * zq + c.p - u) % c.p
    let v := q.y * (zr * r.z % c.p) % c.p
    let d := (r.y * (zq * q.z % c.p) + c.p - v) % c.p
    if h = 0 then (if d = 0 then c.double q else Point.infinity)
    else
      let h2 := h * h % c.p
      let h3 := h2 * h % c.p
      let w := u * h2 % c.p
      let x := (d * d + (c.p - h3) + 2 * (c.p - w)) % c.p
      { x := x, y := (d * (w + c.p - x) + v * (c.p - h3)) % c.p, z := q.z * r.z % c.p * h % c.p }

/-- A multiple of a point, over the low k bits of the factor. -/
def Curve.mul (c : Curve) : Nat → Nat → Point → Point
  | 0, _, _ => Point.infinity
  | k + 1, e, q => let r := c.mul k (e / 2) (c.double q); if e % 2 = 1 then c.add q r else r

/-- Bits of a factor below the order. -/
def Curve.factorBits (c : Curve) : Nat := c.n.log2 + 1

/-- A multiple of the base point. -/
def Curve.mulG (c : Curve) (e : Nat) : Point := c.mul c.factorBits e (Point.of c.gx c.gy)

/-- The coordinates of a point; none for infinity. -/
def Curve.coords (c : Curve) (q : Point) : Option (Nat × Nat) :=
  if q.z = 0 then none
  else
    let i := invMod c.p q.z
    some (q.x * (i * i % c.p) % c.p, q.y * (i * i % c.p * i % c.p) % c.p)

/-- Whether two coordinates are a point of the curve. -/
def Curve.on (c : Curve) (x y : Nat) : Bool := x < c.p && y < c.p && (y * y) % c.p = (x * x * x + c.b + 3 * (c.p - x)) % c.p

/-- FIPS 186-5: whether a signature (r, s) of the digest that reads as z verifies under the public point (x, y). -/
def Curve.verify (c : Curve) (x y z r s : Nat) : Bool :=
  if !c.on x y || r = 0 || c.n ≤ r || s = 0 || c.n ≤ s then false
  else
    let w := invMod c.n s
    match c.coords (c.add (c.mulG (z * w % c.n)) (c.mul c.factorBits (r * w % c.n) (Point.of x y))) with
    | some (vx, _) => vx % c.n = r
    | none => false

/-- FIPS 186-5: the signature (r, s) of the digest that reads as z by the private number d, with the random number k. -/
def Curve.sign (c : Curve) (d k z : Nat) : Nat × Nat :=
  match c.coords (c.mulG k) with
  | some (x, _) => (x % c.n, invMod c.n k * (z + x % c.n * d) % c.n)
  | none => (0, 0)

/-- A number of a key pair: 1 to the order less 1. -/
def Curve.secretOf (c : Curve) (n : Nat) : Nat := 1 + n % (c.n - 1)

/-- A P-256 public key as 64 bytes: its point's coordinates, little-endian (R141). -/
def pub256 (d : Nat) : List Byte :=
  match p256.coords (p256.mulG d) with
  | some (x, y) => leBytes 32 x ++ leBytes 32 y
  | none => List.replicate 64 0

/-- R140, R141: whether under a public key of 96 bytes, over bytes, an ECDSA P-384 signature of 96 bytes verifies: the digest
is read big-endian, and r, s and the coordinates are little-endian. -/
def verifies (key msg sig : List Byte) : Bool :=
  p384.verify (leAt key 0 48) (leAt key 48 48) (ofBe (sha384 msg)) (leAt sig 0 48) (leAt sig 48 48)

/-- R141, R659: the same for an ECDSA P-256 signature of 64 bytes under a public key of 64 bytes. -/
def verifies256 (key msg sig : List Byte) : Bool :=
  p256.verify (leAt key 0 32) (leAt key 32 32) (ofBe (sha256 msg)) (leAt sig 0 32) (leAt sig 32 32)

/-- The public key of the n-th identity key pair, 64 bytes (R652). -/
def idPublicKey (n : Nat) : List Byte := pub256 (p256.secretOf (Config.idPrivate n))

/-- The ECDSA P-256 signature of the n-th identity key over bytes, 64 bytes: r, then s, each little-endian (R141, R654). The
random number of the signature is free. -/
def idSign (n : Nat) (msg : List Byte) : List Byte :=
  let (r, t) := p256.sign (p256.secretOf (Config.idPrivate n)) (p256.secretOf (Config.idRandom n msg)) (ofBe (sha256 msg))
  leBytes 32 r ++ leBytes 32 t

/-! ### Partner packets: AES-256-GCM and the key derivation (R589, R659) -/

/-- The product in GF(2^8) of AES, over the low k bits of b. -/
def Aes.gmul : Nat → Nat → Nat → Nat
  | 0, _, _ => 0
  | k + 1, a, b => (b % 2 * a) ^^^ Aes.gmul k ((2 * a) ^^^ (a / 128 * 0x11B)) (b / 2)

/-- The S-box of FIPS 197: a row for each high digit, its 16 bytes from low digit 0 on. -/
def Aes.sbox : List Nat :=
  [0x637C777BF26B6FC53001672BFED7AB76, 0xCA82C97DFA5947F0ADD4A2AF9CA472C0, 0xB7FD9326363FF7CC34A5E5F171D83115]
    ++ [0x04C723C31896059A071280E2EB27B275, 0x09832C1A1B6E5AA0523BD6B329E32F84, 0x53D100ED20FCB15B6ACBBE394A4C58CF]
    ++ [0xD0EFAAFB434D338545F9027F503C9FA8, 0x51A3408F929D38F5BCB6DA2110FFF3D2, 0xCD0C13EC5F974417C4A77E3D645D1973]
    ++ [0x60814FDC222A908846EEB814DE5E0BDB, 0xE0323A0A4906245CC2D3AC629195E479, 0xE7C8376D8DD54EA96C56F4EA657AAE08]
    ++ [0xBA78252E1CA6B4C6E8DD741F4BBD8B8A, 0x703EB5664803F60E613557B986C11D9E, 0xE1F8981169D98E949B1E87E9CE5528DF]
    ++ [0x8CA1890DBFE6426841992D0FB054BB16]

/-- SubBytes of a byte. -/
def Aes.sub (x : Nat) : Nat := Aes.sbox.getD (x / 16) 0 / 256 ^ (15 - x % 16) % 256

/-- Two byte lists, exclusive-ored. -/
def Aes.xor (a b : List Nat) : List Nat := List.zipWith (fun x y => x ^^^ y) a b

/-- The words of the expanded 256-bit key, last first: n more, the next one numbered i. -/
def Aes.expand : Nat → Nat → List (List Nat) → List (List Nat)
  | 0, _, l => l
  | n + 1, i, l =>
    let t := l.getD 0 []
    let u :=
      if i % 8 = 0 then Aes.xor ((t.drop 1 ++ t.take 1).map Aes.sub) [2 ^ (i / 8 - 1), 0, 0, 0]
      else if i % 8 = 4 then t.map Aes.sub
      else t
    Aes.expand n (i + 1) (Aes.xor (l.getD 7 []) u :: l)

/-- The words of a byte list, n of four bytes. -/
def Aes.words : Nat → List Nat → List (List Nat)
  | 0, _ => []
  | n + 1, l => l.take 4 :: Aes.words n (l.drop 4)

/-- The 15 round keys of 16 bytes. -/
def Aes.roundKeys (key : List Nat) : List (List Nat) :=
  let w := (Aes.expand 52 8 (Aes.words 8 key).reverse).reverse
  (List.range 15).map fun r => ((w.drop (4 * r)).take 4).flatten

/-- SubBytes and ShiftRows of a state of 16 bytes, column by column. -/
def Aes.subShift (b : List Nat) : List Nat := (List.range 16).map fun i => Aes.sub (b.getD ((5 * i) % 16) 0)

/-- MixColumns. -/
def Aes.mix (b : List Nat) : List Nat :=
  (List.range 16).map fun i =>
    let at_ (k : Nat) : Nat := b.getD (i / 4 * 4 + (i + k) % 4) 0
    Aes.gmul 8 (at_ 0) 2 ^^^ Aes.gmul 8 (at_ 1) 3 ^^^ at_ 2 ^^^ at_ 3

/-- A block of 16 bytes encrypted with the round keys. -/
def Aes.block (ks : List (List Nat)) (b : List Nat) : List Nat :=
  let mid := ((ks.drop 1).take 13).foldl (fun x k => Aes.xor (Aes.mix (Aes.subShift x)) k) (Aes.xor b (ks.getD 0 []))
  Aes.xor (Aes.subShift mid) (ks.getD 14 [])

/-- The number of a byte list, highest first. -/
def Gcm.num (l : List Nat) : Nat := l.foldl (fun v b => 256 * v + b) 0

/-- The product in GF(2^128) of GCM, whose first bit is its highest, over the low k bits of y, read from the highest. -/
def Gcm.mul : Nat → Nat → Nat → Nat
  | 0, _, _ => 0
  | k + 1, v, y => (y / 2 ^ k % 2 * v) ^^^ Gcm.mul k ((v / 2) ^^^ (v % 2 * (0xE1 * 2 ^ 120))) y

/-- The blocks of 16 bytes of a byte list, n of them, the last filled with zeros. -/
def Gcm.blocks : Nat → List Nat → List (List Nat)
  | 0, _ => []
  | n + 1, l => ((l.take 16) ++ List.replicate (16 - l.length) 0) :: Gcm.blocks n (l.drop 16)

/-- The cipher stream of n blocks from a counter. -/
def Gcm.stream (ks : List (List Nat)) (iv : List Nat) : Nat → Nat → List Nat
  | 0, _ => []
  | n + 1, c => Aes.block ks (iv ++ (beBytes 4 c).map BitVec.toNat) ++ Gcm.stream ks iv n (c + 1)

/-- AES-256-GCM (R589): the ciphertext and the tag of 16 bytes, under a key of 32 bytes and an IV of 12. -/
def Gcm.seal (key iv aad plain : List Nat) : List Nat × List Nat :=
  let ks := Aes.roundKeys key
  let n := (plain.length + 15) / 16
  let c := Aes.xor plain (Gcm.stream ks iv n 2)
  let h := Gcm.num (Aes.block ks (List.replicate 16 0))
  let lens := (beBytes 8 (8 * aad.length) ++ beBytes 8 (8 * c.length)).map BitVec.toNat
  let all := Gcm.blocks ((aad.length + 15) / 16) aad ++ Gcm.blocks n c ++ [lens]
  let g := all.foldl (fun y b => Gcm.mul 128 h (y ^^^ Gcm.num b)) 0
  (c, Aes.xor ((beBytes 16 g).map BitVec.toNat) (Gcm.stream ks iv 1 1))

/-- HMAC with SHA-384 (FIPS 198-1). -/
def hmac384 (key msg : List Byte) : List Byte :=
  let k := (if 128 < key.length then sha384 key else key)
  let k0 := k ++ List.replicate (128 - k.length) 0#8
  sha384 (k0.map (fun b => b ^^^ 0x5C#8) ++ sha384 (k0.map (fun b => b ^^^ 0x36#8) ++ msg))

/-- R659: 72 bytes by HKDF-SHA-384. -/
def hkdf72 (secret salt info : List Byte) : List Byte :=
  let prk := hmac384 salt secret
  let t1 := hmac384 prk (info ++ [0x01#8])
  (t1 ++ hmac384 prk (t1 ++ info ++ [0x02#8])).take 72

/-- R659: the bytes of "FLEZOR-PRT". -/
def prtInfo : List Byte := [0x46, 0x4C, 0x45, 0x5A, 0x4F, 0x52, 0x2D, 0x50, 0x52, 0x54]

/-- R659: the ECDH secret of a private number and the partner's public key of 64 bytes: the x coordinate, 32 bytes, highest
first as FIPS and HKDF take it; none where the key is no point of the curve. -/
def ecdhSecret (d : Nat) (pub : List Byte) : Option (List Byte) :=
  let x := leAt pub 0 32
  let y := leAt pub 32 32
  if !p256.on x y then none
  else (p256.coords (p256.mul p256.factorBits d (Point.of x y))).map fun q => beBytes 32 q.1

end Sys2Proof.Machine
end

