-- ==== Sys2Proof/Machine/Line.lean ====
section
/-! DEFINITION. Key slots and identity (R652, R653), and what the partner link puts on its lanes: words of 34 bits, scrambled
and spread over the lanes (R585 to R588), and packets sealed with AES-256-GCM (R589). -/

namespace Sys2Proof.Machine

/-! ### Keys and identity -/

/-- Exactly n bytes: cut, or filled up with zeros. -/
def fixLen (n : Nat) (l : List Byte) : List Byte := (l ++ List.replicate n 0).take n

/-- The public key in a slot (R653). -/
def slotKey (s : State) (k : Nat) : List Byte :=
  match s.sec.keys.find? fun (e : Nat × List Byte) => e.1 == k with
  | some e => e.2
  | none => Config.slotKey k

/-- Whether a slot holds a key of a purpose (R653). -/
def slotServes (s : State) (k purpose : Nat) : Bool :=
  k < 8 && s.flag (F.SEC_KEY_SLOT_VALID k) && bit (s.get (F.SEC_KEY_SLOT_PURPOSE k)) purpose

/-- Purposes of key slots. -/
abbrev Key.fw : Nat := 0
abbrev Key.safety : Nat := 1
abbrev Key.lockout : Nat := 2
abbrev Key.reprov : Nat := 3
abbrev Key.fleet : Nat := 4

/-- The 16 bytes of the unique identifier. -/
def uidBytes (s : State) : List Byte :=
  leBytes 4 (s.get (F.SEC_UID 0)) ++ leBytes 4 (s.get (F.SEC_UID 1)) ++ leBytes 4 (s.get (F.SEC_UID 2)) ++ leBytes 4 (s.get (F.SEC_UID 3))

/-- The identity public key, 64 bytes. -/
def idPublic (s : State) : List Byte := fixLen 64 (idPublicKey s.sec.idKey)

/-- The endorsement, or zeros when there is none (R654). -/
def endorsement (s : State) : List Byte :=
  if !s.flag F.SEC_STATUS_ENDORSED then List.replicate 96 0
  else fixLen 96 (if s.sec.idKey = 0 then Config.endorsement else s.sec.endorsement)

/-! ### Words on the line (R585 to R588) -/

/-- Headers of data words and of control words; 0 and 3 are invalid (R585). -/
abbrev Header.data : Nat := 1
abbrev Header.control : Nat := 2

/-- R586: the low n bits of a payload, highest first, through the scrambler x^58 + x^39 + 1: the scrambler's last 58 output bits
before and after, and the scrambled bits. -/
def scramble : Nat → Nat → Nat → Nat × Nat
  | 0, st, _ => (st, 0)
  | n + 1, st, w =>
    let o := b2n (bit w n != (bit st 57 != bit st 38))
    let r := scramble n ((2 * st + o) % 2 ^ 58) w
    (r.1, o * 2 ^ n + r.2)

/-- R586: a receiver undoes it: the last 58 bits received before, and the payload. -/
def descramble : Nat → Nat → Nat → Nat
  | 0, _, _ => 0
  | n + 1, st, w =>
    b2n (bit w n != (bit st 57 != bit st 38)) * 2 ^ n + descramble n ((2 * st + b2n (bit w n)) % 2 ^ 58) w

/-- The scrambler of a lane: its last 58 output bits. -/
def scrambler (s : State) (lane : Nat) : Nat := ((s.prt.scr.find? fun p => p.1 == lane).map fun p => p.2).getD 0

/-- A word goes out on a lane: header first, then the payload, scrambled (R585, R586). -/
def putWord (s : State) (lane header payload : Nat) : State :=
  let r := scramble 32 (scrambler s lane) payload
  { s with tx := s.tx ++ [.line lane (header * 2 ^ 32 + r.2)],
           prt := { s.prt with scr := (lane, r.1) :: s.prt.scr.filter fun p => p.1 != lane } }

/-- Both lanes are up. -/
def bothLanes (s : State) : Bool := s.get F.LNK_PRT_STATUS_LANES_UP == 3

/-- R587: a word of the stream goes on lane i mod 2 while both lanes are up, and on lane 0 otherwise. -/
def streamWord (s : State) (header payload : Nat) : State :=
  let t := putWord s (if bothLanes s then b2n s.prt.odd else 0) header payload
  { t with prt := { t.prt with odd := bothLanes s && !s.prt.odd } }

/-- Several words of the stream. -/
def streamWords (s : State) (l : List (Nat × Nat)) : State := l.foldl (fun (t : State) w => streamWord t w.1 w.2) s

/-- The payload of a control word. -/
def controlWord (ctype value : Nat) : Nat := ctype * 2 ^ 24 + value % 2 ^ 24

/-- The CTYPE of an IDLE, SOP and TRN word. -/
abbrev Ctype.idle : Nat := 0x1E
abbrev Ctype.sop : Nat := 0x3C
abbrev Ctype.trn : Nat := 0x78

/-- The CTYPEs of R588's table. -/
def ctypes : List Nat := [0x1E, 0x3C, 0x5A, 0x78, 0x96, 0xA5, 0xB4, 0xD2]

/-- What is sent is noted: a packet or control word as its sender knows it. -/
def noteSent (s : State) (kind : Nat) (payload : List Nat) : State := { s with tx := s.tx ++ [.partner kind payload] }

/-- A control word is sent on the stream: noted with a kind 256 above its CTYPE, then on the line. -/
def sendWord (s : State) (ctype value : Nat) : State :=
  streamWord (noteSent s (256 + ctype) [value]) Header.control (controlWord ctype value)

/-- R587: a frame mark always goes on lane 0; with both lanes up, lane 1 carries IDLE in the same word time, and an IDLE fills
up the word time before. -/
def sendMark (s : State) (frame24 : Nat) : State :=
  let t := if bothLanes s && s.prt.odd then streamWord s Header.control (controlWord Ctype.idle 0) else s
  let u := sendWord t 0x5A frame24
  if bothLanes s then streamWord u Header.control (controlWord Ctype.idle 0) else u

/-- The lanes that a transmitter trains: both until the link is up, then those that are. -/
def trainLanes (s : State) : List Nat := if s.get F.LNK_PRT_STATUS_LANES_UP = 1 then [0] else [0, 1]

/-- n TRN words on each lane: each with its lane number and its word count; training phase and transmitter preset are free
(R594, R603; log entry 84). -/
def sendTrn (s : State) (n : Nat) : State :=
  let (f, t) := s.takeFree 8
  let word (lane i : Nat) : Nat := controlWord Ctype.trn (bits f 6 2 * 2 ^ 22 + lane * 2 ^ 21 + bits f 0 5 * 2 ^ 16 + i % 2 ^ 16)
  (List.range n).foldl (fun (u : State) i =>
    (trainLanes s).foldl (fun (v : State) lane => putWord v lane Header.control (word lane i)) u)
    (noteSent t (256 + Ctype.trn) [n])

/-- R585, R588: a word arrives with its header and its descrambled payload: CTYPE and value of a control word, none for any other;
a control word of another CTYPE is ignored and counted. -/
def takeControl (s : State) (header payload : Nat) : Option (Nat × Nat) × State :=
  let ctype := bits payload 24 8
  if header != Header.control then (none, s)
  else if ctypes.contains ctype then (some (ctype, payload % 2 ^ 24), s)
  else (none, s.inc F.LNK_PRT_CNT_HDR)

/-! ### Packets (R589) -/

/-- The key of 32 bytes and the salt of 4 with which a SIDE seals what it sends; zeros while there is no session key (R659). -/
def sideKey (s : State) (side : Nat) : List Nat × List Nat :=
  let k := (if s.prt.keys.isEmpty then List.replicate 72 0 else s.prt.keys).map BitVec.toNat
  ((k.drop (32 * side)).take 32, (k.drop (64 + 4 * side)).take 4)

/-- This device's key, and that of its partner, whose SIDE its CAP word gave. -/
def ownKey (s : State) : List Nat × List Nat := sideKey s (sideNow s)
def partnerKey (s : State) : List Nat × List Nat := sideKey s (bits (s.get F.LNK_PRT_PCAP) 19 1)

/-- Dwords as bytes, lowest first (R5). -/
def dwordBytes (l : List Nat) : List Nat := l.flatMap fun w => (leBytes 4 w).map BitVec.toNat

/-- Bytes as dwords, n of them. -/
def byteDwords : Nat → List Nat → List Nat
  | 0, _ => []
  | n + 1, l => (l.take 4).foldr (fun b v => b + 256 * v) 0 :: byteDwords n (l.drop 4)

/-- The SOP word of a packet of a type with n payload words, and the two words of a SEQ (R589). -/
def sopWord (kind n : Nat) : Nat := controlWord Ctype.sop (kind * 2 ^ 16 + (n + 7) % 2 ^ 16)
def seqWords (seq : Nat) : List Nat := [seq % 2 ^ 32, seq / 2 ^ 32 % 2 ^ 32]

/-- A packet's payload sealed under a key and salt: ciphertext and tag, as bytes (R589). -/
def sealPacket (key : List Nat × List Nat) (kind seq : Nat) (payload : List Nat) : List Nat × List Nat :=
  Gcm.seal key.1 (key.2 ++ dwordBytes (seqWords seq)) (dwordBytes (sopWord kind payload.length :: seqWords seq)) (dwordBytes payload)

/-- The words of a packet with its SEQ: SOP, SEQ, the sealed payload, and the tag (R589). -/
def packetWords (s : State) (kind : Nat) (payload : List Nat) : List (Nat × Nat) :=
  let n := payload.length
  let sealed := sealPacket (ownKey s) kind s.prt.txSeq payload
  (Header.control, sopWord kind n) ::
    (seqWords s.prt.txSeq ++ byteDwords n sealed.1 ++ byteDwords 4 sealed.2).map fun w => (Header.data, w)

/-- R590: the tag of a packet that has arrived verifies under the partner's key; payload is what it decrypts to. -/
def tagVerifies (s : State) (kind seq : Nat) (payload : List Nat) (tag : BitVec 128) : Bool :=
  (leBytes 16 tag.toNat).map BitVec.toNat == (sealPacket (partnerKey s) kind seq payload).2

/-- A packet is sent (R589): noted, and its words on the line. -/
def sendPacket (s : State) (kind : Nat) (payload : List Nat) : State :=
  let t := streamWords (noteSent s kind payload) (packetWords s kind payload)
  { t with prt := { t.prt with txSeq := t.prt.txSeq + 1 } }

end Sys2Proof.Machine
end

