-- ==== Sys2Proof/Machine/Link.lean ====
section
/-! DEFINITION. The partner link's words and packets (chapter 18): sending, acceptance, loss and training. -/

namespace Sys2Proof.Machine

/-! ### States of the link (LNK_PRT_STATUS) -/

abbrev Prt.disabled : Nat := 0
abbrev Prt.detect : Nat := 1
abbrev Prt.bitlock : Nat := 2
abbrev Prt.lanecheck : Nat := 4
abbrev Prt.eye : Nat := 5
abbrev Prt.capability : Nat := 6
abbrev Prt.latency : Nat := 7
abbrev Prt.session : Nat := 8
abbrev Prt.active : Nat := 9
abbrev Prt.doze : Nat := 10
abbrev Prt.deep : Nat := 11
abbrev Prt.retry : Nat := 12

/-- The link's state. -/
def prtState (s : State) : Nat := if prtUp s then s.get F.LNK_PRT_STATUS_STATE else 0

/-- The link goes to a state. -/
def toPrt (s : State) (st : Nat) : State := s.set F.LNK_PRT_STATUS_STATE st

/-- Whether the transmitter dozes. -/
def dozes (s : State) : Bool := prtState s = Prt.doze || prtState s = Prt.deep

/-- TRN words that end Doze: 256. Those that end Deep go on until the receiver has word lock; the model sends one (log entry
84). -/
def wakeWords (s : State) : Nat := if prtState s = Prt.doze then 256 else 1

/-- R603: the transmitter leaves Doze or Deep with TRN words. -/
def leaveDoze (s : State) : State := if dozes s then toPrt (sendTrn s (wakeWords s)) Prt.active else s

/-- Whether a session is up: ACTIVE, Doze or Deep (R603). -/
def sessionUp (s : State) : Bool := prtUp s && s.flag F.LNK_PRT_STATUS_SESSION

/-- The session ends and its keys, salts and ephemeral numbers are erased (R601, R660). -/
def endSession (s : State) : State :=
  let t := ((s.set F.LNK_PRT_STATUS_SESSION 0).set F.SEC_STATUS_SESSION_KEYS 0).set F.SYS_STATUS_PARTNER_UP 0
  { t with prt := { t.prt with txSeq := 1, rxSeq := 0, keyx := false, eph := 0, peer := [], keys := [], tagFails := [] } }

/-- A training starts at DETECT (R594). -/
def startTraining (s : State) : State :=
  let t := (((endSession s).set F.LNK_PRT_STATUS_STATE Prt.detect).set F.LNK_PRT_STATUS_LANES_UP 0).inc F.LNK_PRT_CNT_TRAIN
  { t with prt := { t.prt with laneOk := 0, eyesDone := 0, echoes := [], odd := false } }

/-- PRT_RETRAIN ends. -/
def endRetrain (s : State) (status result : Nat) : State :=
  match s.prt.retrain with
  | some _ => finishRunning { s with prt := { s.prt with retrain := none } } 0x0801 status result
  | none => s

/-- A training fails at a step: FAIL_STEP, an F2 fault and a new training 100 ms later (R600); a link loss that is not made
good is an F2 fault of its own (R601). A PRT_RETRAIN ends with TIMEOUT: the partner did not answer. -/
def failTraining (s : State) (step : Nat) : State :=
  let t := ((endSession s).set F.LNK_PRT_STATUS_FAIL_STEP step).set F.LNK_PRT_STATUS_STATE Prt.retry
  let u := raiseFault (t.set F.LNK_PRT_STATUS_LANES_UP 0) 2 0x0F04 step
  let v := if u.prt.lost then raiseFault { u with prt := { u.prt with lost := false } } 2 0x0F02 1 else u
  endRetrain v St.timeout 0

/-- The link is lost: the session ends and training starts at once (R601). -/
def linkLoss (s : State) : State :=
  let t := startTraining (s.inc F.LNK_PRT_CNT_LOSS)
  { t with prt := { t.prt with lost := true } }

/-- Whether packets can be accepted: a session is up, or its keys are being agreed. -/
def receives (s : State) : Bool := sessionUp s || prtState s = Prt.session

/-- A packet arrives (R590, R601): none when it is not accepted, with the state that has counted it. -/
def takePacket (s : State) (tagOk : Bool) (seq : Nat) : Bool × State :=
  if !receives s then (false, s)
  else if !tagOk then
    let l := (s.prt.tagFails.filter fun t => s.sys.raw < t + 800000) ++ [s.sys.raw]
    let t := { s.inc F.LNK_PRT_CNT_TAG with prt := { s.prt with tagFails := l } }
    (false, if 3 ≤ l.length && sessionUp s then linkLoss t else t)
  else if seq ≤ s.prt.rxSeq then (false, s.inc F.LNK_PRT_CNT_SEQ)
  else (true, { s with prt := { s.prt with rxSeq := seq } })

end Sys2Proof.Machine
end

