-- ==== Sys2Proof/Machine/Twin.lean ====
section
/-! DEFINITION. Twin operation (chapter 15): roles, alternation, silence, the mirror block and the return to halves. -/

namespace Sys2Proof.Machine

/-- An accepted packet ends the silence of a device in alternation, which then keeps to its own parity (R528, R530). -/
def heardPartner (s : State) : State :=
  if s.flag F.RED_STATUS_ALT then noteRole (s.set F.RED_STATUS_SILENCE 0) else s

/-- Two skews within 100 ps of each other: 6 steps of 15.625 ps (R511). -/
def steady (a b : Int) : Bool := (a - b).natAbs ≤ 6

/-- All of a list of skews within 100 ps of its first. -/
def allSteady : List Int → Bool
  | [] => true
  | a :: r => r.all (steady a)

/-- Bytes of the items of CONFIG_HASH (R516), each as a dword (log entry 22). -/
def hashItems (s : State) : List Byte :=
  let code (e : Nat) : Nat := [F.HGE_CODE_TAB_DEPTH e, F.HGE_CODE_TAB_O1 e, F.HGE_CODE_TAB_O2 e, F.HGE_CODE_TAB_O3 e].foldl
    (fun w f => w + s.get f * 2 ^ f.lsb) 0
  let prof (e : Nat) : Nat := [F.HGE_PROF_BW e, F.HGE_PROF_PRE e, F.HGE_PROF_PRE_POS e].foldl (fun w f => w + s.get f * 2 ^ f.lsb) 0
  let win (e : Nat) : Nat := [F.TDC_WIN_PROF_START e, F.TDC_WIN_PROF_END e].foldl (fun w f => w + s.get f * 2 ^ f.lsb) 0
  ([s.get F.SCH_PROG_CRC0, s.get F.SCH_PROG_CRC1] ++ (List.range 16).map code ++ [s.get F.HGE_CODE_EN, s.get F.HGE_DITHER]
    ++ (List.range 16).map win ++ (List.range 16).map prof ++ [s.sch.slotNs, s.sch.frameUs]).flatMap (leBytes 4)

/-- CONFIG_HASH: the low 64 bits of the digest (R516). -/
def configHash (s : State) : Nat := ofLe ((sha384 (hashItems s)).take 8)

/-- The payload of a MIRROR packet (packet types table). -/
def mirrorWords (schema side : Nat) (all : Bool) (hash seed frame calVer mark24 dly : Nat) : List Nat :=
  [schema + 2 ^ 8 * side + 2 ^ 9 * b2n all, hash % 2 ^ 32, hash / 2 ^ 32, seed % 2 ^ 32, seed / 2 ^ 32, frame, calVer,
    mark24 % 2 ^ 24 + 2 ^ 24 * dly]

/-- The mirror block is sent (R516, R590); MARK_DLY, which the leader measures, is a free value. -/
def sendMirror (s : State) : State :=
  let all := native s && s.sch.running && !s.red.halves && !s.red.mute && !s.flag F.RED_STATUS_ALT
  let (dly, t) := if sideNow s = 0 then s.takeFree 8 else (0, s)
  sendPacket t 0x02 (mirrorWords (t.get F.RED_SCHEMA_OWN) (sideNow t) all (t.get F.RED_HASH) (t.get F.HGE_SEED) t.sch.frame
    (t.get F.CAL_VERSION_WORKING) t.sch.frame dly)

/-- The announcement of an admission (R513): the slot, and the entry admitted for it or none. -/
def announce (s : State) (x : SlotId) : State :=
  if !native s || !sessionUp s then s
  else match s.sch.look.find? fun (y : Shot) => y.at_ == x.at_ && y.use == .own with
    | some y => sendPacket s 0x01 [x.frame, x.i + 2 ^ 20 * vLast s (y.row / 4), y.entry]
    | none => sendPacket s 0x01 [x.frame, x.i, 0xFFFFFFFF]

/-- Whether a return to halves may happen at the boundary that starts absolute slot t (R518). -/
def mayRejoin (s : State) (t : Nat) : Bool :=
  native s && sessionUp s && s.flag F.CLK_STATUS_REF_ACTIVE && !s.red.halves
    && (match s.red.joinFrom with
      | some j => j + 64 < t
      | none => false)
    && allSteady (s.red.skews.take 3)

/-- The pair fires in halves again (R518). -/
def rejoin (s : State) : State :=
  let t := clearUnsure ((((s.set F.RED_STATUS_ALT 0).set F.RED_STATUS_ALT_CAUSE 0).set F.RED_STATUS_SILENCE 0).set
    F.RED_STATUS_STANDBY 0)
  { t with red := { t.red with halves := true, mute := false, matched := 0, joinFrom := none } }

/-- What twin operation does at a frame boundary (R510, R511, R516, R518): the hash is formed, a device on its crystal goes
to alternation, one that may returns to halves, and in a session the leader's mark and the mirror block are sent, by a transmitter that
has left Doze (R604). -/
def twinBoundary (s : State) : State :=
  let t := s.set F.RED_HASH (configHash s)
  let u := crystalAlt t
  let v := if mayRejoin u u.sch.abs then rejoin u else u
  let w := if native v && sessionUp v then
      let y := leaveDoze v
      sendMirror (if sideNow y = 0 then sendMark y (y.sch.frame % 2 ^ 24) else y)
    else v
  noteRole w

/-- A session comes up (R508, R512): the seed goes out with a mirror block, and the leader takes the halter when neither
device holds it; partnerHolds says whether the partner does. -/
def twinSessionUp (s : State) (partnerHolds : Bool) : State :=
  if !native s then s
  else
    let t := if sideNow s = 0 && !partnerHolds && !s.flag F.RED_STATUS_ALT then s.set F.RED_STATUS_HALTER 1 else s
    noteRole (sendMirror t)

/-- PRT_CONFIG takes a mode (R148): the state of the mode left behind ends. -/
def setTwinMode (s : State) (mode : Nat) : State :=
  let t := clearUnsure ((((((s.set F.RED_STATUS_MODE mode).set F.RED_STATUS_ALT 0).set F.RED_STATUS_ALT_CAUSE 0).set
    F.RED_STATUS_SILENCE 0).set F.RED_STATUS_STANDBY 0).set F.RED_STATUS_HALTER 0)
  let u := t.set F.RED_ILK_DRIVING 0
  noteRole { u with pins := { u.pins with halter := false },
                    red := { u.red with halves := false, mute := false, matched := 0, joinFrom := none, adopt := none } }

end Sys2Proof.Machine
end

