-- ==== Sys2Proof/Machine/Scan.lean ====
section
/-! DEFINITION. Frames and slots: SCAN_START, SCAN_STOP and SCAN_SWITCH, the slot start (chapters 08, 10 and 11), the frame
boundary (R25), and the return to READY. -/

namespace Sys2Proof.Machine

/-! ### Cells at the end of their slots (R213, R235, R243) -/

/-- Whether a direction is held stale (R193, R627): a groom holds its cluster or its trims are awaited, the APD bias is not
settled, its cluster is being engaged, on command too (log entry 92), or has failed and is unserved. -/
def clusterStale (s : State) (n : Nat) : Bool :=
  let phase := s.get F.RXF_SPARE_STATUS_PHASE
  let routed := s.get F.RXF_SPARE_STATUS_ROUTE = n
  bit (s.get F.CAL_STATUS_STALE) (servedBy s n) || !s.flag F.RXF_APDB_STAT_SETTLED
    || ((phase = 1 || phase = 2) && routed)
    || (s.flag (F.RXF_CL_STATUS_FE_FAULT n) && !s.flag (F.RXF_CL_STATUS_SPARED n))

/-- A cell closes (R235): it keeps whether it was stale, its close time and the radiance source of its records (R22). A
slice that still tests its direction gives up, and a PIN = 1 that waited for it takes effect (R200, R256). -/
def closeCell (s : State) (x : Cell) (short : Bool) : State :=
  let t := updCell s x.dir x.frame fun c =>
    { c with closed := true, short := short, stale := clusterStale s (c.chan / 64), closedAt := s.sys.raw,
             src := s.thm.sources.head?.map fun (f : ThmFrame) => f.seq }
  s.rxf.slices.foldl (fun (u : State) (y : Slice) =>
    if y.dir = some x.dir && u.flag (F.RXF_OBS_ENGINE y.n) && y.left != 0 then
      let v := shapeMissed u y.n
      match y.pinPend with
      | some w => attachSlice v y.n w
      | none => setSlice v y.n none
    else u) t

/-- The directions that dropped an event in the slot that ends (R213); the windows of a listen slot serve none (R309, R695). -/
def droppedDirs (s : State) (x : Shot) : List Nat :=
  if x.use == .listen then [] else
  ((servedDirs x).filter fun e => (chanAt s (64 * e.1 + e.2.1)).drop).map fun e => e.2.2

/-- A slot ends: dropped events are noted in their cells, full cells close, and the stop windows of the slot are gone. -/
def endSlot (s : State) : State :=
  let t := match s.sch.fired with
    | f :: _ => (droppedDirs s f.shot).foldl (fun (u : State) d => updCell u d f.shot.frame fun c => { c with drop := true }) s
    | [] => s
  let full := t.hge.cells.filter fun (c : Cell) => !c.closed && c.left = 0 && c.shots != 0
  let u := full.foldl (fun (v : State) c => closeCell v c false) t
  { u with rxf := { u.rxf with shadowSeen := 0, chans := u.rxf.chans.map fun (c : Chan) =>
      { c with win := none, cur := none, last := none, drop := false } } }

/-! ### Firing (R354 to R358) -/

/-- The record of a direction without a cell's contents, for bursts that gave no measurement. -/
def blankCell (s : State) (dir frame ring : Nat) : Cell :=
  { dir := dir, frame := frame, pc := false, ring := ring, start := 0, stop := 0, bw := 8, pre := 0, prePos := false,
    packed := false, stall := 0, k := 0, bins := [], wsum := [], wsat := [], left := 0, shots := 0, events := 0, sats := 0,
    shadows := 0, drop := false, bridge := false, mixed := false, cntSat := false, taken := [], base := 0, chan := 0, closed := true,
    short := false, stale := false, closedAt := s.sys.raw, src := s.thm.sources.head?.map fun (f : ThmFrame) => f.seq }

/-- A record as its ring writes it: with the two fused dwords where the ring is fused (R261). -/
def ringRecord (s : State) (c : Cell) (standard : List Byte) : List Byte :=
  if s.flag (F.HGE_RING_CFG_FUSED c.ring) then standard ++ fusedBytes s c else standard

/-- The channels of a shot that open a stop window (R78, R311): logical cluster, channel and direction. -/
def openings (s : State) (x : Shot) : List (Nat × Nat × Nat) :=
  (servedDirs x).filter fun e =>
    clusterOpen s e.1 && channelOpen s e.1 e.2.1 && s.get (clst (servedBy s e.1)) = Cl.running

/-- One channel opens its stop window for the slot (R23, R206). -/
def openChannel (x : Shot) (s : State) (e : Nat × Nat × Nat) : State :=
  let id := 64 * e.1 + e.2.1
  let (edgeT1, noT1) := edgeSetup s (servedBy s e.1) e.2.1
  setChan s { chanAt s id with win := some (80 * x.start, if x.stop = 1638 then 131072 else 80 * x.stop), edgeT1 := edgeT1, noT1 := noT1 }

/-- A cell takes a shot (R230, R243). -/
def takeShot (s : State) (x : Shot) (e : Nat × Nat × Nat) : State :=
  let r := s.get (F.RXF_CH_STAT_RANGE_NOW (servedBy s e.1) e.2.1)
  updCell s e.2.2 x.frame fun c =>
    if c.closed then c
    else { c with left := c.left - 1, shots := c.shots + 1, taken := (x.slot, r) :: c.taken, chan := 64 * e.1 + e.2.1,
                  mixed := c.mixed || c.taken.any fun (y : Nat × Nat) => y.2 != r }

/-- An attached slice sums one shot of its channel (R197); an engine slice only those of its direction (R255). -/
def sliceShot (l : List (Nat × Nat × Nat)) (s : State) (y : Slice) : State :=
  let ch := s.get (F.RXF_OBS_CHANNEL y.n)
  let mine := l.any fun e => 64 * e.1 + e.2.1 = ch && (!s.flag (F.RXF_OBS_ENGINE y.n) || y.dir = some e.2.2)
  if mine then setSlice s y.n (some { y with left := y.left - 1 }) else s

/-- A shot's stop windows open, its cells take it, and it is kept to place its events (R172, R309). -/
def openWindows (s : State) (x : Shot) : State :=
  let l := openings s x
  let t := l.foldl (openChannel x) s
  let u := if x.use == .listen then t else t.rxf.slices.foldl (sliceShot l) (l.foldl (fun (v : State) e => takeShot v x e) t)
  let ranges := l.map fun e => (64 * e.1 + e.2.1, s.get (F.RXF_CH_STAT_RANGE_NOW (servedBy s e.1) e.2.1))
  { u with sch := { u.sch with fired := ({ shot := x, ranges := ranges } :: u.sch.fired).take 256 } }

/-- The charges of a shot with only some of its pulses seen (R355). -/
def keepSeen (s : State) (x : Shot) (seen : Nat) : State :=
  let d := x.code.length
  let f (c : Charge) : Charge :=
    if c.own && c.at_ = x.at_ then { c with amount := { num := c.amount.num * Int.ofNat seen, den := c.amount.den * max 1 d } } else c
  let t := s.add F.EMI_CNT_UNSEEN (d - seen)
  if seen = d then t
  else { t with sch := { t.sch with charges := (t.sch.charges.map f).filter fun (c : Charge) => c.amount.num != 0 } }

/-- End of the last pulse of a shot that fires in the present slot, in ns from the start of SCAN (R349). -/
def lastPulseEnd (s : State) (x : Shot) : Nat :=
  slotTime s + 40 + divUp (5 * (x.dither + x.code.getLastD 0) + 2 * s.get F.EMI_CTRL_PULSE_W) 4

/-- The reference of a shot reaches the engines that run on shot references or on first pulses (R221). -/
def noteShot (s : State) (x : Shot) : State :=
  let ref := stampAt s s.pins.slotAt (2560 + 80 * x.dither)
  noteEdge (noteEdge s 2 none { time := ref, window := x.at_ }) 10 none { time := ref, window := x.dither }

/-- R345, R346: a slot of SCAN, SAFE-HOLD or LOCKOUT starts with the pre-charge: every enabled column high, every row low. -/
def preCharge (s : State) : State :=
  { s with pins := { s.pins with erow := 0, ecol := 0, pre := s.get F.EMI_COL_EN, slotAt := s.sys.raw, pulses := [] } }

/-- R344, R345: a shot drives its row and, in each pulse of its code, its enabled columns; times in 0.25 ns from the slot's start. -/
def driveMatrix (s : State) (x : Shot) : State :=
  let w := 2 * s.get F.EMI_CTRL_PULSE_W
  let at_ (o : Nat) : Nat := 160 + 5 * (x.dither + o)
  { s with pins := { s.pins with erow := 2 ^ x.row, ecol := x.cols &&& s.get F.EMI_COL_EN,
                                 pulses := x.code.map fun o => (at_ o, at_ o + w) } }

/-- A shot of this device's emitter in its slot (R354 to R359); pulses holds the sensed current of each pulse. What a single-cell
shot finds of its cell comes before its check as a shot of its row (log entry 43). -/
def fireShot (s : State) (x : Shot) (pulses : List Nat) : State :=
  let b := x.row / 4
  let late := (bankAt s b).due.isSome
  if inhibited s || (bankOut s b && !(x.use == .locate || x.use == .retry)) || late then
    let t := if late then s.inc F.EMI_CNT_LATE else s
    keepSeen (if x.use == .own then t else giveBack t x) x 0
  else
    let cols := firedCols s x.cols
    let l := x.code.zipIdx.map fun e => pulses.getD e.2 0
    let seen := (l.filter (pulseSeen s b cols.length)).length
    let t := keepSeen (driveMatrix (noteShot s x) x) x seen
    let u := setBank { t with sch := { t.sch with lastShot := some t.sys.raw } } b
      { bankAt t b with due := some (lastPulseEnd t x), depth := x.code.length }
    if x.use == .own then
      let v := updOwe u x.frame x.entry fun o => { o with fired := o.fired + 1 }
      openWindows (checkRow v x.row cols.length l) x
    else checkRow (judgeCell u x.use (32 * x.row + x.cols.log2) l) x.row cols.length l

/-- What the committed shot of the present slot does; one whose cells are not placed where events can reach them when its slot
starts is deferred (R285), and so is one whose slot or entry has gone to the partner since (R306, R307). -/
def fireCommitted (s : State) (pulses : List Nat) : State :=
  match s.sch.committed with
  | none => s
  | some x =>
    let t := { s with sch := { s.sch with committed := none } }
    if x.at_ != s.sch.abs + s.sch.next - 1 then t
    else match x.use with
      | .listen => openWindows (noteShot t x) x
      | .partner _ => openWindows (noteShot t x) x
      | use =>
        if mayFire t x.slot x && cellsReady t x then fireShot t x pulses
        else if use == .own then deferShot (uncharge t x) x
        else giveBack (uncharge t x) x

/-- R234: the bursts refused for the present slot give their records and notices. -/
def reportRefused (s : State) : State :=
  let at_ := s.sch.abs + s.sch.next - 1
  (s.hge.refused.filter fun (r : Refused) => r.slot = at_).foldl (fun (t : State) r =>
    let rec_ := ringRecord t (blankCell t r.dir r.frame r.ring) (refusedRecord r.dir (s.sch.next - 1) r.frame)
    badNotice (queueRecords ((t.inc F.HGE_CNT_REFUSE).set F.HGE_STATUS_REFUSING 1) r.ring r.frame [rec_] none) r.dir) s

/-- Admission at a slot start, with its announcement (R318, R513); a frame after the last of a SCAN_STOP is not admitted. -/
def admitNext (s : State) : State :=
  let x := slotAhead s 64
  if s.sch.stop.isSome && x.frame != s.sch.frame then s else announce (admitShot s x) x

/-- R318: a slot starts. -/
def slotStart (s : State) (pulses : List Nat) : State :=
  let t := endSlot s
  let u := rangesAtSlot (preCharge { t with sch := { t.sch with next := t.sch.next + 1 } })
  let v := shortfall (reportRefused (fireCommitted u pulses))
  let w := admitNext v
  let ending := w.sch.stop.isSome && w.sch.next = w.sch.slots
  enforceCap (parkClusters (endSweep (if ending then w else commitNext w)))

/-- R318: the start of a slot of the running frame; pulses holds the sensed current of each pulse fired in it. -/
def execSlotStart (pulses : List Nat) (s : State) : Host.Outcome State Fault Refusal :=
  if s.mode.scanning && s.sch.running && s.sch.next < s.sch.slots then .next (slotStart s pulses) else .next s

/-! ### The frame boundary (R25, R691) -/

/-- Frame header of a ring (R258). -/
def headerBytes (s : State) (n : Nat) : List Byte :=
  let crc := ((progNow s).map (·.crc)).getD 0
  let flags := b2n s.sch.first + 2 * b2n (s.flag F.TDC_PPS_STATUS_ALIGNED) + 4 * b2n (s.flag F.CLK_STATUS_REF_ACTIVE)
    + 8 * b2n (ringAt s n).backlog + 16 * b2n (s.flag F.SYS_STATUS_CAL_STALE)
  leBytes 4 0xFFFFFFFF ++ leBytes 4 s.sch.frame ++ leBytes 8 s.now ++ leBytes 4 (s.get (F.SEC_UID 0))
    ++ leBytes 1 (s.get F.RED_STATUS_ROLE) ++ leBytes 1 (n + 4 * s.get (F.HGE_RING_CFG_FUSED n)) ++ leBytes 2 flags
    ++ leBytes 4 crc

/-- Every enabled ring queues the header of the frame that starts; a disabled one has received nothing for the frame before it. -/
def queueHeaders (s : State) : State :=
  (List.range 4).foldl (fun (t : State) n =>
    let r := ringAt t n
    if t.get (F.HGE_RING_CFG_SIZE n) = 0 then (if r.count = 0 then t else setRing t n { r with count := 0 })
    else
      setRing t n { r with queue := r.queue ++ [.header t.sch.frame r.count (headerBytes t n)], prev := r.count, count := 0,
                           backlog := t.flag (F.HGE_RING_STATUS_BACKLOG n) }) s

/-- The worst cells of the frame that ends (SCH_EYE_PEAK). -/
def storePeaks (s : State) : State :=
  let t := (List.range 4).foldl (fun (t : State) k =>
    let e := s.sch.peak.getD k (0, 0)
    (t.set (F.SCH_EYE_PEAK_CELL k) e.1).set (F.SCH_EYE_PEAK_PEAK k) e.2) s
  { t with sch := { t.sch with peak := [] } }

/-- R312: entries of tracking and survey groups that fired nothing although due stay due. -/
def carriedOwes (s : State) : List Owe :=
  if !s.flag F.SCH_CTRL_CARRY_EN || s.sch.first then []
  else (s.sch.owes.filter fun (o : Owe) => o.cls != 0 && o.fired = 0).map fun o =>
    { o with owed := o.burst, short := false }

/-- What the frame that starts owes: what admission has left of it, or all that is due, and the carried entries. -/
def newOwes (s : State) : List Owe :=
  let own := if s.sch.owesNext.isEmpty then ((progNow s).map fun p => dueOwes p s.sch.frame).getD [] else s.sch.owesNext
  let carried := (carriedOwes s).filter fun (o : Owe) => own.all fun (p : Owe) => p.entry != o.entry
  own ++ carried

/-- Entry e still has work in the frame: its clusters restart from cold (R341). -/
def wakeDue (s : State) : State :=
  match progNow s with
  | none => s
  | some p => s.sch.owes.foldl (fun (t : State) (o : Owe) => match p.entries[o.entry]? with
    | some e => (List.range 16).foldl (fun (u : State) n =>
        let f := clst (servedBy u n)
        if bit e.cl n && clusterOpen u n && u.get f = Cl.cold && !bit u.sch.capCold n then u.set f Cl.restarting else u) t
    | none => t) s

/-- R317: a program switch takes effect. -/
def switchProgram (s : State) : State :=
  match s.sch.switchTo with
  | some (k, f) =>
    if f != s.sch.frame then s
    else
      let t := (s.set F.SCH_STATUS_PROG_NOW k).set F.SCH_STATUS_SWITCH_PEND 0
      { t with sch := { t.sch with cur := k, first := true, switchTo := none,
                                   lasts := t.sch.lasts.filter fun (e : Nat × Nat) => t.sch.abs ≤ e.2 } }
  | none => s

/-- The references and staged settings that take effect at a boundary (R85, R87, R190, R238, R240, R314, R427, R612,
R691). -/
def applyStaged (s : State) : State :=
  let t := codeAtBoundary (groomsAtBoundary (spareSwitch (applyHeld (ditherAtBoundary s))))
  let u := match t.sys.refCfg with
    | some v => applyRefCfg { t with sys := { t.sys with refCfg := none } } v
    | none => t
  let v := match u.sys.refReturn with
    | some d => if u.flag F.CLK_REF_CFG_AUTO_RETURN then returnToRef u d else u
    | none => u
  match v.thm.lutNew with
  | some l => setThm v fun x => { x with lut := l, lutNew := none }
  | none => v

/-- The need of the program in use follows the frame's settings (R300, R301). -/
def noteNeed (s : State) : State :=
  { s with yrd := { s.yrd with need := ((progNow s).map (progNeed s)).getD 0 } }

/-- A frame opens; the frame sequence stands already. -/
def openFrame (s : State) : State :=
  let t := emitterAtBoundary (switchProgram (applyStaged s))
  let carry := carriedOwes t
  let owes := newOwes t
  let u := { t with sch := { t.sch with owes := owes, owesNext := [], carried := carry.map (fun (o : Owe) => o.entry), next := 0,
                                        capDone := false, lasts := t.sch.lasts.filter fun (e : Nat × Nat) => t.sch.abs < e.2 + 65535 } }
  let v := ((u.set F.HGE_STATUS_REFUSING 0).set F.SCH_STATUS_SHORT_NOW 0).add F.SCH_CNT_CARRY (carry.filter (firesEntry t)).length
  let v := noteNeed v
  let w := queueHeaders (twinBoundary (storePeaks (recordFrame (wakeDue v))))
  { w with sch := { w.sch with first := false } }

/-- A shot admitted for frame a belongs to frame b: with the code and the dither that b gives its slot (R240, R516). -/
def reframed (n : State) (b : Nat) (x : Shot) : Shot :=
  let own := match x.use with
    | .partner _ => false
    | _ => true
  let c := codeOf n own { at_ := x.at_, frame := b, i := x.slot }
  if x.use == .listen then { x with frame := b } else { x with frame := b, code := codeOffsets n c.1, dither := c.2 }

/-- Whatever was admitted for the frame after the present one under the number a takes the number b instead, and a program switch
keeps its boundary (R317, R516). -/
def renumber (s : State) (a b : Nat) : State :=
  if a = b then s
  else
    let n := nextFrame s
    let shot (x : Shot) : Shot := if x.frame = a then reframed n b x else x
    { s with
      hge := { s.hge with cells := s.hge.cells.map (fun (c : Cell) => if c.frame = a then { c with frame := b } else c),
                          lost := s.hge.lost.map (fun (e : Nat × Nat) => if e.2 = a then (e.1, b) else e),
                          refused := s.hge.refused.map fun (r : Refused) => if r.frame = a then { r with frame := b } else r },
      sch := { s.sch with switchTo := s.sch.switchTo.map (fun (e : Nat × Nat) => (e.1, (e.2 + b + 2 ^ 32 - a) % 2 ^ 32)),
                          look := s.sch.look.map shot, committed := s.sch.committed.map shot,
                          charges := s.sch.charges.map fun (c : Charge) => if c.frame = a then { c with frame := b } else c } }

/-- R25, R235: every cell of the frame that ends closes; one that took no shot gives its record and its notice now. -/
def closeFrame (s : State) : State :=
  let mine := s.hge.cells.filter fun (c : Cell) => c.frame = s.sch.frame && !c.closed
  mine.foldl (fun (t : State) c =>
    if c.shots != 0 then closeCell t c (c.left != 0)
    else
      let d := { blankCell t c.dir c.frame c.ring with short := true, stale := clusterStale t (c.chan / 64) }
      let u := { t with hge := { t.hge with cells := t.hge.cells.filter fun (x : Cell) => !(x.dir == c.dir && x.frame == c.frame) } }
      let r := ringRecord u d (emptyRecord u d { a := 0, d := 1, high := false })
      badNotice (queueRecords u c.ring c.frame [r] (some (c.stall, c.k))) c.dir) s

/-- Cells placed for a frame that will not come give their slots back. -/
def dropFuture (s : State) : State :=
  let later := s.hge.cells.filter fun (c : Cell) => !c.closed
  let t := { s with hge := { s.hge with cells := s.hge.cells.filter fun (c : Cell) => c.closed } }
  later.foldl (fun (u : State) c => freeSlot u c.stall c.k) t

/-- The shots of the look-ahead and of the next slot are not fired: the own ones go back to their entries, uncharged. -/
def unadmit (s : State) : State :=
  let shots := s.sch.look ++ s.sch.committed.toList
  let t := shots.foldl giveBack s
  let slots := (shots.filter (·.use == .own)).map fun (x : Shot) => x.at_
  { t with sch := { t.sch with look := [], committed := none,
                               charges := t.sch.charges.filter fun (c : Charge) => !(c.own && slots.contains c.at_) } }

/-- R526: HALTER is released; the device that let go of it fires nothing more. -/
def releaseHalter (s : State) : State :=
  if !interlock s || !s.flag F.RED_STATUS_HALTER then s
  else
    let t := unadmit ((s.set F.RED_STATUS_HALTER 0).set F.RED_ILK_DRIVING 0)
    noteRole { t with pins := { t.pins with halter := false }, red := { t.red with releasedAt := some t.sys.raw } }

/-- What was written in SCAN and waits for a frame boundary takes effect now (R87, R201, R210, R427): outside SCAN such writes take
effect at once, with the check of R314 on DITHER_MAX. Staged codes wait on, for the boundary at the next SCAN_START (R238). -/
def applyWaiting (s : State) : State :=
  let u := applyHeld (ditherAtBoundary (applyHeld (ditherAtBoundary s)))
  let t := { u with hge := { u.hge with code := u.hge.code.map fun (h : Held) => { h with late := false } } }
  let t := match t.thm.lutNew with
    | some l => setThm t fun x => { x with lut := l, lutNew := none }
    | none => t
  match t.sys.refCfg with
  | some v => applyRefCfg { t with sys := { t.sys with refCfg := none } } v
  | none => t

/-- SCAN, SAFE-HOLD or LOCKOUT is left for READY (R89, R482): the EMI shed goes down, no frames run, clusters go cold, those that
restart once they have restarted (R79). No engagement or release of CLS switches here (R190; log entry 92). -/
def leaveScan (s : State) : State :=
  let t := banksEnabledNow (applyWaiting (releaseHalter (ballsLow ((List.range 8).foldl ebkCut (setMode (dropFuture s) .ready)))))
  let u := { t with
    sch := { t.sch with running := false, stop := none, look := [], committed := none, owes := [], owesNext := [],
                        carried := [], switchTo := none, next := 0 },
    emi := { t.emi with banks := t.emi.banks.map (fun (b : Bank) => { b with charging := false, due := none, initial := false }),
                        sweep := [], sweeping := false, stray := 0, locate := [], retry := [], strings := [], lbtRun := [16, 16] },
    red := { t.red with halves := false, mute := false, matched := 0, joinFrom := none, adopt := none },
    hge := { t.hge with refused := [], lost := [] }, yrd := { t.yrd with need := 0 } }
  let v := [F.SCH_STATUS_RUNNING, F.SCH_STATUS_SWITCH_PEND, F.SCH_STATUS_SHORT_NOW, F.HGE_STATUS_REFUSING, F.EMI_LBT_VALID 0,
    F.EMI_LBT_VALID 1, F.EMI_BANK_EN_RETRY, F.RED_STATUS_SILENCE, F.RED_STATUS_STANDBY].foldl (fun (a : State) f => a.set f 0) u
  let w := (List.range 17).foldl (fun (a : State) n => if a.get (clst n) = Cl.off || a.get (clst n) = Cl.restarting then a else a.set (clst n) Cl.cold) v
  let x := noteRole (clearUnsure w)
  if x.flag F.RXF_IMP_STATUS_PEND then groomImpedance x 0x1FFFF else x

/-- What is left of the frame that ends: its closed cells, and the evaluators' comparison of its results (R479). -/
def endFrame (s : State) : State :=
  let t := closeFrame (endSlot s)
  frameCompare { t with hge := { t.hge with
    refused := t.hge.refused.filter (fun (r : Refused) => r.frame != t.sch.frame)
    lost := t.hge.lost.filter fun (e : Nat × Nat) => e.2 = (t.sch.frame + 1) % 2 ^ 32 } }

/-- R25: the frame ends and the next one starts, or SCAN_STOP takes the device to READY. A comparison that takes the device to
another state goes before a SCAN_STOP, which then waits for the end of the frame that starts (R33). A follower adopts the leader's
frame sequence (R516), except in alternation, where it numbers its frames on its own (R528) until the boundary at which it returns to
halves. -/
def frameBoundary (s : State) : State :=
  let u := endFrame s
  match if u.mode == s.mode then u.sch.stop else none with
  | some _ =>
    let f := u.sch.frame
    let v := finishRunning u 0x0203 St.aborted 0
    finishRunning (leaveScan v) 0x0202 St.done f
  | none =>
    let old := (u.sch.frame + 1) % 2 ^ 32
    let alone := u.flag F.RED_STATUS_ALT && !mayRejoin u (u.sch.abs + u.sch.slots)
    let new := match u.red.adopt with
      | some f => if alone then old else (f + 1) % 2 ^ 32
      | none => old
    let v := renumber u old new
    let w := { v with sch := { v.sch with abs := v.sch.abs + v.sch.slots, frame := new }, red := { v.red with adopt := none } }
    let pend := w.flag F.SCH_STATUS_SWITCH_PEND
    let x := openFrame w
    if pend && !x.flag F.SCH_STATUS_SWITCH_PEND then finishRunning x 0x0203 St.done x.sch.frame else x

/-- R25: the boundary that follows the last slot of a frame. -/
def execFrameBoundary (s : State) : Host.Outcome State Fault Refusal :=
  if s.mode.scanning && s.sch.running && s.sch.next = s.sch.slots then .next (frameBoundary s) else .next s

/-! ### SCAN_START, SCAN_STOP, SCAN_SWITCH (R108, R316, R317, R517) -/

/-- R316: a program slot can run. -/
def progRuns (s : State) (k : Nat) : Bool :=
  match s.sch.progs.getD k none with
  | none => false
  | some p =>
    p.slotNs = s.sch.slotNs && p.frameUs = s.sch.frameUs
      && p.groups.all (fun (g : ShotGroup) => s.get (F.HGE_RING_CFG_SIZE g.ring) != 0)
      && (List.range 4).all (fun k => s.get (F.SCH_EYE_CEIL k) != 0)
      && (List.range 8).all (fun b => !bit (s.get F.EMI_BANK_EN_EN) b || s.get (F.SCH_EPULSE b) != 0)
      && (!s.saf.armed || crcListed s p.crc)

/-- The windows of the eye-safety accounts start as on an entry to SCAN (R326). -/
def freshWindows (s : State) : State :=
  { s with sch := { s.sch with charges := [], fill := [s.get (F.SCH_EYE_CEIL 2), s.get (F.SCH_EYE_CEIL 3)],
                               fillFrom := s.sch.abs + s.sch.next } }

/-- The slot numbers of an earlier SCAN end: cells of it that still wait for detection are flagged for the discarded lane frames
that they may have been in (R20). -/
def freshLanes (s : State) : State :=
  { s with hge := { s.hge with cells := s.hge.cells.map fun (c : Cell) => bridgeFlag s (c.base + s.sch.slots) c },
           rxf := { s.rxf with laneSlot := [], laneDirty := [] } }

/-- Scanning starts: the first frame boundary is now (R108), the mode follows LOCK_LATCH (R492), every enabled bank charges
(R694), and LBT0 has no valid reading yet (R332, R369). -/
def beginScan (s : State) (k frame : Nat) : State :=
  let s := freshLanes s
  let m := s.saf.armed && s.flag F.SAF_STATUS_LOCK_LATCH
  let t := if m then setMode (s.set F.SAF_EVENT_LOCKOUT 1) .lockout else setMode s .scan
  let u := { t with
    sch := { t.sch with
      cur := k, running := true, next := 0, abs := 0, frame := frame % 2 ^ 32, first := true, owes := [], owesNext := [], look := [],
      committed := none, lasts := [], fired := [], peak := [], startAt := t.sys.raw, carried := [], capCold := 0, capDone := false,
      switchTo := none, stop := none },
    red := { t.red with adopt := none } }
  let v := freshWindows ((u.set F.SCH_STATUS_RUNNING 1).set F.SCH_STATUS_PROG_NOW k)
  let w := (List.range 8).foldl (fun (a : State) b =>
    if bit (a.get F.EMI_BANK_EN_EN) b && !bankOut a b then initialRecharge a b else a) v
  openFrame (if w.flag (F.EMI_LBT_VALID 0) then w else lbtInvalid w 0)

/-- The checks of SCAN_START; another change of state, a start that waits for the partner among them, keeps it out (R90), and before
READY it is not permitted (R114; log entry 61). -/
def scanStartCheck (s : State) (c : Cmd) : Option Nat :=
  if changing s && s.mode != .standby then some St.busy
  else stdCheck s c false (!progRuns s c.slot || !s.saf.f3.isEmpty) (loadHolds s c.slot || s.flag F.RXF_IMP_STATUS_BUSY)

/-- R517: a start waits for the frame mark in native twin mode; a leader without a session starts alone at once. -/
def startWaits (s : State) : Bool :=
  native s && !s.flag F.RED_STATUS_ALT && (sideNow s = 1 || sessionUp s)

/-- R108: SCAN_START. Its completion gives the sequence of the first frame, which a waiting device knows at the mark. -/
def execScanStart (port : Port) (tag : Nat) (s : State) : Host.Outcome State Fault Refusal :=
  withCmd s port tag 0x0201 scanStartCheck fun s c =>
    let f := (s.sch.frame + 1) % 2 ^ 32
    if startWaits s then
      replaceCmd { s with red := { s.red with wait := some c.slot } } c { c with phase := .running }
    else finishOk (beginScan s c.slot f) c f

/-- A start that waits for the mark begins now with a frame sequence, and its command ends (R517); it waits on while an impedance
check runs, which never runs in SCAN (R185; log entry 92). -/
def beginWaiting (s : State) (frame : Nat) : State :=
  match s.red.wait with
  | none => s
  | some k =>
    let t := { s with red := { s.red with wait := none } }
    if s.flag F.RXF_IMP_STATUS_BUSY then s
    else if t.mode == .ready && progRuns t k && t.saf.f3.isEmpty then
      finishRunning (beginScan t k frame) 0x0201 St.done (frame % 2 ^ 32)
    else finishRunning t 0x0201 St.badState 0

/-- R90, R148: SCAN_STOP returns to READY at the end of the present frame. -/
def execScanStop (port : Port) (tag : Nat) (s : State) : Host.Outcome State Fault Refusal :=
  withCmd s port tag 0x0202 (fun s c => if changing s then some St.busy else stdCheck s c false false false) fun s c =>
    begin_ s c fun t c => { t with sch := { t.sch with stop := some (c.port, c.tag) } }

/-- The checks of SCAN_SWITCH (R145, R316): a committed configuration locks programs it does not list. -/
def scanSwitchCheck (s : State) (c : Cmd) : Option Nat :=
  let listed := match s.sch.progs.getD c.slot none with
    | some p => crcListed s p.crc
    | none => true
  stdCheck s c (committed s && !listed) (!progRuns s c.slot)
    (s.sch.switchTo.isSome || s.sch.stop.isSome || loadHolds s c.slot)

/-- R317: SCAN_SWITCH takes effect at the first frame boundary more than 64 slots away. -/
def execScanSwitch (port : Port) (tag : Nat) (s : State) : Host.Outcome State Fault Refusal :=
  withCmd s port tag 0x0203 scanSwitchCheck fun s c => begin_ s c fun t c =>
    let f := (t.sch.frame + (if 64 + t.sch.next ≤ t.sch.slots then 1 else 2)) % 2 ^ 32
    { t.set F.SCH_STATUS_SWITCH_PEND 1 with sch := { t.sch with switchTo := some (c.slot, f) } }

end Sys2Proof.Machine
end

