-- ==== Sys2Proof/Machine/Cells.lean ====
section
/-! DEFINITION. Bridge lane frames (R17 to R20, R636, R693), the detection of closed cells (R236, R245 to R263), and cells
lost with their stalls (R296, R299). -/

namespace Sys2Proof.Machine

/-! ### Bridge lanes -/

/-- The channel from which the arbiter of a lane goes on (R212). -/
def laneNext (s : State) (lane : Nat) : Nat := ((s.rxf.rot.find? fun (e : Nat × Nat) => e.1 = lane).map fun e => e.2).getD 0

/-- The first channel of a lane in rotation whose oldest word passes a test on its slot (R212). -/
def laneTurn (s : State) (lane : Nat) (ok : Nat → Bool) : Option Chan :=
  (List.range 64).findSome? fun i =>
    let ch := chanAt s (64 * lane + (laneNext s lane + i) % 64)
    if (ch.fifo.head?).any (fun (w : Nat × Nat) => ok w.1) then some ch else none

/-- The arbiter of an event lane takes up to n words of one slot, one channel after the other in rotation (R212, R693). -/
def popWords (lane slot : Nat) : Nat → State → List (Nat × Nat) × State
  | 0, s => ([], s)
  | n + 1, s => match laneTurn s lane (fun k => k == slot) with
    | none => ([], s)
    | some ch =>
      let t := setChan s { ch with fifo := ch.fifo.tail }
      let rot := (lane, (ch.id + 1) % 64) :: s.rxf.rot.filter fun (e : Nat × Nat) => e.1 != lane
      let (l, u) := popWords lane slot n { t with rxf := { t.rxf with rot := rot } }
      ((ch.id, (ch.fifo.headD (0, 0)).2) :: l, u)

/-- The slot whose words a discarded frame held: that of the channel whose turn it was. -/
def turnSlot (s : State) (lane : Nat) : Nat :=
  ((laneTurn s lane fun _ => true).bind fun (ch : Chan) => ch.fifo.head?.map fun w => w.1).getD 0

/-- A partner event's word with its leading edge corrected by PSKEW and PZERO (R510). -/
def correctPartner (s : State) (w : Nat) : Nat :=
  let le := bits w 0 17
  let t := clampInt 0 131071 (Int.ofNat le - s.getInt F.RED_PSKEW - s.getInt F.RED_PZERO)
  w - le + t.toNat

/-- R241 to R243: the bin updates of an event; they wait while the cell's stall is not where it can be accumulated into (R276,
R290). -/
def updateBins (s : State) (e : Late) : State :=
  if stallReady s e.stall then
    touchStall (updCell s e.dir e.frame fun c => enterEvent s c e.code e.range e.word) e.stall
  else { s with hge := { s.hge with waiting := s.hge.waiting ++ [e] } }

/-- The events whose stalls are ready now are entered; the others wait on (R290). -/
def enterReady (s : State) : State := s.hge.waiting.foldl updateBins { s with hge := { s.hge with waiting := [] } }

/-- The frame of a slot index that a lane names: the present one, or the one before for a slot not yet started. -/
def frameOfSlot (s : State) (slot : Nat) : Nat := if slot < s.sch.next then s.sch.frame else (s.sch.frame + 2 ^ 32 - 1) % 2 ^ 32

/-- R241 to R244: one event is entered into the cell that has taken its shot, feeds only the frequency engines in a listen slot
(R309), or is counted as an orphan. A groom's reference pulses go to the groom engine only (R169). -/
def placeEvent (slot : Nat) (s : State) (e : Nat × Nat) : State :=
  if bits e.2 26 2 = 3 then s else
  let s := recordRaw s e.1 (frameOfSlot s slot) slot e.2
  match s.sch.fired.find? fun (f : Fired) => f.shot.slot = slot with
  | none => s.inc F.HGE_CNT_ORPHAN
  | some f =>
    if f.shot.use == .listen then s
    else
      let dir := ((servedDirs f.shot).find? fun d => 64 * d.1 + d.2.1 = e.1).map fun d => d.2.2
      let range := ((f.ranges.find? fun r => r.1 = e.1).map fun r => r.2).getD 0
      let word := match f.shot.use with
        | .partner _ => correctPartner s e.2
        | _ => e.2
      match (dir.bind fun d => cellOf s d f.shot.frame).filter fun (c : Cell) => c.taken.any fun (k : Nat × Nat) => k.1 = slot with
      | none => s.inc F.HGE_CNT_ORPHAN
      | some c =>
        updateBins s { stall := c.stall, dir := c.dir, frame := c.frame, code := f.shot.code, range := range, word := word }

/-- The absolute number of a slot index that a lane names (frameOfSlot). -/
def slotNumber (s : State) (slot : Nat) : Nat := if slot < s.sch.next then s.sch.abs + slot else s.sch.abs + slot - s.sch.slots

/-- R20: a frame is accepted on an event lane; discards since the last one flag the cells that took a shot between. -/
def noteAccepted (s : State) (lane slot : Nat) : State :=
  let here := slotNumber s slot
  let flag (c : Cell) : Cell := if c.chan / 64 = lane then bridgeFlag s here c else c
  { s with hge := { s.hge with cells := s.hge.cells.map flag },
           rxf := { s.rxf with laneSlot := (lane, here) :: s.rxf.laneSlot.filter (fun (e : Nat × Nat) => e.1 != lane),
                               laneDirty := s.rxf.laneDirty.filter (· != lane) } }

/-- R636: a lane that has discarded 8 frames within 10 ms is failing: an event lane's cluster is withdrawn, SB0 and SB1
raise an F3 fault. -/
def laneFailing (s : State) (lane : Nat) : State :=
  if lane < 16 then (if clusterOpen s lane then withdrawCluster s lane 0x0407 else s)
  else raiseF3 s 0x0408 lane (.hold 8)

/-- R19, R20: a frame that fails its check is discarded and counted. -/
def discardFrame (s : State) (lane : Nat) : State :=
  let recent := (s.rxf.laneErr.filter fun (e : Nat × Nat) => s.sys.raw < e.2 + 8000000) ++ [(lane, s.sys.raw)]
  let n := ((s.rxf.laneCount.find? fun (e : Nat × Nat) => e.1 = lane).map fun (e : Nat × Nat) => e.2).getD 0
  let t := { s with rxf := { s.rxf with
    laneErr := recent,
    laneCount := (lane, n + 1) :: s.rxf.laneCount.filter (fun (e : Nat × Nat) => e.1 != lane),
    laneDirty := if lane < 16 && !s.rxf.laneDirty.contains lane then lane :: s.rxf.laneDirty else s.rxf.laneDirty } }
  if 8 ≤ (recent.filter fun (e : Nat × Nat) => e.1 = lane).length then laneFailing t lane else t

/-- Whether the receiver of a bridge lane is up: the clusters' lanes with HGE, SB0 outside the reset hold, SB1 with SAFB (R18). -/
def laneUp (s : State) (lane : Nat) : Bool := if lane < 16 then hgeUp s else if lane = 16 then !mainDown s else safUp s

/-- R693: a frame of a bridge lane (16 is SB0, 17 SB1) arrives with its slot index and number of event words, and passes its
check or not; corrected counts the stored errors that the yard has corrected since the last frame of any lane or DETECTION_DONE, whatever access
met them (R275). What a sideband frame carries arrives in the
rows of the converters, the taps and the register accesses; what a discarded one carried does not (R18; log entry 77). -/
def execBridgeFrame (lane : Fin 18) (ok : Bool) (slot : Nat) (words : Fin 9) (corrected : Nat) (s : State) :
    Host.Outcome State Fault Refusal :=
  let n := lane.val
  if !laneUp s n then .next s
  else
  let s := s.add F.YRD_ECC_CORR corrected
  if !ok then .next (discardFrame (if n < 16 then (popWords n (turnSlot s n) words.val s).2 else s) n)
  else if n < 16 then
    let (l, t) := popWords n slot words.val s
    .next (noteAccepted (l.foldl (placeEvent slot) t) n slot)
  else .next s

/-! ### Detection -/

/-- The shape test of a direction that has begun and whose average has not been read. -/
def shapeWaits (s : State) (dir : Nat) : Bool :=
  s.hge.shape.any fun (x : Shape) => x.dir = dir && x.verdict.isNone && match x.slice with
    | some n => match sliceAt s n with
      | some y => y.left = 0
      | none => false
    | none => false

/-- R255, R256: a slice is reserved for the direction's next burst, or the test does not run. -/
def reserveSlice (s : State) (c : Cell) (tp : Nat) : State :=
  let free := (List.range 32).find? fun n => (sliceAt s n).isNone && !s.flag (F.RXF_OBS_PIN n)
  match free with
  | some n =>
    if 2 ≤ slicesOn s n c.chan then s.inc F.HGE_CNT_SHAPE_MISS
    else
      let navg := min (s.get F.HGE_PART1_NAVG_MAX) c.shots.log2
      let t := (((s.set (F.RXF_OBS_NAVG n) navg).set (F.RXF_OBS_OFFSET n) (tp / 512 - 4)).set (F.RXF_OBS_CHANNEL n) c.chan).set
        (F.RXF_OBS_ENGINE n) 1
      let u := setSlice t n (some { n := n, left := sliceShots t n, dir := some c.dir, pinPend := none })
      { u with hge := { u.hge with shape := u.hge.shape ++ [{ dir := c.dir, chan := c.chan, tp := tp, slice := some n, verdict := none }] } }
  | none => s.inc F.HGE_CNT_SHAPE_MISS

/-- R263: the notice of a cell with its returns. -/
def cellNotice (s : State) (c : Cell) (high : Bool) (l : List Return) : Notice :=
  let a := (c.taken.getLastD (0, 0)).1
  let b := (c.taken.headD (0, 0)).1
  { dir := c.dir, bad := c.short || c.bridge || c.stale || high, span := (b + 1 - a) * s.sch.slotNs, close := c.stop,
    returns := l.map fun (r : Return) => { range := r.range, spray := r.particulate && r.tested } }

/-- Returns that Evaluator A judges intruding into a paddock of PAD_MASK or WARN_MASK, kept while the recorder is armed
(R551). -/
def noteMeasured (s : State) (c : Cell) (l : List Return) : State :=
  match s.acq.cfg, s.saf.cfg with
  | some a, some f =>
    let k := f.set s.saf.evA.active
    if s.get F.ACQ_STATUS_STATE = 0 then s
    else match dirIndex k c.dir with
      | none => s
      | some i =>
        let hit (r : Return) : Bool :=
          intrudeA k i { range := r.range, spray := r.particulate && r.tested } &&& (a.padMask ||| a.warnMask) != 0
        { s with acq := { s.acq with meas := s.acq.meas ++ (l.filter hit).map fun (r : Return) =>
          { frame := c.frame, index := i, range := r.range, int := r.int } } }
  | _, _ => s

/-- The stall of a cell where its counts are read: in the loft or the near yard and not moving (R276, R290). A lost stall holds
nothing back (log entry 74). -/
def cellReadable (s : State) (c : Cell) : Bool := stallReady s c.stall || c.stall = noStall

/-- R236, R245 to R263: detection of a cell ends. Its read of the stall's map entry is one access (R281). -/
def finishCell (s : State) (c0 : Cell) : State :=
  let s := if c0.stall = noStall then s else lookMap s c0.stall
  let c := bridgeFlag s (c0.base + s.sch.slots) c0
  let verdict := (s.hge.shape.find? fun (x : Shape) => x.dir = c.dir).bind fun (x : Shape) => x.verdict
  let (l, m, all) := detect s c verdict
  let t := { s with hge := { s.hge with
    cells := s.hge.cells.filter fun (x : Cell) => !(x.dir == c.dir && x.frame == c.frame),
    lost := (c.dir, c.frame) :: s.hge.lost,
    shape := s.hge.shape.filter fun (x : Shape) => !(x.dir == c.dir && x.verdict.isSome) } }
  let u := notify t (cellNotice s c m.high l)
  let recs := if l.isEmpty then (if s.flag F.HGE_CTRL_EMPTY_REC then [ringRecord s c (emptyRecord s c m)] else [])
    else l.zipIdx.map fun e => ringRecord s c (returnRecord c m e.2 e.1)
  let v := noteMeasured (queueRecords u c.ring c.frame recs (some (c.stall, c.k))) c l
  let asked := v.hge.shape.any fun (x : Shape) => x.dir = c.dir
  match (all.find? fun (r : Return) => r.untested) with
  | some r => if s.get F.HGE_CTRL_PART_MODE = 2 && !asked then reserveSlice v c r.tp else v
  | none => v

/-- R245: detection of the oldest closed cell of a direction ends. Nothing happens while its stall is not where it can be
read or its shape test's average has not been read; corrected counts stored errors as in a bridge frame's row (R275). -/
def execDetectionDone (dir corrected : Nat) (s : State) : Host.Outcome State Fault Refusal :=
  match s.hge.cells.find? fun (c : Cell) => c.dir = dir && c.closed with
  | some c => if cellReadable s c && !shapeWaits s dir then .next (finishCell (s.add F.YRD_ECC_CORR corrected) c) else .next s
  | none => .next s

/-! ### Lost stalls -/

/-- A cell stall is lost; each of its cells gives the notice of a direction not covered (R299). -/
def loseStall (s : State) (x : Stall) : State :=
  let (t, l) := retireStall s x
  l.foldl (fun (u : State) e => badNotice u e.1) t

/-- R296: a far read fails: the window is FAILED, and the cell stalls that it holds are lost. -/
def execFarReadFail (window : Fin 64) (s : State) : Host.Outcome State Fault Refusal :=
  let w := window.val
  if !s.flag (F.YRD_GRANT_STAT_VALID w) then .next s
  else
    let t := raiseFault (s.set (F.YRD_GRANT_STAT_FAILED w) 1) 2 0x0802 w
    let mine := t.yrd.stalls.filter fun (x : Stall) => x.at_.tier == .far && x.at_.window == w && x.owner == 0
    .next (enterReady (mine.foldl loseStall (divert t fun p => p.within .far w)))

/-- R299: an uncorrectable error in a cell stall. -/
def execUncorrectableError (stall : Nat) (s : State) : Host.Outcome State Fault Refusal :=
  match stallAt s stall with
  | some x => if x.owner = 0 then .next (enterReady (loseStall s x)) else .next s
  | none => .next s

end Sys2Proof.Machine
end

