-- ==== Sys2Proof/Machine/Acq.lean ====
section
/-! DEFINITION. The incident recorder's commands, triggers and recordings, and the trigger bus (chapter 16). -/

namespace Sys2Proof.Machine

/-- Recorder STATE codes. -/
abbrev Rec.disarmed : Nat := 0
abbrev Rec.armed : Nat := 1
abbrev Rec.capturing : Nat := 2
abbrev Rec.closing : Nat := 3
abbrev Rec.rearming : Nat := 4

/-- The recorder's STATE. -/
def recState (s : State) : Nat := s.get F.ACQ_STATUS_STATE

/-! ### Configuration and arming -/

/-- A recorder configuration payload (recorder configuration table). -/
def parseAcq (b : List Byte) : AcqCfg :=
  { srcEn := leAt b 6 1, guardMask := leAt b 7 1, padMask := leAt b 8 2, warnMask := leAt b 0xA 2, faultMin := leAt b 0xC 1,
    ptRings := leAt b 0xD 1, thmKeep := leAt b 0xE 1, thmAvg := leAt b 0xF 1 % 16, ptAvg := leAt b 0xF 1 / 16,
    preMs := leAt b 0x10 4, postMs := leAt b 0x14 4, rawPre := leAt b 0x18 2, rawPost := leAt b 0x1A 2, rawCl := leAt b 0x1C 2,
    rearmMs := leAt b 0x1E 2, ptStalls := leAt b 0x20 4, thmStalls := leAt b 0x24 4, rawStalls := leAt b 0x28 4,
    thmThr := leAt b 0x2C 2, measFrames := leAt b 0x2E 1, tbSend := leAt b 0x2F 1, thmPix := leAt b 0x30 4,
    trigOut := leAt b 0x34 1, crc := crc32c (b.take 64) }

/-- R533: the limits of the configuration table. -/
def acqConfigOk (b : List Byte) : Bool :=
  let c := parseAcq b
  b.length = 64 && leAt b 0 4 = 0x51434146 && leAt b 4 2 = 1 && c.guardMask < 16 && c.faultMin ≤ 4 && c.ptRings < 16
    && c.thmKeep ≤ 60 && c.thmAvg ≤ 4 && c.ptAvg ≤ 4 && c.preMs ≤ 30000 && c.postMs ≤ 30000 && c.rawPre + c.rawPost ≤ 250
    && 10 ≤ c.rearmMs && c.rearmMs ≤ 10000 && (c.ptRings != 0 || c.ptStalls = 0) && (c.thmKeep != 0 || c.thmStalls = 0)
    && (c.rawCl != 0 || c.rawStalls = 0) && 1 ≤ c.measFrames && c.measFrames ≤ 16 && !bit c.tbSend 6 && zeroAt b 0x35 11

/-- ACQ_CONFIG's checks. -/
def acqConfigCheck (s : State) (c : Cmd) : Option Nat := stdCheck s c false false (recState s != Rec.disarmed)

/-- R533: ACQ_CONFIG; its contents are checked with its buffer. -/
def execAcqConfig (port : Port) (tag : Nat) (s : State) : Host.Outcome State Fault Refusal :=
  withCmd s port tag 0x0600 acqConfigCheck fun s c =>
    finishOk { s.set F.ACQ_STATUS_CFG_VALID 1 with acq := { s.acq with cfg := some (parseAcq c.data) } } c 0

/-- An empty ring over its stalls. -/
def newRing (l : List Nat) : RecRing := { items := [], wrapped := false, stalls := l }

/-- R534: the rings of a configuration are placed; none when they do not fit. -/
def placeRings (s : State) (c : AcqCfg) : Option State :=
  (placeOwned 2 .near c.ptStalls s).bind fun (a, t) =>
    (placeOwned 2 .near c.thmStalls t).bind fun (b, u) =>
      (placeOwned 2 .near c.rawStalls u).map fun (d, v) =>
        { v with acq := { v.acq with rings := [newRing a, newRing b, newRing d] } }

/-- R534: ACQ_ARM; the rings start to fill at the DEVTIME that it returns. -/
def execAcqArm (port : Port) (tag : Nat) (s : State) : Host.Outcome State Fault Refusal :=
  withCmd s port tag 0x0601 (fun s c => stdCheck s c false s.acq.cfg.isNone (recState s != Rec.disarmed)) fun s c =>
    match s.acq.cfg.bind (placeRings s) with
    | none => refuse s c St.resource 0
    | some t =>
      let u := { t.set F.ACQ_STATUS_STATE Rec.armed with acq := { t.acq with
        armedAt := t.now, lastEnd := 0, run := none, pend := [], kept := 0, frames := [], meas := [], seq := 0 } }
      finishOk u c u.now

/-! ### Closing a recording (R545, R547, R551) -/

/-- Sections whose flag is set: PRE_SHORT to SPEED_VALID of the recording header (R537 to R551). -/
def recFlags (r : Recording) (trunc disarmed measValid speedValid : Bool) : Nat :=
  let ovf (k : Nat) : Bool := match r.secs.getD k none with
    | some x => x.ovf
    | none => false
  b2n r.preShort + 2 * b2n (ovf 0) + 4 * b2n (ovf 1) + 8 * b2n (ovf 2) + 16 * b2n r.full + 32 * b2n trunc + 64 * b2n disarmed
    + 128 * b2n r.aligned + 256 * b2n measValid + 512 * b2n speedValid

/-- R540: sources of a recording, its primary source, and the date of the primary trigger. -/
def recMask (r : Recording) : Nat := r.trigs.foldl (fun w e => setBit w e.1) 0
def recPrimary (r : Recording) : Nat := r.trigs.foldl (fun m e => min m e.1) 7
def recTime (r : Recording) : Nat := ((r.trigs.find? fun e => e.1 = recPrimary r).map fun e => e.2).getD 0

/-- The returns that the measurements take: those of the trigger's frame and of the next MEAS_FRAMES - 1 (R551). -/
def measured (s : State) (c : AcqCfg) (r : Recording) : List MeasReturn :=
  s.acq.meas.filter fun (m : MeasReturn) => (m.frame + 2 ^ 32 - r.frame) % 2 ^ 32 < c.measFrames

/-- Frames with a measured return, each once. -/
def measFramesOf (l : List MeasReturn) : List Nat :=
  l.foldl (fun r (m : MeasReturn) => if r.contains m.frame then r else r ++ [m.frame]) []

/-- Maximal runs of consecutive numbers in a list. -/
def runsOf (l : List Nat) : Nat := (l.filter fun i => !(l.any fun j => j + 1 = i)).length

/-- The largest object count over the frames (R551). -/
def objects (l : List MeasReturn) : Nat :=
  ((measFramesOf l).map fun f =>
    runsOf ((l.filter fun (m : MeasReturn) => m.frame = f).foldl (fun r (m : MeasReturn) =>
      if r.contains m.index then r else m.index :: r) [])).foldl max 0

/-- The smallest range of a list of returns. -/
def minRange (l : List MeasReturn) : Nat := l.foldl (fun a (m : MeasReturn) => min a m.range) 0xFFFFFFFF

/-- R551: the closing speed in mm/s: the negated least-squares slope of each frame's smallest range against its DEVTIME. A
range step is 0.125 mm and a tick 1.25 ns, so a slope of 1 is 10^8 mm/s. -/
def closingSpeed (s : State) (l : List MeasReturn) : Int :=
  let at_ (f : Nat) : Nat := ((s.acq.frames.find? fun e => e.1 = f).map fun e => e.2).getD 0
  let fs := measFramesOf l
  let t0 := fs.foldl (fun a f => min a (at_ f)) (at_ (fs.headD 0))
  let fit := fs.foldl (fun (a : Fit) f => a.point (at_ f - t0) (minRange (l.filter fun (m : MeasReturn) => m.frame = f)))
    { n := 0, x := 0, y := 0, xx := 0, xy := 0, yy := 0 }
  let (a, d) := fit.slope
  if d = 0 then 0 else divRoundInt (-a * 100000000) d

/-- Pre-trigger content of a section in ticks: from its beginning to the trigger. -/
def preTicks (r : Recording) (x : RecSection) : Nat := recTime r - x.start

/-- Post-trigger content of a section in ticks: from the trigger to its stop. -/
def postTicks (s : State) (r : Recording) (x : RecSection) : Nat := (x.stop.getD s.now) - recTime r

/-- The shortest of some lengths in ticks, in us; 0 when there is none. -/
def shortestUs (l : List Nat) : Nat := match l with
  | [] => 0
  | a :: r => (r.foldl min a) / 800

/-- A stall's location in the NEXT format (stall header table). -/
def stallLoc (s : State) (n : Nat) : Nat := match stallAt s n with
  | some x => x.at_.window + 2 ^ 6 * x.at_.loc + 2 ^ 31
  | none => 0

/-- A recorder stall in host memory: its 32-byte header and its data. -/
def writeStall (s : State) (n seq sec index next : Nat) (data : List Byte) : State := match stallAt s n with
  | none => s
  | some x =>
    let head := leBytes 4 0xFFFFFFFB ++ leBytes 4 seq ++ leBytes 1 sec ++ leBytes 3 0 ++ leBytes 4 index ++ leBytes 4 data.length
      ++ leBytes 4 next ++ leBytes 4 (crc32c data) ++ leBytes 4 0
    sendMem s (farAddr s x.at_) (head ++ data)

/-- A section's chain of stalls. -/
def writeSection (seq sec : Nat) : List Nat → Nat → List Byte → State → State
  | [], _, _, s => s
  | n :: r, i, b, s =>
    let next := (r.head?.map (stallLoc s)).getD 0
    writeSection seq sec r (i + 1) (b.drop stallData) (writeStall s n seq sec i next (b.take stallData))

/-- The data of a section that its stalls hold. -/
def storedBytes (c : AcqCfg) (k : Nat) (x : RecSection) : List Byte :=
  (sectionBytes c k x.items).take (stallData * x.stalls.length)

/-- The recording header (recording header table). -/
def recHeader (s : State) (c : AcqCfg) (r : Recording) (trunc disarmed : Bool) : List Byte :=
  let l := measured s c r
  let valid := !l.isEmpty
  let speed := 3 ≤ (measFramesOf l).length
  let secs := [0, 1, 2].map fun k => r.secs.getD k none
  let present (k : Nat) : List RecSection := (r.secs.getD k none).toList
  let all := secs.foldl (fun a (o : Option RecSection) => a ++ o.toList) []
  let first (k : Nat) : Nat := ((present k).head?.bind fun (x : RecSection) => x.stalls.head?.map (stallLoc s)).getD 0
  let bytes (k : Nat) : Nat := ((present k).head?.map fun x => (storedBytes c k x).length).getD 0
  leBytes 4 r.seq ++ leBytes 1 (recPrimary r) ++ leBytes 1 (recMask r) ++ leBytes 2 (recFlags r trunc disarmed valid (valid && speed))
    ++ leBytes 8 (recTime r) ++ leBytes 4 (shortestUs ((present 0 ++ present 1).map (preTicks r)))
    ++ leBytes 4 (shortestUs (all.map (postTicks s r))) ++ leBytes 4 (shortestUs ((present 2).map (preTicks r)))
    ++ leBytes 4 (s.get (F.SEC_UID 0)) ++ leBytes 4 r.frame ++ leBytes 4 (minRange l)
    ++ leBytes 2 (l.foldl (fun a (m : MeasReturn) => max a m.int) 0) ++ leBytes 2 (objects l)
    ++ leBytes 4 (toBits 32 (if speed then closingSpeed s l else 0)) ++ leBytes 4 (first 0) ++ leBytes 4 (first 1)
    ++ leBytes 4 (first 2) ++ leBytes 4 0 ++ leBytes 8 (bytes 0) ++ leBytes 8 (bytes 1) ++ leBytes 8 (bytes 2)
    ++ leBytes 8 r.stopAt ++ leBytes 4 c.crc ++ leBytes 28 0

/-- R545: the recording is closed: its data stalls, then its header stall, go to host memory; with TRUNC no write is
possible any more (R548). -/
def closeRecording (s : State) (trunc disarmed : Bool) : State :=
  match s.acq.run, s.acq.cfg with
  | some r, some c =>
    let t := if trunc then s else [0, 1, 2].foldl (fun (t : State) k => match r.secs.getD k none with
      | some x => writeSection r.seq (k + 1) x.stalls 0 (storedBytes c k x) t
      | none => t) s
    let t := match r.header with
      | some n =>
        if trunc then t.set F.ACQ_REC_LOC_VALID 0
        else
          let u := writeStall t n r.seq 0 0 0 (recHeader t c r trunc disarmed)
          let loc := stallLoc u n
          ((u.set F.ACQ_REC_LOC_VALID 1).set F.ACQ_REC_LOC_OFFSET (bits loc 6 25)).set F.ACQ_REC_LOC_WINDOW (loc % 64)
      | none => t.set F.ACQ_REC_LOC_VALID 0
    let lossy := r.full || trunc || r.secs.any fun (o : Option RecSection) => match o with
      | some x => x.ovf
      | none => false
    let u := ((t.set F.ACQ_EVENT_CLOSED 1).inc F.ACQ_CNT_REC).set F.ACQ_STATUS_STATE Rec.rearming
    let v := if lossy then u.inc F.ACQ_CNT_OVF else u
    { v with acq := { v.acq with run := none, meas := [] } }
  | _, _ => s

/-- Every section of the recording in progress stops at once (R535, R548). -/
def stopSections (s : State) : State :=
  match s.acq.run with
  | some r =>
    let r' := { r with secs := r.secs.map fun (o : Option RecSection) => o.map fun x => stopSection s x false }
    { s with acq := { s.acq with run := some r', lastEnd := s.now } }
  | none => s

/-- R535: the recorder is disarmed and its ring stalls are freed. -/
def disarm (s : State) : State :=
  let l := s.acq.rings.foldl (fun a (r : RecRing) => a ++ r.stalls) []
  let u := dropStalls (s.set F.ACQ_STATUS_STATE Rec.disarmed) l
  { u with acq := { u.acq with rings := [], pend := [], meas := [], frames := [], disarming := false } }

/-- R535: the ACQ_DISARM commands that wait for a recording end once it is closed. -/
def endDisarm (s : State) : State :=
  if !s.acq.disarming then s
  else (s.cmd.cmds.filter fun (c : Cmd) => c.opcode == 0x0602 && c.phase == .running).foldl (fun (t : State) c => finishOk t c 0) (disarm s)

/-- R548: the far windows are gone: the recording stops at once and is closed with TRUNC. -/
def truncRecording (s : State) : State :=
  if s.acq.run.isNone then s else endDisarm (closeRecording (stopSections s) true s.acq.disarming)

/-- R535: ACQ_DISARM; a recording in progress stops at once, and its writes wait for their turn on the link (R28; log entry 79). -/
def execAcqDisarm (port : Port) (tag : Nat) (s : State) : Host.Outcome State Fault Refusal :=
  withCmd s port tag 0x0602 (fun s c => stdCheck s c false false false) fun s c =>
    if s.acq.run.isNone then finishOk (disarm s) c 0
    else
      let t := stopSections s
      replaceCmd { t.set F.ACQ_STATUS_STATE Rec.closing with acq := { t.acq with disarming := true } } c { c with phase := .running }

/-! ### Triggers (R536 to R544) -/

/-- The configured pre-trigger length of a section in ticks. -/
def preLen (c : AcqCfg) (k : Nat) : Nat := (if k = 2 then c.rawPre else c.preMs) * 800000

/-- R536: where a section's pre-trigger content begins for a trigger at a DEVTIME. -/
def preStart (s : State) (c : AcqCfg) (k at_ : Nat) : Nat :=
  let r := recRing s k
  let oldest := if r.wrapped then (r.items.head?.map fun (x : RecItem) => x.time).getD at_ else 0
  max (at_ - preLen c k) (max s.acq.armedAt (max s.acq.lastEnd oldest))

/-- The sections that a configuration records: 0 point, 1 thermal, 2 raw. -/
def sectionsOf (c : AcqCfg) : List Nat :=
  [0, 1, 2].filter fun k => if k = 0 then c.ptRings != 0 else if k = 1 then c.thmKeep != 0 else c.rawCl != 0

/-- PRE_FULL: a trigger now would not set PRE_SHORT (R537). -/
def preFull (s : State) : Bool :=
  match s.acq.cfg with
  | some c => recState s != Rec.disarmed && (sectionsOf c).all fun k => preStart s c k s.now + preLen c k ≤ s.now
  | none => false

/-- The frame in which a DEVTIME fell; free when no frame is known. -/
def frameAt (s : State) (at_ : Nat) : Nat × State :=
  match s.acq.frames.find? fun e => e.2 ≤ at_ with
  | some e => (e.1, s)
  | none => s.takeFree 32

/-- R536 to R538, R540, R546: the triggers of a sample start a recording: a header stall is taken, and each section takes
its pre-trigger content. -/
def acceptTriggers (s : State) (c : AcqCfg) (l : List (Nat × Nat)) : State :=
  let r0 : Recording := { seq := s.acq.seq + 1, trigs := l, secs := [], preShort := false, full := false,
                          aligned := s.flag F.TDC_PPS_STATUS_ALIGNED, stopAt := 0, header := none, frame := 0 }
  let at_ := recTime r0
  let (f, s) := frameAt s at_
  let secs := [0, 1, 2].map fun k =>
    if (sectionsOf c).contains k then
      some { items := [], active := true, start := preStart s c k at_, stop := none, ovf := false, stalls := [] } else none
  let short := (sectionsOf c).any fun k => at_ < preStart s c k at_ + preLen c k
  let (head, t) := takeFar 1 s
  let r : Recording := { r0 with secs := secs, preShort := short, header := head.head?, frame := f }
  let r := if head.isEmpty then recordingFull t r else r
  let u := { t with acq := { t.acq with run := some r, seq := r.seq, meas := t.acq.meas.filter fun (m : MeasReturn) => m.frame = f } }
  let v := (sectionsOf c).foldl (fun (a : State) k =>
    capture a k ((recRing a k).items.filter fun (x : RecItem) => preStart s c k at_ ≤ x.time)) u
  let full := match v.acq.run with
    | some x => x.full
    | none => false
  let st := if (sectionsOf c).isEmpty || full then Rec.closing else Rec.capturing
  ((((v.set F.ACQ_STATUS_STATE st).set F.ACQ_REC_SEQ r.seq).set F.ACQ_LAST_TRIG at_).set F.ACQ_EVENT_TRIG 1).set
    F.ACQ_STATUS_LAST_SRC (recMask r)

/-- The trigger sample of a DEVTIME (R540). -/
def sampleOf (date : Nat) : Nat := date / 800

/-- R544, R554: an accepted recording's TRIGGER frame, unless it could not start within 81.9 us of its date, and its pulse on
TRIG_OUT from 2 us after the end of its trigger sample; delay is the time from TRIG_DEVTIME to the frame start in ticks. -/
def sendTrigger (s : State) (c : AcqCfg) (mask date delay : Nat) : State :=
  let t := if mask &&& c.tbSend = 0 then s
    else if busOn s && delay ≤ 65520 then sendBus s Bus.trigger (mask + 2 ^ 8 * delay)
    else s.inc F.ACQ_LOG_TB_DROP
  if mask &&& c.trigOut != 0 then
    let start := t.sys.raw + ((sampleOf date + 1) * 800 + 1600 - t.now)
    { t with tx := t.tx ++ [.pulse 0], pins := { t.pins with trigOut := some start } }
  else t

/-- R541, R542: the triggers of a sample are missed. -/
def missTriggers (s : State) (l : List (Nat × Nat)) : State :=
  let mask := l.foldl (fun w e => setBit w e.1) 0
  let e : MissEntry := { time := (l.headD (0, 0)).2, mask := mask, state := recState s, seq := s.acq.seq }
  let t := (s.add F.ACQ_MISSED l.length).set F.ACQ_EVENT_MISSED 1
  if 16 ≤ t.acq.log.length then t.add F.ACQ_LOG_LOG_OVF l.length
  else
    let log := t.acq.log ++ [e]
    let u := { t with acq := { t.acq with log := log } }
    if log.length = 16 then u.set F.ACQ_EVENT_LOG_FULL 1 else u

/-- R540, R544: later triggers of the sample of an accepted trigger join its recording; a source among them that sends or
pulses does so where none before it did. -/
def joinTriggers (s : State) (c : AcqCfg) (r : Recording) (l : List (Nat × Nat)) (delay : Nat) : State :=
  let r' := { r with trigs := r.trigs ++ l }
  let t := { s with acq := { s.acq with run := some r' } }
  let left (m : Nat) : Nat := if recMask r &&& m = 0 then m else 0
  sendTrigger ((t.set F.ACQ_LAST_TRIG (recTime r')).set F.ACQ_STATUS_LAST_SRC (recMask r'))
    { c with tbSend := left c.tbSend, trigOut := left c.trigOut } (recMask r') (recTime r') delay

/-- R540, R541: the oldest trigger sample that has triggers is judged; delay is the time until its TRIGGER frame could start,
in ticks from TRIG_DEVTIME. -/
def execTriggerSample (delay : Nat) (s : State) : Host.Outcome State Fault Refusal :=
  match s.acq.pend, s.acq.cfg with
  | [], _ => .next s
  | _, none => .next s
  | p :: rest, some c =>
    let k := rest.foldl (fun m e => min m (sampleOf e.2)) (sampleOf p.2)
    let mine := s.acq.pend.filter fun e => sampleOf e.2 = k
    let t := { s with acq := { s.acq with pend := s.acq.pend.filter fun e => sampleOf e.2 != k } }
    if recState t = Rec.disarmed then .next t
    else if recState t = Rec.armed then
      let mask := mine.foldl (fun w e => setBit w e.1) 0
      .next (sendTrigger (acceptTriggers t c mine) c mask (mine.headD p).2 delay)
    else match t.acq.run with
      | some r => if r.trigs.any (fun e => sampleOf e.2 = k) then .next (joinTriggers t c r mine delay)
        else .next (missTriggers t mine)
      | none => .next (missTriggers t mine)

/-- R538: TRIG_IN has stayed high for 1 us since an edge some ticks ago. -/
def execTrigInEdge (ago : Nat) (s : State) : Host.Outcome State Fault Refusal :=
  .next (triggerAt s 5 (s.now - ago))

/-- R554: the DEVTIME of a TRIGGER frame's trigger: the arrival of its first edge, in ticks and steps of 15.625 ps, less the
delay of its unit in ps, less the time in ticks that it carries; to the nearest tick. -/
def busDate (s : State) (unit carried arrival steps : Nat) : Nat :=
  let dly := if s.flag (F.ACQ_TB_DLY_VALID unit) then s.get (F.ACQ_TB_DLY_DELAY unit) else 0
  divRound (125 * (80 * arrival + steps) - 8 * dly - 10000 * carried) 10000

/-- R554: a TRIGGER frame has arrived from another unit: its first edge some ticks ago, and steps of 15.625 ps more. -/
def execTrigger (frame : BitVec 48) (steps ago : Nat) (s : State) : Host.Outcome State Fault Refusal :=
  if busTakes s Bus.trigger frame then
    .next (triggerAt (noteEdge s 8 none { time := stampAt s (s.sys.raw - ago) steps, window := 0 }) 6
      (busDate s (busOrigin frame) (busData frame / 2 ^ 8) (s.now - ago) steps))
  else .next s

/-- ACQ_TRIGGER's checks (R539). -/
def acqTriggerCheck (s : State) (c : Cmd) : Option Nat := stdCheck s c false (recState s = Rec.disarmed) false

/-- R539: ACQ_TRIGGER returns the DEVTIME of its trigger. -/
def execAcqTrigger (port : Port) (tag : Nat) (s : State) : Host.Outcome State Fault Refusal :=
  withCmd s port tag 0x0603 acqTriggerCheck fun s c => finishOk (trigger s 7) c s.now

/-- A missed-trigger log entry as ACQ_READ_LOG writes it (R542). -/
def missBytes (e : MissEntry) : List Byte :=
  leBytes 8 e.time ++ leBytes 1 e.mask ++ leBytes 1 e.state ++ leBytes 2 0 ++ leBytes 4 e.seq

/-- R542: ACQ_READ_LOG writes the log and empties it. -/
def execAcqReadLog (port : Port) (tag : Nat) (s : State) : Host.Outcome State Fault Refusal :=
  withCmd s port tag 0x0604 (fun s c => stdCheck s c false false false) fun s c =>
    let data := s.acq.log.foldl (fun l e => l ++ missBytes e) []
    finishOut { s.set F.ACQ_LOG_LOG_OVF 0 with acq := { s.acq with log := [] } } c data 16

/-! ### The course of a recording -/

/-- When every section has stopped the recording is closing, and the post-trigger capture has ended. -/
def endCapture (s : State) : State :=
  match s.acq.run with
  | some r =>
    let going := r.secs.any fun (o : Option RecSection) => match o with
      | some x => x.active
      | none => false
    if recState s = Rec.capturing && !going then
      { s.set F.ACQ_STATUS_STATE Rec.closing with acq := { s.acq with lastEnd := s.now } }
    else s
  | none => s

/-- One section of the recording stops. -/
def stopOne (s : State) (k : Nat) (ovf : Bool) : State :=
  match s.acq.run with
  | some r => match r.secs.getD k none with
    | some x =>
      let stopAt := if ovf && x.active && r.stopAt = 0 then s.now else r.stopAt
      endCapture { s with acq := { s.acq with run := some { r with secs := r.secs.set k (some (stopSection s x ovf)), stopAt := stopAt } } }
    | none => endCapture s
  | none => s

/-- R538: the post-trigger capture of a section (0 point, 1 thermal, 2 raw) ends. -/
def execCaptureEnd (sec : Fin 3) (s : State) : Host.Outcome State Fault Refusal := .next (stopOne s sec.val false)

/-- R547: a ring reaches data that has not been copied. -/
def execRecordingOverrun (sec : Fin 3) (s : State) : Host.Outcome State Fault Refusal := .next (stopOne s sec.val true)

/-- R543: REARM_MS have passed since the recording was closed. -/
def execRearmEnd (s : State) : Host.Outcome State Fault Refusal :=
  if recState s = Rec.rearming then .next (s.set F.ACQ_STATUS_STATE Rec.armed) else .next s

/-! ### The trigger bus (R553) -/

/-- R553: TRIGBUS_MEASURE sends a MEASURE frame. -/
def execTrigbusMeasure (port : Port) (tag : Nat) (s : State) : Host.Outcome State Fault Refusal :=
  withCmd s port tag 0x0802 (fun s c => stdCheck s c false false s.acq.tbMax.isSome) fun s c => begin_ s c fun t _ =>
    let u := (List.range 16).foldl (fun (a : State) j => a.set (F.ACQ_TB_DLY_VALID j) 0) t
    let v := if busOn u then sendBus u Bus.measure 0 else u
    { v with acq := { v.acq with tbMax := some 0 } }

/-- R553: a MEASURE frame arrives and is answered. -/
def execMeasure (s : State) : Host.Outcome State Fault Refusal :=
  if lnkUp s && busOn s then .next (sendBus s Bus.measureReply 0) else .next s

/-- R553: unit j, the origin of the frame, answers, some ps after the end of the MEASURE frame; its turnaround is 3 us times
j + 1. -/
def execMeasureReply (frame : BitVec 48) (roundTrip : Nat) (s : State) : Host.Outcome State Fault Refusal :=
  match s.acq.tbMax, busTakes s Bus.measureReply frame with
  | none, _ => .next s
  | _, false => .next s
  | some m, true =>
    let j := busOrigin frame
    let dly := divRound (roundTrip - 3000000 * (j + 1)) 2
    let t := (s.set (F.ACQ_TB_DLY_VALID j) 1).set (F.ACQ_TB_DLY_DELAY j) dly
    .next { t with acq := { t.acq with tbMax := some (max m roundTrip) } }

/-- R553: the reply window of a measurement ends. -/
def execTrigbusMeasureDone (s : State) : Host.Outcome State Fault Refusal :=
  match s.acq.tbMax with
  | none => .next s
  | some m => .next (finishRunning { s with acq := { s.acq with tbMax := none } } 0x0802 St.done m)

end Sys2Proof.Machine
end

