-- ==== Sys2Proof/Machine/Red.lean ====
section
/-! DEFINITION. Twin operation: announcements and mirror blocks (R513 to R516), frame marks (R510, R592), silence and the
halter (R519 to R524), and interlock mode (R525 to R527). -/

namespace Sys2Proof.Machine

/-! ### Packets of the partner -/

/-- The absolute slot of a slot index in a frame, where the frame is the present one or the next. -/
def absSlot (s : State) (frame slot : Nat) : Option Nat :=
  if frame = s.sch.frame then some (s.sch.abs + slot)
  else if frame = (s.sch.frame + 1) % 2 ^ 32 then some (s.sch.abs + s.sch.slots + slot) else none

/-- The shot that the partner has announced, with the partner's code of the slot (R240). -/
def partnerShot (s : State) (x : SlotId) (entry vlast : Nat) : Option (Shot × Owe) :=
  let n := settingsOf s x
  match progFor s x.frame with
  | none => none
  | some p => (p.entries[entry]?).map fun e =>
    let o := ((owesOf s x.frame).find? fun (o : Owe) => o.entry = entry).getD
      { entry := entry, cls := 2, owed := 1, burst := 1, spacing := 0, ring := 0, fired := 0, short := false }
    (shotOf n e (.partner vlast) entry o.ring (o.cls = 0) x (codeOf n false x), o)

/-- R513, R514: an announcement is taken: the shot is charged with the partner's VLAST; one that arrives in time also opens
windows and places cells. -/
def takeAnnounce (s : State) (x : SlotId) (entry vlast : Nat) (late : Bool) : State :=
  match partnerShot s x entry vlast with
  | none => s
  | some (y, o) =>
    let t := { s with sch := { s.sch with charges := s.sch.charges ++ [chargeOf s y (shotCharge s y vlast) false] } }
    let t := updOwe (noteLast t entry x.at_) x.frame entry fun p => { p with owed := p.owed - 1, fired := p.fired + 1 }
    if late then t.inc F.RED_CNT_LATE
    else
      let u := wakeClusters t y.cl
      placeCells (settingsOf s x) o.owed y (enterLook u y)

/-- R513, R514, R518: an announcement arrives: it is ignored unless the pair fires in halves; one for a slot that has
started is discarded; one after the start of the slot before is late. -/
def execAnnounce (tag : BitVec 128) (seq frame slot vlast entry : Nat) (s : State) : Host.Outcome State Fault Refusal :=
  let (ok, t) := takePacket s (tagVerifies s 0x01 seq [frame, slot % 2 ^ 20 + 2 ^ 20 * vlast, entry] tag) seq
  if !ok then .next t
  else
    let u := heardPartner t
    let slot := slot % 2 ^ 20
    if !splitsEntries u || u.red.mute || !u.sch.running || slot % 2 = sideNow u || entry = 0xFFFFFFFF then .next u
    else match absSlot u frame slot with
      | none => .next u
      | some a =>
        if a < u.sch.abs + u.sch.next then .next u
        else .next (takeAnnounce u { at_ := a, frame := frame, i := slot } entry vlast (a < u.sch.abs + u.sch.next + 1))

/-- A received seed takes effect at the next frame boundary (R512). -/
def takeSeed (s : State) (seed : Nat) : State :=
  if s.mode.scanning then holdField s (lateNow s) F.HGE_PSEED seed else s.set F.HGE_PSEED seed

/-- R510, R593: PSKEW from the last frame mark, if it is the mark that the block names. -/
def takeSkew (s : State) (mark24 dly : Nat) : State :=
  match s.red.mark with
  | none => s
  | some (f, stamp) =>
    let t := { s with red := { s.red with mark := none } }
    if f != mark24 % 2 ^ 24 || sideNow s = 0 then t
    else
      let b := stamp - Int.ofNat (s.get F.LNK_PRT_LAT_LAT) - Int.ofNat dly
      let skew := b - 80 * divRoundInt b 80
      let moved := !steady skew (t.getInt F.RED_PSKEW)
      let u := { t.setInt F.RED_PSKEW skew with red := { t.red with skews := (skew :: t.red.skews).take 3 } }
      if moved && u.red.halves && !s.red.skews.isEmpty then enterAlt u 3 else u

/-- R516: the comparison of a mirror block with the own: the cause of alternation, 0 when all that is compared agrees. -/
def mirrorCause (s : State) (schema side hash : Nat) : Nat :=
  if schema != s.get F.RED_SCHEMA_OWN then 1
  else if hash != s.get F.RED_HASH || side = sideNow s then 2 else 0

/-- R516, R518: what a received mirror block does. -/
def takeMirror (s : State) (schema side : Nat) (all : Bool) (hash seed frame calVer mark24 dly : Nat) : State :=
  let t := ((((s.set F.RED_PHASH hash).set F.RED_SCHEMA_PARTNER schema).set F.RED_CAL_VER_PARTNER calVer).put
    F.RED_STATUS_CAL_DIFF (calVer != s.get F.CAL_VERSION_WORKING))
  let u := takeSeed { t with red := { t.red with partnerAll := all } } seed
  let v := takeSkew u mark24 dly
  let cause := mirrorCause v schema side hash
  let w := if cause != 0 then
      let a := enterAlt v cause
      { a with red := { a.red with matched := 0, joinFrom := none } }
    else
      let n := v.red.matched + 1
      { v with red := { v.red with matched := n, joinFrom :=
          if 2 ≤ n && v.red.joinFrom.isNone then some (v.sch.abs + v.sch.next) else v.red.joinFrom } }
  if sideNow w = 1 then { w with red := { w.red with adopt := some frame } } else w

/-- R516: a mirror block arrives. -/
def execMirror (tag : BitVec 128) (seq schema side : Nat) (all : Bool) (hash seed frame calVer mark24 dly : Nat) (s : State) :
    Host.Outcome State Fault Refusal :=
  let (ok, t) := takePacket s (tagVerifies s 0x02 seq (mirrorWords schema side all hash seed frame calVer mark24 dly) tag) seq
  if !ok then .next t
  else
    let u := heardPartner t
    if native u then .next (takeMirror u schema side all hash seed frame calVer mark24 dly) else .next u

/-- R591: a KEEPALIVE is sent after 0.5 us without a packet in an active session. -/
def execKeepalive (s : State) : Host.Outcome State Fault Refusal :=
  if sessionUp s && prtState s = Prt.active then .next (sendPacket s 0x03 []) else .next s

/-- R520, R590, R591: a KEEPALIVE arrives. -/
def execKeepaliveAccepted (tag : BitVec 128) (seq : Nat) (s : State) : Host.Outcome State Fault Refusal :=
  let (ok, t) := takePacket s (tagVerifies s 0x03 seq [] tag) seq
  .next (if ok then heardPartner t else t)

/-! ### Frame marks and the start of scanning (R510, R517, R592) -/

/-- The frame sequence with the low 24 bits of a mark. -/
def markFrame (s : State) (frame24 : Nat) : Nat := (s.red.adopt.getD s.sch.frame) / 2 ^ 24 * 2 ^ 24 + frame24 % 2 ^ 24

/-- R510, R592: a frame mark arrives; stamp is its arrival less the own boundary, in 15.625 ps. A scan start that waits
begins at it: both devices in halves, but a follower behind a leader that owns all slots fires nothing until R518. -/
def execFmark (stamp : Int) (frame24 : Nat) (s : State) : Host.Outcome State Fault Refusal :=
  if !native s || !sessionUp s then .next s
  else if sideNow s = 1 then
    let t := { s with red := { s.red with mark := some (frame24 % 2 ^ 24, stamp) } }
    if s.red.wait.isNone then .next t
    else .next (beginWaiting { t with red := { t.red with halves := !t.red.partnerAll, mute := t.red.partnerAll } } (markFrame s frame24))
  else if s.red.wait.isNone then .next s
  else .next (beginWaiting { s with red := { s.red with halves := true } } (s.sch.frame + 1))

/-- R517: the follower has not started within 100 ms: the leader starts alone. -/
def execTwinStartTimeout (s : State) : Host.Outcome State Fault Refusal :=
  if sideNow s = 0 && s.red.wait.isSome then .next (beginWaiting { s with red := { s.red with halves := false } } (s.sch.frame + 1))
  else .next s

/-! ### Silence and the halter (R519 to R524) -/

/-- The partner's shots in the look-ahead become own shots, and their charges are those of own shots (R520). -/
def adoptPartnerShots (s : State) : State :=
  let isPartner (x : Shot) : Bool := match x.use with
    | .partner _ => true
    | _ => false
  let slots := (s.sch.look.filter isPartner).map fun (x : Shot) => x.at_
  { s with sch := { s.sch with
      look := s.sch.look.map (fun (x : Shot) => if isPartner x then { x with use := .own } else x),
      charges := s.sch.charges.filter fun (c : Charge) => c.own || !slots.contains c.at_ } }

/-- R520, R530: no partner-link frame for 3 slots. A device in alternation only takes all slots. -/
def execPartnerSilence (s : State) : Host.Outcome State Fault Refusal :=
  let alt := s.flag F.RED_STATUS_ALT
  if !native s || !s.sch.running || s.flag F.RED_STATUS_SILENCE || !(alt || s.red.halves) then .next s
  else
    let t := (stick (s.set F.RED_STATUS_SILENCE 1) 0x1C0).inc F.RED_CNT_SILENCE
    if alt then .next (noteRole t)
    else
      let u := (adoptPartnerShots t).set F.SCH_STATUS_UNSURE 1
      .next (noteRole { u with red := { u.red with halves := false, matched := 0, joinFrom := none,
                                                   since := some (u.sch.abs + u.sch.next) } })

/-- R519: the holder's beacon. -/
def execBeacon (s : State) : Host.Outcome State Fault Refusal :=
  if native s && s.flag F.RED_STATUS_HALTER && busOn s then .next (sendBus s Bus.beacon 0) else .next s

/-- A device in silence, outside alternation, that does not hold the halter and still fires. -/
def contends (s : State) : Bool :=
  native s && s.flag F.RED_STATUS_SILENCE && !s.flag F.RED_STATUS_ALT && !s.flag F.RED_STATUS_HALTER && !s.red.mute

/-- R522: the query. -/
def execQuery (s : State) : Host.Outcome State Fault Refusal :=
  if contends s && busOn s then .next (sendBus s Bus.query 0) else .next s

/-- The device fires nothing from the next slot start: its shots go back to their entries. -/
def stopFiring (s : State) : State :=
  let t := unadmit s
  { t with red := { t.red with mute := true } }

/-- The trigger bus fault of a device that cannot arbitrate (R521, R522). -/
def busFault (s : State) : State :=
  noteRole (stopFiring (raiseFault (clearUnsure (s.set F.RED_STATUS_BUS_FAULT 1)) 2 0x0E01 0))

/-- R521: the holder's beacon is not echoed within 10 us. -/
def execBeaconEchoTimeout (s : State) : Host.Outcome State Fault Refusal :=
  if native s && s.flag F.RED_STATUS_HALTER then .next (busFault (s.set F.RED_STATUS_HALTER 0)) else .next s

/-- R522: the query is not echoed within 10 us. -/
def execQueryEchoTimeout (s : State) : Host.Outcome State Fault Refusal := if contends s then .next (busFault s) else .next s

/-- R522, R523: two beacons heard in silence: standby, without shots and without cells. -/
def execHalterStandby (s : State) : Host.Outcome State Fault Refusal :=
  if !contends s then .next s
  else
    let t := stopFiring (clearUnsure (stick (s.set F.RED_STATUS_STANDBY 1) 0x1C0))
    .next (noteRole (dropFuture t))

/-- R522: 192 us without a beacon: the device takes the halter and keeps all slots. -/
def execHalterTakeover (s : State) : Host.Outcome State Fault Refusal :=
  if contends s then .next (noteRole (clearUnsure ((s.set F.RED_STATUS_HALTER 1).inc F.RED_CNT_TAKEOVER))) else .next s

/-- R521: 200 us after its silence began the holder clears UNSURE. -/
def execUnsureClear (s : State) : Host.Outcome State Fault Refusal :=
  if native s && s.flag F.RED_STATUS_HALTER && s.flag F.RED_STATUS_SILENCE then .next (clearUnsure s) else .next s

/-! ### Interlock mode (R525 to R527) -/

/-- One of the faults of R526: a bank or a cluster withdrawn, the emitter inhibited, the near yard lost. A bank that is only
cleared in EMI_BANK_EN is no fault (R365). -/
def interlockFault (s : State) : Bool :=
  (List.range 8).any (fun b => bankOut s b && s.get (F.EMI_BANK_STAT_CAUSE b) != 6)
    || (List.range 16).any (fun n => s.flag (F.RXF_CL_STATUS_WITHDRAWN n))
    || inhibited s || s.flag F.YRD_CAP_NEAR_OFF

/-- A device that released HALTER within the last 100 ms does not claim it (R526). -/
def halterRests (s : State) : Bool :=
  match s.red.releasedAt with
  | some t => s.sys.raw < t + 80000000
  | none => false

/-- R527: HALTER has been high for the hold-off of the SIDE: a device in SCAN without a fault claims it. -/
def execHalterClaim (s : State) : Host.Outcome State Fault Refusal :=
  if !interlock s || s.mode != .scan || s.flag F.RED_STATUS_HALTER || interlockFault s || halterRests s then .next s
  else
    let t := ((s.set F.RED_STATUS_HALTER 1).set F.RED_ILK_DRIVING 1).inc F.RED_ILK_CLAIM_CNT
    .next (noteRole (freshWindows { t with pins := { t.pins with halter := true } }))

/-- R526: the holder releases HALTER for a fault or a state change. -/
def execHalterRelease (s : State) : Host.Outcome State Fault Refusal :=
  if interlockFault s || !s.mode.scanning then .next (releaseHalter s) else .next s

end Sys2Proof.Machine
end

