-- ==== Sys2Proof/Machine/Prt.lean ====
section
/-! DEFINITION. The partner link: training (R594 to R600), link loss (R601), Doze and Deep (R602 to R604), and the commands
PRT_CONFIG and PRT_RETRAIN. -/

namespace Sys2Proof.Machine

/-- R594: the probe of DETECT; a lane with a terminated receiver goes on with TRN words. -/
def execPrtDetectProbe (found : Bool) (s : State) : Host.Outcome State Fault Refusal :=
  if prtUp s && prtState s = Prt.detect && found then .next (sendTrn (toPrt s Prt.bitlock) 1) else .next s

/-- R596: a TRN word as its lane sees it: its header and payload both inverted. -/
def trnInverted (header : Fin 4) (payload : Dword) : Bool :=
  3 - header.val == Header.control && bits (~~~payload).toNat 24 8 == Ctype.trn

/-- R594, R596: a lane checks its TRN word: its polarity, its lane number, and the skew against lane 0 in word times. A lane that
carries the other's number fails, and so does lane 1 above 4 words of skew. -/
def laneCheck (s : State) (lane : Fin 2) (number : Nat) (inverted : Bool) (skew : Nat) : Host.Outcome State Fault Refusal :=
    let pol := s.get F.LNK_PRT_STATUS_POL_INV
    let t := s.set F.LNK_PRT_STATUS_POL_INV (if inverted then setBit pol lane.val else clearBit pol lane.val)
    if number != lane.val then
      let u := t.set F.LNK_PRT_STATUS_LANE_SWAP 1
      .next (if lane = 0 then failTraining u Prt.lanecheck else u)
    else if lane = 1 && 4 < skew then .next t
    else
      let u := { t with prt := { t.prt with laneOk := setBit t.prt.laneOk lane.val } }
      .next (if lane = 0 then toPrt u Prt.eye else u)

/-- R588, R594, R596: a word gives a lane its bit and word lock: the header and the descrambled payload it saw. A TRN word
is checked; a control word of another CTYPE is ignored, and counted where the table does not hold it. -/
def execTrn (lane : Fin 2) (header : Fin 4) (payload : Dword) (skew : Nat) (s : State) : Host.Outcome State Fault Refusal :=
  let st := prtState s
  let inv := trnInverted header payload
  let w := if inv then (Header.control, (~~~payload).toNat) else (header.val, payload.toNat)
  if st != Prt.bitlock && st != Prt.bitlock + 1 && st != Prt.lanecheck && st != Prt.eye then .next s
  else match takeControl s w.1 w.2 with
    | (some (ctype, value), t) => if ctype = Ctype.trn then laneCheck t lane (bits value 21 1) inv skew else .next t
    | (none, t) => .next t

/-- The link leaves EYE for CAPABILITY once lane 0 has passed; each device sends its CAP word (R598). -/
def sendCap (s : State) : State :=
  let both := s.prt.laneOk = 3
  sendWord (toPrt s Prt.capability) 0xD2
    (2 ^ 20 + 2 ^ 19 * sideNow s + 2 ^ 17 * s.get F.RED_STATUS_MODE + 2 ^ 16 * b2n both + 0x8960)

/-- R597: the eye of a lane has been measured: width in 1/64 UI, height in mV. A lane that has not passed LANECHECK is not
measured; lane 0 must pass, lane 1 drops out. -/
def execPrtEyeDone (lane : Fin 2) (width height : Nat) (s : State) : Host.Outcome State Fault Refusal :=
  let n := lane.val
  if prtState s != Prt.eye || !bit s.prt.laneOk n then .next s
  else
    let good := 24 ≤ width && 50 ≤ height
    let t := (((s.set (F.LNK_PRT_EYE_VALID n) 1).put (F.LNK_PRT_EYE_LOW n) (!good)).set (F.LNK_PRT_EYE_WIDTH n) (min width 63)).set
      (F.LNK_PRT_EYE_HEIGHT n) (min height 255)
    let u := { t with prt := { t.prt with eyesDone := setBit t.prt.eyesDone n,
                                          laneOk := if good then t.prt.laneOk else clearBit t.prt.laneOk n } }
    if n = 0 && !good then .next (failTraining u Prt.eye)
    else if u.prt.laneOk &&& u.prt.eyesDone = u.prt.laneOk && bit u.prt.eyesDone 0 then .next (sendCap u)
    else .next u

/-- R598: the partner's capability is checked; LATENCY follows with the first PING. -/
def takeCap (s : State) (word : Nat) : Host.Outcome State Fault Refusal :=
    let t := s.set F.LNK_PRT_PCAP word
    let good := bits word 20 4 = 1 && bits word 17 2 = s.get F.RED_STATUS_MODE && bits word 0 16 = 0x8960
    if !good then .next (failTraining t Prt.capability)
    else
      let lanes := if bit word 16 then t.prt.laneOk else 1
      .next (sendWord (toPrt { t with prt := { t.prt with laneOk := lanes, echoes := [] } } Prt.latency) 0x96 0)

/-- R585, R588, R598: a word of 34 bits, its payload descrambled, arrives where a CAP word is due. A control word of another
CTYPE is ignored, and counted where the table does not hold it. -/
def execCap (word : BitVec 34) (s : State) : Host.Outcome State Fault Refusal :=
  if prtState s != Prt.capability then .next s
  else match takeControl s (bits word.toNat 32 2) (bits word.toNat 0 32) with
    | (some (ctype, value), t) => if ctype = 0xD2 then takeCap t value else .next t
    | (none, t) => .next t

/-- R599: a PING is answered by an ECHO that carries the turnaround measured, in 15.625 ps. -/
def execPing (turnaround : Nat) (s : State) : Host.Outcome State Fault Refusal :=
  let st := prtState s
  if st = Prt.latency || st = Prt.capability || st = Prt.session then .next (sendWord s 0xA5 (turnaround % 2 ^ 24)) else .next s

/-- The spread of the exchanges in ps (R599): the root of the mean squared distance from their mean. -/
def latencyRms (l : List Int) : Nat :=
  let n := l.length
  let sum := l.foldl (· + ·) 0
  let sq := l.foldl (fun a x => a + ((Int.ofNat n * x - sum).natAbs) ^ 2) 0
  sqrtRound (sq * 15625 ^ 2) (4 * n ^ 3 * 1000 ^ 2)

/-- R659: the key exchange begins: KEYX 1 carries a fresh ephemeral public key, sealed under zero key and salt. -/
def sendKeyx1 (s : State) : State :=
  let (f, t) := s.takeFree 256
  let d := p256.secretOf f
  sendPacket { t with prt := { t.prt with txSeq := 1, rxSeq := 0, keyx := false, eph := d, peer := [], keys := [] } } 0x10
    (byteDwords 16 ((pub256 d).map BitVec.toNat))

/-- R659: both ephemeral public keys, SIDE 0's first. -/
def ephemeralKeys (s : State) : List Byte :=
  if sideNow s = 0 then pub256 s.prt.eph ++ s.prt.peer else s.prt.peer ++ pub256 s.prt.eph

/-- R659: KEYX 2 carries the identifier, the identity public key, its endorsement, and the identity key's signature over both
ephemeral keys. -/
def sendKeyx2 (s : State) : State :=
  sendPacket s 0x10 (byteDwords 60 ((uidBytes s ++ idPublic s ++ endorsement s ++ fixLen 64 (idSign s.sec.idKey (ephemeralKeys s))).map
    BitVec.toNat))

/-- R659: the body of the partner's KEYX 2 verifies: its endorsement against a FLEET slot, and its signature. -/
def partnerVerifies (s : State) (body : List Byte) : Bool :=
  let id := body.take 80
  body.length == 240
    && (List.range 8).any (fun k => slotServes s k Key.fleet && verifies (slotKey s k) id ((body.drop 80).take 96))
    && verifies256 ((body.drop 16).take 64) (ephemeralKeys s) (body.drop 176)

/-- R659: the session keys and salts from both ephemeral keys; none where the partner's is no point of the curve. -/
def sessionKeys (s : State) : Option (List Byte) :=
  (ecdhSecret s.prt.eph s.prt.peer).map fun z => hkdf72 z (ephemeralKeys s) prtInfo

/-- R599: an ECHO arrives: round trip and turnaround in 15.625 ps. After 64 exchanges LAT and RMS are taken and the session
keys are agreed: KEYX 1 goes out. -/
def execEcho (roundTrip turnaround : Nat) (s : State) : Host.Outcome State Fault Refusal :=
  if prtState s != Prt.latency then .next s
  else
    let l := s.prt.echoes ++ [Int.ofNat roundTrip - Int.ofNat turnaround]
    let t := { s with prt := { s.prt with echoes := l } }
    if l.length < 64 then .next (sendWord t 0x96 0)
    else
      let mean := divRoundInt (l.foldl (· + ·) 0) (2 * l.length)
      let u := (t.setInt F.LNK_PRT_LAT_LAT mean).set F.LNK_PRT_LAT_RMS (min 4095 (latencyRms l))
      let v := toPrt u Prt.session
      .next (sendKeyx1 v)

/-- The link reaches ACTIVE (R600, R601, R659): session, keys and PARTNER_UP; faults of earlier trainings end. -/
def linkActive (s : State) (partnerHolds : Bool) : State :=
  let lanes := s.prt.laneOk
  let t := (((((toPrt s Prt.active).set F.LNK_PRT_STATUS_SESSION 1).set F.SEC_STATUS_SESSION_KEYS 1).set F.SYS_STATUS_PARTNER_UP 1).set
    F.LNK_PRT_STATUS_LANES_UP lanes).set F.LNK_PRT_STATUS_FAIL_STEP 0
  let u := { t with prt := { t.prt with rxSeq := 2, txSeq := 3, tagFails := [], lost := false } }
  let v := (List.range 16).foldl (fun (a : State) k => endFault a 0x0F04 k) (endFault u 0x0F02 1)
  let w := if s.prt.lost then raiseFault v 0 0x0F02 0 else v
  let x := if bit lanes 1 then endFault w 0x0F03 0 else raiseFault w 1 0x0F03 0
  twinSessionUp (endRetrain x St.done lanes) partnerHolds

/-- R659: KEYX 1 arrives with the partner's ephemeral key, and KEYX 2 goes out. A key that is no point of the curve fails. -/
def takeKeyx1 (s : State) (body : List Byte) : State :=
  if s.prt.keyx then s
  else if body.length != 64 || !p256.on (leAt body 0 32) (leAt body 32 32) then failTraining s Prt.session
  else sendKeyx2 { s with prt := { s.prt with keyx := true, rxSeq := 1, peer := body } }

/-- R659, R660: KEYX 2 arrives: verified, it gives the session its keys; what does not verify ends training. -/
def takeKeyx2 (s : State) (body : List Byte) (partnerHolds : Bool) : State :=
  if !s.prt.keyx then s
  else match partnerVerifies s body, sessionKeys s with
    | true, some k => linkActive { s with prt := { s.prt with keys := k } } partnerHolds
    | _, _ => failTraining s Prt.session

/-- R659, R660: a key exchange packet arrives, KEYX 1 or KEYX 2, with its body. partnerHolds says whether the partner holds the
halter. -/
def execKeyx (n : Fin 2) (body : List Byte) (partnerHolds : Bool) (s : State) : Host.Outcome State Fault Refusal :=
  if prtState s != Prt.session then .next s
  else if n = 0 then .next (takeKeyx1 s body)
  else .next (takeKeyx2 s body partnerHolds)

/-- Whether a training is in progress. -/
def prtTraining (s : State) : Bool := Prt.detect ≤ prtState s && prtState s ≤ Prt.session

/-- R600: lane 0 fails its step, or ACTIVE is not reached within 5 ms. -/
def execPrtTrainingFail (s : State) : Host.Outcome State Fault Refusal :=
  if prtTraining s then .next (failTraining s (prtState s)) else .next s

/-- R600: 100 ms after a failed training, while EN is 1. -/
def execPrtRetry (s : State) : Host.Outcome State Fault Refusal :=
  if prtState s = Prt.retry && prtUp s then .next (startTraining s) else .next s

/-- Whether the link is in ACTIVE or keeps its session in Doze or Deep. -/
def linkKept (s : State) : Bool := sessionUp s && Prt.active ≤ prtState s && prtState s ≤ Prt.deep

/-- R595, R600, R601: a lane loses word lock: lane 0 loses the link or fails its training; lane 1 alone leaves all traffic
to lane 0. -/
def execWordLockLoss (lane : Fin 2) (s : State) : Host.Outcome State Fault Refusal :=
  if linkKept s then
    if lane = 0 then .next (linkLoss s)
    else if bit (s.get F.LNK_PRT_STATUS_LANES_UP) 1 then .next (raiseFault (s.set F.LNK_PRT_STATUS_LANES_UP 1) 1 0x0F03 0)
    else .next s
  else if prtTraining s then
    if lane = 0 then .next (failTraining s (prtState s))
    else .next { s with prt := { s.prt with laneOk := clearBit s.prt.laneOk 1 } }
  else .next s

/-- R601, R604: no packet accepted for 10 us, or for 20 ms from a partner that dozes. -/
def execPrtLinkLoss (s : State) : Host.Outcome State Fault Refusal := if linkKept s then .next (linkLoss s) else .next s

/-- R602: 100 us with nothing but keepalives to send. -/
def execDoze (s : State) : Host.Outcome State Fault Refusal :=
  if prtState s != Prt.active || !s.flag F.LNK_PRT_CTRL_DOZE_EN || (native s && s.mode.scanning) then .next s
  else
    let deep := s.flag F.LNK_PRT_CTRL_DEEP_EN
    .next (toPrt (sendWord s 0xB4 (b2n deep)) (if deep then Prt.deep else Prt.doze))

/-- R603: the transmitter leaves Doze or Deep with TRN words. -/
def execDozeExit (s : State) : Host.Outcome State Fault Refusal := .next (leaveDoze s)

/-- R604: every 10 ms a dozing transmitter sends one KEEPALIVE and goes back. -/
def execDozeKeepalive (s : State) : Host.Outcome State Fault Refusal :=
  if dozes s && sessionUp s then .next (sendWord (sendPacket (sendTrn s (wakeWords s)) 0x03 []) 0xB4 (b2n (prtState s = Prt.deep)))
  else .next s

/-- The link is off: disabled, without its shed, or its device outside the states that power it (R75). -/
def linkOff (s : State) : State :=
  let t := ((endSession s).set F.LNK_PRT_STATUS_STATE Prt.disabled).set F.LNK_PRT_STATUS_LANES_UP 0
  endRetrain { t with prt := { t.prt with lost := false } } St.aborted 0

/-- LNK_PRT_CTRL EN (R600): set it starts a training, cleared it ends the link. -/
def writePrtEn (s : State) (on : Bool) : State :=
  let was := s.flag F.LNK_PRT_CTRL_EN
  let t := s.put F.LNK_PRT_CTRL_EN on
  if on && !was && prtUp t then startTraining t else if !on && was then linkOff t else t

/-- R145, R148: PRT_CONFIG. A new mode takes effect in the next training (R598). -/
def execPrtConfig (port : Port) (tag : Nat) (s : State) : Host.Outcome State Fault Refusal :=
  withCmd s port tag 0x0800 (fun s c => stdCheck s c (committed s) false s.sys.trans.isSome) fun s c =>
    finishOk (setTwinMode s (c.dw 4 % 4)) c 0

/-- R600: PRT_RETRAIN ends the session and trains afresh; its result is the lanes up. -/
def execPrtRetrain (port : Port) (tag : Nat) (s : State) : Host.Outcome State Fault Refusal :=
  withCmd s port tag 0x0801 (fun s c => stdCheck s c false false s.prt.retrain.isSome) fun s c =>
    begin_ s c fun t c => startTraining { t with prt := { t.prt with retrain := some (c.port, c.tag), lost := false } }

end Sys2Proof.Machine
end

