-- ==== Sys2Proof/Machine/Pcie.lean ====
section
/-! DEFINITION. The PCI Express endpoint (chapter 18): PERST#, Function Level Reset, link loss, link power states, and what
they do to the rings, the far yard and a recording. -/

namespace Sys2Proof.Machine

/-- The handshake for SLEEP ends where it runs, and the device goes on entering SLEEP (R89, R583). -/
def endShake (s : State) : State :=
  if s.link.sleepShake then { s with link := { s.link with sleepShake := false }, sys := { s.sys with sleepEntering := true } } else s

/-- R583: the handshake for SLEEP begins once its final completion has been written or discarded, or ends at once without a
link. -/
def beginShake (s : State) : State :=
  let t := { s with link := { s.link with sleepShake := true } }
  if s.link.up && s.get F.LNK_PCIE_STATUS_PWR ≤ 2 then t else endShake t

/-- Whether a completion is the final one of a SET_STATE to SLEEP. -/
def asksSleep (s : State) (x : Comp) : Bool :=
  x.final && x.status = St.done
    && s.cmd.cmds.any (fun (c : Cmd) => x.of c && c.opcode == 0x0102 && c.phase == .done)
    && (match s.sys.trans with | some t => t.target == 1 && t.cmd == some (x.port, x.tag) | none => false)

/-- The completions of the ring that have not been written are discarded and counted; commands that run on will give
none (R151). The handshake that the final completion of a SET_STATE to SLEEP would have begun begins (R583). -/
def discardRing (s0 : State) : State :=
  let lost := s0.cmd.comps.filter fun (c : Comp) => c.port == .ring
  let kept := s0.cmd.cmds.filter fun (c : Cmd) => c.port == .mgmt || c.phase != .done
  let s := if lost.any (asksSleep s0) then beginShake s0 else s0
  { s.add F.CMD_ERR_CNT_DISCARD_CNT lost.length with cmd := { s.cmd with
      cmds := kept.map fun (c : Cmd) => if c.port == .ring then { c with discard := true } else c
      comps := s.cmd.comps.filter fun (c : Comp) => c.port != .ring } }

/-- R151: the rings' registers return to their reset values and PERST_SEEN is set; fetched commands run on, without
completions, and unfetched entries are abandoned. -/
def resetRings (s : State) : State :=
  let fs : List Fld := [F.CMD_CTRL_CMP_IRQ_EN, F.CMD_CTRL_EN, F.CMD_STATUS_CMP_WR_ERR, F.CMD_STATUS_FETCH_ERR, F.CMD_RING_BASE,
    F.CMD_HEAD, F.CMP_RING_BASE, F.CMP_RING_SIZE, F.CMP_TAIL_PHASE, F.CMP_TAIL_TAIL, F.CMP_NOTIFY_TIME, F.CMP_NOTIFY_COUNT]
  let t := (fs.foldl State.clear (discardRing s)).set F.CMD_STATUS_PERST_SEEN 1
  { t with cmd := { t.cmd with tail := 0, head := 0, draining := false, fetchStop := false, cmpStop := false, unnotified := 0,
                               cmpSource := false } }

/-- The endpoint's configuration space is reset: no bus mastering, D0, MSI-X off with every vector masked and IDLE
(R102, R578); payloads of 128 bytes and read requests of 512 (log entry 75). -/
def resetEndpoint (s : State) : State :=
  let t := [F.LNK_PCIE_STATUS_D3HOT, F.LNK_PCIE_STATUS_FN_MASK, F.LNK_PCIE_STATUS_MSIX_EN, F.LNK_PCIE_STATUS_BME,
    F.SYS_STATUS_PCIE_CFG].foldl State.clear s
  let u := (List.range 64).foldl (fun (x : State) v => x.clear (F.IRQ_VEC_STAT_SENT v)) t
  { u with irq := { u.irq with pba := 0, vecMask := 2 ^ 64 - 1, table := [] },
           link := { u.link with mps := 0, mrrs := 2, aspm := false, l11 := false } }

/-- R298: every far window is withdrawn; the directions of the cells lost count as not covered, and a recording in progress
is truncated (R550). -/
def withdrawAll (s : State) : State :=
  let (t, l) := withdrawFar (truncRecording s)
  enterReady (l.foldl (fun (u : State) e => badNotice u e.1) t)

/-- The link has no lanes up. -/
def linkDown (s : State) : State :=
  let t := [F.LNK_PCIE_STATUS_PWR, F.LNK_PCIE_STATUS_WIDTH, F.LNK_PCIE_STATUS_SPEED, F.LNK_PCIE_STATUS_REVERSED].foldl State.clear s
  { t with link := { t.link with up := false } }

/-- What the endpoint held back goes out as soon as it may send requests (R268). -/
def resumeDelivery (s : State) : State := if pcieUsable s then (List.range 4).foldl dmaRing s else s

/-- R102, R151, R298: PERST# is asserted. -/
def execPerstAssert (s : State) : Host.Outcome State Fault Refusal :=
  let t := { s with pins := { s.pins with perst := true } }
  if mainDown s || s.pins.perst then .next t
  else
    let u := linkDown (resetEndpoint (resetRings (withdrawAll t)))
    .next (endShake { u with link := { u.link with flr := false } })

/-- R91, R100: PERST# is released: the rising edge is a wake source. -/
def execPerstRelease (s : State) : Host.Outcome State Fault Refusal :=
  if !s.pins.perst then .next s
  else .next (wakeBy { s with pins := { s.pins with perst := false } } (2 ^ 11))

/-- R100, R578: the configuration space begins answering, after PERST# or at the end of a Function Level Reset. -/
def execPcieConfigReady (s : State) : Host.Outcome State Fault Refusal :=
  if s.pins.perst || mainDown s then .next s
  else
    let t := s.set F.SYS_STATUS_PCIE_CFG 1
    .next { t with link := { t.link with flr := false } }

/-- R96, R268, R581, R584: the link reaches L0. CLK_PCIE_CFG is taken, what was held goes out, and PE_WAKE# is released. -/
def execPcieLinkUp (speed : Fin 6) (width : Fin 9) (reversed : Bool) (s : State) : Host.Outcome State Fault Refusal :=
  if s.pins.perst || !lnkUp s then .next s
  else
    let t := (((s.set F.LNK_PCIE_STATUS_PWR 0).set F.LNK_PCIE_STATUS_SPEED speed.val).set F.LNK_PCIE_STATUS_WIDTH width.val).put
      F.LNK_PCIE_STATUS_REVERSED reversed
    let cfg := if s.link.up then t.link.pcieCfg else 2 * t.get F.CLK_PCIE_CFG_SSC + t.get F.CLK_PCIE_CFG_SEP_REF
    let u := { t with link := { t.link with up := true, pcieCfg := cfg }
                      pins := { t.pins with peWake := false } }
    .next (resumeDelivery (endFault u 0x0F01 0))

/-- R581: the link is lost. -/
def loseLink (s : State) : State :=
  let t := stick ((linkDown s).inc F.LNK_PCIE_DOWN_CNT) 0x1D0
  endShake (raiseFault (withdrawAll t) 2 0x0F01 0)

/-- R112, R581: the link is lost; with the link down already, it has not trained and the endpoint keeps retrying (log entry 61).
Nothing happens while PERST# is asserted. -/
def execPcieLinkLost (s : State) : Host.Outcome State Fault Refusal :=
  if s.link.up then .next (loseLink s)
  else if s.pins.perst || !lnkUp s then .next s
  else .next (raiseFault s 2 0x0F01 0)

/-- R578: a Function Level Reset: the endpoint and the rings as at PERST#, with the link up. -/
def execFunctionLevelReset (s : State) : Host.Outcome State Fault Refusal :=
  if !s.link.up || s.pins.perst then .next s
  else
    let t := resetEndpoint (resetRings (withdrawAll s))
    .next { t with link := { t.link with flr := true } }

/-- R298, R567, R578: a host write to configuration space. Bus mastering cleared, or D3hot entered, withdraws the far
windows; what a block held back goes out once it is lifted. -/
def execPcieConfigWrite (bme d3hot msixEn : Bool) (cfg : CfgSpace) (s : State) : Host.Outcome State Fault Refusal :=
  if !s.flag F.SYS_STATUS_PCIE_CFG || s.link.flr || !s.link.up then .next s
  else
    let able (x : State) : Bool := x.flag F.LNK_PCIE_STATUS_BME && !x.flag F.LNK_PCIE_STATUS_D3HOT
    let t := (((s.put F.LNK_PCIE_STATUS_BME bme).put F.LNK_PCIE_STATUS_D3HOT d3hot).put F.LNK_PCIE_STATUS_MSIX_EN msixEn).put
      F.LNK_PCIE_STATUS_FN_MASK cfg.fnMask
    let t := { t with link := { t.link with mps := cfg.mps.val, mrrs := cfg.mrrs.val, aspm := cfg.aspm, l11 := cfg.l11 } }
    let u := if able s && !able t then withdrawAll t else t
    .next (sendPending 64 (if !able s && able u then resumeDelivery u else u))

/-- R583: the host's PME_Turn_Off is answered and the link enters L2/L3 Ready; the handshake for SLEEP ends. -/
def execPmeTurnOff (s : State) : Host.Outcome State Fault Refusal :=
  if !s.link.up then .next s else .next (endShake (s.set F.LNK_PCIE_STATUS_PWR 3))

/-- R583: PME_WAIT passes without PME_Turn_Off. -/
def execPmeWaitExpiry (s : State) : Host.Outcome State Fault Refusal := .next (endShake s)

/-- R582: the endpoint enters L1, which the host has enabled, and its substate L1.1 where that is enabled too. -/
def execL1Entry (sub : Bool) (s : State) : Host.Outcome State Fault Refusal :=
  if !s.link.up || !s.link.aspm || s.get F.LNK_PCIE_STATUS_PWR != 0 then .next s
  else .next (s.set F.LNK_PCIE_STATUS_PWR (if sub && s.link.l11 then 2 else 1))

/-- R584: PE_WAKE# has been driven for 1 s. -/
def execPeWakeTimeout (s : State) : Host.Outcome State Fault Refusal :=
  .next { s with pins := { s.pins with peWake := false } }

end Sys2Proof.Machine
end

