-- ==== Sys2Proof/Machine/Clocks.lean ====
section
/-! DEFINITION. The loss and the return of the clocks (R81, R82, R112, R279, R645). -/

namespace Sys2Proof.Machine

/-! ### The near yard with PLL_MEM -/

/-- The cells of a stall are lost with it; its place is not retired (log entry 76). -/
def dropCellStall (s : State) (x : Stall) : State :=
  let (t, l) := loseCells s x.num
  l.foldl (fun (u : State) e => badNotice u e.1) (dropStall t x.num)

/-- A loft stall leaves the places 760 to 767 for a free one, or its cells are lost (log entry 76). -/
def vacate (s : State) (x : Stall) : State :=
  match freeLoc s .loft 0 with
  | some l => updStall s x.num fun y => { y with at_ := { y.at_ with loc := l } }
  | none => if x.owner = 0 && (stallAt s x.num).isSome then dropCellStall s x else s

/-- R279, R81: the near yard is disabled. The map moves to loft stalls 760 to 767 with 2^16 entries, and what lay there makes
room; the cell stalls of the near yard, and those that the map can no longer number, are lost (log entry 76). -/
def nearGone (s : State) : State :=
  if s.flag F.YRD_CAP_NEAR_OFF then s
  else
    let t := (s.set F.YRD_CAP_NEAR_OFF 1).set F.YRD_CAP_MAP_LOG2_NOW 16
    let gone (x : Stall) : Bool := x.owner == 0 && (65536 ≤ x.num || x.at_.tier == .near)
    let t := (t.yrd.stalls.filter gone).foldl dropCellStall t
    let u := enterReady (divert t fun p => p.tier == .near)
    (u.yrd.stalls.filter fun (x : Stall) => x.at_.tier == .loft && 760 ≤ x.at_.loc).foldl vacate u

/-- The near yard returns where stalls are fitted (log entry 13). -/
def nearBack (s : State) : State :=
  if s.get F.YRD_CAP_NEAR_STALLS = 0 then s
  else
    let t := s.set F.YRD_CAP_NEAR_OFF 0
    t.set F.YRD_CAP_MAP_LOG2_NOW (mapNow t)

/-! ### Clock loss -/

/-- R81: a clock is lost, with the reaction of its row. -/
def execPllUnlock (clock : Clock) (s : State) : Host.Outcome State Fault Refusal :=
  match clock with
  | .xtalAon => .next (wakeBy (xtalAonOut s) 0)
  | .xtalRef => .next (raiseF4 (s.set F.CLK_STATUS_XREF_OK 0) 0x0102 0)
  | .peRefclk => .next (raiseFault (if s.link.up then loseLink s else s) 2 0x0104 0)
  | .pllCore => .next (raiseF4 (s.set F.CLK_STATUS_CORE_LK 0) 0x0105 0)
  | .pllTime => .next (raiseF3 (s.set F.CLK_STATUS_TIME_LK 0) 0x0106 0 (.hold 7))
  | .pllMem => .next (raiseFault (nearGone (s.set F.CLK_STATUS_MEM_LK 0)) 2 0x0107 0)
  | .pllSafb => .next (raiseF3 (s.set F.CLK_STATUS_SAFB_LK 0) 0x0108 0 (.hold 7))

/-- R645, R690: a clock locks again; F0 to F2 records of it turn inactive, an F3 cause waits for its clearing time. The
near yard returns with PLL_MEM where stalls are fitted (log entry 13). -/
def execPllRelock (clock : Clock) (s : State) : Host.Outcome State Fault Refusal :=
  match clock with
  | .xtalAon => .next (if s.sys.xaonLate then s else xtalAonIn s)
  | .xtalRef => .next (s.set F.CLK_STATUS_XREF_OK 1)
  | .peRefclk => .next (endFault s 0x0104 0)
  | .pllCore => .next (s.set F.CLK_STATUS_CORE_LK 1)
  | .pllTime => .next (s.set F.CLK_STATUS_TIME_LK 1)
  | .pllMem => .next (endFault (nearBack (s.set F.CLK_STATUS_MEM_LK 1)) 0x0107 0)
  | .pllSafb => .next (s.set F.CLK_STATUS_SAFB_LK 1)

/-- R82: the cross-measurement of every 1 ms; deviations in parts per million of PLL_SAFB seen by SAFA, PLL_CORE seen by
SAFB and PLL_TIME against PLL_CORE. DETAIL 0, 1, 2 names them in this order (log entry 14). -/
def execClockCrossMeasure (safbPpm corePpm timePpm : Nat) (s : State) : Host.Outcome State Fault Refusal :=
  if !safUp s || s.step == 2 then .next s
  else
    let a := 5000 < safbPpm
    let b := 5000 < corePpm
    let c := 1000 < timePpm
    let t := s.put F.CLK_STATUS_FMON_OK (!(a || b || c))
    let t1 := if a then raiseF3 t 0x0109 0 (.hold 7) else t
    let t2 := if b then raiseF3 t1 0x0109 1 (.hold 7) else t1
    .next (if c then raiseF3 t2 0x0109 2 (.hold 7) else t2)

end Sys2Proof.Machine
end

