-- ==== Sys2Proof/Machine/Faults.lean ====
section
/-! DEFINITION. The fault log, the reactions and the fatal path (chapter 20), and the herd controller's two pairs (R36, R37). -/

namespace Sys2Proof.Machine

/-- Codes of one class in the fault catalogue (R635). -/
def catalogue : Nat → List Nat
  | 0 => [0x0007, 0x0008, 0x0101, 0x0103, 0x0404, 0x0601, 0x0701, 0x0803, 0x0903, 0x0904, 0x0A04, 0x0A05, 0x0D08, 0x0D09, 0x0F02,
      0x1101, 0x1104]
  | 1 => [0x0001, 0x0002, 0x0004, 0x0005, 0x0401, 0x0F03, 0x1102]
  | 2 => [0x0104, 0x0107, 0x0402, 0x0403, 0x0405, 0x0406, 0x0407, 0x0409, 0x0602, 0x0801, 0x0802, 0x0901, 0x0902, 0x0A01, 0x0A02,
      0x0A03, 0x0B01, 0x0B02, 0x0C01, 0x0C02, 0x0D07, 0x0E01, 0x0F01, 0x0F02, 0x0F04, 0x1102, 0x1103]
  | 3 => [0x0106, 0x0108, 0x0109, 0x0408, 0x0C02, 0x0D01, 0x0D02, 0x0D03, 0x0D04, 0x0D05, 0x0D06]
  | 4 => [0x0003, 0x0006, 0x0102, 0x0105]
  | _ => []

/-- Whether the catalogue gives a code a class; in a start-up the clocks of R112 are fatal too. -/
def inCatalogue (s : State) (cls code : Nat) : Bool :=
  (catalogue cls).contains code || (cls == 4 && s.step == 2 && (code == 0x0106 || code == 0x0108))

/-- R632, R638: a fault of the catalogue is detected: it is entered or merged, with the effect of its class. A class that
the catalogue does not give the code is no fault, and nothing happens. -/
def execFaultLog (cls : Fin 5) (code detail : Nat) (s : State) : Host.Outcome State Fault Refusal :=
  if !inCatalogue s cls.val code then .next s
  else if cls.val = 4 then .next (raiseF4 s code detail)
  else if cls.val = 3 then
    match f3Kind code with
    | some k => .next (raiseF3 s code detail k)
    | none => .next (raiseFault s 3 code detail)
  else .next (raiseFault s cls.val code detail)

/-- The reaction of a class that is next: the first of its queue; once that is empty, that of the oldest record of the class that
waits (R642). -/
def nextReaction (s : State) (cls : Nat) : Option Reaction :=
  match s.reactions.find? (·.cls == cls) with
  | some r => some r
  | none => (s.faults.find? fun (r : FaultRec) => r.cls == cls && r.noReact && r.active).map fun r =>
      { cls := cls, code := r.code, detail := r.detail }

/-- The next reaction of the highest class that has one and is above the class of the reaction that runs (R642). -/
def dueReaction (s : State) : Option Reaction :=
  [3, 2, 1, 0].findSome? fun c => if s.running.all (fun (r : Reaction) => r.cls < c) then nextReaction s c else none

/-- R642: a reaction begins; one that runs is pre-empted. -/
def beginReaction (s : State) (r : Reaction) : State := { s with reactions := s.reactions.erase r, running := r :: s.running }

/-- R642: the reaction that runs completes, and the one that it had pre-empted goes on. -/
def endReaction (s : State) : State :=
  match s.running with
  | [] => s
  | r :: l => { s with
      running := l
      faults := s.faults.map fun (x : FaultRec) => if x.is r.code r.detail then { x with noReact := false } else x }

/-- R642 to R644: the herd firmware goes on with the reactions: it begins the next one that is due at once, else the one that runs
completes. The block's action has been taken already, so a reaction completes without a further effect; after a switch-over the
one that runs is begun anew. -/
def execFaultReactionRun (s : State) : Host.Outcome State Fault Refusal :=
  if !ctlUp s then .next s
  else .next (match dueReaction s with
    | some r => beginReaction s r
    | none => endReaction s)

/-- R646: a fatal fault. -/
def execF4Fault (code detail : Nat) (s : State) : Host.Outcome State Fault Refusal :=
  if inCatalogue s 4 code then .next (raiseF4 s code detail) else .next s

/-- R646, R113: 100 ms after an F4 fault the device resets, unless it is held. -/
def execFatalResetTimer (s : State) : Host.Outcome State Fault Refusal :=
  if s.fatalReset then .next (deviceReset s 2) else .next s

/-- R535, R688: the device reset that a RESET command or frame, or a reprovisioning, has asked for. A recording in progress stops and is
closed with DISARMED, where the endpoint can still write. -/
def execDeviceReset (s : State) : Host.Outcome State Fault Refusal :=
  if s.cmd.resetDue then .next (deviceReset (if pcieUsable s then closeRecording (stopSections s) false true else s) 2)
  else .next s

/-! ### The herd controller's pairs (R36, R37, R507, R637) -/

/-- The in-service bit of a pair. -/
def herdOk (pair : Nat) : Fld := if pair = 0 then F.RED_HERD_H0_OK else F.RED_HERD_H1_OK

/-- The active pair. -/
def herdActive (s : State) : Nat := s.get F.RED_HERD_ACTIVE

/-- Whether the standby pair is in service. -/
def standbyOk (s : State) : Bool := s.flag (herdOk (1 - herdActive s))

/-- A pair fails with the code that its fault has while the other one is in service (R36). -/
def herdFail (s : State) (pair code : Nat) : State :=
  if !s.flag (herdOk pair) then s
  else if !s.flag (herdOk (1 - pair)) then raiseF4 s 0x0003 pair
  else
    let t := raiseFault (s.set (herdOk pair) 0) 1 code pair
    if pair = herdActive s then { t with red := { t.red with switching := true } } else t

/-- R36: a lockstep mismatch in a pair. -/
def execHerdCompareMismatch (pair : Fin 2) (s : State) : Host.Outcome State Fault Refusal :=
  if !ctlUp s then .next s
  else .next (herdFail s pair.val (if pair.val = herdActive s then 0x0001 else 0x0002))

/-- R637: the watchdog of the active pair expires. -/
def execHerdWatchdogExpiry (s : State) : Host.Outcome State Fault Refusal :=
  if !ctlUp s then .next s else .next (herdFail s (herdActive s) 0x0004)

/-- R507: HERD_SWITCH. -/
def herdSwitchCheck (s : State) (c : Cmd) : Option Nat := stdCheck s c false (!standbyOk s) s.red.switching

/-- R507: HERD_SWITCH begins to move control. -/
def execHerdSwitch (port : Port) (tag : Nat) (s : State) : Host.Outcome State Fault Refusal :=
  withCmd s port tag 0x0106 herdSwitchCheck fun s c => begin_ s c fun t _ => { t with red := { t.red with switching := true } }

end Sys2Proof.Machine
end

