-- ==== Sys2Proof/Machine/Sec.lean ====
section
/-! DEFINITION. Signed blocks (R139 to R144), identity, firmware images, and opening and reprovisioning the device
(chapter 21). -/

namespace Sys2Proof.Machine

/-! ### Signed blocks -/

/-- The opcodes bound to the nonce (R143). -/
def nonceBound (op : Nat) : Bool := op = 0x0504 || op = 0x0A05

/-- The payload length that an opcode prescribes (R148, R465, R663). -/
def payloadLen (op : Nat) : Option Nat :=
  if op = 0x0501 then some 48
  else if op = 0x0A05 then some 1152
  else if op = 0x0502 || op = 0x0503 || op = 0x0504 then some 0
  else none

/-- Payload length, payload and signature of a block (R140). -/
def blockLen (b : List Byte) : Nat := leAt b 4 4
def blockPayload (b : List Byte) : List Byte := (b.drop 0x40).take (blockLen b)
def blockSig (b : List Byte) : List Byte := (b.drop (0x40 + blockLen b)).take 96

/-- R140: a block is malformed. -/
def blockBad (c : Cmd) (b : List Byte) : Bool :=
  let n := blockLen b
  c.paramLen != divUp (64 + n + 96) 64
    || (match payloadLen c.opcode with | some k => n != k | none => false)
    || leAt b 0x2C 4 != crc32c (blockPayload b)
    || leAt b 3 1 != 0 || !zeroAt b 0x29 3 || !zeroAt b 0x30 16
    || (b.drop (0x40 + n + 96)).any (· != 0)
    || (!nonceBound c.opcode && leAt b 0x18 8 != 0)
    || (nonceBound c.opcode && leAt b 0x20 8 != 0)

/-- The purpose whose key verifies an opcode's block (R653). -/
def blockPurpose (op : Nat) : Nat := if op = 0x0504 then Key.lockout else if op = 0x0A05 then Key.reprov else Key.safety

/-- R142: the first condition that refuses a block, as DETAIL; nonce is the one that was current when the block came. -/
def sigFail (s : State) (nonce : Option Nat) (c : Cmd) (b : List Byte) : Option Nat :=
  let target := (b.drop 8).take 16
  let all0 := target.all (· == 0)
  let k := leAt b 0x28 1
  if !c.signed then some 6
  else if leAt b 0 2 != c.opcode || leAt b 2 1 != c.version then some 7
  else if !slotServes s k (blockPurpose c.opcode) then some 5
  else if (!all0 && target != uidBytes s) || (all0 && nonceBound c.opcode) then some 2
  else if nonceBound c.opcode && nonce != some (leAt b 0x18 8) then some 3
  else if !nonceBound c.opcode && leAt b 0x20 8 < s.get F.SAF_COUNTER then some 4
  else if !verifies (slotKey s k) (b.take (0x40 + blockLen b)) (blockSig b) then some 1
  else none

/-- R140 to R143: a signed block is checked: a status with its DETAIL when it is refused, and the state in which the nonce has
been withdrawn where the block passed R140. -/
def checkBlock (s : State) (c : Cmd) (b : List Byte) : Option (Nat × Nat) × State :=
  if blockBad c b then (some (St.badParam, 0x7F), s)
  else
    let t := if nonceBound c.opcode then { s with cmd := { s.cmd with nonce := none } } else s
    match sigFail s s.cmd.nonce c b with
    | some d => (some (St.sigFail, d), t.inc F.CMD_ERR_CNT_SIG_FAIL_CNT)
    | none => (none, t)

/-- R143: SEC_GET_NONCE. The nonce is a free value that is never 0. -/
def execSecGetNonce (port : Port) (tag : Nat) (s : State) : Host.Outcome State Fault Refusal :=
  withCmd s port tag 0x0A01 (fun s c => stdCheck s c false false false) fun s c =>
    let (v, t) := s.takeFree 64
    let n := v % (2 ^ 64 - 1) + 1
    finishOk { t with cmd := { t.cmd with nonce := some n } } c n

/-- R143: 300 s have passed since the nonce was set. -/
def execNonceExpiry (s : State) : Host.Outcome State Fault Refusal := .next { s with cmd := { s.cmd with nonce := none } }

/-- R654: what SEC_GET_IDENTITY writes; while no identity key exists, its 64 bytes are free. -/
def identityBytes (s : State) : List Byte × State :=
  let (v, t) := if s.flag F.SEC_STATUS_IDKEY then (ofLe (idPublic s), s) else s.takeFree 512
  (uidBytes s ++ leBytes 64 v ++ endorsement s ++ leBytes 4 (s.get F.SEC_FW_A) ++ leBytes 4 (s.get F.SEC_FW_B) ++ List.replicate 8 0, t)

/-- R654: SEC_GET_IDENTITY. -/
def execSecGetIdentity (port : Port) (tag : Nat) (s : State) : Host.Outcome State Fault Refusal :=
  withCmd s port tag 0x0A00 (fun s c => stdCheck s c false false false) fun s c =>
    let (b, t) := identityBytes s
    finishOut t c b 1

/-- R654: the 192 bytes of an attestation over a challenge. -/
def attestBytes (s : State) (challenge : List Byte) : List Byte :=
  let digest := if s.saf.cfg.isSome then fixLen 48 (sha384 s.saf.staged) else List.replicate 48 0
  let body := fixLen 32 challenge ++ uidBytes s ++ leBytes 4 s.sys.fw.version ++ leBytes 4 (s.get F.SEC_SVN_MIN)
    ++ leBytes 4 (statusWord s) ++ leBytes 4 0 ++ digest ++ leBytes 8 (configHash s) ++ leBytes 8 s.now
  body ++ fixLen 64 (idSign s.sec.idKey body)

/-- R654: SEC_ATTEST. -/
def execSecAttest (port : Port) (tag : Nat) (s : State) : Host.Outcome State Fault Refusal :=
  withCmd s port tag 0x0A04 (fun s c => stdCheck s c false false false) fun s c =>
    finishOut s c (attestBytes s ((c.inl.take 8).foldl (fun l d => l ++ leBytes 4 d) [])) 1

/-! ### Firmware images (R655, R656) -/

/-- The region that is not running: 1 A, 2 B. -/
def idleRegion (s : State) : Nat := if s.get F.SYS_START_IMAGE = 1 then 2 else 1

/-- The version register of a region. -/
def regionVersion (n : Nat) : Fld := if n = 1 then F.SEC_FW_A else F.SEC_FW_B

/-- A firmware command holds the image region. -/
def fwBusy (s : State) : Bool := holds s 0x0A02 || holds s 0x0A03

/-- SEC_FW_STAGE's checks (R133, R135, R655): an offset other than 0 must continue what is staged. -/
def fwStageCheck (s : State) (c : Cmd) : Option Nat :=
  if !c.first && c.dw 4 != 0 && c.dw 4 != s.get F.SEC_STAGE then some St.badParam else stdCheck s c false false (fwBusy s)

/-- R655: SEC_FW_STAGE: offset 0 erases the region, any other continues what is staged. -/
def execSecFwStage (port : Port) (tag : Nat) (s : State) : Host.Outcome State Fault Refusal :=
  withCmd s port tag 0x0A02 fwStageCheck fun s c => begin_ s c fun t c =>
    if c.dw 4 = 0 then
      let n := idleRegion t
      let u := if t.sec.marked = n then setMarks t t.sec.active 0 else t
      let v := (u.set (regionVersion n) 0).set F.SEC_STAGE 0
      { v with sec := { v.sec with stage := [] } }
    else t

/-- R655: the erase and the write of a piece end; ok says that the flash answered. -/
def execFwStageDone (ok : Bool) (s : State) : Host.Outcome State Fault Refusal :=
  match runningCmd s 0x0A02 with
  | none => .next s
  | some c =>
    if !ok then .next (finish s c St.timeout 0 0)
    else
      let l := s.sec.stage ++ c.data
      let t := { s.set F.SEC_STAGE l.length with sec := { s.sec with stage := l } }
      .next (finishOk t c (crc32c c.data))

/-- R656: SEC_FW_ACTIVATE begins its checks. -/
def execSecFwActivate (port : Port) (tag : Nat) (s : State) : Host.Outcome State Fault Refusal :=
  withCmd s port tag 0x0A03 (fun s c => stdCheck s c false false (fwBusy s)) fun s c => begin_ s c fun t _ => t

/-- R656: header, length and IMAGE_CRC of a staged image. -/
def imageFormOk (b : List Byte) : Bool :=
  let n := leAt b 0x10 4
  leAt b 0 4 = 0x4D524846 && leAt b 4 2 = 1 && 64 ≤ n && n ≤ 8388512 && n + 96 ≤ b.length && leAt b 0x19 1 ≤ 1 && zeroAt b 0x1B 37
    && leAt b 0x14 4 = crc32c ((b.take n).drop 0x40)

/-- R653, R656: the first check that a staged image fails, as status and DETAIL. -/
def imageRefused (s : State) (b : List Byte) : Option (Nat × Nat) :=
  let n := leAt b 0x10 4
  let k := leAt b 0x1A 1
  if !imageFormOk b then some (St.badParam, 0x7C)
  else if !slotServes s k Key.fw then some (St.sigFail, 5)
  else if !verifies (slotKey s k) (b.take n) ((b.drop n).take 96) then some (St.sigFail, 1)
  else if leAt b 0xC 4 < s.get F.SEC_SVN_MIN then some (St.sigFail, 4)
  else none

/-- R656: the check of the staged image ends; an image that passes is marked pending. -/
def execFwActivateDone (s : State) : Host.Outcome State Fault Refusal :=
  match runningCmd s 0x0A03 with
  | none => .next s
  | some c =>
    match imageRefused s s.sec.stage with
    | some (st, d) => .next (finish s c st d 0)
    | none =>
      let n := idleRegion s
      .next (finishOk ((setMarks s s.sec.active n).set (regionVersion n) (leAt s.sec.stage 8 4)) c n)

/-! ### Opening and reprovisioning -/

/-- R654: every secret is zeroized. -/
def zeroize (s : State) : State :=
  let t := (((linkOff s).set F.SEC_STATUS_IDKEY 0).set F.SEC_STATUS_ENDORSED 0).set F.SEC_STATUS_SESSION_KEYS 0
  let u := (((t.set F.HGE_SEED 0).set F.HGE_PSEED 0).set F.SEC_ZERO_TIME s.now).inc F.SEC_ZERO_CNT
  { u with cmd := { u.cmd with nonce := none }, sec := { u.sec with seed := some 0, endorsement := [] } }

/-- R33, R114, R661: TST_MODE has been high for 10 ms: outputs low, secrets zeroized, LOCK_LATCH set, OPENED. A start-up goes
on to the firmware where it has not run yet (log entry 12). -/
def execDebugPortOpen (s : State) : Host.Outcome State Fault Refusal :=
  if s.mode == .off || s.flag F.SEC_STATUS_OPENED then .next s
  else
    let t := if s.mode.scanning then leaveScan s else s
    let u := zeroize (forcePairs (ballsLow t))
    let v := setClusters (((u.set F.SAF_STATUS_LOCK_LATCH 1).set F.SAF_STATUS_LOCK_CAUSE 3).set F.SEC_STATUS_OPENED 1) Cl.off
    let w := if 4 ≤ v.step then startAt v 0 else v
    .next { setMode w .opened with pins := { w.pins with tstMode := true }, fatalReset := false,
                                   sys := { w.sys with trans := none, sleepEntering := false },
                                   link := { w.link with sleepShake := false } }

/-- R662: in OPENED a new identity key pair exists, without an endorsement. -/
def execIdentityKeyReady (s : State) : Host.Outcome State Fault Refusal :=
  if s.mode != .opened || s.flag F.SEC_STATUS_IDKEY then .next s
  else .next { s.set F.SEC_STATUS_IDKEY 1 with sec := { s.sec with idKey := s.sec.idKey + 1, endorsement := [] } }

/-- The key slots that a reprovisioning payload writes (R663). -/
def writeSlots (s : State) (b : List Byte) : State :=
  (List.range 8).foldl (fun (t : State) k =>
    if !bit (leAt b 0 1) k then t
    else
      let r := b.drop (0x80 + 128 * k)
      let v := t.set F.SEC_STATUS_SLOT_VALID (setBit (t.get F.SEC_STATUS_SLOT_VALID) k)
      let u := (v.set (F.SEC_KEY_SLOT_VALID k) 1).set (F.SEC_KEY_SLOT_PURPOSE k) (leAt r 0 1)
      { u with sec := { u.sec with keys := (k, (r.drop 4).take 96) :: u.sec.keys.filter fun (e : Nat × List Byte) => e.1 != k } }) s

/-- R663: the conditions on a reprovisioning payload, judged with the resulting slots. -/
def reprovOk (s : State) (b : List Byte) : Bool :=
  let t := writeSlots s b
  let has (p : Nat) : Bool := (List.range 8).any fun k => slotServes t k p
  let endors := (b.drop 0x10).take 96
  (List.range 8).any (fun k => slotServes t k Key.fleet && verifies (slotKey t k) (uidBytes s ++ idPublic s) endors)
    && has Key.fw && has Key.safety && has Key.lockout && has Key.reprov

/-- R663: SEC_REPROVISION writes the slots, identifiers and seed and closes the device, which then restarts. -/
def execSecReprovision (port : Port) (tag : Nat) (s : State) : Host.Outcome State Fault Refusal :=
  withCmd s port tag 0x0A05 (fun s c => stdCheck s c false false false) fun s c => begin_ s c fun t c =>
    let b := c.data
    if !reprovOk t b then finish t c St.badParam 0x7C 0
    else
      let u := ((writeSlots t b).set F.LNK_PCIE_SUBSYS_SUBSYS_VID (leAt b 4 2)).set F.LNK_PCIE_SUBSYS_SUBSYS_ID (leAt b 6 2)
      let v := (((u.set F.HGE_SEED (leAt b 8 8)).set F.SEC_STATUS_OPENED 0).set F.SEC_STATUS_ENDORSED 1).set F.SYS_RESET_CAUSE_REPROV 1
      let w := (v.set F.SAF_STATUS_LOCK_LATCH 1).set F.SAF_STATUS_LOCK_CAUSE 3
      finishOk { w with sec := { w.sec with seed := some (leAt b 8 8), endorsement := (b.drop 0x10).take 96 },
                        cmd := { w.cmd with resetDue := true } } c 0

end Sys2Proof.Machine
end

