-- ==== Sys2Proof/Machine/SafCmd.lean ====
section
/-! DEFINITION. The signed commands of the safety block (chapter 14). -/

namespace Sys2Proof.Machine

/-- An accepted SAF_LOAD_CONFIG or SAF_COMMIT has not ended: it holds the safety configuration (R133). -/
def safLoading (s : State) : Bool := holds s 0x0500 || holds s 0x0501

/-- SAF_LOAD_CONFIG's and SAF_COMMIT's checks: the safety function is disarmed (R148). -/
def safLoadCheck (s : State) (c : Cmd) : Option Nat := stdCheck s c false false (safLoading s)

/-- R463: a refused image or digest, in SAF_LOAD_ERR. -/
def safLoadErr (s : State) (check off : Nat) : State := (s.set F.SAF_LOAD_ERR_CHECK check).set F.SAF_LOAD_ERR_OFFSET off

/-- R463, R465: what the contents of a safety command's payload are refused for. -/
def safContents (s : State) (op : Nat) (b : List Byte) : Option (Nat × Nat) × State :=
  if op = 0x0500 then
    match imageErr b s.sch.frameUs with
    | some (k, o) => (some (St.badParam, 0x7C), safLoadErr s k o)
    | none => (none, s)
  else if op = 0x0501 then
    if s.saf.staged.isEmpty || b != fixLen 48 (sha384 s.saf.staged) then (some (St.badParam, 0x7C), safLoadErr s 6 0)
    else (none, s)
  else (none, s)

/-- The low 64 bits of the digest of a configuration. -/
def safDigest (b : List Byte) : Nat := ofLe ((sha384 b).take 8)

/-- An evaluator without a configuration, or with a new one: no runs, no coverage, every pair disabled. -/
def freshEvaluator (e : Evaluator) : Evaluator :=
  { e with active := e.fsel, replaced := [], runs := [], covered := [], short := [], results := [],
           pairs := [.disabled, .disabled, .disabled, .disabled] }

/-- Both evaluators start afresh. -/
def freshEvaluators (s : State) : State :=
  { s with saf := { s.saf with evA := freshEvaluator s.saf.evA, evB := freshEvaluator s.saf.evB } }

/-- R463, R464: SAF_LOAD_CONFIG stages an image and withdraws a committed configuration. -/
def execSafLoadConfig (port : Port) (tag : Nat) (s : State) : Host.Outcome State Fault Refusal :=
  withCmd s port tag 0x0500 safLoadCheck fun s c => begin_ s c fun t c =>
    match safContents t 0x0500 c.data with
    | (some (st, d), u) => finish u c st d 0
    | (none, u) =>
      let v := (safLoadErr u 0 0).set F.SAF_DIGEST 0
      let w := freshEvaluators { v with saf := { v.saf with staged := c.data, cfg := none } }
      finishOk w c (safDigest c.data)

/-- R485: a pair that is off with EDMn low when its configuration comes into force has its EDM window running. -/
def watchEdm (s : State) : State :=
  (List.range 4).foldl (fun (t : State) n =>
    let p := pairAt t n
    if edmEnabled t n && !p.edm && !pairOn t n then setPairAt t n { p with edmPend := true } else t) s

/-- R144, R465: SAF_COMMIT commits the staged image into both evaluators and stores the counter. -/
def execSafCommit (port : Port) (tag : Nat) (s : State) : Host.Outcome State Fault Refusal :=
  withCmd s port tag 0x0501 safLoadCheck fun s c => begin_ s c fun t c =>
    match safContents t 0x0501 c.data with
    | (some (st, d), u) => finish u c st d 0
    | (none, u) =>
      let v := ((safLoadErr u 0 0).set F.SAF_DIGEST (safDigest u.saf.staged)).set F.SAF_COUNTER c.counter
      let w := freshEvaluators { v with saf := { v.saf with cfg := some (parseImage v.saf.staged) } }
      finishOk (watchEdm (settle w)) c c.counter

/-- R133, R466, R634: SAF_ARM's checks. -/
def safArmCheck (s : State) (c : Cmd) : Option Nat :=
  let fits := match s.saf.cfg with
    | some g => g.frameUs = s.sch.frameUs && (s.mode != .scan || (match s.sch.progs.getD s.sch.cur none with
        | some p => crcListed s p.crc
        | none => false))
    | none => false
  stdCheck s c false (!fits || !s.saf.f3.isEmpty) (s.sys.trans.isSome || safLoading s)

/-- R450, R466: SAF_ARM arms the safety function with every pair off. -/
def execSafArm (port : Port) (tag : Nat) (s : State) : Host.Outcome State Fault Refusal :=
  withCmd s port tag 0x0502 safArmCheck fun s c =>
    if s.saf.armed then finishOk s c 0
    else
      let t := (s.set (F.HKC_CAL_REF_ON 0) 1).set (F.HKC_CAL_REF_ON 1) 1
      finishOk (settle { t with saf := { t.saf with armed := true } }) c 0

/-- R467: SAF_DISARM forces every pair off. -/
def execSafDisarm (port : Port) (tag : Nat) (s : State) : Host.Outcome State Fault Refusal :=
  withCmd s port tag 0x0503 (fun s c => stdCheck s c false false false) fun s c =>
    let t := forcePairs s
    finishOk (settle { t with saf := { t.saf with armed := false } }) c 0

/-- R492: SAFE_LOCKOUT_CLEAR makes the lock-out clearable for 60 s. -/
def execSafeLockoutClear (port : Port) (tag : Nat) (s : State) : Host.Outcome State Fault Refusal :=
  withCmd s port tag 0x0504 (fun s c => stdCheck s c false false false) fun s c =>
    finishOk { s with saf := { s.saf with clearable := true } } c 0

end Sys2Proof.Machine
end

