-- ==== Sys2Proof/Machine/Grant.lean ====
section
/-! DEFINITION. The commands of the yard (chapter 09). -/

namespace Sys2Proof.Machine

/-- Base and length in stalls that a YARD_GRANT asks for. -/
def grantBase (c : Cmd) : Nat := c.dw 4 + 2 ^ 32 * c.dw 5
def grantLen (c : Cmd) : Nat := c.dw 6

/-- The granted windows. -/
def windows (s : State) : List Nat := (List.range 64).filter fun w => s.flag (F.YRD_GRANT_STAT_VALID w)

/-- Whether a window asked for overlaps a granted one (R293). -/
def overlaps (s : State) (c : Cmd) : Bool :=
  (windows s).any fun w =>
    let a := s.get (F.YRD_GRANT_BASE w) * 65536
    let e := a + s.get (F.YRD_GRANT_LEN w) * 65536
    grantBase c < e && a < grantBase c + 65536 * grantLen c

/-- Stall numbers left for far windows: 2^MAP_LOG2_NOW less the loft and the near yard outside the map (R293). -/
def farNumbers (s : State) : Nat := 2 ^ s.get F.YRD_CAP_MAP_LOG2_NOW - 768 - nearCap s

/-- R293: the storage that a grant needs is there: a 64th window at most, and stall numbers for all of them. -/
def grantFits (s : State) (c : Cmd) : Bool :=
  (windows s).length < 64
    && ((windows s).map fun w => s.get (F.YRD_GRANT_LEN w)).foldl (· + ·) 0 + grantLen c ≤ farNumbers s

/-- R293: YARD_GRANT takes the lowest free window. -/
def execYardGrant (port : Port) (tag : Nat) (s : State) : Host.Outcome State Fault Refusal :=
  withCmd s port tag 0x0300 (fun s c => if overlaps s c then some St.badParam else stdCheck s c false false false) fun s c =>
    if !grantFits s c then finish s c St.resource 0 0
    else
      let w := ((List.range 64).find? fun w => !s.flag (F.YRD_GRANT_STAT_VALID w)).getD 0
      let t := ((s.set (F.YRD_GRANT_BASE w) (grantBase c / 65536)).set (F.YRD_GRANT_LEN w) (grantLen c)).set
        (F.YRD_GRANT_STAT_CLASS w) (c.dw 7)
      finishOk (t.set (F.YRD_GRANT_STAT_VALID w) 1) c w

/-- R294: a YARD_REVOKE ends with a status; the window stays as it is. -/
def endRevoke (s : State) (status n : Nat) : State :=
  finishRunning { s with yrd := { s.yrd with revoke := none } } 0x0301 status n

/-- Stalls of a far window, those on their way out included. -/
def windowStalls (s : State) (w : Nat) : List Stall := s.yrd.stalls.filter fun (x : Stall) => x.at_.within .far w

/-- R294: the window is withdrawn. -/
def withdrawWindow (s : State) (w : Nat) : State := endFault (clearWindow s w) 0x0802 w

/-- Whether a stall holds data of the recording in progress. -/
def recordingStall (s : State) (k : Nat) : Bool :=
  match s.acq.run with
  | none => false
  | some r => (r.header.toList ++ (r.secs.map fun (o : Option RecSection) => (o.map fun (x : RecSection) => x.stalls).getD []).foldl (· ++ ·) []).contains k

/-- R294: what a revoke in progress has come to: done, busy with a recording, without room, or still moving. -/
def judgeRevoke (s : State) : State :=
  match s.yrd.revoke with
  | none => s
  | some (w, n) =>
    let l := windowStalls s w
    if l.isEmpty then endRevoke (withdrawWindow s w) St.done n
    else if l.any (·.moving.isSome) then s
    else if recordsIn s w then endRevoke s St.busy 0
    else endRevoke s St.resource 0

/-- R294: YARD_REVOKE; a window that is not granted is a wrong parameter, and only one is revoked at a time. -/
def execYardRevoke (port : Port) (tag : Nat) (s : State) : Host.Outcome State Fault Refusal :=
  withCmd s port tag 0x0301 (fun s c => if !s.flag (F.YRD_GRANT_STAT_VALID (c.dw 4)) then some St.badParam
      else stdCheck s c false false s.yrd.revoke.isSome) fun s c => begin_ s c fun t c =>
    let w := c.dw 4
    let u := drainWindow (t.set (F.YRD_GRANT_STAT_DRAINING w) 1) w (recordingStall t)
    judgeRevoke (enterReady { u with yrd := { u.yrd with revoke := some (w, 0) } })

/-- R294: the moves of a revoke have ended. -/
def execYardRevokeDone (s : State) : Host.Outcome State Fault Refusal := .next (judgeRevoke s)

/-- Stalls of a tier in all: those of the loft, those of the near yard outside the map, and those granted. -/
def tierAll (s : State) : Tier → Nat
  | .loft => 768
  | .near => nearCap s
  | .far => ((windows s).map fun w => s.get (F.YRD_GRANT_LEN w)).foldl (· + ·) 0

/-- Retired stalls of a tier (R299). -/
def tierRetired (s : State) (t : Tier) : Nat := (s.yrd.retired.filter fun (p : Place) => p.tier == t).length

/-- R148: YARD_QUERY. -/
def execYardQuery (port : Port) (tag : Nat) (s : State) : Host.Outcome State Fault Refusal :=
  withCmd s port tag 0x0302 (fun s c => stdCheck s c false false false) fun s c =>
    let t : Tier := if c.dw 4 = 0 then .loft else if c.dw 4 = 1 then .near else .far
    let used := tierUsed s t
    finishOk s c (tierAll s t - used - tierRetired s t + 2 ^ 32 * used)

end Sys2Proof.Machine
end

