-- ==== Sys2Proof/Machine/Hkc.lean ====
section
/-! DEFINITION. The housekeeping converters HK-A (0) and HK-B (1), and the heartbeat with its cross-comparison (chapter 13,
R478). -/

namespace Sys2Proof.Machine

/-- Index of a converter's registers. -/
def convIx : Side → Nat
  | .a => 0
  | .b => 1

/-- A converter at rest. -/
def restConv : HkConv :=
  { next := 0, oldSeq := [], oldLen := none, avgs := [], doneAt := [], after := false, insert := false, loop := false, host := [], bg := 0,
    weights := [], passAt := 0 }

/-- The record of a converter. -/
def convAt (s : State) (x : Nat) : HkConv := s.hkc.convs.getD x restConv

/-- A converter takes a record. -/
def setConv (s : State) (x : Nat) (c : HkConv) : State :=
  { s with hkc := { s.hkc with convs := ([convAt s 0, convAt s 1]).set x c } }

/-- The sheds of the converters are up (R74). -/
def hkUp (s : State) : Bool := !mainDown s && s.mode != .fatal

/-- A converter can convert: it runs, is not being calibrated, and its reference is on (R449, R451). -/
def converts (s : State) (x : Nat) : Bool :=
  hkUp s && s.flag (F.HKC_CTRL_EN x) && !s.flag (F.HKC_CAL_CAL_BUSY x) && s.flag (F.HKC_CAL_REF_ON x)

/-- The dword of a sequence entry. -/
def seqWord (s : State) (x e : Nat) : Nat :=
  s.get (F.HKC_SEQ_INPUT x e) + 2 ^ 8 * s.get (F.HKC_SEQ_ACQ x e) + 2 ^ 12 * s.get (F.HKC_SEQ_AVG x e)
    + 2 ^ 16 * s.get (F.HKC_SEQ_DUMMY x e) + 2 ^ 17 * s.get (F.HKC_SEQ_DUMMY_AFTER_OVR x e)

/-- The dword of an entry as the present pass uses it (R437). -/
def seqNow (s : State) (x e : Nat) : Nat :=
  (((convAt s x).oldSeq.find? fun p => p.1 = e).map fun p => p.2).getD (seqWord s x e)

/-- LEN as the present pass uses it (R437). -/
def lenNow (s : State) (x : Nat) : Nat := (convAt s x).oldLen.getD (s.get (F.HKC_CTRL_LEN x))

/-- The scale S of an input, in halves (R432): the balls of inputs 0 to 15 have none in its table, which is 1. -/
def hkScale (input : Nat) : Nat := if (18 ≤ input && input ≤ 26) || input = 33 || input = 34 then 1 else 2

/-- R431, R446: code and overrange of an input of a scale at uv microvolts; the range is that after scaling. -/
def hkCode (halves : Nat) (uv : Int) : Nat × Bool :=
  let v := uv * Int.ofNat halves
  if v < -40000 then (0, true)
  else if 3640000 < v then (0xFFF, true)
  else ((clampInt 0 4095 (divRoundInt (v * 4096) 3600000)).toNat, false)

/-- The code of an input at uv microvolts; input 46 is the test DAC, and input 35 is VSS (R432). -/
def inputCode (s : State) (input : Nat) (uv : Int) : Nat × Bool :=
  if input = 46 then (s.get F.HKC_TDAC, false) else hkCode (hkScale input) (if input = 35 then 0 else uv)

/-- Whether a converter's results arrive: HK-B's go over SB1 into the SAFB shed (R18). -/
def hkHeard (s : State) (x : Nat) : Bool := x = 0 || safUp s

/-- R437: a pass starts: written entries and LEN take effect, and changed entries restart their averages. -/
def startPass (s : State) (x : Nat) : State :=
  let c := convAt s x
  let changed (e : Nat) : Bool := c.oldSeq.any fun p => p.1 = e
  setConv s x { c with oldSeq := [], oldLen := none, passAt := s.sys.raw, avgs := c.avgs.filter (fun (a : HkAvg) => !changed a.e),
                       doneAt := c.doneAt.filter fun p => !changed p.1 }

/-- R439: an entry's average completes: the readable copy is replaced, DONE is set, and the average is fresh. -/
def averageDone (s : State) (x : Nat) (a : HkAvg) : State :=
  let t := (((s.set (F.HKC_ACC_SUM x a.e) a.sum).put (F.HKC_ACC_OVR x a.e) a.ovr).put (F.HKC_ACC_AFTER_OVR x a.e) a.after).set
    (F.HKC_DONE x) (setBit (s.get (F.HKC_DONE x)) a.e)
  let c := convAt t x
  setConv t x { c with avgs := c.avgs.filter (fun (b : HkAvg) => b.e != a.e),
                       doneAt := (a.e, t.sys.raw) :: c.doneAt.filter fun p => p.1 != a.e }

/-- R439, R440, R446, R447: a code enters an entry's average and tracker. -/
def enterCode (s : State) (x e code : Nat) (ovr after : Bool) : State :=
  let t := (s.set (F.HKC_MM_MIN x e) (min code (s.get (F.HKC_MM_MIN x e)))).set (F.HKC_MM_MAX x e) (max code (s.get (F.HKC_MM_MAX x e)))
  let c := convAt t x
  let a := (c.avgs.find? fun (b : HkAvg) => b.e = e).getD { e := e, n := 0, sum := 0, ovr := false, after := false }
  let b : HkAvg := { a with n := a.n + 1, sum := a.sum + code, ovr := a.ovr || ovr, after := a.after || after }
  if 2 ^ bits (seqNow s x e) 12 4 ≤ b.n then averageDone t x b
  else setConv t x { c with avgs := b :: c.avgs.filter fun (y : HkAvg) => y.e != e }

/-- R446: an overranged conversion is counted. -/
def countOvr (s : State) (x : Nat) (ovr : Bool) : State := if ovr then s.inc (F.HKC_OVR_CNT x) else s

/-- R452: conversions over which a slice is measured, and over which the whole array of 13 is. -/
abbrev bgConversions : Nat := 4096
abbrev bgPeriod : Nat := 53248

/-- The conversion of the entry that is due (R436 to R448), during whose sampling the stood-down slice is measured (R452). -/
def convertEntry (s : State) (x : Nat) (uv : Int) : State :=
  let c0 := convAt s x
  let e := if lenNow s x < c0.next then 0 else c0.next
  let s1 := if e = 0 then startPass s x else s
  let w := seqNow s1 x e
  let (code, ovr) := inputCode s1 (bits w 0 6) uv
  let s2 := countOvr s1 x (ovr && hkHeard s1 x)
  let s3 := if bit w 16 || !hkHeard s1 x then s2 else enterCode s2 x e code ovr c0.after
  setConv s3 x { convAt s3 x with next := (if lenNow s3 x ≤ e then 0 else e + 1), after := ovr, insert := ovr && bit w 17 }

/-- R452: the slice for which the spare stands in, while its weight is measured; none without BGCAL_EN. -/
def stoodDown (s : State) (x : Nat) : Option Nat :=
  if s.flag (F.HKC_CAL_BGCAL_EN x) then some ((convAt s x).bg / bgConversions) else none

/-- R453: a slice's weight has moved by more than 8 LSB: SLICE_ERR and the fault, and the weight in use is kept. -/
def sliceError (s : State) (x : Nat) : State := raiseFault (s.set (F.HKC_CAL_SLICE_ERR x) 1) 2 0x0C01 x

/-- R453: a slice has been measured, at a weight that differs by d LSB from the one in use: by 2 or less it replaces that, above 8 it is
an error; in between the weight in use stays (log entry 96). -/
def sliceMeasured (s : State) (x slice : Nat) (d : Int) : State :=
  let c := convAt s x
  if d.natAbs ≤ 2 then setConv s x { c with weights := putAt c.weights slice 0 (c.weights.getD slice 0 + d) }
  else if 8 < d.natAbs then sliceError s x
  else s

/-- R452, R453: an ordinary conversion counts for the background measurement, which ends for the stood-down slice at its
4,096th. -/
def countBg (s : State) (x : Nat) (moved : Int) : State :=
  if !s.flag (F.HKC_CAL_BGCAL_EN x) then s
  else
    let c := convAt s x
    let t := setConv s x { c with bg := (c.bg + 1) % bgPeriod }
    if (c.bg + 1) % bgConversions = 0 then sliceMeasured t x (c.bg / bgConversions) moved else t

/-- R436: a converter's sampling ends and it converts the entry that is due; after an overrange with DUMMY_AFTER_OVR it converts VSS
instead and discards the result (R448). An injection that waits takes the slot, and abandons the sampling (R442, R443). -/
def execHkConversion (conv : Side) (sample : HkSample) (s : State) : Host.Outcome State Fault Refusal :=
  let x := convIx conv
  if !converts s x then .next s
  else if (convAt s x).insert then .next (setConv s x { convAt s x with insert := false, after := false })
  else if (convAt s x).loop || !(convAt s x).host.isEmpty then .next s
  else .next (countBg (convertEntry s x sample.uv) x sample.slice)

/-- A host injection is requested (R444): it waits in the queue of 4, or is lost. -/
def requestInjection (s : State) (x : Nat) : State :=
  let c := convAt s x
  if 4 ≤ c.host.length + b2n c.loop then s.set (F.HKC_INJ_INJ_LOST x) 1
  else setConv (s.set (F.HKC_INJ_GO x) 1) x { c with host := c.host ++ [s.get (F.HKC_INJ_INPUT x)] }

/-- R444: an injection is requested by the host, or by the APD bias loop into HK-A. -/
def execHkInjectRequest (conv : Side) (loop : Bool) (s : State) : Host.Outcome State Fault Refusal :=
  let x := convIx conv
  if !hkUp s then .next s
  else if loop then (if x = 0 then .next (setConv s x { convAt s x with loop := true }) else .next s)
  else .next (requestInjection s x)

/-- T_AD in 1/16 degree C of a code of input 27 (R433). -/
def dieTemp (code : Nat) : Int := divRoundInt (Int.ofNat code * 14400 - 4000 * 4096) 4096

/-- R442 to R447: a queued injection converts, the bias loop's first. It enters no average and no tracker. -/
def execHkInjection (conv : Side) (uv : Int) (s : State) : Host.Outcome State Fault Refusal :=
  let x := convIx conv
  let c := convAt s x
  if !converts s x || c.insert then .next s
  else if c.loop then
    let (code, ovr) := inputCode s 27 uv
    let t := countOvr (setConv s x { c with loop := false, after := ovr }) x (ovr && hkHeard s x)
    .next { t with rxf := { t.rxf with tAd := dieTemp code } }
  else match c.host with
    | [] => .next s
    | input :: r =>
      let (code, ovr) := inputCode s input uv
      let t := setConv (s.put (F.HKC_INJ_GO x) (!r.isEmpty)) x { c with host := r, after := ovr }
      if !hkHeard s x then .next t
      else .next (countOvr ((((t.set (F.HKC_INJ_RES_VALID x) 1).put (F.HKC_INJ_RES_OVR x) ovr).put (F.HKC_INJ_RES_AFTER_OVR x) c.after).set
        (F.HKC_INJ_RES_CODE x) code) x ovr)

/-- R440: trackers are cleared. -/
def clearTrackers (s : State) (x w : Nat) : State :=
  (List.range 32).foldl (fun (t : State) e => if bit w e then (t.set (F.HKC_MM_MIN x e) 0xFFF).set (F.HKC_MM_MAX x e) 0 else t) s

/-- R440: a write to HKC_MM_CLR. -/
def execHkcMmClrWrite (conv : Side) (value : Dword) (s : State) : Host.Outcome State Fault Refusal :=
  .next (clearTrackers s (convIx conv) value.toNat)

/-- Self-calibration starts (R451), whatever EN is. -/
def startSelfcal (s : State) (x : Nat) : State :=
  if hkUp s then (s.set (F.HKC_CAL_SELFCAL x) 1).set (F.HKC_CAL_CAL_BUSY x) 1 else s

/-- R451: self-calibration, on a write of SELFCAL or on enabling. -/
def execHkSelfcal (conv : Side) (s : State) : Host.Outcome State Fault Refusal := .next (startSelfcal s (convIx conv))

/-- R451, R453: self-calibration ends; slices holds by how many LSB each measured weight differs from the one in use. -/
def execHkSelfcalDone (conv : Side) (slices : List Int) (s : State) : Host.Outcome State Fault Refusal :=
  let x := convIx conv
  if !s.flag (F.HKC_CAL_CAL_BUSY x) then .next s
  else
    let t := (s.set (F.HKC_CAL_CAL_BUSY x) 0).set (F.HKC_CAL_SELFCAL x) 0
    .next ((slices.zipIdx.take 13).foldl (fun (u : State) e => sliceMeasured u x e.2 e.1) t)

/-- R449: the reference buffer comes on. -/
def execRefBufferOn (conv : Side) (s : State) : Host.Outcome State Fault Refusal :=
  if hkUp s then .next (s.set (F.HKC_CAL_REF_ON (convIx conv)) 1) else .next s

/-- Length of a pass in us (R436). -/
def passLen (s : State) (x : Nat) : Nat :=
  ((List.range (lenNow s x + 1)).map fun e => 1 + bits (seqNow s x e) 8 4).foldl (· + ·) 0

/-- R449: no conversion is due for at least 100 us: the converter is off, or its pass is over and the next one that far away. -/
def restsLong (s : State) (x : Nat) : Bool :=
  let c := convAt s x
  let period := s.get (F.HKC_CTRL_PERIOD x)
  !c.loop && c.host.isEmpty && !c.insert && (!s.flag (F.HKC_CTRL_EN x)
    || (passLen s x ≤ period && c.next = 0 && s.sys.raw + 80000 ≤ c.passAt + 800 * period))

/-- R449, R450: with REF_LP and the safety function disarmed the reference buffer goes off while nothing is due. -/
def execRefBufferOff (conv : Side) (s : State) : Host.Outcome State Fault Refusal :=
  let x := convIx conv
  if hkUp s && s.flag (F.HKC_CAL_REF_LP x) && !s.saf.armed && restsLong s x && !s.flag (F.HKC_CAL_CAL_BUSY x) then
    .next (s.set (F.HKC_CAL_REF_ON x) 0)
  else .next s

/-! ### Writes -/

/-- R437: a write to a sequence entry waits for the next pass start. The register reads the new value at once. -/
def writeSeq (s : State) (x e v : Nat) (fs : List (Fld × Acc)) (off : Nat) : State :=
  if 47 < bits v 0 6 || 8 < bits v 12 4 then s
  else
    let old := seqNow s x e
    let t := writeFields s off fs v
    let c := convAt t x
    if seqWord t x e = old then t
    else setConv t x { c with oldSeq := (e, old) :: c.oldSeq.filter fun p => p.1 != e }

/-- R437, R451: a write to HKC_CTRL: LEN waits for the next pass start, a rise of EN calibrates. -/
def writeHkCtrl (s : State) (x v : Nat) (fs : List (Fld × Acc)) (off : Nat) : State :=
  let old := lenNow s x
  let t := writeFields s off fs v
  let u := setConv t x { convAt t x with oldLen := some old }
  if t.flag (F.HKC_CTRL_EN x) && !s.flag (F.HKC_CTRL_EN x) then startSelfcal u x else u

/-! ### Cross-comparison (R454, R455) -/

/-- R441: an entry's average is fresh. -/
def freshNow (s : State) (x e : Nat) : Bool :=
  match (convAt s x).doneAt.find? fun p => p.1 = e with
  | some p => s.sys.raw ≤ p.2 + 8000000
  | none => false

/-- The mean code of an entry's readable average. -/
def meanCode (s : State) (x e : Nat) : Nat := divRound (s.get (F.HKC_ACC_SUM x e)) (2 ^ bits (seqNow s x e) 12 4)

/-- R454: a pair fails. -/
def pairFails (s : State) (k : Nat) : Bool :=
  let ea := s.get (F.HKC_XCMP_ENT_A k)
  let eb := s.get (F.HKC_XCMP_ENT_B k)
  let a := meanCode s 0 ea
  let b := meanCode s 1 eb
  let lo := s.get (F.HKC_XLIM_LO k)
  let hi := s.get (F.HKC_XLIM_HI k)
  s.get (F.HKC_XCMP_TOL k) < max a b - min a b || a < lo || hi < a || b < lo || hi < b || !freshNow s 0 ea || !freshNow s 1 eb

/-- R455: a pair fails at a second heartbeat in a row. -/
def pairFault (s : State) (k : Nat) : State :=
  let w := s.get F.HKC_XSTAT_XFAIL
  let t := (if w = 0 then s.set F.HKC_XSTAT_FIRST k else s).set F.HKC_XSTAT_XFAIL (setBit w k)
  if t.mode.scanning then raiseF3 t 0x0C02 k (.hold 6) else raiseFault t 2 0x0C02 k

/-- One pair at a heartbeat; a fault of the pair ends after 10 passing heartbeats (R645). -/
def comparePair (s : State) (k : Nat) : State :=
  let run := ((s.hkc.pass.find? fun p => p.1 = k).map fun p => p.2).getD 0
  let rest := s.hkc.pass.filter fun p => p.1 != k
  if !s.flag (F.HKC_XCMP_EN k) then { s with hkc := { s.hkc with pairFail := clearBit s.hkc.pairFail k, pass := rest } }
  else if pairFails s k then
    let t := { s with hkc := { s.hkc with pairFail := setBit s.hkc.pairFail k, pass := rest } }
    if bit s.hkc.pairFail k then pairFault t k else t
  else
    let t := { s with hkc := { s.hkc with pairFail := clearBit s.hkc.pairFail k, pass := (k, min 10 (run + 1)) :: rest } }
    if 9 ≤ run then clearF3 t 0x0C02 k else t

/-- R454, R478: the heartbeat of every 1 ms; upset says that a failure inside an evaluator changes what it reports. -/
def execHeartbeat (upset : Bool) (s : State) : Host.Outcome State Fault Refusal :=
  if !safUp s then .next s else .next (heartbeatCompare ((List.range 8).foldl comparePair s) upset)

end Sys2Proof.Machine
end

