-- ==== Sys2Proof/Machine/System.lean ====
section
/-! DEFINITION. The commands of the system and diagnosis groups (R148), and the changes of state that SET_STATE asks for
(R89, R90). -/

namespace Sys2Proof.Machine

/-- R148: NOP. -/
def execNop (port : Port) (tag : Nat) (s : State) : Host.Outcome State Fault Refusal :=
  withCmd s port tag 0x0100 (fun s c => stdCheck s c false false false) fun s c => finishOk s c 0

/-- R148: GET_INFO. -/
def execGetInfo (port : Port) (tag : Nat) (s : State) : Host.Outcome State Fault Refusal :=
  withCmd s port tag 0x0101 (fun s c => stdCheck s c false false false) fun s c =>
    finishOk s c (s.sys.fw.version + 2 ^ 32 * cmdInfo s)

/-- R148: RESET completes, and the device reset follows 1 ms later. -/
def execReset (port : Port) (tag : Nat) (s : State) : Host.Outcome State Fault Refusal :=
  withCmd s port tag 0x0103 (fun s c => stdCheck s c false false false) fun s c =>
    let t := s.set F.SYS_RESET_CAUSE_CMD 1
    finishOk { t with cmd := { t.cmd with resetDue := true } } c 0

/-- R334: SET_POWER_CAP. -/
def execSetPowerCap (port : Port) (tag : Nat) (s : State) : Host.Outcome State Fault Refusal :=
  withCmd s port tag 0x0104 (fun s c => stdCheck s c false false false) fun s c =>
    finishOk (s.set F.SCH_CAP_CAP (c.dw 4)) c (s.get F.SCH_CAP_CAP)

/-! ### State changes (R31, R32, R89, R90) -/

/-- SET_STATE's checks: the arming (R32); a change of state in progress, which R90 and R114 answer with BUSY whatever the state and
the target, but for the target READY of a stopped start-up (R112; log entry 61); the transitions table; and a long operation on the
clusters in progress (R133). -/
def setStateCheck (s : State) (c : Cmd) : Option Nat :=
  let t := c.dw 4
  let ok := (t = 1 && s.mode == .standby) || (t = 2 && s.mode == .ready) || (t = 3 && s.mode == .standby)
  let working := !s.cal.grooms.isEmpty || s.flag F.RXF_IMP_STATUS_BUSY || s.red.wait.isSome || holds s 0x0903
  if t = 1 && s.saf.armed then some St.badState
  else if changing s && !(t = 3 && startStopped s) then some St.busy
  else stdCheck s c false (!ok) (t = 2 && working)

/-- The start-up from STANDBY (R80, R97, R117, R330): HGE and THM up, a warm groom of every cluster, then excitation; a
start-up stopped at the excitation goes on there. -/
def startFromStandby (s : State) : State :=
  let t := (((s.set F.SYS_START_START_KIND 3).set F.SYS_START_READY_MS 0xFFFF).set F.SYS_START_GROOM_FULL 0)
  let u := { clustersCold t with sys := { t.sys with startAt := t.sys.raw } }
  let v := { u with emi := { u.emi with banks := u.emi.banks.map fun (b : Bank) => { b with dT := Frac.ofNat 0, acc := 0 } } }
  if s.step = 6 then v
  else startAt { v with cal := { v.cal with grooms := v.cal.grooms ++
    [{ cmd := none, full := false, mask := 0x1FFFF, background := false, startUp := true, release := false, waiting := false,
       refused := 0 }] } } 5

/-- R148: SET_STATE. The final completion of a request for SLEEP is written before the handshake (R583). -/
def execSetState (port : Port) (tag : Nat) (s : State) : Host.Outcome State Fault Refusal :=
  withCmd s port tag 0x0102 setStateCheck fun s c => begin_ s c fun t c =>
    let u := { t with sys := { t.sys with trans := some { target := c.dw 4, cmd := some (c.port, c.tag) } } }
    if c.dw 4 = 1 then (if c.discard then beginShake (finishOk u c 1) else finishOk u c 1)
    else if c.dw 4 = 3 then startFromStandby u else u

/-- HGE, THM and the clusters go off (R74, R89); outside READY and SCAN a return to REF_IN waits no longer (R85). -/
def leaveReady (s : State) : State :=
  returnAnyway (setMode (setClusters ((thmOff s).set F.RXF_APDB_STAT_SETTLED 0) Cl.off) .standby)

/-- R89, R90: a requested transition completes: to STANDBY, or to READY once the excitation step has ended. -/
def execStateChangeDone (s : State) : Host.Outcome State Fault Refusal :=
  match s.sys.trans with
  | none => .next s
  | some x =>
    let done (t : State) : State := finishRunning { t with sys := { t.sys with trans := none } } 0x0102 St.done x.target
    if x.target = 2 && s.mode == .ready then .next (done (leaveReady s))
    else if x.target = 3 && s.mode == .ready && s.step = 0 then .next (done s)
    else .next s

/-! ### ABORT (R150) -/

/-- The long operation that a source started with a tag. -/
def operation (s : State) (p : Port) (tag : Nat) : Option Cmd :=
  s.cmd.cmds.find? fun (c : Cmd) => c.port == p && c.tag == tag && c.first && c.phase != .done

/-- ABORT naming an operation that is not A* is a wrong parameter. -/
def abortCheck (s : State) (c : Cmd) : Option Nat :=
  match operation s c.port (c.dw 4 % 2 ^ 16) with
  | some x => if opStops x.opcode then stdCheck s c false false false else some St.badParam
  | none => stdCheck s c false false false

/-- The grooms of a list are stopped (R613). -/
def stopGrooms (s : State) (p : Groom → Bool) : State := (s.cal.grooms.filter p).foldl abortGroom s

/-- A change of state is given up: a start-up from STANDBY goes back to it, with HGE, THM and the clusters off. -/
def stopChange (s : State) : State :=
  let back := s.mode == .standby && (s.step = 5 || s.step = 6) && s.sys.trans.isSome
  let t := { s with sys := { s.sys with trans := none } }
  if back then startAt (setClusters (stopGrooms t (·.startUp)) Cl.off) 0 else t

/-- A flat field is given up without a result. -/
def stopFfc (s : State) : State :=
  setThm { s.set F.THM_STATUS_FFC_BUSY 0 with pins := { s.pins with shutOpen := true } } fun x => { x with run := none }

/-- What a long operation leaves behind when it is stopped: an A* operation by ABORT (R150, R613), any other one by a
switch-over of the herd controller's pairs (R37). -/
def stopOperation (s : State) (x : Cmd) : State :=
  match x.opcode with
  | 0x0102 => stopChange s
  | 0x0202 => { s with sch := { s.sch with stop := none } }
  | 0x0203 => { s.set F.SCH_STATUS_SWITCH_PEND 0 with sch := { s.sch with switchTo := none } }
  | 0x0301 => { s with yrd := { s.yrd with revoke := none } }
  | 0x0400 => setThm s fun y => { y with cfgWait := none }
  | 0x0403 => stopFfc s
  | 0x0700 => stopGrooms s fun (g : Groom) => g.cmd == some (x.port, x.tag)
  | 0x0701 => s.set F.CAL_STATUS_STORE_BUSY 0
  | 0x0703 =>
    let t := if s.get F.RXF_SPARE_STATUS_PHASE = 1 || s.get F.RXF_SPARE_STATUS_PHASE = 2 then
        (s.set F.RXF_SPARE_STATUS_PHASE 0).set (clst 16) Cl.cold else s
    rerunCls { t with cal := { t.cal with spare := none } }
  | 0x0704 =>
    let t := stopGrooms s (·.release)
    { t with cal := { t.cal with spare := none } }
  | 0x0801 => { s with prt := { s.prt with retrain := none } }
  | 0x0802 => { s with acq := { s.acq with tbMax := none } }
  | 0x0902 =>
    let t := s.set F.RXF_IMP_STATUS_BUSY 0
    { t with rxf := { t.rxf with impFrom := none } }
  | _ => s

/-- R150: ABORT. -/
def execAbort (port : Port) (tag : Nat) (s : State) : Host.Outcome State Fault Refusal :=
  withCmd s port tag 0x0105 abortCheck fun s c =>
    match operation s c.port (c.dw 4 % 2 ^ 16) with
    | some x => finishOk (finish (stopOperation s x) x St.aborted 0 0) c 1
    | none => finishOk s c 0

/-! ### Switch-over (R36, R37) -/

/-- The completions that the new active pair takes back: the first ones, not written yet, of every fetched command but
HERD_SWITCH. -/
def takenBack (s : State) : List Comp :=
  s.cmd.comps.filter fun (x : Comp) => x.first && !s.cmd.cmds.any fun (c : Cmd) => c.opcode == 0x0106 && x.of c

/-- R37: every fetched command whose first completion has not been written ends with ABORTED, but for HERD_SWITCH, which the
switch-over ends: an operation that was accepted without its ACCEPTED written stops. -/
def abortFetched (s : State) : State :=
  let firsts := takenBack s
  let again (x : Comp) : Bool := firsts.any fun (y : Comp) => y.port == x.port && y.tag == x.tag && y.index == x.index
  let comps := s.cmd.comps.filterMap fun (x : Comp) =>
    if !again x then some x
    else if x.first then some { x with status := St.aborted, detail := 0, final := true, result := 0, out := [] } else none
  let cmds := s.cmd.cmds.map fun (c : Cmd) => if firsts.any (·.of c) then { c with phase := .done, first := true } else c
  let stopped := s.cmd.cmds.filter fun (c : Cmd) => opLong c.opcode && firsts.any (·.of c)
  let t := stopped.foldl stopOperation { s with cmd := { s.cmd with comps := comps, cmds := cmds } }
  cmds.foldl (fun (u : State) (c : Cmd) => if c.first then u else finish u c St.aborted 0 0) t

/-- R36, R37, R148: the standby pair takes control. A standby that has gone out of service since a HERD_SWITCH was accepted
takes none, and the command ends with HW_FAULT. -/
def execSwitchOverDone (s : State) : Host.Outcome State Fault Refusal :=
  if !s.red.switching || !ctlUp s then .next s
  else
    let still (t : State) : State := { t with red := { t.red with switching := false } }
    if !standbyOk s then .next (finishRunning (still s) 0x0106 St.hwFault 0)
    else
      let a := 1 - herdActive s
      let t := (abortFetched s).set F.RED_HERD_ACTIVE a
      .next (finishRunning (still (t.inc F.RED_HERD_SWITCH_CNT)) 0x0106 St.done a)

/-! ### Diagnosis -/

/-- A fault record as 16 bytes (R638). -/
def faultBytes (r : FaultRec) : List Byte :=
  leBytes 4 (r.code + 2 ^ 16 * r.cls + 2 ^ 19 * b2n r.active + 2 ^ 20 * b2n r.noReact + 2 ^ 24 * r.occ) ++ leBytes 4 r.detail
    ++ leBytes 8 r.time

/-- R640: DIAG_READ_FAULTS writes whole records, oldest first. -/
def execDiagReadFaults (port : Port) (tag : Nat) (s : State) : Host.Outcome State Fault Refusal :=
  withCmd s port tag 0x0900 (fun s c => stdCheck s c false false false) fun s c =>
    finishOut s c (s.faults.foldl (fun l r => l ++ faultBytes r) []) 16

/-- R640: DIAG_CLEAR_FAULTS removes the inactive records and clears the first-fault latch. -/
def execDiagClearFaults (port : Port) (tag : Nat) (s : State) : Host.Outcome State Fault Refusal :=
  withCmd s port tag 0x0901 (fun s c => stdCheck s c false false false) fun s c =>
    let gone := (s.faults.filter fun (r : FaultRec) => !r.active).length
    let t := s.set F.SYS_FAULT_FIRST_VALID 0
    finishOk { t with faults := t.faults.filter fun (r : FaultRec) => r.active } c gone

/-- R185: DIAG_IMPEDANCE needs SETTLED; a check or a groom in progress holds the clusters (R133). -/
def diagImpedanceCheck (s : State) (c : Cmd) : Option Nat :=
  stdCheck s c false (!s.flag F.RXF_APDB_STAT_SETTLED)
    (s.flag F.RXF_IMP_STATUS_BUSY || !s.cal.grooms.isEmpty || s.sys.trans.isSome || s.red.wait.isSome)

/-- R183: DIAG_IMPEDANCE. -/
def execDiagImpedance (port : Port) (tag : Nat) (s : State) : Host.Outcome State Fault Refusal :=
  withCmd s port tag 0x0902 diagImpedanceCheck fun s c => begin_ s c fun t c => startImpedance t (c.dw 4 % 2 ^ 17)

/-- R148: DIAG_SELF_TEST; one runs at a time. -/
def execDiagSelfTest (port : Port) (tag : Nat) (s : State) : Host.Outcome State Fault Refusal :=
  withCmd s port tag 0x0903 (fun s c => stdCheck s c false false (s.sys.trans.isSome || holds s 0x0903)) fun s c =>
    begin_ s c fun t _ => t

/-- R148: the self-tests end; failed is the mask of tests that fail, of which those asked for are reported. -/
def execSelfTestDone (failed : Nat) (s : State) : Host.Outcome State Fault Refusal :=
  match runningCmd s 0x0903 with
  | some c => .next (finishOk s c (failed &&& c.dw 4))
  | none => .next s

/-- R148: DIAG_READ_COUNTERS. The spec gives its data no layout: how many bytes it writes and what they are is free. -/
def execDiagReadCounters (port : Port) (tag : Nat) (s : State) : Host.Outcome State Fault Refusal :=
  withCmd s port tag 0x0904 (fun s c => stdCheck s c false false false) fun s c =>
    let (n, t) := s.takeFree 32
    let len := n % (64 * c.paramLen + 1)
    let (v, u) := t.takeFree (8 * len)
    finishOut u c (leBytes len v) 1

end Sys2Proof.Machine
end

