-- ==== Sys2Proof/Machine/Ring.lean ====
section
/-! DEFINITION. The command and completion rings (chapter 05): fetching and its checks, host buffers, completions and their
notification. -/

namespace Sys2Proof.Machine

/-! ### The checks that the entry alone decides (R135, checks 1 to 3) -/

/-- R137, R138: whether an entry's version is accepted. -/
def versionOk (s : State) (v : Nat) : Bool :=
  v != 0 && (v = s.get F.CMD_INFO_CUR_MAJ || (s.flag F.CMD_INFO_PREV_VALID && v = s.get F.CMD_INFO_PREV_MAJ))

/-- Whether the opcode exists in the entry's version (R138): all do in the current one; which of them the previous major
version had is fixed by the firmware (log entry 24). -/
def versionHas (s : State) (c : Cmd) : Bool := c.version = s.get F.CMD_INFO_CUR_MAJ || Config.prevHas c.version c.opcode

/-- Inline dwords that an opcode uses, from dword 4 (R148). -/
def inlineUsed (op : Nat) : Nat :=
  if [0x0102, 0x0103, 0x0104, 0x0105, 0x0200, 0x0201, 0x0203, 0x0301, 0x0302, 0x0401, 0x0402, 0x0404, 0x0405, 0x0702, 0x0703,
      0x0800, 0x0902, 0x0903, 0x0A02].contains op then 1
  else if op = 0x0204 || op = 0x0700 then 2
  else if op = 0x0300 then 4
  else if op = 0x0205 then 5
  else if op = 0x0A04 then 8
  else 0

/-- The values that R148 and the owning chapters give an opcode's inline dwords, in order: a dword and whether it is in
range. -/
def inlineValues (c : Cmd) : List (Nat × Bool) :=
  let d := c.dw
  let one : List (Nat × Bool) := [(4, d 4 ≤ 1)]
  match c.opcode with
  | 0x0102 => [(4, 1 ≤ d 4 && d 4 ≤ 3)]
  | 0x0103 => [(4, d 4 = 0)]
  | 0x0104 => [(4, 6000 ≤ d 4 && d 4 ≤ 30000)]
  | 0x0105 => [(4, d 4 < 2 ^ 16)]
  | 0x0200 => one
  | 0x0201 => one
  | 0x0203 => one
  | 0x0204 => [(4, slotOk (d 4)), (5, frameOk (d 4) (d 5))]
  | 0x0205 => [(4, d 4 < 4), (5, d 5 % 4096 = 0), (7, pointRingOk c), (8, d 8 ≤ 1)]
  | 0x0300 => [(4, d 4 % 65536 = 0), (6, d 6 != 0), (7, 1 ≤ d 7 && d 7 ≤ 3)]
  | 0x0301 => [(4, d 4 < 64)]
  | 0x0302 => [(4, d 4 ≤ 2)]
  | 0x0401 => one
  | 0x0402 => one
  | 0x0404 => one
  | 0x0405 => one
  | 0x0700 => [(4, d 4 ≤ 1), (5, d 5 < 2 ^ 17)]
  | 0x0702 => [(4, calRecordOk (d 4))]
  | 0x0703 => [(4, d 4 < 16)]
  | 0x0800 => [(4, d 4 ≤ 2)]
  | 0x0902 => [(4, d 4 < 2 ^ 17)]
  | _ => []

/-- Whether the inline bytes from a byte on are 0 in dword n (R124). -/
def inlineZeroFrom (c : Cmd) (used n : Nat) : Bool :=
  let o := 4 * (n - 4)
  if used ≤ o then c.dw n = 0 else if o + 4 ≤ used then true else c.dw n / 2 ^ (8 * (used - o)) = 0

/-- The first inline dword that is at fault (R124, R136, R148). -/
def inlineBad (c : Cmd) : Option Nat :=
  let used := min (4 * inlineUsed c.opcode) (if c.buf then 48 else c.paramLen)
  ((List.range 12).map (· + 4)).find? fun n =>
    !inlineZeroFrom c used n || (inlineValues c).any fun (e : Nat × Bool) => e.1 == n && !e.2

/-- R130: the tag is that of a command of the same source without a final completion. A command that runs on without one after
PERST# holds its tag no longer (log entry 93). -/
def tagTaken (s : State) (c : Cmd) : Bool :=
  s.cmd.cmds.any fun (x : Cmd) => x.port == c.port && x.tag == c.tag && !x.discard

/-- The PARAM_LEN that an opcode with a buffer must have, where its chapter fixes it (R406, R427). -/
def lenFixed (op : Nat) : Option Nat := if op = 0x0404 then some 2 else if op = 0x0406 then some 8192 else none

/-- Whether an opcode uses a host buffer. -/
def opBuf (op : Nat) : Bool := opReads op || opWrites op

/-- Checks 1 to 3 of R135 in their order: status and DETAIL of the first that fails (R123 to R125, R130, R139, R157, R406, R427). -/
def entryCheck (s : State) (c : Cmd) : Option (Nat × Nat) :=
  if !versionOk s c.version then some (St.badVersion, 0)
  else if !opcodes.contains c.opcode || !versionHas s c then some (St.badOpcode, 0)
  else if 16 ≤ c.flags || (c.signed && !opSigned c.opcode) || c.buf != opBuf c.opcode then some (St.badParam, 0)
  else if (c.buf && (c.paramLen = 0 || (lenFixed c.opcode).any (· != c.paramLen))) || (!c.buf && 48 < c.paramLen) || (c.port == .mgmt && c.buf && 1022 < c.paramLen) then
    some (St.badParam, 1)
  else match inlineBad c with
    | some n => some (St.badParam, n)
    | none =>
      if tagTaken s c then some (St.badParam, 0x7D)
      else if c.buf && c.port == .ring && c.bufAddr % 64 != 0 then some (St.badParam, 2)
      else none

/-- The command that 16 entry dwords spell (R122). An entry of the previous version is read with the same layout (log entry
24). -/
def parseEntry (port : Port) (index : Nat) (e : List Dword) (data : List Byte) : Cmd :=
  let d (n : Nat) : Nat := (e.getD n 0).toNat
  { port := port, tag := d 1 % 2 ^ 16, index := index, opcode := d 0 % 2 ^ 16, flags := bits (d 0) 16 8, version := bits (d 0) 24 8,
    paramLen := d 1 / 2 ^ 16, bufAddr := d 2 + 2 ^ 32 * d 3, inl := (List.range 12).map fun i => d (i + 4), data := data,
    counter := 0, phase := .fetched, first := false, discard := false }

/-- A command joins the others of its source; one whose entry fails a check ends at once. -/
def takeEntry (s : State) (c : Cmd) : State :=
  match entryCheck s c with
  | some (st, d) =>
    let t := queueComp s c st d (resultOf s st 0) true []
    { t with cmd := { t.cmd with cmds := t.cmd.cmds ++ [{ c with phase := .done, first := true }] } }
  | none => { s with cmd := { s.cmd with cmds := s.cmd.cmds ++ [c] } }

/-! ### The rings -/

/-- R119, R165: every command fetched from the ring has its final completion. After CMP_WR_ERR none can be written. -/
def ringIdle (s : State) : Bool :=
  let mine := s.cmd.cmds.filter fun (c : Cmd) => c.port == .ring && !c.discard
  mine.all fun (c : Cmd) => s.cmd.cmpStop && c.phase == .done

/-- The rings are enabled (R119). Completions that CMP_WR_ERR held are given up. -/
def enableRings (s : State) : State :=
  let t := ((((s.set F.CMD_CTRL_EN 1).set F.CMD_HEAD 0).set F.CMP_TAIL_TAIL 0).set F.CMP_TAIL_PHASE 1)
  { t with cmd := { t.cmd with tail := 0, head := 0, cmpStop := false, unnotified := 0, cmpSource := false,
                               cmds := t.cmd.cmds.filter (fun (c : Cmd) => c.port == .mgmt || c.phase != .done),
                               comps := t.cmd.comps.filter fun (c : Comp) => c.port == .mgmt } }

/-- The drain ends and EN reads 0 (R119). -/
def endDrain (s : State) : State :=
  let t := s.set F.CMD_CTRL_EN 0
  { t with cmd := { t.cmd with draining := false } }

/-- R119, R129: a write of CMD_CTRL. -/
def writeCmdCtrl (s : State) (v : Nat) : State :=
  let t := s.put F.CMD_CTRL_CMP_IRQ_EN (bit v 1)
  let en := t.flag F.CMD_CTRL_EN
  if bit v 0 then if en then t else enableRings t
  else if !en then t
  else if ringIdle t then endDrain t
  else { t with cmd := { t.cmd with draining := true } }

/-- R119: a write of EN. -/
def execCmdCtrlWrite (value : Dword) (s : State) : Host.Outcome State Fault Refusal :=
  if ctlUp s then .next (writeCmdCtrl s value.toNat) else .next s

/-- R119: every fetched command has its final completion. -/
def execRingDrainDone (s : State) : Host.Outcome State Fault Refusal :=
  if s.cmd.draining && ringIdle s then .next (endDrain s) else .next s

/-- R120, R152: a write of CMD_DB0. A doorbell equal to the present tail has no effect. -/
def writeDb0 (s : State) (v : Nat) : State :=
  let t := v % 4096
  if !s.flag F.CMD_CTRL_EN || t = s.cmd.tail then s else { s with cmd := { s.cmd with tail := t, fetchStop := false } }

/-- R120: the command doorbell. -/
def execCmdDb0 (value : Dword) (s : State) : Host.Outcome State Fault Refusal :=
  if ctlUp s then .next (writeDb0 s value.toNat) else .next s

/-- Whether the device fetches the next ring entry (R101, R119, R120, R152). -/
def fetches (s : State) : Bool :=
  ctlUp s && s.flag F.SYS_STATUS_CMD_LIVE && s.flag F.CMD_CTRL_EN && !s.cmd.draining && !s.cmd.fetchStop
    && s.get F.CMD_HEAD != s.cmd.tail && pcieUsable s

/-- R132, R152: the next entry is fetched and checked; err says that its read returned an error completion. -/
def execCommandFetch (entry : List Dword) (err : Bool) (s : State) : Host.Outcome State Fault Refusal :=
  if !fetches s then .next s
  else
  let s := sendRead s (4096 * s.get F.CMD_RING_BASE + 64 * s.get F.CMD_HEAD) 64
  if err then
    let t := s.set F.CMD_STATUS_FETCH_ERR 1
    .next { t with cmd := { t.cmd with fetchStop := true } }
  else
    let h := s.get F.CMD_HEAD
    .next (takeEntry (s.set F.CMD_HEAD ((h + 1) % 4096)) (parseEntry .ring h entry []))

/-! ### Host buffers (R125, R692) -/

/-- Stage 1 of R692 for an opcode that reads a buffer. -/
def readerCheck (s : State) (c : Cmd) : Option Nat :=
  match c.opcode with
  | 0x0200 => loadProgCheck s c
  | 0x0400 => thmConfigCheck s c
  | 0x0401 => thmLoadCorrCheck s c
  | 0x0404 => thmLoadCoefCheck s c
  | 0x0406 => thmLoadReglutCheck s c
  | 0x0502 => safArmCheck s c
  | 0x0600 => acqConfigCheck s c
  | 0x0A02 => fwStageCheck s c
  | 0x0500 => safLoadCheck s c
  | 0x0501 => safLoadCheck s c
  | 0x0A05 => stdCheck s c false false (holds s 0x0A05)
  | _ => stdCheck s c false false false

/-- Stage 2 of R692 for the contents of a buffer. -/
def contentsCheck (s : State) (c : Cmd) (b : List Byte) : Option (Nat × Nat) × State :=
  let bad (ok : Bool) : Option (Nat × Nat) × State := (if ok then none else some (St.badParam, 0x7C), s)
  match c.opcode with
  | 0x0200 => loadProgContents s b
  | 0x0400 => bad (configOk s b)
  | 0x0401 => bad (pieceOk s (c.dw 4 % 2) b)
  | 0x0406 => bad (lutOk b)
  | 0x0600 => bad (acqConfigOk b)
  | 0x0A02 => (if 2 ^ 23 < c.dw 4 + b.length then some (St.resource, 0) else none, s)
  | 0x0A05 => bad (reprovOk s b)
  | op => safContents s op b

/-- A command with what its buffer held: the payload of a signed block, else all of it. -/
def withData (c : Cmd) (b : List Byte) : Cmd :=
  if opSigned c.opcode then { c with data := blockPayload b, counter := leAt b 0x20 8, phase := .ready }
  else { c with data := b, phase := .ready }

/-- The read of a command's buffer begins: a long operation receives ACCEPTED (R692). -/
def beginRead (s : State) (c : Cmd) : State × Cmd :=
  if opLong c.opcode then
    let t := queueComp s c St.accepted 0 0 false []
    (replaceCmd t c { c with first := true }, { c with first := true })
  else (s, c)

/-- The buffer has been read (R692): the signed block, the contents, the locks and the storage are checked. -/
def checkBuffer (s : State) (c : Cmd) (b : List Byte) : State :=
  let (r, t) := if opSigned c.opcode then checkBlock s c b else (none, s)
  match r with
  | some (st, d) => refuse t c st d
  | none =>
    let d := withData c b
    match contentsCheck t c d.data with
    | (some (st, n), u) => refuse u c st n
    | (none, u) => replaceCmd u c d

/-- The oldest command of a source and a tag that waits for its buffer and may start. -/
def readerOf (s : State) (p : Port) (tag : Nat) : Option Cmd :=
  match s.cmd.cmds.find? fun (c : Cmd) => c.port == p && c.tag == tag && c.phase == .fetched with
  | some c => if opReads c.opcode && startable s c then some c else none
  | none => none

/-- R125, R157, R692: a command's host buffer has been read. On the management port it came with the frame; over PCIe
data is what the host's memory held, and err an error or poisoned completion. -/
def execBufferReadDone (port : Port) (tag : Nat) (err : Bool) (data : List Byte) (s : State) :
    Host.Outcome State Fault Refusal :=
  match readerOf s port tag with
  | none => .next s
  | some c =>
    match readerCheck s c with
    | some st => .next (refuse s c st (checkDetail st))
    | none =>
      let (t, d) := beginRead s c
      let n := 64 * c.paramLen
      match port with
      | .mgmt => .next (checkBuffer t d (fixLen n c.data))
      | .ring =>
        if !pcieUsable t then .next (finish t d St.timeout 0 0)
        else
          let u := sendRead t d.bufAddr n
          if err then .next (finish u d St.badParam 0x7E 0) else .next (checkBuffer u d (fixLen n data))

/-- R125: a buffer read gets no completion within 50 ms. -/
def execBufferTimeout (tag : Nat) (s : State) : Host.Outcome State Fault Refusal :=
  match readerOf s .ring tag with
  | none => .next s
  | some c =>
    match readerCheck s c with
    | some st => .next (refuse s c st (checkDetail st))
    | none =>
      let (t, d) := beginRead (s.inc F.LNK_PCIE_ERR_CTO) c
      .next (finish (if pcieUsable t then sendRead t d.bufAddr (64 * d.paramLen) else t) d St.timeout 0 0)

/-! ### Completions (R126 to R129) -/

/-- The 16 bytes of a completion (R126). -/
def compBytes (x : Comp) (phase : Nat) : List Byte :=
  leBytes 4 (x.tag + 2 ^ 16 * x.status + 2 ^ 24 * x.detail + 2 ^ 31 * phase)
    ++ leBytes 4 (x.index + 2 ^ 12 * b2n x.final + 2 ^ 13 * b2n (x.port == .mgmt)) ++ leBytes 8 x.result

/-- R129: the completions written so far are notified. -/
def notifyComps (s : State) : State :=
  if s.flag F.CMD_CTRL_CMP_IRQ_EN && s.cmd.unnotified != 0 then { s with cmd := { s.cmd with unnotified := 0, cmpSource := true } } else s

/-- A written completion leaves the list, and its command with it when it is final. -/
def dropComp (s : State) (x : Comp) : State :=
  let t := { s with cmd := { s.cmd with comps := s.cmd.comps.erase x } }
  let u := if x.final then
      match t.cmd.cmds.find? fun (c : Cmd) => x.of c && c.phase == .done with
      | some c => { t with cmd := { t.cmd with cmds := t.cmd.cmds.erase c } }
      | none => t
    else t
  if asksSleep s x then beginShake u else u

/-- The oldest completion that waits for a source. -/
def nextComp (s : State) (p : Port) : Option Comp := s.cmd.comps.find? (·.port == p)

/-- R127 to R129: one completion is written into the ring. -/
def writeComp (s : State) (x : Comp) : State :=
  let n := s.get F.CMP_TAIL_TAIL
  let t := dropComp (sendMem s (4096 * s.get F.CMP_RING_BASE + 16 * n) (compBytes x (s.get F.CMP_TAIL_PHASE))) x
  let u := if n + 1 = ringSize s then (t.set F.CMP_TAIL_TAIL 0).set F.CMP_TAIL_PHASE (1 - s.get F.CMP_TAIL_PHASE)
    else t.set F.CMP_TAIL_TAIL (n + 1)
  let v := { u with cmd := { u.cmd with unnotified := u.cmd.unnotified + 1 } }
  if x.imm || max 1 (v.get F.CMP_NOTIFY_COUNT) ≤ v.cmd.unnotified then notifyComps v else v

/-- Whether a completion can be written into the ring now (R127, R152). -/
def canWriteComp (s : State) : Bool :=
  !s.cmd.cmpStop && !ringFull s && pcieUsable s && s.flag F.CMD_CTRL_EN && ctlUp s

/-- R127, R152: a completion is written, or held while the ring is full or nothing may be sent; err says that the write
fails. On the management port at most 32 are kept (R161). -/
def execCompletionWrite (port : Port) (err : Bool) (s : State) : Host.Outcome State Fault Refusal :=
  match nextComp s port with
  | none => .next s
  | some x =>
    match port with
    | .mgmt =>
      if 32 ≤ s.cmd.mgmtComps.length then .next s
      else
        let t := dropComp s x
        .next { t with cmd := { t.cmd with mgmtComps := t.cmd.mgmtComps ++ [x] } }
    | .ring =>
      if !canWriteComp s then .next s
      else if err then
        let t := s.set F.CMD_STATUS_CMP_WR_ERR 1
        .next { t with cmd := { t.cmd with cmpStop := true } }
      else .next (writeComp s x)

/-- R128, R129: a write of CMD_DB1 releases completions. -/
def writeDb1 (s : State) (v : Nat) : State :=
  let t := { s with cmd := { s.cmd with head := v % 2 ^ 14 } }
  let n := unreleased t
  let k := min t.cmd.unnotified n
  { t with cmd := { t.cmd with unnotified := k, cmpSource := t.cmd.cmpSource && k < n } }

/-- R128: the completion doorbell. -/
def execCmdDb1 (value : Dword) (s : State) : Host.Outcome State Fault Refusal :=
  if ctlUp s then .next (writeDb1 s value.toNat) else .next s

/-- R129: TIME microseconds have passed since the oldest unnotified completion was written. -/
def execCmpNotifyTimer (s : State) : Host.Outcome State Fault Refusal :=
  if s.get F.CMP_NOTIFY_TIME = 0 then .next s else .next (notifyComps s)

end Sys2Proof.Machine
end

