-- ==== Sys2Proof/Machine/Regs.lean ====
section
/-! DEFINITION. Register accesses (R8 to R16, R648 to R650): what a register reads, the shadow and the held write of a
_LO/_HI pair on each access path, and what a write does in each block. -/

namespace Sys2Proof.Machine

/-! ### Registers that show what the state holds elsewhere -/

/-- The SYS block: SYS_STATUS, SYS_FAULT_QUEUE and the fault log (R115, R638, R642). -/
def sysViews (s : State) (x : Nat) : List (Fld × Nat) :=
  if x = 0x8 then
    [F.SYS_STATUS_STATE, F.SYS_STATUS_READY, F.SYS_STATUS_DEGRADED, F.SYS_STATUS_GUARD_PEND].map fun f => (f, f.of (statusWord s))
  else if x = 0x34 then (List.range 4).map fun k => (F.SYS_FAULT_QUEUE_DEPTH k, queueDepth s k)
  else if x = 0x60 then [(F.SYS_FAULT_LOG_ENTRIES, s.faults.length)]
  else if 0x400 ≤ x && x < 0x800 then
    let i := (x - 0x400) / 16
    let j := (x - 0x400) % 16 / 4
    match s.faults[i]? with
    | some r => [(F.SYS_FAULT_ENTRY i j, leAt (faultBytes r) (4 * j) 4)]
    | none => []
  else []

/-- The shed states (R74 to R76). -/
def shdViews (s : State) (x : Nat) : List (Fld × Nat) :=
  if x = 0x10000 then
    [(F.SHD_STATE_CTL, ctlUp s), (F.SHD_STATE_LNK, lnkUp s), (F.SHD_STATE_PRT, prtUp s), (F.SHD_STATE_MEM, safUp s),
      (F.SHD_STATE_HGE, hgeUp s), (F.SHD_STATE_THM, thmUp s), (F.SHD_STATE_EMI, emiUp s), (F.SHD_STATE_SAFA, safUp s),
      (F.SHD_STATE_SAFB, safUp s), (F.SHD_STATE_HKA, hkUp s), (F.SHD_STATE_HKB, hkUp s)].map fun (e : Fld × Bool) => (e.1, b2n e.2)
  else []

/-- Management commands without a final completion, those among them that a held frame carries included (R99, R161). -/
def outstanding (s : State) : Nat :=
  (s.cmd.cmds.filter fun (c : Cmd) => c.port == .mgmt).length + (s.cmd.held.filter fun (h : HeldFrame) => h.kind == 1).length

/-- MGMT_ALERT# is driven low (R163). -/
def alertLow (s : State) : Bool := s.cmd.resp.isSome || !s.cmd.mgmtComps.isEmpty

/-- The rings and the management port (R128, R161 to R163). -/
def cmdViews (s : State) (x : Nat) : List (Fld × Nat) :=
  if x = 0x20008 then
    [(F.CMD_STATUS_CMP_FULL, b2n (ringFull s)),
      (F.CMD_STATUS_IDLE, b2n (!s.cmd.cmds.any fun (c : Cmd) => c.port == .ring && !c.discard))]
  else if x = 0x20100 then
    [(F.MGMT_STAT_OUTSTANDING, outstanding s), (F.MGMT_STAT_HELD, b2n (mgmtHeld s)), (F.MGMT_STAT_ALERT, b2n (alertLow s))]
  else []

/-- Levels of the sources and of the vectors (R557, R565, R569). -/
def irqViews (s : State) (x : Nat) : List (Fld × Nat) :=
  if 0x30100 ≤ x && x < 0x30140 then
    let i := (x - 0x30100) / 4
    [(F.IRQ_LEVEL i, (List.range 32).foldl (fun w j => if sourceLevel s (32 * i + j) then setBit w j else w) 0)]
  else if 0x30280 ≤ x && x < 0x302C0 then
    let i := (x - 0x30280) / 4
    [(F.IRQ_SWCLR i, s.get (F.IRQ_SWSET i))]
  else if 0x30400 ≤ x && x < 0x30500 then
    let v := (x - 0x30400) / 4
    [(F.IRQ_VEC_STAT_LEVEL v, b2n (vectorLevel s v))]
  else if 0x31000 ≤ x && x < 0x31800 then
    let n := (x - 0x31000) / 4
    [(F.IRQ_SRC_CFG_LEVEL n, b2n (sourceLevel s n))]
  else []

/-- Stalls of owners other than the cells in a tier. -/
def heldStalls (s : State) (t : Tier) (owned : Nat → Bool) : Nat :=
  (s.yrd.stalls.filter fun (x : Stall) => x.at_.tier == t && owned x.owner).length

/-- The yard's use (R282, R283, R288, R300). A near yard without stalls is not full (R7; log entry 82). -/
def yrdViews (s : State) (x : Nat) : List (Fld × Nat) :=
  if x = 0x80018 then
    [(F.YRD_STATUS_NEAR_FULL, b2n (nearCap s != 0 && (freeLoc s .near 0).isNone)),
      (F.YRD_STATUS_SYNC_EVICT, b2n (s.get F.YRD_LOFT_WM_LOFT_HWM ≤ tierUsed s .loft))]
  else if x = 0x80020 then [(F.YRD_LOFT_USE_USED, tierUsed s .loft), (F.YRD_LOFT_USE_PINNED, heldStalls s .loft (· == 1))]
  else if x = 0x80024 then [(F.YRD_NEAR_USE, tierUsed s .near)]
  else if x = 0x80028 then [(F.YRD_NEAR_HELD, heldStalls s .near (· != 0))]
  else if x = 0x8002C then [(F.YRD_FAR_USE, tierUsed s .far)]
  else if x = 0x80030 then
    [(F.YRD_PROG_NEED, s.yrd.need)]
  else if 0x81000 ≤ x && x < 0x81800 && x % 0x20 = 0x10 then
    let w := (x - 0x81000) / 0x20
    [(F.YRD_GRANT_USED w, (s.yrd.stalls.filter fun (y : Stall) => y.at_.within .far w).length)]
  else []

/-- The scheduler's running figures (R333, R334); P_EST is that of a running scan (R7; log entry 82). -/
def schViews (s : State) (x : Nat) : List (Fld × Nat) :=
  if x = 0x90000 then [(F.SCH_STATUS_SLOT_NOW, if s.flag F.SCH_STATUS_RUNNING then s.sch.next - 1 else 0)]
  else if x = 0x90020 then [(F.SCH_CAP_P_EST, if s.flag F.SCH_STATUS_RUNNING then min (powerEstimate s 0) 0xFFFF else 0)]
  else if x = 0x90028 then [(F.SCH_SUPPLY_SUPPLY_NOW, min (energyNow s / 10) 0xFFFF)]
  else []

/-- The code of a pair state (pair states table). -/
def PairState.code : PairState → Nat
  | .disabled => 0
  | .forced => 1
  | .blocked => 2
  | .wait => 3
  | .on => 4

/-- The guards as SAF_GUARD shows them (R486 to R488). -/
def guardViews (s : State) : List (Fld × Nat) :=
  (List.range 4).foldl (fun l g =>
    let y := guardAt s g
    l ++ [(F.SAF_GUARD_CH_A g, b2n y.a), (F.SAF_GUARD_CH_B g, b2n y.b), (F.SAF_GUARD_DISC g, b2n y.disc), (F.SAF_GUARD_PEND g, b2n y.pend)]) []

/-- A pair as SAF_PAIR shows it to an evaluator (R481, R482, R485). -/
def pairViews (s : State) (d : Side) (n : Nat) : List (Fld × Nat) :=
  let w := match s.saf.cfg with | some c => causes s c d n | none => 0
  let p := pairAt s n
  [(F.SAF_PAIR_STATE n, ((s.ev d).pair n).code), (F.SAF_PAIR_EDM_PEND n, b2n p.edmPend), (F.SAF_PAIR_EDM n, b2n p.edm),
    (F.SAF_PAIR_SRB_A n, b2n (lineOn s (2 * n))), (F.SAF_PAIR_SRB_B n, b2n (lineOn s (2 * n + 1))), (F.SAF_PAIR_VIOL n, bits w 0 1),
    (F.SAF_PAIR_COVERAGE n, bits w 1 1), (F.SAF_PAIR_GUARD n, bits w 2 1), (F.SAF_PAIR_GUARD_PEND n, bits w 3 1),
    (F.SAF_PAIR_FSET n, bits w 4 1), (F.SAF_PAIR_EDM_NOT_READY n, bits w 5 1),
    (F.SAF_PAIR_FORCED n, b2n (!(s.saf.armed && s.mode == .scan)))]

/-- The safety block as an evaluator sees it (R464 to R488). -/
def safViews (s : State) (d : Side) (x : Nat) : List (Fld × Nat) :=
  let e := s.ev d
  if x = 0xD0000 then
    [(F.SAF_STATUS_CLEARABLE, b2n s.saf.clearable), (F.SAF_STATUS_COMMITTED, b2n s.saf.cfg.isSome),
      (F.SAF_STATUS_STAGED, b2n (!s.saf.staged.isEmpty)), (F.SAF_STATUS_ARMED, b2n s.saf.armed)]
  else if x = 0xD0004 then
    [(F.SAF_FSET_RAW, e.fsel), (F.SAF_FSET_OVERLAP, b2n (!e.replaced.isEmpty)), (F.SAF_FSET_PREV, e.replaced.headD 0),
      (F.SAF_FSET_VALID, match s.saf.cfg with | some c => b2n (bit c.setsEn e.fsel) | none => 0), (F.SAF_FSET_ACTIVE, e.active)]
  else if x = 0xD0008 then
    match s.saf.cfg with
    | some c => [(F.SAF_PAD_INCOMPLETE, incompleteMask d e (c.set e.active)),
        (F.SAF_PAD_VIOLATED, violatedMask e c.kFrames (c.set e.active) e.active)]
    | none => []
  else if x = 0xD0010 then guardViews s
  else if 0xD0040 ≤ x && x < 0xD0050 then pairViews s d ((x - 0xD0040) / 4)
  else []

/-- The remaining blocks. In interlock mode the level of HALTER while this device does not drive it is its partner's affair, and the
duty of a running bias loop is the loop's: free values (R58, R180). -/
def otherViews (s : State) (x : Nat) : List (Fld × Nat) :=
  if 0x40000 ≤ x && x < 0x51000 && 0x200 ≤ x % 0x1000 && x % 0x1000 < 0x300 then
    let p := (x - 0x40000) / 0x1000
    let j := (x % 0x1000 - 0x200) / 4
    [(F.RXF_CH_STAT_THR_ERR p j, b2n (edgeSetup s p j).2), (F.RXF_CH_STAT_RANGE_NOW p j, rangeShown s p j)]
  else if x = 0x51028 then
    [(F.RXF_APDB_STAT_DUTY, if apdbRuns s then Config.freeValue s.free % (s.get F.RXF_APDB_CTRL_DMAX + 1) else 0)]
  else if x = 0x70004 then [(F.HGE_STATUS_OPEN_CELLS, openCells s)]
  else if 0xA0080 ≤ x && x < 0xA00A0 then
    let b := (x - 0xA0080) / 4
    [(F.EMI_BANK_STAT_RCH_EST b, rchEst s b)]
  else if 0xC0200 ≤ x && x < 0xC8000 && 0x200 ≤ x % 0x4000 && x % 0x4000 < 0x300 && x % 8 = 0 then
    let c := (x - 0xC0000) / 0x4000
    let e := (x % 0x4000 - 0x200) / 8
    [(F.HKC_ACC_FRESH c e, b2n (freshNow s c e))]
  else if x = 0xE0020 then [(F.RED_CAL_VER_OWN, s.get F.CAL_VERSION_WORKING)]
  else if x = 0xE002C then [(F.RED_ILK_LEVEL, if s.pins.halter then 0 else if interlock s then Config.freeValue s.free % 2 else 1)]
  else if x = 0xF0104 then [(F.LNK_PRT_STATUS_STATE, prtState s)]
  else if x = 0x100000 then [(F.ACQ_STATUS_PRE_FULL, b2n (preFull s))]
  else if x = 0x10001C then [(F.ACQ_LOG_ENTRIES, s.acq.log.length)]
  else []

/-- Fields of the register at x that show what the state holds elsewhere, as evaluator d sees them in the safety block. -/
def views (s : State) (d : Side) (x : Nat) : List (Fld × Nat) :=
  match x / 0x10000 with
  | 0 => sysViews s x
  | 1 => shdViews s x
  | 2 => cmdViews s x
  | 3 => irqViews s x
  | 8 => yrdViews s x
  | 9 => schViews s x
  | 13 => safViews s d x
  | _ => otherViews s x

/-- The value that a write of RXF_OBS has for a field while it waits for the engine's average (R200). -/
def slicePending (s : State) (f : Fld) : Option Nat :=
  if 0x51100 ≤ f.off && f.off < 0x51180 then
    ((sliceAt s ((f.off - 0x51100) / 4)).bind fun (x : Slice) => x.pinPend).map f.of
  else none

/-- The value written last to a field that still waits for its boundary, FPA_FSYNC, code set or average (R8, R87, R200, R238). -/
def waiting (s : State) (f : Fld) : Option Nat :=
  match s.sys.refCfg with
  | some v => if f.off = F.CLK_REF_CFG_REF_SEL.off && f != F.CLK_REF_CFG_AUTO_RETURN then some (f.of v) else held f
  | none => held f
where
  held (f : Fld) : Option Nat :=
    ((s.hold ++ s.hge.code ++ s.thm.hold).reverse.find? fun (h : Held) => h.fld == f).map (·.val) <|> slicePending s f

/-- What a field reads: WO fields and reserved bits read 0, RW and RWL fields the value written last (R8, R10). -/
def readField (s : State) (l : List (Fld × Nat)) (e : Fld × Acc) : Nat :=
  let shown := (l.find? fun (v : Fld × Nat) => v.1 == e.1).map (·.2)
  match e.2 with
  | .wo => 0
  | a => (((if a == .rw || a == .rwl then waiting s e.1 else none) <|> shown).getD (s.get e.1)) % 2 ^ e.1.width

/-- What a register reads, 32 bits or the 64 of a pair. -/
def readFields (s : State) (d : Side) (x : Nat) (fs : List (Fld × Acc)) : Nat :=
  let l := views s d x
  fs.foldl (fun w e => w ||| readField s l e <<< e.1.lsb) 0

/-! ### Addressing -/

/-- A register that an access reaches: its offset, whether it is a _LO/_HI pair, its offset in the register tables, its
fields, and the evaluator whose window it lies in. -/
structure RegRef where
  base : Nat
  wide : Bool
  at_ : Nat
  fields : List (Fld × Acc)
  side : Side

/-- R191: the configuration, channel enables and channel states in the window of a cluster that CLS replaces are those of
CLS. -/
def windowOf (s : State) (x : Nat) : Nat :=
  if 0x40000 ≤ x && x < 0x50000 then
    let n := (x - 0x40000) / 0x1000
    let w := x % 0x1000
    if servedBy s n = 16 && (w < 0x4 || (0x8 ≤ w && w < 0x10) || (0x100 ≤ w && w < 0x300)) then 0x50000 + w else x
  else x

/-- Where the register tables have an offset: the window of evaluator B repeats that of A. -/
def tableOffset (s : State) (x : Nat) : Nat := if 0xD8000 ≤ x && x < 0xE0000 then x - 0x8000 else windowOf s x

/-- The size in bytes of the register of a table list that covers an offset. -/
def sizeAt : List RegSpec → Nat → Nat
  | [], _ => 4
  | r :: l, x => match r.find x with
    | some _ => r.size
    | none => sizeAt l x

/-- The register that covers a dword offset of BAR0. -/
def regRef (s : State) (x : Nat) : Option RegRef :=
  let y := tableOffset s x
  match regAt y with
  | some (off, fs) =>
    some { base := x - (y - off), wide := sizeAt (regSpecsOf y) y = 8, at_ := off, fields := fs,
           side := if 0xD8000 ≤ x && x < 0xE0000 then .b else .a }
  | none => none

/-- Whether the block at an offset answers: every block while CTL is up, otherwise only what AON and LNK hold (R13, R29,
R156). -/
def answers (s : State) (x : Nat) : Bool :=
  ctlUp s || x < 0x20000 || (0x20100 ≤ x && x < 0x20108) || (0x30800 ≤ x && x < 0x30900) || (0x120000 ≤ x && x < 0x130000)
    || (lnkUp s && 0xF0000 ≤ x && x < 0x100000)

/-- Whether an access path reaches BAR0: the endpoint's in its working states, the herd controller's while CTL is up. -/
def pathUp (s : State) (p : Access) : Bool :=
  match p with
  | .pcie => s.flag F.SYS_STATUS_PCIE_CFG && !s.pins.perst && s.link.up && !s.link.flr && !s.flag F.LNK_PCIE_STATUS_D3HOT
      && s.get F.LNK_PCIE_STATUS_PWR != 3
  | .mgmt => s.mode != .off
  | .herd => ctlUp s

/-! ### Reads (R648) -/

/-- An entry of the shadows or of the held writes. -/
def pairEntry (l : List (Access × Nat × Nat)) (p : Access) (base : Nat) : Option Nat :=
  (l.find? fun (e : Access × Nat × Nat) => e.1 == p && e.2.1 == base).map (·.2.2)

/-- The entries without that of a path and a pair. -/
def dropPair (l : List (Access × Nat × Nat)) (p : Access) (base : Nat) : List (Access × Nat × Nat) :=
  l.filter fun (e : Access × Nat × Nat) => !(e.1 == p && e.2.1 == base)

/-- The _HI half goes to the shadow of a path. -/
def setShadow (s : State) (p : Access) (base v : Nat) : State :=
  { s with link := { s.link with shadow := (p, base, v) :: dropPair s.link.shadow p base } }

/-- The low half is held on a path. -/
def setHeldLow (s : State) (p : Access) (base v : Nat) : State :=
  { s with link := { s.link with held := (p, base, v) :: dropPair s.link.held p base } }

/-- The free value that a read of RED_ILK or RXF_APDB_STAT has used is not used again. -/
def spendRead (s : State) (x : Nat) : State :=
  if (x = 0xE002C && !s.pins.halter && interlock s) || (x = 0x51028 && apdbRuns s) then { s with free := s.free + 1 } else s

/-- A dword read at an offset by a path: what it gives, and the state after it. -/
def readDword (s : State) (p : Access) (x : Nat) : Nat × State :=
  if !answers s x then (0, s)
  else match regRef s x with
    | none => (0, s)
    | some r =>
      let w := readFields s r.side r.at_ r.fields
      if !r.wide then (w, spendRead s x)
      else if x = r.base then (w % 2 ^ 32, setShadow s p r.base (w / 2 ^ 32))
      else ((pairEntry s.link.shadow p r.base).getD 0, s)

/-- R648: a read of a _LO register. -/
def execWideLoRead (path : Access) (off : Nat) (s : State) : Host.Outcome State Fault Refusal :=
  match regRef s off with
  | some r => if pathUp s path && r.wide && off = r.base then .next (readDword s path off).2 else .next s
  | none => .next s

/-! ### Writes -/

/-- R76: a write of SHD_ALLOW: a shed whose bit is cleared goes off, one that is allowed again comes up. -/
def writeAllow (s : State) (v : Nat) : State :=
  let t := writeAt s 0x10004 v
  let u := if thmUp s && !thmUp t then thmOff t
    else if !thmUp s && thmUp t && t.flag F.THM_CTRL_EN then startPath t else t
  if prtUp s && !prtUp u then linkOff u else if !prtUp s && prtUp u then startTraining u else u

/-- Writes to the SYS and SHD/CLK blocks. -/
def writeSys (s : State) (x v : Nat) : State :=
  if x = 0x30 then if 4 < F.SYS_FAULT_CTRL.of v then s else writeAt s x v
  else if x = 0x10004 then writeAllow s v
  else if x = 0x10040 then
    let t := writeAt s x v
    { t with irq := { t.irq with alarm := false } }
  else if x = 0x10104 then writeRefCfg s v
  else writeAt s x v

/-- Writes to the CMD block (R119, R120, R128): ring bases and the ring size are fixed while the rings run. -/
def writeCmd (s : State) (x v : Nat) : State :=
  if x = 0x20004 then writeCmdCtrl s v
  else if x = 0x20020 then writeDb0 s v
  else if x = 0x20040 then writeDb1 s v
  else if x = 0x20010 || x = 0x20030 then if s.flag F.CMD_CTRL_EN then s else writeAt s x v
  else if x = 0x20038 then
    let n := F.CMP_RING_SIZE.of v
    if s.flag F.CMD_CTRL_EN || n < 8 || 14 < n then s else writeAt s x v
  else writeAt s x v

/-- Writes to the IRQ block; MASK and HERD_EN of a source are the herd firmware's. -/
def writeIrq (s : State) (p : Access) (x v : Nat) : State :=
  if x = 0x30010 then hostEoi s (v % 64)
  else if 0x30200 ≤ x && x < 0x30240 then swSet s ((x - 0x30200) / 4) v
  else if 0x30280 ≤ x && x < 0x302C0 then swClr s ((x - 0x30280) / 4) v
  else if 0x31000 ≤ x && x < 0x31800 && p == .herd then
    let n := (x - 0x31000) / 4
    let t := writeAt s x v
    (t.put (F.IRQ_SRC_CFG_MASK n) (bit v 25)).put (F.IRQ_SRC_CFG_HERD_EN n) (bit v 24)
  else writeAt s x v

/-- Writes to the RXF block at an offset as accessed (R15, R176, R182, R191, R199). -/
def writeRxf (s : State) (x v : Nat) : State :=
  if x < 0x51000 then
    let n := (x - 0x40000) / 0x1000
    let w := x % 0x1000
    if 0x100 ≤ w && w < 0x200 then writeChCfg s n ((w - 0x100) / 4) v
    else if n = 16 && (writeWindow s 16).isNone then s
    else writeAt s (windowOf s x) v
  else if x = 0x51024 then writeApdbCtrl s v
  else if 0x51100 ≤ x && x < 0x51180 then writeObs s ((x - 0x51100) / 4) v
  else writeAt s x v

/-- Writes to the TDC block (R205, R218, R221, R227, R228). -/
def writeTdc (s : State) (x v : Nat) : State :=
  if x = 0x60020 then writePpsCfg s v
  else if 0x60100 ≤ x && x < 0x60140 then writeWinProf s ((x - 0x60100) / 4) v
  else if x = 0x60300 then writeFireCfg s v
  else if 0x60200 ≤ x && x < 0x60300 then
    if x % 0x40 = 0 then writeFmCtrl s ((x - 0x60200) / 0x40) v
    else if 0x602C0 ≤ x && s.flag F.TDC_FIRE_CFG_EN then s
    else writeAt s x v
  else writeAt s x v

/-- Writes to the HGE block (R237, R238, R267, R314). -/
def writeHge (s : State) (x v : Nat) : State :=
  if x = 0x70000 then if F.HGE_CTRL_PART_MODE.of v = 3 then s else writeAt s x v
  else if x = 0x70008 then writeCode s 16 v
  else if x = 0x7000C then writeDither s v
  else if x = 0x70020 then if F.HGE_DET_K.of v < 0x10 then s else writeAt s x v
  else if x = 0x70028 then if 10 < F.HGE_PART1_NAVG_MAX.of v then s else writeAt s x v
  else if 0x70040 ≤ x && x < 0x70080 then writeCode s ((x - 0x70040) / 4) v
  else if 0x70800 ≤ x && x < 0x70900 && x % 0x40 = 0x14 then writeRptr s ((x - 0x70800) / 0x40) v
  else writeAt s x v

/-- Writes to the YRD and SCH blocks (R278, R289). -/
def writeYard (s : State) (x v : Nat) : State :=
  if x = 0x80008 then writeMapCfg s v
  else if x = 0x8000C then
    let bg := F.YRD_LOFT_WM_LOFT_BG.of v
    let hwm := F.YRD_LOFT_WM_LOFT_HWM.of v
    if F.YRD_LOFT_WM_LOFT_LWM.of v < bg && bg ≤ hwm && hwm ≤ 768 then writeAt s x v else s
  else if x = 0x90080 then if F.SCH_HEAT_LIM_T_MARGIN.of v < 0x10 then s else writeAt s x v
  else writeAt s x v

/-- Writes to the EMI block (R345, R349, R364, R365, R366, R370). -/
def writeEmi (s : State) (x v : Nat) : State :=
  if x = 0xA0000 then
    let w := F.EMI_CTRL_PULSE_W.of v
    if w < 2 || 6 < w then s else writeAt s x v
  else if x = 0xA0004 then
    let t := if bit v F.EMI_STATUS_SWEEP_LATE.lsb then s.set F.EMI_STATUS_SWEEP_LATE 0 else s
    if bit v F.EMI_STATUS_INHIBIT.lsb then clearInhibit t else t
  else if x = 0xA0010 then writeBankReg s v
  else if 0xA0040 ≤ x && x < 0xA0060 then
    let w := (F.EMI_BANK_CFG_VSET 0).of v
    if w < 0x040 || 0xFBF < w then s else writeAt s x v
  else if x = 0xA0100 || x = 0xA0104 then lbtConfigWritten (writeAt s x v) ((x - 0xA0100) / 4)
  else if x = 0xA0200 then writeFlCtrl s v
  else if 0xA0204 ≤ x && x < 0xA0214 then writeFlDuty s ((x - 0xA0204) / 4) v
  else if x = 0xA0218 then
    if ofBits 16 (F.EMI_FL_TEMP_FL_TLIM.of v) < ofBits 16 (F.EMI_FL_TEMP_FL_TOFF.of v) then writeAt s x v else s
  else writeAt s x v

/-- Writes to a converter (R437, R440, R444, R451). -/
def writeConv (s : State) (c x v : Nat) (fs : List (Fld × Acc)) : State :=
  let o := x % 0x4000
  let plain := fs.filter fun (e : Fld × Acc) => e.2 != .w1s
  if o = 0 then writeHkCtrl s c v fs x
  else if o = 0x4 then
    let t := writeFields s x plain v
    if (F.HKC_CAL_SELFCAL c).of v = 1 then startSelfcal t c else t
  else if o = 0x80 then
    let t := writeFields s x plain v
    if (F.HKC_INJ_GO c).of v = 1 && hkUp t then requestInjection t c else t
  else if o = 0x90 then clearTrackers s c v
  else if 0x100 ≤ o && o < 0x180 then writeSeq s c ((o - 0x100) / 4) v fs x
  else writeFields s x fs v

/-- Writes to the LNK block (R600). -/
def writeLnk (s : State) (x v : Nat) (fs : List (Fld × Acc)) : State :=
  if x = 0xF0100 then
    let t := writeFields s x (fs.filter fun (e : Fld × Acc) => e.1 != F.LNK_PRT_CTRL_EN) v
    writePrtEn t (bit v F.LNK_PRT_CTRL_EN.lsb)
  else writeAt s x v

/-- Writes to the RED block (R526). -/
def writeRed (s : State) (x v : Nat) (fs : List (Fld × Acc)) : State :=
  if x = 0xE0000 then
    let t := writeFields s x (fs.filter fun (e : Fld × Acc) => e.1 != F.RED_CTRL_RELEASE) v
    if F.RED_CTRL_RELEASE.of v = 1 then releaseHalter t else t
  else writeAt s x v

/-- A write of a whole register: 32 bits, or the 64 of a pair. The window of evaluator B takes none. -/
def writeReg (s : State) (p : Access) (r : RegRef) (v : Nat) : State :=
  if r.side == .b then s
  else match r.base / 0x10000 with
    | 0 => writeSys s r.base v
    | 1 => writeSys s r.base v
    | 2 => writeCmd s r.base v
    | 3 => writeIrq s p r.base v
    | 4 => writeRxf s r.base v
    | 5 => writeRxf s r.base v
    | 6 => writeTdc s r.base v
    | 7 => writeHge s r.base v
    | 8 => writeYard s r.base v
    | 9 => writeYard s r.base v
    | 10 => writeEmi s r.base v
    | 11 => writeThm s false (r.base - 0xB0000) v
    | 12 => if r.base < 0xC8000 && r.base != 0xC0300 then writeConv s ((r.base - 0xC0000) / 0x4000) r.base v r.fields else writeAt s r.base v
    | 14 => writeRed s r.base v r.fields
    | 15 => writeLnk s r.base v r.fields
    | _ => writeAt s r.base v

/-- The low half that a write of the _HI register applies: the held one, or the present one (R649). -/
def lowHalf (s : State) (p : Access) (r : RegRef) : Nat :=
  (pairEntry s.link.held p r.base).getD (readFields s r.side r.at_ r.fields % 2 ^ 32)

/-- A dword write at an offset by a path (R8, R13, R649). -/
def writeDword (s : State) (p : Access) (x v : Nat) : State :=
  if !answers s x then s
  else match regRef s x with
    | none => s
    | some r =>
      if !r.wide then writeReg s p r v
      else if x = r.base then setHeldLow s p r.base v
      else
        let w := lowHalf s p r
        writeReg { s with link := { s.link with held := dropPair s.link.held p r.base } } p r (w + 2 ^ 32 * v)

/-- A qword write: a pair takes it in one operation and leaves shadow and held write (R11, R650); two single registers
take one dword each, the low one first. -/
def writeQword (s : State) (p : Access) (x v : Nat) : State :=
  match regRef s x with
  | some r =>
    if r.wide && x = r.base then if answers s x then writeReg s p r v else s
    else writeDword (writeDword s p x (v % 2 ^ 32)) p (x + 4) (v / 2 ^ 32)
  | none => writeDword (writeDword s p x (v % 2 ^ 32)) p (x + 4) (v / 2 ^ 32)

/-- Whether a path can write: the management port has no write request (R156). -/
def pathWrites (s : State) (p : Access) : Bool := p != .mgmt && pathUp s p

/-- R649: a write to a _LO register is held. -/
def execWideLoWrite (path : Access) (off : Nat) (value : Dword) (s : State) : Host.Outcome State Fault Refusal :=
  match regRef s off with
  | some r => if pathWrites s path && r.wide && off = r.base then .next (writeDword s path off value.toNat) else .next s
  | none => .next s

/-- R649: a write to a _HI register applies both halves. -/
def execWideHiWrite (path : Access) (off : Nat) (value : Dword) (s : State) : Host.Outcome State Fault Refusal :=
  match regRef s off with
  | some r => if pathWrites s path && r.wide && off = r.base + 4 then .next (writeDword s path off value.toNat) else .next s
  | none => .next s

/-- R8 to R13, R575, R576: a write to BAR0. One with partial byte enables is discarded, and so is a poisoned one, which is
counted, and one to an unassigned offset. The TST block answers in OPENED only (R14, R16): no rule gives its registers. -/
def execRegisterWrite (path : Access) (off : Nat) (qword : Bool) (value : BitVec 64) (full poisoned : Bool) (s : State) :
    Host.Outcome State Fault Refusal :=
  if !pathWrites s path then .next s
  else if poisoned then .next (if path == .pcie then s.inc F.LNK_PCIE_ERR_POISON else s)
  else if !full || 0x200000 ≤ off then .next s
  else if off % (if qword then 8 else 4) != 0 then .fault .bar0Unaligned
  else if 0x130000 ≤ off && off < 0x140000 && s.mode == .opened then .refused .tstBlock
  else if qword then .next (writeQword s path off value.toNat)
  else .next (writeDword s path off (value.toNat % 2 ^ 32))

end Sys2Proof.Machine
end

