-- ==== Sys2Proof/Machine/Mgmt.lean ====
section
/-! DEFINITION. The management port (R92, R99, R153 to R164): request frames, the response that waits, and frames held
until the herd firmware runs. -/

namespace Sys2Proof.Machine

/-- R159: a response waits; one that was unread is replaced. -/
def putResp (s : State) (kind seq : Nat) (body : List Byte) : State :=
  let t := if s.cmd.resp.isSome then s.set F.MGMT_STAT_RESP_LOST 1 else s
  { t with cmd := { t.cmd with resp := some (kind, seq, body) } }

/-- R164: a frame that fails is answered with FRAME_ERROR, and counted when its CRC failed. -/
def frameError (s : State) (seq code : Nat) : State :=
  putResp (if code = 1 then s.inc F.MGMT_CRC_CNT else s) 0x8F seq [BitVec.ofNat 8 code]

/-! ### Request frames (R154 to R156) -/

/-- TYPE, SEQ, LEN and body of a frame. -/
def reqType (b : List Byte) : Nat := leAt b 0 1
def reqSeq (b : List Byte) : Nat := leAt b 1 1
def reqLen (b : List Byte) : Nat := leAt b 2 2
def reqBody (b : List Byte) : List Byte := (b.drop 4).take (reqLen b)

/-- A frame as it is clocked: TYPE, SEQ, LEN, body, and the CRC-32C over them (R154, R155). -/
def mgmtFrame (kind seq : Nat) (body : List Byte) : List Byte :=
  let b := leBytes 1 kind ++ leBytes 1 seq ++ leBytes 2 body.length ++ body
  b ++ leBytes 4 (crc32c b)

/-- The command that the body of a COMMAND frame spells (R156, R157). -/
def parseBody (b : List Byte) : Cmd :=
  parseEntry .mgmt 0 ((List.range 16).map fun i => BitVec.ofNat 32 (leAt b (4 * i) 4)) (b.drop 64)

/-- Whether the body of a COMMAND frame has the length that its entry asks for (R156). A buffer beyond 1,022 units fits no
frame: the command is refused for it (R157). -/
def commandLenOk (body : List Byte) : Bool :=
  let c := parseBody body
  64 ≤ body.length && (if c.buf then 1022 < c.paramLen || body.length = 64 + 64 * c.paramLen else body.length = 64)

/-- The code of FRAME_ERROR for a frame (R154 to R156, R164): 2 a wrong length, 1 a failing CRC, 3 an unknown type; checked
in this order (log entry 25). -/
def frameCheck (b : List Byte) : Option Nat :=
  let n := reqLen b
  if b.length != 8 + n then some 2
  else if leAt b (4 + n) 4 != crc32c (b.take (4 + n)) then some 1
  else match reqType b with
    | 1 => if commandLenOk (reqBody b) then none else some 2
    | 2 => if n = 0 then none else some 2
    | 3 => if n = 0 then none else some 2
    | 4 => if n = 5 && 1 ≤ leAt b 8 1 && leAt b 8 1 ≤ 64 then none else some 2
    | 5 => if n = 0 then none else some 2
    | _ => some 3

/-- A request frame arrives on the row of its type: the port is dead in OFF only, and a frame with an error is not acted on. A
sound frame of another type belongs to that type's row. -/
def onFrame (s : State) (kind : Nat) (b : List Byte) (act : Nat → List Byte → State) : State :=
  if s.mode == .off then s
  else match frameCheck b with
    | some code => frameError s (reqSeq b) code
    | none => if reqType b = kind then act (reqSeq b) (reqBody b) else s

/-- The bytes of a frame whose first two, TYPE and SEQ, stand in head, from the bytes after them. -/
def clocked (head : Fin 65536) (rest : List Byte) : List Byte := leBytes 2 head.val ++ rest

/-- What follows TYPE and SEQ: LEN, the bytes clocked for the body, and the CRC-32C (R154). -/
def afterSeq (len : Fin 65536) (body : List Byte) (crc : Dword) : List Byte := leBytes 2 len.val ++ body ++ leBytes 4 crc.toNat

/-- The frame is held until the herd firmware runs (R92, R99). -/
def holdFrame (s : State) (kind seq : Nat) (body : List Byte) : State :=
  { s with cmd := { s.cmd with held := s.cmd.held ++ [{ kind := kind, seq := seq, body := body, sleep := s.mode == .sleep }] } }

/-- A frame other than a COMMAND or STATUS_READ: held in SLEEP, where the falling edge of MGMT_CS# wakes the device if MGMT_EN is
1 (R91, R92), and before CMD_LIVE (R99); acted on at once otherwise. In FATAL register reads and RESET are (R147). -/
def whenLive (s : State) (kind seq : Nat) (body : List Byte) (act : State → State) : State :=
  if s.mode == .fatal then (if kind = 3 then s else act s)
  else if s.flag F.SYS_STATUS_CMD_LIVE then act s
  else
    let t := holdFrame s kind seq body
    if s.mode == .sleep then wakeBy t (2 ^ 8) else t

/-! ### COMMAND frames -/

/-- R158: the acknowledgement of a COMMAND frame, with its link status. -/
def ackBody (status tag : Nat) : List Byte := [BitVec.ofNat 8 status, 0] ++ leBytes 2 tag

/-- R160, R161: a COMMAND frame is accepted and its acknowledgement kept, or turned away as busy. -/
def ackFrame (s : State) (seq status tag : Nat) : State :=
  let b := ackBody status tag
  let t := putResp s 0x81 seq b
  if status = 1 then t else { t with cmd := { t.cmd with lastAck := some (seq, b) } }

/-- R161: room for one more management command. -/
def mgmtRoom (s : State) : Bool := outstanding s < 16 && s.cmd.mgmtComps.length < 32

/-- A COMMAND frame that has arrived whole: repeated (R160), held by AON in SLEEP (R92, R162), held until CMD_LIVE (R99), or
queued. -/
def commandFrame (seq : Nat) (b : List Byte) (s : State) : State :=
  let c := parseBody b
  match s.cmd.lastAck.filter fun a => a.1 == seq with
  | some a => putResp s 0x81 seq a.2
  | none =>
    if s.mode == .fatal then s
    else if s.mode == .sleep then
      if s.flag F.SHD_WAKE_CFG_MGMT_EN && !(s.cmd.held.any fun (h : HeldFrame) => h.kind == 1) && b.length ≤ 1024 then
        wakeBy (ackFrame (holdFrame s 1 seq b) seq 2 c.tag) (2 ^ 8)
      else ackFrame s seq 1 c.tag
    else if !mgmtRoom s then ackFrame s seq 1 c.tag
    else if s.flag F.SYS_STATUS_CMD_LIVE then takeEntry (ackFrame s seq 0 c.tag) c
    else ackFrame (holdFrame s 1 seq b) seq 0 c.tag

/-- R147, R156, R160 to R162: a COMMAND frame. -/
def execMgmtCommand (head len : Fin 65536) (body : List Byte) (crc : Dword) (s : State) : Host.Outcome State Fault Refusal :=
  .next (onFrame s 1 (clocked head (afterSeq len body crc)) fun seq b => if s.mode == .fatal then s else commandFrame seq b s)

/-! ### The other requests -/

/-- R99, R156: STATUS_READ, answered in every state except OFF. -/
def execMgmtStatusRead (head : Fin 65536) (rest : List Byte) (s : State) : Host.Outcome State Fault Refusal :=
  .next (onFrame s 2 (clocked head rest) fun seq _ => putResp s 0x82 seq (statusBody s))

/-- R157, R158: the oldest management completion, with its Out buffer data; nothing when none waits. -/
def completionBody (s : State) : List Byte :=
  match s.cmd.mgmtComps with
  | [] => []
  | x :: _ => compBytes x 1 ++ x.out

/-- A COMPLETION_READ is answered, which takes the oldest management completion. -/
def readCompletion (seq : Nat) (s : State) : State :=
  let u := putResp s 0x83 seq (completionBody s)
  { u with cmd := { u.cmd with mgmtComps := u.cmd.mgmtComps.drop 1 } }

/-- R92, R147, R156: COMPLETION_READ. -/
def execMgmtCompletionRead (head : Fin 65536) (rest : List Byte) (s : State) : Host.Outcome State Fault Refusal :=
  .next (onFrame s 3 (clocked head rest) fun seq b => whenLive s 3 seq b (readCompletion seq))

/-- Whether the shed that holds the register at an offset is up, as REG_READ sees it (R74, R158): the window of a cluster that CLS
serves is with CLS (R191), and the partner link's registers but the one that enables it are with PRT (R75). Blocks that the sheds
table does not name are with CTL or, up to the CMD block, with AON. -/
def shedOf (s : State) (x : Nat) : Bool :=
  match x / 0x10000 with
  | 4 => s.get (clst (servedBy s ((x - 0x40000) / 0x1000))) != Cl.off
  | 5 => 0x51000 ≤ x || s.get (clst 16) != Cl.off
  | 7 => hgeUp s
  | 8 => hgeUp s
  | 9 => hgeUp s
  | 10 => emiUp s
  | 11 => thmUp s
  | 12 => hkUp s
  | 13 => safUp s
  | 15 => !(0xF0104 ≤ x && x < 0xF0200) || prtUp s
  | _ => true

/-- Dwords read one after another by the management port: 0 where the register's shed is off (R158). -/
def readDwords : Nat → Nat → State → List Byte × State
  | 0, _, s => ([], s)
  | n + 1, x, s =>
    let (v, t) := if shedOf s x then readDword s .mgmt x else (0, s)
    let (l, u) := readDwords n (x + 4) t
    (leBytes 4 v ++ l, u)

/-- A REG_READ is answered: offset and dword count stand in its body (R156, R158). -/
def readRegs (seq : Nat) (b : List Byte) (s : State) : State :=
  let (d, u) := readDwords (leAt b 4 1) (leAt b 0 4 / 4 * 4) s
  putResp u 0x84 seq d

/-- R92, R147, R156, R158: REG_READ. -/
def execMgmtRegRead (head len : Fin 65536) (body : List Byte) (crc : Dword) (s : State) : Host.Outcome State Fault Refusal :=
  .next (onFrame s 4 (clocked head (afterSeq len body crc)) fun seq b => whenLive s 4 seq b (readRegs seq b))

/-- The device reset that a RESET frame asks for is due. -/
def askReset (s : State) : State :=
  let u := s.set F.SYS_RESET_CAUSE_CMD 1
  { u with cmd := { u.cmd with resetDue := true } }

/-- R92, R156, R164: RESET: acknowledged at once in every state, and a device reset is due, once CMD_LIVE is 1 where the frame is
held. -/
def execMgmtReset (head : Fin 65536) (rest : List Byte) (s : State) : Host.Outcome State Fault Refusal :=
  .next (onFrame s 5 (clocked head rest) fun seq b => whenLive (putResp s 0x85 seq []) 5 seq b askReset)

/-- A held frame is executed. -/
def runHeld (h : HeldFrame) (s : State) : State :=
  match h.kind with
  | 1 => takeEntry s (parseBody h.body)
  | 3 => readCompletion h.seq s
  | 4 => readRegs h.seq h.body s
  | _ => askReset s

/-- R92, R99: the oldest held frame is executed once the herd firmware runs. -/
def execMgmtHeldExecute (s : State) : Host.Outcome State Fault Refusal :=
  match s.cmd.held with
  | [] => .next s
  | h :: l =>
    if ctlUp s && s.flag F.SYS_STATUS_CMD_LIVE then .next (runHeld h { s with cmd := { s.cmd with held := l } })
    else .next s

/-- R158: READ clocks out the waiting response, or TYPE 0 alone; it is removed only when its last byte has been clocked
out (complete). -/
def execMgmtRead (complete : Bool) (s : State) : Host.Outcome State Fault Refusal :=
  if s.mode == .off then .next s
  else match s.cmd.resp with
    | none => .next { s with tx := s.tx ++ [.mgmt [0]] }
    | some (kind, seq, body) =>
      let t := { s with tx := s.tx ++ [.mgmt (mgmtFrame kind seq body)] }
      .next (if complete then { t with cmd := { t.cmd with resp := none } } else t)

end Sys2Proof.Machine
end

