-- ==== Sys2Proof/Machine/Bar2.lean ====
section
/-! DEFINITION. What lies in the yard's stalls, the entries of the stall map, and the BAR2 window onto both (R232, R273, R279 to
R281, R303, R304). -/

namespace Sys2Proof.Machine

/-- The counts of a cell as stored (R232): eight 12-bit counts in 12 bytes, count i of a group at bits 12 i + 11 to 12 i, or
16 bits each. -/
def countBytes (c : Cell) : List Byte :=
  if c.packed then
    (List.range (c.bins.length / 8)).flatMap fun g =>
      leBytes 12 ((List.range 8).foldl (fun w i => w + 2 ^ (12 * i) * c.bins.getD (8 * g + i) 0) 0)
  else c.bins.flatMap fun n => leBytes 2 n

/-- The width plane of a cell as stored: one dword for each group of 8 bins (R232, R242). -/
def planeBytes (c : Cell) : List Byte :=
  (List.range (c.bins.length / 8)).flatMap fun g => leBytes 4 (c.wsum.getD g 0 + 2 ^ 24 * c.wsat.getD g 0)

/-- Bytes of a cell slot of a slot size (R273). -/
def slotSize (size : Nat) : Nat := 2048 * 2 ^ size

/-- What slot k of a stall holds: its cell's counts and width plane, and bytes the spec does not state (log entry 78). -/
def slotContents (s : State) (x : Stall) (k : Nat) : List Byte :=
  let b := match s.hge.cells.find? fun (c : Cell) => c.stall == x.num && c.k == k with
    | some c => countBytes c ++ planeBytes c
    | none => []
  b ++ (List.range (slotSize x.size - b.length)).map fun i => Config.yardByte x.num (k * slotSize x.size + b.length + i) s.now

/-- The 64 KiB of a stall (R271, R273). -/
def stallContents (s : State) (x : Stall) : List Byte :=
  if x.owner = 0 then (List.range (slotsOf x.size)).flatMap (slotContents s x)
  else (List.range 65536).map fun i => Config.yardByte x.num i s.now

/-- TIER of a place in the stall map (R280). -/
def tierCode : Tier → Nat
  | .loft => 1
  | .near => 2
  | .far => 3

/-- The stall-map entry of a stall (R280). -/
def entryOf (x : Stall) : Nat :=
  tierCode x.at_.tier + 2 ^ 2 * b2n x.pinned + 2 ^ 3 * b2n x.moving.isSome + 2 ^ 4 * x.owner
    + 2 ^ 8 * (if x.owner = 0 then x.size else 0) + 2 ^ 10 * (if x.at_.tier == .far then x.at_.window else 0)
    + 2 ^ 16 * (x.at_.loc % 2 ^ 25) + 2 ^ 41 * (x.used.length % 2 ^ 6)

/-- The stall-map entry of a stall number; 0 at or above 2^MAP_LOG2 (R304) and for a free number. -/
def mapEntry (s : State) (n : Nat) : Nat :=
  if 2 ^ s.get F.YRD_CAP_MAP_LOG2_NOW ≤ n then 0 else ((stallAt s n).map entryOf).getD 0

/-- What physical loft stall i holds. With the near yard disabled, 760 to 767 hold the map (R279). -/
def loftContents (s : State) (i : Nat) : List Byte :=
  if s.flag F.YRD_CAP_NEAR_OFF && 760 ≤ i then (List.range 8192).flatMap fun j => leBytes 8 (mapEntry s (8192 * (i - 760) + j))
  else match s.yrd.stalls.find? fun (x : Stall) => x.at_.tier == .loft && x.at_.loc == i with
    | some x => stallContents s x
    | none => (List.range 65536).map fun b => Config.yardByte (2 ^ 25 + i) b s.now

/-- R303, R304: a read of n bytes of BAR2, 4 or 8 and naturally aligned: a loft stall, or the map entries of the part that
YRD_BAR2_SEL selects. It has no side effect, and a write is discarded. -/
def readBar2 (s : State) (off n : Nat) : Option Nat :=
  if (n != 4 && n != 8) || off % n != 0 || 0x4000000 ≤ off then none
  else if off < 0x3000000 then some (leAt (loftContents s (off / 65536)) (off % 65536) n)
  else
    let e := mapEntry s (2 ^ 21 * s.get F.YRD_BAR2_SEL + (off - 0x3000000) / 8)
    some (if n = 8 then e else bits e (8 * (off % 8)) 32)

end Sys2Proof.Machine
end

