-- ==== Sys2Proof/Machine/Traffic.lean ====
section
/-! DEFINITION. The order of the endpoint's requests (R28, R579), and the moves and recordings that wait for it. -/

namespace Sys2Proof.Machine

/-- Whether a delivery request is ready (class 2 of R579): records or a frame header, a completion, a command fetch, a host
buffer, or a thermal frame. Completions to host requests (class 1) are made with the requests, and MSI-X messages with their
causes, so neither waits. -/
def deliveryReady (s : State) : Bool :=
  pcieUsable s && ((List.range 4).any (frontReady s) || ((nextComp s .ring).isSome && canWriteComp s) || fetches s
    || s.cmd.cmds.any (fun (c : Cmd) => c.port == .ring && (readerOf s .ring c.tag).isSome)
    || (s.thm.queue.isSome && 1 < s.get F.THM_RING_CFG))

/-- Whether a far stall is being fetched, and whether any stall moves over the link (class 3 of R579). -/
def fetching (s : State) : Bool := s.yrd.stalls.any fun (x : Stall) => x.at_.tier == .far && x.moving.isSome
def paging (s : State) : Bool :=
  s.yrd.stalls.any fun (x : Stall) => x.moving.any fun (p : Place) => x.at_.tier == .far || p.tier == .far

/-- R28, R579: a move over the link waits while a delivery is ready, and a page-out while a far stall is fetched (log entry 79). -/
def moveWaits (s : State) (x : Stall) (p : Place) : Bool :=
  (x.at_.tier == .far || p.tier == .far)
    && (!pcieUsable s || deliveryReady s || (x.at_.tier != .far && fetching s))

/-- The requests of a move: a far stall is read, and a stall is written to the far yard (R290, R580). -/
def moveTraffic (s : State) (x : Stall) (p : Place) : State :=
  let t := if x.at_.tier == .far then sendRead s (farAddr s x.at_) 65536 else s
  if p.tier == .far then sendMem t (farAddr s p) (stallContents s x) else t

/-- R290: a stall's move ends, once the place it goes to has been left; the updates that waited for it are entered. -/
def execStallMoveDone (stall : Nat) (s : State) : Host.Outcome State Fault Refusal :=
  match stallAt s stall with
  | some x => match x.moving with
    | some p =>
      if x.waits.isSome || moveWaits s x p then .next s else .next (enterReady (moveEnds (moveTraffic s x p) x p))
    | none => .next s
  | none => .next s

/-- R545: every section has ended and its data is copied, after all else that goes over the link (R28, R579; log entry 79). -/
def execRecordingClosed (s : State) : Host.Outcome State Fault Refusal :=
  let t := endCapture s
  if recState t != Rec.closing || deliveryReady t || paging t then .next t
  else .next (endDisarm (closeRecording t false t.acq.disarming))

end Sys2Proof.Machine
end

