-- ==== Sys2Proof/Machine/Dispatch.lean ====
section
/-! DEFINITION. One arm for each command: its meaning. -/

namespace Sys2Proof.Machine

def exec (i : Instr) (s : State) : Host.Outcome State Fault Refusal :=
  match i with
  | .railsValid => Sys2Proof.Machine.execRailsValid s
  | .powerOnReset => Sys2Proof.Machine.execPowerOnReset s
  | .railTrip rail => Sys2Proof.Machine.execRailTrip rail s
  | .mainResetRelease => Sys2Proof.Machine.execMainResetRelease s
  | .xtalAonStable => Sys2Proof.Machine.execXtalAonStable s
  | .xtalAonTimeout => Sys2Proof.Machine.execXtalAonTimeout s
  | .clocksLocked xref core time mem safb => Sys2Proof.Machine.execClocksLocked xref core time mem safb s
  | .imageCheckDone imgA imgB => Sys2Proof.Machine.execImageCheckDone imgA imgB s
  | .herdFirmwareRunning => Sys2Proof.Machine.execHerdFirmwareRunning s
  | .rlTrainingDone eight dual big trained badCopies => Sys2Proof.Machine.execRlTrainingDone eight dual big trained badCopies s
  | .excitationSettled apdOk thermal => Sys2Proof.Machine.execExcitationSettled apdOk thermal s
  | .refInLoss => Sys2Proof.Machine.execRefInLoss s
  | .refInQualified offset => Sys2Proof.Machine.execRefInQualified offset s
  | .pllUnlock clock => Sys2Proof.Machine.execPllUnlock clock s
  | .clockCrossMeasure safbPpm corePpm timePpm => Sys2Proof.Machine.execClockCrossMeasure safbPpm corePpm timePpm s
  | .clkRefCfgWrite value => Sys2Proof.Machine.execClkRefCfgWrite value s
  | .wake sources pins => Sys2Proof.Machine.execWake sources pins s
  | .sleepEntryDone => Sys2Proof.Machine.execSleepEntryDone s
  | .aonAlarm => Sys2Proof.Machine.execAonAlarm s
  | .stateChangeDone => Sys2Proof.Machine.execStateChangeDone s
  | .deviceReset => Sys2Proof.Machine.execDeviceReset s
  | .perstAssert => Sys2Proof.Machine.execPerstAssert s
  | .perstRelease => Sys2Proof.Machine.execPerstRelease s
  | .pcieConfigReady => Sys2Proof.Machine.execPcieConfigReady s
  | .cmdCtrlWrite value => Sys2Proof.Machine.execCmdCtrlWrite value s
  | .ringDrainDone => Sys2Proof.Machine.execRingDrainDone s
  | .cmdDb0 value => Sys2Proof.Machine.execCmdDb0 value s
  | .commandFetch entry err => Sys2Proof.Machine.execCommandFetch entry err s
  | .bufferReadDone port tag err data => Sys2Proof.Machine.execBufferReadDone port tag err data s
  | .bufferTimeout tag => Sys2Proof.Machine.execBufferTimeout tag s
  | .completionWrite port err => Sys2Proof.Machine.execCompletionWrite port err s
  | .cmdDb1 value => Sys2Proof.Machine.execCmdDb1 value s
  | .cmpNotifyTimer => Sys2Proof.Machine.execCmpNotifyTimer s
  | .nonceExpiry => Sys2Proof.Machine.execNonceExpiry s
  | .nop port tag => Sys2Proof.Machine.execNop port tag s
  | .getInfo port tag => Sys2Proof.Machine.execGetInfo port tag s
  | .setState port tag => Sys2Proof.Machine.execSetState port tag s
  | .reset port tag => Sys2Proof.Machine.execReset port tag s
  | .setPowerCap port tag => Sys2Proof.Machine.execSetPowerCap port tag s
  | .abort port tag => Sys2Proof.Machine.execAbort port tag s
  | .herdSwitch port tag => Sys2Proof.Machine.execHerdSwitch port tag s
  | .loadScanProg port tag => Sys2Proof.Machine.execLoadScanProg port tag s
  | .scanStart port tag => Sys2Proof.Machine.execScanStart port tag s
  | .scanStop port tag => Sys2Proof.Machine.execScanStop port tag s
  | .scanSwitch port tag => Sys2Proof.Machine.execScanSwitch port tag s
  | .setTiming port tag => Sys2Proof.Machine.execSetTiming port tag s
  | .setPointRing port tag => Sys2Proof.Machine.execSetPointRing port tag s
  | .yardGrant port tag => Sys2Proof.Machine.execYardGrant port tag s
  | .yardRevoke port tag => Sys2Proof.Machine.execYardRevoke port tag s
  | .yardRevokeDone => Sys2Proof.Machine.execYardRevokeDone s
  | .yardQuery port tag => Sys2Proof.Machine.execYardQuery port tag s
  | .thmConfig port tag acked => Sys2Proof.Machine.execThmConfig port tag acked s
  | .thmLoadCorr port tag => Sys2Proof.Machine.execThmLoadCorr port tag s
  | .thmSelectCorr port tag => Sys2Proof.Machine.execThmSelectCorr port tag s
  | .thmFfc port tag => Sys2Proof.Machine.execThmFfc port tag s
  | .thmLoadCoef port tag => Sys2Proof.Machine.execThmLoadCoef port tag s
  | .thmSelectCoef port tag => Sys2Proof.Machine.execThmSelectCoef port tag s
  | .thmLoadReglut port tag => Sys2Proof.Machine.execThmLoadReglut port tag s
  | .thmSync port tag => Sys2Proof.Machine.execThmSync port tag s
  | .safLoadConfig port tag => Sys2Proof.Machine.execSafLoadConfig port tag s
  | .safCommit port tag => Sys2Proof.Machine.execSafCommit port tag s
  | .safArm port tag => Sys2Proof.Machine.execSafArm port tag s
  | .safDisarm port tag => Sys2Proof.Machine.execSafDisarm port tag s
  | .safeLockoutClear port tag => Sys2Proof.Machine.execSafeLockoutClear port tag s
  | .acqConfig port tag => Sys2Proof.Machine.execAcqConfig port tag s
  | .acqArm port tag => Sys2Proof.Machine.execAcqArm port tag s
  | .acqDisarm port tag => Sys2Proof.Machine.execAcqDisarm port tag s
  | .acqTrigger port tag => Sys2Proof.Machine.execAcqTrigger port tag s
  | .acqReadLog port tag => Sys2Proof.Machine.execAcqReadLog port tag s
  | .calGroom port tag => Sys2Proof.Machine.execCalGroom port tag s
  | .groomDone groom meas sb zero pzero => Sys2Proof.Machine.execGroomDone groom meas sb zero pzero s
  | .autoGroomStart cluster => Sys2Proof.Machine.execAutoGroomStart cluster s
  | .calStore port tag => Sys2Proof.Machine.execCalStore port tag s
  | .calRead port tag => Sys2Proof.Machine.execCalRead port tag s
  | .calSpareEngage port tag => Sys2Proof.Machine.execCalSpareEngage port tag s
  | .calSpareRelease port tag => Sys2Proof.Machine.execCalSpareRelease port tag s
  | .prtConfig port tag => Sys2Proof.Machine.execPrtConfig port tag s
  | .prtRetrain port tag => Sys2Proof.Machine.execPrtRetrain port tag s
  | .trigbusMeasure port tag => Sys2Proof.Machine.execTrigbusMeasure port tag s
  | .diagReadFaults port tag => Sys2Proof.Machine.execDiagReadFaults port tag s
  | .diagClearFaults port tag => Sys2Proof.Machine.execDiagClearFaults port tag s
  | .diagImpedance port tag => Sys2Proof.Machine.execDiagImpedance port tag s
  | .impedanceCheckDone tones first again => Sys2Proof.Machine.execImpedanceCheckDone tones first again s
  | .diagSelfTest port tag => Sys2Proof.Machine.execDiagSelfTest port tag s
  | .diagReadCounters port tag => Sys2Proof.Machine.execDiagReadCounters port tag s
  | .secGetIdentity port tag => Sys2Proof.Machine.execSecGetIdentity port tag s
  | .secGetNonce port tag => Sys2Proof.Machine.execSecGetNonce port tag s
  | .secFwStage port tag => Sys2Proof.Machine.execSecFwStage port tag s
  | .secFwActivate port tag => Sys2Proof.Machine.execSecFwActivate port tag s
  | .secAttest port tag => Sys2Proof.Machine.execSecAttest port tag s
  | .secReprovision port tag => Sys2Proof.Machine.execSecReprovision port tag s
  | .mgmtCommand head len body crc => Sys2Proof.Machine.execMgmtCommand head len body crc s
  | .mgmtStatusRead head rest => Sys2Proof.Machine.execMgmtStatusRead head rest s
  | .mgmtCompletionRead head rest => Sys2Proof.Machine.execMgmtCompletionRead head rest s
  | .mgmtRegRead head len body crc => Sys2Proof.Machine.execMgmtRegRead head len body crc s
  | .mgmtReset head rest => Sys2Proof.Machine.execMgmtReset head rest s
  | .mgmtRead complete => Sys2Proof.Machine.execMgmtRead complete s
  | .mgmtHeldExecute => Sys2Proof.Machine.execMgmtHeldExecute s
  | .slotStart pulses => Sys2Proof.Machine.execSlotStart pulses s
  | .frameBoundary => Sys2Proof.Machine.execFrameBoundary s
  | .shotEnd ch saturated t1 => Sys2Proof.Machine.execShotEnd ch saturated t1 s
  | .rxfChCfgWrite cluster ch value => Sys2Proof.Machine.execRxfChCfgWrite cluster ch value s
  | .returnEdge ch coarse tap => Sys2Proof.Machine.execReturnEdge ch coarse tap s
  | .eventWordFormed ch width t1 own others reference => Sys2Proof.Machine.execEventWordFormed ch width t1 own others reference s
  | .bridgeFrame lane ok slot words corrected => Sys2Proof.Machine.execBridgeFrame lane ok slot words corrected s
  | .apdbCtrlWrite value => Sys2Proof.Machine.execApdbCtrlWrite value s
  | .apdbSettledChange settled sense => Sys2Proof.Machine.execApdbSettledChange settled sense s
  | .apdbTrip trip => Sys2Proof.Machine.execApdbTrip trip s
  | .clusterFeFault clusters => Sys2Proof.Machine.execClusterFeFault clusters s
  | .spareRestartDone => Sys2Proof.Machine.execSpareRestartDone s
  | .rxfObsWrite slice value => Sys2Proof.Machine.execRxfObsWrite slice value s
  | .sliceAverageDone slice sums => Sys2Proof.Machine.execSliceAverageDone slice sums s
  | .clusterRestartStart cluster => Sys2Proof.Machine.execClusterRestartStart cluster s
  | .clusterRestartDone cluster => Sys2Proof.Machine.execClusterRestartDone cluster s
  | .tdcWinProfWrite prof value => Sys2Proof.Machine.execTdcWinProfWrite prof value s
  | .ppsEdge phase => Sys2Proof.Machine.execPpsEdge phase s
  | .ppsAlignWrite value => Sys2Proof.Machine.execPpsAlignWrite value s
  | .ppsLost => Sys2Proof.Machine.execPpsLost s
  | .fmCtrlWrite engine value => Sys2Proof.Machine.execFmCtrlWrite engine value s
  | .fmGateEnd engine edges => Sys2Proof.Machine.execFmGateEnd engine edges s
  | .hgeCodeWrite index value => Sys2Proof.Machine.execHgeCodeWrite index value s
  | .hgeDitherWrite value => Sys2Proof.Machine.execHgeDitherWrite value s
  | .detectionDone dir corrected => Sys2Proof.Machine.execDetectionDone dir corrected s
  | .recordDma ring => Sys2Proof.Machine.execRecordDma ring s
  | .hgeRingRptrWrite ring value => Sys2Proof.Machine.execHgeRingRptrWrite ring value s
  | .stallMoveDone stall => Sys2Proof.Machine.execStallMoveDone stall s
  | .backgroundWork => Sys2Proof.Machine.execBackgroundWork s
  | .farReadFail window => Sys2Proof.Machine.execFarReadFail window s
  | .uncorrectableError stall => Sys2Proof.Machine.execUncorrectableError stall s
  | .yrdMapCfgWrite value => Sys2Proof.Machine.execYrdMapCfgWrite value s
  | .heatModelTick => Sys2Proof.Machine.execHeatModelTick s
  | .lbtMean input samples => Sys2Proof.Machine.execLbtMean input samples s
  | .rechargeStart bank => Sys2Proof.Machine.execRechargeStart bank s
  | .rechargeEnd bank v dur energy => Sys2Proof.Machine.execRechargeEnd bank v dur energy s
  | .bankOvervoltage bank code => Sys2Proof.Machine.execBankOvervoltage bank code s
  | .sweepPeriod => Sys2Proof.Machine.execSweepPeriod s
  | .emiBankRetry banks => Sys2Proof.Machine.execEmiBankRetry banks s
  | .emiBankEnWrite value => Sys2Proof.Machine.execEmiBankEnWrite value s
  | .strayCurrent bank current => Sys2Proof.Machine.execStrayCurrent bank current s
  | .emiInhibitClear => Sys2Proof.Machine.execEmiInhibitClear s
  | .emiFlCtrlWrite value => Sys2Proof.Machine.execEmiFlCtrlWrite value s
  | .emiFlDutyWrite string value => Sys2Proof.Machine.execEmiFlDutyWrite string value s
  | .floodOnTime string start => Sys2Proof.Machine.execFloodOnTime string start s
  | .floodOpenCheck string sample => Sys2Proof.Machine.execFloodOpenCheck string sample s
  | .floodDiagTimeout string => Sys2Proof.Machine.execFloodDiagTimeout string s
  | .floodSwitchOff string sample => Sys2Proof.Machine.execFloodSwitchOff string sample s
  | .thmCtrlWrite value => Sys2Proof.Machine.execThmCtrlWrite value s
  | .thermalFrameStart => Sys2Proof.Machine.execThermalFrameStart s
  | .thermalFrameComplete sums => Sys2Proof.Machine.execThermalFrameComplete sums s
  | .thermalFrameDelivery => Sys2Proof.Machine.execThermalFrameDelivery s
  | .thmRingPtrWrite value => Sys2Proof.Machine.execThmRingPtrWrite value s
  | .fpaBiasLimit => Sys2Proof.Machine.execFpaBiasLimit s
  | .pathSettled => Sys2Proof.Machine.execPathSettled s
  | .settleTimeout => Sys2Proof.Machine.execSettleTimeout s
  | .syncDecEdge => Sys2Proof.Machine.execSyncDecEdge s
  | .monitorOutput ch codes phase => Sys2Proof.Machine.execMonitorOutput ch codes phase s
  | .coefCrossfadeEnd => Sys2Proof.Machine.execCoefCrossfadeEnd s
  | .ffcShutterTimeout => Sys2Proof.Machine.execFfcShutterTimeout s
  | .ffcSumDone => Sys2Proof.Machine.execFfcSumDone s
  | .shutterStuck => Sys2Proof.Machine.execShutterStuck s
  | .autoFfcStart => Sys2Proof.Machine.execAutoFfcStart s
  | .hkConversion conv sample => Sys2Proof.Machine.execHkConversion conv sample s
  | .hkInjectRequest conv loop => Sys2Proof.Machine.execHkInjectRequest conv loop s
  | .hkInjection conv uv => Sys2Proof.Machine.execHkInjection conv uv s
  | .hkcMmClrWrite conv value => Sys2Proof.Machine.execHkcMmClrWrite conv value s
  | .hkSelfcal conv => Sys2Proof.Machine.execHkSelfcal conv s
  | .hkSelfcalDone conv slices => Sys2Proof.Machine.execHkSelfcalDone conv slices s
  | .refBufferOn conv => Sys2Proof.Machine.execRefBufferOn conv s
  | .heartbeat upset => Sys2Proof.Machine.execHeartbeat upset s
  | .fselAccept side value => Sys2Proof.Machine.execFselAccept side value s
  | .fsetDisagree => Sys2Proof.Machine.execFsetDisagree s
  | .fsetOverlapEnd side => Sys2Proof.Machine.execFsetOverlapEnd side s
  | .coverageLapse dir => Sys2Proof.Machine.execCoverageLapse dir s
  | .coverageTrip side pair => Sys2Proof.Machine.execCoverageTrip side pair s
  | .evaluatorSelfTest side vectorOk tablesOk => Sys2Proof.Machine.execEvaluatorSelfTest side vectorOk tablesOk s
  | .testPulse line ownLow otherHigh backHigh => Sys2Proof.Machine.execTestPulse line ownLow otherHigh backHigh s
  | .readbackFault line => Sys2Proof.Machine.execReadbackFault line s
  | .edmWindowExpiry pair => Sys2Proof.Machine.execEdmWindowExpiry pair s
  | .guardAccept guard channel level near => Sys2Proof.Machine.execGuardAccept guard channel level near s
  | .guardDiscrepancy guard => Sys2Proof.Machine.execGuardDiscrepancy guard s
  | .rstReqAccept lenA lenB skew => Sys2Proof.Machine.execRstReqAccept lenA lenB skew s
  | .rstReqJam => Sys2Proof.Machine.execRstReqJam s
  | .autoRestartExpiry pair => Sys2Proof.Machine.execAutoRestartExpiry pair s
  | .clearableExpiry => Sys2Proof.Machine.execClearableExpiry s
  | .f3Fault code detail => Sys2Proof.Machine.execF3Fault code detail s
  | .f3CauseCleared code detail => Sys2Proof.Machine.execF3CauseCleared code detail s
  | .tstModeRise ball => Sys2Proof.Machine.execTstModeRise ball s
  | .debugPortOpen => Sys2Proof.Machine.execDebugPortOpen s
  | .identityKeyReady => Sys2Proof.Machine.execIdentityKeyReady s
  | .announce tag seq frame slot vlast entry => Sys2Proof.Machine.execAnnounce tag seq frame slot vlast entry s
  | .mirror tag seq schema side all hash seed frame calVer mark24 dly => Sys2Proof.Machine.execMirror tag seq schema side all hash seed frame calVer mark24 dly s
  | .keepalive => Sys2Proof.Machine.execKeepalive s
  | .fmark stamp frame24 => Sys2Proof.Machine.execFmark stamp frame24 s
  | .twinStartTimeout => Sys2Proof.Machine.execTwinStartTimeout s
  | .partnerSilence => Sys2Proof.Machine.execPartnerSilence s
  | .beacon => Sys2Proof.Machine.execBeacon s
  | .query => Sys2Proof.Machine.execQuery s
  | .beaconEchoTimeout => Sys2Proof.Machine.execBeaconEchoTimeout s
  | .queryEchoTimeout => Sys2Proof.Machine.execQueryEchoTimeout s
  | .halterStandby => Sys2Proof.Machine.execHalterStandby s
  | .halterTakeover => Sys2Proof.Machine.execHalterTakeover s
  | .unsureClear => Sys2Proof.Machine.execUnsureClear s
  | .halterClaim => Sys2Proof.Machine.execHalterClaim s
  | .halterRelease => Sys2Proof.Machine.execHalterRelease s
  | .triggerSample delay => Sys2Proof.Machine.execTriggerSample delay s
  | .trigInEdge ago => Sys2Proof.Machine.execTrigInEdge ago s
  | .trigger frame steps ago => Sys2Proof.Machine.execTrigger frame steps ago s
  | .measure => Sys2Proof.Machine.execMeasure s
  | .measureReply frame roundTrip => Sys2Proof.Machine.execMeasureReply frame roundTrip s
  | .captureEnd sec => Sys2Proof.Machine.execCaptureEnd sec s
  | .recordingOverrun sec => Sys2Proof.Machine.execRecordingOverrun sec s
  | .recordingClosed => Sys2Proof.Machine.execRecordingClosed s
  | .rearmEnd => Sys2Proof.Machine.execRearmEnd s
  | .irqEntry => Sys2Proof.Machine.execIrqEntry s
  | .herdEoi => Sys2Proof.Machine.execHerdEoi s
  | .irqExit => Sys2Proof.Machine.execIrqExit s
  | .msixSend => Sys2Proof.Machine.execMsixSend s
  | .irqHostEoi value => Sys2Proof.Machine.execIrqHostEoi value s
  | .msixUnblock writes => Sys2Proof.Machine.execMsixUnblock writes s
  | .irqSwset n value => Sys2Proof.Machine.execIrqSwset n value s
  | .irqSwclr n value => Sys2Proof.Machine.execIrqSwclr n value s
  | .pcieLinkLost => Sys2Proof.Machine.execPcieLinkLost s
  | .functionLevelReset => Sys2Proof.Machine.execFunctionLevelReset s
  | .pmeTurnOff => Sys2Proof.Machine.execPmeTurnOff s
  | .pmeWaitExpiry => Sys2Proof.Machine.execPmeWaitExpiry s
  | .l1Entry sub => Sys2Proof.Machine.execL1Entry sub s
  | .peWakeTimeout => Sys2Proof.Machine.execPeWakeTimeout s
  | .prtDetectProbe found => Sys2Proof.Machine.execPrtDetectProbe found s
  | .trn lane header payload skew => Sys2Proof.Machine.execTrn lane header payload skew s
  | .cap word => Sys2Proof.Machine.execCap word s
  | .ping turnaround => Sys2Proof.Machine.execPing turnaround s
  | .echo roundTrip turnaround => Sys2Proof.Machine.execEcho roundTrip turnaround s
  | .keyx n body partnerHolds => Sys2Proof.Machine.execKeyx n body partnerHolds s
  | .prtTrainingFail => Sys2Proof.Machine.execPrtTrainingFail s
  | .prtRetry => Sys2Proof.Machine.execPrtRetry s
  | .wordLockLoss lane => Sys2Proof.Machine.execWordLockLoss lane s
  | .prtLinkLoss => Sys2Proof.Machine.execPrtLinkLoss s
  | .doze => Sys2Proof.Machine.execDoze s
  | .dozeExit => Sys2Proof.Machine.execDozeExit s
  | .dozeKeepalive => Sys2Proof.Machine.execDozeKeepalive s
  | .herdCompareMismatch pair => Sys2Proof.Machine.execHerdCompareMismatch pair s
  | .herdWatchdogExpiry => Sys2Proof.Machine.execHerdWatchdogExpiry s
  | .faultLog cls code detail => Sys2Proof.Machine.execFaultLog cls code detail s
  | .faultReactionRun => Sys2Proof.Machine.execFaultReactionRun s
  | .f4Fault code detail => Sys2Proof.Machine.execF4Fault code detail s
  | .fatalResetTimer => Sys2Proof.Machine.execFatalResetTimer s
  | .wideLoRead path off => Sys2Proof.Machine.execWideLoRead path off s
  | .wideLoWrite path off value => Sys2Proof.Machine.execWideLoWrite path off value s
  | .wideHiWrite path off value => Sys2Proof.Machine.execWideHiWrite path off value s
  | .registerWrite path off qword value full poisoned => Sys2Proof.Machine.execRegisterWrite path off qword value full poisoned s
  | .aonPowerLoss => Sys2Proof.Machine.execAonPowerLoss s
  | .edmAccept pair level => Sys2Proof.Machine.execEdmAccept pair level s
  | .pcieLinkUp speed width reversed => Sys2Proof.Machine.execPcieLinkUp speed width reversed s
  | .pcieConfigWrite bme d3hot msixEn cfg => Sys2Proof.Machine.execPcieConfigWrite bme d3hot msixEn cfg s
  | .pllRelock clock => Sys2Proof.Machine.execPllRelock clock s
  | .fpaResetRelease => Sys2Proof.Machine.execFpaResetRelease s
  | .refBufferOff conv => Sys2Proof.Machine.execRefBufferOff conv s
  | .calStoreDone ok => Sys2Proof.Machine.execCalStoreDone ok s
  | .selfTestDone failed => Sys2Proof.Machine.execSelfTestDone failed s
  | .fwStageDone ok => Sys2Proof.Machine.execFwStageDone ok s
  | .fwActivateDone => Sys2Proof.Machine.execFwActivateDone s
  | .switchOverDone => Sys2Proof.Machine.execSwitchOverDone s
  | .trigbusMeasureDone => Sys2Proof.Machine.execTrigbusMeasureDone s
  | .prtEyeDone lane width height => Sys2Proof.Machine.execPrtEyeDone lane width height s
  | .keepaliveAccepted tag seq => Sys2Proof.Machine.execKeepaliveAccepted tag seq s

end Sys2Proof.Machine
end

