-- ==== Sys2Proof/Machine/Tick.lean ====
section
/-! DEFINITION. What one tick of PLL_TIME does: the clocks count. -/

namespace Sys2Proof.Machine

/-- What DEVTIME gains in one tick: 1, or 0 or 2 in one tick of every 10,000 while it is slewed (R216), and the slewing
that is left. -/
def slewTick (c : SysSt) : Nat × SysSt :=
  if c.slew = 0 then (1, { c with slewCount := 0 })
  else if c.slewCount + 1 < 10000 then (1, { c with slewCount := c.slewCount + 1 })
  else if 0 < c.slew then (2, { c with slew := c.slew - 1, slewCount := 0 })
  else (0, { c with slew := c.slew + 1, slewCount := 0 })

/-- One tick of 1.25 ns: DEVTIME counts (R214), and AON time counts once in every 24,414.0625 ticks, which the fine
count below tracks in sixteenths (R95: 1/32,768 s). In OFF nothing runs. -/
def tick (s : State) : State :=
  if s.mode == .off then s
  else
    let f := s.aonFine + 16
    let c := slewTick s.sys
    let t := s.set F.TDC_DEVTIME (s.get F.TDC_DEVTIME + c.1)
    { t.set F.SHD_AON_TIME (t.get F.SHD_AON_TIME + f / 390625) with aonFine := f % 390625, sys := { c.2 with raw := c.2.raw + 1 } }

end Sys2Proof.Machine
end

