-- ==== Sys2Proof/Safety.lean ====
section
/-! DEFINITION. What every step of the block keeps: the safety outputs are on only where chapter 14 lets them be, the
fault log and the reaction queues keep their sizes (chapter 20), the register store keeps its canonical form, nothing
sent is taken back and no command of the queue is touched. -/

namespace Sys2Proof.Machine

/-- Whether the keys of a store are strictly rising, all above a lower bound. -/
def risingFrom : Nat → List (Nat × Nat) → Bool
  | _, [] => true
  | n, (k, _) :: r => n ≤ k && risingFrom (k + 1) r

/-- The register store has its canonical form: keys strictly rising. -/
def State.canonical (s : State) : Bool := risingFrom 0 s.regs

/-- An output line is on only while the block is armed and the device is in SCAN (R30, R482): a pair whose state in an
evaluator is ON, the one state in which the evaluator drives its line high. -/
def State.OutputsSafe (s : State) : Prop :=
  ∀ d : Side, ∀ n < 4, (s.ev d).pair n = .on → s.saf.armed = true ∧ s.mode = .scan

/-- The fault log holds 64 records at most (R638). -/
def State.LogBounded (s : State) : Prop := s.faults.length ≤ 64

/-- The queue of follow-up reactions of each class holds 16 at most (R642). -/
def State.QueuesBounded (s : State) : Prop := ∀ cls : Nat, queueDepth s cls ≤ 16

/-- Every register field but those listed reads in t as it did in s. -/
def RegFrame (l : List Fld) (s t : State) : Prop := ∀ f : Fld, (∀ g ∈ l, f.key ≠ g.key) → t.get f = s.get f

/-- Registers alone change, and of those only the ones listed. -/
def RegsOnly (l : List Fld) (s t : State) : Prop := t = { s with regs := t.regs } ∧ RegFrame l s t

/-- A write takes effect: registers alone change, of those only the ones listed, and values held for these are dropped (R8). -/
def Takes (l : List Fld) (s t : State) : Prop :=
  t = { s with regs := t.regs, hold := s.hold.filter fun h => !l.contains h.fld } ∧ RegFrame l s t

/-- The fields that the entry of a fault of a class can change: its counts and the first-fault latch (R639, R641, R642). -/
def faultFields (cls : Nat) : List Fld :=
  [F.SYS_FAULT_CNT cls, F.SYS_FAULT_QOVF cls, F.SYS_FAULT_LOG_LOST, F.SYS_FAULT_FIRST_VALID, F.SYS_FAULT_FIRST_CLASS,
    F.SYS_FAULT_FIRST_CODE, F.SYS_FAULT_FIRST_DETAIL, F.SYS_FAULT_FIRST_TIME]

/-- The fields that a pair's leaving of ON changes (R503). -/
def tripFields : List Fld := [F.SAF_EVENT_TRIP, F.SAF_CNT_TRIP]

/-- The fields that a new judgement of the pairs can change (R477, R503). -/
def settleFields : List Fld := tripFields ++ [F.SAF_EVENT_GAP_TRIP, F.SAF_CNT_GRACE]

/-- The fields that an F3 fault with its reaction can change (R492, R493, R503). -/
def f3Fields : List Fld :=
  faultFields 3 ++ tripFields ++ [F.SAF_STATUS_HOLD_CAUSE, F.SAF_EVENT_HOLD, F.SAF_STATUS_LOCK_LATCH, F.SAF_STATUS_LOCK_CAUSE,
    F.SAF_EVENT_LOCKOUT]

/-- The fields that end with CTL (R74, R117, R660): the herd firmware's, the session's, the scan's, the halter's and the conditions
of the clusters. -/
def ctlFields : List Fld :=
  [F.SYS_STATUS_CMD_LIVE, F.SYS_START_IMAGE, F.SYS_STATUS_PARTNER_UP, F.LNK_PRT_STATUS_SESSION, F.SEC_STATUS_SESSION_KEYS,
    F.SCH_STATUS_RUNNING, F.RED_STATUS_HALTER, F.RED_ILK_DRIVING] ++ (List.range 17).map clst

/-- The fields that an F4 fault with its reaction can change (R113, R646). -/
def f4Fields : List Fld :=
  faultFields 4 ++ tripFields ++ ctlFields ++ [F.SYS_RESET_CAUSE_F4, F.SYS_START_FAIL_STEP, F.SYS_START_START_FAILS, F.SYS_STATUS_STEP]

/-- A command completes in a next state that has a property. -/
def Gives (c : Instr) (s : State) (P : State → Prop) : Prop := ∃ t, exec c s = .next t ∧ P t

/-- The command of a source, a tag and an opcode waits in its phase, may start (R132), and its row's checks pass, or have passed
before its ACCEPTED and before its buffer was read (R135, R692). -/
structure Ready (s : State) (p : Port) (tag op : Nat) (check : State → Cmd → Option Nat) (c : Cmd) : Prop where
  found : findCmd s p tag op = some c
  phase : c.phase = if opReads op = true then .ready else .fetched
  may : startable s c = true
  passes : (opReads op && opLong op && c.first) = true ∨ check s c = none

/-- The last completion formed is the final one of a command, with a status and a result (R126, R131). -/
def Ends (t : State) (c : Cmd) (status result : Nat) : Prop :=
  ∃ x, t.cmd.comps.getLast? = some x ∧ x.port = c.port ∧ x.tag = c.tag ∧ x.index = c.index ∧ x.status = status ∧
    x.final = true ∧ x.result = result % 2 ^ 64

/-- A long operation runs: the command stands in the list as running, with its ACCEPTED formed or already sent (R131). -/
def Running (t : State) (c : Cmd) : Prop :=
  { c with phase := CmdPhase.running, first := true } ∈ t.cmd.cmds

/-- The last completion formed is the ACCEPTED of a command, which is not final and has no result (R126, R131). -/
def Accepted (t : State) (c : Cmd) : Prop :=
  ∃ x, t.cmd.comps.getLast? = some x ∧ x.port = c.port ∧ x.tag = c.tag ∧ x.index = c.index ∧ x.status = St.accepted ∧
    x.final = false ∧ x.result = 0

/-- The output of a command goes where its port has it: into the last completion formed on the management port, and into the
host's memory at the command's buffer on the ring (R148, R157). -/
def Delivers (s t : State) (c : Cmd) (d : List Byte) : Prop := match c.port with
  | .mgmt => ∃ x, t.cmd.comps.getLast? = some x ∧ x.out = d
  | .ring => t.tx = (sendMem s c.bufAddr d).tx

/-- A command of an opcode waits in its phase and may start (R132), and has no first completion yet. -/
structure Waits (s : State) (p : Port) (tag op : Nat) (c : Cmd) : Prop where
  found : findCmd s p tag op = some c
  phase : c.phase = if opReads op = true then .ready else .fetched
  may : startable s c = true
  none_ : c.first = false

/-- The invariant of the block. -/
structure State.Inv (s : State) : Prop where
  canonical : s.canonical = true
  outputs : s.OutputsSafe
  log : s.LogBounded
  queues : s.QueuesBounded

/-- What leads from one state to another keeps the invariant, the queue of waiting commands and everything sent so far. -/
structure Holds (s t : State) : Prop where
  pending : t.pending = s.pending
  sent : s.tx <+: t.tx
  canonical : s.canonical = true → t.canonical = true
  outputs : s.OutputsSafe → t.OutputsSafe
  log : s.LogBounded → t.LogBounded
  queues : s.QueuesBounded → t.QueuesBounded

/-- It also arms nothing and switches no output on. -/
structure Keeps (s t : State) : Prop extends Holds s t where
  armed : t.saf.armed = true → s.saf.armed = true
  on : ∀ d : Side, ∀ n < 4, (t.ev d).pair n = .on → (s.ev d).pair n = .on

/-- A next state, where the outcome is one, is related so to a state. -/
structure OutKeeps (s : State) (o : Host.Outcome State Fault Refusal) : Prop where
  keeps : ∀ t, o = .next t → Keeps s t

end Sys2Proof.Machine
end

