-- ==== Sys2Proof/Laws/Store.lean ====
section
/-! SUPPORT. The laws of the register store: reading after writing, writing another field, and the canonical form. -/

namespace Sys2Proof.Machine

theorem risingFrom_mono {m n : Nat} (h : m ≤ n) {l : List (Nat × Nat)} (r : risingFrom n l = true) :
    risingFrom m l = true := by
  cases l with
  | nil => rfl
  | cons e l => simp only [risingFrom, Bool.and_eq_true, decide_eq_true_eq] at r ⊢; exact ⟨Nat.le_trans h r.1, r.2⟩

theorem risingFrom_insert {n : Nat} {l : List (Nat × Nat)} {k v : Nat} (r : risingFrom n l = true) (h : n ≤ k) :
    risingFrom n (insertReg l k v) = true := by
  fun_induction insertReg l k v generalizing n <;> grind [risingFrom]

theorem risingFrom_erase {n : Nat} {l : List (Nat × Nat)} {k : Nat} (r : risingFrom n l = true) :
    risingFrom n (eraseReg l k) = true := by
  fun_induction eraseReg l k generalizing n with
  | case1 => exact r
  | case2 _ _ _ ih =>
    simp only [risingFrom, Bool.and_eq_true, decide_eq_true_eq] at r
    exact risingFrom_mono (by omega) (ih r.2)
  | case3 => grind [risingFrom]

theorem risingFrom_filter {n : Nat} {l : List (Nat × Nat)} (p : Nat × Nat → Bool) (r : risingFrom n l = true) :
    risingFrom n (l.filter p) = true := by
  fun_induction risingFrom n l with
  | case1 => rfl
  | case2 n a b l ih =>
    simp only [Bool.and_eq_true, decide_eq_true_eq] at r
    rw [List.filter_cons]
    split
    · simp [risingFrom, r.1, ih r.2]
    · exact risingFrom_mono (by omega) (ih r.2)

theorem risingFrom_put {n : Nat} {l : List (Nat × Nat)} (f : Fld) (w : Nat) (r : risingFrom n l = true) (h : n ≤ f.key) :
    risingFrom n (putReg l f w) = true := by
  unfold putReg
  split
  · exact risingFrom_erase r
  · exact risingFrom_insert r h

theorem lookupReg_insert_same (l : List (Nat × Nat)) (k v : Nat) : lookupReg (insertReg l k v) k = some v := by
  fun_induction insertReg l k v <;> simp_all [lookupReg]

theorem lookupReg_insert_other (l : List (Nat × Nat)) {k x : Nat} (v : Nat) (h : x ≠ k) :
    lookupReg (insertReg l k v) x = lookupReg l x := by
  fun_induction insertReg l k v <;> simp_all [lookupReg]

theorem lookupReg_erase_same (l : List (Nat × Nat)) (k : Nat) : lookupReg (eraseReg l k) k = none := by
  fun_induction eraseReg l k <;> simp_all [lookupReg]

theorem lookupReg_erase_other (l : List (Nat × Nat)) {k x : Nat} (h : x ≠ k) :
    lookupReg (eraseReg l k) x = lookupReg l x := by
  fun_induction eraseReg l k <;> simp_all [lookupReg]

theorem lookupReg_put_same (l : List (Nat × Nat)) (f : Fld) (w : Nat) :
    (lookupReg (putReg l f w) f.key).getD f.reset = w := by
  unfold putReg
  split
  · simp [lookupReg_erase_same, *]
  · simp [lookupReg_insert_same]

theorem lookupReg_put_other (l : List (Nat × Nat)) (f : Fld) (w : Nat) {x : Nat} (h : x ≠ f.key) :
    lookupReg (putReg l f w) x = lookupReg l x := by
  unfold putReg
  split
  · exact lookupReg_erase_other l h
  · exact lookupReg_insert_other l w h

/-- A field reads as it was written, cut to its width. -/
theorem get_set_same (s : State) (f : Fld) (v : Nat) : (s.set f v).get f = v % 2 ^ f.width :=
  lookupReg_put_same s.regs f _

/-- Writing one field leaves every other field alone. -/
theorem get_set_other (s : State) {f g : Fld} (v : Nat) (h : g.key ≠ f.key) : (s.set f v).get g = s.get g := by
  simp only [State.get, State.set, lookupReg_put_other s.regs f _ h]

theorem get_put_other (s : State) {f g : Fld} (b : Bool) (h : g.key ≠ f.key) : (s.put f b).get g = s.get g :=
  get_set_other s _ h

theorem get_add_other (s : State) {f g : Fld} (n : Nat) (h : g.key ≠ f.key) : (s.add f n).get g = s.get g :=
  get_set_other s _ h

theorem get_inc_other (s : State) {f g : Fld} (h : g.key ≠ f.key) : (s.inc f).get g = s.get g :=
  get_set_other s _ h

theorem get_setInt_other (s : State) {f g : Fld} (x : Int) (h : g.key ≠ f.key) : (s.setInt f x).get g = s.get g :=
  get_set_other s _ h

/-- A field that returns to its reset value reads as that value. -/
theorem get_clear_same (s : State) (f : Fld) : (s.clear f).get f = f.reset := by
  simp [State.get, State.clear, lookupReg_erase_same]

theorem get_clear_other (s : State) {f g : Fld} (h : g.key ≠ f.key) : (s.clear f).get g = s.get g := by
  simp only [State.get, State.clear, lookupReg_erase_other s.regs h]

theorem canonical_set (s : State) (f : Fld) (v : Nat) (h : s.canonical = true) : (s.set f v).canonical = true :=
  risingFrom_put f _ h (Nat.zero_le _)

theorem canonical_clear (s : State) (f : Fld) (h : s.canonical = true) : (s.clear f).canonical = true :=
  risingFrom_erase h

/-- What a list reads as after another entry is put in it. -/
@[simp] theorem putAt_getD {α : Type} (l : List α) (n m : Nat) (rest x : α) :
    (putAt l n rest x).getD m rest = if n = m then x else l.getD m rest := by
  simp only [putAt, List.getD_eq_getElem?_getD, List.getElem?_set, List.getElem?_append, List.getElem?_replicate,
    List.length_append, List.length_replicate]
  by_cases h : n = m
  · subst h
    have : n < l.length + (n + 1 - l.length) := by omega
    simp [this]
  · by_cases k : m < l.length
    · simp [h, k]
    · simp only [h, k, if_false, List.getElem?_eq_none (Nat.not_lt.mp k)]
      split <;> rfl

end Sys2Proof.Machine
end

