-- ==== Sys2Proof/Laws/Keeps.lean ====
section
/-! SUPPORT. What the shared operations of Machine/Ops.lean keep (Safety.lean), and how one operation after another keeps
it; the other files of Laws/ say the same of every family's operations. -/

namespace Sys2Proof.Machine

theorem Holds.refl (s : State) : Holds s s :=
  ⟨rfl, List.prefix_rfl, id, id, id, id⟩

theorem Holds.trans {r s t : State} (h : Holds r s) (k : Holds s t) : Holds r t :=
  ⟨k.1.trans h.1, h.2.trans k.2, fun x => k.3 (h.3 x), fun x => k.4 (h.4 x), fun x => k.5 (h.5 x), fun x => k.6 (h.6 x)⟩

theorem Keeps.refl (s : State) : Keeps s s :=
  ⟨Holds.refl s, id, fun _ _ _ => id⟩

theorem Keeps.trans {r s t : State} (h : Keeps r s) (k : Keeps s t) : Keeps r t :=
  ⟨h.1.trans k.1, fun x => h.2 (k.2 x), fun d n hn x => h.3 d n hn (k.3 d n hn x)⟩

/-- What no output and no arming depends on changes. -/
theorem Keeps.plain {z s t : State} (h : Keeps z s) (h1 : t.pending = s.pending) (h2 : s.tx <+: t.tx)
    (h3 : s.canonical = true → t.canonical = true) (h4 : t.saf = s.saf) (h5 : t.mode = s.mode)
    (h6 : s.LogBounded → t.LogBounded) (h7 : s.QueuesBounded → t.QueuesBounded) : Keeps z t := by
  have he : ∀ d, t.ev d = s.ev d := by intro d; cases d <;> simp only [State.ev, h4]
  refine h.trans ⟨⟨h1, h2, h3, ?_, h6, h7⟩, by rw [h4]; exact id, fun d n _ x => by rw [← he]; exact x⟩
  intro x d n hn k
  rw [h4, h5]
  exact x d n hn (he d ▸ k)

/-- A change of the parts of the state that no promise speaks of. -/
theorem Keeps.same {z s t : State} (h : Keeps z s) (h1 : t.pending = s.pending) (h2 : t.tx = s.tx) (h3 : t.regs = s.regs)
    (h4 : t.saf.evA.pairs = s.saf.evA.pairs) (h5 : t.saf.evB.pairs = s.saf.evB.pairs) (h6 : t.saf.armed = s.saf.armed)
    (h7 : t.mode = s.mode) (h8 : t.faults = s.faults) (h9 : t.reactions = s.reactions) : Keeps z t := by
  have hp : ∀ d n, (t.ev d).pair n = (s.ev d).pair n := by
    intro d n
    cases d
    · simp only [State.ev, Evaluator.pair, h4]
    · simp only [State.ev, Evaluator.pair, h5]
  refine h.trans ⟨⟨h1, h2 ▸ List.prefix_rfl, ?_, ?_, ?_, ?_⟩, by rw [h6]; exact id, fun d n _ x => by rw [← hp]; exact x⟩
  · intro x; simpa only [State.canonical, h3] using x
  · intro x d n hn k
    rw [h6, h7]
    exact x d n hn (hp d n ▸ k)
  · intro x; simpa only [State.LogBounded, h8] using x
  · intro x c; simpa only [queueDepth, h9] using x c

/-- A change of the parts of the state that no promise speaks of, in the form that a record update takes. -/
theorem Keeps.upd {z s : State} {regs1 mode1 pending1 faults1 reactions1 running1 free1 hold1 aonFine1 pins1 fatalReset1 sys1
    link1 tx1 sec1 cmd1 rxf1 tdc1 hge1 yrd1 sch1 emi1 thm1 hkc1 red1 acq1 irq1 prt1 cal1} {saf1 : SafSt}
    (h : Keeps z s) (h1 : pending1 = s.pending) (h2 : tx1 = s.tx) (h3 : regs1 = s.regs)
    (h4 : saf1.evA.pairs = s.saf.evA.pairs) (h5 : saf1.evB.pairs = s.saf.evB.pairs) (h6 : saf1.armed = s.saf.armed)
    (h7 : mode1 = s.mode) (h8 : faults1 = s.faults) (h9 : reactions1 = s.reactions) :
    Keeps z (State.mk regs1 mode1 pending1 faults1 reactions1 running1 free1 hold1 aonFine1 pins1 fatalReset1 sys1
      link1 tx1 sec1 cmd1 rxf1 tdc1 hge1 yrd1 sch1 emi1 thm1 hkc1 saf1 red1 acq1 irq1 prt1 cal1) :=
  h.same h1 h2 h3 h4 h5 h6 h7 h8 h9

theorem Keeps.yrd {z s : State} (h : Keeps z s) (x : YardSt) : Keeps z { s with yrd := x } :=
  h.upd rfl rfl rfl rfl rfl rfl rfl rfl rfl

theorem Keeps.red {z s : State} (h : Keeps z s) (x : RedSt) : Keeps z { s with red := x } :=
  h.upd rfl rfl rfl rfl rfl rfl rfl rfl rfl

theorem Keeps.sch {z s : State} (h : Keeps z s) (x : SchSt) : Keeps z { s with sch := x } :=
  h.upd rfl rfl rfl rfl rfl rfl rfl rfl rfl

theorem Keeps.cmd {z s : State} (h : Keeps z s) (x : CmdSt) : Keeps z { s with cmd := x } :=
  h.upd rfl rfl rfl rfl rfl rfl rfl rfl rfl

theorem Keeps.stalls {z s : State} (h : Keeps z s) (l : List Stall) : Keeps z { s with yrd := { s.yrd with stalls := l } } :=
  h.yrd _

/-- Something more is sent. -/
theorem Keeps.send {z s : State} (h : Keeps z s) (l : List Sent) : Keeps z { s with tx := s.tx ++ l } :=
  h.plain rfl (List.prefix_append _ _) id rfl rfl id id

theorem Keeps.foldl {α : Type} {z s : State} (g : State → α → State) (l : List α) (h : Keeps z s)
    (hg : ∀ t x, Keeps z t → Keeps z (g t x)) : Keeps z (l.foldl g s) :=
  List.foldlRecOn l g h fun t k x _ => hg t x k

/-- The same over a fold that carries more than the state. -/
theorem Keeps.foldl_by {α β : Type} {z : State} {b : β} (p : β → State) (g : β → α → β) (l : List α) (h : Keeps z (p b))
    (hg : ∀ b x, Keeps z (p b) → Keeps z (p (g b x))) : Keeps z (p (l.foldl g b)) :=
  List.foldlRecOn (motive := fun b => Keeps z (p b)) l g h fun b k x _ => hg b x k

theorem Keeps.fst {α : Type} {z t : State} {p : State × α} {a : α} (e : p = (t, a)) (h : Keeps z p.1) : Keeps z t := by
  subst e; exact h

theorem Keeps.snd {α : Type} {z t : State} {p : α × State} {a : α} (e : p = (a, t)) (h : Keeps z p.2) : Keeps z t := by
  subst e; exact h

theorem Keeps.ite {z s t : State} {c : Prop} [Decidable c] (h : Keeps z s) (k : Keeps z t) : Keeps z (if c then s else t) := by
  split <;> assumption

theorem set_keeps {z s : State} (f : Fld) (v : Nat) (h : Keeps z s) : Keeps z (s.set f v) :=
  h.plain rfl List.prefix_rfl (canonical_set s f v) rfl rfl id id

theorem put_keeps {z s : State} (f : Fld) (b : Bool) (h : Keeps z s) : Keeps z (s.put f b) := set_keeps f _ h

theorem add_keeps {z s : State} (f : Fld) (n : Nat) (h : Keeps z s) : Keeps z (s.add f n) := set_keeps f _ h

theorem inc_keeps {z s : State} (f : Fld) (h : Keeps z s) : Keeps z (s.inc f) := set_keeps f _ h

theorem setInt_keeps {z s : State} (f : Fld) (x : Int) (h : Keeps z s) : Keeps z (s.setInt f x) := set_keeps f _ h

theorem clear_keeps {z s : State} (f : Fld) (h : Keeps z s) : Keeps z (s.clear f) :=
  h.plain rfl List.prefix_rfl (canonical_clear s f) rfl rfl id id

theorem takeFree_keeps {z s : State} (w : Nat) (h : Keeps z s) : Keeps z (s.takeFree w).2 :=
  h.same rfl rfl rfl rfl rfl rfl rfl rfl rfl

/-- An evaluator's record changes, but none of its pairs. -/
theorem setEv_keeps {z s : State} (d : Side) (e : Evaluator) (hp : e.pairs = (s.ev d).pairs) (h : Keeps z s) :
    Keeps z (s.setEv d e) := by
  cases d
  · exact h.same rfl rfl rfl hp rfl rfl rfl rfl rfl
  · exact h.same rfl rfl rfl rfl hp rfl rfl rfl rfl

theorem OutKeeps.next {z s : State} (h : Keeps z s) : OutKeeps z (.next s) :=
  ⟨fun _ e => by cases e; exact h⟩

theorem OutKeeps.fault {z : State} (f : Fault) : OutKeeps z (.fault f) :=
  ⟨fun _ e => by cases e⟩

theorem OutKeeps.refused {z : State} (r : Refusal) : OutKeeps z (.refused r) :=
  ⟨fun _ e => by cases e⟩

theorem OutKeeps.ite {z : State} {c : Prop} [Decidable c] {a b : Host.Outcome State Fault Refusal} (h : OutKeeps z a)
    (k : OutKeeps z b) : OutKeeps z (if c then a else b) := by
  split <;> assumption

/-! ### Faults -/

/-- A change of the fault log alone keeps everything if the log does not grow past its size. -/
theorem Keeps.faults {z s : State} {l : List FaultRec} (h : Keeps z s) (hl : s.faults.length ≤ 64 → l.length ≤ 64) :
    Keeps z { s with faults := l } :=
  h.plain rfl List.prefix_rfl id rfl rfl hl id

theorem dropFirst_length (p : FaultRec → Bool) (l : List FaultRec) (h : l.any p = true) :
    (dropFirst p l).length + 1 = l.length := by
  induction l with
  | nil => simp at h
  | cons a l ih =>
    simp only [dropFirst]
    split
    · simp
    · simp only [List.any_cons, Bool.or_eq_true] at h
      simp [ih (h.resolve_left (by assumption))]

theorem lowestClass_foldl (l : List FaultRec) (m : Nat) :
    l.foldl (fun m r => min m r.cls) m = m ∨ ∃ r ∈ l, r.cls = l.foldl (fun m r => min m r.cls) m := by
  induction l generalizing m with
  | nil => exact .inl rfl
  | cons a l ih =>
    rw [List.foldl_cons]
    rcases ih (min m a.cls) with h | ⟨r, hr, h⟩
    · rw [h]
      rcases Nat.le_total m a.cls with k | k
      · exact .inl (Nat.min_eq_left k)
      · exact .inr ⟨a, by simp, (Nat.min_eq_right k).symm⟩
    · exact .inr ⟨r, by simp [hr], h⟩

theorem lowestClass_mem (l : List FaultRec) (h : l ≠ []) : l.any (fun x => x.cls == lowestClass l) = true := by
  cases l with
  | nil => exact absurd rfl h
  | cons a l =>
    simp only [lowestClass, List.any_cons, Bool.or_eq_true, beq_iff_eq, List.any_eq_true]
    rcases lowestClass_foldl l a.cls with k | k
    · exact .inl k.symm
    · exact .inr k

theorem insertFault_length (l : List FaultRec) (r : FaultRec) (h : l.length ≤ 64) : (insertFault l r).1.length ≤ 64 := by
  unfold insertFault
  split
  · simp; omega
  · have hl : l ≠ [] := by rintro rfl; simp at *
    split
    · have := dropFirst_length _ l ‹_›
      simp; omega
    · split
      · have := dropFirst_length _ l (lowestClass_mem l hl)
        simp; omega
      · exact h

theorem faultTrigger_keeps {z s : State} (cls : Nat) (h : Keeps z s) : Keeps z (faultTrigger s cls) := by
  unfold faultTrigger trigger triggerAt
  repeat' first | assumption | split | refine Keeps.upd ?_ rfl rfl rfl rfl rfl rfl rfl rfl rfl

theorem logRecord_keeps {z s : State} (cls code detail : Nat) (active : Bool) (h : Keeps z s) :
    Keeps z (logRecord s cls code detail active) := by
  have k := faultTrigger_keeps cls h
  unfold logRecord
  dsimp only
  split
  · exact k.faults (by simp)
  · split
    · exact inc_keeps _ (k.faults (insertFault_length _ _))
    · exact k.faults (insertFault_length _ _)

theorem latchFirst_keeps {z s : State} (cls code detail : Nat) (h : Keeps z s) : Keeps z (latchFirst s cls code detail) := by
  unfold latchFirst
  split
  · exact h
  · exact set_keeps _ _ (set_keeps _ _ (set_keeps _ _ (set_keeps _ _ (set_keeps _ _ h))))

theorem queueReaction_keeps {z s : State} (cls code detail : Nat) (h : Keeps z s) :
    Keeps z (queueReaction s cls code detail) := by
  unfold queueReaction
  split
  · exact h
  · split
    · refine h.plain rfl List.prefix_rfl id rfl rfl id fun q c => ?_
      have := q c
      simp only [queueDepth, List.filter_append, List.length_append] at *
      by_cases e : cls = c
      · subst e; simp; omega
      · simp [e]; exact this
    · exact inc_keeps _ (h.faults (by simp))

/-- A fault detected and handled as chapter 20 says keeps everything. -/
theorem raiseFault_keeps {z s : State} (cls code detail : Nat) (h : Keeps z s) : Keeps z (raiseFault s cls code detail) :=
  queueReaction_keeps _ _ _ (latchFirst_keeps _ _ _ (logRecord_keeps _ _ _ _ (inc_keeps _ h)))

theorem endFault_keeps {z s : State} (code detail : Nat) (h : Keeps z s) : Keeps z (endFault s code detail) :=
  h.faults (by simp)

/-! ### The output pairs and the device state -/

theorem setPairAt_keeps {z s : State} (n : Nat) (p : Pair) (h : Keeps z s) : Keeps z (setPairAt s n p) :=
  h.upd rfl rfl rfl rfl rfl rfl rfl rfl rfl

@[simp] theorem setEv_same (s : State) (d : Side) (e : Evaluator) : (s.setEv d e).ev d = e := by cases d <;> rfl

theorem setEv_other (s : State) {d k : Side} (e : Evaluator) (h : k ≠ d) : (s.setEv d e).ev k = s.ev k := by
  cases d <;> cases k <;> first | rfl | exact absurd rfl h

/-- An evaluator's record changes so that a pair is on only where a condition lets it be. -/
theorem setEv_holds {s : State} (d : Side) (e : Evaluator)
    (hp : s.OutputsSafe → ∀ n < 4, e.pair n = .on → s.saf.armed = true ∧ s.mode = .scan) : Holds s (s.setEv d e) := by
  have ha : (s.setEv d e).saf.armed = s.saf.armed := by cases d <;> rfl
  have hm : (s.setEv d e).mode = s.mode := by cases d <;> rfl
  refine ⟨by cases d <;> rfl, ?_, ?_, fun x k n hn hk => ?_, ?_, ?_⟩
  · cases d <;> exact List.prefix_rfl
  · cases d <;> exact id
  · rw [ha, hm]
    by_cases e1 : k = d
    · subst e1; rw [setEv_same] at hk; exact hp x n hn hk
    · rw [setEv_other s e e1] at hk; exact x k n hn hk
  · cases d <;> exact id
  · cases d <;> exact id

/-- An evaluator's record changes, and no pair of it goes on. -/
theorem setEv_keeps_outputs {z s : State} (d : Side) (e : Evaluator) (h : Keeps z s)
    (hp : ∀ n < 4, e.pair n = .on → (s.ev d).pair n = .on) : Keeps z (s.setEv d e) := by
  refine h.trans ⟨setEv_holds d e fun x n hn k => x d n hn (hp n hn k), by cases d <;> exact id, fun k n hn hk => ?_⟩
  by_cases e1 : k = d
  · subst e1; rw [setEv_same] at hk; exact hp n hn hk
  · rw [setEv_other s e e1] at hk; exact hk

theorem pair_putAt (e : Evaluator) (m n : Nat) (st : PairState) :
    Evaluator.pair { e with pairs := putAt e.pairs m .disabled st } n = if m = n then st else e.pair n := by
  simp only [Evaluator.pair, putAt_getD]

/-- A pair that goes to any state but ON keeps everything. -/
theorem setPair_keeps {z s : State} (d : Side) (n : Nat) (st : PairState) (ho : st ≠ .on) (h : Keeps z s) :
    Keeps z (setPair s d n st) := by
  have k : Keeps z (s.setEv d { s.ev d with pairs := putAt (s.ev d).pairs n .disabled st }) := by
    refine setEv_keeps_outputs d _ h fun m hm hk => ?_
    rw [pair_putAt] at hk
    split at hk
    · exact absurd hk ho
    · exact hk
  unfold setPair
  dsimp only
  repeat' first
    | assumption
    | with_reducible apply setPairAt_keeps
    | with_reducible apply inc_keeps
    | with_reducible apply set_keeps
    | split

/-- A pair goes on while the block is armed in SCAN. -/
theorem setPair_holds {s : State} (d : Side) (n : Nat) (st : PairState) (hs : s.saf.armed = true ∧ s.mode = .scan) :
    Holds s (setPair s d n st) := by
  have k : Holds s (s.setEv d { s.ev d with pairs := putAt (s.ev d).pairs n .disabled st }) := setEv_holds d _ fun _ _ _ _ => hs
  unfold setPair
  dsimp only
  refine k.trans (Keeps.toHolds ?_)
  generalize s.setEv d { s.ev d with pairs := putAt (s.ev d).pairs n .disabled st } = t
  have kt := Keeps.refl t
  exact Keeps.ite (setPairAt_keeps _ _ (Keeps.ite (inc_keeps _ (set_keeps _ _ kt)) kt)) (Keeps.ite (inc_keeps _ (set_keeps _ _ kt)) kt)

theorem setPair_pair (s : State) (d k : Side) (m n : Nat) (st : PairState) :
    ((setPair s d m st).ev k).pair n = if k = d ∧ m = n then st else (s.ev k).pair n := by
  have h : (setPair s d m st).ev k = (s.setEv d { s.ev d with pairs := putAt (s.ev d).pairs m .disabled st }).ev k := by
    unfold setPair; dsimp only
    split <;> split <;> cases d <;> cases k <;> rfl
  rw [h]
  by_cases e : k = d
  · subst e; rw [setEv_same, pair_putAt]; simp
  · rw [setEv_other s _ e]; simp [e]

theorem forcePair_keeps {z s : State} (n : Nat) (h : Keeps z s) : Keeps z (forcePair s n) := by
  unfold forcePair
  dsimp only
  repeat' first
    | assumption
    | (with_reducible refine setPair_keeps _ _ _ ?_ ?_)
    | (intro e; cases e; done)
    | split

/-- A forced pair is on in neither evaluator, and no pair is switched on. -/
theorem forcePair_pair (s : State) (m : Nat) (k : Side) (n : Nat) (h : ((forcePair s m).ev k).pair n = .on) :
    m ≠ n ∧ (s.ev k).pair n = .on := by
  have step : ∀ (s : State) (d : Side),
      (((if (s.ev d).pair m == .disabled then s else setPair s d m .forced).ev k).pair n = .on →
        (k = d → m ≠ n) ∧ (s.ev k).pair n = .on) := by
    intro s d h
    split at h
    · refine ⟨?_, h⟩
      rintro rfl rfl
      simp_all
    · rw [setPair_pair] at h
      split at h
      · cases h
      · rename_i hc
        refine ⟨?_, h⟩
        rintro rfl rfl
        exact hc ⟨rfl, rfl⟩
  unfold forcePair at h
  dsimp only at h
  obtain ⟨h1, h2⟩ := step _ .b h
  obtain ⟨h3, h4⟩ := step _ .a h2
  refine ⟨?_, h4⟩
  cases k
  · exact h3 rfl
  · exact h1 rfl

theorem forcePairs_keeps {z s : State} (h : Keeps z s) : Keeps z (forcePairs s) :=
  forcePair_keeps _ (forcePair_keeps _ (forcePair_keeps _ (forcePair_keeps _ h)))

/-- After every pair is forced none is on. -/
theorem forcePairs_pair (s : State) (k : Side) (n : Nat) (hn : n < 4) : ((forcePairs s).ev k).pair n ≠ .on := by
  intro h
  obtain ⟨h3, h⟩ := forcePair_pair _ _ _ _ h
  obtain ⟨h2, h⟩ := forcePair_pair _ _ _ _ h
  obtain ⟨h1, h⟩ := forcePair_pair _ _ _ _ h
  obtain ⟨h0, h⟩ := forcePair_pair _ _ _ _ h
  omega

/-- Where no pair is on, the device state may become anything and the arming may end. -/
theorem Keeps.quiet {z s t : State} (h : Keeps z s) (hq : ∀ d, ∀ n < 4, (s.ev d).pair n ≠ .on)
    (h1 : t.pending = s.pending) (h2 : t.tx = s.tx) (h3 : t.regs = s.regs) (h4 : t.saf.evA.pairs = s.saf.evA.pairs)
    (h5 : t.saf.evB.pairs = s.saf.evB.pairs) (h6 : t.saf.armed = true → s.saf.armed = true) (h8 : t.faults = s.faults)
    (h9 : t.reactions = s.reactions) : Keeps z t := by
  have hp : ∀ d, ∀ n < 4, (t.ev d).pair n ≠ .on := by
    intro d n hn k
    refine hq d n hn ?_
    cases d
    · simpa only [State.ev, Evaluator.pair, h4] using k
    · simpa only [State.ev, Evaluator.pair, h5] using k
  refine h.trans ⟨⟨h1, h2 ▸ List.prefix_rfl, ?_, fun _ d n hn k => absurd k (hp d n hn), ?_, ?_⟩, h6,
    fun d n hn k => absurd k (hp d n hn)⟩
  · intro x; simpa only [State.canonical, h3] using x
  · intro x; simpa only [State.LogBounded, h8] using x
  · intro x c; simpa only [queueDepth, h9] using x c

/-- After a reset no output is on and nothing is armed. -/
theorem Keeps.afterReset {z s t : State} (h : Keeps z s) (h1 : t.pending = s.pending) (h2 : t.tx = s.tx)
    (h3 : s.canonical = true → t.canonical = true) (h4 : t.saf = State.reset.saf) (h8 : s.LogBounded → t.LogBounded)
    (h9 : s.QueuesBounded → t.QueuesBounded) : Keeps z t := by
  have hp : ∀ d, ∀ n < 4, (t.ev d).pair n ≠ .on := by
    intro d n hn
    have : (t.ev d) = (State.reset.ev d) := by cases d <;> simp only [State.ev, h4]
    rw [this]
    cases d <;> (match n, hn with | 0, _ | 1, _ | 2, _ | 3, _ => decide)
  exact h.trans ⟨⟨h1, h2 ▸ List.prefix_rfl, h3, fun _ d n hn k => absurd k (hp d n hn), h8, h9⟩,
    fun k => (by rw [h4] at k; cases k), fun d n hn k => absurd k (hp d n hn)⟩

/-- The device takes a state: in SCAN the outputs stay as they are, in any other state every pair is forced. -/
theorem setMode_keeps {z s : State} (m : Mode) (h : Keeps z s) : Keeps z (setMode s m) := by
  unfold setMode
  dsimp only
  split
  · rename_i e
    have : m = .scan := by simpa using e
    subst this
    exact h.trans ⟨⟨rfl, List.prefix_rfl, id, fun x d n hn k => ⟨(x d n hn k).1, rfl⟩, id, id⟩, id, fun _ _ _ => id⟩
  · have k := forcePairs_keeps h
    have q := forcePairs_pair s
    generalize forcePairs s = t at k q
    exact k.quiet q rfl rfl rfl rfl rfl id rfl rfl

end Sys2Proof.Machine
end

