-- ==== Sys2Proof/Laws/KeepsCommand.lean ====
section
/-! SUPPORT. What every operation of faults, commands, interrupts, resets, power and the frame of an opcode's row keeps (Safety.lean): one lemma each. -/

namespace Sys2Proof.Machine

theorem noteEdge_keeps {z s : State} (src : Nat) (sel : Option Nat) (x : Edge) (hz : Keeps z s) : Keeps z (noteEdge s src sel x) := by
  unfold noteEdge
  try dsimp only
  repeat' first
    | (with_reducible first | assumption | apply Keeps.ite)
    | split
    | refine Keeps.upd ?_ rfl rfl rfl rfl rfl rfl rfl rfl rfl

theorem stick_keeps {z s : State} (src : Nat) (hz : Keeps z s) : Keeps z (stick s src) := by
  unfold stick
  try dsimp only
  repeat' first
    | (with_reducible first | assumption | apply set_keeps | apply Keeps.ite)
    | split
    | refine Keeps.upd ?_ rfl rfl rfl rfl rfl rfl rfl rfl rfl

theorem noteRefSwitch_keeps {z s : State} (hz : Keeps z s) : Keeps z (noteRefSwitch s) := by
  unfold noteRefSwitch
  try dsimp only
  repeat' first
    | (with_reducible first | assumption | apply Keeps.ite)
    | split
    | refine Keeps.upd ?_ rfl rfl rfl rfl rfl rfl rfl rfl rfl

theorem triggerAt_keeps {z s : State} (source : Nat) (date : Nat) (hz : Keeps z s) : Keeps z (triggerAt s source date) := by
  unfold triggerAt
  try dsimp only
  repeat' first
    | (with_reducible first | assumption | apply Keeps.ite)
    | split
    | refine Keeps.upd ?_ rfl rfl rfl rfl rfl rfl rfl rfl rfl

theorem trigger_keeps {z s : State} (source : Nat) (hz : Keeps z s) : Keeps z (trigger s source) := by
  unfold trigger
  try dsimp only
  repeat' first
    | (with_reducible first | assumption | apply triggerAt_keeps | apply Keeps.ite)
    | split
    | refine Keeps.upd ?_ rfl rfl rfl rfl rfl rfl rfl rfl rfl

theorem enterSafeHold_keeps {z s : State} (cause : Nat) (hz : Keeps z s) : Keeps z (enterSafeHold s cause) := by
  unfold enterSafeHold
  try dsimp only
  repeat' first
    | (with_reducible first | assumption | apply set_keeps | apply setMode_keeps | apply Keeps.ite)
    | split
    | refine Keeps.upd ?_ rfl rfl rfl rfl rfl rfl rfl rfl rfl

theorem enterLockout_keeps {z s : State} (cause : Nat) (hz : Keeps z s) : Keeps z (enterLockout s cause) := by
  unfold enterLockout
  try dsimp only
  repeat' first
    | (with_reducible first | assumption | apply set_keeps | apply setMode_keeps | apply Keeps.ite)
    | split
    | refine Keeps.upd ?_ rfl rfl rfl rfl rfl rfl rfl rfl rfl

theorem reactF3_keeps {z s : State} (k : F3Kind) (hz : Keeps z s) : Keeps z (reactF3 s k) := by
  unfold reactF3
  try dsimp only
  repeat' first
    | (with_reducible first
        | assumption | apply set_keeps | apply enterSafeHold_keeps | apply enterLockout_keeps | apply Keeps.ite)
    | split
    | refine Keeps.upd ?_ rfl rfl rfl rfl rfl rfl rfl rfl rfl

theorem raiseF3_keeps {z s : State} (code : Nat) (detail : Nat) (k : F3Kind) (hz : Keeps z s) : Keeps z (raiseF3 s code detail k) := by
  unfold raiseF3
  try dsimp only
  repeat' first
    | (with_reducible first | assumption | apply raiseFault_keeps | apply reactF3_keeps | apply Keeps.ite)
    | split
    | refine Keeps.upd ?_ rfl rfl rfl rfl rfl rfl rfl rfl rfl

theorem clearF3_keeps {z s : State} (code : Nat) (detail : Nat) (hz : Keeps z s) : Keeps z (clearF3 s code detail) := by
  unfold clearF3
  try dsimp only
  repeat' first
    | (with_reducible first | assumption | apply endFault_keeps | apply Keeps.ite)
    | split
    | refine Keeps.upd ?_ rfl rfl rfl rfl rfl rfl rfl rfl rfl

theorem ballsLow_keeps {z s : State} (hz : Keeps z s) : Keeps z (ballsLow s) := by
  unfold ballsLow
  try dsimp only
  repeat' first
    | (with_reducible first | assumption | apply Keeps.ite)
    | split
    | refine Keeps.upd ?_ rfl rfl rfl rfl rfl rfl rfl rfl rfl

theorem stepFailed_keeps {z s : State} (step : Nat) (hz : Keeps z s) : Keeps z (stepFailed s step) := by
  unfold stepFailed
  try dsimp only
  repeat' first
    | (with_reducible first | assumption | apply set_keeps | apply Keeps.ite)
    | split
    | refine Keeps.upd ?_ rfl rfl rfl rfl rfl rfl rfl rfl rfl

theorem setClusters_keeps {z s : State} (v : Nat) (hz : Keeps z s) : Keeps z (setClusters s v) := by
  unfold setClusters
  try dsimp only
  repeat' first
    | (with_reducible first | assumption | apply set_keeps | apply Keeps.foldl)
    | (intro _; try dsimp only)
    | with_reducible apply Keeps.ite
    | split
    | refine Keeps.upd ?_ rfl rfl rfl rfl rfl rfl rfl rfl rfl

theorem clearCtl_keeps {z s : State} (hz : Keeps z s) : Keeps z (clearCtl s) := by
  unfold clearCtl
  try dsimp only
  repeat' first
    | (with_reducible first | assumption | apply set_keeps | apply setClusters_keeps | apply Keeps.foldl)
    | (intro _; try dsimp only)
    | with_reducible apply Keeps.ite
    | split
    | refine Keeps.upd ?_ rfl rfl rfl rfl rfl rfl rfl rfl rfl

theorem ctlOff_keeps {z s : State} (hz : Keeps z s) : Keeps z (ctlOff s) := by
  unfold ctlOff
  try dsimp only
  repeat' first
    | (with_reducible first | assumption | apply clearCtl_keeps | apply Keeps.ite)
    | split
    | refine Keeps.upd ?_ rfl rfl rfl rfl rfl rfl rfl rfl rfl

theorem countStart_keeps {z s : State} (hz : Keeps z s) : Keeps z (countStart s) := by
  unfold countStart
  try dsimp only
  repeat' first
    | (with_reducible first | assumption | apply set_keeps | apply stepFailed_keeps | apply Keeps.ite)
    | split
    | refine Keeps.upd ?_ rfl rfl rfl rfl rfl rfl rfl rfl rfl

theorem raiseF4_keeps {z s : State} (code : Nat) (detail : Nat) (hz : Keeps z s) : Keeps z (raiseF4 s code detail) := by
  unfold raiseF4
  try dsimp only
  repeat' first
    | (with_reducible first
        | assumption | apply set_keeps | apply countStart_keeps | apply raiseFault_keeps | apply ballsLow_keeps
        | apply setMode_keeps | apply ctlOff_keeps | apply Keeps.ite)
    | split
    | refine Keeps.upd ?_ rfl rfl rfl rfl rfl rfl rfl rfl rfl

theorem sendBus_keeps {z s : State} (type : Nat) (data : Nat) (hz : Keeps z s) : Keeps z (sendBus s type data) := by
  unfold sendBus
  try dsimp only
  repeat' first
    | (with_reducible first | assumption | apply Keeps.send | apply Keeps.ite)
    | split
    | refine Keeps.upd ?_ rfl rfl rfl rfl rfl rfl rfl rfl rfl

theorem replaceCmd_keeps {z s : State} (c : Cmd) (c' : Cmd) (hz : Keeps z s) : Keeps z (replaceCmd s c c') := by
  unfold replaceCmd
  try dsimp only
  repeat' first
    | (with_reducible first | assumption | apply Keeps.ite)
    | split
    | refine Keeps.upd ?_ rfl rfl rfl rfl rfl rfl rfl rfl rfl

theorem sendMem_keeps {z s : State} (addr : Nat) (data : List Byte) (hz : Keeps z s) : Keeps z (sendMem s addr data) := by
  unfold sendMem
  try dsimp only
  repeat' first
    | (with_reducible first | assumption | apply Keeps.send | apply Keeps.ite)
    | split
    | refine Keeps.upd ?_ rfl rfl rfl rfl rfl rfl rfl rfl rfl

theorem sendRead_keeps {z s : State} (addr : Nat) (n : Nat) (hz : Keeps z s) : Keeps z (sendRead s addr n) := by
  unfold sendRead
  try dsimp only
  repeat' first
    | (with_reducible first | assumption | apply Keeps.send | apply Keeps.ite)
    | split
    | refine Keeps.upd ?_ rfl rfl rfl rfl rfl rfl rfl rfl rfl

theorem queueComp_keeps {z s : State} (c : Cmd) (status : Nat) (detail : Nat) (result : Nat) (final : Bool) (out : List Byte) (hz : Keeps z s) : Keeps z (queueComp s c status detail result final out) := by
  unfold queueComp
  try dsimp only
  repeat' first
    | (with_reducible first | assumption | apply inc_keeps | apply Keeps.ite)
    | split
    | refine Keeps.upd ?_ rfl rfl rfl rfl rfl rfl rfl rfl rfl

theorem finishWith_keeps {z s : State} (c : Cmd) (status : Nat) (detail : Nat) (result : Nat) (out : List Byte) (hz : Keeps z s) : Keeps z (finishWith s c status detail result out) := by
  unfold finishWith
  try dsimp only
  repeat' first
    | (with_reducible first | assumption | apply queueComp_keeps | apply replaceCmd_keeps | apply Keeps.ite)
    | split
    | refine Keeps.upd ?_ rfl rfl rfl rfl rfl rfl rfl rfl rfl

theorem finish_keeps {z s : State} (c : Cmd) (status : Nat) (detail : Nat) (result : Nat) (hz : Keeps z s) : Keeps z (finish s c status detail result) := by
  unfold finish
  try dsimp only
  repeat' first
    | (with_reducible first | assumption | apply finishWith_keeps | apply Keeps.ite)
    | split
    | refine Keeps.upd ?_ rfl rfl rfl rfl rfl rfl rfl rfl rfl

theorem finishOk_keeps {z s : State} (c : Cmd) (result : Nat) (hz : Keeps z s) : Keeps z (finishOk s c result) := by
  unfold finishOk
  try dsimp only
  repeat' first
    | (with_reducible first | assumption | apply finish_keeps | apply Keeps.ite)
    | split
    | refine Keeps.upd ?_ rfl rfl rfl rfl rfl rfl rfl rfl rfl

theorem accept_keeps {z s : State} (c : Cmd) (hz : Keeps z s) : Keeps z (accept s c) := by
  unfold accept
  try dsimp only
  repeat' first
    | (with_reducible first | assumption | apply replaceCmd_keeps | apply queueComp_keeps | apply Keeps.ite)
    | split
    | refine Keeps.upd ?_ rfl rfl rfl rfl rfl rfl rfl rfl rfl

theorem finishRunning_keeps {z s : State} (op : Nat) (status : Nat) (result : Nat) (hz : Keeps z s) : Keeps z (finishRunning s op status result) := by
  unfold finishRunning
  try dsimp only
  repeat' first
    | (with_reducible first | assumption | apply finish_keeps | apply Keeps.ite)
    | split
    | refine Keeps.upd ?_ rfl rfl rfl rfl rfl rfl rfl rfl rfl

theorem finishOut_keeps {z s : State} (c : Cmd) (data : List Byte) (unit : Nat) (hz : Keeps z s) : Keeps z (finishOut s c data unit) := by
  unfold finishOut
  try dsimp only
  repeat' first
    | (with_reducible first
        | assumption | apply finishWith_keeps | apply finishOk_keeps | apply sendMem_keeps | apply finish_keeps
        | apply Keeps.ite)
    | split
    | refine Keeps.upd ?_ rfl rfl rfl rfl rfl rfl rfl rfl rfl

theorem noteRunning_keeps {z s : State} (hz : Keeps z s) : Keeps z (noteRunning s) := by
  unfold noteRunning
  try dsimp only
  repeat' first
    | (with_reducible first | assumption | apply set_keeps | apply Keeps.ite)
    | split
    | refine Keeps.upd ?_ rfl rfl rfl rfl rfl rfl rfl rfl rfl

theorem deliver_keeps {z s : State} (n : Nat) (hz : Keeps z s) : Keeps z (deliver s n) := by
  unfold deliver
  try dsimp only
  repeat' first
    | (with_reducible first | assumption | apply set_keeps | apply noteRunning_keeps | apply Keeps.ite)
    | split
    | refine Keeps.upd ?_ rfl rfl rfl rfl rfl rfl rfl rfl rfl

theorem spurious_keeps {z s : State} (hz : Keeps z s) : Keeps z (spurious s) := by
  unfold spurious
  try dsimp only
  repeat' first
    | (with_reducible first | assumption | apply set_keeps | apply inc_keeps | apply Keeps.ite)
    | split
    | refine Keeps.upd ?_ rfl rfl rfl rfl rfl rfl rfl rfl rfl

theorem execIrqEntry_keeps {z s : State} (hz : Keeps z s) : OutKeeps z (execIrqEntry s) := by
  unfold execIrqEntry
  try dsimp only
  repeat' first
    | (with_reducible first
        | assumption | apply OutKeeps.next | apply set_keeps | apply deliver_keeps | apply spurious_keeps
        | apply Keeps.ite | apply OutKeeps.ite)
    | split
    | refine Keeps.upd ?_ rfl rfl rfl rfl rfl rfl rfl rfl rfl

theorem execHerdEoi_keeps {z s : State} (hz : Keeps z s) : OutKeeps z (execHerdEoi s) := by
  unfold execHerdEoi
  try dsimp only
  repeat' first
    | (with_reducible first
        | assumption | apply OutKeeps.next | apply set_keeps | apply noteRunning_keeps | apply Keeps.ite
        | apply OutKeeps.ite)
    | split
    | refine Keeps.upd ?_ rfl rfl rfl rfl rfl rfl rfl rfl rfl

theorem execIrqExit_keeps {z s : State} (hz : Keeps z s) : OutKeeps z (execIrqExit s) := by
  unfold execIrqExit
  try dsimp only
  repeat' first
    | (with_reducible first
        | assumption | apply OutKeeps.next | apply set_keeps | apply deliver_keeps | apply Keeps.ite
        | apply OutKeeps.ite)
    | split
    | refine Keeps.upd ?_ rfl rfl rfl rfl rfl rfl rfl rfl rfl

theorem sendVector_keeps {z s : State} (v : Nat) (hz : Keeps z s) : Keeps z (sendVector s v) :=
  ((inc_keeps (F.IRQ_VEC_STAT_SEND_CNT v) (set_keeps (F.IRQ_VEC_STAT_SENT v) 1 hz)).send [vectorMsg _ v]).upd
    rfl rfl rfl rfl rfl rfl rfl rfl rfl

theorem raiseVector_keeps {z s : State} (v : Nat) (hz : Keeps z s) : Keeps z (raiseVector s v) := by
  unfold raiseVector
  try dsimp only
  repeat' first
    | (with_reducible first | assumption | apply sendVector_keeps | apply Keeps.ite)
    | split
    | refine Keeps.upd ?_ rfl rfl rfl rfl rfl rfl rfl rfl rfl

theorem execMsixSend_keeps {z s : State} (hz : Keeps z s) : OutKeeps z (execMsixSend s) := by
  unfold execMsixSend
  try dsimp only
  repeat' first
    | (with_reducible first
        | assumption | apply OutKeeps.next | apply raiseVector_keeps | apply Keeps.ite | apply OutKeeps.ite)
    | split
    | refine Keeps.upd ?_ rfl rfl rfl rfl rfl rfl rfl rfl rfl

theorem hostEoi_keeps {z s : State} (v : Nat) (hz : Keeps z s) : Keeps z (hostEoi s v) := by
  unfold hostEoi
  try dsimp only
  repeat' first
    | (with_reducible first | assumption | apply set_keeps | apply inc_keeps | apply raiseVector_keeps | apply Keeps.ite)
    | split
    | refine Keeps.upd ?_ rfl rfl rfl rfl rfl rfl rfl rfl rfl

theorem execIrqHostEoi_keeps {z s : State} (value : Dword) (hz : Keeps z s) : OutKeeps z (execIrqHostEoi value s) := by
  unfold execIrqHostEoi
  try dsimp only
  repeat' first
    | (with_reducible first
        | assumption | apply OutKeeps.next | apply hostEoi_keeps | apply Keeps.ite | apply OutKeeps.ite)
    | split
    | refine Keeps.upd ?_ rfl rfl rfl rfl rfl rfl rfl rfl rfl

theorem sendPending_keeps {z s : State} (fuel : Nat) (hz : Keeps z s) : Keeps z (sendPending fuel s) := by
  induction fuel generalizing s with
  | zero => exact hz
  | succ fuel ih =>
    simp only [sendPending]
    split
    · exact hz
    · apply ih
      have k : ∀ x : IrqSt, Keeps z { s with irq := x } := fun x => hz.upd rfl rfl rfl rfl rfl rfl rfl rfl rfl
      exact Keeps.ite (sendVector_keeps _ (k _)) (k _)

theorem writeEntry_keeps {z s : State} (e : MsixEntry) (hz : Keeps z s) : Keeps z (writeEntry s e) := by
  unfold writeEntry
  try dsimp only
  repeat' first
    | (with_reducible first | assumption | apply Keeps.ite)
    | split
    | refine Keeps.upd ?_ rfl rfl rfl rfl rfl rfl rfl rfl rfl

theorem execMsixUnblock_keeps {z s : State} (writes : List MsixEntry) (hz : Keeps z s) : OutKeeps z (execMsixUnblock writes s) := by
  unfold execMsixUnblock
  try dsimp only
  repeat' first
    | (with_reducible first
        | assumption | apply OutKeeps.next | apply sendPending_keeps | apply writeEntry_keeps | apply Keeps.foldl)
    | (intro _; try dsimp only)
    | (with_reducible first | apply Keeps.ite | apply OutKeeps.ite)
    | split
    | refine Keeps.upd ?_ rfl rfl rfl rfl rfl rfl rfl rfl rfl

theorem swSet_keeps {z s : State} (i : Nat) (w : Nat) (hz : Keeps z s) : Keeps z (swSet s i w) := by
  unfold swSet
  try dsimp only
  repeat' first
    | (with_reducible first | assumption | apply set_keeps | apply Keeps.ite)
    | split
    | refine Keeps.upd ?_ rfl rfl rfl rfl rfl rfl rfl rfl rfl

theorem swClr_keeps {z s : State} (i : Nat) (w : Nat) (hz : Keeps z s) : Keeps z (swClr s i w) := by
  unfold swClr
  try dsimp only
  repeat' first
    | (with_reducible first | assumption | apply set_keeps | apply Keeps.ite)
    | split
    | refine Keeps.upd ?_ rfl rfl rfl rfl rfl rfl rfl rfl rfl

theorem execIrqSwset_keeps {z s : State} (i : Fin 16) (value : Dword) (hz : Keeps z s) : OutKeeps z (execIrqSwset i value s) := by
  unfold execIrqSwset
  try dsimp only
  repeat' first
    | (with_reducible first | assumption | apply OutKeeps.next | apply swSet_keeps | apply Keeps.ite | apply OutKeeps.ite)
    | split
    | refine Keeps.upd ?_ rfl rfl rfl rfl rfl rfl rfl rfl rfl

theorem execIrqSwclr_keeps {z s : State} (i : Fin 16) (value : Dword) (hz : Keeps z s) : OutKeeps z (execIrqSwclr i value s) := by
  unfold execIrqSwclr
  try dsimp only
  repeat' first
    | (with_reducible first | assumption | apply OutKeeps.next | apply swClr_keeps | apply Keeps.ite | apply OutKeeps.ite)
    | split
    | refine Keeps.upd ?_ rfl rfl rfl rfl rfl rfl rfl rfl rfl

theorem withSeed_keeps {z s : State} (hz : Keeps z s) : Keeps z (withSeed s) := by
  unfold withSeed
  try dsimp only
  repeat' first
    | (with_reducible first | assumption | apply set_keeps | apply Keeps.ite)
    | split
    | refine Keeps.upd ?_ rfl rfl rfl rfl rfl rfl rfl rfl rfl

/-- After a device reset no output is on: every pair is disabled. -/
theorem deviceReset_keeps {z s : State} (kind : Nat) (hz : Keeps z s) : Keeps z (deviceReset s kind) := by
  unfold deviceReset
  dsimp only
  refine set_keeps _ _ (set_keeps _ _ (withSeed_keeps (hz.afterReset rfl rfl (risingFrom_filter _) rfl ?_ id)))
  intro h; simpa [State.LogBounded] using h

theorem startAt_keeps {z s : State} (step : Nat) (hz : Keeps z s) : Keeps z (startAt s step) := by
  unfold startAt
  try dsimp only
  repeat' first
    | (with_reducible first | assumption | apply set_keeps | apply Keeps.ite)
    | split
    | refine Keeps.upd ?_ rfl rfl rfl rfl rfl rfl rfl rfl rfl

theorem noteRole_keeps {z s : State} (hz : Keeps z s) : Keeps z (noteRole s) := by
  unfold noteRole
  try dsimp only
  repeat' first
    | (with_reducible first | assumption | apply set_keeps | apply Keeps.ite)
    | split
    | refine Keeps.upd ?_ rfl rfl rfl rfl rfl rfl rfl rfl rfl

theorem clearUnsure_keeps {z s : State} (hz : Keeps z s) : Keeps z (clearUnsure s) := by
  unfold clearUnsure
  try dsimp only
  repeat' first
    | (with_reducible first | assumption | apply set_keeps | apply Keeps.ite)
    | split
    | refine Keeps.upd ?_ rfl rfl rfl rfl rfl rfl rfl rfl rfl

theorem dropPartnerShots_keeps {z s : State} (hz : Keeps z s) : Keeps z (dropPartnerShots s) := by
  unfold dropPartnerShots
  try dsimp only
  repeat' first
    | (with_reducible first | assumption | apply Keeps.ite)
    | split
    | refine Keeps.upd ?_ rfl rfl rfl rfl rfl rfl rfl rfl rfl

theorem enterAlt_keeps {z s : State} (cause : Nat) (hz : Keeps z s) : Keeps z (enterAlt s cause) := by
  unfold enterAlt
  try dsimp only
  repeat' first
    | (with_reducible first
        | assumption | apply set_keeps | apply inc_keeps | apply stick_keeps | apply dropPartnerShots_keeps
        | apply clearUnsure_keeps | apply noteRole_keeps | apply Keeps.ite)
    | split
    | refine Keeps.upd ?_ rfl rfl rfl rfl rfl rfl rfl rfl rfl

theorem crystalAlt_keeps {z s : State} (hz : Keeps z s) : Keeps z (crystalAlt s) := by
  unfold crystalAlt
  try dsimp only
  repeat' first
    | (with_reducible first | assumption | apply enterAlt_keeps | apply Keeps.ite)
    | split
    | refine Keeps.upd ?_ rfl rfl rfl rfl rfl rfl rfl rfl rfl

theorem clustersCold_keeps {z s : State} (hz : Keeps z s) : Keeps z (clustersCold s) := by
  unfold clustersCold
  try dsimp only
  repeat' first
    | (with_reducible first | assumption | apply set_keeps | apply Keeps.foldl)
    | (intro _; try dsimp only)
    | with_reducible apply Keeps.ite
    | split
    | refine Keeps.upd ?_ rfl rfl rfl rfl rfl rfl rfl rfl rfl

theorem setRails_keeps {z s : State} (w : Nat) (hz : Keeps z s) : Keeps z (setRails s w) := by
  unfold setRails
  try dsimp only
  repeat' first
    | (with_reducible first | assumption | apply put_keeps | apply Keeps.foldl)
    | (intro _; try dsimp only)
    | with_reducible apply Keeps.ite
    | split
    | refine Keeps.upd ?_ rfl rfl rfl rfl rfl rfl rfl rfl rfl

theorem execRailsValid_keeps {z s : State} (hz : Keeps z s) : OutKeeps z (execRailsValid s) := by
  unfold execRailsValid
  try dsimp only
  repeat' first
    | (with_reducible first
        | assumption | apply OutKeeps.next | apply setRails_keeps | apply startAt_keeps | apply setMode_keeps
        | apply Keeps.ite | apply OutKeeps.ite)
    | split
    | refine Keeps.upd ?_ rfl rfl rfl rfl rfl rfl rfl rfl rfl

/-- After the power-on reset no output is on: every pair is disabled. -/
theorem powerOn_keeps {z s : State} (hz : Keeps z s) : Keeps z (powerOn s) := by
  unfold powerOn
  dsimp only
  exact withSeed_keeps (hz.afterReset rfl rfl (risingFrom_filter _) rfl (fun _ => Nat.zero_le _) fun _ _ => Nat.zero_le _)

theorem execPowerOnReset_keeps {z s : State} (hz : Keeps z s) : OutKeeps z (execPowerOnReset s) := by
  unfold execPowerOnReset
  try dsimp only
  repeat' first
    | (with_reducible first
        | assumption | apply OutKeeps.next | apply powerOn_keeps | apply Keeps.ite | apply OutKeeps.ite)
    | split
    | refine Keeps.upd ?_ rfl rfl rfl rfl rfl rfl rfl rfl rfl

theorem execRailTrip_keeps {z s : State} (rail : Fin 10) (hz : Keeps z s) : OutKeeps z (execRailTrip rail s) := by
  unfold execRailTrip
  try dsimp only
  repeat' first
    | (with_reducible first
        | assumption | apply OutKeeps.next | apply set_keeps | apply deviceReset_keeps | apply stepFailed_keeps
        | apply setRails_keeps | apply startAt_keeps | apply Keeps.ite | apply OutKeeps.ite)
    | split
    | refine Keeps.upd ?_ rfl rfl rfl rfl rfl rfl rfl rfl rfl

theorem execAonPowerLoss_keeps {z s : State} (hz : Keeps z s) : OutKeeps z (execAonPowerLoss s) := by
  unfold execAonPowerLoss
  try dsimp only
  repeat' first
    | (with_reducible first
        | assumption | apply OutKeeps.next | apply setMode_keeps | apply powerOn_keeps | apply Keeps.ite
        | apply OutKeeps.ite)
    | split
    | refine Keeps.upd ?_ rfl rfl rfl rfl rfl rfl rfl rfl rfl

theorem execMainResetRelease_keeps {z s : State} (hz : Keeps z s) : OutKeeps z (execMainResetRelease s) := by
  unfold execMainResetRelease
  try dsimp only
  repeat' first
    | (with_reducible first
        | assumption | apply OutKeeps.next | apply startAt_keeps | apply Keeps.ite | apply OutKeeps.ite)
    | split
    | refine Keeps.upd ?_ rfl rfl rfl rfl rfl rfl rfl rfl rfl

theorem recordWake_keeps {z s : State} (m : Nat) (hz : Keeps z s) : Keeps z (recordWake s m) := by
  unfold recordWake
  try dsimp only
  repeat' first
    | (with_reducible first | assumption | apply set_keeps | apply Keeps.ite)
    | split
    | refine Keeps.upd ?_ rfl rfl rfl rfl rfl rfl rfl rfl rfl

theorem wakeNow_keeps {z s : State} (m : Nat) (hz : Keeps z s) : Keeps z (wakeNow s m) := by
  unfold wakeNow
  try dsimp only
  repeat' first
    | (with_reducible first
        | assumption | apply set_keeps | apply recordWake_keeps | apply deviceReset_keeps | apply startAt_keeps
        | apply Keeps.ite)
    | split
    | refine Keeps.upd ?_ rfl rfl rfl rfl rfl rfl rfl rfl rfl

theorem noteWatched_keeps {z s : State} (hz : Keeps z s) : Keeps z (noteWatched s) := by
  unfold noteWatched
  try dsimp only
  repeat' first
    | (with_reducible first | assumption | apply set_keeps | apply Keeps.ite)
    | split
    | refine Keeps.upd ?_ rfl rfl rfl rfl rfl rfl rfl rfl rfl

theorem wakeBy_keeps {z s : State} (m : Nat) (hz : Keeps z s) : Keeps z (wakeBy s m) := by
  unfold wakeBy
  try dsimp only
  repeat' first
    | (with_reducible first | assumption | apply noteWatched_keeps | apply wakeNow_keeps | apply Keeps.ite)
    | split
    | refine Keeps.upd ?_ rfl rfl rfl rfl rfl rfl rfl rfl rfl

theorem xtalAonIn_keeps {z s : State} (hz : Keeps z s) : Keeps z (xtalAonIn s) := by
  unfold xtalAonIn
  try dsimp only
  repeat' first
    | (with_reducible first | assumption | apply set_keeps | apply endFault_keeps | apply Keeps.ite)
    | split
    | refine Keeps.upd ?_ rfl rfl rfl rfl rfl rfl rfl rfl rfl

theorem execXtalAonStable_keeps {z s : State} (hz : Keeps z s) : OutKeeps z (execXtalAonStable s) := by
  unfold execXtalAonStable
  try dsimp only
  repeat' first
    | (with_reducible first
        | assumption | apply OutKeeps.next | apply xtalAonIn_keeps | apply Keeps.ite | apply OutKeeps.ite)
    | split
    | refine Keeps.upd ?_ rfl rfl rfl rfl rfl rfl rfl rfl rfl

theorem xtalAonOut_keeps {z s : State} (hz : Keeps z s) : Keeps z (xtalAonOut s) := by
  unfold xtalAonOut
  try dsimp only
  repeat' first
    | (with_reducible first | assumption | apply set_keeps | apply stick_keeps | apply raiseFault_keeps | apply Keeps.ite)
    | split
    | refine Keeps.upd ?_ rfl rfl rfl rfl rfl rfl rfl rfl rfl

theorem execXtalAonTimeout_keeps {z s : State} (hz : Keeps z s) : OutKeeps z (execXtalAonTimeout s) := by
  unfold execXtalAonTimeout
  try dsimp only
  repeat' first
    | (with_reducible first
        | assumption | apply OutKeeps.next | apply stepFailed_keeps | apply xtalAonOut_keeps | apply Keeps.ite
        | apply OutKeeps.ite)
    | split
    | refine Keeps.upd ?_ rfl rfl rfl rfl rfl rfl rfl rfl rfl

theorem nearOff_keeps {z s : State} (hz : Keeps z s) : Keeps z (nearOff s) := by
  unfold nearOff
  try dsimp only
  repeat' first
    | (with_reducible first | assumption | apply set_keeps | apply Keeps.ite)
    | split
    | refine Keeps.upd ?_ rfl rfl rfl rfl rfl rfl rfl rfl rfl

theorem execClocksLocked_keeps {z s : State} (xref : Bool) (core : Bool) (time : Bool) (mem : Bool) (safb : Bool) (hz : Keeps z s) : OutKeeps z (execClocksLocked xref core time mem safb s) := by
  unfold execClocksLocked
  try dsimp only
  repeat' first
    | (with_reducible first
        | assumption | apply OutKeeps.next | apply put_keeps | apply raiseF4_keeps | apply raiseFault_keeps
        | apply stepFailed_keeps | apply nearOff_keeps | apply startAt_keeps | apply Keeps.ite | apply OutKeeps.ite)
    | split
    | refine Keeps.upd ?_ rfl rfl rfl rfl rfl rfl rfl rfl rfl

theorem setMarks_keeps {z s : State} (active : Nat) (pending : Nat) (hz : Keeps z s) : Keeps z (setMarks s active pending) := by
  unfold setMarks
  try dsimp only
  repeat' first
    | (with_reducible first | assumption | apply set_keeps | apply Keeps.ite)
    | split
    | refine Keeps.upd ?_ rfl rfl rfl rfl rfl rfl rfl rfl rfl

theorem loadImage_keeps {z s : State} (n : Nat) (i : ImgRead) (active : ImgRead) (hz : Keeps z s) : Keeps z (loadImage s n i active) := by
  unfold loadImage
  try dsimp only
  repeat' first
    | (with_reducible first | assumption | apply set_keeps | apply Keeps.ite)
    | split
    | refine Keeps.upd ?_ rfl rfl rfl rfl rfl rfl rfl rfl rfl

theorem execImageCheckDone_keeps {z s : State} (imgA : ImgRead) (imgB : ImgRead) (hz : Keeps z s) : OutKeeps z (execImageCheckDone imgA imgB s) := by
  unfold execImageCheckDone
  try dsimp only
  repeat' first
    | (with_reducible first
        | assumption | apply OutKeeps.next | apply set_keeps | apply setMarks_keeps | apply loadImage_keeps
        | apply raiseFault_keeps | apply stepFailed_keeps | apply raiseF4_keeps | apply Keeps.ite | apply OutKeeps.ite)
    | split
    | refine Keeps.upd ?_ rfl rfl rfl rfl rfl rfl rfl rfl rfl

theorem execHerdFirmwareRunning_keeps {z s : State} (hz : Keeps z s) : OutKeeps z (execHerdFirmwareRunning s) := by
  have kc : ∀ (t : State) x, Keeps z t → Keeps z { t with cmd := x } := fun _ x h => h.cmd x
  unfold execHerdFirmwareRunning
  refine .ite (.next hz) (.next ?_)
  have k := startAt_keeps (if s.mode == .opened then 0 else 4) (set_keeps F.RED_SCHEMA_OWN s.sys.fw.schema
    (put_keeps F.CMD_INFO_PREV_VALID (s.sys.fw.prev != 0) (set_keeps F.CMD_INFO_PREV_MAJ s.sys.fw.prev
    (set_keeps F.CMD_INFO_CUR_MAJ s.sys.fw.major (set_keeps F.SYS_STATUS_CMD_LIVE 1 hz)))))
  dsimp only
  generalize startAt _ (if s.mode == .opened then 0 else 4) = u at k ⊢
  refine Keeps.upd ?_ rfl rfl rfl rfl rfl rfl rfl rfl rfl
  exact Keeps.ite (k.cmd _) k

theorem endStandby_keeps {z s : State} (hz : Keeps z s) : Keeps z (endStandby s) := by
  unfold endStandby
  try dsimp only
  repeat' first
    | (with_reducible first | assumption | apply startAt_keeps | apply Keeps.ite)
    | split
    | refine Keeps.upd ?_ rfl rfl rfl rfl rfl rfl rfl rfl rfl

theorem checkFlash_keeps {z s : State} (badCopies : List Nat) (hz : Keeps z s) : Keeps z (checkFlash s badCopies) := by
  have h : ∀ x : CalSt, Keeps z { s with cal := x } := fun _ => hz.upd rfl rfl rfl rfl rfl rfl rfl rfl rfl
  have k := fun x => Keeps.foldl (fun x n => raiseFault x 0 0x1104 (n % 65536)) (besideGood badCopies) (h x)
    fun _ _ k => raiseFault_keeps _ _ _ k
  unfold checkFlash
  exact set_keeps _ _ (set_keeps _ _ (add_keeps _ _ (put_keeps _ _ (put_keeps _ _ (k _)))))

theorem execRlTrainingDone_keeps {z s : State} (eight dual big : Bool) (trained : List RlmTrain) (badCopies : List Nat)
    (hz : Keeps z s) : OutKeeps z (execRlTrainingDone eight dual big trained badCopies s) := by
  unfold execRlTrainingDone
  refine .ite (.next hz) ?_
  dsimp only
  generalize (if eight then 255 else 15) = fitted
  generalize hb : List.filter _ (List.range 8) = bad
  have k0 : Keeps z (bad.foldl (fun u n => raiseFault u 2 0x0801 n) (if bad.isEmpty then s else stepFailed s 4)) :=
    Keeps.foldl _ _ (Keeps.ite hz (stepFailed_keeps _ hz)) fun _ _ h => raiseFault_keeps _ _ _ h
  generalize bad.foldl (fun u n => raiseFault u 2 0x0801 n) (if bad.isEmpty then s else stepFailed s 4) = t at k0 ⊢
  generalize (if s.flag F.YRD_CAP_NEAR_OFF = true then 0 else _) = near
  have k1 : ∀ y : SysSt, Keeps z ((({ t with sys := y } : State).set F.YRD_CAP_NEAR_STALLS near).put F.YRD_CAP_NEAR_OFF (near == 0)) :=
    fun _ => put_keeps _ _ (set_keeps _ _ (k0.upd rfl rfl rfl rfl rfl rfl rfl rfl rfl))
  have k2 := k1 { t.sys with rlm := rlmMask trained &&& fitted, rlmDual := dual,
                             rlmLat := trained.map fun (c : RlmTrain) => (c.readLat, c.writeLat) }
  generalize State.put _ F.YRD_CAP_NEAR_OFF (near == 0) = w at k2 ⊢
  have k3 := checkFlash_keeps badCopies (set_keeps F.YRD_CAP_MAP_LOG2_NOW (mapNow w) k2)
  generalize checkFlash _ badCopies = v at k3 ⊢
  refine .ite (.next (endStandby_keeps k3)) (.next (startAt_keeps _ ?_))
  exact (put_keeps _ _ (clustersCold_keeps k3)).upd rfl rfl rfl rfl rfl rfl rfl rfl rfl

theorem reachReady_keeps {z s : State} (hz : Keeps z s) : Keeps z (reachReady s) := by
  unfold reachReady
  try dsimp only
  repeat' first
    | (with_reducible first
        | assumption | apply set_keeps | apply startAt_keeps | apply setMode_keeps | apply setMarks_keeps
        | apply Keeps.ite)
    | split
    | refine Keeps.upd ?_ rfl rfl rfl rfl rfl rfl rfl rfl rfl

theorem execRefInLoss_keeps {z s : State} (hz : Keeps z s) : OutKeeps z (execRefInLoss s) := by
  unfold execRefInLoss
  try dsimp only
  repeat' first
    | (with_reducible first
        | assumption | apply OutKeeps.next | apply set_keeps | apply inc_keeps | apply noteRefSwitch_keeps
        | apply crystalAlt_keeps | apply raiseFault_keeps | apply Keeps.ite | apply OutKeeps.ite)
    | split
    | refine Keeps.upd ?_ rfl rfl rfl rfl rfl rfl rfl rfl rfl

theorem returnToRef_keeps {z s : State} (offset : Int) (hz : Keeps z s) : Keeps z (returnToRef s offset) := by
  unfold returnToRef
  try dsimp only
  repeat' first
    | (with_reducible first | assumption | apply set_keeps | apply noteRefSwitch_keeps | apply Keeps.ite)
    | split
    | refine Keeps.upd ?_ rfl rfl rfl rfl rfl rfl rfl rfl rfl

theorem returnAnyway_keeps {z s : State} (hz : Keeps z s) : Keeps z (returnAnyway s) := by
  unfold returnAnyway
  try dsimp only
  repeat' first
    | (with_reducible first | assumption | apply returnToRef_keeps | apply Keeps.ite)
    | split
    | refine Keeps.upd ?_ rfl rfl rfl rfl rfl rfl rfl rfl rfl

theorem execRefInQualified_keeps {z s : State} (offset : Int) (hz : Keeps z s) : OutKeeps z (execRefInQualified offset s) := by
  unfold execRefInQualified
  try dsimp only
  repeat' first
    | (with_reducible first
        | assumption | apply OutKeeps.next | apply set_keeps | apply endFault_keeps | apply returnToRef_keeps
        | apply Keeps.ite | apply OutKeeps.ite)
    | split
    | refine Keeps.upd ?_ rfl rfl rfl rfl rfl rfl rfl rfl rfl

theorem applyRefCfg_keeps {z s : State} (v : Nat) (hz : Keeps z s) : Keeps z (applyRefCfg s v) := by
  unfold applyRefCfg
  try dsimp only
  repeat' first
    | (with_reducible first
        | assumption | apply set_keeps | apply put_keeps | apply noteRefSwitch_keeps | apply Keeps.ite)
    | split
    | refine Keeps.upd ?_ rfl rfl rfl rfl rfl rfl rfl rfl rfl

theorem writeRefCfg_keeps {z s : State} (v : Nat) (hz : Keeps z s) : Keeps z (writeRefCfg s v) := by
  unfold writeRefCfg
  try dsimp only
  repeat' first
    | (with_reducible first | assumption | apply put_keeps | apply applyRefCfg_keeps | apply Keeps.ite)
    | split
    | refine Keeps.upd ?_ rfl rfl rfl rfl rfl rfl rfl rfl rfl

theorem execClkRefCfgWrite_keeps {z s : State} (value : Dword) (hz : Keeps z s) : OutKeeps z (execClkRefCfgWrite value s) := by
  unfold execClkRefCfgWrite
  try dsimp only
  repeat' first
    | (with_reducible first
        | assumption | apply OutKeeps.next | apply writeRefCfg_keeps | apply Keeps.ite | apply OutKeeps.ite)
    | split
    | refine Keeps.upd ?_ rfl rfl rfl rfl rfl rfl rfl rfl rfl

theorem execWake_keeps {z s : State} (sources : Nat) (pins : Nat) (hz : Keeps z s) : OutKeeps z (execWake sources pins s) := by
  unfold execWake
  try dsimp only
  repeat' first
    | (with_reducible first
        | assumption | apply OutKeeps.next | apply wakeBy_keeps | apply Keeps.ite | apply OutKeeps.ite)
    | split
    | refine Keeps.upd ?_ rfl rfl rfl rfl rfl rfl rfl rfl rfl

theorem execAonAlarm_keeps {z s : State} (hz : Keeps z s) : OutKeeps z (execAonAlarm s) := by
  unfold execAonAlarm
  try dsimp only
  repeat' first
    | (with_reducible first
        | assumption | apply OutKeeps.next | apply wakeBy_keeps | apply Keeps.ite | apply OutKeeps.ite)
    | split
    | refine Keeps.upd ?_ rfl rfl rfl rfl rfl rfl rfl rfl rfl

theorem keepLevels_keeps {z s t : State} (hz : Keeps z t) : Keeps z (keepLevels s t) :=
  set_keeps _ _ (Keeps.foldl _ _ hz fun _ _ h => set_keeps _ _ h)

theorem asleep_keeps {z s : State} (hz : Keeps z s) : Keeps z (asleep s) := by
  unfold asleep
  exact setMode_keeps _ ((keepLevels_keeps (deviceReset_keeps _ hz)).upd rfl rfl rfl rfl rfl rfl rfl rfl rfl)

theorem execSleepEntryDone_keeps {z s : State} (hz : Keeps z s) : OutKeeps z (execSleepEntryDone s) := by
  unfold execSleepEntryDone
  exact .ite (.next hz) (.next (wakeBy_keeps _ (asleep_keeps hz)))
theorem refuse_keeps {z s : State} (c : Cmd) (status : Nat) (detail : Nat) (hz : Keeps z s) : Keeps z (refuse s c status detail) := by
  unfold refuse
  try dsimp only
  repeat' first
    | (with_reducible first | assumption | apply finish_keeps | apply raiseFault_keeps | apply Keeps.ite)
    | split
    | refine Keeps.upd ?_ rfl rfl rfl rfl rfl rfl rfl rfl rfl

/-- What a row does for its command is all that the frame does, but for a refusal. -/
theorem withCmd_keeps {z s : State} {p : Port} {tag op : Nat} {check : State → Cmd → Option Nat}
    {run : State → Cmd → State} (hz : Keeps z s) (hr : ∀ c, Keeps z (run s c)) :
    OutKeeps z (withCmd s p tag op check run) := by
  unfold withCmd
  cases findCmd s p tag op with
  | none => exact .next hz
  | some c =>
    refine .ite (.next hz) ?_
    cases if c.first = true then none else check s c with
    | none => exact .next (hr c)
    | some st => exact .next (refuse_keeps _ _ _ hz)

/-- All that an opcode's row can do: nothing, a refusal, or what it runs for the command found. -/
theorem withCmd_cases {s t : State} {p : Port} {tag op : Nat} {check : State → Cmd → Option Nat}
    {run : State → Cmd → State} (e : withCmd s p tag op check run = .next t) :
    t = s ∨ ∃ c, findCmd s p tag op = some c ∧ startable s c = true ∧
      ((∃ st, check s c = some st ∧ t = refuse s c st (checkDetail st)) ∨
        (c.first = true ∨ check s c = none) ∧ t = run s c) := by
  unfold withCmd at e
  cases hf : findCmd s p tag op with
  | none => rw [hf] at e; cases e; exact .inl rfl
  | some c =>
    rw [hf] at e
    dsimp only at e
    by_cases hb : (c.phase != (if opReads op = true then .ready else .fetched) || !startable s c) = true
    · rw [if_pos hb] at e; cases e; exact .inl rfl
    · rw [if_neg hb] at e
      have hs : startable s c = true := by
        simp only [Bool.or_eq_true, not_or, Bool.not_eq_true', Bool.not_eq_false] at hb
        exact hb.2
      refine .inr ⟨c, rfl, hs, ?_⟩
      by_cases hf : c.first = true
      · rw [if_pos hf] at e; cases e; exact .inr ⟨.inl hf, rfl⟩
      · rw [if_neg hf] at e
        cases hc : check s c with
        | none => rw [hc] at e; cases e; exact .inr ⟨.inr rfl, rfl⟩
        | some st => rw [hc] at e; cases e; exact .inl ⟨st, rfl, rfl⟩

/-- An opcode's row runs for a command that waits, may start and passes its checks. -/
theorem withCmd_run {s : State} {p : Port} {tag op : Nat} {check : State → Cmd → Option Nat} {run : State → Cmd → State}
    {c : Cmd} (hf : findCmd s p tag op = some c) (hp : c.phase = if opReads op = true then .ready else .fetched)
    (hs : startable s c = true) (hc : check s c = none) : withCmd s p tag op check run = .next (run s c) := by
  unfold withCmd
  rw [hf]
  dsimp only
  rw [if_neg (by simp [hp, hs]), hc, ite_self]

theorem begin__keeps {z s : State} {c : Cmd} {run : State → Cmd → State} (hz : Keeps z s)
    (hr : ∀ t d, Keeps z t → Keeps z (run t d)) : Keeps z (begin_ s c run) := by
  unfold begin_
  apply hr
  split
  · exact replaceCmd_keeps _ _ hz
  · exact accept_keeps _ hz

theorem lockLog_keeps {z s : State} (off : Nat) (fs : List (Fld × Acc)) (v : Nat) (hz : Keeps z s) : Keeps z (lockLog s off fs v) := by
  unfold lockLog
  try dsimp only
  repeat' first
    | (with_reducible first | assumption | apply raiseFault_keeps | apply Keeps.ite)
    | split
    | refine Keeps.upd ?_ rfl rfl rfl rfl rfl rfl rfl rfl rfl

theorem holdField_keeps {z s : State} (late : Bool) (f : Fld) (v : Nat) (hz : Keeps z s) : Keeps z (holdField s late f v) := by
  unfold holdField
  try dsimp only
  repeat' first
    | (with_reducible first | assumption | apply Keeps.ite)
    | split
    | refine Keeps.upd ?_ rfl rfl rfl rfl rfl rfl rfl rfl rfl

theorem setNow_keeps {z s : State} (f : Fld) (v : Nat) (hz : Keeps z s) : Keeps z (setNow s f v) := by
  unfold setNow
  try dsimp only
  repeat' first
    | (with_reducible first | assumption | apply set_keeps | apply Keeps.ite)
    | split
    | refine Keeps.upd ?_ rfl rfl rfl rfl rfl rfl rfl rfl rfl

theorem writeField_keeps {z s : State} (stage : Option Bool) (v : Nat) (e : Fld × Acc) (hz : Keeps z s) : Keeps z (writeField s stage v e) := by
  unfold writeField
  try dsimp only
  repeat' first
    | (with_reducible first | assumption | apply set_keeps | apply holdField_keeps | apply setNow_keeps | apply Keeps.ite)
    | split
    | refine Keeps.upd ?_ rfl rfl rfl rfl rfl rfl rfl rfl rfl

theorem writeFields_keeps {z s : State} (off : Nat) (fs : List (Fld × Acc)) (v : Nat) (hz : Keeps z s) : Keeps z (writeFields s off fs v) := by
  unfold writeFields
  try dsimp only
  repeat' first
    | (with_reducible first | assumption | apply writeField_keeps | apply lockLog_keeps | apply Keeps.foldl)
    | (intro _; try dsimp only)
    | with_reducible apply Keeps.ite
    | split
    | refine Keeps.upd ?_ rfl rfl rfl rfl rfl rfl rfl rfl rfl

theorem writeAt_keeps {z s : State} (x : Nat) (v : Nat) (hz : Keeps z s) : Keeps z (writeAt s x v) := by
  unfold writeAt
  try dsimp only
  repeat' first
    | (with_reducible first | assumption | apply writeFields_keeps | apply Keeps.ite)
    | split
    | refine Keeps.upd ?_ rfl rfl rfl rfl rfl rfl rfl rfl rfl

theorem applyHeld_keeps {z s : State} (hz : Keeps z s) : Keeps z (applyHeld s) := by
  unfold applyHeld
  try dsimp only
  repeat' first
    | (with_reducible first | assumption | apply set_keeps | apply Keeps.foldl)
    | (intro _; try dsimp only)
    | with_reducible apply Keeps.ite
    | split
    | refine Keeps.upd ?_ rfl rfl rfl rfl rfl rfl rfl rfl rfl

theorem nextFrameRegs_keeps {z s : State} (hz : Keeps z s) : Keeps z (nextFrameRegs s) := by
  unfold nextFrameRegs
  try dsimp only
  repeat' first
    | (with_reducible first | assumption | apply set_keeps | apply Keeps.foldl)
    | (intro _; try dsimp only)
    | with_reducible apply Keeps.ite
    | split
    | refine Keeps.upd ?_ rfl rfl rfl rfl rfl rfl rfl rfl rfl

end Sys2Proof.Machine
end

