-- ==== Sys2Proof/Laws/KeepsSafety.lean ====
section
/-! SUPPORT. What every operation of the safety evaluators and the return front end keeps (Safety.lean): one lemma each. -/

namespace Sys2Proof.Machine

theorem countTrip_keeps {z s : State} (d : Side) (hz : Keeps z s) : Keeps z (countTrip s d) := by
  unfold countTrip
  try dsimp only
  repeat' first
    | (with_reducible first | assumption | apply set_keeps | apply inc_keeps | apply Keeps.ite)
    | split
    | refine Keeps.upd ?_ rfl rfl rfl rfl rfl rfl rfl rfl rfl

theorem settlePair_keeps {z s : State} (c : SafCfg) (d : Side) (n : Nat) (hz : Keeps z s) : Keeps z (settlePair c d s n) := by
  unfold settlePair
  try dsimp only
  repeat' first
    | (with_reducible first | assumption | apply countTrip_keeps | refine setPair_keeps _ _ _ ?_ ?_ | apply Keeps.ite)
    | (intro e; cases e; done)
    | split
    | refine Keeps.upd ?_ rfl rfl rfl rfl rfl rfl rfl rfl rfl

theorem settle_keeps {z s : State} (hz : Keeps z s) : Keeps z (settle s) := by
  unfold settle
  try dsimp only
  repeat' first
    | (with_reducible first | assumption | apply settlePair_keeps | apply Keeps.foldl)
    | (intro _; try dsimp only)
    | with_reducible apply Keeps.ite
    | split
    | refine Keeps.upd ?_ rfl rfl rfl rfl rfl rfl rfl rfl rfl

theorem openGap_keeps {z s : State} (d : Side) (dir : Nat) (short : Bool) (hz : Keeps z s) : Keeps z (openGap s d dir short) := by
  unfold openGap
  try dsimp only
  repeat' first
    | (with_reducible first | assumption | apply inc_keeps | refine setEv_keeps _ _ ?_ ?_ | rfl | apply Keeps.ite)
    | split
    | refine Keeps.upd ?_ rfl rfl rfl rfl rfl rfl rfl rfl rfl

theorem openGaps_keeps {z s : State} (dirs : List Nat) (short : Bool) (hz : Keeps z s) : Keeps z (openGaps s dirs short) := by
  unfold openGaps
  try dsimp only
  repeat' first
    | (with_reducible first | assumption | apply settle_keeps | apply openGap_keeps | apply Keeps.foldl)
    | (intro _; try dsimp only)
    | with_reducible apply Keeps.ite
    | split
    | refine Keeps.upd ?_ rfl rfl rfl rfl rfl rfl rfl rfl rfl

theorem judgeSet_pairs (c : SafCfg) (d : Side) (good : Bool) (n : Notice) (e : Evaluator) (k : Nat) :
    (judgeSet c d good n e k).pairs = e.pairs := by
  unfold judgeSet
  split
  · split <;> rfl
  · rfl

theorem judgeSet_foldl_pairs (c : SafCfg) (d : Side) (good : Bool) (n : Notice) (l : List Nat) (e : Evaluator) :
    (l.foldl (judgeSet c d good n) e).pairs = e.pairs := by
  induction l generalizing e with
  | nil => rfl
  | cons a l ih => rw [List.foldl_cons, ih, judgeSet_pairs]

theorem judge_keeps {z s : State} (d : Side) (n : Notice) (hz : Keeps z s) : Keeps z (judge d s n) := by
  unfold judge
  split
  · exact hz
  · dsimp only
    refine Keeps.ite hz (Keeps.ite ?_ (openGap_keeps _ _ _ ?_))
    all_goals exact setEv_keeps _ _ (judgeSet_foldl_pairs _ _ _ _ _ _) hz

theorem paddockTrigger_keeps {z s t : State} (hz : Keeps z t) : Keeps z (paddockTrigger s t) := by
  unfold paddockTrigger
  split
  · exact hz
  · dsimp only
    repeat' first
      | with_reducible assumption
      | with_reducible apply trigger_keeps
      | with_reducible apply Keeps.ite

theorem notify_keeps {z s : State} (n : Notice) (hz : Keeps z s) : Keeps z (notify s n) := by
  have k : Keeps z (judge .b (judge .a { s with saf := { s.saf with notices := s.saf.notices + 1 } } n) n) :=
    judge_keeps _ _ (judge_keeps _ _ (hz.upd rfl rfl rfl rfl rfl rfl rfl rfl rfl))
  unfold notify
  dsimp only
  generalize judge .b (judge .a { s with saf := { s.saf with notices := s.saf.notices + 1 } } n) n = u at k
  exact settle_keeps (paddockTrigger_keeps (Keeps.ite (set_keeps _ _ k) k))

theorem badNotice_keeps {z s : State} (dir : Nat) (hz : Keeps z s) : Keeps z (badNotice s dir) := by
  unfold badNotice
  try dsimp only
  repeat' first
    | (with_reducible first | assumption | apply notify_keeps | apply Keeps.ite)
    | split
    | refine Keeps.upd ?_ rfl rfl rfl rfl rfl rfl rfl rfl rfl

theorem execCoverageLapse_keeps {z s : State} (dir : Nat) (hz : Keeps z s) : OutKeeps z (execCoverageLapse dir s) := by
  unfold execCoverageLapse
  try dsimp only
  repeat' first
    | (with_reducible first
        | assumption | apply OutKeeps.next | apply openGaps_keeps | apply Keeps.ite | apply OutKeeps.ite)
    | split
    | refine Keeps.upd ?_ rfl rfl rfl rfl rfl rfl rfl rfl rfl

theorem execCoverageTrip_keeps {z s : State} (side : Side) (pair : Fin 4) (hz : Keeps z s) : OutKeeps z (execCoverageTrip side pair s) := by
  unfold execCoverageTrip
  try dsimp only
  repeat' first
    | (with_reducible first
        | assumption | apply OutKeeps.next | apply settle_keeps | apply countTrip_keeps
        | refine setPair_keeps _ _ _ ?_ ?_ | apply Keeps.ite | apply OutKeeps.ite)
    | (intro e; cases e; done)
    | split
    | refine Keeps.upd ?_ rfl rfl rfl rfl rfl rfl rfl rfl rfl

theorem acceptFsel_keeps {z s : State} (d : Side) (v : Nat) (hz : Keeps z s) : Keeps z (acceptFsel s d v) := by
  have h : ∀ t : State, Keeps z t → ∀ e : Evaluator, e.pairs = (t.ev d).pairs → Keeps z (t.setEv d e) :=
    fun t k e p => setEv_keeps d e p k
  have he : ∀ a b, ((endFault s a b).ev d).pairs = (s.ev d).pairs := by intro a b; cases d <;> rfl
  have hf := fun a b => endFault_keeps (z := z) a b hz
  unfold acceptFsel
  dsimp only
  split
  · exact h s hz _ rfl
  · refine Keeps.ite (settle_keeps (raiseFault_keeps _ _ _ (h s hz _ rfl))) (Keeps.ite ?_ ?_)
    · exact settle_keeps (h _ (hf _ _) _ (he _ _).symm)
    · exact settle_keeps (set_keeps _ _ (h _ (hf _ _) _ (he _ _).symm))

theorem execFselAccept_keeps {z s : State} (side : Side) (value : Fin 8) (hz : Keeps z s) : OutKeeps z (execFselAccept side value s) := by
  unfold execFselAccept
  try dsimp only
  repeat' first
    | (with_reducible first
        | assumption | apply OutKeeps.next | apply acceptFsel_keeps | apply Keeps.ite | apply OutKeeps.ite)
    | split
    | refine Keeps.upd ?_ rfl rfl rfl rfl rfl rfl rfl rfl rfl

theorem execFsetDisagree_keeps {z s : State} (hz : Keeps z s) : OutKeeps z (execFsetDisagree s) := by
  unfold execFsetDisagree
  try dsimp only
  repeat' first
    | (with_reducible first
        | assumption | apply OutKeeps.next | apply raiseF3_keeps | apply Keeps.ite | apply OutKeeps.ite)
    | split
    | refine Keeps.upd ?_ rfl rfl rfl rfl rfl rfl rfl rfl rfl

theorem execFsetOverlapEnd_keeps {z s : State} (side : Side) (hz : Keeps z s) : OutKeeps z (execFsetOverlapEnd side s) := by
  unfold execFsetOverlapEnd
  try dsimp only
  repeat' first
    | (with_reducible first
        | assumption | apply OutKeeps.next | apply set_keeps | apply settle_keeps | refine setEv_keeps _ _ ?_ ?_ | rfl
        | apply Keeps.ite | apply OutKeeps.ite)
    | split
    | refine Keeps.upd ?_ rfl rfl rfl rfl rfl rfl rfl rfl rfl

theorem heartbeatCompare_keeps {z s : State} (upset : Bool) (hz : Keeps z s) : Keeps z (heartbeatCompare s upset) := by
  unfold heartbeatCompare
  try dsimp only
  repeat' first
    | (with_reducible first | assumption | apply set_keeps | apply inc_keeps | apply raiseF3_keeps | apply Keeps.ite)
    | split
    | refine Keeps.upd ?_ rfl rfl rfl rfl rfl rfl rfl rfl rfl

theorem frameCompare_keeps {z s : State} (hz : Keeps z s) : Keeps z (frameCompare s) := by
  unfold frameCompare
  try dsimp only
  repeat' first
    | (with_reducible first | assumption | apply set_keeps | apply raiseF3_keeps | apply settle_keeps | apply Keeps.ite)
    | split
    | refine Keeps.upd ?_ rfl rfl rfl rfl rfl rfl rfl rfl rfl

theorem execEvaluatorSelfTest_keeps {z s : State} (side : Side) (vectorOk : Bool) (tablesOk : Bool) (hz : Keeps z s) : OutKeeps z (execEvaluatorSelfTest side vectorOk tablesOk s) := by
  unfold execEvaluatorSelfTest
  try dsimp only
  repeat' first
    | (with_reducible first
        | assumption | apply OutKeeps.next | apply raiseF3_keeps | apply Keeps.ite | apply OutKeeps.ite)
    | split
    | refine Keeps.upd ?_ rfl rfl rfl rfl rfl rfl rfl rfl rfl

theorem execTestPulse_keeps {z s : State} (line : Fin 8) (ownLow : Bool) (otherHigh : Bool) (backHigh : Bool) (hz : Keeps z s) : OutKeeps z (execTestPulse line ownLow otherHigh backHigh s) := by
  unfold execTestPulse
  try dsimp only
  repeat' first
    | (with_reducible first
        | assumption | apply OutKeeps.next | apply set_keeps | apply raiseF3_keeps | apply Keeps.ite
        | apply OutKeeps.ite)
    | split
    | refine Keeps.upd ?_ rfl rfl rfl rfl rfl rfl rfl rfl rfl

theorem execReadbackFault_keeps {z s : State} (line : Fin 8) (hz : Keeps z s) : OutKeeps z (execReadbackFault line s) := by
  unfold execReadbackFault
  try dsimp only
  repeat' first
    | (with_reducible first
        | assumption | apply OutKeeps.next | apply set_keeps | apply raiseF3_keeps | apply Keeps.ite
        | apply OutKeeps.ite)
    | split
    | refine Keeps.upd ?_ rfl rfl rfl rfl rfl rfl rfl rfl rfl

theorem execEdmWindowExpiry_keeps {z s : State} (pair : Fin 4) (hz : Keeps z s) : OutKeeps z (execEdmWindowExpiry pair s) := by
  unfold execEdmWindowExpiry
  try dsimp only
  repeat' first
    | (with_reducible first
        | assumption | apply OutKeeps.next | apply set_keeps | apply setPairAt_keeps | apply raiseF3_keeps
        | refine setPair_keeps _ _ _ ?_ ?_ | apply Keeps.ite | apply OutKeeps.ite)
    | (intro e; cases e; done)
    | split
    | refine Keeps.upd ?_ rfl rfl rfl rfl rfl rfl rfl rfl rfl

theorem execEdmAccept_keeps {z s : State} (pair : Fin 4) (level : Bool) (hz : Keeps z s) : OutKeeps z (execEdmAccept pair level s) := by
  unfold execEdmAccept
  try dsimp only
  repeat' first
    | (with_reducible first
        | assumption | apply OutKeeps.next | apply settle_keeps | apply setPairAt_keeps
        | refine setPair_keeps _ _ _ ?_ ?_ | apply Keeps.ite | apply OutKeeps.ite)
    | (intro e; cases e; done)
    | split
    | refine Keeps.upd ?_ rfl rfl rfl rfl rfl rfl rfl rfl rfl

theorem setGuard_keeps {z s : State} (g : Nat) (x : Guard) (hz : Keeps z s) : Keeps z (setGuard s g x) := by
  unfold setGuard
  try dsimp only
  repeat' first
    | (with_reducible first | assumption | apply Keeps.ite)
    | split
    | refine Keeps.upd ?_ rfl rfl rfl rfl rfl rfl rfl rfl rfl

theorem guardTrigger_keeps {z s : State} (g : Nat) (hz : Keeps z s) : Keeps z (guardTrigger s g) := by
  unfold guardTrigger
  try dsimp only
  repeat' first
    | (with_reducible first | assumption | apply trigger_keeps | apply Keeps.ite)
    | split
    | refine Keeps.upd ?_ rfl rfl rfl rfl rfl rfl rfl rfl rfl

theorem execGuardAccept_keeps {z s : State} (guard : Fin 4) (channel : Side) (level : Bool) (near : Bool) (hz : Keeps z s) : OutKeeps z (execGuardAccept guard channel level near s) := by
  unfold execGuardAccept
  try dsimp only
  repeat' first
    | (with_reducible first
        | assumption | apply OutKeeps.next | apply set_keeps | apply setGuard_keeps | apply endFault_keeps
        | apply guardTrigger_keeps | apply settle_keeps | apply Keeps.ite | apply OutKeeps.ite)
    | split
    | refine Keeps.upd ?_ rfl rfl rfl rfl rfl rfl rfl rfl rfl

theorem execGuardDiscrepancy_keeps {z s : State} (guard : Fin 4) (hz : Keeps z s) : OutKeeps z (execGuardDiscrepancy guard s) := by
  unfold execGuardDiscrepancy
  try dsimp only
  repeat' first
    | (with_reducible first
        | assumption | apply OutKeeps.next | apply settle_keeps | apply raiseFault_keeps | apply setGuard_keeps
        | apply Keeps.ite | apply OutKeeps.ite)
    | split
    | refine Keeps.upd ?_ rfl rfl rfl rfl rfl rfl rfl rfl rfl

theorem clearLockout_keeps {z s : State} (hz : Keeps z s) : Keeps z (clearLockout s) := by
  unfold clearLockout
  try dsimp only
  repeat' first
    | (with_reducible first | assumption | apply set_keeps | apply settle_keeps | apply setMode_keeps | apply Keeps.ite)
    | split
    | refine Keeps.upd ?_ rfl rfl rfl rfl rfl rfl rfl rfl rfl

theorem setPair_armed (s : State) (d : Side) (n : Nat) (st : PairState) :
    (setPair s d n st).saf.armed = s.saf.armed ∧ (setPair s d n st).mode = s.mode := by
  unfold setPair
  dsimp only
  split <;> split <;> cases d <;> exact ⟨rfl, rfl⟩

theorem releasePair_armed (c : SafCfg) (auto : Bool) (s : State) (n : Nat) :
    (releasePair c auto s n).saf.armed = s.saf.armed ∧ (releasePair c auto s n).mode = s.mode := by
  unfold releasePair
  dsimp only
  split <;> split <;> simp only [setPair_armed, and_self]

/-- Pairs are switched on again only while the block is armed in SCAN. -/
theorem releasePair_holds {s : State} (c : SafCfg) (auto : Bool) (n : Nat) (hs : s.saf.armed = true ∧ s.mode = .scan) :
    Holds s (releasePair c auto s n) := by
  have k : ∀ (t : State) (d : Side), t.saf.armed = true ∧ t.mode = .scan →
      Holds t (if ((t.ev d).pair n == .wait && (c.pair n).autoRestart == auto) = true then setPair t d n .on else t) := by
    intro t d ht
    split
    · exact setPair_holds d n .on ht
    · exact Holds.refl t
  unfold releasePair
  dsimp only
  refine (k s .a hs).trans (k _ .b ?_)
  split
  · simpa only [setPair_armed] using hs
  · exact hs

theorem releasePairs_holds {s : State} (c : SafCfg) (auto : Bool) (l : List Nat) (hs : s.saf.armed = true ∧ s.mode = .scan) :
    Holds s (l.foldl (releasePair c auto) s) := by
  induction l generalizing s with
  | nil => exact Holds.refl s
  | cons a l ih => exact (releasePair_holds c auto a hs).trans (ih (by simpa only [releasePair_armed] using hs))

/-- An accepted reset edge may switch outputs on. -/
theorem resetEdge_holds (s : State) : Holds s (resetEdge s) := by
  have h := Keeps.refl s
  have k : Keeps s ((s.inc F.SAF_RST_ACCEPT_CNT).set F.SAF_RST_EDGE 1) := set_keeps _ _ (inc_keeps _ h)
  unfold resetEdge
  dsimp only
  split
  · exact (Keeps.ite (Keeps.ite (inc_keeps _ h) (clearLockout_keeps k)) k).toHolds
  · exact (Keeps.ite (settle_keeps (setMode_keeps _ k)) k).toHolds
  · rename_i hm
    split
    · split
      · rename_i ha
        exact k.toHolds.trans (releasePairs_holds _ _ _ ⟨ha, hm⟩)
      · exact k.toHolds
    · exact k.toHolds
  · exact k.toHolds

theorem execRstReqAccept_holds {s t : State} (lenA lenB skew : Nat) (e : execRstReqAccept lenA lenB skew s = .next t) :
    Holds s t := by
  have k := (set_keeps F.SAF_RST_LEVEL 0 (Keeps.refl s))
  unfold execRstReqAccept at e
  dsimp only at e
  split at e
  · cases e; exact k.toHolds.trans (resetEdge_holds _)
  · split at e <;> cases e
    · exact k.toHolds
    · exact (inc_keeps _ k).toHolds

theorem execRstReqJam_keeps {z s : State} (hz : Keeps z s) : OutKeeps z (execRstReqJam s) := by
  unfold execRstReqJam
  try dsimp only
  repeat' first
    | (with_reducible first
        | assumption | apply OutKeeps.next | apply set_keeps | apply raiseFault_keeps | apply Keeps.ite
        | apply OutKeeps.ite)
    | split
    | refine Keeps.upd ?_ rfl rfl rfl rfl rfl rfl rfl rfl rfl

theorem execAutoRestartExpiry_holds {s t : State} (pair : Fin 4) (e : execAutoRestartExpiry pair s = .next t) : Holds s t := by
  unfold execAutoRestartExpiry at e
  split at e
  · split at e
    · rename_i h
      simp only [Bool.and_eq_true, beq_iff_eq] at h
      cases e
      exact releasePair_holds _ _ _ ⟨h.2, h.1⟩
    · cases e; exact Holds.refl s
  · cases e; exact Holds.refl s

theorem execClearableExpiry_keeps {z s : State} (hz : Keeps z s) : OutKeeps z (execClearableExpiry s) := by
  unfold execClearableExpiry
  try dsimp only
  repeat' first
    | (with_reducible first | assumption | apply OutKeeps.next | apply Keeps.ite | apply OutKeeps.ite)
    | split
    | refine Keeps.upd ?_ rfl rfl rfl rfl rfl rfl rfl rfl rfl

theorem execF3Fault_keeps {z s : State} (code : Nat) (detail : Nat) (hz : Keeps z s) : OutKeeps z (execF3Fault code detail s) := by
  unfold execF3Fault
  try dsimp only
  repeat' first
    | (with_reducible first
        | assumption | apply OutKeeps.next | apply raiseF3_keeps | apply Keeps.ite | apply OutKeeps.ite)
    | split
    | refine Keeps.upd ?_ rfl rfl rfl rfl rfl rfl rfl rfl rfl

theorem execF3CauseCleared_keeps {z s : State} (code : Nat) (detail : Nat) (hz : Keeps z s) : OutKeeps z (execF3CauseCleared code detail s) := by
  unfold execF3CauseCleared
  try dsimp only
  repeat' first
    | (with_reducible first
        | assumption | apply OutKeeps.next | apply set_keeps | apply clearF3_keeps | apply Keeps.ite
        | apply OutKeeps.ite)
    | split
    | refine Keeps.upd ?_ rfl rfl rfl rfl rfl rfl rfl rfl rfl

theorem execTstModeRise_keeps {z s : State} (ball : Bool) (hz : Keeps z s) : OutKeeps z (execTstModeRise ball s) := by
  unfold execTstModeRise
  try dsimp only
  repeat' first
    | (with_reducible first
        | assumption | apply OutKeeps.next | apply raiseF3_keeps | apply Keeps.ite | apply OutKeeps.ite)
    | split
    | refine Keeps.upd ?_ rfl rfl rfl rfl rfl rfl rfl rfl rfl

theorem copyConfig_keeps {z s : State} (n : Nat) (hz : Keeps z s) : Keeps z (copyConfig s n) := by
  unfold copyConfig
  try dsimp only
  repeat' first
    | (with_reducible first | assumption | apply set_keeps | apply Keeps.foldl)
    | (intro _; try dsimp only)
    | with_reducible apply Keeps.ite
    | split
    | refine Keeps.upd ?_ rfl rfl rfl rfl rfl rfl rfl rfl rfl

theorem withdrawCluster_keeps {z s : State} (n : Nat) (code : Nat) (hz : Keeps z s) : Keeps z (withdrawCluster s n code) := by
  unfold withdrawCluster
  try dsimp only
  repeat' first
    | (with_reducible first
        | assumption | apply set_keeps | apply openGaps_keeps | apply raiseFault_keeps | apply Keeps.ite)
    | split
    | refine Keeps.upd ?_ rfl rfl rfl rfl rfl rfl rfl rfl rfl

theorem noteGrooms_keeps {z s : State} (hz : Keeps z s) : Keeps z (noteGrooms s) := by
  unfold noteGrooms
  try dsimp only
  repeat' first
    | (with_reducible first | assumption | apply set_keeps | apply put_keeps | apply Keeps.ite)
    | split
    | refine Keeps.upd ?_ rfl rfl rfl rfl rfl rfl rfl rfl rfl

theorem dropFromGrooms_keeps {z s : State} (m : Nat) (refused : Bool) (hz : Keeps z s) : Keeps z (dropFromGrooms s m refused) := by
  unfold dropFromGrooms
  try dsimp only
  repeat' first
    | (with_reducible first | assumption | apply noteGrooms_keeps | apply Keeps.ite)
    | split
    | refine Keeps.upd ?_ rfl rfl rfl rfl rfl rfl rfl rfl rfl

theorem stopClsGroom_keeps {z s : State} (hz : Keeps z s) : Keeps z (stopClsGroom s) := by
  unfold stopClsGroom
  try dsimp only
  repeat' first
    | (with_reducible first | assumption | apply dropFromGrooms_keeps | apply Keeps.ite)
    | split
    | refine Keeps.upd ?_ rfl rfl rfl rfl rfl rfl rfl rfl rfl

theorem feFault_keeps {z s : State} (n : Nat) (hz : Keeps z s) : Keeps z (feFault s n) := by
  unfold feFault
  try dsimp only
  repeat' first
    | (with_reducible first
        | assumption | apply set_keeps | apply dropFromGrooms_keeps | apply raiseFault_keeps
        | apply withdrawCluster_keeps | apply stopClsGroom_keeps | apply Keeps.ite)
    | split
    | refine Keeps.upd ?_ rfl rfl rfl rfl rfl rfl rfl rfl rfl

theorem execClusterFeFault_keeps {z s : State} (clusters : Nat) (hz : Keeps z s) : OutKeeps z (execClusterFeFault clusters s) := by
  unfold execClusterFeFault
  try dsimp only
  repeat' first
    | (with_reducible first | assumption | apply OutKeeps.next | apply feFault_keeps | apply Keeps.foldl)
    | (intro _; try dsimp only)
    | (with_reducible first | apply Keeps.ite | apply OutKeeps.ite)
    | split
    | refine Keeps.upd ?_ rfl rfl rfl rfl rfl rfl rfl rfl rfl

theorem execSpareRestartDone_keeps {z s : State} (hz : Keeps z s) : OutKeeps z (execSpareRestartDone s) := by
  unfold execSpareRestartDone
  try dsimp only
  repeat' first
    | (with_reducible first | assumption | apply OutKeeps.next | apply set_keeps | apply Keeps.ite | apply OutKeeps.ite)
    | split
    | refine Keeps.upd ?_ rfl rfl rfl rfl rfl rfl rfl rfl rfl

theorem addGroom_keeps {z s : State} (g : Groom) (hz : Keeps z s) : Keeps z (addGroom s g) := by
  unfold addGroom
  try dsimp only
  repeat' first
    | (with_reducible first | assumption | apply noteGrooms_keeps | apply Keeps.ite)
    | split
    | refine Keeps.upd ?_ rfl rfl rfl rfl rfl rfl rfl rfl rfl

theorem rerunCls_keeps {z s : State} (hz : Keeps z s) : Keeps z (rerunCls s) := by
  unfold rerunCls
  try dsimp only
  repeat' first
    | (with_reducible first | assumption | apply addGroom_keeps | apply background_keeps | apply Keeps.ite)
    | split
    | refine Keeps.upd ?_ rfl rfl rfl rfl rfl rfl rfl rfl rfl

theorem finishSpare_keeps {z s : State} (op : Nat) (hz : Keeps z s) : Keeps z (spareSwitch.finishSpare s op) := by
  unfold spareSwitch.finishSpare
  apply finishRunning_keeps
  exact hz.upd rfl rfl rfl rfl rfl rfl rfl rfl rfl

theorem spareSwitch_keeps {z s : State} (hz : Keeps z s) : Keeps z (spareSwitch s) := by
  unfold spareSwitch
  dsimp only
  split
  · exact finishSpare_keeps _ (endFault_keeps _ _ (set_keeps _ _ (set_keeps _ _ (set_keeps _ _ (inc_keeps _ (set_keeps _ _
      (copyConfig_keeps _ hz)))))))
  · exact finishSpare_keeps _ (rerunCls_keeps (endFault_keeps _ _ (set_keeps _ _ (set_keeps _ _ (set_keeps _ _
      (set_keeps _ _ hz))))))
  · exact hz

theorem execClusterRestartDone_keeps {z s : State} (cluster : Fin 17) (hz : Keeps z s) : OutKeeps z (execClusterRestartDone cluster s) := by
  unfold execClusterRestartDone
  try dsimp only
  repeat' first
    | (with_reducible first | assumption | apply OutKeeps.next | apply set_keeps | apply Keeps.ite | apply OutKeeps.ite)
    | split
    | refine Keeps.upd ?_ rfl rfl rfl rfl rfl rfl rfl rfl rfl

theorem setChan_keeps {z s : State} (c : Chan) (hz : Keeps z s) : Keeps z (setChan s c) := by
  unfold setChan
  try dsimp only
  repeat' first
    | (with_reducible first | assumption | apply Keeps.ite)
    | split
    | refine Keeps.upd ?_ rfl rfl rfl rfl rfl rfl rfl rfl rfl

theorem holdRange_keeps {z s : State} (p : Nat) (c : Chan) (range : Nat) (hz : Keeps z s) : Keeps z (holdRange s p c range) := by
  unfold holdRange
  try dsimp only
  repeat' first
    | (with_reducible first | assumption | apply set_keeps | apply setChan_keeps | apply Keeps.ite)
    | split
    | refine Keeps.upd ?_ rfl rfl rfl rfl rfl rfl rfl rfl rfl

theorem autoRange_keeps {z s : State} (p : Nat) (c : Chan) (saturated : Bool) (t1 : Bool) (hz : Keeps z s) : Keeps z (autoRange s p c saturated t1) := by
  unfold autoRange
  try dsimp only
  repeat' first
    | (with_reducible first | assumption | apply holdRange_keeps | apply setChan_keeps | apply Keeps.ite)
    | split
    | refine Keeps.upd ?_ rfl rfl rfl rfl rfl rfl rfl rfl rfl

theorem execShotEnd_keeps {z s : State} (ch : Fin 1024) (saturated : Bool) (t1 : Bool) (hz : Keeps z s) : OutKeeps z (execShotEnd ch saturated t1 s) := by
  unfold execShotEnd
  try dsimp only
  repeat' first
    | (with_reducible first
        | assumption | apply OutKeeps.next | apply inc_keeps | apply autoRange_keeps | apply setChan_keeps
        | apply Keeps.ite | apply OutKeeps.ite)
    | split
    | refine Keeps.upd ?_ rfl rfl rfl rfl rfl rfl rfl rfl rfl

theorem channelAtSlot_keeps {z s t : State} (c : Chan) (hz : Keeps z t) : Keeps z (channelAtSlot s t c) := by
  unfold channelAtSlot
  dsimp only
  refine Keeps.ite hz ?_
  generalize (c.wait && edgeHeld s (servedBy s (c.id / 64)) (c.id % 64)) = w
  have k := fun x v w => set_keeps (F.RXF_CH_STAT_RANGE_PEND (servedBy s (c.id / 64)) (c.id % 64)) w
    (set_keeps (F.RXF_CH_STAT_RANGE_PEND (c.id / 64) (c.id % 64)) v (setChan_keeps (c := x) hz))
  split
  · exact set_keeps _ _ (k _ _ _)
  · exact k _ _ _

theorem rangesAtSlot_keeps {z s : State} (hz : Keeps z s) : Keeps z (rangesAtSlot s) :=
  Keeps.foldl _ _ hz fun _ _ h => channelAtSlot_keeps _ h

theorem writeChCfg_keeps {z s : State} (n : Nat) (j : Nat) (v : Nat) (hz : Keeps z s) : Keeps z (writeChCfg s n j v) := by
  unfold writeChCfg
  try dsimp only
  repeat' first
    | (with_reducible first
        | assumption | apply set_keeps | apply writeFields_keeps | apply setChan_keeps | apply holdRange_keeps
        | apply Keeps.ite)
    | split
    | refine Keeps.upd ?_ rfl rfl rfl rfl rfl rfl rfl rfl rfl

theorem execRxfChCfgWrite_keeps {z s : State} (cluster : Fin 17) (ch : Fin 64) (value : Dword) (hz : Keeps z s) : OutKeeps z (execRxfChCfgWrite cluster ch value s) := by
  unfold execRxfChCfgWrite
  try dsimp only
  repeat' first
    | (with_reducible first
        | assumption | apply OutKeeps.next | apply writeChCfg_keeps | apply Keeps.ite | apply OutKeeps.ite)
    | split
    | refine Keeps.upd ?_ rfl rfl rfl rfl rfl rfl rfl rfl rfl

theorem execReturnEdge_keeps {z s : State} (ch : Fin 1024) (coarse : Nat) (tap : Nat) (hz : Keeps z s) : OutKeeps z (execReturnEdge ch coarse tap s) := by
  unfold execReturnEdge
  try dsimp only
  repeat' first
    | (with_reducible first
        | assumption | apply OutKeeps.next | apply inc_keeps | apply setChan_keeps | apply Keeps.ite
        | apply OutKeeps.ite)
    | split
    | refine Keeps.upd ?_ rfl rfl rfl rfl rfl rfl rfl rfl rfl

theorem noteReturn_keeps {z s : State} (ch : Nat) (le : Nat) (hz : Keeps z s) : Keeps z (noteReturn s ch le) := by
  unfold noteReturn
  try dsimp only
  repeat' first
    | (with_reducible first | assumption | apply noteEdge_keeps | apply Keeps.ite)
    | split
    | refine Keeps.upd ?_ rfl rfl rfl rfl rfl rfl rfl rfl rfl

theorem execEventWordFormed_keeps {z s : State} (ch : Fin 1024) (width : Nat) (t1 : Bool) (own : List Overload) (others : List Overload) (reference : Bool) (hz : Keeps z s) : OutKeeps z (execEventWordFormed ch width t1 own others reference s) := by
  unfold execEventWordFormed
  try dsimp only
  repeat' first
    | (with_reducible first
        | assumption | apply OutKeeps.next | apply inc_keeps | apply setChan_keeps | apply noteReturn_keeps
        | apply Keeps.ite | apply OutKeeps.ite)
    | split
    | refine Keeps.upd ?_ rfl rfl rfl rfl rfl rfl rfl rfl rfl

theorem writeApdbCtrl_keeps {z s : State} (v : Nat) (hz : Keeps z s) : Keeps z (writeApdbCtrl s v) := by
  unfold writeApdbCtrl
  try dsimp only
  repeat' first
    | (with_reducible first | assumption | apply set_keeps | apply put_keeps | apply endFault_keeps | apply Keeps.ite)
    | split
    | refine Keeps.upd ?_ rfl rfl rfl rfl rfl rfl rfl rfl rfl

theorem execApdbCtrlWrite_keeps {z s : State} (value : Dword) (hz : Keeps z s) : OutKeeps z (execApdbCtrlWrite value s) := by
  unfold execApdbCtrlWrite
  try dsimp only
  repeat' first
    | (with_reducible first
        | assumption | apply OutKeeps.next | apply writeApdbCtrl_keeps | apply Keeps.ite | apply OutKeeps.ite)
    | split
    | refine Keeps.upd ?_ rfl rfl rfl rfl rfl rfl rfl rfl rfl

theorem execApdbSettledChange_keeps {z s : State} (settled : Bool) (sense : Nat) (hz : Keeps z s) : OutKeeps z (execApdbSettledChange settled sense s) := by
  unfold execApdbSettledChange
  try dsimp only
  repeat' first
    | (with_reducible first
        | assumption | apply OutKeeps.next | apply set_keeps | apply put_keeps | apply Keeps.ite | apply OutKeeps.ite)
    | split
    | refine Keeps.upd ?_ rfl rfl rfl rfl rfl rfl rfl rfl rfl

theorem execApdbTrip_keeps {z s : State} (trip : BiasTrip) (hz : Keeps z s) : OutKeeps z (execApdbTrip trip s) := by
  unfold execApdbTrip
  try dsimp only
  repeat' first
    | (with_reducible first
        | assumption | apply OutKeeps.next | apply set_keeps | apply raiseFault_keeps | apply Keeps.ite
        | apply OutKeeps.ite)
    | split
    | refine Keeps.upd ?_ rfl rfl rfl rfl rfl rfl rfl rfl rfl

theorem recordImp_keeps {z s : State} (tones : List Nat) (m : ImpMeas) (hz : Keeps z s) : Keeps z (recordImp s tones m) := by
  unfold recordImp
  try dsimp only
  repeat' first
    | (with_reducible first | assumption | apply set_keeps | apply put_keeps | apply Keeps.ite)
    | split
    | refine Keeps.upd ?_ rfl rfl rfl rfl rfl rfl rfl rfl rfl

theorem elementFault_keeps {z s : State} (ch : Nat) (hz : Keeps z s) : Keeps z (elementFault s ch) := by
  unfold elementFault
  try dsimp only
  repeat' first
    | (with_reducible first | assumption | apply set_keeps | apply raiseFault_keeps | apply Keeps.ite)
    | split
    | refine Keeps.upd ?_ rfl rfl rfl rfl rfl rfl rfl rfl rfl

theorem judgeChannel_keeps {z s : State} (tones : List Nat) (again : List ImpMeas) (m : ImpMeas) (hz : Keeps z s) : Keeps z (judgeChannel tones again s m) := by
  unfold judgeChannel
  try dsimp only
  repeat' first
    | (with_reducible first
        | assumption | apply set_keeps | apply recordImp_keeps | apply endFault_keeps | apply feFault_keeps
        | apply elementFault_keeps | apply Keeps.ite)
    | split
    | refine Keeps.upd ?_ rfl rfl rfl rfl rfl rfl rfl rfl rfl

theorem execImpedanceCheckDone_keeps {z s : State} (tones : List Nat) (first : List ImpMeas) (again : List ImpMeas) (hz : Keeps z s) : OutKeeps z (execImpedanceCheckDone tones first again s) := by
  unfold execImpedanceCheckDone
  try dsimp only
  repeat' first
    | (with_reducible first
        | assumption | apply OutKeeps.next | apply set_keeps | apply judgeChannel_keeps | apply finishRunning_keeps
        | apply Keeps.foldl)
    | (intro _; try dsimp only)
    | (with_reducible first | apply Keeps.ite | apply OutKeeps.ite)
    | split
    | refine Keeps.upd ?_ rfl rfl rfl rfl rfl rfl rfl rfl rfl

theorem startImpedance_keeps {z s : State} (mask : Nat) (hz : Keeps z s) : Keeps z (startImpedance s mask) := by
  unfold startImpedance
  try dsimp only
  repeat' first
    | (with_reducible first | assumption | apply set_keeps | apply Keeps.ite)
    | split
    | refine Keeps.upd ?_ rfl rfl rfl rfl rfl rfl rfl rfl rfl

theorem setSlice_keeps {z s : State} (n : Nat) (x : Option Slice) (hz : Keeps z s) : Keeps z (setSlice s n x) := by
  unfold setSlice
  try dsimp only
  repeat' first
    | (with_reducible first | assumption | apply Keeps.ite)
    | split
    | refine Keeps.upd ?_ rfl rfl rfl rfl rfl rfl rfl rfl rfl

theorem setAttach_keeps {z s : State} (n : Nat) (v : Nat) (hz : Keeps z s) : Keeps z (setAttach s n v) := by
  unfold setAttach
  try dsimp only
  repeat' first
    | (with_reducible first | assumption | apply set_keeps | apply put_keeps | apply Keeps.ite)
    | split
    | refine Keeps.upd ?_ rfl rfl rfl rfl rfl rfl rfl rfl rfl

theorem attachSlice_keeps {z s : State} (n : Nat) (v : Nat) (hz : Keeps z s) : Keeps z (attachSlice s n v) := by
  unfold attachSlice
  try dsimp only
  repeat' first
    | (with_reducible first | assumption | apply setAttach_keeps | apply setSlice_keeps | apply Keeps.ite)
    | split
    | refine Keeps.upd ?_ rfl rfl rfl rfl rfl rfl rfl rfl rfl

theorem shapeMissed_keeps {z s : State} (n : Nat) (hz : Keeps z s) : Keeps z (shapeMissed s n) := by
  unfold shapeMissed
  try dsimp only
  repeat' first
    | (with_reducible first | assumption | apply set_keeps | apply inc_keeps | apply Keeps.ite)
    | split
    | refine Keeps.upd ?_ rfl rfl rfl rfl rfl rfl rfl rfl rfl

theorem writeObs_keeps {z s : State} (n : Nat) (v : Nat) (hz : Keeps z s) : Keeps z (writeObs s n v) := by
  unfold writeObs
  try dsimp only
  repeat' first
    | (with_reducible first
        | assumption | apply setSlice_keeps | apply setAttach_keeps | apply attachSlice_keeps | apply Keeps.ite)
    | split
    | refine Keeps.upd ?_ rfl rfl rfl rfl rfl rfl rfl rfl rfl

theorem execRxfObsWrite_keeps {z s : State} (slice : Fin 32) (value : Dword) (hz : Keeps z s) : OutKeeps z (execRxfObsWrite slice value s) := by
  unfold execRxfObsWrite
  try dsimp only
  repeat' first
    | (with_reducible first
        | assumption | apply OutKeeps.next | apply writeObs_keeps | apply Keeps.ite | apply OutKeeps.ite)
    | split
    | refine Keeps.upd ?_ rfl rfl rfl rfl rfl rfl rfl rfl rfl

theorem execSliceAverageDone_keeps {z s : State} (slice : Fin 32) (sums : List Nat) (hz : Keeps z s) : OutKeeps z (execSliceAverageDone slice sums s) := by
  unfold execSliceAverageDone
  try dsimp only
  repeat' first
    | (with_reducible first
        | assumption | apply OutKeeps.next | apply set_keeps | apply inc_keeps | apply attachSlice_keeps
        | apply setSlice_keeps | apply Keeps.foldl)
    | (intro _; try dsimp only)
    | (with_reducible first | apply Keeps.ite | apply OutKeeps.ite)
    | split
    | refine Keeps.upd ?_ rfl rfl rfl rfl rfl rfl rfl rfl rfl

end Sys2Proof.Machine
end

