-- ==== Sys2Proof/Laws/KeepsEmitter.lean ====
section
/-! SUPPORT. What every operation of calibration, time and the emitter keeps (Safety.lean): one lemma each. -/

namespace Sys2Proof.Machine

theorem groomImpedance_keeps {z s : State} (mask : Nat) (hz : Keeps z s) : Keeps z (groomImpedance s mask) := by
  unfold groomImpedance
  try dsimp only
  repeat' first
    | (with_reducible first | assumption | apply set_keeps | apply startImpedance_keeps | apply Keeps.ite)
    | split
    | refine Keeps.upd ?_ rfl rfl rfl rfl rfl rfl rfl rfl rfl

theorem startGroom_keeps {z s : State} (g : Groom) (hz : Keeps z s) : Keeps z (startGroom s g) := by
  unfold startGroom
  try dsimp only
  repeat' first
    | (with_reducible first | assumption | apply addGroom_keeps | apply groomImpedance_keeps | apply Keeps.ite)
    | split
    | refine Keeps.upd ?_ rfl rfl rfl rfl rfl rfl rfl rfl rfl

theorem groomsAtBoundary_keeps {z s : State} (hz : Keeps z s) : Keeps z (groomsAtBoundary s) := by
  unfold groomsAtBoundary
  try dsimp only
  repeat' first
    | (with_reducible first
        | assumption | apply set_keeps | apply setInt_keeps | apply loaded_keeps | apply noteGrooms_keeps
        | apply Keeps.foldl)
    | (intro _; try dsimp only)
    | with_reducible apply Keeps.ite
    | split
    | refine Keeps.upd ?_ rfl rfl rfl rfl rfl rfl rfl rfl rfl

theorem execCalGroom_keeps {z s : State} (port : Port) (tag : Nat) (hz : Keeps z s) : OutKeeps z (execCalGroom port tag s) := by
  unfold execCalGroom
  try dsimp only
  repeat' first
    | (with_reducible first
        | assumption | apply OutKeeps.next | apply startGroom_keeps | apply background_keeps | apply withCmd_keeps
        | apply begin__keeps)
    | (intro _; try dsimp only)
    | (with_reducible first | apply Keeps.ite | apply OutKeeps.ite)
    | split
    | refine Keeps.upd ?_ rfl rfl rfl rfl rfl rfl rfl rfl rfl

theorem execAutoGroomStart_keeps {z s : State} (cluster : Fin 16) (hz : Keeps z s) : OutKeeps z (execAutoGroomStart cluster s) := by
  unfold execAutoGroomStart
  try dsimp only
  repeat' first
    | (with_reducible first
        | assumption | apply OutKeeps.next | apply startGroom_keeps | apply background_keeps | apply Keeps.ite
        | apply OutKeeps.ite)
    | split
    | refine Keeps.upd ?_ rfl rfl rfl rfl rfl rfl rfl rfl rfl

theorem noteQuality_keeps {z s : State} (full : Bool) (cl : Nat) (code : Nat) (l : List (ChanMeas × Trim)) (hz : Keeps z s) : Keeps z (noteQuality s full cl code l) := by
  unfold noteQuality
  try dsimp only
  repeat' first
    | (with_reducible first | assumption | apply set_keeps | apply Keeps.ite)
    | split
    | refine Keeps.upd ?_ rfl rfl rfl rfl rfl rfl rfl rfl rfl

theorem loaded_keeps {z s : State} (cl : Nat) (d : CalData) (hz : Keeps z s) : Keeps z (loaded s cl d) := by
  unfold loaded
  try dsimp only
  repeat' first
    | (with_reducible first | assumption | apply Keeps.ite)
    | split
    | refine Keeps.upd ?_ rfl rfl rfl rfl rfl rfl rfl rfl rfl

theorem keepPreset_keeps {z s : State} (lane : Nat) (eyes : List (Nat × Nat)) (hz : Keeps z s) : Keeps z (keepPreset s lane eyes) := by
  unfold keepPreset
  try dsimp only
  repeat' first
    | (with_reducible first
        | assumption | apply set_keeps | refine Keeps.snd (by assumption) ?_ | refine Keeps.fst (by assumption) ?_
        | apply Keeps.ite)
    | split
    | refine Keeps.upd ?_ rfl rfl rfl rfl rfl rfl rfl rfl rfl

theorem acceptFull_keeps {z s : State} (c : ClusterMeas) (l : List (ChanMeas × Trim)) (hz : Keeps z s) : Keeps z (acceptFull s c l) := by
  unfold acceptFull
  try dsimp only
  repeat' first
    | (with_reducible first
        | assumption | apply set_keeps | apply put_keeps | apply loaded_keeps | apply keepPreset_keeps
        | apply Keeps.foldl)
    | (intro _; try dsimp only)
    | with_reducible apply Keeps.ite
    | split
    | refine Keeps.upd ?_ rfl rfl rfl rfl rfl rfl rfl rfl rfl

theorem acceptWarm_keeps {z s : State} (c : ClusterMeas) (l : List (ChanMeas × Trim)) (hz : Keeps z s) : Keeps z (acceptWarm s c l) := by
  unfold acceptWarm
  try dsimp only
  repeat' first
    | (with_reducible first | assumption | apply put_keeps | apply loaded_keeps | apply Keeps.foldl)
    | (intro _; try dsimp only)
    | with_reducible apply Keeps.ite
    | split
    | refine Keeps.upd ?_ rfl rfl rfl rfl rfl rfl rfl rfl rfl

theorem refuseCluster_keeps {z s : State} (g : Groom) (cl : Nat) (hz : Keeps z s) : Keeps z (refuseCluster s g cl) := by
  unfold refuseCluster
  try dsimp only
  repeat' first
    | (with_reducible first
        | assumption | apply set_keeps | apply feFault_keeps | apply raiseFault_keeps | apply startGroom_keeps
        | apply background_keeps | apply Keeps.ite)
    | split
    | refine Keeps.upd ?_ rfl rfl rfl rfl rfl rfl rfl rfl rfl

theorem groomZero_keeps {z s : State} (full : Bool) (zero : Nat × Nat) (pzero : Nat × Nat) (hz : Keeps z s) : Keeps z (groomZero s full zero pzero) := by
  unfold groomZero
  try dsimp only
  repeat' first
    | (with_reducible first
        | assumption | apply set_keeps | apply setInt_keeps | apply raiseFault_keeps | apply Keeps.ite)
    | split
    | refine Keeps.upd ?_ rfl rfl rfl rfl rfl rfl rfl rfl rfl

theorem newTables_keeps {z s : State} (hz : Keeps z s) : Keeps z (newTables s) := by
  unfold newTables
  try dsimp only
  repeat' first
    | (with_reducible first | assumption | apply Keeps.ite)
    | split
    | refine Keeps.upd ?_ rfl rfl rfl rfl rfl rfl rfl rfl rfl

theorem loadTables_keeps {z s : State} (full : Bool) (hz : Keeps z s) : Keeps z (loadTables s full) := by
  unfold loadTables
  try dsimp only
  repeat' first
    | (with_reducible first | assumption | apply Keeps.ite)
    | split
    | refine Keeps.upd ?_ rfl rfl rfl rfl rfl rfl rfl rfl rfl

theorem finishGroom_keeps {z s : State} (g : Groom) (status : Nat) (refused : Nat) (hz : Keeps z s) : Keeps z (finishGroom s g status refused) := by
  unfold finishGroom
  try dsimp only
  repeat' first
    | (with_reducible first | assumption | apply finish_keeps | apply Keeps.ite)
    | split
    | refine Keeps.upd ?_ rfl rfl rfl rfl rfl rfl rfl rfl rfl

theorem endRelease_keeps {z s : State} (refused : Nat) (hz : Keeps z s) : Keeps z (endRelease s refused) := by
  unfold endRelease
  try dsimp only
  repeat' first
    | (with_reducible first | assumption | apply set_keeps | apply finishRunning_keeps | apply Keeps.ite)
    | split
    | refine Keeps.upd ?_ rfl rfl rfl rfl rfl rfl rfl rfl rfl

theorem judgeClusters_keeps {z : State} (g : Groom) (extRun : Bool) (ref : List Int) (l : List ClusterMeas)
    (a : State × Nat) (hz : Keeps z a.1) : Keeps z (l.foldl (judgeCluster g extRun ref) a).1 := by
  induction l generalizing a with
  | nil => exact hz
  | cons c l ih =>
    refine ih _ ?_
    obtain ⟨s, r⟩ := a
    have k := fun f m => noteQuality_keeps (z := z) g.full c.cl f m hz
    unfold judgeCluster
    dsimp only at k ⊢
    rw [apply_ite Prod.fst]
    exact Keeps.ite (Keeps.ite (acceptFull_keeps _ _ (k _ _)) (acceptWarm_keeps _ _ (k _ _))) (refuseCluster_keeps _ _ (k _ _))

theorem execGroomDone_keeps {z s : State} (groom : Nat) (meas : List ClusterMeas) (sb : List (List (Nat × Nat)))
    (zero pzero : Nat × Nat) (hz : Keeps z s) : OutKeeps z (execGroomDone groom meas sb zero pzero s) := by
  unfold execGroomDone
  split
  · exact .next hz
  · rename_i g _
    refine .ite (.next hz) ?_
    have k0 : Keeps z { s with cal := { s.cal with grooms := s.cal.grooms.eraseIdx groom } } :=
      hz.upd rfl rfl rfl rfl rfl rfl rfl rfl rfl
    dsimp only
    generalize ({ s with cal := { s.cal with grooms := s.cal.grooms.eraseIdx groom } } : State) = s0 at k0 ⊢
    generalize (s.mode == Mode.ready && s.flag F.RXF_APDB_STAT_SETTLED) = extRun
    generalize List.filterMap _ (List.range 17) = ms
    have k := judgeClusters_keeps g extRun (walkRef s g extRun ms) ms (s0, g.refused) k0
    generalize List.foldl (judgeCluster g extRun (walkRef s g extRun ms)) (s0, g.refused) ms = p at k ⊢
    obtain ⟨t, refused⟩ := p
    dsimp only at k ⊢
    have k1 := groomZero_keeps g.full zero pzero k
    have k2 : Keeps z (if (g.full && g.mask &&& refused != g.mask) = true then newTables (groomZero t g.full zero pzero)
        else loadTables (groomZero t g.full zero pzero) g.full) :=
      Keeps.ite (newTables_keeps k1) (loadTables_keeps g.full k1)
    generalize (if (g.full && g.mask &&& refused != g.mask) = true then newTables (groomZero t g.full zero pzero)
        else loadTables (groomZero t g.full zero pzero) g.full) = u at k2 ⊢
    have k3 : Keeps z (if g.full && g.startUp then
        (sb.take 2).zipIdx.foldl (fun x e => keepPreset x (16 + e.2) e.1) u else u) :=
      Keeps.ite (Keeps.foldl _ _ k2 fun _ _ h => keepPreset_keeps _ _ h) k2
    generalize (if g.full && g.startUp then
        (sb.take 2).zipIdx.foldl (fun x e => keepPreset x (16 + e.2) e.1) u else u) = v at k3 ⊢
    have k4 : Keeps z (if g.release then endRelease v refused else finishGroom v g St.done refused) :=
      Keeps.ite (endRelease_keeps _ k3) (finishGroom_keeps _ _ _ k3)
    generalize (if g.release then endRelease v refused else finishGroom v g St.done refused) = w at k4 ⊢
    have k5 := noteGrooms_keeps (Keeps.ite (c := (g.startUp && refused != 0) = true) (stepFailed_keeps 5 k4) k4)
    exact .next (Keeps.ite (startAt_keeps _ k5) k5)

theorem abortGroom_keeps {z s : State} (g : Groom) (hz : Keeps z s) : Keeps z (abortGroom s g) := by
  unfold abortGroom
  try dsimp only
  repeat' first
    | (with_reducible first | assumption | apply noteGrooms_keeps | apply loaded_keeps | apply Keeps.ite)
    | split
    | refine Keeps.upd ?_ rfl rfl rfl rfl rfl rfl rfl rfl rfl

theorem execCalStore_keeps {z s : State} (port : Port) (tag : Nat) (hz : Keeps z s) : OutKeeps z (execCalStore port tag s) := by
  unfold execCalStore
  try dsimp only
  repeat' first
    | (with_reducible first
        | assumption | apply OutKeeps.next | apply set_keeps | apply withCmd_keeps | apply begin__keeps)
    | (intro _; try dsimp only)
    | (with_reducible first | apply Keeps.ite | apply OutKeeps.ite)
    | split
    | refine Keeps.upd ?_ rfl rfl rfl rfl rfl rfl rfl rfl rfl

theorem execCalStoreDone_keeps {z s : State} (ok : Bool) (hz : Keeps z s) : OutKeeps z (execCalStoreDone ok s) := by
  unfold execCalStoreDone
  try dsimp only
  repeat' first
    | (with_reducible first
        | assumption | apply OutKeeps.next | apply set_keeps | apply finishRunning_keeps | apply Keeps.ite
        | apply OutKeeps.ite)
    | split
    | refine Keeps.upd ?_ rfl rfl rfl rfl rfl rfl rfl rfl rfl

theorem execCalRead_keeps {z s : State} (port : Port) (tag : Nat) (hz : Keeps z s) : OutKeeps z (execCalRead port tag s) := by
  unfold execCalRead
  try dsimp only
  repeat' first
    | (with_reducible first | assumption | apply OutKeeps.next | apply finishOut_keeps | apply withCmd_keeps)
    | (intro _; try dsimp only)
    | (with_reducible first
        | refine Keeps.snd (by assumption) ?_ | refine Keeps.fst (by assumption) ?_ | apply Keeps.ite
        | apply OutKeeps.ite)
    | split
    | refine Keeps.upd ?_ rfl rfl rfl rfl rfl rfl rfl rfl rfl

theorem execCalSpareEngage_keeps {z s : State} (port : Port) (tag : Nat) (hz : Keeps z s) : OutKeeps z (execCalSpareEngage port tag s) := by
  unfold execCalSpareEngage
  try dsimp only
  repeat' first
    | (with_reducible first
        | assumption | apply OutKeeps.next | apply set_keeps | apply finishOk_keeps | apply stopClsGroom_keeps
        | apply withCmd_keeps | apply begin__keeps)
    | (intro _; try dsimp only)
    | (with_reducible first | apply Keeps.ite | apply OutKeeps.ite)
    | split
    | refine Keeps.upd ?_ rfl rfl rfl rfl rfl rfl rfl rfl rfl

theorem execCalSpareRelease_keeps {z s : State} (port : Port) (tag : Nat) (hz : Keeps z s) : OutKeeps z (execCalSpareRelease port tag s) := by
  unfold execCalSpareRelease
  try dsimp only
  repeat' first
    | (with_reducible first
        | assumption | apply OutKeeps.next | apply set_keeps | apply startGroom_keeps | apply background_keeps
        | apply withCmd_keeps | apply begin__keeps)
    | (intro _; try dsimp only)
    | (with_reducible first | apply Keeps.ite | apply OutKeeps.ite)
    | split
    | refine Keeps.upd ?_ rfl rfl rfl rfl rfl rfl rfl rfl rfl

theorem writeWinProf_keeps {z s : State} (p : Nat) (v : Nat) (hz : Keeps z s) : Keeps z (writeWinProf s p v) := by
  unfold writeWinProf
  try dsimp only
  repeat' first
    | (with_reducible first | assumption | apply writeFields_keeps | apply Keeps.ite)
    | split
    | refine Keeps.upd ?_ rfl rfl rfl rfl rfl rfl rfl rfl rfl

theorem execTdcWinProfWrite_keeps {z s : State} (prof : Fin 16) (value : Dword) (hz : Keeps z s) : OutKeeps z (execTdcWinProfWrite prof value s) := by
  unfold execTdcWinProfWrite
  try dsimp only
  repeat' first
    | (with_reducible first
        | assumption | apply OutKeeps.next | apply writeWinProf_keeps | apply Keeps.ite | apply OutKeeps.ite)
    | split
    | refine Keeps.upd ?_ rfl rfl rfl rfl rfl rfl rfl rfl rfl

theorem writePpsCfg_keeps {z s : State} (v : Nat) (hz : Keeps z s) : Keeps z (writePpsCfg s v) := by
  unfold writePpsCfg
  try dsimp only
  repeat' first
    | (with_reducible first | assumption | apply set_keeps | apply put_keeps | apply Keeps.ite)
    | split
    | refine Keeps.upd ?_ rfl rfl rfl rfl rfl rfl rfl rfl rfl

theorem execPpsAlignWrite_keeps {z s : State} (value : Dword) (hz : Keeps z s) : OutKeeps z (execPpsAlignWrite value s) := by
  unfold execPpsAlignWrite
  try dsimp only
  repeat' first
    | (with_reducible first
        | assumption | apply OutKeeps.next | apply writePpsCfg_keeps | apply Keeps.ite | apply OutKeeps.ite)
    | split
    | refine Keeps.upd ?_ rfl rfl rfl rfl rfl rfl rfl rfl rfl

theorem acceptPps_keeps {z s : State} (at_ : Nat) (hz : Keeps z s) : Keeps z (acceptPps s at_) := by
  unfold acceptPps
  try dsimp only
  repeat' first
    | (with_reducible first | assumption | apply set_keeps | apply endFault_keeps | apply Keeps.ite)
    | split
    | refine Keeps.upd ?_ rfl rfl rfl rfl rfl rfl rfl rfl rfl

theorem execPpsEdge_keeps {z s : State} (phase : Fin 80) (hz : Keeps z s) : OutKeeps z (execPpsEdge phase s) := by
  unfold execPpsEdge
  have k := noteEdge_keeps 6 none { time := stampAt s s.sys.raw phase.val, window := 0 } hz
  generalize noteEdge s 6 none { time := stampAt s s.sys.raw phase.val, window := 0 } = t at k ⊢
  dsimp only
  have ks : ∀ {u : State} (x : SysSt), Keeps z u → Keeps z { u with sys := x } :=
    fun x h => h.upd rfl rfl rfl rfl rfl rfl rfl rfl rfl
  refine .ite (.next k) (.ite (.next (acceptPps_keeps _ (ks _ (setInt_keeps _ _ (set_keeps _ _ (set_keeps _ _ (set_keeps _ _
    (set_keeps _ _ k)))))))) (.ite (.next (inc_keeps _ (set_keeps _ _ k))) ?_))
  exact .ite (.next (ks _ (acceptPps_keeps _ (setInt_keeps _ _ (set_keeps _ _ k)))))
    (.next (acceptPps_keeps _ (setInt_keeps _ _ (set_keeps _ _ k))))

theorem execPpsLost_keeps {z s : State} (hz : Keeps z s) : OutKeeps z (execPpsLost s) := by
  unfold execPpsLost
  try dsimp only
  repeat' first
    | (with_reducible first
        | assumption | apply OutKeeps.next | apply set_keeps | apply raiseFault_keeps | apply Keeps.ite
        | apply OutKeeps.ite)
    | split
    | refine Keeps.upd ?_ rfl rfl rfl rfl rfl rfl rfl rfl rfl

theorem writeFmCtrl_keeps {z s : State} (e : Nat) (v : Nat) (hz : Keeps z s) : Keeps z (writeFmCtrl s e v) := by
  unfold writeFmCtrl
  try dsimp only
  repeat' first
    | (with_reducible first | assumption | apply set_keeps | apply Keeps.foldl)
    | (intro _; try dsimp only)
    | with_reducible apply Keeps.ite
    | split
    | refine Keeps.upd ?_ rfl rfl rfl rfl rfl rfl rfl rfl rfl

theorem takeFm3_keeps {z s : State} (hz : Keeps z s) : Keeps z (takeFm3 s) := by
  unfold takeFm3
  try dsimp only
  repeat' first
    | (with_reducible first | assumption | apply set_keeps | apply Keeps.ite)
    | split
    | refine Keeps.upd ?_ rfl rfl rfl rfl rfl rfl rfl rfl rfl

theorem writeFireCfg_keeps {z s : State} (v : Nat) (hz : Keeps z s) : Keeps z (writeFireCfg s v) := by
  unfold writeFireCfg
  try dsimp only
  repeat' first
    | (with_reducible first | assumption | apply writeAt_keeps | apply takeFm3_keeps | apply Keeps.ite)
    | split
    | refine Keeps.upd ?_ rfl rfl rfl rfl rfl rfl rfl rfl rfl

theorem execFmCtrlWrite_keeps {z s : State} (engine : Fin 4) (value : Dword) (hz : Keeps z s) : OutKeeps z (execFmCtrlWrite engine value s) := by
  unfold execFmCtrlWrite
  try dsimp only
  repeat' first
    | (with_reducible first
        | assumption | apply OutKeeps.next | apply writeFmCtrl_keeps | apply Keeps.ite | apply OutKeeps.ite)
    | split
    | refine Keeps.upd ?_ rfl rfl rfl rfl rfl rfl rfl rfl rfl

theorem inhibitEmitter_keeps {z s : State} (cause : Nat) (hz : Keeps z s) : Keeps z (inhibitEmitter s cause) := by
  unfold inhibitEmitter
  try dsimp only
  repeat' first
    | (with_reducible first | assumption | apply set_keeps | apply Keeps.ite)
    | split
    | refine Keeps.upd ?_ rfl rfl rfl rfl rfl rfl rfl rfl rfl

theorem storeGate_keeps {z s : State} (e : Nat) (g : GateResult) (hz : Keeps z s) : Keeps z (storeGate s e g) := by
  unfold storeGate
  try dsimp only
  repeat' first
    | (with_reducible first | assumption | apply set_keeps | apply setInt_keeps | apply Keeps.ite)
    | split
    | refine Keeps.upd ?_ rfl rfl rfl rfl rfl rfl rfl rfl rfl

theorem execFmGateEnd_keeps {z s : State} (engine : Fin 4) (edges : List Edge) (hz : Keeps z s) : OutKeeps z (execFmGateEnd engine edges s) := by
  unfold execFmGateEnd
  try dsimp only
  repeat' first
    | (with_reducible first
        | assumption | apply OutKeeps.next | apply set_keeps | apply put_keeps | apply storeGate_keeps
        | apply raiseFault_keeps | apply inhibitEmitter_keeps | refine Keeps.snd (by assumption) ?_
        | refine Keeps.fst (by assumption) ?_ | apply Keeps.ite | apply OutKeeps.ite)
    | split
    | refine Keeps.upd ?_ rfl rfl rfl rfl rfl rfl rfl rfl rfl

theorem setBank_keeps {z s : State} (b : Nat) (x : Bank) (hz : Keeps z s) : Keeps z (setBank s b x) := by
  unfold setBank
  try dsimp only
  repeat' first
    | (with_reducible first | assumption | apply Keeps.ite)
    | split
    | refine Keeps.upd ?_ rfl rfl rfl rfl rfl rfl rfl rfl rfl

theorem ebkLow_keeps {z s : State} (b : Nat) (hz : Keeps z s) : Keeps z (ebkLow s b) := by
  unfold ebkLow
  try dsimp only
  repeat' first
    | (with_reducible first | assumption | apply setBank_keeps | apply Keeps.ite)
    | split
    | refine Keeps.upd ?_ rfl rfl rfl rfl rfl rfl rfl rfl rfl

theorem ebkCut_keeps {z s : State} (b : Nat) (hz : Keeps z s) : Keeps z (ebkCut s b) := by
  unfold ebkCut
  try dsimp only
  repeat' first
    | (with_reducible first
        | assumption | apply set_keeps | apply takeFree_keeps | apply ebkLow_keeps
        | refine Keeps.snd (by assumption) ?_ | refine Keeps.fst (by assumption) ?_ | apply Keeps.ite)
    | split
    | refine Keeps.upd ?_ rfl rfl rfl rfl rfl rfl rfl rfl rfl

theorem uncharge_keeps {z s : State} (x : Shot) (hz : Keeps z s) : Keeps z (uncharge s x) := by
  unfold uncharge
  try dsimp only
  repeat' first
    | (with_reducible first | assumption | apply Keeps.ite)
    | split
    | refine Keeps.upd ?_ rfl rfl rfl rfl rfl rfl rfl rfl rfl

theorem dropTests_keeps {z s : State} (b : Nat) (hz : Keeps z s) : Keeps z (dropTests s b) := by
  unfold dropTests
  try dsimp only
  repeat' first
    | (with_reducible first | assumption | apply set_keeps | apply uncharge_keeps | apply Keeps.ite)
    | split
    | refine Keeps.upd ?_ rfl rfl rfl rfl rfl rfl rfl rfl rfl

theorem markShort_keeps {z s : State} (i : Nat) (hz : Keeps z s) : Keeps z (markShort s i) := by
  unfold markShort
  try dsimp only
  repeat' first
    | (with_reducible first
        | assumption | apply set_keeps | apply inc_keeps | apply stick_keeps | apply openGaps_keeps | apply Keeps.ite)
    | split
    | refine Keeps.upd ?_ rfl rfl rfl rfl rfl rfl rfl rfl rfl

theorem giveBack_keeps {z s : State} (x : Shot) (hz : Keeps z s) : Keeps z (giveBack s x) := by
  unfold giveBack
  try dsimp only
  repeat' first
    | (with_reducible first | assumption | apply Keeps.ite)
    | split
    | refine Keeps.upd ?_ rfl rfl rfl rfl rfl rfl rfl rfl rfl

theorem dropBank_keeps {z s : State} (b : Nat) (hz : Keeps z s) : Keeps z (dropBank s b) := by
  unfold dropBank
  try dsimp only
  repeat' first
    | (with_reducible first
        | assumption | apply set_keeps | apply giveBack_keeps | apply markShort_keeps | apply Keeps.foldl)
    | (intro _; try dsimp only)
    | with_reducible apply Keeps.ite
    | split
    | refine Keeps.upd ?_ rfl rfl rfl rfl rfl rfl rfl rfl rfl

theorem withdrawBank_keeps {z s : State} (b : Nat) (cause : Nat) (hz : Keeps z s) : Keeps z (withdrawBank s b cause) := by
  unfold withdrawBank
  try dsimp only
  repeat' first
    | (with_reducible first
        | assumption | apply set_keeps | apply ebkCut_keeps | apply stick_keeps | apply dropBank_keeps
        | apply raiseFault_keeps | apply setBank_keeps | apply Keeps.ite)
    | split
    | refine Keeps.upd ?_ rfl rfl rfl rfl rfl rfl rfl rfl rfl

theorem initialRecharge_keeps {z s : State} (b : Nat) (hz : Keeps z s) : Keeps z (initialRecharge s b) := by
  unfold initialRecharge
  try dsimp only
  repeat' first
    | (with_reducible first | assumption | apply set_keeps | apply setBank_keeps | apply endFault_keeps | apply Keeps.ite)
    | split
    | refine Keeps.upd ?_ rfl rfl rfl rfl rfl rfl rfl rfl rfl

theorem returnBank_keeps {z s : State} (b : Nat) (hz : Keeps z s) : Keeps z (returnBank s b) := by
  unfold returnBank
  try dsimp only
  repeat' first
    | (with_reducible first
        | assumption | apply set_keeps | apply endFault_keeps | apply initialRecharge_keeps | apply setBank_keeps
        | apply Keeps.ite)
    | split
    | refine Keeps.upd ?_ rfl rfl rfl rfl rfl rfl rfl rfl rfl

theorem banksEnabledNow_keeps {z s : State} (hz : Keeps z s) : Keeps z (banksEnabledNow s) := by
  unfold banksEnabledNow
  try dsimp only
  repeat' first
    | (with_reducible first
        | assumption | apply set_keeps | apply returnBank_keeps | apply setBank_keeps | apply dropTests_keeps
        | apply ebkCut_keeps | apply dropBank_keeps | apply Keeps.foldl)
    | (intro _; try dsimp only)
    | with_reducible apply Keeps.ite
    | split
    | refine Keeps.upd ?_ rfl rfl rfl rfl rfl rfl rfl rfl rfl

theorem writeBankEn_keeps {z s : State} (v : Nat) (hz : Keeps z s) : Keeps z (writeBankEn s v) := by
  unfold writeBankEn
  try dsimp only
  repeat' first
    | (with_reducible first | assumption | apply writeFields_keeps | apply banksEnabledNow_keeps | apply Keeps.ite)
    | split
    | refine Keeps.upd ?_ rfl rfl rfl rfl rfl rfl rfl rfl rfl

theorem retryBank_keeps {z s : State} (b : Nat) (hz : Keeps z s) : Keeps z (retryBank s b) := by
  unfold retryBank
  try dsimp only
  repeat' first
    | (with_reducible first | assumption | apply set_keeps | apply setBank_keeps | apply Keeps.ite)
    | split
    | refine Keeps.upd ?_ rfl rfl rfl rfl rfl rfl rfl rfl rfl

theorem writeRetry_keeps {z s : State} (w : Nat) (hz : Keeps z s) : Keeps z (writeRetry s w) := by
  unfold writeRetry
  try dsimp only
  repeat' first
    | (with_reducible first | assumption | apply retryBank_keeps | apply Keeps.foldl)
    | (intro _; try dsimp only)
    | with_reducible apply Keeps.ite
    | split
    | refine Keeps.upd ?_ rfl rfl rfl rfl rfl rfl rfl rfl rfl

theorem writeBankReg_keeps {z s : State} (v : Nat) (hz : Keeps z s) : Keeps z (writeBankReg s v) := by
  unfold writeBankReg
  try dsimp only
  repeat' first
    | (with_reducible first | assumption | apply writeRetry_keeps | apply writeBankEn_keeps | apply Keeps.ite)
    | split
    | refine Keeps.upd ?_ rfl rfl rfl rfl rfl rfl rfl rfl rfl

theorem execEmiBankEnWrite_keeps {z s : State} (value : Dword) (hz : Keeps z s) : OutKeeps z (execEmiBankEnWrite value s) := by
  unfold execEmiBankEnWrite
  try dsimp only
  repeat' first
    | (with_reducible first
        | assumption | apply OutKeeps.next | apply writeBankReg_keeps | apply Keeps.ite | apply OutKeeps.ite)
    | split
    | refine Keeps.upd ?_ rfl rfl rfl rfl rfl rfl rfl rfl rfl

theorem execEmiBankRetry_keeps {z s : State} (banks : Fin 256) (hz : Keeps z s) : OutKeeps z (execEmiBankRetry banks s) := by
  unfold execEmiBankRetry
  try dsimp only
  repeat' first
    | (with_reducible first
        | assumption | apply OutKeeps.next | apply writeRetry_keeps | apply Keeps.ite | apply OutKeeps.ite)
    | split
    | refine Keeps.upd ?_ rfl rfl rfl rfl rfl rfl rfl rfl rfl

theorem execRechargeStart_keeps {z s : State} (bank : Fin 8) (hz : Keeps z s) : OutKeeps z (execRechargeStart bank s) := by
  unfold execRechargeStart
  try dsimp only
  repeat' first
    | (with_reducible first
        | assumption | apply OutKeeps.next | apply setBank_keeps | apply Keeps.ite | apply OutKeeps.ite)
    | split
    | refine Keeps.upd ?_ rfl rfl rfl rfl rfl rfl rfl rfl rfl

theorem execRechargeEnd_keeps {z s : State} (bank : Fin 8) (v : Nat) (dur : Nat) (energy : Nat) (hz : Keeps z s) : OutKeeps z (execRechargeEnd bank v dur energy s) := by
  unfold execRechargeEnd
  try dsimp only
  repeat' first
    | (with_reducible first
        | assumption | apply OutKeeps.next | apply set_keeps | apply ebkLow_keeps | apply setBank_keeps
        | apply endFault_keeps | apply withdrawBank_keeps | apply Keeps.ite | apply OutKeeps.ite)
    | split
    | refine Keeps.upd ?_ rfl rfl rfl rfl rfl rfl rfl rfl rfl

theorem execBankOvervoltage_keeps {z s : State} (bank : Fin 8) (code : Nat) (hz : Keeps z s) : OutKeeps z (execBankOvervoltage bank code s) := by
  unfold execBankOvervoltage
  try dsimp only
  repeat' first
    | (with_reducible first
        | assumption | apply OutKeeps.next | apply set_keeps | apply ebkLow_keeps | apply raiseFault_keeps
        | apply setBank_keeps | apply dropTests_keeps | apply withdrawBank_keeps | apply endFault_keeps
        | apply Keeps.ite | apply OutKeeps.ite)
    | split
    | refine Keeps.upd ?_ rfl rfl rfl rfl rfl rfl rfl rfl rfl

theorem reportCell_keeps {z s : State} (cell : Nat) (kind : Nat) (hz : Keeps z s) : Keeps z (reportCell s cell kind) := by
  unfold reportCell
  try dsimp only
  repeat' first
    | (with_reducible first | assumption | apply set_keeps | apply Keeps.ite)
    | split
    | refine Keeps.upd ?_ rfl rfl rfl rfl rfl rfl rfl rfl rfl

theorem startLocate_keeps {z s : State} (row : Nat) (due : Option Nat) (hz : Keeps z s) : Keeps z (startLocate s row due) := by
  unfold startLocate
  try dsimp only
  repeat' first
    | (with_reducible first | assumption | apply setBank_keeps | apply Keeps.ite)
    | split
    | refine Keeps.upd ?_ rfl rfl rfl rfl rfl rfl rfl rfl rfl

theorem setRowRun_keeps {z s : State} (row : Nat) (n : Nat) (hz : Keeps z s) : Keeps z (setRowRun s row n) := by
  unfold setRowRun
  try dsimp only
  repeat' first
    | (with_reducible first | assumption | apply Keeps.ite)
    | split
    | refine Keeps.upd ?_ rfl rfl rfl rfl rfl rfl rfl rfl rfl

theorem checkRow_keeps {z s : State} (row : Nat) (n : Nat) (l : List Nat) (hz : Keeps z s) : Keeps z (checkRow s row n l) := by
  unfold checkRow
  try dsimp only
  repeat' first
    | (with_reducible first
        | assumption | apply inc_keeps | apply setRowRun_keeps | apply startLocate_keeps | apply withdrawBank_keeps
        | apply Keeps.ite)
    | split
    | refine Keeps.upd ?_ rfl rfl rfl rfl rfl rfl rfl rfl rfl

theorem endRetry_keeps {z s : State} (b : Nat) (pass : Bool) (hz : Keeps z s) : Keeps z (endRetry s b pass) := by
  unfold endRetry
  try dsimp only
  repeat' first
    | (with_reducible first | assumption | apply set_keeps | apply setBank_keeps | apply Keeps.ite)
    | split
    | refine Keeps.upd ?_ rfl rfl rfl rfl rfl rfl rfl rfl rfl

theorem judgeCell_keeps {z s : State} (use : Use) (cell : Nat) (l : List Nat) (hz : Keeps z s) : Keeps z (judgeCell s use cell l) := by
  unfold judgeCell
  try dsimp only
  repeat' first
    | (with_reducible first
        | assumption | apply withdrawBank_keeps | apply reportCell_keeps | apply setBank_keeps | apply endRetry_keeps
        | apply Keeps.ite)
    | split
    | refine Keeps.upd ?_ rfl rfl rfl rfl rfl rfl rfl rfl rfl

theorem endSweep_keeps {z s : State} (hz : Keeps z s) : Keeps z (endSweep s) := by
  unfold endSweep
  try dsimp only
  repeat' first
    | (with_reducible first | assumption | apply inc_keeps | apply Keeps.ite)
    | split
    | refine Keeps.upd ?_ rfl rfl rfl rfl rfl rfl rfl rfl rfl

theorem execSweepPeriod_keeps {z s : State} (hz : Keeps z s) : OutKeeps z (execSweepPeriod s) := by
  unfold execSweepPeriod
  try dsimp only
  repeat' first
    | (with_reducible first
        | assumption | apply OutKeeps.next | apply set_keeps | apply raiseFault_keeps | apply Keeps.foldl)
    | (intro _; try dsimp only)
    | (with_reducible first | apply Keeps.ite | apply OutKeeps.ite)
    | split
    | refine Keeps.upd ?_ rfl rfl rfl rfl rfl rfl rfl rfl rfl

theorem emitterLow_keeps {z s : State} (hz : Keeps z s) : Keeps z (emitterLow s) := by
  unfold emitterLow
  try dsimp only
  repeat' first
    | (with_reducible first | assumption | apply ebkCut_keeps | apply Keeps.foldl)
    | (intro _; try dsimp only)
    | with_reducible apply Keeps.ite
    | split
    | refine Keeps.upd ?_ rfl rfl rfl rfl rfl rfl rfl rfl rfl

theorem strayInhibit_keeps {z s : State} (b : Nat) (hz : Keeps z s) : Keeps z (strayInhibit s b) := by
  unfold strayInhibit
  try dsimp only
  repeat' first
    | (with_reducible first
        | assumption | apply raiseFault_keeps | apply inhibitEmitter_keeps | apply emitterLow_keeps | apply Keeps.ite)
    | split
    | refine Keeps.upd ?_ rfl rfl rfl rfl rfl rfl rfl rfl rfl

theorem execStrayCurrent_keeps {z s : State} (bank : Fin 8) (current : Nat) (hz : Keeps z s) : OutKeeps z (execStrayCurrent bank current s) := by
  unfold execStrayCurrent
  try dsimp only
  repeat' first
    | (with_reducible first
        | assumption | apply OutKeeps.next | apply strayInhibit_keeps | apply Keeps.ite | apply OutKeeps.ite)
    | split
    | refine Keeps.upd ?_ rfl rfl rfl rfl rfl rfl rfl rfl rfl

theorem clearInhibit_keeps {z s : State} (hz : Keeps z s) : Keeps z (clearInhibit s) := by
  unfold clearInhibit
  try dsimp only
  repeat' first
    | (with_reducible first | assumption | apply set_keeps | apply endFault_keeps | apply Keeps.foldl)
    | (intro _; try dsimp only)
    | with_reducible apply Keeps.ite
    | split
    | refine Keeps.upd ?_ rfl rfl rfl rfl rfl rfl rfl rfl rfl

theorem execEmiInhibitClear_keeps {z s : State} (hz : Keeps z s) : OutKeeps z (execEmiInhibitClear s) := by
  unfold execEmiInhibitClear
  try dsimp only
  repeat' first
    | (with_reducible first
        | assumption | apply OutKeeps.next | apply clearInhibit_keeps | apply Keeps.ite | apply OutKeeps.ite)
    | split
    | refine Keeps.upd ?_ rfl rfl rfl rfl rfl rfl rfl rfl rfl

theorem emitterAtBoundary_keeps {z s : State} (hz : Keeps z s) : Keeps z (emitterAtBoundary s) := by
  unfold emitterAtBoundary
  try dsimp only
  repeat' first
    | (with_reducible first
        | assumption | apply banksEnabledNow_keeps | apply returnBank_keeps | apply strayInhibit_keeps
        | apply Keeps.foldl)
    | (intro _; try dsimp only)
    | with_reducible apply Keeps.ite
    | split
    | refine Keeps.upd ?_ rfl rfl rfl rfl rfl rfl rfl rfl rfl

theorem floodOff_keeps {z s : State} (n : Nat) (cause : Nat) (hz : Keeps z s) : Keeps z (floodOff s n cause) := by
  unfold floodOff
  try dsimp only
  repeat' first
    | (with_reducible first | assumption | apply set_keeps | apply raiseFault_keeps | apply Keeps.ite)
    | split
    | refine Keeps.upd ?_ rfl rfl rfl rfl rfl rfl rfl rfl rfl

theorem lbtInvalid_keeps {z s : State} (k : Nat) (hz : Keeps z s) : Keeps z (lbtInvalid s k) := by
  unfold lbtInvalid
  try dsimp only
  repeat' first
    | (with_reducible first
        | assumption | apply set_keeps | apply takeFree_keeps | apply raiseFault_keeps | apply floodOff_keeps
        | refine Keeps.snd (by assumption) ?_ | refine Keeps.fst (by assumption) ?_ | apply Keeps.ite)
    | split
    | refine Keeps.upd ?_ rfl rfl rfl rfl rfl rfl rfl rfl rfl

theorem lbtJudge_keeps {z s : State} (k : Nat) (hz : Keeps z s) : Keeps z (lbtJudge s k) := by
  unfold lbtJudge
  try dsimp only
  repeat' first
    | (with_reducible first
        | assumption | apply set_keeps | apply endFault_keeps | apply lbtInvalid_keeps | apply Keeps.ite)
    | split
    | refine Keeps.upd ?_ rfl rfl rfl rfl rfl rfl rfl rfl rfl

theorem lbtConfigWritten_keeps {z s : State} (k : Nat) (hz : Keeps z s) : Keeps z (lbtConfigWritten s k) := by
  unfold lbtConfigWritten
  try dsimp only
  repeat' first
    | (with_reducible first | assumption | apply lbtJudge_keeps | apply Keeps.ite)
    | split
    | refine Keeps.upd ?_ rfl rfl rfl rfl rfl rfl rfl rfl rfl

theorem lbtGood_keeps {z s : State} (k : Nat) (w : Nat) (hz : Keeps z s) : Keeps z (lbtGood s k w) := by
  unfold lbtGood
  try dsimp only
  repeat' first
    | (with_reducible first | assumption | apply set_keeps | apply lbtJudge_keeps | apply Keeps.ite)
    | split
    | refine Keeps.upd ?_ rfl rfl rfl rfl rfl rfl rfl rfl rfl

theorem lbtStore_keeps {z s : State} (k : Nat) (temp : Option Int) (hz : Keeps z s) : Keeps z (lbtStore s k temp) := by
  unfold lbtStore
  try dsimp only
  repeat' first
    | (with_reducible first | assumption | apply takeFree_keeps | apply lbtGood_keeps | apply Keeps.ite)
    | split
    | refine Keeps.upd ?_ rfl rfl rfl rfl rfl rfl rfl rfl rfl

theorem execLbtMean_keeps {z s : State} (input : Fin 2) (samples : List Nat) (hz : Keeps z s) : OutKeeps z (execLbtMean input samples s) := by
  unfold execLbtMean
  try dsimp only
  repeat' first
    | (with_reducible first
        | assumption | apply OutKeeps.next | apply set_keeps | apply lbtInvalid_keeps | apply lbtStore_keeps
        | apply Keeps.ite | apply OutKeeps.ite)
    | split
    | refine Keeps.upd ?_ rfl rfl rfl rfl rfl rfl rfl rfl rfl

theorem execHeatModelTick_keeps {z s : State} (hz : Keeps z s) : OutKeeps z (execHeatModelTick s) := by
  unfold execHeatModelTick
  try dsimp only
  repeat' first
    | (with_reducible first
        | assumption | apply OutKeeps.next | apply set_keeps | apply setInt_keeps | apply setBank_keeps
        | apply Keeps.foldl)
    | (intro _; try dsimp only)
    | (with_reducible first | apply Keeps.ite | apply OutKeeps.ite)
    | split
    | refine Keeps.upd ?_ rfl rfl rfl rfl rfl rfl rfl rfl rfl

theorem setString_keeps {z s : State} (n : Nat) (x : FlString) (hz : Keeps z s) : Keeps z (setString s n x) := by
  unfold setString
  try dsimp only
  repeat' first
    | (with_reducible first | assumption | apply Keeps.ite)
    | split
    | refine Keeps.upd ?_ rfl rfl rfl rfl rfl rfl rfl rfl rfl

theorem writeFlCtrl_keeps {z s : State} (v : Nat) (hz : Keeps z s) : Keeps z (writeFlCtrl s v) := by
  have k : Keeps z (((s.put F.EMI_FL_CTRL_DIAG_EN (bit v 4)).set F.EMI_FL_CTRL_FREQ (bits v 2 2)).put F.EMI_FL_CTRL_EN
      (bit v 0)) := put_keeps _ _ (set_keeps _ _ (put_keeps _ _ hz))
  unfold writeFlCtrl
  generalize ((s.put F.EMI_FL_CTRL_DIAG_EN (bit v 4)).set F.EMI_FL_CTRL_FREQ (bits v 2 2)).put F.EMI_FL_CTRL_EN
      (bit v 0) = t at k
  dsimp only
  refine Keeps.ite (Keeps.ite ?_ k) (Keeps.foldl _ _ k fun _ _ h => setString_keeps _ _ h)
  exact (k.upd rfl rfl rfl rfl rfl rfl rfl rfl rfl).faults (s := { t with emi := { t.emi with flOff := false, flWait := true } }) (by simp)

theorem execEmiFlCtrlWrite_keeps {z s : State} (value : Dword) (hz : Keeps z s) : OutKeeps z (execEmiFlCtrlWrite value s) := by
  unfold execEmiFlCtrlWrite
  try dsimp only
  repeat' first
    | (with_reducible first
        | assumption | apply OutKeeps.next | apply writeFlCtrl_keeps | apply Keeps.ite | apply OutKeeps.ite)
    | split
    | refine Keeps.upd ?_ rfl rfl rfl rfl rfl rfl rfl rfl rfl

theorem writeFlDuty_keeps {z s : State} (n : Nat) (v : Nat) (hz : Keeps z s) : Keeps z (writeFlDuty s n v) := by
  unfold writeFlDuty
  try dsimp only
  repeat' first
    | (with_reducible first | assumption | apply set_keeps | apply Keeps.ite)
    | split
    | refine Keeps.upd ?_ rfl rfl rfl rfl rfl rfl rfl rfl rfl

theorem execEmiFlDutyWrite_keeps {z s : State} (string : Fin 4) (value : Dword) (hz : Keeps z s) : OutKeeps z (execEmiFlDutyWrite string value s) := by
  unfold execEmiFlDutyWrite
  try dsimp only
  repeat' first
    | (with_reducible first
        | assumption | apply OutKeeps.next | apply writeFlDuty_keeps | apply Keeps.ite | apply OutKeeps.ite)
    | split
    | refine Keeps.upd ?_ rfl rfl rfl rfl rfl rfl rfl rfl rfl

theorem execFloodOnTime_keeps {z s : State} (string : Fin 4) (start : Bool) (hz : Keeps z s) : OutKeeps z (execFloodOnTime string start s) := by
  unfold execFloodOnTime
  try dsimp only
  repeat' first
    | (with_reducible first
        | assumption | apply OutKeeps.next | apply setString_keeps | refine Keeps.snd (by assumption) ?_
        | refine Keeps.fst (by assumption) ?_ | apply Keeps.ite | apply OutKeeps.ite)
    | split
    | refine Keeps.upd ?_ rfl rfl rfl rfl rfl rfl rfl rfl rfl

theorem execFloodOpenCheck_keeps {z s : State} (string : Fin 4) (sample : Nat) (hz : Keeps z s) : OutKeeps z (execFloodOpenCheck string sample s) := by
  unfold execFloodOpenCheck
  try dsimp only
  repeat' first
    | (with_reducible first
        | assumption | apply OutKeeps.next | apply set_keeps | apply floodOff_keeps | apply endFault_keeps
        | apply setString_keeps | apply Keeps.ite | apply OutKeeps.ite)
    | split
    | refine Keeps.upd ?_ rfl rfl rfl rfl rfl rfl rfl rfl rfl

theorem execFloodDiagTimeout_keeps {z s : State} (string : Fin 4) (hz : Keeps z s) : OutKeeps z (execFloodDiagTimeout string s) := by
  unfold execFloodDiagTimeout
  try dsimp only
  repeat' first
    | (with_reducible first
        | assumption | apply OutKeeps.next | apply set_keeps | apply setString_keeps | apply raiseFault_keeps
        | apply Keeps.ite | apply OutKeeps.ite)
    | split
    | refine Keeps.upd ?_ rfl rfl rfl rfl rfl rfl rfl rfl rfl

theorem execFloodSwitchOff_keeps {z s : State} (string : Fin 4) (sample : Nat) (hz : Keeps z s) : OutKeeps z (execFloodSwitchOff string sample s) := by
  unfold execFloodSwitchOff
  try dsimp only
  repeat' first
    | (with_reducible first
        | assumption | apply OutKeeps.next | apply floodOff_keeps | apply Keeps.ite | apply OutKeeps.ite)
    | split
    | refine Keeps.upd ?_ rfl rfl rfl rfl rfl rfl rfl rfl rfl

end Sys2Proof.Machine
end

