-- ==== Sys2Proof/Laws/KeepsYard.lean ====
section
/-! SUPPORT. What every operation of the yard, the recorder's rings, the histogram engine and the scheduler keeps (Safety.lean): one lemma each. -/

namespace Sys2Proof.Machine

theorem updStall_keeps {z s : State} (n : Nat) (f : Stall → Stall) (hz : Keeps z s) : Keeps z (updStall s n f) := by
  unfold updStall
  try dsimp only
  repeat' first
    | (with_reducible first | assumption | apply Keeps.ite)
    | split
    | refine Keeps.upd ?_ rfl rfl rfl rfl rfl rfl rfl rfl rfl

theorem leftPlace_keeps {z s : State} (n : Nat) (hz : Keeps z s) : Keeps z (leftPlace s n) := by
  unfold leftPlace
  try dsimp only
  repeat' first
    | (with_reducible first | assumption | apply Keeps.ite)
    | split
    | refine Keeps.upd ?_ rfl rfl rfl rfl rfl rfl rfl rfl rfl

theorem dropStall_keeps {z s : State} (n : Nat) (hz : Keeps z s) : Keeps z (dropStall s n) := by
  unfold dropStall
  try dsimp only
  repeat' first
    | (with_reducible first | assumption | apply leftPlace_keeps | apply Keeps.ite)
    | split
    | refine Keeps.upd ?_ rfl rfl rfl rfl rfl rfl rfl rfl rfl

theorem newStall_keeps {z s u : State} {t : Tier} {owner size n : Nat} {waits : Option Nat}
    (e : newStall s t owner size waits = some (n, u)) (hz : Keeps z s) : Keeps z u := by
  unfold newStall at e
  dsimp only at e
  split at e
  · cases e; exact hz.upd rfl rfl rfl rfl rfl rfl rfl rfl rfl
  · cases e

theorem countMove_keeps {z s : State} (a : Tier) (b : Tier) (hz : Keeps z s) : Keeps z (countMove s a b) := by
  unfold countMove
  try dsimp only
  repeat' first
    | (with_reducible first | assumption | apply inc_keeps | apply Keeps.ite)
    | split
    | refine Keeps.upd ?_ rfl rfl rfl rfl rfl rfl rfl rfl rfl

theorem lookMap_keeps {z s : State} (n : Nat) (hz : Keeps z s) : Keeps z (lookMap s n) := by
  unfold lookMap
  try dsimp only
  repeat' first
    | (with_reducible first
        | assumption | apply inc_keeps | apply takeFree_keeps | refine Keeps.snd (by assumption) ?_
        | refine Keeps.fst (by assumption) ?_ | apply Keeps.ite)
    | split
    | refine Keeps.upd ?_ rfl rfl rfl rfl rfl rfl rfl rfl rfl

theorem arrive_keeps {z s : State} (x : Stall) (p : Place) (hz : Keeps z s) : Keeps z (arrive s x p) := by
  unfold arrive
  try dsimp only
  repeat' first
    | (with_reducible first
        | assumption | apply lookMap_keeps | apply countMove_keeps | apply dropStall_keeps | apply leftPlace_keeps
        | apply updStall_keeps | apply Keeps.ite)
    | split
    | refine Keeps.upd ?_ rfl rfl rfl rfl rfl rfl rfl rfl rfl

theorem startMove_keeps {z s : State} (n : Nat) (p : Place) (hz : Keeps z s) : Keeps z (startMove s n p) := by
  unfold startMove
  try dsimp only
  repeat' first
    | (with_reducible first | assumption | apply updStall_keeps | apply lookMap_keeps | apply Keeps.ite)
    | split
    | refine Keeps.upd ?_ rfl rfl rfl rfl rfl rfl rfl rfl rfl

theorem cancelMove_keeps {z s : State} (fuel n : Nat) (hz : Keeps z s) : Keeps z (cancelMove fuel s n) := by
  induction fuel generalizing s n with
  | zero => exact hz
  | succ fuel ih =>
    unfold cancelMove
    split
    · exact hz
    · refine Keeps.ite (dropStall_keeps _ hz) (Keeps.foldl _ _ (updStall_keeps _ _ hz) fun _ _ h => ?_)
      exact Keeps.ite h (Keeps.ite (ih _ h) (Keeps.ite h (updStall_keeps _ _ h)))

theorem evictLoft_keeps {z s : State} (hz : Keeps z s) : Keeps z (evictLoft s).2 := by
  unfold evictLoft
  split
  · exact hz
  · split
    · exact inc_keeps _ (startMove_keeps _ _ hz)
    · split
      · exact inc_keeps _ (updStall_keeps _ _ (startMove_keeps _ _ (startMove_keeps _ _ hz)))
      · exact hz

theorem syncEvict_keeps {z s : State} (hz : Keeps z s) : Keeps z (syncEvict s).2 := by
  unfold syncEvict
  split
  · exact evictLoft_keeps hz
  · exact hz

theorem takeSlot_keeps {z s u : State} {x : Stall} {a b : Nat} (e : takeSlot s x = some (a, b, u)) (hz : Keeps z s) :
    Keeps z u := by
  simp only [takeSlot, Option.map_eq_some_iff] at e
  obtain ⟨k, _, e⟩ := e
  cases e
  exact updStall_keeps _ _ (lookMap_keeps _ hz)

theorem takeNew_keeps {z s u : State} {t : Tier} {size a b : Nat} {w : Option Nat} (e : takeNew s t size w = some (a, b, u))
    (hz : Keeps z s) : Keeps z u := by
  unfold takeNew at e
  split at e
  · split at e
    · exact takeSlot_keeps e (newStall_keeps ‹_› hz)
    · cases e
  · cases e

theorem placeCell_keeps {z s u : State} {size a b : Nat} (e : placeCell s size = some (a, b, u)) (hz : Keeps z s) :
    Keeps z u := by
  unfold placeCell at e
  split at e
  · exact takeSlot_keeps e hz
  · have k := syncEvict_keeps hz
    generalize syncEvict s = p at e k
    obtain ⟨w, t⟩ := p
    dsimp only at e k
    split at e
    · cases e; exact takeNew_keeps ‹_› k
    · split at e
      · exact takeSlot_keeps e k
      · exact takeNew_keeps e k

theorem touchStall_keeps {z s : State} (n : Nat) (hz : Keeps z s) : Keeps z (touchStall s n) := by
  unfold touchStall
  try dsimp only
  repeat' first
    | (with_reducible first | assumption | apply updStall_keeps | apply lookMap_keeps | apply Keeps.ite)
    | split
    | refine Keeps.upd ?_ rfl rfl rfl rfl rfl rfl rfl rfl rfl

theorem askFetch_keeps {z s : State} (n : Nat) (hz : Keeps z s) : Keeps z (askFetch s n) := by
  unfold askFetch
  try dsimp only
  repeat' first
    | (with_reducible first | assumption | apply Keeps.ite)
    | split
    | refine Keeps.upd ?_ rfl rfl rfl rfl rfl rfl rfl rfl rfl

theorem makeRoom_keeps {z s : State} (fuel : Nat) (hz : Keeps z s) : Keeps z (makeRoom fuel s) := by
  induction fuel generalizing s with
  | zero => exact hz
  | succ fuel ih =>
    unfold makeRoom
    refine Keeps.ite hz ?_
    split
    · exact ih (startMove_keeps _ _ hz)
    · exact hz

theorem startFetches_keeps {z s : State} (fuel : Nat) (hz : Keeps z s) : Keeps z (startFetches fuel s) := by
  induction fuel generalizing s with
  | zero => exact hz
  | succ fuel ih =>
    unfold startFetches
    split
    · exact hz
    · rename_i n r _
      have k : Keeps z { s with yrd := { s.yrd with fetches := r } } := hz.upd rfl rfl rfl rfl rfl rfl rfl rfl rfl
      dsimp only
      split
      · exact ih k
      · refine Keeps.ite (ih k) (Keeps.ite hz ?_)
        split
        · exact ih (startMove_keeps _ _ k)
        · exact hz

theorem serveFetches_keeps {z s : State} (hz : Keeps z s) : Keeps z (serveFetches s) :=
  makeRoom_keeps _ (startFetches_keeps _ hz)

theorem freeSlot_keeps {z s : State} (n : Nat) (k : Nat) (hz : Keeps z s) : Keeps z (freeSlot s n k) := by
  unfold freeSlot
  try dsimp only
  repeat' first
    | (with_reducible first
        | assumption | apply updStall_keeps | apply serveFetches_keeps | apply dropStall_keeps | apply Keeps.ite)
    | split
    | refine Keeps.upd ?_ rfl rfl rfl rfl rfl rfl rfl rfl rfl

theorem divert_keeps {z s : State} (bad : Place → Bool) (hz : Keeps z s) : Keeps z (divert s bad) := by
  unfold divert
  refine Keeps.foldl _ _ hz fun t x h => ?_
  dsimp only
  split
  · refine Keeps.ite h ?_
    split
    · exact updStall_keeps _ _ h
    · exact cancelMove_keeps _ _ h
  · exact h

theorem fetchFar_keeps {z s : State} (serves : Nat → Bool) (hz : Keeps z s) : Keeps z (fetchFar s serves) := by
  unfold fetchFar
  try dsimp only
  repeat' first
    | (with_reducible first | assumption | apply serveFetches_keeps | apply askFetch_keeps | apply Keeps.foldl)
    | (intro _; try dsimp only)
    | with_reducible apply Keeps.ite
    | split
    | refine Keeps.upd ?_ rfl rfl rfl rfl rfl rfl rfl rfl rfl

theorem drainWindow_keeps {z s : State} (w : Nat) (recording : Nat → Bool) (hz : Keeps z s) : Keeps z (drainWindow s w recording) := by
  unfold drainWindow
  try dsimp only
  repeat' first
    | (with_reducible first
        | assumption | apply divert_keeps | apply dropStall_keeps | apply startMove_keeps | apply Keeps.foldl)
    | (intro _; try dsimp only)
    | with_reducible apply Keeps.ite
    | split
    | refine Keeps.upd ?_ rfl rfl rfl rfl rfl rfl rfl rfl rfl

theorem moveEnds_keeps {z s : State} (x : Stall) (p : Place) (hz : Keeps z s) : Keeps z (moveEnds s x p) := by
  unfold moveEnds
  try dsimp only
  repeat' first
    | (with_reducible first | assumption | apply arrive_keeps | apply serveFetches_keeps | apply Keeps.ite)
    | split
    | refine Keeps.upd ?_ rfl rfl rfl rfl rfl rfl rfl rfl rfl

theorem someMove_keeps {z s t : State} {n : Nat} {p : Place} {b : Bool} (hz : Keeps z s)
    (e : (if b = true then some (startMove s n p) else none) = some t) : Keeps z t := by
  cases b
  · cases e
  · cases e; exact startMove_keeps n p hz

theorem background_keeps {z s : State} (hz : Keeps z s) : Keeps z (background s) := by
  unfold background
  extract_lets a b c
  have ka : ∀ t, a = some t → Keeps z t := by
    intro t e
    unfold a at e
    repeat' split at e
    all_goals first | (cases e; done) | (cases e; exact startMove_keeps _ _ hz)
  have kb : ∀ t, b = some t → Keeps z t := by
    intro t e
    unfold b at e
    repeat' split at e
    all_goals first | (cases e; done) | (cases e; exact startMove_keeps _ _ hz)
  have kc : ∀ t, c = some t → Keeps z t := by
    intro t e
    unfold c at e
    repeat' split at e
    all_goals first | (cases e; done) | (cases e; exact startMove_keeps _ _ hz)
  clear_value a b c
  cases a with
  | some t => exact ka t rfl
  | none => cases b with
    | some t => exact kb t rfl
    | none => cases c with
      | some t => exact kc t rfl
      | none => exact hz

theorem execBackgroundWork_keeps {z s : State} (hz : Keeps z s) : OutKeeps z (execBackgroundWork s) :=
  .next (Keeps.ite (background_keeps (serveFetches_keeps hz)) (serveFetches_keeps hz))

theorem loseCells_keeps {z s : State} (n : Nat) (hz : Keeps z s) : Keeps z (loseCells s n).1 :=
  hz.upd rfl rfl rfl rfl rfl rfl rfl rfl rfl

theorem retireStall_keeps {z s : State} (x : Stall) (hz : Keeps z s) : Keeps z (retireStall s x).1 := by
  have k : Keeps z ((dropStall (loseCells s x.num).1 x.num).inc F.YRD_ECC_UNCORR) :=
    inc_keeps _ (dropStall_keeps _ (loseCells_keeps _ hz))
  unfold retireStall
  dsimp only
  apply raiseFault_keeps
  apply divert_keeps
  refine Keeps.upd ?_ rfl rfl rfl rfl rfl rfl rfl rfl rfl
  split
  · exact inc_keeps _ k
  · exact inc_keeps _ k
  · exact k

theorem clearWindow_keeps {z s : State} (w : Nat) (hz : Keeps z s) : Keeps z (clearWindow s w) := by
  unfold clearWindow
  try dsimp only
  repeat' first
    | (with_reducible first | assumption | apply set_keeps | apply Keeps.foldl)
    | (intro _; try dsimp only)
    | with_reducible apply Keeps.ite
    | split
    | refine Keeps.upd ?_ rfl rfl rfl rfl rfl rfl rfl rfl rfl

theorem loseAll_keeps {z s : State} (l : List Stall) (m : List (Nat × Nat)) (hz : Keeps z s) :
    Keeps z (l.foldl (fun (a : State × List (Nat × Nat)) (x : Stall) =>
      (dropStall (loseCells a.1 x.num).1 x.num, a.2 ++ (loseCells a.1 x.num).2)) (s, m)).1 := by
  induction l generalizing s m with
  | nil => exact hz
  | cons x l ih => exact ih _ (dropStall_keeps _ (loseCells_keeps _ hz))

theorem withdrawFar_keeps {z s : State} (hz : Keeps z s) : Keeps z (withdrawFar s).1 := by
  have k1 : Keeps z ((List.range 64).foldl (fun t w => if t.flag (F.YRD_GRANT_STAT_VALID w) then
      endFault (clearWindow t w) 0x0802 w else t) s) :=
    Keeps.foldl _ _ hz fun _ _ h => Keeps.ite (endFault_keeps _ _ (clearWindow_keeps _ h)) h
  have k2 := fun l m => loseAll_keeps l m k1
  unfold withdrawFar
  dsimp only at k2 ⊢
  have k2 := k2 (s.yrd.stalls.filter fun (x : Stall) => x.at_.tier == .far) []
  generalize List.foldl _ (_, ([] : List (Nat × Nat))) _ = p at k2 ⊢
  obtain ⟨u, l⟩ := p
  dsimp only at k2 ⊢
  have k3 := divert_keeps (fun p => p.tier == .far) k2
  generalize (List.range 64).any _ = any
  have k4 := add_keeps F.YRD_FAR_LOST l.length
    (Keeps.ite (c := any = true) (set_keeps F.YRD_STATUS_FAR_GONE 1 k3) k3)
  split
  · exact finishRunning_keeps _ _ _ (k4.yrd _)
  · exact k4

theorem ownedStall_keeps {z s u : State} {t : Tier} {owner k : Nat} (e : ownedStall s t owner = some (k, u)) (hz : Keeps z s) :
    Keeps z u := by
  unfold ownedStall at e
  dsimp only at e
  split at e
  · exact newStall_keeps e (syncEvict_keeps hz)
  · exact newStall_keeps e hz

theorem placeOwned_keeps {z s u : State} {owner n : Nat} {a : Tier} {l : List Nat}
    (e : placeOwned owner a n s = some (l, u)) (hz : Keeps z s) : Keeps z u := by
  induction n generalizing s l with
  | zero => cases e; exact hz
  | succ n ih =>
    have k := serveFetches_keeps hz
    simp only [placeOwned] at e
    split at e
    · rename_i j t h
      have ht : Keeps z t := ownedStall_keeps h k
      split at e
      · cases e
      · simp only [Option.map_eq_some_iff] at e
        obtain ⟨⟨l', u'⟩, e1, e2⟩ := e
        cases e2
        exact ih e1 ht
    · cases e

theorem dropStalls_keeps {z s : State} (l : List Nat) (hz : Keeps z s) : Keeps z (dropStalls s l) := by
  unfold dropStalls
  try dsimp only
  repeat' first
    | (with_reducible first | assumption | apply serveFetches_keeps | apply dropStall_keeps | apply Keeps.foldl)
    | (intro _; try dsimp only)
    | with_reducible apply Keeps.ite
    | split
    | refine Keeps.upd ?_ rfl rfl rfl rfl rfl rfl rfl rfl rfl

theorem writeMapCfg_keeps {z s : State} (v : Nat) (hz : Keeps z s) : Keeps z (writeMapCfg s v) := by
  unfold writeMapCfg
  try dsimp only
  repeat' first
    | (with_reducible first | assumption | apply set_keeps | apply Keeps.ite)
    | split
    | refine Keeps.upd ?_ rfl rfl rfl rfl rfl rfl rfl rfl rfl

theorem execYrdMapCfgWrite_keeps {z s : State} (value : Dword) (hz : Keeps z s) : OutKeeps z (execYrdMapCfgWrite value s) := by
  unfold execYrdMapCfgWrite
  try dsimp only
  repeat' first
    | (with_reducible first
        | assumption | apply OutKeeps.next | apply writeMapCfg_keeps | apply Keeps.ite | apply OutKeeps.ite)
    | split
    | refine Keeps.upd ?_ rfl rfl rfl rfl rfl rfl rfl rfl rfl

theorem ringPut_keeps {z s : State} (k : Nat) (x : RecItem) (hz : Keeps z s) : Keeps z (ringPut s k x) := by
  unfold ringPut
  try dsimp only
  repeat' first
    | (with_reducible first
        | assumption | apply set_keeps | refine Keeps.snd (by assumption) ?_ | refine Keeps.fst (by assumption) ?_
        | apply Keeps.ite)
    | split
    | refine Keeps.upd ?_ rfl rfl rfl rfl rfl rfl rfl rfl rfl

theorem takeFar_keeps {z s : State} (n : Nat) (hz : Keeps z s) : Keeps z (takeFar n s).2 := by
  induction n generalizing s with
  | zero => exact hz
  | succ n ih =>
    simp only [takeFar]
    split
    · exact ih (newStall_keeps ‹_› hz)
    · exact hz

theorem keepItems_keeps {z s : State} (r : Recording) (k : Nat) (need : Nat) (sec : RecSection) (got : List Nat) (hz : Keeps z s) : Keeps z (keepItems s r k need sec got) := by
  unfold keepItems
  try dsimp only
  repeat' first
    | (with_reducible first | assumption | apply set_keeps | apply Keeps.ite)
    | split
    | refine Keeps.upd ?_ rfl rfl rfl rfl rfl rfl rfl rfl rfl

theorem capture_keeps {z s : State} (k : Nat) (l : List RecItem) (hz : Keeps z s) : Keeps z (capture s k l) := by
  unfold capture
  split
  · split
    · exact Keeps.ite hz (keepItems_keeps _ _ _ _ _ (takeFar_keeps _ hz))
    · exact hz
  · exact hz

theorem recordItem_keeps {z s : State} (k : Nat) (ring : Nat) (header : Bool) (data : List Byte) (hz : Keeps z s) : Keeps z (recordItem s k ring header data) := by
  unfold recordItem
  try dsimp only
  repeat' first
    | (with_reducible first | assumption | apply capture_keeps | apply ringPut_keeps | apply Keeps.ite)
    | split
    | refine Keeps.upd ?_ rfl rfl rfl rfl rfl rfl rfl rfl rfl

theorem recordPoint_keeps {z s : State} (n : Nat) (header : Bool) (data : List Byte) (hz : Keeps z s) : Keeps z (recordPoint s n header data) := by
  unfold recordPoint
  try dsimp only
  repeat' first
    | (with_reducible first | assumption | apply recordItem_keeps | apply Keeps.ite)
    | split
    | refine Keeps.upd ?_ rfl rfl rfl rfl rfl rfl rfl rfl rfl

theorem recordThermal_keeps {z s : State} (data : List Byte) (hz : Keeps z s) : Keeps z (recordThermal s data) := by
  unfold recordThermal
  try dsimp only
  repeat' first
    | (with_reducible first | assumption | apply recordItem_keeps | apply Keeps.ite)
    | split
    | refine Keeps.upd ?_ rfl rfl rfl rfl rfl rfl rfl rfl rfl

theorem recordRaw_keeps {z s : State} (id : Nat) (frame : Nat) (slot : Nat) (word : Nat) (hz : Keeps z s) : Keeps z (recordRaw s id frame slot word) := by
  unfold recordRaw
  try dsimp only
  repeat' first
    | (with_reducible first | assumption | apply recordItem_keeps | apply Keeps.ite)
    | split
    | refine Keeps.upd ?_ rfl rfl rfl rfl rfl rfl rfl rfl rfl

theorem recordFrame_keeps {z s : State} (hz : Keeps z s) : Keeps z (recordFrame s) := by
  unfold recordFrame
  try dsimp only
  repeat' first
    | (with_reducible first | assumption | apply Keeps.ite)
    | split
    | refine Keeps.upd ?_ rfl rfl rfl rfl rfl rfl rfl rfl rfl

theorem writeCode_keeps {z s : State} (i : Nat) (v : Nat) (hz : Keeps z s) : Keeps z (writeCode s i v) := by
  unfold writeCode
  try dsimp only
  repeat' first
    | (with_reducible first | assumption | apply lockLog_keeps | apply Keeps.ite)
    | split
    | refine Keeps.upd ?_ rfl rfl rfl rfl rfl rfl rfl rfl rfl

theorem execHgeCodeWrite_keeps {z s : State} (index : Fin 17) (value : Dword) (hz : Keeps z s) : OutKeeps z (execHgeCodeWrite index value s) := by
  unfold execHgeCodeWrite
  try dsimp only
  repeat' first
    | (with_reducible first
        | assumption | apply OutKeeps.next | apply writeCode_keeps | apply Keeps.ite | apply OutKeeps.ite)
    | split
    | refine Keeps.upd ?_ rfl rfl rfl rfl rfl rfl rfl rfl rfl

theorem withCode_keeps {z s : State} (l : List Held) (hz : Keeps z s) : Keeps z (withCode s l) := by
  unfold withCode
  try dsimp only
  repeat' first
    | (with_reducible first | assumption | apply set_keeps | apply Keeps.foldl)
    | (intro _; try dsimp only)
    | with_reducible apply Keeps.ite
    | split
    | refine Keeps.upd ?_ rfl rfl rfl rfl rfl rfl rfl rfl rfl

theorem codeAtBoundary_keeps {z s : State} (hz : Keeps z s) : Keeps z (codeAtBoundary s) := by
  unfold codeAtBoundary
  try dsimp only
  repeat' first
    | (with_reducible first
        | assumption | apply set_keeps | apply withCode_keeps | apply raiseFault_keeps | apply Keeps.ite)
    | split
    | refine Keeps.upd ?_ rfl rfl rfl rfl rfl rfl rfl rfl rfl

theorem dropDither_keeps {z s : State} (hz : Keeps z s) : Keeps z (dropDither s) := by
  unfold dropDither
  try dsimp only
  repeat' first
    | (with_reducible first | assumption | apply Keeps.ite)
    | split
    | refine Keeps.upd ?_ rfl rfl rfl rfl rfl rfl rfl rfl rfl

theorem nextFrame_keeps {z s : State} (hz : Keeps z s) : Keeps z (nextFrame s) := by
  unfold nextFrame
  try dsimp only
  repeat' first
    | (with_reducible first
        | assumption | apply nextFrameRegs_keeps | apply dropDither_keeps | apply withCode_keeps | apply Keeps.ite)
    | split
    | refine Keeps.upd ?_ rfl rfl rfl rfl rfl rfl rfl rfl rfl

theorem writeDither_keeps {z s : State} (v : Nat) (hz : Keeps z s) : Keeps z (writeDither s v) := by
  unfold writeDither
  try dsimp only
  repeat' first
    | (with_reducible first
        | assumption | apply set_keeps | apply writeFields_keeps | apply raiseFault_keeps | apply Keeps.ite)
    | split
    | refine Keeps.upd ?_ rfl rfl rfl rfl rfl rfl rfl rfl rfl

theorem execHgeDitherWrite_keeps {z s : State} (value : Dword) (hz : Keeps z s) : OutKeeps z (execHgeDitherWrite value s) := by
  unfold execHgeDitherWrite
  try dsimp only
  repeat' first
    | (with_reducible first
        | assumption | apply OutKeeps.next | apply writeDither_keeps | apply Keeps.ite | apply OutKeeps.ite)
    | split
    | refine Keeps.upd ?_ rfl rfl rfl rfl rfl rfl rfl rfl rfl

theorem ditherAtBoundary_keeps {z s : State} (hz : Keeps z s) : Keeps z (ditherAtBoundary s) := by
  unfold ditherAtBoundary
  try dsimp only
  repeat' first
    | (with_reducible first
        | assumption | apply set_keeps | apply raiseFault_keeps | apply dropDither_keeps | apply Keeps.ite)
    | split
    | refine Keeps.upd ?_ rfl rfl rfl rfl rfl rfl rfl rfl rfl

theorem updCell_keeps {z s : State} (dir : Nat) (frame : Nat) (f : Cell → Cell) (hz : Keeps z s) : Keeps z (updCell s dir frame f) := by
  unfold updCell
  try dsimp only
  repeat' first
    | (with_reducible first | assumption | apply Keeps.ite)
    | split
    | refine Keeps.upd ?_ rfl rfl rfl rfl rfl rfl rfl rfl rfl

theorem setRing_keeps {z s : State} (n : Nat) (r : PointRing) (hz : Keeps z s) : Keeps z (setRing s n r) := by
  unfold setRing
  try dsimp only
  repeat' first
    | (with_reducible first | assumption | apply Keeps.ite)
    | split
    | refine Keeps.upd ?_ rfl rfl rfl rfl rfl rfl rfl rfl rfl

theorem writeUnit_keeps {z s : State} (n : Nat) (data : List Byte) (hz : Keeps z s) : Keeps z (writeUnit s n data) := by
  unfold writeUnit
  try dsimp only
  repeat' first
    | (with_reducible first | assumption | apply set_keeps | apply sendMem_keeps | apply Keeps.ite)
    | split
    | refine Keeps.upd ?_ rfl rfl rfl rfl rfl rfl rfl rfl rfl

theorem writeHeader_keeps {z s : State} (n : Nat) (body : List Byte) (hz : Keeps z s) : Keeps z (writeHeader s n body) := by
  unfold writeHeader
  try dsimp only
  repeat' first
    | (with_reducible first | assumption | apply writeUnit_keeps | apply Keeps.ite)
    | split
    | refine Keeps.upd ?_ rfl rfl rfl rfl rfl rfl rfl rfl rfl

theorem backlogNow_keeps {z s : State} (hz : Keeps z s) : Keeps z (backlogNow s) := by
  unfold backlogNow
  try dsimp only
  repeat' first
    | (with_reducible first | assumption | apply put_keeps | apply Keeps.ite)
    | split
    | refine Keeps.upd ?_ rfl rfl rfl rfl rfl rfl rfl rfl rfl

theorem queueRecords_keeps {z s : State} (n : Nat) (frame : Nat) (data : List (List Byte)) (slot : Option (Nat × Nat)) (hz : Keeps z s) : Keeps z (queueRecords s n frame data slot) := by
  unfold queueRecords
  try dsimp only
  repeat' first
    | (with_reducible first
        | assumption | apply set_keeps | apply freeSlot_keeps | apply setRing_keeps | apply backlogNow_keeps
        | apply Keeps.ite)
    | split
    | refine Keeps.upd ?_ rfl rfl rfl rfl rfl rfl rfl rfl rfl

theorem passItem_keeps {z s : State} (n : Nat) (hz : Keeps z s) : Keeps z (passItem s n) := by
  unfold passItem
  try dsimp only
  repeat' first
    | (with_reducible first | assumption | apply Keeps.ite)
    | split
    | refine Keeps.upd ?_ rfl rfl rfl rfl rfl rfl rfl rfl rfl

theorem wantBack_keeps {z s : State} (l : List Item) (hz : Keeps z s) : Keeps z (wantBack s l) := by
  unfold wantBack
  split
  · exact serveFetches_keeps (askFetch_keeps _ hz)
  · exact hz

theorem drainRing_keeps {z s : State} (n fuel : Nat) (hz : Keeps z s) : Keeps z (drainRing n fuel s) := by
  induction fuel generalizing s with
  | zero => exact hz
  | succ fuel ih =>
    unfold drainRing
    dsimp only
    split
    · exact hz
    · have kp : Keeps z (passItem s n) := passItem_keeps n hz
      refine Keeps.ite hz (Keeps.ite (wantBack_keeps _ hz) ?_)
      generalize passItem s n = t at kp ⊢
      split
      · apply ih
        apply setRing_keeps
        apply set_keeps
        apply writeHeader_keeps
        apply recordPoint_keeps
        split
        · exact set_keeps _ _ (writeHeader_keeps _ _ kp)
        · exact kp
      · apply ih
        split <;> (try apply freeSlot_keeps) <;> apply setRing_keeps <;>
          (refine Keeps.foldl _ _ ?_ fun _ _ h => writeUnit_keeps _ _ (recordPoint_keeps _ _ _ h)) <;> split <;>
          first | exact kp | exact set_keeps _ _ (writeHeader_keeps _ _ kp)

theorem dmaRing_keeps {z s : State} (n : Nat) (hz : Keeps z s) : Keeps z (dmaRing s n) := by
  unfold dmaRing
  try dsimp only
  repeat' first
    | (with_reducible first
        | assumption | apply set_keeps | apply put_keeps | apply backlogNow_keeps | apply setRing_keeps
        | apply drainRing_keeps | apply sendMem_keeps | apply Keeps.ite)
    | split
    | refine Keeps.upd ?_ rfl rfl rfl rfl rfl rfl rfl rfl rfl

theorem execRecordDma_keeps {z s : State} (ring : Fin 4) (hz : Keeps z s) : OutKeeps z (execRecordDma ring s) := by
  unfold execRecordDma
  try dsimp only
  repeat' first
    | (with_reducible first
        | assumption | apply OutKeeps.next | apply dmaRing_keeps | apply Keeps.ite | apply OutKeeps.ite)
    | split
    | refine Keeps.upd ?_ rfl rfl rfl rfl rfl rfl rfl rfl rfl

theorem writeRptr_keeps {z s : State} (n : Nat) (v : Nat) (hz : Keeps z s) : Keeps z (writeRptr s n v) := by
  unfold writeRptr
  try dsimp only
  repeat' first
    | (with_reducible first | assumption | apply set_keeps | apply Keeps.ite)
    | split
    | refine Keeps.upd ?_ rfl rfl rfl rfl rfl rfl rfl rfl rfl

theorem execHgeRingRptrWrite_keeps {z s : State} (ring : Fin 4) (value : Dword) (hz : Keeps z s) : OutKeeps z (execHgeRingRptrWrite ring value s) := by
  unfold execHgeRingRptrWrite
  try dsimp only
  repeat' first
    | (with_reducible first
        | assumption | apply OutKeeps.next | apply writeRptr_keeps | apply Keeps.ite | apply OutKeeps.ite)
    | split
    | refine Keeps.upd ?_ rfl rfl rfl rfl rfl rfl rfl rfl rfl

theorem settingsOf_keeps {z s : State} (x : SlotId) (hz : Keeps z s) : Keeps z (settingsOf s x) := by
  unfold settingsOf
  try dsimp only
  repeat' first
    | (with_reducible first | assumption | apply nextFrame_keeps | apply Keeps.ite)
    | split
    | refine Keeps.upd ?_ rfl rfl rfl rfl rfl rfl rfl rfl rfl

theorem updOwe_keeps {z s : State} (frame : Nat) (entry : Nat) (f : Owe → Owe) (hz : Keeps z s) : Keeps z (updOwe s frame entry f) := by
  unfold updOwe
  try dsimp only
  repeat' first
    | (with_reducible first | assumption | apply Keeps.ite)
    | split
    | refine Keeps.upd ?_ rfl rfl rfl rfl rfl rfl rfl rfl rfl

theorem noteLast_keeps {z s : State} (entry : Nat) (at_ : Nat) (hz : Keeps z s) : Keeps z (noteLast s entry at_) := by
  unfold noteLast
  try dsimp only
  repeat' first
    | (with_reducible first | assumption | apply Keeps.ite)
    | split
    | refine Keeps.upd ?_ rfl rfl rfl rfl rfl rfl rfl rfl rfl

theorem notePeak_keeps {z s : State} (x : Shot) (hz : Keeps z s) : Keeps z (notePeak s x) := by
  unfold notePeak
  try dsimp only
  repeat' first
    | (with_reducible first | assumption | apply Keeps.foldl)
    | (intro _; try dsimp only)
    | with_reducible apply Keeps.ite
    | split
    | refine Keeps.upd ?_ rfl rfl rfl rfl rfl rfl rfl rfl rfl

theorem weigh_keeps {z n : State} (p : Prog) (x : SlotId) (code : Nat × Nat) (rank : Nat) (a : Search) (o : Owe)
    (hz : Keeps z a.s) : Keeps z (weigh n p x code rank a o).s := by
  unfold weigh
  dsimp only
  repeat' first
    | exact hz
    | exact inc_keeps _ hz
    | split

theorem choose_keeps {z n s : State} (p : Prog) (x : SlotId) (code : Nat × Nat) (l : List Nat) (hz : Keeps z s) :
    Keeps z (choose n p x code l s).s := by
  induction l generalizing s with
  | nil => exact hz
  | cons rank r ih =>
    have k := Keeps.foldl_by (b := { s := s, best := none }) Search.s (weigh n p x code rank) (owesOf s x.frame) hz
      fun a o h => weigh_keeps p x code rank a o h
    simp only [choose]
    split
    · exact k
    · exact ih k

theorem refuseBurst_keeps {z s : State} (x : Shot) (dir : Nat) (hz : Keeps z s) : Keeps z (refuseBurst s x dir) := by
  unfold refuseBurst
  try dsimp only
  repeat' first
    | (with_reducible first | assumption | apply Keeps.ite)
    | split
    | refine Keeps.upd ?_ rfl rfl rfl rfl rfl rfl rfl rfl rfl

theorem placeDir_keeps {z n s : State} (shots : Nat) (x : Shot) (dir : Nat × Nat × Nat) (hz : Keeps z s) :
    Keeps z (placeDir n shots x s dir) := by
  unfold placeDir
  dsimp only
  refine Keeps.ite hz (Keeps.ite (refuseBurst_keeps _ _ hz) ?_)
  split
  · exact refuseBurst_keeps _ _ hz
  · rename_i e
    obtain ⟨_, _, e⟩ := Option.bind_eq_some_iff.mp e
    exact (placeCell_keeps e hz).upd rfl rfl rfl rfl rfl rfl rfl rfl rfl

theorem placeCells_keeps {z n s : State} (shots : Nat) (x : Shot) (hz : Keeps z s) : Keeps z (placeCells n shots x s) :=
  fetchFar_keeps _ (Keeps.foldl _ _ (serveFetches_keeps hz) fun _ _ h => placeDir_keeps _ _ _ h)

theorem wakeClusters_keeps {z s : State} (cl : Nat) (hz : Keeps z s) : Keeps z (wakeClusters s cl) := by
  unfold wakeClusters
  try dsimp only
  repeat' first
    | (with_reducible first | assumption | apply set_keeps | apply Keeps.foldl)
    | (intro _; try dsimp only)
    | with_reducible apply Keeps.ite
    | split
    | refine Keeps.upd ?_ rfl rfl rfl rfl rfl rfl rfl rfl rfl

theorem noteCap_keeps {z s : State} (rank : Nat) (cl : Nat) (hz : Keeps z s) : Keeps z (noteCap s rank cl) := by
  unfold noteCap
  try dsimp only
  repeat' first
    | (with_reducible first | assumption | apply set_keeps | apply raiseFault_keeps | apply Keeps.ite)
    | split
    | refine Keeps.upd ?_ rfl rfl rfl rfl rfl rfl rfl rfl rfl

theorem enterLook_keeps {z s : State} (x : Shot) (hz : Keeps z s) : Keeps z (enterLook s x) := by
  unfold enterLook
  try dsimp only
  repeat' first
    | (with_reducible first | assumption | apply Keeps.ite)
    | split
    | refine Keeps.upd ?_ rfl rfl rfl rfl rfl rfl rfl rfl rfl

theorem admitShot_keeps {z s : State} (x : SlotId) (hz : Keeps z s) : Keeps z (admitShot s x) := by
  unfold admitShot
  split
  · exact hz
  · rename_i p _
    have k : Keeps z (if x.i = 0 then { s with sch := { s.sch with owesNext := dueOwes p x.frame } } else s) :=
      Keeps.ite (hz.upd rfl rfl rfl rfl rfl rfl rfl rfl rfl) hz
    dsimp only
    generalize (if x.i = 0 then { s with sch := { s.sch with owesNext := dueOwes p x.frame } } else s) = t at k
    have kc := choose_keeps (n := settingsOf t x) p x (codeOf (settingsOf t x) true x) [0, 1, 2] k
    refine Keeps.ite ?_ (Keeps.ite k ?_)
    · split
      · exact enterLook_keeps _ (wakeClusters_keeps _ k)
      · exact k
    · split
      · exact kc
      · exact placeCells_keeps _ _ (enterLook_keeps _ (wakeClusters_keeps _ (updOwe_keeps _ _ _ (noteCap_keeps _ _ kc))))

theorem countFail_keeps {z s : State} (k : Nat) (hz : Keeps z s) : Keeps z (countFail s k) := by
  unfold countFail
  try dsimp only
  repeat' first
    | (with_reducible first | assumption | apply inc_keeps | apply Keeps.ite)
    | split
    | refine Keeps.upd ?_ rfl rfl rfl rfl rfl rfl rfl rfl rfl

theorem commitShot_keeps {z s : State} (x : Shot) (old : Shot) (hz : Keeps z s) : Keeps z (commitShot s x old) := by
  unfold commitShot
  try dsimp only
  repeat' first
    | (with_reducible first | assumption | apply notePeak_keeps | apply noteLast_keeps | apply Keeps.ite)
    | split
    | refine Keeps.upd ?_ rfl rfl rfl rfl rfl rfl rfl rfl rfl

theorem deferShot_keeps {z s : State} (x : Shot) (hz : Keeps z s) : Keeps z (deferShot s x) := by
  unfold deferShot
  try dsimp only
  repeat' first
    | (with_reducible first | assumption | apply inc_keeps | apply giveBack_keeps | apply Keeps.ite)
    | split
    | refine Keeps.upd ?_ rfl rfl rfl rfl rfl rfl rfl rfl rfl

theorem refill_keeps {z n s u : State} {x : SlotId} {l : List Shot} (e : refill n x s l = some u) (hz : Keeps z s) :
    Keeps z u := by
  induction l with
  | nil => cases e
  | cons y r ih =>
    simp only [refill] at e
    have k := fun a => hz.sch { s.sch with look := a }
    generalize (List.map _ s.sch.look) = m at e
    have km := k m
    generalize ({ s with sch := { s.sch with look := m } } : State) = t at e km
    split at e <;> split at e <;> first
      | exact Option.some.inj e ▸ commitShot_keeps _ _ km
      | exact ih e

theorem nextCell_keeps {z s u : State} {a : Use} {b : Nat} (e : nextCell s = some (a, b, u)) (hz : Keeps z s) : Keeps z u := by
  unfold nextCell at e
  split at e <;> cases e <;> exact hz.upd rfl rfl rfl rfl rfl rfl rfl rfl rfl

theorem offerGroom_keeps {z n s : State} (x : SlotId) (hz : Keeps z s) : Keeps z (offerGroom n x s).2 := by
  unfold offerGroom
  split
  · exact hz
  · have k := takeFree_keeps 38 hz
    generalize s.takeFree 38 = p at k ⊢
    obtain ⟨v, t⟩ := p
    dsimp only at k ⊢
    split
    · exact commitShot_keeps _ _ k
    · exact k

theorem offerCell_keeps {z n s u : State} {x : SlotId} (e : offerCell n x s = some u) (hz : Keeps z s) : Keeps z u := by
  unfold offerCell at e
  split at e
  · cases e
  · dsimp only at e
    split at e
    · cases e; exact commitShot_keeps _ _ (nextCell_keeps ‹_› hz)
    · cases e

theorem fill_keeps {z n s : State} (x : SlotId) (hz : Keeps z s) : Keeps z (commitNext.fill n x s) := by
  unfold commitNext.fill
  split
  · exact refill_keeps ‹_› hz
  · have k := offerGroom_keeps (n := n) x hz
    generalize offerGroom n x s = p at k ⊢
    obtain ⟨taken, t⟩ := p
    dsimp only at k ⊢
    refine Keeps.ite k ?_
    cases h : offerCell n x t with
    | some u => exact offerCell_keeps h k
    | none => exact inc_keeps _ k

theorem commitNext_keeps {z s : State} (hz : Keeps z s) : Keeps z (commitNext s) := by
  have k : Keeps z { s with sch := { s.sch with committed := none } } := hz.sch _
  unfold commitNext
  generalize ({ s with sch := { s.sch with committed := none } } : State) = t at k
  dsimp only
  split
  · split
    · exact Keeps.ite (Keeps.ite (commitShot_keeps _ _ k) (fill_keeps _ (countFail_keeps _ (deferShot_keeps _ k))))
        (Keeps.ite (fill_keeps _ (deferShot_keeps _ k)) (deferShot_keeps _ k))
    · refine Keeps.ite ?_ ?_ <;> refine Keeps.upd k rfl rfl rfl rfl rfl rfl rfl rfl rfl
  · exact Keeps.ite (fill_keeps _ k) k

theorem markUntilFits_keeps {z s : State} (left fuel : Nat) (hz : Keeps z s) : Keeps z (markUntilFits left fuel s) := by
  induction fuel generalizing s with
  | zero => exact hz
  | succ fuel ih =>
    simp only [markUntilFits]
    split
    · exact hz
    · split
      · exact ih (markShort_keeps _ hz)
      · exact hz

theorem shortfall_keeps {z s : State} (hz : Keeps z s) : Keeps z (shortfall s) := by
  unfold shortfall
  split
  · exact hz
  · exact markUntilFits_keeps _ _ (Keeps.foldl _ _ hz fun _ _ h => Keeps.ite (markShort_keeps _ h) h)

theorem parkClusters_keeps {z s : State} (hz : Keeps z s) : Keeps z (parkClusters s) := by
  unfold parkClusters
  try dsimp only
  repeat' first
    | (with_reducible first | assumption | apply set_keeps | apply Keeps.foldl)
    | (intro _; try dsimp only)
    | with_reducible apply Keeps.ite
    | split
    | refine Keeps.upd ?_ rfl rfl rfl rfl rfl rfl rfl rfl rfl

theorem enforceCap_keeps {z s : State} (hz : Keeps z s) : Keeps z (enforceCap s) := by
  unfold enforceCap
  try dsimp only
  repeat' first
    | (with_reducible first
        | assumption | apply set_keeps | apply setSlice_keeps | apply shapeMissed_keeps | apply Keeps.foldl)
    | (intro _; try dsimp only)
    | with_reducible apply Keeps.ite
    | split
    | refine Keeps.upd ?_ rfl rfl rfl rfl rfl rfl rfl rfl rfl

theorem execClusterRestartStart_keeps {z s : State} (cluster : Fin 16) (hz : Keeps z s) : OutKeeps z (execClusterRestartStart cluster s) := by
  unfold execClusterRestartStart
  try dsimp only
  repeat' first
    | (with_reducible first | assumption | apply OutKeeps.next | apply set_keeps | apply Keeps.ite | apply OutKeeps.ite)
    | split
    | refine Keeps.upd ?_ rfl rfl rfl rfl rfl rfl rfl rfl rfl

theorem loadProgContents_keeps {z s : State} (d : List Byte) (hz : Keeps z s) : Keeps z (loadProgContents s d).2 := by
  unfold loadProgContents
  split
  · exact set_keeps _ _ (set_keeps _ _ hz)
  · have k := set_keeps F.SCH_LOAD_ERR_OFFSET 0 (set_keeps F.SCH_LOAD_ERR_CHECK 0 hz)
    dsimp only
    split
    · exact k
    · split <;> exact k

theorem execLoadScanProg_keeps {z s : State} (port : Port) (tag : Nat) (hz : Keeps z s) :
    OutKeeps z (execLoadScanProg port tag s) := by
  unfold execLoadScanProg
  refine withCmd_keeps hz fun c => begin__keeps hz fun t c k => ?_
  have k2 := loadProgContents_keeps c.data k
  split
  · exact refuse_keeps _ _ _ (Keeps.snd ‹_› k2)
  · rename_i u e
    have k3 := Keeps.snd e k2
    dsimp only
    apply finishOk_keeps
    refine Keeps.upd ?_ rfl rfl rfl rfl rfl rfl rfl rfl rfl
    exact Keeps.ite (set_keeps _ _ (set_keeps _ _ k3)) (set_keeps _ _ (set_keeps _ _ k3))

theorem execSetTiming_keeps {z s : State} (port : Port) (tag : Nat) (hz : Keeps z s) : OutKeeps z (execSetTiming port tag s) := by
  unfold execSetTiming
  try dsimp only
  repeat' first
    | (with_reducible first | assumption | apply OutKeeps.next | apply finishOk_keeps | apply withCmd_keeps)
    | (intro _; try dsimp only)
    | (with_reducible first | apply Keeps.ite | apply OutKeeps.ite)
    | split
    | refine Keeps.upd ?_ rfl rfl rfl rfl rfl rfl rfl rfl rfl

theorem execSetPointRing_keeps {z s : State} (port : Port) (tag : Nat) (hz : Keeps z s) :
    OutKeeps z (execSetPointRing port tag s) := by
  unfold execSetPointRing
  refine withCmd_keeps hz fun c => finishOk_keeps _ _ (setRing_keeps _ _ ?_)
  exact set_keeps _ _ (set_keeps _ _ (set_keeps _ _ (put_keeps _ _ (set_keeps _ _ (set_keeps _ _ hz)))))

end Sys2Proof.Machine
end

