-- ==== Sys2Proof/Laws/KeepsThermal.lean ====
section
/-! SUPPORT. What every operation of the thermal path, the partner link's packets and twin operation keeps (Safety.lean): one lemma each. -/

namespace Sys2Proof.Machine

theorem setThm_keeps {z s : State} (f : ThmSt → ThmSt) (hz : Keeps z s) : Keeps z (setThm s f) := by
  unfold setThm
  try dsimp only
  repeat' first
    | (with_reducible first | assumption | apply Keeps.ite)
    | split
    | refine Keeps.upd ?_ rfl rfl rfl rfl rfl rfl rfl rfl rfl

theorem setMon_keeps {z s : State} (c : MonCh) (hz : Keeps z s) : Keeps z (setMon s c) := by
  unfold setMon
  try dsimp only
  repeat' first
    | (with_reducible first | assumption | apply setThm_keeps | apply Keeps.ite)
    | split
    | refine Keeps.upd ?_ rfl rfl rfl rfl rfl rfl rfl rfl rfl

theorem muteMon_keeps {z s : State} (n : Nat) (hz : Keeps z s) : Keeps z (muteMon s n) := by
  unfold muteMon
  try dsimp only
  repeat' first
    | (with_reducible first | assumption | apply set_keeps | apply setMon_keeps | apply Keeps.ite)
    | split
    | refine Keeps.upd ?_ rfl rfl rfl rfl rfl rfl rfl rfl rfl

theorem muteAll_keeps {z s : State} (hz : Keeps z s) : Keeps z (muteAll s) := by
  unfold muteAll
  try dsimp only
  repeat' first
    | (with_reducible first | assumption | apply muteMon_keeps | apply Keeps.foldl)
    | (intro _; try dsimp only)
    | with_reducible apply Keeps.ite
    | split
    | refine Keeps.upd ?_ rfl rfl rfl rfl rfl rfl rfl rfl rfl

theorem startSettling_keeps {z s : State} (fast : Bool) (hz : Keeps z s) : Keeps z (startSettling s fast) := by
  unfold startSettling
  try dsimp only
  repeat' first
    | (with_reducible first | assumption | apply set_keeps | apply inc_keeps | apply setThm_keeps | apply Keeps.ite)
    | split
    | refine Keeps.upd ?_ rfl rfl rfl rfl rfl rfl rfl rfl rfl

theorem endConfig_keeps {z s : State} (status : Nat) (result : Nat) (hz : Keeps z s) : Keeps z (endConfig s status result) := by
  unfold endConfig
  try dsimp only
  repeat' first
    | (with_reducible first | assumption | apply setThm_keeps | apply finish_keeps | apply Keeps.ite)
    | split
    | refine Keeps.upd ?_ rfl rfl rfl rfl rfl rfl rfl rfl rfl

theorem startFfc_keeps {z s : State} (cmd : Option (Port × Nat)) (hz : Keeps z s) : Keeps z (startFfc s cmd) := by
  unfold startFfc
  try dsimp only
  repeat' first
    | (with_reducible first | assumption | apply set_keeps | apply setThm_keeps | apply Keeps.ite)
    | split
    | refine Keeps.upd ?_ rfl rfl rfl rfl rfl rfl rfl rfl rfl

theorem startHeld_keeps {z s : State} (hz : Keeps z s) : Keeps z (startHeld s) := by
  unfold startHeld
  try dsimp only
  repeat' first
    | (with_reducible first | assumption | apply setThm_keeps | apply startFfc_keeps | apply Keeps.ite)
    | split
    | refine Keeps.upd ?_ rfl rfl rfl rfl rfl rfl rfl rfl rfl

theorem noteFfc_keeps {z s : State} (auto : Bool) (accepted : Bool) (hz : Keeps z s) : Keeps z (noteFfc s auto accepted) := by
  unfold noteFfc
  try dsimp only
  repeat' first
    | (with_reducible first | assumption | apply setThm_keeps | apply Keeps.ite)
    | split
    | refine Keeps.upd ?_ rfl rfl rfl rfl rfl rfl rfl rfl rfl

theorem endFfc_keeps {z s : State} (cause : Nat) (bad : Nat) (hz : Keeps z s) : Keeps z (endFfc s cause bad) := by
  unfold endFfc
  try dsimp only
  repeat' first
    | (with_reducible first
        | assumption | apply set_keeps | apply put_keeps | apply noteFfc_keeps | apply setThm_keeps
        | apply startHeld_keeps | apply finishOk_keeps | apply Keeps.ite)
    | split
    | refine Keeps.upd ?_ rfl rfl rfl rfl rfl rfl rfl rfl rfl

theorem applyNow_keeps {z s : State} (hz : Keeps z s) : Keeps z (applyNow s) := by
  unfold applyNow
  try dsimp only
  repeat' first
    | (with_reducible first | assumption | apply set_keeps | apply setThm_keeps | apply Keeps.foldl)
    | (intro _; try dsimp only)
    | with_reducible apply Keeps.ite
    | split
    | refine Keeps.upd ?_ rfl rfl rfl rfl rfl rfl rfl rfl rfl

theorem stopFrames_keeps {z s : State} (state : Nat) (hz : Keeps z s) : Keeps z (stopFrames s state) := by
  unfold stopFrames
  try dsimp only
  repeat' first
    | (with_reducible first
        | assumption | apply set_keeps | apply setThm_keeps | apply applyNow_keeps | apply endFfc_keeps
        | apply Keeps.ite)
    | split
    | refine Keeps.upd ?_ rfl rfl rfl rfl rfl rfl rfl rfl rfl

theorem losePath_keeps {z s : State} (detail : Nat) (hz : Keeps z s) : Keeps z (losePath s detail) := by
  unfold losePath
  try dsimp only
  repeat' first
    | (with_reducible first | assumption | apply stopFrames_keeps | apply raiseFault_keeps | apply Keeps.ite)
    | split
    | refine Keeps.upd ?_ rfl rfl rfl rfl rfl rfl rfl rfl rfl

theorem foundPath_keeps {z s : State} (hz : Keeps z s) : Keeps z (foundPath s) := by
  unfold foundPath
  try dsimp only
  repeat' first
    | (with_reducible first | assumption | apply endFault_keeps | apply Keeps.ite)
    | split
    | refine Keeps.upd ?_ rfl rfl rfl rfl rfl rfl rfl rfl rfl

theorem execFpaBiasLimit_keeps {z s : State} (hz : Keeps z s) : OutKeeps z (execFpaBiasLimit s) := by
  unfold execFpaBiasLimit
  try dsimp only
  repeat' first
    | (with_reducible first
        | assumption | apply OutKeeps.next | apply set_keeps | apply endConfig_keeps | apply losePath_keeps
        | apply Keeps.ite | apply OutKeeps.ite)
    | split
    | refine Keeps.upd ?_ rfl rfl rfl rfl rfl rfl rfl rfl rfl

theorem checkFrame_keeps {z s : State} (start : Nat) (raw : List Nat) (hz : Keeps z s) : Keeps z (checkFrame s start raw) := by
  unfold checkFrame
  try dsimp only
  repeat' first
    | (with_reducible first | assumption | apply setThm_keeps | apply Keeps.foldl)
    | (intro _; try dsimp only)
    | (with_reducible first | refine Keeps.snd (by assumption) ?_ | refine Keeps.fst (by assumption) ?_ | apply Keeps.ite)
    | split
    | refine Keeps.upd ?_ rfl rfl rfl rfl rfl rfl rfl rfl rfl

theorem execPathSettled_keeps {z s : State} (hz : Keeps z s) : OutKeeps z (execPathSettled s) := by
  unfold execPathSettled
  try dsimp only
  repeat' first
    | (with_reducible first
        | assumption | apply OutKeeps.next | apply set_keeps | apply endConfig_keeps | apply Keeps.ite
        | apply OutKeeps.ite)
    | split
    | refine Keeps.upd ?_ rfl rfl rfl rfl rfl rfl rfl rfl rfl

theorem execSettleTimeout_keeps {z s : State} (hz : Keeps z s) : OutKeeps z (execSettleTimeout s) := by
  unfold execSettleTimeout
  try dsimp only
  repeat' first
    | (with_reducible first
        | assumption | apply OutKeeps.next | apply endConfig_keeps | apply losePath_keeps | apply Keeps.ite
        | apply OutKeeps.ite)
    | split
    | refine Keeps.upd ?_ rfl rfl rfl rfl rfl rfl rfl rfl rfl

theorem clearCorrection_keeps {z s : State} (hz : Keeps z s) : Keeps z (clearCorrection s) := by
  unfold clearCorrection
  try dsimp only
  repeat' first
    | (with_reducible first | assumption | apply set_keeps | apply setThm_keeps | apply Keeps.foldl)
    | (intro _; try dsimp only)
    | with_reducible apply Keeps.ite
    | split
    | refine Keeps.upd ?_ rfl rfl rfl rfl rfl rfl rfl rfl rfl

theorem takeGeometry_keeps {z s u : State} (e : takeGeometry s = some u) (hz : Keeps z s) : Keeps z u := by
  unfold takeGeometry at e
  extract_lets g v at e
  have kt : Keeps z v := setThm_keeps _ (dropStalls_keeps _ hz)
  clear_value v
  split at e
  · exact Option.some.inj e ▸ hz
  · generalize thermalStalls (pixelCount s) = p at e
    obtain ⟨near, loft⟩ := p
    dsimp only at e
    split at e
    · cases e
    · rename_i h1
      split at e
      · cases e
      · rename_i h2
        exact Option.some.inj e ▸ setThm_keeps _ (placeOwned_keeps h2 (placeOwned_keeps h1 kt))

theorem noStalls_keeps {z s : State} (hz : Keeps z s) : Keeps z (noStalls s) := by
  unfold noStalls
  try dsimp only
  repeat' first
    | (with_reducible first | assumption | apply set_keeps | apply Keeps.ite)
    | split
    | refine Keeps.upd ?_ rfl rfl rfl rfl rfl rfl rfl rfl rfl

theorem startPath_keeps {z s : State} (hz : Keeps z s) : Keeps z (startPath s) := by
  unfold startPath
  split
  · exact startSettling_keeps _ (muteAll_keeps (foundPath_keeps (takeGeometry_keeps ‹_› hz)))
  · exact noStalls_keeps hz

theorem writeThmCtrl_keeps {z s : State} (v : Nat) (hz : Keeps z s) : Keeps z (writeThmCtrl s v) := by
  unfold writeThmCtrl
  try dsimp only
  repeat' first
    | (with_reducible first
        | assumption | apply set_keeps | apply put_keeps | apply foundPath_keeps | apply startPath_keeps
        | apply stopFrames_keeps | apply endConfig_keeps | apply Keeps.ite)
    | split
    | refine Keeps.upd ?_ rfl rfl rfl rfl rfl rfl rfl rfl rfl

theorem execThmCtrlWrite_keeps {z s : State} (value : Dword) (hz : Keeps z s) : OutKeeps z (execThmCtrlWrite value s) := by
  unfold execThmCtrlWrite
  try dsimp only
  repeat' first
    | (with_reducible first
        | assumption | apply OutKeeps.next | apply writeThmCtrl_keeps | apply Keeps.ite | apply OutKeeps.ite)
    | split
    | refine Keeps.upd ?_ rfl rfl rfl rfl rfl rfl rfl rfl rfl

theorem execFpaResetRelease_keeps {z s : State} (hz : Keeps z s) : OutKeeps z (execFpaResetRelease s) := by
  unfold execFpaResetRelease
  try dsimp only
  repeat' first
    | (with_reducible first | assumption | apply OutKeeps.next | apply Keeps.ite | apply OutKeeps.ite)
    | split
    | refine Keeps.upd ?_ rfl rfl rfl rfl rfl rfl rfl rfl rfl

theorem holdFsync_keeps {z s : State} (f : Fld) (v : Nat) (hz : Keeps z s) : Keeps z (holdFsync s f v) := by
  unfold holdFsync
  try dsimp only
  repeat' first
    | (with_reducible first | assumption | apply setThm_keeps | apply Keeps.ite)
    | split
    | refine Keeps.upd ?_ rfl rfl rfl rfl rfl rfl rfl rfl rfl

theorem writeMonCh_keeps {z s : State} (n : Nat) (v : Nat) (hz : Keeps z s) : Keeps z (writeMonCh s n v) := by
  unfold writeMonCh
  try dsimp only
  repeat' first
    | (with_reducible first
        | assumption | apply set_keeps | apply put_keeps | apply muteMon_keeps | apply setMon_keeps | apply Keeps.ite)
    | split
    | refine Keeps.upd ?_ rfl rfl rfl rfl rfl rfl rfl rfl rfl

theorem writeThm_keeps {z s : State} (config : Bool) (o : Nat) (v : Nat) (hz : Keeps z s) : Keeps z (writeThm s config o v) := by
  unfold writeThm
  try dsimp only
  repeat' first
    | (with_reducible first
        | assumption | apply set_keeps | apply put_keeps | apply holdFsync_keeps | apply muteAll_keeps
        | apply writeThmCtrl_keeps | apply endFault_keeps | apply writeAt_keeps | apply clearCorrection_keeps
        | apply writeMonCh_keeps | apply Keeps.ite)
    | split
    | refine Keeps.upd ?_ rfl rfl rfl rfl rfl rfl rfl rfl rfl

theorem execThmRingPtrWrite_keeps {z s : State} (value : Dword) (hz : Keeps z s) : OutKeeps z (execThmRingPtrWrite value s) := by
  unfold execThmRingPtrWrite
  try dsimp only
  repeat' first
    | (with_reducible first
        | assumption | apply OutKeeps.next | apply writeThm_keeps | apply Keeps.ite | apply OutKeeps.ite)
    | split
    | refine Keeps.upd ?_ rfl rfl rfl rfl rfl rfl rfl rfl rfl

theorem applyWrites_keeps {z s : State} (l : List (Nat × Nat)) (hz : Keeps z s) : Keeps z (applyWrites s l) := by
  unfold applyWrites
  try dsimp only
  repeat' first
    | (with_reducible first | assumption | apply writeThm_keeps | apply Keeps.foldl)
    | (intro _; try dsimp only)
    | with_reducible apply Keeps.ite
    | split
    | refine Keeps.upd ?_ rfl rfl rfl rfl rfl rfl rfl rfl rfl

theorem runList_keeps {z s : State} (l : List (Nat × Nat)) (acked : Nat) (hz : Keeps z s) : Keeps z (runList l acked s).1 := by
  induction l generalizing s acked with
  | nil => exact hz
  | cons e r ih =>
    simp only [runList]
    split
    · exact ih _ (writeThm_keeps _ _ _ hz)
    · split
      · exact hz.send _
      · exact ih _ (hz.send _)
    · exact ih _ hz

theorem haltFrames_keeps {z s : State} (hz : Keeps z s) : Keeps z (haltFrames s) := by
  unfold haltFrames
  try dsimp only
  repeat' first
    | (with_reducible first | assumption | apply set_keeps | apply setThm_keeps | apply applyNow_keeps | apply Keeps.ite)
    | split
    | refine Keeps.upd ?_ rfl rfl rfl rfl rfl rfl rfl rfl rfl

theorem thmOff_keeps {z s : State} (hz : Keeps z s) : Keeps z (thmOff s) := by
  unfold thmOff
  try dsimp only
  repeat' first
    | (with_reducible first | assumption | apply endConfig_keeps | apply stopFrames_keeps | apply Keeps.ite)
    | split
    | refine Keeps.upd ?_ rfl rfl rfl rfl rfl rfl rfl rfl rfl

theorem runThmConfig_keeps {z s : State} (acked : Nat) (c : Cmd) (hz : Keeps z s) : Keeps z (runThmConfig acked s c) := by
  have k := runList_keeps (configEntries c.data) acked (foundPath_keeps (haltFrames_keeps hz))
  unfold runThmConfig
  dsimp only
  generalize runList (configEntries c.data) acked (foundPath (haltFrames s)) = p at k
  obtain ⟨t, ok⟩ := p
  dsimp only at k ⊢
  refine Keeps.ite (finishOk_keeps _ _ (setThm_keeps _ hz))
    (Keeps.ite (finish_keeps _ _ _ _ k) (Keeps.ite (finishOk_keeps _ _ k) ?_))
  split
  · exact finish_keeps _ _ _ _ (noStalls_keeps k)
  · have h := takeGeometry_keeps ‹_› k
    exact setThm_keeps _ (replaceCmd_keeps _ _ (startSettling_keeps _ (Keeps.ite (set_keeps _ _ h) h)))

theorem execThmConfig_keeps {z s : State} (port : Port) (tag : Nat) (acked : Nat) (hz : Keeps z s) : OutKeeps z (execThmConfig port tag acked s) := by
  unfold execThmConfig
  try dsimp only
  repeat' first
    | (with_reducible first | assumption | apply OutKeeps.next | apply runThmConfig_keeps | apply withCmd_keeps)
    | (intro _; try dsimp only)
    | (with_reducible first | apply Keeps.ite | apply OutKeeps.ite)
    | split
    | refine Keeps.upd ?_ rfl rfl rfl rfl rfl rfl rfl rfl rfl

theorem excite_keeps {z s : State} (r : ExciteEnd) (hz : Keeps z s) : Keeps z (excite s r) := by
  unfold excite
  extract_lets acked
  clear_value acked
  have k := runList_keeps s.thm.list acked (haltFrames_keeps hz)
  dsimp only
  generalize runList s.thm.list acked (haltFrames s) = p at k
  obtain ⟨t, b⟩ := p
  dsimp only at k ⊢
  refine Keeps.ite hz (Keeps.ite k ?_)
  split
  · exact noStalls_keeps k
  · have h := takeGeometry_keeps ‹_› k
    split
    · exact losePath_keeps _ (set_keeps _ _ h)
    · exact losePath_keeps _ h
    · exact set_keeps _ _ (foundPath_keeps (muteAll_keeps h))

theorem execExcitationSettled_keeps {z s : State} (apdOk : Bool) (thermal : ExciteEnd) (hz : Keeps z s) :
    OutKeeps z (execExcitationSettled apdOk thermal s) := by
  unfold execExcitationSettled
  refine .ite (.next hz) ?_
  have k := excite_keeps thermal (Keeps.ite (c := thermal = .limited || thermal = .late) (stepFailed_keeps 6 hz) hz)
  generalize excite _ thermal = t at k ⊢
  dsimp only
  refine .ite (.next ?_) ?_
  · have h := reachReady_keeps (endFault_keeps 0x0409 0 (set_keeps F.RXF_APDB_STAT_SETTLED 1 k))
    exact Keeps.ite (startImpedance_keeps _ h) h
  · have h := raiseFault_keeps 2 0x0409 0 (set_keeps F.SYS_START_FAIL_STEP 6 k)
    generalize raiseFault _ 2 0x0409 0 = u at h ⊢
    split
    · have h2 : Keeps z { u with sys := { u.sys with trans := none } } := h.upd rfl rfl rfl rfl rfl rfl rfl rfl rfl
      split
      · exact .next (finish_keeps _ _ _ _ h2)
      · exact .next h2
    · exact .next (h.upd rfl rfl rfl rfl rfl rfl rfl rfl rfl)

theorem applyFsync_keeps {z s : State} (hz : Keeps z s) : Keeps z (applyFsync s) := by
  unfold applyFsync
  try dsimp only
  repeat' first
    | (with_reducible first
        | assumption | apply set_keeps | apply setThm_keeps | apply startSettling_keeps | apply Keeps.foldl)
    | (intro _; try dsimp only)
    | with_reducible apply Keeps.ite
    | split
    | refine Keeps.upd ?_ rfl rfl rfl rfl rfl rfl rfl rfl rfl

theorem stepFade_keeps {z s : State} (hz : Keeps z s) : Keeps z (stepFade s) := by
  unfold stepFade
  try dsimp only
  repeat' first
    | (with_reducible first
        | assumption | apply set_keeps | apply put_keeps | apply setThm_keeps | apply startHeld_keeps
        | apply Keeps.ite)
    | split
    | refine Keeps.upd ?_ rfl rfl rfl rfl rfl rfl rfl rfl rfl

theorem takeFfc_keeps {z s : State} (hz : Keeps z s) : Keeps z (takeFfc s).1 := by
  unfold takeFfc
  split
  · rename_i t _
    have k := setThm_keeps (fun x => { x with ffc := t, ffcNew := none }) hz
    split
    · exact k
    · exact hz
  · exact hz

theorem frameStart_keeps {z s : State} (hz : Keeps z s) : Keeps z (frameStart s) := by
  have k := takeFfc_keeps (stepFade_keeps (applyFsync_keeps hz))
  unfold frameStart
  dsimp only
  generalize takeFfc (stepFade (applyFsync s)) = p at k
  obtain ⟨u, b⟩ := p
  exact setThm_keeps _ (set_keeps _ _ k)

theorem execThermalFrameStart_keeps {z s : State} (hz : Keeps z s) : OutKeeps z (execThermalFrameStart s) := by
  unfold execThermalFrameStart
  try dsimp only
  repeat' first
    | (with_reducible first
        | assumption | apply OutKeeps.next | apply frameStart_keeps | apply Keeps.ite | apply OutKeeps.ite)
    | split
    | refine Keeps.upd ?_ rfl rfl rfl rfl rfl rfl rfl rfl rfl

theorem decimatorReset_keeps {z s : State} (hz : Keeps z s) : Keeps z (decimatorReset s) := by
  unfold decimatorReset
  try dsimp only
  repeat' first
    | (with_reducible first
        | assumption | apply set_keeps | apply inc_keeps | apply frameStart_keeps | apply startSettling_keeps
        | apply muteAll_keeps | apply Keeps.ite)
    | split
    | refine Keeps.upd ?_ rfl rfl rfl rfl rfl rfl rfl rfl rfl

theorem execSyncDecEdge_keeps {z s : State} (hz : Keeps z s) : OutKeeps z (execSyncDecEdge s) := by
  unfold execSyncDecEdge
  try dsimp only
  repeat' first
    | (with_reducible first
        | assumption | apply OutKeeps.next | apply inc_keeps | apply decimatorReset_keeps | apply Keeps.ite
        | apply OutKeeps.ite)
    | split
    | refine Keeps.upd ?_ rfl rfl rfl rfl rfl rfl rfl rfl rfl

theorem execThmSync_keeps {z s : State} (port : Port) (tag : Nat) (hz : Keeps z s) : OutKeeps z (execThmSync port tag s) := by
  unfold execThmSync
  try dsimp only
  repeat' first
    | (with_reducible first
        | assumption | apply OutKeeps.next | apply decimatorReset_keeps | apply finishOk_keeps | apply withCmd_keeps)
    | (intro _; try dsimp only)
    | (with_reducible first | apply Keeps.ite | apply OutKeeps.ite)
    | split
    | refine Keeps.upd ?_ rfl rfl rfl rfl rfl rfl rfl rfl rfl

theorem outputOf_keeps {z s : State} (c : MonCh) (n : Nat) (hz : Keeps z s) : Keeps z (outputOf s c n).2 := by
  unfold outputOf
  split
  · exact takeFree_keeps 16 hz
  · exact hz

theorem monOutput_keeps {z s : State} (c : MonCh) (hz : Keeps z s) : Keeps z (monOutput s c).2 := by
  have k := outputOf_keeps c (s.get F.THM_MON_CFG_COEF_NOW) hz
  unfold monOutput
  dsimp only
  split
  · exact outputOf_keeps _ _ k
  · exact k

theorem noteShutter_keeps {z s : State} (m1 : Nat) (hz : Keeps z s) : Keeps z (noteShutter s m1) := by
  unfold noteShutter
  try dsimp only
  repeat' first
    | (with_reducible first | assumption | apply set_keeps | apply setThm_keeps | apply Keeps.ite)
    | split
    | refine Keeps.upd ?_ rfl rfl rfl rfl rfl rfl rfl rfl rfl

theorem detectors_keeps {z s : State} (c : MonCh) (y : Nat) (hz : Keeps z s) : Keeps z (detectors s c y) := by
  unfold detectors
  try dsimp only
  repeat' first
    | (with_reducible first | assumption | apply set_keeps | apply setMon_keeps | apply Keeps.ite)
    | split
    | refine Keeps.upd ?_ rfl rfl rfl rfl rfl rfl rfl rfl rfl

theorem execMonitorOutput_keeps {z s : State} (ch : Fin 4) (codes : List Nat) (phase : Fin 10) (hz : Keeps z s) :
    OutKeeps z (execMonitorOutput ch codes phase s) := by
  unfold execMonitorOutput
  dsimp only
  generalize decimate s (monAt s ch.val) phase.val codes = c0
  generalize ({ c0 with fade := if s.flag F.THM_MON_CFG_XFADE then min 256 (c0.fade + 1) else 0 } : MonCh) = c
  have k := monOutput_keeps c hz
  generalize monOutput s c = p at k
  obtain ⟨y, t⟩ := p
  dsimp only at k ⊢
  have k2 := set_keeps (F.THM_MON_CH_VALID ch.val) 1 (detectors_keeps c y k)
  refine .ite (.next hz) (.ite (.next (setMon_keeps _ hz)) (.ite (.next ?_) (.ite (.next ?_) (.next k2))))
  · exact set_keeps _ _ (setInt_keeps _ _ k2)
  · exact noteShutter_keeps _ k2

theorem startXfade_keeps {z s : State} (hz : Keeps z s) : Keeps z (startXfade s) := by
  unfold startXfade
  try dsimp only
  repeat' first
    | (with_reducible first | assumption | apply set_keeps | apply setThm_keeps | apply Keeps.ite)
    | split
    | refine Keeps.upd ?_ rfl rfl rfl rfl rfl rfl rfl rfl rfl

theorem execCoefCrossfadeEnd_keeps {z s : State} (hz : Keeps z s) : OutKeeps z (execCoefCrossfadeEnd s) := by
  unfold execCoefCrossfadeEnd
  try dsimp only
  repeat' first
    | (with_reducible first
        | assumption | apply OutKeeps.next | apply set_keeps | apply startXfade_keeps | apply Keeps.ite
        | apply OutKeeps.ite)
    | split
    | refine Keeps.upd ?_ rfl rfl rfl rfl rfl rfl rfl rfl rfl

theorem execThmLoadCoef_keeps {z s : State} (port : Port) (tag : Nat) (hz : Keeps z s) : OutKeeps z (execThmLoadCoef port tag s) := by
  unfold execThmLoadCoef
  try dsimp only
  repeat' first
    | (with_reducible first
        | assumption | apply OutKeeps.next | apply set_keeps | apply setThm_keeps | apply finishOk_keeps
        | apply withCmd_keeps)
    | (intro _; try dsimp only)
    | (with_reducible first | apply Keeps.ite | apply OutKeeps.ite)
    | split
    | refine Keeps.upd ?_ rfl rfl rfl rfl rfl rfl rfl rfl rfl

theorem execThmSelectCoef_keeps {z s : State} (port : Port) (tag : Nat) (hz : Keeps z s) : OutKeeps z (execThmSelectCoef port tag s) := by
  unfold execThmSelectCoef
  try dsimp only
  repeat' first
    | (with_reducible first
        | assumption | apply OutKeeps.next | apply set_keeps | apply finishOk_keeps | apply startXfade_keeps
        | apply withCmd_keeps)
    | (intro _; try dsimp only)
    | (with_reducible first | apply Keeps.ite | apply OutKeeps.ite)
    | split
    | refine Keeps.upd ?_ rfl rfl rfl rfl rfl rfl rfl rfl rfl

theorem queueFrame_keeps {z s : State} (f : ThmFrame) (hz : Keeps z s) : Keeps z (queueFrame s f) := by
  unfold queueFrame
  try dsimp only
  repeat' first
    | (with_reducible first | assumption | apply inc_keeps | apply setThm_keeps | apply Keeps.ite)
    | split
    | refine Keeps.upd ?_ rfl rfl rfl rfl rfl rfl rfl rfl rfl

theorem stepFfc_keeps {z s : State} (r : ThmRun) (raw : List Nat) (hz : Keeps z s) : Keeps z (stepFfc s r raw) := by
  unfold stepFfc
  try dsimp only
  repeat' first
    | (with_reducible first | assumption | apply setThm_keeps | apply Keeps.ite)
    | split
    | refine Keeps.upd ?_ rfl rfl rfl rfl rfl rfl rfl rfl rfl

theorem hotTrigger_keeps {z s : State} (f : ThmFrame) (hz : Keeps z s) : Keeps z (hotTrigger s f) := by
  unfold hotTrigger
  try dsimp only
  repeat' first
    | (with_reducible first | assumption | apply trigger_keeps | apply Keeps.ite)
    | split
    | refine Keeps.upd ?_ rfl rfl rfl rfl rfl rfl rfl rfl rfl

theorem execThermalFrameComplete_keeps {z s : State} (sums : List Int) (hz : Keeps z s) : OutKeeps z (execThermalFrameComplete sums s) := by
  unfold execThermalFrameComplete
  try dsimp only
  repeat' first
    | (with_reducible first
        | assumption | apply OutKeeps.next | apply set_keeps | apply takeFree_keeps | apply setThm_keeps
        | apply stepFfc_keeps | apply checkFrame_keeps | apply hotTrigger_keeps | apply queueFrame_keeps
        | apply Keeps.foldl)
    | (intro _; try dsimp only)
    | (with_reducible first
        | refine Keeps.snd (by assumption) ?_ | refine Keeps.fst (by assumption) ?_ | apply Keeps.ite
        | apply OutKeeps.ite)
    | split
    | refine Keeps.upd ?_ rfl rfl rfl rfl rfl rfl rfl rfl rfl

theorem execThermalFrameDelivery_keeps {z s : State} (hz : Keeps z s) : OutKeeps z (execThermalFrameDelivery s) := by
  unfold execThermalFrameDelivery
  try dsimp only
  repeat' first
    | (with_reducible first
        | assumption | apply OutKeeps.next | apply set_keeps | apply setThm_keeps | apply sendMem_keeps
        | apply recordThermal_keeps | apply Keeps.ite | apply OutKeeps.ite)
    | split
    | refine Keeps.upd ?_ rfl rfl rfl rfl rfl rfl rfl rfl rfl

theorem execThmLoadCorr_keeps {z s : State} (port : Port) (tag : Nat) (hz : Keeps z s) : OutKeeps z (execThmLoadCorr port tag s) := by
  unfold execThmLoadCorr
  try dsimp only
  repeat' first
    | (with_reducible first
        | assumption | apply OutKeeps.next | apply put_keeps | apply setThm_keeps | apply finishOk_keeps
        | apply withCmd_keeps)
    | (intro _; try dsimp only)
    | (with_reducible first | apply Keeps.ite | apply OutKeeps.ite)
    | split
    | refine Keeps.upd ?_ rfl rfl rfl rfl rfl rfl rfl rfl rfl

theorem execThmSelectCorr_keeps {z s : State} (port : Port) (tag : Nat) (hz : Keeps z s) : OutKeeps z (execThmSelectCorr port tag s) := by
  unfold execThmSelectCorr
  try dsimp only
  repeat' first
    | (with_reducible first
        | assumption | apply OutKeeps.next | apply set_keeps | apply finishOk_keeps | apply setThm_keeps
        | apply withCmd_keeps)
    | (intro _; try dsimp only)
    | (with_reducible first | apply Keeps.ite | apply OutKeeps.ite)
    | split
    | refine Keeps.upd ?_ rfl rfl rfl rfl rfl rfl rfl rfl rfl

theorem execThmLoadReglut_keeps {z s : State} (port : Port) (tag : Nat) (hz : Keeps z s) : OutKeeps z (execThmLoadReglut port tag s) := by
  unfold execThmLoadReglut
  try dsimp only
  repeat' first
    | (with_reducible first
        | assumption | apply OutKeeps.next | apply setThm_keeps | apply finishOk_keeps | apply withCmd_keeps)
    | (intro _; try dsimp only)
    | (with_reducible first | apply Keeps.ite | apply OutKeeps.ite)
    | split
    | refine Keeps.upd ?_ rfl rfl rfl rfl rfl rfl rfl rfl rfl

theorem execThmFfc_keeps {z s : State} (port : Port) (tag : Nat) (hz : Keeps z s) : OutKeeps z (execThmFfc port tag s) := by
  unfold execThmFfc
  try dsimp only
  repeat' first
    | (with_reducible first
        | assumption | apply OutKeeps.next | apply startFfc_keeps | apply withCmd_keeps | apply begin__keeps)
    | (intro _; try dsimp only)
    | (with_reducible first | apply Keeps.ite | apply OutKeeps.ite)
    | split
    | refine Keeps.upd ?_ rfl rfl rfl rfl rfl rfl rfl rfl rfl

theorem execAutoFfcStart_keeps {z s : State} (hz : Keeps z s) : OutKeeps z (execAutoFfcStart s) := by
  unfold execAutoFfcStart
  try dsimp only
  repeat' first
    | (with_reducible first
        | assumption | apply OutKeeps.next | apply setThm_keeps | apply startFfc_keeps | apply Keeps.ite
        | apply OutKeeps.ite)
    | split
    | refine Keeps.upd ?_ rfl rfl rfl rfl rfl rfl rfl rfl rfl

theorem execFfcShutterTimeout_keeps {z s : State} (hz : Keeps z s) : OutKeeps z (execFfcShutterTimeout s) := by
  unfold execFfcShutterTimeout
  try dsimp only
  repeat' first
    | (with_reducible first
        | assumption | apply OutKeeps.next | apply endFfc_keeps | apply Keeps.ite | apply OutKeeps.ite)
    | split
    | refine Keeps.upd ?_ rfl rfl rfl rfl rfl rfl rfl rfl rfl

theorem execFfcSumDone_keeps {z s : State} (hz : Keeps z s) : OutKeeps z (execFfcSumDone s) := by
  unfold execFfcSumDone
  try dsimp only
  repeat' first
    | (with_reducible first
        | assumption | apply OutKeeps.next | apply endFfc_keeps | apply setThm_keeps | apply Keeps.ite
        | apply OutKeeps.ite)
    | split
    | refine Keeps.upd ?_ rfl rfl rfl rfl rfl rfl rfl rfl rfl

theorem execShutterStuck_keeps {z s : State} (hz : Keeps z s) : OutKeeps z (execShutterStuck s) := by
  unfold execShutterStuck
  try dsimp only
  repeat' first
    | (with_reducible first
        | assumption | apply OutKeeps.next | apply set_keeps | apply raiseFault_keeps | apply Keeps.ite
        | apply OutKeeps.ite)
    | split
    | refine Keeps.upd ?_ rfl rfl rfl rfl rfl rfl rfl rfl rfl

theorem putWord_keeps {z s : State} (lane header payload : Nat) (hz : Keeps z s) : Keeps z (putWord s lane header payload) :=
  (hz.send [.line lane (header * 2 ^ 32 + (scramble 32 (scrambler s lane) payload).2)]).upd rfl rfl rfl rfl rfl rfl rfl rfl rfl

theorem streamWord_keeps {z s : State} (header : Nat) (payload : Nat) (hz : Keeps z s) : Keeps z (streamWord s header payload) := by
  unfold streamWord
  try dsimp only
  repeat' first
    | (with_reducible first | assumption | apply putWord_keeps | apply Keeps.ite)
    | split
    | refine Keeps.upd ?_ rfl rfl rfl rfl rfl rfl rfl rfl rfl

theorem streamWords_keeps {z s : State} (l : List (Nat × Nat)) (hz : Keeps z s) : Keeps z (streamWords s l) := by
  unfold streamWords
  try dsimp only
  repeat' first
    | (with_reducible first | assumption | apply streamWord_keeps | apply Keeps.foldl)
    | (intro _; try dsimp only)
    | with_reducible apply Keeps.ite
    | split
    | refine Keeps.upd ?_ rfl rfl rfl rfl rfl rfl rfl rfl rfl

theorem noteSent_keeps {z s : State} (kind : Nat) (payload : List Nat) (hz : Keeps z s) : Keeps z (noteSent s kind payload) := by
  unfold noteSent
  try dsimp only
  repeat' first
    | (with_reducible first | assumption | apply Keeps.send | apply Keeps.ite)
    | split
    | refine Keeps.upd ?_ rfl rfl rfl rfl rfl rfl rfl rfl rfl

theorem sendWord_keeps {z s : State} (ctype : Nat) (value : Nat) (hz : Keeps z s) : Keeps z (sendWord s ctype value) := by
  unfold sendWord
  try dsimp only
  repeat' first
    | (with_reducible first | assumption | apply streamWord_keeps | apply noteSent_keeps | apply Keeps.ite)
    | split
    | refine Keeps.upd ?_ rfl rfl rfl rfl rfl rfl rfl rfl rfl

theorem sendMark_keeps {z s : State} (frame24 : Nat) (hz : Keeps z s) : Keeps z (sendMark s frame24) := by
  unfold sendMark
  try dsimp only
  repeat' first
    | (with_reducible first | assumption | apply streamWord_keeps | apply sendWord_keeps | apply Keeps.ite)
    | split
    | refine Keeps.upd ?_ rfl rfl rfl rfl rfl rfl rfl rfl rfl

theorem sendTrn_keeps {z s : State} (n : Nat) (hz : Keeps z s) : Keeps z (sendTrn s n) := by
  unfold sendTrn
  try dsimp only
  repeat' first
    | (with_reducible first
        | assumption | apply takeFree_keeps | apply putWord_keeps | apply noteSent_keeps | apply Keeps.foldl)
    | (intro _; try dsimp only)
    | (with_reducible first | refine Keeps.snd (by assumption) ?_ | refine Keeps.fst (by assumption) ?_ | apply Keeps.ite)
    | split
    | refine Keeps.upd ?_ rfl rfl rfl rfl rfl rfl rfl rfl rfl

theorem takeControl_keeps {z s : State} (header payload : Nat) (hz : Keeps z s) : Keeps z (takeControl s header payload).2 := by
  unfold takeControl
  dsimp only
  split
  · exact hz
  · split
    · exact hz
    · exact inc_keeps _ hz

theorem sendPacket_keeps {z s : State} (kind : Nat) (payload : List Nat) (hz : Keeps z s) :
    Keeps z (sendPacket s kind payload) :=
  (streamWords_keeps (packetWords s kind payload) (noteSent_keeps kind payload hz)).upd rfl rfl rfl rfl rfl rfl rfl rfl rfl

theorem toPrt_keeps {z s : State} (st : Nat) (hz : Keeps z s) : Keeps z (toPrt s st) := by
  unfold toPrt
  try dsimp only
  repeat' first
    | (with_reducible first | assumption | apply set_keeps | apply Keeps.ite)
    | split
    | refine Keeps.upd ?_ rfl rfl rfl rfl rfl rfl rfl rfl rfl

theorem leaveDoze_keeps {z s : State} (hz : Keeps z s) : Keeps z (leaveDoze s) := by
  unfold leaveDoze
  try dsimp only
  repeat' first
    | (with_reducible first | assumption | apply toPrt_keeps | apply sendTrn_keeps | apply Keeps.ite)
    | split
    | refine Keeps.upd ?_ rfl rfl rfl rfl rfl rfl rfl rfl rfl

theorem endSession_keeps {z s : State} (hz : Keeps z s) : Keeps z (endSession s) := by
  unfold endSession
  try dsimp only
  repeat' first
    | (with_reducible first | assumption | apply set_keeps | apply Keeps.ite)
    | split
    | refine Keeps.upd ?_ rfl rfl rfl rfl rfl rfl rfl rfl rfl

theorem startTraining_keeps {z s : State} (hz : Keeps z s) : Keeps z (startTraining s) := by
  unfold startTraining
  try dsimp only
  repeat' first
    | (with_reducible first | assumption | apply set_keeps | apply inc_keeps | apply endSession_keeps | apply Keeps.ite)
    | split
    | refine Keeps.upd ?_ rfl rfl rfl rfl rfl rfl rfl rfl rfl

theorem endRetrain_keeps {z s : State} (status : Nat) (result : Nat) (hz : Keeps z s) : Keeps z (endRetrain s status result) := by
  unfold endRetrain
  try dsimp only
  repeat' first
    | (with_reducible first | assumption | apply finishRunning_keeps | apply Keeps.ite)
    | split
    | refine Keeps.upd ?_ rfl rfl rfl rfl rfl rfl rfl rfl rfl

theorem failTraining_keeps {z s : State} (step : Nat) (hz : Keeps z s) : Keeps z (failTraining s step) := by
  unfold failTraining
  try dsimp only
  repeat' first
    | (with_reducible first
        | assumption | apply set_keeps | apply endSession_keeps | apply raiseFault_keeps | apply endRetrain_keeps
        | apply Keeps.ite)
    | split
    | refine Keeps.upd ?_ rfl rfl rfl rfl rfl rfl rfl rfl rfl

theorem linkLoss_keeps {z s : State} (hz : Keeps z s) : Keeps z (linkLoss s) := by
  unfold linkLoss
  try dsimp only
  repeat' first
    | (with_reducible first | assumption | apply inc_keeps | apply startTraining_keeps | apply Keeps.ite)
    | split
    | refine Keeps.upd ?_ rfl rfl rfl rfl rfl rfl rfl rfl rfl

theorem takePacket_keeps {z s : State} (tagOk : Bool) (seq : Nat) (hz : Keeps z s) : Keeps z (takePacket s tagOk seq).2 := by
  have k : ∀ x : PrtSt, ∀ t, Keeps z t → Keeps z { t with prt := x } :=
    fun x t h => h.upd rfl rfl rfl rfl rfl rfl rfl rfl rfl
  have kt := fun x => k x _ (inc_keeps F.LNK_PRT_CNT_TAG hz)
  unfold takePacket
  dsimp only
  split
  · exact hz
  · split
    · exact Keeps.ite (linkLoss_keeps (kt _)) (kt _)
    · split
      · exact inc_keeps _ hz
      · exact k _ _ hz

theorem heardPartner_keeps {z s : State} (hz : Keeps z s) : Keeps z (heardPartner s) := by
  unfold heardPartner
  try dsimp only
  repeat' first
    | (with_reducible first | assumption | apply set_keeps | apply noteRole_keeps | apply Keeps.ite)
    | split
    | refine Keeps.upd ?_ rfl rfl rfl rfl rfl rfl rfl rfl rfl

theorem sendMirror_keeps {z s : State} (hz : Keeps z s) : Keeps z (sendMirror s) := by
  unfold sendMirror
  try dsimp only
  repeat' first
    | (with_reducible first
        | assumption | apply takeFree_keeps | apply sendPacket_keeps | refine Keeps.snd (by assumption) ?_
        | refine Keeps.fst (by assumption) ?_ | apply Keeps.ite)
    | split
    | refine Keeps.upd ?_ rfl rfl rfl rfl rfl rfl rfl rfl rfl

theorem announce_keeps {z s : State} (x : SlotId) (hz : Keeps z s) : Keeps z (announce s x) := by
  unfold announce
  try dsimp only
  repeat' first
    | (with_reducible first | assumption | apply sendPacket_keeps | apply Keeps.ite)
    | split
    | refine Keeps.upd ?_ rfl rfl rfl rfl rfl rfl rfl rfl rfl

theorem rejoin_keeps {z s : State} (hz : Keeps z s) : Keeps z (rejoin s) := by
  unfold rejoin
  try dsimp only
  repeat' first
    | (with_reducible first | assumption | apply set_keeps | apply clearUnsure_keeps | apply Keeps.ite)
    | split
    | refine Keeps.upd ?_ rfl rfl rfl rfl rfl rfl rfl rfl rfl

theorem twinBoundary_keeps {z s : State} (hz : Keeps z s) : Keeps z (twinBoundary s) := by
  unfold twinBoundary
  try dsimp only
  repeat' first
    | (with_reducible first
        | assumption | apply set_keeps | apply crystalAlt_keeps | apply rejoin_keeps | apply leaveDoze_keeps
        | apply sendMirror_keeps | apply sendMark_keeps | apply noteRole_keeps | apply Keeps.ite)
    | split
    | refine Keeps.upd ?_ rfl rfl rfl rfl rfl rfl rfl rfl rfl

theorem twinSessionUp_keeps {z s : State} (partnerHolds : Bool) (hz : Keeps z s) : Keeps z (twinSessionUp s partnerHolds) := by
  unfold twinSessionUp
  try dsimp only
  repeat' first
    | (with_reducible first
        | assumption | apply set_keeps | apply noteRole_keeps | apply sendMirror_keeps | apply Keeps.ite)
    | split
    | refine Keeps.upd ?_ rfl rfl rfl rfl rfl rfl rfl rfl rfl

theorem setTwinMode_keeps {z s : State} (mode : Nat) (hz : Keeps z s) : Keeps z (setTwinMode s mode) := by
  unfold setTwinMode
  try dsimp only
  repeat' first
    | (with_reducible first
        | assumption | apply set_keeps | apply clearUnsure_keeps | apply noteRole_keeps | apply Keeps.ite)
    | split
    | refine Keeps.upd ?_ rfl rfl rfl rfl rfl rfl rfl rfl rfl

end Sys2Proof.Machine
end

