-- ==== Sys2Proof/Laws/KeepsScan.lean ====
section
/-! SUPPORT. What every operation of scanning, bridge frames and the incident recorder keeps (Safety.lean): one lemma each. -/

namespace Sys2Proof.Machine

theorem closeCell_keeps {z s : State} (x : Cell) (short : Bool) (hz : Keeps z s) : Keeps z (closeCell s x short) := by
  unfold closeCell
  try dsimp only
  repeat' first
    | (with_reducible first
        | assumption | apply updCell_keeps | apply shapeMissed_keeps | apply attachSlice_keeps | apply setSlice_keeps
        | apply Keeps.foldl)
    | (intro _; try dsimp only)
    | with_reducible apply Keeps.ite
    | split
    | refine Keeps.upd ?_ rfl rfl rfl rfl rfl rfl rfl rfl rfl

theorem endSlot_keeps {z s : State} (hz : Keeps z s) : Keeps z (endSlot s) := by
  unfold endSlot
  try dsimp only
  repeat' first
    | (with_reducible first | assumption | apply updCell_keeps | apply closeCell_keeps | apply Keeps.foldl)
    | (intro _; try dsimp only)
    | with_reducible apply Keeps.ite
    | split
    | refine Keeps.upd ?_ rfl rfl rfl rfl rfl rfl rfl rfl rfl

theorem openChannel_keeps {z s : State} (x : Shot) (e : Nat × Nat × Nat) (hz : Keeps z s) : Keeps z (openChannel x s e) := by
  unfold openChannel
  try dsimp only
  repeat' first
    | (with_reducible first
        | assumption | apply setChan_keeps | refine Keeps.snd (by assumption) ?_ | refine Keeps.fst (by assumption) ?_
        | apply Keeps.ite)
    | split
    | refine Keeps.upd ?_ rfl rfl rfl rfl rfl rfl rfl rfl rfl

theorem takeShot_keeps {z s : State} (x : Shot) (e : Nat × Nat × Nat) (hz : Keeps z s) : Keeps z (takeShot s x e) := by
  unfold takeShot
  try dsimp only
  repeat' first
    | (with_reducible first | assumption | apply updCell_keeps | apply Keeps.ite)
    | split
    | refine Keeps.upd ?_ rfl rfl rfl rfl rfl rfl rfl rfl rfl

theorem sliceShot_keeps {z s : State} (l : List (Nat × Nat × Nat)) (y : Slice) (hz : Keeps z s) : Keeps z (sliceShot l s y) := by
  unfold sliceShot
  try dsimp only
  repeat' first
    | (with_reducible first | assumption | apply setSlice_keeps | apply Keeps.ite)
    | split
    | refine Keeps.upd ?_ rfl rfl rfl rfl rfl rfl rfl rfl rfl

theorem openWindows_keeps {z s : State} (x : Shot) (hz : Keeps z s) : Keeps z (openWindows s x) := by
  unfold openWindows
  try dsimp only
  repeat' first
    | (with_reducible first
        | assumption | apply openChannel_keeps | apply sliceShot_keeps | apply takeShot_keeps | apply Keeps.foldl)
    | (intro _; try dsimp only)
    | with_reducible apply Keeps.ite
    | split
    | refine Keeps.upd ?_ rfl rfl rfl rfl rfl rfl rfl rfl rfl

theorem keepSeen_keeps {z s : State} (x : Shot) (seen : Nat) (hz : Keeps z s) : Keeps z (keepSeen s x seen) := by
  unfold keepSeen
  try dsimp only
  repeat' first
    | (with_reducible first | assumption | apply add_keeps | apply Keeps.ite)
    | split
    | refine Keeps.upd ?_ rfl rfl rfl rfl rfl rfl rfl rfl rfl

theorem noteShot_keeps {z s : State} (x : Shot) (hz : Keeps z s) : Keeps z (noteShot s x) := by
  unfold noteShot
  try dsimp only
  repeat' first
    | (with_reducible first | assumption | apply noteEdge_keeps | apply Keeps.ite)
    | split
    | refine Keeps.upd ?_ rfl rfl rfl rfl rfl rfl rfl rfl rfl

theorem preCharge_keeps {z s : State} (hz : Keeps z s) : Keeps z (preCharge s) := by
  unfold preCharge
  try dsimp only
  repeat' first
    | (with_reducible first | assumption | apply Keeps.ite)
    | split
    | refine Keeps.upd ?_ rfl rfl rfl rfl rfl rfl rfl rfl rfl

theorem driveMatrix_keeps {z s : State} (x : Shot) (hz : Keeps z s) : Keeps z (driveMatrix s x) := by
  unfold driveMatrix
  try dsimp only
  repeat' first
    | (with_reducible first | assumption | apply Keeps.ite)
    | split
    | refine Keeps.upd ?_ rfl rfl rfl rfl rfl rfl rfl rfl rfl

theorem fireShot_keeps {z s : State} (x : Shot) (pulses : List Nat) (hz : Keeps z s) : Keeps z (fireShot s x pulses) := by
  unfold fireShot
  try dsimp only
  repeat' first
    | (with_reducible first
        | assumption | apply inc_keeps | apply keepSeen_keeps | apply giveBack_keeps | apply driveMatrix_keeps
        | apply noteShot_keeps | apply setBank_keeps | apply updOwe_keeps | apply openWindows_keeps
        | apply checkRow_keeps | apply judgeCell_keeps | apply Keeps.ite)
    | split
    | refine Keeps.upd ?_ rfl rfl rfl rfl rfl rfl rfl rfl rfl

theorem fireCommitted_keeps {z s : State} (pulses : List Nat) (hz : Keeps z s) : Keeps z (fireCommitted s pulses) := by
  unfold fireCommitted
  try dsimp only
  repeat' first
    | (with_reducible first
        | assumption | apply openWindows_keeps | apply noteShot_keeps | apply fireShot_keeps | apply deferShot_keeps
        | apply uncharge_keeps | apply giveBack_keeps | apply Keeps.ite)
    | split
    | refine Keeps.upd ?_ rfl rfl rfl rfl rfl rfl rfl rfl rfl

theorem reportRefused_keeps {z s : State} (hz : Keeps z s) : Keeps z (reportRefused s) := by
  unfold reportRefused
  try dsimp only
  repeat' first
    | (with_reducible first
        | assumption | apply set_keeps | apply inc_keeps | apply badNotice_keeps | apply queueRecords_keeps
        | apply Keeps.foldl)
    | (intro _; try dsimp only)
    | with_reducible apply Keeps.ite
    | split
    | refine Keeps.upd ?_ rfl rfl rfl rfl rfl rfl rfl rfl rfl

theorem admitNext_keeps {z s : State} (hz : Keeps z s) : Keeps z (admitNext s) := by
  unfold admitNext
  try dsimp only
  repeat' first
    | (with_reducible first | assumption | apply announce_keeps | apply admitShot_keeps | apply Keeps.ite)
    | split
    | refine Keeps.upd ?_ rfl rfl rfl rfl rfl rfl rfl rfl rfl

theorem slotStart_keeps {z s : State} (pulses : List Nat) (hz : Keeps z s) : Keeps z (slotStart s pulses) := by
  unfold slotStart
  try dsimp only
  repeat' first
    | (with_reducible first
        | assumption | apply endSlot_keeps | apply rangesAtSlot_keeps | apply preCharge_keeps | apply shortfall_keeps
        | apply reportRefused_keeps | apply fireCommitted_keeps | apply admitNext_keeps | apply enforceCap_keeps
        | apply parkClusters_keeps | apply endSweep_keeps | apply commitNext_keeps | apply Keeps.ite)
    | split
    | refine Keeps.upd ?_ rfl rfl rfl rfl rfl rfl rfl rfl rfl

theorem execSlotStart_keeps {z s : State} (pulses : List Nat) (hz : Keeps z s) : OutKeeps z (execSlotStart pulses s) := by
  unfold execSlotStart
  try dsimp only
  repeat' first
    | (with_reducible first
        | assumption | apply OutKeeps.next | apply slotStart_keeps | apply Keeps.ite | apply OutKeeps.ite)
    | split
    | refine Keeps.upd ?_ rfl rfl rfl rfl rfl rfl rfl rfl rfl

theorem queueHeaders_keeps {z s : State} (hz : Keeps z s) : Keeps z (queueHeaders s) := by
  unfold queueHeaders
  try dsimp only
  repeat' first
    | (with_reducible first | assumption | apply setRing_keeps | apply Keeps.foldl)
    | (intro _; try dsimp only)
    | with_reducible apply Keeps.ite
    | split
    | refine Keeps.upd ?_ rfl rfl rfl rfl rfl rfl rfl rfl rfl

theorem storePeaks_keeps {z s : State} (hz : Keeps z s) : Keeps z (storePeaks s) := by
  unfold storePeaks
  try dsimp only
  repeat' first
    | (with_reducible first | assumption | apply set_keeps | apply Keeps.foldl)
    | (intro _; try dsimp only)
    | with_reducible apply Keeps.ite
    | split
    | refine Keeps.upd ?_ rfl rfl rfl rfl rfl rfl rfl rfl rfl

theorem wakeDue_keeps {z s : State} (hz : Keeps z s) : Keeps z (wakeDue s) := by
  unfold wakeDue
  try dsimp only
  repeat' first
    | (with_reducible first | assumption | apply set_keeps | apply Keeps.foldl)
    | (intro _; try dsimp only)
    | with_reducible apply Keeps.ite
    | split
    | refine Keeps.upd ?_ rfl rfl rfl rfl rfl rfl rfl rfl rfl

theorem switchProgram_keeps {z s : State} (hz : Keeps z s) : Keeps z (switchProgram s) := by
  unfold switchProgram
  try dsimp only
  repeat' first
    | (with_reducible first | assumption | apply set_keeps | apply Keeps.ite)
    | split
    | refine Keeps.upd ?_ rfl rfl rfl rfl rfl rfl rfl rfl rfl

theorem applyStaged_keeps {z s : State} (hz : Keeps z s) : Keeps z (applyStaged s) := by
  unfold applyStaged
  try dsimp only
  repeat' first
    | (with_reducible first
        | assumption | apply codeAtBoundary_keeps | apply groomsAtBoundary_keeps | apply spareSwitch_keeps
        | apply applyHeld_keeps | apply ditherAtBoundary_keeps | apply applyRefCfg_keeps | apply returnToRef_keeps
        | apply setThm_keeps | apply Keeps.ite)
    | split
    | refine Keeps.upd ?_ rfl rfl rfl rfl rfl rfl rfl rfl rfl

theorem noteNeed_keeps {z s : State} (hz : Keeps z s) : Keeps z (noteNeed s) := by
  unfold noteNeed
  try dsimp only
  repeat' first
    | (with_reducible first | assumption | apply Keeps.ite)
    | split
    | refine Keeps.upd ?_ rfl rfl rfl rfl rfl rfl rfl rfl rfl

theorem openFrame_keeps {z s : State} (hz : Keeps z s) : Keeps z (openFrame s) := by
  unfold openFrame
  try dsimp only
  repeat' first
    | (with_reducible first
        | assumption | apply set_keeps | apply add_keeps | apply emitterAtBoundary_keeps | apply switchProgram_keeps
        | apply applyStaged_keeps | apply noteNeed_keeps | apply queueHeaders_keeps | apply twinBoundary_keeps
        | apply storePeaks_keeps | apply recordFrame_keeps | apply wakeDue_keeps | apply Keeps.ite)
    | split
    | refine Keeps.upd ?_ rfl rfl rfl rfl rfl rfl rfl rfl rfl

theorem renumber_keeps {z s : State} (a : Nat) (b : Nat) (hz : Keeps z s) : Keeps z (renumber s a b) := by
  unfold renumber
  try dsimp only
  repeat' first
    | (with_reducible first | assumption | apply nextFrame_keeps | apply Keeps.ite)
    | split
    | refine Keeps.upd ?_ rfl rfl rfl rfl rfl rfl rfl rfl rfl

theorem closeFrame_keeps {z s : State} (hz : Keeps z s) : Keeps z (closeFrame s) := by
  unfold closeFrame
  try dsimp only
  repeat' first
    | (with_reducible first
        | assumption | apply closeCell_keeps | apply badNotice_keeps | apply queueRecords_keeps | apply Keeps.foldl)
    | (intro _; try dsimp only)
    | with_reducible apply Keeps.ite
    | split
    | refine Keeps.upd ?_ rfl rfl rfl rfl rfl rfl rfl rfl rfl

theorem dropFuture_keeps {z s : State} (hz : Keeps z s) : Keeps z (dropFuture s) := by
  unfold dropFuture
  try dsimp only
  repeat' first
    | (with_reducible first | assumption | apply freeSlot_keeps | apply Keeps.foldl)
    | (intro _; try dsimp only)
    | with_reducible apply Keeps.ite
    | split
    | refine Keeps.upd ?_ rfl rfl rfl rfl rfl rfl rfl rfl rfl

theorem unadmit_keeps {z s : State} (hz : Keeps z s) : Keeps z (unadmit s) := by
  unfold unadmit
  try dsimp only
  repeat' first
    | (with_reducible first | assumption | apply giveBack_keeps | apply Keeps.foldl)
    | (intro _; try dsimp only)
    | with_reducible apply Keeps.ite
    | split
    | refine Keeps.upd ?_ rfl rfl rfl rfl rfl rfl rfl rfl rfl

theorem releaseHalter_keeps {z s : State} (hz : Keeps z s) : Keeps z (releaseHalter s) := by
  unfold releaseHalter
  try dsimp only
  repeat' first
    | (with_reducible first | assumption | apply set_keeps | apply unadmit_keeps | apply noteRole_keeps | apply Keeps.ite)
    | split
    | refine Keeps.upd ?_ rfl rfl rfl rfl rfl rfl rfl rfl rfl

theorem applyWaiting_keeps {z s : State} (hz : Keeps z s) : Keeps z (applyWaiting s) := by
  unfold applyWaiting
  try dsimp only
  repeat' first
    | (with_reducible first
        | assumption | apply applyHeld_keeps | apply ditherAtBoundary_keeps | apply setThm_keeps
        | apply applyRefCfg_keeps | apply Keeps.ite)
    | split
    | refine Keeps.upd ?_ rfl rfl rfl rfl rfl rfl rfl rfl rfl

theorem leaveScan_keeps {z s : State} (hz : Keeps z s) : Keeps z (leaveScan s) := by
  unfold leaveScan
  try dsimp only
  repeat' first
    | (with_reducible first
        | assumption | apply set_keeps | apply banksEnabledNow_keeps | apply applyWaiting_keeps
        | apply releaseHalter_keeps | apply ballsLow_keeps | apply ebkCut_keeps | apply setMode_keeps
        | apply dropFuture_keeps | apply noteRole_keeps | apply clearUnsure_keeps | apply groomImpedance_keeps
        | apply Keeps.foldl)
    | (intro _; try dsimp only)
    | with_reducible apply Keeps.ite
    | split
    | refine Keeps.upd ?_ rfl rfl rfl rfl rfl rfl rfl rfl rfl

theorem endFrame_keeps {z s : State} (hz : Keeps z s) : Keeps z (endFrame s) := by
  unfold endFrame
  try dsimp only
  repeat' first
    | (with_reducible first
        | assumption | apply closeFrame_keeps | apply endSlot_keeps | apply frameCompare_keeps | apply Keeps.ite)
    | split
    | refine Keeps.upd ?_ rfl rfl rfl rfl rfl rfl rfl rfl rfl

theorem frameBoundary_keeps {z s : State} (hz : Keeps z s) : Keeps z (frameBoundary s) := by
  unfold frameBoundary
  try dsimp only
  repeat' first
    | (with_reducible first
        | assumption | apply endFrame_keeps | apply finishRunning_keeps | apply leaveScan_keeps | apply renumber_keeps
        | apply openFrame_keeps | apply Keeps.ite)
    | split
    | refine Keeps.upd ?_ rfl rfl rfl rfl rfl rfl rfl rfl rfl

theorem execFrameBoundary_keeps {z s : State} (hz : Keeps z s) : OutKeeps z (execFrameBoundary s) := by
  unfold execFrameBoundary
  try dsimp only
  repeat' first
    | (with_reducible first
        | assumption | apply OutKeeps.next | apply frameBoundary_keeps | apply Keeps.ite | apply OutKeeps.ite)
    | split
    | refine Keeps.upd ?_ rfl rfl rfl rfl rfl rfl rfl rfl rfl

theorem freshWindows_keeps {z s : State} (hz : Keeps z s) : Keeps z (freshWindows s) := by
  unfold freshWindows
  try dsimp only
  repeat' first
    | (with_reducible first | assumption | apply Keeps.ite)
    | split
    | refine Keeps.upd ?_ rfl rfl rfl rfl rfl rfl rfl rfl rfl

theorem freshLanes_keeps {z s : State} (hz : Keeps z s) : Keeps z (freshLanes s) := by
  unfold freshLanes
  try dsimp only
  repeat' first
    | (with_reducible first | assumption | apply Keeps.ite)
    | split
    | refine Keeps.upd ?_ rfl rfl rfl rfl rfl rfl rfl rfl rfl

theorem beginScan_keeps {z s : State} (k : Nat) (frame : Nat) (hz : Keeps z s) : Keeps z (beginScan s k frame) := by
  unfold beginScan
  try dsimp only
  repeat' first
    | (with_reducible first
        | assumption | apply set_keeps | apply freshLanes_keeps | apply setMode_keeps | apply startAt_keeps
        | apply freshWindows_keeps | apply initialRecharge_keeps | apply openFrame_keeps | apply lbtInvalid_keeps
        | apply Keeps.foldl)
    | (intro _; try dsimp only)
    | with_reducible apply Keeps.ite
    | split
    | refine Keeps.upd ?_ rfl rfl rfl rfl rfl rfl rfl rfl rfl

theorem execScanStart_keeps {z s : State} (port : Port) (tag : Nat) (hz : Keeps z s) : OutKeeps z (execScanStart port tag s) := by
  unfold execScanStart
  try dsimp only
  repeat' first
    | (with_reducible first
        | assumption | apply OutKeeps.next | apply replaceCmd_keeps | apply finishOk_keeps | apply beginScan_keeps
        | apply withCmd_keeps)
    | (intro _; try dsimp only)
    | (with_reducible first | apply Keeps.ite | apply OutKeeps.ite)
    | split
    | refine Keeps.upd ?_ rfl rfl rfl rfl rfl rfl rfl rfl rfl

theorem beginWaiting_keeps {z s : State} (frame : Nat) (hz : Keeps z s) : Keeps z (beginWaiting s frame) := by
  unfold beginWaiting
  try dsimp only
  repeat' first
    | (with_reducible first | assumption | apply finishRunning_keeps | apply beginScan_keeps | apply Keeps.ite)
    | split
    | refine Keeps.upd ?_ rfl rfl rfl rfl rfl rfl rfl rfl rfl

theorem execScanStop_keeps {z s : State} (port : Port) (tag : Nat) (hz : Keeps z s) : OutKeeps z (execScanStop port tag s) := by
  unfold execScanStop
  try dsimp only
  repeat' first
    | (with_reducible first | assumption | apply OutKeeps.next | apply withCmd_keeps | apply begin__keeps)
    | (intro _; try dsimp only)
    | (with_reducible first | apply Keeps.ite | apply OutKeeps.ite)
    | split
    | refine Keeps.upd ?_ rfl rfl rfl rfl rfl rfl rfl rfl rfl

theorem execScanSwitch_keeps {z s : State} (port : Port) (tag : Nat) (hz : Keeps z s) : OutKeeps z (execScanSwitch port tag s) := by
  unfold execScanSwitch
  try dsimp only
  repeat' first
    | (with_reducible first
        | assumption | apply OutKeeps.next | apply set_keeps | apply withCmd_keeps | apply begin__keeps)
    | (intro _; try dsimp only)
    | (with_reducible first | apply Keeps.ite | apply OutKeeps.ite)
    | split
    | refine Keeps.upd ?_ rfl rfl rfl rfl rfl rfl rfl rfl rfl

theorem popWords_keeps {z s : State} (lane slot n : Nat) (hz : Keeps z s) : Keeps z (popWords lane slot n s).2 := by
  induction n generalizing s with
  | zero => exact hz
  | succ n ih =>
    simp only [popWords]
    split
    · exact hz
    · exact ih ((setChan_keeps _ hz).upd rfl rfl rfl rfl rfl rfl rfl rfl rfl)

theorem updateBins_keeps {z s : State} (e : Late) (hz : Keeps z s) : Keeps z (updateBins s e) := by
  unfold updateBins
  try dsimp only
  repeat' first
    | (with_reducible first | assumption | apply touchStall_keeps | apply updCell_keeps | apply Keeps.ite)
    | split
    | refine Keeps.upd ?_ rfl rfl rfl rfl rfl rfl rfl rfl rfl

theorem enterReady_keeps {z s : State} (hz : Keeps z s) : Keeps z (enterReady s) := by
  unfold enterReady
  try dsimp only
  repeat' first
    | (with_reducible first | assumption | apply updateBins_keeps | apply Keeps.foldl)
    | (intro _; try dsimp only)
    | with_reducible apply Keeps.ite
    | split
    | refine Keeps.upd ?_ rfl rfl rfl rfl rfl rfl rfl rfl rfl

theorem placeEvent_keeps {z s : State} (slot : Nat) (e : Nat × Nat) (hz : Keeps z s) : Keeps z (placeEvent slot s e) := by
  unfold placeEvent
  try dsimp only
  repeat' first
    | (with_reducible first
        | assumption | apply inc_keeps | apply recordRaw_keeps | apply updateBins_keeps | apply Keeps.ite)
    | split
    | refine Keeps.upd ?_ rfl rfl rfl rfl rfl rfl rfl rfl rfl

theorem noteAccepted_keeps {z s : State} (lane : Nat) (slot : Nat) (hz : Keeps z s) : Keeps z (noteAccepted s lane slot) := by
  unfold noteAccepted
  try dsimp only
  repeat' first
    | (with_reducible first | assumption | apply Keeps.ite)
    | split
    | refine Keeps.upd ?_ rfl rfl rfl rfl rfl rfl rfl rfl rfl

theorem laneFailing_keeps {z s : State} (lane : Nat) (hz : Keeps z s) : Keeps z (laneFailing s lane) := by
  unfold laneFailing
  try dsimp only
  repeat' first
    | (with_reducible first | assumption | apply withdrawCluster_keeps | apply raiseF3_keeps | apply Keeps.ite)
    | split
    | refine Keeps.upd ?_ rfl rfl rfl rfl rfl rfl rfl rfl rfl

theorem discardFrame_keeps {z s : State} (lane : Nat) (hz : Keeps z s) : Keeps z (discardFrame s lane) := by
  unfold discardFrame
  try dsimp only
  repeat' first
    | (with_reducible first | assumption | apply laneFailing_keeps | apply Keeps.ite)
    | split
    | refine Keeps.upd ?_ rfl rfl rfl rfl rfl rfl rfl rfl rfl

theorem execBridgeFrame_keeps {z s : State} (lane : Fin 18) (ok : Bool) (slot : Nat) (words : Fin 9) (corrected : Nat)
    (hz : Keeps z s) : OutKeeps z (execBridgeFrame lane ok slot words corrected s) := by
  unfold execBridgeFrame
  dsimp only
  have k := add_keeps F.YRD_ECC_CORR corrected hz
  generalize s.add F.YRD_ECC_CORR corrected = t at k
  refine .ite (.next hz) (.ite (.next (discardFrame_keeps _ (Keeps.ite (popWords_keeps _ _ _ k) k))) (.ite ?_ (.next k)))
  have k2 := popWords_keeps lane.val slot words.val k
  generalize popWords _ _ _ _ = p at k2
  obtain ⟨l, u⟩ := p
  exact .next (noteAccepted_keeps _ _ (Keeps.foldl _ _ k2 fun _ _ h => placeEvent_keeps _ _ h))

theorem reserveSlice_keeps {z s : State} (c : Cell) (tp : Nat) (hz : Keeps z s) : Keeps z (reserveSlice s c tp) := by
  unfold reserveSlice
  try dsimp only
  repeat' first
    | (with_reducible first | assumption | apply set_keeps | apply inc_keeps | apply setSlice_keeps | apply Keeps.ite)
    | split
    | refine Keeps.upd ?_ rfl rfl rfl rfl rfl rfl rfl rfl rfl

theorem noteMeasured_keeps {z s : State} (c : Cell) (l : List Return) (hz : Keeps z s) : Keeps z (noteMeasured s c l) := by
  unfold noteMeasured
  try dsimp only
  repeat' first
    | (with_reducible first | assumption | apply set_keeps | apply Keeps.ite)
    | split
    | refine Keeps.upd ?_ rfl rfl rfl rfl rfl rfl rfl rfl rfl

theorem finishCell_keeps {z s : State} (c0 : Cell) (hz : Keeps z s) : Keeps z (finishCell s c0) := by
  unfold finishCell
  try dsimp only
  repeat' first
    | (with_reducible first
        | assumption | apply lookMap_keeps | apply notify_keeps | apply noteMeasured_keeps | apply queueRecords_keeps
        | apply reserveSlice_keeps | refine Keeps.snd (by assumption) ?_ | refine Keeps.fst (by assumption) ?_
        | apply Keeps.ite)
    | split
    | refine Keeps.upd ?_ rfl rfl rfl rfl rfl rfl rfl rfl rfl

theorem execDetectionDone_keeps {z s : State} (dir : Nat) (corrected : Nat) (hz : Keeps z s) : OutKeeps z (execDetectionDone dir corrected s) := by
  unfold execDetectionDone
  try dsimp only
  repeat' first
    | (with_reducible first
        | assumption | apply OutKeeps.next | apply add_keeps | apply finishCell_keeps | apply Keeps.ite
        | apply OutKeeps.ite)
    | split
    | refine Keeps.upd ?_ rfl rfl rfl rfl rfl rfl rfl rfl rfl

theorem loseStall_keeps {z s : State} (x : Stall) (hz : Keeps z s) : Keeps z (loseStall s x) := by
  have k := retireStall_keeps x hz
  unfold loseStall
  generalize retireStall s x = p at k
  obtain ⟨t, l⟩ := p
  exact Keeps.foldl _ _ k fun _ _ h => badNotice_keeps _ h

theorem execFarReadFail_keeps {z s : State} (window : Fin 64) (hz : Keeps z s) : OutKeeps z (execFarReadFail window s) := by
  unfold execFarReadFail
  try dsimp only
  repeat' first
    | (with_reducible first
        | assumption | apply OutKeeps.next | apply set_keeps | apply raiseFault_keeps | apply enterReady_keeps
        | apply loseStall_keeps | apply divert_keeps | apply Keeps.foldl)
    | (intro _; try dsimp only)
    | (with_reducible first | apply Keeps.ite | apply OutKeeps.ite)
    | split
    | refine Keeps.upd ?_ rfl rfl rfl rfl rfl rfl rfl rfl rfl

theorem execUncorrectableError_keeps {z s : State} (stall : Nat) (hz : Keeps z s) : OutKeeps z (execUncorrectableError stall s) := by
  unfold execUncorrectableError
  try dsimp only
  repeat' first
    | (with_reducible first
        | assumption | apply OutKeeps.next | apply enterReady_keeps | apply loseStall_keeps | apply Keeps.ite
        | apply OutKeeps.ite)
    | split
    | refine Keeps.upd ?_ rfl rfl rfl rfl rfl rfl rfl rfl rfl

theorem execAcqConfig_keeps {z s : State} (port : Port) (tag : Nat) (hz : Keeps z s) : OutKeeps z (execAcqConfig port tag s) := by
  unfold execAcqConfig
  try dsimp only
  repeat' first
    | (with_reducible first
        | assumption | apply OutKeeps.next | apply set_keeps | apply finishOk_keeps | apply withCmd_keeps)
    | (intro _; try dsimp only)
    | (with_reducible first | apply Keeps.ite | apply OutKeeps.ite)
    | split
    | refine Keeps.upd ?_ rfl rfl rfl rfl rfl rfl rfl rfl rfl

theorem placeRings_keeps {z s u : State} {c : AcqCfg} (e : placeRings s c = some u) (hz : Keeps z s) : Keeps z u := by
  unfold placeRings at e
  obtain ⟨⟨a, t⟩, e1, e⟩ := Option.bind_eq_some_iff.mp e
  obtain ⟨⟨b, v⟩, e2, e⟩ := Option.bind_eq_some_iff.mp e
  simp only [Option.map_eq_some_iff] at e
  obtain ⟨⟨d, w⟩, e3, e⟩ := e
  cases e
  exact (placeOwned_keeps e3 (placeOwned_keeps e2 (placeOwned_keeps e1 hz))).upd rfl rfl rfl rfl rfl rfl rfl rfl rfl

theorem execAcqArm_keeps {z s : State} (port : Port) (tag : Nat) (hz : Keeps z s) : OutKeeps z (execAcqArm port tag s) := by
  unfold execAcqArm
  refine withCmd_keeps hz fun c => ?_
  split
  · exact refuse_keeps _ _ _ hz
  · rename_i t e
    obtain ⟨_, _, e⟩ := Option.bind_eq_some_iff.mp e
    exact finishOk_keeps _ _ (Keeps.upd (set_keeps F.ACQ_STATUS_STATE Rec.armed (placeRings_keeps e hz))
      rfl rfl rfl rfl rfl rfl rfl rfl rfl)

theorem writeStall_keeps {z s : State} (n : Nat) (seq : Nat) (sec : Nat) (index : Nat) (next : Nat) (data : List Byte) (hz : Keeps z s) : Keeps z (writeStall s n seq sec index next data) := by
  unfold writeStall
  try dsimp only
  repeat' first
    | (with_reducible first | assumption | apply sendMem_keeps | apply Keeps.ite)
    | split
    | refine Keeps.upd ?_ rfl rfl rfl rfl rfl rfl rfl rfl rfl

theorem writeSection_keeps {z s : State} (seq sec : Nat) (l : List Nat) (i : Nat) (b : List Byte) (hz : Keeps z s) :
    Keeps z (writeSection seq sec l i b s) := by
  induction l generalizing s i b with
  | nil => exact hz
  | cons n r ih => exact ih _ _ (writeStall_keeps _ _ _ _ _ _ hz)

theorem closeRecording_keeps {z s : State} (trunc disarmed : Bool) (hz : Keeps z s) :
    Keeps z (closeRecording s trunc disarmed) := by
  unfold closeRecording
  split
  · rename_i r c _ _
    dsimp only
    refine Keeps.upd ?_ rfl rfl rfl rfl rfl rfl rfl rfl rfl
    suffices h : ∀ t, Keeps z t → Keeps z (match r.header with
        | some n =>
          if trunc then t.set F.ACQ_REC_LOC_VALID 0
          else
            (((writeStall t n r.seq 0 0 0 (recHeader t c r trunc disarmed)).set F.ACQ_REC_LOC_VALID 1).set
              F.ACQ_REC_LOC_OFFSET (bits (stallLoc (writeStall t n r.seq 0 0 0 (recHeader t c r trunc disarmed)) n) 6 25)).set
              F.ACQ_REC_LOC_WINDOW (stallLoc (writeStall t n r.seq 0 0 0 (recHeader t c r trunc disarmed)) n % 64)
        | none => t.set F.ACQ_REC_LOC_VALID 0) by
      have k3 := fun u (k : Keeps z u) => set_keeps F.ACQ_STATUS_STATE Rec.rearming (inc_keeps F.ACQ_CNT_REC
        (set_keeps F.ACQ_EVENT_CLOSED 1 k))
      refine Keeps.ite (inc_keeps _ (k3 _ (h _ ?_))) (k3 _ (h _ ?_))
      all_goals
        refine Keeps.ite hz (Keeps.foldl _ _ hz fun t k h => ?_)
        split
        · exact writeSection_keeps _ _ _ _ _ h
        · exact h
    intro t k
    split
    · exact Keeps.ite (set_keeps _ _ k) (set_keeps _ _ (set_keeps _ _ (set_keeps _ _ (writeStall_keeps _ _ _ _ _ _ k))))
    · exact set_keeps _ _ k
  · exact hz

theorem stopSections_keeps {z s : State} (hz : Keeps z s) : Keeps z (stopSections s) := by
  unfold stopSections
  try dsimp only
  repeat' first
    | (with_reducible first | assumption | apply Keeps.ite)
    | split
    | refine Keeps.upd ?_ rfl rfl rfl rfl rfl rfl rfl rfl rfl

theorem disarm_keeps {z s : State} (hz : Keeps z s) : Keeps z (disarm s) := by
  unfold disarm
  try dsimp only
  repeat' first
    | (with_reducible first | assumption | apply set_keeps | apply dropStalls_keeps | apply Keeps.foldl)
    | (intro _; try dsimp only)
    | with_reducible apply Keeps.ite
    | split
    | refine Keeps.upd ?_ rfl rfl rfl rfl rfl rfl rfl rfl rfl

theorem endDisarm_keeps {z s : State} (hz : Keeps z s) : Keeps z (endDisarm s) := by
  unfold endDisarm
  try dsimp only
  repeat' first
    | (with_reducible first | assumption | apply finishOk_keeps | apply disarm_keeps | apply Keeps.foldl)
    | (intro _; try dsimp only)
    | with_reducible apply Keeps.ite
    | split
    | refine Keeps.upd ?_ rfl rfl rfl rfl rfl rfl rfl rfl rfl

theorem truncRecording_keeps {z s : State} (hz : Keeps z s) : Keeps z (truncRecording s) := by
  unfold truncRecording
  try dsimp only
  repeat' first
    | (with_reducible first
        | assumption | apply endDisarm_keeps | apply closeRecording_keeps | apply stopSections_keeps | apply Keeps.ite)
    | split
    | refine Keeps.upd ?_ rfl rfl rfl rfl rfl rfl rfl rfl rfl

theorem execAcqDisarm_keeps {z s : State} (port : Port) (tag : Nat) (hz : Keeps z s) : OutKeeps z (execAcqDisarm port tag s) := by
  unfold execAcqDisarm
  try dsimp only
  repeat' first
    | (with_reducible first
        | assumption | apply OutKeeps.next | apply set_keeps | apply finishOk_keeps | apply disarm_keeps
        | apply stopSections_keeps | apply replaceCmd_keeps | apply withCmd_keeps)
    | (intro _; try dsimp only)
    | (with_reducible first | apply Keeps.ite | apply OutKeeps.ite)
    | split
    | refine Keeps.upd ?_ rfl rfl rfl rfl rfl rfl rfl rfl rfl

theorem frameAt_keeps {z s : State} (at_ : Nat) (hz : Keeps z s) : Keeps z (frameAt s at_).2 := by
  unfold frameAt
  split
  · exact hz
  · exact takeFree_keeps _ hz

theorem acceptTriggers_keeps {z s : State} (c : AcqCfg) (l : List (Nat × Nat)) (hz : Keeps z s) :
    Keeps z (acceptTriggers s c l) := by
  unfold acceptTriggers
  extract_lets r0 at_
  have k := takeFar_keeps 1 (frameAt_keeps at_ hz)
  split
  rename_i f s1 e1
  rw [e1] at k
  dsimp only at k ⊢
  generalize takeFar 1 s1 = p at k
  obtain ⟨head, t⟩ := p
  dsimp only at k ⊢
  refine set_keeps _ _ (set_keeps _ _ (set_keeps _ _ (set_keeps _ _ (set_keeps _ _ ?_))))
  exact Keeps.foldl _ _ (k.upd rfl rfl rfl rfl rfl rfl rfl rfl rfl) fun _ _ h => capture_keeps _ _ h

theorem sendTrigger_keeps {z s : State} (c : AcqCfg) (mask date delay : Nat) (hz : Keeps z s) :
    Keeps z (sendTrigger s c mask date delay) := by
  unfold sendTrigger
  dsimp only
  have k : Keeps z (if mask &&& c.tbSend = 0 then s else if busOn s && delay ≤ 65520 then
      sendBus s Bus.trigger (mask + 2 ^ 8 * delay) else s.inc F.ACQ_LOG_TB_DROP) :=
    Keeps.ite hz (Keeps.ite (sendBus_keeps _ _ hz) (inc_keeps _ hz))
  generalize (if mask &&& c.tbSend = 0 then s else if busOn s && delay ≤ 65520 then
      sendBus s Bus.trigger (mask + 2 ^ 8 * delay) else s.inc F.ACQ_LOG_TB_DROP) = t at k ⊢
  exact Keeps.ite ((k.send [.pulse 0]).upd rfl rfl rfl rfl rfl rfl rfl rfl rfl) k

theorem missTriggers_keeps {z s : State} (l : List (Nat × Nat)) (hz : Keeps z s) : Keeps z (missTriggers s l) := by
  unfold missTriggers
  try dsimp only
  repeat' first
    | (with_reducible first | assumption | apply set_keeps | apply add_keeps | apply Keeps.foldl)
    | (intro _; try dsimp only)
    | with_reducible apply Keeps.ite
    | split
    | refine Keeps.upd ?_ rfl rfl rfl rfl rfl rfl rfl rfl rfl

theorem joinTriggers_keeps {z s : State} (c : AcqCfg) (r : Recording) (l : List (Nat × Nat)) (delay : Nat) (hz : Keeps z s) : Keeps z (joinTriggers s c r l delay) := by
  unfold joinTriggers
  try dsimp only
  repeat' first
    | (with_reducible first | assumption | apply set_keeps | apply sendTrigger_keeps | apply Keeps.ite)
    | split
    | refine Keeps.upd ?_ rfl rfl rfl rfl rfl rfl rfl rfl rfl

theorem execTriggerSample_keeps {z s : State} (delay : Nat) (hz : Keeps z s) : OutKeeps z (execTriggerSample delay s) := by
  unfold execTriggerSample
  try dsimp only
  repeat' first
    | (with_reducible first
        | assumption | apply OutKeeps.next | apply sendTrigger_keeps | apply acceptTriggers_keeps
        | apply joinTriggers_keeps | apply missTriggers_keeps | apply Keeps.foldl)
    | (intro _; try dsimp only)
    | (with_reducible first | apply Keeps.ite | apply OutKeeps.ite)
    | split
    | refine Keeps.upd ?_ rfl rfl rfl rfl rfl rfl rfl rfl rfl

theorem execTrigInEdge_keeps {z s : State} (ago : Nat) (hz : Keeps z s) : OutKeeps z (execTrigInEdge ago s) := by
  unfold execTrigInEdge
  try dsimp only
  repeat' first
    | (with_reducible first
        | assumption | apply OutKeeps.next | apply triggerAt_keeps | apply Keeps.ite | apply OutKeeps.ite)
    | split
    | refine Keeps.upd ?_ rfl rfl rfl rfl rfl rfl rfl rfl rfl

theorem execTrigger_keeps {z s : State} (frame : BitVec 48) (steps : Nat) (ago : Nat) (hz : Keeps z s) : OutKeeps z (execTrigger frame steps ago s) := by
  unfold execTrigger
  try dsimp only
  repeat' first
    | (with_reducible first
        | assumption | apply OutKeeps.next | apply trigger_keeps | apply triggerAt_keeps | apply noteEdge_keeps
        | apply Keeps.ite | apply OutKeeps.ite)
    | split
    | refine Keeps.upd ?_ rfl rfl rfl rfl rfl rfl rfl rfl rfl

theorem execAcqTrigger_keeps {z s : State} (port : Port) (tag : Nat) (hz : Keeps z s) : OutKeeps z (execAcqTrigger port tag s) := by
  unfold execAcqTrigger
  try dsimp only
  repeat' first
    | (with_reducible first
        | assumption | apply OutKeeps.next | apply finishOk_keeps | apply trigger_keeps | apply withCmd_keeps)
    | (intro _; try dsimp only)
    | (with_reducible first | apply Keeps.ite | apply OutKeeps.ite)
    | split
    | refine Keeps.upd ?_ rfl rfl rfl rfl rfl rfl rfl rfl rfl

theorem execAcqReadLog_keeps {z s : State} (port : Port) (tag : Nat) (hz : Keeps z s) : OutKeeps z (execAcqReadLog port tag s) := by
  unfold execAcqReadLog
  try dsimp only
  repeat' first
    | (with_reducible first
        | assumption | apply OutKeeps.next | apply set_keeps | apply finishOut_keeps | apply Keeps.foldl
        | apply withCmd_keeps)
    | (intro _; try dsimp only)
    | (with_reducible first | apply Keeps.ite | apply OutKeeps.ite)
    | split
    | refine Keeps.upd ?_ rfl rfl rfl rfl rfl rfl rfl rfl rfl

theorem endCapture_keeps {z s : State} (hz : Keeps z s) : Keeps z (endCapture s) := by
  unfold endCapture
  try dsimp only
  repeat' first
    | (with_reducible first | assumption | apply set_keeps | apply Keeps.ite)
    | split
    | refine Keeps.upd ?_ rfl rfl rfl rfl rfl rfl rfl rfl rfl

theorem stopOne_keeps {z s : State} (k : Nat) (ovf : Bool) (hz : Keeps z s) : Keeps z (stopOne s k ovf) := by
  unfold stopOne
  try dsimp only
  repeat' first
    | (with_reducible first | assumption | apply set_keeps | apply endCapture_keeps | apply Keeps.ite)
    | split
    | refine Keeps.upd ?_ rfl rfl rfl rfl rfl rfl rfl rfl rfl

theorem execCaptureEnd_keeps {z s : State} (sec : Fin 3) (hz : Keeps z s) : OutKeeps z (execCaptureEnd sec s) := by
  unfold execCaptureEnd
  try dsimp only
  repeat' first
    | (with_reducible first
        | assumption | apply OutKeeps.next | apply stopOne_keeps | apply Keeps.ite | apply OutKeeps.ite)
    | split
    | refine Keeps.upd ?_ rfl rfl rfl rfl rfl rfl rfl rfl rfl

theorem execRecordingOverrun_keeps {z s : State} (sec : Fin 3) (hz : Keeps z s) : OutKeeps z (execRecordingOverrun sec s) := by
  unfold execRecordingOverrun
  try dsimp only
  repeat' first
    | (with_reducible first
        | assumption | apply OutKeeps.next | apply stopOne_keeps | apply Keeps.ite | apply OutKeeps.ite)
    | split
    | refine Keeps.upd ?_ rfl rfl rfl rfl rfl rfl rfl rfl rfl

theorem execRearmEnd_keeps {z s : State} (hz : Keeps z s) : OutKeeps z (execRearmEnd s) := by
  unfold execRearmEnd
  try dsimp only
  repeat' first
    | (with_reducible first | assumption | apply OutKeeps.next | apply set_keeps | apply Keeps.ite | apply OutKeeps.ite)
    | split
    | refine Keeps.upd ?_ rfl rfl rfl rfl rfl rfl rfl rfl rfl

theorem execTrigbusMeasure_keeps {z s : State} (port : Port) (tag : Nat) (hz : Keeps z s) : OutKeeps z (execTrigbusMeasure port tag s) := by
  unfold execTrigbusMeasure
  try dsimp only
  repeat' first
    | (with_reducible first
        | assumption | apply OutKeeps.next | apply set_keeps | apply sendBus_keeps | apply Keeps.foldl
        | apply withCmd_keeps | apply begin__keeps)
    | (intro _; try dsimp only)
    | (with_reducible first | apply Keeps.ite | apply OutKeeps.ite)
    | split
    | refine Keeps.upd ?_ rfl rfl rfl rfl rfl rfl rfl rfl rfl

theorem execMeasure_keeps {z s : State} (hz : Keeps z s) : OutKeeps z (execMeasure s) := by
  unfold execMeasure
  try dsimp only
  repeat' first
    | (with_reducible first
        | assumption | apply OutKeeps.next | apply sendBus_keeps | apply Keeps.ite | apply OutKeeps.ite)
    | split
    | refine Keeps.upd ?_ rfl rfl rfl rfl rfl rfl rfl rfl rfl

theorem execMeasureReply_keeps {z s : State} (frame : BitVec 48) (roundTrip : Nat) (hz : Keeps z s) : OutKeeps z (execMeasureReply frame roundTrip s) := by
  unfold execMeasureReply
  try dsimp only
  repeat' first
    | (with_reducible first | assumption | apply OutKeeps.next | apply set_keeps | apply Keeps.ite | apply OutKeeps.ite)
    | split
    | refine Keeps.upd ?_ rfl rfl rfl rfl rfl rfl rfl rfl rfl

theorem execTrigbusMeasureDone_keeps {z s : State} (hz : Keeps z s) : OutKeeps z (execTrigbusMeasureDone s) := by
  unfold execTrigbusMeasureDone
  try dsimp only
  repeat' first
    | (with_reducible first
        | assumption | apply OutKeeps.next | apply finishRunning_keeps | apply Keeps.ite | apply OutKeeps.ite)
    | split
    | refine Keeps.upd ?_ rfl rfl rfl rfl rfl rfl rfl rfl rfl

end Sys2Proof.Machine
end

