-- ==== Sys2Proof/Laws/KeepsLinks.lean ====
section
/-! SUPPORT. What every operation of redundancy, the partner link, PCI Express and the clocks keeps (Safety.lean): one lemma each. -/

namespace Sys2Proof.Machine

theorem takeAnnounce_keeps {z s : State} (x : SlotId) (entry vlast : Nat) (late : Bool) (hz : Keeps z s) :
    Keeps z (takeAnnounce s x entry vlast late) := by
  unfold takeAnnounce
  split
  · exact hz
  · have k : ∀ x : SchSt, Keeps z { s with sch := x } := fun x => hz.upd rfl rfl rfl rfl rfl rfl rfl rfl rfl
    have k2 := fun y e f g => updOwe_keeps g e f (noteLast_keeps entry x.at_ (k y))
    exact Keeps.ite (inc_keeps _ (k2 _ _ _ _)) (placeCells_keeps _ _ (enterLook_keeps _ (wakeClusters_keeps _ (k2 _ _ _ _))))

theorem execAnnounce_keeps {z s : State} (tag : BitVec 128) (seq frame slot vlast entry : Nat)
    (hz : Keeps z s) : OutKeeps z (execAnnounce tag seq frame slot vlast entry s) := by
  have k := takePacket_keeps (tagVerifies s 0x01 seq [frame, slot % 2 ^ 20 + 2 ^ 20 * vlast, entry] tag) seq hz
  unfold execAnnounce
  generalize takePacket s _ seq = p at k
  obtain ⟨ok, t⟩ := p
  dsimp only at k ⊢
  have k2 := heardPartner_keeps k
  refine .ite (.next k) (.ite (.next k2) ?_)
  split
  · exact .next k2
  · exact .ite (.next k2) (.next (takeAnnounce_keeps _ _ _ _ k2))

theorem takeSeed_keeps {z s : State} (seed : Nat) (hz : Keeps z s) : Keeps z (takeSeed s seed) := by
  unfold takeSeed
  try dsimp only
  repeat' first
    | (with_reducible first | assumption | apply set_keeps | apply holdField_keeps | apply Keeps.ite)
    | split
    | refine Keeps.upd ?_ rfl rfl rfl rfl rfl rfl rfl rfl rfl

theorem takeSkew_keeps {z s : State} (mark24 : Nat) (dly : Nat) (hz : Keeps z s) : Keeps z (takeSkew s mark24 dly) := by
  unfold takeSkew
  try dsimp only
  repeat' first
    | (with_reducible first | assumption | apply setInt_keeps | apply enterAlt_keeps | apply Keeps.ite)
    | split
    | refine Keeps.upd ?_ rfl rfl rfl rfl rfl rfl rfl rfl rfl

theorem takeMirror_keeps {z s : State} (schema side : Nat) (all : Bool) (hash seed frame calVer mark24 dly : Nat)
    (hz : Keeps z s) : Keeps z (takeMirror s schema side all hash seed frame calVer mark24 dly) := by
  have k := put_keeps F.RED_STATUS_CAL_DIFF (calVer != s.get F.CAL_VERSION_WORKING) (set_keeps F.RED_CAL_VER_PARTNER calVer
    (set_keeps F.RED_SCHEMA_PARTNER schema (set_keeps F.RED_PHASH hash hz)))
  unfold takeMirror
  dsimp only
  generalize State.put _ F.RED_STATUS_CAL_DIFF _ = t at k ⊢
  have k2 := takeSkew_keeps mark24 dly (takeSeed_keeps seed (k.red { t.red with partnerAll := all }))
  generalize takeSkew _ mark24 dly = v at k2 ⊢
  have k3 : ∀ a b : RedSt, ∀ c, Keeps z (if mirrorCause v schema side hash != 0 then
      { enterAlt v c with red := a } else { v with red := b }) :=
    fun a b c => Keeps.ite ((enterAlt_keeps c k2).red a) (k2.red b)
  have k4 := k3 { (enterAlt v (mirrorCause v schema side hash)).red with matched := 0, joinFrom := none }
    { v.red with matched := v.red.matched + 1, joinFrom :=
      if 2 ≤ v.red.matched + 1 && v.red.joinFrom.isNone then some (v.sch.abs + v.sch.next) else v.red.joinFrom }
    (mirrorCause v schema side hash)
  exact Keeps.ite (k4.red _) k4

theorem execMirror_keeps {z s : State} (tag : BitVec 128) (seq schema side : Nat) (all : Bool) (hash seed frame calVer mark24 dly : Nat)
    (hz : Keeps z s) : OutKeeps z (execMirror tag seq schema side all hash seed frame calVer mark24 dly s) := by
  have k := takePacket_keeps (tagVerifies s 0x02 seq (mirrorWords schema side all hash seed frame calVer mark24 dly) tag) seq hz
  unfold execMirror
  generalize takePacket s _ seq = p at k
  obtain ⟨ok, t⟩ := p
  dsimp only at k ⊢
  have k2 := heardPartner_keeps k
  exact .ite (.next k) (.ite (.next (takeMirror_keeps _ _ _ _ _ _ _ _ _ k2)) (.next k2))

theorem execKeepalive_keeps {z s : State} (hz : Keeps z s) : OutKeeps z (execKeepalive s) := by
  unfold execKeepalive
  try dsimp only
  repeat' first
    | (with_reducible first
        | assumption | apply OutKeeps.next | apply sendPacket_keeps | apply Keeps.ite | apply OutKeeps.ite)
    | split
    | refine Keeps.upd ?_ rfl rfl rfl rfl rfl rfl rfl rfl rfl

theorem execKeepaliveAccepted_keeps {z s : State} (tag : BitVec 128) (seq : Nat)
    (hz : Keeps z s) : OutKeeps z (execKeepaliveAccepted tag seq s) := by
  have k := takePacket_keeps (tagVerifies s 0x03 seq [] tag) seq hz
  unfold execKeepaliveAccepted
  generalize takePacket s _ seq = p at k
  obtain ⟨ok, t⟩ := p
  dsimp only at k ⊢
  exact .next (Keeps.ite (heardPartner_keeps k) k)

theorem execFmark_keeps {z s : State} (stamp : Int) (frame24 : Nat) (hz : Keeps z s) : OutKeeps z (execFmark stamp frame24 s) := by
  unfold execFmark
  try dsimp only
  repeat' first
    | (with_reducible first
        | assumption | apply OutKeeps.next | apply beginWaiting_keeps | apply Keeps.ite | apply OutKeeps.ite)
    | split
    | refine Keeps.upd ?_ rfl rfl rfl rfl rfl rfl rfl rfl rfl

theorem execTwinStartTimeout_keeps {z s : State} (hz : Keeps z s) : OutKeeps z (execTwinStartTimeout s) := by
  unfold execTwinStartTimeout
  try dsimp only
  repeat' first
    | (with_reducible first
        | assumption | apply OutKeeps.next | apply beginWaiting_keeps | apply Keeps.ite | apply OutKeeps.ite)
    | split
    | refine Keeps.upd ?_ rfl rfl rfl rfl rfl rfl rfl rfl rfl

theorem adoptPartnerShots_keeps {z s : State} (hz : Keeps z s) : Keeps z (adoptPartnerShots s) := by
  unfold adoptPartnerShots
  try dsimp only
  repeat' first
    | (with_reducible first | assumption | apply Keeps.ite)
    | split
    | refine Keeps.upd ?_ rfl rfl rfl rfl rfl rfl rfl rfl rfl

theorem execPartnerSilence_keeps {z s : State} (hz : Keeps z s) : OutKeeps z (execPartnerSilence s) := by
  unfold execPartnerSilence
  try dsimp only
  repeat' first
    | (with_reducible first
        | assumption | apply OutKeeps.next | apply set_keeps | apply inc_keeps | apply stick_keeps
        | apply noteRole_keeps | apply adoptPartnerShots_keeps | apply Keeps.ite | apply OutKeeps.ite)
    | split
    | refine Keeps.upd ?_ rfl rfl rfl rfl rfl rfl rfl rfl rfl

theorem execBeacon_keeps {z s : State} (hz : Keeps z s) : OutKeeps z (execBeacon s) := by
  unfold execBeacon
  try dsimp only
  repeat' first
    | (with_reducible first
        | assumption | apply OutKeeps.next | apply sendBus_keeps | apply Keeps.ite | apply OutKeeps.ite)
    | split
    | refine Keeps.upd ?_ rfl rfl rfl rfl rfl rfl rfl rfl rfl

theorem execQuery_keeps {z s : State} (hz : Keeps z s) : OutKeeps z (execQuery s) := by
  unfold execQuery
  try dsimp only
  repeat' first
    | (with_reducible first
        | assumption | apply OutKeeps.next | apply sendBus_keeps | apply Keeps.ite | apply OutKeeps.ite)
    | split
    | refine Keeps.upd ?_ rfl rfl rfl rfl rfl rfl rfl rfl rfl

theorem stopFiring_keeps {z s : State} (hz : Keeps z s) : Keeps z (stopFiring s) := by
  unfold stopFiring
  try dsimp only
  repeat' first
    | (with_reducible first | assumption | apply unadmit_keeps | apply Keeps.ite)
    | split
    | refine Keeps.upd ?_ rfl rfl rfl rfl rfl rfl rfl rfl rfl

theorem busFault_keeps {z s : State} (hz : Keeps z s) : Keeps z (busFault s) := by
  unfold busFault
  try dsimp only
  repeat' first
    | (with_reducible first
        | assumption | apply set_keeps | apply noteRole_keeps | apply stopFiring_keeps | apply raiseFault_keeps
        | apply clearUnsure_keeps | apply Keeps.ite)
    | split
    | refine Keeps.upd ?_ rfl rfl rfl rfl rfl rfl rfl rfl rfl

theorem execBeaconEchoTimeout_keeps {z s : State} (hz : Keeps z s) : OutKeeps z (execBeaconEchoTimeout s) := by
  unfold execBeaconEchoTimeout
  try dsimp only
  repeat' first
    | (with_reducible first
        | assumption | apply OutKeeps.next | apply set_keeps | apply busFault_keeps | apply Keeps.ite
        | apply OutKeeps.ite)
    | split
    | refine Keeps.upd ?_ rfl rfl rfl rfl rfl rfl rfl rfl rfl

theorem execQueryEchoTimeout_keeps {z s : State} (hz : Keeps z s) : OutKeeps z (execQueryEchoTimeout s) := by
  unfold execQueryEchoTimeout
  try dsimp only
  repeat' first
    | (with_reducible first
        | assumption | apply OutKeeps.next | apply busFault_keeps | apply Keeps.ite | apply OutKeeps.ite)
    | split
    | refine Keeps.upd ?_ rfl rfl rfl rfl rfl rfl rfl rfl rfl

theorem execHalterStandby_keeps {z s : State} (hz : Keeps z s) : OutKeeps z (execHalterStandby s) := by
  unfold execHalterStandby
  try dsimp only
  repeat' first
    | (with_reducible first
        | assumption | apply OutKeeps.next | apply set_keeps | apply stopFiring_keeps | apply clearUnsure_keeps
        | apply stick_keeps | apply noteRole_keeps | apply dropFuture_keeps | apply Keeps.ite | apply OutKeeps.ite)
    | split
    | refine Keeps.upd ?_ rfl rfl rfl rfl rfl rfl rfl rfl rfl

theorem execHalterTakeover_keeps {z s : State} (hz : Keeps z s) : OutKeeps z (execHalterTakeover s) := by
  unfold execHalterTakeover
  try dsimp only
  repeat' first
    | (with_reducible first
        | assumption | apply OutKeeps.next | apply set_keeps | apply inc_keeps | apply noteRole_keeps
        | apply clearUnsure_keeps | apply Keeps.ite | apply OutKeeps.ite)
    | split
    | refine Keeps.upd ?_ rfl rfl rfl rfl rfl rfl rfl rfl rfl

theorem execUnsureClear_keeps {z s : State} (hz : Keeps z s) : OutKeeps z (execUnsureClear s) := by
  unfold execUnsureClear
  try dsimp only
  repeat' first
    | (with_reducible first
        | assumption | apply OutKeeps.next | apply clearUnsure_keeps | apply Keeps.ite | apply OutKeeps.ite)
    | split
    | refine Keeps.upd ?_ rfl rfl rfl rfl rfl rfl rfl rfl rfl

theorem execHalterClaim_keeps {z s : State} (hz : Keeps z s) : OutKeeps z (execHalterClaim s) := by
  unfold execHalterClaim
  try dsimp only
  repeat' first
    | (with_reducible first
        | assumption | apply OutKeeps.next | apply set_keeps | apply inc_keeps | apply noteRole_keeps
        | apply freshWindows_keeps | apply Keeps.ite | apply OutKeeps.ite)
    | split
    | refine Keeps.upd ?_ rfl rfl rfl rfl rfl rfl rfl rfl rfl

theorem execHalterRelease_keeps {z s : State} (hz : Keeps z s) : OutKeeps z (execHalterRelease s) := by
  unfold execHalterRelease
  try dsimp only
  repeat' first
    | (with_reducible first
        | assumption | apply OutKeeps.next | apply releaseHalter_keeps | apply Keeps.ite | apply OutKeeps.ite)
    | split
    | refine Keeps.upd ?_ rfl rfl rfl rfl rfl rfl rfl rfl rfl

theorem execPrtDetectProbe_keeps {z s : State} (found : Bool) (hz : Keeps z s) : OutKeeps z (execPrtDetectProbe found s) := by
  unfold execPrtDetectProbe
  try dsimp only
  repeat' first
    | (with_reducible first
        | assumption | apply OutKeeps.next | apply sendTrn_keeps | apply toPrt_keeps | apply Keeps.ite
        | apply OutKeeps.ite)
    | split
    | refine Keeps.upd ?_ rfl rfl rfl rfl rfl rfl rfl rfl rfl

theorem laneCheck_keeps {z s : State} (lane : Fin 2) (number : Nat) (inverted : Bool) (skew : Nat) (hz : Keeps z s) :
    OutKeeps z (laneCheck s lane number inverted skew) := by
  unfold laneCheck
  dsimp only
  have k := set_keeps F.LNK_PRT_STATUS_POL_INV (if inverted then setBit (s.get F.LNK_PRT_STATUS_POL_INV) lane.val
    else clearBit (s.get F.LNK_PRT_STATUS_POL_INV) lane.val) hz
  generalize s.set F.LNK_PRT_STATUS_POL_INV _ = t at k ⊢
  have kp : ∀ x : PrtSt, Keeps z { t with prt := x } := fun _ => k.upd rfl rfl rfl rfl rfl rfl rfl rfl rfl
  exact .ite (.next (Keeps.ite (failTraining_keeps _ (set_keeps _ _ k)) (set_keeps _ _ k))) (.ite (.next k)
    (.next (Keeps.ite (toPrt_keeps _ (kp _)) (kp _))))

theorem execTrn_keeps {z s : State} (lane : Fin 2) (header : Fin 4) (payload : Dword) (skew : Nat) (hz : Keeps z s) :
    OutKeeps z (execTrn lane header payload skew s) := by
  unfold execTrn
  dsimp only
  generalize (if trnInverted header payload = true then _ else _ : Nat × Nat) = w
  have k := takeControl_keeps w.1 w.2 hz
  refine .ite (.next hz) ?_
  generalize takeControl s w.1 w.2 = p at k ⊢
  obtain ⟨o, t⟩ := p
  cases o with
  | some o => exact .ite (laneCheck_keeps _ _ _ _ k) (.next k)
  | none => exact .next k

theorem sendCap_keeps {z s : State} (hz : Keeps z s) : Keeps z (sendCap s) := by
  unfold sendCap
  try dsimp only
  repeat' first
    | (with_reducible first | assumption | apply sendWord_keeps | apply toPrt_keeps | apply Keeps.ite)
    | split
    | refine Keeps.upd ?_ rfl rfl rfl rfl rfl rfl rfl rfl rfl

theorem execPrtEyeDone_keeps {z s : State} (lane : Fin 2) (width : Nat) (height : Nat) (hz : Keeps z s) : OutKeeps z (execPrtEyeDone lane width height s) := by
  unfold execPrtEyeDone
  try dsimp only
  repeat' first
    | (with_reducible first
        | assumption | apply OutKeeps.next | apply set_keeps | apply put_keeps | apply failTraining_keeps
        | apply sendCap_keeps | apply Keeps.ite | apply OutKeeps.ite)
    | split
    | refine Keeps.upd ?_ rfl rfl rfl rfl rfl rfl rfl rfl rfl

theorem takeCap_keeps {z s : State} (word : Nat) (hz : Keeps z s) : OutKeeps z (takeCap s word) := by
  unfold takeCap
  dsimp only
  have k := set_keeps F.LNK_PRT_PCAP word hz
  refine .ite (.next (failTraining_keeps _ k)) (.next (sendWord_keeps _ _ (toPrt_keeps _ ?_)))
  exact k.upd rfl rfl rfl rfl rfl rfl rfl rfl rfl

theorem execCap_keeps {z s : State} (word : BitVec 34) (hz : Keeps z s) : OutKeeps z (execCap word s) := by
  unfold execCap
  have k := takeControl_keeps (bits word.toNat 32 2) (bits word.toNat 0 32) hz
  refine .ite (.next hz) ?_
  generalize takeControl s (bits word.toNat 32 2) (bits word.toNat 0 32) = p at k ⊢
  obtain ⟨o, t⟩ := p
  cases o with
  | some o => exact .ite (takeCap_keeps _ k) (.next k)
  | none => exact .next k

theorem execPing_keeps {z s : State} (turnaround : Nat) (hz : Keeps z s) : OutKeeps z (execPing turnaround s) := by
  unfold execPing
  try dsimp only
  repeat' first
    | (with_reducible first
        | assumption | apply OutKeeps.next | apply sendWord_keeps | apply Keeps.ite | apply OutKeeps.ite)
    | split
    | refine Keeps.upd ?_ rfl rfl rfl rfl rfl rfl rfl rfl rfl

theorem sendKeyx1_keeps {z s : State} (hz : Keeps z s) : Keeps z (sendKeyx1 s) := by
  unfold sendKeyx1
  try dsimp only
  repeat' first
    | (with_reducible first
        | assumption | apply takeFree_keeps | apply sendPacket_keeps | refine Keeps.snd (by assumption) ?_
        | refine Keeps.fst (by assumption) ?_ | apply Keeps.ite)
    | split
    | refine Keeps.upd ?_ rfl rfl rfl rfl rfl rfl rfl rfl rfl

theorem sendKeyx2_keeps {z s : State} (hz : Keeps z s) : Keeps z (sendKeyx2 s) := by
  unfold sendKeyx2
  try dsimp only
  repeat' first
    | (with_reducible first | assumption | apply sendPacket_keeps | apply Keeps.ite)
    | split
    | refine Keeps.upd ?_ rfl rfl rfl rfl rfl rfl rfl rfl rfl

theorem execEcho_keeps {z s : State} (roundTrip : Nat) (turnaround : Nat) (hz : Keeps z s) : OutKeeps z (execEcho roundTrip turnaround s) := by
  unfold execEcho
  try dsimp only
  repeat' first
    | (with_reducible first
        | assumption | apply OutKeeps.next | apply set_keeps | apply setInt_keeps | apply sendWord_keeps
        | apply toPrt_keeps | apply sendKeyx1_keeps | apply Keeps.foldl)
    | (intro _; try dsimp only)
    | (with_reducible first | apply Keeps.ite | apply OutKeeps.ite)
    | split
    | refine Keeps.upd ?_ rfl rfl rfl rfl rfl rfl rfl rfl rfl

theorem linkActive_keeps {z s : State} (partnerHolds : Bool) (hz : Keeps z s) : Keeps z (linkActive s partnerHolds) := by
  unfold linkActive
  try dsimp only
  repeat' first
    | (with_reducible first
        | assumption | apply set_keeps | apply toPrt_keeps | apply endFault_keeps | apply raiseFault_keeps
        | apply twinSessionUp_keeps | apply endRetrain_keeps | apply Keeps.foldl)
    | (intro _; try dsimp only)
    | with_reducible apply Keeps.ite
    | split
    | refine Keeps.upd ?_ rfl rfl rfl rfl rfl rfl rfl rfl rfl

theorem takeKeyx1_keeps {z s : State} (body : List Byte) (hz : Keeps z s) : Keeps z (takeKeyx1 s body) := by
  unfold takeKeyx1
  try dsimp only
  repeat' first
    | (with_reducible first | assumption | apply failTraining_keeps | apply sendKeyx2_keeps | apply Keeps.ite)
    | split
    | refine Keeps.upd ?_ rfl rfl rfl rfl rfl rfl rfl rfl rfl

theorem takeKeyx2_keeps {z s : State} (body : List Byte) (partnerHolds : Bool) (hz : Keeps z s) : Keeps z (takeKeyx2 s body partnerHolds) := by
  unfold takeKeyx2
  try dsimp only
  repeat' first
    | (with_reducible first | assumption | apply linkActive_keeps | apply failTraining_keeps | apply Keeps.ite)
    | split
    | refine Keeps.upd ?_ rfl rfl rfl rfl rfl rfl rfl rfl rfl

theorem execKeyx_keeps {z s : State} (n : Fin 2) (body : List Byte) (partnerHolds : Bool) (hz : Keeps z s) : OutKeeps z (execKeyx n body partnerHolds s) := by
  unfold execKeyx
  try dsimp only
  repeat' first
    | (with_reducible first
        | assumption | apply OutKeeps.next | apply takeKeyx1_keeps | apply takeKeyx2_keeps | apply Keeps.ite
        | apply OutKeeps.ite)
    | split
    | refine Keeps.upd ?_ rfl rfl rfl rfl rfl rfl rfl rfl rfl

theorem execPrtTrainingFail_keeps {z s : State} (hz : Keeps z s) : OutKeeps z (execPrtTrainingFail s) := by
  unfold execPrtTrainingFail
  try dsimp only
  repeat' first
    | (with_reducible first
        | assumption | apply OutKeeps.next | apply failTraining_keeps | apply Keeps.ite | apply OutKeeps.ite)
    | split
    | refine Keeps.upd ?_ rfl rfl rfl rfl rfl rfl rfl rfl rfl

theorem execPrtRetry_keeps {z s : State} (hz : Keeps z s) : OutKeeps z (execPrtRetry s) := by
  unfold execPrtRetry
  try dsimp only
  repeat' first
    | (with_reducible first
        | assumption | apply OutKeeps.next | apply startTraining_keeps | apply Keeps.ite | apply OutKeeps.ite)
    | split
    | refine Keeps.upd ?_ rfl rfl rfl rfl rfl rfl rfl rfl rfl

theorem execWordLockLoss_keeps {z s : State} (lane : Fin 2) (hz : Keeps z s) : OutKeeps z (execWordLockLoss lane s) := by
  unfold execWordLockLoss
  try dsimp only
  repeat' first
    | (with_reducible first
        | assumption | apply OutKeeps.next | apply set_keeps | apply linkLoss_keeps | apply raiseFault_keeps
        | apply failTraining_keeps | apply Keeps.ite | apply OutKeeps.ite)
    | split
    | refine Keeps.upd ?_ rfl rfl rfl rfl rfl rfl rfl rfl rfl

theorem execPrtLinkLoss_keeps {z s : State} (hz : Keeps z s) : OutKeeps z (execPrtLinkLoss s) := by
  unfold execPrtLinkLoss
  try dsimp only
  repeat' first
    | (with_reducible first
        | assumption | apply OutKeeps.next | apply linkLoss_keeps | apply Keeps.ite | apply OutKeeps.ite)
    | split
    | refine Keeps.upd ?_ rfl rfl rfl rfl rfl rfl rfl rfl rfl

theorem execDoze_keeps {z s : State} (hz : Keeps z s) : OutKeeps z (execDoze s) := by
  unfold execDoze
  try dsimp only
  repeat' first
    | (with_reducible first
        | assumption | apply OutKeeps.next | apply toPrt_keeps | apply sendWord_keeps | apply Keeps.ite
        | apply OutKeeps.ite)
    | split
    | refine Keeps.upd ?_ rfl rfl rfl rfl rfl rfl rfl rfl rfl

theorem execDozeExit_keeps {z s : State} (hz : Keeps z s) : OutKeeps z (execDozeExit s) := by
  unfold execDozeExit
  try dsimp only
  repeat' first
    | (with_reducible first
        | assumption | apply OutKeeps.next | apply leaveDoze_keeps | apply Keeps.ite | apply OutKeeps.ite)
    | split
    | refine Keeps.upd ?_ rfl rfl rfl rfl rfl rfl rfl rfl rfl

theorem execDozeKeepalive_keeps {z s : State} (hz : Keeps z s) : OutKeeps z (execDozeKeepalive s) := by
  unfold execDozeKeepalive
  try dsimp only
  repeat' first
    | (with_reducible first
        | assumption | apply OutKeeps.next | apply sendWord_keeps | apply sendPacket_keeps | apply sendTrn_keeps
        | apply Keeps.ite | apply OutKeeps.ite)
    | split
    | refine Keeps.upd ?_ rfl rfl rfl rfl rfl rfl rfl rfl rfl

theorem linkOff_keeps {z s : State} (hz : Keeps z s) : Keeps z (linkOff s) := by
  unfold linkOff
  try dsimp only
  repeat' first
    | (with_reducible first
        | assumption | apply set_keeps | apply endSession_keeps | apply endRetrain_keeps | apply Keeps.ite)
    | split
    | refine Keeps.upd ?_ rfl rfl rfl rfl rfl rfl rfl rfl rfl

theorem writePrtEn_keeps {z s : State} (on : Bool) (hz : Keeps z s) : Keeps z (writePrtEn s on) := by
  unfold writePrtEn
  try dsimp only
  repeat' first
    | (with_reducible first
        | assumption | apply put_keeps | apply startTraining_keeps | apply linkOff_keeps | apply Keeps.ite)
    | split
    | refine Keeps.upd ?_ rfl rfl rfl rfl rfl rfl rfl rfl rfl

theorem execPrtConfig_keeps {z s : State} (port : Port) (tag : Nat) (hz : Keeps z s) : OutKeeps z (execPrtConfig port tag s) := by
  unfold execPrtConfig
  try dsimp only
  repeat' first
    | (with_reducible first
        | assumption | apply OutKeeps.next | apply finishOk_keeps | apply setTwinMode_keeps | apply withCmd_keeps)
    | (intro _; try dsimp only)
    | (with_reducible first | apply Keeps.ite | apply OutKeeps.ite)
    | split
    | refine Keeps.upd ?_ rfl rfl rfl rfl rfl rfl rfl rfl rfl

theorem execPrtRetrain_keeps {z s : State} (port : Port) (tag : Nat) (hz : Keeps z s) : OutKeeps z (execPrtRetrain port tag s) := by
  unfold execPrtRetrain
  try dsimp only
  repeat' first
    | (with_reducible first
        | assumption | apply OutKeeps.next | apply startTraining_keeps | apply withCmd_keeps | apply begin__keeps)
    | (intro _; try dsimp only)
    | (with_reducible first | apply Keeps.ite | apply OutKeeps.ite)
    | split
    | refine Keeps.upd ?_ rfl rfl rfl rfl rfl rfl rfl rfl rfl

theorem endShake_keeps {z s : State} (hz : Keeps z s) : Keeps z (endShake s) := by
  unfold endShake
  try dsimp only
  repeat' first
    | (with_reducible first | assumption | apply Keeps.ite)
    | split
    | refine Keeps.upd ?_ rfl rfl rfl rfl rfl rfl rfl rfl rfl

theorem beginShake_keeps {z s : State} (hz : Keeps z s) : Keeps z (beginShake s) := by
  unfold beginShake
  try dsimp only
  repeat' first
    | (with_reducible first | assumption | apply endShake_keeps | apply Keeps.ite)
    | split
    | refine Keeps.upd ?_ rfl rfl rfl rfl rfl rfl rfl rfl rfl

theorem discardRing_keeps {z s0 : State} (hz : Keeps z s0) : Keeps z (discardRing s0) := by
  unfold discardRing
  try dsimp only
  repeat' first
    | (with_reducible first | assumption | apply add_keeps | apply beginShake_keeps | apply Keeps.ite)
    | split
    | refine Keeps.upd ?_ rfl rfl rfl rfl rfl rfl rfl rfl rfl

theorem resetRings_keeps {z s : State} (hz : Keeps z s) : Keeps z (resetRings s) := by
  unfold resetRings
  try dsimp only
  repeat' first
    | (with_reducible first
        | assumption | apply set_keeps | apply clear_keeps | apply discardRing_keeps | apply Keeps.foldl)
    | (intro _; try dsimp only)
    | with_reducible apply Keeps.ite
    | split
    | refine Keeps.upd ?_ rfl rfl rfl rfl rfl rfl rfl rfl rfl

theorem resetEndpoint_keeps {z s : State} (hz : Keeps z s) : Keeps z (resetEndpoint s) := by
  unfold resetEndpoint
  try dsimp only
  repeat' first
    | (with_reducible first | assumption | apply clear_keeps | apply Keeps.foldl)
    | (intro _; try dsimp only)
    | with_reducible apply Keeps.ite
    | split
    | refine Keeps.upd ?_ rfl rfl rfl rfl rfl rfl rfl rfl rfl

theorem withdrawAll_keeps {z s : State} (hz : Keeps z s) : Keeps z (withdrawAll s) := by
  have k := withdrawFar_keeps (truncRecording_keeps hz)
  unfold withdrawAll
  generalize withdrawFar (truncRecording s) = p at k
  obtain ⟨t, l⟩ := p
  exact enterReady_keeps (Keeps.foldl _ _ k fun _ _ h => badNotice_keeps _ h)

theorem linkDown_keeps {z s : State} (hz : Keeps z s) : Keeps z (linkDown s) := by
  unfold linkDown
  try dsimp only
  repeat' first
    | (with_reducible first | assumption | apply clear_keeps | apply Keeps.foldl)
    | (intro _; try dsimp only)
    | with_reducible apply Keeps.ite
    | split
    | refine Keeps.upd ?_ rfl rfl rfl rfl rfl rfl rfl rfl rfl

theorem resumeDelivery_keeps {z s : State} (hz : Keeps z s) : Keeps z (resumeDelivery s) := by
  unfold resumeDelivery
  try dsimp only
  repeat' first
    | (with_reducible first | assumption | apply dmaRing_keeps | apply Keeps.foldl)
    | (intro _; try dsimp only)
    | with_reducible apply Keeps.ite
    | split
    | refine Keeps.upd ?_ rfl rfl rfl rfl rfl rfl rfl rfl rfl

theorem execPerstAssert_keeps {z s : State} (hz : Keeps z s) : OutKeeps z (execPerstAssert s) := by
  unfold execPerstAssert
  try dsimp only
  repeat' first
    | (with_reducible first
        | assumption | apply OutKeeps.next | apply linkDown_keeps | apply resetEndpoint_keeps | apply resetRings_keeps
        | apply withdrawAll_keeps | apply endShake_keeps | apply Keeps.ite | apply OutKeeps.ite)
    | split
    | refine Keeps.upd ?_ rfl rfl rfl rfl rfl rfl rfl rfl rfl

theorem execPerstRelease_keeps {z s : State} (hz : Keeps z s) : OutKeeps z (execPerstRelease s) := by
  unfold execPerstRelease
  try dsimp only
  repeat' first
    | (with_reducible first
        | assumption | apply OutKeeps.next | apply wakeBy_keeps | apply Keeps.ite | apply OutKeeps.ite)
    | split
    | refine Keeps.upd ?_ rfl rfl rfl rfl rfl rfl rfl rfl rfl

theorem execPcieConfigReady_keeps {z s : State} (hz : Keeps z s) : OutKeeps z (execPcieConfigReady s) := by
  unfold execPcieConfigReady
  try dsimp only
  repeat' first
    | (with_reducible first | assumption | apply OutKeeps.next | apply set_keeps | apply Keeps.ite | apply OutKeeps.ite)
    | split
    | refine Keeps.upd ?_ rfl rfl rfl rfl rfl rfl rfl rfl rfl

theorem execPcieLinkUp_keeps {z s : State} (speed : Fin 6) (width : Fin 9) (reversed : Bool) (hz : Keeps z s) :
    OutKeeps z (execPcieLinkUp speed width reversed s) := by
  unfold execPcieLinkUp
  refine .ite (.next hz) (.next (resumeDelivery_keeps (endFault_keeps _ _ ?_)))
  refine Keeps.upd ?_ rfl rfl rfl rfl rfl rfl rfl rfl rfl
  exact put_keeps _ _ (set_keeps _ _ (set_keeps _ _ (set_keeps _ _ hz)))

theorem loseLink_keeps {z s : State} (hz : Keeps z s) : Keeps z (loseLink s) := by
  unfold loseLink
  try dsimp only
  repeat' first
    | (with_reducible first
        | assumption | apply inc_keeps | apply stick_keeps | apply linkDown_keeps | apply endShake_keeps
        | apply raiseFault_keeps | apply withdrawAll_keeps | apply Keeps.ite)
    | split
    | refine Keeps.upd ?_ rfl rfl rfl rfl rfl rfl rfl rfl rfl

theorem execPcieLinkLost_keeps {z s : State} (hz : Keeps z s) : OutKeeps z (execPcieLinkLost s) := by
  unfold execPcieLinkLost
  try dsimp only
  repeat' first
    | (with_reducible first
        | assumption | apply OutKeeps.next | apply loseLink_keeps | apply raiseFault_keeps | apply Keeps.ite
        | apply OutKeeps.ite)
    | split
    | refine Keeps.upd ?_ rfl rfl rfl rfl rfl rfl rfl rfl rfl

theorem execFunctionLevelReset_keeps {z s : State} (hz : Keeps z s) : OutKeeps z (execFunctionLevelReset s) := by
  unfold execFunctionLevelReset
  try dsimp only
  repeat' first
    | (with_reducible first
        | assumption | apply OutKeeps.next | apply resetEndpoint_keeps | apply resetRings_keeps
        | apply withdrawAll_keeps | apply Keeps.ite | apply OutKeeps.ite)
    | split
    | refine Keeps.upd ?_ rfl rfl rfl rfl rfl rfl rfl rfl rfl

theorem execPcieConfigWrite_keeps {z s : State} (bme : Bool) (d3hot : Bool) (msixEn : Bool) (cfg : CfgSpace) (hz : Keeps z s) : OutKeeps z (execPcieConfigWrite bme d3hot msixEn cfg s) := by
  unfold execPcieConfigWrite
  try dsimp only
  repeat' first
    | (with_reducible first
        | assumption | apply OutKeeps.next | apply put_keeps | apply withdrawAll_keeps | apply sendPending_keeps
        | apply resumeDelivery_keeps | apply Keeps.ite | apply OutKeeps.ite)
    | split
    | refine Keeps.upd ?_ rfl rfl rfl rfl rfl rfl rfl rfl rfl

theorem execPmeTurnOff_keeps {z s : State} (hz : Keeps z s) : OutKeeps z (execPmeTurnOff s) := by
  unfold execPmeTurnOff
  try dsimp only
  repeat' first
    | (with_reducible first
        | assumption | apply OutKeeps.next | apply set_keeps | apply endShake_keeps | apply Keeps.ite
        | apply OutKeeps.ite)
    | split
    | refine Keeps.upd ?_ rfl rfl rfl rfl rfl rfl rfl rfl rfl

theorem execPmeWaitExpiry_keeps {z s : State} (hz : Keeps z s) : OutKeeps z (execPmeWaitExpiry s) := by
  unfold execPmeWaitExpiry
  try dsimp only
  repeat' first
    | (with_reducible first
        | assumption | apply OutKeeps.next | apply endShake_keeps | apply Keeps.ite | apply OutKeeps.ite)
    | split
    | refine Keeps.upd ?_ rfl rfl rfl rfl rfl rfl rfl rfl rfl

theorem execL1Entry_keeps {z s : State} (sub : Bool) (hz : Keeps z s) : OutKeeps z (execL1Entry sub s) := by
  unfold execL1Entry
  try dsimp only
  repeat' first
    | (with_reducible first | assumption | apply OutKeeps.next | apply set_keeps | apply Keeps.ite | apply OutKeeps.ite)
    | split
    | refine Keeps.upd ?_ rfl rfl rfl rfl rfl rfl rfl rfl rfl

theorem execPeWakeTimeout_keeps {z s : State} (hz : Keeps z s) : OutKeeps z (execPeWakeTimeout s) := by
  unfold execPeWakeTimeout
  try dsimp only
  repeat' first
    | (with_reducible first | assumption | apply OutKeeps.next | apply Keeps.ite | apply OutKeeps.ite)
    | split
    | refine Keeps.upd ?_ rfl rfl rfl rfl rfl rfl rfl rfl rfl

theorem dropCellStall_keeps {z s : State} (x : Stall) (hz : Keeps z s) : Keeps z (dropCellStall s x) := by
  unfold dropCellStall
  try dsimp only
  repeat' first
    | (with_reducible first | assumption | apply badNotice_keeps | apply dropStall_keeps | apply Keeps.foldl)
    | (intro _; try dsimp only)
    | (with_reducible first | refine Keeps.snd (by assumption) ?_ | refine Keeps.fst (by assumption) ?_ | apply Keeps.ite)
    | split
    | refine Keeps.upd ?_ rfl rfl rfl rfl rfl rfl rfl rfl rfl

theorem vacate_keeps {z s : State} (x : Stall) (hz : Keeps z s) : Keeps z (vacate s x) := by
  unfold vacate
  try dsimp only
  repeat' first
    | (with_reducible first | assumption | apply updStall_keeps | apply dropCellStall_keeps | apply Keeps.ite)
    | split
    | refine Keeps.upd ?_ rfl rfl rfl rfl rfl rfl rfl rfl rfl

theorem nearGone_keeps {z s : State} (hz : Keeps z s) : Keeps z (nearGone s) := by
  unfold nearGone
  try dsimp only
  repeat' first
    | (with_reducible first
        | assumption | apply set_keeps | apply dropCellStall_keeps | apply enterReady_keeps | apply divert_keeps
        | apply vacate_keeps | apply Keeps.foldl)
    | (intro _; try dsimp only)
    | with_reducible apply Keeps.ite
    | split
    | refine Keeps.upd ?_ rfl rfl rfl rfl rfl rfl rfl rfl rfl

theorem nearBack_keeps {z s : State} (hz : Keeps z s) : Keeps z (nearBack s) := by
  unfold nearBack
  try dsimp only
  repeat' first
    | (with_reducible first | assumption | apply set_keeps | apply Keeps.ite)
    | split
    | refine Keeps.upd ?_ rfl rfl rfl rfl rfl rfl rfl rfl rfl

theorem execPllUnlock_keeps {z s : State} (clock : Clock) (hz : Keeps z s) : OutKeeps z (execPllUnlock clock s) := by
  unfold execPllUnlock
  try dsimp only
  repeat' first
    | (with_reducible first
        | assumption | apply OutKeeps.next | apply set_keeps | apply wakeBy_keeps | apply xtalAonOut_keeps
        | apply raiseF4_keeps | apply raiseFault_keeps | apply loseLink_keeps | apply raiseF3_keeps
        | apply nearGone_keeps | apply Keeps.ite | apply OutKeeps.ite)
    | split
    | refine Keeps.upd ?_ rfl rfl rfl rfl rfl rfl rfl rfl rfl

theorem execPllRelock_keeps {z s : State} (clock : Clock) (hz : Keeps z s) : OutKeeps z (execPllRelock clock s) := by
  unfold execPllRelock
  try dsimp only
  repeat' first
    | (with_reducible first
        | assumption | apply OutKeeps.next | apply set_keeps | apply xtalAonIn_keeps | apply endFault_keeps
        | apply nearBack_keeps | apply Keeps.ite | apply OutKeeps.ite)
    | split
    | refine Keeps.upd ?_ rfl rfl rfl rfl rfl rfl rfl rfl rfl

theorem execClockCrossMeasure_keeps {z s : State} (safbPpm : Nat) (corePpm : Nat) (timePpm : Nat) (hz : Keeps z s) : OutKeeps z (execClockCrossMeasure safbPpm corePpm timePpm s) := by
  unfold execClockCrossMeasure
  try dsimp only
  repeat' first
    | (with_reducible first
        | assumption | apply OutKeeps.next | apply put_keeps | apply raiseF3_keeps | apply Keeps.ite
        | apply OutKeeps.ite)
    | split
    | refine Keeps.upd ?_ rfl rfl rfl rfl rfl rfl rfl rfl rfl

end Sys2Proof.Machine
end

