-- ==== Sys2Proof/Laws/KeepsSystem.lean ====
section
/-! SUPPORT. What every operation of faults, security, the safety commands, grants, housekeeping, the system opcodes and the rings keeps (Safety.lean): one lemma each. -/

namespace Sys2Proof.Machine

theorem execFaultLog_keeps {z s : State} (cls : Fin 5) (code : Nat) (detail : Nat) (hz : Keeps z s) : OutKeeps z (execFaultLog cls code detail s) := by
  unfold execFaultLog
  try dsimp only
  repeat' first
    | (with_reducible first
        | assumption | apply OutKeeps.next | apply raiseF4_keeps | apply raiseF3_keeps | apply raiseFault_keeps
        | apply Keeps.ite | apply OutKeeps.ite)
    | split
    | refine Keeps.upd ?_ rfl rfl rfl rfl rfl rfl rfl rfl rfl

theorem beginReaction_keeps {z s : State} (r : Reaction) (hz : Keeps z s) : Keeps z (beginReaction s r) := by
  refine hz.plain rfl List.prefix_rfl id rfl rfl id fun q c => Nat.le_trans ?_ (q c)
  exact (List.Sublist.filter _ List.erase_sublist).length_le

theorem endReaction_keeps {z s : State} (hz : Keeps z s) : Keeps z (endReaction s) := by
  unfold endReaction
  split
  · exact hz
  · exact hz.plain rfl List.prefix_rfl id rfl rfl (fun h => by simpa [State.LogBounded] using h) id

theorem execFaultReactionRun_keeps {z s : State} (hz : Keeps z s) : OutKeeps z (execFaultReactionRun s) := by
  unfold execFaultReactionRun
  refine .ite (.next hz) (.next ?_)
  split
  · exact beginReaction_keeps _ hz
  · exact endReaction_keeps hz

theorem execF4Fault_keeps {z s : State} (code : Nat) (detail : Nat) (hz : Keeps z s) : OutKeeps z (execF4Fault code detail s) := by
  unfold execF4Fault
  try dsimp only
  repeat' first
    | (with_reducible first
        | assumption | apply OutKeeps.next | apply raiseF4_keeps | apply Keeps.ite | apply OutKeeps.ite)
    | split
    | refine Keeps.upd ?_ rfl rfl rfl rfl rfl rfl rfl rfl rfl

theorem execFatalResetTimer_keeps {z s : State} (hz : Keeps z s) : OutKeeps z (execFatalResetTimer s) := by
  unfold execFatalResetTimer
  try dsimp only
  repeat' first
    | (with_reducible first
        | assumption | apply OutKeeps.next | apply deviceReset_keeps | apply Keeps.ite | apply OutKeeps.ite)
    | split
    | refine Keeps.upd ?_ rfl rfl rfl rfl rfl rfl rfl rfl rfl

theorem execDeviceReset_keeps {z s : State} (hz : Keeps z s) : OutKeeps z (execDeviceReset s) := by
  unfold execDeviceReset
  try dsimp only
  repeat' first
    | (with_reducible first
        | assumption | apply OutKeeps.next | apply deviceReset_keeps | apply closeRecording_keeps
        | apply stopSections_keeps | apply Keeps.ite | apply OutKeeps.ite)
    | split
    | refine Keeps.upd ?_ rfl rfl rfl rfl rfl rfl rfl rfl rfl

theorem herdFail_keeps {z s : State} (pair : Nat) (code : Nat) (hz : Keeps z s) : Keeps z (herdFail s pair code) := by
  unfold herdFail
  try dsimp only
  repeat' first
    | (with_reducible first
        | assumption | apply set_keeps | apply raiseF4_keeps | apply raiseFault_keeps | apply Keeps.ite)
    | split
    | refine Keeps.upd ?_ rfl rfl rfl rfl rfl rfl rfl rfl rfl

theorem execHerdCompareMismatch_keeps {z s : State} (pair : Fin 2) (hz : Keeps z s) : OutKeeps z (execHerdCompareMismatch pair s) := by
  unfold execHerdCompareMismatch
  try dsimp only
  repeat' first
    | (with_reducible first
        | assumption | apply OutKeeps.next | apply herdFail_keeps | apply Keeps.ite | apply OutKeeps.ite)
    | split
    | refine Keeps.upd ?_ rfl rfl rfl rfl rfl rfl rfl rfl rfl

theorem execHerdWatchdogExpiry_keeps {z s : State} (hz : Keeps z s) : OutKeeps z (execHerdWatchdogExpiry s) := by
  unfold execHerdWatchdogExpiry
  try dsimp only
  repeat' first
    | (with_reducible first
        | assumption | apply OutKeeps.next | apply herdFail_keeps | apply Keeps.ite | apply OutKeeps.ite)
    | split
    | refine Keeps.upd ?_ rfl rfl rfl rfl rfl rfl rfl rfl rfl

theorem execHerdSwitch_keeps {z s : State} (port : Port) (tag : Nat) (hz : Keeps z s) : OutKeeps z (execHerdSwitch port tag s) := by
  unfold execHerdSwitch
  try dsimp only
  repeat' first
    | (with_reducible first | assumption | apply OutKeeps.next | apply withCmd_keeps | apply begin__keeps)
    | (intro _; try dsimp only)
    | (with_reducible first | apply Keeps.ite | apply OutKeeps.ite)
    | split
    | refine Keeps.upd ?_ rfl rfl rfl rfl rfl rfl rfl rfl rfl

theorem checkBlock_keeps {z s : State} (c : Cmd) (b : List Byte) (hz : Keeps z s) : Keeps z (checkBlock s c b).2 := by
  have k : ∀ x : CmdSt, Keeps z { s with cmd := x } := fun x => hz.upd rfl rfl rfl rfl rfl rfl rfl rfl rfl
  unfold checkBlock
  dsimp only
  split
  · exact hz
  · split
    · exact inc_keeps _ (Keeps.ite (k _) hz)
    · exact Keeps.ite (k _) hz

theorem execSecGetNonce_keeps {z s : State} (port : Port) (tag : Nat) (hz : Keeps z s) : OutKeeps z (execSecGetNonce port tag s) := by
  unfold execSecGetNonce
  try dsimp only
  repeat' first
    | (with_reducible first
        | assumption | apply OutKeeps.next | apply takeFree_keeps | apply finishOk_keeps | apply withCmd_keeps)
    | (intro _; try dsimp only)
    | (with_reducible first
        | refine Keeps.snd (by assumption) ?_ | refine Keeps.fst (by assumption) ?_ | apply Keeps.ite
        | apply OutKeeps.ite)
    | split
    | refine Keeps.upd ?_ rfl rfl rfl rfl rfl rfl rfl rfl rfl

theorem execNonceExpiry_keeps {z s : State} (hz : Keeps z s) : OutKeeps z (execNonceExpiry s) := by
  unfold execNonceExpiry
  try dsimp only
  repeat' first
    | (with_reducible first | assumption | apply OutKeeps.next | apply Keeps.ite | apply OutKeeps.ite)
    | split
    | refine Keeps.upd ?_ rfl rfl rfl rfl rfl rfl rfl rfl rfl

theorem identityBytes_keeps {z s : State} (hz : Keeps z s) : Keeps z (identityBytes s).2 := by
  unfold identityBytes
  cases s.flag F.SEC_STATUS_IDKEY
  · exact takeFree_keeps 512 hz
  · exact hz

theorem execSecGetIdentity_keeps {z s : State} (port : Port) (tag : Nat) (hz : Keeps z s) : OutKeeps z (execSecGetIdentity port tag s) := by
  unfold execSecGetIdentity
  try dsimp only
  repeat' first
    | (with_reducible first
        | assumption | apply OutKeeps.next | apply identityBytes_keeps | apply finishOut_keeps | apply withCmd_keeps)
    | (intro _; try dsimp only)
    | (with_reducible first
        | refine Keeps.snd (by assumption) ?_ | refine Keeps.fst (by assumption) ?_ | apply Keeps.ite
        | apply OutKeeps.ite)
    | split
    | refine Keeps.upd ?_ rfl rfl rfl rfl rfl rfl rfl rfl rfl

theorem execSecAttest_keeps {z s : State} (port : Port) (tag : Nat) (hz : Keeps z s) : OutKeeps z (execSecAttest port tag s) := by
  unfold execSecAttest
  try dsimp only
  repeat' first
    | (with_reducible first
        | assumption | apply OutKeeps.next | apply finishOut_keeps | apply Keeps.foldl | apply withCmd_keeps)
    | (intro _; try dsimp only)
    | (with_reducible first | apply Keeps.ite | apply OutKeeps.ite)
    | split
    | refine Keeps.upd ?_ rfl rfl rfl rfl rfl rfl rfl rfl rfl

theorem execSecFwStage_keeps {z s : State} (port : Port) (tag : Nat) (hz : Keeps z s) : OutKeeps z (execSecFwStage port tag s) := by
  unfold execSecFwStage
  try dsimp only
  repeat' first
    | (with_reducible first
        | assumption | apply OutKeeps.next | apply set_keeps | apply setMarks_keeps | apply withCmd_keeps
        | apply begin__keeps)
    | (intro _; try dsimp only)
    | (with_reducible first | apply Keeps.ite | apply OutKeeps.ite)
    | split
    | refine Keeps.upd ?_ rfl rfl rfl rfl rfl rfl rfl rfl rfl

theorem execFwStageDone_keeps {z s : State} (ok : Bool) (hz : Keeps z s) : OutKeeps z (execFwStageDone ok s) := by
  unfold execFwStageDone
  try dsimp only
  repeat' first
    | (with_reducible first
        | assumption | apply OutKeeps.next | apply set_keeps | apply finish_keeps | apply finishOk_keeps
        | apply Keeps.ite | apply OutKeeps.ite)
    | split
    | refine Keeps.upd ?_ rfl rfl rfl rfl rfl rfl rfl rfl rfl

theorem execSecFwActivate_keeps {z s : State} (port : Port) (tag : Nat) (hz : Keeps z s) : OutKeeps z (execSecFwActivate port tag s) := by
  unfold execSecFwActivate
  try dsimp only
  repeat' first
    | (with_reducible first | assumption | apply OutKeeps.next | apply withCmd_keeps | apply begin__keeps)
    | (intro _; try dsimp only)
    | (with_reducible first | apply Keeps.ite | apply OutKeeps.ite)
    | split
    | refine Keeps.upd ?_ rfl rfl rfl rfl rfl rfl rfl rfl rfl

theorem execFwActivateDone_keeps {z s : State} (hz : Keeps z s) : OutKeeps z (execFwActivateDone s) := by
  unfold execFwActivateDone
  try dsimp only
  repeat' first
    | (with_reducible first
        | assumption | apply OutKeeps.next | apply set_keeps | apply finish_keeps | apply finishOk_keeps
        | apply setMarks_keeps | apply Keeps.ite | apply OutKeeps.ite)
    | split
    | refine Keeps.upd ?_ rfl rfl rfl rfl rfl rfl rfl rfl rfl

theorem zeroize_keeps {z s : State} (hz : Keeps z s) : Keeps z (zeroize s) := by
  unfold zeroize
  try dsimp only
  repeat' first
    | (with_reducible first | assumption | apply set_keeps | apply inc_keeps | apply linkOff_keeps | apply Keeps.ite)
    | split
    | refine Keeps.upd ?_ rfl rfl rfl rfl rfl rfl rfl rfl rfl

theorem execDebugPortOpen_keeps {z s : State} (hz : Keeps z s) : OutKeeps z (execDebugPortOpen s) := by
  unfold execDebugPortOpen
  try dsimp only
  repeat' first
    | (with_reducible first
        | assumption | apply OutKeeps.next | apply set_keeps | apply leaveScan_keeps | apply zeroize_keeps
        | apply forcePairs_keeps | apply ballsLow_keeps | apply setClusters_keeps | apply startAt_keeps
        | apply setMode_keeps | apply Keeps.ite | apply OutKeeps.ite)
    | split
    | refine Keeps.upd ?_ rfl rfl rfl rfl rfl rfl rfl rfl rfl

theorem execIdentityKeyReady_keeps {z s : State} (hz : Keeps z s) : OutKeeps z (execIdentityKeyReady s) := by
  unfold execIdentityKeyReady
  try dsimp only
  repeat' first
    | (with_reducible first | assumption | apply OutKeeps.next | apply set_keeps | apply Keeps.ite | apply OutKeeps.ite)
    | split
    | refine Keeps.upd ?_ rfl rfl rfl rfl rfl rfl rfl rfl rfl

theorem writeSlots_keeps {z s : State} (b : List Byte) (hz : Keeps z s) : Keeps z (writeSlots s b) := by
  unfold writeSlots
  try dsimp only
  repeat' first
    | (with_reducible first | assumption | apply set_keeps | apply Keeps.foldl)
    | (intro _; try dsimp only)
    | with_reducible apply Keeps.ite
    | split
    | refine Keeps.upd ?_ rfl rfl rfl rfl rfl rfl rfl rfl rfl

theorem execSecReprovision_keeps {z s : State} (port : Port) (tag : Nat) (hz : Keeps z s) : OutKeeps z (execSecReprovision port tag s) := by
  unfold execSecReprovision
  try dsimp only
  repeat' first
    | (with_reducible first
        | assumption | apply OutKeeps.next | apply set_keeps | apply finish_keeps | apply writeSlots_keeps
        | apply finishOk_keeps | apply withCmd_keeps | apply begin__keeps)
    | (intro _; try dsimp only)
    | (with_reducible first | apply Keeps.ite | apply OutKeeps.ite)
    | split
    | refine Keeps.upd ?_ rfl rfl rfl rfl rfl rfl rfl rfl rfl

theorem safLoadErr_keeps {z s : State} (check : Nat) (off : Nat) (hz : Keeps z s) : Keeps z (safLoadErr s check off) := by
  unfold safLoadErr
  try dsimp only
  repeat' first
    | (with_reducible first | assumption | apply set_keeps | apply Keeps.ite)
    | split
    | refine Keeps.upd ?_ rfl rfl rfl rfl rfl rfl rfl rfl rfl

theorem safContents_keeps {z s : State} (op : Nat) (b : List Byte) (hz : Keeps z s) : Keeps z (safContents s op b).2 := by
  unfold safContents
  repeat' first
    | exact hz
    | exact safLoadErr_keeps _ _ hz
    | split

theorem freshEvaluator_pair (e : Evaluator) (n : Nat) : (freshEvaluator e).pair n ≠ .on := by
  simp only [freshEvaluator, Evaluator.pair]
  match n with
  | 0 | 1 | 2 | 3 => decide
  | n + 4 => simp

/-- Fresh evaluators have every pair disabled. -/
theorem freshEvaluators_keeps {z s : State} (hz : Keeps z s) : Keeps z (freshEvaluators s) :=
  (setEv_keeps_outputs .b _ (setEv_keeps_outputs .a _ hz fun n _ k => absurd k (freshEvaluator_pair s.saf.evA n))
    fun n _ k => absurd k (freshEvaluator_pair s.saf.evB n))

theorem execSafLoadConfig_keeps {z s : State} (port : Port) (tag : Nat) (hz : Keeps z s) :
    OutKeeps z (execSafLoadConfig port tag s) := by
  unfold execSafLoadConfig
  refine withCmd_keeps hz fun c => begin__keeps hz fun t c k => ?_
  have k2 := safContents_keeps 0x0500 c.data k
  split
  · exact finish_keeps _ _ _ _ (Keeps.snd ‹_› k2)
  · refine finishOk_keeps _ _ (freshEvaluators_keeps (Keeps.upd ?_ rfl rfl rfl rfl rfl rfl rfl rfl rfl))
    exact set_keeps _ _ (safLoadErr_keeps _ _ (Keeps.snd ‹_› k2))

theorem watchEdm_keeps {z s : State} (hz : Keeps z s) : Keeps z (watchEdm s) := by
  unfold watchEdm
  try dsimp only
  repeat' first
    | (with_reducible first | assumption | apply setPairAt_keeps | refine setPair_keeps _ _ _ ?_ ?_ | apply Keeps.foldl)
    | (intro _; try dsimp only)
    | with_reducible apply Keeps.ite
    | (intro e; cases e; done)
    | split
    | refine Keeps.upd ?_ rfl rfl rfl rfl rfl rfl rfl rfl rfl

theorem execSafCommit_keeps {z s : State} (port : Port) (tag : Nat) (hz : Keeps z s) :
    OutKeeps z (execSafCommit port tag s) := by
  unfold execSafCommit
  refine withCmd_keeps hz fun c => begin__keeps hz fun t c k => ?_
  have k2 := safContents_keeps 0x0501 c.data k
  split
  · exact finish_keeps _ _ _ _ (Keeps.snd ‹_› k2)
  · refine finishOk_keeps _ _ (watchEdm_keeps (settle_keeps (freshEvaluators_keeps
      (Keeps.upd ?_ rfl rfl rfl rfl rfl rfl rfl rfl rfl))))
    exact set_keeps _ _ (set_keeps _ _ (safLoadErr_keeps _ _ (Keeps.snd ‹_› k2)))

theorem execSafArm_holds {s t : State} (port : Port) (tag : Nat) (e : execSafArm port tag s = .next t) : Holds s t := by
  have h := Keeps.refl s
  have k := set_keeps (F.HKC_CAL_REF_ON 1) 1 (set_keeps (F.HKC_CAL_REF_ON 0) 1 h)
  rcases withCmd_cases e with rfl | ⟨c, _, _, ⟨_, _, rfl⟩ | ⟨_, rfl⟩⟩
  · exact h.toHolds
  · exact (refuse_keeps _ _ _ h).toHolds
  · split
    · exact (finishOk_keeps _ _ h).toHolds
    · dsimp only
      generalize State.set _ (F.HKC_CAL_REF_ON 1) 1 = t at k ⊢
      have ha : Holds t { t with saf := { t.saf with armed := true } } :=
        ⟨rfl, List.prefix_rfl, id, fun x d n hn h => ⟨rfl, (x d n hn (by cases d <;> exact h)).2⟩, id, id⟩
      exact k.toHolds.trans (ha.trans (finishOk_keeps _ _ (settle_keeps (Keeps.refl _))).toHolds)

theorem execSafDisarm_keeps {z s : State} (port : Port) (tag : Nat) (hz : Keeps z s) :
    OutKeeps z (execSafDisarm port tag s) := by
  unfold execSafDisarm
  refine withCmd_keeps hz fun c => finishOk_keeps _ _ (settle_keeps ?_)
  have k := forcePairs_keeps hz
  have q := forcePairs_pair s
  generalize forcePairs s = t at k q
  exact k.quiet q rfl rfl rfl rfl rfl (fun h => by cases h) rfl rfl

theorem execSafeLockoutClear_keeps {z s : State} (port : Port) (tag : Nat) (hz : Keeps z s) : OutKeeps z (execSafeLockoutClear port tag s) := by
  unfold execSafeLockoutClear
  try dsimp only
  repeat' first
    | (with_reducible first | assumption | apply OutKeeps.next | apply finishOk_keeps | apply withCmd_keeps)
    | (intro _; try dsimp only)
    | (with_reducible first | apply Keeps.ite | apply OutKeeps.ite)
    | split
    | refine Keeps.upd ?_ rfl rfl rfl rfl rfl rfl rfl rfl rfl

theorem execYardGrant_keeps {z s : State} (port : Port) (tag : Nat) (hz : Keeps z s) : OutKeeps z (execYardGrant port tag s) := by
  unfold execYardGrant
  try dsimp only
  repeat' first
    | (with_reducible first
        | assumption | apply OutKeeps.next | apply set_keeps | apply finish_keeps | apply finishOk_keeps
        | apply withCmd_keeps)
    | (intro _; try dsimp only)
    | (with_reducible first | apply Keeps.ite | apply OutKeeps.ite)
    | split
    | refine Keeps.upd ?_ rfl rfl rfl rfl rfl rfl rfl rfl rfl

theorem endRevoke_keeps {z s : State} (status : Nat) (n : Nat) (hz : Keeps z s) : Keeps z (endRevoke s status n) := by
  unfold endRevoke
  try dsimp only
  repeat' first
    | (with_reducible first | assumption | apply finishRunning_keeps | apply Keeps.ite)
    | split
    | refine Keeps.upd ?_ rfl rfl rfl rfl rfl rfl rfl rfl rfl

theorem withdrawWindow_keeps {z s : State} (w : Nat) (hz : Keeps z s) : Keeps z (withdrawWindow s w) := by
  unfold withdrawWindow
  try dsimp only
  repeat' first
    | (with_reducible first | assumption | apply endFault_keeps | apply clearWindow_keeps | apply Keeps.ite)
    | split
    | refine Keeps.upd ?_ rfl rfl rfl rfl rfl rfl rfl rfl rfl

theorem judgeRevoke_keeps {z s : State} (hz : Keeps z s) : Keeps z (judgeRevoke s) := by
  unfold judgeRevoke
  try dsimp only
  repeat' first
    | (with_reducible first | assumption | apply endRevoke_keeps | apply withdrawWindow_keeps | apply Keeps.ite)
    | split
    | refine Keeps.upd ?_ rfl rfl rfl rfl rfl rfl rfl rfl rfl

theorem execYardRevoke_keeps {z s : State} (port : Port) (tag : Nat) (hz : Keeps z s) : OutKeeps z (execYardRevoke port tag s) := by
  unfold execYardRevoke
  try dsimp only
  repeat' first
    | (with_reducible first
        | assumption | apply OutKeeps.next | apply set_keeps | apply drainWindow_keeps | apply judgeRevoke_keeps
        | apply enterReady_keeps | apply withCmd_keeps | apply begin__keeps)
    | (intro _; try dsimp only)
    | (with_reducible first | apply Keeps.ite | apply OutKeeps.ite)
    | split
    | refine Keeps.upd ?_ rfl rfl rfl rfl rfl rfl rfl rfl rfl

theorem execYardRevokeDone_keeps {z s : State} (hz : Keeps z s) : OutKeeps z (execYardRevokeDone s) := by
  unfold execYardRevokeDone
  try dsimp only
  repeat' first
    | (with_reducible first
        | assumption | apply OutKeeps.next | apply judgeRevoke_keeps | apply Keeps.ite | apply OutKeeps.ite)
    | split
    | refine Keeps.upd ?_ rfl rfl rfl rfl rfl rfl rfl rfl rfl

theorem execYardQuery_keeps {z s : State} (port : Port) (tag : Nat) (hz : Keeps z s) : OutKeeps z (execYardQuery port tag s) := by
  unfold execYardQuery
  try dsimp only
  repeat' first
    | (with_reducible first | assumption | apply OutKeeps.next | apply finishOk_keeps | apply withCmd_keeps)
    | (intro _; try dsimp only)
    | (with_reducible first | apply Keeps.ite | apply OutKeeps.ite)
    | split
    | refine Keeps.upd ?_ rfl rfl rfl rfl rfl rfl rfl rfl rfl

theorem setConv_keeps {z s : State} (x : Nat) (c : HkConv) (hz : Keeps z s) : Keeps z (setConv s x c) := by
  unfold setConv
  try dsimp only
  repeat' first
    | (with_reducible first | assumption | apply set_keeps | apply Keeps.ite)
    | split
    | refine Keeps.upd ?_ rfl rfl rfl rfl rfl rfl rfl rfl rfl

theorem startPass_keeps {z s : State} (x : Nat) (hz : Keeps z s) : Keeps z (startPass s x) := by
  unfold startPass
  try dsimp only
  repeat' first
    | (with_reducible first | assumption | apply setConv_keeps | apply Keeps.ite)
    | split
    | refine Keeps.upd ?_ rfl rfl rfl rfl rfl rfl rfl rfl rfl

theorem averageDone_keeps {z s : State} (x : Nat) (a : HkAvg) (hz : Keeps z s) : Keeps z (averageDone s x a) := by
  unfold averageDone
  try dsimp only
  repeat' first
    | (with_reducible first | assumption | apply set_keeps | apply put_keeps | apply setConv_keeps | apply Keeps.ite)
    | split
    | refine Keeps.upd ?_ rfl rfl rfl rfl rfl rfl rfl rfl rfl

theorem enterCode_keeps {z s : State} (x : Nat) (e : Nat) (code : Nat) (ovr : Bool) (after : Bool) (hz : Keeps z s) : Keeps z (enterCode s x e code ovr after) := by
  unfold enterCode
  try dsimp only
  repeat' first
    | (with_reducible first
        | assumption | apply set_keeps | apply averageDone_keeps | apply setConv_keeps | apply Keeps.ite)
    | split
    | refine Keeps.upd ?_ rfl rfl rfl rfl rfl rfl rfl rfl rfl

theorem countOvr_keeps {z s : State} (x : Nat) (ovr : Bool) (hz : Keeps z s) : Keeps z (countOvr s x ovr) := by
  unfold countOvr
  try dsimp only
  repeat' first
    | (with_reducible first | assumption | apply inc_keeps | apply Keeps.ite)
    | split
    | refine Keeps.upd ?_ rfl rfl rfl rfl rfl rfl rfl rfl rfl

theorem convertEntry_keeps {z s : State} (x : Nat) (uv : Int) (hz : Keeps z s) : Keeps z (convertEntry s x uv) := by
  unfold convertEntry
  try dsimp only
  repeat' first
    | (with_reducible first
        | assumption | apply startPass_keeps | apply countOvr_keeps | apply enterCode_keeps | apply setConv_keeps
        | refine Keeps.snd (by assumption) ?_ | refine Keeps.fst (by assumption) ?_ | apply Keeps.ite)
    | split
    | refine Keeps.upd ?_ rfl rfl rfl rfl rfl rfl rfl rfl rfl

theorem sliceError_keeps {z s : State} (x : Nat) (hz : Keeps z s) : Keeps z (sliceError s x) := by
  unfold sliceError
  try dsimp only
  repeat' first
    | (with_reducible first | assumption | apply set_keeps | apply raiseFault_keeps | apply Keeps.ite)
    | split
    | refine Keeps.upd ?_ rfl rfl rfl rfl rfl rfl rfl rfl rfl

theorem sliceMeasured_keeps {z s : State} (x : Nat) (slice : Nat) (d : Int) (hz : Keeps z s) : Keeps z (sliceMeasured s x slice d) := by
  unfold sliceMeasured
  try dsimp only
  repeat' first
    | (with_reducible first | assumption | apply setConv_keeps | apply sliceError_keeps | apply Keeps.ite)
    | split
    | refine Keeps.upd ?_ rfl rfl rfl rfl rfl rfl rfl rfl rfl

theorem countBg_keeps {z s : State} (x : Nat) (moved : Int) (hz : Keeps z s) : Keeps z (countBg s x moved) := by
  unfold countBg
  try dsimp only
  repeat' first
    | (with_reducible first | assumption | apply setConv_keeps | apply sliceMeasured_keeps | apply Keeps.ite)
    | split
    | refine Keeps.upd ?_ rfl rfl rfl rfl rfl rfl rfl rfl rfl

theorem execHkConversion_keeps {z s : State} (conv : Side) (sample : HkSample) (hz : Keeps z s) : OutKeeps z (execHkConversion conv sample s) := by
  unfold execHkConversion
  try dsimp only
  repeat' first
    | (with_reducible first
        | assumption | apply OutKeeps.next | apply setConv_keeps | apply countBg_keeps | apply convertEntry_keeps
        | apply Keeps.ite | apply OutKeeps.ite)
    | split
    | refine Keeps.upd ?_ rfl rfl rfl rfl rfl rfl rfl rfl rfl

theorem requestInjection_keeps {z s : State} (x : Nat) (hz : Keeps z s) : Keeps z (requestInjection s x) := by
  unfold requestInjection
  try dsimp only
  repeat' first
    | (with_reducible first | assumption | apply set_keeps | apply setConv_keeps | apply Keeps.ite)
    | split
    | refine Keeps.upd ?_ rfl rfl rfl rfl rfl rfl rfl rfl rfl

theorem execHkInjectRequest_keeps {z s : State} (conv : Side) (loop : Bool) (hz : Keeps z s) : OutKeeps z (execHkInjectRequest conv loop s) := by
  unfold execHkInjectRequest
  try dsimp only
  repeat' first
    | (with_reducible first
        | assumption | apply OutKeeps.next | apply setConv_keeps | apply requestInjection_keeps | apply Keeps.ite
        | apply OutKeeps.ite)
    | split
    | refine Keeps.upd ?_ rfl rfl rfl rfl rfl rfl rfl rfl rfl

theorem execHkInjection_keeps {z s : State} (conv : Side) (uv : Int) (hz : Keeps z s) : OutKeeps z (execHkInjection conv uv s) := by
  unfold execHkInjection
  try dsimp only
  repeat' first
    | (with_reducible first
        | assumption | apply OutKeeps.next | apply set_keeps | apply put_keeps | apply countOvr_keeps
        | apply setConv_keeps | refine Keeps.snd (by assumption) ?_ | refine Keeps.fst (by assumption) ?_
        | apply Keeps.ite | apply OutKeeps.ite)
    | split
    | refine Keeps.upd ?_ rfl rfl rfl rfl rfl rfl rfl rfl rfl

theorem clearTrackers_keeps {z s : State} (x : Nat) (w : Nat) (hz : Keeps z s) : Keeps z (clearTrackers s x w) := by
  unfold clearTrackers
  try dsimp only
  repeat' first
    | (with_reducible first | assumption | apply set_keeps | apply Keeps.foldl)
    | (intro _; try dsimp only)
    | with_reducible apply Keeps.ite
    | split
    | refine Keeps.upd ?_ rfl rfl rfl rfl rfl rfl rfl rfl rfl

theorem execHkcMmClrWrite_keeps {z s : State} (conv : Side) (value : Dword) (hz : Keeps z s) : OutKeeps z (execHkcMmClrWrite conv value s) := by
  unfold execHkcMmClrWrite
  try dsimp only
  repeat' first
    | (with_reducible first
        | assumption | apply OutKeeps.next | apply clearTrackers_keeps | apply Keeps.ite | apply OutKeeps.ite)
    | split
    | refine Keeps.upd ?_ rfl rfl rfl rfl rfl rfl rfl rfl rfl

theorem startSelfcal_keeps {z s : State} (x : Nat) (hz : Keeps z s) : Keeps z (startSelfcal s x) := by
  unfold startSelfcal
  try dsimp only
  repeat' first
    | (with_reducible first | assumption | apply set_keeps | apply Keeps.ite)
    | split
    | refine Keeps.upd ?_ rfl rfl rfl rfl rfl rfl rfl rfl rfl

theorem execHkSelfcal_keeps {z s : State} (conv : Side) (hz : Keeps z s) : OutKeeps z (execHkSelfcal conv s) := by
  unfold execHkSelfcal
  try dsimp only
  repeat' first
    | (with_reducible first
        | assumption | apply OutKeeps.next | apply startSelfcal_keeps | apply Keeps.ite | apply OutKeeps.ite)
    | split
    | refine Keeps.upd ?_ rfl rfl rfl rfl rfl rfl rfl rfl rfl

theorem execHkSelfcalDone_keeps {z s : State} (conv : Side) (slices : List Int) (hz : Keeps z s) : OutKeeps z (execHkSelfcalDone conv slices s) := by
  unfold execHkSelfcalDone
  try dsimp only
  repeat' first
    | (with_reducible first
        | assumption | apply OutKeeps.next | apply set_keeps | apply sliceMeasured_keeps | apply Keeps.foldl)
    | (intro _; try dsimp only)
    | (with_reducible first | apply Keeps.ite | apply OutKeeps.ite)
    | split
    | refine Keeps.upd ?_ rfl rfl rfl rfl rfl rfl rfl rfl rfl

theorem execRefBufferOn_keeps {z s : State} (conv : Side) (hz : Keeps z s) : OutKeeps z (execRefBufferOn conv s) := by
  unfold execRefBufferOn
  try dsimp only
  repeat' first
    | (with_reducible first | assumption | apply OutKeeps.next | apply set_keeps | apply Keeps.ite | apply OutKeeps.ite)
    | split
    | refine Keeps.upd ?_ rfl rfl rfl rfl rfl rfl rfl rfl rfl

theorem execRefBufferOff_keeps {z s : State} (conv : Side) (hz : Keeps z s) : OutKeeps z (execRefBufferOff conv s) := by
  unfold execRefBufferOff
  try dsimp only
  repeat' first
    | (with_reducible first | assumption | apply OutKeeps.next | apply set_keeps | apply Keeps.ite | apply OutKeeps.ite)
    | split
    | refine Keeps.upd ?_ rfl rfl rfl rfl rfl rfl rfl rfl rfl

theorem writeSeq_keeps {z s : State} (x : Nat) (e : Nat) (v : Nat) (fs : List (Fld × Acc)) (off : Nat) (hz : Keeps z s) : Keeps z (writeSeq s x e v fs off) := by
  unfold writeSeq
  try dsimp only
  repeat' first
    | (with_reducible first | assumption | apply writeFields_keeps | apply setConv_keeps | apply Keeps.ite)
    | split
    | refine Keeps.upd ?_ rfl rfl rfl rfl rfl rfl rfl rfl rfl

theorem writeHkCtrl_keeps {z s : State} (x : Nat) (v : Nat) (fs : List (Fld × Acc)) (off : Nat) (hz : Keeps z s) : Keeps z (writeHkCtrl s x v fs off) := by
  unfold writeHkCtrl
  try dsimp only
  repeat' first
    | (with_reducible first
        | assumption | apply writeFields_keeps | apply setConv_keeps | apply startSelfcal_keeps | apply Keeps.ite)
    | split
    | refine Keeps.upd ?_ rfl rfl rfl rfl rfl rfl rfl rfl rfl

theorem pairFault_keeps {z s : State} (k : Nat) (hz : Keeps z s) : Keeps z (pairFault s k) := by
  unfold pairFault
  try dsimp only
  repeat' first
    | (with_reducible first
        | assumption | apply set_keeps | apply raiseF3_keeps | apply raiseFault_keeps | apply Keeps.ite)
    | split
    | refine Keeps.upd ?_ rfl rfl rfl rfl rfl rfl rfl rfl rfl

theorem comparePair_keeps {z s : State} (k : Nat) (hz : Keeps z s) : Keeps z (comparePair s k) := by
  unfold comparePair
  try dsimp only
  repeat' first
    | (with_reducible first | assumption | apply pairFault_keeps | apply clearF3_keeps | apply Keeps.ite)
    | split
    | refine Keeps.upd ?_ rfl rfl rfl rfl rfl rfl rfl rfl rfl

theorem execHeartbeat_keeps {z s : State} (upset : Bool) (hz : Keeps z s) : OutKeeps z (execHeartbeat upset s) := by
  unfold execHeartbeat
  try dsimp only
  repeat' first
    | (with_reducible first
        | assumption | apply OutKeeps.next | apply heartbeatCompare_keeps | apply comparePair_keeps
        | apply Keeps.foldl)
    | (intro _; try dsimp only)
    | (with_reducible first | apply Keeps.ite | apply OutKeeps.ite)
    | split
    | refine Keeps.upd ?_ rfl rfl rfl rfl rfl rfl rfl rfl rfl

theorem execNop_keeps {z s : State} (port : Port) (tag : Nat) (hz : Keeps z s) : OutKeeps z (execNop port tag s) := by
  unfold execNop
  try dsimp only
  repeat' first
    | (with_reducible first | assumption | apply OutKeeps.next | apply finishOk_keeps | apply withCmd_keeps)
    | (intro _; try dsimp only)
    | (with_reducible first | apply Keeps.ite | apply OutKeeps.ite)
    | split
    | refine Keeps.upd ?_ rfl rfl rfl rfl rfl rfl rfl rfl rfl

theorem execGetInfo_keeps {z s : State} (port : Port) (tag : Nat) (hz : Keeps z s) : OutKeeps z (execGetInfo port tag s) := by
  unfold execGetInfo
  try dsimp only
  repeat' first
    | (with_reducible first | assumption | apply OutKeeps.next | apply finishOk_keeps | apply withCmd_keeps)
    | (intro _; try dsimp only)
    | (with_reducible first | apply Keeps.ite | apply OutKeeps.ite)
    | split
    | refine Keeps.upd ?_ rfl rfl rfl rfl rfl rfl rfl rfl rfl

theorem execReset_keeps {z s : State} (port : Port) (tag : Nat) (hz : Keeps z s) : OutKeeps z (execReset port tag s) := by
  unfold execReset
  try dsimp only
  repeat' first
    | (with_reducible first
        | assumption | apply OutKeeps.next | apply set_keeps | apply finishOk_keeps | apply withCmd_keeps)
    | (intro _; try dsimp only)
    | (with_reducible first | apply Keeps.ite | apply OutKeeps.ite)
    | split
    | refine Keeps.upd ?_ rfl rfl rfl rfl rfl rfl rfl rfl rfl

theorem execSetPowerCap_keeps {z s : State} (port : Port) (tag : Nat) (hz : Keeps z s) : OutKeeps z (execSetPowerCap port tag s) := by
  unfold execSetPowerCap
  try dsimp only
  repeat' first
    | (with_reducible first
        | assumption | apply OutKeeps.next | apply set_keeps | apply finishOk_keeps | apply withCmd_keeps)
    | (intro _; try dsimp only)
    | (with_reducible first | apply Keeps.ite | apply OutKeeps.ite)
    | split
    | refine Keeps.upd ?_ rfl rfl rfl rfl rfl rfl rfl rfl rfl

theorem startFromStandby_keeps {z s : State} (hz : Keeps z s) : Keeps z (startFromStandby s) := by
  unfold startFromStandby
  try dsimp only
  repeat' first
    | (with_reducible first
        | assumption | apply set_keeps | apply clustersCold_keeps | apply startAt_keeps | apply background_keeps
        | apply Keeps.ite)
    | split
    | refine Keeps.upd ?_ rfl rfl rfl rfl rfl rfl rfl rfl rfl

theorem execSetState_keeps {z s : State} (port : Port) (tag : Nat) (hz : Keeps z s) : OutKeeps z (execSetState port tag s) := by
  unfold execSetState
  try dsimp only
  repeat' first
    | (with_reducible first
        | assumption | apply OutKeeps.next | apply beginShake_keeps | apply finishOk_keeps
        | apply startFromStandby_keeps | apply withCmd_keeps | apply begin__keeps)
    | (intro _; try dsimp only)
    | (with_reducible first | apply Keeps.ite | apply OutKeeps.ite)
    | split
    | refine Keeps.upd ?_ rfl rfl rfl rfl rfl rfl rfl rfl rfl

theorem leaveReady_keeps {z s : State} (hz : Keeps z s) : Keeps z (leaveReady s) := by
  unfold leaveReady
  try dsimp only
  repeat' first
    | (with_reducible first
        | assumption | apply set_keeps | apply returnAnyway_keeps | apply setMode_keeps | apply setClusters_keeps
        | apply thmOff_keeps | apply Keeps.ite)
    | split
    | refine Keeps.upd ?_ rfl rfl rfl rfl rfl rfl rfl rfl rfl

theorem execStateChangeDone_keeps {z s : State} (hz : Keeps z s) : OutKeeps z (execStateChangeDone s) := by
  unfold execStateChangeDone
  try dsimp only
  repeat' first
    | (with_reducible first
        | assumption | apply OutKeeps.next | apply finishRunning_keeps | apply leaveReady_keeps | apply Keeps.ite
        | apply OutKeeps.ite)
    | split
    | refine Keeps.upd ?_ rfl rfl rfl rfl rfl rfl rfl rfl rfl

theorem stopGrooms_keeps {z s : State} (p : Groom → Bool) (hz : Keeps z s) : Keeps z (stopGrooms s p) := by
  unfold stopGrooms
  try dsimp only
  repeat' first
    | (with_reducible first | assumption | apply abortGroom_keeps | apply Keeps.foldl)
    | (intro _; try dsimp only)
    | with_reducible apply Keeps.ite
    | split
    | refine Keeps.upd ?_ rfl rfl rfl rfl rfl rfl rfl rfl rfl

theorem stopChange_keeps {z s : State} (hz : Keeps z s) : Keeps z (stopChange s) := by
  unfold stopChange
  try dsimp only
  repeat' first
    | (with_reducible first
        | assumption | apply startAt_keeps | apply setClusters_keeps | apply stopGrooms_keeps | apply Keeps.ite)
    | split
    | refine Keeps.upd ?_ rfl rfl rfl rfl rfl rfl rfl rfl rfl

theorem stopFfc_keeps {z s : State} (hz : Keeps z s) : Keeps z (stopFfc s) := by
  unfold stopFfc
  try dsimp only
  repeat' first
    | (with_reducible first | assumption | apply set_keeps | apply setThm_keeps | apply Keeps.ite)
    | split
    | refine Keeps.upd ?_ rfl rfl rfl rfl rfl rfl rfl rfl rfl

theorem stopOperation_keeps {z s : State} (x : Cmd) (hz : Keeps z s) : Keeps z (stopOperation s x) := by
  unfold stopOperation
  try dsimp only
  repeat' first
    | (with_reducible first
        | assumption | apply set_keeps | apply stopChange_keeps | apply setThm_keeps | apply stopFfc_keeps
        | apply stopGrooms_keeps | apply rerunCls_keeps | apply Keeps.ite)
    | split
    | refine Keeps.upd ?_ rfl rfl rfl rfl rfl rfl rfl rfl rfl

theorem execAbort_keeps {z s : State} (port : Port) (tag : Nat) (hz : Keeps z s) : OutKeeps z (execAbort port tag s) := by
  unfold execAbort
  try dsimp only
  repeat' first
    | (with_reducible first
        | assumption | apply OutKeeps.next | apply finishOk_keeps | apply finish_keeps | apply stopOperation_keeps
        | apply withCmd_keeps)
    | (intro _; try dsimp only)
    | (with_reducible first | apply Keeps.ite | apply OutKeeps.ite)
    | split
    | refine Keeps.upd ?_ rfl rfl rfl rfl rfl rfl rfl rfl rfl

theorem abortFetched_keeps {z s : State} (hz : Keeps z s) : Keeps z (abortFetched s) := by
  unfold abortFetched
  try dsimp only
  repeat' first
    | (with_reducible first | assumption | apply stopOperation_keeps | apply finish_keeps | apply Keeps.foldl)
    | (intro _; try dsimp only)
    | with_reducible apply Keeps.ite
    | split
    | refine Keeps.upd ?_ rfl rfl rfl rfl rfl rfl rfl rfl rfl

theorem execSwitchOverDone_keeps {z s : State} (hz : Keeps z s) : OutKeeps z (execSwitchOverDone s) := by
  unfold execSwitchOverDone
  try dsimp only
  repeat' first
    | (with_reducible first
        | assumption | apply OutKeeps.next | apply set_keeps | apply inc_keeps | apply finishRunning_keeps
        | apply abortFetched_keeps | apply Keeps.ite | apply OutKeeps.ite)
    | split
    | refine Keeps.upd ?_ rfl rfl rfl rfl rfl rfl rfl rfl rfl

theorem execDiagReadFaults_keeps {z s : State} (port : Port) (tag : Nat) (hz : Keeps z s) : OutKeeps z (execDiagReadFaults port tag s) := by
  unfold execDiagReadFaults
  try dsimp only
  repeat' first
    | (with_reducible first
        | assumption | apply OutKeeps.next | apply finishOut_keeps | apply Keeps.foldl | apply withCmd_keeps)
    | (intro _; try dsimp only)
    | (with_reducible first | apply Keeps.ite | apply OutKeeps.ite)
    | split
    | refine Keeps.upd ?_ rfl rfl rfl rfl rfl rfl rfl rfl rfl

theorem execDiagClearFaults_keeps {z s : State} (port : Port) (tag : Nat) (hz : Keeps z s) :
    OutKeeps z (execDiagClearFaults port tag s) := by
  unfold execDiagClearFaults
  refine withCmd_keeps hz fun c => finishOk_keeps _ _ ((set_keeps _ _ hz).faults fun h => ?_)
  exact Nat.le_trans (List.length_filter_le _ _) h

theorem execDiagImpedance_keeps {z s : State} (port : Port) (tag : Nat) (hz : Keeps z s) : OutKeeps z (execDiagImpedance port tag s) := by
  unfold execDiagImpedance
  try dsimp only
  repeat' first
    | (with_reducible first
        | assumption | apply OutKeeps.next | apply startImpedance_keeps | apply withCmd_keeps | apply begin__keeps)
    | (intro _; try dsimp only)
    | (with_reducible first | apply Keeps.ite | apply OutKeeps.ite)
    | split
    | refine Keeps.upd ?_ rfl rfl rfl rfl rfl rfl rfl rfl rfl

theorem execDiagSelfTest_keeps {z s : State} (port : Port) (tag : Nat) (hz : Keeps z s) : OutKeeps z (execDiagSelfTest port tag s) := by
  unfold execDiagSelfTest
  try dsimp only
  repeat' first
    | (with_reducible first | assumption | apply OutKeeps.next | apply withCmd_keeps | apply begin__keeps)
    | (intro _; try dsimp only)
    | (with_reducible first | apply Keeps.ite | apply OutKeeps.ite)
    | split
    | refine Keeps.upd ?_ rfl rfl rfl rfl rfl rfl rfl rfl rfl

theorem execSelfTestDone_keeps {z s : State} (failed : Nat) (hz : Keeps z s) : OutKeeps z (execSelfTestDone failed s) := by
  unfold execSelfTestDone
  try dsimp only
  repeat' first
    | (with_reducible first
        | assumption | apply OutKeeps.next | apply finishOk_keeps | apply Keeps.ite | apply OutKeeps.ite)
    | split
    | refine Keeps.upd ?_ rfl rfl rfl rfl rfl rfl rfl rfl rfl

theorem execDiagReadCounters_keeps {z s : State} (port : Port) (tag : Nat) (hz : Keeps z s) : OutKeeps z (execDiagReadCounters port tag s) := by
  unfold execDiagReadCounters
  try dsimp only
  repeat' first
    | (with_reducible first
        | assumption | apply OutKeeps.next | apply takeFree_keeps | apply finishOut_keeps | apply withCmd_keeps)
    | (intro _; try dsimp only)
    | (with_reducible first
        | refine Keeps.snd (by assumption) ?_ | refine Keeps.fst (by assumption) ?_ | apply Keeps.ite
        | apply OutKeeps.ite)
    | split
    | refine Keeps.upd ?_ rfl rfl rfl rfl rfl rfl rfl rfl rfl

theorem takeEntry_keeps {z s : State} (c : Cmd) (hz : Keeps z s) : Keeps z (takeEntry s c) := by
  unfold takeEntry
  try dsimp only
  repeat' first
    | (with_reducible first | assumption | apply queueComp_keeps | apply Keeps.ite)
    | split
    | refine Keeps.upd ?_ rfl rfl rfl rfl rfl rfl rfl rfl rfl

theorem enableRings_keeps {z s : State} (hz : Keeps z s) : Keeps z (enableRings s) := by
  unfold enableRings
  try dsimp only
  repeat' first
    | (with_reducible first | assumption | apply set_keeps | apply Keeps.ite)
    | split
    | refine Keeps.upd ?_ rfl rfl rfl rfl rfl rfl rfl rfl rfl

theorem endDrain_keeps {z s : State} (hz : Keeps z s) : Keeps z (endDrain s) := by
  unfold endDrain
  try dsimp only
  repeat' first
    | (with_reducible first | assumption | apply set_keeps | apply Keeps.ite)
    | split
    | refine Keeps.upd ?_ rfl rfl rfl rfl rfl rfl rfl rfl rfl

theorem writeCmdCtrl_keeps {z s : State} (v : Nat) (hz : Keeps z s) : Keeps z (writeCmdCtrl s v) := by
  unfold writeCmdCtrl
  try dsimp only
  repeat' first
    | (with_reducible first
        | assumption | apply put_keeps | apply enableRings_keeps | apply endDrain_keeps | apply Keeps.ite)
    | split
    | refine Keeps.upd ?_ rfl rfl rfl rfl rfl rfl rfl rfl rfl

theorem execCmdCtrlWrite_keeps {z s : State} (value : Dword) (hz : Keeps z s) : OutKeeps z (execCmdCtrlWrite value s) := by
  unfold execCmdCtrlWrite
  try dsimp only
  repeat' first
    | (with_reducible first
        | assumption | apply OutKeeps.next | apply writeCmdCtrl_keeps | apply Keeps.ite | apply OutKeeps.ite)
    | split
    | refine Keeps.upd ?_ rfl rfl rfl rfl rfl rfl rfl rfl rfl

theorem execRingDrainDone_keeps {z s : State} (hz : Keeps z s) : OutKeeps z (execRingDrainDone s) := by
  unfold execRingDrainDone
  try dsimp only
  repeat' first
    | (with_reducible first
        | assumption | apply OutKeeps.next | apply endDrain_keeps | apply Keeps.ite | apply OutKeeps.ite)
    | split
    | refine Keeps.upd ?_ rfl rfl rfl rfl rfl rfl rfl rfl rfl

theorem writeDb0_keeps {z s : State} (v : Nat) (hz : Keeps z s) : Keeps z (writeDb0 s v) := by
  unfold writeDb0
  try dsimp only
  repeat' first
    | (with_reducible first | assumption | apply Keeps.ite)
    | split
    | refine Keeps.upd ?_ rfl rfl rfl rfl rfl rfl rfl rfl rfl

theorem execCmdDb0_keeps {z s : State} (value : Dword) (hz : Keeps z s) : OutKeeps z (execCmdDb0 value s) := by
  unfold execCmdDb0
  try dsimp only
  repeat' first
    | (with_reducible first
        | assumption | apply OutKeeps.next | apply writeDb0_keeps | apply Keeps.ite | apply OutKeeps.ite)
    | split
    | refine Keeps.upd ?_ rfl rfl rfl rfl rfl rfl rfl rfl rfl

theorem execCommandFetch_keeps {z s : State} (entry : List Dword) (err : Bool) (hz : Keeps z s) : OutKeeps z (execCommandFetch entry err s) := by
  unfold execCommandFetch
  try dsimp only
  repeat' first
    | (with_reducible first
        | assumption | apply OutKeeps.next | apply set_keeps | apply sendRead_keeps | apply takeEntry_keeps
        | apply Keeps.ite | apply OutKeeps.ite)
    | split
    | refine Keeps.upd ?_ rfl rfl rfl rfl rfl rfl rfl rfl rfl

theorem contentsCheck_keeps {z s : State} (c : Cmd) (b : List Byte) (hz : Keeps z s) : Keeps z (contentsCheck s c b).2 := by
  unfold contentsCheck
  dsimp only
  split <;> first | exact hz | exact loadProgContents_keeps _ hz | exact safContents_keeps _ _ hz

theorem beginRead_keeps {z s : State} (c : Cmd) (hz : Keeps z s) : Keeps z (beginRead s c).1 := by
  unfold beginRead
  split
  · exact replaceCmd_keeps _ _ (queueComp_keeps _ _ _ _ _ _ hz)
  · exact hz

theorem checkBuffer_keeps {z s : State} (c : Cmd) (b : List Byte) (hz : Keeps z s) : Keeps z (checkBuffer s c b) := by
  have k : Keeps z (if opSigned c.opcode = true then checkBlock s c b else (none, s)).2 := by
    split
    · exact checkBlock_keeps _ _ hz
    · exact hz
  unfold checkBuffer
  generalize (if opSigned c.opcode = true then checkBlock s c b else (none, s)) = p at k
  obtain ⟨r, t⟩ := p
  dsimp only at k ⊢
  split
  · exact refuse_keeps _ _ _ k
  · have k2 := contentsCheck_keeps c (withData c b).data k
    split
    · exact refuse_keeps _ _ _ (Keeps.snd ‹_› k2)
    · exact replaceCmd_keeps _ _ (Keeps.snd ‹_› k2)

theorem execBufferReadDone_keeps {z s : State} (port : Port) (tag : Nat) (err : Bool) (data : List Byte) (hz : Keeps z s) :
    OutKeeps z (execBufferReadDone port tag err data s) := by
  unfold execBufferReadDone
  split
  · exact .next hz
  · rename_i c _
    have k := beginRead_keeps c hz
    split
    · exact .next (refuse_keeps _ _ _ hz)
    · generalize beginRead s c = p at k
      obtain ⟨t, d⟩ := p
      dsimp only at k ⊢
      split
      · exact .next (checkBuffer_keeps _ _ k)
      · have k2 := sendRead_keeps d.bufAddr (64 * c.paramLen) k
        exact .ite (.next (finish_keeps _ _ _ _ k)) (.ite (.next (finish_keeps _ _ _ _ k2)) (.next (checkBuffer_keeps _ _ k2)))

theorem execBufferTimeout_keeps {z s : State} (tag : Nat) (hz : Keeps z s) : OutKeeps z (execBufferTimeout tag s) := by
  unfold execBufferTimeout
  split
  · exact .next hz
  · rename_i c _
    have k := beginRead_keeps c (inc_keeps F.LNK_PCIE_ERR_CTO hz)
    split
    · exact .next (refuse_keeps _ _ _ hz)
    · generalize beginRead _ c = p at k
      obtain ⟨t, d⟩ := p
      exact .next (finish_keeps _ _ _ _ (Keeps.ite (sendRead_keeps _ _ k) k))

theorem notifyComps_keeps {z s : State} (hz : Keeps z s) : Keeps z (notifyComps s) := by
  unfold notifyComps
  try dsimp only
  repeat' first
    | (with_reducible first | assumption | apply Keeps.ite)
    | split
    | refine Keeps.upd ?_ rfl rfl rfl rfl rfl rfl rfl rfl rfl

theorem dropComp_keeps {z s : State} (x : Comp) (hz : Keeps z s) : Keeps z (dropComp s x) := by
  unfold dropComp
  try dsimp only
  repeat' first
    | (with_reducible first | assumption | apply beginShake_keeps | apply Keeps.ite)
    | split
    | refine Keeps.upd ?_ rfl rfl rfl rfl rfl rfl rfl rfl rfl

theorem writeComp_keeps {z s : State} (x : Comp) (hz : Keeps z s) : Keeps z (writeComp s x) := by
  unfold writeComp
  try dsimp only
  repeat' first
    | (with_reducible first
        | assumption | apply set_keeps | apply dropComp_keeps | apply sendMem_keeps | apply notifyComps_keeps
        | apply Keeps.ite)
    | split
    | refine Keeps.upd ?_ rfl rfl rfl rfl rfl rfl rfl rfl rfl

theorem execCompletionWrite_keeps {z s : State} (port : Port) (err : Bool) (hz : Keeps z s) : OutKeeps z (execCompletionWrite port err s) := by
  unfold execCompletionWrite
  try dsimp only
  repeat' first
    | (with_reducible first
        | assumption | apply OutKeeps.next | apply set_keeps | apply dropComp_keeps | apply writeComp_keeps
        | apply Keeps.ite | apply OutKeeps.ite)
    | split
    | refine Keeps.upd ?_ rfl rfl rfl rfl rfl rfl rfl rfl rfl

theorem writeDb1_keeps {z s : State} (v : Nat) (hz : Keeps z s) : Keeps z (writeDb1 s v) := by
  unfold writeDb1
  try dsimp only
  repeat' first
    | (with_reducible first | assumption | apply Keeps.ite)
    | split
    | refine Keeps.upd ?_ rfl rfl rfl rfl rfl rfl rfl rfl rfl

theorem execCmdDb1_keeps {z s : State} (value : Dword) (hz : Keeps z s) : OutKeeps z (execCmdDb1 value s) := by
  unfold execCmdDb1
  try dsimp only
  repeat' first
    | (with_reducible first
        | assumption | apply OutKeeps.next | apply writeDb1_keeps | apply Keeps.ite | apply OutKeeps.ite)
    | split
    | refine Keeps.upd ?_ rfl rfl rfl rfl rfl rfl rfl rfl rfl

theorem execCmpNotifyTimer_keeps {z s : State} (hz : Keeps z s) : OutKeeps z (execCmpNotifyTimer s) := by
  unfold execCmpNotifyTimer
  try dsimp only
  repeat' first
    | (with_reducible first
        | assumption | apply OutKeeps.next | apply notifyComps_keeps | apply Keeps.ite | apply OutKeeps.ite)
    | split
    | refine Keeps.upd ?_ rfl rfl rfl rfl rfl rfl rfl rfl rfl

end Sys2Proof.Machine
end

