-- ==== Sys2Proof/Laws/KeepsRegs.lean ====
section
/-! SUPPORT. What every operation of register accesses, the management port, the device's own traffic and the tick keeps (Safety.lean): one lemma each. -/

namespace Sys2Proof.Machine

theorem setShadow_keeps {z s : State} (p : Access) (base : Nat) (v : Nat) (hz : Keeps z s) : Keeps z (setShadow s p base v) := by
  unfold setShadow
  try dsimp only
  repeat' first
    | (with_reducible first | assumption | apply Keeps.ite)
    | split
    | refine Keeps.upd ?_ rfl rfl rfl rfl rfl rfl rfl rfl rfl

theorem setHeldLow_keeps {z s : State} (p : Access) (base : Nat) (v : Nat) (hz : Keeps z s) : Keeps z (setHeldLow s p base v) := by
  unfold setHeldLow
  try dsimp only
  repeat' first
    | (with_reducible first | assumption | apply Keeps.ite)
    | split
    | refine Keeps.upd ?_ rfl rfl rfl rfl rfl rfl rfl rfl rfl

theorem spendRead_keeps {z s : State} (x : Nat) (hz : Keeps z s) : Keeps z (spendRead s x) := by
  unfold spendRead
  try dsimp only
  repeat' first
    | (with_reducible first | assumption | apply Keeps.ite)
    | split
    | refine Keeps.upd ?_ rfl rfl rfl rfl rfl rfl rfl rfl rfl

theorem readDword_keeps {z s : State} (p : Access) (x : Nat) (hz : Keeps z s) : Keeps z (readDword s p x).2 := by
  unfold readDword
  split
  · exact hz
  · split
    · exact hz
    · dsimp only
      split
      · exact spendRead_keeps _ hz
      · split
        · exact setShadow_keeps _ _ _ hz
        · exact hz

theorem execWideLoRead_keeps {z s : State} (path : Access) (off : Nat) (hz : Keeps z s) : OutKeeps z (execWideLoRead path off s) := by
  unfold execWideLoRead
  try dsimp only
  repeat' first
    | (with_reducible first
        | assumption | apply OutKeeps.next | apply readDword_keeps | apply Keeps.ite | apply OutKeeps.ite)
    | split
    | refine Keeps.upd ?_ rfl rfl rfl rfl rfl rfl rfl rfl rfl

theorem writeAllow_keeps {z s : State} (v : Nat) (hz : Keeps z s) : Keeps z (writeAllow s v) := by
  unfold writeAllow
  try dsimp only
  repeat' first
    | (with_reducible first
        | assumption | apply writeAt_keeps | apply thmOff_keeps | apply startPath_keeps | apply linkOff_keeps
        | apply startTraining_keeps | apply Keeps.ite)
    | split
    | refine Keeps.upd ?_ rfl rfl rfl rfl rfl rfl rfl rfl rfl

theorem writeSys_keeps {z s : State} (x : Nat) (v : Nat) (hz : Keeps z s) : Keeps z (writeSys s x v) := by
  unfold writeSys
  try dsimp only
  repeat' first
    | (with_reducible first
        | assumption | apply writeAt_keeps | apply writeAllow_keeps | apply writeRefCfg_keeps | apply Keeps.ite)
    | split
    | refine Keeps.upd ?_ rfl rfl rfl rfl rfl rfl rfl rfl rfl

theorem writeCmd_keeps {z s : State} (x : Nat) (v : Nat) (hz : Keeps z s) : Keeps z (writeCmd s x v) := by
  unfold writeCmd
  try dsimp only
  repeat' first
    | (with_reducible first
        | assumption | apply writeCmdCtrl_keeps | apply writeDb0_keeps | apply writeDb1_keeps | apply writeAt_keeps
        | apply Keeps.ite)
    | split
    | refine Keeps.upd ?_ rfl rfl rfl rfl rfl rfl rfl rfl rfl

theorem writeIrq_keeps {z s : State} (p : Access) (x : Nat) (v : Nat) (hz : Keeps z s) : Keeps z (writeIrq s p x v) := by
  unfold writeIrq
  try dsimp only
  repeat' first
    | (with_reducible first
        | assumption | apply put_keeps | apply hostEoi_keeps | apply swSet_keeps | apply swClr_keeps
        | apply writeAt_keeps | apply Keeps.ite)
    | split
    | refine Keeps.upd ?_ rfl rfl rfl rfl rfl rfl rfl rfl rfl

theorem writeRxf_keeps {z s : State} (x : Nat) (v : Nat) (hz : Keeps z s) : Keeps z (writeRxf s x v) := by
  unfold writeRxf
  try dsimp only
  repeat' first
    | (with_reducible first
        | assumption | apply writeChCfg_keeps | apply writeAt_keeps | apply writeApdbCtrl_keeps | apply writeObs_keeps
        | apply Keeps.ite)
    | split
    | refine Keeps.upd ?_ rfl rfl rfl rfl rfl rfl rfl rfl rfl

theorem writeTdc_keeps {z s : State} (x : Nat) (v : Nat) (hz : Keeps z s) : Keeps z (writeTdc s x v) := by
  unfold writeTdc
  try dsimp only
  repeat' first
    | (with_reducible first
        | assumption | apply writePpsCfg_keeps | apply writeWinProf_keeps | apply writeFireCfg_keeps
        | apply writeFmCtrl_keeps | apply writeAt_keeps | apply Keeps.ite)
    | split
    | refine Keeps.upd ?_ rfl rfl rfl rfl rfl rfl rfl rfl rfl

theorem writeHge_keeps {z s : State} (x : Nat) (v : Nat) (hz : Keeps z s) : Keeps z (writeHge s x v) := by
  unfold writeHge
  try dsimp only
  repeat' first
    | (with_reducible first
        | assumption | apply writeAt_keeps | apply writeCode_keeps | apply writeDither_keeps | apply writeRptr_keeps
        | apply Keeps.ite)
    | split
    | refine Keeps.upd ?_ rfl rfl rfl rfl rfl rfl rfl rfl rfl

theorem writeYard_keeps {z s : State} (x : Nat) (v : Nat) (hz : Keeps z s) : Keeps z (writeYard s x v) := by
  unfold writeYard
  try dsimp only
  repeat' first
    | (with_reducible first | assumption | apply writeMapCfg_keeps | apply writeAt_keeps | apply Keeps.ite)
    | split
    | refine Keeps.upd ?_ rfl rfl rfl rfl rfl rfl rfl rfl rfl

theorem writeEmi_keeps {z s : State} (x : Nat) (v : Nat) (hz : Keeps z s) : Keeps z (writeEmi s x v) := by
  unfold writeEmi
  try dsimp only
  repeat' first
    | (with_reducible first
        | assumption | apply set_keeps | apply writeAt_keeps | apply clearInhibit_keeps | apply writeBankReg_keeps
        | apply lbtConfigWritten_keeps | apply writeFlCtrl_keeps | apply writeFlDuty_keeps | apply Keeps.ite)
    | split
    | refine Keeps.upd ?_ rfl rfl rfl rfl rfl rfl rfl rfl rfl

theorem writeConv_keeps {z s : State} (c : Nat) (x : Nat) (v : Nat) (fs : List (Fld × Acc)) (hz : Keeps z s) : Keeps z (writeConv s c x v fs) := by
  unfold writeConv
  try dsimp only
  repeat' first
    | (with_reducible first
        | assumption | apply writeHkCtrl_keeps | apply writeFields_keeps | apply startSelfcal_keeps
        | apply requestInjection_keeps | apply clearTrackers_keeps | apply writeSeq_keeps | apply Keeps.ite)
    | split
    | refine Keeps.upd ?_ rfl rfl rfl rfl rfl rfl rfl rfl rfl

theorem writeLnk_keeps {z s : State} (x : Nat) (v : Nat) (fs : List (Fld × Acc)) (hz : Keeps z s) : Keeps z (writeLnk s x v fs) := by
  unfold writeLnk
  try dsimp only
  repeat' first
    | (with_reducible first
        | assumption | apply writeFields_keeps | apply writePrtEn_keeps | apply writeAt_keeps | apply Keeps.ite)
    | split
    | refine Keeps.upd ?_ rfl rfl rfl rfl rfl rfl rfl rfl rfl

theorem writeRed_keeps {z s : State} (x : Nat) (v : Nat) (fs : List (Fld × Acc)) (hz : Keeps z s) : Keeps z (writeRed s x v fs) := by
  unfold writeRed
  try dsimp only
  repeat' first
    | (with_reducible first
        | assumption | apply writeFields_keeps | apply releaseHalter_keeps | apply writeAt_keeps | apply Keeps.ite)
    | split
    | refine Keeps.upd ?_ rfl rfl rfl rfl rfl rfl rfl rfl rfl

theorem writeReg_keeps {z s : State} (p : Access) (r : RegRef) (v : Nat) (hz : Keeps z s) : Keeps z (writeReg s p r v) := by
  unfold writeReg
  try dsimp only
  repeat' first
    | (with_reducible first
        | assumption | apply writeSys_keeps | apply writeCmd_keeps | apply writeIrq_keeps | apply writeRxf_keeps
        | apply writeTdc_keeps | apply writeHge_keeps | apply writeYard_keeps | apply writeEmi_keeps
        | apply writeThm_keeps | apply writeConv_keeps | apply writeAt_keeps | apply writeRed_keeps
        | apply writeLnk_keeps | apply Keeps.ite)
    | split
    | refine Keeps.upd ?_ rfl rfl rfl rfl rfl rfl rfl rfl rfl

theorem writeDword_keeps {z s : State} (p : Access) (x : Nat) (v : Nat) (hz : Keeps z s) : Keeps z (writeDword s p x v) := by
  unfold writeDword
  try dsimp only
  repeat' first
    | (with_reducible first | assumption | apply writeReg_keeps | apply setHeldLow_keeps | apply Keeps.ite)
    | split
    | refine Keeps.upd ?_ rfl rfl rfl rfl rfl rfl rfl rfl rfl

theorem writeQword_keeps {z s : State} (p : Access) (x : Nat) (v : Nat) (hz : Keeps z s) : Keeps z (writeQword s p x v) := by
  unfold writeQword
  try dsimp only
  repeat' first
    | (with_reducible first | assumption | apply writeReg_keeps | apply writeDword_keeps | apply Keeps.ite)
    | split
    | refine Keeps.upd ?_ rfl rfl rfl rfl rfl rfl rfl rfl rfl

theorem execWideLoWrite_keeps {z s : State} (path : Access) (off : Nat) (value : Dword) (hz : Keeps z s) : OutKeeps z (execWideLoWrite path off value s) := by
  unfold execWideLoWrite
  try dsimp only
  repeat' first
    | (with_reducible first
        | assumption | apply OutKeeps.next | apply writeDword_keeps | apply Keeps.ite | apply OutKeeps.ite)
    | split
    | refine Keeps.upd ?_ rfl rfl rfl rfl rfl rfl rfl rfl rfl

theorem execWideHiWrite_keeps {z s : State} (path : Access) (off : Nat) (value : Dword) (hz : Keeps z s) : OutKeeps z (execWideHiWrite path off value s) := by
  unfold execWideHiWrite
  try dsimp only
  repeat' first
    | (with_reducible first
        | assumption | apply OutKeeps.next | apply writeDword_keeps | apply Keeps.ite | apply OutKeeps.ite)
    | split
    | refine Keeps.upd ?_ rfl rfl rfl rfl rfl rfl rfl rfl rfl

theorem execRegisterWrite_keeps {z s : State} (path : Access) (off : Nat) (qword : Bool) (value : BitVec 64)
    (full poisoned : Bool) (hz : Keeps z s) : OutKeeps z (execRegisterWrite path off qword value full poisoned s) := by
  unfold execRegisterWrite
  exact .ite (.next hz) (.ite (.next (Keeps.ite (inc_keeps _ hz) hz)) (.ite (.next hz) (.ite (.fault _) (.ite (.refused _)
    (.ite (.next (writeQword_keeps _ _ _ hz)) (.next (writeDword_keeps _ _ _ hz)))))))

theorem putResp_keeps {z s : State} (kind : Nat) (seq : Nat) (body : List Byte) (hz : Keeps z s) : Keeps z (putResp s kind seq body) := by
  unfold putResp
  try dsimp only
  repeat' first
    | (with_reducible first | assumption | apply set_keeps | apply Keeps.ite)
    | split
    | refine Keeps.upd ?_ rfl rfl rfl rfl rfl rfl rfl rfl rfl

theorem frameError_keeps {z s : State} (seq : Nat) (code : Nat) (hz : Keeps z s) : Keeps z (frameError s seq code) := by
  unfold frameError
  try dsimp only
  repeat' first
    | (with_reducible first | assumption | apply inc_keeps | apply putResp_keeps | apply Keeps.ite)
    | split
    | refine Keeps.upd ?_ rfl rfl rfl rfl rfl rfl rfl rfl rfl

theorem onFrame_keeps {z s : State} (kind : Nat) (b : List Byte) {act : Nat → List Byte → State} (hz : Keeps z s)
    (ha : ∀ q l, Keeps z (act q l)) : Keeps z (onFrame s kind b act) := by
  unfold onFrame
  refine Keeps.ite hz ?_
  split
  · exact frameError_keeps _ _ hz
  · exact Keeps.ite (ha _ _) hz

theorem holdFrame_keeps {z s : State} (kind : Nat) (seq : Nat) (body : List Byte) (hz : Keeps z s) : Keeps z (holdFrame s kind seq body) := by
  unfold holdFrame
  try dsimp only
  repeat' first
    | (with_reducible first | assumption | apply Keeps.ite)
    | split
    | refine Keeps.upd ?_ rfl rfl rfl rfl rfl rfl rfl rfl rfl

theorem whenLive_keeps {z s : State} (kind seq : Nat) (body : List Byte) {act : State → State} (hz : Keeps z s)
    (ha : Keeps z (act s)) : Keeps z (whenLive s kind seq body act) := by
  unfold whenLive
  have k := holdFrame_keeps kind seq body hz
  exact Keeps.ite (Keeps.ite hz ha) (Keeps.ite ha (Keeps.ite (wakeBy_keeps _ k) k))

theorem ackFrame_keeps {z s : State} (seq : Nat) (status : Nat) (tag : Nat) (hz : Keeps z s) : Keeps z (ackFrame s seq status tag) := by
  unfold ackFrame
  try dsimp only
  repeat' first
    | (with_reducible first | assumption | apply putResp_keeps | apply Keeps.ite)
    | split
    | refine Keeps.upd ?_ rfl rfl rfl rfl rfl rfl rfl rfl rfl

theorem commandFrame_keeps {z s : State} (seq : Nat) (b : List Byte) (hz : Keeps z s) : Keeps z (commandFrame seq b s) := by
  unfold commandFrame
  try dsimp only
  repeat' first
    | (with_reducible first
        | assumption | apply putResp_keeps | apply wakeBy_keeps | apply ackFrame_keeps | apply holdFrame_keeps
        | apply takeEntry_keeps | apply Keeps.ite)
    | split
    | refine Keeps.upd ?_ rfl rfl rfl rfl rfl rfl rfl rfl rfl

theorem execMgmtCommand_keeps {z s : State} (head len : Fin 65536) (body : List Byte) (crc : Dword) (hz : Keeps z s) :
    OutKeeps z (execMgmtCommand head len body crc s) :=
  .next (onFrame_keeps _ _ hz fun _ _ => Keeps.ite hz (commandFrame_keeps _ _ hz))

theorem execMgmtStatusRead_keeps {z s : State} (head : Fin 65536) (rest : List Byte) (hz : Keeps z s) :
    OutKeeps z (execMgmtStatusRead head rest s) :=
  .next (onFrame_keeps _ _ hz fun _ _ => putResp_keeps _ _ _ hz)

theorem readCompletion_keeps {z s : State} (seq : Nat) (hz : Keeps z s) : Keeps z (readCompletion seq s) := by
  unfold readCompletion
  try dsimp only
  repeat' first
    | (with_reducible first | assumption | apply putResp_keeps | apply Keeps.ite)
    | split
    | refine Keeps.upd ?_ rfl rfl rfl rfl rfl rfl rfl rfl rfl

theorem execMgmtCompletionRead_keeps {z s : State} (head : Fin 65536) (rest : List Byte) (hz : Keeps z s) :
    OutKeeps z (execMgmtCompletionRead head rest s) :=
  .next (onFrame_keeps _ _ hz fun _ _ => whenLive_keeps _ _ _ hz (readCompletion_keeps _ hz))

theorem readDwords_keeps {z s : State} (n x : Nat) (hz : Keeps z s) : Keeps z (readDwords n x s).2 := by
  induction n generalizing s x with
  | zero => exact hz
  | succ n ih =>
    unfold readDwords
    dsimp only
    split
    · exact ih _ (readDword_keeps _ _ hz)
    · exact ih _ hz

theorem readRegs_keeps {z s : State} (seq : Nat) (b : List Byte) (hz : Keeps z s) : Keeps z (readRegs seq b s) := by
  have k := readDwords_keeps (leAt b 4 1) (leAt b 0 4 / 4 * 4) hz
  unfold readRegs
  generalize readDwords _ _ s = p at k
  exact putResp_keeps _ _ _ k

theorem execMgmtRegRead_keeps {z s : State} (head len : Fin 65536) (body : List Byte) (crc : Dword) (hz : Keeps z s) :
    OutKeeps z (execMgmtRegRead head len body crc s) :=
  .next (onFrame_keeps _ _ hz fun _ _ => whenLive_keeps _ _ _ hz (readRegs_keeps _ _ hz))

theorem askReset_keeps {z s : State} (hz : Keeps z s) : Keeps z (askReset s) := by
  unfold askReset
  try dsimp only
  repeat' first
    | (with_reducible first | assumption | apply set_keeps | apply Keeps.ite)
    | split
    | refine Keeps.upd ?_ rfl rfl rfl rfl rfl rfl rfl rfl rfl

theorem execMgmtReset_keeps {z s : State} (head : Fin 65536) (rest : List Byte) (hz : Keeps z s) :
    OutKeeps z (execMgmtReset head rest s) :=
  .next (onFrame_keeps _ _ hz fun _ _ => whenLive_keeps _ _ _ (putResp_keeps _ _ _ hz) (askReset_keeps (putResp_keeps _ _ _ hz)))

theorem runHeld_keeps {z s : State} (h : HeldFrame) (hz : Keeps z s) : Keeps z (runHeld h s) := by
  unfold runHeld
  try dsimp only
  repeat' first
    | (with_reducible first
        | assumption | apply takeEntry_keeps | apply readCompletion_keeps | apply readRegs_keeps
        | apply askReset_keeps | apply Keeps.ite)
    | split
    | refine Keeps.upd ?_ rfl rfl rfl rfl rfl rfl rfl rfl rfl

theorem execMgmtHeldExecute_keeps {z s : State} (hz : Keeps z s) : OutKeeps z (execMgmtHeldExecute s) := by
  unfold execMgmtHeldExecute
  try dsimp only
  repeat' first
    | (with_reducible first
        | assumption | apply OutKeeps.next | apply runHeld_keeps | apply Keeps.ite | apply OutKeeps.ite)
    | split
    | refine Keeps.upd ?_ rfl rfl rfl rfl rfl rfl rfl rfl rfl

theorem execMgmtRead_keeps {z s : State} (complete : Bool) (hz : Keeps z s) : OutKeeps z (execMgmtRead complete s) := by
  unfold execMgmtRead
  refine .ite (.next hz) ?_
  split
  · exact .next (hz.send _)
  · exact .next (Keeps.ite ((hz.send _).cmd _) (hz.send _))

theorem moveTraffic_keeps {z s : State} (x : Stall) (p : Place) (hz : Keeps z s) : Keeps z (moveTraffic s x p) := by
  unfold moveTraffic
  try dsimp only
  repeat' first
    | (with_reducible first | assumption | apply sendRead_keeps | apply sendMem_keeps | apply Keeps.ite)
    | split
    | refine Keeps.upd ?_ rfl rfl rfl rfl rfl rfl rfl rfl rfl

theorem execStallMoveDone_keeps {z s : State} (stall : Nat) (hz : Keeps z s) : OutKeeps z (execStallMoveDone stall s) := by
  unfold execStallMoveDone
  try dsimp only
  repeat' first
    | (with_reducible first
        | assumption | apply OutKeeps.next | apply enterReady_keeps | apply moveEnds_keeps | apply moveTraffic_keeps
        | apply Keeps.ite | apply OutKeeps.ite)
    | split
    | refine Keeps.upd ?_ rfl rfl rfl rfl rfl rfl rfl rfl rfl

theorem execRecordingClosed_keeps {z s : State} (hz : Keeps z s) : OutKeeps z (execRecordingClosed s) := by
  unfold execRecordingClosed
  try dsimp only
  repeat' first
    | (with_reducible first
        | assumption | apply OutKeeps.next | apply endCapture_keeps | apply endDisarm_keeps
        | apply closeRecording_keeps | apply Keeps.ite | apply OutKeeps.ite)
    | split
    | refine Keeps.upd ?_ rfl rfl rfl rfl rfl rfl rfl rfl rfl

theorem tick_keeps {z s : State} (hz : Keeps z s) : Keeps z (tick s) := by
  unfold tick
  try dsimp only
  repeat' first
    | (with_reducible first | assumption | apply set_keeps | apply Keeps.ite)
    | split
    | refine Keeps.upd ?_ rfl rfl rfl rfl rfl rfl rfl rfl rfl

end Sys2Proof.Machine
end

