-- ==== Sys2Proof/Laws/Frames.lean ====
section
/-! SUPPORT. Which registers the shared operations write: one frame lemma each. -/

namespace Sys2Proof.Machine

theorem RegFrame.refl (l : List Fld) (s : State) : RegFrame l s s := fun _ _ => rfl

theorem RegFrame.set {l : List Fld} {s t : State} (h : RegFrame l s t) {f : Fld} (v : Nat) (hf : f ∈ l) :
    RegFrame l s (t.set f v) := fun g hg => (get_set_other t v (hg f hf)).trans (h g hg)

theorem RegFrame.put {l : List Fld} {s t : State} (h : RegFrame l s t) {f : Fld} (b : Bool) (hf : f ∈ l) :
    RegFrame l s (t.put f b) := h.set _ hf

theorem RegFrame.inc {l : List Fld} {s t : State} (h : RegFrame l s t) {f : Fld} (hf : f ∈ l) : RegFrame l s (t.inc f) :=
  h.set _ hf

theorem RegFrame.add {l : List Fld} {s t : State} (h : RegFrame l s t) {f : Fld} (n : Nat) (hf : f ∈ l) :
    RegFrame l s (t.add f n) := h.set _ hf

theorem RegFrame.setInt {l : List Fld} {s t : State} (h : RegFrame l s t) {f : Fld} (x : Int) (hf : f ∈ l) :
    RegFrame l s (t.setInt f x) := h.set _ hf

theorem RegFrame.other {l : List Fld} {s t u : State} (h : RegFrame l s t) (e : u.regs = t.regs) : RegFrame l s u :=
  fun f hf => by rw [← h f hf]; simp only [State.get, e]

theorem RegFrame.foldl {α : Type} {l : List Fld} {s t : State} (g : State → α → State) (xs : List α) (h : RegFrame l s t)
    (hg : ∀ u x, RegFrame l s u → RegFrame l s (g u x)) : RegFrame l s (xs.foldl g t) :=
  List.foldlRecOn xs g h fun u k x _ => hg u x k

theorem RegFrame.foldlMem {α : Type} {l : List Fld} {s t : State} (g : State → α → State) (xs : List α) (h : RegFrame l s t)
    (hg : ∀ u, ∀ x ∈ xs, RegFrame l s u → RegFrame l s (g u x)) : RegFrame l s (xs.foldl g t) :=
  List.foldlRecOn xs g h fun u k x hx => hg u x hx k

theorem RegFrame.ite {l : List Fld} {s t u : State} {c : Prop} [Decidable c] (h : RegFrame l s t) (k : RegFrame l s u) :
    RegFrame l s (if c then t else u) := by
  split <;> assumption

theorem faultTrigger_regs (s : State) (cls : Nat) : (faultTrigger s cls).regs = s.regs := by
  unfold faultTrigger trigger triggerAt
  repeat' first | rfl | split

/-- The entry of a fault writes its counts and the first-fault latch, and no other register. -/
theorem RegFrame.raise {l : List Fld} {s t : State} (h : RegFrame l s t) (cls code detail : Nat)
    (hl : ∀ f ∈ faultFields cls, f ∈ l) : RegFrame l s (raiseFault t cls code detail) := by
  have m : ∀ f, f ∈ faultFields cls → f ∈ l := hl
  simp only [faultFields, List.mem_cons, List.not_mem_nil, or_false, forall_eq_or_imp, forall_eq] at m
  obtain ⟨m1, m2, m3, m4, m5, m6, m7, m8⟩ := m
  have h1 := h.inc m1
  have h2 : RegFrame l s (logRecord (t.inc (F.SYS_FAULT_CNT cls)) cls code detail (!faultIsEvent code detail)) := by
    have k := h1.other (faultTrigger_regs _ cls)
    unfold logRecord
    dsimp only
    refine RegFrame.ite (k.other rfl) (RegFrame.ite (RegFrame.inc (k.other rfl) m3) (k.other rfl))
  have h3 : RegFrame l s (latchFirst (logRecord (t.inc (F.SYS_FAULT_CNT cls)) cls code detail (!faultIsEvent code detail))
      cls code detail) :=
    RegFrame.ite h2 (((((h2.set _ m4).set _ m5).set _ m6).set _ m7).set _ m8)
  exact RegFrame.ite h3 (RegFrame.ite (h3.other rfl) (RegFrame.inc (h3.other rfl) m2))

theorem RegFrame.endFault {l : List Fld} {s t : State} (h : RegFrame l s t) (code detail : Nat) :
    RegFrame l s (endFault t code detail) := h.other rfl

theorem RegFrame.subset {l m : List Fld} {s t : State} (h : RegFrame l s t) (hl : ∀ f ∈ l, f ∈ m) : RegFrame m s t :=
  fun f hf => h f fun g hg => hf g (hl g hg)

theorem RegFrame.trans {l : List Fld} {r s t : State} (h : RegFrame l r s) (k : RegFrame l s t) : RegFrame l r t :=
  fun f hf => (k f hf).trans (h f hf)

theorem setPair_frame (s : State) (d : Side) (n : Nat) (st : PairState) : RegFrame tripFields s (setPair s d n st) := by
  unfold setPair
  dsimp only
  have h0 : (s.setEv d { s.ev d with pairs := putAt (s.ev d).pairs n .disabled st }).regs = s.regs := by cases d <;> rfl
  have h1 : RegFrame tripFields s (s.setEv d { s.ev d with pairs := putAt (s.ev d).pairs n .disabled st }) := (RegFrame.refl _ s).other h0
  generalize s.setEv d { s.ev d with pairs := putAt (s.ev d).pairs n .disabled st } = t at *
  have h2 := RegFrame.ite (c := (d == .a && (s.ev d).pair n == .on && st != .on) = true)
    ((h1.set (f := F.SAF_EVENT_TRIP) 1 (by simp [tripFields])).inc (f := F.SAF_CNT_TRIP) (by simp [tripFields])) h1
  exact .ite (h2.other rfl) h2

theorem forcePair_frame (s : State) (n : Nat) : RegFrame tripFields s (forcePair s n) := by
  unfold forcePair
  dsimp only
  exact (RegFrame.ite (.refl _ s) (setPair_frame _ _ _ _)).trans (.ite (.refl _ _) (setPair_frame _ _ _ _))

/-- Forcing the pairs writes the trip event and its count, and no other register. -/
theorem forcePairs_frame (s : State) : RegFrame tripFields s (forcePairs s) :=
  (((forcePair_frame s 0).trans (forcePair_frame _ 1)).trans (forcePair_frame _ 2)).trans (forcePair_frame _ 3)

theorem setMode_frame (s : State) (m : Mode) : RegFrame tripFields s (setMode s m) := by
  unfold setMode
  dsimp only
  exact (RegFrame.ite (.refl _ s) (forcePairs_frame s)).other rfl

theorem RegFrame.setMode {l : List Fld} {s t : State} (h : RegFrame l s t) (m : Mode) (hl : ∀ f ∈ tripFields, f ∈ l) :
    RegFrame l s (setMode t m) := h.trans ((setMode_frame t m).subset hl)

theorem faultFields_f3 : ∀ f ∈ faultFields 3, f ∈ f3Fields := by
  intro f hf; simp only [f3Fields, List.mem_append]; exact .inl (.inl hf)

theorem tripFields_f3 : ∀ f ∈ tripFields, f ∈ f3Fields := by
  intro f hf; simp only [f3Fields, List.mem_append]; exact .inl (.inr hf)

/-- What an F3 fault writes. -/
theorem raiseF3_frame (s : State) (code detail : Nat) (k : F3Kind) : RegFrame f3Fields s (raiseF3 s code detail k) := by
  unfold raiseF3
  dsimp only
  have h := (RegFrame.refl f3Fields s).raise 3 code detail faultFields_f3
  generalize raiseFault s 3 code detail = t at *
  have h2 : RegFrame f3Fields s (if t.saf.f3.contains (code, detail) = true then t
      else { t with saf := { t.saf with f3 := t.saf.f3 ++ [(code, detail)] } }) := .ite h (h.other rfl)
  generalize (if t.saf.f3.contains (code, detail) = true then t
      else { t with saf := { t.saf with f3 := t.saf.f3 ++ [(code, detail)] } }) = u at *
  have hold : ∀ c, RegFrame f3Fields s (enterSafeHold u c) := fun c =>
    ((h2.set c (by simp [f3Fields])).set 1 (by simp [f3Fields])).setMode _ tripFields_f3
  have lock : ∀ c, RegFrame f3Fields s (enterLockout u c) := fun c =>
    (((h2.set 1 (by simp [f3Fields])).set c (by simp [f3Fields])).set 1 (by simp [f3Fields])).setMode _ tripFields_f3
  unfold reactF3
  split
  · exact hold _
  · exact lock _
  · exact h2
  · exact lock _
  · exact h2
  · exact h2
  · exact (h2.set 1 (by simp [f3Fields])).set _ (by simp [f3Fields])

theorem RegFrame.fatal {l : List Fld} {s t : State} (h : RegFrame l s t) (b : Bool) :
    RegFrame l s { t with fatalReset := b } := h.other rfl

theorem ctlFields_f4 : ∀ f ∈ ctlFields, f ∈ f4Fields := by
  intro f hf; simp only [f4Fields, List.mem_append]; exact .inl (.inr hf)

/-- The loss of CTL clears the status fields that CTL drives and the states of the clusters, and no other register. -/
theorem clearCtl_frame (s : State) : RegFrame ctlFields s (clearCtl s) := by
  have h : RegFrame ctlFields s (setClusters s 0) :=
    RegFrame.foldlMem _ _ (.refl _ s) fun u n hn hu => hu.set 0 (List.mem_append_right _ (List.mem_map_of_mem hn))
  exact RegFrame.foldlMem _ _ h fun u f hf hu => hu.set 0 (List.mem_append_left _ hf)

theorem ctlOff_frame (s : State) : RegFrame ctlFields s (ctlOff s) := by
  have h := clearCtl_frame s
  unfold ctlOff
  generalize clearCtl s = t at *
  exact RegFrame.other (t := t) h rfl

/-- What an F4 fault writes. -/
theorem raiseF4_frame (s : State) (code detail : Nat) : RegFrame f4Fields s (raiseF4 s code detail) := by
  unfold raiseF4
  refine .ite (.refl _ s) ?_
  dsimp only
  have h0 : RegFrame f4Fields s (ballsLow s) := (RegFrame.refl _ s).other rfl
  have h1 := (h0.raise 4 code detail (by intro f hf; simp only [f4Fields, List.mem_append]; exact .inl (.inl (.inl hf)))).set
    (f := F.SYS_RESET_CAUSE_F4) 1 (by simp [f4Fields])
  generalize (raiseFault (ballsLow s) 4 code detail).set F.SYS_RESET_CAUSE_F4 1 = t at *
  have h2 : RegFrame f4Fields s (countStart t) := by
    unfold countStart stepFailed
    exact .ite ((h1.set _ (by simp [f4Fields])).set _ (by simp [f4Fields])) h1
  have ht : ∀ f ∈ tripFields, f ∈ f4Fields := by
    intro f hf; simp only [f4Fields, List.mem_append]; exact .inl (.inl (.inr hf))
  refine .ite (h2.fatal true) (RegFrame.fatal (RegFrame.setMode (RegFrame.trans ?_ ((ctlOff_frame _).subset ctlFields_f4))
    .fatal ht) _)
  exact .ite (h2.set _ (by simp [f4Fields])) h2

end Sys2Proof.Machine
end

