-- ==== Sys2Proof/Certificates/Slice0/Obligations.lean ====
section
/-! DEFINITION. The statements for the provers. -/

open Sys2Proof Sys2Proof.Machine

/-- A step takes the command at the front of the queue and runs it on the state with the queue's rest. On an empty queue it
is one tick of PLL_TIME, which is the model's own choice (log entry 10). -/
def Obligations.FrontCommandRuns : Prop :=
  (∀ (c : Instr) (rest : List Instr) (s : State), s.pending = c :: rest → step s = exec c { s with pending := rest }) ∧
  ∀ s : State, s.pending = [] → step s = .next (tick s)

/-- While nothing waits, time passes (log entry 10 makes an idle step one tick): DEVTIME counts ticks of 1.25 ns (R214) when it is
not slewed (R216), and only the two time counters move (R95). -/
def Obligations.IdleTickCounts : Prop :=
  ∀ s : State, s.pending = [] → s.mode ≠ .off → s.sys.slew = 0 → ∃ t, step s = .next t ∧
    t.get F.TDC_DEVTIME = (s.get F.TDC_DEVTIME + 1) % 2 ^ 64 ∧ RegFrame [F.TDC_DEVTIME, F.SHD_AON_TIME] s t ∧
    t.mode = s.mode ∧ t.saf = s.saf ∧ t.pins = s.pins ∧ t.faults = s.faults ∧ t.tx = s.tx

/-- R30, R482: a safety output is driven on only in SCAN and only while armed; R638, R639: the log never holds more than 64
records; R642: no queue of reactions holds more than 16. Every step of every state that has these keeps them. -/
def Obligations.InvariantKeptByEveryStep : Prop :=
  ∀ s t : State, s.Inv → step s = .next t → t.Inv

/-- The state after reset has the invariant. -/
def Obligations.ResetHasInvariant : Prop := State.reset.Inv

/-- exec changes everything but the queue, and what the block has sent is never taken back. -/
def Obligations.QueueAndSentAreKept : Prop :=
  ∀ (c : Instr) (s t : State), exec c s = .next t → t.pending = s.pending ∧ s.tx <+: t.tx

/-- R481, R491: a pair leaves WAIT for ON by an accepted edge of RST_REQ (manual restart) or after RESTART_MS (automatic
restart), and in no other way; R482: only armed and in SCAN. -/
def Obligations.OutputsSwitchOnOnlyByReset : Prop :=
  ∀ (c : Instr) (s t : State) (d : Side), ∀ n < 4, exec c s = .next t →
    (t.ev d).pair n = .on → (s.ev d).pair n ≠ .on →
    ((∃ lenA lenB skew, c = .rstReqAccept lenA lenB skew) ∨ ∃ p, c = .autoRestartExpiry p) ∧
      s.saf.armed = true ∧ s.mode = .scan

/-- Arming is an effect of SAF_ARM alone. -/
def Obligations.OnlyArmCommandArms : Prop :=
  ∀ (c : Instr) (s t : State), exec c s = .next t → t.saf.armed = true → s.saf.armed = true ∨ ∃ p tag, c = .safArm p tag

/-- No command but a register write ever stops the block. -/
def Obligations.OnlyRegisterWriteStops : Prop :=
  ∀ (c : Instr) (s : State), (∀ p off q v full bad, c ≠ .registerWrite p off q v full bad) → ∃ t, exec c s = .next t

/-- R7, R34, R83: what a power-on reset of VDD_AON leaves, and the loss of VDD_AON. Which fields are stored is the model's
reading (log entry 62). -/
def Obligations.PowerOnResetKeepsStoredOnly : Prop :=
  ∀ s : State,
    Gives .powerOnReset s (fun t =>
      (∀ f : Fld, f.key ≠ F.HGE_SEED.key → t.get f = if nvKey f.key then s.get f else f.reset) ∧
      (∀ v, s.sec.seed = some v → t.get F.HGE_SEED = v % 2 ^ 64) ∧
      t = { State.reset with
        regs := t.regs, mode := if s.flag F.SEC_STATUS_OPENED then .opened else .standby, pending := s.pending, tx := s.tx,
        free := s.free, sec := s.sec, cal := { State.reset.cal with flash := s.cal.flash, flashBad := s.cal.flashBad },
        pins := { State.reset.pins with tstMode := s.pins.tstMode, perst := s.pins.perst } }) ∧
    Gives .aonPowerLoss s (fun t =>
      (∀ f : Fld, f.key ≠ F.HGE_SEED.key → (∀ g ∈ tripFields, f.key ≠ g.key) →
        t.get f = if nvKey f.key then s.get f else f.reset) ∧
      t.mode = .off ∧ t.sec = s.sec ∧ t.cal.flash = s.cal.flash ∧ t.faults = [] ∧ t.cmd = State.reset.cmd ∧
      t.saf.armed = false ∧ ∀ d : Side, ∀ n < 4, (t.ev d).pair n ≠ .on)

/-- R68, R72, R97, R98: the rails and the reset hold. -/
def Obligations.RailsAndMainReset : Prop :=
  ∀ s : State,
    Gives .railsValid s (fun t => t.step = 1 ∧ (∀ f ∈ railFields, t.flag f = true) ∧
      t.sys.railsDown = 0 ∧ t.sys.startAt = s.sys.raw ∧
      (s.mode ≠ .off → t = { s with regs := t.regs, sys := t.sys } ∧ RegFrame (F.SYS_STATUS_STEP :: railFields) s t) ∧
      (s.mode = .off → t.mode = if s.flag F.SEC_STATUS_OPENED then .opened else .standby)) ∧
    (∀ rail : Fin 10, s.mode ≠ .off → Gives (.railTrip rail) s (fun t => t.step = 1 ∧ t.sys.railsDown.testBit rail = true ∧
      t.get F.SYS_RESET_CAUSE_RAIL = 1 ∧ t.saf = State.reset.saf ∧ t.sec = s.sec ∧ t.cmd.cmds = [] ∧
      (t.mode = .standby ∨ t.mode = .opened) ∧ ∀ d : Side, ∀ n < 4, (t.ev d).pair n ≠ .on)) ∧
    (s.atStep 1 = true → s.sys.railsDown = 0 → Gives .mainResetRelease s (fun t =>
      t.step = 2 ∧ t.sys.rawZero = s.sys.raw ∧ RegFrame [F.SYS_STATUS_STEP] s t ∧
      t = { s with regs := t.regs, sys := { s.sys with rawZero := s.sys.raw } }))

/-- R81, R83, R112: the crystal of AON, and the clock step. -/
def Obligations.ClockStepAndAonClock : Prop :=
  ∀ s : State,
    (s.sys.xaonLate = false → Gives .xtalAonStable s (fun t =>
      t.get F.CLK_STATUS_XAON_OK = 1 ∧ t.get F.CLK_STATUS_RC_ACTIVE = 0 ∧
      RegFrame [F.CLK_STATUS_XAON_OK, F.CLK_STATUS_RC_ACTIVE] s t ∧ t = { s with regs := t.regs, faults := t.faults })) ∧
    (s.sys.xaonLate = true → Gives .xtalAonStable s (fun t => t = s)) ∧
    (s.flag F.CLK_STATUS_XAON_OK = false → Gives .xtalAonTimeout s (fun t =>
      t.get F.CLK_STATUS_XAON_OK = 0 ∧ t.get F.CLK_STATUS_RC_ACTIVE = 1 ∧ t.get F.SYS_START_FAIL_STEP = 2 ∧
      t.get (F.SYS_FAULT_CNT 0) = min (s.get (F.SYS_FAULT_CNT 0) + 1) (2 ^ 32 - 1) ∧ t.sys.xaonLate = true ∧
      RegFrame (F.CLK_STATUS_XAON_OK :: F.CLK_STATUS_RC_ACTIVE :: F.SYS_START_FAIL_STEP :: faultFields 0) s t ∧
      t.mode = s.mode ∧ t.saf = s.saf)) ∧
    (s.atStep 2 = true → Gives (.clocksLocked true true true true true) s (fun t => t.step = 3 ∧
      t.flag F.CLK_STATUS_XREF_OK = true ∧ t.flag F.CLK_STATUS_CORE_LK = true ∧ t.flag F.CLK_STATUS_TIME_LK = true ∧
      t.flag F.CLK_STATUS_SAFB_LK = true ∧ t.flag F.CLK_STATUS_MEM_LK = true ∧
      RegsOnly [F.CLK_STATUS_XREF_OK, F.CLK_STATUS_CORE_LK, F.CLK_STATUS_TIME_LK, F.CLK_STATUS_SAFB_LK, F.CLK_STATUS_MEM_LK,
        F.SYS_STATUS_STEP] s t)) ∧
    (s.atStep 2 = true → Gives (.clocksLocked true true true false true) s (fun t => t.step = 3 ∧
      t.flag F.CLK_STATUS_MEM_LK = false ∧ t.get F.YRD_CAP_NEAR_OFF = 1 ∧ t.get F.YRD_CAP_MAP_LOG2_NOW = 16 ∧
      t.get F.SYS_START_FAIL_STEP = 2 ∧
      t.get (F.SYS_FAULT_CNT 2) = min (s.get (F.SYS_FAULT_CNT 2) + 1) (2 ^ 32 - 1) ∧ t.mode = s.mode)) ∧
    ∀ xref core time mem safb : Bool, s.atStep 2 = true → s.mode ≠ .opened → (xref && core && time && safb) = false →
      Gives (.clocksLocked xref core time mem safb) s (fun t => t.mode = .fatal ∧ t.get F.SYS_RESET_CAUSE_F4 = 1 ∧
        t.pins.erow = 0 ∧ t.pins.fls = 0)

/-- R81: the reaction to the loss of each clock, and what its return does; the cross-checks of the clocks. -/
def Obligations.ClockLossReactions : Prop :=
  ∀ s : State,
    (∀ c : Clock, s.mode = .scan → c = .pllTime ∨ c = .pllSafb → Gives (.pllUnlock c) s (fun t => t.mode = .safeHold ∧
      t.get F.SAF_STATUS_HOLD_CAUSE = 7 ∧ t.get (if c = .pllTime then F.CLK_STATUS_TIME_LK else F.CLK_STATUS_SAFB_LK) = 0 ∧
      ∀ d : Side, ∀ n < 4, (t.ev d).pair n ≠ .on)) ∧
    (∀ c : Clock, s.mode ≠ .opened → s.mode ≠ .off → c = .pllCore ∨ c = .xtalRef → Gives (.pllUnlock c) s (fun t =>
      t.mode = .fatal ∧ t.get F.SYS_RESET_CAUSE_F4 = 1 ∧
      t.get (if c = .pllCore then F.CLK_STATUS_CORE_LK else F.CLK_STATUS_XREF_OK) = 0)) ∧
    Gives (.pllUnlock .pllMem) s (fun t => t.get F.CLK_STATUS_MEM_LK = 0 ∧ t.get F.YRD_CAP_NEAR_OFF = 1 ∧
      t.mode = s.mode ∧ t.saf = s.saf) ∧
    Gives (.pllUnlock .peRefclk) s (fun t => t.link.up = false) ∧
    (s.mode ≠ .sleep → Gives (.pllUnlock .xtalAon) s (fun t => t.get F.CLK_STATUS_XAON_OK = 0 ∧
      t.get F.CLK_STATUS_RC_ACTIVE = 1 ∧ t.mode = s.mode ∧ t.saf = s.saf)) ∧
    (∀ c : Clock, Gives (.pllRelock c) s (fun t => t = { s with regs := t.regs, faults := t.faults } ∧
      RegFrame [F.CLK_STATUS_TIME_LK, F.CLK_STATUS_SAFB_LK, F.CLK_STATUS_CORE_LK, F.CLK_STATUS_MEM_LK, F.CLK_STATUS_XREF_OK,
        F.CLK_STATUS_XAON_OK, F.CLK_STATUS_RC_ACTIVE, F.YRD_CAP_NEAR_OFF, F.YRD_CAP_MAP_LOG2_NOW] s t ∧
      (c = .pllTime → t.get F.CLK_STATUS_TIME_LK = 1) ∧ (c = .pllSafb → t.get F.CLK_STATUS_SAFB_LK = 1) ∧
      (c = .pllCore → t.get F.CLK_STATUS_CORE_LK = 1) ∧ (c = .pllMem → t.get F.CLK_STATUS_MEM_LK = 1) ∧
      (c = .xtalRef → t.get F.CLK_STATUS_XREF_OK = 1) ∧
      (c = .xtalAon → s.sys.xaonLate = false → t.get F.CLK_STATUS_XAON_OK = 1))) ∧
    ∀ a b c : Nat, safUp s = true → s.step ≠ 2 →
      (a ≤ 5000 → b ≤ 5000 → c ≤ 1000 → Gives (.clockCrossMeasure a b c) s (fun t =>
        t.get F.CLK_STATUS_FMON_OK = 1 ∧ RegsOnly [F.CLK_STATUS_FMON_OK] s t)) ∧
      (5000 < a ∨ 5000 < b ∨ 1000 < c → s.mode = .scan → Gives (.clockCrossMeasure a b c) s (fun t =>
        t.get F.CLK_STATUS_FMON_OK = 0 ∧ t.mode = .safeHold))

/-- R84 to R87: REF_IN. -/
def Obligations.ReferenceInput : Prop :=
  ∀ s : State,
    (s.flag F.CLK_STATUS_REF_PRESENT = true → Gives .refInLoss s (fun t => t.get F.CLK_STATUS_REF_PRESENT = 0 ∧
      t.get F.CLK_STATUS_REF_ACTIVE = 0 ∧ t.get F.CLK_REF_EVENT_LOSS = 1 ∧
      t.get F.CLK_REF_LOSS_CNT = min (s.get F.CLK_REF_LOSS_CNT + 1) (2 ^ F.CLK_REF_LOSS_CNT.width - 1) ∧ t.now = s.now ∧
      (s.red.halves = false → t.mode = s.mode ∧ t.saf = s.saf ∧ RegFrame (F.CLK_STATUS_REF_PRESENT ::
        F.CLK_STATUS_REF_ACTIVE :: F.CLK_REF_EVENT_LOSS :: F.CLK_REF_LOSS_CNT :: faultFields 0) s t))) ∧
    (s.flag F.CLK_STATUS_REF_PRESENT = false → Gives .refInLoss s (fun t =>
      t = { s with sys := { s.sys with refReturn := none } })) ∧
    (∀ offset : Int, s.flag F.CLK_REF_CFG_REF_SEL = true → s.flag F.CLK_REF_CFG_AUTO_RETURN = true →
      s.flag F.CLK_STATUS_REF_ACTIVE = false → Gives (.refInQualified offset) s (fun t =>
        t.get F.CLK_STATUS_REF_PRESENT = 1 ∧ t.mode = s.mode ∧ t.now = s.now ∧
        ((s.mode = .ready ∨ s.mode = .scan) → t.sys.refReturn = some offset ∧ t.get F.CLK_STATUS_REF_ACTIVE = 0) ∧
        (¬(s.mode = .ready ∨ s.mode = .scan) → t.get F.CLK_STATUS_REF_ACTIVE = 1 ∧
          t.get F.CLK_REF_EVENT_RETURN = 1))) ∧
    (∀ offset : Int, s.flag F.CLK_REF_CFG_REF_SEL = false ∨ s.flag F.CLK_REF_CFG_AUTO_RETURN = false ∨
      s.flag F.CLK_STATUS_REF_ACTIVE = true → Gives (.refInQualified offset) s (fun t =>
        t.get F.CLK_STATUS_REF_PRESENT = 1 ∧ RegFrame [F.CLK_STATUS_REF_PRESENT] s t ∧
        t = { s with regs := t.regs, faults := t.faults })) ∧
    ∀ v : Dword,
      (s.mode = .scan → Gives (.clkRefCfgWrite v) s (fun t => t.get F.CLK_REF_CFG_AUTO_RETURN = b2n (v.getLsbD 9) ∧
        RegFrame [F.CLK_REF_CFG_AUTO_RETURN] s t ∧
        t = { s with regs := t.regs, sys := { s.sys with refCfg := some v.toNat } })) ∧
      (s.mode ≠ .scan → Gives (.clkRefCfgWrite v) s (fun t => t.get F.CLK_REF_CFG_REF_FREQ = v.toNat % 4 ∧
        t.get F.CLK_REF_CFG_PRESC = v.toNat / 4 % 2 ^ F.CLK_REF_CFG_PRESC.width ∧
        t.get F.CLK_REF_CFG_REF_SE = b2n (v.getLsbD 4) ∧ t.get F.CLK_REF_CFG_REF_SEL = b2n (v.getLsbD 8) ∧
        t.get F.CLK_REF_CFG_AUTO_RETURN = b2n (v.getLsbD 9) ∧ t.sys.refCfg = none ∧ t.mode = s.mode ∧
        (v.getLsbD 8 = false → t.get F.CLK_STATUS_REF_ACTIVE = 0 ∧ t.sys.refReturn = none)))

/-- R103, R112: the boot image; R101, R165: the herd firmware runs. That an opened device stops there is log entry 12. -/
def Obligations.BootImageAndFirmware : Prop :=
  ∀ s : State, s.atStep 3 = true →
    (s.get F.SYS_START_IMAGE = 0 → ∀ a b : ImgRead, imageGood s (if firstImage s = 1 then a else b) = true →
      Gives (.imageCheckDone a b) s (fun t =>
        t.get F.SYS_START_IMAGE = firstImage s % 4 ∧ t.sys.fw = (if firstImage s = 1 then a else b) ∧ t.mode = s.mode ∧
        t.step = 3 ∧ RegFrame [F.SEC_FW_A, F.SEC_FW_B, F.SEC_STATUS_ACTIVE, F.SEC_STATUS_PENDING, F.SEC_STATUS_SLOT_VALID, F.SYS_START_IMAGE] s t)) ∧
    (s.get F.SYS_START_IMAGE = 0 → ∀ a b : ImgRead, imageGood s a = false → imageGood s b = false → s.mode ≠ .opened →
      Gives (.imageCheckDone a b) s (fun t =>
        t.mode = .fatal ∧ t.get F.SYS_RESET_CAUSE_F4 = 1 ∧ t.sys.fw = s.sys.fw ∧ t.get F.SYS_START_IMG_FALLBACK = 1)) ∧
    (s.get F.SYS_START_IMAGE ≠ 0 → Gives .herdFirmwareRunning s (fun t =>
      t.get F.SYS_STATUS_CMD_LIVE = 1 ∧ t.get F.CMD_INFO_CUR_MAJ = s.sys.fw.major % 256 ∧
      t.get F.CMD_INFO_PREV_MAJ = s.sys.fw.prev % 256 ∧ t.step = (if s.mode = .opened then 0 else 4) ∧ t.mode = s.mode ∧
      RegFrame [F.SYS_STATUS_CMD_LIVE, F.CMD_INFO_CUR_MAJ, F.CMD_INFO_PREV_MAJ, F.CMD_INFO_PREV_VALID, F.RED_SCHEMA_OWN,
        F.SYS_STATUS_STEP] s t))

/-- R104, R105, R113: the last steps of a start-up, and the change back to STANDBY (R90). -/
def Obligations.EndOfStartUp : Prop :=
  ∀ s : State,
    (∀ (eight dual big : Bool) (tr : List RlmTrain) (bad : List Nat), s.atStep 4 = true →
      Gives (.rlTrainingDone eight dual big tr bad) s (fun t => t.mode = s.mode ∧ t.cal.valid = calGood bad ∧
        t.get F.YRD_CAP_NEAR_STALLS = (if s.flag F.YRD_CAP_NEAR_OFF then 0 else
          channelsUsed eight (rlmMask tr &&& (if eight then 255 else 15)) * channelStalls dual big) % 2 ^ F.YRD_CAP_NEAR_STALLS.width ∧
        if (if s.get F.SYS_START_START_KIND = 1 then s.flag F.SHD_WAKE_CFG_AUTO_READY else s.sys.goReady) = true then
          t.step = 5 ∧ t.cal.grooms = s.cal.grooms ++ [⟨none, !calGood bad, 0x1FFFF, false, true, false, false, 0⟩] ∧
            t.get F.SYS_START_GROOM_FULL = b2n (!calGood bad)
        else t.step = 0 ∧ t.cal.grooms = s.cal.grooms)) ∧
    (∀ ok : ExciteEnd, s.mode = .standby → s.step = 6 → startStopped s = false → Gives (.excitationSettled true ok) s (fun t =>
      t.mode = .ready ∧ t.step = 0 ∧ t.get F.RXF_APDB_STAT_SETTLED = 1 ∧ t.get F.SYS_START_START_FAILS = 0 ∧ Keeps s t)) ∧
    (∀ ok : ExciteEnd, s.mode = .standby → s.step = 6 → startStopped s = false → s.sys.trans = none →
      Gives (.excitationSettled false ok) s (fun t =>
        t.mode = .standby ∧ t.get F.SYS_START_FAIL_STEP = 6 ∧ t.sys.trans = none ∧ Keeps s t)) ∧
    (∀ who, s.mode = .ready → s.sys.trans = some ⟨2, who⟩ → Gives .stateChangeDone s (fun t =>
      t.mode = .standby ∧ t.sys.trans = none ∧ t.get F.RXF_APDB_STAT_SETTLED = 0 ∧ (∀ n < 17, t.get (clst n) = Cl.off) ∧
      Keeps s t))

/-- R89, R91, R93, R94: SLEEP. -/
def Obligations.WakeAndSleep : Prop :=
  ∀ s : State,
    (s.sys.sleepEntering = true → s.mode = .standby → wakeCauses (asleep s) s.sys.wakeLatched = 0 →
      Gives .sleepEntryDone s (fun t => t = asleep s ∧ t.mode = .sleep ∧ t.link.up = false ∧ t.cmd.cmds = [] ∧
        t.saf.armed = false ∧ t.sec = s.sec ∧ ∀ d : Side, ∀ n < 4, (t.ev d).pair n ≠ .on)) ∧
    (s.sys.sleepEntering = true → s.mode = .standby → wakeCauses (asleep s) s.sys.wakeLatched ≠ 0 →
      Gives .sleepEntryDone s (fun t => t.step = 2 ∧ t.get F.SYS_RESET_CAUSE_WAKE = 1 ∧ t.cmd.cmds = [])) ∧
    (∀ (src pin : Nat), s.mode = .sleep → wakeCauses { s with irq := { s.irq with wakePins := pin % 16 } } src ≠ 0 →
      Gives (.wake src pin) s (fun t =>
        t.step = 2 ∧ t.get F.SYS_RESET_CAUSE_WAKE = 1 ∧ t.get F.SYS_START_START_KIND = 1 ∧ t.cmd.cmds = [] ∧
        (t.mode = .standby ∨ t.mode = .opened) ∧ t.sec = s.sec)) ∧
    (∀ (src pin : Nat), wakeCauses { s with irq := { s.irq with wakePins := pin % 16 } } src = 0 →
      Gives (.wake src pin) s (fun t => t = { s with irq := { s.irq with wakePins := pin % 16 } })) ∧
    (s.mode = .sleep → s.flag F.SHD_WAKE_CFG_ALARM_EN = true → Gives .aonAlarm s (fun t => t.step = 2 ∧
      t.get F.SYS_RESET_CAUSE_WAKE = 1 ∧ t.cmd.cmds = [])) ∧
    (wakeCauses { s with irq := { s.irq with alarm := true } } (2 ^ 9) = 0 →
      Gives .aonAlarm s (fun t => t = { s with irq := { s.irq with alarm := true } }))

/-- R119, R120, R128, R129, R152: the control of the rings. -/
def Obligations.RingControl : Prop :=
  ∀ s : State, ctlUp s = true → ∀ v : Dword,
    (s.flag F.CMD_CTRL_EN = false → v.getLsbD 0 = true → Gives (.cmdCtrlWrite v) s (fun t =>
      t.get F.CMD_CTRL_EN = 1 ∧ t.get F.CMD_HEAD = 0 ∧ t.get F.CMP_TAIL_TAIL = 0 ∧ t.get F.CMP_TAIL_PHASE = 1 ∧ t.cmd.tail = 0 ∧
      t.cmd.head = 0 ∧ t = { s with regs := t.regs, cmd := t.cmd } ∧
      RegFrame [F.CMD_CTRL_CMP_IRQ_EN, F.CMD_CTRL_EN, F.CMD_HEAD, F.CMP_TAIL_TAIL, F.CMP_TAIL_PHASE] s t)) ∧
    (s.flag F.CMD_CTRL_EN = true → v.getLsbD 0 = false → ringIdle s = true → Gives (.cmdCtrlWrite v) s (fun t =>
      t.get F.CMD_CTRL_EN = 0 ∧ RegFrame [F.CMD_CTRL_CMP_IRQ_EN, F.CMD_CTRL_EN] s t ∧
      t = { s with regs := t.regs, cmd := { s.cmd with draining := false } })) ∧
    (s.flag F.CMD_CTRL_EN = true → v.getLsbD 0 = false → ringIdle s = false → Gives (.cmdCtrlWrite v) s (fun t =>
      RegFrame [F.CMD_CTRL_CMP_IRQ_EN] s t ∧ t = { s with regs := t.regs, cmd := { s.cmd with draining := true } })) ∧
    (s.flag F.CMD_CTRL_EN = v.getLsbD 0 → Gives (.cmdCtrlWrite v) s (fun t =>
      t.get F.CMD_CTRL_CMP_IRQ_EN = b2n (v.getLsbD 1) ∧ RegsOnly [F.CMD_CTRL_CMP_IRQ_EN] s t)) ∧
    (s.cmd.draining = true → ringIdle s = true → Gives .ringDrainDone s (fun t =>
      t.get F.CMD_CTRL_EN = 0 ∧ RegFrame [F.CMD_CTRL_EN] s t ∧
      t = { s with regs := t.regs, cmd := { s.cmd with draining := false } })) ∧
    (s.flag F.CMD_CTRL_EN = true → v.toNat % 4096 ≠ s.cmd.tail → Gives (.cmdDb0 v) s (fun t =>
      t = { s with cmd := { s.cmd with tail := v.toNat % 4096, fetchStop := false } })) ∧
    Gives (.cmdDb1 v) s (fun t =>
      t = { s with cmd := { s.cmd with head := v.toNat % 2 ^ 14, unnotified := t.cmd.unnotified, cmpSource := t.cmd.cmpSource } } ∧
      t.cmd.unnotified ≤ s.cmd.unnotified ∧ (t.cmd.cmpSource = true → s.cmd.cmpSource = true)) ∧
    (s.get F.CMP_NOTIFY_TIME ≠ 0 → s.flag F.CMD_CTRL_CMP_IRQ_EN = true → s.cmd.unnotified ≠ 0 → Gives .cmpNotifyTimer s (fun t =>
      t = { s with cmd := { s.cmd with unnotified := 0, cmpSource := true } }))

/-- R120, R125, R131, R135, R152: fetching commands and reading their buffers. -/
def Obligations.CommandFetch : Prop :=
  ∀ s : State,
    (fetches s = true → ∀ e : List Dword, ∀ r u : State, ∀ c : Cmd,
      r = sendRead s (4096 * s.get F.CMD_RING_BASE + 64 * s.get F.CMD_HEAD) 64 →
      u = r.set F.CMD_HEAD ((s.get F.CMD_HEAD + 1) % 4096) → c = parseEntry .ring (s.get F.CMD_HEAD) e [] →
      Gives (.commandFetch e true) s (fun t => t.get F.CMD_STATUS_FETCH_ERR = 1 ∧ RegFrame [F.CMD_STATUS_FETCH_ERR] s t ∧
        t = { r with regs := t.regs, cmd := { s.cmd with fetchStop := true } }) ∧
      (entryCheck u c = none → Gives (.commandFetch e false) s (fun t =>
        t.get F.CMD_HEAD = (s.get F.CMD_HEAD + 1) % 4096 ∧ RegFrame [F.CMD_HEAD] s t ∧
        t = { r with regs := t.regs, cmd := { s.cmd with cmds := s.cmd.cmds ++ [c] } })) ∧
      ∀ st d : Nat, entryCheck u c = some (st, d) → st ≠ St.done → Gives (.commandFetch e false) s (fun t =>
        Ends t c st (if st = St.badVersion then cmdInfo s else 0) ∧ t.get F.CMD_HEAD = (s.get F.CMD_HEAD + 1) % 4096 ∧
        RegFrame [F.CMD_HEAD] s t)) ∧
    (∀ (tag : Nat) (c : Cmd), readerOf s .ring tag = some c → readerCheck s c = none → c.discard = false →
      Gives (.bufferTimeout tag) s (fun t => Ends t c St.timeout 0 ∧ RegFrame [F.LNK_PCIE_ERR_CTO] s t ∧
        t.get F.LNK_PCIE_ERR_CTO = min (s.get F.LNK_PCIE_ERR_CTO + 1) (2 ^ F.LNK_PCIE_ERR_CTO.width - 1)) ∧
      (pcieUsable s = true → ∀ b, Gives (.bufferReadDone .ring tag true b) s (fun t => Ends t c St.badParam 0)) ∧
      (pcieUsable s = true → opSigned c.opcode = false → opLong c.opcode = false → ∀ (b : List Byte) (v : State) (d : Cmd),
        v = sendRead s c.bufAddr (64 * c.paramLen) → d = withData c (fixLen (64 * c.paramLen) b) →
        contentsCheck v c d.data = (none, v) →
        Gives (.bufferReadDone .ring tag false b) s (fun t => t = replaceCmd v c d)))

/-- R127, R128, R152, R161: the delivery of completions. -/
def Obligations.CompletionDelivery : Prop :=
  ∀ (s : State) (x : Comp),
    (nextComp s .ring = some x → canWriteComp s = true →
      Gives (.completionWrite .ring true) s (fun t => t.get F.CMD_STATUS_CMP_WR_ERR = 1 ∧ t.cmd = { s.cmd with cmpStop := true } ∧
        t.tx = s.tx ∧ RegFrame [F.CMD_STATUS_CMP_WR_ERR] s t) ∧
      ((∀ c ∈ s.cmd.cmds, c.opcode ≠ 0x0102) →
        Gives (.completionWrite .ring false) s (fun t =>
          t.tx = (sendMem s (4096 * s.get F.CMP_RING_BASE + 16 * s.get F.CMP_TAIL_TAIL) (compBytes x (s.get F.CMP_TAIL_PHASE))).tx ∧
          t.get F.CMP_TAIL_TAIL = (if s.get F.CMP_TAIL_TAIL + 1 = ringSize s then 0 else (s.get F.CMP_TAIL_TAIL + 1) % 2 ^ 14) ∧
          t.get F.CMP_TAIL_PHASE = (if s.get F.CMP_TAIL_TAIL + 1 = ringSize s then (1 - s.get F.CMP_TAIL_PHASE) % 2
            else s.get F.CMP_TAIL_PHASE) ∧
          t.cmd.comps = s.cmd.comps.erase x ∧ RegFrame [F.CMP_TAIL_TAIL, F.CMP_TAIL_PHASE] s t))) ∧
    (∀ err, nextComp s .mgmt = some x → s.cmd.mgmtComps.length < 32 → (∀ c ∈ s.cmd.cmds, c.opcode ≠ 0x0102) →
      Gives (.completionWrite .mgmt err) s (fun t => t.cmd.mgmtComps = s.cmd.mgmtComps ++ [x] ∧ t.tx = s.tx ∧ t.regs = s.regs))

/-- R649: a write to a _LO register is held; a write to its _HI register applies both halves as one write of the register;
with nothing held the present low half is applied. -/
def Obligations.WideWrites : Prop :=
  ∀ (s : State) (p : Access) (r : RegRef) (v : Dword), pathWrites s p = true →
    (regRef s r.base = some r → r.wide = true → answers s r.base = true → Gives (.wideLoWrite p r.base v) s (fun t =>
      pairEntry t.link.held p r.base = some v.toNat ∧ t = { s with link := { s.link with held := t.link.held } } ∧
      ∀ (q : Access) (b : Nat), (q, b) ≠ (p, r.base) → pairEntry t.link.held q b = pairEntry s.link.held q b)) ∧
    (regRef s (r.base + 4) = some r → r.wide = true → answers s (r.base + 4) = true →
      ∃ u : State, u = { s with link := { s.link with held := u.link.held } } ∧ pairEntry u.link.held p r.base = none ∧
        (∀ (q : Access) (b : Nat), (q, b) ≠ (p, r.base) → pairEntry u.link.held q b = pairEntry s.link.held q b) ∧
        exec (.wideHiWrite p (r.base + 4) v) s = .next (writeReg u p r
          ((match pairEntry s.link.held p r.base with
            | some lo => lo
            | none => readFields s r.side r.at_ r.fields % 2 ^ 32) + 2 ^ 32 * v.toNat)))

/-- R648: the shadow of the high halves; every path has its own (R650). -/
def Obligations.WideReads : Prop :=
  ∀ (s : State) (p : Access) (r : RegRef),
    (pathUp s p = true → regRef s r.base = some r → r.wide = true → answers s r.base = true → Gives (.wideLoRead p r.base) s (fun t =>
      pairEntry t.link.shadow p r.base = some (readFields s r.side r.at_ r.fields / 2 ^ 32) ∧
      t = { s with link := { s.link with shadow := t.link.shadow } })) ∧
    (regRef s (r.base + 4) = some r → r.wide = true → answers s (r.base + 4) = true →
      readDword s p (r.base + 4) = ((pairEntry s.link.shadow p r.base).getD 0, s)) ∧
    (∀ (q : Access) (x : Nat), (q = p → ∀ r' : RegRef, regRef s x = some r' → r'.base ≠ r.base) →
      pairEntry (readDword s q x).2.link.shadow p r.base = pairEntry s.link.shadow p r.base) ∧
    ∀ kind : Nat, pairEntry (deviceReset s kind).link.shadow p r.base = none

/-- R11 to R13: writes that change nothing; the two stops are log entries 8 and 9. -/
def Obligations.RegisterWriteStops : Prop :=
  ∀ (s : State) (p : Access) (off : Nat) (v : BitVec 64), pathWrites s p = true →
    (∀ q full, Gives (.registerWrite p off q v full true) s (fun t =>
      (p = .pcie → RegsOnly [F.LNK_PCIE_ERR_POISON] s t) ∧ (p ≠ .pcie → t = s))) ∧
    (∀ q, Gives (.registerWrite p off q v false false) s (fun t => t = s)) ∧
    (∀ q, 0x200000 ≤ off → Gives (.registerWrite p off q v true false) s (fun t => t = s)) ∧
    (off % 4 = 0 → off < 0x200000 → ¬(0x130000 ≤ off ∧ off < 0x140000) → regRef s off = none →
      Gives (.registerWrite p off false v true false) s (fun t => t = s)) ∧
    (∀ q : Bool, off % (if q then 8 else 4) ≠ 0 → off < 0x200000 → exec (.registerWrite p off q v true false) s =
      .fault .bar0Unaligned) ∧
    (∀ q : Bool, off % (if q then 8 else 4) = 0 → 0x130000 ≤ off → off < 0x140000 → s.mode = .opened →
      exec (.registerWrite p off q v true false) s = .refused .tstBlock)

/-- R8, R11: what a plain write to a read-write register does, shown on two of them. -/
def Obligations.RegisterWriteTakes : Prop :=
  ∀ (s : State) (p : Access) (v : BitVec 64), pathWrites s p = true →
    Gives (.registerWrite p F.SHD_WAKE_CFG_WAKE_EN.off false v true false) s (fun t =>
      t.get F.SHD_WAKE_CFG_WAKE_EN = bits (v.toNat % 2 ^ 32) F.SHD_WAKE_CFG_WAKE_EN.lsb F.SHD_WAKE_CFG_WAKE_EN.width ∧
      t.get F.SHD_WAKE_CFG_AUTO_READY = bits (v.toNat % 2 ^ 32) F.SHD_WAKE_CFG_AUTO_READY.lsb 1 ∧
      Takes [F.SHD_WAKE_CFG_WAKE_EN, F.SHD_WAKE_CFG_WAKE_POL, F.SHD_WAKE_CFG_MGMT_EN, F.SHD_WAKE_CFG_ALARM_EN, F.SHD_WAKE_CFG_IRQW_EN,
        F.SHD_WAKE_CFG_PERST_EN, F.SHD_WAKE_CFG_AUTO_READY] s t) ∧
    (ctlUp s = true → Gives (.registerWrite p F.CMP_NOTIFY_TIME.off false v true false) s (fun t =>
      t.get F.CMP_NOTIFY_TIME = bits (v.toNat % 2 ^ 32) F.CMP_NOTIFY_TIME.lsb F.CMP_NOTIFY_TIME.width ∧
      t.get F.CMP_NOTIFY_COUNT = bits (v.toNat % 2 ^ 32) F.CMP_NOTIFY_COUNT.lsb F.CMP_NOTIFY_COUNT.width ∧
      Takes [F.CMP_NOTIFY_TIME, F.CMP_NOTIFY_COUNT] s t))

/-- R635, R638, R690: what a logged fault leaves. -/
def Obligations.FaultIsEntered : Prop :=
  ∀ (s : State) (cls : Fin 5) (code detail : Nat), cls.val ≤ 2 → code ∈ catalogue cls.val →
    Gives (.faultLog cls code detail) s (fun t =>
      t.get (F.SYS_FAULT_CNT cls) = min (s.get (F.SYS_FAULT_CNT cls) + 1) (2 ^ (F.SYS_FAULT_CNT cls).width - 1) ∧
      RegFrame (faultFields cls) s t ∧ t.mode = s.mode ∧ t.saf = s.saf ∧ t.pins = s.pins ∧
      (queueDepth s cls < 16 → (∀ r ∈ s.faults, ¬(r.code = code ∧ r.detail = detail)) → s.faults.length < 64 →
        t.faults = s.faults ++ [⟨code, cls, !faultIsEvent code detail, false, 1, detail, s.now⟩] ∧
        t.reactions = s.reactions ++ [⟨cls, code, detail⟩]) ∧
      (queueDepth s cls < 16 → ∀ (a b : List FaultRec) (r : FaultRec), s.faults = a ++ r :: b → r.code = code → r.detail = detail →
        (∀ x ∈ a ++ b, ¬(x.code = code ∧ x.detail = detail)) →
        t.faults = a ++ r.repeated cls (!faultIsEvent code detail) :: b))

/-- R639: the log is full. Records stand in it oldest first. -/
def Obligations.FullLogReplaces : Prop :=
  ∀ (s : State) (cls : Fin 5) (code detail : Nat), cls.val ≤ 2 → code ∈ catalogue cls.val → queueDepth s cls < 16 →
    s.faults.length = 64 → (∀ r ∈ s.faults, ¬(r.code = code ∧ r.detail = detail)) →
    Gives (.faultLog cls code detail) s (fun t =>
      t.get F.SYS_FAULT_LOG_LOST = min (s.get F.SYS_FAULT_LOG_LOST + 1) (2 ^ F.SYS_FAULT_LOG_LOST.width - 1) ∧
      (∀ (a b : List FaultRec) (x : FaultRec), s.faults = a ++ x :: b → x.active = false → (∀ r ∈ a, r.active = true) →
        t.faults = a ++ b ++ [⟨code, cls, !faultIsEvent code detail, false, 1, detail, s.now⟩]) ∧
      ((∀ r ∈ s.faults, r.active = true) →
        (∀ (a b : List FaultRec) (x : FaultRec), s.faults = a ++ x :: b → x.cls < cls.val → (∀ r ∈ a, x.cls < r.cls) →
          (∀ r ∈ b, x.cls ≤ r.cls) →
          t.faults = a ++ b ++ [⟨code, cls, !faultIsEvent code detail, false, 1, detail, s.now⟩]) ∧
        ((∀ r ∈ s.faults, cls.val ≤ r.cls) → t.faults = s.faults)))

/-- R492 to R494, R642, R645, R646: what faults of class F3 and F4 do. -/
def Obligations.SafetyAndFatalFaults : Prop :=
  ∀ s : State,
    (∀ detail : Nat, safUp s = true → s.mode = .scan → Gives (.f3Fault 0x0D04 detail) s (fun t => t.mode = .safeHold ∧
      t.get F.SAF_STATUS_HOLD_CAUSE = 1 ∧ RegFrame f3Fields s t ∧ ∀ d : Side, ∀ n < 4, (t.ev d).pair n ≠ .on)) ∧
    (∀ detail : Nat, s.mode = .scan → Gives (.faultLog 3 0x0D01 detail) s (fun t => t.mode = .lockout ∧
      t.get F.SAF_STATUS_LOCK_LATCH = 1 ∧ t.get F.SAF_STATUS_LOCK_CAUSE = 2 ∧ RegFrame f3Fields s t ∧
      ∀ d : Side, ∀ n < 4, (t.ev d).pair n ≠ .on)) ∧
    (∀ detail : Nat, safUp s = true → s.mode = .ready → Gives (.f3Fault 0x0D02 detail) s (fun t => t.mode = .ready ∧
      t.get F.SAF_STATUS_LOCK_LATCH = 1 ∧ t.get F.SAF_STATUS_LOCK_CAUSE = 1 ∧ RegFrame f3Fields s t)) ∧
    (∀ code detail : Nat, Gives (.f3CauseCleared code detail) s (fun t => (code, detail) ∉ t.saf.f3 ∧ Keeps s t)) ∧
    (∀ code detail : Nat, inCatalogue s 4 code = true → s.mode ≠ .opened → s.mode ≠ .off → Gives (.f4Fault code detail) s (fun t =>
      t.mode = .fatal ∧ t.get F.SYS_RESET_CAUSE_F4 = 1 ∧ t.pins.erow = 0 ∧ t.pins.ecol = 0 ∧ t.pins.ebk = 0 ∧ t.pins.fls = 0 ∧
      RegFrame f4Fields s t ∧ ∀ d : Side, ∀ n < 4, (t.ev d).pair n ≠ .on)) ∧
    (∀ r : Reaction, ctlUp s = true → dueReaction s = some r → Gives .faultReactionRun s (fun t =>
      t = { s with reactions := s.reactions.erase r, running := r :: s.running })) ∧
    (∀ (r : Reaction) (a b : List Reaction), s.running = [] → (∀ f ∈ s.faults, f.noReact = false) → s.reactions = a ++ r :: b →
      r.cls ≤ 3 → (∀ x ∈ a, x.cls < r.cls) → (∀ x ∈ b, x.cls ≤ r.cls) →
      dueReaction s = some r ∧ s.reactions.erase r = a ++ b) ∧
    (∀ (r : Reaction) (l : List Reaction), ctlUp s = true → dueReaction s = none → s.running = r :: l →
      Gives .faultReactionRun s (fun t => t.running = l ∧ t = { s with running := l, faults := t.faults } ∧
        ∀ x ∈ s.faults, x.is r.code r.detail = false → x ∈ t.faults)) ∧
    (s.fatalReset = true → Gives .fatalResetTimer s (fun t => t.get F.SYS_START_START_KIND = 2 ∧ t.cmd.cmds = [] ∧
      (t.mode = .standby ∨ t.mode = .opened) ∧ t.sec = s.sec))

/-- R7, R35, R147, R688, R690: a device reset without loss of VDD_AON. -/
def Obligations.DeviceResetKeeps : Prop :=
  ∀ s : State,
    (s.cmd.resetDue = false → Gives .deviceReset s (fun t => t = s)) ∧
    (s.cmd.resetDue = true → Gives .deviceReset s (fun t =>
      (∀ f : Fld, f.key ≠ F.HGE_SEED.key → f.key ≠ F.SYS_START_START_KIND.key → f.key ≠ F.SEC_STATUS_SESSION_KEYS.key →
        t.get f = if keptKey f.key = true ∨ aonClockKey f.key = true then s.get f else f.reset) ∧
      t.get F.SYS_START_START_KIND = 2 ∧ t.get F.SEC_STATUS_SESSION_KEYS = 0 ∧
      t.faults = s.faults.map (fun r => { r with active := false }) ∧ t.cmd.cmds = [] ∧ t.cmd.comps = [] ∧
      t.saf = State.reset.saf ∧ t.sec = s.sec ∧ t.cal.flash = s.cal.flash ∧ s.tx <+: t.tx ∧
      (s.acq.run = none → t.tx = s.tx) ∧ t.now = s.now))

/-- R36, R37: the pairs of the herd controller. -/
def Obligations.HerdPairs : Prop :=
  ∀ s : State,
    (ctlUp s = true → s.flag F.RED_HERD_H0_OK = true → s.flag F.RED_HERD_H1_OK = true →
      (∀ p : Fin 2, Gives (.herdCompareMismatch p) s (fun t => t.get (herdOk p) = 0 ∧
        t.red.switching = (s.red.switching || decide (p.val = herdActive s)) ∧ RegFrame (herdOk p :: faultFields 1) s t ∧
        t.mode = s.mode)) ∧
      (herdActive s ≤ 1 → Gives .herdWatchdogExpiry s (fun t => t.get (herdOk (herdActive s)) = 0 ∧ t.red.switching = true ∧
        RegFrame (herdOk (herdActive s) :: faultFields 1) s t ∧ t.mode = s.mode))) ∧
    (ctlUp s = true → s.flag F.RED_HERD_H0_OK = true → s.flag F.RED_HERD_H1_OK = false → s.mode ≠ .opened → s.mode ≠ .off →
      Gives (.herdCompareMismatch 0) s (fun t => t.mode = .fatal ∧ t.get F.SYS_RESET_CAUSE_F4 = 1)) ∧
    (s.red.switching = true → ctlUp s = true → standbyOk s = true → herdActive s ≤ 1 → Gives .switchOverDone s (fun t =>
      t.get F.RED_HERD_ACTIVE = 1 - herdActive s ∧ t.red.switching = false ∧ Keeps s t)) ∧
    (s.red.switching = true → ctlUp s = true → standbyOk s = false → Gives .switchOverDone s (fun t =>
      t.red.switching = false ∧ t.regs = s.regs ∧ t.mode = s.mode ∧ t.saf = s.saf))

/-- R686: rounding to the nearest step. -/
def Obligations.RoundingHalfAway : Prop :=
  ∀ a b : Nat, 0 < b →
    (∀ q : Nat, divRound a b = q ↔ (2 * q * b ≤ 2 * a + b ∧ 2 * a < (2 * q + 1) * b)) ∧
    divRoundInt (Int.ofNat a) b = Int.ofNat (divRound a b) ∧ divRoundInt (-Int.ofNat a) b = -Int.ofNat (divRound a b)

/-- R131, R148: commands of the system group and the fault log's commands that end at once. -/
def Obligations.SystemCommands : Prop :=
  ∀ (s : State) (p : Port) (tag : Nat) (c : Cmd), c.discard = false →
    (Ready s p tag 0x0100 (fun s c => stdCheck s c false false false) c → Gives (.nop p tag) s (fun t =>
      Ends t c St.done 0 ∧ t = { s with cmd := t.cmd })) ∧
    (Ready s p tag 0x0101 (fun s c => stdCheck s c false false false) c → Gives (.getInfo p tag) s (fun t =>
      Ends t c St.done (s.sys.fw.version + 2 ^ 32 * cmdInfo s) ∧ t = { s with cmd := t.cmd })) ∧
    (Ready s p tag 0x0103 (fun s c => stdCheck s c false false false) c → Gives (.reset p tag) s (fun t =>
      Ends t c St.done 0 ∧ t.get F.SYS_RESET_CAUSE_CMD = 1 ∧ t.cmd.resetDue = true ∧ RegFrame [F.SYS_RESET_CAUSE_CMD] s t ∧
      t = { s with regs := t.regs, cmd := t.cmd })) ∧
    (Ready s p tag 0x0104 (fun s c => stdCheck s c false false false) c → Gives (.setPowerCap p tag) s (fun t =>
      Ends t c St.done (s.get F.SCH_CAP_CAP) ∧ t.get F.SCH_CAP_CAP = c.dw 4 % 2 ^ F.SCH_CAP_CAP.width ∧
      RegFrame [F.SCH_CAP_CAP] s t ∧ t = { s with regs := t.regs, cmd := t.cmd })) ∧
    (Ready s p tag 0x0901 (fun s c => stdCheck s c false false false) c → Gives (.diagClearFaults p tag) s (fun t =>
      Ends t c St.done (s.faults.filter fun r => !r.active).length ∧ t.faults = s.faults.filter (·.active) ∧
      t.get F.SYS_FAULT_FIRST_VALID = 0 ∧ RegFrame [F.SYS_FAULT_FIRST_VALID] s t ∧
      t = { s with regs := t.regs, cmd := t.cmd, faults := t.faults })) ∧
    (Ready s p tag 0x0900 (fun s c => stdCheck s c false false false) c → ∀ d : List Byte,
      d = ((s.faults.map faultBytes).flatten).take (64 * c.paramLen / 16 * 16) →
      ((c.port = .ring → pcieUsable s = true) → Gives (.diagReadFaults p tag) s (fun t => Ends t c St.done d.length ∧
        Delivers s t c d ∧ t = { s with cmd := t.cmd, tx := t.tx })) ∧
      (c.port = .ring → pcieUsable s = false → Gives (.diagReadFaults p tag) s (fun t => Ends t c St.timeout 0 ∧
        t = { s with cmd := t.cmd })))

/-- Chapters 3, 5, 6 and 15: the long operations of the system and diagnosis groups, and what stops them (R90, R131, R148, R150,
R185, R507). -/
def Obligations.LongOperations : Prop :=
  ∀ s : State, (∀ failed : Nat, runningCmd s 0x0903 = none → Gives (.selfTestDone failed) s (fun t => t = s)) ∧
  ∀ (p : Port) (tag : Nat) (c : Cmd), c.discard = false →
    (Ready s p tag 0x0102 setStateCheck c →
      (c.dw 4 = 1 → Gives (.setState p tag) s (fun t => Ends t c St.done 1 ∧
        t = { s with sys := { s.sys with trans := some ⟨1, some (c.port, c.tag)⟩ }, cmd := t.cmd })) ∧
      (c.dw 4 = 2 → Gives (.setState p tag) s (fun t => Running t c ∧ (c.first = false → Accepted t c) ∧
        t = { s with sys := { s.sys with trans := some ⟨2, some (c.port, c.tag)⟩ }, cmd := t.cmd })) ∧
      (c.dw 4 = 3 → Gives (.setState p tag) s (fun t => Running t c ∧ (c.first = false → Accepted t c) ∧ t.mode = s.mode ∧
        t.sys = { s.sys with trans := some ⟨3, some (c.port, c.tag)⟩, startAt := s.sys.raw } ∧
        t.get F.SYS_START_START_KIND = 3 ∧ t.get F.SYS_START_READY_MS = 0xFFFF ∧ t.get F.SYS_START_GROOM_FULL = 0 ∧
        (s.step = 6 → t.step = 6 ∧ t.cal.grooms = s.cal.grooms) ∧
        (s.step ≠ 6 → t.step = 5 ∧
          t.cal.grooms = s.cal.grooms ++ [⟨none, false, 0x1FFFF, false, true, false, false, 0⟩]) ∧
        RegFrame ([F.SYS_START_START_KIND, F.SYS_START_READY_MS, F.SYS_START_GROOM_FULL, F.SYS_STATUS_STEP] ++
          (List.range 17).map clst) s t))) ∧
    (Ready s p tag 0x0106 herdSwitchCheck c → Gives (.herdSwitch p tag) s (fun t => Running t c ∧
      (c.first = false → Accepted t c) ∧ t = { s with red := { s.red with switching := true }, cmd := t.cmd })) ∧
    (Ready s p tag 0x0902 diagImpedanceCheck c → Gives (.diagImpedance p tag) s (fun t => Running t c ∧
      (c.first = false → Accepted t c) ∧ t.get F.RXF_IMP_STATUS_BUSY = 1 ∧ t.rxf = { s.rxf with impFrom := some (c.dw 4 % 2 ^ 17) } ∧
      (c.dw 4 % 2 ^ 16 = 2 ^ 16 - 1 → t.get F.RXF_IMP_STATUS_PEND = 0) ∧
      RegFrame (if c.dw 4 % 2 ^ 16 = 2 ^ 16 - 1 then [F.RXF_IMP_STATUS_BUSY, F.RXF_IMP_STATUS_PEND] else [F.RXF_IMP_STATUS_BUSY]) s t ∧
      t = { s with regs := t.regs, rxf := t.rxf, cmd := t.cmd })) ∧
    (Ready s p tag 0x0903 (fun s c => stdCheck s c false false (s.sys.trans.isSome || holds s 0x0903)) c →
      Gives (.diagSelfTest p tag) s (fun t => Running t c ∧ (c.first = false → Accepted t c) ∧ t = { s with cmd := t.cmd })) ∧
    (∀ failed : Nat, runningCmd s 0x0903 = some c → Gives (.selfTestDone failed) s (fun t =>
      Ends t c St.done (failed &&& c.dw 4) ∧ t = { s with cmd := t.cmd })) ∧
    (Ready s p tag 0x0105 abortCheck c →
      (operation s c.port (c.dw 4 % 2 ^ 16) = none → Gives (.abort p tag) s (fun t => Ends t c St.done 0 ∧ t = { s with cmd := t.cmd })) ∧
      (∀ x : Cmd, operation s c.port (c.dw 4 % 2 ^ 16) = some x → x.discard = false → opStops x.opcode = true →
        Gives (.abort p tag) s (fun t => Ends t c St.done 1 ∧
          (∃ y ∈ t.cmd.comps, y.tag = x.tag ∧ y.port = x.port ∧ y.index = x.index ∧ y.status = St.aborted ∧ y.final = true) ∧
          t = { stopOperation s x with cmd := t.cmd } ∧
          (x.opcode = 0x0902 → t.get F.RXF_IMP_STATUS_BUSY = 0 ∧ t.rxf.impFrom = none ∧ RegFrame [F.RXF_IMP_STATUS_BUSY] s t) ∧
          (x.opcode = 0x0903 → t = { s with cmd := t.cmd }) ∧
          (x.opcode = 0x0801 → t = { s with prt := { s.prt with retrain := none }, cmd := t.cmd }) ∧
          (x.opcode = 0x0802 → t = { s with acq := { s.acq with tbMax := none }, cmd := t.cmd })))) ∧
    (∀ x : Cmd, Waits s p tag 0x0105 c → operation s c.port (c.dw 4 % 2 ^ 16) = some x → opStops x.opcode = false →
      Gives (.abort p tag) s (fun t => Ends t c St.badParam 0 ∧ t = { s with cmd := t.cmd })) ∧
    (Ready s p tag 0x0904 (fun s c => stdCheck s c false false false) c →
      (c.port = .ring → pcieUsable s = true) → Gives (.diagReadCounters p tag) s (fun t =>
        ∃ d : List Byte, d.length ≤ 64 * c.paramLen ∧ Ends t c St.done d.length ∧ Delivers s t c d ∧ t.regs = s.regs)) ∧
    (Ready s p tag 0x0904 (fun s c => stdCheck s c false false false) c → c.port = .ring → pcieUsable s = false →
      Gives (.diagReadCounters p tag) s (fun t => Ends t c St.timeout 0 ∧ t.regs = s.regs ∧ t.tx = s.tx))

/-- R99, R147, R156 to R164: the frames of the management port. -/
def Obligations.ManagementPort : Prop :=
  ∀ s : State, s.mode ≠ .off →
    (∀ (head : Fin 65536) (rest b : List Byte), b = clocked head rest → frameCheck b = none →
      (reqType b = 2 → Gives (.mgmtStatusRead head rest) s (fun t => t.cmd.resp = some (0x82, reqSeq b, statusBody s) ∧
        RegFrame [F.MGMT_STAT_RESP_LOST] s t ∧ (s.cmd.resp.isSome = true → t.get F.MGMT_STAT_RESP_LOST = 1) ∧
        t = { s with regs := t.regs, cmd := t.cmd })) ∧
      (reqType b = 3 → s.mode ≠ .fatal → s.flag F.SYS_STATUS_CMD_LIVE = true → Gives (.mgmtCompletionRead head rest) s (fun t =>
        t.cmd.resp = some (0x83, reqSeq b, completionBody s) ∧ t.cmd.mgmtComps = s.cmd.mgmtComps.drop 1 ∧
        RegFrame [F.MGMT_STAT_RESP_LOST] s t)) ∧
      (reqType b = 3 → s.mode ≠ .fatal → s.mode ≠ .sleep → s.flag F.SYS_STATUS_CMD_LIVE = false →
        Gives (.mgmtCompletionRead head rest) s (fun t =>
          t = { s with cmd := { s.cmd with held := s.cmd.held ++ [⟨3, reqSeq b, reqBody b, false⟩] } })) ∧
      (reqType b = 5 → s.mode ≠ .fatal → s.flag F.SYS_STATUS_CMD_LIVE = true → Gives (.mgmtReset head rest) s (fun t =>
        t.cmd.resp = some (0x85, reqSeq b, []) ∧ t.cmd.resetDue = true ∧ t.get F.SYS_RESET_CAUSE_CMD = 1 ∧
        RegFrame [F.SYS_RESET_CAUSE_CMD, F.MGMT_STAT_RESP_LOST] s t)) ∧
      (reqType b = 5 → s.mode ≠ .fatal → s.mode ≠ .sleep → s.flag F.SYS_STATUS_CMD_LIVE = false →
        Gives (.mgmtReset head rest) s (fun t => t.cmd.resp = some (0x85, reqSeq b, []) ∧
          t.cmd.held = s.cmd.held ++ [⟨5, reqSeq b, reqBody b, false⟩] ∧ RegFrame [F.MGMT_STAT_RESP_LOST] s t))) ∧
    (∀ (head : Fin 65536) (rest b : List Byte) (code : Nat), b = clocked head rest → frameCheck b = some code →
      Gives (.mgmtStatusRead head rest) s (fun t => t.cmd.resp = some (0x8F, reqSeq b, [BitVec.ofNat 8 code]) ∧
        RegFrame [F.MGMT_STAT_RESP_LOST, F.MGMT_CRC_CNT] s t ∧ t.cmd.cmds = s.cmd.cmds ∧ t.cmd.held = s.cmd.held)) ∧
    (∀ (head len : Fin 65536) (body b : List Byte) (crc : Dword), b = clocked head (afterSeq len body crc) → frameCheck b = none →
      (reqType b = 4 → s.mode ≠ .fatal → s.flag F.SYS_STATUS_CMD_LIVE = true → Gives (.mgmtRegRead head len body crc) s (fun t =>
        t.cmd.resp = some (0x84, reqSeq b, (readDwords (leAt (reqBody b) 4 1) (leAt (reqBody b) 0 4 / 4 * 4) s).1) ∧
        RegFrame [F.MGMT_STAT_RESP_LOST] s t ∧ t.mode = s.mode ∧ t.saf = s.saf)) ∧
      (∀ a : List Byte, reqType b = 1 → s.cmd.lastAck = some (reqSeq b, a) → s.mode ≠ .fatal →
        Gives (.mgmtCommand head len body crc) s (fun t => t.cmd.resp = some (0x81, reqSeq b, a) ∧ t.cmd.cmds = s.cmd.cmds ∧
          t.cmd.held = s.cmd.held)) ∧
      (∀ c : Cmd, reqType b = 1 → s.mode ≠ .fatal → s.mode ≠ .sleep →
        s.cmd.lastAck.filter (fun a => a.1 == reqSeq b) = none → mgmtRoom s = true → s.flag F.SYS_STATUS_CMD_LIVE = true →
        c = parseBody (reqBody b) → entryCheck (ackFrame s (reqSeq b) 0 c.tag) c = none →
        Gives (.mgmtCommand head len body crc) s (fun t => t.cmd.cmds = s.cmd.cmds ++ [c] ∧
          t.cmd.resp = some (0x81, reqSeq b, ackBody 0 c.tag) ∧ RegFrame [F.MGMT_STAT_RESP_LOST] s t))) ∧
    (∀ (n : Nat) (b : List Byte) (z : Bool) (l : List HeldFrame), s.cmd.held = ⟨1, n, b, z⟩ :: l → ctlUp s = true →
      s.flag F.SYS_STATUS_CMD_LIVE = true → entryCheck { s with cmd := { s.cmd with held := l } } (parseBody b) = none →
      Gives .mgmtHeldExecute s (fun t => t.cmd.held = l ∧ t.cmd.cmds = s.cmd.cmds ++ [parseBody b] ∧ t.regs = s.regs)) ∧
    (∀ (full : Bool) (k n : Nat) (b : List Byte), s.cmd.resp = some (k, n, b) → Gives (.mgmtRead full) s (fun t =>
      t.tx = s.tx ++ [.mgmt (mgmtFrame k n b)] ∧ t.cmd.resp = (if full then none else some (k, n, b)) ∧ t.regs = s.regs)) ∧
    (∀ full : Bool, s.cmd.resp = none → Gives (.mgmtRead full) s (fun t => t = { s with tx := s.tx ++ [.mgmt [0]] }))

/-- R102, R151, R578, R581, R583, R584: the PCI Express endpoint. -/
def Obligations.PcieLink : Prop :=
  ∀ s : State,
    (mainDown s = false → s.pins.perst = false → Gives .perstAssert s (fun t => t.pins.perst = true ∧ t.link.up = false ∧
      t.get F.SYS_STATUS_PCIE_CFG = 0 ∧ t.get F.CMD_CTRL_EN = 0 ∧ t.get F.CMD_STATUS_PERST_SEEN = 1 ∧ Keeps s t)) ∧
    (s.pins.perst = true → wakeCauses { s with pins := { s.pins with perst := false } } (2 ^ 11) = 0 →
      Gives .perstRelease s (fun t => t = { s with pins := { s.pins with perst := false } })) ∧
    (mainDown s = false → s.pins.perst = false → Gives .pcieConfigReady s (fun t => t.get F.SYS_STATUS_PCIE_CFG = 1 ∧
      RegFrame [F.SYS_STATUS_PCIE_CFG] s t ∧ t = { s with regs := t.regs, link := { s.link with flr := false } })) ∧
    (s.link.up = true → s.pins.perst = false → Gives .functionLevelReset s (fun t => t.link.flr = true ∧
      t.get F.CMD_CTRL_EN = 0 ∧ t.get F.SYS_STATUS_PCIE_CFG = 0 ∧ Keeps s t)) ∧
    (∀ (speed : Fin 6) (width : Fin 9) (rev : Bool), lnkUp s = true → s.pins.perst = false →
      Gives (.pcieLinkUp speed width rev) s (fun t => t.link.up = true ∧ t.pins.peWake = false ∧ Keeps s t ∧
        (s.flag F.LNK_PCIE_STATUS_BME = false → t.get F.LNK_PCIE_STATUS_PWR = 0 ∧
          t.get F.LNK_PCIE_STATUS_SPEED = speed.val % 2 ^ F.LNK_PCIE_STATUS_SPEED.width ∧
          t.get F.LNK_PCIE_STATUS_WIDTH = width.val % 2 ^ F.LNK_PCIE_STATUS_WIDTH.width ∧
          t.get F.LNK_PCIE_STATUS_REVERSED = b2n rev ∧
          RegFrame [F.LNK_PCIE_STATUS_PWR, F.LNK_PCIE_STATUS_SPEED, F.LNK_PCIE_STATUS_WIDTH, F.LNK_PCIE_STATUS_REVERSED] s t))) ∧
    (s.link.up = true → Gives .pcieLinkLost s (fun t => t.link.up = false ∧ t.link.sleepShake = false ∧ Keeps s t)) ∧
    (s.link.up = false → s.pins.perst = false → lnkUp s = true → Gives .pcieLinkLost s (fun t =>
      t.get (F.SYS_FAULT_CNT 2) = min (s.get (F.SYS_FAULT_CNT 2) + 1) (2 ^ 32 - 1) ∧ RegFrame (faultFields 2) s t ∧
      t.link = s.link)) ∧
    (s.link.up = true → Gives .pmeTurnOff s (fun t => t.get F.LNK_PCIE_STATUS_PWR = 3 ∧ RegFrame [F.LNK_PCIE_STATUS_PWR] s t ∧
      t.link.sleepShake = false ∧ t.sys.sleepEntering = (s.sys.sleepEntering || s.link.sleepShake))) ∧
    Gives .pmeWaitExpiry s (fun t => t.link = { s.link with sleepShake := false } ∧
      t.sys = { s.sys with sleepEntering := s.sys.sleepEntering || s.link.sleepShake } ∧ t = { s with link := t.link, sys := t.sys }) ∧
    (∀ sub : Bool, s.link.up = true → s.link.aspm = true → s.get F.LNK_PCIE_STATUS_PWR = 0 → Gives (.l1Entry sub) s (fun t =>
      t.get F.LNK_PCIE_STATUS_PWR = (if sub && s.link.l11 then 2 else 1) ∧ RegsOnly [F.LNK_PCIE_STATUS_PWR] s t)) ∧
    Gives .peWakeTimeout s (fun t => t = { s with pins := { s.pins with peWake := false } }) ∧
    (∀ (bme d3 mx : Bool) (cfg : CfgSpace), s.flag F.SYS_STATUS_PCIE_CFG = true → s.link.flr = false → s.link.up = true →
      Gives (.pcieConfigWrite bme d3 mx cfg) s (fun t => t.link.up = true ∧ t.link.mps = cfg.mps ∧ t.link.mrrs = cfg.mrrs ∧
        t.link.aspm = cfg.aspm ∧ t.link.l11 = cfg.l11 ∧ Keeps s t ∧
        ((bme && !d3) = (s.flag F.LNK_PCIE_STATUS_BME && !s.flag F.LNK_PCIE_STATUS_D3HOT) →
          t.get F.LNK_PCIE_STATUS_BME = b2n bme ∧ t.get F.LNK_PCIE_STATUS_D3HOT = b2n d3 ∧
          t.get F.LNK_PCIE_STATUS_MSIX_EN = b2n mx ∧ t.get F.LNK_PCIE_STATUS_FN_MASK = b2n cfg.fnMask)))

/-- Chapters 5, 8 and 10: the commands that load programs and set the timing and the point rings (R23, R148, R264, R310, R343). -/
def Obligations.ProgramCommands : Prop :=
  ∀ (s : State) (p : Port) (tag : Nat) (c : Cmd), c.discard = false →
    (Ready s p tag 0x0200 loadProgCheck c → ∀ q : Prog, q = readProg c.data →
      (∀ k o : Nat, progFault s c.data = some (k, o) → Gives (.loadScanProg p tag) s (fun t => Ends t c St.badParam 0 ∧
        t.get F.SCH_LOAD_ERR_CHECK = k % 2 ^ F.SCH_LOAD_ERR_CHECK.width ∧
        t.get F.SCH_LOAD_ERR_OFFSET = o % 2 ^ F.SCH_LOAD_ERR_OFFSET.width ∧
        RegFrame [F.SCH_LOAD_ERR_CHECK, F.SCH_LOAD_ERR_OFFSET] s t ∧ t = { s with regs := t.regs, cmd := t.cmd })) ∧
      (progFault s c.data = none →
        (s.saf.cfg.isSome = true → crcListed s q.crc = false → Gives (.loadScanProg p tag) s (fun t => Ends t c St.locked 0 ∧
          t.sch = s.sch ∧ t.get F.SCH_LOAD_ERR_CHECK = 0 ∧
          RegFrame ([F.SCH_LOAD_ERR_CHECK, F.SCH_LOAD_ERR_OFFSET] ++ faultFields 0) s t)) ∧
        ((s.saf.cfg.isSome = true → crcListed s q.crc = true) → availableStalls s < progNeed s q →
          Gives (.loadScanProg p tag) s (fun t => Ends t c St.resource 0 ∧ t.sch = s.sch ∧ t.get F.SCH_LOAD_ERR_CHECK = 0 ∧
            RegFrame [F.SCH_LOAD_ERR_CHECK, F.SCH_LOAD_ERR_OFFSET] s t)) ∧
        ((s.saf.cfg.isSome = true → crcListed s q.crc = true) → progNeed s q ≤ availableStalls s →
          Gives (.loadScanProg p tag) s (fun t => Ends t c St.done q.crc ∧
            t.sch = { s.sch with progs := putAt s.sch.progs c.slot none (some { q with need := progNeed s q }) } ∧
            t.get (if c.slot = 0 then F.SCH_STATUS_PROG0_VALID else F.SCH_STATUS_PROG1_VALID) = 1 ∧
            t.get (if c.slot = 0 then F.SCH_PROG_CRC0 else F.SCH_PROG_CRC1) = q.crc % 2 ^ 32 ∧
            t.get F.SCH_LOAD_ERR_CHECK = 0 ∧ t.get F.SCH_LOAD_ERR_OFFSET = 0 ∧
            RegFrame (F.SCH_LOAD_ERR_CHECK :: F.SCH_LOAD_ERR_OFFSET :: (if c.slot = 0 then [F.SCH_PROG_CRC0, F.SCH_STATUS_PROG0_VALID]
              else [F.SCH_PROG_CRC1, F.SCH_STATUS_PROG1_VALID])) s t ∧ t = { s with regs := t.regs, sch := t.sch, cmd := t.cmd })))) ∧
    (Ready s p tag 0x0204 (fun s c => stdCheck s c (committed s) false s.sys.trans.isSome) c → Gives (.setTiming p tag) s (fun t =>
      Ends t c St.done 0 ∧ t.sch = { s.sch with slotNs := c.dw 4, frameUs := c.dw 5, slots := c.dw 5 * 1000 / c.dw 4 } ∧
      t = { s with sch := t.sch, cmd := t.cmd })) ∧
    (Waits s p tag 0x0204 c → committed s = true → Gives (.setTiming p tag) s (fun t => Ends t c St.locked 0 ∧ t.sch = s.sch ∧
      RegFrame (faultFields 0) s t)) ∧
    (Ready s p tag 0x0205 (fun s c => stdCheck s c false false s.sys.trans.isSome) c → ∀ n : Nat, n = c.dw 4 % 4 →
      Gives (.setPointRing p tag) s (fun t => Ends t c St.done 0 ∧
        t.get (F.HGE_RING_BASE n) = (c.dw 5 + 2 ^ 32 * c.dw 6) % 2 ^ (F.HGE_RING_BASE n).width ∧
        t.get (F.HGE_RING_CFG_SIZE n) = c.dw 7 / 4096 % 2 ^ (F.HGE_RING_CFG_SIZE n).width ∧
        t.get (F.HGE_RING_CFG_FUSED n) = b2n (bit (c.dw 8) 0) ∧ t.get (F.HGE_RING_WPTR n) = 0 ∧ t.get (F.HGE_RING_RPTR n) = 0 ∧
        t.get (F.HGE_RING_LAP n) = 0 ∧ ringAt t n = { ringAt s n with hdrDue := !(ringAt s n).queue.isEmpty } ∧
        (∀ m < 4, m ≠ n → ringAt t m = ringAt s m) ∧
        RegFrame [F.HGE_RING_BASE n, F.HGE_RING_CFG_SIZE n, F.HGE_RING_CFG_FUSED n, F.HGE_RING_WPTR n, F.HGE_RING_LAP n,
          F.HGE_RING_RPTR n] s t ∧ t = { s with regs := t.regs, hge := t.hge, cmd := t.cmd }))

/-- R144, R463, R464, R482, R491: safety configuration, arming and the lockout. -/
def Obligations.SafetyCommands : Prop :=
  ∀ (s : State) (p : Port) (tag : Nat) (c : Cmd), c.discard = false →
    (Ready s p tag 0x0500 safLoadCheck c → Gives (.safLoadConfig p tag) s (fun t => match safContents s 0x0500 c.data with
      | (none, _) => Ends t c St.done (safDigest c.data) ∧ t.saf.staged = c.data ∧ t.saf.cfg = none ∧
          t.saf.armed = s.saf.armed ∧ t.mode = s.mode
      | (some e, v) => Ends t c e.1 0 ∧ t = { s with regs := v.regs, cmd := t.cmd })) ∧
    (Ready s p tag 0x0501 safLoadCheck c → Gives (.safCommit p tag) s (fun t => match safContents s 0x0501 c.data with
      | (none, _) => Ends t c St.done c.counter ∧ t.saf.cfg = some (parseImage s.saf.staged) ∧
          t.get F.SAF_COUNTER = c.counter % 2 ^ 64 ∧ t.get F.SAF_DIGEST = safDigest s.saf.staged % 2 ^ 64 ∧ t.mode = s.mode ∧
          t.saf.armed = s.saf.armed
      | (some e, v) => Ends t c e.1 0 ∧ t = { s with regs := v.regs, cmd := t.cmd })) ∧
    (Ready s p tag 0x0502 safArmCheck c → Gives (.safArm p tag) s (fun t => Ends t c St.done 0 ∧ t.saf.armed = true ∧
      t.mode = s.mode ∧ t.saf.cfg = s.saf.cfg)) ∧
    (Ready s p tag 0x0503 (fun s c => stdCheck s c false false false) c → Gives (.safDisarm p tag) s (fun t =>
      Ends t c St.done 0 ∧ t.saf.armed = false ∧ t.mode = s.mode ∧ t.saf.cfg = s.saf.cfg ∧
      ∀ d : Side, ∀ n < 4, (t.ev d).pair n ≠ .on)) ∧
    (Ready s p tag 0x0504 (fun s c => stdCheck s c false false false) c → Gives (.safeLockoutClear p tag) s (fun t =>
      Ends t c St.done 0 ∧ t.saf = { s.saf with clearable := true } ∧ t = { s with saf := t.saf, cmd := t.cmd }))

/-- R292 to R301: the far yard's windows. -/
def Obligations.YardCommands : Prop :=
  ∀ s : State,
    (∀ (p : Port) (tag : Nat) (c : Cmd), c.discard = false →
      (Ready s p tag 0x0300 (fun s c => if overlaps s c then some St.badParam else stdCheck s c false false false) c →
        (∀ w : Nat, w < 64 → grantFits s c = true → s.flag (F.YRD_GRANT_STAT_VALID w) = false →
          (∀ v < w, s.flag (F.YRD_GRANT_STAT_VALID v) = true) → Gives (.yardGrant p tag) s (fun t =>
            Ends t c St.done w ∧ t.get (F.YRD_GRANT_STAT_VALID w) = 1 ∧
            t.get (F.YRD_GRANT_BASE w) = grantBase c / 65536 % 2 ^ (F.YRD_GRANT_BASE w).width ∧
            RegFrame [F.YRD_GRANT_BASE w, F.YRD_GRANT_LEN w, F.YRD_GRANT_STAT_CLASS w, F.YRD_GRANT_STAT_VALID w] s t ∧
            t = { s with regs := t.regs, cmd := t.cmd })) ∧
        (grantFits s c = false → Gives (.yardGrant p tag) s (fun t => Ends t c St.resource 0 ∧ t = { s with cmd := t.cmd }))) ∧
      (Ready s p tag 0x0302 (fun s c => stdCheck s c false false false) c → ∀ r : Tier,
        r = (if c.dw 4 = 0 then .loft else if c.dw 4 = 1 then .near else .far) → Gives (.yardQuery p tag) s (fun t =>
          Ends t c St.done (tierAll s r - tierUsed s r - tierRetired s r + 2 ^ 32 * tierUsed s r) ∧ t = { s with cmd := t.cmd })) ∧
      (Ready s p tag 0x0301 (fun s c => if !s.flag (F.YRD_GRANT_STAT_VALID (c.dw 4)) then some St.badParam
          else stdCheck s c false false s.yrd.revoke.isSome) c → s.yrd.stalls = [] → c.dw 4 < 64 →
        Gives (.yardRevoke p tag) s (fun t => t.yrd.revoke = none ∧ t.get (F.YRD_GRANT_STAT_VALID (c.dw 4)) = 0 ∧ Keeps s t))) ∧
    (s.yrd.revoke = none → Gives .yardRevokeDone s (fun t => t = s)) ∧
    (∀ w n : Nat, s.yrd.revoke = some (w, n) → windowStalls s w = [] → w < 64 → Gives .yardRevokeDone s (fun t =>
      t.yrd.revoke = none ∧ t.get (F.YRD_GRANT_STAT_VALID w) = 0 ∧ Keeps s t))

/-- R193, R194, R613, R629, R631: calibration commands. -/
def Obligations.CalibrationCommands : Prop :=
  ∀ s : State,
    (∀ (p : Port) (tag : Nat) (c : Cmd), c.discard = false →
      (Ready s p tag 0x0700 calGroomCheck c → Gives (.calGroom p tag) s (fun t => Running t c ∧ (c.first = false → Accepted t c) ∧
        t.mode = s.mode ∧ t.cal.grooms = s.cal.grooms ++ [⟨some (c.port, c.tag), bit (c.dw 4) 0, c.dw 5 % 2 ^ 17, false, false,
          false, s.mode.scanning, 0⟩])) ∧
      (Ready s p tag 0x0701 calStoreCheck c → Gives (.calStore p tag) s (fun t => Running t c ∧ (c.first = false → Accepted t c) ∧
        t.get F.CAL_STATUS_STORE_BUSY = 1 ∧ RegFrame [F.CAL_STATUS_STORE_BUSY] s t ∧ t = { s with regs := t.regs, cmd := t.cmd })) ∧
      (Ready s p tag 0x0702 (fun s c => stdCheck s c false false false) c → ∀ d : List Byte,
        d = (calRecord s.cal.flash (c.dw 4 % 65536) (calBody s.cal.flash s.free (c.dw 4 % 65536)).1).take (64 * c.paramLen) →
        (c.port = .ring → pcieUsable s = true) → Gives (.calRead p tag) s (fun t => Ends t c St.done d.length ∧ Delivers s t c d ∧
          t.cal = s.cal ∧ t.regs = s.regs)) ∧
      (Ready s p tag 0x0702 (fun s c => stdCheck s c false false false) c → c.port = .ring → pcieUsable s = false →
        Gives (.calRead p tag) s (fun t => Ends t c St.timeout 0 ∧ t.regs = s.regs ∧ t.tx = s.tx)) ∧
      (Ready s p tag 0x0703 engageCheck c →
        (s.get F.RXF_SPARE_STATUS_PHASE ≠ 3 → Gives (.calSpareEngage p tag) s (fun t => Running t c ∧
          (c.first = false → Accepted t c) ∧ t.get F.RXF_SPARE_STATUS_PHASE = 1 ∧ t.get F.RXF_SPARE_STATUS_ROUTE = c.dw 4 % 16 ∧
          t.get (clst 16) = Cl.restarting ∧ t.cal.spare = some (c.port, c.tag) ∧ t.mode = s.mode)) ∧
        (s.get F.RXF_SPARE_STATUS_PHASE = 3 → Gives (.calSpareEngage p tag) s (fun t => Ends t c St.done s.sch.frame ∧
          t = { s with cmd := t.cmd }))) ∧
      (Ready s p tag 0x0704 releaseCheck c → Gives (.calSpareRelease p tag) s (fun t => Running t c ∧
        (c.first = false → Accepted t c) ∧ t.cal.spare = some (c.port, c.tag) ∧ t.cal.grooms = s.cal.grooms ++
          [⟨none, false, 2 ^ s.get F.RXF_SPARE_STATUS_ROUTE, false, false, true, s.mode.scanning, 0⟩]))) ∧
    (s.flag F.CAL_STATUS_STORE_BUSY = true →
      Gives (.calStoreDone false) s (fun t => t.get F.CAL_STATUS_STORE_BUSY = 0 ∧ t.cal = s.cal) ∧
      Gives (.calStoreDone true) s (fun t => t.get F.CAL_STATUS_STORE_BUSY = 0 ∧
        t.cal.flash = { s.cal.work with version := s.get F.CAL_VERSION_WORKING } ∧ t.cal.work = s.cal.work ∧ t.cal.valid = true ∧
        t.get F.CAL_VERSION_STORED = s.get F.CAL_VERSION_WORKING % 2 ^ F.CAL_VERSION_STORED.width)) ∧
    (∀ n : Fin 16, s.flag F.CAL_CTRL_AUTO_EN = false → Gives (.autoGroomStart n) s (fun t => t = s)) ∧
    (∀ (n : Fin 16) (u : Int), s.flag F.CAL_CTRL_AUTO_EN = true → lastGroomT s n = some u →
      4 * s.get F.CAL_CTRL_REGROOM_DT ≤ (s.rxf.tAd - u).natAbs → s.cal.grooms = [] → s.mode = .ready ∨ s.mode.scanning = true →
      s.get F.RXF_SPARE_STATUS_PHASE = 0 ∨ s.get F.RXF_SPARE_STATUS_PHASE = 5 →
      Gives (.autoGroomStart n) s (fun t => t.mode = s.mode ∧
        t.cal.grooms = [⟨none, false, 2 ^ n.val, false, false, false, s.mode.scanning, 0⟩]))

/-- R613 to R615: a groom ends. -/
def Obligations.GroomDoneEnds : Prop :=
  ∀ (s : State) (n : Nat) (meas : List ClusterMeas) (sb : List (List (Nat × Nat))) (zero pzero : Nat × Nat),
    (s.cal.grooms.length ≤ n → Gives (.groomDone n meas sb zero pzero) s (fun t => t = s)) ∧
    (∀ g : Groom, s.cal.grooms[n]? = some g → g.waiting = true → Gives (.groomDone n meas sb zero pzero) s (fun t => t = s)) ∧
    (∀ g : Groom, s.cal.grooms[n]? = some g → g.waiting = false → Gives (.groomDone n meas sb zero pzero) s (fun t =>
      t.cal.flash = s.cal.flash ∧ t.mode = s.mode ∧ Keeps s t ∧ (g.mask = 0 → t.cal.grooms = s.cal.grooms.eraseIdx n) ∧
      (g.full = false → ∃ l : List Groom, t.cal.grooms = s.cal.grooms.eraseIdx n ++ l ∧ ∀ x ∈ l, x.full = true ∧ x.cmd = none) ∧
      (g.full = true → t.cal.grooms.length + 1 = s.cal.grooms.length) ∧
      (∀ (p : Port) (tag : Nat) (c : Cmd), g.cmd = some (p, tag) → g.release = false → c.discard = false →
        s.cmd.cmds.find? (fun x => x.port == p && x.tag == tag && x.phase == .running) = some c → ∃ m : Nat, Ends t c St.done m)))

/-- R31, R32, R314 to R317: the scan. -/
def Obligations.ScanCommands : Prop :=
  ∀ s : State,
    (∀ (p : Port) (tag : Nat) (c : Cmd), c.discard = false →
      (Ready s p tag 0x0201 scanStartCheck c → startWaits s = false → Gives (.scanStart p tag) s (fun t =>
        Ends t c St.done ((s.sch.frame + 1) % 2 ^ 32) ∧
        t.mode = (if s.saf.armed = true ∧ s.flag F.SAF_STATUS_LOCK_LATCH = true then .lockout else .scan) ∧ t.sch.running = true ∧
        t.sch.next = 0 ∧ t.sch.frame = (s.sch.frame + 1) % 2 ^ 32 ∧ Keeps s t)) ∧
      (Ready s p tag 0x0201 scanStartCheck c → startWaits s = true → Gives (.scanStart p tag) s (fun t =>
        { c with phase := CmdPhase.running } ∈ t.cmd.cmds ∧ t.cmd.comps = s.cmd.comps ∧ t.red = { s.red with wait := some c.slot } ∧
        t = { s with red := t.red, cmd := t.cmd })) ∧
      (Ready s p tag 0x0202 (fun s c => if changing s then some St.busy else stdCheck s c false false false) c →
        Gives (.scanStop p tag) s (fun t => Running t c ∧ t.sch = { s.sch with stop := some (c.port, c.tag) } ∧
          t = { s with sch := t.sch, cmd := t.cmd })) ∧
      (Ready s p tag 0x0203 scanSwitchCheck c → Gives (.scanSwitch p tag) s (fun t => Running t c ∧
        t.get F.SCH_STATUS_SWITCH_PEND = 1 ∧ RegFrame [F.SCH_STATUS_SWITCH_PEND] s t ∧
        t.sch.switchTo = some (c.slot, (s.sch.frame + (if 64 + s.sch.next ≤ s.sch.slots then 1 else 2)) % 2 ^ 32)))) ∧
    (∀ pulses : List Nat, s.mode.scanning = true → s.sch.running = true → s.sch.next < s.sch.slots →
      Gives (.slotStart pulses) s (fun t => t.sch.next = s.sch.next + 1 ∧ t.sch.frame = s.sch.frame ∧ Keeps s t)) ∧
    (∀ x, s.mode.scanning = true → s.sch.running = true → s.sch.next = s.sch.slots → s.sch.stop = some x →
      Gives .frameBoundary s (fun t => t.mode = .ready ∧ t.sch.running = false ∧ t.sch.stop = none ∧ Keeps s t ∧
        ∀ d : Side, ∀ n < 4, (t.ev d).pair n ≠ .on))

/-- R481, R485 to R489, R491: what the inputs of the safety block do. -/
def Obligations.SafetyInputsAct : Prop :=
  ∀ s : State,
    (∀ (n : Fin 4) (level : Bool), Gives (.edmAccept n level) s (fun t => (pairAt t n).edm = level ∧
      Keeps s t ∧ t.mode = s.mode ∧ RegFrame settleFields s t ∧
      ((∀ d : Side, ∀ k < 4, (s.ev d).pair k ≠ .on) → (pairAt t n).edmPend = (edmEnabled s n && !level)))) ∧
    (∀ n : Fin 4, (pairAt s n).edmPend = false → Gives (.edmWindowExpiry n) s (fun t => t = s)) ∧
    (∀ n : Fin 4, (pairAt s n).edmPend = true → (pairAt s n).edm ≠ pairOn s n → Gives (.edmWindowExpiry n) s (fun t =>
      t = setPairAt s n { pairAt s n with edmPend := false })) ∧
    (∀ n : Fin 4, (pairAt s n).edmPend = true → (pairAt s n).edm = pairOn s n → s.mode = .scan →
      Gives (.edmWindowExpiry n) s (fun t => t.mode = .lockout ∧ t.get F.SAF_STATUS_LOCK_CAUSE = 1 ∧
        t.get F.SAF_EVENT_EDM = 1 ∧ ∀ d : Side, ∀ k < 4, (t.ev d).pair k ≠ .on)) ∧
    (∀ (g : Fin 4) (near : Bool), guardAt s g = ⟨true, true, false, false, false⟩ →
      Gives (.guardAccept g .a false near) s (fun t => guardAt t g = ⟨false, true, false, false, false⟩ ∧
        t.get F.SAF_EVENT_GUARD_OPEN = 1 ∧ Keeps s t ∧ t.mode = s.mode)) ∧
    (∀ (g : Fin 4) (near pend : Bool), guardAt s g = ⟨false, true, false, pend, false⟩ →
      Gives (.guardAccept g .b false near) s (fun t => guardAt t g = ⟨false, false, false, pend, true⟩ ∧ Keeps s t ∧
        t.mode = s.mode ∧ RegFrame settleFields s t)) ∧
    (∀ (g : Fin 4) (near pend : Bool), guardAt s g = ⟨false, true, false, pend, true⟩ →
      Gives (.guardAccept g .a true near) s (fun t =>
        guardAt t g = (if near = true then ⟨true, true, false, false, false⟩ else ⟨true, true, false, pend, true⟩) ∧
        Keeps s t ∧ t.mode = s.mode ∧ RegFrame settleFields s t)) ∧
    (∀ g : Fin 4, (guardAt s g).a = (guardAt s g).b → Gives (.guardDiscrepancy g) s (fun t => t = s)) ∧
    (∀ g : Fin 4, (guardAt s g).a ≠ (guardAt s g).b → Gives (.guardDiscrepancy g) s (fun t =>
      guardAt t g = { guardAt s g with disc := true, lowSeen := false } ∧ RegFrame (faultFields 2 ++ settleFields) s t ∧ Keeps s t)) ∧
    (∀ a b skew : Nat, 1000 ≤ a → a ≤ 50000 → 1000 ≤ b → b ≤ 50000 → skew < 100 →
      (s.mode = .ready → Gives (.rstReqAccept a b skew) s (fun t => t.get F.SAF_RST_EDGE = 1 ∧ t.get F.SAF_RST_LEVEL = 0 ∧
        RegsOnly [F.SAF_RST_LEVEL, F.SAF_RST_ACCEPT_CNT, F.SAF_RST_EDGE] s t)) ∧
      (s.mode = .safeHold → s.saf.f3 = [] → Gives (.rstReqAccept a b skew) s (fun t => t.mode = .scan ∧ Keeps s t)) ∧
      (∀ (c : SafCfg) (n : Nat) (d : Side), s.mode = .scan → s.saf.cfg = some c → s.saf.armed = true → n < 4 →
        (s.ev d).pair n = .wait → (c.pair n).autoRestart = false →
        Gives (.rstReqAccept a b skew) s (fun t => (t.ev d).pair n = .on ∧ t.mode = .scan))) ∧
    (∀ a b skew : Nat, a ≤ 50000 → b ≤ 50000 → (a < 1000 ∨ b < 1000 ∨ 100 ≤ skew) →
      Gives (.rstReqAccept a b skew) s (fun t => t.get F.SAF_RST_LEVEL = 0 ∧
        RegsOnly [F.SAF_RST_LEVEL, F.SAF_RST_REFUSE_CNT] s t ∧ t.get F.SAF_RST_REFUSE_CNT = (s.inc F.SAF_RST_REFUSE_CNT).get F.SAF_RST_REFUSE_CNT)) ∧
    (∀ a b skew : Nat, 50000 < a ∨ 50000 < b → Gives (.rstReqAccept a b skew) s (fun t => t.get F.SAF_RST_LEVEL = 0 ∧
      RegsOnly [F.SAF_RST_LEVEL] s t)) ∧
    Gives .rstReqJam s (fun t => t.get F.SAF_RST_JAM = 1 ∧ t.get F.SAF_RST_LEVEL = 1 ∧
      RegFrame (F.SAF_RST_JAM :: F.SAF_RST_LEVEL :: faultFields 0) s t ∧ t.mode = s.mode ∧ t.saf = s.saf) ∧
    (∀ (n : Fin 4) (c : SafCfg) (d : Side), s.mode = .scan → s.saf.cfg = some c → s.saf.armed = true →
      (s.ev d).pair n = .wait → (c.pair n).autoRestart = true →
      Gives (.autoRestartExpiry n) s (fun t => (t.ev d).pair n = .on ∧ t.mode = .scan ∧ RegFrame settleFields s t)) ∧
    Gives .clearableExpiry s (fun t => t = { s with saf := { s.saf with clearable := false } })

/-- R470 to R476, R483, R484, R494: field sets, coverage and the monitors. -/
def Obligations.FieldSetsAndMonitors : Prop :=
  ∀ s : State,
    (∀ (d : Side) (v : Fin 8), s.saf.cfg = none → Gives (.fselAccept d v) s (fun t => t = s.setEv d { s.ev d with fsel := v })) ∧
    (∀ (d : Side) (v : Fin 8) (c : SafCfg), s.saf.cfg = some c → bit c.setsEn v = true → v.val ≠ (s.ev d).active →
      Gives (.fselAccept d v) s (fun t => (t.ev d).fsel = v ∧ (t.ev d).active = v ∧
        (t.ev d).replaced = (s.ev d).active :: (s.ev d).replaced.filter (· != v.val) ∧ t.get F.SAF_EVENT_FSET_CHANGE = 1 ∧
        RegFrame (F.SAF_EVENT_FSET_CHANGE :: settleFields) s t ∧ Keeps s t ∧ t.mode = s.mode)) ∧
    (∀ (d : Side) (v : Fin 8) (c : SafCfg), s.saf.cfg = some c → bit c.setsEn v = false → Gives (.fselAccept d v) s (fun t =>
      (t.ev d).fsel = v ∧ (t.ev d).active = (s.ev d).active ∧ RegFrame (faultFields 0 ++ settleFields) s t ∧ Keeps s t)) ∧
    (s.saf.evA.fsel = s.saf.evB.fsel → Gives .fsetDisagree s (fun t => t = s)) ∧
    (s.mode = .scan → s.saf.evA.fsel ≠ s.saf.evB.fsel → Gives .fsetDisagree s (fun t => t.mode = .safeHold ∧
      t.get F.SAF_STATUS_HOLD_CAUSE = 5 ∧ RegFrame f3Fields s t ∧ ∀ d : Side, ∀ n < 4, (t.ev d).pair n ≠ .on)) ∧
    (∀ d : Side, (s.ev d).replaced = [] → Gives (.fsetOverlapEnd d) s (fun t => t = s)) ∧
    (∀ (d : Side) (l : List Nat) (k : Nat), (s.ev d).replaced = l ++ [k] → Gives (.fsetOverlapEnd d) s (fun t =>
      (t.ev d).replaced = l ∧ (t.ev d).runs = (s.ev d).runs.filter (fun r => r.set != k) ∧ RegFrame settleFields s t ∧
      Keeps s t ∧ t.mode = s.mode)) ∧
    (∀ dir : Nat, s.saf.evA.covered.contains dir = false → s.saf.evB.covered.contains dir = false →
      Gives (.coverageLapse dir) s (fun t => t = s)) ∧
    (∀ dir : Nat, s.saf.evA.covered.contains dir = true ∨ s.saf.evB.covered.contains dir = true →
      Gives (.coverageLapse dir) s (fun t => t.saf.evA.covered = s.saf.evA.covered.filter (· != dir) ∧
        t.saf.evB.covered = s.saf.evB.covered.filter (· != dir) ∧
        RegFrame (F.SAF_CNT_GAP :: settleFields) s t ∧ Keeps s t ∧ t.mode = s.mode)) ∧
    (∀ (d : Side) (n : Fin 4) (c : SafCfg), s.saf.cfg = some c → (s.ev d).pair n = .on →
      bit (causes s c d n) 1 = true → Gives (.coverageTrip d n) s (fun t => (t.ev d).pair n ≠ .on ∧
        (d = .a → t.get F.SAF_EVENT_GAP_TRIP = 1 ∧ t.get F.SAF_EVENT_TRIP = 1) ∧
        RegFrame settleFields s t ∧ Keeps s t ∧ t.mode = s.mode)) ∧
    (∀ d : Side, Gives (.evaluatorSelfTest d true true) s (fun t => t = s)) ∧
    (∀ (d : Side) (v w : Bool), s.mode = .scan → safUp s = true → (v && w) = false → Gives (.evaluatorSelfTest d v w) s (fun t =>
      t.mode = .safeHold ∧ t.get F.SAF_STATUS_HOLD_CAUSE = (if v then 4 else 3) ∧ RegFrame f3Fields s t ∧
      ∀ d : Side, ∀ n < 4, (t.ev d).pair n ≠ .on)) ∧
    (∀ line : Fin 8, Gives (.testPulse line true true true) s (fun t => t = s)) ∧
    (∀ (line : Fin 8) (own other back : Bool), lineOn s line = false → Gives (.testPulse line own other back) s (fun t => t = s)) ∧
    (∀ (line : Fin 8) (own other back : Bool), lineOn s line = true → own = false ∨ back = false → s.mode = .scan →
      Gives (.testPulse line own other back) s (fun t => t.mode = .safeHold ∧ t.get F.SAF_STATUS_HOLD_CAUSE = 2 ∧
        RegFrame (F.SAF_LINE_FAULT_TP_FAULT :: f3Fields) s t ∧ ∀ d : Side, ∀ n < 4, (t.ev d).pair n ≠ .on)) ∧
    (∀ line : Fin 8, s.mode = .scan → safUp s = true → Gives (.readbackFault line) s (fun t => t.mode = .safeHold ∧
      t.get F.SAF_STATUS_HOLD_CAUSE = 1 ∧ RegFrame (F.SAF_LINE_FAULT_RB_FAULT :: f3Fields) s t ∧
      ∀ d : Side, ∀ n < 4, (t.ev d).pair n ≠ .on)) ∧
    (∀ ball : Bool, s.saf.armed = false → Gives (.tstModeRise ball) s (fun t =>
      t = if ball then { s with pins := { s.pins with tstMode := true } } else s)) ∧
    (∀ ball : Bool, s.saf.armed = true → s.mode = .scan → Gives (.tstModeRise ball) s (fun t => t.mode = .lockout ∧
      t.get F.SAF_STATUS_LOCK_CAUSE = 3 ∧ RegFrame f3Fields s t ∧ ∀ d : Side, ∀ n < 4, (t.ev d).pair n ≠ .on))

/-- Chapters 5 and 21: the security commands (R143, R148, R652 to R656, R661 to R663). -/
def Obligations.SecurityCommands : Prop :=
  ∀ s : State,
    Gives .nonceExpiry s (fun t => t = { s with cmd := { s.cmd with nonce := none } }) ∧
    (runningCmd s 0x0A02 = none → ∀ ok : Bool, Gives (.fwStageDone ok) s (fun t => t = s)) ∧
    (runningCmd s 0x0A03 = none → Gives .fwActivateDone s (fun t => t = s)) ∧
    (s.mode ≠ .off → s.flag F.SEC_STATUS_OPENED = false → Gives .debugPortOpen s (fun t => t.mode = .opened ∧
      t.get F.SEC_STATUS_OPENED = 1 ∧ t.get F.SEC_STATUS_IDKEY = 0 ∧ t.get F.SEC_STATUS_ENDORSED = 0 ∧
      t.get F.SEC_STATUS_SESSION_KEYS = 0 ∧ t.get F.HGE_SEED = 0 ∧ t.get F.HGE_PSEED = 0 ∧ t.get F.SEC_ZERO_TIME = s.now % 2 ^ 64 ∧
      t.get F.SEC_ZERO_CNT = (s.inc F.SEC_ZERO_CNT).get F.SEC_ZERO_CNT ∧ t.get F.SAF_STATUS_LOCK_LATCH = 1 ∧
      t.get F.SAF_STATUS_LOCK_CAUSE = 3 ∧ t.sec = { s.sec with seed := some 0, endorsement := [] } ∧ t.cmd.nonce = none ∧
      t.pins.erow = 0 ∧ t.pins.ecol = 0 ∧ t.pins.ebk = 0 ∧ t.pins.fls = 0 ∧ t.pins.tstMode = true ∧ Keeps s t ∧
      ∀ d : Side, ∀ n < 4, (t.ev d).pair n ≠ .on)) ∧
    (s.mode = .off ∨ s.flag F.SEC_STATUS_OPENED = true → Gives .debugPortOpen s (fun t => t = s)) ∧
    (s.mode = .opened → s.flag F.SEC_STATUS_IDKEY = false → Gives .identityKeyReady s (fun t => t.get F.SEC_STATUS_IDKEY = 1 ∧
      t.sec = { s.sec with idKey := s.sec.idKey + 1, endorsement := [] } ∧ RegFrame [F.SEC_STATUS_IDKEY] s t ∧
      t = { s with regs := t.regs, sec := t.sec })) ∧
    (s.mode ≠ .opened ∨ s.flag F.SEC_STATUS_IDKEY = true → Gives .identityKeyReady s (fun t => t = s)) ∧
    (∀ (p : Port) (tag : Nat) (c : Cmd), c.discard = false →
      (Ready s p tag 0x0A01 (fun s c => stdCheck s c false false false) c → Gives (.secGetNonce p tag) s (fun t =>
        ∃ n, t.cmd.nonce = some n ∧ 0 < n ∧ n < 2 ^ 64 ∧ Ends t c St.done n ∧ t.free = s.free + 1 ∧
          t = { s with free := t.free, cmd := t.cmd })) ∧
      (∀ d : List Byte, d = (identityBytes s).1.take (64 * c.paramLen) → Ready s p tag 0x0A00 (fun s c => stdCheck s c false false false) c →
        ((c.port = .ring → pcieUsable s = true) → Gives (.secGetIdentity p tag) s (fun t => Ends t c St.done d.length ∧
          Delivers s t c d ∧ t.regs = s.regs ∧ t.sec = s.sec)) ∧
        (c.port = .ring → pcieUsable s = false → Gives (.secGetIdentity p tag) s (fun t => Ends t c St.timeout 0 ∧ t.tx = s.tx ∧
          t.regs = s.regs ∧ t.sec = s.sec))) ∧
      (∀ d : List Byte, d = (attestBytes s ((c.inl.take 8).foldl (fun l d => l ++ leBytes 4 d) [])).take (64 * c.paramLen) →
        Ready s p tag 0x0A04 (fun s c => stdCheck s c false false false) c →
        ((c.port = .ring → pcieUsable s = true) → Gives (.secAttest p tag) s (fun t => Ends t c St.done d.length ∧ Delivers s t c d ∧
          t = { s with tx := t.tx, cmd := t.cmd })) ∧
        (c.port = .ring → pcieUsable s = false → Gives (.secAttest p tag) s (fun t => Ends t c St.timeout 0 ∧ t = { s with cmd := t.cmd }))) ∧
      (Ready s p tag 0x0A02 fwStageCheck c →
        (c.dw 4 = 0 → Gives (.secFwStage p tag) s (fun t => Running t c ∧ (c.first = false → Accepted t c) ∧ t.sec.stage = [] ∧
          t.get F.SEC_STAGE = 0 ∧ t.get (regionVersion (idleRegion s)) = 0 ∧ t.sec.marked ≠ idleRegion s ∧
          (s.sec.marked = idleRegion s → t.get F.SEC_STATUS_PENDING = 0) ∧ t.sec.active = s.sec.active ∧ t.sec.keys = s.sec.keys ∧
          RegFrame [F.SEC_STAGE, F.SEC_STATUS_ACTIVE, F.SEC_STATUS_PENDING, F.SEC_STATUS_SLOT_VALID, regionVersion (idleRegion s)] s t ∧
          t = { s with regs := t.regs, sec := t.sec, cmd := t.cmd })) ∧
        (c.dw 4 ≠ 0 → Gives (.secFwStage p tag) s (fun t => Running t c ∧ (c.first = false → Accepted t c) ∧ t = { s with cmd := t.cmd }))) ∧
      (Waits s p tag 0x0A02 c → c.dw 4 ≠ 0 → c.dw 4 ≠ s.get F.SEC_STAGE → Gives (.secFwStage p tag) s (fun t =>
        Ends t c St.badParam 0 ∧ t = { s with cmd := t.cmd })) ∧
      (runningCmd s 0x0A02 = some c →
        Gives (.fwStageDone true) s (fun t => Ends t c St.done (crc32c c.data) ∧ t.sec = { s.sec with stage := s.sec.stage ++ c.data } ∧
          t.get F.SEC_STAGE = (s.sec.stage ++ c.data).length % 2 ^ F.SEC_STAGE.width ∧ RegFrame [F.SEC_STAGE] s t ∧
          t = { s with regs := t.regs, sec := t.sec, cmd := t.cmd }) ∧
        Gives (.fwStageDone false) s (fun t => Ends t c St.timeout 0 ∧ t = { s with cmd := t.cmd })) ∧
      (Ready s p tag 0x0A03 (fun s c => stdCheck s c false false (fwBusy s)) c →
        Gives (.secFwActivate p tag) s (fun t => Running t c ∧ (c.first = false → Accepted t c) ∧ t = { s with cmd := t.cmd })) ∧
      (runningCmd s 0x0A03 = some c →
        (imageRefused s s.sec.stage = none → Gives .fwActivateDone s (fun t => Ends t c St.done (idleRegion s) ∧
          t.get F.SEC_STATUS_PENDING = idleRegion s ∧ t.sec = { s.sec with marked := idleRegion s } ∧
          t.get (regionVersion (idleRegion s)) = leAt s.sec.stage 8 4 % 2 ^ 32 ∧
          RegFrame [F.SEC_STATUS_ACTIVE, F.SEC_STATUS_PENDING, F.SEC_STATUS_SLOT_VALID, regionVersion (idleRegion s)] s t ∧
          t = { s with regs := t.regs, sec := t.sec, cmd := t.cmd })) ∧
        (∀ status detail : Nat, imageRefused s s.sec.stage = some (status, detail) → Gives .fwActivateDone s (fun t =>
          Ends t c status 0 ∧ t = { s with cmd := t.cmd }))) ∧
      (Ready s p tag 0x0A05 (fun s c => stdCheck s c false false false) c →
        Gives (.secReprovision p tag) s (fun t => if reprovOk s c.data = true then (Ends t c St.done 0 ∧ t.get F.SEC_STATUS_OPENED = 0 ∧
          t.get F.SEC_STATUS_ENDORSED = 1 ∧ t.get F.SYS_RESET_CAUSE_REPROV = 1 ∧ t.get F.SAF_STATUS_LOCK_LATCH = 1 ∧
          t.get F.SAF_STATUS_LOCK_CAUSE = 3 ∧ t.get F.HGE_SEED = leAt c.data 8 8 % 2 ^ 64 ∧ t.sec.seed = some (leAt c.data 8 8) ∧
          t.get F.LNK_PCIE_SUBSYS_SUBSYS_VID = leAt c.data 4 2 % 2 ^ 16 ∧ t.get F.LNK_PCIE_SUBSYS_SUBSYS_ID = leAt c.data 6 2 % 2 ^ 16 ∧
          t.sec.endorsement = (c.data.drop 0x10).take 96 ∧ t.cmd.resetDue = true ∧ t.mode = s.mode ∧
          (∀ k < 8, bit (leAt c.data 0 1) k = true → t.get (F.SEC_KEY_SLOT_VALID k) = 1 ∧
            t.get (F.SEC_KEY_SLOT_PURPOSE k) = leAt c.data (0x80 + 128 * k) 1 % 2 ^ 5 ∧
            (t.get F.SEC_STATUS_SLOT_VALID).testBit k = true ∧ slotKey t k = (c.data.drop (0x84 + 128 * k)).take 96) ∧
          (∀ k < 8, bit (leAt c.data 0 1) k = false → t.get (F.SEC_KEY_SLOT_VALID k) = s.get (F.SEC_KEY_SLOT_VALID k) ∧
            t.get (F.SEC_KEY_SLOT_PURPOSE k) = s.get (F.SEC_KEY_SLOT_PURPOSE k) ∧ slotKey t k = slotKey s k))
        else Ends t c St.badParam 0 ∧ t = { s with cmd := t.cmd })))

/-- R558 to R569: the interrupt controller. -/
def Obligations.InterruptController : Prop :=
  ∀ s : State,
    (s.irq.entry = none → s.irq.exiting = false → ∀ n : Nat, winner s = some n → Gives .irqEntry s (fun t =>
      t.irq = { s.irq with entry := some n } ∧ t.get F.IRQ_HERD_STAT_PHASE = 1 ∧ RegsOnly [F.IRQ_HERD_STAT_PHASE] { s with irq := t.irq } t)) ∧
    (s.irq.entry = none → winner s = none → Gives .irqEntry s (fun t => t = s)) ∧
    (∀ m n : Nat, s.irq.entry = some m → winner s = some n → Gives .irqEntry s (fun t =>
      t.get F.IRQ_HERD_STAT_VECTOR = n % 2 ^ F.IRQ_HERD_STAT_VECTOR.width ∧ t.get F.IRQ_HERD_STAT_SPUR = 0 ∧
      t.get F.IRQ_HERD_STAT_PHASE = 0 ∧ t.get (F.IRQ_SRC_CFG_ACTIVE n) = 1 ∧
      t.irq = { s.irq with stack := (n, s.get (F.IRQ_SRC_CFG_PRIO n)) :: s.irq.stack, entry := none, exiting := false } ∧
      RegsOnly [F.IRQ_HERD_STAT_VECTOR, F.IRQ_HERD_STAT_SPUR, F.IRQ_HERD_STAT_PHASE, F.IRQ_HERD_STAT_RUNNING,
        F.IRQ_SRC_CFG_ACTIVE n] { s with irq := t.irq } t)) ∧
    (∀ m : Nat, s.irq.entry = some m → winner s = none → Gives .irqEntry s (fun t =>
      t.get F.IRQ_HERD_STAT_VECTOR = 0x1FF ∧ t.get F.IRQ_HERD_STAT_SPUR = 1 ∧ t.irq = { s.irq with entry := none } ∧
      RegsOnly [F.IRQ_HERD_STAT_VECTOR, F.IRQ_HERD_STAT_SPUR, F.IRQ_HERD_STAT_PHASE, F.IRQ_CNT_SPUR] { s with irq := t.irq } t)) ∧
    (∀ (n p : Nat) (l : List (Nat × Nat)), s.irq.stack = (n, p) :: l → Gives .herdEoi s (fun t =>
      t.get (F.IRQ_SRC_CFG_ACTIVE n) = 0 ∧ t.irq = { s.irq with stack := l, exiting := true } ∧
      (t.get F.IRQ_HERD_STAT_PHASE = 2 ∨ t.get F.IRQ_HERD_STAT_PHASE = 3) ∧
      (l = [] → t.get F.IRQ_HERD_STAT_RUNNING = 0x1F) ∧
      RegsOnly [F.IRQ_SRC_CFG_ACTIVE n, F.IRQ_HERD_STAT_RUNNING, F.IRQ_HERD_STAT_PHASE] { s with irq := t.irq } t)) ∧
    (s.irq.exiting = false → Gives .irqExit s (fun t => t = s)) ∧
    (s.irq.exiting = true → winner s = none → Gives .irqExit s (fun t => t.irq = { s.irq with exiting := false } ∧
      t.get F.IRQ_HERD_STAT_PHASE = 0 ∧ RegsOnly [F.IRQ_HERD_STAT_PHASE] { s with irq := t.irq } t)) ∧
    (∀ n : Nat, s.irq.exiting = true → winner s = some n → Gives .irqExit s (fun t =>
      t.get F.IRQ_HERD_STAT_VECTOR = n % 2 ^ F.IRQ_HERD_STAT_VECTOR.width ∧ t.get (F.IRQ_SRC_CFG_ACTIVE n) = 1 ∧
      t.irq = { s.irq with stack := (n, s.get (F.IRQ_SRC_CFG_PRIO n)) :: s.irq.stack, entry := none, exiting := false })) ∧
    (∀ v : Nat, firstVector s (dueVectors s) = some v → vectorBlocked s v = false → Gives .msixSend s (fun t =>
      t.tx = s.tx ++ [vectorMsg s v] ∧ t.get (F.IRQ_VEC_STAT_SENT v) = 1 ∧ t.irq = { s.irq with pba := clearBit s.irq.pba v } ∧
      RegFrame [F.IRQ_VEC_STAT_SENT v, F.IRQ_VEC_STAT_SEND_CNT v] s t)) ∧
    (∀ v : Nat, firstVector s (dueVectors s) = some v → vectorBlocked s v = true → Gives .msixSend s (fun t =>
      t = { s with irq := { s.irq with pba := setBit s.irq.pba v } })) ∧
    (∀ value : Dword, s.flag (F.IRQ_VEC_STAT_SENT (value.toNat % 64)) = false → Gives (.irqHostEoi value) s (fun t => t = s)) ∧
    (∀ (value : Dword) (v : Nat), v = value.toNat % 64 → s.flag (F.IRQ_VEC_STAT_SENT v) = true →
      (vectorLevel (s.set (F.IRQ_VEC_STAT_SENT v) 0) v = false → Gives (.irqHostEoi value) s (fun t =>
        t.get (F.IRQ_VEC_STAT_SENT v) = 0 ∧ RegsOnly [F.IRQ_VEC_STAT_SENT v] s t)) ∧
      (vectorLevel (s.set (F.IRQ_VEC_STAT_SENT v) 0) v = true → vectorBlocked (s.set (F.IRQ_VEC_STAT_SENT v) 0) v = false →
        Gives (.irqHostEoi value) s (fun t => t.get (F.IRQ_VEC_STAT_SENT v) = 1 ∧ t.tx = s.tx ++ [vectorMsg s v] ∧
          t.get F.IRQ_CNT_RESEND = (s.inc F.IRQ_CNT_RESEND).get F.IRQ_CNT_RESEND ∧
          RegFrame [F.IRQ_VEC_STAT_SENT v, F.IRQ_VEC_STAT_SEND_CNT v, F.IRQ_CNT_RESEND] s t))) ∧
    (∀ l : List MsixEntry, s.irq.pba = 0 → Gives (.msixUnblock l) s (fun t => t = l.foldl writeEntry s)) ∧
    (∀ e : MsixEntry, Gives (.msixUnblock [e]) { s with irq := { s.irq with pba := 0 } } (fun t =>
      t.irq.table.find? (fun x => x.vector.val = e.vector.val) = some e ∧ bit t.irq.vecMask e.vector.val = e.masked)) ∧
    (∀ (e : MsixEntry) (v : Nat) (u : State), v < 64 → u = writeEntry s e →
      s.irq.pba = 2 ^ v → vectorBlocked u v = false → vectorLevel u v = true → s.flag (F.IRQ_VEC_STAT_SENT v) = false →
      Gives (.msixUnblock [e]) s (fun t => t.tx = s.tx ++ [vectorMsg u v] ∧ t.irq.pba = 0 ∧ t.irq.vecMask = u.irq.vecMask ∧
        t.get (F.IRQ_VEC_STAT_SENT v) = 1)) ∧
    (∀ (i : Fin 16) (value : Dword), Gives (.irqSwset i value) s (fun t => RegsOnly [F.IRQ_SWSET i] s t ∧
      ∀ k < 32, (t.get (F.IRQ_SWSET i)).testBit k = ((s.get (F.IRQ_SWSET i)).testBit k || value.toNat.testBit k))) ∧
    (∀ (i : Fin 16) (value : Dword), Gives (.irqSwclr i value) s (fun t => RegsOnly [F.IRQ_SWSET i] s t ∧
      ∀ k < 32, (t.get (F.IRQ_SWSET i)).testBit k = ((s.get (F.IRQ_SWSET i)).testBit k && !value.toNat.testBit k)))

/-- R533 to R535, R539, R542, R552 to R554: the commands of the recorder and the trigger bus. -/
def Obligations.RecorderCommands : Prop :=
  ∀ s : State,
    (∀ (p : Port) (tag : Nat) (c : Cmd), c.discard = false →
      (Ready s p tag 0x0600 acqConfigCheck c → Gives (.acqConfig p tag) s (fun t => Ends t c St.done 0 ∧
        t.get F.ACQ_STATUS_CFG_VALID = 1 ∧ RegFrame [F.ACQ_STATUS_CFG_VALID] s t ∧ t.acq = { s.acq with cfg := some (parseAcq c.data) })) ∧
      (Ready s p tag 0x0601 (fun s c => stdCheck s c false s.acq.cfg.isNone (recState s != Rec.disarmed)) c →
        (∀ u : State, s.acq.cfg.bind (placeRings s) = some u → Gives (.acqArm p tag) s (fun t => Ends t c St.done t.now ∧
          t.get F.ACQ_STATUS_STATE = Rec.armed ∧ t.acq.run = none ∧ t.acq.pend = [] ∧ t.acq.rings = u.acq.rings ∧
          t.mode = u.mode)) ∧
        (s.acq.cfg.bind (placeRings s) = none → Gives (.acqArm p tag) s (fun t => Ends t c St.resource 0 ∧
          t = { s with cmd := t.cmd }))) ∧
      (Ready s p tag 0x0602 (fun s c => stdCheck s c false false false) c → s.acq.run.isSome = true →
        Gives (.acqDisarm p tag) s (fun t => { c with phase := CmdPhase.running } ∈ t.cmd.cmds ∧ t.cmd.comps = s.cmd.comps ∧
          t.get F.ACQ_STATUS_STATE = Rec.closing ∧ t.acq.disarming = true ∧ t.acq.rings = s.acq.rings ∧ t.acq.cfg = s.acq.cfg)) ∧
      (Ready s p tag 0x0602 (fun s c => stdCheck s c false false false) c → s.acq.run = none → Gives (.acqDisarm p tag) s (fun t =>
        Ends t c St.done 0 ∧ t.get F.ACQ_STATUS_STATE = Rec.disarmed ∧ t.acq.rings = [] ∧ t.acq.pend = [] ∧ t.acq.cfg = s.acq.cfg ∧
        Holds s t)) ∧
      (Ready s p tag 0x0603 acqTriggerCheck c → ∀ k : AcqCfg, s.acq.cfg = some k → bit k.srcEn 7 = true →
        recState s ≠ Rec.disarmed → Gives (.acqTrigger p tag) s (fun t => Ends t c St.done s.now ∧
          t.acq = { s.acq with pend := s.acq.pend ++ [(7, s.now)] } ∧ t = { s with acq := t.acq, cmd := t.cmd })) ∧
      (Ready s p tag 0x0604 (fun s c => stdCheck s c false false false) c → ∀ d : List Byte,
        d = ((s.acq.log.map missBytes).flatten).take (64 * c.paramLen / 16 * 16) → (c.port = .ring → pcieUsable s = true) →
        Gives (.acqReadLog p tag) s (fun t => Ends t c St.done d.length ∧ Delivers s t c d ∧
        t.acq = { s.acq with log := [] } ∧ t.get F.ACQ_LOG_LOG_OVF = 0 ∧ RegFrame [F.ACQ_LOG_LOG_OVF] s t)) ∧
      (Ready s p tag 0x0802 (fun s c => stdCheck s c false false s.acq.tbMax.isSome) c →
        Gives (.trigbusMeasure p tag) s (fun t => Running t c ∧ t.acq = { s.acq with tbMax := some 0 } ∧
          (∀ j < 16, t.get (F.ACQ_TB_DLY_VALID j) = 0) ∧ t.mode = s.mode)) ∧
      (∀ m : Nat, s.acq.tbMax = some m → runningCmd s 0x0802 = some c → Gives .trigbusMeasureDone s (fun t =>
        Ends t c St.done m ∧ t.acq = { s.acq with tbMax := none } ∧ t.regs = s.regs))) ∧
    (∀ (ago : Nat) (k : AcqCfg), s.acq.cfg = some k → bit k.srcEn 5 = true → recState s ≠ Rec.disarmed →
      Gives (.trigInEdge ago) s (fun t => t.acq = { s.acq with pend := s.acq.pend ++ [(5, s.now - ago)] } ∧ t.regs = s.regs ∧
        t.mode = s.mode)) ∧
    (∀ (w : BitVec 48) (steps ago : Nat) (k : AcqCfg), s.acq.cfg = some k → bit k.srcEn 6 = true → recState s ≠ Rec.disarmed →
      busOn s = true → w = busFrame Bus.trigger (busOrigin w) (busData w) → Gives (.trigger w steps ago) s (fun t =>
        t.acq = { s.acq with pend := s.acq.pend ++ [(6, busDate s (busOrigin w) (busData w / 2 ^ 8) (s.now - ago) steps)] } ∧
        t.regs = s.regs ∧ t.mode = s.mode)) ∧
    (∀ (w : BitVec 48) (steps ago : Nat), busTakes s Bus.trigger w = false → Gives (.trigger w steps ago) s (fun t => t = s)) ∧
    (∀ (w : BitVec 48) (steps ago : Nat), s.acq.cfg = none → Gives (.trigInEdge ago) s (fun t => t.acq = s.acq ∧ t.regs = s.regs) ∧
      Gives (.trigger w steps ago) s (fun t => t.acq = s.acq ∧ t.regs = s.regs)) ∧
    (lnkUp s = true → busOn s = true → Gives .measure s (fun t =>
      t = { s with tx := s.tx ++ [.bus (busFrame Bus.measureReply (s.get F.ACQ_TB_CFG) 0)] })) ∧
    (∀ (w : BitVec 48) (trip m : Nat), s.acq.tbMax = some m → busTakes s Bus.measureReply w = true →
      Gives (.measureReply w trip) s (fun t => t.acq = { s.acq with tbMax := some (max m trip) } ∧
        t.get (F.ACQ_TB_DLY_VALID (busOrigin w)) = 1 ∧
        RegFrame [F.ACQ_TB_DLY_VALID (busOrigin w), F.ACQ_TB_DLY_DELAY (busOrigin w)] s t))

/-- Chapter 16: a recording (R536 to R547). -/
def Obligations.RecorderRuns : Prop :=
  ∀ s : State,
    (∀ delay : Nat, s.acq.pend = [] → Gives (.triggerSample delay) s (fun t => t = s)) ∧
    (∀ (delay src date : Nat) (k : AcqCfg), s.acq.pend = [(src, date)] → s.acq.cfg = some k →
      (recState s = Rec.disarmed → Gives (.triggerSample delay) s (fun t => t = { s with acq := { s.acq with pend := [] } })) ∧
      (recState s = Rec.armed → Gives (.triggerSample delay) s (fun t => t.acq.pend = [] ∧ t.get F.ACQ_EVENT_TRIG = 1 ∧
        (recState t = Rec.capturing ∨ recState t = Rec.closing) ∧ t.get F.ACQ_LAST_TRIG = date % 2 ^ F.ACQ_LAST_TRIG.width ∧
        (∃ r, t.acq.run = some r ∧ r.trigs = [(src, date)] ∧ r.seq = s.acq.seq + 1) ∧ Keeps s t ∧ t.mode = s.mode)) ∧
      (recState s ≠ Rec.disarmed → recState s ≠ Rec.armed →
        (∀ r : Recording, s.acq.run = some r → r.trigs.any (fun e => sampleOf e.2 == sampleOf date) = true →
          Gives (.triggerSample delay) s (fun t => t.acq.pend = [] ∧ t.acq.log = s.acq.log ∧
            t.acq.run = some { r with trigs := r.trigs ++ [(src, date)] } ∧ recState t = recState s ∧ Keeps s t ∧ t.mode = s.mode)) ∧
        (s.acq.run.all (fun r => r.trigs.all (fun e => sampleOf e.2 != sampleOf date)) = true →
          (s.acq.log.length < 15 → Gives (.triggerSample delay) s (fun t =>
            t.acq = { s.acq with pend := [], log := s.acq.log ++ [⟨date, setBit 0 src, recState s, s.acq.seq⟩] } ∧
            t.get F.ACQ_EVENT_MISSED = 1 ∧ t.get F.ACQ_MISSED = (s.add F.ACQ_MISSED 1).get F.ACQ_MISSED ∧
            RegFrame [F.ACQ_MISSED, F.ACQ_EVENT_MISSED] s t)) ∧
          (s.acq.log.length = 15 → Gives (.triggerSample delay) s (fun t =>
            t.acq = { s.acq with pend := [], log := s.acq.log ++ [⟨date, setBit 0 src, recState s, s.acq.seq⟩] } ∧
            t.get F.ACQ_EVENT_MISSED = 1 ∧ t.get F.ACQ_EVENT_LOG_FULL = 1 ∧
            RegFrame [F.ACQ_MISSED, F.ACQ_EVENT_MISSED, F.ACQ_EVENT_LOG_FULL] s t)) ∧
          (16 ≤ s.acq.log.length → Gives (.triggerSample delay) s (fun t => t.acq = { s.acq with pend := [] } ∧
            t.get F.ACQ_EVENT_MISSED = 1 ∧ t.get F.ACQ_LOG_LOG_OVF = (s.add F.ACQ_LOG_LOG_OVF 1).get F.ACQ_LOG_LOG_OVF ∧
            RegFrame [F.ACQ_MISSED, F.ACQ_EVENT_MISSED, F.ACQ_LOG_LOG_OVF] s t))))) ∧
    (∀ k : Fin 3, s.acq.run = none → Gives (.captureEnd k) s (fun t => t = s) ∧ Gives (.recordingOverrun k) s (fun t => t = s)) ∧
    (∀ (k : Fin 3) (r : Recording) (x : RecSection), s.acq.run = some r → r.secs.getD k none = some x →
      Gives (.captureEnd k) s (fun t => t.acq.run = some { r with secs := r.secs.set k (some (stopSection s x false)) } ∧
        RegFrame [F.ACQ_STATUS_STATE] s t ∧
        ((∀ y, some y ∈ r.secs.set k none → y.active = false) → recState s = Rec.capturing → recState t = Rec.closing)) ∧
      Gives (.recordingOverrun k) s (fun t => t.acq.run = some { r with
          secs := r.secs.set k (some (stopSection s x true)),
          stopAt := if x.active = true ∧ r.stopAt = 0 then s.now else r.stopAt } ∧
        RegFrame [F.ACQ_STATUS_STATE] s t ∧
        ((∀ y, some y ∈ r.secs.set k none → y.active = false) → recState s = Rec.capturing → recState t = Rec.closing))) ∧
    (recState s = Rec.closing → deliveryReady s = true ∨ paging s = true → Gives .recordingClosed s (fun t => t = s)) ∧
    (∀ (r : Recording) (k : AcqCfg), s.acq.run = some r → s.acq.cfg = some k → recState s = Rec.closing →
      deliveryReady s = false → paging s = false → Gives .recordingClosed s (fun t =>
        recState t = (if s.acq.disarming = true then Rec.disarmed else Rec.rearming) ∧ t.acq.run = none ∧
        t.get F.ACQ_EVENT_CLOSED = 1 ∧ Keeps s t ∧ t.mode = s.mode)) ∧
    (s.acq.run = none → recState s ≠ Rec.closing → Gives .recordingClosed s (fun t => t = s)) ∧
    (recState s = Rec.rearming → Gives .rearmEnd s (fun t => recState t = Rec.armed ∧ RegsOnly [F.ACQ_STATUS_STATE] s t)) ∧
    (recState s ≠ Rec.rearming → Gives .rearmEnd s (fun t => t = s))

/-- R594, R596 to R600: training. -/
def Obligations.PartnerTraining : Prop :=
  ∀ s : State, prtUp s = true →
    (prtState s = Prt.detect → Gives (.prtDetectProbe true) s (fun t => t.get F.LNK_PRT_STATUS_STATE = Prt.bitlock ∧
      RegFrame [F.LNK_PRT_STATUS_STATE] s t ∧ t.tx = (sendTrn (toPrt s Prt.bitlock) 1).tx) ∧
      Gives (.prtDetectProbe false) s (fun t => t = s)) ∧
    (∀ (header : Fin 4) (payload : Dword) (skew : Nat), prtState s = Prt.lanecheck → header.val = Header.control →
      bits payload.toNat 24 8 = Ctype.trn → bits payload.toNat 21 1 = 0 → Gives (.trn 0 header payload skew) s (fun t =>
        t.get F.LNK_PRT_STATUS_STATE = Prt.eye ∧ t.prt.laneOk = setBit s.prt.laneOk 0 ∧
        (t.get F.LNK_PRT_STATUS_POL_INV).testBit 0 = false ∧
        RegFrame [F.LNK_PRT_STATUS_STATE, F.LNK_PRT_STATUS_POL_INV] s t)) ∧
    (∀ (header : Fin 4) (payload : Dword) (skew : Nat), prtState s = Prt.lanecheck → 3 - header.val = Header.control →
      bits (~~~payload).toNat 24 8 = Ctype.trn → bits (~~~payload).toNat 21 1 = 0 → Gives (.trn 0 header payload skew) s (fun t =>
        t.get F.LNK_PRT_STATUS_STATE = Prt.eye ∧ (t.get F.LNK_PRT_STATUS_POL_INV).testBit 0 = true)) ∧
    (∀ width height : Nat, prtState s = Prt.eye → s.prt.laneOk = 1 → s.prt.eyesDone = 0 → 24 ≤ width → 50 ≤ height →
      Gives (.prtEyeDone 0 width height) s (fun t => t.get F.LNK_PRT_STATUS_STATE = Prt.capability ∧
        t.get (F.LNK_PRT_EYE_VALID 0) = 1 ∧ t.get (F.LNK_PRT_EYE_LOW 0) = 0 ∧ t.get (F.LNK_PRT_EYE_WIDTH 0) = min width 63 ∧
        t.get (F.LNK_PRT_EYE_HEIGHT 0) = min height 255)) ∧
    (∀ width height : Nat, prtState s = Prt.eye → bit s.prt.laneOk 0 = true → (width < 24 ∨ height < 50) →
      Gives (.prtEyeDone 0 width height) s (fun t => t.get F.LNK_PRT_STATUS_STATE = Prt.retry ∧
        t.get F.LNK_PRT_STATUS_FAIL_STEP = Prt.eye ∧ t.get (F.LNK_PRT_EYE_LOW 0) = 1 ∧ t.mode = s.mode)) ∧
    (∀ (word : BitVec 34) (w : Nat), prtState s = Prt.capability → bits word.toNat 32 2 = Header.control →
      bits word.toNat 24 8 = 0xD2 → w = word.toNat % 2 ^ 24 →
      (bits w 20 4 = 1 → bits w 17 2 = s.get F.RED_STATUS_MODE → bits w 0 16 = 0x8960 → Gives (.cap word) s (fun t =>
        t.get F.LNK_PRT_STATUS_STATE = Prt.latency ∧ t.get F.LNK_PRT_PCAP = w ∧ t.prt.echoes = [] ∧
        RegFrame [F.LNK_PRT_STATUS_STATE, F.LNK_PRT_PCAP] s t)) ∧
      (bits w 20 4 ≠ 1 ∨ bits w 17 2 ≠ s.get F.RED_STATUS_MODE ∨ bits w 0 16 ≠ 0x8960 → Gives (.cap word) s (fun t =>
        t.get F.LNK_PRT_STATUS_STATE = Prt.retry ∧ t.get F.LNK_PRT_STATUS_FAIL_STEP = Prt.capability ∧ t.mode = s.mode))) ∧
    (∀ turnaround : Nat, prtState s = Prt.latency → Gives (.ping turnaround) s (fun t =>
      t = sendWord s 0xA5 (turnaround % 2 ^ 24) ∧ t.regs = s.regs)) ∧
    (∀ trip turnaround : Nat, prtState s = Prt.latency → s.prt.echoes.length < 63 → Gives (.echo trip turnaround) s (fun t =>
      t.prt.echoes = s.prt.echoes ++ [Int.ofNat trip - Int.ofNat turnaround] ∧ t.regs = s.regs)) ∧
    (∀ trip turnaround : Nat, prtState s = Prt.latency → s.prt.echoes.length = 63 → Gives (.echo trip turnaround) s (fun t =>
      t.get F.LNK_PRT_STATUS_STATE = Prt.session ∧ t.prt.txSeq = 2 ∧ t.prt.rxSeq = 0 ∧ t.prt.keyx = false ∧
      RegFrame [F.LNK_PRT_STATUS_STATE, F.LNK_PRT_LAT_LAT, F.LNK_PRT_LAT_RMS] s t)) ∧
    (∀ (body : List Byte) (holds : Bool), prtState s = Prt.session → s.prt.keyx = false → body.length = 64 →
      p256.on (leAt body 0 32) (leAt body 32 32) = true → Gives (.keyx 0 body holds) s (fun t =>
        t.prt.keyx = true ∧ t.prt.rxSeq = 1 ∧ t.prt.peer = body ∧ t.regs = s.regs)) ∧
    (∀ (body : List Byte) (holds : Bool) (k : List Byte), prtState s = Prt.session → s.prt.keyx = true →
      partnerVerifies s body = true → sessionKeys s = some k → Gives (.keyx 1 body holds) s (fun t =>
        t.get F.LNK_PRT_STATUS_STATE = Prt.active ∧ t.get F.LNK_PRT_STATUS_SESSION = 1 ∧ t.get F.SEC_STATUS_SESSION_KEYS = 1 ∧
        t.get F.SYS_STATUS_PARTNER_UP = 1 ∧ t.mode = s.mode)) ∧
    (∀ (body : List Byte) (holds : Bool), prtState s = Prt.session →
      (s.prt.keyx = false → body.length ≠ 64 ∨ p256.on (leAt body 0 32) (leAt body 32 32) = false →
        Gives (.keyx 0 body holds) s (fun t => t.get F.LNK_PRT_STATUS_STATE = Prt.retry ∧
          t.get F.LNK_PRT_STATUS_FAIL_STEP = Prt.session ∧ t.mode = s.mode)) ∧
      (s.prt.keyx = true → partnerVerifies s body = false → Gives (.keyx 1 body holds) s (fun t =>
        t.get F.LNK_PRT_STATUS_STATE = Prt.retry ∧ t.get F.LNK_PRT_STATUS_FAIL_STEP = Prt.session ∧ t.mode = s.mode))) ∧
    (∀ st : Nat, prtState s = st → Prt.detect ≤ st → st ≤ Prt.session → Gives .prtTrainingFail s (fun t =>
      t.get F.LNK_PRT_STATUS_STATE = Prt.retry ∧ t.get F.LNK_PRT_STATUS_FAIL_STEP = st % 2 ^ F.LNK_PRT_STATUS_FAIL_STEP.width ∧
      t.get F.LNK_PRT_STATUS_SESSION = 0 ∧ t.mode = s.mode)) ∧
    (prtState s = Prt.retry → Gives .prtRetry s (fun t => t.get F.LNK_PRT_STATUS_STATE = Prt.detect ∧
      t.get F.LNK_PRT_STATUS_LANES_UP = 0 ∧ t.prt.laneOk = 0 ∧ t.prt.eyesDone = 0 ∧ t.prt.echoes = [] ∧ t.mode = s.mode))

/-- R600 to R604: the link in use. -/
def Obligations.PartnerLinkKept : Prop :=
  ∀ s : State,
    (∀ (p : Port) (tag : Nat) (c : Cmd), c.discard = false →
      (Ready s p tag 0x0800 (fun s c => stdCheck s c (committed s) false s.sys.trans.isSome) c → Gives (.prtConfig p tag) s (fun t =>
        Ends t c St.done 0 ∧ t.get F.RED_STATUS_MODE = c.dw 4 % 4 ∧ t.get F.RED_STATUS_ALT = 0 ∧ t.get F.RED_STATUS_HALTER = 0 ∧
        t.get F.RED_STATUS_SILENCE = 0 ∧ t.get F.RED_STATUS_STANDBY = 0 ∧ t.pins.halter = false ∧ t.mode = s.mode)) ∧
      (Ready s p tag 0x0801 (fun s c => stdCheck s c false false s.prt.retrain.isSome) c →
        Gives (.prtRetrain p tag) s (fun t => Running t c ∧ t.prt.retrain = some (c.port, c.tag) ∧
          t.get F.LNK_PRT_STATUS_STATE = Prt.detect ∧ t.get F.LNK_PRT_STATUS_SESSION = 0 ∧ t.mode = s.mode))) ∧
    (linkKept s = true →
      Gives (.wordLockLoss 0) s (fun t => t.get F.LNK_PRT_STATUS_STATE = Prt.detect ∧ t.get F.LNK_PRT_STATUS_SESSION = 0 ∧
        t.prt.lost = true ∧ t.get F.LNK_PRT_CNT_LOSS = (s.inc F.LNK_PRT_CNT_LOSS).get F.LNK_PRT_CNT_LOSS ∧ t.mode = s.mode) ∧
      Gives .prtLinkLoss s (fun t => t.get F.LNK_PRT_STATUS_STATE = Prt.detect ∧ t.get F.LNK_PRT_STATUS_SESSION = 0 ∧
        t.prt.lost = true ∧ t.get F.LNK_PRT_CNT_LOSS = (s.inc F.LNK_PRT_CNT_LOSS).get F.LNK_PRT_CNT_LOSS ∧ t.mode = s.mode) ∧
      (bit (s.get F.LNK_PRT_STATUS_LANES_UP) 1 = true → Gives (.wordLockLoss 1) s (fun t =>
        t.get F.LNK_PRT_STATUS_LANES_UP = 1 ∧ RegFrame (F.LNK_PRT_STATUS_LANES_UP :: faultFields 1) s t ∧ t.prt = s.prt ∧
        t.mode = s.mode))) ∧
    (linkKept s = false → Gives .prtLinkLoss s (fun t => t = s)) ∧
    (prtState s = Prt.active → s.flag F.LNK_PRT_CTRL_DOZE_EN = true → native s = false ∨ s.mode.scanning = false →
      Gives .doze s (fun t =>
        t.get F.LNK_PRT_STATUS_STATE = (if s.flag F.LNK_PRT_CTRL_DEEP_EN = true then Prt.deep else Prt.doze) ∧
        RegFrame [F.LNK_PRT_STATUS_STATE] s t ∧ t.tx = (sendWord s 0xB4 (b2n (s.flag F.LNK_PRT_CTRL_DEEP_EN))).tx)) ∧
    (s.flag F.LNK_PRT_CTRL_DOZE_EN = false → Gives .doze s (fun t => t = s)) ∧
    (dozes s = true → Gives .dozeExit s (fun t => t.get F.LNK_PRT_STATUS_STATE = Prt.active ∧
      RegFrame [F.LNK_PRT_STATUS_STATE] s t ∧ t.tx = (sendTrn s (wakeWords s)).tx)) ∧
    (dozes s = true → sessionUp s = true → Gives .dozeKeepalive s (fun t => t.regs = s.regs ∧
      t = sendWord (sendPacket (sendTrn s (wakeWords s)) 0x03 []) 0xB4 (b2n (prtState s = Prt.deep))))

/-- Chapters 10, 15 and 18: what passes between the devices of a twin (R510 to R514, R516, R517, R590, R591, R601). -/
def Obligations.TwinPackets : Prop :=
  ∀ s : State,
    (∀ (tag : BitVec 128) (seq : Nat), receives s = false → Gives (.keepaliveAccepted tag seq) s (fun t => t = s)) ∧
    (∀ (tag : BitVec 128) (seq : Nat) (l : List Nat), receives s = true →
      l = (s.prt.tagFails.filter fun t => s.sys.raw < t + 800000) ++ [s.sys.raw] →
      (tagVerifies s 0x03 seq [] tag = true → s.prt.rxSeq < seq →
        (s.flag F.RED_STATUS_ALT = false → Gives (.keepaliveAccepted tag seq) s (fun t =>
          t = { s with prt := { s.prt with rxSeq := seq } })) ∧
        (s.flag F.RED_STATUS_ALT = true → Gives (.keepaliveAccepted tag seq) s (fun t => t.get F.RED_STATUS_SILENCE = 0 ∧
          t.prt = { s.prt with rxSeq := seq } ∧ RegFrame [F.RED_STATUS_SILENCE, F.RED_STATUS_ROLE] s t ∧
          t = { s with regs := t.regs, prt := t.prt }))) ∧
      (tagVerifies s 0x03 seq [] tag = true → seq ≤ s.prt.rxSeq → Gives (.keepaliveAccepted tag seq) s (fun t =>
        t = s.inc F.LNK_PRT_CNT_SEQ)) ∧
      (tagVerifies s 0x03 seq [] tag = false → l.length < 3 ∨ sessionUp s = false → Gives (.keepaliveAccepted tag seq) s (fun t =>
        t.prt = { s.prt with tagFails := l } ∧ t.get F.LNK_PRT_CNT_TAG = (s.inc F.LNK_PRT_CNT_TAG).get F.LNK_PRT_CNT_TAG ∧
        RegFrame [F.LNK_PRT_CNT_TAG] s t ∧ t = { s with regs := t.regs, prt := t.prt })) ∧
      (tagVerifies s 0x03 seq [] tag = false → 3 ≤ l.length → sessionUp s = true → Gives (.keepaliveAccepted tag seq) s (fun t =>
        t.prt.lost = true ∧ t.get F.LNK_PRT_STATUS_SESSION = 0 ∧
        t.get F.LNK_PRT_CNT_LOSS = (s.inc F.LNK_PRT_CNT_LOSS).get F.LNK_PRT_CNT_LOSS ∧ Keeps s t))) ∧
    (∀ (tag : BitVec 128) (seq frame slot vlast entry i : Nat) (u : State), receives s = true → i = slot % 2 ^ 20 →
      tagVerifies s 0x01 seq [frame, i + 2 ^ 20 * vlast, entry] tag = true →
      u = heardPartner { s with prt := { s.prt with rxSeq := seq } } →
      (seq ≤ s.prt.rxSeq → Gives (.announce tag seq frame slot vlast entry) s (fun t => t = s.inc F.LNK_PRT_CNT_SEQ)) ∧
      (s.prt.rxSeq < seq → splitsEntries u = false ∨ u.red.mute = true ∨ u.sch.running = false ∨ i % 2 = sideNow u ∨
          entry = 0xFFFFFFFF ∨ absSlot u frame i = none →
        Gives (.announce tag seq frame slot vlast entry) s (fun t => t = u)) ∧
      (∀ a : Nat, s.prt.rxSeq < seq → absSlot u frame i = some a → a < u.sch.abs + u.sch.next →
        Gives (.announce tag seq frame slot vlast entry) s (fun t => t = u)) ∧
      (∀ (a : Nat) (y : Shot) (o : Owe), s.prt.rxSeq < seq → splitsEntries u = true → u.red.mute = false → u.sch.running = true →
        i % 2 ≠ sideNow u → entry ≠ 0xFFFFFFFF → absSlot u frame i = some a → u.sch.abs + u.sch.next ≤ a →
        partnerShot u ⟨a, frame, i⟩ entry vlast = some (y, o) →
        (a = u.sch.abs + u.sch.next → Gives (.announce tag seq frame slot vlast entry) s (fun t =>
          t.sch = (updOwe (noteLast { u with sch := { u.sch with charges := u.sch.charges ++ [chargeOf u y (shotCharge u y vlast) false] } }
            entry a) frame entry fun p => { p with owed := p.owed - 1, fired := p.fired + 1 }).sch ∧
          t.get F.RED_CNT_LATE = (u.inc F.RED_CNT_LATE).get F.RED_CNT_LATE ∧ RegFrame [F.RED_CNT_LATE] u t ∧
          t = { u with regs := t.regs, sch := t.sch })) ∧
        (a ≠ u.sch.abs + u.sch.next → Gives (.announce tag seq frame slot vlast entry) s (fun t =>
          t.sch.look = u.sch.look ++ [y] ∧ t.sch.charges = u.sch.charges ++ [chargeOf u y (shotCharge u y vlast) false] ∧
          t.get F.RED_CNT_LATE = u.get F.RED_CNT_LATE ∧ Keeps s t ∧ t.mode = s.mode)))) ∧
    (∀ (tag : BitVec 128) (seq schema side seed frame calVer mark24 dly : Nat) (all : Bool) (hash : Nat), receives s = true →
      tagVerifies s 0x02 seq (mirrorWords schema side all hash seed frame calVer mark24 dly) tag = true →
      (seq ≤ s.prt.rxSeq → Gives (.mirror tag seq schema side all hash seed frame calVer mark24 dly) s (fun t =>
        t = s.inc F.LNK_PRT_CNT_SEQ)) ∧
      (s.prt.rxSeq < seq → native s = false → Gives (.mirror tag seq schema side all hash seed frame calVer mark24 dly) s (fun t =>
        t = heardPartner { s with prt := { s.prt with rxSeq := seq } })) ∧
      (s.prt.rxSeq < seq → native s = true →
        (s.red.mark = none → schema = s.get F.RED_SCHEMA_OWN → hash = s.get F.RED_HASH → side ≠ sideNow s →
          Gives (.mirror tag seq schema side all hash seed frame calVer mark24 dly) s (fun t =>
            t.red.matched = s.red.matched + 1 ∧ t.red.partnerAll = all ∧ t.get F.RED_PHASH = hash % 2 ^ F.RED_PHASH.width ∧
            t.get F.RED_SCHEMA_PARTNER = schema % 2 ^ F.RED_SCHEMA_PARTNER.width ∧
            t.get F.RED_CAL_VER_PARTNER = calVer % 2 ^ F.RED_CAL_VER_PARTNER.width ∧
            t.get F.RED_STATUS_CAL_DIFF = b2n (calVer != s.get F.CAL_VERSION_WORKING) ∧
            (s.mode.scanning = false → t.get F.HGE_PSEED = seed % 2 ^ F.HGE_PSEED.width ∧ t.hold = s.hold) ∧
            (sideNow s = 1 → t.red.adopt = some frame) ∧ (sideNow s ≠ 1 → t.red.adopt = s.red.adopt) ∧
            RegFrame [F.RED_PHASH, F.RED_SCHEMA_PARTNER, F.RED_CAL_VER_PARTNER, F.RED_STATUS_CAL_DIFF, F.HGE_PSEED,
              F.RED_STATUS_SILENCE, F.RED_STATUS_ROLE] s t ∧ t.mode = s.mode)) ∧
        (s.red.mark = none → s.flag F.RED_STATUS_ALT = false → schema ≠ s.get F.RED_SCHEMA_OWN →
          Gives (.mirror tag seq schema side all hash seed frame calVer mark24 dly) s (fun t => t.get F.RED_STATUS_ALT = 1 ∧
            t.get F.RED_STATUS_ALT_CAUSE = 1 ∧ t.red.halves = false ∧ t.red.matched = 0 ∧ t.mode = s.mode)) ∧
        (s.red.mark = none → s.flag F.RED_STATUS_ALT = false → schema = s.get F.RED_SCHEMA_OWN →
          hash ≠ s.get F.RED_HASH ∨ side = sideNow s →
          Gives (.mirror tag seq schema side all hash seed frame calVer mark24 dly) s (fun t => t.get F.RED_STATUS_ALT = 1 ∧
            t.get F.RED_STATUS_ALT_CAUSE = 2 ∧ t.red.halves = false ∧ t.red.matched = 0 ∧ t.mode = s.mode)) ∧
        (∀ stamp b skew : Int, s.red.mark = some (mark24 % 2 ^ 24, stamp) → sideNow s = 1 → s.flag F.RED_STATUS_ALT = false →
          b = stamp - Int.ofNat (s.get F.LNK_PRT_LAT_LAT) - Int.ofNat dly → skew = b - 80 * divRoundInt b 80 →
          schema = s.get F.RED_SCHEMA_OWN → hash = s.get F.RED_HASH → side ≠ 1 →
          (steady skew (s.getInt F.RED_PSKEW) = true ∨ s.red.halves = false →
            Gives (.mirror tag seq schema side all hash seed frame calVer mark24 dly) s (fun t => t.getInt F.RED_PSKEW = skew ∧
              t.red.mark = none ∧ t.red.matched = s.red.matched + 1 ∧ t.red.skews = (skew :: s.red.skews).take 3 ∧
              t.get F.RED_STATUS_ALT = 0 ∧ t.mode = s.mode)) ∧
          (steady skew (s.getInt F.RED_PSKEW) = false → s.red.halves = true → s.red.skews ≠ [] →
            Gives (.mirror tag seq schema side all hash seed frame calVer mark24 dly) s (fun t => t.getInt F.RED_PSKEW = skew ∧
              t.red.mark = none ∧ t.get F.RED_STATUS_ALT = 1 ∧ t.get F.RED_STATUS_ALT_CAUSE = 3 ∧ t.red.halves = false ∧
              t.mode = s.mode))))) ∧
    (sessionUp s = true → prtState s = Prt.active → Gives .keepalive s (fun t =>
      t = sendPacket s 0x03 [] ∧ t.regs = s.regs ∧ t.prt.txSeq = s.prt.txSeq + 1)) ∧
    (sessionUp s = false ∨ prtState s ≠ Prt.active → Gives .keepalive s (fun t => t = s)) ∧
    (∀ (stamp : Int) (frame24 : Nat), native s = false ∨ sessionUp s = false → Gives (.fmark stamp frame24) s (fun t => t = s)) ∧
    (∀ (stamp : Int) (frame24 : Nat), native s = true → sessionUp s = true →
      (sideNow s = 1 → s.red.wait = none → Gives (.fmark stamp frame24) s (fun t =>
        t = { s with red := { s.red with mark := some (frame24 % 2 ^ 24, stamp) } })) ∧
      (sideNow s ≠ 1 → s.red.wait = none → Gives (.fmark stamp frame24) s (fun t => t = s)) ∧
      (∀ k : Nat, s.red.wait = some k → s.mode = .ready → progRuns s k = true → s.saf.f3 = [] →
        s.flag F.RXF_IMP_STATUS_BUSY = false →
        (sideNow s = 1 → Gives (.fmark stamp frame24) s (fun t => t.red.wait = none ∧ t.sch.running = true ∧ t.sch.next = 0 ∧
          t.sch.frame = markFrame s frame24 % 2 ^ 32 ∧ Keeps s t)) ∧
        (sideNow s ≠ 1 → Gives (.fmark stamp frame24) s (fun t => t.red.wait = none ∧ t.sch.running = true ∧ t.sch.next = 0 ∧
          t.sch.frame = (s.sch.frame + 1) % 2 ^ 32 ∧ Keeps s t)))) ∧
    (sideNow s ≠ 0 ∨ s.red.wait = none → Gives .twinStartTimeout s (fun t => t = s)) ∧
    (∀ k : Nat, sideNow s = 0 → s.red.wait = some k → s.mode = .ready → progRuns s k = true → s.saf.f3 = [] →
      s.flag F.RXF_IMP_STATUS_BUSY = false →
      Gives .twinStartTimeout s (fun t => t.red.wait = none ∧ t.sch.running = true ∧ t.sch.next = 0 ∧ t.red.halves = false ∧
        t.sch.frame = (s.sch.frame + 1) % 2 ^ 32 ∧ Keeps s t))

/-- R519 to R527: silence, and who holds the halter. -/
def Obligations.HalterAndSilence : Prop :=
  ∀ s : State,
    (native s = true → s.sch.running = true → s.flag F.RED_STATUS_SILENCE = false → s.flag F.RED_STATUS_ALT = false →
      s.red.halves = true → Gives .partnerSilence s (fun t => t.get F.RED_STATUS_SILENCE = 1 ∧ t.get F.SCH_STATUS_UNSURE = 1 ∧
        t.red.halves = false ∧ t.red.since = some (s.sch.abs + s.sch.next) ∧
        t.get F.RED_CNT_SILENCE = (s.inc F.RED_CNT_SILENCE).get F.RED_CNT_SILENCE ∧ t.mode = s.mode)) ∧
    (s.flag F.RED_STATUS_SILENCE = true → Gives .partnerSilence s (fun t => t = s)) ∧
    (native s = true → s.flag F.RED_STATUS_HALTER = true → busOn s = true → Gives .beacon s (fun t =>
      t = { s with tx := s.tx ++ [.bus (busFrame Bus.beacon (s.get F.ACQ_TB_CFG) 0)] })) ∧
    (contends s = true → busOn s = true → Gives .query s (fun t =>
      t = { s with tx := s.tx ++ [.bus (busFrame Bus.query (s.get F.ACQ_TB_CFG) 0)] })) ∧
    (native s = true → s.flag F.RED_STATUS_HALTER = true → Gives .beaconEchoTimeout s (fun t =>
      t.get F.RED_STATUS_HALTER = 0 ∧ t.get F.RED_STATUS_BUS_FAULT = 1 ∧ t.red.mute = true ∧ t.sch.look = [] ∧
      t.sch.committed = none ∧ t.mode = s.mode)) ∧
    (contends s = true →
      Gives .queryEchoTimeout s (fun t => t.get F.RED_STATUS_BUS_FAULT = 1 ∧ t.red.mute = true ∧ t.sch.look = [] ∧
        t.sch.committed = none ∧ t.mode = s.mode) ∧
      Gives .halterStandby s (fun t => t.get F.RED_STATUS_STANDBY = 1 ∧ t.red.mute = true ∧ t.sch.look = [] ∧
        t.sch.committed = none ∧ t.flag F.SCH_STATUS_UNSURE = false ∧ t.mode = s.mode) ∧
      Gives .halterTakeover s (fun t => t.get F.RED_STATUS_HALTER = 1 ∧ t.flag F.SCH_STATUS_UNSURE = false ∧
        RegFrame [F.RED_STATUS_HALTER, F.RED_CNT_TAKEOVER, F.SCH_STATUS_UNSURE, F.RED_DBL_MAX, F.RED_STATUS_ROLE] s t)) ∧
    (native s = true → s.flag F.RED_STATUS_HALTER = true → s.flag F.RED_STATUS_SILENCE = true → Gives .unsureClear s (fun t =>
      t.flag F.SCH_STATUS_UNSURE = false ∧ RegFrame [F.SCH_STATUS_UNSURE, F.RED_DBL_MAX] s t ∧ t.mode = s.mode)) ∧
    (interlock s = true → s.mode = .scan → s.flag F.RED_STATUS_HALTER = false → interlockFault s = false → halterRests s = false →
      Gives .halterClaim s (fun t => t.get F.RED_STATUS_HALTER = 1 ∧ t.get F.RED_ILK_DRIVING = 1 ∧ t.pins.halter = true ∧
        t.sch.charges = [] ∧
        RegFrame [F.RED_STATUS_HALTER, F.RED_ILK_DRIVING, F.RED_ILK_CLAIM_CNT, F.RED_STATUS_ROLE] s t)) ∧
    (interlock s = true → s.flag F.RED_STATUS_HALTER = true → interlockFault s = true ∨ s.mode.scanning = false →
      Gives .halterRelease s (fun t => t.get F.RED_STATUS_HALTER = 0 ∧ t.get F.RED_ILK_DRIVING = 0 ∧ t.pins.halter = false ∧
        t.red.releasedAt = some s.sys.raw ∧ t.sch.look = [] ∧ t.sch.committed = none ∧
        RegFrame [F.RED_STATUS_HALTER, F.RED_ILK_DRIVING, F.RED_STATUS_ROLE] s t))

/-- R388 to R392, R399, R406 to R408, R413 to R416, R427: the thermal path's commands. -/
def Obligations.ThermalConfiguration : Prop :=
  ∀ s : State,
    (∀ (p : Port) (tag : Nat) (c : Cmd), c.discard = false →
      (∀ acked : Nat, Ready s p tag 0x0400 thmConfigCheck c →
        (s.mode = .standby → Gives (.thmConfig p tag acked) s (fun t => Ends t c St.done 0 ∧
          t.thm = { s.thm with list := configEntries c.data } ∧ t.regs = s.regs)) ∧
        (s.mode ≠ .standby → ∀ (u : State) (ok : Bool), runList (configEntries c.data) acked (foundPath (haltFrames s)) = (u, ok) →
          (ok = false → Gives (.thmConfig p tag acked) s (fun t => Ends t c St.timeout 0 ∧ t = { u with cmd := t.cmd })) ∧
          (ok = true → u.flag F.THM_CTRL_EN = false → Gives (.thmConfig p tag acked) s (fun t => Ends t c St.done 0 ∧
            t = { u with cmd := t.cmd })) ∧
          (ok = true → u.flag F.THM_CTRL_EN = true → u.thm.geom = some (geomNow u) → Gives (.thmConfig p tag acked) s (fun t =>
            t.thm.cfgWait = some (c.port, c.tag) ∧ t.get F.THM_STATUS_STATE = 1 ∧ t.thm.settleAt = u.sys.raw)))) ∧
      (Ready s p tag 0x0401 thmLoadCorrCheck c → leAt c.data 0x10 2 = 0 → Gives (.thmLoadCorr p tag) s (fun t => ∃ x,
        corrSet t (c.dw 4 % 2) = some x ∧ x.row = leAt c.data 0x12 2 ∧ x.tCal = ofBits 16 (leAt c.data 0xC 2) ∧
        x.entries = (List.range (s.get F.THM_GEOM_COLS * leAt c.data 0x12 2)).map (parseCorr c.data) ∧
        Ends t c St.done (x.crc ^^^ 0xFFFFFFFF) ∧
        t.get (if c.dw 4 % 2 = 0 then F.THM_STATUS_CORR0_VALID else F.THM_STATUS_CORR1_VALID) =
          b2n (leAt c.data 0x12 2 = s.get F.THM_GEOM_ROWS))) ∧
      (Ready s p tag 0x0402 thmSelectCorrCheck c →
        (∀ m k : Nat, s.thm.fade = some (m, k) → Gives (.thmSelectCorr p tag) s (fun t =>
          Ends t c St.done ((s.get F.THM_SEQ + 9 - k) % 2 ^ 32) ∧ t.get F.THM_STATUS_QUEUED = 1 ∧
          t.get F.THM_STATUS_Q_SET = c.dw 4 % 2 ∧ RegFrame [F.THM_STATUS_QUEUED, F.THM_STATUS_Q_SET] s t ∧ t.thm = s.thm)) ∧
        (s.thm.fade = none → s.flag F.THM_STATUS_NO_CORR = true ∨ s.get F.THM_STATUS_CORR_NOW ≠ c.dw 4 % 2 →
          Gives (.thmSelectCorr p tag) s (fun t => Ends t c St.done ((s.get F.THM_SEQ + 1) % 2 ^ 32) ∧
            t.thm = { s.thm with fade := some (c.dw 4 % 2, 0) } ∧ t.regs = s.regs))) ∧
      (Ready s p tag 0x0404 thmLoadCoefCheck c → Gives (.thmLoadCoef p tag) s (fun t =>
        Ends t c St.done (crc32c (c.data.take 128)) ∧
        t.thm = { s.thm with banks := putAt s.thm.banks (c.dw 4 % 2) none (some ((List.range 64).map fun i => ofBits 16 (leAt c.data (2 * i) 2))) } ∧
        t.get (if c.dw 4 % 2 = 0 then F.THM_MON_CFG_BANK0_VALID else F.THM_MON_CFG_BANK1_VALID) = 1)) ∧
      (Ready s p tag 0x0405 thmSelectCoefCheck c →
        (s.flag F.THM_MON_CFG_XFADE = true → Gives (.thmSelectCoef p tag) s (fun t => Ends t c St.done 0 ∧
          t.get F.THM_MON_CFG_COEF_QUEUED = 1 ∧ t.get F.THM_MON_CFG_Q_BANK = c.dw 4 % 2 ∧
          RegFrame [F.THM_MON_CFG_COEF_QUEUED, F.THM_MON_CFG_Q_BANK] s t)) ∧
        (s.flag F.THM_MON_CFG_XFADE = false → c.dw 4 % 2 ≠ s.get F.THM_MON_CFG_COEF_NOW → Gives (.thmSelectCoef p tag) s (fun t =>
          Ends t c St.done 0 ∧ t.get F.THM_MON_CFG_XFADE = 1 ∧ RegFrame [F.THM_MON_CFG_XFADE] s t ∧ ∀ x ∈ t.thm.mon, x.fade = 0)) ∧
        (s.flag F.THM_MON_CFG_XFADE = false → c.dw 4 % 2 = s.get F.THM_MON_CFG_COEF_NOW → Gives (.thmSelectCoef p tag) s (fun t =>
          Ends t c St.done 0 ∧ t = { s with cmd := t.cmd }))) ∧
      (Ready s p tag 0x0406 thmLoadReglutCheck c → ∀ l : List Nat, l = ((List.range 131072).map fun d => leAt c.data (4 * d) 4) →
        Gives (.thmLoadReglut p tag) s (fun t => Ends t c St.done (crc32c c.data) ∧ t.regs = s.regs ∧
          t.thm = if s.mode.scanning = true then { s.thm with lutNew := some l } else { s.thm with lut := l, lutNew := none })) ∧
      (Ready s p tag 0x0407 thmSyncCheck c → s.thm.hold = [] → Gives (.thmSync p tag) s (fun t =>
        Ends t c St.done (t.get F.THM_SYNC_TIME) ∧ t.get F.THM_SYNC_TIME = s.now % 2 ^ F.THM_SYNC_TIME.width ∧
        t.get F.THM_STATUS_STATE = 1 ∧ t.thm.fast = true ∧ t.mode = s.mode))) ∧
    (∀ value : Dword, (bit value.toNat 0 = s.flag F.THM_CTRL_EN → Gives (.thmCtrlWrite value) s (fun t =>
        t.get F.THM_CTRL_AUTO_FFC = b2n (bit value.toNat 3) ∧ t.get F.THM_CTRL_NEIGH = b2n (bit value.toNat 2) ∧
        t.get F.THM_CTRL_SYNC_EN = b2n (bit value.toNat 1) ∧
        RegsOnly [F.THM_CTRL_AUTO_FFC, F.THM_CTRL_NEIGH, F.THM_CTRL_SYNC_EN] s t)) ∧
      (bit value.toNat 0 = false → s.flag F.THM_CTRL_EN = true → Gives (.thmCtrlWrite value) s (fun t =>
        t.get F.THM_CTRL_EN = 0 ∧ t.get F.THM_STATUS_STATE = (if s.get F.THM_STATUS_STATE = 3 then 3 else 0) ∧ t.thm.frame = none ∧ t.pins.fpaRst = false ∧ t.mode = s.mode)) ∧
      (bit value.toNat 0 = true → s.flag F.THM_CTRL_EN = false → thmUp s = true → s.thm.geom = some (geomNow s) →
        Gives (.thmCtrlWrite value) s (fun t => t.get F.THM_CTRL_EN = 1 ∧ t.get F.THM_STATUS_STATE = 1 ∧
          t.thm.settleAt = s.sys.raw ∧ t.thm.fast = false ∧ t.mode = s.mode))) ∧
    (∀ value : Dword, Gives (.thmRingPtrWrite value) s (fun t => t = holdFsync s F.THM_RING_PTR_RSLOT value.toNat)) ∧
    (s.flag F.THM_CTRL_EN = true → s.get F.THM_STATUS_STATE ≠ 3 → Gives .fpaResetRelease s (fun t =>
      t = { s with pins := { s.pins with fpaRst := true } })) ∧
    (s.flag F.THM_CTRL_EN = false → Gives .fpaResetRelease s (fun t => t = s))

/-- R383, R395 to R397, R400, R405, R407, R411, R424 to R426: thermal frames. -/
def Obligations.ThermalFrames : Prop :=
  ∀ s : State,
    (framesRun s = true → s.thm.hold = [] → s.thm.fade = none → s.thm.ffcNew = none → Gives .thermalFrameStart s (fun t =>
      t.get F.THM_SEQ = (s.get F.THM_SEQ + 1) % 2 ^ F.THM_SEQ.width ∧ RegFrame [F.THM_SEQ] s t ∧
      ∃ r, t.thm = { s.thm with frame := some r } ∧ r.seq = t.get F.THM_SEQ ∧ r.time = s.now ∧
        (r.settled = true ↔ s.get F.THM_STATUS_STATE = 2))) ∧
    (framesRun s = false → Gives .thermalFrameStart s (fun t => t = s) ∧ Gives .pathSettled s (fun t => t = s) ∧
      Gives .fpaBiasLimit s (fun t => t = s) ∧ Gives .settleTimeout s (fun t => t = s) ∧ Gives .syncDecEdge s (fun t => t = s)) ∧
    (∀ sums : List Int, s.thm.frame = none → Gives (.thermalFrameComplete sums) s (fun t => t = s)) ∧
    (∀ (sums : List Int) (r : ThmRun), s.thm.frame = some r → s.thm.run = none →
      (r.settled = false → s.get F.THM_STATUS_STATE ≠ 1 ∨ s.thm.fast = true → Gives (.thermalFrameComplete sums) s (fun t =>
        t.thm = { s.thm with frame := none } ∧ t = { s with regs := t.regs, thm := t.thm } ∧
        RegFrame ((List.range 16).map F.THM_TAP_OVR) s t)) ∧
      (r.settled = false → s.get F.THM_STATUS_STATE = 1 → s.thm.fast = false → Gives (.thermalFrameComplete sums) s (fun t =>
        t.thm = { s.thm with frame := none, check := t.thm.check, passed := t.thm.passed } ∧
        (s.thm.passed.isSome = true → t.thm.passed = s.thm.passed) ∧ t = { s with regs := t.regs, thm := t.thm } ∧
        RegFrame ((List.range 16).map F.THM_TAP_OVR) s t)) ∧
      (r.settled = true → 1 < s.get F.THM_RING_CFG → s.thm.queue = none → thmRingFull s = false →
        Gives (.thermalFrameComplete sums) s (fun t => t.thm.frame = none ∧ t.mode = s.mode ∧
          ∃ f, t.thm.queue = some f ∧ f.seq = r.seq ∧ f.time = r.time ∧ f.cols = s.get F.THM_GEOM_COLS ∧
            f.rows = s.get F.THM_GEOM_ROWS))) ∧
    (s.thm.queue = none → Gives .thermalFrameDelivery s (fun t => t = s)) ∧
    (∀ f : ThmFrame, s.thm.queue = some f → 1 < s.get F.THM_RING_CFG → pcieUsable s = false ∨ recordsFirst s f = true →
      Gives .thermalFrameDelivery s (fun t => t = s)) ∧
    (∀ f : ThmFrame, s.thm.queue = some f → s.get F.THM_RING_CFG ≤ 1 → Gives .thermalFrameDelivery s (fun t =>
      t = { s with thm := { s.thm with queue := none } })) ∧
    (∀ f : ThmFrame, s.thm.queue = some f → 1 < s.get F.THM_RING_CFG → pcieUsable s = true → recordsFirst s f = false →
      Gives .thermalFrameDelivery s (fun t =>
      t.thm = { s.thm with queue := none } ∧
      (sendMem s (4096 * s.get F.THM_RING_BASE + s.get F.THM_RING_PTR_WSLOT * slotBytes f.cols f.rows) (frameBytes f)).tx <+: t.tx ∧
      t.get F.THM_RING_PTR_WSLOT = (s.get F.THM_RING_PTR_WSLOT + 1) % s.get F.THM_RING_CFG % 2 ^ F.THM_RING_PTR_WSLOT.width)) ∧
    (framesRun s = true →
      Gives .fpaBiasLimit s (fun t => t.get F.THM_STATUS_STATE = 3 ∧ t.get F.THM_STATUS_ILIM = 1 ∧ t.pins.fpaRst = false ∧
        t.thm.frame = none ∧ t.mode = s.mode) ∧
      (s.get F.THM_STATUS_STATE = 1 →
        Gives .settleTimeout s (fun t => t.get F.THM_STATUS_STATE = 3 ∧ t.pins.fpaRst = false ∧ t.thm.frame = none ∧
          t.mode = s.mode) ∧
        (s.thm.fast = false → s.thm.passed = none → Gives .pathSettled s (fun t => t = s)) ∧
        (∀ a : Nat, (if s.thm.fast then some s.sys.raw else s.thm.passed) = some a →
          (s.thm.cfgWait = none → Gives .pathSettled s (fun t => t.get F.THM_STATUS_STATE = 2 ∧
            t.get F.THM_SETTLE2_LAST = min ((a - s.thm.settleAt) / 80000) 0xFFFF ∧
            RegsOnly [F.THM_STATUS_STATE, F.THM_SETTLE2_LAST] s t)) ∧
          (∀ (q : Port × Nat) (c : Cmd), s.thm.cfgWait = some q → findCmd s q.1 q.2 0x0400 = some c → c.discard = false →
            Gives .pathSettled s (fun t => Ends t c St.done ((a - s.thm.cfgAt) / 800) ∧ t.thm.cfgWait = none ∧
              t.get F.THM_STATUS_STATE = 2)))) ∧
      (s.flag F.THM_CTRL_SYNC_EN = true → s.get F.THM_STATUS_STATE = 1 → s.thm.fast = true → Gives .syncDecEdge s (fun t =>
        t = s.inc F.THM_CNT_SYNCIGN)) ∧
      (s.flag F.THM_CTRL_SYNC_EN = true → s.get F.THM_STATUS_STATE = 2 → s.thm.hold = [] → Gives .syncDecEdge s (fun t =>
        t.get F.THM_SYNC_TIME = s.now % 2 ^ F.THM_SYNC_TIME.width ∧ t.get F.THM_STATUS_STATE = 1 ∧ t.thm.fast = true ∧
        t.mode = s.mode))) ∧
    (∀ (n : Fin 4) (l : List Nat) (ph : Fin 10), s.flag (F.THM_MON_CH_EN n) = false → Gives (.monitorOutput n l ph) s (fun t => t = s)) ∧
    (∀ (n : Fin 4) (l : List Nat) (ph : Fin 10), thmUp s = true → s.flag F.THM_CTRL_EN = true → s.flag (F.THM_MON_CH_EN n) = true →
      ((monAt s n).mute ≠ 0 → Gives (.monitorOutput n l ph) s (fun t => (monAt t n).mute = (monAt s n).mute - 1 ∧
        t = { s with thm := t.thm })) ∧
      ((monAt s n).mute = 0 → Gives (.monitorOutput n l ph) s (fun t => t.get (F.THM_MON_CH_VALID n) = 1 ∧ t.mode = s.mode))) ∧
    (s.flag F.THM_MON_CFG_XFADE = false → Gives .coefCrossfadeEnd s (fun t => t = s)) ∧
    (s.flag F.THM_MON_CFG_XFADE = true → s.flag F.THM_MON_CFG_COEF_QUEUED = false →
      (∀ n < 4, s.flag (F.THM_MON_CH_EN n) = true → (monAt s n).fade = 256) → Gives .coefCrossfadeEnd s (fun t =>
        t.get F.THM_MON_CFG_COEF_NOW = 1 - s.get F.THM_MON_CFG_COEF_NOW ∧ t.get F.THM_MON_CFG_XFADE = 0 ∧
        RegsOnly [F.THM_MON_CFG_COEF_NOW, F.THM_MON_CFG_XFADE, F.THM_MON_CFG_COEF_QUEUED] s t))

/-- Chapters 5 and 12: the flat field (R417 to R422). -/
def Obligations.FlatField : Prop :=
  ∀ s : State,
    (∀ (p : Port) (tag : Nat) (c : Cmd), c.discard = false → Ready s p tag 0x0403 thmFfcCheck c →
      Gives (.thmFfc p tag) s (fun t => Running t c ∧ (c.first = false → Accepted t c) ∧ t.get F.THM_STATUS_FFC_BUSY = 1 ∧
        RegFrame [F.THM_STATUS_FFC_BUSY] s t ∧ t.pins = { s.pins with shutOpen := false } ∧
        t.thm = { s.thm with run := some ⟨some (p, tag), 0, 0, 1, [], 1, 0, true, false⟩ })) ∧
    (framesRun s = true → s.flag F.THM_CTRL_AUTO_FFC = true → s.thm.ffcRest ≤ s.sys.raw →
      (s.get F.THM_FFC_AUTO_FFC_PERIOD ≠ 0 ∧ s.thm.ffcAt + 800000000 * s.get F.THM_FFC_AUTO_FFC_PERIOD ≤ s.sys.raw) ∨
        (s.flag F.THM_TEMP_VALID = true ∧ s.thm.ffcT.any (fun x =>
          decide (s.get F.THM_FFC_AUTO_FFC_TRIG_DT ≤ (s.getInt F.THM_TEMP_T_ARRAY - x).natAbs)) = true) →
      (s.thm.run = none → s.thm.fade = none → Gives .autoFfcStart s (fun t =>
        t.get F.THM_STATUS_FFC_BUSY = 1 ∧ RegFrame [F.THM_STATUS_FFC_BUSY] s t ∧ t.pins = { s.pins with shutOpen := false } ∧
        t.thm = { s.thm with run := some ⟨none, 0, 0, 1, [], 1, 0, true, false⟩ })) ∧
      (s.thm.fade.isSome = true → Gives .autoFfcStart s (fun t => t = { s with thm := { s.thm with ffcDue := true } })) ∧
      (∀ r : FfcRun, s.thm.run = some r → r.cmd.isSome = true → Gives .autoFfcStart s (fun t =>
        t = { s with thm := { s.thm with ffcDue := true } }))) ∧
    (framesRun s = false ∨ s.flag F.THM_CTRL_AUTO_FFC = false ∨ autoFfcDue s = false → Gives .autoFfcStart s (fun t => t = s)) ∧
    (s.thm.run = none → Gives .ffcShutterTimeout s (fun t => t = s) ∧ Gives .ffcSumDone s (fun t => t = s)) ∧
    (∀ r : FfcRun, s.thm.run = some r →
      (r.phase ≠ 0 → Gives .ffcShutterTimeout s (fun t => t = s)) ∧
      (r.phase ≠ 3 → Gives .ffcSumDone s (fun t => t = s)) ∧
      (r.cmd = none → r.phase = 0 → Gives .ffcShutterTimeout s (fun t =>
        t.get F.THM_FFC_RES_CAUSE = (if r.disturbed = true then 4 else 5) ∧ t.get F.THM_FFC_RES_ACCEPT = 0 ∧
        t.get F.THM_STATUS_FFC_BUSY = 0 ∧ t.pins = { s.pins with shutOpen := true } ∧
        t.thm = { s.thm with run := none, ffcRest := s.sys.raw + 8000000000 } ∧
        RegFrame [F.THM_FFC_RES_CAUSE, F.THM_FFC_RES_ACCEPT, F.THM_STATUS_FFC_BUSY] s t)) ∧
      (∀ (table : List (Int × Bool)) (bad cause : Nat), r.phase = 3 →
        table = ((flatField s r.acc r.frames).map fun (x : Int) =>
          (clampInt (-16383) 16383 x, decide (s.get F.THM_FFC_CFG_FFC_DEV_MAX < x.natAbs))) →
        bad = (table.zipIdx.filter fun e => e.1.2 && !(corrEntry (corrInUse s) e.2).bad).length →
        cause = (if !r.closed then 1 else if Int.ofNat (s.get F.THM_FFC_CFG_FFC_DT_MAX) < r.tMax - r.tMin then 2
          else if s.get F.THM_FFC_LIM < bad then 3 else if r.disturbed then 4 else 0) →
        (r.cmd = none → cause ≠ 0 → Gives .ffcSumDone s (fun t => t.get F.THM_FFC_RES_CAUSE = cause ∧
          t.get F.THM_FFC_RES_ACCEPT = 0 ∧ t.get F.THM_STATUS_FFC_BUSY = 0 ∧ t.pins = { s.pins with shutOpen := true } ∧
          t.thm = { s.thm with run := none, ffcRest := s.sys.raw + 8000000000 })) ∧
        (r.cmd = none → cause = 0 → Gives .ffcSumDone s (fun t => t.get F.THM_FFC_RES_CAUSE = 0 ∧
          t.get F.THM_FFC_RES_ACCEPT = 1 ∧ t.get F.THM_STATUS_FFC_BUSY = 0 ∧ t.pins = { s.pins with shutOpen := true } ∧
          t.thm.run = none ∧ t.thm.ffcNew = some table ∧ t.thm.ffc = s.thm.ffc ∧ t.thm.ffcAt = s.sys.raw ∧
          t.get F.THM_FFC_RES_BAD_CNT = (table.filter fun e => e.2).length % 2 ^ F.THM_FFC_RES_BAD_CNT.width)) ∧
        (∀ (q : Port × Nat) (c : Cmd), r.cmd = some q → findCmd s q.1 q.2 0x0403 = some c → c.discard = false →
          Gives .ffcSumDone s (fun t => Ends t c St.done (b2n (decide (cause = 0))) ∧ t.get F.THM_FFC_RES_CAUSE = cause))) ∧
      (∀ (q : Port × Nat) (c : Cmd), r.cmd = some q → findCmd s q.1 q.2 0x0403 = some c → c.discard = false → r.phase = 0 →
        Gives .ffcShutterTimeout s (fun t => Ends t c St.done 0))) ∧
    (thmUp s = true → s.pins.shutOpen = true → s.get F.THM_STATUS_SHUTTER ≠ 0 → Gives .shutterStuck s (fun t =>
      t.get F.THM_STATUS_SHUT_STUCK = 1 ∧ RegFrame (F.THM_STATUS_SHUT_STUCK :: faultFields 2) s t ∧ t.mode = s.mode ∧
      t.thm = s.thm)) ∧
    (thmUp s = false ∨ s.pins.shutOpen = false ∨ s.get F.THM_STATUS_SHUTTER = 0 → Gives .shutterStuck s (fun t => t = s))

/-- R173 to R182, R196 to R199, R202 to R213: the return front end and the edge timing of a channel. -/
def Obligations.ReturnFrontEnd : Prop :=
  ∀ s : State,
    (∀ (ch : Fin 1024) (coarse tap x : Nat) (c : Chan), c = chanAt s ch → x = 80 * coarse + fineValue s (ch / 64) (ch % 64) tap →
      (inDeadTime c x = true → Gives (.returnEdge ch coarse tap) s (fun t => t = s.inc (F.TDC_CH_CNT_DEAD_CNT ch))) ∧
      (inDeadTime c x = false → ∀ o e : Nat, c.win = some (o, e) →
        (o ≤ x → x < e → Gives (.returnEdge ch coarse tap) s (fun t => chanAt t ch = { c with cur := some x } ∧
          t = { s with rxf := t.rxf })) ∧
        (x < o ∨ e ≤ x → Gives (.returnEdge ch coarse tap) s (fun t => t = s))) ∧
      (inDeadTime c x = false → c.win = none → inGroom s (servedBy s (ch / 64)) = false →
        Gives (.returnEdge ch coarse tap) s (fun t => t = s)) ∧
      (inDeadTime c x = false → c.win = none → inGroom s (servedBy s (ch / 64)) = true →
        Gives (.returnEdge ch coarse tap) s (fun t => t = setChan s { c with cur := some x }))) ∧
    (∀ (ch : Fin 1024) (width : Nat) (t1 ref : Bool) (own others : List Overload), (chanAt s ch).cur = none →
      Gives (.eventWordFormed ch width t1 own others ref) s (fun t => t = s)) ∧
    (∀ (ch : Fin 1024) (width x : Nat) (t1 : Bool) (own others : List Overload) (c : Chan), c = chanAt s ch → c.cur = some x →
      c.win = none → Gives (.eventWordFormed ch width t1 own others false) s (fun t =>
        t = setChan s { c with cur := none, last := some (x, x + 4 * min width 511) })) ∧
    (∀ (ch : Fin 1024) (width x le : Nat) (t1 ref sat shadow : Bool) (own others : List Overload) (c : Chan), c = chanAt s ch →
      c.cur = some x → ref = true ∨ c.win ≠ none → le = (clampInt 0 131071 (Int.ofNat x + skewTrim s (ch / 64) (ch % 64))).toNat →
      sat = own.any (overloads (Int.ofNat x) (Int.ofNat (x + 4 * width))) →
      shadow = others.any (shadows (s.flag (F.RXF_CL_CTRL_SHADOW_SCOPE (servedBy s (ch / 64)))) ch.val (Int.ofNat x)) →
      (c.fifo.length < 8 → Gives (.eventWordFormed ch width t1 own others ref) s (fun t =>
        (chanAt t ch).cur = none ∧ (chanAt t ch).drop = c.drop ∧
        (chanAt t ch).fifo = c.fifo ++ [(s.sch.next - 1, eventWord (fillCode (c.fifo.length + 1)) shadow sat
          (if ref then 3 else if c.edgeT1 then 2 else if t1 && !c.noT1 then 1 else 0) (min width 511) le)] ∧
        RegFrame [F.RXF_SHADOW_CNT (servedBy s (ch / 64))] s t)) ∧
      (8 ≤ c.fifo.length → Gives (.eventWordFormed ch width t1 own others ref) s (fun t =>
        (chanAt t ch).cur = none ∧ (chanAt t ch).drop = true ∧ (chanAt t ch).fifo = c.fifo ∧
        t.get (F.TDC_CH_CNT_DROP_CNT ch) = (s.inc (F.TDC_CH_CNT_DROP_CNT ch)).get (F.TDC_CH_CNT_DROP_CNT ch)))) ∧
    (∀ (ch : Fin 1024) (sat t1 : Bool), (chanAt s ch).win = none → Gives (.shotEnd ch sat t1) s (fun t => t = s)) ∧
    (∀ (ch : Fin 1024) (sat t1 : Bool) (c : Chan) (p : Nat), c = chanAt s ch → p = servedBy s (ch / 64) → c.win ≠ none → c.cur = none →
      (s.flag (F.RXF_CH_CFG_AR_EN p (ch % 64)) = false → Gives (.shotEnd ch sat t1) s (fun t =>
        chanAt t ch = { c with win := none } ∧ RegFrame [F.RXF_CH_STAT_SAT_CNT p (ch % 64)] s t ∧ (sat = false → t.regs = s.regs))) ∧
      (s.flag (F.RXF_CH_CFG_AR_EN p (ch % 64)) = true → sat = true → max 1 (s.get (F.RXF_CL_CTRL_AR_SAT p)) ≤ c.sat + 1 →
        0 < s.get (F.RXF_CH_STAT_RANGE_NOW p (ch % 64)) → Gives (.shotEnd ch sat t1) s (fun t =>
          t.get (F.RXF_CH_CFG_RANGE p (ch % 64)) = (s.get (F.RXF_CH_STAT_RANGE_NOW p (ch % 64)) - 1) % 4 ∧
          t.get (F.RXF_CH_STAT_RANGE_PEND p (ch % 64)) = 1 ∧
          (chanAt t ch).auto = some (s.get (F.RXF_CH_STAT_RANGE_NOW p (ch % 64)) - 1)))) ∧
    (∀ (n : Fin 17) (j : Fin 64) (value : Dword) (p : Nat), writeWindow s n = some p → s.mode.scanning = false → committed s = false →
      (F.RXF_CH_CFG_EDGE_MODE p j).of value.toNat < 2 → (F.RXF_CH_CFG_RANGE p j).of value.toNat ≠ s.get (F.RXF_CH_CFG_RANGE p j) →
      Gives (.rxfChCfgWrite n j value) s (fun t =>
        t.get (F.RXF_CH_CFG_RANGE p j) = (F.RXF_CH_CFG_RANGE p j).of value.toNat ∧ t.get (F.RXF_CH_STAT_RANGE_PEND p j) = 1 ∧
        t.get (F.RXF_CH_CFG_T0 p j) = (F.RXF_CH_CFG_T0 p j).of value.toNat ∧
        t.get (F.RXF_CH_CFG_AR_EN p j) = (F.RXF_CH_CFG_AR_EN p j).of value.toNat ∧
        RegFrame [F.RXF_CH_CFG_EDGE_MODE p j, F.RXF_CH_CFG_T1 p j, F.RXF_CH_CFG_T0 p j, F.RXF_CH_CFG_AR_EN p j,
          F.RXF_CH_CFG_RANGE p j, F.RXF_CH_STAT_RANGE_PEND p j] s t)) ∧
    (∀ (n : Fin 32) (value : Dword), bit value.toNat 31 = true → 2 ≤ slicesOn s n (bits value.toNat 0 10) →
      Gives (.rxfObsWrite n value) s (fun t => t = s)) ∧
    (∀ (n : Fin 32) (value : Dword), bit value.toNat 31 = true → slicesOn s n (bits value.toNat 0 10) < 2 → sliceAt s n = none →
      Gives (.rxfObsWrite n value) s (fun t => t.get (F.RXF_OBS_PIN n) = 1 ∧ t.get (F.RXF_OBS_CHANNEL n) = bits value.toNat 0 10 ∧
        t.get (F.RXF_OBS_OFFSET n) = bits value.toNat 16 8 ∧ t.get (F.RXF_OBS_NAVG n) = bits value.toNat 24 4 ∧
        sliceAt t n = some ⟨n, 2 ^ min 10 (bits value.toNat 24 4), none, none⟩ ∧
        RegFrame [F.RXF_OBS_PIN n, F.RXF_OBS_CHANNEL n, F.RXF_OBS_OFFSET n, F.RXF_OBS_NAVG n] s t)) ∧
    (∀ (n : Fin 32) (sums : List Nat), sliceAt s n = none → Gives (.sliceAverageDone n sums) s (fun t => t = s)) ∧
    (∀ (n : Fin 32) (sums : List Nat) (x : Slice), sliceAt s n = some x → x.left = 0 → s.flag (F.RXF_OBS_ENGINE n) = false →
      Gives (.sliceAverageDone n sums) s (fun t => (∀ i < 256, t.get (F.RXF_WS_ACC n i) = sums.getD i 0 % 2 ^ (F.RXF_WS_ACC n i).width) ∧
        (t.get F.RXF_WS_DONE).testBit n = true ∧ sliceAt t n = some { x with left := sliceShots s n } ∧ t.mode = s.mode)) ∧
    (∀ value : Dword, Gives (.apdbCtrlWrite value) s (fun t => t.get F.RXF_APDB_CTRL_EN = b2n (bit value.toNat 8) ∧
      t.get F.RXF_APDB_CTRL_DMAX = value.toNat % 2 ^ F.RXF_APDB_CTRL_DMAX.width ∧
      RegFrame [F.RXF_APDB_CTRL_DMAX, F.RXF_APDB_CTRL_EN] s t ∧ t.mode = s.mode ∧
      (bit value.toNat 8 = false → t.rxf = s.rxf) ∧
      (bit value.toNat 8 = true → s.flag F.RXF_APDB_STAT_OV = false → s.flag F.RXF_APDB_STAT_OPEN = false →
        t.rxf = { s.rxf with apdbOff := false }))) ∧
    (∀ (settled : Bool) (sense : Nat), Gives (.apdbSettledChange settled sense) s (fun t =>
      t.get F.RXF_APDB_STAT_SENSE = min sense 4095 ∧ RegsOnly [F.RXF_APDB_STAT_SETTLED, F.RXF_APDB_STAT_SENSE] s t ∧
      (settled = true → apdbRuns s = true → 200 * biasError256 s sense ≤ (effTarget256 s).natAbs → t.get F.RXF_APDB_STAT_SETTLED = 1) ∧
      (settled = false → (effTarget256 s).natAbs < 50 * biasError256 s sense → t.get F.RXF_APDB_STAT_SETTLED = 0))) ∧
    (∀ sense : Nat, apdbRuns s = true → s.get F.RXF_APDB_CFG_LIMIT < sense → Gives (.apdbTrip ⟨false, sense⟩) s (fun t =>
      t.rxf = { s.rxf with apdbOff := true } ∧ t.get F.RXF_APDB_STAT_OV = 1 ∧ t.get F.RXF_APDB_STAT_SENSE = min sense 4095 ∧
      t.mode = s.mode ∧ RegFrame ([F.RXF_APDB_STAT_SENSE, F.RXF_APDB_STAT_OV] ++ faultFields 2) s t)) ∧
    (∀ sense : Nat, apdbRuns s = true → 20 * (256 * Int.ofNat sense) < effTarget256 s → Gives (.apdbTrip ⟨true, sense⟩) s (fun t =>
      t.rxf = { s.rxf with apdbOff := true } ∧ t.get F.RXF_APDB_STAT_OPEN = 1 ∧ t.get F.RXF_APDB_STAT_SENSE = min sense 4095 ∧
      t.mode = s.mode ∧ RegFrame ([F.RXF_APDB_STAT_SENSE, F.RXF_APDB_STAT_OPEN] ++ faultFields 2) s t))

/-- Chapters 3, 6 and 10: clusters (R79, R183 to R190, R195, R326). -/
def Obligations.ClustersAndSparing : Prop :=
  ∀ s : State,
    (∀ n : Fin 17, s.flag (F.RXF_CL_STATUS_FE_FAULT n) = true → Gives (.clusterFeFault (2 ^ n.val)) s (fun t => t = s)) ∧
    (∀ n : Fin 16, s.flag (F.RXF_CL_STATUS_FE_FAULT n) = false → inGroom s n = false →
      (s.flag F.RXF_SPARE_CTRL = true → s.get F.RXF_SPARE_STATUS_PHASE = 0 → (∀ g ∈ s.cal.grooms, bit g.mask 16 = false) →
        Gives (.clusterFeFault (2 ^ n.val)) s (fun t =>
          t.get (F.RXF_CL_STATUS_FE_FAULT n) = 1 ∧ t.get F.RXF_SPARE_STATUS_PHASE = 1 ∧ t.get F.RXF_SPARE_STATUS_ROUTE = n.val ∧
          t.get (clst 16) = Cl.restarting ∧ t.mode = s.mode ∧
          RegFrame ([F.RXF_CL_STATUS_FE_FAULT n, F.RXF_SPARE_STATUS_PHASE, F.RXF_SPARE_STATUS_ROUTE, clst 16] ++ faultFields 1) s t)) ∧
      (s.flag F.RXF_SPARE_CTRL = false ∨ s.get F.RXF_SPARE_STATUS_PHASE ≠ 0 → Gives (.clusterFeFault (2 ^ n.val)) s (fun t =>
        t.get (F.RXF_CL_STATUS_FE_FAULT n) = 1 ∧ t.get (F.RXF_CL_STATUS_WITHDRAWN n) = 1 ∧
        t.get F.RXF_SPARE_STATUS_PHASE = s.get F.RXF_SPARE_STATUS_PHASE ∧ t.mode = s.mode ∧ Keeps s t))) ∧
    (∀ ph : Nat, s.flag (F.RXF_CL_STATUS_FE_FAULT 16) = false → inGroom s 16 = false → ph = s.get F.RXF_SPARE_STATUS_PHASE →
      (ph = 0 → Gives (.clusterFeFault (2 ^ 16)) s (fun t => t.get (F.RXF_CL_STATUS_FE_FAULT 16) = 1 ∧
        t.get F.RXF_SPARE_STATUS_PHASE = 5 ∧ t.mode = s.mode ∧
        RegFrame ([F.RXF_CL_STATUS_FE_FAULT 16, F.RXF_SPARE_STATUS_PHASE] ++ faultFields 0) s t)) ∧
      (1 ≤ ph → ph ≤ 4 → Gives (.clusterFeFault (2 ^ 16)) s (fun t => t.get (F.RXF_CL_STATUS_FE_FAULT 16) = 1 ∧
        t.get F.RXF_SPARE_STATUS_PHASE = (if ph ≤ 2 then 5 else ph) ∧
        t.get (F.RXF_CL_STATUS_WITHDRAWN (s.get F.RXF_SPARE_STATUS_ROUTE)) = 1 ∧ t.mode = s.mode ∧ Keeps s t))) ∧
    (s.get F.RXF_SPARE_STATUS_PHASE = 1 → Gives .spareRestartDone s (fun t => t.get F.RXF_SPARE_STATUS_PHASE = 2 ∧
      t.get (clst 16) = Cl.running ∧ RegsOnly [F.RXF_SPARE_STATUS_PHASE, clst 16] s t)) ∧
    (s.get F.RXF_SPARE_STATUS_PHASE ≠ 1 → Gives .spareRestartDone s (fun t => t = s)) ∧
    (∀ n : Fin 17, s.get (clst n) = Cl.restarting → Gives (.clusterRestartDone n) s (fun t =>
      t.get (clst n) = (if s.mode = .ready then Cl.cold else Cl.running) ∧ RegsOnly [clst n] s t)) ∧
    (∀ n : Fin 17, s.get (clst n) ≠ Cl.restarting → Gives (.clusterRestartDone n) s (fun t => t = s)) ∧
    (∀ n : Fin 16, s.sch.running = true → s.get (clst (servedBy s n)) = Cl.cold → nextNeeds s n = true →
      bit s.sch.capCold n = false ∨ powerEstimate s 0 + 80 ≤ s.get F.SCH_CAP_CAP →
      Gives (.clusterRestartStart n) s (fun t => t.get (clst (servedBy s n)) = Cl.restarting ∧
        RegFrame [clst (servedBy s n)] s t ∧ t.sch = { s.sch with capCold := clearBit s.sch.capCold n } ∧ t.mode = s.mode)) ∧
    (∀ n : Fin 16, s.sch.running = false ∨ s.get (clst (servedBy s n)) ≠ Cl.cold → Gives (.clusterRestartStart n) s (fun t => t = s)) ∧
    (∀ (tones : List Nat) (first again : List ImpMeas), s.flag F.RXF_IMP_STATUS_BUSY = false →
      Gives (.impedanceCheckDone tones first again) s (fun t => t = s)) ∧
    (∀ (tones : List Nat) (again : List ImpMeas) (c : Cmd), s.flag F.RXF_IMP_STATUS_BUSY = true → runningCmd s 0x0902 = some c →
      c.discard = false → Gives (.impedanceCheckDone tones [] again) s (fun t =>
        Ends t c St.done (impMask s &&& (c.dw 4 % 2 ^ 17)) ∧ t.get F.RXF_IMP_STATUS_BUSY = 0 ∧ t.rxf.impFrom = none ∧
        t.get F.RXF_IMP_STATUS_FAIL_MASK = impMask s % 2 ^ F.RXF_IMP_STATUS_FAIL_MASK.width)) ∧
    (∀ (tones : List Nat) (m : ImpMeas), s.flag F.RXF_IMP_STATUS_BUSY = true → impCovers s m.ch = true →
      (∀ again : List ImpMeas, measPass s tones m = true → Gives (.impedanceCheckDone tones [m] again) s (fun t =>
        t.get F.RXF_IMP_STATUS_BUSY = 0 ∧ t.get (F.RXF_IMP_VALID (m.ch / 64) (m.ch % 64)) = 1 ∧
        t.get (F.RXF_IMP_PASS (m.ch / 64) (m.ch % 64)) = 1 ∧ t.rxf.impFrom = none ∧
        (t.get (F.RXF_CH_FAIL (m.ch / 64))).testBit (m.ch % 64) = false ∧ t.mode = s.mode)) ∧
      (measPass s tones m = false → Gives (.impedanceCheckDone tones [m] []) s (fun t =>
        t.get F.RXF_IMP_STATUS_BUSY = 0 ∧ t.get (F.RXF_IMP_VALID (m.ch / 64) (m.ch % 64)) = 1 ∧
        t.get (F.RXF_IMP_PASS (m.ch / 64) (m.ch % 64)) = 0 ∧ t.rxf.impFrom = none ∧
        (t.get (F.RXF_CH_FAIL (m.ch / 64))).testBit (m.ch % 64) = true ∧ t.mode = s.mode)) ∧
      (∀ x : ImpMeas, measPass s tones m = false → clsFree s = true → x.ch = m.ch → measPass s tones x = true →
        s.flag (F.RXF_CL_STATUS_FE_FAULT (m.ch / 64)) = false → Gives (.impedanceCheckDone tones [m] [x]) s (fun t =>
          t.get F.RXF_IMP_STATUS_BUSY = 0 ∧ t.get (F.RXF_CL_STATUS_FE_FAULT (m.ch / 64)) = 1 ∧
          t.get (F.RXF_IMP_PASS (m.ch / 64) (m.ch % 64)) = 1 ∧ t.mode = s.mode)))

/-- R236 to R244, R266 to R268, R278, R289, R290, R296, R299: the histogram engine's rings and cells, and the yard. -/
def Obligations.EventsCellsAndYard : Prop :=
  ∀ s : State,
    (∀ (lane : Fin 18) (ok : Bool) (slot corrected : Nat) (words : Fin 9), laneUp s lane = false →
      Gives (.bridgeFrame lane ok slot words corrected) s (fun t => t = s)) ∧
    (∀ (lane : Fin 18) (slot corrected : Nat) (words : Fin 9), laneUp s lane = true → s.rxf.laneErr = [] →
      Gives (.bridgeFrame lane false slot words corrected) s (fun t => t.rxf.laneErr = [(lane.val, s.sys.raw)] ∧ t.regs = (s.add F.YRD_ECC_CORR corrected).regs ∧
        t.hge = s.hge ∧ t.mode = s.mode)) ∧
    (∀ (lane : Fin 18) (slot w corrected : Nat) (ch : Chan) (rest : List (Nat × Nat)) (u v : State), lane.val < 16 →
      laneUp s lane = true → laneTurn s lane (fun k => k == slot) = some ch → ch.fifo = (slot, w) :: rest →
      u = (popWords lane slot 1 (s.add F.YRD_ECC_CORR corrected)).2 → v = recordRaw u ch.id (frameOfSlot u slot) slot w →
      (bits w 26 2 = 3 → Gives (.bridgeFrame lane true slot 1 corrected) s (fun t =>
        (chanAt t ch.id).fifo = rest ∧ t.regs = u.regs ∧ t.mode = s.mode ∧ (s.rxf.laneDirty = [] → t.hge = s.hge))) ∧
      (bits w 26 2 ≠ 3 → (∀ f ∈ v.sch.fired, f.shot.slot ≠ slot) → Gives (.bridgeFrame lane true slot 1 corrected) s (fun t =>
        (chanAt t ch.id).fifo = rest ∧ t.get F.HGE_CNT_ORPHAN = (v.inc F.HGE_CNT_ORPHAN).get F.HGE_CNT_ORPHAN ∧ t.mode = s.mode)) ∧
      (∀ (f : Fired) (e : Nat × Nat × Nat) (c : Cell), bits w 26 2 ≠ 3 →
        v.sch.fired.find? (fun f => f.shot.slot = slot) = some f → f.shot.use = .own →
        (servedDirs f.shot).find? (fun d => 64 * d.1 + d.2.1 = ch.id) = some e → cellOf v e.2.2 f.shot.frame = some c →
        v.rxf.laneDirty = [] →
        (c.taken.any (fun k => k.1 = slot) = false → Gives (.bridgeFrame lane true slot 1 corrected) s (fun t =>
          (chanAt t ch.id).fifo = rest ∧ t.get F.HGE_CNT_ORPHAN = (v.inc F.HGE_CNT_ORPHAN).get F.HGE_CNT_ORPHAN ∧
          t.hge.cells = v.hge.cells ∧ t.mode = s.mode)) ∧
        (c.taken.any (fun k => k.1 = slot) = true → stallReady v c.stall = true → Gives (.bridgeFrame lane true slot 1 corrected) s (fun t => (chanAt t ch.id).fifo = rest ∧
          cellOf t e.2.2 f.shot.frame = some (enterEvent v c f.shot.code
            (((f.ranges.find? fun r => r.1 = ch.id).map fun r => r.2).getD 0) w) ∧ t.mode = s.mode)) ∧
        (c.taken.any (fun k => k.1 = slot) = true → stallReady v c.stall = false → Gives (.bridgeFrame lane true slot 1 corrected) s (fun t => (chanAt t ch.id).fifo = rest ∧
          cellOf t e.2.2 f.shot.frame = some c ∧ t.hge.waiting.length = v.hge.waiting.length + 1 ∧ t.mode = s.mode)))) ∧
    (∀ (dir corrected : Nat) (c : Cell), s.hge.cells.find? (fun (x : Cell) => x.dir = dir && x.closed) = some c →
      stallReady s c.stall = true → shapeWaits s dir = false → Gives (.detectionDone dir corrected) s (fun t =>
        (∀ x ∈ t.hge.cells, ¬(x.dir = c.dir ∧ x.frame = c.frame)) ∧ Keeps s t ∧ t.mode = s.mode)) ∧
    (∀ w : Fin 64, s.flag (F.YRD_GRANT_STAT_VALID w) = false → Gives (.farReadFail w) s (fun t => t = s)) ∧
    (∀ w : Fin 64, s.flag (F.YRD_GRANT_STAT_VALID w) = true → Gives (.farReadFail w) s (fun t =>
      t.get (F.YRD_GRANT_STAT_FAILED w) = 1 ∧ Keeps s t ∧ t.mode = s.mode)) ∧
    (∀ (n : Nat) (x : Stall), stallAt s n = some x →
      (x.owner ≠ 0 → Gives (.uncorrectableError n) s (fun t => t = s)) ∧
      (x.owner = 0 → Gives (.uncorrectableError n) s (fun t => stallAt t n = none ∧
        (∀ c ∈ t.hge.cells, c.stall = n → c.closed = true ∧ n = noStall) ∧ Keeps s t ∧
        t.mode = s.mode))) ∧
    (∀ (i : Fin 16) (value : Dword), (codeLegal value.toNat = false → Gives (.hgeCodeWrite (i.castLE (by decide)) value) s (fun t => t = s)) ∧
      (codeLegal value.toNat = true → committed s = false → ∀ l : List Fld,
        l = [F.HGE_CODE_TAB_O3 i, F.HGE_CODE_TAB_O2 i, F.HGE_CODE_TAB_O1 i, F.HGE_CODE_TAB_DEPTH i] →
        Gives (.hgeCodeWrite (i.castLE (by decide)) value) s (fun t =>
          t.hge = { s.hge with code := s.hge.code ++ l.map (fun f => ⟨s.mode.scanning && lateNow s, f, f.of value.toNat⟩) } ∧
          t = { s with hge := t.hge }))) ∧
    (∀ value : Dword, (400 < F.HGE_DITHER.of value.toNat → Gives (.hgeDitherWrite value) s (fun t => t = s)) ∧
      (F.HGE_DITHER.of value.toNat ≤ 400 → committed s = false → s.mode.scanning = true → Gives (.hgeDitherWrite value) s (fun t =>
        t = { s with hold := s.hold ++ [⟨lateNow s, F.HGE_DITHER, F.HGE_DITHER.of value.toNat⟩] })) ∧
      (F.HGE_DITHER.of value.toNat ≤ 400 → committed s = false → s.mode.scanning = false →
        programsFit (s.set F.HGE_DITHER (F.HGE_DITHER.of value.toNat)) = true → Gives (.hgeDitherWrite value) s (fun t =>
          t.get F.HGE_DITHER = F.HGE_DITHER.of value.toNat ∧ Takes [F.HGE_DITHER] s t))) ∧
    (∀ (n : Fin 4) (frame : Nat) (d : List Byte) (r : PointRing), pcieUsable s = true → r = ringAt s n →
      r.queue = [.recs frame [d] none] → r.hdrDue = false → ringBytes s n ≠ 0 → 1 ≤ ringRoom s n → Gives (.recordDma n) s (fun t =>
        (sendMem s (s.get (F.HGE_RING_BASE n) + s.get (F.HGE_RING_WPTR n))
          ((d ++ List.replicate (ringUnit s n) 0).take (ringUnit s n))).tx <+: t.tx ∧
        (ringAt t n).queue = [] ∧ t.get (F.HGE_RING_STATUS_BACKLOG n) = 0 ∧
        t.get (F.HGE_RING_WPTR n) = (if ringBytes s n ≤ s.get (F.HGE_RING_WPTR n) + ringUnit s n then 0
          else s.get (F.HGE_RING_WPTR n) + ringUnit s n) % 2 ^ (F.HGE_RING_WPTR n).width ∧ t.mode = s.mode)) ∧
    (∀ (n : Fin 4) (value : Dword) (b : Nat), b = ringBytes s n →
      (value.toNat % ringUnit s n ≠ 0 ∨ (b ≤ value.toNat ∧ value.toNat ≠ s.get (F.HGE_RING_WPTR n)) → Gives (.hgeRingRptrWrite n value) s (fun t => t.get (F.HGE_RING_STATUS_PTR_ERR n) = 1 ∧
        RegsOnly [F.HGE_RING_STATUS_PTR_ERR n] s t)) ∧
      (value.toNat < b → value.toNat % ringUnit s n = 0 → (value.toNat + b - s.get (F.HGE_RING_RPTR n)) % b ≤ ringUnread s n →
        Gives (.hgeRingRptrWrite n value) s (fun t => t.get (F.HGE_RING_RPTR n) = value.toNat % 2 ^ (F.HGE_RING_RPTR n).width ∧
          RegsOnly [F.HGE_RING_RPTR n] s t))) ∧
    (∀ (n : Nat) (x : Stall), stallAt s n = some x → (x.moving = none ∨ x.waits ≠ none ∨ ∃ p : Place, x.moving = some p ∧ moveWaits s x p = true) →
      Gives (.stallMoveDone n) s (fun t => t = s)) ∧
    (∀ (n : Nat) (x : Stall) (p : Place), stallAt s n = some x → x.moving = some p → x.waits = none → moveWaits s x p = false → s.yrd.revoke = none →
      s.yrd.fetches = [] → (x.owner ≠ 0 ∨ x.used.filter (fun k => !x.frees.contains k) ≠ []) →
      Gives (.stallMoveDone n) s (fun t => ∃ y, stallAt t n = some y ∧ y.at_ = p ∧ y.moving = none ∧ y.owner = x.owner ∧
        y.used = x.used.filter (fun k => !x.frees.contains k) ∧ t.mode = s.mode)) ∧
    (∀ (v : Stall) (p : Place), s.yrd.fetches = [] → oldest s .loft = some v → evictPlace s .loft = some p →
      s.get F.YRD_LOFT_WM_LOFT_BG < tierUsed s .loft - leaving s .loft → Gives .backgroundWork s (fun t => t = startMove s v.num p)) ∧
    (s.yrd.fetches = [] → s.yrd.stalls = [] → Gives .backgroundWork s (fun t => t = s)) ∧
    (∀ value : Dword, (s.yrd.stalls ≠ [] → Gives (.yrdMapCfgWrite value) s (fun t => t = s)) ∧
      (s.yrd.stalls = [] → (∀ w < 64, s.flag (F.YRD_GRANT_STAT_VALID w) = false) → 15 ≤ F.YRD_MAP_CFG.of value.toNat →
        F.YRD_MAP_CFG.of value.toNat ≤ 25 → Gives (.yrdMapCfgWrite value) s (fun t =>
          t.get F.YRD_MAP_CFG = F.YRD_MAP_CFG.of value.toNat ∧ RegsOnly [F.YRD_MAP_CFG, F.YRD_CAP_MAP_LOG2_NOW] s t)))

/-- Chapters 3, 7 and 11: the time base (R205, R217 to R225, R365). -/
def Obligations.TimeBase : Prop :=
  ∀ s : State,
    (∀ (p : Fin 16) (value : Dword) (a e : Nat), a = (F.TDC_WIN_PROF_START p).of value.toNat →
      e = (F.TDC_WIN_PROF_END p).of value.toNat →
      (1638 < e ∨ e < a + 8 → Gives (.tdcWinProfWrite p value) s (fun t => t = s)) ∧
      (a + 8 ≤ e → e ≤ 1638 → committed s = true → Gives (.tdcWinProfWrite p value) s (fun t =>
        RegFrame (faultFields 0) s t ∧ t.hold = s.hold ∧ t.mode = s.mode)) ∧
      (a + 8 ≤ e → e ≤ 1638 → committed s = false →
        (s.mode.scanning = false → Gives (.tdcWinProfWrite p value) s (fun t =>
          t.get (F.TDC_WIN_PROF_START p) = a ∧ t.get (F.TDC_WIN_PROF_END p) = e ∧
          Takes [F.TDC_WIN_PROF_START p, F.TDC_WIN_PROF_END p] s t)) ∧
        (s.mode.scanning = true → Gives (.tdcWinProfWrite p value) s (fun t =>
          t = { s with hold := s.hold ++ [⟨false, F.TDC_WIN_PROF_END p, e⟩, ⟨false, F.TDC_WIN_PROF_START p, a⟩] })))) ∧
    (∀ phase : Fin 80, s.flag F.TDC_PPS_CFG_EN = false → Gives (.ppsEdge phase) s (fun t =>
      t = { s with tdc := { s.tdc with stamps := t.tdc.stamps } })) ∧
    (∀ phase : Fin 80, s.flag F.TDC_PPS_CFG_EN = true → s.flag F.TDC_PPS_CFG_ALIGN = true → Gives (.ppsEdge phase) s (fun t =>
      t.get F.TDC_PPS_CAPT = s.now % 2 ^ 64 ∧ t.get F.TDC_DEVTIME = s.get F.TDC_PPS_NEXT % 2 ^ 64 ∧
      t.get F.TDC_PPS_NEXT = (s.get F.TDC_PPS_NEXT + 800000000) % 2 ^ 64 ∧ t.get F.TDC_PPS_STATUS_ALIGNED = 1 ∧
      t.get F.TDC_PPS_CFG_ALIGN = 0 ∧ t.get F.TDC_PPS_STATUS_EDGE = 1 ∧ t.get F.TDC_PPS_STATUS_LOST = 0 ∧ t.sys.slew = 0 ∧
      RegFrame [F.TDC_PPS_CAPT, F.TDC_DEVTIME, F.TDC_PPS_NEXT, F.TDC_PPS_STATUS_ALIGNED, F.TDC_PPS_CFG_ALIGN, F.TDC_PPS_ERR,
        F.TDC_PPS_STATUS_EDGE, F.TDC_PPS_STATUS_LOST] s t ∧ t.mode = s.mode)) ∧
    (∀ (phase : Fin 80) (err : Int), s.flag F.TDC_PPS_CFG_EN = true → s.flag F.TDC_PPS_CFG_ALIGN = false →
      err = (Int.ofNat s.now - Int.ofNat (s.get F.TDC_PPS_NEXT)) * 80 + Int.ofNat phase.val →
      (s.get F.TDC_PPS_CFG_TOL * 80 < err.natAbs ∨ (∃ a : Nat, s.tdc.lastPps = some a ∧ s.now < a + 400000000) →
        Gives (.ppsEdge phase) s (fun t => t.get F.TDC_PPS_CAPT = s.now % 2 ^ 64 ∧
          t.get F.TDC_PPS_STATUS_REJ_CNT = (s.inc F.TDC_PPS_STATUS_REJ_CNT).get F.TDC_PPS_STATUS_REJ_CNT ∧
          RegFrame [F.TDC_PPS_CAPT, F.TDC_PPS_STATUS_REJ_CNT] s t ∧ t.sys = s.sys ∧ t.mode = s.mode)) ∧
      (err.natAbs ≤ s.get F.TDC_PPS_CFG_TOL * 80 → (∀ a : Nat, s.tdc.lastPps = some a → a + 400000000 ≤ s.now) →
        Gives (.ppsEdge phase) s (fun t => t.get F.TDC_PPS_CAPT = s.now % 2 ^ 64 ∧ t.get F.TDC_PPS_STATUS_EDGE = 1 ∧
          t.get F.TDC_PPS_NEXT = (s.get F.TDC_PPS_NEXT + 800000000) % 2 ^ 64 ∧ t.tdc.lastPps = some s.now ∧
          t.get F.TDC_PPS_ERR = toBits 32 err ∧ t.get F.TDC_PPS_STATUS_LOST = 0 ∧
          t.sys.slew = (if s.flag F.TDC_PPS_STATUS_ALIGNED = true then - divRoundInt err 80 else s.sys.slew) ∧
          RegFrame [F.TDC_PPS_CAPT, F.TDC_PPS_NEXT, F.TDC_PPS_ERR, F.TDC_PPS_STATUS_EDGE, F.TDC_PPS_STATUS_LOST] s t ∧
          t.mode = s.mode))) ∧
    (∀ value : Dword,
      (bit value.toNat 31 = true → s.mode.scanning = true → Gives (.ppsAlignWrite value) s (fun t =>
        t.get F.TDC_PPS_STATUS_STEP_REFUSED = 1 ∧ RegsOnly [F.TDC_PPS_STATUS_STEP_REFUSED] s t)) ∧
      (s.mode.scanning = false ∨ bit value.toNat 31 = false → Gives (.ppsAlignWrite value) s (fun t =>
        t.get F.TDC_PPS_CFG_EN = b2n (bit value.toNat 30) ∧
        t.get F.TDC_PPS_CFG_TOL = value.toNat % 2 ^ F.TDC_PPS_CFG_TOL.width ∧
        (bit value.toNat 31 = true → t.get F.TDC_PPS_CFG_ALIGN = 1) ∧
        RegsOnly [F.TDC_PPS_CFG_EN, F.TDC_PPS_CFG_TOL, F.TDC_PPS_CFG_ALIGN] s t))) ∧
    (s.flag F.TDC_PPS_CFG_EN = true → s.flag F.TDC_PPS_STATUS_LOST = false → Gives .ppsLost s (fun t =>
      t.get F.TDC_PPS_STATUS_LOST = 1 ∧ t.sys.slew = 0 ∧ RegFrame (F.TDC_PPS_STATUS_LOST :: faultFields 0) s t ∧ t.mode = s.mode)) ∧
    (s.flag F.TDC_PPS_CFG_EN = false ∨ s.flag F.TDC_PPS_STATUS_LOST = true → Gives .ppsLost s (fun t => t = s)) ∧
    (∀ value : Dword, s.flag F.TDC_FIRE_CFG_EN = true → Gives (.fmCtrlWrite 3 value) s (fun t => t = s)) ∧
    (∀ (e : Fin 4) (value : Dword), e ≠ 3 ∨ s.flag F.TDC_FIRE_CFG_EN = false →
      ((F.TDC_FM_CTRL_MODE e).of value.toNat = 3 ∨ 0x0A < (F.TDC_FM_CTRL_SRC e).of value.toNat → Gives (.fmCtrlWrite e value) s (fun t => t = s)) ∧
      ((F.TDC_FM_CTRL_MODE e).of value.toNat ≠ 3 → (F.TDC_FM_CTRL_SRC e).of value.toNat ≤ 0x0A →
        Gives (.fmCtrlWrite e value) s (fun t =>
          t.flag (F.TDC_FM_CTRL_START e) = (s.flag (F.TDC_FM_CTRL_START e) || bit value.toNat 31) ∧
          t.get (F.TDC_FM_CTRL_CONT e) = (F.TDC_FM_CTRL_CONT e).of value.toNat ∧
          t.get (F.TDC_FM_CTRL_SEL e) = (F.TDC_FM_CTRL_SEL e).of value.toNat ∧
          t.get (F.TDC_FM_CTRL_DIV e) = (F.TDC_FM_CTRL_DIV e).of value.toNat ∧
          t.get (F.TDC_FM_CTRL_MODE e) = (F.TDC_FM_CTRL_MODE e).of value.toNat ∧
          t.get (F.TDC_FM_CTRL_SRC e) = (F.TDC_FM_CTRL_SRC e).of value.toNat ∧
          t.get (F.TDC_FM_CTRL_GATE e) = (F.TDC_FM_CTRL_GATE e).of value.toNat ∧
          RegFrame [F.TDC_FM_CTRL_CONT e, F.TDC_FM_CTRL_MODE e, F.TDC_FM_CTRL_GATE e, F.TDC_FM_CTRL_SRC e, F.TDC_FM_CTRL_SEL e,
            F.TDC_FM_CTRL_DIV e, F.TDC_FM_CTRL_START e] s t ∧ t.mode = s.mode))) ∧
    (∀ (e : Fin 4) (edges : List Edge), s.flag (F.TDC_FM_CTRL_START e) = false → Gives (.fmGateEnd e edges) s (fun t => t = s)) ∧
    (∀ (e : Fin 4) (edges : List Edge), s.flag (F.TDC_FM_CTRL_START e) = true →
      (s.tdc.refSwitched.getD e false = true → Gives (.fmGateEnd e edges) s (fun t => t.get (F.TDC_FM_STATUS_DONE e) = 1 ∧
        t.get (F.TDC_FM_STATUS_REF_SWITCH e) = 1 ∧ t.get (F.TDC_FM_STATUS_VALID e) = 0 ∧
        t.flag (F.TDC_FM_CTRL_START e) = s.flag (F.TDC_FM_CTRL_CONT e) ∧
        RegFrame [F.TDC_FM_CTRL_START e, F.TDC_FM_STATUS_DONE e, F.TDC_FM_STATUS_REF_SWITCH e, F.TDC_FM_STATUS_VALID e] s t ∧
        t.mode = s.mode)) ∧
      (s.tdc.refSwitched.getD e false = false → ∀ (g : GateResult) (firing : Bool),
        g = gateResult s e (takeStamps none (gateEdges s e edges)).1 →
        firing = (decide (e = 3) && s.flag F.TDC_FIRE_CFG_EN && firingFails s g) → Gives (.fmGateEnd e edges) s (fun t =>
          t.get (F.TDC_FM_STATUS_DONE e) = 1 ∧ t.get (F.TDC_FM_STATUS_REF_SWITCH e) = 0 ∧
          t.flag (F.TDC_FM_CTRL_START e) = s.flag (F.TDC_FM_CTRL_CONT e) ∧
          t.get (F.TDC_FM_STATUS_VALID e) = b2n (!g.tooFew) ∧ t.get (F.TDC_FM_STATUS_TOO_FEW e) = b2n g.tooFew ∧
          t.get (F.TDC_FM_COUNT e) = min g.used 0xFFFFFF ∧ t.get (F.TDC_FM_REJECT_REJ e) = min g.rej 0xFFFF ∧
          t.get (F.TDC_FM_REJECT_SKIP e) = min (takeStamps none (gateEdges s e edges)).2 0xFFFF ∧
          (gateEdges s e edges = [] → g.tooFew = true) ∧
          (g.tooFew = false → t.get (F.TDC_FM_PERIOD_PERIOD_INT e) =
            divRound (g.period.1 * 1024000) g.period.2 / 65536 % 2 ^ (F.TDC_FM_PERIOD_PERIOD_INT e).width) ∧
          (firing = true → t.get F.EMI_STATUS_INHIBIT = 1 ∧ t.get F.EMI_STATUS_CAUSE = 1) ∧
          RegFrame ([F.TDC_FM_CTRL_START e, F.TDC_FM_STATUS_DONE e, F.TDC_FM_STATUS_REF_SWITCH e, F.TDC_FM_STATUS_VALID e,
            F.TDC_FM_STATUS_TOO_FEW e, F.TDC_FM_COUNT e, F.TDC_FM_REJECT_SKIP e, F.TDC_FM_REJECT_REJ e, F.TDC_FM_PERIOD_PERIOD_INT e,
            F.TDC_FM_PERIOD_PERIOD_FRAC e, F.TDC_FM_PPB e, F.TDC_FM_RESID e] ++
            (if firing = true then F.EMI_STATUS_INHIBIT :: F.EMI_STATUS_CAUSE :: faultFields 2 else [])) s t ∧ t.mode = s.mode)))

/-- R330, R331, R349 to R352, R359, R360, R364 to R367: the emitter. -/
def Obligations.BanksAndSweeps : Prop :=
  ∀ s : State,
    (∀ (b : Fin 8) (x : Bank), x = bankAt s b → emiUp s = true → x.due ≠ none → x.charging = false → x.range = false →
      s.flag F.EMI_STATUS_INHIBIT = false → (bankOut s b = false ∨ testsBank s b = true) → Gives (.rechargeStart b) s (fun t =>
        bankAt t b = { x with charging := true } ∧ t.pins = { s.pins with ebk := setBit s.pins.ebk b } ∧ t.regs = s.regs)) ∧
    (∀ b : Fin 8, emiUp s = false ∨ (bankAt s b).due = none → Gives (.rechargeStart b) s (fun t => t = s)) ∧
    (∀ (b : Fin 8) (v dur energy : Nat), (bankAt s b).charging = false → Gives (.rechargeEnd b v dur energy) s (fun t => t = s)) ∧
    (∀ (b : Fin 8) (v dur energy : Nat), (bankAt s b).charging = true →
      (s.get (F.EMI_BANK_CFG_VSET b) ≤ v → Gives (.rechargeEnd b v dur energy) s (fun t =>
        t.get (F.EMI_BANK_STAT_VLAST b) = v % 2 ^ (F.EMI_BANK_STAT_VLAST b).width ∧ (bankAt t b).charging = false ∧
        (bankAt t b).due = none ∧ (bankAt t b).run = 0 ∧ (bankAt t b).acc = (bankAt s b).acc + energy ∧
        t.pins = { s.pins with ebk := clearBit s.pins.ebk b } ∧
        RegFrame [F.EMI_BANK_STAT_VLAST b, F.EMI_BANK_STAT_RCH_EST b] s t)) ∧
      (v < s.get (F.EMI_BANK_CFG_VSET b) → 2 ≤ (bankAt s b).run → bankOut s b = false → Gives (.rechargeEnd b v dur energy) s (fun t =>
        t.get (F.EMI_BANK_STAT_WITHDRAWN b) = 1 ∧ t.get (F.EMI_BANK_STAT_CAUSE b) = 4 ∧ (bankAt t b).charging = false ∧
        t.mode = s.mode))) ∧
    (∀ (b : Fin 8) (code : Nat), emiUp s = true → s.get (F.EMI_BANK_CFG_VOV b) < code → code ≤ 0xFBF → bankOut s b = false →
      Gives (.bankOvervoltage b code) s (fun t => t.get (F.EMI_BANK_STAT_WITHDRAWN b) = 1 ∧ t.get (F.EMI_BANK_STAT_CAUSE b) = 5 ∧
        (bankAt t b).charging = false ∧ t.pins.ebk.testBit b = false ∧ t.mode = s.mode)) ∧
    (∀ (b : Fin 8) (code : Nat), emiUp s = true → code ≤ s.get (F.EMI_BANK_CFG_VOV b) → 0x040 ≤ code → code ≤ 0xFBF →
      Gives (.bankOvervoltage b code) s (fun t => (bankAt t b).range = false ∧ t.regs = s.regs ∧ t.pins = s.pins)) ∧
    (emiUp s = true → s.flag F.EMI_CTRL_SWEEP_EN = true →
      (∀ l : List Nat, l = ((List.range 8).filter fun b => !bankOut s b).foldl (fun l b => l ++ bankCells s b) [] →
        s.emi.sweeping = false → Gives .sweepPeriod s (fun t => t = { s with emi := t.emi } ∧
          t.emi = { s.emi with sweep := l, sweeping := !l.isEmpty })) ∧
      (s.emi.sweeping = true → Gives .sweepPeriod s (fun t => t.get F.EMI_STATUS_SWEEP_LATE = 1 ∧ t.emi = s.emi ∧
        RegFrame (F.EMI_STATUS_SWEEP_LATE :: faultFields 0) s t))) ∧
    (emiUp s = true → s.flag F.EMI_CTRL_SWEEP_EN = false → Gives .sweepPeriod s (fun t =>
      t = { s with emi := { s.emi with sweep := [], sweeping := false } })) ∧
    (emiUp s = false → Gives .sweepPeriod s (fun t => t = s)) ∧
    (∀ b : Fin 8, s.mode = .scan → bankOut s b = true → bit (s.get F.EMI_BANK_EN_EN) b = true → bankCells s b ≠ [] →
      bit (s.get F.EMI_BANK_EN_RETRY) b = false → ∀ w : Fin 256, w.val = 2 ^ b.val → Gives (.emiBankRetry w) s (fun t =>
        (t.get F.EMI_BANK_EN_RETRY).testBit b = true ∧ t.emi.retry = s.emi.retry ++ bankCells s b ∧
        RegFrame [F.EMI_BANK_EN_RETRY] s t ∧ t.mode = s.mode)) ∧
    (∀ w : Fin 256, s.mode ≠ .scan → Gives (.emiBankRetry w) s (fun t => t = s)) ∧
    (∀ value : Dword, committed s = false → F.EMI_BANK_EN_RETRY.of value.toNat = 0 →
      (s.mode.scanning = true → Gives (.emiBankEnWrite value) s (fun t => t = { s with hold := t.hold } ∧
        t.hold = s.hold ++ [⟨false, F.EMI_BANK_EN_EN, F.EMI_BANK_EN_EN.of value.toNat⟩])) ∧
      (s.mode.scanning = false → Gives (.emiBankEnWrite value) s (fun t => t.get F.EMI_BANK_EN_EN = F.EMI_BANK_EN_EN.of value.toNat ∧
        t.mode = s.mode ∧ ∀ b < 8, bit (F.EMI_BANK_EN_EN.of value.toNat) b = false →
          bankOut t b = true ∧ t.get (F.EMI_BANK_STAT_CAUSE b) = 6))) ∧
    (∀ (value : Dword) (b : Fin 8), bit (F.EMI_BANK_EN_RETRY.of value.toNat) b = true → bankOut s b = false →
      Gives (.emiBankEnWrite value) s (fun t => t = s)) ∧
    (∀ (b : Fin 8) (current : Nat), emiUp s = true → s.get (F.EMI_BANK_CELL_CELL_CODE b) < 4 * current →
      Gives (.strayCurrent b current) s (fun t => t.get F.EMI_STATUS_INHIBIT = 1 ∧
        t.get F.EMI_STATUS_CAUSE = 2 ∧ t.pins.erow = 0 ∧ t.pins.ecol = 0 ∧ t.pins.ebk = 0 ∧ t.emi.stray.testBit b = true ∧ t.mode = s.mode)) ∧
    (∀ (b : Fin 8) (current : Nat), emiUp s = false ∨ 4 * current ≤ s.get (F.EMI_BANK_CELL_CELL_CODE b) →
      Gives (.strayCurrent b current) s (fun t => t = { s with emi := { s.emi with stray := clearBit s.emi.stray b } })) ∧
    (s.flag F.EMI_STATUS_INHIBIT = true → Gives .emiInhibitClear s (fun t => t.get F.EMI_STATUS_INHIBIT = 0 ∧
      t.get F.EMI_STATUS_CAUSE = 0 ∧ RegFrame [F.EMI_STATUS_INHIBIT, F.EMI_STATUS_CAUSE] s t ∧
      t.emi = { s.emi with clearing := true })) ∧
    (s.flag F.EMI_STATUS_INHIBIT = false → Gives .emiInhibitClear s (fun t => t = s)) ∧
    (hgeUp s = true → Gives .heatModelTick s (fun t => ∀ b < 8, (bankAt t b).acc = 0 ∧
      (bankAt t b).dT = heatStep s b (bankAt s b) ∧
      t.get (F.SCH_BANK_STAT_F b) = bankDerate s (heatStep s b (bankAt s b)) % 2 ^ (F.SCH_BANK_STAT_F b).width))

/-- R368 to R375: lamp-board temperatures and floodlights. -/
def Obligations.FloodlightsAndLampBoard : Prop :=
  ∀ s : State,
    (∀ (k : Fin 2) (l : List Nat), emiUp s = false → Gives (.lbtMean k l) s (fun t => t = s)) ∧
    (∀ (k : Fin 2) (l : List Nat) (code : Nat), code = divRound (l.foldl (· + ·) 0) 16 → emiUp s = true →
      (code < 0x010 ∨ 0xFF0 < code) → Gives (.lbtMean k l) s (fun t =>
      t.get (F.EMI_LBT_CODE k) = code % 2 ^ 12 ∧ t.get (F.EMI_LBT_VALID k) = 0 ∧ t.emi.lbtRun = putAt s.emi.lbtRun k 16 16 ∧ t.mode = s.mode ∧
      (k = 1 → s.flag (F.EMI_LBT_VALID 1) = true → t.get F.EMI_FL_STAT_FAULT = 1 ∧ t.get F.EMI_FL_STAT_CAUSE = 3 ∧ t.pins.fls = 0))) ∧
    (∀ (k : Fin 2) (l : List Nat) (code : Nat) (x : Int), code = divRound (l.foldl (· + ·) 0) 16 → emiUp s = true → lbtConfigured s k = true → 0x010 ≤ code → code ≤ 0xFF0 →
      lbtTemp (s.get (F.EMI_LBT_CFG_R0_RATIO k)) (s.get (F.EMI_LBT_CFG_BETA k)) code = some x → Gives (.lbtMean k l) s (fun t =>
        t.get (F.EMI_LBT_CODE k) = code % 2 ^ 12 ∧ t.get (F.EMI_LBT_TEMP k) = toBits 16 x % 2 ^ 16 ∧ t.emi.lbtRun = putAt s.emi.lbtRun k 16 (s.emi.lbtRun.getD k 16 - 1) ∧
        (s.emi.lbtRun.getD k 16 ≤ 1 → t.get (F.EMI_LBT_VALID k) = 1) ∧ t.mode = s.mode)) ∧
    (∀ value : Dword, Gives (.emiFlCtrlWrite value) s (fun t => t.get F.EMI_FL_CTRL_EN = b2n (bit value.toNat 0) ∧
      t.get F.EMI_FL_CTRL_FREQ = bits value.toNat 2 2 ∧ t.get F.EMI_FL_CTRL_DIAG_EN = b2n (bit value.toNat 4) ∧
      RegFrame [F.EMI_FL_CTRL_EN, F.EMI_FL_CTRL_FREQ, F.EMI_FL_CTRL_DIAG_EN] s t ∧
      (bit value.toNat 0 = false → ∀ n < 4, (stringAt t n).on = false ∧ t.pins.fls.testBit n = false) ∧
      (bit value.toNat 0 = true → s.flag F.EMI_FL_STAT_FAULT = false → t.emi.flOff = false))) ∧
    (∀ (n : Fin 4) (value : Dword) (d : Nat), d = (F.EMI_FL_DUTY n).of value.toNat →
      (1000 < d → Gives (.emiFlDutyWrite n value) s (fun t => t = s)) ∧
      (d ≤ 1000 → Gives (.emiFlDutyWrite n value) s (fun t => t.get (F.EMI_FL_DUTY n) = d ∧ RegsOnly [F.EMI_FL_DUTY n] s t))) ∧
    (∀ (n : Fin 4) (d : Nat), d = s.get (F.EMI_FL_DUTY n) * (flDerate s).1 / (flDerate s).2 → emiUp s = true →
      s.flag F.EMI_FL_CTRL_EN = true → s.emi.flOff = false → (n.val = 0 ∨ s.emi.flWait = false) → d ≠ 0 →
      Gives (.floodOnTime n true) s (fun t =>
        stringAt t n = { stringAt s n with duty := d, on := true, pulse := (stringAt s n).diag, diag := false } ∧ t.pins = { s.pins with fls := setBit s.pins.fls n } ∧
        t.regs = s.regs)) ∧
    (∀ n : Fin 4, n.val ≠ 0 → s.emi.flOff = true ∨ s.emi.flWait = true → Gives (.floodOnTime n true) s (fun t =>
      (stringAt t n).on = false ∧ t.pins = { s.pins with fls := clearBit s.pins.fls n } ∧ t.regs = s.regs)) ∧
    (∀ n : Fin 4, (stringAt s n).on = true → Gives (.floodOnTime n false) s (fun t =>
      stringAt t n = { stringAt s n with on := false, pulse := false } ∧ t.pins = { s.pins with fls := clearBit s.pins.fls n } ∧
      t.regs = s.regs)) ∧
    (∀ (n : Fin 4) (sample : Nat), (stringAt s n).on = false → Gives (.floodOpenCheck n sample) s (fun t => t = s)) ∧
    (∀ (n : Fin 4) (sample : Nat), (stringAt s n).on = true →
      (s.get F.EMI_FL_LIM_OVER_TH < sample → Gives (.floodOpenCheck n sample) s (fun t => t.get F.EMI_FL_STAT_FAULT = 1 ∧
        t.get F.EMI_FL_STAT_CAUSE = 2 ∧ t.get F.EMI_FL_STAT_STRING = n ∧ t.pins = { s.pins with fls := 0 } ∧ t.emi.flOff = true ∧
        RegFrame ([F.EMI_FL_STAT_FAULT, F.EMI_FL_STAT_CAUSE, F.EMI_FL_STAT_STRING] ++ faultFields 2) s t)) ∧
      (sample ≤ s.get F.EMI_FL_LIM_OVER_TH → 2000 ≤ onTimeNs s (stringAt s n) →
        (s.get F.EMI_FL_LIM_OPEN_TH ≤ sample → Gives (.floodOpenCheck n sample) s (fun t => (stringAt t n).fails = 0 ∧
          (t.get F.EMI_FL_STAT_UNVERIFIED).testBit n = false ∧ RegFrame [F.EMI_FL_STAT_UNVERIFIED] s t)) ∧
        (sample < s.get F.EMI_FL_LIM_OPEN_TH → (stringAt s n).fails = 0 → Gives (.floodOpenCheck n sample) s (fun t =>
          (stringAt t n).fails = 1 ∧ t.regs = s.regs)) ∧
        (sample < s.get F.EMI_FL_LIM_OPEN_TH → 1 ≤ (stringAt s n).fails → Gives (.floodOpenCheck n sample) s (fun t =>
          t.get F.EMI_FL_STAT_FAULT = 1 ∧ t.get F.EMI_FL_STAT_CAUSE = 1 ∧ t.get F.EMI_FL_STAT_STRING = n ∧
          t.pins = { s.pins with fls := 0 } ∧ t.emi.flOff = true)))) ∧
    (∀ n : Fin 4, (stringAt s n).duty ≠ 0 → s.flag F.EMI_FL_CTRL_EN = true → s.emi.flOff = false → emiUp s = true →
      (s.flag F.EMI_FL_CTRL_DIAG_EN = true → Gives (.floodDiagTimeout n) s (fun t => (stringAt t n).diag = true ∧ t.regs = s.regs)) ∧
      (s.flag F.EMI_FL_CTRL_DIAG_EN = false → Gives (.floodDiagTimeout n) s (fun t =>
        (t.get F.EMI_FL_STAT_UNVERIFIED).testBit n = true ∧ RegFrame (F.EMI_FL_STAT_UNVERIFIED :: faultFields 0) s t ∧
        t.emi = s.emi))) ∧
    (∀ (n : Fin 4) (sample : Nat),
      (emiUp s = true → s.get F.EMI_FL_LIM_OVER_TH < sample → Gives (.floodSwitchOff n sample) s (fun t =>
        t.get F.EMI_FL_STAT_FAULT = 1 ∧ t.get F.EMI_FL_STAT_CAUSE = 2 ∧ t.get F.EMI_FL_STAT_STRING = n ∧
        t.pins = { s.pins with fls := 0 } ∧ t.emi.flOff = true)) ∧
      (sample ≤ s.get F.EMI_FL_LIM_OVER_TH → Gives (.floodSwitchOff n sample) s (fun t => t = s)))

/-- R431, R438 to R451, R454, R455: the housekeeping converters and the heartbeat. -/
def Obligations.HousekeepingConverters : Prop :=
  ∀ s : State,
    (∀ (d : Side) (y : HkSample), converts s (convIx d) = false → Gives (.hkConversion d y) s (fun t => t = s)) ∧
    (∀ (d : Side) (y : HkSample), converts s (convIx d) = true → (convAt s (convIx d)).insert = true →
      Gives (.hkConversion d y) s (fun t => convAt t (convIx d) = { convAt s (convIx d) with insert := false, after := false } ∧
        t = { s with hkc := t.hkc })) ∧
    (∀ (d : Side) (y : HkSample), (convAt s (convIx d)).insert = false →
      (convAt s (convIx d)).loop = true ∨ (convAt s (convIx d)).host ≠ [] → Gives (.hkConversion d y) s (fun t => t = s)) ∧
    (∀ (d : Side) (y : HkSample) (x e code : Nat) (ovr : Bool), x = convIx d → converts s x = true → (convAt s x).insert = false →
      (convAt s x).loop = false → (convAt s x).host = [] → hkHeard s x = true → e = (convAt s x).next → 0 < e → e ≤ lenNow s x → e < 32 → bit (seqNow s x e) 16 = false →
      inputCode s (bits (seqNow s x e) 0 6) y.uv = (code, ovr) → Gives (.hkConversion d y) s (fun t =>
        t.get (F.HKC_MM_MIN x e) = min code (s.get (F.HKC_MM_MIN x e)) % 2 ^ (F.HKC_MM_MIN x e).width ∧
        t.get (F.HKC_MM_MAX x e) = max code (s.get (F.HKC_MM_MAX x e)) % 2 ^ (F.HKC_MM_MAX x e).width ∧
        (convAt t x).next = (if lenNow s x = e then 0 else e + 1) ∧
        (convAt t x).after = ovr ∧ (convAt t x).insert = (ovr && bit (seqNow s x e) 17) ∧
        (s.flag (F.HKC_CAL_BGCAL_EN x) = true → (convAt t x).bg = ((convAt s x).bg + 1) % bgPeriod) ∧ t.mode = s.mode)) ∧
    (hkUp s = true → Gives (.hkInjectRequest .a true) s (fun t => convAt t 0 = { convAt s 0 with loop := true } ∧
      t = { s with hkc := t.hkc })) ∧
    (∀ (d : Side) (x : Nat), x = convIx d → hkUp s = true →
      ((convAt s x).host.length + b2n (convAt s x).loop < 4 → Gives (.hkInjectRequest d false) s (fun t =>
        convAt t x = { convAt s x with host := (convAt s x).host ++ [s.get (F.HKC_INJ_INPUT x)] } ∧
        t.get (F.HKC_INJ_GO x) = 1 ∧ RegFrame [F.HKC_INJ_GO x] s t)) ∧
      (4 ≤ (convAt s x).host.length + b2n (convAt s x).loop → Gives (.hkInjectRequest d false) s (fun t =>
        t.get (F.HKC_INJ_INJ_LOST x) = 1 ∧ RegsOnly [F.HKC_INJ_INJ_LOST x] s t))) ∧
    (∀ (d : Side) (uv : Int) (x code : Nat) (ovr : Bool), x = convIx d → converts s x = true → (convAt s x).insert = false →
      ((convAt s x).loop = true → inputCode s 27 uv = (code, ovr) → Gives (.hkInjection d uv) s (fun t =>
        t.rxf = { s.rxf with tAd := dieTemp code } ∧ (convAt t x).loop = false ∧ RegFrame [F.HKC_OVR_CNT x] s t)) ∧
      (∀ (input : Nat) (r : List Nat), (convAt s x).loop = false → (convAt s x).host = input :: r →
        hkHeard s x = true → inputCode s input uv = (code, ovr) → Gives (.hkInjection d uv) s (fun t => t.get (F.HKC_INJ_RES_VALID x) = 1 ∧
          t.get (F.HKC_INJ_RES_CODE x) = code % 2 ^ (F.HKC_INJ_RES_CODE x).width ∧ t.get (F.HKC_INJ_RES_OVR x) = b2n ovr ∧
          t.get (F.HKC_INJ_RES_AFTER_OVR x) = b2n (convAt s x).after ∧ t.get (F.HKC_INJ_GO x) = b2n (!r.isEmpty) ∧
          convAt t x = { convAt s x with host := r, after := ovr }))) ∧
    (∀ (d : Side) (value : Dword) (x : Nat), x = convIx d → Gives (.hkcMmClrWrite d value) s (fun t => t = { s with regs := t.regs } ∧
      ∀ e < 32, (bit value.toNat e = true → t.get (F.HKC_MM_MIN x e) = 0xFFF ∧ t.get (F.HKC_MM_MAX x e) = 0) ∧
        (bit value.toNat e = false → t.get (F.HKC_MM_MIN x e) = s.get (F.HKC_MM_MIN x e) ∧
          t.get (F.HKC_MM_MAX x e) = s.get (F.HKC_MM_MAX x e)))) ∧
    (∀ (d : Side) (x : Nat), x = convIx d →
      (hkUp s = true → Gives (.hkSelfcal d) s (fun t => t.get (F.HKC_CAL_CAL_BUSY x) = 1 ∧
        t.get (F.HKC_CAL_SELFCAL x) = 1 ∧ RegsOnly [F.HKC_CAL_SELFCAL x, F.HKC_CAL_CAL_BUSY x] s t)) ∧
      (s.flag (F.HKC_CAL_CAL_BUSY x) = true →
        (∀ l : List Int, l.length = 13 → (∀ m ∈ l, m.natAbs ≤ 8) → Gives (.hkSelfcalDone d l) s (fun t => t.get (F.HKC_CAL_CAL_BUSY x) = 0 ∧ t.get (F.HKC_CAL_SELFCAL x) = 0 ∧
          RegFrame [F.HKC_CAL_SELFCAL x, F.HKC_CAL_CAL_BUSY x] s t ∧ t = { s with regs := t.regs, hkc := t.hkc } ∧
          ∀ n < 13, (l.getD n 0).natAbs ≤ 2 → (convAt t x).weights.getD n 0 = (convAt s x).weights.getD n 0 + l.getD n 0)) ∧
        (∀ l : List Int, l.length = 13 → (∃ m ∈ l, 8 < m.natAbs) → Gives (.hkSelfcalDone d l) s (fun t => t.get (F.HKC_CAL_CAL_BUSY x) = 0 ∧ t.get (F.HKC_CAL_SLICE_ERR x) = 1 ∧
          RegFrame ([F.HKC_CAL_SELFCAL x, F.HKC_CAL_CAL_BUSY x, F.HKC_CAL_SLICE_ERR x] ++ faultFields 2) s t ∧ t.mode = s.mode))) ∧
      (hkUp s = true → Gives (.refBufferOn d) s (fun t => t.get (F.HKC_CAL_REF_ON x) = 1 ∧ RegsOnly [F.HKC_CAL_REF_ON x] s t)) ∧
      (hkUp s = true → s.flag (F.HKC_CAL_REF_LP x) = true → s.saf.armed = false → restsLong s x = true → s.flag (F.HKC_CAL_CAL_BUSY x) = false → Gives (.refBufferOff d) s (fun t =>
          t.get (F.HKC_CAL_REF_ON x) = 0 ∧ RegsOnly [F.HKC_CAL_REF_ON x] s t)) ∧
      (s.saf.armed = true → Gives (.refBufferOff d) s (fun t => t = s))) ∧
    (∀ upset : Bool, safUp s = false → Gives (.heartbeat upset) s (fun t => t = s)) ∧
    (safUp s = true → (∀ k < 8, s.flag (F.HKC_XCMP_EN k) = false) →
      (evaluatorsDiffer s = false → Gives (.heartbeat false) s (fun t => t.regs = s.regs ∧ t.mode = s.mode ∧
        t.saf = { s.saf with hbMiss := false })) ∧
      (s.saf.hbMiss = false → Gives (.heartbeat true) s (fun t => t.saf = { s.saf with hbMiss := true } ∧ t.mode = s.mode ∧
        t.get F.SAF_XCMP_MISMATCH_CNT = (s.inc F.SAF_XCMP_MISMATCH_CNT).get F.SAF_XCMP_MISMATCH_CNT ∧
        RegFrame [F.SAF_XCMP_MISMATCH_CNT] s t)) ∧
      (s.saf.hbMiss = true → s.mode = .scan → Gives (.heartbeat true) s (fun t => t.mode = .lockout ∧
        t.get F.SAF_STATUS_LOCK_CAUSE = 2 ∧ t.get F.SAF_XCMP_HB_FAIL = 1 ∧
        RegFrame (F.SAF_XCMP_MISMATCH_CNT :: F.SAF_XCMP_HB_FAIL :: f3Fields) s t ∧ ∀ d : Side, ∀ n < 4, (t.ev d).pair n ≠ .on)))

/-- R155: the check value, and that of no bytes. -/
def Obligations.CrcCheckValue : Prop :=
  crc32c (([0x31, 0x32, 0x33, 0x34, 0x35, 0x36, 0x37, 0x38, 0x39] : List Nat).map fun n => (BitVec.ofNat 8 n : Byte)) = 0xE3069283 ∧
  crc32c [] = 0
end

