-- ==== Sys2Proof/Laws/State.lean ====
section
/-! SUPPORT. Every update of the state, field by field: what it sets and what it leaves, so that no proof unfolds a record
update. The register store is read and written through getReg and setReg. -/

namespace Sys2Proof.Machine

/-- A field read from a register store. -/
def getReg (l : List (Nat × Nat)) (f : Fld) : Nat := (lookupReg l f.key).getD f.reset

/-- A field written in a register store, cut to its width. -/
def setReg (l : List (Nat × Nat)) (f : Fld) (v : Nat) : List (Nat × Nat) := putReg l f (v % 2 ^ f.width)

theorem get_getReg (s : State) (f : Fld) : s.get f = getReg s.regs f := rfl

@[simp] theorem getReg_setReg (l : List (Nat × Nat)) (f : Fld) (v : Nat) : getReg (setReg l f v) f = v % 2 ^ f.width :=
  lookupReg_put_same l f _

theorem getReg_setReg_other (l : List (Nat × Nat)) {f g : Fld} (v : Nat) (h : g.key ≠ f.key) :
    getReg (setReg l f v) g = getReg l g := by
  simp only [getReg, setReg, lookupReg_put_other l f _ h]

/-! ### Register writes -/

@[simp] theorem State.set_regs (s : State) (f : Fld) (v : Nat) : (s.set f v).regs = setReg s.regs f v := rfl
@[simp] theorem State.set_mode (s : State) (f : Fld) (v : Nat) : (s.set f v).mode = s.mode := rfl
@[simp] theorem State.set_pending (s : State) (f : Fld) (v : Nat) : (s.set f v).pending = s.pending := rfl
@[simp] theorem State.set_faults (s : State) (f : Fld) (v : Nat) : (s.set f v).faults = s.faults := rfl
@[simp] theorem State.set_reactions (s : State) (f : Fld) (v : Nat) : (s.set f v).reactions = s.reactions := rfl
@[simp] theorem State.set_running (s : State) (f : Fld) (v : Nat) : (s.set f v).running = s.running := rfl
@[simp] theorem State.set_free (s : State) (f : Fld) (v : Nat) : (s.set f v).free = s.free := rfl
@[simp] theorem State.set_hold (s : State) (f : Fld) (v : Nat) : (s.set f v).hold = s.hold := rfl
@[simp] theorem State.set_aonFine (s : State) (f : Fld) (v : Nat) : (s.set f v).aonFine = s.aonFine := rfl
@[simp] theorem State.set_pins (s : State) (f : Fld) (v : Nat) : (s.set f v).pins = s.pins := rfl
@[simp] theorem State.set_fatalReset (s : State) (f : Fld) (v : Nat) : (s.set f v).fatalReset = s.fatalReset := rfl
@[simp] theorem State.set_sys (s : State) (f : Fld) (v : Nat) : (s.set f v).sys = s.sys := rfl
@[simp] theorem State.set_link (s : State) (f : Fld) (v : Nat) : (s.set f v).link = s.link := rfl
@[simp] theorem State.set_tx (s : State) (f : Fld) (v : Nat) : (s.set f v).tx = s.tx := rfl
@[simp] theorem State.set_sec (s : State) (f : Fld) (v : Nat) : (s.set f v).sec = s.sec := rfl
@[simp] theorem State.set_cmd (s : State) (f : Fld) (v : Nat) : (s.set f v).cmd = s.cmd := rfl
@[simp] theorem State.set_rxf (s : State) (f : Fld) (v : Nat) : (s.set f v).rxf = s.rxf := rfl
@[simp] theorem State.set_tdc (s : State) (f : Fld) (v : Nat) : (s.set f v).tdc = s.tdc := rfl
@[simp] theorem State.set_hge (s : State) (f : Fld) (v : Nat) : (s.set f v).hge = s.hge := rfl
@[simp] theorem State.set_yrd (s : State) (f : Fld) (v : Nat) : (s.set f v).yrd = s.yrd := rfl
@[simp] theorem State.set_sch (s : State) (f : Fld) (v : Nat) : (s.set f v).sch = s.sch := rfl
@[simp] theorem State.set_emi (s : State) (f : Fld) (v : Nat) : (s.set f v).emi = s.emi := rfl
@[simp] theorem State.set_thm (s : State) (f : Fld) (v : Nat) : (s.set f v).thm = s.thm := rfl
@[simp] theorem State.set_hkc (s : State) (f : Fld) (v : Nat) : (s.set f v).hkc = s.hkc := rfl
@[simp] theorem State.set_saf (s : State) (f : Fld) (v : Nat) : (s.set f v).saf = s.saf := rfl
@[simp] theorem State.set_red (s : State) (f : Fld) (v : Nat) : (s.set f v).red = s.red := rfl
@[simp] theorem State.set_acq (s : State) (f : Fld) (v : Nat) : (s.set f v).acq = s.acq := rfl
@[simp] theorem State.set_irq (s : State) (f : Fld) (v : Nat) : (s.set f v).irq = s.irq := rfl
@[simp] theorem State.set_prt (s : State) (f : Fld) (v : Nat) : (s.set f v).prt = s.prt := rfl
@[simp] theorem State.set_cal (s : State) (f : Fld) (v : Nat) : (s.set f v).cal = s.cal := rfl
@[simp] theorem State.put_set (s : State) (f : Fld) (b : Bool) : s.put f b = s.set f (b2n b) := rfl
@[simp] theorem State.inc_set (s : State) (f : Fld) : s.inc f = s.set f (min (s.get f + 1) (2 ^ f.width - 1)) := rfl
@[simp] theorem State.add_set (s : State) (f : Fld) (n : Nat) : s.add f n = s.set f (min (s.get f + n) (2 ^ f.width - 1)) :=
  rfl
@[simp] theorem State.setInt_set (s : State) (f : Fld) (x : Int) : s.setInt f x = s.set f (toBits f.width x) := rfl
@[simp] theorem startAt_set (s : State) (n : Nat) : startAt s n = s.set F.SYS_STATUS_STEP n := rfl

/-! ### What the shared operations can change -/

/-- The fault log, its queues and latch and the recorder's triggers may change, and nothing but them. -/
def Logs (s t : State) : Prop :=
  t = { s with regs := t.regs, faults := t.faults, reactions := t.reactions, acq := t.acq }

theorem Logs.eq {s t : State} (h : Logs s t) : t = { s with regs := t.regs, faults := t.faults, reactions := t.reactions, acq := t.acq } := h

theorem Logs.mode {s t : State} (h : Logs s t) : t.mode = s.mode := by rw [h.eq]
theorem Logs.pending {s t : State} (h : Logs s t) : t.pending = s.pending := by rw [h.eq]
theorem Logs.running {s t : State} (h : Logs s t) : t.running = s.running := by rw [h.eq]
theorem Logs.free {s t : State} (h : Logs s t) : t.free = s.free := by rw [h.eq]
theorem Logs.hold {s t : State} (h : Logs s t) : t.hold = s.hold := by rw [h.eq]
theorem Logs.aonFine {s t : State} (h : Logs s t) : t.aonFine = s.aonFine := by rw [h.eq]
theorem Logs.pins {s t : State} (h : Logs s t) : t.pins = s.pins := by rw [h.eq]
theorem Logs.fatalReset {s t : State} (h : Logs s t) : t.fatalReset = s.fatalReset := by rw [h.eq]
theorem Logs.sys {s t : State} (h : Logs s t) : t.sys = s.sys := by rw [h.eq]
theorem Logs.link {s t : State} (h : Logs s t) : t.link = s.link := by rw [h.eq]
theorem Logs.tx {s t : State} (h : Logs s t) : t.tx = s.tx := by rw [h.eq]
theorem Logs.sec {s t : State} (h : Logs s t) : t.sec = s.sec := by rw [h.eq]
theorem Logs.cmd {s t : State} (h : Logs s t) : t.cmd = s.cmd := by rw [h.eq]
theorem Logs.rxf {s t : State} (h : Logs s t) : t.rxf = s.rxf := by rw [h.eq]
theorem Logs.tdc {s t : State} (h : Logs s t) : t.tdc = s.tdc := by rw [h.eq]
theorem Logs.hge {s t : State} (h : Logs s t) : t.hge = s.hge := by rw [h.eq]
theorem Logs.yrd {s t : State} (h : Logs s t) : t.yrd = s.yrd := by rw [h.eq]
theorem Logs.sch {s t : State} (h : Logs s t) : t.sch = s.sch := by rw [h.eq]
theorem Logs.emi {s t : State} (h : Logs s t) : t.emi = s.emi := by rw [h.eq]
theorem Logs.thm {s t : State} (h : Logs s t) : t.thm = s.thm := by rw [h.eq]
theorem Logs.hkc {s t : State} (h : Logs s t) : t.hkc = s.hkc := by rw [h.eq]
theorem Logs.saf {s t : State} (h : Logs s t) : t.saf = s.saf := by rw [h.eq]
theorem Logs.red {s t : State} (h : Logs s t) : t.red = s.red := by rw [h.eq]
theorem Logs.irq {s t : State} (h : Logs s t) : t.irq = s.irq := by rw [h.eq]
theorem Logs.prt {s t : State} (h : Logs s t) : t.prt = s.prt := by rw [h.eq]
theorem Logs.cal {s t : State} (h : Logs s t) : t.cal = s.cal := by rw [h.eq]

theorem Logs.refl (s : State) : Logs s s := rfl

theorem Logs.trans {r s t : State} (h : Logs r s) (k : Logs s t) : Logs r t := by
  unfold Logs at *
  cases r; cases s; cases t
  simp_all only [State.mk.injEq]

theorem Logs.ite {r s t : State} {c : Prop} [Decidable c] (h : Logs r s) (k : Logs r t) : Logs r (if c then s else t) := by
  split <;> assumption

theorem Logs.set {s t : State} (h : Logs s t) (f : Fld) (v : Nat) : Logs s (t.set f v) := h.trans rfl

/-- The device state, the output pairs and the registers may change, and nothing else. -/
def Modes (s t : State) : Prop :=
  t = { s with regs := t.regs, mode := t.mode, saf := t.saf }

theorem Modes.eq {s t : State} (h : Modes s t) : t = { s with regs := t.regs, mode := t.mode, saf := t.saf } := h

theorem Modes.pending {s t : State} (h : Modes s t) : t.pending = s.pending := by rw [h.eq]
theorem Modes.faults {s t : State} (h : Modes s t) : t.faults = s.faults := by rw [h.eq]
theorem Modes.reactions {s t : State} (h : Modes s t) : t.reactions = s.reactions := by rw [h.eq]
theorem Modes.running {s t : State} (h : Modes s t) : t.running = s.running := by rw [h.eq]
theorem Modes.free {s t : State} (h : Modes s t) : t.free = s.free := by rw [h.eq]
theorem Modes.hold {s t : State} (h : Modes s t) : t.hold = s.hold := by rw [h.eq]
theorem Modes.aonFine {s t : State} (h : Modes s t) : t.aonFine = s.aonFine := by rw [h.eq]
theorem Modes.pins {s t : State} (h : Modes s t) : t.pins = s.pins := by rw [h.eq]
theorem Modes.fatalReset {s t : State} (h : Modes s t) : t.fatalReset = s.fatalReset := by rw [h.eq]
theorem Modes.sys {s t : State} (h : Modes s t) : t.sys = s.sys := by rw [h.eq]
theorem Modes.link {s t : State} (h : Modes s t) : t.link = s.link := by rw [h.eq]
theorem Modes.tx {s t : State} (h : Modes s t) : t.tx = s.tx := by rw [h.eq]
theorem Modes.sec {s t : State} (h : Modes s t) : t.sec = s.sec := by rw [h.eq]
theorem Modes.cmd {s t : State} (h : Modes s t) : t.cmd = s.cmd := by rw [h.eq]
theorem Modes.rxf {s t : State} (h : Modes s t) : t.rxf = s.rxf := by rw [h.eq]
theorem Modes.tdc {s t : State} (h : Modes s t) : t.tdc = s.tdc := by rw [h.eq]
theorem Modes.hge {s t : State} (h : Modes s t) : t.hge = s.hge := by rw [h.eq]
theorem Modes.yrd {s t : State} (h : Modes s t) : t.yrd = s.yrd := by rw [h.eq]
theorem Modes.sch {s t : State} (h : Modes s t) : t.sch = s.sch := by rw [h.eq]
theorem Modes.emi {s t : State} (h : Modes s t) : t.emi = s.emi := by rw [h.eq]
theorem Modes.thm {s t : State} (h : Modes s t) : t.thm = s.thm := by rw [h.eq]
theorem Modes.hkc {s t : State} (h : Modes s t) : t.hkc = s.hkc := by rw [h.eq]
theorem Modes.red {s t : State} (h : Modes s t) : t.red = s.red := by rw [h.eq]
theorem Modes.acq {s t : State} (h : Modes s t) : t.acq = s.acq := by rw [h.eq]
theorem Modes.irq {s t : State} (h : Modes s t) : t.irq = s.irq := by rw [h.eq]
theorem Modes.prt {s t : State} (h : Modes s t) : t.prt = s.prt := by rw [h.eq]
theorem Modes.cal {s t : State} (h : Modes s t) : t.cal = s.cal := by rw [h.eq]

theorem Modes.refl (s : State) : Modes s s := rfl

theorem Modes.trans {r s t : State} (h : Modes r s) (k : Modes s t) : Modes r t := by
  unfold Modes at *
  cases r; cases s; cases t
  simp_all only [State.mk.injEq]

theorem Modes.ite {r s t : State} {c : Prop} [Decidable c] (h : Modes r s) (k : Modes r t) : Modes r (if c then s else t) := by
  split <;> assumption

theorem Modes.set {s t : State} (h : Modes s t) (f : Fld) (v : Nat) : Modes s (t.set f v) := h.trans rfl

/-- What a fault of class F3 can change may change, and nothing else. -/
def Reacts (s t : State) : Prop :=
  t = { s with regs := t.regs, mode := t.mode, faults := t.faults, reactions := t.reactions, acq := t.acq, saf := t.saf, pins := t.pins, fatalReset := t.fatalReset }

theorem Reacts.eq {s t : State} (h : Reacts s t) : t = { s with regs := t.regs, mode := t.mode, faults := t.faults, reactions := t.reactions, acq := t.acq, saf := t.saf, pins := t.pins, fatalReset := t.fatalReset } := h

theorem Reacts.pending {s t : State} (h : Reacts s t) : t.pending = s.pending := by rw [h.eq]
theorem Reacts.running {s t : State} (h : Reacts s t) : t.running = s.running := by rw [h.eq]
theorem Reacts.free {s t : State} (h : Reacts s t) : t.free = s.free := by rw [h.eq]
theorem Reacts.hold {s t : State} (h : Reacts s t) : t.hold = s.hold := by rw [h.eq]
theorem Reacts.aonFine {s t : State} (h : Reacts s t) : t.aonFine = s.aonFine := by rw [h.eq]
theorem Reacts.sys {s t : State} (h : Reacts s t) : t.sys = s.sys := by rw [h.eq]
theorem Reacts.link {s t : State} (h : Reacts s t) : t.link = s.link := by rw [h.eq]
theorem Reacts.tx {s t : State} (h : Reacts s t) : t.tx = s.tx := by rw [h.eq]
theorem Reacts.sec {s t : State} (h : Reacts s t) : t.sec = s.sec := by rw [h.eq]
theorem Reacts.cmd {s t : State} (h : Reacts s t) : t.cmd = s.cmd := by rw [h.eq]
theorem Reacts.rxf {s t : State} (h : Reacts s t) : t.rxf = s.rxf := by rw [h.eq]
theorem Reacts.tdc {s t : State} (h : Reacts s t) : t.tdc = s.tdc := by rw [h.eq]
theorem Reacts.hge {s t : State} (h : Reacts s t) : t.hge = s.hge := by rw [h.eq]
theorem Reacts.yrd {s t : State} (h : Reacts s t) : t.yrd = s.yrd := by rw [h.eq]
theorem Reacts.sch {s t : State} (h : Reacts s t) : t.sch = s.sch := by rw [h.eq]
theorem Reacts.emi {s t : State} (h : Reacts s t) : t.emi = s.emi := by rw [h.eq]
theorem Reacts.thm {s t : State} (h : Reacts s t) : t.thm = s.thm := by rw [h.eq]
theorem Reacts.hkc {s t : State} (h : Reacts s t) : t.hkc = s.hkc := by rw [h.eq]
theorem Reacts.red {s t : State} (h : Reacts s t) : t.red = s.red := by rw [h.eq]
theorem Reacts.irq {s t : State} (h : Reacts s t) : t.irq = s.irq := by rw [h.eq]
theorem Reacts.prt {s t : State} (h : Reacts s t) : t.prt = s.prt := by rw [h.eq]
theorem Reacts.cal {s t : State} (h : Reacts s t) : t.cal = s.cal := by rw [h.eq]

theorem Reacts.refl (s : State) : Reacts s s := rfl

theorem Reacts.trans {r s t : State} (h : Reacts r s) (k : Reacts s t) : Reacts r t := by
  unfold Reacts at *
  cases r; cases s; cases t
  simp_all only [State.mk.injEq]

theorem Reacts.ite {r s t : State} {c : Prop} [Decidable c] (h : Reacts r s) (k : Reacts r t) : Reacts r (if c then s else t) := by
  split <;> assumption

theorem Reacts.set {s t : State} (h : Reacts s t) (f : Fld) (v : Nat) : Reacts s (t.set f v) := h.trans rfl

/-- What a fault of class F4 can change may change, and nothing else. -/
def Fatals (s t : State) : Prop :=
  t = { s with regs := t.regs, mode := t.mode, faults := t.faults, reactions := t.reactions, acq := t.acq, saf := t.saf, pins := t.pins, fatalReset := t.fatalReset, sys := t.sys, sch := t.sch }

theorem Fatals.eq {s t : State} (h : Fatals s t) : t = { s with regs := t.regs, mode := t.mode, faults := t.faults, reactions := t.reactions, acq := t.acq, saf := t.saf, pins := t.pins, fatalReset := t.fatalReset, sys := t.sys, sch := t.sch } := h

theorem Fatals.pending {s t : State} (h : Fatals s t) : t.pending = s.pending := by rw [h.eq]
theorem Fatals.running {s t : State} (h : Fatals s t) : t.running = s.running := by rw [h.eq]
theorem Fatals.free {s t : State} (h : Fatals s t) : t.free = s.free := by rw [h.eq]
theorem Fatals.hold {s t : State} (h : Fatals s t) : t.hold = s.hold := by rw [h.eq]
theorem Fatals.aonFine {s t : State} (h : Fatals s t) : t.aonFine = s.aonFine := by rw [h.eq]
theorem Fatals.link {s t : State} (h : Fatals s t) : t.link = s.link := by rw [h.eq]
theorem Fatals.tx {s t : State} (h : Fatals s t) : t.tx = s.tx := by rw [h.eq]
theorem Fatals.sec {s t : State} (h : Fatals s t) : t.sec = s.sec := by rw [h.eq]
theorem Fatals.cmd {s t : State} (h : Fatals s t) : t.cmd = s.cmd := by rw [h.eq]
theorem Fatals.rxf {s t : State} (h : Fatals s t) : t.rxf = s.rxf := by rw [h.eq]
theorem Fatals.tdc {s t : State} (h : Fatals s t) : t.tdc = s.tdc := by rw [h.eq]
theorem Fatals.hge {s t : State} (h : Fatals s t) : t.hge = s.hge := by rw [h.eq]
theorem Fatals.yrd {s t : State} (h : Fatals s t) : t.yrd = s.yrd := by rw [h.eq]
theorem Fatals.emi {s t : State} (h : Fatals s t) : t.emi = s.emi := by rw [h.eq]
theorem Fatals.thm {s t : State} (h : Fatals s t) : t.thm = s.thm := by rw [h.eq]
theorem Fatals.hkc {s t : State} (h : Fatals s t) : t.hkc = s.hkc := by rw [h.eq]
theorem Fatals.red {s t : State} (h : Fatals s t) : t.red = s.red := by rw [h.eq]
theorem Fatals.irq {s t : State} (h : Fatals s t) : t.irq = s.irq := by rw [h.eq]
theorem Fatals.prt {s t : State} (h : Fatals s t) : t.prt = s.prt := by rw [h.eq]
theorem Fatals.cal {s t : State} (h : Fatals s t) : t.cal = s.cal := by rw [h.eq]

theorem Fatals.refl (s : State) : Fatals s s := rfl

theorem Fatals.trans {r s t : State} (h : Fatals r s) (k : Fatals s t) : Fatals r t := by
  unfold Fatals at *
  cases r; cases s; cases t
  simp_all only [State.mk.injEq]

theorem Fatals.ite {r s t : State} {c : Prop} [Decidable c] (h : Fatals r s) (k : Fatals r t) : Fatals r (if c then s else t) := by
  split <;> assumption

theorem Fatals.set {s t : State} (h : Fatals s t) (f : Fld) (v : Nat) : Fatals s (t.set f v) := h.trans rfl

/-- Commands, their completions and the registers may change, and nothing else. -/
def Completes (s t : State) : Prop :=
  t = { s with regs := t.regs, cmd := t.cmd }

theorem Completes.eq {s t : State} (h : Completes s t) : t = { s with regs := t.regs, cmd := t.cmd } := h

theorem Completes.mode {s t : State} (h : Completes s t) : t.mode = s.mode := by rw [h.eq]
theorem Completes.pending {s t : State} (h : Completes s t) : t.pending = s.pending := by rw [h.eq]
theorem Completes.faults {s t : State} (h : Completes s t) : t.faults = s.faults := by rw [h.eq]
theorem Completes.reactions {s t : State} (h : Completes s t) : t.reactions = s.reactions := by rw [h.eq]
theorem Completes.running {s t : State} (h : Completes s t) : t.running = s.running := by rw [h.eq]
theorem Completes.free {s t : State} (h : Completes s t) : t.free = s.free := by rw [h.eq]
theorem Completes.hold {s t : State} (h : Completes s t) : t.hold = s.hold := by rw [h.eq]
theorem Completes.aonFine {s t : State} (h : Completes s t) : t.aonFine = s.aonFine := by rw [h.eq]
theorem Completes.pins {s t : State} (h : Completes s t) : t.pins = s.pins := by rw [h.eq]
theorem Completes.fatalReset {s t : State} (h : Completes s t) : t.fatalReset = s.fatalReset := by rw [h.eq]
theorem Completes.sys {s t : State} (h : Completes s t) : t.sys = s.sys := by rw [h.eq]
theorem Completes.link {s t : State} (h : Completes s t) : t.link = s.link := by rw [h.eq]
theorem Completes.tx {s t : State} (h : Completes s t) : t.tx = s.tx := by rw [h.eq]
theorem Completes.sec {s t : State} (h : Completes s t) : t.sec = s.sec := by rw [h.eq]
theorem Completes.rxf {s t : State} (h : Completes s t) : t.rxf = s.rxf := by rw [h.eq]
theorem Completes.tdc {s t : State} (h : Completes s t) : t.tdc = s.tdc := by rw [h.eq]
theorem Completes.hge {s t : State} (h : Completes s t) : t.hge = s.hge := by rw [h.eq]
theorem Completes.yrd {s t : State} (h : Completes s t) : t.yrd = s.yrd := by rw [h.eq]
theorem Completes.sch {s t : State} (h : Completes s t) : t.sch = s.sch := by rw [h.eq]
theorem Completes.emi {s t : State} (h : Completes s t) : t.emi = s.emi := by rw [h.eq]
theorem Completes.thm {s t : State} (h : Completes s t) : t.thm = s.thm := by rw [h.eq]
theorem Completes.hkc {s t : State} (h : Completes s t) : t.hkc = s.hkc := by rw [h.eq]
theorem Completes.saf {s t : State} (h : Completes s t) : t.saf = s.saf := by rw [h.eq]
theorem Completes.red {s t : State} (h : Completes s t) : t.red = s.red := by rw [h.eq]
theorem Completes.acq {s t : State} (h : Completes s t) : t.acq = s.acq := by rw [h.eq]
theorem Completes.irq {s t : State} (h : Completes s t) : t.irq = s.irq := by rw [h.eq]
theorem Completes.prt {s t : State} (h : Completes s t) : t.prt = s.prt := by rw [h.eq]
theorem Completes.cal {s t : State} (h : Completes s t) : t.cal = s.cal := by rw [h.eq]

theorem Completes.refl (s : State) : Completes s s := rfl

theorem Completes.trans {r s t : State} (h : Completes r s) (k : Completes s t) : Completes r t := by
  unfold Completes at *
  cases r; cases s; cases t
  simp_all only [State.mk.injEq]

theorem Completes.ite {r s t : State} {c : Prop} [Decidable c] (h : Completes r s) (k : Completes r t) : Completes r (if c then s else t) := by
  split <;> assumption

theorem Completes.set {s t : State} (h : Completes s t) (f : Fld) (v : Nat) : Completes s (t.set f v) := h.trans rfl

theorem Logs.reacts {s t : State} (h : Logs s t) : Reacts s t := by
  unfold Logs Reacts at *
  cases s; cases t
  simp_all only [State.mk.injEq]

theorem triggerAt_logs (s : State) (n d : Nat) : Logs s (triggerAt s n d) := by
  unfold triggerAt
  split
  · split <;> rfl
  · rfl

theorem faultTrigger_logs (s : State) (cls : Nat) : Logs s (faultTrigger s cls) := by
  unfold faultTrigger
  split
  · exact .ite (triggerAt_logs s 0 s.now) (.refl s)
  · rfl

theorem logRecord_logs (s : State) (cls code detail : Nat) (a : Bool) : Logs s (logRecord s cls code detail a) := by
  unfold logRecord
  dsimp only
  refine (faultTrigger_logs s cls).trans (.ite rfl (.ite ?_ rfl))
  rfl

theorem latchFirst_logs (s : State) (cls code detail : Nat) : Logs s (latchFirst s cls code detail) := by
  unfold latchFirst
  exact .ite rfl rfl

theorem queueReaction_logs (s : State) (cls code detail : Nat) : Logs s (queueReaction s cls code detail) := by
  unfold queueReaction
  exact .ite rfl (.ite rfl rfl)

theorem raiseFault_logs (s : State) (cls code detail : Nat) : Logs s (raiseFault s cls code detail) := by
  unfold raiseFault
  have h1 : Logs s (s.inc (F.SYS_FAULT_CNT cls)) := rfl
  exact ((h1.trans (logRecord_logs ..)).trans (latchFirst_logs ..)).trans (queueReaction_logs ..)

theorem Modes.reacts {s t : State} (h : Modes s t) : Reacts s t := by
  unfold Modes Reacts at *
  cases s; cases t
  simp_all only [State.mk.injEq]

theorem setEv_modes (s : State) (d : Side) (e : Evaluator) : Modes s (s.setEv d e) := by
  cases d <;> rfl

theorem setPair_modes (s : State) (d : Side) (n : Nat) (st : PairState) : Modes s (setPair s d n st) := by
  unfold setPair
  dsimp only
  have h1 := setEv_modes s d { s.ev d with pairs := putAt (s.ev d).pairs n .disabled st }
  generalize s.setEv d { s.ev d with pairs := putAt (s.ev d).pairs n .disabled st } = t at *
  have h2 := Modes.ite (c := (d == .a && (s.ev d).pair n == .on && st != .on) = true)
    ((h1.set F.SAF_EVENT_TRIP 1).set F.SAF_CNT_TRIP (min ((t.set F.SAF_EVENT_TRIP 1).get F.SAF_CNT_TRIP + 1) (2 ^ F.SAF_CNT_TRIP.width - 1))) h1
  refine .ite (Modes.trans h2 ?_) h2
  rfl

theorem forcePair_modes (s : State) (n : Nat) : Modes s (forcePair s n) := by
  unfold forcePair
  dsimp only
  exact (Modes.ite (.refl s) (setPair_modes ..)).trans (.ite (.refl _) (setPair_modes ..))

theorem forcePairs_modes (s : State) : Modes s (forcePairs s) :=
  (((forcePair_modes ..).trans (forcePair_modes ..)).trans (forcePair_modes ..)).trans (forcePair_modes ..)

theorem setMode_modes (s : State) (m : Mode) : Modes s (setMode s m) := by
  unfold setMode
  dsimp only
  exact (Modes.ite (.refl s) (forcePairs_modes s)).trans rfl

theorem enterSafeHold_modes (s : State) (n : Nat) : Modes s (enterSafeHold s n) :=
  (((Modes.refl s).set _ _).set _ _).trans (setMode_modes ..)

theorem enterLockout_modes (s : State) (n : Nat) : Modes s (enterLockout s n) :=
  ((((Modes.refl s).set _ _).set _ _).set _ _).trans (setMode_modes ..)

theorem reactF3_modes (s : State) (k : F3Kind) : Modes s (reactF3 s k) := by
  unfold reactF3
  split
  all_goals with_reducible first | exact Modes.refl _ | exact enterSafeHold_modes _ _ | exact enterLockout_modes _ _ | skip
  exact ((Modes.refl s).set _ _).set _ _

theorem raiseF3_reacts (s : State) (code detail : Nat) (k : F3Kind) : Reacts s (raiseF3 s code detail k) := by
  unfold raiseF3
  dsimp only
  have h := (raiseFault_logs s 3 code detail).reacts
  generalize raiseFault s 3 code detail = t at *
  refine (h.trans ?_).trans (reactF3_modes ..).reacts
  split
  · exact .refl t
  · rfl

theorem Reacts.fatals {s t : State} (h : Reacts s t) : Fatals s t := by
  unfold Reacts Fatals at *
  cases s; cases t
  simp_all only [State.mk.injEq]

theorem Fatals.foldl {α : Type} {s t : State} (g : State → α → State) (xs : List α) (h : Fatals s t)
    (hg : ∀ u x, Fatals s u → Fatals s (g u x)) : Fatals s (xs.foldl g t) :=
  List.foldlRecOn xs g h fun u k x _ => hg u x k

theorem clearCtl_fatals (s : State) : Fatals s (clearCtl s) := by
  unfold clearCtl setClusters
  exact Fatals.foldl _ _ (.foldl _ _ (.refl s) fun _ _ h => h.set _ _) fun _ _ h => h.set _ _

theorem ctlOff_fatals (s : State) : Fatals s (ctlOff s) := by
  unfold ctlOff
  dsimp only
  have h := clearCtl_fatals s
  generalize clearCtl s = t at *
  exact h.trans rfl

theorem countStart_fatals (s : State) : Fatals s (countStart s) := by
  unfold countStart stepFailed
  exact .ite (((Fatals.refl s).set _ _).set _ _) (.refl s)

theorem raiseF4_fatals (s : State) (code detail : Nat) : Fatals s (raiseF4 s code detail) := by
  unfold raiseF4
  refine .ite (.refl s) ?_
  dsimp only
  have h0 : Fatals s (ballsLow s) := rfl
  have h1 := (h0.trans (raiseFault_logs (ballsLow s) 4 code detail).reacts.fatals).set F.SYS_RESET_CAUSE_F4 1
  generalize (raiseFault (ballsLow s) 4 code detail).set F.SYS_RESET_CAUSE_F4 1 = t at *
  have h2 := h1.trans (countStart_fatals t)
  generalize countStart t = u at *
  have h3 : Fatals s { u with fatalReset := true } := h2.trans rfl
  refine .ite h3 ?_
  have h4 := ((Fatals.ite (c := (s.starting && 3 ≤ u.get F.SYS_START_START_FAILS) = true) (h2.set F.SYS_STATUS_STEP 0xE) h2).trans
    (ctlOff_fatals _)).trans (setMode_modes _ .fatal).reacts.fatals
  generalize setMode _ .fatal = v at h4 ⊢
  exact h4.trans rfl

theorem queueComp_completes (s : State) (c : Cmd) (status detail result : Nat) (final : Bool) (out : List Byte) :
    Completes s (queueComp s c status detail result final out) := by
  unfold queueComp
  exact .ite rfl rfl

theorem finishWith_completes (s : State) (c : Cmd) (status detail result : Nat) (out : List Byte) :
    Completes s (finishWith s c status detail result out) := by
  unfold finishWith
  dsimp only
  exact .ite ((queueComp_completes ..).trans rfl) ((queueComp_completes ..).trans rfl)

theorem accept_completes (s : State) (c : Cmd) : Completes s (accept s c) := (queueComp_completes ..).trans rfl

theorem finishRunning_completes (s : State) (op status result : Nat) :
    Completes s (finishRunning s op status result) := by
  unfold finishRunning
  split
  · exact finishWith_completes ..
  · rfl

/-! ### The same, field by field -/

@[simp] theorem endFault_regs (s : State) (code detail : Nat) : (endFault s code detail).regs = s.regs := rfl
@[simp] theorem endFault_mode (s : State) (code detail : Nat) : (endFault s code detail).mode = s.mode := rfl
@[simp] theorem endFault_pending (s : State) (code detail : Nat) : (endFault s code detail).pending = s.pending := rfl
@[simp] theorem endFault_reactions (s : State) (code detail : Nat) : (endFault s code detail).reactions = s.reactions := rfl
@[simp] theorem endFault_running (s : State) (code detail : Nat) : (endFault s code detail).running = s.running := rfl
@[simp] theorem endFault_free (s : State) (code detail : Nat) : (endFault s code detail).free = s.free := rfl
@[simp] theorem endFault_hold (s : State) (code detail : Nat) : (endFault s code detail).hold = s.hold := rfl
@[simp] theorem endFault_aonFine (s : State) (code detail : Nat) : (endFault s code detail).aonFine = s.aonFine := rfl
@[simp] theorem endFault_pins (s : State) (code detail : Nat) : (endFault s code detail).pins = s.pins := rfl
@[simp] theorem endFault_fatalReset (s : State) (code detail : Nat) : (endFault s code detail).fatalReset = s.fatalReset := rfl
@[simp] theorem endFault_sys (s : State) (code detail : Nat) : (endFault s code detail).sys = s.sys := rfl
@[simp] theorem endFault_link (s : State) (code detail : Nat) : (endFault s code detail).link = s.link := rfl
@[simp] theorem endFault_tx (s : State) (code detail : Nat) : (endFault s code detail).tx = s.tx := rfl
@[simp] theorem endFault_sec (s : State) (code detail : Nat) : (endFault s code detail).sec = s.sec := rfl
@[simp] theorem endFault_cmd (s : State) (code detail : Nat) : (endFault s code detail).cmd = s.cmd := rfl
@[simp] theorem endFault_rxf (s : State) (code detail : Nat) : (endFault s code detail).rxf = s.rxf := rfl
@[simp] theorem endFault_tdc (s : State) (code detail : Nat) : (endFault s code detail).tdc = s.tdc := rfl
@[simp] theorem endFault_hge (s : State) (code detail : Nat) : (endFault s code detail).hge = s.hge := rfl
@[simp] theorem endFault_yrd (s : State) (code detail : Nat) : (endFault s code detail).yrd = s.yrd := rfl
@[simp] theorem endFault_sch (s : State) (code detail : Nat) : (endFault s code detail).sch = s.sch := rfl
@[simp] theorem endFault_emi (s : State) (code detail : Nat) : (endFault s code detail).emi = s.emi := rfl
@[simp] theorem endFault_thm (s : State) (code detail : Nat) : (endFault s code detail).thm = s.thm := rfl
@[simp] theorem endFault_hkc (s : State) (code detail : Nat) : (endFault s code detail).hkc = s.hkc := rfl
@[simp] theorem endFault_saf (s : State) (code detail : Nat) : (endFault s code detail).saf = s.saf := rfl
@[simp] theorem endFault_red (s : State) (code detail : Nat) : (endFault s code detail).red = s.red := rfl
@[simp] theorem endFault_acq (s : State) (code detail : Nat) : (endFault s code detail).acq = s.acq := rfl
@[simp] theorem endFault_irq (s : State) (code detail : Nat) : (endFault s code detail).irq = s.irq := rfl
@[simp] theorem endFault_prt (s : State) (code detail : Nat) : (endFault s code detail).prt = s.prt := rfl
@[simp] theorem endFault_cal (s : State) (code detail : Nat) : (endFault s code detail).cal = s.cal := rfl

@[simp] theorem raiseFault_mode (s : State) (cls code detail : Nat) : (raiseFault s cls code detail).mode = s.mode :=
  (raiseFault_logs s cls code detail).mode
@[simp] theorem raiseFault_pending (s : State) (cls code detail : Nat) : (raiseFault s cls code detail).pending = s.pending :=
  (raiseFault_logs s cls code detail).pending
@[simp] theorem raiseFault_running (s : State) (cls code detail : Nat) : (raiseFault s cls code detail).running = s.running :=
  (raiseFault_logs s cls code detail).running
@[simp] theorem raiseFault_free (s : State) (cls code detail : Nat) : (raiseFault s cls code detail).free = s.free :=
  (raiseFault_logs s cls code detail).free
@[simp] theorem raiseFault_hold (s : State) (cls code detail : Nat) : (raiseFault s cls code detail).hold = s.hold :=
  (raiseFault_logs s cls code detail).hold
@[simp] theorem raiseFault_aonFine (s : State) (cls code detail : Nat) : (raiseFault s cls code detail).aonFine = s.aonFine :=
  (raiseFault_logs s cls code detail).aonFine
@[simp] theorem raiseFault_pins (s : State) (cls code detail : Nat) : (raiseFault s cls code detail).pins = s.pins :=
  (raiseFault_logs s cls code detail).pins
@[simp] theorem raiseFault_fatalReset (s : State) (cls code detail : Nat) : (raiseFault s cls code detail).fatalReset = s.fatalReset :=
  (raiseFault_logs s cls code detail).fatalReset
@[simp] theorem raiseFault_sys (s : State) (cls code detail : Nat) : (raiseFault s cls code detail).sys = s.sys :=
  (raiseFault_logs s cls code detail).sys
@[simp] theorem raiseFault_link (s : State) (cls code detail : Nat) : (raiseFault s cls code detail).link = s.link :=
  (raiseFault_logs s cls code detail).link
@[simp] theorem raiseFault_tx (s : State) (cls code detail : Nat) : (raiseFault s cls code detail).tx = s.tx :=
  (raiseFault_logs s cls code detail).tx
@[simp] theorem raiseFault_sec (s : State) (cls code detail : Nat) : (raiseFault s cls code detail).sec = s.sec :=
  (raiseFault_logs s cls code detail).sec
@[simp] theorem raiseFault_cmd (s : State) (cls code detail : Nat) : (raiseFault s cls code detail).cmd = s.cmd :=
  (raiseFault_logs s cls code detail).cmd
@[simp] theorem raiseFault_rxf (s : State) (cls code detail : Nat) : (raiseFault s cls code detail).rxf = s.rxf :=
  (raiseFault_logs s cls code detail).rxf
@[simp] theorem raiseFault_tdc (s : State) (cls code detail : Nat) : (raiseFault s cls code detail).tdc = s.tdc :=
  (raiseFault_logs s cls code detail).tdc
@[simp] theorem raiseFault_hge (s : State) (cls code detail : Nat) : (raiseFault s cls code detail).hge = s.hge :=
  (raiseFault_logs s cls code detail).hge
@[simp] theorem raiseFault_yrd (s : State) (cls code detail : Nat) : (raiseFault s cls code detail).yrd = s.yrd :=
  (raiseFault_logs s cls code detail).yrd
@[simp] theorem raiseFault_sch (s : State) (cls code detail : Nat) : (raiseFault s cls code detail).sch = s.sch :=
  (raiseFault_logs s cls code detail).sch
@[simp] theorem raiseFault_emi (s : State) (cls code detail : Nat) : (raiseFault s cls code detail).emi = s.emi :=
  (raiseFault_logs s cls code detail).emi
@[simp] theorem raiseFault_thm (s : State) (cls code detail : Nat) : (raiseFault s cls code detail).thm = s.thm :=
  (raiseFault_logs s cls code detail).thm
@[simp] theorem raiseFault_hkc (s : State) (cls code detail : Nat) : (raiseFault s cls code detail).hkc = s.hkc :=
  (raiseFault_logs s cls code detail).hkc
@[simp] theorem raiseFault_saf (s : State) (cls code detail : Nat) : (raiseFault s cls code detail).saf = s.saf :=
  (raiseFault_logs s cls code detail).saf
@[simp] theorem raiseFault_red (s : State) (cls code detail : Nat) : (raiseFault s cls code detail).red = s.red :=
  (raiseFault_logs s cls code detail).red
@[simp] theorem raiseFault_irq (s : State) (cls code detail : Nat) : (raiseFault s cls code detail).irq = s.irq :=
  (raiseFault_logs s cls code detail).irq
@[simp] theorem raiseFault_prt (s : State) (cls code detail : Nat) : (raiseFault s cls code detail).prt = s.prt :=
  (raiseFault_logs s cls code detail).prt
@[simp] theorem raiseFault_cal (s : State) (cls code detail : Nat) : (raiseFault s cls code detail).cal = s.cal :=
  (raiseFault_logs s cls code detail).cal

@[simp] theorem setMode_pending (s : State) (m : Mode) : (setMode s m).pending = s.pending :=
  (setMode_modes s m).pending
@[simp] theorem setMode_faults (s : State) (m : Mode) : (setMode s m).faults = s.faults :=
  (setMode_modes s m).faults
@[simp] theorem setMode_reactions (s : State) (m : Mode) : (setMode s m).reactions = s.reactions :=
  (setMode_modes s m).reactions
@[simp] theorem setMode_running (s : State) (m : Mode) : (setMode s m).running = s.running :=
  (setMode_modes s m).running
@[simp] theorem setMode_free (s : State) (m : Mode) : (setMode s m).free = s.free :=
  (setMode_modes s m).free
@[simp] theorem setMode_hold (s : State) (m : Mode) : (setMode s m).hold = s.hold :=
  (setMode_modes s m).hold
@[simp] theorem setMode_aonFine (s : State) (m : Mode) : (setMode s m).aonFine = s.aonFine :=
  (setMode_modes s m).aonFine
@[simp] theorem setMode_pins (s : State) (m : Mode) : (setMode s m).pins = s.pins :=
  (setMode_modes s m).pins
@[simp] theorem setMode_fatalReset (s : State) (m : Mode) : (setMode s m).fatalReset = s.fatalReset :=
  (setMode_modes s m).fatalReset
@[simp] theorem setMode_sys (s : State) (m : Mode) : (setMode s m).sys = s.sys :=
  (setMode_modes s m).sys
@[simp] theorem setMode_link (s : State) (m : Mode) : (setMode s m).link = s.link :=
  (setMode_modes s m).link
@[simp] theorem setMode_tx (s : State) (m : Mode) : (setMode s m).tx = s.tx :=
  (setMode_modes s m).tx
@[simp] theorem setMode_sec (s : State) (m : Mode) : (setMode s m).sec = s.sec :=
  (setMode_modes s m).sec
@[simp] theorem setMode_cmd (s : State) (m : Mode) : (setMode s m).cmd = s.cmd :=
  (setMode_modes s m).cmd
@[simp] theorem setMode_rxf (s : State) (m : Mode) : (setMode s m).rxf = s.rxf :=
  (setMode_modes s m).rxf
@[simp] theorem setMode_tdc (s : State) (m : Mode) : (setMode s m).tdc = s.tdc :=
  (setMode_modes s m).tdc
@[simp] theorem setMode_hge (s : State) (m : Mode) : (setMode s m).hge = s.hge :=
  (setMode_modes s m).hge
@[simp] theorem setMode_yrd (s : State) (m : Mode) : (setMode s m).yrd = s.yrd :=
  (setMode_modes s m).yrd
@[simp] theorem setMode_sch (s : State) (m : Mode) : (setMode s m).sch = s.sch :=
  (setMode_modes s m).sch
@[simp] theorem setMode_emi (s : State) (m : Mode) : (setMode s m).emi = s.emi :=
  (setMode_modes s m).emi
@[simp] theorem setMode_thm (s : State) (m : Mode) : (setMode s m).thm = s.thm :=
  (setMode_modes s m).thm
@[simp] theorem setMode_hkc (s : State) (m : Mode) : (setMode s m).hkc = s.hkc :=
  (setMode_modes s m).hkc
@[simp] theorem setMode_red (s : State) (m : Mode) : (setMode s m).red = s.red :=
  (setMode_modes s m).red
@[simp] theorem setMode_acq (s : State) (m : Mode) : (setMode s m).acq = s.acq :=
  (setMode_modes s m).acq
@[simp] theorem setMode_irq (s : State) (m : Mode) : (setMode s m).irq = s.irq :=
  (setMode_modes s m).irq
@[simp] theorem setMode_prt (s : State) (m : Mode) : (setMode s m).prt = s.prt :=
  (setMode_modes s m).prt
@[simp] theorem setMode_cal (s : State) (m : Mode) : (setMode s m).cal = s.cal :=
  (setMode_modes s m).cal
@[simp] theorem setMode_mode (s : State) (m : Mode) : (setMode s m).mode = m := rfl
@[simp] theorem enterSafeHold_mode (s : State) (n : Nat) : (enterSafeHold s n).mode = .safeHold := rfl
@[simp] theorem enterLockout_mode (s : State) (n : Nat) : (enterLockout s n).mode = .lockout := rfl

@[simp] theorem raiseF3_pending (s : State) (code detail : Nat) (k : F3Kind) : (raiseF3 s code detail k).pending = s.pending :=
  (raiseF3_reacts s code detail k).pending
@[simp] theorem raiseF3_running (s : State) (code detail : Nat) (k : F3Kind) : (raiseF3 s code detail k).running = s.running :=
  (raiseF3_reacts s code detail k).running
@[simp] theorem raiseF3_free (s : State) (code detail : Nat) (k : F3Kind) : (raiseF3 s code detail k).free = s.free :=
  (raiseF3_reacts s code detail k).free
@[simp] theorem raiseF3_hold (s : State) (code detail : Nat) (k : F3Kind) : (raiseF3 s code detail k).hold = s.hold :=
  (raiseF3_reacts s code detail k).hold
@[simp] theorem raiseF3_aonFine (s : State) (code detail : Nat) (k : F3Kind) : (raiseF3 s code detail k).aonFine = s.aonFine :=
  (raiseF3_reacts s code detail k).aonFine
@[simp] theorem raiseF3_sys (s : State) (code detail : Nat) (k : F3Kind) : (raiseF3 s code detail k).sys = s.sys :=
  (raiseF3_reacts s code detail k).sys
@[simp] theorem raiseF3_link (s : State) (code detail : Nat) (k : F3Kind) : (raiseF3 s code detail k).link = s.link :=
  (raiseF3_reacts s code detail k).link
@[simp] theorem raiseF3_tx (s : State) (code detail : Nat) (k : F3Kind) : (raiseF3 s code detail k).tx = s.tx :=
  (raiseF3_reacts s code detail k).tx
@[simp] theorem raiseF3_sec (s : State) (code detail : Nat) (k : F3Kind) : (raiseF3 s code detail k).sec = s.sec :=
  (raiseF3_reacts s code detail k).sec
@[simp] theorem raiseF3_cmd (s : State) (code detail : Nat) (k : F3Kind) : (raiseF3 s code detail k).cmd = s.cmd :=
  (raiseF3_reacts s code detail k).cmd
@[simp] theorem raiseF3_rxf (s : State) (code detail : Nat) (k : F3Kind) : (raiseF3 s code detail k).rxf = s.rxf :=
  (raiseF3_reacts s code detail k).rxf
@[simp] theorem raiseF3_tdc (s : State) (code detail : Nat) (k : F3Kind) : (raiseF3 s code detail k).tdc = s.tdc :=
  (raiseF3_reacts s code detail k).tdc
@[simp] theorem raiseF3_hge (s : State) (code detail : Nat) (k : F3Kind) : (raiseF3 s code detail k).hge = s.hge :=
  (raiseF3_reacts s code detail k).hge
@[simp] theorem raiseF3_yrd (s : State) (code detail : Nat) (k : F3Kind) : (raiseF3 s code detail k).yrd = s.yrd :=
  (raiseF3_reacts s code detail k).yrd
@[simp] theorem raiseF3_sch (s : State) (code detail : Nat) (k : F3Kind) : (raiseF3 s code detail k).sch = s.sch :=
  (raiseF3_reacts s code detail k).sch
@[simp] theorem raiseF3_emi (s : State) (code detail : Nat) (k : F3Kind) : (raiseF3 s code detail k).emi = s.emi :=
  (raiseF3_reacts s code detail k).emi
@[simp] theorem raiseF3_thm (s : State) (code detail : Nat) (k : F3Kind) : (raiseF3 s code detail k).thm = s.thm :=
  (raiseF3_reacts s code detail k).thm
@[simp] theorem raiseF3_hkc (s : State) (code detail : Nat) (k : F3Kind) : (raiseF3 s code detail k).hkc = s.hkc :=
  (raiseF3_reacts s code detail k).hkc
@[simp] theorem raiseF3_red (s : State) (code detail : Nat) (k : F3Kind) : (raiseF3 s code detail k).red = s.red :=
  (raiseF3_reacts s code detail k).red
@[simp] theorem raiseF3_irq (s : State) (code detail : Nat) (k : F3Kind) : (raiseF3 s code detail k).irq = s.irq :=
  (raiseF3_reacts s code detail k).irq
@[simp] theorem raiseF3_prt (s : State) (code detail : Nat) (k : F3Kind) : (raiseF3 s code detail k).prt = s.prt :=
  (raiseF3_reacts s code detail k).prt
@[simp] theorem raiseF3_cal (s : State) (code detail : Nat) (k : F3Kind) : (raiseF3 s code detail k).cal = s.cal :=
  (raiseF3_reacts s code detail k).cal

@[simp] theorem raiseF4_pending (s : State) (code detail : Nat) : (raiseF4 s code detail).pending = s.pending :=
  (raiseF4_fatals s code detail).pending
@[simp] theorem raiseF4_running (s : State) (code detail : Nat) : (raiseF4 s code detail).running = s.running :=
  (raiseF4_fatals s code detail).running
@[simp] theorem raiseF4_free (s : State) (code detail : Nat) : (raiseF4 s code detail).free = s.free :=
  (raiseF4_fatals s code detail).free
@[simp] theorem raiseF4_hold (s : State) (code detail : Nat) : (raiseF4 s code detail).hold = s.hold :=
  (raiseF4_fatals s code detail).hold
@[simp] theorem raiseF4_aonFine (s : State) (code detail : Nat) : (raiseF4 s code detail).aonFine = s.aonFine :=
  (raiseF4_fatals s code detail).aonFine
@[simp] theorem raiseF4_link (s : State) (code detail : Nat) : (raiseF4 s code detail).link = s.link :=
  (raiseF4_fatals s code detail).link
@[simp] theorem raiseF4_tx (s : State) (code detail : Nat) : (raiseF4 s code detail).tx = s.tx :=
  (raiseF4_fatals s code detail).tx
@[simp] theorem raiseF4_sec (s : State) (code detail : Nat) : (raiseF4 s code detail).sec = s.sec :=
  (raiseF4_fatals s code detail).sec
@[simp] theorem raiseF4_cmd (s : State) (code detail : Nat) : (raiseF4 s code detail).cmd = s.cmd :=
  (raiseF4_fatals s code detail).cmd
@[simp] theorem raiseF4_rxf (s : State) (code detail : Nat) : (raiseF4 s code detail).rxf = s.rxf :=
  (raiseF4_fatals s code detail).rxf
@[simp] theorem raiseF4_tdc (s : State) (code detail : Nat) : (raiseF4 s code detail).tdc = s.tdc :=
  (raiseF4_fatals s code detail).tdc
@[simp] theorem raiseF4_hge (s : State) (code detail : Nat) : (raiseF4 s code detail).hge = s.hge :=
  (raiseF4_fatals s code detail).hge
@[simp] theorem raiseF4_yrd (s : State) (code detail : Nat) : (raiseF4 s code detail).yrd = s.yrd :=
  (raiseF4_fatals s code detail).yrd
@[simp] theorem raiseF4_emi (s : State) (code detail : Nat) : (raiseF4 s code detail).emi = s.emi :=
  (raiseF4_fatals s code detail).emi
@[simp] theorem raiseF4_thm (s : State) (code detail : Nat) : (raiseF4 s code detail).thm = s.thm :=
  (raiseF4_fatals s code detail).thm
@[simp] theorem raiseF4_hkc (s : State) (code detail : Nat) : (raiseF4 s code detail).hkc = s.hkc :=
  (raiseF4_fatals s code detail).hkc
@[simp] theorem raiseF4_red (s : State) (code detail : Nat) : (raiseF4 s code detail).red = s.red :=
  (raiseF4_fatals s code detail).red
@[simp] theorem raiseF4_irq (s : State) (code detail : Nat) : (raiseF4 s code detail).irq = s.irq :=
  (raiseF4_fatals s code detail).irq
@[simp] theorem raiseF4_prt (s : State) (code detail : Nat) : (raiseF4 s code detail).prt = s.prt :=
  (raiseF4_fatals s code detail).prt
@[simp] theorem raiseF4_cal (s : State) (code detail : Nat) : (raiseF4 s code detail).cal = s.cal :=
  (raiseF4_fatals s code detail).cal

@[simp] theorem finishWith_mode (s : State) (c : Cmd) (status detail result : Nat) (out : List Byte) : (finishWith s c status detail result out).mode = s.mode :=
  (finishWith_completes s c status detail result out).mode
@[simp] theorem finishWith_pending (s : State) (c : Cmd) (status detail result : Nat) (out : List Byte) : (finishWith s c status detail result out).pending = s.pending :=
  (finishWith_completes s c status detail result out).pending
@[simp] theorem finishWith_faults (s : State) (c : Cmd) (status detail result : Nat) (out : List Byte) : (finishWith s c status detail result out).faults = s.faults :=
  (finishWith_completes s c status detail result out).faults
@[simp] theorem finishWith_reactions (s : State) (c : Cmd) (status detail result : Nat) (out : List Byte) : (finishWith s c status detail result out).reactions = s.reactions :=
  (finishWith_completes s c status detail result out).reactions
@[simp] theorem finishWith_running (s : State) (c : Cmd) (status detail result : Nat) (out : List Byte) : (finishWith s c status detail result out).running = s.running :=
  (finishWith_completes s c status detail result out).running
@[simp] theorem finishWith_free (s : State) (c : Cmd) (status detail result : Nat) (out : List Byte) : (finishWith s c status detail result out).free = s.free :=
  (finishWith_completes s c status detail result out).free
@[simp] theorem finishWith_hold (s : State) (c : Cmd) (status detail result : Nat) (out : List Byte) : (finishWith s c status detail result out).hold = s.hold :=
  (finishWith_completes s c status detail result out).hold
@[simp] theorem finishWith_aonFine (s : State) (c : Cmd) (status detail result : Nat) (out : List Byte) : (finishWith s c status detail result out).aonFine = s.aonFine :=
  (finishWith_completes s c status detail result out).aonFine
@[simp] theorem finishWith_pins (s : State) (c : Cmd) (status detail result : Nat) (out : List Byte) : (finishWith s c status detail result out).pins = s.pins :=
  (finishWith_completes s c status detail result out).pins
@[simp] theorem finishWith_fatalReset (s : State) (c : Cmd) (status detail result : Nat) (out : List Byte) : (finishWith s c status detail result out).fatalReset = s.fatalReset :=
  (finishWith_completes s c status detail result out).fatalReset
@[simp] theorem finishWith_sys (s : State) (c : Cmd) (status detail result : Nat) (out : List Byte) : (finishWith s c status detail result out).sys = s.sys :=
  (finishWith_completes s c status detail result out).sys
@[simp] theorem finishWith_link (s : State) (c : Cmd) (status detail result : Nat) (out : List Byte) : (finishWith s c status detail result out).link = s.link :=
  (finishWith_completes s c status detail result out).link
@[simp] theorem finishWith_tx (s : State) (c : Cmd) (status detail result : Nat) (out : List Byte) : (finishWith s c status detail result out).tx = s.tx :=
  (finishWith_completes s c status detail result out).tx
@[simp] theorem finishWith_sec (s : State) (c : Cmd) (status detail result : Nat) (out : List Byte) : (finishWith s c status detail result out).sec = s.sec :=
  (finishWith_completes s c status detail result out).sec
@[simp] theorem finishWith_rxf (s : State) (c : Cmd) (status detail result : Nat) (out : List Byte) : (finishWith s c status detail result out).rxf = s.rxf :=
  (finishWith_completes s c status detail result out).rxf
@[simp] theorem finishWith_tdc (s : State) (c : Cmd) (status detail result : Nat) (out : List Byte) : (finishWith s c status detail result out).tdc = s.tdc :=
  (finishWith_completes s c status detail result out).tdc
@[simp] theorem finishWith_hge (s : State) (c : Cmd) (status detail result : Nat) (out : List Byte) : (finishWith s c status detail result out).hge = s.hge :=
  (finishWith_completes s c status detail result out).hge
@[simp] theorem finishWith_yrd (s : State) (c : Cmd) (status detail result : Nat) (out : List Byte) : (finishWith s c status detail result out).yrd = s.yrd :=
  (finishWith_completes s c status detail result out).yrd
@[simp] theorem finishWith_sch (s : State) (c : Cmd) (status detail result : Nat) (out : List Byte) : (finishWith s c status detail result out).sch = s.sch :=
  (finishWith_completes s c status detail result out).sch
@[simp] theorem finishWith_emi (s : State) (c : Cmd) (status detail result : Nat) (out : List Byte) : (finishWith s c status detail result out).emi = s.emi :=
  (finishWith_completes s c status detail result out).emi
@[simp] theorem finishWith_thm (s : State) (c : Cmd) (status detail result : Nat) (out : List Byte) : (finishWith s c status detail result out).thm = s.thm :=
  (finishWith_completes s c status detail result out).thm
@[simp] theorem finishWith_hkc (s : State) (c : Cmd) (status detail result : Nat) (out : List Byte) : (finishWith s c status detail result out).hkc = s.hkc :=
  (finishWith_completes s c status detail result out).hkc
@[simp] theorem finishWith_saf (s : State) (c : Cmd) (status detail result : Nat) (out : List Byte) : (finishWith s c status detail result out).saf = s.saf :=
  (finishWith_completes s c status detail result out).saf
@[simp] theorem finishWith_red (s : State) (c : Cmd) (status detail result : Nat) (out : List Byte) : (finishWith s c status detail result out).red = s.red :=
  (finishWith_completes s c status detail result out).red
@[simp] theorem finishWith_acq (s : State) (c : Cmd) (status detail result : Nat) (out : List Byte) : (finishWith s c status detail result out).acq = s.acq :=
  (finishWith_completes s c status detail result out).acq
@[simp] theorem finishWith_irq (s : State) (c : Cmd) (status detail result : Nat) (out : List Byte) : (finishWith s c status detail result out).irq = s.irq :=
  (finishWith_completes s c status detail result out).irq
@[simp] theorem finishWith_prt (s : State) (c : Cmd) (status detail result : Nat) (out : List Byte) : (finishWith s c status detail result out).prt = s.prt :=
  (finishWith_completes s c status detail result out).prt
@[simp] theorem finishWith_cal (s : State) (c : Cmd) (status detail result : Nat) (out : List Byte) : (finishWith s c status detail result out).cal = s.cal :=
  (finishWith_completes s c status detail result out).cal

@[simp] theorem finish_finishWith (s : State) (c : Cmd) (status detail result : Nat) :
    finish s c status detail result = finishWith s c status detail result [] := rfl
@[simp] theorem finishOk_finishWith (s : State) (c : Cmd) (result : Nat) :
    finishOk s c result = finishWith s c St.done 0 result [] := rfl

@[simp] theorem accept_mode (s : State) (c : Cmd) : (accept s c).mode = s.mode := (accept_completes s c).mode
@[simp] theorem accept_pending (s : State) (c : Cmd) : (accept s c).pending = s.pending := (accept_completes s c).pending
@[simp] theorem accept_faults (s : State) (c : Cmd) : (accept s c).faults = s.faults := (accept_completes s c).faults
@[simp] theorem accept_reactions (s : State) (c : Cmd) : (accept s c).reactions = s.reactions := (accept_completes s c).reactions
@[simp] theorem accept_running (s : State) (c : Cmd) : (accept s c).running = s.running := (accept_completes s c).running
@[simp] theorem accept_free (s : State) (c : Cmd) : (accept s c).free = s.free := (accept_completes s c).free
@[simp] theorem accept_hold (s : State) (c : Cmd) : (accept s c).hold = s.hold := (accept_completes s c).hold
@[simp] theorem accept_aonFine (s : State) (c : Cmd) : (accept s c).aonFine = s.aonFine := (accept_completes s c).aonFine
@[simp] theorem accept_pins (s : State) (c : Cmd) : (accept s c).pins = s.pins := (accept_completes s c).pins
@[simp] theorem accept_fatalReset (s : State) (c : Cmd) : (accept s c).fatalReset = s.fatalReset := (accept_completes s c).fatalReset
@[simp] theorem accept_sys (s : State) (c : Cmd) : (accept s c).sys = s.sys := (accept_completes s c).sys
@[simp] theorem accept_link (s : State) (c : Cmd) : (accept s c).link = s.link := (accept_completes s c).link
@[simp] theorem accept_tx (s : State) (c : Cmd) : (accept s c).tx = s.tx := (accept_completes s c).tx
@[simp] theorem accept_sec (s : State) (c : Cmd) : (accept s c).sec = s.sec := (accept_completes s c).sec
@[simp] theorem accept_rxf (s : State) (c : Cmd) : (accept s c).rxf = s.rxf := (accept_completes s c).rxf
@[simp] theorem accept_tdc (s : State) (c : Cmd) : (accept s c).tdc = s.tdc := (accept_completes s c).tdc
@[simp] theorem accept_hge (s : State) (c : Cmd) : (accept s c).hge = s.hge := (accept_completes s c).hge
@[simp] theorem accept_yrd (s : State) (c : Cmd) : (accept s c).yrd = s.yrd := (accept_completes s c).yrd
@[simp] theorem accept_sch (s : State) (c : Cmd) : (accept s c).sch = s.sch := (accept_completes s c).sch
@[simp] theorem accept_emi (s : State) (c : Cmd) : (accept s c).emi = s.emi := (accept_completes s c).emi
@[simp] theorem accept_thm (s : State) (c : Cmd) : (accept s c).thm = s.thm := (accept_completes s c).thm
@[simp] theorem accept_hkc (s : State) (c : Cmd) : (accept s c).hkc = s.hkc := (accept_completes s c).hkc
@[simp] theorem accept_saf (s : State) (c : Cmd) : (accept s c).saf = s.saf := (accept_completes s c).saf
@[simp] theorem accept_red (s : State) (c : Cmd) : (accept s c).red = s.red := (accept_completes s c).red
@[simp] theorem accept_acq (s : State) (c : Cmd) : (accept s c).acq = s.acq := (accept_completes s c).acq
@[simp] theorem accept_irq (s : State) (c : Cmd) : (accept s c).irq = s.irq := (accept_completes s c).irq
@[simp] theorem accept_prt (s : State) (c : Cmd) : (accept s c).prt = s.prt := (accept_completes s c).prt
@[simp] theorem accept_cal (s : State) (c : Cmd) : (accept s c).cal = s.cal := (accept_completes s c).cal

end Sys2Proof.Machine
end

