-- ==== Sys2Proof/Laws/Commands.lean ====
section
/-! SUPPORT. What the shared operations do, once each: register reads after them, faults and device resets, and the way a
command ends. Proofs about the commands cite these and unfold none of the operations. -/

namespace Sys2Proof.Machine

/-! ### Register reads after a shared operation -/

/-- A register outside a frame keeps its value. -/
theorem getReg_frame {l : List Fld} {s t : State} (h : RegFrame l s t) {f : Fld} (hf : ∀ g ∈ l, f.key ≠ g.key) :
    getReg t.regs f = getReg s.regs f := h f hf

/-- A fault leaves every register outside its fields. -/
theorem getReg_raise (s : State) (cls code detail : Nat) {f : Fld} (hf : ∀ g ∈ faultFields cls, f.key ≠ g.key) :
    getReg (raiseFault s cls code detail).regs f = getReg s.regs f := (RegFrame.refl _ s).raise cls code detail (fun _ h => h) f hf

/-- Forcing the pairs off leaves every other register. -/
theorem getReg_forcePairs (s : State) {f : Fld} (hf : ∀ g ∈ tripFields, f.key ≠ g.key) :
    getReg (forcePairs s).regs f = getReg s.regs f := forcePairs_frame s f hf

/-- A change of device state leaves every other register. -/
theorem getReg_setMode (s : State) (m : Mode) {f : Fld} (hf : ∀ g ∈ tripFields, f.key ≠ g.key) :
    getReg (setMode s m).regs f = getReg s.regs f := setMode_frame s m f hf

/-- An F3 fault leaves every register outside its fields. -/
theorem getReg_raiseF3 (s : State) (code detail : Nat) (k : F3Kind) {f : Fld} (hf : ∀ g ∈ f3Fields, f.key ≠ g.key) :
    getReg (raiseF3 s code detail k).regs f = getReg s.regs f := raiseF3_frame s code detail k f hf

/-- An F4 fault leaves every register outside its fields. -/
theorem getReg_raiseF4 (s : State) (code detail : Nat) {f : Fld} (hf : ∀ g ∈ f4Fields, f.key ≠ g.key) :
    getReg (raiseF4 s code detail).regs f = getReg s.regs f := raiseF4_frame s code detail f hf

/-- An F3 fault in a frame. -/
theorem RegFrame.raiseF3 {l : List Fld} {s t : State} (h : RegFrame l s t) (c d : Nat) (k : F3Kind) (hl : ∀ f ∈ f3Fields, f ∈ l) :
    RegFrame l s (raiseF3 t c d k) := h.trans ((raiseF3_frame t c d k).subset hl)

/-- An F4 fault in a frame. -/
theorem RegFrame.raiseF4 {l : List Fld} {s t : State} (h : RegFrame l s t) (c d : Nat) (hl : ∀ f ∈ f4Fields, f ∈ l) :
    RegFrame l s (raiseF4 t c d) := h.trans ((raiseF4_frame t c d).subset hl)

/-- A recorder trigger in a frame. -/
theorem RegFrame.trig {l : List Fld} {s t : State} (h : RegFrame l s t) (n : Nat) : RegFrame l s (trigger t n) := by
  refine h.other ?_; unfold trigger triggerAt; split <;> (try split) <;> rfl

/-- A branch in a frame, with its condition at hand. -/
theorem RegFrame.iteProp {l : List Fld} {s t u : State} {c : Prop} [Decidable c] (h : c → RegFrame l s t) (k : ¬ c → RegFrame l s u) :
    RegFrame l s (if c then t else u) := by split <;> simp_all

/-! ### Device state (R29, R481, R491) -/

/-- An evaluator is read from the safety state alone. -/
theorem ev_congr {t : State} (s : State) (h : t.saf = s.saf) (d : Side) : State.ev t d = State.ev s d := by cases d <;> simp [State.ev, h]

theorem setPair_armed_eq (s : State) (d : Side) (n : Nat) (st : PairState) : (setPair s d n st).saf.armed = s.saf.armed := by
  unfold setPair
  dsimp only
  have h1 : (s.setEv d { s.ev d with pairs := putAt (s.ev d).pairs n .disabled st }).saf.armed = s.saf.armed := by cases d <;> rfl
  generalize s.setEv d { s.ev d with pairs := putAt (s.ev d).pairs n .disabled st } = t at *
  rw [← h1]
  split <;> split <;> rfl

theorem forcePair_armed (s : State) (n : Nat) : (forcePair s n).saf.armed = s.saf.armed := by
  unfold forcePair
  dsimp only
  split <;> split <;> simp only [setPair_armed_eq]

/-- A change of device state does not arm or disarm. -/
theorem setMode_armed (s : State) (m : Mode) : (setMode s m).saf.armed = s.saf.armed := by
  have h : (forcePairs s).saf.armed = s.saf.armed := by unfold forcePairs; simp only [forcePair_armed]
  unfold setMode
  dsimp only
  split
  · rfl
  · exact h

/-- Outside SCAN no pair is on. -/
theorem setMode_pairs (s : State) (m : Mode) (h : m ≠ .scan) (d : Side) (n : Nat) (hn : n < 4) : ((setMode s m).ev d).pair n ≠ .on := by
  have h' : (setMode s m).saf = (forcePairs s).saf := by unfold setMode; simp [h]
  rw [ev_congr _ h' d]
  exact forcePairs_pair s _ n hn

/-! ### Device reset (R7, R688) -/

/-- A kept part of the register store. -/
theorem lookup_filter (l : List (Nat × Nat)) (p : Nat → Bool) (k : Nat) :
    lookupReg (l.filter fun e => p e.1) k = if p k then lookupReg l k else none := by
  induction l with
  | nil => simp [lookupReg]
  | cons a l ih =>
    obtain ⟨k', v⟩ := a
    by_cases h : p k' = true
    · simp only [List.filter_cons, h, if_true, lookupReg, ih]
      by_cases e : k = k'
      · subst e; simp [h]
      · simp only [e, if_false]
    · simp only [List.filter_cons, h, lookupReg, Bool.false_eq_true, if_false, ih]
      by_cases e : k = k'
      · subst e; simp only [h, Bool.false_eq_true, if_false]
      · simp only [e, if_false]

/-- A register of a kept part of the store, and one that is not kept. -/
theorem getReg_filter (l : List (Nat × Nat)) (p : Nat → Bool) (f : Fld) :
    getReg (l.filter fun e => p e.1) f = if p f.key then getReg l f else f.reset := by
  unfold getReg; rw [lookup_filter]; split <;> rfl

/-- The stored seed changes no other register. -/
theorem withSeed_get (s : State) {f : Fld} (h : f.key ≠ F.HGE_SEED.key) : getReg (withSeed s).regs f = getReg s.regs f := by
  unfold withSeed; split <;> simp [getReg_setReg_other, h]

/-- The stored seed changes the register store alone. -/
theorem withSeed_logs (s : State) : withSeed s = { s with regs := (withSeed s).regs } := by
  unfold withSeed; split <;> rfl

/-- A device reset keeps a kept register and puts any other at its reset value. -/
theorem reset_get (s : State) (kind : Nat) {f : Fld} (h : f.key ≠ F.HGE_SEED.key) (h1 : f.key ≠ F.SYS_START_START_KIND.key) (h2 : f.key ≠ F.SEC_STATUS_SESSION_KEYS.key) :
    getReg (deviceReset s kind).regs f = if keptKey f.key || aonClockKey f.key then getReg s.regs f else f.reset := by
  unfold deviceReset
  simp only [State.set_regs, getReg_setReg_other _ _ h1, getReg_setReg_other _ _ h2, withSeed_get _ h]
  exact getReg_filter _ (fun k => keptKey k || aonClockKey k) f

/-- A device reset leads to STANDBY, or OPENED. -/
theorem reset_mode (s : State) (k : Nat) : (deviceReset s k).mode = if s.flag F.SEC_STATUS_OPENED then .opened else .standby := by
  simp only [deviceReset, State.set_mode]; rw [withSeed_logs]

/-- The safety block starts over. -/
theorem reset_saf (s : State) (k : Nat) : (deviceReset s k).saf = State.reset.saf := by
  simp only [deviceReset, State.set_saf]; rw [withSeed_logs]

/-- Keys and images are kept. -/
theorem reset_sec (s : State) (k : Nat) : (deviceReset s k).sec = s.sec := by
  simp only [deviceReset, State.set_sec]; rw [withSeed_logs]

/-- No command is kept. -/
theorem reset_cmds (s : State) (k : Nat) : (deviceReset s k).cmd.cmds = [] := by
  simp only [deviceReset, State.set_cmd]; rw [withSeed_logs]; rfl

/-- The balls a reset drives, and those it samples. -/
theorem reset_pins (s : State) (k : Nat) : (deviceReset s k).pins = { State.reset.pins with tstMode := s.pins.tstMode, perst := s.pins.perst } := by
  simp only [deviceReset, State.set_pins]; rw [withSeed_logs]

/-- Start-up begins again. -/
theorem reset_sys (s : State) (k : Nat) : (deviceReset s k).sys = { State.reset.sys with
    startAt := s.sys.raw, railsDown := s.sys.railsDown, raw := s.sys.raw, xaonLate := s.sys.xaonLate } := by
  simp only [deviceReset, State.set_sys]; rw [withSeed_logs]

/-- The link is kept while PERST# is released. -/
theorem reset_link (s : State) (k : Nat) : (deviceReset s k).link = { State.reset.link with up := s.link.up && !s.pins.perst } := by
  simp only [deviceReset, State.set_link]; rw [withSeed_logs]

/-- No pair is on after a device reset. -/
theorem reset_pairs (t : State) (h : t.saf = State.reset.saf) (d : Side) (n : Nat) (hn : n < 4) : (t.ev d).pair n ≠ .on := by
  cases d <;> simp only [State.ev, h] <;> (match n, hn with | 0, _ | 1, _ | 2, _ | 3, _ => decide)

/-! ### Faults (R634, R638, R642, R646) -/

/-- The recorder trigger of a fault leaves the log. -/
theorem faultTrigger_parts (s : State) (cls : Nat) : (faultTrigger s cls).faults = s.faults ∧ (faultTrigger s cls).regs = s.regs ∧ (faultTrigger s cls).reactions = s.reactions := by
  unfold faultTrigger trigger triggerAt
  repeat' split
  all_goals exact ⟨rfl, rfl, rfl⟩

/-- Logging queues nothing. -/
theorem logRecord_reactions (s : State) (cls c d : Nat) (a : Bool) : (logRecord s cls c d a).reactions = s.reactions := by
  unfold logRecord; dsimp only; split
  · exact (faultTrigger_parts s cls).2.2
  · split
    · simp only [State.inc_set, State.set_reactions]; exact (faultTrigger_parts s cls).2.2
    · exact (faultTrigger_parts s cls).2.2

/-- What logging does to the log. -/
theorem logRecord_faults (s : State) (cls c d : Nat) (a : Bool) : (logRecord s cls c d a).faults =
    if s.faults.any (fun r => r.is c d) then s.faults.map (fun r => if r.is c d then r.repeated cls a else r)
    else (insertFault s.faults ⟨c, cls, a, false, 1, d, s.now⟩).1 := by
  have hn : (faultTrigger s cls).now = s.now := by simp only [State.now, get_getReg, (faultTrigger_parts s cls).2.1]
  unfold logRecord; dsimp only; rw [(faultTrigger_parts s cls).1, hn]; split
  · rfl
  · split
    · rfl
    · rfl

/-- The first-fault latch leaves log and queues. -/
theorem latchFirst_parts (s : State) (cls c d : Nat) : (latchFirst s cls c d).faults = s.faults ∧ (latchFirst s cls c d).reactions = s.reactions := by
  unfold latchFirst; split <;> exact ⟨rfl, rfl⟩

/-- An F3 cause in SCAN leads to SAFE-HOLD. -/
theorem reactF3_hold (u : State) (k : Nat) (h : u.mode = .scan) : reactF3 u (.hold k) = enterSafeHold u k := by
  unfold reactF3; rw [h]

/-- Outside SCAN a hold cause changes nothing at once. -/
theorem reactF3_other (u : State) (k : Nat) (h : u.mode ≠ .scan) : reactF3 u (.hold k) = u := by
  unfold reactF3; split <;> simp_all

/-- The state in which an F3 fault has been entered and its cause noted. -/
def f3State (s : State) (c d : Nat) : State :=
  (if (raiseFault s 3 c d).saf.f3.contains (c, d) then (raiseFault s 3 c d) else { raiseFault s 3 c d with saf := { (raiseFault s 3 c d).saf with f3 := (raiseFault s 3 c d).saf.f3 ++ [(c, d)] } })

/-- Entering the fault changes no device state. -/
theorem f3State_mode (s : State) (c d : Nat) : (f3State s c d).mode = s.mode := by
  unfold f3State; split <;> simp

/-- An F3 fault is entered, then acts. -/
theorem raiseF3_eq (s : State) (c d : Nat) (k : F3Kind) : raiseF3 s c d k = reactF3 (f3State s c d) k := rfl

/-- A hold cause in SCAN. -/
theorem raiseF3_hold_eq (s : State) (c d k : Nat) (h : s.mode = .scan) : raiseF3 s c d (.hold k) = enterSafeHold (f3State s c d) k := by
  rw [raiseF3_eq, reactF3_hold]; rw [f3State_mode, h]

/-- SAFE-HOLD follows. -/
theorem raiseF3_hold_mode (s : State) (c d k : Nat) (h : s.mode = .scan) : (raiseF3 s c d (.hold k)).mode = .safeHold := by rw [raiseF3_hold_eq _ _ _ _ h]; rfl

/-- No pair is on in SAFE-HOLD. -/
theorem raiseF3_hold_pairs (s : State) (c d k : Nat) (h : s.mode = .scan) (e : Side) (n : Nat) (hn : n < 4) : ((raiseF3 s c d (.hold k)).ev e).pair n ≠ .on := by
  rw [raiseF3_hold_eq _ _ _ _ h]; exact setMode_pairs _ _ (by decide) _ _ hn

/-- Outside SCAN the device state stays. -/
theorem raiseF3_hold_other (s : State) (c d k : Nat) (h : s.mode ≠ .scan) : (raiseF3 s c d (.hold k)).mode = s.mode := by
  rw [raiseF3_eq, reactF3_other _ _ (by rw [f3State_mode]; exact h), f3State_mode]

/-- A lock cause in SCAN leads to LOCKOUT. -/
theorem raiseF3_lock (s : State) (c d k : Nat) (h : s.mode = .scan) : raiseF3 s c d (.lock k) = enterLockout (f3State s c d) k := by
  rw [raiseF3_eq]; unfold reactF3; rw [f3State_mode, h]

/-- A lock cause in READY sets the latch. -/
theorem raiseF3_lock_ready (s : State) (c d k : Nat) (h : s.mode = .ready) : raiseF3 s c d (.lock k) = ((f3State s c d).set F.SAF_STATUS_LOCK_LATCH 1).set F.SAF_STATUS_LOCK_CAUSE k := by
  rw [raiseF3_eq]; unfold reactF3; rw [f3State_mode, h]

/-- Setting registers one by one moves no ball. -/
theorem foldl_set_pins {α : Type} (l : List α) (f : α → Fld) (n : Nat) (s : State) :
    (l.foldl (fun (t : State) a => t.set (f a) n) s).pins = s.pins := by
  induction l generalizing s with
  | nil => rfl
  | cons a l ih => exact (ih (s.set (f a) n)).trans (State.set_pins ..)

/-- The end of CTL's registers moves no ball. -/
theorem clearCtl_pins (s : State) : (clearCtl s).pins = s.pins := by
  unfold clearCtl setClusters
  rw [foldl_set_pins, foldl_set_pins]

/-- The counting of a failed start-up leaves the device state and the balls. -/
theorem countStart_parts (s : State) : (countStart s).mode = s.mode ∧ (countStart s).pins = s.pins ∧ (countStart s).saf = s.saf := by
  unfold countStart stepFailed
  split <;> simp

/-- An F4 fault leads to FATAL. -/
theorem raiseF4_mode (s : State) (c d : Nat) (h : s.mode ≠ .opened) (h0 : s.mode ≠ .off) : (raiseF4 s c d).mode = .fatal := by
  have h1 : (s.mode == .off) = false := by simpa using h0
  have h2 : (s.mode == .opened) = false := by simpa using h
  unfold raiseF4
  simp only [h1, h2, Bool.false_eq_true, if_false, setMode_mode]

/-- An opened device stays opened. -/
theorem raiseF4_opened (s : State) (c d : Nat) (h : s.mode = .opened) : (raiseF4 s c d).mode = .opened := by
  have h1 : (s.mode == .off) = false := by simp [h]
  have h2 : (s.mode == .opened) = true := by simp [h]
  unfold raiseF4
  simp only [h1, h2, Bool.false_eq_true, if_false, if_true]
  rw [(countStart_parts _).1]
  simp [h, ballsLow]

/-- The balls of R646 are low. -/
theorem raiseF4_pins (s : State) (c d : Nat) (h : s.mode ≠ .off) : (raiseF4 s c d).pins.erow = 0 ∧ (raiseF4 s c d).pins.ecol = 0 ∧
    (raiseF4 s c d).pins.pre = 0 ∧ (raiseF4 s c d).pins.ebk = 0 ∧ (raiseF4 s c d).pins.fls = 0 := by
  have h1 : (s.mode == .off) = false := by simpa using h
  have hp : (countStart ((raiseFault (ballsLow s) 4 c d).set F.SYS_RESET_CAUSE_F4 1)).pins = (ballsLow s).pins := by
    rw [(countStart_parts _).2.1]; simp
  have hc (u : State) : (ctlOff u).pins = { u.pins with halter := false } := by unfold ctlOff; dsimp only; rw [clearCtl_pins]
  unfold raiseF4
  simp only [h1, Bool.false_eq_true, if_false]
  split
  · dsimp only; rw [hp]; exact ⟨rfl, rfl, rfl, rfl, rfl⟩
  · simp only [setMode_pins, hc]
    split <;> simp only [State.set_pins, hp] <;> exact ⟨rfl, rfl, rfl, rfl, rfl⟩

/-- A record with this code and detail is in the log. -/
theorem any_is_iff (l : List FaultRec) (c d : Nat) : l.any (fun r => r.is c d) = true ↔ ∃ r ∈ l, r.code = c ∧ r.detail = d := by
  simp [FaultRec.is]

/-! ### Commands (R122 to R132) -/

/-- A command that waits and passes its checks runs. -/
theorem Ready.run {s : State} {p : Port} {tag op : Nat} {check : State → Cmd → Option Nat} {c : Cmd} (h : Ready s p tag op check c)
    (run : State → Cmd → State) : withCmd s p tag op check run = .next (run s c) := by
  unfold withCmd
  rcases h.passes with hp | hp
  · rw [Bool.and_eq_true] at hp
    simp [h.found, h.phase, h.may, hp.2]
  · simp [h.found, h.phase, h.may, hp]

/-- A final completion. -/
theorem finishWith_eq {s : State} {c : Cmd} (h : c.discard = false) (st d r : Nat) (out : List Byte) : finishWith s c st d r out =
    replaceCmd { s with cmd := { s.cmd with comps := s.cmd.comps ++ [⟨c.port, c.tag, st, d, c.index, true, !c.first, resultOf s st r % 2 ^ 64, c.imm, out⟩] } } c { c with phase := .done, first := true } := by
  unfold finishWith queueComp; simp only [h, Bool.false_eq_true, if_false]

/-- A final completion changes no register. -/
theorem finishWith_regs {s : State} {c : Cmd} (h : c.discard = false) (st d r : Nat) (out : List Byte) : (finishWith s c st d r out).regs = s.regs := by
  rw [finishWith_eq h]; rfl

/-- What a final completion does to the queues. -/
theorem finishWith_cmd {s : State} {c : Cmd} (h : c.discard = false) (st d r : Nat) (out : List Byte) : (finishWith s c st d r out).cmd = { s.cmd with comps := s.cmd.comps ++ [⟨c.port, c.tag, st, d, c.index, true, !c.first, resultOf s st r % 2 ^ 64, c.imm, out⟩], cmds := replaceFirst c { c with phase := .done, first := true } s.cmd.cmds } := by
  rw [finishWith_eq h]; rfl

/-- It changes nothing else. -/
theorem finishOk_eq {s : State} {c : Cmd} (h : c.discard = false) (r : Nat) : finishOk s c r = { s with cmd := (finishOk s c r).cmd } := by
  unfold finishOk finish; rw [finishWith_eq h]; rfl

/-- The command has ended with that status. -/
theorem ends_with {s : State} {c : Cmd} (h : c.discard = false) (st d r : Nat) (out : List Byte) : Ends (finishWith s c st d r out) c st (resultOf s st r) := by
  rw [Ends, finishWith_cmd h]
  exact ⟨_, List.getLast?_concat, rfl, rfl, rfl, rfl, rfl, rfl⟩

/-- The command has ended DONE. -/
theorem ends_ok {s : State} {c : Cmd} (h : c.discard = false) (r : Nat) : Ends (finishOk s c r) c St.done r := ends_with h St.done 0 r []

/-- A found command is one of the fetched. -/
theorem findCmd_mem {s : State} {p : Port} {tag op : Nat} {c : Cmd} (h : findCmd s p tag op = some c) : c ∈ s.cmd.cmds := List.mem_of_find?_eq_some h

/-- A long operation is accepted, then runs. -/
theorem begin_first {s : State} {c : Cmd} (h : c.discard = false) (hf : c.first = false) (run : State → Cmd → State) : begin_ s c run =
    run (accept s c) { c with phase := .running, first := true } := by
  unfold begin_; simp [hf]

/-- A command that stands in the list is replaced by what comes for it. -/
theorem replaceFirst_mem {c : Cmd} (c' : Cmd) {l : List Cmd} (h : c ∈ l) : c' ∈ replaceFirst c c' l := by
  induction l with
  | nil => cases h
  | cons x r ih =>
    unfold replaceFirst
    split
    · exact List.mem_cons_self ..
    · next hx => exact List.mem_cons_of_mem _ (ih ((List.mem_cons.mp h).resolve_left fun e => hx e.symm))

/-- An accepted command is running. -/
theorem accept_runs {s : State} {c : Cmd} (h : c ∈ s.cmd.cmds) : Running (accept s c) c := by
  have h2 : (queueComp s c St.accepted 0 0 false []).cmd.cmds = s.cmd.cmds := by unfold queueComp; split <;> rfl
  unfold Running accept replaceCmd
  dsimp only
  rw [h2]
  exact replaceFirst_mem _ h

/-- Acceptance changes no register. -/
theorem accept_regs {s : State} {c : Cmd} (h : c.discard = false) : (accept s c).regs = s.regs := by
  unfold accept queueComp replaceCmd; simp only [h, Bool.false_eq_true, if_false]

/-- Records read in order are their bytes in order. -/
theorem foldl_faultBytes (l : List FaultRec) (a : List Byte) : l.foldl (fun l r => l ++ faultBytes r) a = a ++ (l.map faultBytes).flatten := by
  induction l generalizing a with
  | nil => simp
  | cons x l ih => simp [ih]

/-- A final completion in a frame. -/
theorem RegFrame.fin {l : List Fld} {s t : State} (h : RegFrame l s t) {c : Cmd} (hd : c.discard = false) (st d r : Nat) (out : List Byte) : RegFrame l s (finishWith t c st d r out) := h.other (finishWith_regs hd st d r out)

/-- A completion with DONE in a frame. -/
theorem RegFrame.finOk {l : List Fld} {s t : State} (h : RegFrame l s t) {c : Cmd} (hd : c.discard = false) (r : Nat) : RegFrame l s (finishOk t c r) := h.other (finishWith_regs hd _ _ r _)

/-- An acceptance in a frame. -/
theorem RegFrame.acc {l : List Fld} {s t : State} (h : RegFrame l s t) {c : Cmd} (hd : c.discard = false) : RegFrame l s (accept t c) := h.other (accept_regs hd)

end Sys2Proof.Machine
end

