-- ==== Sys2Proof/Machine/Pins.lean ====
section
/-! DEFINITION. The levels of the balls that the device drives, as views of the state (R44 to R47, R50, R52, R54, R344 to R346,
R658). -/

namespace Sys2Proof.Machine

/-- What a ball shows: high impedance, low, high, clamped to the octet's APDG, electrical idle, or a signal: a clock, a PWM, a
serial lane, or an analogue input or output in use. -/
inductive Level where
  | z
  | low
  | high
  | clamped
  | idle
  | signal
  /-- A bias DAC: its output in microvolts and its current limit in mA (R381). -/
  | bias (uv mA : Nat)
  deriving DecidableEq, Repr

/-- The balls that the device drives or clamps. -/
inductive Ball where
  | apd (n : Nat)
  | apdTt (group : Nat)
  | apdbPwm
  | thv (n : Nat)
  | fpaBias (n : Nat)
  | fpaPclk | fpaLsync | fpaFsync | fpaRst | fpaScl | fpaSda | fpaShdrv
  | erow (n : Nat)
  | ecol (n : Nat)
  | ebk (bank : Nat)
  | fls (string : Nat)
  | sout (pair : Nat) (side : Side)
  | trigOut | trigBus | halter
  | peTx (lane : Nat)
  | peWake | peClkreq
  | prtTx (lane : Nat)
  | qspiClk
  | qspiCs (n : Nat)
  | qspiIo (n : Nat)
  | mgmtMiso | mgmtAlert | tstTdo
  | rlmDq (ch : Nat) | rlmWds (ch : Nat) | rlmCk (ch : Nat) | rlmCa (ch : Nat) | rlmPar (ch : Nat) | rlmCke (ch : Nat)
  | rlmReset (ch : Nat)
  | rlmCs (ch rank : Nat)
  deriving DecidableEq, Repr

/-- High or low. -/
def Level.of (b : Bool) : Level := if b then .high else .low

/-- An open-drain ball: driven low, or released. -/
def Level.drain (b : Bool) : Level := if b then .low else .z

/-- A signal, or a resting level. -/
def Level.runs (b : Bool) (rest : Level) : Level := if b then .signal else rest

/-- The octet of a channel, whose guard return is the APDG ball of the same number (R41). -/
def octetOf (ch : Nat) : Nat := ch / 8

/-- The cluster group of a cluster, and its test-tone ball (R43). -/
def groupOf (n : Nat) : Nat := n / 4

/-- Time since the present slot's start in 0.25 ns. -/
def slotQuarters (s : State) : Nat := 5 * (s.sys.raw - s.pins.slotAt)

/-- The columns high at a time of the slot: the pre-charge for 40 ns, then those of the shot in each pulse (R345). -/
def columnsAt (p : Pins) (q : Nat) : Nat :=
  if q < 160 then p.pre else if p.pulses.any fun (e : Nat × Nat) => e.1 ≤ q && q < e.2 then p.ecol else 0

/-- The rows high at a time of the slot: from 40 ns until 10 ns after the last pulse (R345). -/
def rowsAt (p : Pins) (q : Nat) : Nat :=
  if 160 ≤ q && p.pulses.any (fun (e : Nat × Nat) => q < e.2 + 40) then p.erow else 0

/-- The clusters that the impedance check that runs covers belong to a group (R43, R183). -/
def toneOn (s : State) (g : Nat) : Bool :=
  s.flag F.RXF_IMP_STATUS_BUSY && bit (s.get F.RXF_IMP_CFG_GROUP_EN) g
    && (List.range 4).any fun i => bit (s.rxf.impFrom.getD 0) (4 * g + i)

/-- MEM is up and a channel of RL memory is trained. -/
def rlmUp (s : State) (ch : Nat) : Bool := safUp s && bit s.sys.rlm ch

/-- A transmitter of the partner link sends: the words of a training once it has found a receiver, and in ACTIVE on the lanes that
are up; in Doze and Deep it is idle (R594, R600, R602). -/
def sends (s : State) (lane : Nat) : Bool :=
  let st := prtState s
  (Prt.bitlock ≤ st && st ≤ Prt.session) || (st = Prt.active && bit (s.get F.LNK_PRT_STATUS_LANES_UP) lane)

/-- The array is driven: EN is 1 and the path is not lost (R380, R383). -/
def arrayOn (s : State) : Bool := thmUp s && s.flag F.THM_CTRL_EN && s.get F.THM_STATUS_STATE != 3

/-- R381: what bias DAC n drives: 0.4 mV per code, with a limit of ILIM mA, of which 0 acts as 1. -/
def biasOut (s : State) (n : Nat) : Level := .bias (400 * s.get (F.THM_BIAS_CODE n)) (max 1 (s.get (F.THM_BIAS_ILIM n)))

/-- The level of a ball. In OFF none is driven; while the shed that owns it is off a ball shows its reset state (chapter 02); a
device held in FATAL leaves every QSPI ball free (R658). Between the rows that carry them, the buses and the link's ends rest (log
entry 80). -/
def level (s : State) (b : Ball) : Level :=
  if s.mode == .off then .z
  else match b with
    | .apd n => if s.get (clst (servedBy s (n / 64))) = Cl.off then .clamped else .signal
    | .apdTt g => Level.runs (hgeUp s && toneOn s g) .z
    | .apdbPwm => Level.runs (apdbRuns s) .low
    | .thv _ => Level.runs (arrayOn s) .z
    | .fpaBias n => if arrayOn s then biasOut s n else .low
    | .fpaPclk | .fpaLsync | .fpaFsync => Level.runs (framesRun s) .low
    | .fpaRst => Level.of (thmUp s && s.pins.fpaRst)
    | .fpaScl | .fpaSda => .z
    | .fpaShdrv => Level.of (thmUp s && !s.pins.shutOpen)
    | .erow n => Level.of (emiUp s && bit (rowsAt s.pins (slotQuarters s)) n)
    | .ecol n => Level.of (emiUp s && bit (columnsAt s.pins (slotQuarters s)) n)
    | .ebk k => Level.of (emiUp s && bit s.pins.ebk k)
    | .fls n => Level.of (emiUp s && bit s.pins.fls n)
    | .sout p d => Level.of (safUp s && (s.ev d).pair p == .on)
    | .trigOut => Level.of (safUp s && s.pins.trigOut.any fun a => a ≤ s.sys.raw && s.sys.raw < a + 800)
    | .trigBus => .z
    | .halter => Level.drain (ctlUp s && s.pins.halter)
    | .peTx _ => Level.runs (lnkUp s && s.link.up) .idle
    | .peWake => Level.drain s.pins.peWake
    | .peClkreq => Level.drain (lnkUp s && s.get F.LNK_PCIE_STATUS_PWR != 2)
    | .prtTx n => Level.runs (sends s n) .idle
    | .qspiClk => if s.held then .z else .low
    | .qspiCs _ => if s.held then .z else .high
    | .qspiIo _ => .z
    | .mgmtMiso => .z
    | .mgmtAlert => Level.drain (alertLow s)
    | .tstTdo => .z
    | .rlmDq _ => .z
    | .rlmWds ch | .rlmCa ch | .rlmPar ch | .rlmCk ch => Level.runs (rlmUp s ch) .low
    | .rlmCke ch | .rlmReset ch => Level.of (rlmUp s ch)
    | .rlmCs ch rank => Level.runs (rlmUp s ch && (rank = 0 || s.sys.rlmDual)) .high

/-- RLMn_PAR: even parity over the 24 command and address balls (R54). -/
def rlmParity (word : Nat) : Bool := popCount 24 word % 2 = 1

end Sys2Proof.Machine
end

