-- ==== Sys2Proof/WellFormed.lean ====
section
/-! DEFINITION. Well-formed commands: the operand ranges that the spec gives and that the operands' types leave open. A
command that is not well-formed names nothing that can reach the block. -/

namespace Sys2Proof

/-- A command tag has 16 bits (R122). -/
def tagOk (n : Nat) : Bool := n < 65536

/-- A command entry has 64 bytes (R122). -/
def entryOk64 (l : List Dword) : Bool := l.length = 16

/-- A host buffer is a number of 64-byte units, 65,535 at most (R124). -/
def bufferOk (l : List Byte) : Bool := l.length % 64 = 0 && l.length ≤ 64 * 65535

/-- The bytes that one low period of MGMT_CS# clocks after TYPE and SEQ (R153, R154): a body of 65,535 bytes at most, with LEN
and CRC. -/
def frameBytesOk (l : List Byte) : Bool := l.length ≤ 65541

/-- An offset in BAR0, a 2 MiB space (R14). -/
def offsetOk (n : Nat) : Bool := n < 2 ^ 21

/-- An offset in BAR0 with the alignment that the device accepts (R11). -/
def alignedOk (n : Nat) (qword : Bool) : Bool := n < 2 ^ 21 && n % (if qword then 8 else 4) = 0

/-- A direction number of 17 bits (R259, R311). -/
def dirOk (n : Nat) : Bool := n < 131072

/-- A raw tap of the 80-tap delay line (R202). -/
def tapOk (n : Nat) : Bool := n < 80

/-- The pulses of a shot, 4 at most (R237). -/
def pulsesOk (l : List Nat) : Bool := l.length ≤ 4

/-- A code of a 12-bit converter (chapter 13). -/
def codeOk (n : Nat) : Bool := n < 4096

/-- The sums of a frame's pixels: 64 cycles of at most 1.8 V either way (R384, R385). -/
def sumsOk (l : List Int) : Bool := l.all fun v => v.natAbs ≤ 64 * 1800000

/-- Samples of a monitor channel's modulator are codes of 16 bits (R401). -/
def codesOk (l : List Nat) : Bool := l.all fun v => v < 65536

/-- The 16 samples of an LBT input (R368). -/
def samplesOk (l : List Nat) : Bool := l.length = 16 && l.all codeOk

/-- Whether a command is well-formed. -/
def Instr.wellFormed : Instr → Bool
  | .railsValid => true
  | .powerOnReset => true
  | .railTrip _ => true
  | .mainResetRelease => true
  | .xtalAonStable => true
  | .xtalAonTimeout => true
  | .clocksLocked _ _ _ _ _ => true
  | .imageCheckDone _ _ => true
  | .herdFirmwareRunning => true
  | .rlTrainingDone _ _ _ _ _ => true
  | .excitationSettled _ _ => true
  | .refInLoss => true
  | .refInQualified _ => true
  | .pllUnlock _ => true
  | .clockCrossMeasure _ _ _ => true
  | .clkRefCfgWrite _ => true
  | .wake _ _ => true
  | .sleepEntryDone => true
  | .aonAlarm => true
  | .stateChangeDone => true
  | .deviceReset => true
  | .perstAssert => true
  | .perstRelease => true
  | .pcieConfigReady => true
  | .cmdCtrlWrite _ => true
  | .ringDrainDone => true
  | .cmdDb0 _ => true
  | .commandFetch entry _ => entryOk64 entry
  | .bufferReadDone _ tag _ data => tagOk tag && bufferOk data
  | .bufferTimeout tag => tagOk tag
  | .completionWrite _ _ => true
  | .cmdDb1 _ => true
  | .cmpNotifyTimer => true
  | .nonceExpiry => true
  | .nop _ tag => tagOk tag
  | .getInfo _ tag => tagOk tag
  | .setState _ tag => tagOk tag
  | .reset _ tag => tagOk tag
  | .setPowerCap _ tag => tagOk tag
  | .abort _ tag => tagOk tag
  | .herdSwitch _ tag => tagOk tag
  | .loadScanProg _ tag => tagOk tag
  | .scanStart _ tag => tagOk tag
  | .scanStop _ tag => tagOk tag
  | .scanSwitch _ tag => tagOk tag
  | .setTiming _ tag => tagOk tag
  | .setPointRing _ tag => tagOk tag
  | .yardGrant _ tag => tagOk tag
  | .yardRevoke _ tag => tagOk tag
  | .yardRevokeDone => true
  | .yardQuery _ tag => tagOk tag
  | .thmConfig _ tag _ => tagOk tag
  | .thmLoadCorr _ tag => tagOk tag
  | .thmSelectCorr _ tag => tagOk tag
  | .thmFfc _ tag => tagOk tag
  | .thmLoadCoef _ tag => tagOk tag
  | .thmSelectCoef _ tag => tagOk tag
  | .thmLoadReglut _ tag => tagOk tag
  | .thmSync _ tag => tagOk tag
  | .safLoadConfig _ tag => tagOk tag
  | .safCommit _ tag => tagOk tag
  | .safArm _ tag => tagOk tag
  | .safDisarm _ tag => tagOk tag
  | .safeLockoutClear _ tag => tagOk tag
  | .acqConfig _ tag => tagOk tag
  | .acqArm _ tag => tagOk tag
  | .acqDisarm _ tag => tagOk tag
  | .acqTrigger _ tag => tagOk tag
  | .acqReadLog _ tag => tagOk tag
  | .calGroom _ tag => tagOk tag
  | .groomDone _ _ _ _ _ => true
  | .autoGroomStart _ => true
  | .calStore _ tag => tagOk tag
  | .calRead _ tag => tagOk tag
  | .calSpareEngage _ tag => tagOk tag
  | .calSpareRelease _ tag => tagOk tag
  | .prtConfig _ tag => tagOk tag
  | .prtRetrain _ tag => tagOk tag
  | .trigbusMeasure _ tag => tagOk tag
  | .diagReadFaults _ tag => tagOk tag
  | .diagClearFaults _ tag => tagOk tag
  | .diagImpedance _ tag => tagOk tag
  | .impedanceCheckDone _ _ _ => true
  | .diagSelfTest _ tag => tagOk tag
  | .diagReadCounters _ tag => tagOk tag
  | .secGetIdentity _ tag => tagOk tag
  | .secGetNonce _ tag => tagOk tag
  | .secFwStage _ tag => tagOk tag
  | .secFwActivate _ tag => tagOk tag
  | .secAttest _ tag => tagOk tag
  | .secReprovision _ tag => tagOk tag
  | .mgmtCommand _ _ body _ => frameBytesOk body
  | .mgmtStatusRead _ rest => frameBytesOk rest
  | .mgmtCompletionRead _ rest => frameBytesOk rest
  | .mgmtRegRead _ _ body _ => frameBytesOk body
  | .mgmtReset _ rest => frameBytesOk rest
  | .mgmtRead _ => true
  | .mgmtHeldExecute => true
  | .slotStart pulses => pulsesOk pulses
  | .frameBoundary => true
  | .shotEnd _ _ _ => true
  | .rxfChCfgWrite _ _ _ => true
  | .returnEdge _ _ tap => tapOk tap
  | .eventWordFormed _ _ _ _ _ _ => true
  | .bridgeFrame _ _ _ _ _ => true
  | .apdbCtrlWrite _ => true
  | .apdbSettledChange _ _ => true
  | .apdbTrip _ => true
  | .clusterFeFault _ => true
  | .spareRestartDone => true
  | .rxfObsWrite _ _ => true
  | .sliceAverageDone _ _ => true
  | .clusterRestartStart _ => true
  | .clusterRestartDone _ => true
  | .tdcWinProfWrite _ _ => true
  | .ppsEdge _ => true
  | .ppsAlignWrite _ => true
  | .ppsLost => true
  | .fmCtrlWrite _ _ => true
  | .fmGateEnd _ _ => true
  | .hgeCodeWrite _ _ => true
  | .hgeDitherWrite _ => true
  | .detectionDone dir _ => dirOk dir
  | .recordDma _ => true
  | .hgeRingRptrWrite _ _ => true
  | .stallMoveDone _ => true
  | .backgroundWork => true
  | .farReadFail _ => true
  | .uncorrectableError _ => true
  | .yrdMapCfgWrite _ => true
  | .heatModelTick => true
  | .lbtMean _ samples => samplesOk samples
  | .rechargeStart _ => true
  | .rechargeEnd _ _ _ _ => true
  | .bankOvervoltage _ code => codeOk code
  | .sweepPeriod => true
  | .emiBankRetry _ => true
  | .emiBankEnWrite _ => true
  | .strayCurrent _ _ => true
  | .emiInhibitClear => true
  | .emiFlCtrlWrite _ => true
  | .emiFlDutyWrite _ _ => true
  | .floodOnTime _ _ => true
  | .floodOpenCheck _ sample => codeOk sample
  | .floodDiagTimeout _ => true
  | .floodSwitchOff _ sample => codeOk sample
  | .thmCtrlWrite _ => true
  | .thermalFrameStart => true
  | .thermalFrameComplete sums => sumsOk sums
  | .thermalFrameDelivery => true
  | .thmRingPtrWrite _ => true
  | .fpaBiasLimit => true
  | .pathSettled => true
  | .settleTimeout => true
  | .syncDecEdge => true
  | .monitorOutput _ codes _ => codesOk codes
  | .coefCrossfadeEnd => true
  | .ffcShutterTimeout => true
  | .ffcSumDone => true
  | .shutterStuck => true
  | .autoFfcStart => true
  | .hkConversion _ _ => true
  | .hkInjectRequest _ _ => true
  | .hkInjection _ _ => true
  | .hkcMmClrWrite _ _ => true
  | .hkSelfcal _ => true
  | .hkSelfcalDone _ _ => true
  | .refBufferOn _ => true
  | .heartbeat _ => true
  | .fselAccept _ _ => true
  | .fsetDisagree => true
  | .fsetOverlapEnd _ => true
  | .coverageLapse dir => dirOk dir
  | .coverageTrip _ _ => true
  | .evaluatorSelfTest _ _ _ => true
  | .testPulse _ _ _ _ => true
  | .readbackFault _ => true
  | .edmWindowExpiry _ => true
  | .guardAccept _ _ _ _ => true
  | .guardDiscrepancy _ => true
  | .rstReqAccept _ _ _ => true
  | .rstReqJam => true
  | .autoRestartExpiry _ => true
  | .clearableExpiry => true
  | .f3Fault _ _ => true
  | .f3CauseCleared _ _ => true
  | .tstModeRise _ => true
  | .debugPortOpen => true
  | .identityKeyReady => true
  | .announce _ _ _ _ _ _ => true
  | .mirror _ _ _ _ _ _ _ _ _ _ _ => true
  | .keepalive => true
  | .fmark _ _ => true
  | .twinStartTimeout => true
  | .partnerSilence => true
  | .beacon => true
  | .query => true
  | .beaconEchoTimeout => true
  | .queryEchoTimeout => true
  | .halterStandby => true
  | .halterTakeover => true
  | .unsureClear => true
  | .halterClaim => true
  | .halterRelease => true
  | .triggerSample _ => true
  | .trigInEdge _ => true
  | .trigger _ _ _ => true
  | .measure => true
  | .measureReply _ _ => true
  | .captureEnd _ => true
  | .recordingOverrun _ => true
  | .recordingClosed => true
  | .rearmEnd => true
  | .irqEntry => true
  | .herdEoi => true
  | .irqExit => true
  | .msixSend => true
  | .irqHostEoi _ => true
  | .msixUnblock _ => true
  | .irqSwset _ _ => true
  | .irqSwclr _ _ => true
  | .pcieLinkLost => true
  | .functionLevelReset => true
  | .pmeTurnOff => true
  | .pmeWaitExpiry => true
  | .l1Entry _ => true
  | .peWakeTimeout => true
  | .prtDetectProbe _ => true
  | .trn _ _ _ _ => true
  | .cap _ => true
  | .ping _ => true
  | .echo _ _ => true
  | .keyx _ body _ => frameBytesOk body
  | .prtTrainingFail => true
  | .prtRetry => true
  | .wordLockLoss _ => true
  | .prtLinkLoss => true
  | .doze => true
  | .dozeExit => true
  | .dozeKeepalive => true
  | .herdCompareMismatch _ => true
  | .herdWatchdogExpiry => true
  | .faultLog _ _ _ => true
  | .faultReactionRun => true
  | .f4Fault _ _ => true
  | .fatalResetTimer => true
  | .wideLoRead _ off => offsetOk off
  | .wideLoWrite _ off _ => offsetOk off
  | .wideHiWrite _ off _ => offsetOk off
  | .registerWrite _ off qword _ _ _ => alignedOk off qword
  | .aonPowerLoss => true
  | .edmAccept _ _ => true
  | .pcieLinkUp _ _ _ => true
  | .pcieConfigWrite _ _ _ _ => true
  | .pllRelock _ => true
  | .fpaResetRelease => true
  | .refBufferOff _ => true
  | .calStoreDone _ => true
  | .selfTestDone _ => true
  | .fwStageDone _ => true
  | .fwActivateDone => true
  | .switchOverDone => true
  | .trigbusMeasureDone => true
  | .prtEyeDone _ _ _ => true
  | .keepaliveAccepted _ _ => true

end Sys2Proof
end

