-- ==== Sys2Proof/Tests/Slice0.lean ====
section
/-! SUPPORT. The model's own tests: ill-formed commands that the check refuses, small steps, and for each statement states
that meet its hypotheses. -/

namespace Sys2Proof.Tests

open Sys2Proof Sys2Proof.Machine

/-- The state after reset in another device state, past start-up, with some register fields set. -/
def w (m : Mode) (l : List (Fld × Nat)) : State :=
  ((F.SYS_STATUS_STEP, 6) :: l).foldl (fun s e => s.set e.1 e.2) { State.reset with mode := m }

/-- A command of the management port with its inline dwords from 4 on. -/
def cm (op : Nat) (args : List Nat) (data : List Byte) : Cmd :=
  { port := .mgmt, tag := 7, index := 0, opcode := op, flags := 0, version := 1, paramLen := 1, bufAddr := 0, inl := args, data := data,
    counter := 0, phase := if opReads op then .ready else .fetched, first := false, discard := false }

/-- That command waits in a state. -/
def has (s : State) (c : Cmd) : State := { s.set F.SYS_STATUS_CMD_LIVE 1 with cmd := { s.cmd with cmds := [c] } }

theorem ready_mk {s : State} {p : Port} {tag op : Nat} {check : State → Cmd → Option Nat} {c : Cmd}
    (h : findCmd s p tag op = some c ∧ c.phase = (if opReads op = true then .ready else .fetched) ∧ startable s c = true ∧
      ((opReads op && opLong op && c.first) = true ∨ check s c = none)) : Ready s p tag op check c := ⟨h.1, h.2.1, h.2.2.1, h.2.2.2⟩

theorem waits_mk {s : State} {p : Port} {tag op : Nat} {c : Cmd}
    (h : findCmd s p tag op = some c ∧ c.phase = (if opReads op = true then .ready else .fetched) ∧ startable s c = true ∧
      c.first = false) : Waits s p tag op c := ⟨h.1, h.2.1, h.2.2.1, h.2.2.2⟩

theorem get_eq {α : Type} (o : Option α) (h : o.isSome = true) : o = some (o.get h) := (Option.some_get h).symm

theorem get_pair {α β : Type} (o : Option (α × β)) (h : o.isSome = true) : o = some ((o.get h).1, (o.get h).2) := (Option.some_get h).symm

theorem pair_snd {α β : Type} (x : α × β) {b : β} (h : x.2 = b) : x = (x.1, b) := by rw [← h]

/-! ### Well-formed commands: for each check a term that it refuses -/

theorem test_wf_tag : (Instr.nop .ring 65536).wellFormed = false ∧ (Instr.nop .ring 65535).wellFormed = true := by decide

theorem test_wf_entry : (Instr.commandFetch (List.replicate 15 0#32) false).wellFormed = false ∧
    (Instr.commandFetch (List.replicate 16 0#32) false).wellFormed = true := by decide

theorem test_wf_buffer : (Instr.bufferReadDone .ring 1 false (List.replicate 63 0#8)).wellFormed = false := by decide

theorem test_wf_frame (l : List Byte) (h : l.length = 65542) : (Instr.mgmtCommand 1 60 l 0).wellFormed = false := by
  show decide (l.length ≤ 65541) = false
  rw [h]; rfl

theorem test_wf_offset : (Instr.wideLoRead .pcie 0x200000).wellFormed = false := by decide

theorem test_wf_aligned : (Instr.registerWrite .pcie 4 true 0 true false).wellFormed = false ∧
    (Instr.registerWrite .pcie 2 false 0 true false).wellFormed = false := by decide

theorem test_wf_direction : (Instr.coverageLapse 131072).wellFormed = false := by decide

theorem test_wf_tap : (Instr.returnEdge 0 0 80).wellFormed = false := by decide

theorem test_wf_pulses : (Instr.slotStart [1, 2, 3, 4, 5]).wellFormed = false := by decide

theorem test_wf_code : (Instr.lbtMean 0 (List.replicate 16 4096)).wellFormed = false := by decide

theorem test_wf_sums : (Instr.thermalFrameComplete [115200001]).wellFormed = false := by decide

theorem test_wf_codes : (Instr.monitorOutput 0 [65536] 0).wellFormed = false := by decide

/-! ### The spec's worked examples -/

/-- Chapter 08, sizing a survey cell: 1,216 bins at 500 ps, 2,432 at 250 ps, in a 4 KiB and an 8 KiB slot. -/
theorem test_cell_sizes : cellBins 0 480 2 = 1216 ∧ cellBins 0 480 1 = 2432 ∧ cellSize true 1216 = some 1 ∧
    cellSize false 1216 = some 1 ∧ cellSize true 2432 = some 2 := by decide +kernel

/-- Chapter 08, from cell to record: the cell and the settings. -/
def exampleCell : Cell :=
  { dir := 40000, frame := 0x12345678, pc := false, ring := 0, start := 0, stop := 0, bw := 16, pre := 3, prePos := false, packed := true,
    stall := 2, k := 0, bins := List.replicate 611 17 ++ [40, 118, 61] ++ List.replicate 410 17,
    wsum := List.replicate 76 20400 ++ [222000] ++ List.replicate 51 20400, wsat := List.replicate 128 0, left := 0, shots := 32,
    events := 0, sats := 0, shadows := 0, drop := false, bridge := false, mixed := false, cntSat := false,
    taken := List.replicate 32 (12345, 2), base := 0, chan := 0, closed := true, short := false, stale := false, closedAt := 0, src := none }
def exampleSettings : State :=
  ((State.reset.set F.TDC_ZERO 200).set (F.HGE_WALK 2 18) 8).set F.HGE_CTRL_WALK_EN 1

/-- Its one return, at bin 612, makes the record 0x0000_9C40, 0x2082_BF5F, 0x4E0A_84B0, 0x6780_3039. -/
theorem test_record_example :
    (let m := ambient exampleSettings exampleCell
     returnRecord exampleCell m 0 (makeReturn exampleSettings exampleCell m none (612, netCount exampleCell m 612))) =
      leBytes 4 0x9C40 ++ leBytes 4 0x2082BF5F ++ leBytes 4 0x4E0A84B0 ++ leBytes 4 0x67803039 := by decide +kernel

/-- Chapter 11: code 657 of the example thermistor is 75.0 degrees C. -/
theorem test_lamp_board_example : lbtTemp 1024 3435 657 = some (16 * 75) := by decide +kernel

/-- Chapter 10, step 5: a bank 22.56 K above a lamp board at 75 or 80 degrees C is derated to 11/16 or 3/16. -/
theorem test_derate_example :
    (∀ t ∈ [(1200, 11), (1280, 3)], bankDerate ((State.reset.set (F.EMI_LBT_VALID 0) 1).set (F.EMI_LBT_TEMP 0) t.1)
      { num := 2256, den := 100 } = t.2) := by decide +kernel

/-- Chapter 12, one pixel through correction, and the third frame of a fade. -/
theorem test_pixel_example :
    correctPixel (some ⟨0, 480, 1024, 0, 0, [⟨1200, 35389, 320, false⟩]⟩) [(-35, false)] (some 616) 0 31250 = 33504 ∧
    mixFrames 3 ([33504], [false]) ([33600], [false]) = ([33540], [false]) := by decide +kernel

/-- Chapter 12: a 1280 x 1024 array takes 87,324 pixel periods. -/
theorem test_frame_periods : framePeriods 1280 1024 16 4 1308 = 87324 := by decide +kernel

/-- Chapter 19: raw tap 37 reads as fine value 37. -/
theorem test_tap_example : lutEntry ([60310] ++ List.replicate 36 0 ++ [1802]) 131072 37 = 37 := by decide +kernel

/-- Chapter 06, two elements of CL5: channel 333 reads 0xC028_0078 and passes; channel 340 fails twice, its bit 20 is set, and
the fault 0x0403 names it. -/
theorem test_impedance_example :
    (match exec (.impedanceCheckDone [0, 1000, 0, 0] [⟨333, 302, 1600000⟩, ⟨340, 25, 0⟩] [⟨340, 25, 0⟩])
        { w .ready [(F.RXF_IMP_STATUS_BUSY, 1)] with rxf := { State.reset.rxf with impFrom := some 0x1FFFF } } with
      | .next t => (match regRef t 0x45334 with
          | some r => decide (readFields t r.side r.at_ r.fields = 0xC0280078)
          | none => false)
        && decide (t.faults.map (fun f => (f.code, f.cls, f.detail)) = [(0x0403, 2, 340)] ∧ t.get (F.RXF_CH_FAIL 5) = 2 ^ 20)
      | _ => false) = true := by decide +kernel

/-- Chapter 18, one frame mark: PSKEW is -29 steps. -/
theorem test_frame_mark_example :
    (takeSkew { (w .scan [(F.RED_STATUS_MODE, 1), (F.RED_CTRL_SIDE, 1)]).set F.LNK_PRT_LAT_LAT 980 with
      red := { State.reset.red with mark := some (5, 1171) } } 5 140).getInt F.RED_PSKEW = -29 := by decide +kernel

/-- FIPS 197, appendix C.3: the example of AES-256. -/
theorem test_aes_example :
    Gcm.num (Aes.block (Aes.roundKeys (List.range 32)) ((List.range 16).map fun i => 17 * i)) =
      0x8EA2B7CA516745BFEAFC49904B496089 := by decide +kernel

/-- FIPS 180-4: the digests of "abc" begin with these 8 bytes. -/
theorem test_digest_examples :
    ofBe ((sha256 [0x61, 0x62, 0x63]).take 8) = 0xBA7816BF8F01CFEA ∧ ofBe ((sha384 [0x61, 0x62, 0x63]).take 8) = 0xCB00753F45A35E8B := by
  decide +kernel

/-- R153 to R155: a STATUS_READ frame as it is sent is taken; one with another CRC or too short is not. -/
theorem test_frame_check :
    frameCheck (mgmtFrame 2 9 []) = none ∧ frameCheck ((mgmtFrame 2 9 []).set 7 0) = some 1 ∧ frameCheck ((mgmtFrame 2 9 []).drop 1) = some 2 := by
  decide +kernel

/-- Chapter 02, the signal tables: balls in their reset states. -/
theorem test_reset_levels :
    [Ball.apd 0, .apdbPwm, .fpaRst, .erow 0, .ecol 31, .sout 0 .a, .halter, .peTx 0, .qspiCs 1, .rlmCs 0 0].map (level State.reset)
      = [.clamped, .low, .low, .low, .low, .low, .z, .idle, .high, .high] := by
  decide +kernel

/-- R280: the entry of a pinned thermal stall in far window 5 at offset 3, slot size read as 0. -/
theorem test_map_entry :
    entryOf ⟨7, ⟨.far, 3, 5⟩, true, none, 1, 2, [], [], false, 0, none⟩ = 0b11 + 2 ^ 2 + 1 * 2 ^ 4 + 5 * 2 ^ 10 + 3 * 2 ^ 16 := by
  decide

/-- R304: a map entry at or above 2^MAP_LOG2 reads 0; R303: a misaligned read has no answer. -/
theorem test_bar2_read : readBar2 State.reset 0x3000008 8 = some 0 ∧ readBar2 State.reset 0x3000004 8 = none := by decide +kernel

/-! ### Single steps -/

/-- Log entry 10: an empty queue is a tick of the time base: nothing waits, and no output is switched on. -/
theorem test_idle_step : (match step State.reset with | .next t => decide (t.pending = [] ∧ t.pins = State.reset.pins) | _ => false) = true := by
  decide +kernel

/-- No word spells a command. -/
theorem test_no_word : decodeTableWord 16 5 = none ∧ State.reset.withFetchWord 16 5 = State.reset := by decide +kernel

/-! ### States that meet the hypotheses of the statements -/

def cfg1 : SafCfg := { setsEn := 0xFF, guardsEn := 0xF, frameUs := 40000, kFrames := 2, covGrace := 0, spanMax := 0, progCrc := [], edmWin := 100, pairs := [], sets := [] }
def pairCfg1 : PairCfg := { en := true, autoRestart := true, edmEn := false, guardMask := 0, restartMs := 100, pmask := [0, 0, 0, 0, 0, 0, 0, 0] }
def armedCfg : SafCfg := { cfg1 with pairs := [pairCfg1, { pairCfg1 with autoRestart := false }, pairCfg1, pairCfg1] }
def armed1 (m : Mode) (st : PairState) : State :=
  let s := w m []
  { s with saf := { s.saf with armed := true, cfg := some armedCfg, evA := { s.saf.evA with pairs := [st, st, st, st] },
                               evB := { s.saf.evB with pairs := [st, st, st, st] } } }

def img1 : ImgRead := { ok := true, major := 1, prev := 0, version := 1, svn := 1, schema := 1, standby := false }

def ringOn : State :=
  let s := w .ready [(F.SYS_STATUS_CMD_LIVE, 1), (F.CMD_CTRL_EN, 1), (F.LNK_PCIE_STATUS_BME, 1), (F.SYS_STATUS_PCIE_CFG, 1), (F.CMD_INFO_CUR_MAJ, 1), (F.CMP_RING_SIZE, 4)]
  { s with pins := { s.pins with perst := false }, link := { s.link with up := true } }
def ringCmd (op : Nat) : Cmd := { cm op [] [] with port := .ring }

def ringWait : State := { ringOn with cmd := { ringOn.cmd with tail := 1 } }
def readSys : List Dword := [0x01000100#32, 5#32]
def rw1 : State := sendRead ringWait (4096 * ringWait.get F.CMD_RING_BASE + 64 * ringWait.get F.CMD_HEAD) 64
def rw2 : State := rw1.set F.CMD_HEAD ((ringWait.get F.CMD_HEAD + 1) % 4096)
def acqBytes : List Byte :=
  (([0x46, 0x41, 0x43, 0x51, 1] ++ List.replicate 25 0 ++ [10, 0] ++ List.replicate 14 0 ++ [1]) ++ List.replicate 17 0).map fun n => BitVec.ofNat 8 n

def comp1 (p : Port) : Comp := { port := p, tag := 7, status := St.done, detail := 0, index := 0, final := true, first := true, result := 0, imm := false, out := [] }
def compS (p : Port) : State := { ringOn with cmd := { ringOn.cmd with comps := [comp1 p] } }

theorem regRef_get (s : State) (x : Nat) (h : (regRef s x).isSome = true) : regRef s x = some ((regRef s x).get h) := (Option.some_get h).symm
def wideReg : RegRef := (regRef ringOn F.TDC_DEVTIME.off).get (by decide +kernel)
theorem wide_at : regRef ringOn wideReg.base = some wideReg := by
  have h : wideReg.base = F.TDC_DEVTIME.off := by decide +kernel
  rw [h]; exact regRef_get _ _ _
theorem wide_hi : regRef ringOn (wideReg.base + 4) = some wideReg := by
  have h : wideReg.base + 4 = F.TDC_DEVTIME.off + 4 := by decide +kernel
  rw [h]; rfl

def oldFault (n : Nat) (on : Bool) : FaultRec := { code := 0x0007, cls := 0, active := on, noReact := false, occ := 1, detail := n, time := 0 }
def fullLog : State := { w .ready [] with faults := (List.range 63).map (fun n => oldFault n true) ++ [oldFault 63 false] }

def reactions2 : State := { w .ready [] with reactions := [⟨0, 0x0007, 0⟩, ⟨2, 0x0A01, 3⟩, ⟨1, 0x0001, 0⟩] }

def herds (m : Mode) : State := w m [(F.RED_HERD_H0_OK, 1), (F.RED_HERD_H1_OK, 1)]

def cmdOn (m : Mode) (op : Nat) (args : List Nat) : State := has (herds m) (cm op args [])
def faultsS : State := { cmdOn .ready 0x0900 [] with faults := [oldFault 1 true, oldFault 2 false] }
def faultsC : Cmd := { cm 0x0900 [] [] with port := .ring }

def long1 (op : Nat) (args : List Nat) : Cmd := { cm op args [] with phase := .running, first := true }
/-- An operation of tag 8 runs, and an ABORT of tag 8 waits. -/
def abortS (op : Nat) : State := { cmdOn .ready 0x0105 [8] with cmd := { (cmdOn .ready 0x0105 [8]).cmd with cmds := [{ long1 op [] with tag := 8 }, cm 0x0105 [8] []] } }
def ringC (op : Nat) : Cmd := { cm op [] [] with port := .ring }

def live : State := w .ready [(F.SYS_STATUS_CMD_LIVE, 1), (F.CMD_INFO_CUR_MAJ, 1)]
/-- The first two bytes of a request with SEQ 3, and its CRC. -/
def fHead (k : Nat) : Fin 65536 := Fin.ofNat 65536 (k + 256 * 3)
def fCrc (k : Nat) (b : List Byte) : Dword := BitVec.ofNat 32 (leAt (mgmtFrame k 3 b) (4 + b.length) 4)
def regBody : List Byte := leBytes 4 0 ++ [1#8]
def nopBody : List Byte := leBytes 4 0x01000100 ++ leBytes 4 5 ++ List.replicate 56 0

def entry5 (op : Nat) (args : List Nat) (d : List Byte) : Cmd := { cm op args d with first := true }
def progBytes : List Byte :=
  leBytes 4 0x50535A46 ++ leBytes 2 1 ++ leBytes 2 1 ++ leBytes 4 1 ++ leBytes 4 4000 ++ leBytes 4 40000 ++ leBytes 4 0 ++
    leBytes 4 0xFFFFFFFF ++ leBytes 36 0 ++
    (leBytes 4 0 ++ leBytes 4 1 ++ [1#8, 1#8, 1#8, 0#8] ++ leBytes 20 0) ++
    (leBytes 4 0x10000 ++ leBytes 4 1 ++ leBytes 8 0)
/-- A program is loaded in STANDBY. -/
def loadC (d : List Byte) : Cmd := entry5 0x0200 [0] d
def loadS (d : List Byte) : State := has (w .standby []) (loadC d)
def committedS (s : State) : State := { s with saf := { s.saf with cfg := some cfg1 } }
/-- The whole loft is held, and the near yard is off. -/
def fullS : State := { (loadS progBytes).set F.YRD_CAP_NEAR_OFF 1 with
  yrd := { (loadS progBytes).yrd with stalls := List.replicate 760 ⟨3, ⟨.loft, 1, 0⟩, false, none, 1, 0, [], [], false, 0, none⟩ } }

def safLoadS (op : Nat) : State := has (herds .ready) (entry5 op [] [])
def armCfg : State := { herds .ready with saf := { State.reset.saf with cfg := some { cfg1 with frameUs := State.reset.sch.frameUs } } }

def grant1 (n : Nat) : Cmd := cm 0x0300 [0, 16, n] []
def revokeS : State := (has (herds .ready) (cm 0x0301 [0] [])).set (F.YRD_GRANT_STAT_VALID 0) 1

def readC : Cmd := cm 0x0702 [] []
def readS : State := cmdOn .ready 0x0702 []
def autoS : State :=
  { w .ready [(F.CAL_CTRL_AUTO_EN, 1), (F.CAL_CTRL_REGROOM_DT, 2)] with
    rxf := { State.reset.rxf with tAd := 400 }, cal := { State.reset.cal with grooms := [], lastT := [(3, 300)] } }

def groom1 (wait : Bool) : Groom :=
  { cmd := none, full := false, mask := 0, background := false, startUp := false, release := false, waiting := wait, refused := 0 }
def groom3 : Groom := { groom1 false with mask := 8 }
def groomS (wait : Bool) : State := { w .ready [] with cal := { State.reset.cal with grooms := [groom1 wait] } }

def prog1 : Prog := { readProg progBytes with need := 1 }
def progS (m : Mode) (l : List (Fld × Nat)) : State :=
  let s := w m ([(F.SYS_STATUS_CMD_LIVE, 1), (F.EMI_BANK_EN_EN, 0), (F.HGE_RING_CFG_SIZE 0, 1), (F.SCH_EYE_CEIL 0, 9), (F.SCH_EYE_CEIL 1, 9),
    (F.SCH_EYE_CEIL 2, 9), (F.SCH_EYE_CEIL 3, 9)] ++ l)
  { s with sch := { s.sch with progs := [some prog1, some prog1], slotNs := 4000, frameUs := 40000 } }
def scanS : State := { progS .scan [] with sch := { (progS .scan []).sch with running := true, slots := 10000, next := 5 } }

def pairS (m : Mode) (p : Pair) : State := { w m [] with saf := { State.reset.saf with pairs := [p, p, p, p] } }
def guardS (g : Guard) : State := { w .ready [] with saf := { State.reset.saf with guards := [g, g, g, g] } }

def setS (m : Mode) (l : List Nat) (c : List Nat) : State :=
  let s := armed1 m .on
  { s with saf := { s.saf with evA := { s.saf.evA with fsel := 1, active := 1, replaced := l, covered := c }, guards := [] ,
                               cfg := some { armedCfg with setsEn := 0x0F, pairs := armedCfg.pairs.map fun p => { p with pmask := [1, 1, 1, 1, 1, 1, 1, 1] } } } }
def setCfg : SafCfg := { armedCfg with setsEn := 0x0F, pairs := armedCfg.pairs.map fun p => { p with pmask := [1, 1, 1, 1, 1, 1, 1, 1] } }
def gapSet : SetCfg := { padEn := 1, warn := 0, partIgn := 0, minDirs := [0], dirs := [9], aTab := [0x8A05] ++ List.replicate 15 0, bTab := [] }
def gapCfg : SafCfg := { setCfg with sets := [gapSet, gapSet] }
def gapS : State := { setS .scan [] [] with saf := { (setS .scan [] []).saf with cfg := some gapCfg } }

/-- A P-384 public key. -/
def fleetKey : List Byte :=
  match p384.coords (p384.mulG 5) with
  | some (x, y) => leBytes 48 x ++ leBytes 48 y
  | none => []
def stageS (off n : Nat) : State := (has (herds .ready) (cm 0x0A02 [off] [])).set F.SEC_STAGE n
def longS (op : Nat) : State := has (w .ready []) (long1 op [])
/-- A firmware image of 64 bytes with its signature, and the state in which it is staged. -/
def imageHead : List Byte :=
  leBytes 4 0x4D524846 ++ leBytes 4 1 ++ leBytes 8 0 ++ leBytes 4 64 ++ leBytes 4 (crc32c []) ++ List.replicate 40 0
def imageBytes : List Byte :=
  let q := p384.sign 5 11 (ofBe (sha384 imageHead))
  imageHead ++ leBytes 48 q.1 ++ leBytes 48 q.2
def imageS : State :=
  let s := longS 0x0A03
  { s with
    regs := insertReg (insertReg s.regs (F.SEC_KEY_SLOT_VALID 0).key 1) (F.SEC_KEY_SLOT_PURPOSE 0).key (2 ^ Key.fw)
    sec := { s.sec with keys := [(0, fleetKey)], stage := imageBytes } }
theorem image_taken : imageRefused imageS imageS.sec.stage = none := by decide +kernel
def idBytes (s : State) : List Byte := (identityBytes s).1.take 64
def quote (s : State) : List Byte := (attestBytes s []).take 64

def irqS : State := w .ready [(F.IRQ_SWSET 0, 2 ^ 9), (F.IRQ_SRC_CFG_HERD_EN 9, 1), (F.IRQ_SRC_CFG_MASK 9, 0), (F.IRQ_SRC_CFG_PRIO 9, 3)]
def msiS (mask : Nat) : State :=
  let s := [(F.IRQ_SWSET 0, 2 ^ 9), (F.IRQ_SRC_CFG_HOST_EN 9, 1), (F.IRQ_SRC_CFG_VECTOR 9, 3), (F.LNK_PCIE_STATUS_MSIX_EN, 1),
    (F.LNK_PCIE_STATUS_FN_MASK, 0)].foldl (fun (s : State) e => s.set e.1 e.2) ringOn
  { s with irq := { s.irq with vecMask := mask } }
def msiP : State := { msiS (2 ^ 64 - 1) with irq := { (msiS (2 ^ 64 - 1)).irq with pba := 8 } }

def acqCfg1 : AcqCfg :=
  { srcEn := 0xFF, guardMask := 0, padMask := 0, warnMask := 0, faultMin := 0, ptRings := 1, thmKeep := 1, thmAvg := 0, ptAvg := 0, preMs := 10,
    postMs := 10, rawPre := 0, rawPost := 0, rawCl := 0, rearmMs := 10, ptStalls := 1, thmStalls := 1, rawStalls := 0, thmThr := 0,
    measFrames := 1, tbSend := 0, thmPix := 0, trigOut := 0, crc := 0 }
def acqS (m : Mode) (st : Nat) (l : List (Fld × Nat)) : State :=
  { w m ((F.ACQ_STATUS_STATE, st) :: (F.LNK_PRT_CTRL_TBUS_EN, 1) :: l) with acq := { State.reset.acq with cfg := some acqCfg1 } }
def armS : State := has (acqS .ready 0 [(F.YRD_CAP_NEAR_STALLS, 8192)]) (cm 0x0601 [] [])
abbrev armU : State := (armS.acq.cfg.bind (placeRings armS)).get (by decide +kernel)
def armNo : State :=
  let s := has (acqS .ready 0 []) (cm 0x0601 [] [])
  { s with acq := { s.acq with cfg := some { acqCfg1 with ptStalls := 1 } } }
def section1 : RecSection := { items := [], active := true, start := 0, stop := none, ovf := false, stalls := [] }
def recording1 : Recording :=
  { seq := 1, trigs := [(5, 100)], secs := [some section1, none, none], preShort := false, full := false, aligned := true, stopAt := 0,
    header := none, frame := 0 }
def lostLogS : State :=
  let s := has (acqS .ready 1 []) (cm 0x0604 [] [])
  { s with acq := { s.acq with log := [⟨100, 4, 3, 1⟩] } }
def acqCmd : Cmd := { cm 0x0600 [] acqBytes with phase := .ready }

def pendS (st : Nat) : State := { acqS .ready st [] with acq := { (acqS .ready st []).acq with pend := [(5, 100)] } }
def recS (st : Nat) : State := { acqS .ready st [] with acq := { (acqS .ready st []).acq with run := some recording1 } }
abbrev ringComp : Comp := { port := .ring, tag := 7, status := St.done, detail := 0, index := 0, final := true, first := true, result := 0, imm := false, out := [] }
def fetchS : State :=
  { ringOn.set F.ACQ_STATUS_STATE 3 with cmd := { (ringOn.set F.ACQ_STATUS_STATE 3).cmd with comps := [ringComp] } }
/-- A trigger waits while a recording runs, and with a log of some length. -/
def joinS (d : Nat) : State := { recS 2 with acq := { (recS 2).acq with pend := [(6, d)] } }
def logS (n : Nat) : State := { joinS 90000 with acq := { (joinS 90000).acq with log := List.replicate n ⟨5, 32, 2, 1⟩ } }

def prtS (st : Nat) (l : List (Fld × Nat)) : State :=
  w .ready ([(F.LNK_PRT_CTRL_EN, 1), (F.SHD_ALLOW_PRT_ALLOW, 1), (F.LNK_PRT_STATUS_STATE, st), (F.LNK_PRT_CTRL_TBUS_EN, 1)] ++ l)
def capWord (x : Nat) : BitVec 34 := BitVec.ofNat 34 (2 ^ 32 * Header.control + 2 ^ 24 * 0xD2 + x)
/-- A fleet's endorsement of an identity, and that identity's signature. -/
def partnerId : List Byte := fixLen 16 [] ++ pub256 7
def fleetSig : List Byte := let q := p384.sign 5 11 (ofBe (sha384 partnerId)); leBytes 48 q.1 ++ leBytes 48 q.2
def keyxS : State :=
  let s := prtS Prt.session []
  { s with regs := insertReg (insertReg s.regs (F.SEC_KEY_SLOT_VALID 0).key 1) (F.SEC_KEY_SLOT_PURPOSE 0).key (2 ^ Key.fleet), prt := { s.prt with keyx := true, eph := 3, peer := pub256 9 }, sec := { s.sec with keys := [(0, fleetKey)] } }
def keyxBody : List Byte :=
  let q := p256.sign 7 13 (ofBe (sha256 (ephemeralKeys keyxS)))
  partnerId ++ fleetSig ++ leBytes 32 q.1 ++ leBytes 32 q.2

def linkS (st : Nat) (l : List (Fld × Nat)) : State := prtS st ([(F.LNK_PRT_STATUS_SESSION, 1), (F.LNK_PRT_STATUS_LANES_UP, 3), (F.LNK_PRT_CTRL_DOZE_EN, 1)] ++ l)

/-- The tag that a packet from the partner carries (R589). -/
def tagOf (s : State) (kind seq : Nat) (payload : List Nat) : BitVec 128 :=
  BitVec.ofNat 128 ((sealPacket (partnerKey s) kind seq payload).2.foldr (fun b v => b + 256 * v) 0)
def twinS (m : Mode) (side : Nat) : State :=
  let s := progS m [(F.LNK_PRT_CTRL_EN, 1), (F.SHD_ALLOW_PRT_ALLOW, 1), (F.LNK_PRT_STATUS_STATE, Prt.active), (F.LNK_PRT_STATUS_SESSION, 1),
    (F.RED_STATUS_MODE, 1), (F.RED_CTRL_SIDE, side), (F.LNK_PRT_CTRL_TBUS_EN, 1)]
  { s with prt := { s.prt with rxSeq := 4, tagFails := [] }, red := { s.red with halves := true, mute := false, wait := none } }
def announceS : State :=
  let s := twinS .scan 1
  { s with sch := { s.sch with running := true, frame := 2, abs := 1000, next := 6, slots := 10000, first := false } }
def announceU : State := { announceS with prt := { announceS.prt with rxSeq := 5 } }
def waitS : State := { twinS .ready 0 with red := { (twinS .ready 0).red with wait := some 0 } }
abbrev announcedAt6 : Shot × Owe := (partnerShot announceU ⟨1006, 2, 6⟩ 0 300).get (by decide +kernel)
abbrev announcedAt8 : Shot × Owe := (partnerShot announceU ⟨1008, 2, 8⟩ 0 300).get (by decide +kernel)
def announceTag (slot : Nat) : BitVec 128 := tagOf announceS 0x01 5 [2, slot + 2 ^ 20 * 300, 0]
def mirrorTag (s : State) (seq schema side hash mark : Nat) : BitVec 128 := tagOf s 0x02 seq (mirrorWords schema side true hash 6 2 3 mark 0)
def schemaOf (s : State) : Nat := s.get F.RED_SCHEMA_OWN
def hashOf (s : State) : Nat := s.get F.RED_HASH
def altS : State := (twinS .ready 0).set F.RED_STATUS_ALT 1
def failS : State := { twinS .ready 0 with prt := { (twinS .ready 0).prt with tagFails := [0, 0] } }
def soleS : State := (twinS .ready 0).set F.RED_STATUS_MODE 0
/-- A follower with the mark of frame 40 and its stamp. -/
def markS (stamp : Int) (halves : Bool) : State :=
  { twinS .ready 1 with red := { (twinS .ready 1).red with mark := some (40, stamp), halves := halves, skews := [0] } }
theorem tag_keepalive5 : tagVerifies (twinS .ready 0) 0x03 5 [] (tagOf (twinS .ready 0) 0x03 5 []) = true := by decide +kernel
theorem tag_keepalive4 : tagVerifies (twinS .ready 0) 0x03 4 [] (tagOf (twinS .ready 0) 0x03 4 []) = true := by decide +kernel
theorem tag_keepalive_alt : tagVerifies altS 0x03 5 [] (tagOf altS 0x03 5 []) = true := by decide +kernel
theorem tag_wrong : tagVerifies (twinS .ready 0) 0x03 5 [] (tagOf (twinS .ready 0) 0x03 5 [] + 1) = false := by decide +kernel
theorem tag_wrong_thrice : tagVerifies failS 0x03 5 [] (tagOf failS 0x03 5 [] + 1) = false := by decide +kernel
theorem tag_announce6 : tagVerifies announceS 0x01 5 [2, 6 % 2 ^ 20 + 2 ^ 20 * 300, 0] (announceTag 6) = true := by decide +kernel
theorem tag_announce8 : tagVerifies announceS 0x01 5 [2, 8 % 2 ^ 20 + 2 ^ 20 * 300, 0] (announceTag 8) = true := by decide +kernel

def aloneS (l : List (Fld × Nat)) : State :=
  let s := l.foldl (fun (s : State) e => s.set e.1 e.2) (twinS .scan 0)
  { s with sch := { s.sch with running := true } }

def thmS (m : Mode) (st : Nat) (l : List (Fld × Nat)) : State :=
  w m ([(F.SHD_ALLOW_THM_ALLOW, 1), (F.THM_CTRL_EN, 1), (F.THM_STATUS_STATE, st)] ++ l)
def thmCmd (op : Nat) (args : List Nat) : Cmd := { cm op args [] with phase := if opReads op then .ready else .fetched }
def thmHas (m : Mode) (st : Nat) (l : List (Fld × Nat)) (op : Nat) (args : List Nat) : State := has (thmS m st l) (thmCmd op args)
def listBytes : List Byte := leBytes 4 0 ++ leBytes 4 1 ++ leBytes 4 0x20000001 ++ leBytes 4 7
def listCmd : Cmd := { thmCmd 0x0400 [] with data := listBytes }
def corr1 : CorrSet := { n := 1, tCal := 0, pedestal := 0, row := 0, crc := 0, entries := [] }
def corrS (fade : Option (Nat × Nat)) : State :=
  let s := thmHas .ready 2 [(F.THM_STATUS_NO_CORR, 1), (F.THM_STATUS_CORR1_VALID, 1)] 0x0402 [1]
  { s with thm := { s.thm with sets := [corr1], fade := fade } }
def bankS (fade : Nat) (n : Nat) : State :=
  let s := thmHas .ready 2 [(F.THM_MON_CFG_XFADE, fade), (F.THM_MON_CFG_COEF_NOW, 0)] 0x0405 [n]
  { s with thm := { s.thm with banks := [some [1], some [2]] } }
def geomS (s : State) : State := { s with thm := { s.thm with geom := some (geomNow s) } }

def frameRun (settled : Bool) : ThmRun :=
  { seq := 1, time := 0, tArray := some 0, settled := settled, fade := none, ffcReplaced := false, open_ := true, closed := false, start := 0 }
def frameS (settled : Bool) (l : List (Fld × Nat)) : State :=
  let s := thmS .ready 2 l
  { s with thm := { s.thm with frame := some (frameRun settled), run := none, queue := none } }
def thmFrame1 : ThmFrame :=
  { seq := 1, time := 0, cols := 1, rows := 1, tArray := 0, flags := 0, crc := 0, pixels := [5], replaced := [false], skips := 0, done := 0, ahead := [] }
def queueS : State :=
  let s := [(F.SHD_ALLOW_THM_ALLOW, 1), (F.THM_CTRL_EN, 1), (F.THM_STATUS_STATE, 2), (F.THM_RING_CFG, 4)].foldl (fun (s : State) e => s.set e.1 e.2) ringOn
  { s with thm := { s.thm with queue := some thmFrame1 } }
def cfgS : State :=
  let s := has (thmS .ready 1 []) (long1 0x0400 [])
  { s with thm := { s.thm with cfgWait := some (.mgmt, 7) } }
def monS (mute : Nat) : State :=
  let s := thmS .ready 2 [(F.THM_MON_CH_EN 0, 0), (F.THM_MON_CH_EN 1, 1), (F.THM_MON_CH_EN 2, 0), (F.THM_MON_CH_EN 3, 0)]
  { s with thm := { s.thm with mon := [{ n := 1, cicI := restCic, cicQ := restCic, hist := [], mute := mute, count := 0, peak := 0, sq := 0, fade := 256 }] } }
def checkS : State := { (frameS false []).set F.THM_STATUS_STATE 1 with thm := { (frameS false []).thm with fast := false } }
def fastS (l : List (Fld × Nat)) : State := { thmS .ready 1 l with thm := { State.reset.thm with fast := true } }

def ffcRun (cmd : Option (Port × Nat)) (phase : Nat) (closed : Bool) : FfcRun :=
  { cmd := cmd, phase := phase, left := 0, frames := 1, acc := [5, 5], tMin := 0, tMax := 0, closed := closed, disturbed := false }
def ffcS (r : FfcRun) : State := { thmS .ready 2 [] with thm := { State.reset.thm with run := some r } }
/-- The period of the automatic flat field has passed. -/
def autoDueS : State :=
  let s := thmS .ready 2 [(F.THM_CTRL_AUTO_FFC, 1), (F.THM_FFC_AUTO_FFC_PERIOD, 1)]
  { s with sys := { s.sys with raw := 800000000 } }
def thmFfcS (phase : Nat) (closed : Bool) : State := has (ffcS (ffcRun (some (.mgmt, 7)) phase closed)) (long1 0x0403 [])
def ffcTable (r : FfcRun) : List (Int × Bool) :=
  (flatField (ffcS r) r.acc r.frames).map fun (x : Int) => (clampInt (-16383) 16383 x, decide ((ffcS r).get F.THM_FFC_CFG_FFC_DEV_MAX < x.natAbs))

def chan1 (cur : Option Nat) (fifo : Nat) : Chan :=
  { id := 5, sat := 0, quiet := 0, shots := 0, host := none, auto := none, win := some (100, 5000), cur := cur, last := none,
    fifo := List.replicate fifo (1, 1), drop := false, edgeT1 := false, noT1 := false, wait := false }
def chanS (c : Chan) (l : List (Fld × Nat)) : State := { w .scan l with rxf := { State.reset.rxf with chans := [c] } }
def edgeAt (s : State) (coarse tap : Nat) : Nat := 80 * coarse + fineValue s 0 5 tap
def obsS : State :=
  { w .ready [(F.RXF_OBS_CHANNEL 0, 1), (F.RXF_OBS_CHANNEL 1, 1)] with
    rxf := { State.reset.rxf with slices := [⟨0, 1, none, none⟩, ⟨1, 1, none, none⟩] } }
def shutChan : Chan := { chan1 none 0 with win := none }
def groomChanS : State := { chanS shutChan [] with cal := { State.reset.cal with grooms := [⟨none, false, 1, false, false, true, false, 0⟩] } }
def biasS : State := w .ready [(F.RXF_APDB_CTRL_EN, 1), (F.RXF_APDB_CFG_LIMIT, 3000), (F.RXF_APDB_CFG_TARGET, 1000)]

def restartS (c : Nat) : State :=
  let s := progS .scan [(clst 0, c), (F.SCH_CAP_CAP, 1000000)]
  { s with sch := { s.sch with running := true, frame := 0, capCold := 0, progs := [some { prog1 with groups := [⟨0, 1, 0, 1, 1, 0, 0, 0⟩] }, none] } }
def impS : State := { w .ready [(F.RXF_IMP_STATUS_BUSY, 1)] with rxf := { State.reset.rxf with impFrom := some 1 } }

def stall1 (at_ : Tier) (owner : Nat) (mov : Option Place) : Stall :=
  { num := 2, at_ := ⟨at_, 4, 0⟩, pinned := false, moving := mov, owner := owner, size := 0, used := [0], frees := [], hot := false, acc := 5, waits := none }
def stallS (x : Stall) (l : List (Fld × Nat)) : State := { w .scan l with yrd := { State.reset.yrd with stalls := [x] } }
def cell1 (closed : Bool) : Cell :=
  { dir := 0, frame := 0, pc := false, ring := 0, start := 0, stop := 4000, bw := 64, pre := 0, prePos := false, packed := false, stall := 2, k := 0,
    bins := List.replicate 8 0, wsum := [0], wsat := [0], left := 1, shots := 0, events := 0, sats := 0, shadows := 0, drop := false,
    bridge := false, mixed := false, cntSat := false, taken := [], base := 0, chan := 0, closed := closed, short := false, stale := false, closedAt := 0,
    src := none }
def shot1 : Shot :=
  { at_ := 7, frame := 0, slot := 7, use := .own, entry := 0, row := 0, cols := 1, cl := 1, dir := 0, prof := 0, start := 0, stop := 100,
    code := [0], dither := 0, pc := false, ring := 0 }
def burstC (word : Nat) : Chan := { chan1 none 1 with fifo := [(7, word)] }
def burstS (t : Tier) (l : List Fired) (taken : List (Nat × Nat)) (word : Nat) : State :=
  let s := stallS (stall1 t 0 none) []
  { s with rxf := { s.rxf with chans := [burstC word] }, hge := { s.hge with cells := [{ cell1 false with dir := 5, taken := taken }] }, sch := { s.sch with fired := l, running := true } }
def burstU (s : State) : State := (popWords 0 7 1 (s.add F.YRD_ECC_CORR 2)).2
def burstV (s : State) (word : Nat) : State := recordRaw (burstU s) 5 (frameOfSlot (burstU s) 7) 7 word
def refWord : Nat := 3 * 2 ^ 26
def noShotS : State := burstS .loft [] [] 5
def refS : State := burstS .loft [⟨shot1, []⟩] [(7, 0)] refWord
/-- A word of a shot that opened no cell, one whose cell's stall is ready, and one whose stall is not. -/
def shutS : State := burstS .loft [⟨shot1, []⟩] [(6, 0)] 5
def hitS : State := burstS .loft [⟨shot1, []⟩] [(7, 0)] 5
def lateS : State := burstS .far [⟨shot1, []⟩] [(7, 0)] 5
def ringS : State := { ringOn.set (F.HGE_RING_CFG_SIZE 1) 4 with hge := { ringOn.hge with rings := [restRing, { restRing with queue := [.recs 3 [[1#8]] none] }] } }

def gateS (l : List (Fld × Nat)) : State := w .ready ((F.TDC_FM_CTRL_START 1, 1) :: l)

def bankS1 (x : Bank) (l : List (Fld × Nat)) : State :=
  { w .scan l with emi := { State.reset.emi with banks := [restBank, restBank, x] } }
def sweepS (l : List Nat) (on : Bool) : State :=
  { w .scan [(F.EMI_CTRL_SWEEP_EN, 1)] with emi := { State.reset.emi with sweep := l, sweeping := on } }

def lbtS : State := w .scan [(F.EMI_LBT_CFG_R0_RATIO 1, 1024), (F.EMI_LBT_CFG_BETA 1, 3950)]
def stringS (x : FlString) (l : List (Fld × Nat)) : State :=
  { w .scan ([(F.EMI_FL_CTRL_EN, 1), (F.EMI_FL_LIM_OVER_TH, 3000), (F.EMI_FL_LIM_OPEN_TH, 100)] ++ l) with
    emi := { State.reset.emi with strings := [restString, x], flOff := false } }
abbrev lbtOut : Int := (lbtTemp (lbtS.get (F.EMI_LBT_CFG_R0_RATIO 1)) (lbtS.get (F.EMI_LBT_CFG_BETA 1)) 2048).get (by decide +kernel)
def floodS : State := (stringS restString []).set (F.EMI_FL_DUTY 1) 500
/-- Sixteen samples of one code. -/
def samples (n : Nat) : List Nat := List.replicate 16 n
def litString : FlString := { restString with duty := 500, on := true }
def darkString : FlString := { restString with duty := 500 }

def convS (x : HkConv) (l : List (Fld × Nat)) : State :=
  { w .scan ([(F.HKC_CTRL_EN 1, 1), (F.HKC_CAL_REF_ON 1, 1)] ++ l) with hkc := { State.reset.hkc with convs := [restConv, x] } }
def beatS (m : Mode) (miss : Bool) : State :=
  let s := (List.range 8).foldl (fun (s : State) k => s.set (F.HKC_XCMP_EN k) 0) (w m [])
  { s with saf := { s.saf with hbMiss := miss } }
def calS : State := w .ready [(F.HKC_CAL_CAL_BUSY 1, 1)]
def entryS : State := convS { restConv with next := 2 } [(F.HKC_CTRL_LEN 1, 4)]
def entryIn : Nat := bits (seqNow entryS 1 2) 0 6

/-- The hypotheses of FrontCommandRuns, each clause at one state. -/
theorem test_FrontCommandRuns_witness :
    (∃ (c : Instr) (rest : List Instr) (s : State), (s.pending = c :: rest)) ∧
    (∃ (s : State), (s.pending = [])) :=
  ⟨⟨(.aonAlarm), ([.doze]), ({ State.reset with pending := [.aonAlarm, .doze] }), by decide +kernel⟩,
   ⟨(State.reset), by decide +kernel⟩⟩

/-- The hypotheses of IdleTickCounts, each clause at one state. -/
theorem test_IdleTickCounts_witness :
    (∃ (s : State), (s.pending = []) ∧ (s.mode ≠ .off) ∧ (s.sys.slew = 0)) :=
  ⟨(State.reset), by decide +kernel⟩

/-- The hypotheses of InvariantKeptByEveryStep, each clause at one state. -/
theorem test_InvariantKeptByEveryStep_witness :
    (∃ (s t : State), (s.Inv) ∧ (step s = .next t)) :=
  ⟨(State.reset), (tick State.reset), ⟨⟨by decide +kernel, by intro d n hn; cases d <;> (match n, hn with | 0, _ | 1, _ | 2, _ | 3, _ => decide), by simp [State.LogBounded, State.reset], by intro cls; simp [queueDepth, State.reset]⟩, rfl⟩⟩

/-- The hypotheses of QueueAndSentAreKept, each clause at one state. -/
theorem test_QueueAndSentAreKept_witness :
    (∃ (c : Instr) (s t : State), (exec c s = .next t)) :=
  ⟨(.nonceExpiry), (State.reset), ({ State.reset with cmd := { State.reset.cmd with nonce := none } }), rfl⟩

/-- The hypotheses of OutputsSwitchOnOnlyByReset, each clause at one state. -/
theorem test_OutputsSwitchOnOnlyByReset_witness :
    (∃ (c : Instr) (s t : State) (d : Side) (n : Nat), (n < 4) ∧ (exec c s = .next t) ∧ ((t.ev d).pair n = .on) ∧ ((s.ev d).pair n ≠ .on)) :=
  ⟨(.autoRestartExpiry 0), (armed1 .scan .wait), (releasePair armedCfg true (armed1 .scan .wait) 0), (.a), (0), by refine ⟨by decide, rfl, ?_, ?_⟩ <;> decide +kernel⟩

/-- The hypotheses of OnlyArmCommandArms, each clause at one state. -/
theorem test_OnlyArmCommandArms_witness :
    (∃ (c : Instr) (s t : State), (exec c s = .next t) ∧ (t.saf.armed = true)) :=
  ⟨(.clearableExpiry), (armed1 .ready .forced), ({ armed1 .ready .forced with saf := { (armed1 .ready .forced).saf with clearable := false } }), ⟨rfl, rfl⟩⟩

/-- The hypotheses of OnlyRegisterWriteStops, each clause at one state. -/
theorem test_OnlyRegisterWriteStops_witness :
    (∃ (c : Instr) (_ : State), (∀ p off q v full bad, c ≠ .registerWrite p off q v full bad)) :=
  ⟨(.doze), (State.reset), by intro p off q v full bad h; cases h⟩

/-- The hypotheses of RailsAndMainReset, each clause at one state. -/
theorem test_RailsAndMainReset_witness :
    (∃ (s : State) (_ : Fin 10), (s.mode ≠ .off)) ∧
    (∃ (s : State), (s.atStep 1 = true) ∧ (s.sys.railsDown = 0)) :=
  ⟨⟨(State.reset), (3), by decide +kernel⟩,
   ⟨(State.reset.set F.SYS_STATUS_STEP 1), by decide +kernel⟩⟩

/-- The hypotheses of ClockStepAndAonClock, each clause at one state. -/
theorem test_ClockStepAndAonClock_witness :
    (∃ (s : State), (s.sys.xaonLate = false)) ∧
    (∃ (s : State), (s.sys.xaonLate = true)) ∧
    (∃ (s : State), (s.flag F.CLK_STATUS_XAON_OK = false)) ∧
    (∃ (s : State), (s.atStep 2 = true)) ∧
    (∃ (s : State) (xref core time _ safb : Bool), (s.atStep 2 = true) ∧ (s.mode ≠ .opened) ∧ ((xref && core && time && safb) = false)) :=
  ⟨⟨(State.reset.set F.CLK_STATUS_XAON_OK 0), by decide +kernel⟩,
   ⟨({ State.reset with sys := { State.reset.sys with xaonLate := true } }), by decide +kernel⟩,
   ⟨(w .standby [(F.SYS_STATUS_STEP, 2), (F.CLK_STATUS_XAON_OK, 0)]), by decide +kernel⟩,
   ⟨(w .standby [(F.SYS_STATUS_STEP, 2)]), by decide +kernel⟩,
   ⟨(w .standby [(F.SYS_STATUS_STEP, 2)]), (false), (true), (true), (true), (true), by decide +kernel⟩⟩

/-- The hypotheses of ClockLossReactions, each clause at one state. -/
theorem test_ClockLossReactions_witness :
    (∃ (s : State) (c : Clock), (s.mode = .scan) ∧ (c = .pllTime ∨ c = .pllSafb)) ∧
    (∃ (s : State) (c : Clock), (s.mode ≠ .opened) ∧ (s.mode ≠ .off) ∧ (c = .pllCore ∨ c = .xtalRef)) ∧
    (∃ (s : State), (s.mode ≠ .sleep)) ∧
    (∃ (s : State) (a b c : Nat), (safUp s = true) ∧ (s.step ≠ 2) ∧ (a ≤ 5000) ∧ (b ≤ 5000) ∧ (c ≤ 1000)) ∧
    (∃ (s : State) (a b c : Nat), (safUp s = true) ∧ (s.step ≠ 2) ∧ (5000 < a ∨ 5000 < b ∨ 1000 < c) ∧ (s.mode = .scan)) :=
  ⟨⟨(w .scan []), (.pllSafb), by decide +kernel⟩,
   ⟨(w .ready []), (.xtalRef), by decide +kernel⟩,
   ⟨(w .ready []), by decide +kernel⟩,
   ⟨(w .ready []), (5000), (5000), (1000), by decide +kernel⟩,
   ⟨(w .scan []), (5001), (0), (0), by decide +kernel⟩⟩

/-- The hypotheses of ReferenceInput, each clause at one state. -/
theorem test_ReferenceInput_witness :
    (∃ (s : State), (s.flag F.CLK_STATUS_REF_PRESENT = true)) ∧
    (∃ (s : State), (s.flag F.CLK_STATUS_REF_PRESENT = false)) ∧
    (∃ (s : State) (_ : Int), (s.flag F.CLK_REF_CFG_REF_SEL = true) ∧ (s.flag F.CLK_REF_CFG_AUTO_RETURN = true) ∧ (s.flag F.CLK_STATUS_REF_ACTIVE = false)) ∧
    (∃ (s : State) (_ : Int), (s.flag F.CLK_REF_CFG_REF_SEL = false ∨ s.flag F.CLK_REF_CFG_AUTO_RETURN = false ∨ s.flag F.CLK_STATUS_REF_ACTIVE = true)) ∧
    (∃ (s : State) (_ : Dword), (s.mode = .scan)) ∧
    (∃ (s : State) (_ : Dword), (s.mode ≠ .scan)) :=
  ⟨⟨(w .ready [(F.CLK_STATUS_REF_PRESENT, 1)]), by decide +kernel⟩,
   ⟨(w .ready []), by decide +kernel⟩,
   ⟨(w .ready [(F.CLK_REF_CFG_REF_SEL, 1), (F.CLK_REF_CFG_AUTO_RETURN, 1)]), (-3), by decide +kernel⟩,
   ⟨(w .ready []), (-3), by decide +kernel⟩,
   ⟨(w .scan []), (1#32), by decide +kernel⟩,
   ⟨(w .ready []), (1#32), by decide +kernel⟩⟩

/-- The hypotheses of BootImageAndFirmware, each clause at one state. -/
theorem test_BootImageAndFirmware_witness :
    (∃ (s : State) (a b : ImgRead), (s.atStep 3 = true) ∧ (s.get F.SYS_START_IMAGE = 0) ∧ (imageGood s (if firstImage s = 1 then a else b) = true)) ∧
    (∃ (s : State) (a b : ImgRead), (s.atStep 3 = true) ∧ (s.get F.SYS_START_IMAGE = 0) ∧ (imageGood s a = false) ∧ (imageGood s b = false) ∧ (s.mode ≠ .opened)) ∧
    (∃ (s : State), (s.atStep 3 = true) ∧ (s.get F.SYS_START_IMAGE ≠ 0)) :=
  ⟨⟨(w .standby [(F.SYS_STATUS_STEP, 3)]), (img1), ({ img1 with ok := false }), by decide +kernel⟩,
   ⟨(w .standby [(F.SYS_STATUS_STEP, 3), (F.SEC_SVN_MIN, 2)]), (img1), ({ img1 with ok := false }), by decide +kernel⟩,
   ⟨(w .standby [(F.SYS_STATUS_STEP, 3), (F.SYS_START_IMAGE, 1)]), by decide +kernel⟩⟩

/-- The hypotheses of EndOfStartUp, each clause at one state. -/
theorem test_EndOfStartUp_witness :
    (∃ (s : State) (_ _ _ : Bool) (_ : List RlmTrain) (_ : List Nat), (s.atStep 4 = true)) ∧
    (∃ (s : State) (_ : ExciteEnd), (s.mode = .standby) ∧ (s.step = 6) ∧ (startStopped s = false)) ∧
    (∃ (s : State) (_ : ExciteEnd), (s.mode = .standby) ∧ (s.step = 6) ∧ (startStopped s = false) ∧ (s.sys.trans = none)) ∧
    (∃ (s : State) (who : Option (Port × Nat)), (s.mode = .ready) ∧ (s.sys.trans = some ⟨2, who⟩)) :=
  ⟨⟨(w .standby [(F.SYS_STATUS_STEP, 4)]), (true), (true), (false), (List.replicate 8 ⟨true, [], 5, 4⟩), ([]), by decide +kernel⟩,
   ⟨(w .standby []), (.settled), by decide +kernel⟩,
   ⟨(w .standby []), (.nack 3), by decide +kernel⟩,
   ⟨({ w .ready [] with sys := { State.reset.sys with trans := some ⟨2, none⟩ } }), ((none : Option (Port × Nat))), by decide +kernel⟩⟩

/-- The hypotheses of WakeAndSleep, each clause at one state. -/
theorem test_WakeAndSleep_witness :
    (∃ (s : State), (s.sys.sleepEntering = true) ∧ (s.mode = .standby) ∧ (wakeCauses (asleep s) s.sys.wakeLatched = 0)) ∧
    (∃ (s : State), (s.sys.sleepEntering = true) ∧ (s.mode = .standby) ∧ (wakeCauses (asleep s) s.sys.wakeLatched ≠ 0)) ∧
    (∃ (s : State) (src pin : Nat), (s.mode = .sleep) ∧ (wakeCauses { s with irq := { s.irq with wakePins := pin % 16 } } src ≠ 0)) ∧
    (∃ (s : State) (src pin : Nat), (wakeCauses { s with irq := { s.irq with wakePins := pin % 16 } } src = 0)) ∧
    (∃ (s : State), (s.mode = .sleep) ∧ (s.flag F.SHD_WAKE_CFG_ALARM_EN = true)) ∧
    (∃ (s : State), (wakeCauses { s with irq := { s.irq with alarm := true } } (2 ^ 9) = 0)) :=
  ⟨⟨({ w .standby [] with sys := { State.reset.sys with sleepEntering := true } }), by decide +kernel⟩,
   ⟨({ w .standby [(F.SHD_WAKE_CFG_WAKE_EN, 1)] with sys := { State.reset.sys with sleepEntering := true, wakeLatched := 1 } }), by decide +kernel⟩,
   ⟨(w .sleep [(F.SHD_WAKE_CFG_WAKE_EN, 1)]), (1), (1), by decide +kernel⟩,
   ⟨(w .sleep []), (1), (1), by decide +kernel⟩,
   ⟨(w .sleep [(F.SHD_WAKE_CFG_ALARM_EN, 1)]), by decide +kernel⟩,
   ⟨(w .sleep []), by decide +kernel⟩⟩

/-- The hypotheses of RingControl, each clause at one state. -/
theorem test_RingControl_witness :
    (∃ (s : State) (v : Dword), (ctlUp s = true) ∧ (s.flag F.CMD_CTRL_EN = false) ∧ (v.getLsbD 0 = true)) ∧
    (∃ (s : State) (v : Dword), (ctlUp s = true) ∧ (s.flag F.CMD_CTRL_EN = true) ∧ (v.getLsbD 0 = false) ∧ (ringIdle s = true)) ∧
    (∃ (s : State) (v : Dword), (ctlUp s = true) ∧ (s.flag F.CMD_CTRL_EN = true) ∧ (v.getLsbD 0 = false) ∧ (ringIdle s = false)) ∧
    (∃ (s : State) (v : Dword), (ctlUp s = true) ∧ (s.flag F.CMD_CTRL_EN = v.getLsbD 0)) ∧
    (∃ (s : State) (_ : Dword), (ctlUp s = true) ∧ (s.cmd.draining = true) ∧ (ringIdle s = true)) ∧
    (∃ (s : State) (v : Dword), (ctlUp s = true) ∧ (s.flag F.CMD_CTRL_EN = true) ∧ (v.toNat % 4096 ≠ s.cmd.tail)) ∧
    (∃ (s : State) (_ : Dword), (ctlUp s = true)) ∧
    (∃ (s : State) (_ : Dword), (ctlUp s = true) ∧ (s.get F.CMP_NOTIFY_TIME ≠ 0) ∧ (s.flag F.CMD_CTRL_CMP_IRQ_EN = true) ∧ (s.cmd.unnotified ≠ 0)) :=
  ⟨⟨(w .ready []), (1#32), by decide +kernel⟩,
   ⟨(ringOn), (0#32), by decide +kernel⟩,
   ⟨(has ringOn (ringCmd 0x0100)), (0#32), by decide +kernel⟩,
   ⟨(ringOn), (3#32), by decide +kernel⟩,
   ⟨({ ringOn with cmd := { ringOn.cmd with draining := true } }), (0#32), by decide +kernel⟩,
   ⟨(ringOn), (1#32), by decide +kernel⟩,
   ⟨(ringOn), (1#32), by decide +kernel⟩,
   ⟨({ ringOn.set F.CMD_CTRL_CMP_IRQ_EN 1 |>.set F.CMP_NOTIFY_TIME 1 with cmd := { ringOn.cmd with unnotified := 1 } }), (0#32), by decide +kernel⟩⟩

/-- The hypotheses of CommandFetch, each clause at one state. -/
theorem test_CommandFetch_witness :
    (∃ (s : State) (e : List Dword) (r u : State) (c : Cmd), (fetches s = true) ∧ (r = sendRead s (4096 * s.get F.CMD_RING_BASE + 64 * s.get F.CMD_HEAD) 64) ∧ (u = r.set F.CMD_HEAD ((s.get F.CMD_HEAD + 1) % 4096)) ∧ (c = parseEntry .ring (s.get F.CMD_HEAD) e [])) ∧
    (∃ (s : State) (e : List Dword) (r u : State) (c : Cmd), (fetches s = true) ∧ (r = sendRead s (4096 * s.get F.CMD_RING_BASE + 64 * s.get F.CMD_HEAD) 64) ∧ (u = r.set F.CMD_HEAD ((s.get F.CMD_HEAD + 1) % 4096)) ∧ (c = parseEntry .ring (s.get F.CMD_HEAD) e []) ∧ (entryCheck u c = none)) ∧
    (∃ (s : State) (e : List Dword) (r u : State) (c : Cmd) (st d : Nat), (fetches s = true) ∧ (r = sendRead s (4096 * s.get F.CMD_RING_BASE + 64 * s.get F.CMD_HEAD) 64) ∧ (u = r.set F.CMD_HEAD ((s.get F.CMD_HEAD + 1) % 4096)) ∧ (c = parseEntry .ring (s.get F.CMD_HEAD) e []) ∧ (entryCheck u c = some (st, d)) ∧ (st ≠ St.done)) ∧
    (∃ (s : State) (tag : Nat) (c : Cmd), (readerOf s .ring tag = some c) ∧ (readerCheck s c = none) ∧ (c.discard = false)) ∧
    (∃ (s : State) (tag : Nat) (c : Cmd) (_ : List Byte), (readerOf s .ring tag = some c) ∧ (readerCheck s c = none) ∧ (c.discard = false) ∧ (pcieUsable s = true)) ∧
    (∃ (s : State) (tag : Nat) (c : Cmd) (b : List Byte) (v : State) (d : Cmd), (readerOf s .ring tag = some c) ∧ (readerCheck s c = none) ∧ (c.discard = false) ∧ (pcieUsable s = true) ∧ (opSigned c.opcode = false) ∧ (opLong c.opcode = false) ∧ (v = sendRead s c.bufAddr (64 * c.paramLen)) ∧ (d = withData c (fixLen (64 * c.paramLen) b)) ∧ (contentsCheck v c d.data = (none, v))) :=
  ⟨⟨(ringWait), ([]), (rw1), (rw2), (parseEntry .ring 0 [] []), by refine ⟨?_, rfl, rfl, ?_⟩ <;> decide +kernel⟩,
   ⟨(ringWait), (readSys), (rw1), (rw2), (parseEntry .ring 0 readSys []), by refine ⟨?_, rfl, rfl, ?_, ?_⟩ <;> decide +kernel⟩,
   ⟨(ringWait), ([0#32]), (rw1), (rw2), (parseEntry .ring 0 [0#32] []), (St.badVersion), (0), by refine ⟨?_, rfl, rfl, ?_, ?_, ?_⟩ <;> decide +kernel⟩,
   ⟨(has ringOn { ringCmd 0x0600 with phase := .fetched }), (7), ({ ringCmd 0x0600 with phase := .fetched }), by decide +kernel⟩,
   ⟨(has ringOn { ringCmd 0x0600 with phase := .fetched }), (7), ({ ringCmd 0x0600 with phase := .fetched }), ([]), by decide +kernel⟩,
   ⟨(has ringOn { ringCmd 0x0600 with phase := .fetched }), (7), ({ ringCmd 0x0600 with phase := .fetched }), (acqBytes), (sendRead (has ringOn { ringCmd 0x0600 with phase := .fetched }) 0 64), (withData { ringCmd 0x0600 with phase := .fetched } (fixLen 64 acqBytes)), by refine ⟨?_, ?_, ?_, ?_, ?_, ?_, rfl, ?_, ?_⟩ <;> decide +kernel⟩⟩

/-- The hypotheses of CompletionDelivery, each clause at one state. -/
theorem test_CompletionDelivery_witness :
    (∃ (s : State) (x : Comp), (nextComp s .ring = some x) ∧ (canWriteComp s = true)) ∧
    (∃ (s : State) (x : Comp), (nextComp s .ring = some x) ∧ (canWriteComp s = true) ∧ (∀ c ∈ s.cmd.cmds, c.opcode ≠ 0x0102)) ∧
    (∃ (s : State) (x : Comp) (_ : Bool), (nextComp s .mgmt = some x) ∧ (s.cmd.mgmtComps.length < 32) ∧ (∀ c ∈ s.cmd.cmds, c.opcode ≠ 0x0102)) :=
  ⟨⟨(compS .ring), (comp1 .ring), by decide +kernel⟩,
   ⟨(compS .ring), (comp1 .ring), by decide +kernel⟩,
   ⟨(compS .mgmt), (comp1 .mgmt), (false), by decide +kernel⟩⟩

/-- The hypotheses of WideWrites, each clause at one state. -/
theorem test_WideWrites_witness :
    (∃ (s : State) (p : Access) (r : RegRef) (_ : Dword), (pathWrites s p = true) ∧ (regRef s r.base = some r) ∧ (r.wide = true) ∧ (answers s r.base = true)) ∧
    (∃ (s : State) (p : Access) (r : RegRef) (_ : Dword), (pathWrites s p = true) ∧ (regRef s (r.base + 4) = some r) ∧ (r.wide = true) ∧ (answers s (r.base + 4) = true)) :=
  ⟨⟨(ringOn), (.pcie), (wideReg), (1), by refine ⟨?_, wide_at, ?_, ?_⟩ <;> decide +kernel⟩,
   ⟨(ringOn), (.herd), (wideReg), (1), by refine ⟨?_, wide_hi, ?_, ?_⟩ <;> decide +kernel⟩⟩

/-- The hypotheses of WideReads, each clause at one state. -/
theorem test_WideReads_witness :
    (∃ (s : State) (p : Access) (r : RegRef), (pathUp s p = true) ∧ (regRef s r.base = some r) ∧ (r.wide = true) ∧ (answers s r.base = true)) ∧
    (∃ (s : State) (_ : Access) (r : RegRef), (regRef s (r.base + 4) = some r) ∧ (r.wide = true) ∧ (answers s (r.base + 4) = true)) ∧
    (∃ (s : State) (p : Access) (r : RegRef) (q : Access) (x : Nat), (q = p → ∀ r' : RegRef, regRef s x = some r' → r'.base ≠ r.base)) :=
  ⟨⟨(ringOn), (.mgmt), (wideReg), by refine ⟨?_, wide_at, ?_, ?_⟩ <;> decide +kernel⟩,
   ⟨(ringOn), (.mgmt), (wideReg), by refine ⟨wide_hi, ?_, ?_⟩ <;> decide +kernel⟩,
   ⟨(ringOn), (.mgmt), (wideReg), (.mgmt), (0x1FFFFC), by intro _ r h; have e : (regRef ringOn 0x1FFFFC).isSome = false := (by decide +kernel); rw [h] at e; cases e⟩⟩

/-- The hypotheses of RegisterWriteStops, each clause at one state. -/
theorem test_RegisterWriteStops_witness :
    (∃ (s : State) (p : Access) (_ : Nat) (_ : BitVec 64) (_ _ : Bool), (pathWrites s p = true)) ∧
    (∃ (s : State) (p : Access) (_ : Nat) (_ : BitVec 64) (_ : Bool), (pathWrites s p = true)) ∧
    (∃ (s : State) (p : Access) (off : Nat) (_ : BitVec 64) (_ : Bool), (pathWrites s p = true) ∧ (0x200000 ≤ off)) ∧
    (∃ (s : State) (p : Access) (off : Nat) (_ : BitVec 64), (pathWrites s p = true) ∧ (off % 4 = 0) ∧ (off < 0x200000) ∧ (¬(0x130000 ≤ off ∧ off < 0x140000)) ∧ (regRef s off = none)) ∧
    (∃ (s : State) (p : Access) (off : Nat) (_ : BitVec 64) (q : Bool), (pathWrites s p = true) ∧ (off % (if q then 8 else 4) ≠ 0) ∧ (off < 0x200000)) ∧
    (∃ (s : State) (p : Access) (off : Nat) (_ : BitVec 64) (q : Bool), (pathWrites s p = true) ∧ (off % (if q then 8 else 4) = 0) ∧ (0x130000 ≤ off) ∧ (off < 0x140000) ∧ (s.mode = .opened)) :=
  ⟨⟨(ringOn), (.pcie), (0), (0), (true), (false), by decide +kernel⟩,
   ⟨(ringOn), (.pcie), (0), (0), (true), by decide +kernel⟩,
   ⟨(ringOn), (.pcie), (0x200000), (0), (true), by decide +kernel⟩,
   ⟨(ringOn), (.pcie), (0x1FFFFC), (0), by decide +kernel⟩,
   ⟨(ringOn), (.herd), (0x1FFFFE), (0), (true), by decide +kernel⟩,
   ⟨({ ringOn with mode := .opened }), (.herd), (0x13FFF8), (0), (true), by decide +kernel⟩⟩

/-- The hypotheses of RegisterWriteTakes, each clause at one state. -/
theorem test_RegisterWriteTakes_witness :
    (∃ (s : State) (p : Access) (_ : BitVec 64), (pathWrites s p = true)) ∧
    (∃ (s : State) (p : Access) (_ : BitVec 64), (pathWrites s p = true) ∧ (ctlUp s = true)) :=
  ⟨⟨(ringOn), (.pcie), (1), by decide +kernel⟩,
   ⟨(ringOn), (.pcie), (1), by decide +kernel⟩⟩

/-- The hypotheses of FaultIsEntered, each clause at one state. -/
theorem test_FaultIsEntered_witness :
    (∃ (_ : State) (cls : Fin 5) (code _ : Nat), (cls.val ≤ 2) ∧ (code ∈ catalogue cls.val)) :=
  ⟨(w .ready []), (2), (0x0A01), (3), by decide +kernel⟩

/-- The hypotheses of FullLogReplaces, each clause at one state. -/
theorem test_FullLogReplaces_witness :
    (∃ (s : State) (cls : Fin 5) (code detail : Nat), (cls.val ≤ 2) ∧ (code ∈ catalogue cls.val) ∧ (queueDepth s cls < 16) ∧ (s.faults.length = 64) ∧ (∀ r ∈ s.faults, ¬(r.code = code ∧ r.detail = detail))) :=
  ⟨(fullLog), (2), (0x0A01), (3), by decide +kernel⟩

/-- The hypotheses of SafetyAndFatalFaults, each clause at one state. -/
theorem test_SafetyAndFatalFaults_witness :
    (∃ (s : State) (_ : Nat), (safUp s = true) ∧ (s.mode = .scan)) ∧
    (∃ (s : State) (_ : Nat), (s.mode = .scan)) ∧
    (∃ (s : State) (_ : Nat), (safUp s = true) ∧ (s.mode = .ready)) ∧
    (∃ (s : State) (code _ : Nat), (inCatalogue s 4 code = true) ∧ (s.mode ≠ .opened) ∧ (s.mode ≠ .off)) ∧
    (∃ (s : State) (r : Reaction), (ctlUp s = true) ∧ (dueReaction s = some r)) ∧
    (∃ (s : State) (r : Reaction) (a b : List Reaction), (s.running = []) ∧ (∀ f ∈ s.faults, f.noReact = false) ∧ (s.reactions = a ++ r :: b) ∧ (r.cls ≤ 3) ∧ (∀ x ∈ a, x.cls < r.cls) ∧ (∀ x ∈ b, x.cls ≤ r.cls)) ∧
    (∃ (s : State) (r : Reaction) (l : List Reaction), (ctlUp s = true) ∧ (dueReaction s = none) ∧ (s.running = r :: l)) ∧
    (∃ (s : State), (s.fatalReset = true)) :=
  ⟨⟨(w .scan []), (1), by decide +kernel⟩,
   ⟨(w .scan []), (1), by decide +kernel⟩,
   ⟨(w .ready []), (1), by decide +kernel⟩,
   ⟨(w .ready []), (0x0105), (1), by decide +kernel⟩,
   ⟨(reactions2), (⟨2, 0x0A01, 3⟩), by decide +kernel⟩,
   ⟨(reactions2), (⟨2, 0x0A01, 3⟩), ([⟨0, 0x0007, 0⟩]), ([⟨1, 0x0001, 0⟩]), by decide +kernel⟩,
   ⟨({ w .ready [] with running := [⟨0, 0x0007, 0⟩] }), (⟨0, 0x0007, 0⟩), ([]), by decide +kernel⟩,
   ⟨({ w .fatal [] with fatalReset := true }), by decide +kernel⟩⟩

/-- The hypotheses of DeviceResetKeeps, each clause at one state. -/
theorem test_DeviceResetKeeps_witness :
    (∃ (s : State), (s.cmd.resetDue = false)) ∧
    (∃ (s : State), (s.cmd.resetDue = true)) :=
  ⟨⟨(w .ready []), by decide +kernel⟩,
   ⟨({ w .scan [(F.HGE_SEED, 5)] with cmd := { State.reset.cmd with resetDue := true } }), by decide +kernel⟩⟩

/-- The hypotheses of HerdPairs, each clause at one state. -/
theorem test_HerdPairs_witness :
    (∃ (s : State) (_ : Fin 2), (ctlUp s = true) ∧ (s.flag F.RED_HERD_H0_OK = true) ∧ (s.flag F.RED_HERD_H1_OK = true)) ∧
    (∃ (s : State), (ctlUp s = true) ∧ (s.flag F.RED_HERD_H0_OK = true) ∧ (s.flag F.RED_HERD_H1_OK = true) ∧ (herdActive s ≤ 1)) ∧
    (∃ (s : State), (ctlUp s = true) ∧ (s.flag F.RED_HERD_H0_OK = true) ∧ (s.flag F.RED_HERD_H1_OK = false) ∧ (s.mode ≠ .opened) ∧ (s.mode ≠ .off)) ∧
    (∃ (s : State), (s.red.switching = true) ∧ (ctlUp s = true) ∧ (standbyOk s = true) ∧ (herdActive s ≤ 1)) ∧
    (∃ (s : State), (s.red.switching = true) ∧ (ctlUp s = true) ∧ (standbyOk s = false)) :=
  ⟨⟨(herds .ready), (1), by decide +kernel⟩,
   ⟨(herds .ready), by decide +kernel⟩,
   ⟨(w .ready [(F.RED_HERD_H0_OK, 1), (F.RED_HERD_H1_OK, 0)]), by decide +kernel⟩,
   ⟨({ herds .ready with red := { State.reset.red with switching := true } }), by decide +kernel⟩,
   ⟨({ w .ready [(F.RED_HERD_H0_OK, 1), (F.RED_HERD_H1_OK, 0)] with red := { State.reset.red with switching := true } }), by decide +kernel⟩⟩

/-- The hypotheses of RoundingHalfAway, each clause at one state. -/
theorem test_RoundingHalfAway_witness :
    (∃ (_ b _ : Nat), (0 < b)) ∧
    (∃ (_ b : Nat), (0 < b)) :=
  ⟨⟨(5), (2), (3), by decide +kernel⟩,
   ⟨(5), (2), by decide +kernel⟩⟩

/-- The hypotheses of SystemCommands, each clause at one state. -/
theorem test_SystemCommands_witness :
    (∃ (s : State) (p : Port) (tag : Nat) (c : Cmd), (c.discard = false) ∧ (Ready s p tag 0x0100 (fun s c => stdCheck s c false false false) c)) ∧
    (∃ (s : State) (p : Port) (tag : Nat) (c : Cmd), (c.discard = false) ∧ (Ready s p tag 0x0101 (fun s c => stdCheck s c false false false) c)) ∧
    (∃ (s : State) (p : Port) (tag : Nat) (c : Cmd), (c.discard = false) ∧ (Ready s p tag 0x0103 (fun s c => stdCheck s c false false false) c)) ∧
    (∃ (s : State) (p : Port) (tag : Nat) (c : Cmd), (c.discard = false) ∧ (Ready s p tag 0x0104 (fun s c => stdCheck s c false false false) c)) ∧
    (∃ (s : State) (p : Port) (tag : Nat) (c : Cmd), (c.discard = false) ∧ (Ready s p tag 0x0901 (fun s c => stdCheck s c false false false) c)) ∧
    (∃ (s : State) (p : Port) (tag : Nat) (c : Cmd) (d : List Byte), (c.discard = false) ∧ (Ready s p tag 0x0900 (fun s c => stdCheck s c false false false) c) ∧ (d = ((s.faults.map faultBytes).flatten).take (64 * c.paramLen / 16 * 16)) ∧ (c.port = .ring → pcieUsable s = true)) ∧
    (∃ (s : State) (p : Port) (tag : Nat) (c : Cmd) (d : List Byte), (c.discard = false) ∧ (Ready s p tag 0x0900 (fun s c => stdCheck s c false false false) c) ∧ (d = ((s.faults.map faultBytes).flatten).take (64 * c.paramLen / 16 * 16)) ∧ (c.port = .ring) ∧ (pcieUsable s = false)) :=
  ⟨⟨(cmdOn .ready 0x0100 []), (.mgmt), (7), (cm 0x0100 [] []), by refine ⟨?_, ready_mk ?_⟩ <;> decide +kernel⟩,
   ⟨(cmdOn .ready 0x0101 []), (.mgmt), (7), (cm 0x0101 [] []), by refine ⟨?_, ready_mk ?_⟩ <;> decide +kernel⟩,
   ⟨(cmdOn .ready 0x0103 []), (.mgmt), (7), (cm 0x0103 [] []), by refine ⟨?_, ready_mk ?_⟩ <;> decide +kernel⟩,
   ⟨(cmdOn .ready 0x0104 [9000]), (.mgmt), (7), (cm 0x0104 [9000] []), by refine ⟨?_, ready_mk ?_⟩ <;> decide +kernel⟩,
   ⟨({ cmdOn .ready 0x0901 [] with faults := [oldFault 1 true, oldFault 2 false] }), (.mgmt), (7), (cm 0x0901 [] []), by refine ⟨?_, ready_mk ?_⟩ <;> decide +kernel⟩,
   ⟨(faultsS), (.mgmt), (7), (cm 0x0900 [] []), (((faultsS.faults.map faultBytes).flatten).take (64 * (cm 0x0900 [] []).paramLen / 16 * 16)), by refine ⟨?_, ready_mk ?_, rfl, ?_⟩ <;> decide +kernel⟩,
   ⟨(has (herds .ready) faultsC), (.ring), (7), (faultsC), ((((has (herds .ready) faultsC).faults.map faultBytes).flatten).take (64 * faultsC.paramLen / 16 * 16)), by refine ⟨?_, ready_mk ?_, rfl, ?_⟩ <;> decide +kernel⟩⟩

/-- The hypotheses of LongOperations, each clause at one state. -/
theorem test_LongOperations_witness :
    (∃ (s : State) (_ : Nat), (runningCmd s 0x0903 = none)) ∧
    (∃ (s : State) (p : Port) (tag : Nat) (c : Cmd), (c.discard = false) ∧ (Ready s p tag 0x0102 setStateCheck c) ∧ (c.dw 4 = 1)) ∧
    (∃ (s : State) (p : Port) (tag : Nat) (c : Cmd), (c.discard = false) ∧ (Ready s p tag 0x0102 setStateCheck c) ∧ (c.dw 4 = 2)) ∧
    (∃ (s : State) (p : Port) (tag : Nat) (c : Cmd), (c.discard = false) ∧ (Ready s p tag 0x0102 setStateCheck c) ∧ (c.dw 4 = 3)) ∧
    (∃ (s : State) (p : Port) (tag : Nat) (c : Cmd), (c.discard = false) ∧ (Ready s p tag 0x0106 herdSwitchCheck c)) ∧
    (∃ (s : State) (p : Port) (tag : Nat) (c : Cmd), (c.discard = false) ∧ (Ready s p tag 0x0902 diagImpedanceCheck c)) ∧
    (∃ (s : State) (p : Port) (tag : Nat) (c : Cmd), (c.discard = false) ∧ (Ready s p tag 0x0903 (fun s c => stdCheck s c false false (s.sys.trans.isSome || holds s 0x0903)) c)) ∧
    (∃ (s : State) (_ : Port) (_ : Nat) (c : Cmd) (_ : Nat), (c.discard = false) ∧ (runningCmd s 0x0903 = some c)) ∧
    (∃ (s : State) (p : Port) (tag : Nat) (c : Cmd), (c.discard = false) ∧ (Ready s p tag 0x0105 abortCheck c) ∧ (operation s c.port (c.dw 4 % 2 ^ 16) = none)) ∧
    (∃ (s : State) (p : Port) (tag : Nat) (c x : Cmd), (c.discard = false) ∧ (Ready s p tag 0x0105 abortCheck c) ∧ (operation s c.port (c.dw 4 % 2 ^ 16) = some x) ∧ (x.discard = false) ∧ (opStops x.opcode = true)) ∧
    (∃ (s : State) (p : Port) (tag : Nat) (c x : Cmd), (c.discard = false) ∧ (Waits s p tag 0x0105 c) ∧ (operation s c.port (c.dw 4 % 2 ^ 16) = some x) ∧ (opStops x.opcode = false)) ∧
    (∃ (s : State) (p : Port) (tag : Nat) (c : Cmd), (c.discard = false) ∧ (Ready s p tag 0x0904 (fun s c => stdCheck s c false false false) c) ∧ (c.port = .ring → pcieUsable s = true)) ∧
    (∃ (s : State) (p : Port) (tag : Nat) (c : Cmd), (c.discard = false) ∧ (Ready s p tag 0x0904 (fun s c => stdCheck s c false false false) c) ∧ (c.port = .ring) ∧ (pcieUsable s = false)) :=
  ⟨⟨(w .ready []), (5), by decide +kernel⟩,
   ⟨(cmdOn .standby 0x0102 [1] |>.set F.SYS_STATUS_STEP 0), (.mgmt), (7), (cm 0x0102 [1] []), by refine ⟨?_, ready_mk ?_, ?_⟩ <;> decide +kernel⟩,
   ⟨(cmdOn .ready 0x0102 [2]), (.mgmt), (7), (cm 0x0102 [2] []), by refine ⟨?_, ready_mk ?_, ?_⟩ <;> decide +kernel⟩,
   ⟨(cmdOn .standby 0x0102 [3] |>.set F.SYS_STATUS_STEP 0), (.mgmt), (7), (cm 0x0102 [3] []), by refine ⟨?_, ready_mk ?_, ?_⟩ <;> decide +kernel⟩,
   ⟨(cmdOn .ready 0x0106 []), (.mgmt), (7), (cm 0x0106 [] []), by refine ⟨?_, ready_mk ?_⟩ <;> decide +kernel⟩,
   ⟨(cmdOn .ready 0x0902 [] |>.set F.RXF_APDB_STAT_SETTLED 1), (.mgmt), (7), (cm 0x0902 [] []), by refine ⟨?_, ready_mk ?_⟩ <;> decide +kernel⟩,
   ⟨(cmdOn .ready 0x0903 []), (.mgmt), (7), (cm 0x0903 [] []), by refine ⟨?_, ready_mk ?_⟩ <;> decide +kernel⟩,
   ⟨(has (w .ready []) { long1 0x0903 [5] with first := false }), (.mgmt), (7), ({ long1 0x0903 [5] with first := false }), (6), by decide +kernel⟩,
   ⟨(cmdOn .ready 0x0105 [3]), (.mgmt), (7), (cm 0x0105 [3] []), by refine ⟨?_, ready_mk ?_, ?_⟩ <;> decide +kernel⟩,
   ⟨(abortS 0x0902), (.mgmt), (7), (cm 0x0105 [8] []), ({ long1 0x0902 [] with tag := 8 }), by refine ⟨?_, ready_mk ?_, ?_, ?_, ?_⟩ <;> decide +kernel⟩,
   ⟨(abortS 0x0106), (.mgmt), (7), (cm 0x0105 [8] []), ({ long1 0x0106 [] with tag := 8 }), by refine ⟨?_, waits_mk ?_, ?_, ?_⟩ <;> decide +kernel⟩,
   ⟨(cmdOn .ready 0x0904 []), (.mgmt), (7), (cm 0x0904 [] []), by refine ⟨?_, ready_mk ?_, ?_⟩ <;> decide +kernel⟩,
   ⟨(has (w .ready []) (ringC 0x0904)), (.ring), (7), (ringC 0x0904), by refine ⟨?_, ready_mk ?_, ?_, ?_⟩ <;> decide +kernel⟩⟩

/-- The hypotheses of ManagementPort, each clause at one state. -/
theorem test_ManagementPort_witness :
    (∃ (s : State) (head : Fin 65536) (rest b : List Byte), (s.mode ≠ .off) ∧ (b = clocked head rest) ∧ (frameCheck b = none) ∧ (reqType b = 2)) ∧
    (∃ (s : State) (head : Fin 65536) (rest b : List Byte), (s.mode ≠ .off) ∧ (b = clocked head rest) ∧ (frameCheck b = none) ∧ (reqType b = 3) ∧ (s.mode ≠ .fatal) ∧ (s.flag F.SYS_STATUS_CMD_LIVE = true)) ∧
    (∃ (s : State) (head : Fin 65536) (rest b : List Byte), (s.mode ≠ .off) ∧ (b = clocked head rest) ∧ (frameCheck b = none) ∧ (reqType b = 3) ∧ (s.mode ≠ .fatal) ∧ (s.mode ≠ .sleep) ∧ (s.flag F.SYS_STATUS_CMD_LIVE = false)) ∧
    (∃ (s : State) (head : Fin 65536) (rest b : List Byte), (s.mode ≠ .off) ∧ (b = clocked head rest) ∧ (frameCheck b = none) ∧ (reqType b = 5) ∧ (s.mode ≠ .fatal) ∧ (s.flag F.SYS_STATUS_CMD_LIVE = true)) ∧
    (∃ (s : State) (head : Fin 65536) (rest b : List Byte), (s.mode ≠ .off) ∧ (b = clocked head rest) ∧ (frameCheck b = none) ∧ (reqType b = 5) ∧ (s.mode ≠ .fatal) ∧ (s.mode ≠ .sleep) ∧ (s.flag F.SYS_STATUS_CMD_LIVE = false)) ∧
    (∃ (s : State) (head : Fin 65536) (rest b : List Byte) (code : Nat), (s.mode ≠ .off) ∧ (b = clocked head rest) ∧ (frameCheck b = some code)) ∧
    (∃ (s : State) (head len : Fin 65536) (body b : List Byte) (crc : Dword), (s.mode ≠ .off) ∧ (b = clocked head (afterSeq len body crc)) ∧ (frameCheck b = none) ∧ (reqType b = 4) ∧ (s.mode ≠ .fatal) ∧ (s.flag F.SYS_STATUS_CMD_LIVE = true)) ∧
    (∃ (s : State) (head len : Fin 65536) (body b : List Byte) (crc : Dword) (a : List Byte), (s.mode ≠ .off) ∧ (b = clocked head (afterSeq len body crc)) ∧ (frameCheck b = none) ∧ (reqType b = 1) ∧ (s.cmd.lastAck = some (reqSeq b, a)) ∧ (s.mode ≠ .fatal)) ∧
    (∃ (s : State) (head len : Fin 65536) (body b : List Byte) (crc : Dword) (c : Cmd), (s.mode ≠ .off) ∧ (b = clocked head (afterSeq len body crc)) ∧ (frameCheck b = none) ∧ (reqType b = 1) ∧ (s.mode ≠ .fatal) ∧ (s.mode ≠ .sleep) ∧ (s.cmd.lastAck.filter (fun a => a.1 == reqSeq b) = none) ∧ (mgmtRoom s = true) ∧ (s.flag F.SYS_STATUS_CMD_LIVE = true) ∧ (c = parseBody (reqBody b)) ∧ (entryCheck (ackFrame s (reqSeq b) 0 c.tag) c = none)) ∧
    (∃ (s : State) (n : Nat) (b : List Byte) (z : Bool) (l : List HeldFrame), (s.mode ≠ .off) ∧ (s.cmd.held = ⟨1, n, b, z⟩ :: l) ∧ (ctlUp s = true) ∧ (s.flag F.SYS_STATUS_CMD_LIVE = true) ∧ (entryCheck { s with cmd := { s.cmd with held := l } } (parseBody b) = none)) ∧
    (∃ (s : State) (_ : Bool) (k n : Nat) (b : List Byte), (s.mode ≠ .off) ∧ (s.cmd.resp = some (k, n, b))) ∧
    (∃ (s : State) (_ : Bool), (s.mode ≠ .off) ∧ (s.cmd.resp = none)) :=
  ⟨⟨(live), (fHead 2), ((mgmtFrame 2 3 []).drop 2), (mgmtFrame 2 3 []), by decide +kernel⟩,
   ⟨(live), (fHead 3), ((mgmtFrame 3 3 []).drop 2), (mgmtFrame 3 3 []), by decide +kernel⟩,
   ⟨(live.set F.SYS_STATUS_CMD_LIVE 0), (fHead 3), ((mgmtFrame 3 3 []).drop 2), (mgmtFrame 3 3 []), by decide +kernel⟩,
   ⟨(live), (fHead 5), ((mgmtFrame 5 3 []).drop 2), (mgmtFrame 5 3 []), by decide +kernel⟩,
   ⟨(live.set F.SYS_STATUS_CMD_LIVE 0), (fHead 5), ((mgmtFrame 5 3 []).drop 2), (mgmtFrame 5 3 []), by decide +kernel⟩,
   ⟨(live), (fHead 2), ([]), ([2#8, 3#8]), (2), by decide +kernel⟩,
   ⟨(live), (fHead 4), (5), (regBody), (mgmtFrame 4 3 regBody), (fCrc 4 regBody), by decide +kernel⟩,
   ⟨({ live with cmd := { live.cmd with lastAck := some (3, [0#8]) } }), (fHead 1), (64), (nopBody), (mgmtFrame 1 3 nopBody), (fCrc 1 nopBody), ([0#8]), by decide +kernel⟩,
   ⟨(live), (fHead 1), (64), (nopBody), (mgmtFrame 1 3 nopBody), (fCrc 1 nopBody), (parseBody nopBody), by decide +kernel⟩,
   ⟨({ live with cmd := { live.cmd with held := [⟨1, 3, nopBody, false⟩] } }), (3), (nopBody), (false), ([]), by decide +kernel⟩,
   ⟨({ live with cmd := { live.cmd with resp := some (0x82, 3, [0#8]) } }), (true), (0x82), (3), ([0#8]), by decide +kernel⟩,
   ⟨(live), (true), by decide +kernel⟩⟩

/-- The hypotheses of PcieLink, each clause at one state. -/
theorem test_PcieLink_witness :
    (∃ (s : State), (mainDown s = false) ∧ (s.pins.perst = false)) ∧
    (∃ (s : State), (s.pins.perst = true) ∧ (wakeCauses { s with pins := { s.pins with perst := false } } (2 ^ 11) = 0)) ∧
    (∃ (s : State), (s.link.up = true) ∧ (s.pins.perst = false)) ∧
    (∃ (s : State) (_ : Fin 6) (_ : Fin 9) (_ : Bool), (lnkUp s = true) ∧ (s.pins.perst = false)) ∧
    (∃ (s : State), (s.link.up = true)) ∧
    (∃ (s : State), (s.link.up = false) ∧ (s.pins.perst = false) ∧ (lnkUp s = true)) ∧
    (∃ (s : State) (_ : Bool), (s.link.up = true) ∧ (s.link.aspm = true) ∧ (s.get F.LNK_PCIE_STATUS_PWR = 0)) ∧
    (∃ (s : State) (_ _ _ : Bool) (_ : CfgSpace), (s.flag F.SYS_STATUS_PCIE_CFG = true) ∧ (s.link.flr = false) ∧ (s.link.up = true)) :=
  ⟨⟨(ringOn), by decide +kernel⟩,
   ⟨({ ringOn.set F.SHD_WAKE_CFG_PERST_EN 0 with pins := { ringOn.pins with perst := true } }), by decide +kernel⟩,
   ⟨(ringOn), by decide +kernel⟩,
   ⟨(ringOn), (3), (4), (false), by decide +kernel⟩,
   ⟨(ringOn), by decide +kernel⟩,
   ⟨({ ringOn with link := { ringOn.link with up := false } }), by decide +kernel⟩,
   ⟨({ ringOn.set F.LNK_PCIE_STATUS_PWR 0 with link := { ringOn.link with aspm := true, l11 := true } }), (true), by decide +kernel⟩,
   ⟨(ringOn), (true), (false), (true), (⟨false, 1, 2, true, false⟩), by decide +kernel⟩⟩

/-- The hypotheses of ProgramCommands, each clause at one state. -/
theorem test_ProgramCommands_witness :
    (∃ (s : State) (p : Port) (tag : Nat) (c : Cmd) (q : Prog) (k o : Nat), (c.discard = false) ∧ (Ready s p tag 0x0200 loadProgCheck c) ∧ (q = readProg c.data) ∧ (progFault s c.data = some (k, o))) ∧
    (∃ (s : State) (p : Port) (tag : Nat) (c : Cmd) (q : Prog), (c.discard = false) ∧ (Ready s p tag 0x0200 loadProgCheck c) ∧ (q = readProg c.data) ∧ (progFault s c.data = none) ∧ (s.saf.cfg.isSome = true) ∧ (crcListed s q.crc = false)) ∧
    (∃ (s : State) (p : Port) (tag : Nat) (c : Cmd) (q : Prog), (c.discard = false) ∧ (Ready s p tag 0x0200 loadProgCheck c) ∧ (q = readProg c.data) ∧ (progFault s c.data = none) ∧ (s.saf.cfg.isSome = true → crcListed s q.crc = true) ∧ (availableStalls s < progNeed s q)) ∧
    (∃ (s : State) (p : Port) (tag : Nat) (c : Cmd) (q : Prog), (c.discard = false) ∧ (Ready s p tag 0x0200 loadProgCheck c) ∧ (q = readProg c.data) ∧ (progFault s c.data = none) ∧ (s.saf.cfg.isSome = true → crcListed s q.crc = true) ∧ (progNeed s q ≤ availableStalls s)) ∧
    (∃ (s : State) (p : Port) (tag : Nat) (c : Cmd), (c.discard = false) ∧ (Ready s p tag 0x0204 (fun s c => stdCheck s c (committed s) false s.sys.trans.isSome) c)) ∧
    (∃ (s : State) (p : Port) (tag : Nat) (c : Cmd), (c.discard = false) ∧ (Waits s p tag 0x0204 c) ∧ (committed s = true)) ∧
    (∃ (s : State) (p : Port) (tag : Nat) (c : Cmd) (n : Nat), (c.discard = false) ∧ (Ready s p tag 0x0205 (fun s c => stdCheck s c false false s.sys.trans.isSome) c) ∧ (n = c.dw 4 % 4)) :=
  ⟨⟨(loadS [0#8]), (.mgmt), (7), (loadC [0#8]), (readProg [0#8]), (1), (0), by refine ⟨?_, ready_mk ?_, ?_, ?_⟩ <;> decide +kernel⟩,
   ⟨(committedS (loadS progBytes)), (.mgmt), (7), (loadC progBytes), (readProg progBytes), by refine ⟨?_, ready_mk ?_, ?_, ?_, ?_, ?_⟩ <;> decide +kernel⟩,
   ⟨(fullS), (.mgmt), (7), (loadC progBytes), (readProg progBytes), by refine ⟨?_, ready_mk ?_, ?_, ?_, ?_, ?_⟩ <;> decide +kernel⟩,
   ⟨(loadS progBytes), (.mgmt), (7), (loadC progBytes), (readProg progBytes), by refine ⟨?_, ready_mk ?_, ?_, ?_, ?_, ?_⟩ <;> decide +kernel⟩,
   ⟨(has (w .standby []) (entry5 0x0204 [5] [])), (.mgmt), (7), (entry5 0x0204 [5] []), by refine ⟨?_, ready_mk ?_⟩ <;> decide +kernel⟩,
   ⟨(committedS (has (w .standby []) (cm 0x0204 [5] []))), (.mgmt), (7), (cm 0x0204 [5] []), by refine ⟨?_, waits_mk ?_, ?_⟩ <;> decide +kernel⟩,
   ⟨(has (w .standby []) (entry5 0x0205 [0, 64] [])), (.mgmt), (7), (entry5 0x0205 [0, 64] []), (0), by refine ⟨?_, ready_mk ?_, ?_⟩ <;> decide +kernel⟩⟩

/-- The hypotheses of SafetyCommands, each clause at one state. -/
theorem test_SafetyCommands_witness :
    (∃ (s : State) (p : Port) (tag : Nat) (c : Cmd), (c.discard = false) ∧ (Ready s p tag 0x0500 safLoadCheck c)) ∧
    (∃ (s : State) (p : Port) (tag : Nat) (c : Cmd), (c.discard = false) ∧ (Ready s p tag 0x0501 safLoadCheck c)) ∧
    (∃ (s : State) (p : Port) (tag : Nat) (c : Cmd), (c.discard = false) ∧ (Ready s p tag 0x0502 safArmCheck c)) ∧
    (∃ (s : State) (p : Port) (tag : Nat) (c : Cmd), (c.discard = false) ∧ (Ready s p tag 0x0503 (fun s c => stdCheck s c false false false) c)) ∧
    (∃ (s : State) (p : Port) (tag : Nat) (c : Cmd), (c.discard = false) ∧ (Ready s p tag 0x0504 (fun s c => stdCheck s c false false false) c)) :=
  ⟨⟨(safLoadS 0x0500), (.mgmt), (7), (entry5 0x0500 [] []), by refine ⟨?_, ready_mk ?_⟩ <;> decide +kernel⟩,
   ⟨(safLoadS 0x0501), (.mgmt), (7), (entry5 0x0501 [] []), by refine ⟨?_, ready_mk ?_⟩ <;> decide +kernel⟩,
   ⟨(has armCfg (cm 0x0502 [] [])), (.mgmt), (7), (cm 0x0502 [] []), by refine ⟨?_, ready_mk ?_⟩ <;> decide +kernel⟩,
   ⟨(cmdOn .ready 0x0503 []), (.mgmt), (7), (cm 0x0503 [] []), by refine ⟨?_, ready_mk ?_⟩ <;> decide +kernel⟩,
   ⟨(cmdOn .lockout 0x0504 []), (.mgmt), (7), (cm 0x0504 [] []), by refine ⟨?_, ready_mk ?_⟩ <;> decide +kernel⟩⟩

/-- The hypotheses of YardCommands, each clause at one state. -/
theorem test_YardCommands_witness :
    (∃ (s : State) (p : Port) (tag : Nat) (c : Cmd) (w : Nat), (c.discard = false) ∧ (Ready s p tag 0x0300 (fun s c => if overlaps s c then some St.badParam else stdCheck s c false false false) c) ∧ (w < 64) ∧ (grantFits s c = true) ∧ (s.flag (F.YRD_GRANT_STAT_VALID w) = false) ∧ (∀ v < w, s.flag (F.YRD_GRANT_STAT_VALID v) = true)) ∧
    (∃ (s : State) (p : Port) (tag : Nat) (c : Cmd), (c.discard = false) ∧ (Ready s p tag 0x0300 (fun s c => if overlaps s c then some St.badParam else stdCheck s c false false false) c) ∧ (grantFits s c = false)) ∧
    (∃ (s : State) (p : Port) (tag : Nat) (c : Cmd) (r : Tier), (c.discard = false) ∧ (Ready s p tag 0x0302 (fun s c => stdCheck s c false false false) c) ∧ (r = (if c.dw 4 = 0 then .loft else if c.dw 4 = 1 then .near else .far))) ∧
    (∃ (s : State) (p : Port) (tag : Nat) (c : Cmd), (c.discard = false) ∧ (Ready s p tag 0x0301 (fun s c => if !s.flag (F.YRD_GRANT_STAT_VALID (c.dw 4)) then some St.badParam else stdCheck s c false false s.yrd.revoke.isSome) c) ∧ (s.yrd.stalls = []) ∧ (c.dw 4 < 64)) ∧
    (∃ (s : State), (s.yrd.revoke = none)) ∧
    (∃ (s : State) (w n : Nat), (s.yrd.revoke = some (w, n)) ∧ (windowStalls s w = []) ∧ (w < 64)) :=
  ⟨⟨(has (herds .ready) (grant1 1)), (.mgmt), (7), (grant1 1), (0), by refine ⟨?_, ready_mk ?_, ?_, ?_, ?_, ?_⟩ <;> decide +kernel⟩,
   ⟨(has (herds .ready) (grant1 0xFFFFFFFF)), (.mgmt), (7), (grant1 0xFFFFFFFF), by refine ⟨?_, ready_mk ?_, ?_⟩ <;> decide +kernel⟩,
   ⟨(cmdOn .ready 0x0302 [1]), (.mgmt), (7), (cm 0x0302 [1] []), (.near), by refine ⟨?_, ready_mk ?_, ?_⟩ <;> decide +kernel⟩,
   ⟨(revokeS), (.mgmt), (7), (cm 0x0301 [0] []), by refine ⟨?_, ready_mk ?_, ?_, ?_⟩ <;> decide +kernel⟩,
   ⟨(herds .ready), by decide +kernel⟩,
   ⟨({ revokeS with yrd := { revokeS.yrd with revoke := some (0, 2) } }), (0), (2), by decide +kernel⟩⟩

/-- The hypotheses of CalibrationCommands, each clause at one state. -/
theorem test_CalibrationCommands_witness :
    (∃ (s : State) (p : Port) (tag : Nat) (c : Cmd), (c.discard = false) ∧ (Ready s p tag 0x0700 calGroomCheck c)) ∧
    (∃ (s : State) (p : Port) (tag : Nat) (c : Cmd), (c.discard = false) ∧ (Ready s p tag 0x0701 calStoreCheck c)) ∧
    (∃ (s : State) (p : Port) (tag : Nat) (c : Cmd) (d : List Byte), (c.discard = false) ∧ (Ready s p tag 0x0702 (fun s c => stdCheck s c false false false) c) ∧ (d = (calRecord s.cal.flash (c.dw 4 % 65536) (calBody s.cal.flash s.free (c.dw 4 % 65536)).1).take (64 * c.paramLen)) ∧ (c.port = .ring → pcieUsable s = true)) ∧
    (∃ (s : State) (p : Port) (tag : Nat) (c : Cmd), (c.discard = false) ∧ (Ready s p tag 0x0702 (fun s c => stdCheck s c false false false) c) ∧ (c.port = .ring) ∧ (pcieUsable s = false)) ∧
    (∃ (s : State) (p : Port) (tag : Nat) (c : Cmd), (c.discard = false) ∧ (Ready s p tag 0x0703 engageCheck c) ∧ (s.get F.RXF_SPARE_STATUS_PHASE ≠ 3)) ∧
    (∃ (s : State) (p : Port) (tag : Nat) (c : Cmd), (c.discard = false) ∧ (Ready s p tag 0x0703 engageCheck c) ∧ (s.get F.RXF_SPARE_STATUS_PHASE = 3)) ∧
    (∃ (s : State) (p : Port) (tag : Nat) (c : Cmd), (c.discard = false) ∧ (Ready s p tag 0x0704 releaseCheck c)) ∧
    (∃ (s : State), (s.flag F.CAL_STATUS_STORE_BUSY = true)) ∧
    (∃ (s : State) (_ : Fin 16), (s.flag F.CAL_CTRL_AUTO_EN = false)) ∧
    (∃ (s : State) (n : Fin 16) (u : Int), (s.flag F.CAL_CTRL_AUTO_EN = true) ∧ (lastGroomT s n = some u) ∧ (4 * s.get F.CAL_CTRL_REGROOM_DT ≤ (s.rxf.tAd - u).natAbs) ∧ (s.cal.grooms = []) ∧ (s.mode = .ready ∨ s.mode.scanning = true) ∧ (s.get F.RXF_SPARE_STATUS_PHASE = 0 ∨ s.get F.RXF_SPARE_STATUS_PHASE = 5)) :=
  ⟨⟨(cmdOn .ready 0x0700 [0, 1]), (.mgmt), (7), (cm 0x0700 [0, 1] []), by refine ⟨?_, ready_mk ?_⟩ <;> decide +kernel⟩,
   ⟨(cmdOn .ready 0x0701 []), (.mgmt), (7), (cm 0x0701 [] []), by refine ⟨?_, ready_mk ?_⟩ <;> decide +kernel⟩,
   ⟨(readS), (.mgmt), (7), (readC), ((calRecord readS.cal.flash (readC.dw 4 % 65536) (calBody readS.cal.flash readS.free (readC.dw 4 % 65536)).1).take (64 * readC.paramLen)), by refine ⟨?_, ready_mk ?_, rfl, ?_⟩ <;> decide +kernel⟩,
   ⟨(has (herds .ready) { cm 0x0702 [] [] with port := .ring }), (.ring), (7), ({ cm 0x0702 [] [] with port := .ring }), by refine ⟨?_, ready_mk ?_, ?_, ?_⟩ <;> decide +kernel⟩,
   ⟨(cmdOn .ready 0x0703 [3]), (.mgmt), (7), (cm 0x0703 [3] []), by refine ⟨?_, ready_mk ?_, ?_⟩ <;> decide +kernel⟩,
   ⟨(((cmdOn .ready 0x0703 [3]).set F.RXF_SPARE_STATUS_PHASE 3).set F.RXF_SPARE_STATUS_ROUTE 3), (.mgmt), (7), (cm 0x0703 [3] []), by refine ⟨?_, ready_mk ?_, ?_⟩ <;> decide +kernel⟩,
   ⟨((cmdOn .ready 0x0704 []).set F.RXF_SPARE_STATUS_PHASE 3), (.mgmt), (7), (cm 0x0704 [] []), by refine ⟨?_, ready_mk ?_⟩ <;> decide +kernel⟩,
   ⟨(w .ready [(F.CAL_STATUS_STORE_BUSY, 1)]), by decide +kernel⟩,
   ⟨(w .ready [(F.CAL_CTRL_AUTO_EN, 0)]), (3), by decide +kernel⟩,
   ⟨(autoS), (3), (300), by decide +kernel⟩⟩

/-- The hypotheses of GroomDoneEnds, each clause at one state. -/
theorem test_GroomDoneEnds_witness :
    (∃ (s : State) (n : Nat) (_ : List ClusterMeas) (_ : List (List (Nat × Nat))) (_ _ : Nat × Nat), (s.cal.grooms.length ≤ n)) ∧
    (∃ (s : State) (n : Nat) (_ : List ClusterMeas) (_ : List (List (Nat × Nat))) (_ _ : Nat × Nat) (g : Groom), (s.cal.grooms[n]? = some g) ∧ (g.waiting = true)) ∧
    (∃ (s : State) (n : Nat) (_ : List ClusterMeas) (_ : List (List (Nat × Nat))) (_ _ : Nat × Nat) (g : Groom), (s.cal.grooms[n]? = some g) ∧ (g.waiting = false)) :=
  ⟨⟨(groomS true), (1), ([]), ([]), ((0, 0)), ((0, 0)), by decide +kernel⟩,
   ⟨(groomS true), (0), ([]), ([]), ((0, 0)), ((0, 0)), (groom1 true), by decide +kernel⟩,
   ⟨({ groomS false with cal := { (groomS false).cal with grooms := [groom3] } }), (0), ([]), ([]), ((0, 0)), ((0, 0)), (groom3), by decide +kernel⟩⟩

/-- The hypotheses of ScanCommands, each clause at one state. -/
theorem test_ScanCommands_witness :
    (∃ (s : State) (p : Port) (tag : Nat) (c : Cmd), (c.discard = false) ∧ (Ready s p tag 0x0201 scanStartCheck c) ∧ (startWaits s = false)) ∧
    (∃ (s : State) (p : Port) (tag : Nat) (c : Cmd), (c.discard = false) ∧ (Ready s p tag 0x0201 scanStartCheck c) ∧ (startWaits s = true)) ∧
    (∃ (s : State) (p : Port) (tag : Nat) (c : Cmd), (c.discard = false) ∧ (Ready s p tag 0x0202 (fun s c => if changing s then some St.busy else stdCheck s c false false false) c)) ∧
    (∃ (s : State) (p : Port) (tag : Nat) (c : Cmd), (c.discard = false) ∧ (Ready s p tag 0x0203 scanSwitchCheck c)) ∧
    (∃ (s : State) (_ : List Nat), (s.mode.scanning = true) ∧ (s.sch.running = true) ∧ (s.sch.next < s.sch.slots)) ∧
    (∃ (s : State) (x : _), (s.mode.scanning = true) ∧ (s.sch.running = true) ∧ (s.sch.next = s.sch.slots) ∧ (s.sch.stop = some x)) :=
  ⟨⟨(has (progS .ready []) (cm 0x0201 [0] [])), (.mgmt), (7), (cm 0x0201 [0] []), by refine ⟨?_, ready_mk ?_, ?_⟩ <;> decide +kernel⟩,
   ⟨(has (progS .ready [(F.RED_STATUS_MODE, 1), (F.RED_CTRL_SIDE, 1)]) (cm 0x0201 [0] [])), (.mgmt), (7), (cm 0x0201 [0] []), by refine ⟨?_, ready_mk ?_, ?_⟩ <;> decide +kernel⟩,
   ⟨(has scanS (cm 0x0202 [] [])), (.mgmt), (7), (cm 0x0202 [] []), by refine ⟨?_, ready_mk ?_⟩ <;> decide +kernel⟩,
   ⟨(has scanS (cm 0x0203 [1] [])), (.mgmt), (7), (cm 0x0203 [1] []), by refine ⟨?_, ready_mk ?_⟩ <;> decide +kernel⟩,
   ⟨(scanS), ([]), by decide +kernel⟩,
   ⟨({ scanS with sch := { scanS.sch with next := 10000, stop := some (.mgmt, 7) } }), ((Port.mgmt, 7)), by decide +kernel⟩⟩

/-- The hypotheses of SafetyInputsAct, each clause at one state. -/
theorem test_SafetyInputsAct_witness :
    (∃ (s : State) (n : Fin 4), ((pairAt s n).edmPend = false)) ∧
    (∃ (s : State) (n : Fin 4), ((pairAt s n).edmPend = true) ∧ ((pairAt s n).edm ≠ pairOn s n)) ∧
    (∃ (s : State) (n : Fin 4), ((pairAt s n).edmPend = true) ∧ ((pairAt s n).edm = pairOn s n) ∧ (s.mode = .scan)) ∧
    (∃ (s : State) (g : Fin 4) (_ : Bool), (guardAt s g = ⟨true, true, false, false, false⟩)) ∧
    (∃ (s : State) (g : Fin 4) (_ pend : Bool), (guardAt s g = ⟨false, true, false, pend, false⟩)) ∧
    (∃ (s : State) (g : Fin 4) (_ pend : Bool), (guardAt s g = ⟨false, true, false, pend, true⟩)) ∧
    (∃ (s : State) (g : Fin 4), ((guardAt s g).a = (guardAt s g).b)) ∧
    (∃ (s : State) (g : Fin 4), ((guardAt s g).a ≠ (guardAt s g).b)) ∧
    (∃ (s : State) (a b skew : Nat), (1000 ≤ a) ∧ (a ≤ 50000) ∧ (1000 ≤ b) ∧ (b ≤ 50000) ∧ (skew < 100) ∧ (s.mode = .ready)) ∧
    (∃ (s : State) (a b skew : Nat), (1000 ≤ a) ∧ (a ≤ 50000) ∧ (1000 ≤ b) ∧ (b ≤ 50000) ∧ (skew < 100) ∧ (s.mode = .safeHold) ∧ (s.saf.f3 = [])) ∧
    (∃ (s : State) (a b skew : Nat) (c : SafCfg) (n : Nat) (d : Side), (1000 ≤ a) ∧ (a ≤ 50000) ∧ (1000 ≤ b) ∧ (b ≤ 50000) ∧ (skew < 100) ∧ (s.mode = .scan) ∧ (s.saf.cfg = some c) ∧ (s.saf.armed = true) ∧ (n < 4) ∧ ((s.ev d).pair n = .wait) ∧ ((c.pair n).autoRestart = false)) ∧
    (∃ (_ : State) (a b skew : Nat), (a ≤ 50000) ∧ (b ≤ 50000) ∧ (a < 1000 ∨ b < 1000 ∨ 100 ≤ skew)) ∧
    (∃ (_ : State) (a b _ : Nat), (50000 < a ∨ 50000 < b)) ∧
    (∃ (s : State) (n : Fin 4) (c : SafCfg) (d : Side), (s.mode = .scan) ∧ (s.saf.cfg = some c) ∧ (s.saf.armed = true) ∧ ((s.ev d).pair n = .wait) ∧ ((c.pair n).autoRestart = true)) :=
  ⟨⟨(pairS .ready ⟨false, false⟩), (1), by decide +kernel⟩,
   ⟨(pairS .ready ⟨true, true⟩), (1), by decide +kernel⟩,
   ⟨(pairS .scan ⟨true, false⟩), (1), by decide +kernel⟩,
   ⟨(guardS ⟨true, true, false, false, false⟩), (2), (true), by decide +kernel⟩,
   ⟨(guardS ⟨false, true, false, true, false⟩), (2), (true), (true), by decide +kernel⟩,
   ⟨(guardS ⟨false, true, false, false, true⟩), (2), (true), (false), by decide +kernel⟩,
   ⟨(guardS ⟨true, true, false, false, false⟩), (2), by decide +kernel⟩,
   ⟨(guardS ⟨true, false, false, false, false⟩), (2), by decide +kernel⟩,
   ⟨(w .ready []), (1000), (50000), (99), by decide +kernel⟩,
   ⟨(w .safeHold []), (1000), (50000), (99), by decide +kernel⟩,
   ⟨(armed1 .scan .wait), (1000), (50000), (99), (armedCfg), (1), (.b), by decide +kernel⟩,
   ⟨(w .ready []), (999), (50000), (99), by decide +kernel⟩,
   ⟨(w .ready []), (50001), (0), (0), by decide +kernel⟩,
   ⟨(armed1 .scan .wait), (0), (armedCfg), (.b), by decide +kernel⟩⟩

/-- The hypotheses of FieldSetsAndMonitors, each clause at one state. -/
theorem test_FieldSetsAndMonitors_witness :
    (∃ (s : State) (_ : Side) (_ : Fin 8), (s.saf.cfg = none)) ∧
    (∃ (s : State) (d : Side) (v : Fin 8) (c : SafCfg), (s.saf.cfg = some c) ∧ (bit c.setsEn v = true) ∧ (v.val ≠ (s.ev d).active)) ∧
    (∃ (s : State) (_ : Side) (v : Fin 8) (c : SafCfg), (s.saf.cfg = some c) ∧ (bit c.setsEn v = false)) ∧
    (∃ (s : State), (s.saf.evA.fsel = s.saf.evB.fsel)) ∧
    (∃ (s : State), (s.mode = .scan) ∧ (s.saf.evA.fsel ≠ s.saf.evB.fsel)) ∧
    (∃ (s : State) (d : Side), ((s.ev d).replaced = [])) ∧
    (∃ (s : State) (d : Side) (l : List Nat) (k : Nat), ((s.ev d).replaced = l ++ [k])) ∧
    (∃ (s : State) (dir : Nat), (s.saf.evA.covered.contains dir = false) ∧ (s.saf.evB.covered.contains dir = false)) ∧
    (∃ (s : State) (dir : Nat), (s.saf.evA.covered.contains dir = true ∨ s.saf.evB.covered.contains dir = true)) ∧
    (∃ (s : State) (d : Side) (n : Fin 4) (c : SafCfg), (s.saf.cfg = some c) ∧ ((s.ev d).pair n = .on) ∧ (bit (causes s c d n) 1 = true)) ∧
    (∃ (s : State) (_ : Side) (v w : Bool), (s.mode = .scan) ∧ (safUp s = true) ∧ ((v && w) = false)) ∧
    (∃ (s : State) (line : Fin 8) (_ _ _ : Bool), (lineOn s line = false)) ∧
    (∃ (s : State) (line : Fin 8) (own _ back : Bool), (lineOn s line = true) ∧ (own = false ∨ back = false) ∧ (s.mode = .scan)) ∧
    (∃ (s : State) (_ : Fin 8), (s.mode = .scan) ∧ (safUp s = true)) ∧
    (∃ (s : State) (_ : Bool), (s.saf.armed = false)) ∧
    (∃ (s : State) (_ : Bool), (s.saf.armed = true) ∧ (s.mode = .scan)) :=
  ⟨⟨(w .ready []), (.a), (3), by decide +kernel⟩,
   ⟨(setS .scan [] []), (.a), (3), (setCfg), by decide +kernel⟩,
   ⟨(setS .scan [] []), (.a), (5), (setCfg), by decide +kernel⟩,
   ⟨(w .ready []), by decide +kernel⟩,
   ⟨(setS .scan [] []), by decide +kernel⟩,
   ⟨(setS .scan [] []), (.a), by decide +kernel⟩,
   ⟨(setS .scan [2, 3] []), (.a), ([2]), (3), by decide +kernel⟩,
   ⟨(setS .scan [] []), (9), by decide +kernel⟩,
   ⟨(setS .scan [] [9]), (9), by decide +kernel⟩,
   ⟨(gapS), (.a), (1), (gapCfg), by decide +kernel⟩,
   ⟨(setS .scan [] []), (.a), (true), (false), by decide +kernel⟩,
   ⟨(w .scan []), (3), (true), (true), (true), by decide +kernel⟩,
   ⟨(setS .scan [] []), (3), (true), (true), (false), by decide +kernel⟩,
   ⟨(setS .scan [] []), (3), by decide +kernel⟩,
   ⟨(w .scan []), (true), by decide +kernel⟩,
   ⟨(setS .scan [] []), (true), by decide +kernel⟩⟩

/-- The hypotheses of SecurityCommands, each clause at one state. -/
theorem test_SecurityCommands_witness :
    (∃ (s : State) (_ : Bool), (runningCmd s 0x0A02 = none)) ∧
    (∃ (s : State), (runningCmd s 0x0A03 = none)) ∧
    (∃ (s : State), (s.mode ≠ .off) ∧ (s.flag F.SEC_STATUS_OPENED = false)) ∧
    (∃ (s : State), (s.mode = .off ∨ s.flag F.SEC_STATUS_OPENED = true)) ∧
    (∃ (s : State), (s.mode = .opened) ∧ (s.flag F.SEC_STATUS_IDKEY = false)) ∧
    (∃ (s : State), (s.mode ≠ .opened ∨ s.flag F.SEC_STATUS_IDKEY = true)) ∧
    (∃ (s : State) (p : Port) (tag : Nat) (c : Cmd), (c.discard = false) ∧ (Ready s p tag 0x0A01 (fun s c => stdCheck s c false false false) c)) ∧
    (∃ (s : State) (p : Port) (tag : Nat) (c : Cmd) (d : List Byte), (c.discard = false) ∧ (d = (identityBytes s).1.take (64 * c.paramLen)) ∧ (Ready s p tag 0x0A00 (fun s c => stdCheck s c false false false) c) ∧ (c.port = .ring → pcieUsable s = true)) ∧
    (∃ (s : State) (p : Port) (tag : Nat) (c : Cmd) (d : List Byte), (c.discard = false) ∧ (d = (identityBytes s).1.take (64 * c.paramLen)) ∧ (Ready s p tag 0x0A00 (fun s c => stdCheck s c false false false) c) ∧ (c.port = .ring) ∧ (pcieUsable s = false)) ∧
    (∃ (s : State) (p : Port) (tag : Nat) (c : Cmd) (d : List Byte), (c.discard = false) ∧ (d = (attestBytes s ((c.inl.take 8).foldl (fun l d => l ++ leBytes 4 d) [])).take (64 * c.paramLen)) ∧ (Ready s p tag 0x0A04 (fun s c => stdCheck s c false false false) c) ∧ (c.port = .ring → pcieUsable s = true)) ∧
    (∃ (s : State) (p : Port) (tag : Nat) (c : Cmd) (d : List Byte), (c.discard = false) ∧ (d = (attestBytes s ((c.inl.take 8).foldl (fun l d => l ++ leBytes 4 d) [])).take (64 * c.paramLen)) ∧ (Ready s p tag 0x0A04 (fun s c => stdCheck s c false false false) c) ∧ (c.port = .ring) ∧ (pcieUsable s = false)) ∧
    (∃ (s : State) (p : Port) (tag : Nat) (c : Cmd), (c.discard = false) ∧ (Ready s p tag 0x0A02 fwStageCheck c) ∧ (c.dw 4 = 0)) ∧
    (∃ (s : State) (p : Port) (tag : Nat) (c : Cmd), (c.discard = false) ∧ (Ready s p tag 0x0A02 fwStageCheck c) ∧ (c.dw 4 ≠ 0)) ∧
    (∃ (s : State) (p : Port) (tag : Nat) (c : Cmd), (c.discard = false) ∧ (Waits s p tag 0x0A02 c) ∧ (c.dw 4 ≠ 0) ∧ (c.dw 4 ≠ s.get F.SEC_STAGE)) ∧
    (∃ (s : State) (_ : Port) (_ : Nat) (c : Cmd), (c.discard = false) ∧ (runningCmd s 0x0A02 = some c)) ∧
    (∃ (s : State) (p : Port) (tag : Nat) (c : Cmd), (c.discard = false) ∧ (Ready s p tag 0x0A03 (fun s c => stdCheck s c false false (fwBusy s)) c)) ∧
    (∃ (s : State) (_ : Port) (_ : Nat) (c : Cmd), (c.discard = false) ∧ (runningCmd s 0x0A03 = some c) ∧ (imageRefused s s.sec.stage = none)) ∧
    (∃ (s : State) (_ : Port) (_ : Nat) (c : Cmd) (status detail : Nat), (c.discard = false) ∧ (runningCmd s 0x0A03 = some c) ∧ (imageRefused s s.sec.stage = some (status, detail))) ∧
    (∃ (s : State) (p : Port) (tag : Nat) (c : Cmd), (c.discard = false) ∧ (Ready s p tag 0x0A05 (fun s c => stdCheck s c false false false) c)) :=
  ⟨⟨(w .ready []), (true), by decide +kernel⟩,
   ⟨(w .ready []), by decide +kernel⟩,
   ⟨(w .ready []), by decide +kernel⟩,
   ⟨(w .opened [(F.SEC_STATUS_OPENED, 1)]), by decide +kernel⟩,
   ⟨(w .opened [(F.SEC_STATUS_OPENED, 1), (F.SEC_STATUS_IDKEY, 0)]), by decide +kernel⟩,
   ⟨(w .opened [(F.SEC_STATUS_OPENED, 1), (F.SEC_STATUS_IDKEY, 1)]), by decide +kernel⟩,
   ⟨(cmdOn .ready 0x0A01 []), (.mgmt), (7), (cm 0x0A01 [] []), by refine ⟨?_, ready_mk ?_⟩ <;> decide +kernel⟩,
   ⟨(cmdOn .ready 0x0A00 []), (.mgmt), (7), (cm 0x0A00 [] []), (idBytes (cmdOn .ready 0x0A00 [])), by refine ⟨?_, rfl, ready_mk ?_, ?_⟩ <;> decide +kernel⟩,
   ⟨(has (w .ready []) (ringC 0x0A00)), (.ring), (7), (ringC 0x0A00), (idBytes (has (w .ready []) (ringC 0x0A00))), by refine ⟨?_, rfl, ready_mk ?_, ?_, ?_⟩ <;> decide +kernel⟩,
   ⟨(cmdOn .ready 0x0A04 []), (.mgmt), (7), (cm 0x0A04 [] []), (quote (cmdOn .ready 0x0A04 [])), by refine ⟨?_, rfl, ready_mk ?_, ?_⟩ <;> decide +kernel⟩,
   ⟨(has (w .ready []) (ringC 0x0A04)), (.ring), (7), (ringC 0x0A04), (quote (has (w .ready []) (ringC 0x0A04))), by refine ⟨?_, rfl, ready_mk ?_, ?_, ?_⟩ <;> decide +kernel⟩,
   ⟨(stageS 0 0), (.mgmt), (7), (cm 0x0A02 [0] []), by refine ⟨?_, ready_mk ?_, ?_⟩ <;> decide +kernel⟩,
   ⟨(stageS 64 64), (.mgmt), (7), (cm 0x0A02 [64] []), by refine ⟨?_, ready_mk ?_, ?_⟩ <;> decide +kernel⟩,
   ⟨(stageS 64 128), (.mgmt), (7), (cm 0x0A02 [64] []), by refine ⟨?_, waits_mk ?_, ?_, ?_⟩ <;> decide +kernel⟩,
   ⟨(longS 0x0A02), (.mgmt), (7), (long1 0x0A02 []), by decide +kernel⟩,
   ⟨(cmdOn .ready 0x0A03 []), (.mgmt), (7), (cm 0x0A03 [] []), by refine ⟨?_, ready_mk ?_⟩ <;> decide +kernel⟩,
   ⟨(imageS), (.mgmt), (7), (long1 0x0A03 []), by refine ⟨?_, ?_, image_taken⟩ <;> decide +kernel⟩,
   ⟨(longS 0x0A03), (.mgmt), (7), (long1 0x0A03 []), (St.badParam), (0x7C), by decide +kernel⟩,
   ⟨(cmdOn .opened 0x0A05 []), (.mgmt), (7), (cm 0x0A05 [] []), by refine ⟨?_, ready_mk ?_⟩ <;> decide +kernel⟩⟩

/-- The hypotheses of InterruptController, each clause at one state. -/
theorem test_InterruptController_witness :
    (∃ (s : State) (n : Nat), (s.irq.entry = none) ∧ (s.irq.exiting = false) ∧ (winner s = some n)) ∧
    (∃ (s : State), (s.irq.entry = none) ∧ (winner s = none)) ∧
    (∃ (s : State) (m n : Nat), (s.irq.entry = some m) ∧ (winner s = some n)) ∧
    (∃ (s : State) (m : Nat), (s.irq.entry = some m) ∧ (winner s = none)) ∧
    (∃ (s : State) (n p : Nat) (l : List (Nat × Nat)), (s.irq.stack = (n, p) :: l)) ∧
    (∃ (s : State), (s.irq.exiting = false)) ∧
    (∃ (s : State), (s.irq.exiting = true) ∧ (winner s = none)) ∧
    (∃ (s : State) (n : Nat), (s.irq.exiting = true) ∧ (winner s = some n)) ∧
    (∃ (s : State) (v : Nat), (firstVector s (dueVectors s) = some v) ∧ (vectorBlocked s v = false)) ∧
    (∃ (s : State) (v : Nat), (firstVector s (dueVectors s) = some v) ∧ (vectorBlocked s v = true)) ∧
    (∃ (s : State) (value : Dword), (s.flag (F.IRQ_VEC_STAT_SENT (value.toNat % 64)) = false)) ∧
    (∃ (s : State) (value : Dword) (v : Nat), (v = value.toNat % 64) ∧ (s.flag (F.IRQ_VEC_STAT_SENT v) = true) ∧ (vectorLevel (s.set (F.IRQ_VEC_STAT_SENT v) 0) v = false)) ∧
    (∃ (s : State) (value : Dword) (v : Nat), (v = value.toNat % 64) ∧ (s.flag (F.IRQ_VEC_STAT_SENT v) = true) ∧ (vectorLevel (s.set (F.IRQ_VEC_STAT_SENT v) 0) v = true) ∧ (vectorBlocked (s.set (F.IRQ_VEC_STAT_SENT v) 0) v = false)) ∧
    (∃ (s : State) (_ : List MsixEntry), (s.irq.pba = 0)) ∧
    (∃ (s : State) (e : MsixEntry) (v : Nat) (u : State), (v < 64) ∧ (u = writeEntry s e) ∧ (s.irq.pba = 2 ^ v) ∧ (vectorBlocked u v = false) ∧ (vectorLevel u v = true) ∧ (s.flag (F.IRQ_VEC_STAT_SENT v) = false)) :=
  ⟨⟨(irqS), (9), by decide +kernel⟩,
   ⟨(w .ready []), by decide +kernel⟩,
   ⟨({ irqS with irq := { irqS.irq with entry := some 4 } }), (4), (9), by decide +kernel⟩,
   ⟨({ w .ready [] with irq := { State.reset.irq with entry := some 4 } }), (4), by decide +kernel⟩,
   ⟨({ w .ready [] with irq := { State.reset.irq with stack := [(9, 3), (4, 1)] } }), (9), (3), ([(4, 1)]), by decide +kernel⟩,
   ⟨(w .ready []), by decide +kernel⟩,
   ⟨({ w .ready [] with irq := { State.reset.irq with exiting := true } }), by decide +kernel⟩,
   ⟨({ irqS with irq := { irqS.irq with exiting := true } }), (9), by decide +kernel⟩,
   ⟨(msiS 0), (3), by decide +kernel⟩,
   ⟨(msiS (2 ^ 64 - 1)), (3), by decide +kernel⟩,
   ⟨(w .ready []), (3#32), by decide +kernel⟩,
   ⟨((w .ready []).set (F.IRQ_VEC_STAT_SENT 3) 1), (3#32), (3), by decide +kernel⟩,
   ⟨((msiS 0).set (F.IRQ_VEC_STAT_SENT 3) 1), (3#32), (3), by decide +kernel⟩,
   ⟨(w .ready []), ([⟨5, 0xFEE00000#64, 7#32, true⟩]), by decide +kernel⟩,
   ⟨(msiP), ((⟨3, 0xFEE00000#64, 7#32, false⟩ : MsixEntry)), (3), (writeEntry msiP ⟨3, 0xFEE00000#64, 7#32, false⟩), by refine ⟨?_, rfl, ?_, ?_, ?_, ?_⟩ <;> decide +kernel⟩⟩

/-- The hypotheses of RecorderCommands, each clause at one state. -/
theorem test_RecorderCommands_witness :
    (∃ (s : State) (p : Port) (tag : Nat) (c : Cmd), (c.discard = false) ∧ (Ready s p tag 0x0600 acqConfigCheck c)) ∧
    (∃ (s : State) (p : Port) (tag : Nat) (c : Cmd) (u : State), (c.discard = false) ∧ (Ready s p tag 0x0601 (fun s c => stdCheck s c false s.acq.cfg.isNone (recState s != Rec.disarmed)) c) ∧ (s.acq.cfg.bind (placeRings s) = some u)) ∧
    (∃ (s : State) (p : Port) (tag : Nat) (c : Cmd), (c.discard = false) ∧ (Ready s p tag 0x0601 (fun s c => stdCheck s c false s.acq.cfg.isNone (recState s != Rec.disarmed)) c) ∧ (s.acq.cfg.bind (placeRings s) = none)) ∧
    (∃ (s : State) (p : Port) (tag : Nat) (c : Cmd), (c.discard = false) ∧ (Ready s p tag 0x0602 (fun s c => stdCheck s c false false false) c) ∧ (s.acq.run.isSome = true)) ∧
    (∃ (s : State) (p : Port) (tag : Nat) (c : Cmd), (c.discard = false) ∧ (Ready s p tag 0x0602 (fun s c => stdCheck s c false false false) c) ∧ (s.acq.run = none)) ∧
    (∃ (s : State) (p : Port) (tag : Nat) (c : Cmd) (k : AcqCfg), (c.discard = false) ∧ (Ready s p tag 0x0603 acqTriggerCheck c) ∧ (s.acq.cfg = some k) ∧ (bit k.srcEn 7 = true) ∧ (recState s ≠ Rec.disarmed)) ∧
    (∃ (s : State) (p : Port) (tag : Nat) (c : Cmd) (d : List Byte), (c.discard = false) ∧ (Ready s p tag 0x0604 (fun s c => stdCheck s c false false false) c) ∧ (d = ((s.acq.log.map missBytes).flatten).take (64 * c.paramLen / 16 * 16)) ∧ (c.port = .ring → pcieUsable s = true)) ∧
    (∃ (s : State) (p : Port) (tag : Nat) (c : Cmd), (c.discard = false) ∧ (Ready s p tag 0x0802 (fun s c => stdCheck s c false false s.acq.tbMax.isSome) c)) ∧
    (∃ (s : State) (_ : Port) (_ : Nat) (c : Cmd) (m : Nat), (c.discard = false) ∧ (s.acq.tbMax = some m) ∧ (runningCmd s 0x0802 = some c)) ∧
    (∃ (s : State) (_ : Nat) (k : AcqCfg), (s.acq.cfg = some k) ∧ (bit k.srcEn 5 = true) ∧ (recState s ≠ Rec.disarmed)) ∧
    (∃ (s : State) (w : BitVec 48) (_ _ : Nat) (k : AcqCfg), (s.acq.cfg = some k) ∧ (bit k.srcEn 6 = true) ∧ (recState s ≠ Rec.disarmed) ∧ (busOn s = true) ∧ (w = busFrame Bus.trigger (busOrigin w) (busData w))) ∧
    (∃ (s : State) (w : BitVec 48) (_ _ : Nat), (busTakes s Bus.trigger w = false)) ∧
    (∃ (s : State) (_ : BitVec 48) (_ _ : Nat), (s.acq.cfg = none)) ∧
    (∃ (s : State), (lnkUp s = true) ∧ (busOn s = true)) ∧
    (∃ (s : State) (w : BitVec 48) (_ m : Nat), (s.acq.tbMax = some m) ∧ (busTakes s Bus.measureReply w = true)) :=
  ⟨⟨(has (w .ready []) acqCmd), (.mgmt), (7), (acqCmd), by refine ⟨?_, ready_mk ?_⟩ <;> decide +kernel⟩,
   ⟨(armS), (.mgmt), (7), (cm 0x0601 [] []), (armU), by refine ⟨?_, ready_mk ?_, get_eq _ ?_⟩ <;> decide +kernel⟩,
   ⟨(armNo), (.mgmt), (7), (cm 0x0601 [] []), by refine ⟨?_, ready_mk ?_, ?_⟩ <;> decide +kernel⟩,
   ⟨({ has (acqS .ready 3 []) (cm 0x0602 [] []) with acq := { (acqS .ready 3 []).acq with run := some recording1 } }), (.mgmt), (7), (cm 0x0602 [] []), by refine ⟨?_, ready_mk ?_, ?_⟩ <;> decide +kernel⟩,
   ⟨(has (acqS .ready 1 []) (cm 0x0602 [] [])), (.mgmt), (7), (cm 0x0602 [] []), by refine ⟨?_, ready_mk ?_, ?_⟩ <;> decide +kernel⟩,
   ⟨(has (acqS .ready 1 []) (cm 0x0603 [] [])), (.mgmt), (7), (cm 0x0603 [] []), (acqCfg1), by refine ⟨?_, ready_mk ?_, ?_, ?_, ?_⟩ <;> decide +kernel⟩,
   ⟨(lostLogS), (.mgmt), (7), (cm 0x0604 [] []), (((lostLogS.acq.log.map missBytes).flatten).take (64 * (cm 0x0604 [] []).paramLen / 16 * 16)), by refine ⟨?_, ready_mk ?_, rfl, ?_⟩ <;> decide +kernel⟩,
   ⟨(has (w .ready []) (cm 0x0802 [] [])), (.mgmt), (7), (cm 0x0802 [] []), by refine ⟨?_, ready_mk ?_⟩ <;> decide +kernel⟩,
   ⟨({ longS 0x0802 with acq := { State.reset.acq with tbMax := some 3 } }), (.mgmt), (7), (long1 0x0802 []), (3), by decide +kernel⟩,
   ⟨(acqS .ready 1 []), (3), (acqCfg1), by decide +kernel⟩,
   ⟨(acqS .ready 1 []), (busFrame Bus.trigger 2 1000), (5), (3), (acqCfg1), by decide +kernel⟩,
   ⟨(acqS .ready 1 []), (busFrame Bus.trigger 2 1000 + 1), (5), (2), by decide +kernel⟩,
   ⟨(w .ready []), (0), (0), (3), by decide +kernel⟩,
   ⟨(acqS .ready 0 []), by decide +kernel⟩,
   ⟨({ acqS .ready 0 [] with acq := { State.reset.acq with tbMax := some 3 } }), (busFrame Bus.measureReply 2 0), (40), (3), by decide +kernel⟩⟩

/-- The hypotheses of RecorderRuns, each clause at one state. -/
theorem test_RecorderRuns_witness :
    (∃ (s : State) (_ : Nat), (s.acq.pend = [])) ∧
    (∃ (s : State) (_ src date : Nat) (k : AcqCfg), (s.acq.pend = [(src, date)]) ∧ (s.acq.cfg = some k) ∧ (recState s = Rec.disarmed)) ∧
    (∃ (s : State) (_ src date : Nat) (k : AcqCfg), (s.acq.pend = [(src, date)]) ∧ (s.acq.cfg = some k) ∧ (recState s = Rec.armed)) ∧
    (∃ (s : State) (_ src date : Nat) (k : AcqCfg) (r : Recording), (s.acq.pend = [(src, date)]) ∧ (s.acq.cfg = some k) ∧ (recState s ≠ Rec.disarmed) ∧ (recState s ≠ Rec.armed) ∧ (s.acq.run = some r) ∧ (r.trigs.any (fun e => sampleOf e.2 == sampleOf date) = true)) ∧
    (∃ (s : State) (_ src date : Nat) (k : AcqCfg), (s.acq.pend = [(src, date)]) ∧ (s.acq.cfg = some k) ∧ (recState s ≠ Rec.disarmed) ∧ (recState s ≠ Rec.armed) ∧ (s.acq.run.all (fun r => r.trigs.all (fun e => sampleOf e.2 != sampleOf date)) = true) ∧ (s.acq.log.length < 15)) ∧
    (∃ (s : State) (_ src date : Nat) (k : AcqCfg), (s.acq.pend = [(src, date)]) ∧ (s.acq.cfg = some k) ∧ (recState s ≠ Rec.disarmed) ∧ (recState s ≠ Rec.armed) ∧ (s.acq.run.all (fun r => r.trigs.all (fun e => sampleOf e.2 != sampleOf date)) = true) ∧ (s.acq.log.length = 15)) ∧
    (∃ (s : State) (_ src date : Nat) (k : AcqCfg), (s.acq.pend = [(src, date)]) ∧ (s.acq.cfg = some k) ∧ (recState s ≠ Rec.disarmed) ∧ (recState s ≠ Rec.armed) ∧ (s.acq.run.all (fun r => r.trigs.all (fun e => sampleOf e.2 != sampleOf date)) = true) ∧ (16 ≤ s.acq.log.length)) ∧
    (∃ (s : State) (_ : Fin 3), (s.acq.run = none)) ∧
    (∃ (s : State) (k : Fin 3) (r : Recording) (x : RecSection), (s.acq.run = some r) ∧ (r.secs.getD k none = some x)) ∧
    (∃ (s : State), (recState s = Rec.closing) ∧ (deliveryReady s = true ∨ paging s = true)) ∧
    (∃ (s : State) (r : Recording) (k : AcqCfg), (s.acq.run = some r) ∧ (s.acq.cfg = some k) ∧ (recState s = Rec.closing) ∧ (deliveryReady s = false) ∧ (paging s = false)) ∧
    (∃ (s : State), (s.acq.run = none) ∧ (recState s ≠ Rec.closing)) ∧
    (∃ (s : State), (recState s = Rec.rearming)) ∧
    (∃ (s : State), (recState s ≠ Rec.rearming)) :=
  ⟨⟨(w .ready []), (3), by decide +kernel⟩,
   ⟨(pendS 0), (3), (5), (100), (acqCfg1), by decide +kernel⟩,
   ⟨(pendS 1), (3), (5), (100), (acqCfg1), by decide +kernel⟩,
   ⟨(joinS 100), (3), (6), (100), (acqCfg1), (recording1), by decide +kernel⟩,
   ⟨(pendS 4), (3), (5), (100), (acqCfg1), by decide +kernel⟩,
   ⟨(logS 15), (3), (6), (90000), (acqCfg1), by decide +kernel⟩,
   ⟨(logS 16), (3), (6), (90000), (acqCfg1), by decide +kernel⟩,
   ⟨(w .ready []), (0), by decide +kernel⟩,
   ⟨(recS 2), (0), (recording1), (section1), by decide +kernel⟩,
   ⟨(fetchS), by decide +kernel⟩,
   ⟨(recS 3), (recording1), (acqCfg1), by decide +kernel⟩,
   ⟨(acqS .ready 4 []), by decide +kernel⟩,
   ⟨(acqS .ready 4 []), by decide +kernel⟩,
   ⟨(acqS .ready 2 []), by decide +kernel⟩⟩

/-- The hypotheses of PartnerTraining, each clause at one state. -/
theorem test_PartnerTraining_witness :
    (∃ (s : State), (prtUp s = true) ∧ (prtState s = Prt.detect)) ∧
    (∃ (s : State) (header : Fin 4) (payload : Dword) (_ : Nat), (prtUp s = true) ∧ (prtState s = Prt.lanecheck) ∧ (header.val = Header.control) ∧ (bits payload.toNat 24 8 = Ctype.trn) ∧ (bits payload.toNat 21 1 = 0)) ∧
    (∃ (s : State) (header : Fin 4) (payload : Dword) (_ : Nat), (prtUp s = true) ∧ (prtState s = Prt.lanecheck) ∧ (3 - header.val = Header.control) ∧ (bits (~~~payload).toNat 24 8 = Ctype.trn) ∧ (bits (~~~payload).toNat 21 1 = 0)) ∧
    (∃ (s : State) (width height : Nat), (prtUp s = true) ∧ (prtState s = Prt.eye) ∧ (s.prt.laneOk = 1) ∧ (s.prt.eyesDone = 0) ∧ (24 ≤ width) ∧ (50 ≤ height)) ∧
    (∃ (s : State) (width height : Nat), (prtUp s = true) ∧ (prtState s = Prt.eye) ∧ (bit s.prt.laneOk 0 = true) ∧ (width < 24 ∨ height < 50)) ∧
    (∃ (s : State) (word : BitVec 34) (w : Nat), (prtUp s = true) ∧ (prtState s = Prt.capability) ∧ (bits word.toNat 32 2 = Header.control) ∧ (bits word.toNat 24 8 = 0xD2) ∧ (w = word.toNat % 2 ^ 24) ∧ (bits w 20 4 = 1) ∧ (bits w 17 2 = s.get F.RED_STATUS_MODE) ∧ (bits w 0 16 = 0x8960)) ∧
    (∃ (s : State) (word : BitVec 34) (w : Nat), (prtUp s = true) ∧ (prtState s = Prt.capability) ∧ (bits word.toNat 32 2 = Header.control) ∧ (bits word.toNat 24 8 = 0xD2) ∧ (w = word.toNat % 2 ^ 24) ∧ (bits w 20 4 ≠ 1 ∨ bits w 17 2 ≠ s.get F.RED_STATUS_MODE ∨ bits w 0 16 ≠ 0x8960)) ∧
    (∃ (s : State) (_ : Nat), (prtUp s = true) ∧ (prtState s = Prt.latency)) ∧
    (∃ (s : State) (_ _ : Nat), (prtUp s = true) ∧ (prtState s = Prt.latency) ∧ (s.prt.echoes.length < 63)) ∧
    (∃ (s : State) (_ _ : Nat), (prtUp s = true) ∧ (prtState s = Prt.latency) ∧ (s.prt.echoes.length = 63)) ∧
    (∃ (s : State) (body : List Byte) (_ : Bool), (prtUp s = true) ∧ (prtState s = Prt.session) ∧ (s.prt.keyx = false) ∧ (body.length = 64) ∧ (p256.on (leAt body 0 32) (leAt body 32 32) = true)) ∧
    (∃ (s : State) (body : List Byte) (_ : Bool) (k : List Byte), (prtUp s = true) ∧ (prtState s = Prt.session) ∧ (s.prt.keyx = true) ∧ (partnerVerifies s body = true) ∧ (sessionKeys s = some k)) ∧
    (∃ (s : State) (body : List Byte) (_ : Bool), (prtUp s = true) ∧ (prtState s = Prt.session) ∧ (s.prt.keyx = false) ∧ (body.length ≠ 64 ∨ p256.on (leAt body 0 32) (leAt body 32 32) = false)) ∧
    (∃ (s : State) (body : List Byte) (_ : Bool), (prtUp s = true) ∧ (prtState s = Prt.session) ∧ (s.prt.keyx = true) ∧ (partnerVerifies s body = false)) ∧
    (∃ (s : State) (st : Nat), (prtUp s = true) ∧ (prtState s = st) ∧ (Prt.detect ≤ st) ∧ (st ≤ Prt.session)) ∧
    (∃ (s : State), (prtUp s = true) ∧ (prtState s = Prt.retry)) :=
  ⟨⟨(prtS Prt.detect []), by decide +kernel⟩,
   ⟨(prtS Prt.lanecheck []), (2), (BitVec.ofNat 32 (2 ^ 24 * Ctype.trn)), (20), by decide +kernel⟩,
   ⟨(prtS Prt.lanecheck []), (1), (~~~(BitVec.ofNat 32 (2 ^ 24 * Ctype.trn))), (20), by decide +kernel⟩,
   ⟨({ prtS Prt.eye [] with prt := { State.reset.prt with laneOk := 1, eyesDone := 0 } }), (24), (50), by decide +kernel⟩,
   ⟨({ prtS Prt.eye [] with prt := { State.reset.prt with laneOk := 1 } }), (23), (50), by decide +kernel⟩,
   ⟨(prtS Prt.capability []), (capWord 0x108960), (0x108960), by decide +kernel⟩,
   ⟨(prtS Prt.capability []), (capWord 0x108961), (0x108961), by decide +kernel⟩,
   ⟨(prtS Prt.latency []), (3), by decide +kernel⟩,
   ⟨(prtS Prt.latency []), (40), (4), by decide +kernel⟩,
   ⟨({ prtS Prt.latency [] with prt := { State.reset.prt with echoes := List.replicate 63 10 } }), (40), (4), by decide +kernel⟩,
   ⟨(prtS Prt.session []), (pub256 7), (true), by decide +kernel⟩,
   ⟨(keyxS), (keyxBody), (true), ((sessionKeys keyxS).get (by decide +kernel)), by refine ⟨?_, ?_, ?_, ?_, get_eq _ ?_⟩ <;> decide +kernel⟩,
   ⟨(prtS Prt.session []), ([]), (true), by decide +kernel⟩,
   ⟨(keyxS), ([]), (true), by decide +kernel⟩,
   ⟨(prtS Prt.eye []), (Prt.eye), by decide +kernel⟩,
   ⟨(prtS Prt.retry []), by decide +kernel⟩⟩

/-- The hypotheses of PartnerLinkKept, each clause at one state. -/
theorem test_PartnerLinkKept_witness :
    (∃ (s : State) (p : Port) (tag : Nat) (c : Cmd), (c.discard = false) ∧ (Ready s p tag 0x0800 (fun s c => stdCheck s c (committed s) false s.sys.trans.isSome) c)) ∧
    (∃ (s : State) (p : Port) (tag : Nat) (c : Cmd), (c.discard = false) ∧ (Ready s p tag 0x0801 (fun s c => stdCheck s c false false s.prt.retrain.isSome) c)) ∧
    (∃ (s : State), (linkKept s = true)) ∧
    (∃ (s : State), (linkKept s = true) ∧ (bit (s.get F.LNK_PRT_STATUS_LANES_UP) 1 = true)) ∧
    (∃ (s : State), (linkKept s = false)) ∧
    (∃ (s : State), (prtState s = Prt.active) ∧ (s.flag F.LNK_PRT_CTRL_DOZE_EN = true) ∧ (native s = false ∨ s.mode.scanning = false)) ∧
    (∃ (s : State), (s.flag F.LNK_PRT_CTRL_DOZE_EN = false)) ∧
    (∃ (s : State), (dozes s = true)) ∧
    (∃ (s : State), (dozes s = true) ∧ (sessionUp s = true)) :=
  ⟨⟨(has (herds .ready) (cm 0x0800 [1] [])), (.mgmt), (7), (cm 0x0800 [1] []), by refine ⟨?_, ready_mk ?_⟩ <;> decide +kernel⟩,
   ⟨(has (prtS Prt.active [(F.RED_HERD_H0_OK, 1)]) (cm 0x0801 [] [])), (.mgmt), (7), (cm 0x0801 [] []), by refine ⟨?_, ready_mk ?_⟩ <;> decide +kernel⟩,
   ⟨(linkS Prt.active []), by decide +kernel⟩,
   ⟨(linkS Prt.active []), by decide +kernel⟩,
   ⟨(w .ready []), by decide +kernel⟩,
   ⟨(linkS Prt.active []), by decide +kernel⟩,
   ⟨((linkS Prt.active []).set F.LNK_PRT_CTRL_DOZE_EN 0), by decide +kernel⟩,
   ⟨(linkS Prt.doze []), by decide +kernel⟩,
   ⟨(linkS Prt.doze []), by decide +kernel⟩⟩

/-- The hypotheses of TwinPackets, each clause at one state. -/
theorem test_TwinPackets_witness :
    (∃ (s : State) (_ : BitVec 128) (_ : Nat), (receives s = false)) ∧
    (∃ (s : State) (tag : BitVec 128) (seq : Nat) (l : List Nat), (receives s = true) ∧ (l = (s.prt.tagFails.filter fun t => s.sys.raw < t + 800000) ++ [s.sys.raw]) ∧ (tagVerifies s 0x03 seq [] tag = true) ∧ (s.prt.rxSeq < seq) ∧ (s.flag F.RED_STATUS_ALT = false)) ∧
    (∃ (s : State) (tag : BitVec 128) (seq : Nat) (l : List Nat), (receives s = true) ∧ (l = (s.prt.tagFails.filter fun t => s.sys.raw < t + 800000) ++ [s.sys.raw]) ∧ (tagVerifies s 0x03 seq [] tag = true) ∧ (s.prt.rxSeq < seq) ∧ (s.flag F.RED_STATUS_ALT = true)) ∧
    (∃ (s : State) (tag : BitVec 128) (seq : Nat) (l : List Nat), (receives s = true) ∧ (l = (s.prt.tagFails.filter fun t => s.sys.raw < t + 800000) ++ [s.sys.raw]) ∧ (tagVerifies s 0x03 seq [] tag = true) ∧ (seq ≤ s.prt.rxSeq)) ∧
    (∃ (s : State) (tag : BitVec 128) (seq : Nat) (l : List Nat), (receives s = true) ∧ (l = (s.prt.tagFails.filter fun t => s.sys.raw < t + 800000) ++ [s.sys.raw]) ∧ (tagVerifies s 0x03 seq [] tag = false) ∧ (l.length < 3 ∨ sessionUp s = false)) ∧
    (∃ (s : State) (tag : BitVec 128) (seq : Nat) (l : List Nat), (receives s = true) ∧ (l = (s.prt.tagFails.filter fun t => s.sys.raw < t + 800000) ++ [s.sys.raw]) ∧ (tagVerifies s 0x03 seq [] tag = false) ∧ (3 ≤ l.length) ∧ (sessionUp s = true)) ∧
    (∃ (s : State) (tag : BitVec 128) (seq frame slot vlast entry i : Nat) (u : State), (receives s = true) ∧ (i = slot % 2 ^ 20) ∧ (tagVerifies s 0x01 seq [frame, i + 2 ^ 20 * vlast, entry] tag = true) ∧ (u = heardPartner { s with prt := { s.prt with rxSeq := seq } }) ∧ (seq ≤ s.prt.rxSeq)) ∧
    (∃ (s : State) (tag : BitVec 128) (seq frame slot vlast entry i : Nat) (u : State), (receives s = true) ∧ (i = slot % 2 ^ 20) ∧ (tagVerifies s 0x01 seq [frame, i + 2 ^ 20 * vlast, entry] tag = true) ∧ (u = heardPartner { s with prt := { s.prt with rxSeq := seq } }) ∧ (s.prt.rxSeq < seq) ∧ (splitsEntries u = false ∨ u.red.mute = true ∨ u.sch.running = false ∨ i % 2 = sideNow u ∨ entry = 0xFFFFFFFF ∨ absSlot u frame i = none)) ∧
    (∃ (s : State) (tag : BitVec 128) (seq frame slot vlast entry i : Nat) (u : State) (a : Nat), (receives s = true) ∧ (i = slot % 2 ^ 20) ∧ (tagVerifies s 0x01 seq [frame, i + 2 ^ 20 * vlast, entry] tag = true) ∧ (u = heardPartner { s with prt := { s.prt with rxSeq := seq } }) ∧ (s.prt.rxSeq < seq) ∧ (absSlot u frame i = some a) ∧ (a < u.sch.abs + u.sch.next)) ∧
    (∃ (s : State) (tag : BitVec 128) (seq frame slot vlast entry i : Nat) (u : State) (a : Nat) (y : Shot) (o : Owe), (receives s = true) ∧ (i = slot % 2 ^ 20) ∧ (tagVerifies s 0x01 seq [frame, i + 2 ^ 20 * vlast, entry] tag = true) ∧ (u = heardPartner { s with prt := { s.prt with rxSeq := seq } }) ∧ (s.prt.rxSeq < seq) ∧ (splitsEntries u = true) ∧ (u.red.mute = false) ∧ (u.sch.running = true) ∧ (i % 2 ≠ sideNow u) ∧ (entry ≠ 0xFFFFFFFF) ∧ (absSlot u frame i = some a) ∧ (u.sch.abs + u.sch.next ≤ a) ∧ (partnerShot u ⟨a, frame, i⟩ entry vlast = some (y, o)) ∧ (a = u.sch.abs + u.sch.next)) ∧
    (∃ (s : State) (tag : BitVec 128) (seq frame slot vlast entry i : Nat) (u : State) (a : Nat) (y : Shot) (o : Owe), (receives s = true) ∧ (i = slot % 2 ^ 20) ∧ (tagVerifies s 0x01 seq [frame, i + 2 ^ 20 * vlast, entry] tag = true) ∧ (u = heardPartner { s with prt := { s.prt with rxSeq := seq } }) ∧ (s.prt.rxSeq < seq) ∧ (splitsEntries u = true) ∧ (u.red.mute = false) ∧ (u.sch.running = true) ∧ (i % 2 ≠ sideNow u) ∧ (entry ≠ 0xFFFFFFFF) ∧ (absSlot u frame i = some a) ∧ (u.sch.abs + u.sch.next ≤ a) ∧ (partnerShot u ⟨a, frame, i⟩ entry vlast = some (y, o)) ∧ (a ≠ u.sch.abs + u.sch.next)) ∧
    (∃ (s : State) (tag : BitVec 128) (seq schema side seed frame calVer mark24 dly : Nat) (all : Bool) (hash : Nat), (receives s = true) ∧ (tagVerifies s 0x02 seq (mirrorWords schema side all hash seed frame calVer mark24 dly) tag = true) ∧ (seq ≤ s.prt.rxSeq)) ∧
    (∃ (s : State) (tag : BitVec 128) (seq schema side seed frame calVer mark24 dly : Nat) (all : Bool) (hash : Nat), (receives s = true) ∧ (tagVerifies s 0x02 seq (mirrorWords schema side all hash seed frame calVer mark24 dly) tag = true) ∧ (s.prt.rxSeq < seq) ∧ (native s = false)) ∧
    (∃ (s : State) (tag : BitVec 128) (seq schema side seed frame calVer mark24 dly : Nat) (all : Bool) (hash : Nat), (receives s = true) ∧ (tagVerifies s 0x02 seq (mirrorWords schema side all hash seed frame calVer mark24 dly) tag = true) ∧ (s.prt.rxSeq < seq) ∧ (native s = true) ∧ (s.red.mark = none) ∧ (schema = s.get F.RED_SCHEMA_OWN) ∧ (hash = s.get F.RED_HASH) ∧ (side ≠ sideNow s)) ∧
    (∃ (s : State) (tag : BitVec 128) (seq schema side seed frame calVer mark24 dly : Nat) (all : Bool) (hash : Nat), (receives s = true) ∧ (tagVerifies s 0x02 seq (mirrorWords schema side all hash seed frame calVer mark24 dly) tag = true) ∧ (s.prt.rxSeq < seq) ∧ (native s = true) ∧ (s.red.mark = none) ∧ (s.flag F.RED_STATUS_ALT = false) ∧ (schema ≠ s.get F.RED_SCHEMA_OWN)) ∧
    (∃ (s : State) (tag : BitVec 128) (seq schema side seed frame calVer mark24 dly : Nat) (all : Bool) (hash : Nat), (receives s = true) ∧ (tagVerifies s 0x02 seq (mirrorWords schema side all hash seed frame calVer mark24 dly) tag = true) ∧ (s.prt.rxSeq < seq) ∧ (native s = true) ∧ (s.red.mark = none) ∧ (s.flag F.RED_STATUS_ALT = false) ∧ (schema = s.get F.RED_SCHEMA_OWN) ∧ (hash ≠ s.get F.RED_HASH ∨ side = sideNow s)) ∧
    (∃ (s : State) (tag : BitVec 128) (seq schema side seed frame calVer mark24 dly : Nat) (all : Bool) (hash : Nat) (stamp b skew : Int), (receives s = true) ∧ (tagVerifies s 0x02 seq (mirrorWords schema side all hash seed frame calVer mark24 dly) tag = true) ∧ (s.prt.rxSeq < seq) ∧ (native s = true) ∧ (s.red.mark = some (mark24 % 2 ^ 24, stamp)) ∧ (sideNow s = 1) ∧ (s.flag F.RED_STATUS_ALT = false) ∧ (b = stamp - Int.ofNat (s.get F.LNK_PRT_LAT_LAT) - Int.ofNat dly) ∧ (skew = b - 80 * divRoundInt b 80) ∧ (schema = s.get F.RED_SCHEMA_OWN) ∧ (hash = s.get F.RED_HASH) ∧ (side ≠ 1) ∧ (steady skew (s.getInt F.RED_PSKEW) = true ∨ s.red.halves = false)) ∧
    (∃ (s : State) (tag : BitVec 128) (seq schema side seed frame calVer mark24 dly : Nat) (all : Bool) (hash : Nat) (stamp b skew : Int), (receives s = true) ∧ (tagVerifies s 0x02 seq (mirrorWords schema side all hash seed frame calVer mark24 dly) tag = true) ∧ (s.prt.rxSeq < seq) ∧ (native s = true) ∧ (s.red.mark = some (mark24 % 2 ^ 24, stamp)) ∧ (sideNow s = 1) ∧ (s.flag F.RED_STATUS_ALT = false) ∧ (b = stamp - Int.ofNat (s.get F.LNK_PRT_LAT_LAT) - Int.ofNat dly) ∧ (skew = b - 80 * divRoundInt b 80) ∧ (schema = s.get F.RED_SCHEMA_OWN) ∧ (hash = s.get F.RED_HASH) ∧ (side ≠ 1) ∧ (steady skew (s.getInt F.RED_PSKEW) = false) ∧ (s.red.halves = true) ∧ (s.red.skews ≠ [])) ∧
    (∃ (s : State), (sessionUp s = true) ∧ (prtState s = Prt.active)) ∧
    (∃ (s : State), (sessionUp s = false ∨ prtState s ≠ Prt.active)) ∧
    (∃ (s : State) (_ : Int) (_ : Nat), (native s = false ∨ sessionUp s = false)) ∧
    (∃ (s : State) (_ : Int) (_ : Nat), (native s = true) ∧ (sessionUp s = true) ∧ (sideNow s = 1) ∧ (s.red.wait = none)) ∧
    (∃ (s : State) (_ : Int) (_ : Nat), (native s = true) ∧ (sessionUp s = true) ∧ (sideNow s ≠ 1) ∧ (s.red.wait = none)) ∧
    (∃ (s : State) (_ : Int) (_ k : Nat), (native s = true) ∧ (sessionUp s = true) ∧ (s.red.wait = some k) ∧ (s.mode = .ready) ∧ (progRuns s k = true) ∧ (s.saf.f3 = []) ∧ (s.flag F.RXF_IMP_STATUS_BUSY = false) ∧ (sideNow s = 1)) ∧
    (∃ (s : State) (_ : Int) (_ k : Nat), (native s = true) ∧ (sessionUp s = true) ∧ (s.red.wait = some k) ∧ (s.mode = .ready) ∧ (progRuns s k = true) ∧ (s.saf.f3 = []) ∧ (s.flag F.RXF_IMP_STATUS_BUSY = false) ∧ (sideNow s ≠ 1)) ∧
    (∃ (s : State), (sideNow s ≠ 0 ∨ s.red.wait = none)) ∧
    (∃ (s : State) (k : Nat), (sideNow s = 0) ∧ (s.red.wait = some k) ∧ (s.mode = .ready) ∧ (progRuns s k = true) ∧ (s.saf.f3 = []) ∧ (s.flag F.RXF_IMP_STATUS_BUSY = false)) :=
  ⟨⟨(w .ready []), (0#128), (5), by decide +kernel⟩,
   ⟨(twinS .ready 0), (tagOf (twinS .ready 0) 0x03 5 []), (5), ([0]), by refine ⟨?_, ?_, tag_keepalive5, ?_, ?_⟩ <;> decide +kernel⟩,
   ⟨(altS), (tagOf altS 0x03 5 []), (5), ([0]), by refine ⟨?_, ?_, tag_keepalive_alt, ?_, ?_⟩ <;> decide +kernel⟩,
   ⟨(twinS .ready 0), (tagOf (twinS .ready 0) 0x03 4 []), (4), ([0]), by refine ⟨?_, ?_, tag_keepalive4, ?_⟩ <;> decide +kernel⟩,
   ⟨(twinS .ready 0), (tagOf (twinS .ready 0) 0x03 5 [] + 1), (5), ([0]), by refine ⟨?_, ?_, tag_wrong, ?_⟩ <;> decide +kernel⟩,
   ⟨(failS), (tagOf failS 0x03 5 [] + 1), (5), ([0, 0, 0]), by refine ⟨?_, ?_, tag_wrong_thrice, ?_, ?_⟩ <;> decide +kernel⟩,
   ⟨(announceS), (tagOf announceS 0x01 4 [2, 6 + 2 ^ 20 * 300, 0]), (4), (2), (6), (300), (0), (6), (heardPartner { announceS with prt := { announceS.prt with rxSeq := 4 } }), by refine ⟨?_, ?_, ?_, rfl, ?_⟩ <;> decide +kernel⟩,
   ⟨(announceS), (tagOf announceS 0x01 5 [2, 6 + 2 ^ 20 * 300, 0xFFFFFFFF]), (5), (2), (6), (300), (0xFFFFFFFF), (6), (heardPartner { announceS with prt := { announceS.prt with rxSeq := 5 } }), by refine ⟨?_, ?_, ?_, rfl, ?_, ?_⟩ <;> decide +kernel⟩,
   ⟨(announceS), (tagOf announceS 0x01 5 [2, 4 + 2 ^ 20 * 300, 0]), (5), (2), (4), (300), (0), (4), (heardPartner { announceS with prt := { announceS.prt with rxSeq := 5 } }), (1004), by refine ⟨?_, ?_, ?_, rfl, ?_, ?_, ?_⟩ <;> decide +kernel⟩,
   ⟨(announceS), (announceTag 6), (5), (2), (6), (300), (0), (6), (announceU), (1006), (announcedAt6.1), (announcedAt6.2), by refine ⟨?_, ?_, tag_announce6, rfl, ?_, ?_, ?_, ?_, ?_, ?_, ?_, ?_, get_pair _ ?_, ?_⟩ <;> decide +kernel⟩,
   ⟨(announceS), (announceTag 8), (5), (2), (8), (300), (0), (8), (announceU), (1008), (announcedAt8.1), (announcedAt8.2), by refine ⟨?_, ?_, tag_announce8, rfl, ?_, ?_, ?_, ?_, ?_, ?_, ?_, ?_, get_pair _ ?_, ?_⟩ <;> decide +kernel⟩,
   ⟨(twinS .ready 0), (mirrorTag (twinS .ready 0) 4 0 1 0 40), (4), (0), (1), (6), (2), (3), (40), (0), (true), (0), by decide +kernel⟩,
   ⟨(soleS), (mirrorTag soleS 5 0 1 0 40), (5), (0), (1), (6), (2), (3), (40), (0), (true), (0), by decide +kernel⟩,
   ⟨(twinS .ready 0), (mirrorTag (twinS .ready 0) 5 (schemaOf (twinS .ready 0)) 1 (hashOf (twinS .ready 0)) 40), (5), (schemaOf (twinS .ready 0)), (1), (6), (2), (3), (40), (0), (true), (hashOf (twinS .ready 0)), by decide +kernel⟩,
   ⟨(twinS .ready 0), (mirrorTag (twinS .ready 0) 5 (schemaOf (twinS .ready 0) + 1) 1 0 40), (5), (schemaOf (twinS .ready 0) + 1), (1), (6), (2), (3), (40), (0), (true), (0), by decide +kernel⟩,
   ⟨(twinS .ready 0), (mirrorTag (twinS .ready 0) 5 (schemaOf (twinS .ready 0)) 1 (hashOf (twinS .ready 0) + 1) 40), (5), (schemaOf (twinS .ready 0)), (1), (6), (2), (3), (40), (0), (true), (hashOf (twinS .ready 0) + 1), by decide +kernel⟩,
   ⟨(markS 5 false), (mirrorTag (markS 5 false) 5 (schemaOf (markS 5 false)) 0 (hashOf (markS 5 false)) 40), (5), (schemaOf (markS 5 false)), (0), (6), (2), (3), (40), (0), (true), (hashOf (markS 5 false)), (5), (5), (5), by decide +kernel⟩,
   ⟨(markS 30 true), (mirrorTag (markS 30 true) 5 (schemaOf (markS 30 true)) 0 (hashOf (markS 30 true)) 40), (5), (schemaOf (markS 30 true)), (0), (6), (2), (3), (40), (0), (true), (hashOf (markS 30 true)), (30), (30), (30), by decide +kernel⟩,
   ⟨(twinS .ready 0), by decide +kernel⟩,
   ⟨(w .ready []), by decide +kernel⟩,
   ⟨(w .ready []), (5), (3), by decide +kernel⟩,
   ⟨(twinS .ready 1), (5), (3), by decide +kernel⟩,
   ⟨(twinS .ready 0), (5), (3), by decide +kernel⟩,
   ⟨({ twinS .ready 1 with red := waitS.red }), (5), (3), (0), by decide +kernel⟩,
   ⟨(waitS), (5), (3), (0), by decide +kernel⟩,
   ⟨(twinS .ready 0), by decide +kernel⟩,
   ⟨(waitS), (0), by decide +kernel⟩⟩

/-- The hypotheses of HalterAndSilence, each clause at one state. -/
theorem test_HalterAndSilence_witness :
    (∃ (s : State), (native s = true) ∧ (s.sch.running = true) ∧ (s.flag F.RED_STATUS_SILENCE = false) ∧ (s.flag F.RED_STATUS_ALT = false) ∧ (s.red.halves = true)) ∧
    (∃ (s : State), (s.flag F.RED_STATUS_SILENCE = true)) ∧
    (∃ (s : State), (native s = true) ∧ (s.flag F.RED_STATUS_HALTER = true) ∧ (busOn s = true)) ∧
    (∃ (s : State), (contends s = true) ∧ (busOn s = true)) ∧
    (∃ (s : State), (native s = true) ∧ (s.flag F.RED_STATUS_HALTER = true)) ∧
    (∃ (s : State), (contends s = true)) ∧
    (∃ (s : State), (native s = true) ∧ (s.flag F.RED_STATUS_HALTER = true) ∧ (s.flag F.RED_STATUS_SILENCE = true)) ∧
    (∃ (s : State), (interlock s = true) ∧ (s.mode = .scan) ∧ (s.flag F.RED_STATUS_HALTER = false) ∧ (interlockFault s = false) ∧ (halterRests s = false)) ∧
    (∃ (s : State), (interlock s = true) ∧ (s.flag F.RED_STATUS_HALTER = true) ∧ (interlockFault s = true ∨ s.mode.scanning = false)) :=
  ⟨⟨(aloneS []), by decide +kernel⟩,
   ⟨(aloneS [(F.RED_STATUS_SILENCE, 1)]), by decide +kernel⟩,
   ⟨(aloneS [(F.RED_STATUS_HALTER, 1)]), by decide +kernel⟩,
   ⟨(aloneS [(F.RED_STATUS_SILENCE, 1)]), by decide +kernel⟩,
   ⟨(aloneS [(F.RED_STATUS_HALTER, 1)]), by decide +kernel⟩,
   ⟨(aloneS [(F.RED_STATUS_SILENCE, 1)]), by decide +kernel⟩,
   ⟨(aloneS [(F.RED_STATUS_HALTER, 1), (F.RED_STATUS_SILENCE, 1)]), by decide +kernel⟩,
   ⟨(aloneS [(F.RED_STATUS_MODE, 2)]), by decide +kernel⟩,
   ⟨({ aloneS [(F.RED_STATUS_MODE, 2), (F.RED_STATUS_HALTER, 1)] with mode := .ready }), by decide +kernel⟩⟩

/-- The hypotheses of ThermalConfiguration, each clause at one state. -/
theorem test_ThermalConfiguration_witness :
    (∃ (s : State) (p : Port) (tag : Nat) (c : Cmd) (_ : Nat), (c.discard = false) ∧ (Ready s p tag 0x0400 thmConfigCheck c) ∧ (s.mode = .standby)) ∧
    (∃ (s : State) (p : Port) (tag : Nat) (c : Cmd) (acked : Nat) (u : State) (ok : Bool), (c.discard = false) ∧ (Ready s p tag 0x0400 thmConfigCheck c) ∧ (s.mode ≠ .standby) ∧ (runList (configEntries c.data) acked (foundPath (haltFrames s)) = (u, ok)) ∧ (ok = false)) ∧
    (∃ (s : State) (p : Port) (tag : Nat) (c : Cmd) (acked : Nat) (u : State) (ok : Bool), (c.discard = false) ∧ (Ready s p tag 0x0400 thmConfigCheck c) ∧ (s.mode ≠ .standby) ∧ (runList (configEntries c.data) acked (foundPath (haltFrames s)) = (u, ok)) ∧ (ok = true) ∧ (u.flag F.THM_CTRL_EN = false)) ∧
    (∃ (s : State) (p : Port) (tag : Nat) (c : Cmd) (acked : Nat) (u : State) (ok : Bool), (c.discard = false) ∧ (Ready s p tag 0x0400 thmConfigCheck c) ∧ (s.mode ≠ .standby) ∧ (runList (configEntries c.data) acked (foundPath (haltFrames s)) = (u, ok)) ∧ (ok = true) ∧ (u.flag F.THM_CTRL_EN = true) ∧ (u.thm.geom = some (geomNow u))) ∧
    (∃ (s : State) (p : Port) (tag : Nat) (c : Cmd), (c.discard = false) ∧ (Ready s p tag 0x0401 thmLoadCorrCheck c) ∧ (leAt c.data 0x10 2 = 0)) ∧
    (∃ (s : State) (p : Port) (tag : Nat) (c : Cmd) (m k : Nat), (c.discard = false) ∧ (Ready s p tag 0x0402 thmSelectCorrCheck c) ∧ (s.thm.fade = some (m, k))) ∧
    (∃ (s : State) (p : Port) (tag : Nat) (c : Cmd), (c.discard = false) ∧ (Ready s p tag 0x0402 thmSelectCorrCheck c) ∧ (s.thm.fade = none) ∧ (s.flag F.THM_STATUS_NO_CORR = true ∨ s.get F.THM_STATUS_CORR_NOW ≠ c.dw 4 % 2)) ∧
    (∃ (s : State) (p : Port) (tag : Nat) (c : Cmd), (c.discard = false) ∧ (Ready s p tag 0x0404 thmLoadCoefCheck c)) ∧
    (∃ (s : State) (p : Port) (tag : Nat) (c : Cmd), (c.discard = false) ∧ (Ready s p tag 0x0405 thmSelectCoefCheck c) ∧ (s.flag F.THM_MON_CFG_XFADE = true)) ∧
    (∃ (s : State) (p : Port) (tag : Nat) (c : Cmd), (c.discard = false) ∧ (Ready s p tag 0x0405 thmSelectCoefCheck c) ∧ (s.flag F.THM_MON_CFG_XFADE = false) ∧ (c.dw 4 % 2 ≠ s.get F.THM_MON_CFG_COEF_NOW)) ∧
    (∃ (s : State) (p : Port) (tag : Nat) (c : Cmd), (c.discard = false) ∧ (Ready s p tag 0x0405 thmSelectCoefCheck c) ∧ (s.flag F.THM_MON_CFG_XFADE = false) ∧ (c.dw 4 % 2 = s.get F.THM_MON_CFG_COEF_NOW)) ∧
    (∃ (s : State) (p : Port) (tag : Nat) (c : Cmd) (l : List Nat), (c.discard = false) ∧ (Ready s p tag 0x0406 thmLoadReglutCheck c) ∧ (l = ((List.range 131072).map fun d => leAt c.data (4 * d) 4))) ∧
    (∃ (s : State) (p : Port) (tag : Nat) (c : Cmd), (c.discard = false) ∧ (Ready s p tag 0x0407 thmSyncCheck c) ∧ (s.thm.hold = [])) ∧
    (∃ (s : State) (value : Dword), (bit value.toNat 0 = s.flag F.THM_CTRL_EN)) ∧
    (∃ (s : State) (value : Dword), (bit value.toNat 0 = false) ∧ (s.flag F.THM_CTRL_EN = true)) ∧
    (∃ (s : State) (value : Dword), (bit value.toNat 0 = true) ∧ (s.flag F.THM_CTRL_EN = false) ∧ (thmUp s = true) ∧ (s.thm.geom = some (geomNow s))) ∧
    (∃ (s : State), (s.flag F.THM_CTRL_EN = true) ∧ (s.get F.THM_STATUS_STATE ≠ 3)) ∧
    (∃ (s : State), (s.flag F.THM_CTRL_EN = false)) :=
  ⟨⟨(thmHas .standby 0 [] 0x0400 []), (.mgmt), (7), (thmCmd 0x0400 []), (3), by refine ⟨?_, ready_mk ?_, ?_⟩ <;> decide +kernel⟩,
   ⟨(has (thmS .ready 2 []) listCmd), (.mgmt), (7), (listCmd), (0), ((runList (configEntries listBytes) 0 (foundPath (haltFrames (has (thmS .ready 2 []) listCmd)))).1), (false), by refine ⟨?_, ready_mk ?_, ?_, pair_snd _ ?_, rfl⟩ <;> decide +kernel⟩,
   ⟨(thmHas .ready 2 [(F.THM_CTRL_EN, 0)] 0x0400 []), (.mgmt), (7), (thmCmd 0x0400 []), (3), (foundPath (haltFrames (thmHas .ready 2 [(F.THM_CTRL_EN, 0)] 0x0400 []))), (true), by refine ⟨?_, ready_mk ?_, ?_, ?_, rfl, ?_⟩ <;> decide +kernel⟩,
   ⟨(geomS (thmHas .ready 2 [] 0x0400 [])), (.mgmt), (7), (thmCmd 0x0400 []), (3), (foundPath (haltFrames (geomS (thmHas .ready 2 [] 0x0400 [])))), (true), by refine ⟨?_, ready_mk ?_, ?_, ?_, rfl, ?_, ?_⟩ <;> decide +kernel⟩,
   ⟨(thmHas .ready 2 [(F.THM_STATUS_NO_CORR, 1)] 0x0401 [1]), (.mgmt), (7), (thmCmd 0x0401 [1]), by refine ⟨?_, ready_mk ?_, ?_⟩ <;> decide +kernel⟩,
   ⟨(corrS (some (0, 1))), (.mgmt), (7), (thmCmd 0x0402 [1]), (0), (1), by refine ⟨?_, ready_mk ?_, ?_⟩ <;> decide +kernel⟩,
   ⟨(corrS none), (.mgmt), (7), (thmCmd 0x0402 [1]), by refine ⟨?_, ready_mk ?_, ?_, ?_⟩ <;> decide +kernel⟩,
   ⟨(thmHas .ready 2 [] 0x0404 [1]), (.mgmt), (7), (thmCmd 0x0404 [1]), by refine ⟨?_, ready_mk ?_⟩ <;> decide +kernel⟩,
   ⟨(bankS 1 1), (.mgmt), (7), (thmCmd 0x0405 [1]), by refine ⟨?_, ready_mk ?_, ?_⟩ <;> decide +kernel⟩,
   ⟨(bankS 0 1), (.mgmt), (7), (thmCmd 0x0405 [1]), by refine ⟨?_, ready_mk ?_, ?_, ?_⟩ <;> decide +kernel⟩,
   ⟨(bankS 0 0), (.mgmt), (7), (thmCmd 0x0405 [0]), by refine ⟨?_, ready_mk ?_, ?_, ?_⟩ <;> decide +kernel⟩,
   ⟨(thmHas .ready 2 [] 0x0406 []), (.mgmt), (7), (thmCmd 0x0406 []), ((List.range 131072).map fun d => leAt (thmCmd 0x0406 []).data (4 * d) 4), by refine ⟨?_, ready_mk ?_, rfl⟩ <;> decide +kernel⟩,
   ⟨(thmHas .ready 2 [] 0x0407 []), (.mgmt), (7), (thmCmd 0x0407 []), by refine ⟨?_, ready_mk ?_, ?_⟩ <;> decide +kernel⟩,
   ⟨(thmS .ready 2 [(F.THM_MON_CH_EN 1, 0)]), (1#32), by decide +kernel⟩,
   ⟨(thmS .ready 2 []), (0#32), by decide +kernel⟩,
   ⟨(geomS (thmS .ready 2 [(F.THM_CTRL_EN, 0)])), (1#32), by decide +kernel⟩,
   ⟨(thmS .ready 1 []), by decide +kernel⟩,
   ⟨(w .ready []), by decide +kernel⟩⟩

/-- The hypotheses of ThermalFrames, each clause at one state. -/
theorem test_ThermalFrames_witness :
    (∃ (s : State), (framesRun s = true) ∧ (s.thm.hold = []) ∧ (s.thm.fade = none) ∧ (s.thm.ffcNew = none)) ∧
    (∃ (s : State), (framesRun s = false)) ∧
    (∃ (s : State) (_ : List Int), (s.thm.frame = none)) ∧
    (∃ (s : State) (_ : List Int) (r : ThmRun), (s.thm.frame = some r) ∧ (s.thm.run = none) ∧ (r.settled = false) ∧ (s.get F.THM_STATUS_STATE ≠ 1 ∨ s.thm.fast = true)) ∧
    (∃ (s : State) (_ : List Int) (r : ThmRun), (s.thm.frame = some r) ∧ (s.thm.run = none) ∧ (r.settled = false) ∧ (s.get F.THM_STATUS_STATE = 1) ∧ (s.thm.fast = false)) ∧
    (∃ (s : State) (_ : List Int) (r : ThmRun), (s.thm.frame = some r) ∧ (s.thm.run = none) ∧ (r.settled = true) ∧ (1 < s.get F.THM_RING_CFG) ∧ (s.thm.queue = none) ∧ (thmRingFull s = false)) ∧
    (∃ (s : State), (s.thm.queue = none)) ∧
    (∃ (s : State) (f : ThmFrame), (s.thm.queue = some f) ∧ (1 < s.get F.THM_RING_CFG) ∧ (pcieUsable s = false ∨ recordsFirst s f = true)) ∧
    (∃ (s : State) (f : ThmFrame), (s.thm.queue = some f) ∧ (s.get F.THM_RING_CFG ≤ 1)) ∧
    (∃ (s : State) (f : ThmFrame), (s.thm.queue = some f) ∧ (1 < s.get F.THM_RING_CFG) ∧ (pcieUsable s = true) ∧ (recordsFirst s f = false)) ∧
    (∃ (s : State), (framesRun s = true)) ∧
    (∃ (s : State), (framesRun s = true) ∧ (s.get F.THM_STATUS_STATE = 1)) ∧
    (∃ (s : State), (framesRun s = true) ∧ (s.get F.THM_STATUS_STATE = 1) ∧ (s.thm.fast = false) ∧ (s.thm.passed = none)) ∧
    (∃ (s : State) (a : Nat), (framesRun s = true) ∧ (s.get F.THM_STATUS_STATE = 1) ∧ ((if s.thm.fast then some s.sys.raw else s.thm.passed) = some a) ∧ (s.thm.cfgWait = none)) ∧
    (∃ (s : State) (a : Nat) (q : Port × Nat) (c : Cmd), (framesRun s = true) ∧ (s.get F.THM_STATUS_STATE = 1) ∧ ((if s.thm.fast then some s.sys.raw else s.thm.passed) = some a) ∧ (s.thm.cfgWait = some q) ∧ (findCmd s q.1 q.2 0x0400 = some c) ∧ (c.discard = false)) ∧
    (∃ (s : State), (framesRun s = true) ∧ (s.flag F.THM_CTRL_SYNC_EN = true) ∧ (s.get F.THM_STATUS_STATE = 1) ∧ (s.thm.fast = true)) ∧
    (∃ (s : State), (framesRun s = true) ∧ (s.flag F.THM_CTRL_SYNC_EN = true) ∧ (s.get F.THM_STATUS_STATE = 2) ∧ (s.thm.hold = [])) ∧
    (∃ (s : State) (n : Fin 4) (_ : List Nat) (_ : Fin 10), (s.flag (F.THM_MON_CH_EN n) = false)) ∧
    (∃ (s : State) (n : Fin 4) (_ : List Nat) (_ : Fin 10), (thmUp s = true) ∧ (s.flag F.THM_CTRL_EN = true) ∧ (s.flag (F.THM_MON_CH_EN n) = true) ∧ ((monAt s n).mute ≠ 0)) ∧
    (∃ (s : State) (n : Fin 4) (_ : List Nat) (_ : Fin 10), (thmUp s = true) ∧ (s.flag F.THM_CTRL_EN = true) ∧ (s.flag (F.THM_MON_CH_EN n) = true) ∧ ((monAt s n).mute = 0)) ∧
    (∃ (s : State), (s.flag F.THM_MON_CFG_XFADE = false)) ∧
    (∃ (s : State), (s.flag F.THM_MON_CFG_XFADE = true) ∧ (s.flag F.THM_MON_CFG_COEF_QUEUED = false) ∧ (∀ n < 4, s.flag (F.THM_MON_CH_EN n) = true → (monAt s n).fade = 256)) :=
  ⟨⟨(thmS .ready 2 []), by decide +kernel⟩,
   ⟨(w .ready []), by decide +kernel⟩,
   ⟨(thmS .ready 2 []), ([5]), by decide +kernel⟩,
   ⟨(frameS false []), ([5]), (frameRun false), by decide +kernel⟩,
   ⟨(checkS), ([5]), (frameRun false), by decide +kernel⟩,
   ⟨(frameS true [(F.THM_RING_CFG, 4)]), ([5]), (frameRun true), by decide +kernel⟩,
   ⟨(thmS .ready 2 []), by decide +kernel⟩,
   ⟨({ queueS with link := { queueS.link with up := false } }), (thmFrame1), by decide +kernel⟩,
   ⟨(queueS.set F.THM_RING_CFG 1), (thmFrame1), by decide +kernel⟩,
   ⟨(queueS), (thmFrame1), by decide +kernel⟩,
   ⟨(thmS .ready 2 []), by decide +kernel⟩,
   ⟨(thmS .ready 1 []), by decide +kernel⟩,
   ⟨(thmS .ready 1 []), by decide +kernel⟩,
   ⟨(fastS []), (0), by decide +kernel⟩,
   ⟨({ cfgS with thm := { cfgS.thm with passed := some 900 } }), (900), ((.mgmt, 7)), (long1 0x0400 []), by decide +kernel⟩,
   ⟨(fastS [(F.THM_CTRL_SYNC_EN, 1)]), by decide +kernel⟩,
   ⟨(thmS .ready 2 [(F.THM_CTRL_SYNC_EN, 1)]), by decide +kernel⟩,
   ⟨(thmS .ready 2 [(F.THM_MON_CH_EN 1, 0)]), (1), ([5]), (6), by decide +kernel⟩,
   ⟨(monS 2), (1), ([5]), (6), by decide +kernel⟩,
   ⟨(monS 0), (1), ([5]), (6), by decide +kernel⟩,
   ⟨(thmS .ready 2 []), by decide +kernel⟩,
   ⟨((monS 0).set F.THM_MON_CFG_XFADE 1), by refine ⟨?_, ?_, by intro n hn; match n, hn with | 0, _ | 1, _ | 2, _ | 3, _ => decide +kernel⟩ <;> decide +kernel⟩⟩

/-- The hypotheses of FlatField, each clause at one state. -/
theorem test_FlatField_witness :
    (∃ (s : State) (p : Port) (tag : Nat) (c : Cmd), (c.discard = false) ∧ (Ready s p tag 0x0403 thmFfcCheck c)) ∧
    (∃ (s : State), (framesRun s = true) ∧ (s.flag F.THM_CTRL_AUTO_FFC = true) ∧ (s.thm.ffcRest ≤ s.sys.raw) ∧ ((s.get F.THM_FFC_AUTO_FFC_PERIOD ≠ 0 ∧ s.thm.ffcAt + 800000000 * s.get F.THM_FFC_AUTO_FFC_PERIOD ≤ s.sys.raw) ∨ (s.flag F.THM_TEMP_VALID = true ∧ s.thm.ffcT.any (fun x => decide (s.get F.THM_FFC_AUTO_FFC_TRIG_DT ≤ (s.getInt F.THM_TEMP_T_ARRAY - x).natAbs)) = true)) ∧ (s.thm.run = none) ∧ (s.thm.fade = none)) ∧
    (∃ (s : State), (framesRun s = true) ∧ (s.flag F.THM_CTRL_AUTO_FFC = true) ∧ (s.thm.ffcRest ≤ s.sys.raw) ∧ ((s.get F.THM_FFC_AUTO_FFC_PERIOD ≠ 0 ∧ s.thm.ffcAt + 800000000 * s.get F.THM_FFC_AUTO_FFC_PERIOD ≤ s.sys.raw) ∨ (s.flag F.THM_TEMP_VALID = true ∧ s.thm.ffcT.any (fun x => decide (s.get F.THM_FFC_AUTO_FFC_TRIG_DT ≤ (s.getInt F.THM_TEMP_T_ARRAY - x).natAbs)) = true)) ∧ (s.thm.fade.isSome = true)) ∧
    (∃ (s : State) (r : FfcRun), (framesRun s = true) ∧ (s.flag F.THM_CTRL_AUTO_FFC = true) ∧ (s.thm.ffcRest ≤ s.sys.raw) ∧ ((s.get F.THM_FFC_AUTO_FFC_PERIOD ≠ 0 ∧ s.thm.ffcAt + 800000000 * s.get F.THM_FFC_AUTO_FFC_PERIOD ≤ s.sys.raw) ∨ (s.flag F.THM_TEMP_VALID = true ∧ s.thm.ffcT.any (fun x => decide (s.get F.THM_FFC_AUTO_FFC_TRIG_DT ≤ (s.getInt F.THM_TEMP_T_ARRAY - x).natAbs)) = true)) ∧ (s.thm.run = some r) ∧ (r.cmd.isSome = true)) ∧
    (∃ (s : State), (framesRun s = false ∨ s.flag F.THM_CTRL_AUTO_FFC = false ∨ autoFfcDue s = false)) ∧
    (∃ (s : State), (s.thm.run = none)) ∧
    (∃ (s : State) (r : FfcRun), (s.thm.run = some r) ∧ (r.phase ≠ 0)) ∧
    (∃ (s : State) (r : FfcRun), (s.thm.run = some r) ∧ (r.phase ≠ 3)) ∧
    (∃ (s : State) (r : FfcRun), (s.thm.run = some r) ∧ (r.cmd = none) ∧ (r.phase = 0)) ∧
    (∃ (s : State) (r : FfcRun) (table : List (Int × Bool)) (bad cause : Nat), (s.thm.run = some r) ∧ (r.phase = 3) ∧ (table = ((flatField s r.acc r.frames).map fun (x : Int) => (clampInt (-16383) 16383 x, decide (s.get F.THM_FFC_CFG_FFC_DEV_MAX < x.natAbs)))) ∧ (bad = (table.zipIdx.filter fun e => e.1.2 && !(corrEntry (corrInUse s) e.2).bad).length) ∧ (cause = (if !r.closed then 1 else if Int.ofNat (s.get F.THM_FFC_CFG_FFC_DT_MAX) < r.tMax - r.tMin then 2 else if s.get F.THM_FFC_LIM < bad then 3 else if r.disturbed then 4 else 0)) ∧ (r.cmd = none) ∧ (cause ≠ 0)) ∧
    (∃ (s : State) (r : FfcRun) (table : List (Int × Bool)) (bad cause : Nat), (s.thm.run = some r) ∧ (r.phase = 3) ∧ (table = ((flatField s r.acc r.frames).map fun (x : Int) => (clampInt (-16383) 16383 x, decide (s.get F.THM_FFC_CFG_FFC_DEV_MAX < x.natAbs)))) ∧ (bad = (table.zipIdx.filter fun e => e.1.2 && !(corrEntry (corrInUse s) e.2).bad).length) ∧ (cause = (if !r.closed then 1 else if Int.ofNat (s.get F.THM_FFC_CFG_FFC_DT_MAX) < r.tMax - r.tMin then 2 else if s.get F.THM_FFC_LIM < bad then 3 else if r.disturbed then 4 else 0)) ∧ (r.cmd = none) ∧ (cause = 0)) ∧
    (∃ (s : State) (r : FfcRun) (table : List (Int × Bool)) (bad cause : Nat) (q : Port × Nat) (c : Cmd), (s.thm.run = some r) ∧ (r.phase = 3) ∧ (table = ((flatField s r.acc r.frames).map fun (x : Int) => (clampInt (-16383) 16383 x, decide (s.get F.THM_FFC_CFG_FFC_DEV_MAX < x.natAbs)))) ∧ (bad = (table.zipIdx.filter fun e => e.1.2 && !(corrEntry (corrInUse s) e.2).bad).length) ∧ (cause = (if !r.closed then 1 else if Int.ofNat (s.get F.THM_FFC_CFG_FFC_DT_MAX) < r.tMax - r.tMin then 2 else if s.get F.THM_FFC_LIM < bad then 3 else if r.disturbed then 4 else 0)) ∧ (r.cmd = some q) ∧ (findCmd s q.1 q.2 0x0403 = some c) ∧ (c.discard = false)) ∧
    (∃ (s : State) (r : FfcRun) (q : Port × Nat) (c : Cmd), (s.thm.run = some r) ∧ (r.cmd = some q) ∧ (findCmd s q.1 q.2 0x0403 = some c) ∧ (c.discard = false) ∧ (r.phase = 0)) ∧
    (∃ (s : State), (thmUp s = true) ∧ (s.pins.shutOpen = true) ∧ (s.get F.THM_STATUS_SHUTTER ≠ 0)) ∧
    (∃ (s : State), (thmUp s = false ∨ s.pins.shutOpen = false ∨ s.get F.THM_STATUS_SHUTTER = 0)) :=
  ⟨⟨(thmHas .ready 2 [] 0x0403 []), (.mgmt), (7), (thmCmd 0x0403 []), by refine ⟨?_, ready_mk ?_⟩ <;> decide +kernel⟩,
   ⟨(autoDueS), by decide +kernel⟩,
   ⟨({ autoDueS with thm := { autoDueS.thm with fade := some (0, 1) } }), by decide +kernel⟩,
   ⟨({ autoDueS with thm := { autoDueS.thm with run := some (ffcRun (some (.mgmt, 7)) 0 false) } }), (ffcRun (some (.mgmt, 7)) 0 false), by decide +kernel⟩,
   ⟨(thmS .ready 2 [(F.THM_CTRL_AUTO_FFC, 0)]), by decide +kernel⟩,
   ⟨(thmS .ready 2 []), by decide +kernel⟩,
   ⟨(ffcS (ffcRun none 3 false)), (ffcRun none 3 false), by decide +kernel⟩,
   ⟨(ffcS (ffcRun none 0 false)), (ffcRun none 0 false), by decide +kernel⟩,
   ⟨(ffcS (ffcRun none 0 false)), (ffcRun none 0 false), by decide +kernel⟩,
   ⟨(ffcS (ffcRun none 3 false)), (ffcRun none 3 false), (ffcTable (ffcRun none 3 false)), (0), (1), by decide +kernel⟩,
   ⟨(ffcS (ffcRun none 3 true)), (ffcRun none 3 true), (ffcTable (ffcRun none 3 true)), (0), (0), by decide +kernel⟩,
   ⟨(thmFfcS 3 true), (ffcRun (some (.mgmt, 7)) 3 true), (ffcTable (ffcRun (some (.mgmt, 7)) 3 true)), (0), (0), ((.mgmt, 7)), (long1 0x0403 []), by decide +kernel⟩,
   ⟨(thmFfcS 0 false), (ffcRun (some (.mgmt, 7)) 0 false), ((.mgmt, 7)), (long1 0x0403 []), by decide +kernel⟩,
   ⟨({ thmS .ready 2 [(F.THM_STATUS_SHUTTER, 1)] with pins := { State.reset.pins with shutOpen := true } }), by decide +kernel⟩,
   ⟨({ thmS .ready 2 [] with pins := { State.reset.pins with shutOpen := false } }), by decide +kernel⟩⟩

/-- The hypotheses of ReturnFrontEnd, each clause at one state. -/
theorem test_ReturnFrontEnd_witness :
    (∃ (s : State) (ch : Fin 1024) (coarse tap x : Nat) (c : Chan), (c = chanAt s ch) ∧ (x = 80 * coarse + fineValue s (ch / 64) (ch % 64) tap) ∧ (inDeadTime c x = true)) ∧
    (∃ (s : State) (ch : Fin 1024) (coarse tap x : Nat) (c : Chan) (o e : Nat), (c = chanAt s ch) ∧ (x = 80 * coarse + fineValue s (ch / 64) (ch % 64) tap) ∧ (inDeadTime c x = false) ∧ (c.win = some (o, e)) ∧ (o ≤ x) ∧ (x < e)) ∧
    (∃ (s : State) (ch : Fin 1024) (coarse tap x : Nat) (c : Chan) (o e : Nat), (c = chanAt s ch) ∧ (x = 80 * coarse + fineValue s (ch / 64) (ch % 64) tap) ∧ (inDeadTime c x = false) ∧ (c.win = some (o, e)) ∧ (x < o ∨ e ≤ x)) ∧
    (∃ (s : State) (ch : Fin 1024) (coarse tap x : Nat) (c : Chan), (c = chanAt s ch) ∧ (x = 80 * coarse + fineValue s (ch / 64) (ch % 64) tap) ∧ (inDeadTime c x = false) ∧ (c.win = none) ∧ (inGroom s (servedBy s (ch / 64)) = false)) ∧
    (∃ (s : State) (ch : Fin 1024) (coarse tap x : Nat) (c : Chan), (c = chanAt s ch) ∧ (x = 80 * coarse + fineValue s (ch / 64) (ch % 64) tap) ∧ (inDeadTime c x = false) ∧ (c.win = none) ∧ (inGroom s (servedBy s (ch / 64)) = true)) ∧
    (∃ (s : State) (ch : Fin 1024) (_ : Nat) (_ _ : Bool) (_ _ : List Overload), ((chanAt s ch).cur = none)) ∧
    (∃ (s : State) (ch : Fin 1024) (_ x : Nat) (_ : Bool) (_ _ : List Overload) (c : Chan), (c = chanAt s ch) ∧ (c.cur = some x) ∧ (c.win = none)) ∧
    (∃ (s : State) (ch : Fin 1024) (width x le : Nat) (_ ref sat shadow : Bool) (own others : List Overload) (c : Chan), (c = chanAt s ch) ∧ (c.cur = some x) ∧ (ref = true ∨ c.win ≠ none) ∧ (le = (clampInt 0 131071 (Int.ofNat x + skewTrim s (ch / 64) (ch % 64))).toNat) ∧ (sat = own.any (overloads (Int.ofNat x) (Int.ofNat (x + 4 * width)))) ∧ (shadow = others.any (shadows (s.flag (F.RXF_CL_CTRL_SHADOW_SCOPE (servedBy s (ch / 64)))) ch.val (Int.ofNat x))) ∧ (c.fifo.length < 8)) ∧
    (∃ (s : State) (ch : Fin 1024) (width x le : Nat) (_ ref sat shadow : Bool) (own others : List Overload) (c : Chan), (c = chanAt s ch) ∧ (c.cur = some x) ∧ (ref = true ∨ c.win ≠ none) ∧ (le = (clampInt 0 131071 (Int.ofNat x + skewTrim s (ch / 64) (ch % 64))).toNat) ∧ (sat = own.any (overloads (Int.ofNat x) (Int.ofNat (x + 4 * width)))) ∧ (shadow = others.any (shadows (s.flag (F.RXF_CL_CTRL_SHADOW_SCOPE (servedBy s (ch / 64)))) ch.val (Int.ofNat x))) ∧ (8 ≤ c.fifo.length)) ∧
    (∃ (s : State) (ch : Fin 1024) (_ _ : Bool), ((chanAt s ch).win = none)) ∧
    (∃ (s : State) (ch : Fin 1024) (_ _ : Bool) (c : Chan) (p : Nat), (c = chanAt s ch) ∧ (p = servedBy s (ch / 64)) ∧ (c.win ≠ none) ∧ (c.cur = none) ∧ (s.flag (F.RXF_CH_CFG_AR_EN p (ch % 64)) = false)) ∧
    (∃ (s : State) (ch : Fin 1024) (sat _ : Bool) (c : Chan) (p : Nat), (c = chanAt s ch) ∧ (p = servedBy s (ch / 64)) ∧ (c.win ≠ none) ∧ (c.cur = none) ∧ (s.flag (F.RXF_CH_CFG_AR_EN p (ch % 64)) = true) ∧ (sat = true) ∧ (max 1 (s.get (F.RXF_CL_CTRL_AR_SAT p)) ≤ c.sat + 1) ∧ (0 < s.get (F.RXF_CH_STAT_RANGE_NOW p (ch % 64)))) ∧
    (∃ (s : State) (n : Fin 17) (j : Fin 64) (value : Dword) (p : Nat), (writeWindow s n = some p) ∧ (s.mode.scanning = false) ∧ (committed s = false) ∧ ((F.RXF_CH_CFG_EDGE_MODE p j).of value.toNat < 2) ∧ ((F.RXF_CH_CFG_RANGE p j).of value.toNat ≠ s.get (F.RXF_CH_CFG_RANGE p j))) ∧
    (∃ (s : State) (n : Fin 32) (value : Dword), (bit value.toNat 31 = true) ∧ (2 ≤ slicesOn s n (bits value.toNat 0 10))) ∧
    (∃ (s : State) (n : Fin 32) (value : Dword), (bit value.toNat 31 = true) ∧ (slicesOn s n (bits value.toNat 0 10) < 2) ∧ (sliceAt s n = none)) ∧
    (∃ (s : State) (n : Fin 32) (_ : List Nat), (sliceAt s n = none)) ∧
    (∃ (s : State) (n : Fin 32) (_ : List Nat) (x : Slice), (sliceAt s n = some x) ∧ (x.left = 0) ∧ (s.flag (F.RXF_OBS_ENGINE n) = false)) ∧
    (∃ (s : State) (sense : Nat), (apdbRuns s = true) ∧ (s.get F.RXF_APDB_CFG_LIMIT < sense)) ∧
    (∃ (s : State) (sense : Nat), (apdbRuns s = true) ∧ (20 * (256 * Int.ofNat sense) < effTarget256 s)) :=
  ⟨⟨(chanS (chan1 (some 300) 0) []), (5), (10), (7), (80 * 10 + fineValue (chanS (chan1 (some 300) 0) []) 0 5 7), (chan1 (some 300) 0), by decide +kernel⟩,
   ⟨(chanS (chan1 none 0) []), (5), (10), (7), (80 * 10 + fineValue (chanS (chan1 none 0) []) 0 5 7), (chan1 none 0), (100), (5000), by decide +kernel⟩,
   ⟨(chanS (chan1 none 0) []), (5), (100), (7), (80 * 100 + fineValue (chanS (chan1 none 0) []) 0 5 7), (chan1 none 0), (100), (5000), by decide +kernel⟩,
   ⟨(chanS shutChan []), (5), (10), (7), (80 * 10 + fineValue (chanS shutChan []) 0 5 7), (shutChan), by decide +kernel⟩,
   ⟨(groomChanS), (5), (10), (7), (80 * 10 + fineValue groomChanS 0 5 7), (shutChan), by decide +kernel⟩,
   ⟨(chanS (chan1 none 0) []), (5), (10), (true), (false), ([]), ([]), by decide +kernel⟩,
   ⟨(chanS { chan1 (some 300) 2 with win := none } []), (5), (10), (300), (true), ([]), ([]), ({ chan1 (some 300) 2 with win := none }), by decide +kernel⟩,
   ⟨(chanS (chan1 (some 300) 2) []), (5), (10), (300), ((clampInt 0 131071 (Int.ofNat 300 + skewTrim (chanS (chan1 (some 300) 2) []) 0 5)).toNat), (true), (false), (true), (true), ([⟨5, 320, none⟩]), ([⟨6, 100, some 200⟩]), (chan1 (some 300) 2), by decide +kernel⟩,
   ⟨(chanS (chan1 (some 300) 8) []), (5), (10), (300), ((clampInt 0 131071 (Int.ofNat 300 + skewTrim (chanS (chan1 (some 300) 8) []) 0 5)).toNat), (true), (true), (false), (false), ([⟨5, -2000, some (-1000)⟩]), ([⟨70, 100, none⟩]), (chan1 (some 300) 8), by decide +kernel⟩,
   ⟨(w .scan []), (5), (true), (true), by decide +kernel⟩,
   ⟨(chanS (chan1 none 0) [(F.RXF_CH_CFG_AR_EN 0 5, 0)]), (5), (true), (true), (chan1 none 0), (0), by decide +kernel⟩,
   ⟨(chanS (chan1 none 0) [(F.RXF_CH_CFG_AR_EN 0 5, 1), (F.RXF_CL_CTRL_AR_SAT 0, 1), (F.RXF_CH_STAT_RANGE_NOW 0 5, 2)]), (5), (true), (true), (chan1 none 0), (0), by decide +kernel⟩,
   ⟨(w .ready []), (3), (5), (0x01554411#32), (3), by decide +kernel⟩,
   ⟨(obsS), (3), (0x80000001#32), by decide +kernel⟩,
   ⟨(w .ready []), (3), (0x80000001#32), by decide +kernel⟩,
   ⟨(w .ready []), (3), ([5]), by decide +kernel⟩,
   ⟨({ w .ready [] with rxf := { State.reset.rxf with slices := [⟨3, 0, none, none⟩] } }), (3), ([5]), (⟨3, 0, none, none⟩), by decide +kernel⟩,
   ⟨(biasS), (4000), by decide +kernel⟩,
   ⟨(biasS), (0), by decide +kernel⟩⟩

/-- The hypotheses of ClustersAndSparing, each clause at one state. -/
theorem test_ClustersAndSparing_witness :
    (∃ (s : State) (n : Fin 17), (s.flag (F.RXF_CL_STATUS_FE_FAULT n) = true)) ∧
    (∃ (s : State) (n : Fin 16), (s.flag (F.RXF_CL_STATUS_FE_FAULT n) = false) ∧ (inGroom s n = false) ∧ (s.flag F.RXF_SPARE_CTRL = true) ∧ (s.get F.RXF_SPARE_STATUS_PHASE = 0) ∧ (∀ g ∈ s.cal.grooms, bit g.mask 16 = false)) ∧
    (∃ (s : State) (n : Fin 16), (s.flag (F.RXF_CL_STATUS_FE_FAULT n) = false) ∧ (inGroom s n = false) ∧ (s.flag F.RXF_SPARE_CTRL = false ∨ s.get F.RXF_SPARE_STATUS_PHASE ≠ 0)) ∧
    (∃ (s : State) (ph : Nat), (s.flag (F.RXF_CL_STATUS_FE_FAULT 16) = false) ∧ (inGroom s 16 = false) ∧ (ph = s.get F.RXF_SPARE_STATUS_PHASE) ∧ (ph = 0)) ∧
    (∃ (s : State) (ph : Nat), (s.flag (F.RXF_CL_STATUS_FE_FAULT 16) = false) ∧ (inGroom s 16 = false) ∧ (ph = s.get F.RXF_SPARE_STATUS_PHASE) ∧ (1 ≤ ph) ∧ (ph ≤ 4)) ∧
    (∃ (s : State), (s.get F.RXF_SPARE_STATUS_PHASE = 1)) ∧
    (∃ (s : State), (s.get F.RXF_SPARE_STATUS_PHASE ≠ 1)) ∧
    (∃ (s : State) (n : Fin 17), (s.get (clst n) = Cl.restarting)) ∧
    (∃ (s : State) (n : Fin 17), (s.get (clst n) ≠ Cl.restarting)) ∧
    (∃ (s : State) (n : Fin 16), (s.sch.running = true) ∧ (s.get (clst (servedBy s n)) = Cl.cold) ∧ (nextNeeds s n = true) ∧ (bit s.sch.capCold n = false ∨ powerEstimate s 0 + 80 ≤ s.get F.SCH_CAP_CAP)) ∧
    (∃ (s : State) (n : Fin 16), (s.sch.running = false ∨ s.get (clst (servedBy s n)) ≠ Cl.cold)) ∧
    (∃ (s : State) (_ : List Nat) (_ _ : List ImpMeas), (s.flag F.RXF_IMP_STATUS_BUSY = false)) ∧
    (∃ (s : State) (_ : List Nat) (_ : List ImpMeas) (c : Cmd), (s.flag F.RXF_IMP_STATUS_BUSY = true) ∧ (runningCmd s 0x0902 = some c) ∧ (c.discard = false)) ∧
    (∃ (s : State) (tones : List Nat) (m : ImpMeas) (_ : List ImpMeas), (s.flag F.RXF_IMP_STATUS_BUSY = true) ∧ (impCovers s m.ch = true) ∧ (measPass s tones m = true)) ∧
    (∃ (s : State) (tones : List Nat) (m : ImpMeas), (s.flag F.RXF_IMP_STATUS_BUSY = true) ∧ (impCovers s m.ch = true) ∧ (measPass s tones m = false)) ∧
    (∃ (s : State) (tones : List Nat) (m x : ImpMeas), (s.flag F.RXF_IMP_STATUS_BUSY = true) ∧ (impCovers s m.ch = true) ∧ (measPass s tones m = false) ∧ (clsFree s = true) ∧ (x.ch = m.ch) ∧ (measPass s tones x = true) ∧ (s.flag (F.RXF_CL_STATUS_FE_FAULT (m.ch / 64)) = false)) :=
  ⟨⟨(w .ready [(F.RXF_CL_STATUS_FE_FAULT 3, 1)]), (3), by decide +kernel⟩,
   ⟨(w .ready [(F.RXF_SPARE_CTRL, 1)]), (3), by decide +kernel⟩,
   ⟨(w .ready [(F.RXF_SPARE_CTRL, 0)]), (3), by decide +kernel⟩,
   ⟨(w .ready []), (0), by decide +kernel⟩,
   ⟨(w .ready [(F.RXF_SPARE_STATUS_PHASE, 2), (F.RXF_SPARE_STATUS_ROUTE, 3)]), (2), by decide +kernel⟩,
   ⟨(w .ready [(F.RXF_SPARE_STATUS_PHASE, 1)]), by decide +kernel⟩,
   ⟨(w .ready []), by decide +kernel⟩,
   ⟨(w .scan [(clst 3, Cl.restarting)]), (3), by decide +kernel⟩,
   ⟨(w .ready [(clst 3, Cl.cold)]), (3), by decide +kernel⟩,
   ⟨(restartS Cl.cold), (0), by decide +kernel⟩,
   ⟨(w .ready []), (3), by decide +kernel⟩,
   ⟨(w .ready []), ([]), ([]), ([]), by decide +kernel⟩,
   ⟨({ impS with cmd := (has (w .ready []) (long1 0x0902 [])).cmd }), ([]), ([]), (long1 0x0902 []), by decide +kernel⟩,
   ⟨({ impS with rxf := { impS.rxf with impFrom := some 0x1FFFF } }), ([0, 1000, 0, 0]), (⟨333, 302, 1600000⟩), ([]), by decide +kernel⟩,
   ⟨({ impS with rxf := { impS.rxf with impFrom := some 0x1FFFF } }), ([0, 1000, 0, 0]), (⟨340, 25, 0⟩), by decide +kernel⟩,
   ⟨({ impS with rxf := { impS.rxf with impFrom := some 0x1FFFF } }), ([0, 1000, 0, 0]), (⟨333, 25, 0⟩), (⟨333, 302, 1600000⟩), by decide +kernel⟩⟩

/-- The hypotheses of EventsCellsAndYard, each clause at one state. -/
theorem test_EventsCellsAndYard_witness :
    (∃ (s : State) (lane : Fin 18) (_ : Bool) (_ _ : Nat) (_ : Fin 9), (laneUp s lane = false)) ∧
    (∃ (s : State) (lane : Fin 18) (_ _ : Nat) (_ : Fin 9), (laneUp s lane = true) ∧ (s.rxf.laneErr = [])) ∧
    (∃ (s : State) (lane : Fin 18) (slot w corrected : Nat) (ch : Chan) (rest : List (Nat × Nat)) (u v : State), (lane.val < 16) ∧ (laneUp s lane = true) ∧ (laneTurn s lane (fun k => k == slot) = some ch) ∧ (ch.fifo = (slot, w) :: rest) ∧ (u = (popWords lane slot 1 (s.add F.YRD_ECC_CORR corrected)).2) ∧ (v = recordRaw u ch.id (frameOfSlot u slot) slot w) ∧ (bits w 26 2 = 3)) ∧
    (∃ (s : State) (lane : Fin 18) (slot w corrected : Nat) (ch : Chan) (rest : List (Nat × Nat)) (u v : State), (lane.val < 16) ∧ (laneUp s lane = true) ∧ (laneTurn s lane (fun k => k == slot) = some ch) ∧ (ch.fifo = (slot, w) :: rest) ∧ (u = (popWords lane slot 1 (s.add F.YRD_ECC_CORR corrected)).2) ∧ (v = recordRaw u ch.id (frameOfSlot u slot) slot w) ∧ (bits w 26 2 ≠ 3) ∧ (∀ f ∈ v.sch.fired, f.shot.slot ≠ slot)) ∧
    (∃ (s : State) (lane : Fin 18) (slot w corrected : Nat) (ch : Chan) (rest : List (Nat × Nat)) (u v : State) (f : Fired) (e : Nat × Nat × Nat) (c : Cell), (lane.val < 16) ∧ (laneUp s lane = true) ∧ (laneTurn s lane (fun k => k == slot) = some ch) ∧ (ch.fifo = (slot, w) :: rest) ∧ (u = (popWords lane slot 1 (s.add F.YRD_ECC_CORR corrected)).2) ∧ (v = recordRaw u ch.id (frameOfSlot u slot) slot w) ∧ (bits w 26 2 ≠ 3) ∧ (v.sch.fired.find? (fun f => f.shot.slot = slot) = some f) ∧ (f.shot.use = .own) ∧ ((servedDirs f.shot).find? (fun d => 64 * d.1 + d.2.1 = ch.id) = some e) ∧ (cellOf v e.2.2 f.shot.frame = some c) ∧ (v.rxf.laneDirty = []) ∧ (c.taken.any (fun k => k.1 = slot) = false)) ∧
    (∃ (s : State) (lane : Fin 18) (slot w corrected : Nat) (ch : Chan) (rest : List (Nat × Nat)) (u v : State) (f : Fired) (e : Nat × Nat × Nat) (c : Cell), (lane.val < 16) ∧ (laneUp s lane = true) ∧ (laneTurn s lane (fun k => k == slot) = some ch) ∧ (ch.fifo = (slot, w) :: rest) ∧ (u = (popWords lane slot 1 (s.add F.YRD_ECC_CORR corrected)).2) ∧ (v = recordRaw u ch.id (frameOfSlot u slot) slot w) ∧ (bits w 26 2 ≠ 3) ∧ (v.sch.fired.find? (fun f => f.shot.slot = slot) = some f) ∧ (f.shot.use = .own) ∧ ((servedDirs f.shot).find? (fun d => 64 * d.1 + d.2.1 = ch.id) = some e) ∧ (cellOf v e.2.2 f.shot.frame = some c) ∧ (v.rxf.laneDirty = []) ∧ (c.taken.any (fun k => k.1 = slot) = true) ∧ (stallReady v c.stall = true)) ∧
    (∃ (s : State) (lane : Fin 18) (slot w corrected : Nat) (ch : Chan) (rest : List (Nat × Nat)) (u v : State) (f : Fired) (e : Nat × Nat × Nat) (c : Cell), (lane.val < 16) ∧ (laneUp s lane = true) ∧ (laneTurn s lane (fun k => k == slot) = some ch) ∧ (ch.fifo = (slot, w) :: rest) ∧ (u = (popWords lane slot 1 (s.add F.YRD_ECC_CORR corrected)).2) ∧ (v = recordRaw u ch.id (frameOfSlot u slot) slot w) ∧ (bits w 26 2 ≠ 3) ∧ (v.sch.fired.find? (fun f => f.shot.slot = slot) = some f) ∧ (f.shot.use = .own) ∧ ((servedDirs f.shot).find? (fun d => 64 * d.1 + d.2.1 = ch.id) = some e) ∧ (cellOf v e.2.2 f.shot.frame = some c) ∧ (v.rxf.laneDirty = []) ∧ (c.taken.any (fun k => k.1 = slot) = true) ∧ (stallReady v c.stall = false)) ∧
    (∃ (s : State) (dir _ : Nat) (c : Cell), (s.hge.cells.find? (fun (x : Cell) => x.dir = dir && x.closed) = some c) ∧ (stallReady s c.stall = true) ∧ (shapeWaits s dir = false)) ∧
    (∃ (s : State) (w : Fin 64), (s.flag (F.YRD_GRANT_STAT_VALID w) = false)) ∧
    (∃ (s : State) (w : Fin 64), (s.flag (F.YRD_GRANT_STAT_VALID w) = true)) ∧
    (∃ (s : State) (n : Nat) (x : Stall), (stallAt s n = some x) ∧ (x.owner ≠ 0)) ∧
    (∃ (s : State) (n : Nat) (x : Stall), (stallAt s n = some x) ∧ (x.owner = 0)) ∧
    (∃ (_ : State) (_ : Fin 16) (value : Dword), (codeLegal value.toNat = false)) ∧
    (∃ (s : State) (i : Fin 16) (value : Dword) (l : List Fld), (codeLegal value.toNat = true) ∧ (committed s = false) ∧ (l = [F.HGE_CODE_TAB_O3 i, F.HGE_CODE_TAB_O2 i, F.HGE_CODE_TAB_O1 i, F.HGE_CODE_TAB_DEPTH i])) ∧
    (∃ (_ : State) (value : Dword), (400 < F.HGE_DITHER.of value.toNat)) ∧
    (∃ (s : State) (value : Dword), (F.HGE_DITHER.of value.toNat ≤ 400) ∧ (committed s = false) ∧ (s.mode.scanning = true)) ∧
    (∃ (s : State) (value : Dword), (F.HGE_DITHER.of value.toNat ≤ 400) ∧ (committed s = false) ∧ (s.mode.scanning = false) ∧ (programsFit (s.set F.HGE_DITHER (F.HGE_DITHER.of value.toNat)) = true)) ∧
    (∃ (s : State) (n : Fin 4) (frame : Nat) (d : List Byte) (r : PointRing), (pcieUsable s = true) ∧ (r = ringAt s n) ∧ (r.queue = [.recs frame [d] none]) ∧ (r.hdrDue = false) ∧ (ringBytes s n ≠ 0) ∧ (1 ≤ ringRoom s n)) ∧
    (∃ (s : State) (n : Fin 4) (value : Dword) (b : Nat), (b = ringBytes s n) ∧ (value.toNat % ringUnit s n ≠ 0 ∨ (b ≤ value.toNat ∧ value.toNat ≠ s.get (F.HGE_RING_WPTR n)))) ∧
    (∃ (s : State) (n : Fin 4) (value : Dword) (b : Nat), (b = ringBytes s n) ∧ (value.toNat < b) ∧ (value.toNat % ringUnit s n = 0) ∧ ((value.toNat + b - s.get (F.HGE_RING_RPTR n)) % b ≤ ringUnread s n)) ∧
    (∃ (s : State) (n : Nat) (x : Stall), (stallAt s n = some x) ∧ (x.moving = none ∨ x.waits ≠ none ∨ ∃ p : Place, x.moving = some p ∧ moveWaits s x p = true)) ∧
    (∃ (s : State) (n : Nat) (x : Stall) (p : Place), (stallAt s n = some x) ∧ (x.moving = some p) ∧ (x.waits = none) ∧ (moveWaits s x p = false) ∧ (s.yrd.revoke = none) ∧ (s.yrd.fetches = []) ∧ (x.owner ≠ 0 ∨ x.used.filter (fun k => !x.frees.contains k) ≠ [])) ∧
    (∃ (s : State) (v : Stall) (p : Place), (s.yrd.fetches = []) ∧ (oldest s .loft = some v) ∧ (evictPlace s .loft = some p) ∧ (s.get F.YRD_LOFT_WM_LOFT_BG < tierUsed s .loft - leaving s .loft)) ∧
    (∃ (s : State), (s.yrd.fetches = []) ∧ (s.yrd.stalls = [])) ∧
    (∃ (s : State) (_ : Dword), (s.yrd.stalls ≠ [])) ∧
    (∃ (s : State) (value : Dword), (s.yrd.stalls = []) ∧ (∀ w < 64, s.flag (F.YRD_GRANT_STAT_VALID w) = false) ∧ (15 ≤ F.YRD_MAP_CFG.of value.toNat) ∧ (F.YRD_MAP_CFG.of value.toNat ≤ 25)) :=
  ⟨⟨(w .off []), (2), (true), (7), (0), (1), by decide +kernel⟩,
   ⟨(noShotS), (0), (7), (2), (1), by decide +kernel⟩,
   ⟨(refS), (0), (7), (refWord), (2), (burstC refWord), ([]), (burstU refS), (burstV refS refWord), by refine ⟨?_, ?_, ?_, ?_, rfl, rfl, ?_⟩ <;> decide +kernel⟩,
   ⟨(noShotS), (0), (7), (5), (2), (burstC 5), ([]), (burstU noShotS), (burstV noShotS 5), by refine ⟨?_, ?_, ?_, ?_, rfl, rfl, ?_, ?_⟩ <;> decide +kernel⟩,
   ⟨(shutS), (0), (7), (5), (2), (burstC 5), ([]), (burstU shutS), (burstV shutS 5), (⟨shot1, []⟩), ((0, 5, 5)), ({ cell1 false with dir := 5, taken := [(6, 0)] }), by refine ⟨?_, ?_, ?_, ?_, rfl, rfl, ?_, ?_, ?_, ?_, ?_, ?_, ?_⟩ <;> decide +kernel⟩,
   ⟨(hitS), (0), (7), (5), (2), (burstC 5), ([]), (burstU hitS), (burstV hitS 5), (⟨shot1, []⟩), ((0, 5, 5)), ({ cell1 false with dir := 5, taken := [(7, 0)] }), by refine ⟨?_, ?_, ?_, ?_, rfl, rfl, ?_, ?_, ?_, ?_, ?_, ?_, ?_, ?_⟩ <;> decide +kernel⟩,
   ⟨(lateS), (0), (7), (5), (2), (burstC 5), ([]), (burstU lateS), (burstV lateS 5), (⟨shot1, []⟩), ((0, 5, 5)), ({ cell1 false with dir := 5, taken := [(7, 0)] }), by refine ⟨?_, ?_, ?_, ?_, rfl, rfl, ?_, ?_, ?_, ?_, ?_, ?_, ?_, ?_⟩ <;> decide +kernel⟩,
   ⟨({ stallS (stall1 .loft 0 none) [] with hge := { State.reset.hge with cells := [cell1 true] } }), (0), (3), (cell1 true), by decide +kernel⟩,
   ⟨(w .ready []), (3), by decide +kernel⟩,
   ⟨(w .ready [(F.YRD_GRANT_STAT_VALID 3, 1)]), (3), by decide +kernel⟩,
   ⟨(stallS (stall1 .loft 1 none) []), (2), (stall1 .loft 1 none), by decide +kernel⟩,
   ⟨(stallS (stall1 .loft 0 none) []), (2), (stall1 .loft 0 none), by decide +kernel⟩,
   ⟨(w .ready []), (3), (0x00000101#32), by decide +kernel⟩,
   ⟨(w .ready []), (3), (0x00000301#32), ([F.HGE_CODE_TAB_O3 3, F.HGE_CODE_TAB_O2 3, F.HGE_CODE_TAB_O1 3, F.HGE_CODE_TAB_DEPTH 3]), by refine ⟨?_, ?_, rfl⟩ <;> decide +kernel⟩,
   ⟨(w .ready []), (401#32), by decide +kernel⟩,
   ⟨(w .scan []), (400#32), by decide +kernel⟩,
   ⟨(w .ready []), (400#32), by decide +kernel⟩,
   ⟨(ringS), (1), (3), ([1#8]), ({ restRing with queue := [.recs 3 [[1#8]] none] }), by decide +kernel⟩,
   ⟨(ringS), (1), (0x4000#32), (0x4000), by decide +kernel⟩,
   ⟨(ringS.set (F.HGE_RING_WPTR 1) 48), (1), (16#32), (0x4000), by decide +kernel⟩,
   ⟨(stallS (stall1 .loft 0 none) []), (2), (stall1 .loft 0 none), ⟨by decide +kernel, .inl (by decide +kernel)⟩⟩,
   ⟨(stallS (stall1 .loft 1 (some ⟨.near, 3, 0⟩)) []), (2), (stall1 .loft 1 (some ⟨.near, 3, 0⟩)), (⟨.near, 3, 0⟩), by decide +kernel⟩,
   ⟨(stallS (stall1 .loft 0 none) [(F.YRD_CAP_NEAR_STALLS, 8192), (F.YRD_LOFT_WM_LOFT_BG, 0)]), (stall1 .loft 0 none), (⟨.near, 0, 0⟩), by decide +kernel⟩,
   ⟨(w .ready []), by decide +kernel⟩,
   ⟨(stallS (stall1 .loft 0 none) []), (20#32), by decide +kernel⟩,
   ⟨(w .ready []), (20#32), by decide +kernel⟩⟩

/-- The hypotheses of TimeBase, each clause at one state. -/
theorem test_TimeBase_witness :
    (∃ (_ : State) (p : Fin 16) (value : Dword) (a e : Nat), (a = (F.TDC_WIN_PROF_START p).of value.toNat) ∧ (e = (F.TDC_WIN_PROF_END p).of value.toNat) ∧ (1638 < e ∨ e < a + 8)) ∧
    (∃ (s : State) (p : Fin 16) (value : Dword) (a e : Nat), (a = (F.TDC_WIN_PROF_START p).of value.toNat) ∧ (e = (F.TDC_WIN_PROF_END p).of value.toNat) ∧ (a + 8 ≤ e) ∧ (e ≤ 1638) ∧ (committed s = true)) ∧
    (∃ (s : State) (p : Fin 16) (value : Dword) (a e : Nat), (a = (F.TDC_WIN_PROF_START p).of value.toNat) ∧ (e = (F.TDC_WIN_PROF_END p).of value.toNat) ∧ (a + 8 ≤ e) ∧ (e ≤ 1638) ∧ (committed s = false) ∧ (s.mode.scanning = false)) ∧
    (∃ (s : State) (p : Fin 16) (value : Dword) (a e : Nat), (a = (F.TDC_WIN_PROF_START p).of value.toNat) ∧ (e = (F.TDC_WIN_PROF_END p).of value.toNat) ∧ (a + 8 ≤ e) ∧ (e ≤ 1638) ∧ (committed s = false) ∧ (s.mode.scanning = true)) ∧
    (∃ (s : State) (_ : Fin 80), (s.flag F.TDC_PPS_CFG_EN = false)) ∧
    (∃ (s : State) (_ : Fin 80), (s.flag F.TDC_PPS_CFG_EN = true) ∧ (s.flag F.TDC_PPS_CFG_ALIGN = true)) ∧
    (∃ (s : State) (phase : Fin 80) (err : Int), (s.flag F.TDC_PPS_CFG_EN = true) ∧ (s.flag F.TDC_PPS_CFG_ALIGN = false) ∧ (err = (Int.ofNat s.now - Int.ofNat (s.get F.TDC_PPS_NEXT)) * 80 + Int.ofNat phase.val) ∧ (s.get F.TDC_PPS_CFG_TOL * 80 < err.natAbs ∨ (∃ a : Nat, s.tdc.lastPps = some a ∧ s.now < a + 400000000))) ∧
    (∃ (s : State) (phase : Fin 80) (err : Int), (s.flag F.TDC_PPS_CFG_EN = true) ∧ (s.flag F.TDC_PPS_CFG_ALIGN = false) ∧ (err = (Int.ofNat s.now - Int.ofNat (s.get F.TDC_PPS_NEXT)) * 80 + Int.ofNat phase.val) ∧ (err.natAbs ≤ s.get F.TDC_PPS_CFG_TOL * 80) ∧ (∀ a : Nat, s.tdc.lastPps = some a → a + 400000000 ≤ s.now)) ∧
    (∃ (s : State) (value : Dword), (bit value.toNat 31 = true) ∧ (s.mode.scanning = true)) ∧
    (∃ (s : State) (value : Dword), (s.mode.scanning = false ∨ bit value.toNat 31 = false)) ∧
    (∃ (s : State), (s.flag F.TDC_PPS_CFG_EN = true) ∧ (s.flag F.TDC_PPS_STATUS_LOST = false)) ∧
    (∃ (s : State), (s.flag F.TDC_PPS_CFG_EN = false ∨ s.flag F.TDC_PPS_STATUS_LOST = true)) ∧
    (∃ (s : State) (_ : Dword), (s.flag F.TDC_FIRE_CFG_EN = true)) ∧
    (∃ (s : State) (e : Fin 4) (value : Dword), (e ≠ 3 ∨ s.flag F.TDC_FIRE_CFG_EN = false) ∧ ((F.TDC_FM_CTRL_MODE e).of value.toNat = 3 ∨ 0x0A < (F.TDC_FM_CTRL_SRC e).of value.toNat)) ∧
    (∃ (s : State) (e : Fin 4) (value : Dword), (e ≠ 3 ∨ s.flag F.TDC_FIRE_CFG_EN = false) ∧ ((F.TDC_FM_CTRL_MODE e).of value.toNat ≠ 3) ∧ ((F.TDC_FM_CTRL_SRC e).of value.toNat ≤ 0x0A)) ∧
    (∃ (s : State) (e : Fin 4) (_ : List Edge), (s.flag (F.TDC_FM_CTRL_START e) = false)) ∧
    (∃ (s : State) (e : Fin 4) (_ : List Edge), (s.flag (F.TDC_FM_CTRL_START e) = true) ∧ (s.tdc.refSwitched.getD e false = true)) ∧
    (∃ (s : State) (e : Fin 4) (edges : List Edge) (g : GateResult) (firing : Bool), (s.flag (F.TDC_FM_CTRL_START e) = true) ∧ (s.tdc.refSwitched.getD e false = false) ∧ (g = gateResult s e (takeStamps none (gateEdges s e edges)).1) ∧ (firing = (decide (e = 3) && s.flag F.TDC_FIRE_CFG_EN && firingFails s g))) :=
  ⟨⟨(w .ready []), (3), (0x00070000#32), ((F.TDC_WIN_PROF_START 3).of 0x70000), ((F.TDC_WIN_PROF_END 3).of 0x70000), by decide +kernel⟩,
   ⟨(committedS (w .ready [])), (3), (0x00100000#32), ((F.TDC_WIN_PROF_START 3).of 0x100000), ((F.TDC_WIN_PROF_END 3).of 0x100000), by decide +kernel⟩,
   ⟨(w .ready []), (3), (0x00100000#32), ((F.TDC_WIN_PROF_START 3).of 0x100000), ((F.TDC_WIN_PROF_END 3).of 0x100000), by decide +kernel⟩,
   ⟨(w .scan []), (3), (0x00100000#32), ((F.TDC_WIN_PROF_START 3).of 0x100000), ((F.TDC_WIN_PROF_END 3).of 0x100000), by decide +kernel⟩,
   ⟨(w .ready [(F.TDC_PPS_CFG_EN, 0)]), (3), by decide +kernel⟩,
   ⟨(w .ready [(F.TDC_PPS_CFG_EN, 1), (F.TDC_PPS_CFG_ALIGN, 1)]), (3), by decide +kernel⟩,
   ⟨(w .ready [(F.TDC_PPS_CFG_EN, 1), (F.TDC_PPS_NEXT, 1000000)]), (3), (-79999997), by refine ⟨?_, ?_, ?_, .inl (by decide +kernel)⟩ <;> decide +kernel⟩,
   ⟨(w .ready [(F.TDC_PPS_CFG_EN, 1), (F.TDC_PPS_STATUS_ALIGNED, 1), (F.TDC_PPS_CFG_TOL, 100)]), (3), (3), by refine ⟨?_, ?_, ?_, ?_, fun a h => by cases h⟩ <;> decide +kernel⟩,
   ⟨(w .scan []), (0x80000000#32), by decide +kernel⟩,
   ⟨(w .ready []), (0x80000001#32), by decide +kernel⟩,
   ⟨(w .ready [(F.TDC_PPS_CFG_EN, 1), (F.TDC_PPS_STATUS_LOST, 0)]), by decide +kernel⟩,
   ⟨(w .ready [(F.TDC_PPS_CFG_EN, 0)]), by decide +kernel⟩,
   ⟨(w .ready [(F.TDC_FIRE_CFG_EN, 1)]), (1#32), by decide +kernel⟩,
   ⟨(w .ready []), (1), (0xFFFFFFFF#32), by decide +kernel⟩,
   ⟨(w .ready []), (1), (0x80000000#32), by decide +kernel⟩,
   ⟨(w .ready []), (1), ([]), by decide +kernel⟩,
   ⟨({ gateS [] with tdc := { State.reset.tdc with refSwitched := [true, true, true, true] } }), (1), ([]), by decide +kernel⟩,
   ⟨(gateS []), (1), ([]), (gateResult (gateS []) 1 (takeStamps none (gateEdges (gateS []) 1 [])).1), (false), by refine ⟨?_, ?_, rfl, ?_⟩ <;> decide +kernel⟩⟩

/-- The hypotheses of BanksAndSweeps, each clause at one state. -/
theorem test_BanksAndSweeps_witness :
    (∃ (s : State) (b : Fin 8) (x : Bank), (x = bankAt s b) ∧ (emiUp s = true) ∧ (x.due ≠ none) ∧ (x.charging = false) ∧ (x.range = false) ∧ (s.flag F.EMI_STATUS_INHIBIT = false) ∧ (bankOut s b = false ∨ testsBank s b = true)) ∧
    (∃ (s : State) (b : Fin 8), (emiUp s = false ∨ (bankAt s b).due = none)) ∧
    (∃ (s : State) (b : Fin 8) (_ _ _ : Nat), ((bankAt s b).charging = false)) ∧
    (∃ (s : State) (b : Fin 8) (v _ _ : Nat), ((bankAt s b).charging = true) ∧ (s.get (F.EMI_BANK_CFG_VSET b) ≤ v)) ∧
    (∃ (s : State) (b : Fin 8) (v _ _ : Nat), ((bankAt s b).charging = true) ∧ (v < s.get (F.EMI_BANK_CFG_VSET b)) ∧ (2 ≤ (bankAt s b).run) ∧ (bankOut s b = false)) ∧
    (∃ (s : State) (b : Fin 8) (code : Nat), (emiUp s = true) ∧ (s.get (F.EMI_BANK_CFG_VOV b) < code) ∧ (code ≤ 0xFBF) ∧ (bankOut s b = false)) ∧
    (∃ (s : State) (b : Fin 8) (code : Nat), (emiUp s = true) ∧ (code ≤ s.get (F.EMI_BANK_CFG_VOV b)) ∧ (0x040 ≤ code) ∧ (code ≤ 0xFBF)) ∧
    (∃ (s : State) (l : List Nat), (emiUp s = true) ∧ (s.flag F.EMI_CTRL_SWEEP_EN = true) ∧ (l = ((List.range 8).filter fun b => !bankOut s b).foldl (fun l b => l ++ bankCells s b) []) ∧ (s.emi.sweeping = false)) ∧
    (∃ (s : State), (emiUp s = true) ∧ (s.flag F.EMI_CTRL_SWEEP_EN = true) ∧ (s.emi.sweeping = true)) ∧
    (∃ (s : State), (emiUp s = true) ∧ (s.flag F.EMI_CTRL_SWEEP_EN = false)) ∧
    (∃ (s : State), (emiUp s = false)) ∧
    (∃ (s : State) (b : Fin 8) (w : Fin 256), (s.mode = .scan) ∧ (bankOut s b = true) ∧ (bit (s.get F.EMI_BANK_EN_EN) b = true) ∧ (bankCells s b ≠ []) ∧ (bit (s.get F.EMI_BANK_EN_RETRY) b = false) ∧ (w.val = 2 ^ b.val)) ∧
    (∃ (s : State) (_ : Fin 256), (s.mode ≠ .scan)) ∧
    (∃ (s : State) (value : Dword), (committed s = false) ∧ (F.EMI_BANK_EN_RETRY.of value.toNat = 0) ∧ (s.mode.scanning = true)) ∧
    (∃ (s : State) (value : Dword), (committed s = false) ∧ (F.EMI_BANK_EN_RETRY.of value.toNat = 0) ∧ (s.mode.scanning = false)) ∧
    (∃ (s : State) (value : Dword) (b : Fin 8), (bit (F.EMI_BANK_EN_RETRY.of value.toNat) b = true) ∧ (bankOut s b = false)) ∧
    (∃ (s : State) (b : Fin 8) (current : Nat), (emiUp s = true) ∧ (s.get (F.EMI_BANK_CELL_CELL_CODE b) < 4 * current)) ∧
    (∃ (s : State) (b : Fin 8) (current : Nat), (emiUp s = false ∨ 4 * current ≤ s.get (F.EMI_BANK_CELL_CELL_CODE b))) ∧
    (∃ (s : State), (s.flag F.EMI_STATUS_INHIBIT = true)) ∧
    (∃ (s : State), (s.flag F.EMI_STATUS_INHIBIT = false)) ∧
    (∃ (s : State), (hgeUp s = true)) :=
  ⟨⟨(bankS1 { restBank with due := some 3 } []), (2), ({ restBank with due := some 3 }), by decide +kernel⟩,
   ⟨(w .ready []), (2), by decide +kernel⟩,
   ⟨(w .scan []), (2), (100), (5), (3), by decide +kernel⟩,
   ⟨(bankS1 { restBank with charging := true } [(F.EMI_BANK_CFG_VSET 2, 100)]), (2), (100), (5), (3), by decide +kernel⟩,
   ⟨(bankS1 { restBank with charging := true, run := 2 } [(F.EMI_BANK_CFG_VSET 2, 100)]), (2), (99), (5), (3), by decide +kernel⟩,
   ⟨(w .scan [(F.EMI_BANK_CFG_VOV 2, 100)]), (2), (101), by decide +kernel⟩,
   ⟨(w .scan [(F.EMI_BANK_CFG_VOV 2, 100)]), (2), (100), by decide +kernel⟩,
   ⟨(sweepS [] false), (((List.range 8).filter fun b => !bankOut (sweepS [] false) b).foldl (fun l b => l ++ bankCells (sweepS [] false) b) []), by decide +kernel⟩,
   ⟨(sweepS [3] true), by decide +kernel⟩,
   ⟨({ sweepS [3] true with regs := (w .scan [(F.EMI_CTRL_SWEEP_EN, 0)]).regs }), by decide +kernel⟩,
   ⟨(w .ready []), by decide +kernel⟩,
   ⟨(w .scan [(F.EMI_BANK_STAT_WITHDRAWN 2, 1), (F.EMI_BANK_EN_EN, 4)]), (2), (4), by decide +kernel⟩,
   ⟨(w .ready []), (4), by decide +kernel⟩,
   ⟨(w .scan []), (3#32), by decide +kernel⟩,
   ⟨(w .ready []), (3#32), by decide +kernel⟩,
   ⟨(w .scan []), (0x0400#32), (2), by decide +kernel⟩,
   ⟨(w .scan []), (2), (5000), by decide +kernel⟩,
   ⟨(w .scan []), (2), (0), by decide +kernel⟩,
   ⟨(w .scan [(F.EMI_STATUS_INHIBIT, 1)]), by decide +kernel⟩,
   ⟨(w .scan []), by decide +kernel⟩,
   ⟨(w .scan []), by decide +kernel⟩⟩

/-- The hypotheses of FloodlightsAndLampBoard, each clause at one state. -/
theorem test_FloodlightsAndLampBoard_witness :
    (∃ (s : State) (_ : Fin 2) (_ : List Nat), (emiUp s = false)) ∧
    (∃ (s : State) (_ : Fin 2) (l : List Nat) (code : Nat), (code = divRound (l.foldl (· + ·) 0) 16) ∧ (emiUp s = true) ∧ (code < 0x010 ∨ 0xFF0 < code)) ∧
    (∃ (s : State) (k : Fin 2) (l : List Nat) (code : Nat) (x : Int), (code = divRound (l.foldl (· + ·) 0) 16) ∧ (emiUp s = true) ∧ (lbtConfigured s k = true) ∧ (0x010 ≤ code) ∧ (code ≤ 0xFF0) ∧ (lbtTemp (s.get (F.EMI_LBT_CFG_R0_RATIO k)) (s.get (F.EMI_LBT_CFG_BETA k)) code = some x)) ∧
    (∃ (_ : State) (n : Fin 4) (value : Dword) (d : Nat), (d = (F.EMI_FL_DUTY n).of value.toNat) ∧ (1000 < d)) ∧
    (∃ (_ : State) (n : Fin 4) (value : Dword) (d : Nat), (d = (F.EMI_FL_DUTY n).of value.toNat) ∧ (d ≤ 1000)) ∧
    (∃ (s : State) (n : Fin 4) (d : Nat), (d = s.get (F.EMI_FL_DUTY n) * (flDerate s).1 / (flDerate s).2) ∧ (emiUp s = true) ∧ (s.flag F.EMI_FL_CTRL_EN = true) ∧ (s.emi.flOff = false) ∧ (n.val = 0 ∨ s.emi.flWait = false) ∧ (d ≠ 0)) ∧
    (∃ (s : State) (n : Fin 4), (n.val ≠ 0) ∧ (s.emi.flOff = true ∨ s.emi.flWait = true)) ∧
    (∃ (s : State) (n : Fin 4), ((stringAt s n).on = true)) ∧
    (∃ (s : State) (n : Fin 4) (_ : Nat), ((stringAt s n).on = false)) ∧
    (∃ (s : State) (n : Fin 4) (sample : Nat), ((stringAt s n).on = true) ∧ (s.get F.EMI_FL_LIM_OVER_TH < sample)) ∧
    (∃ (s : State) (n : Fin 4) (sample : Nat), ((stringAt s n).on = true) ∧ (sample ≤ s.get F.EMI_FL_LIM_OVER_TH) ∧ (2000 ≤ onTimeNs s (stringAt s n)) ∧ (s.get F.EMI_FL_LIM_OPEN_TH ≤ sample)) ∧
    (∃ (s : State) (n : Fin 4) (sample : Nat), ((stringAt s n).on = true) ∧ (sample ≤ s.get F.EMI_FL_LIM_OVER_TH) ∧ (2000 ≤ onTimeNs s (stringAt s n)) ∧ (sample < s.get F.EMI_FL_LIM_OPEN_TH) ∧ ((stringAt s n).fails = 0)) ∧
    (∃ (s : State) (n : Fin 4) (sample : Nat), ((stringAt s n).on = true) ∧ (sample ≤ s.get F.EMI_FL_LIM_OVER_TH) ∧ (2000 ≤ onTimeNs s (stringAt s n)) ∧ (sample < s.get F.EMI_FL_LIM_OPEN_TH) ∧ (1 ≤ (stringAt s n).fails)) ∧
    (∃ (s : State) (n : Fin 4), ((stringAt s n).duty ≠ 0) ∧ (s.flag F.EMI_FL_CTRL_EN = true) ∧ (s.emi.flOff = false) ∧ (emiUp s = true) ∧ (s.flag F.EMI_FL_CTRL_DIAG_EN = true)) ∧
    (∃ (s : State) (n : Fin 4), ((stringAt s n).duty ≠ 0) ∧ (s.flag F.EMI_FL_CTRL_EN = true) ∧ (s.emi.flOff = false) ∧ (emiUp s = true) ∧ (s.flag F.EMI_FL_CTRL_DIAG_EN = false)) ∧
    (∃ (s : State) (_ : Fin 4) (sample : Nat), (emiUp s = true) ∧ (s.get F.EMI_FL_LIM_OVER_TH < sample)) ∧
    (∃ (s : State) (_ : Fin 4) (sample : Nat), (sample ≤ s.get F.EMI_FL_LIM_OVER_TH)) :=
  ⟨⟨(w .ready []), (1), (samples 2048), by decide +kernel⟩,
   ⟨(lbtS), (1), (samples 15), (15), by decide +kernel⟩,
   ⟨(lbtS), (1), (samples 2048), (2048), (lbtOut), by refine ⟨?_, ?_, ?_, ?_, ?_, get_eq _ ?_⟩ <;> decide +kernel⟩,
   ⟨(w .scan []), (1), (1001#32), ((F.EMI_FL_DUTY 1).of 1001), by decide +kernel⟩,
   ⟨(w .scan []), (1), (1000#32), ((F.EMI_FL_DUTY 1).of 1000), by decide +kernel⟩,
   ⟨(floodS), (1), (floodS.get (F.EMI_FL_DUTY 1) * (flDerate floodS).1 / (flDerate floodS).2), by refine ⟨rfl, ?_, ?_, ?_, ?_, ?_⟩ <;> decide +kernel⟩,
   ⟨({ stringS litString [] with emi := { (stringS litString []).emi with flOff := true } }), (1), by decide +kernel⟩,
   ⟨(stringS litString []), (1), by decide +kernel⟩,
   ⟨(w .scan []), (1), (50), by decide +kernel⟩,
   ⟨(stringS litString []), (1), (3001), by decide +kernel⟩,
   ⟨(stringS litString []), (1), (3000), by decide +kernel⟩,
   ⟨(stringS litString []), (1), (99), by decide +kernel⟩,
   ⟨(stringS { litString with fails := 1 } []), (1), (99), by decide +kernel⟩,
   ⟨(stringS darkString [(F.EMI_FL_CTRL_DIAG_EN, 1)]), (1), by decide +kernel⟩,
   ⟨(stringS darkString [(F.EMI_FL_CTRL_DIAG_EN, 0)]), (1), by decide +kernel⟩,
   ⟨(stringS darkString []), (1), (3001), by decide +kernel⟩,
   ⟨(stringS darkString []), (1), (3000), by decide +kernel⟩⟩

/-- The hypotheses of HousekeepingConverters, each clause at one state. -/
theorem test_HousekeepingConverters_witness :
    (∃ (s : State) (d : Side) (_ : HkSample), (converts s (convIx d) = false)) ∧
    (∃ (s : State) (d : Side) (_ : HkSample), (converts s (convIx d) = true) ∧ ((convAt s (convIx d)).insert = true)) ∧
    (∃ (s : State) (d : Side) (_ : HkSample), ((convAt s (convIx d)).insert = false) ∧ ((convAt s (convIx d)).loop = true ∨ (convAt s (convIx d)).host ≠ [])) ∧
    (∃ (s : State) (d : Side) (y : HkSample) (x e code : Nat) (ovr : Bool), (x = convIx d) ∧ (converts s x = true) ∧ ((convAt s x).insert = false) ∧ ((convAt s x).loop = false) ∧ ((convAt s x).host = []) ∧ (hkHeard s x = true) ∧ (e = (convAt s x).next) ∧ (0 < e) ∧ (e ≤ lenNow s x) ∧ (e < 32) ∧ (bit (seqNow s x e) 16 = false) ∧ (inputCode s (bits (seqNow s x e) 0 6) y.uv = (code, ovr))) ∧
    (∃ (s : State), (hkUp s = true)) ∧
    (∃ (s : State) (d : Side) (x : Nat), (x = convIx d) ∧ (hkUp s = true) ∧ ((convAt s x).host.length + b2n (convAt s x).loop < 4)) ∧
    (∃ (s : State) (d : Side) (x : Nat), (x = convIx d) ∧ (hkUp s = true) ∧ (4 ≤ (convAt s x).host.length + b2n (convAt s x).loop)) ∧
    (∃ (s : State) (d : Side) (uv : Int) (x code : Nat) (ovr : Bool), (x = convIx d) ∧ (converts s x = true) ∧ ((convAt s x).insert = false) ∧ ((convAt s x).loop = true) ∧ (inputCode s 27 uv = (code, ovr))) ∧
    (∃ (s : State) (d : Side) (uv : Int) (x code : Nat) (ovr : Bool) (input : Nat) (r : List Nat), (x = convIx d) ∧ (converts s x = true) ∧ ((convAt s x).insert = false) ∧ ((convAt s x).loop = false) ∧ ((convAt s x).host = input :: r) ∧ (hkHeard s x = true) ∧ (inputCode s input uv = (code, ovr))) ∧
    (∃ (_ : State) (d : Side) (_ : Dword) (x : Nat), (x = convIx d)) ∧
    (∃ (s : State) (d : Side) (x : Nat), (x = convIx d) ∧ (hkUp s = true)) ∧
    (∃ (s : State) (d : Side) (x : Nat) (l : List Int), (x = convIx d) ∧ (s.flag (F.HKC_CAL_CAL_BUSY x) = true) ∧ (l.length = 13) ∧ (∀ m ∈ l, m.natAbs ≤ 8)) ∧
    (∃ (s : State) (d : Side) (x : Nat) (l : List Int), (x = convIx d) ∧ (s.flag (F.HKC_CAL_CAL_BUSY x) = true) ∧ (l.length = 13) ∧ (∃ m ∈ l, 8 < m.natAbs)) ∧
    (∃ (s : State) (d : Side) (x : Nat), (x = convIx d) ∧ (hkUp s = true) ∧ (s.flag (F.HKC_CAL_REF_LP x) = true) ∧ (s.saf.armed = false) ∧ (restsLong s x = true) ∧ (s.flag (F.HKC_CAL_CAL_BUSY x) = false)) ∧
    (∃ (s : State) (d : Side) (x : Nat), (x = convIx d) ∧ (s.saf.armed = true)) ∧
    (∃ (s : State) (_ : Bool), (safUp s = false)) ∧
    (∃ (s : State), (safUp s = true) ∧ (∀ k < 8, s.flag (F.HKC_XCMP_EN k) = false) ∧ (evaluatorsDiffer s = false)) ∧
    (∃ (s : State), (safUp s = true) ∧ (∀ k < 8, s.flag (F.HKC_XCMP_EN k) = false) ∧ (s.saf.hbMiss = false)) ∧
    (∃ (s : State), (safUp s = true) ∧ (∀ k < 8, s.flag (F.HKC_XCMP_EN k) = false) ∧ (s.saf.hbMiss = true) ∧ (s.mode = .scan)) :=
  ⟨⟨(w .ready [(F.HKC_CTRL_EN 1, 0)]), (.b), (⟨5, 0⟩), by decide +kernel⟩,
   ⟨(convS { restConv with insert := true } []), (.b), (⟨5, 0⟩), by decide +kernel⟩,
   ⟨(convS { restConv with loop := true } []), (.b), (⟨5, 0⟩), by decide +kernel⟩,
   ⟨(entryS), (.b), (⟨500000, 0⟩), (1), (2), ((inputCode entryS entryIn 500000).1), ((inputCode entryS entryIn 500000).2), by refine ⟨?_, ?_, ?_, ?_, ?_, ?_, ?_, ?_, ?_, ?_, ?_, rfl⟩ <;> decide +kernel⟩,
   ⟨(w .ready []), by decide +kernel⟩,
   ⟨(convS restConv []), (.b), (1), by decide +kernel⟩,
   ⟨(convS { restConv with host := [1, 2, 3, 4] } []), (.b), (1), by decide +kernel⟩,
   ⟨(convS { restConv with loop := true } []), (.b), (500000), (1), ((inputCode State.reset 27 500000).1), ((inputCode State.reset 27 500000).2), by decide +kernel⟩,
   ⟨(convS { restConv with host := [3, 4] } []), (.b), (500000), (1), (1138), (false), (3), ([4]), by decide +kernel⟩,
   ⟨(w .ready []), (.b), (3#32), (1), by decide +kernel⟩,
   ⟨(convS restConv []), (.b), (1), by decide +kernel⟩,
   ⟨(calS), (.b), (1), (List.replicate 13 2), by decide +kernel⟩,
   ⟨(calS), (.b), (1), (9 :: List.replicate 12 2), by decide +kernel⟩,
   ⟨({ convS restConv [(F.HKC_CAL_REF_LP 1, 1), (F.HKC_CTRL_EN 1, 0)] with sys := { State.reset.sys with raw := 8000000000 } }), (.b), (1), by decide +kernel⟩,
   ⟨(armed1 .ready .forced), (.b), (1), by decide +kernel⟩,
   ⟨(State.reset), (true), by decide +kernel⟩,
   ⟨(beatS .ready false), by decide +kernel⟩,
   ⟨(beatS .ready false), by decide +kernel⟩,
   ⟨(beatS .scan true), by decide +kernel⟩⟩

end Sys2Proof.Tests
end

/-! ## Rounding to the nearest step (R686)

What `divRound` and `divRoundInt` answer, and with it O29. -/
namespace Sys2Proof.Machine

/-- R686: the answer is the one whole number `q` whose half-open step `[q - 1/2, q + 1/2)` holds `a / b`. -/
theorem divRound_eq_iff {a b : Nat} (hb : 0 < b) (q : Nat) :
    divRound a b = q ↔ 2 * q * b ≤ 2 * a + b ∧ 2 * a < (2 * q + 1) * b := by
  have hlow : q * (2 * b) = 2 * q * b := by rw [← Nat.mul_assoc, Nat.mul_comm q 2]
  have hhigh : (2 * q + 1) * b = 2 * q * b + b := Nat.succ_mul (2 * q) b
  rw [divRound, Nat.div_eq_iff (by omega : 0 < 2 * b), hlow, hhigh]
  omega

/-- Zero is a step of its own, so it stays, whatever the divisor. -/
@[simp] theorem divRound_zero (b : Nat) : divRound 0 b = 0 := by
  rcases Nat.eq_zero_or_pos b with rfl | hb
  · rfl
  · exact (divRound_eq_iff hb 0).2 (by omega)

@[simp] theorem divRoundInt_natCast (a b : Nat) : divRoundInt (a : Int) b = (divRound a b : Int) :=
  if_neg (Int.not_lt.2 (Int.natCast_nonneg a))

/-- R686: away from zero on both sides, so a negative value rounds as its absolute value and is negated. -/
@[simp] theorem divRoundInt_neg_natCast (a b : Nat) :
    divRoundInt (-(a : Int)) b = -(divRound a b : Int) := by
  cases a with
  | zero => simpa only [Int.natCast_zero, Int.neg_zero, divRound_zero] using divRoundInt_natCast 0 b
  | succ n => exact if_pos (Int.negSucc_lt_zero n)

/-- Settles O29: the quotient by `2 * b` is bounded on both sides (`divRound_eq_iff`), and the sign is
taken off before rounding and put back after it. -/
theorem roundingHalfAway : Obligations.RoundingHalfAway := by
  intro a b hb
  exact ⟨divRound_eq_iff hb, divRoundInt_natCast a b, divRoundInt_neg_natCast a b⟩

end Sys2Proof.Machine

/-! ## The two halves of a _LO/_HI pair (R648 to R650)

Shadows and held writes are lists with an entry for each path and pair. What `pairEntry` reads after an entry is put in or
taken out, what a dword access at either half does, and with these O20 and O21. -/
namespace Sys2Proof.Machine

/-! ### Entries of the shadows and of the held writes -/

@[simp] theorem pairEntry_nil (p : Access) (base : Nat) : pairEntry [] p base = none := rfl

/-- The test that `pairEntry` and `dropPair` make of an entry. -/
theorem pairKey_iff (p q : Access) (base b : Nat) : (p == q && base == b) = true ↔ p = q ∧ base = b := by
  rw [Bool.and_eq_true, beq_iff_eq, beq_iff_eq]

theorem pairEntry_cons (l : List (Access × Nat × Nat)) (p q : Access) (base b v : Nat) :
    pairEntry ((p, base, v) :: l) q b = if p = q ∧ base = b then some v else pairEntry l q b := by
  by_cases h : p = q ∧ base = b
  · have hkey := (pairKey_iff p q base b).2 h
    rw [if_pos h]
    simp only [pairEntry, List.find?_cons, hkey, Option.map_some]
  · have hkey := Bool.eq_false_iff.2 (mt (pairKey_iff p q base b).1 h)
    rw [if_neg h]
    simp only [pairEntry, List.find?_cons, hkey]

theorem dropPair_cons (l : List (Access × Nat × Nat)) (p q : Access) (base b v : Nat) :
    dropPair ((q, b, v) :: l) p base =
      if q = p ∧ b = base then dropPair l p base else (q, b, v) :: dropPair l p base := by
  by_cases h : q = p ∧ b = base
  · have hkey := (pairKey_iff q p b base).2 h
    rw [if_pos h]
    exact List.filter_cons_of_neg (by simp only [hkey, Bool.not_true, Bool.false_eq_true, not_false_eq_true])
  · have hkey := Bool.eq_false_iff.2 (mt (pairKey_iff q p b base).1 h)
    rw [if_neg h]
    exact List.filter_cons_of_pos (by simp only [hkey, Bool.not_false])

@[simp] theorem pairEntry_cons_same (l : List (Access × Nat × Nat)) (p : Access) (base v : Nat) :
    pairEntry ((p, base, v) :: l) p base = some v := by
  rw [pairEntry_cons, if_pos ⟨rfl, rfl⟩]

@[simp] theorem pairEntry_dropPair_same (l : List (Access × Nat × Nat)) (p : Access) (base : Nat) :
    pairEntry (dropPair l p base) p base = none := by
  induction l with
  | nil => rfl
  | cons e l ih =>
    obtain ⟨q, b, v⟩ := e
    by_cases h : q = p ∧ b = base
    · rw [dropPair_cons, if_pos h, ih]
    · rw [dropPair_cons, if_neg h, pairEntry_cons, if_neg h, ih]

theorem pairEntry_dropPair_other (l : List (Access × Nat × Nat)) {p q : Access} {base b : Nat} (h : (q, b) ≠ (p, base)) :
    pairEntry (dropPair l p base) q b = pairEntry l q b := by
  induction l with
  | nil => rfl
  | cons e l ih =>
    obtain ⟨q', b', v⟩ := e
    by_cases hdrop : q' = p ∧ b' = base
    · have hother : ¬(q' = q ∧ b' = b) := by
        rintro ⟨rfl, rfl⟩
        exact h (Prod.ext hdrop.1 hdrop.2)
      rw [dropPair_cons, if_pos hdrop, pairEntry_cons, if_neg hother, ih]
    · rw [dropPair_cons, if_neg hdrop, pairEntry_cons, pairEntry_cons, ih]

theorem pairEntry_put_other (l : List (Access × Nat × Nat)) {p q : Access} {base b : Nat} (v : Nat) (h : (q, b) ≠ (p, base)) :
    pairEntry ((p, base, v) :: dropPair l p base) q b = pairEntry l q b := by
  rw [pairEntry_cons, if_neg (by rintro ⟨rfl, rfl⟩; exact h rfl), pairEntry_dropPair_other l h]

/-! ### Accesses at the two halves -/

section
variable {s : State} {r : RegRef} (p : Access)

/-- R648: reading _LO gives the low half and puts the high half into the path's shadow. -/
theorem readDword_lo (hr : regRef s r.base = some r) (hw : r.wide = true) (ha : answers s r.base = true) :
    readDword s p r.base = (readFields s r.side r.at_ r.fields % 2 ^ 32,
      setShadow s p r.base (readFields s r.side r.at_ r.fields / 2 ^ 32)) := by
  simp [readDword, hr, hw, ha]

/-- R648: reading _HI gives the path's shadow and changes nothing. -/
theorem readDword_hi (hr : regRef s (r.base + 4) = some r) (hw : r.wide = true) (ha : answers s (r.base + 4) = true) :
    readDword s p (r.base + 4) = ((pairEntry s.link.shadow p r.base).getD 0, s) := by
  simp [readDword, hr, hw, ha]

/-- R649: a write of _LO is held. -/
theorem writeDword_lo (v : Nat) (hr : regRef s r.base = some r) (hw : r.wide = true) (ha : answers s r.base = true) :
    writeDword s p r.base v = setHeldLow s p r.base v := by
  simp [writeDword, hr, hw, ha]

/-- R649: a write of _HI uses up the held half and writes both as one. -/
theorem writeDword_hi (v : Nat) (hr : regRef s (r.base + 4) = some r) (hw : r.wide = true)
    (ha : answers s (r.base + 4) = true) :
    writeDword s p (r.base + 4) v =
      writeReg { s with link := { s.link with held := dropPair s.link.held p r.base } } p r (lowHalf s p r + 2 ^ 32 * v) := by
  simp [writeDword, hr, hw, ha]

theorem exec_wideLoRead (hr : regRef s r.base = some r) (hw : r.wide = true) (hp : pathUp s p = true) :
    exec (.wideLoRead p r.base) s = .next (readDword s p r.base).2 := by
  change execWideLoRead p r.base s = _
  simp [execWideLoRead, hr, hw, hp]

theorem exec_wideLoWrite (v : Dword) (hr : regRef s r.base = some r) (hw : r.wide = true) (hp : pathWrites s p = true) :
    exec (.wideLoWrite p r.base v) s = .next (writeDword s p r.base v.toNat) := by
  change execWideLoWrite p r.base v s = _
  simp [execWideLoWrite, hr, hw, hp]

theorem exec_wideHiWrite (v : Dword) (hr : regRef s (r.base + 4) = some r) (hw : r.wide = true)
    (hp : pathWrites s p = true) :
    exec (.wideHiWrite p (r.base + 4) v) s = .next (writeDword s p (r.base + 4) v.toNat) := by
  change execWideHiWrite p (r.base + 4) v s = _
  simp [execWideHiWrite, hr, hw, hp]

end

@[simp] theorem spendRead_link (s : State) (x : Nat) : (spendRead s x).link = s.link := by
  unfold spendRead
  split <;> rfl

/-- What a read does to the shadows: nothing, or it was of the _LO half of a pair and its path's entry for that pair is new. -/
theorem readDword_shadow_cases (s : State) (q : Access) (x : Nat) :
    (readDword s q x).2.link.shadow = s.link.shadow ∨
      ∃ r v, regRef s x = some r ∧ (readDword s q x).2.link.shadow = (q, r.base, v) :: dropPair s.link.shadow q r.base := by
  unfold readDword
  split
  · exact .inl rfl
  · split
    · exact .inl rfl
    next r hr =>
      dsimp only
      split
      · exact .inl (by simp)
      · split
        · exact .inr ⟨r, _, hr, rfl⟩
        · exact .inl rfl

/-- R650: a read by another path, or of another register, leaves a path's shadow of a pair. -/
theorem readDword_shadow_other (s : State) {p q : Access} {x base : Nat}
    (h : q = p → ∀ r : RegRef, regRef s x = some r → r.base ≠ base) :
    pairEntry (readDword s q x).2.link.shadow p base = pairEntry s.link.shadow p base := by
  rcases readDword_shadow_cases s q x with e | ⟨r, v, hr, e⟩
  · rw [e]
  · have hne : (p, base) ≠ (q, r.base) := by
      rintro ⟨⟩
      exact h rfl r hr rfl
    rw [e, pairEntry_put_other _ _ hne]

/-- Settles O20: a write of _LO puts the held entry of its path and pair (`writeDword_lo`), a write of _HI takes it out and writes
the register once (`writeDword_hi`); every other entry stays. -/
theorem wideWrites : Obligations.WideWrites := by
  intro s p r v hp
  refine ⟨fun hr hw ha => ?_, fun hr hw ha => ?_⟩
  · refine ⟨setHeldLow s p r.base v.toNat, ?_, pairEntry_cons_same _ _ _ _, rfl, fun q b h => pairEntry_put_other _ _ h⟩
    rw [exec_wideLoWrite p v hr hw hp, writeDword_lo p _ hr hw ha]
  · refine ⟨{ s with link := { s.link with held := dropPair s.link.held p r.base } }, rfl, pairEntry_dropPair_same _ _ _,
      fun q b h => pairEntry_dropPair_other _ h, ?_⟩
    rw [exec_wideHiWrite p v hr hw hp, writeDword_hi p _ hr hw ha, lowHalf]
    cases pairEntry s.link.held p r.base <;> rfl

/-- Settles O21: a read of _LO sets the shadow's entry of its path and pair (`readDword_lo`), a read of _HI returns it
(`readDword_hi`), any other read keeps it (`readDword_shadow_other`), and a device reset leaves no entry (`reset_link`). -/
theorem wideReads : Obligations.WideReads := by
  intro s p r
  refine ⟨fun hp hr hw ha => ?_, readDword_hi p, fun q x h => readDword_shadow_other s h, fun kind => ?_⟩
  · refine ⟨setShadow s p r.base (readFields s r.side r.at_ r.fields / 2 ^ 32), ?_, pairEntry_cons_same _ _ _ _, rfl⟩
    rw [exec_wideLoRead p hr hw hp, readDword_lo p hr hw ha]
  · rw [reset_link]
    exact pairEntry_nil p r.base

end Sys2Proof.Machine

/-! ## A new record in a full fault log (R639)

Which record `insertFault` takes out, how a fault reaches it, and with these O25. -/
namespace Sys2Proof.Machine

/-! ### The record that is taken out -/

theorem dropFirst_eq_eraseP (p : FaultRec → Bool) (l : List FaultRec) : dropFirst p l = l.eraseP p := by
  induction l with
  | nil => rfl
  | cons r l ih => simp only [dropFirst, List.eraseP_cons, ih, cond_eq_ite]

/-- The first record that meets p is the one after those that do not. -/
theorem dropFirst_append_cons {p : FaultRec → Bool} {a : List FaultRec} (ha : ∀ r ∈ a, p r = false) {x : FaultRec}
    (hx : p x = true) (b : List FaultRec) : dropFirst p (a ++ x :: b) = a ++ b := by
  rw [dropFirst_eq_eraseP, List.eraseP_append_right _ (by simpa using ha), List.eraseP_cons_of_pos hx]

theorem le_foldl_min_cls_iff (k m : Nat) (l : List FaultRec) :
    k ≤ l.foldl (fun m x => min m x.cls) m ↔ k ≤ m ∧ ∀ r ∈ l, k ≤ r.cls := by
  induction l generalizing m with
  | nil => simp
  | cons a l ih => rw [List.foldl_cons, ih, Nat.le_min, List.forall_mem_cons, and_assoc]

/-- The lowest class is the greatest lower bound of the classes of a log that is not empty. -/
theorem le_lowestClass_iff {l : List FaultRec} (hl : l ≠ []) (k : Nat) : k ≤ lowestClass l ↔ ∀ r ∈ l, k ≤ r.cls := by
  cases l with
  | nil => exact absurd rfl hl
  | cons a l => rw [lowestClass, le_foldl_min_cls_iff, List.forall_mem_cons]

/-- A record with no lower class before or after it has the lowest class. -/
theorem lowestClass_eq {a b : List FaultRec} {x : FaultRec} (ha : ∀ r ∈ a, x.cls ≤ r.cls) (hb : ∀ r ∈ b, x.cls ≤ r.cls) :
    lowestClass (a ++ x :: b) = x.cls := by
  have hiff := le_lowestClass_iff (l := a ++ x :: b) (by simp)
  apply Nat.le_antisymm
  · exact (hiff _).1 (Nat.le_refl _) x (by simp)
  · refine (hiff _).2 fun r hr => ?_
    rcases List.mem_append.1 hr with h | h
    · exact ha r h
    · rcases List.mem_cons.1 h with rfl | h
      · exact Nat.le_refl _
      · exact hb r h

/-! ### A full log -/

section
variable {l a b : List FaultRec} {x : FaultRec} (r : FaultRec)

/-- A full log replaces or drops a record. -/
theorem insertFault_full_lost (h : 64 ≤ l.length) : (insertFault l r).2 = true := by
  unfold insertFault
  rw [if_neg (Nat.not_lt.2 h)]
  split
  · rfl
  · split <;> rfl

/-- The oldest inactive record goes. -/
theorem insertFault_full_inactive (h : 64 ≤ l.length) (hl : l = a ++ x :: b) (hx : x.active = false)
    (ha : ∀ y ∈ a, y.active = true) : (insertFault l r).1 = a ++ b ++ [r] := by
  have hany : l.any (fun y => !y.active) = true := List.any_eq_true.2 ⟨x, by simp [hl], by simp [hx]⟩
  unfold insertFault
  rw [if_neg (Nat.not_lt.2 h), if_pos hany, hl, dropFirst_append_cons (fun y hy => by simp [ha y hy]) (by simp [hx])]

/-- With every record active the lowest class decides. -/
theorem insertFault_full_active (h : 64 ≤ l.length) (hact : ∀ y ∈ l, y.active = true) :
    (insertFault l r).1 =
      if lowestClass l < r.cls then dropFirst (fun y => y.cls == lowestClass l) l ++ [r] else l := by
  have hany : ¬ l.any (fun y => !y.active) = true := by simpa using hact
  unfold insertFault
  rw [if_neg (Nat.not_lt.2 h), if_neg hany]
  split <;> rfl

/-- The oldest record of the lowest class goes, where that class is below the new record's. -/
theorem insertFault_full_lower (h : 64 ≤ l.length) (hact : ∀ y ∈ l, y.active = true) (hl : l = a ++ x :: b)
    (hx : x.cls < r.cls) (ha : ∀ y ∈ a, x.cls < y.cls) (hb : ∀ y ∈ b, x.cls ≤ y.cls) :
    (insertFault l r).1 = a ++ b ++ [r] := by
  have hlow : lowestClass l = x.cls := by
    rw [hl]
    exact lowestClass_eq (fun y hy => Nat.le_of_lt (ha y hy)) hb
  have hdrop : dropFirst (fun y => y.cls == x.cls) l = a ++ b := by
    rw [hl]
    exact dropFirst_append_cons (fun y hy => beq_false_of_ne (Nat.ne_of_gt (ha y hy))) (by simp) b
  rw [insertFault_full_active r h hact, hlow, if_pos hx, hdrop]

/-- Where no record has a lower class, the new one is dropped. -/
theorem insertFault_full_dropped (h : 64 ≤ l.length) (hact : ∀ y ∈ l, y.active = true) (hc : ∀ y ∈ l, r.cls ≤ y.cls) :
    (insertFault l r).1 = l := by
  have hl : l ≠ [] := List.ne_nil_of_length_pos (by omega)
  rw [insertFault_full_active r h hact, if_neg (Nat.not_lt.2 ((le_lowestClass_iff hl _).2 hc))]

end

/-! ### A fault reaches the log -/

/-- A saturating counter reads one more, up to its largest value. -/
theorem get_inc_same (s : State) (f : Fld) : (s.inc f).get f = min (s.get f + 1) (2 ^ f.width - 1) := by
  have hpos : 0 < 2 ^ f.width := Nat.two_pow_pos _
  rw [State.inc_set, get_set_same, Nat.mod_eq_of_lt (by omega)]

/-- A fault code of class F0 to F2 in the catalogue is entered. -/
theorem exec_faultLog_eq_raise {s : State} {cls : Fin 5} {code : Nat} (detail : Nat) (hc : cls.val ≤ 2)
    (hcat : code ∈ catalogue cls.val) : exec (.faultLog cls code detail) s = .next (raiseFault s cls.val code detail) := by
  have h4 : cls.val ≠ 4 := by omega
  have h3 : cls.val ≠ 3 := by omega
  change execFaultLog cls code detail s = _
  simp [execFaultLog, inCatalogue, hcat, h4, h3]

/-- The fault counts do not move DEVTIME. -/
theorem inc_faultCnt_now (s : State) {cls : Nat} (hc : cls ≤ 4) : (s.inc (F.SYS_FAULT_CNT cls)).now = s.now :=
  get_inc_other s (by simp only [Fld.key]; omega)

/-- While its queue has room, queueing a reaction leaves the log and the registers. -/
theorem queueReaction_room {s : State} {cls : Nat} (code detail : Nat) (h : queueDepth s cls < 16) :
    (queueReaction s cls code detail).faults = s.faults ∧ (queueReaction s cls code detail).regs = s.regs := by
  unfold queueReaction
  rw [if_pos h]
  split <;> exact ⟨rfl, rfl⟩

/-- The first-fault latch does not count lost records. -/
theorem latchFirst_get_lost (s : State) (cls code detail : Nat) :
    (latchFirst s cls code detail).get F.SYS_FAULT_LOG_LOST = s.get F.SYS_FAULT_LOG_LOST := by
  unfold latchFirst
  split
  · rfl
  · simp only [get_getReg, State.set_regs]
    repeat rw [getReg_setReg_other _ _ (by decide)]

/-- R639: a new record that finds the log full is counted in LOST. -/
theorem logRecord_get_lost_of_full {s : State} {code detail : Nat} (cls : Nat) (active : Bool)
    (hnew : s.faults.any (fun r => r.is code detail) = false) (hfull : 64 ≤ s.faults.length) :
    (logRecord s cls code detail active).get F.SYS_FAULT_LOG_LOST =
      min (s.get F.SYS_FAULT_LOG_LOST + 1) (2 ^ F.SYS_FAULT_LOG_LOST.width - 1) := by
  obtain ⟨hfaults, hregs, -⟩ := faultTrigger_parts s cls
  unfold logRecord
  dsimp only
  rw [hfaults, if_neg (by simp [hnew]), if_pos (insertFault_full_lost _ hfull), get_inc_same]
  simp only [get_getReg, hregs]

section
variable {s : State} {cls code detail : Nat}

/-- After it is logged, neither the latch nor a queue with room touches the log or LOST again. -/
theorem raiseFault_log (hq : queueDepth s cls < 16) :
    (raiseFault s cls code detail).faults =
        (logRecord (s.inc (F.SYS_FAULT_CNT cls)) cls code detail (!faultIsEvent code detail)).faults ∧
      (raiseFault s cls code detail).get F.SYS_FAULT_LOG_LOST =
        (logRecord (s.inc (F.SYS_FAULT_CNT cls)) cls code detail (!faultIsEvent code detail)).get F.SYS_FAULT_LOG_LOST := by
  obtain ⟨hlf, hlr⟩ :=
    latchFirst_parts (logRecord (s.inc (F.SYS_FAULT_CNT cls)) cls code detail (!faultIsEvent code detail)) cls code detail
  have hroom : queueDepth (latchFirst (logRecord (s.inc (F.SYS_FAULT_CNT cls)) cls code detail
      (!faultIsEvent code detail)) cls code detail) cls < 16 := by
    rw [queueDepth, hlr, logRecord_reactions]
    exact hq
  obtain ⟨hqf, hqr⟩ := queueReaction_room code detail hroom
  refine ⟨hqf.trans hlf, ?_⟩
  exact (congrArg (getReg · F.SYS_FAULT_LOG_LOST) hqr).trans (latchFirst_get_lost _ cls code detail)

/-- A fault without a record of its own is inserted as a new record. -/
theorem raiseFault_faults_of_new (hc : cls ≤ 4) (hq : queueDepth s cls < 16)
    (hnew : s.faults.any (fun r => r.is code detail) = false) :
    (raiseFault s cls code detail).faults =
      (insertFault s.faults ⟨code, cls, !faultIsEvent code detail, false, 1, detail, s.now⟩).1 := by
  have hfaults : (s.inc (F.SYS_FAULT_CNT cls)).faults = s.faults := rfl
  rw [(raiseFault_log hq).1, logRecord_faults, hfaults, if_neg (by simp [hnew]), inc_faultCnt_now s hc]

/-- R639: a fault without a record of its own that finds the log full is counted in LOST. -/
theorem raiseFault_get_lost_of_full (hc : cls ≤ 4) (hq : queueDepth s cls < 16)
    (hnew : s.faults.any (fun r => r.is code detail) = false) (hfull : 64 ≤ s.faults.length) :
    (raiseFault s cls code detail).get F.SYS_FAULT_LOG_LOST =
      min (s.get F.SYS_FAULT_LOG_LOST + 1) (2 ^ F.SYS_FAULT_LOG_LOST.width - 1) := by
  have hcnt : (s.inc (F.SYS_FAULT_CNT cls)).get F.SYS_FAULT_LOG_LOST = s.get F.SYS_FAULT_LOG_LOST :=
    get_inc_other s (by simp only [Fld.key]; omega)
  rw [(raiseFault_log hq).2, logRecord_get_lost_of_full (s := s.inc (F.SYS_FAULT_CNT cls)) cls _ hnew hfull, hcnt]

end

/-- Settles O25: the fault is inserted as a new record (`raiseFault_faults_of_new`), and in a full log an inactive record, one of a
lower class or the new one itself is lost (`insertFault_full_inactive`, `_lower`, `_dropped`). -/
theorem fullLogReplaces : Obligations.FullLogReplaces := by
  intro s cls code detail hc hcat hq hlen hnone
  have hnew : s.faults.any (fun r => r.is code detail) = false := by
    rw [Bool.eq_false_iff, ne_eq, any_is_iff]
    rintro ⟨r, hr, h⟩
    exact hnone r hr h
  have hfull : 64 ≤ s.faults.length := Nat.le_of_eq hlen.symm
  have hcls : cls.val ≤ 4 := by omega
  refine ⟨_, exec_faultLog_eq_raise detail hc hcat, raiseFault_get_lost_of_full hcls hq hnew hfull, ?_⟩
  rw [raiseFault_faults_of_new hcls hq hnew]
  refine ⟨fun a b x hl hx ha => insertFault_full_inactive _ hfull hl hx ha, fun hact => ⟨?_, ?_⟩⟩
  · intro a b x hl hx ha hb
    exact insertFault_full_lower _ hfull hact hl hx ha hb
  · intro hle
    exact insertFault_full_dropped _ hfull hact hle

end Sys2Proof.Machine

/-! ## What every command keeps

The one case split over the commands: all but SAF_ARM, RST_REQ_ACCEPT and AUTO_RESTART_EXPIRY keep everything (`Keeps`), and these
three keep what a step promises (`Holds`). O3 to O7 follow. -/
namespace Sys2Proof.Machine

/-- The commands that may arm the block or switch an output on. -/
def Instr.releases : Instr → Bool
  | .safArm _ _ | .rstReqAccept _ _ _ | .autoRestartExpiry _ => true
  | _ => false

/-- Every other command keeps everything; each has its own lemma (Laws/Keeps*.lean). -/
theorem exec_keeps {c : Instr} {z s : State} (hc : Instr.releases c = false) (hz : Keeps z s) : OutKeeps z (exec c s) := by
  cases c with
  | safArm _ _ => cases hc
  | rstReqAccept _ _ _ => cases hc
  | autoRestartExpiry _ => cases hc
  | railsValid => exact execRailsValid_keeps hz
  | powerOnReset => exact execPowerOnReset_keeps hz
  | railTrip _ => exact execRailTrip_keeps _ hz
  | mainResetRelease => exact execMainResetRelease_keeps hz
  | xtalAonStable => exact execXtalAonStable_keeps hz
  | xtalAonTimeout => exact execXtalAonTimeout_keeps hz
  | clocksLocked _ _ _ _ _ => exact execClocksLocked_keeps _ _ _ _ _ hz
  | imageCheckDone _ _ => exact execImageCheckDone_keeps _ _ hz
  | herdFirmwareRunning => exact execHerdFirmwareRunning_keeps hz
  | rlTrainingDone _ _ _ _ _ => exact execRlTrainingDone_keeps _ _ _ _ _ hz
  | excitationSettled _ _ => exact execExcitationSettled_keeps _ _ hz
  | refInLoss => exact execRefInLoss_keeps hz
  | refInQualified _ => exact execRefInQualified_keeps _ hz
  | pllUnlock _ => exact execPllUnlock_keeps _ hz
  | clockCrossMeasure _ _ _ => exact execClockCrossMeasure_keeps _ _ _ hz
  | clkRefCfgWrite _ => exact execClkRefCfgWrite_keeps _ hz
  | wake _ _ => exact execWake_keeps _ _ hz
  | sleepEntryDone => exact execSleepEntryDone_keeps hz
  | aonAlarm => exact execAonAlarm_keeps hz
  | stateChangeDone => exact execStateChangeDone_keeps hz
  | deviceReset => exact execDeviceReset_keeps hz
  | perstAssert => exact execPerstAssert_keeps hz
  | perstRelease => exact execPerstRelease_keeps hz
  | pcieConfigReady => exact execPcieConfigReady_keeps hz
  | cmdCtrlWrite _ => exact execCmdCtrlWrite_keeps _ hz
  | ringDrainDone => exact execRingDrainDone_keeps hz
  | cmdDb0 _ => exact execCmdDb0_keeps _ hz
  | commandFetch _ _ => exact execCommandFetch_keeps _ _ hz
  | bufferReadDone _ _ _ _ => exact execBufferReadDone_keeps _ _ _ _ hz
  | bufferTimeout _ => exact execBufferTimeout_keeps _ hz
  | completionWrite _ _ => exact execCompletionWrite_keeps _ _ hz
  | cmdDb1 _ => exact execCmdDb1_keeps _ hz
  | cmpNotifyTimer => exact execCmpNotifyTimer_keeps hz
  | nonceExpiry => exact execNonceExpiry_keeps hz
  | nop _ _ => exact execNop_keeps _ _ hz
  | getInfo _ _ => exact execGetInfo_keeps _ _ hz
  | setState _ _ => exact execSetState_keeps _ _ hz
  | reset _ _ => exact execReset_keeps _ _ hz
  | setPowerCap _ _ => exact execSetPowerCap_keeps _ _ hz
  | abort _ _ => exact execAbort_keeps _ _ hz
  | herdSwitch _ _ => exact execHerdSwitch_keeps _ _ hz
  | loadScanProg _ _ => exact execLoadScanProg_keeps _ _ hz
  | scanStart _ _ => exact execScanStart_keeps _ _ hz
  | scanStop _ _ => exact execScanStop_keeps _ _ hz
  | scanSwitch _ _ => exact execScanSwitch_keeps _ _ hz
  | setTiming _ _ => exact execSetTiming_keeps _ _ hz
  | setPointRing _ _ => exact execSetPointRing_keeps _ _ hz
  | yardGrant _ _ => exact execYardGrant_keeps _ _ hz
  | yardRevoke _ _ => exact execYardRevoke_keeps _ _ hz
  | yardRevokeDone => exact execYardRevokeDone_keeps hz
  | yardQuery _ _ => exact execYardQuery_keeps _ _ hz
  | thmConfig _ _ _ => exact execThmConfig_keeps _ _ _ hz
  | thmLoadCorr _ _ => exact execThmLoadCorr_keeps _ _ hz
  | thmSelectCorr _ _ => exact execThmSelectCorr_keeps _ _ hz
  | thmFfc _ _ => exact execThmFfc_keeps _ _ hz
  | thmLoadCoef _ _ => exact execThmLoadCoef_keeps _ _ hz
  | thmSelectCoef _ _ => exact execThmSelectCoef_keeps _ _ hz
  | thmLoadReglut _ _ => exact execThmLoadReglut_keeps _ _ hz
  | thmSync _ _ => exact execThmSync_keeps _ _ hz
  | safLoadConfig _ _ => exact execSafLoadConfig_keeps _ _ hz
  | safCommit _ _ => exact execSafCommit_keeps _ _ hz
  | safDisarm _ _ => exact execSafDisarm_keeps _ _ hz
  | safeLockoutClear _ _ => exact execSafeLockoutClear_keeps _ _ hz
  | acqConfig _ _ => exact execAcqConfig_keeps _ _ hz
  | acqArm _ _ => exact execAcqArm_keeps _ _ hz
  | acqDisarm _ _ => exact execAcqDisarm_keeps _ _ hz
  | acqTrigger _ _ => exact execAcqTrigger_keeps _ _ hz
  | acqReadLog _ _ => exact execAcqReadLog_keeps _ _ hz
  | calGroom _ _ => exact execCalGroom_keeps _ _ hz
  | groomDone _ _ _ _ _ => exact execGroomDone_keeps _ _ _ _ _ hz
  | autoGroomStart _ => exact execAutoGroomStart_keeps _ hz
  | calStore _ _ => exact execCalStore_keeps _ _ hz
  | calRead _ _ => exact execCalRead_keeps _ _ hz
  | calSpareEngage _ _ => exact execCalSpareEngage_keeps _ _ hz
  | calSpareRelease _ _ => exact execCalSpareRelease_keeps _ _ hz
  | prtConfig _ _ => exact execPrtConfig_keeps _ _ hz
  | prtRetrain _ _ => exact execPrtRetrain_keeps _ _ hz
  | trigbusMeasure _ _ => exact execTrigbusMeasure_keeps _ _ hz
  | diagReadFaults _ _ => exact execDiagReadFaults_keeps _ _ hz
  | diagClearFaults _ _ => exact execDiagClearFaults_keeps _ _ hz
  | diagImpedance _ _ => exact execDiagImpedance_keeps _ _ hz
  | impedanceCheckDone _ _ _ => exact execImpedanceCheckDone_keeps _ _ _ hz
  | diagSelfTest _ _ => exact execDiagSelfTest_keeps _ _ hz
  | diagReadCounters _ _ => exact execDiagReadCounters_keeps _ _ hz
  | secGetIdentity _ _ => exact execSecGetIdentity_keeps _ _ hz
  | secGetNonce _ _ => exact execSecGetNonce_keeps _ _ hz
  | secFwStage _ _ => exact execSecFwStage_keeps _ _ hz
  | secFwActivate _ _ => exact execSecFwActivate_keeps _ _ hz
  | secAttest _ _ => exact execSecAttest_keeps _ _ hz
  | secReprovision _ _ => exact execSecReprovision_keeps _ _ hz
  | mgmtCommand _ _ _ _ => exact execMgmtCommand_keeps _ _ _ _ hz
  | mgmtStatusRead _ _ => exact execMgmtStatusRead_keeps _ _ hz
  | mgmtCompletionRead _ _ => exact execMgmtCompletionRead_keeps _ _ hz
  | mgmtRegRead _ _ _ _ => exact execMgmtRegRead_keeps _ _ _ _ hz
  | mgmtReset _ _ => exact execMgmtReset_keeps _ _ hz
  | mgmtRead _ => exact execMgmtRead_keeps _ hz
  | mgmtHeldExecute => exact execMgmtHeldExecute_keeps hz
  | slotStart _ => exact execSlotStart_keeps _ hz
  | frameBoundary => exact execFrameBoundary_keeps hz
  | shotEnd _ _ _ => exact execShotEnd_keeps _ _ _ hz
  | rxfChCfgWrite _ _ _ => exact execRxfChCfgWrite_keeps _ _ _ hz
  | returnEdge _ _ _ => exact execReturnEdge_keeps _ _ _ hz
  | eventWordFormed _ _ _ _ _ _ => exact execEventWordFormed_keeps _ _ _ _ _ _ hz
  | bridgeFrame _ _ _ _ _ => exact execBridgeFrame_keeps _ _ _ _ _ hz
  | apdbCtrlWrite _ => exact execApdbCtrlWrite_keeps _ hz
  | apdbSettledChange _ _ => exact execApdbSettledChange_keeps _ _ hz
  | apdbTrip _ => exact execApdbTrip_keeps _ hz
  | clusterFeFault _ => exact execClusterFeFault_keeps _ hz
  | spareRestartDone => exact execSpareRestartDone_keeps hz
  | rxfObsWrite _ _ => exact execRxfObsWrite_keeps _ _ hz
  | sliceAverageDone _ _ => exact execSliceAverageDone_keeps _ _ hz
  | clusterRestartStart _ => exact execClusterRestartStart_keeps _ hz
  | clusterRestartDone _ => exact execClusterRestartDone_keeps _ hz
  | tdcWinProfWrite _ _ => exact execTdcWinProfWrite_keeps _ _ hz
  | ppsEdge _ => exact execPpsEdge_keeps _ hz
  | ppsAlignWrite _ => exact execPpsAlignWrite_keeps _ hz
  | ppsLost => exact execPpsLost_keeps hz
  | fmCtrlWrite _ _ => exact execFmCtrlWrite_keeps _ _ hz
  | fmGateEnd _ _ => exact execFmGateEnd_keeps _ _ hz
  | hgeCodeWrite _ _ => exact execHgeCodeWrite_keeps _ _ hz
  | hgeDitherWrite _ => exact execHgeDitherWrite_keeps _ hz
  | detectionDone _ _ => exact execDetectionDone_keeps _ _ hz
  | recordDma _ => exact execRecordDma_keeps _ hz
  | hgeRingRptrWrite _ _ => exact execHgeRingRptrWrite_keeps _ _ hz
  | stallMoveDone _ => exact execStallMoveDone_keeps _ hz
  | backgroundWork => exact execBackgroundWork_keeps hz
  | farReadFail _ => exact execFarReadFail_keeps _ hz
  | uncorrectableError _ => exact execUncorrectableError_keeps _ hz
  | yrdMapCfgWrite _ => exact execYrdMapCfgWrite_keeps _ hz
  | heatModelTick => exact execHeatModelTick_keeps hz
  | lbtMean _ _ => exact execLbtMean_keeps _ _ hz
  | rechargeStart _ => exact execRechargeStart_keeps _ hz
  | rechargeEnd _ _ _ _ => exact execRechargeEnd_keeps _ _ _ _ hz
  | bankOvervoltage _ _ => exact execBankOvervoltage_keeps _ _ hz
  | sweepPeriod => exact execSweepPeriod_keeps hz
  | emiBankRetry _ => exact execEmiBankRetry_keeps _ hz
  | emiBankEnWrite _ => exact execEmiBankEnWrite_keeps _ hz
  | strayCurrent _ _ => exact execStrayCurrent_keeps _ _ hz
  | emiInhibitClear => exact execEmiInhibitClear_keeps hz
  | emiFlCtrlWrite _ => exact execEmiFlCtrlWrite_keeps _ hz
  | emiFlDutyWrite _ _ => exact execEmiFlDutyWrite_keeps _ _ hz
  | floodOnTime _ _ => exact execFloodOnTime_keeps _ _ hz
  | floodOpenCheck _ _ => exact execFloodOpenCheck_keeps _ _ hz
  | floodDiagTimeout _ => exact execFloodDiagTimeout_keeps _ hz
  | floodSwitchOff _ _ => exact execFloodSwitchOff_keeps _ _ hz
  | thmCtrlWrite _ => exact execThmCtrlWrite_keeps _ hz
  | thermalFrameStart => exact execThermalFrameStart_keeps hz
  | thermalFrameComplete _ => exact execThermalFrameComplete_keeps _ hz
  | thermalFrameDelivery => exact execThermalFrameDelivery_keeps hz
  | thmRingPtrWrite _ => exact execThmRingPtrWrite_keeps _ hz
  | fpaBiasLimit => exact execFpaBiasLimit_keeps hz
  | pathSettled => exact execPathSettled_keeps hz
  | settleTimeout => exact execSettleTimeout_keeps hz
  | syncDecEdge => exact execSyncDecEdge_keeps hz
  | monitorOutput _ _ _ => exact execMonitorOutput_keeps _ _ _ hz
  | coefCrossfadeEnd => exact execCoefCrossfadeEnd_keeps hz
  | ffcShutterTimeout => exact execFfcShutterTimeout_keeps hz
  | ffcSumDone => exact execFfcSumDone_keeps hz
  | shutterStuck => exact execShutterStuck_keeps hz
  | autoFfcStart => exact execAutoFfcStart_keeps hz
  | hkConversion _ _ => exact execHkConversion_keeps _ _ hz
  | hkInjectRequest _ _ => exact execHkInjectRequest_keeps _ _ hz
  | hkInjection _ _ => exact execHkInjection_keeps _ _ hz
  | hkcMmClrWrite _ _ => exact execHkcMmClrWrite_keeps _ _ hz
  | hkSelfcal _ => exact execHkSelfcal_keeps _ hz
  | hkSelfcalDone _ _ => exact execHkSelfcalDone_keeps _ _ hz
  | refBufferOn _ => exact execRefBufferOn_keeps _ hz
  | heartbeat _ => exact execHeartbeat_keeps _ hz
  | fselAccept _ _ => exact execFselAccept_keeps _ _ hz
  | fsetDisagree => exact execFsetDisagree_keeps hz
  | fsetOverlapEnd _ => exact execFsetOverlapEnd_keeps _ hz
  | coverageLapse _ => exact execCoverageLapse_keeps _ hz
  | coverageTrip _ _ => exact execCoverageTrip_keeps _ _ hz
  | evaluatorSelfTest _ _ _ => exact execEvaluatorSelfTest_keeps _ _ _ hz
  | testPulse _ _ _ _ => exact execTestPulse_keeps _ _ _ _ hz
  | readbackFault _ => exact execReadbackFault_keeps _ hz
  | edmWindowExpiry _ => exact execEdmWindowExpiry_keeps _ hz
  | guardAccept _ _ _ _ => exact execGuardAccept_keeps _ _ _ _ hz
  | guardDiscrepancy _ => exact execGuardDiscrepancy_keeps _ hz
  | rstReqJam => exact execRstReqJam_keeps hz
  | clearableExpiry => exact execClearableExpiry_keeps hz
  | f3Fault _ _ => exact execF3Fault_keeps _ _ hz
  | f3CauseCleared _ _ => exact execF3CauseCleared_keeps _ _ hz
  | tstModeRise _ => exact execTstModeRise_keeps _ hz
  | debugPortOpen => exact execDebugPortOpen_keeps hz
  | identityKeyReady => exact execIdentityKeyReady_keeps hz
  | announce _ _ _ _ _ _ => exact execAnnounce_keeps _ _ _ _ _ _ hz
  | mirror _ _ _ _ _ _ _ _ _ _ _ => exact execMirror_keeps _ _ _ _ _ _ _ _ _ _ _ hz
  | keepalive => exact execKeepalive_keeps hz
  | fmark _ _ => exact execFmark_keeps _ _ hz
  | twinStartTimeout => exact execTwinStartTimeout_keeps hz
  | partnerSilence => exact execPartnerSilence_keeps hz
  | beacon => exact execBeacon_keeps hz
  | query => exact execQuery_keeps hz
  | beaconEchoTimeout => exact execBeaconEchoTimeout_keeps hz
  | queryEchoTimeout => exact execQueryEchoTimeout_keeps hz
  | halterStandby => exact execHalterStandby_keeps hz
  | halterTakeover => exact execHalterTakeover_keeps hz
  | unsureClear => exact execUnsureClear_keeps hz
  | halterClaim => exact execHalterClaim_keeps hz
  | halterRelease => exact execHalterRelease_keeps hz
  | triggerSample _ => exact execTriggerSample_keeps _ hz
  | trigInEdge _ => exact execTrigInEdge_keeps _ hz
  | trigger _ _ _ => exact execTrigger_keeps _ _ _ hz
  | measure => exact execMeasure_keeps hz
  | measureReply _ _ => exact execMeasureReply_keeps _ _ hz
  | captureEnd _ => exact execCaptureEnd_keeps _ hz
  | recordingOverrun _ => exact execRecordingOverrun_keeps _ hz
  | recordingClosed => exact execRecordingClosed_keeps hz
  | rearmEnd => exact execRearmEnd_keeps hz
  | irqEntry => exact (execIrqEntry_keeps hz :)
  | herdEoi => exact execHerdEoi_keeps hz
  | irqExit => exact (execIrqExit_keeps hz :)
  | msixSend => exact execMsixSend_keeps hz
  | irqHostEoi _ => exact execIrqHostEoi_keeps _ hz
  | msixUnblock _ => exact execMsixUnblock_keeps _ hz
  | irqSwset _ _ => exact execIrqSwset_keeps _ _ hz
  | irqSwclr _ _ => exact execIrqSwclr_keeps _ _ hz
  | pcieLinkLost => exact execPcieLinkLost_keeps hz
  | functionLevelReset => exact execFunctionLevelReset_keeps hz
  | pmeTurnOff => exact execPmeTurnOff_keeps hz
  | pmeWaitExpiry => exact execPmeWaitExpiry_keeps hz
  | l1Entry _ => exact execL1Entry_keeps _ hz
  | peWakeTimeout => exact execPeWakeTimeout_keeps hz
  | prtDetectProbe _ => exact execPrtDetectProbe_keeps _ hz
  | trn _ _ _ _ => exact execTrn_keeps _ _ _ _ hz
  | cap _ => exact execCap_keeps _ hz
  | ping _ => exact execPing_keeps _ hz
  | echo _ _ => exact execEcho_keeps _ _ hz
  | keyx _ _ _ => exact execKeyx_keeps _ _ _ hz
  | prtTrainingFail => exact execPrtTrainingFail_keeps hz
  | prtRetry => exact execPrtRetry_keeps hz
  | wordLockLoss _ => exact execWordLockLoss_keeps _ hz
  | prtLinkLoss => exact execPrtLinkLoss_keeps hz
  | doze => exact execDoze_keeps hz
  | dozeExit => exact execDozeExit_keeps hz
  | dozeKeepalive => exact execDozeKeepalive_keeps hz
  | herdCompareMismatch _ => exact execHerdCompareMismatch_keeps _ hz
  | herdWatchdogExpiry => exact execHerdWatchdogExpiry_keeps hz
  | faultLog _ _ _ => exact execFaultLog_keeps _ _ _ hz
  | faultReactionRun => exact execFaultReactionRun_keeps hz
  | f4Fault _ _ => exact execF4Fault_keeps _ _ hz
  | fatalResetTimer => exact execFatalResetTimer_keeps hz
  | wideLoRead _ _ => exact execWideLoRead_keeps _ _ hz
  | wideLoWrite _ _ _ => exact execWideLoWrite_keeps _ _ _ hz
  | wideHiWrite _ _ _ => exact execWideHiWrite_keeps _ _ _ hz
  | registerWrite _ _ _ _ _ _ => exact execRegisterWrite_keeps _ _ _ _ _ _ hz
  | aonPowerLoss => exact execAonPowerLoss_keeps hz
  | edmAccept _ _ => exact execEdmAccept_keeps _ _ hz
  | pcieLinkUp _ _ _ => exact execPcieLinkUp_keeps _ _ _ hz
  | pcieConfigWrite _ _ _ _ => exact execPcieConfigWrite_keeps _ _ _ _ hz
  | pllRelock _ => exact execPllRelock_keeps _ hz
  | fpaResetRelease => exact execFpaResetRelease_keeps hz
  | refBufferOff _ => exact execRefBufferOff_keeps _ hz
  | calStoreDone _ => exact execCalStoreDone_keeps _ hz
  | selfTestDone _ => exact execSelfTestDone_keeps _ hz
  | fwStageDone _ => exact execFwStageDone_keeps _ hz
  | fwActivateDone => exact execFwActivateDone_keeps hz
  | switchOverDone => exact execSwitchOverDone_keeps hz
  | trigbusMeasureDone => exact execTrigbusMeasureDone_keeps hz
  | prtEyeDone _ _ _ => exact execPrtEyeDone_keeps _ _ _ hz
  | keepaliveAccepted _ _ => exact execKeepaliveAccepted_keeps _ _ hz

/-- Arming switches no output on. -/
theorem execSafArm_on {s t : State} {p : Port} {tag : Nat} (e : execSafArm p tag s = .next t) (d : Side) (n : Nat) (hn : n < 4)
    (h : (t.ev d).pair n = .on) : (s.ev d).pair n = .on := by
  rcases withCmd_cases e with rfl | ⟨c, -, -, ⟨st, -, rfl⟩ | ⟨-, rfl⟩⟩
  · exact h
  · exact (refuse_keeps c st (checkDetail st) (Keeps.refl s)).on d n hn h
  · split at h
    · exact (finishOk_keeps _ _ (Keeps.refl s)).on d n hn h
    · dsimp only at h
      have hon := (finishOk_keeps _ _ (settle_keeps (Keeps.refl _))).on d n hn h
      cases d <;> exact hon

theorem execAutoRestartExpiry_cases {s t : State} {p : Fin 4} (e : execAutoRestartExpiry p s = .next t) :
    t = s ∨ (s.saf.armed = true ∧ s.mode = .scan) ∧ ∃ c, t = releasePair c true s p := by
  unfold execAutoRestartExpiry at e
  split at e
  · split at e
    next h =>
      simp only [Bool.and_eq_true, beq_iff_eq] at h
      cases e
      exact .inr ⟨h.symm, _, rfl⟩
    · cases e; exact .inl rfl
  · cases e; exact .inl rfl

theorem releasePairs_armed (c : SafCfg) (auto : Bool) (l : List Nat) (s : State) :
    (l.foldl (releasePair c auto) s).saf.armed = s.saf.armed := by
  induction l generalizing s with
  | nil => rfl
  | cons n l ih => rw [List.foldl_cons, ih, (releasePair_armed c auto s n).1]

/-- An accepted edge keeps everything, but for the release of pairs while armed in SCAN. -/
theorem resetEdge_cases (s : State) :
    Keeps s (resetEdge s) ∨ (s.saf.armed = true ∧ s.mode = .scan) ∧ (resetEdge s).saf.armed = s.saf.armed := by
  have h := Keeps.refl s
  have k : Keeps s ((s.inc F.SAF_RST_ACCEPT_CNT).set F.SAF_RST_EDGE 1) := set_keeps _ _ (inc_keeps _ h)
  unfold resetEdge
  dsimp only
  split
  · exact .inl (Keeps.ite (Keeps.ite (inc_keeps _ h) (clearLockout_keeps k)) k)
  · exact .inl (Keeps.ite (settle_keeps (setMode_keeps _ k)) k)
  next hm =>
    split
    next c _ =>
      split
      next ha => exact .inr ⟨⟨ha, hm⟩, releasePairs_armed c false _ _⟩
      · exact .inl k
    · exact .inl k
  · exact .inl k

/-- Every command keeps what a step promises. -/
theorem exec_holds {c : Instr} {s t : State} (e : exec c s = .next t) : Holds s t := by
  by_cases hc : Instr.releases c = false
  · exact ((exec_keeps hc (Keeps.refl s)).keeps t e).toHolds
  · cases c with
    | safArm p tag => exact execSafArm_holds p tag e
    | rstReqAccept a b skew => exact execRstReqAccept_holds a b skew e
    | autoRestartExpiry p => exact execAutoRestartExpiry_holds p e
    | _ => exact absurd rfl hc

/-- A press of RST_REQ keeps everything, but for the release of pairs while armed in SCAN. -/
theorem execRstReqAccept_cases {s t : State} {a b skew : Nat} (e : execRstReqAccept a b skew s = .next t) :
    Keeps s t ∨ (s.saf.armed = true ∧ s.mode = .scan) ∧ t.saf.armed = s.saf.armed := by
  have k := set_keeps F.SAF_RST_LEVEL 0 (Keeps.refl s)
  unfold execRstReqAccept at e
  dsimp only at e
  split at e
  · cases e
    exact (resetEdge_cases _).imp_left k.trans
  · split at e <;> cases e
    · exact .inl k
    · exact .inl (inc_keeps _ k)

/-- What leads to a state in which an output has come on. -/
theorem exec_switchesOn {c : Instr} {s t : State} (e : exec c s = .next t) {d : Side} {n : Nat} (hn : n < 4)
    (hon : (t.ev d).pair n = .on) (hoff : (s.ev d).pair n ≠ .on) :
    ((∃ a b skew, c = .rstReqAccept a b skew) ∨ ∃ p, c = .autoRestartExpiry p) ∧ s.saf.armed = true ∧ s.mode = .scan := by
  by_cases hc : Instr.releases c = false
  · exact absurd (((exec_keeps hc (Keeps.refl s)).keeps t e).on d n hn hon) hoff
  · cases c with
    | safArm p tag => exact absurd (execSafArm_on e d n hn hon) hoff
    | rstReqAccept a b skew =>
      rcases execRstReqAccept_cases e with k | ⟨hs, -⟩
      · exact absurd (k.on d n hn hon) hoff
      · exact ⟨.inl ⟨a, b, skew, rfl⟩, hs⟩
    | autoRestartExpiry p =>
      rcases execAutoRestartExpiry_cases e with rfl | ⟨hs, -⟩
      · exact absurd hon hoff
      · exact ⟨.inr ⟨p, rfl⟩, hs⟩
    | _ => exact absurd rfl hc

theorem Holds.inv {s t : State} (h : Holds s t) (hs : s.Inv) : t.Inv :=
  ⟨h.canonical hs.canonical, h.outputs hs.outputs, h.log hs.log, h.queues hs.queues⟩

/-- The invariant does not speak of the waiting commands. -/
theorem State.Inv.withPending {s : State} (h : s.Inv) (l : List Instr) : State.Inv { s with pending := l } :=
  ⟨h.canonical, fun d n hn hon => h.outputs d n hn (by cases d <;> exact hon), h.log, h.queues⟩

/-- Settles O3: a command keeps what a step promises (`exec_holds`), and so does a tick (`tick_keeps`). -/
theorem invariantKeptByEveryStep : Obligations.InvariantKeptByEveryStep := by
  intro s t hinv e
  unfold step at e
  split at e
  next c rest _ => exact (exec_holds e).inv (hinv.withPending rest)
  · cases e
    exact (tick_keeps (Keeps.refl s)).toHolds.inv hinv

/-- Settles O5: of the promises of a step, the queue and what was sent. -/
theorem queueAndSentAreKept : Obligations.QueueAndSentAreKept := by
  intro c s t e
  have h := exec_holds e
  exact ⟨h.pending, h.sent⟩

/-- Settles O6, by the one case split over the commands (`exec_switchesOn`). -/
theorem outputsSwitchOnOnlyByReset : Obligations.OutputsSwitchOnOnlyByReset := by
  intro c s t d n hn e hon hoff
  exact exec_switchesOn e hn hon hoff

/-- Settles O7: of the three commands that do not keep everything, the two releases of pairs arm nothing. -/
theorem onlyArmCommandArms : Obligations.OnlyArmCommandArms := by
  intro c s t e harmed
  by_cases hc : Instr.releases c = false
  · exact .inl (((exec_keeps hc (Keeps.refl s)).keeps t e).armed harmed)
  · cases c with
    | safArm p tag => exact .inr ⟨p, tag, rfl⟩
    | rstReqAccept a b skew =>
      rcases execRstReqAccept_cases e with k | ⟨hs, -⟩
      · exact .inl (k.armed harmed)
      · exact .inl hs.1
    | autoRestartExpiry p =>
      rcases execAutoRestartExpiry_cases e with rfl | ⟨hs, -⟩
      · exact .inl harmed
      · exact .inl hs.1
    | _ => exact absurd rfl hc

/-- Settles O1: both branches of `step`. -/
theorem frontCommandRuns : Obligations.FrontCommandRuns := by
  refine ⟨fun c rest s h => ?_, fun s h => ?_⟩
  · rw [step, h]
  · rw [step, h]

/-- Settles O2: a tick writes the two time counters (`tick`), and without slewing DEVTIME gains one (`slewTick`). -/
theorem idleTickCounts : Obligations.IdleTickCounts := by
  intro s h hmode hslew
  have hoff : (s.mode == .off) = false := by simpa using hmode
  have htick : slewTick s.sys = (1, { s.sys with slewCount := 0 }) := if_pos hslew
  refine ⟨tick s, by rw [step, h], ?_, ?_, ?_⟩
  · rw [tick, hoff, htick]
    exact (get_set_other _ _ (by decide)).trans (get_set_same s F.TDC_DEVTIME _)
  · rw [tick, hoff]
    exact (((RegFrame.refl _ s).set _ (by simp)).set _ (by simp)).other rfl
  · rw [tick, hoff]
    exact ⟨rfl, rfl, rfl, rfl, rfl⟩

/-- Settles O4: at reset the store and the log are empty, no reaction waits and every pair is disabled. -/
theorem resetHasInvariant : Obligations.ResetHasInvariant := by
  refine ⟨rfl, fun d n hn hon => ?_, Nat.zero_le _, fun cls => Nat.zero_le _⟩
  exact absurd hon (reset_pairs State.reset rfl d n hn)

/-- Settles O60: two evaluations of the bitwise CRC. -/
theorem crcCheckValue : Obligations.CrcCheckValue := by
  exact ⟨by decide +kernel, rfl⟩

end Sys2Proof.Machine

/-! ## Every command but a register write completes

`Answers` says that an outcome is a next state. Most commands answer by their shape alone, and those that read the state in a match
have a lemma each; the case split over the commands assembles them. -/
namespace Sys2Proof.Machine

/-- An outcome is a next state, no stop. -/
def Answers (o : Host.Outcome State Fault Refusal) : Prop := ∃ t, o = .next t

theorem Answers.next (t : State) : Answers (.next t) := ⟨t, rfl⟩

theorem Answers.ite {c : Prop} [Decidable c] {a b : Host.Outcome State Fault Refusal} (ha : Answers a) (hb : Answers b) :
    Answers (if c then a else b) := by
  split <;> assumption

/-- A command of the rings or the management port completes, whether it waits, is refused or runs. -/
theorem withCmd_answers (s : State) (p : Port) (tag op : Nat) (check : State → Cmd → Option Nat) (run : State → Cmd → State) :
    Answers (withCmd s p tag op check run) := by
  unfold withCmd
  repeat' split
  all_goals exact .next _

theorem execClocksLocked_answers (xref core time mem safb : Bool) (s : State) :
    Answers (execClocksLocked xref core time mem safb s) := by
  unfold execClocksLocked
  repeat' split
  all_goals exact .next _

theorem execExcitationSettled_answers (apdOk : Bool) (thermal : ExciteEnd) (s : State) :
    Answers (execExcitationSettled apdOk thermal s) := by
  unfold execExcitationSettled
  dsimp only
  repeat' split
  all_goals exact .next _

theorem execPllUnlock_answers (clock : Clock) (s : State) : Answers (execPllUnlock clock s) := by
  unfold execPllUnlock
  repeat' split
  all_goals exact .next _

theorem execStateChangeDone_answers (s : State) : Answers (execStateChangeDone s) := by
  unfold execStateChangeDone
  repeat' split
  all_goals exact .next _

theorem execBufferReadDone_answers (port : Port) (tag : Nat) (err : Bool) (data : List Byte) (s : State) :
    Answers (execBufferReadDone port tag err data s) := by
  unfold execBufferReadDone
  repeat' split
  all_goals exact .next _

theorem execBufferTimeout_answers (tag : Nat) (s : State) : Answers (execBufferTimeout tag s) := by
  unfold execBufferTimeout
  repeat' split
  all_goals exact .next _

theorem execCompletionWrite_answers (port : Port) (err : Bool) (s : State) : Answers (execCompletionWrite port err s) := by
  unfold execCompletionWrite
  repeat' split
  all_goals exact .next _

theorem execGroomDone_answers (groom : Nat) (meas : List ClusterMeas) (sb : List (List (Nat × Nat))) (zero pzero : Nat × Nat) (s : State) :
    Answers (execGroomDone groom meas sb zero pzero s) := by
  unfold execGroomDone
  repeat' split
  all_goals exact .next _

theorem execMgmtRead_answers (complete : Bool) (s : State) : Answers (execMgmtRead complete s) := by
  unfold execMgmtRead
  repeat' split
  all_goals exact .next _

theorem execMgmtHeldExecute_answers (s : State) : Answers (execMgmtHeldExecute s) := by
  unfold execMgmtHeldExecute
  repeat' split
  all_goals exact .next _

theorem execReturnEdge_answers (ch : Fin 1024) (coarse tap : Nat) (s : State) : Answers (execReturnEdge ch coarse tap s) := by
  unfold execReturnEdge
  dsimp only
  repeat' split
  all_goals exact .next _

theorem execEventWordFormed_answers (ch : Fin 1024) (width : Nat) (t1 : Bool) (own others : List Overload) (reference : Bool) (s : State) :
    Answers (execEventWordFormed ch width t1 own others reference s) := by
  unfold execEventWordFormed
  dsimp only
  repeat' split
  all_goals exact .next _

theorem execSliceAverageDone_answers (slice : Fin 32) (sums : List Nat) (s : State) :
    Answers (execSliceAverageDone slice sums s) := by
  unfold execSliceAverageDone
  dsimp only
  repeat' split
  all_goals exact .next _

theorem execPpsEdge_answers (phase : Fin 80) (s : State) : Answers (execPpsEdge phase s) := by
  unfold execPpsEdge
  dsimp only
  repeat' split
  all_goals exact .next _

theorem execDetectionDone_answers (dir corrected : Nat) (s : State) : Answers (execDetectionDone dir corrected s) := by
  unfold execDetectionDone
  repeat' split
  all_goals exact .next _

theorem execStallMoveDone_answers (stall : Nat) (s : State) : Answers (execStallMoveDone stall s) := by
  unfold execStallMoveDone
  repeat' split
  all_goals exact .next _

theorem execUncorrectableError_answers (stall : Nat) (s : State) : Answers (execUncorrectableError stall s) := by
  unfold execUncorrectableError
  repeat' split
  all_goals exact .next _

theorem execBankOvervoltage_answers (bank : Fin 8) (code : Nat) (s : State) : Answers (execBankOvervoltage bank code s) := by
  unfold execBankOvervoltage
  dsimp only
  repeat' split
  all_goals exact .next _

theorem execFloodOnTime_answers (string : Fin 4) (start : Bool) (s : State) : Answers (execFloodOnTime string start s) := by
  unfold execFloodOnTime
  dsimp only
  repeat' split
  all_goals exact .next _

theorem execFloodOpenCheck_answers (string : Fin 4) (sample : Nat) (s : State) :
    Answers (execFloodOpenCheck string sample s) := by
  unfold execFloodOpenCheck
  dsimp only
  repeat' split
  all_goals exact .next _

theorem execThermalFrameComplete_answers (sums : List Int) (s : State) : Answers (execThermalFrameComplete sums s) := by
  unfold execThermalFrameComplete
  repeat' split
  all_goals exact .next _

theorem execThermalFrameDelivery_answers (s : State) : Answers (execThermalFrameDelivery s) := by
  unfold execThermalFrameDelivery
  repeat' split
  all_goals exact .next _

theorem execPathSettled_answers (s : State) : Answers (execPathSettled s) := by
  unfold execPathSettled
  repeat' split
  all_goals exact .next _

theorem execMonitorOutput_answers (ch : Fin 4) (codes : List Nat) (phase : Fin 10) (s : State) :
    Answers (execMonitorOutput ch codes phase s) := by
  unfold execMonitorOutput
  dsimp only
  repeat' split
  all_goals exact .next _

theorem execFfcShutterTimeout_answers (s : State) : Answers (execFfcShutterTimeout s) := by
  unfold execFfcShutterTimeout
  repeat' split
  all_goals exact .next _

theorem execFfcSumDone_answers (s : State) : Answers (execFfcSumDone s) := by
  unfold execFfcSumDone
  dsimp only
  repeat' split
  all_goals exact .next _

theorem execHkInjectRequest_answers (conv : Side) (loop : Bool) (s : State) : Answers (execHkInjectRequest conv loop s) := by
  unfold execHkInjectRequest
  dsimp only
  repeat' split
  all_goals exact .next _

theorem execHkInjection_answers (conv : Side) (uv : Int) (s : State) : Answers (execHkInjection conv uv s) := by
  unfold execHkInjection
  dsimp only
  repeat' split
  all_goals exact .next _

theorem execFsetOverlapEnd_answers (side : Side) (s : State) : Answers (execFsetOverlapEnd side s) := by
  unfold execFsetOverlapEnd
  dsimp only
  repeat' split
  all_goals exact .next _

theorem execCoverageTrip_answers (side : Side) (pair : Fin 4) (s : State) : Answers (execCoverageTrip side pair s) := by
  unfold execCoverageTrip
  repeat' split
  all_goals exact .next _

theorem execAutoRestartExpiry_answers (pair : Fin 4) (s : State) : Answers (execAutoRestartExpiry pair s) := by
  unfold execAutoRestartExpiry
  repeat' split
  all_goals exact .next _

theorem execF3Fault_answers (code detail : Nat) (s : State) : Answers (execF3Fault code detail s) := by
  unfold execF3Fault
  repeat' split
  all_goals exact .next _

theorem execF3CauseCleared_answers (code detail : Nat) (s : State) : Answers (execF3CauseCleared code detail s) := by
  unfold execF3CauseCleared
  repeat' split
  all_goals exact .next _

theorem execAnnounce_answers (tag : BitVec 128) (seq frame slot vlast entry : Nat) (s : State) :
    Answers (execAnnounce tag seq frame slot vlast entry s) := by
  unfold execAnnounce
  dsimp only
  repeat' split
  all_goals exact .next _

theorem execFmark_answers (stamp : Int) (frame24 : Nat) (s : State) : Answers (execFmark stamp frame24 s) := by
  unfold execFmark
  repeat' split
  all_goals exact .next _

theorem execTriggerSample_answers (delay : Nat) (s : State) : Answers (execTriggerSample delay s) := by
  unfold execTriggerSample
  dsimp only
  repeat' split
  all_goals exact .next _

theorem execMeasureReply_answers (frame : BitVec 48) (roundTrip : Nat) (s : State) :
    Answers (execMeasureReply frame roundTrip s) := by
  unfold execMeasureReply
  repeat' split
  all_goals exact .next _

theorem execIrqEntry_answers (s : State) : Answers (execIrqEntry s) := by
  unfold execIrqEntry
  repeat' split
  all_goals exact .next _

theorem execHerdEoi_answers (s : State) : Answers (execHerdEoi s) := by
  unfold execHerdEoi
  repeat' split
  all_goals exact .next _

theorem execIrqExit_answers (s : State) : Answers (execIrqExit s) := by
  unfold execIrqExit
  repeat' split
  all_goals exact .next _

theorem execMsixSend_answers (s : State) : Answers (execMsixSend s) := by
  unfold execMsixSend
  repeat' split
  all_goals exact .next _

theorem laneCheck_answers (s : State) (lane : Fin 2) (number : Nat) (inverted : Bool) (skew : Nat) :
    Answers (laneCheck s lane number inverted skew) :=
  .ite (.next _) (.ite (.next _) (.next _))

theorem execTrn_answers (lane : Fin 2) (header : Fin 4) (payload : Dword) (skew : Nat) (s : State) :
    Answers (execTrn lane header payload skew s) := by
  refine .ite (.next _) ?_
  split
  · exact .ite (laneCheck_answers ..) (.next _)
  · exact .next _

theorem takeCap_answers (s : State) (value : Nat) : Answers (takeCap s value) :=
  .ite (.next _) (.next _)

theorem execCap_answers (word : BitVec 34) (s : State) : Answers (execCap word s) := by
  refine .ite (.next _) ?_
  split
  · exact .ite (takeCap_answers ..) (.next _)
  · exact .next _

theorem execWordLockLoss_answers (lane : Fin 2) (s : State) : Answers (execWordLockLoss lane s) := by
  unfold execWordLockLoss
  repeat' split
  all_goals exact .next _

theorem execFaultLog_answers (cls : Fin 5) (code detail : Nat) (s : State) : Answers (execFaultLog cls code detail s) := by
  unfold execFaultLog
  repeat' split
  all_goals exact .next _

theorem execWideLoRead_answers (path : Access) (off : Nat) (s : State) : Answers (execWideLoRead path off s) := by
  unfold execWideLoRead
  repeat' split
  all_goals exact .next _

theorem execWideLoWrite_answers (path : Access) (off : Nat) (value : Dword) (s : State) :
    Answers (execWideLoWrite path off value s) := by
  unfold execWideLoWrite
  repeat' split
  all_goals exact .next _

theorem execWideHiWrite_answers (path : Access) (off : Nat) (value : Dword) (s : State) :
    Answers (execWideHiWrite path off value s) := by
  unfold execWideHiWrite
  repeat' split
  all_goals exact .next _

theorem execPllRelock_answers (clock : Clock) (s : State) : Answers (execPllRelock clock s) := by
  unfold execPllRelock
  repeat' split
  all_goals exact .next _

theorem execSelfTestDone_answers (failed : Nat) (s : State) : Answers (execSelfTestDone failed s) := by
  unfold execSelfTestDone
  repeat' split
  all_goals exact .next _

theorem execFwStageDone_answers (ok : Bool) (s : State) : Answers (execFwStageDone ok s) := by
  unfold execFwStageDone
  repeat' split
  all_goals exact .next _

theorem execFwActivateDone_answers (s : State) : Answers (execFwActivateDone s) := by
  unfold execFwActivateDone
  repeat' split
  all_goals exact .next _

theorem execTrigbusMeasureDone_answers (s : State) : Answers (execTrigbusMeasureDone s) := by
  unfold execTrigbusMeasureDone
  repeat' split
  all_goals exact .next _

/-- Every command but a register write answers a next state. -/
theorem exec_answers {c : Instr} (s : State) (h : ∀ p off q v full bad, c ≠ .registerWrite p off q v full bad) :
    Answers (exec c s) := by
  cases c with
  | railsValid => exact .next _
  | powerOnReset => exact .next _
  | railTrip _ => exact .ite (.next _) (.next _)
  | mainResetRelease => exact .ite (.next _) (.next _)
  | xtalAonStable => exact .next _
  | xtalAonTimeout => exact .ite (.next _) (.next _)
  | clocksLocked _ _ _ _ _ => exact execClocksLocked_answers _ _ _ _ _ s
  | imageCheckDone _ _ => exact .ite (.next _) (.ite (.next _) (.ite (.next _) (.next _)))
  | herdFirmwareRunning => exact .ite (.next _) (.next _)
  | rlTrainingDone _ _ _ _ _ => exact .ite (.next _) (.ite (.next _) (.next _))
  | excitationSettled _ _ => exact execExcitationSettled_answers _ _ s
  | refInLoss => exact .ite (.next _) (.next _)
  | refInQualified _ => exact .ite (.next _) (.ite (.next _) (.next _))
  | pllUnlock _ => exact execPllUnlock_answers _ s
  | clockCrossMeasure _ _ _ => exact .ite (.next _) (.next _)
  | clkRefCfgWrite _ => exact .next _
  | wake _ _ => exact .next _
  | sleepEntryDone => exact .ite (.next _) (.next _)
  | aonAlarm => exact .next _
  | stateChangeDone => exact execStateChangeDone_answers s
  | deviceReset => exact .ite (.next _) (.next _)
  | perstAssert => exact .ite (.next _) (.next _)
  | perstRelease => exact .ite (.next _) (.next _)
  | pcieConfigReady => exact .ite (.next _) (.next _)
  | cmdCtrlWrite _ => exact .ite (.next _) (.next _)
  | ringDrainDone => exact .ite (.next _) (.next _)
  | cmdDb0 _ => exact .ite (.next _) (.next _)
  | commandFetch _ _ => exact .ite (.next _) (.ite (.next _) (.next _))
  | bufferReadDone _ _ _ _ => exact execBufferReadDone_answers _ _ _ _ s
  | bufferTimeout _ => exact execBufferTimeout_answers _ s
  | completionWrite _ _ => exact execCompletionWrite_answers _ _ s
  | cmdDb1 _ => exact .ite (.next _) (.next _)
  | cmpNotifyTimer => exact .ite (.next _) (.next _)
  | nonceExpiry => exact .next _
  | nop p tag => exact (withCmd_answers .. : Answers (execNop p tag s))
  | getInfo p tag => exact (withCmd_answers .. : Answers (execGetInfo p tag s))
  | setState p tag => exact (withCmd_answers .. : Answers (execSetState p tag s))
  | reset p tag => exact (withCmd_answers .. : Answers (execReset p tag s))
  | setPowerCap p tag => exact (withCmd_answers .. : Answers (execSetPowerCap p tag s))
  | abort p tag => exact (withCmd_answers .. : Answers (execAbort p tag s))
  | herdSwitch p tag => exact (withCmd_answers .. : Answers (execHerdSwitch p tag s))
  | loadScanProg p tag => exact (withCmd_answers .. : Answers (execLoadScanProg p tag s))
  | scanStart p tag => exact (withCmd_answers .. : Answers (execScanStart p tag s))
  | scanStop p tag => exact (withCmd_answers .. : Answers (execScanStop p tag s))
  | scanSwitch p tag => exact (withCmd_answers .. : Answers (execScanSwitch p tag s))
  | setTiming p tag => exact (withCmd_answers .. : Answers (execSetTiming p tag s))
  | setPointRing p tag => exact (withCmd_answers .. : Answers (execSetPointRing p tag s))
  | yardGrant p tag => exact (withCmd_answers .. : Answers (execYardGrant p tag s))
  | yardRevoke p tag => exact (withCmd_answers .. : Answers (execYardRevoke p tag s))
  | yardRevokeDone => exact .next _
  | yardQuery p tag => exact (withCmd_answers .. : Answers (execYardQuery p tag s))
  | thmConfig _ _ _ => exact withCmd_answers ..
  | thmLoadCorr p tag => exact (withCmd_answers .. : Answers (execThmLoadCorr p tag s))
  | thmSelectCorr p tag => exact (withCmd_answers .. : Answers (execThmSelectCorr p tag s))
  | thmFfc p tag => exact (withCmd_answers .. : Answers (execThmFfc p tag s))
  | thmLoadCoef p tag => exact (withCmd_answers .. : Answers (execThmLoadCoef p tag s))
  | thmSelectCoef p tag => exact (withCmd_answers .. : Answers (execThmSelectCoef p tag s))
  | thmLoadReglut p tag => exact (withCmd_answers .. : Answers (execThmLoadReglut p tag s))
  | thmSync p tag => exact (withCmd_answers .. : Answers (execThmSync p tag s))
  | safLoadConfig p tag => exact (withCmd_answers .. : Answers (execSafLoadConfig p tag s))
  | safCommit p tag => exact (withCmd_answers .. : Answers (execSafCommit p tag s))
  | safArm p tag => exact (withCmd_answers .. : Answers (execSafArm p tag s))
  | safDisarm p tag => exact (withCmd_answers .. : Answers (execSafDisarm p tag s))
  | safeLockoutClear p tag => exact (withCmd_answers .. : Answers (execSafeLockoutClear p tag s))
  | acqConfig p tag => exact (withCmd_answers .. : Answers (execAcqConfig p tag s))
  | acqArm p tag => exact (withCmd_answers .. : Answers (execAcqArm p tag s))
  | acqDisarm p tag => exact (withCmd_answers .. : Answers (execAcqDisarm p tag s))
  | acqTrigger p tag => exact (withCmd_answers .. : Answers (execAcqTrigger p tag s))
  | acqReadLog p tag => exact (withCmd_answers .. : Answers (execAcqReadLog p tag s))
  | calGroom p tag => exact (withCmd_answers .. : Answers (execCalGroom p tag s))
  | groomDone _ _ _ _ _ => exact execGroomDone_answers _ _ _ _ _ s
  | autoGroomStart _ => exact .ite (.next _) (.next _)
  | calStore p tag => exact (withCmd_answers .. : Answers (execCalStore p tag s))
  | calRead p tag => exact (withCmd_answers .. : Answers (execCalRead p tag s))
  | calSpareEngage p tag => exact (withCmd_answers .. : Answers (execCalSpareEngage p tag s))
  | calSpareRelease p tag => exact (withCmd_answers .. : Answers (execCalSpareRelease p tag s))
  | prtConfig p tag => exact (withCmd_answers .. : Answers (execPrtConfig p tag s))
  | prtRetrain p tag => exact (withCmd_answers .. : Answers (execPrtRetrain p tag s))
  | trigbusMeasure p tag => exact (withCmd_answers .. : Answers (execTrigbusMeasure p tag s))
  | diagReadFaults p tag => exact (withCmd_answers .. : Answers (execDiagReadFaults p tag s))
  | diagClearFaults p tag => exact (withCmd_answers .. : Answers (execDiagClearFaults p tag s))
  | diagImpedance p tag => exact (withCmd_answers .. : Answers (execDiagImpedance p tag s))
  | impedanceCheckDone _ _ _ => exact .ite (.next _) (.next _)
  | diagSelfTest p tag => exact (withCmd_answers .. : Answers (execDiagSelfTest p tag s))
  | diagReadCounters p tag => exact (withCmd_answers .. : Answers (execDiagReadCounters p tag s))
  | secGetIdentity p tag => exact (withCmd_answers .. : Answers (execSecGetIdentity p tag s))
  | secGetNonce p tag => exact (withCmd_answers .. : Answers (execSecGetNonce p tag s))
  | secFwStage p tag => exact (withCmd_answers .. : Answers (execSecFwStage p tag s))
  | secFwActivate p tag => exact (withCmd_answers .. : Answers (execSecFwActivate p tag s))
  | secAttest p tag => exact (withCmd_answers .. : Answers (execSecAttest p tag s))
  | secReprovision p tag => exact (withCmd_answers .. : Answers (execSecReprovision p tag s))
  | mgmtCommand _ _ _ _ => exact .next _
  | mgmtStatusRead _ _ => exact .next _
  | mgmtCompletionRead _ _ => exact .next _
  | mgmtRegRead _ _ _ _ => exact .next _
  | mgmtReset _ _ => exact .next _
  | mgmtRead _ => exact execMgmtRead_answers _ s
  | mgmtHeldExecute => exact execMgmtHeldExecute_answers s
  | slotStart _ => exact .ite (.next _) (.next _)
  | frameBoundary => exact .ite (.next _) (.next _)
  | shotEnd _ _ _ => exact .ite (.next _) (.ite (.next _) (.next _))
  | rxfChCfgWrite _ _ _ => exact .next _
  | returnEdge _ _ _ => exact execReturnEdge_answers _ _ _ s
  | eventWordFormed _ _ _ _ _ _ => exact execEventWordFormed_answers _ _ _ _ _ _ s
  | bridgeFrame _ _ _ _ _ => exact .ite (.next _) (.ite (.next _) (.ite (.next _) (.next _)))
  | apdbCtrlWrite _ => exact .next _
  | apdbSettledChange _ _ => exact .next _
  | apdbTrip _ => exact .ite (.next _) (.next _)
  | clusterFeFault _ => exact .next _
  | spareRestartDone => exact .ite (.next _) (.next _)
  | rxfObsWrite _ _ => exact .next _
  | sliceAverageDone _ _ => exact execSliceAverageDone_answers _ _ s
  | clusterRestartStart _ => exact .ite (.next _) (.next _)
  | clusterRestartDone _ => exact .ite (.next _) (.next _)
  | tdcWinProfWrite _ _ => exact .next _
  | ppsEdge _ => exact execPpsEdge_answers _ s
  | ppsAlignWrite _ => exact .next _
  | ppsLost => exact .ite (.next _) (.next _)
  | fmCtrlWrite _ _ => exact .next _
  | fmGateEnd _ _ => exact .ite (.next _) (.ite (.next _) (.ite (.next _) (.next _)))
  | hgeCodeWrite _ _ => exact .next _
  | hgeDitherWrite _ => exact .next _
  | detectionDone _ _ => exact execDetectionDone_answers _ _ s
  | recordDma _ => exact .next _
  | hgeRingRptrWrite _ _ => exact .next _
  | stallMoveDone _ => exact execStallMoveDone_answers _ s
  | backgroundWork => exact .next _
  | farReadFail _ => exact .ite (.next _) (.next _)
  | uncorrectableError _ => exact execUncorrectableError_answers _ s
  | yrdMapCfgWrite _ => exact .next _
  | heatModelTick => exact .ite (.next _) (.next _)
  | lbtMean _ _ => exact .ite (.next _) (.ite (.next _) (.next _))
  | rechargeStart _ => exact .ite (.next _) (.next _)
  | rechargeEnd _ _ _ _ => exact .ite (.next _) (.ite (.next _) (.next _))
  | bankOvervoltage _ _ => exact execBankOvervoltage_answers _ _ s
  | sweepPeriod => exact .ite (.next _) (.ite (.next _) (.ite (.next _) (.next _)))
  | emiBankRetry _ => exact .next _
  | emiBankEnWrite _ => exact .next _
  | strayCurrent _ _ => exact .ite (.next _) (.next _)
  | emiInhibitClear => exact .next _
  | emiFlCtrlWrite _ => exact .next _
  | emiFlDutyWrite _ _ => exact .next _
  | floodOnTime _ _ => exact execFloodOnTime_answers _ _ s
  | floodOpenCheck _ _ => exact execFloodOpenCheck_answers _ _ s
  | floodDiagTimeout _ => exact .ite (.next _) (.ite (.next _) (.next _))
  | floodSwitchOff _ _ => exact .ite (.next _) (.next _)
  | thmCtrlWrite _ => exact .next _
  | thermalFrameStart => exact .ite (.next _) (.next _)
  | thermalFrameComplete _ => exact execThermalFrameComplete_answers _ s
  | thermalFrameDelivery => exact execThermalFrameDelivery_answers s
  | thmRingPtrWrite _ => exact .next _
  | fpaBiasLimit => exact .ite (.next _) (.next _)
  | pathSettled => exact execPathSettled_answers s
  | settleTimeout => exact .ite (.next _) (.next _)
  | syncDecEdge => exact .ite (.next _) (.ite (.next _) (.next _))
  | monitorOutput _ _ _ => exact execMonitorOutput_answers _ _ _ s
  | coefCrossfadeEnd => exact .ite (.next _) (.next _)
  | ffcShutterTimeout => exact execFfcShutterTimeout_answers s
  | ffcSumDone => exact execFfcSumDone_answers s
  | shutterStuck => exact .ite (.next _) (.next _)
  | autoFfcStart => exact .ite (.next _) (.ite (.next _) (.ite (.next _) (.next _)))
  | hkConversion _ _ => exact .ite (.next _) (.ite (.next _) (.ite (.next _) (.next _)))
  | hkInjectRequest _ _ => exact execHkInjectRequest_answers _ _ s
  | hkInjection _ _ => exact execHkInjection_answers _ _ s
  | hkcMmClrWrite _ _ => exact .next _
  | hkSelfcal _ => exact .next _
  | hkSelfcalDone _ _ => exact .ite (.next _) (.next _)
  | refBufferOn _ => exact .ite (.next _) (.next _)
  | heartbeat _ => exact .ite (.next _) (.next _)
  | fselAccept _ _ => exact .next _
  | fsetDisagree => exact .ite (.next _) (.next _)
  | fsetOverlapEnd _ => exact execFsetOverlapEnd_answers _ s
  | coverageLapse _ => exact .ite (.next _) (.next _)
  | coverageTrip _ _ => exact execCoverageTrip_answers _ _ s
  | evaluatorSelfTest _ _ _ => exact .ite (.next _) (.ite (.next _) (.next _))
  | testPulse _ _ _ _ => exact .ite (.next _) (.next _)
  | readbackFault _ => exact .ite (.next _) (.next _)
  | edmWindowExpiry _ => exact .ite (.next _) (.ite (.next _) (.next _))
  | guardAccept _ _ _ _ => exact .next _
  | guardDiscrepancy _ => exact .ite (.next _) (.next _)
  | rstReqAccept _ _ _ => exact .ite (.next _) (.ite (.next _) (.next _))
  | rstReqJam => exact .next _
  | autoRestartExpiry _ => exact execAutoRestartExpiry_answers _ s
  | clearableExpiry => exact .next _
  | f3Fault _ _ => exact execF3Fault_answers _ _ s
  | f3CauseCleared _ _ => exact execF3CauseCleared_answers _ _ s
  | tstModeRise _ => exact .ite (.next _) (.next _)
  | debugPortOpen => exact .ite (.next _) (.next _)
  | identityKeyReady => exact .ite (.next _) (.next _)
  | announce _ _ _ _ _ _ => exact execAnnounce_answers _ _ _ _ _ _ s
  | mirror _ _ _ _ _ _ _ _ _ _ _ => exact .ite (.next _) (.ite (.next _) (.next _))
  | keepalive => exact .ite (.next _) (.next _)
  | fmark _ _ => exact execFmark_answers _ _ s
  | twinStartTimeout => exact .ite (.next _) (.next _)
  | partnerSilence => exact .ite (.next _) (.ite (.next _) (.next _))
  | beacon => exact .ite (.next _) (.next _)
  | query => exact .ite (.next _) (.next _)
  | beaconEchoTimeout => exact .ite (.next _) (.next _)
  | queryEchoTimeout => exact .ite (.next _) (.next _)
  | halterStandby => exact .ite (.next _) (.next _)
  | halterTakeover => exact .ite (.next _) (.next _)
  | unsureClear => exact .ite (.next _) (.next _)
  | halterClaim => exact .ite (.next _) (.next _)
  | halterRelease => exact .ite (.next _) (.next _)
  | triggerSample _ => exact execTriggerSample_answers _ s
  | trigInEdge _ => exact .next _
  | trigger _ _ _ => exact .ite (.next _) (.next _)
  | measure => exact .ite (.next _) (.next _)
  | measureReply _ _ => exact execMeasureReply_answers _ _ s
  | captureEnd _ => exact .next _
  | recordingOverrun _ => exact .next _
  | recordingClosed => exact .ite (.next _) (.next _)
  | rearmEnd => exact .ite (.next _) (.next _)
  | irqEntry => exact execIrqEntry_answers s
  | herdEoi => exact execHerdEoi_answers s
  | irqExit => exact execIrqExit_answers s
  | msixSend => exact execMsixSend_answers s
  | irqHostEoi _ => exact .next _
  | msixUnblock _ => exact .next _
  | irqSwset _ _ => exact .next _
  | irqSwclr _ _ => exact .next _
  | pcieLinkLost => exact .ite (.next _) (.ite (.next _) (.next _))
  | functionLevelReset => exact .ite (.next _) (.next _)
  | pmeTurnOff => exact .ite (.next _) (.next _)
  | pmeWaitExpiry => exact .next _
  | l1Entry _ => exact .ite (.next _) (.next _)
  | peWakeTimeout => exact .next _
  | prtDetectProbe _ => exact .ite (.next _) (.next _)
  | trn _ _ _ _ => exact execTrn_answers _ _ _ _ s
  | cap _ => exact execCap_answers _ s
  | ping _ => exact .ite (.next _) (.next _)
  | echo _ _ => exact .ite (.next _) (.ite (.next _) (.next _))
  | keyx _ _ _ => exact .ite (.next _) (.ite (.next _) (.next _))
  | prtTrainingFail => exact .ite (.next _) (.next _)
  | prtRetry => exact .ite (.next _) (.next _)
  | wordLockLoss _ => exact execWordLockLoss_answers _ s
  | prtLinkLoss => exact .ite (.next _) (.next _)
  | doze => exact .ite (.next _) (.next _)
  | dozeExit => exact .next _
  | dozeKeepalive => exact .ite (.next _) (.next _)
  | herdCompareMismatch _ => exact .ite (.next _) (.next _)
  | herdWatchdogExpiry => exact .ite (.next _) (.next _)
  | faultLog _ _ _ => exact execFaultLog_answers _ _ _ s
  | faultReactionRun => exact .ite (.next _) (.next _)
  | f4Fault _ _ => exact .ite (.next _) (.next _)
  | fatalResetTimer => exact .ite (.next _) (.next _)
  | wideLoRead _ _ => exact execWideLoRead_answers _ _ s
  | wideLoWrite _ _ _ => exact execWideLoWrite_answers _ _ _ s
  | wideHiWrite _ _ _ => exact execWideHiWrite_answers _ _ _ s
  | registerWrite path off q v full bad => exact absurd rfl (h path off q v full bad)
  | aonPowerLoss => exact .next _
  | edmAccept _ _ => exact .next _
  | pcieLinkUp _ _ _ => exact .ite (.next _) (.next _)
  | pcieConfigWrite _ _ _ _ => exact .ite (.next _) (.next _)
  | pllRelock _ => exact execPllRelock_answers _ s
  | fpaResetRelease => exact .ite (.next _) (.next _)
  | refBufferOff _ => exact .ite (.next _) (.next _)
  | calStoreDone _ => exact .ite (.next _) (.ite (.next _) (.next _))
  | selfTestDone _ => exact execSelfTestDone_answers _ s
  | fwStageDone _ => exact execFwStageDone_answers _ s
  | fwActivateDone => exact execFwActivateDone_answers s
  | switchOverDone => exact .ite (.next _) (.ite (.next _) (.next _))
  | trigbusMeasureDone => exact execTrigbusMeasureDone_answers s
  | prtEyeDone _ _ _ => exact .ite (.next _) (.ite (.next _) (.ite (.next _) (.next _)))
  | keepaliveAccepted _ _ => exact .next _

/-- Settles O8, by the case split over the commands (`exec_answers`). -/
theorem onlyRegisterWriteStops : Obligations.OnlyRegisterWriteStops := by
  intro c s h
  exact exec_answers s h

end Sys2Proof.Machine

/-! ## What a power-on reset and a device reset keep

Both filter the register store by key and start everything else over; O9 and O27 read that off. -/
namespace Sys2Proof.Machine

/-! ### The power-on reset (R7, R83) -/

/-- A field reads as it was where it is stored, and its reset value elsewhere. -/
theorem powerOn_get (s : State) {f : Fld} (h : f.key ≠ F.HGE_SEED.key) :
    (powerOn s).get f = if nvKey f.key then s.get f else f.reset := by
  rw [get_getReg, powerOn, withSeed_get _ h]
  exact getReg_filter s.regs nvKey f

theorem withSeed_get_seed {s : State} {v : Nat} (h : s.sec.seed = some v) : (withSeed s).get F.HGE_SEED = v % 2 ^ 64 := by
  rw [withSeed, h]
  exact get_set_same s F.HGE_SEED v

/-- Beside the registers a power-on reset keeps what it does not reach. -/
theorem powerOn_eq (s : State) : powerOn s = { State.reset with
    regs := (powerOn s).regs, mode := if s.flag F.SEC_STATUS_OPENED then .opened else .standby, pending := s.pending, tx := s.tx,
    free := s.free, sec := s.sec, cal := { State.reset.cal with flash := s.cal.flash, flashBad := s.cal.flashBad },
    pins := { State.reset.pins with tstMode := s.pins.tstMode, perst := s.pins.perst } } :=
  withSeed_logs _

/-- Settles O9: the store is filtered (`powerOn_get`), the rest starts over (`powerOn_eq`), and OFF then forces every pair off
(`setMode_frame`, `setMode_pairs`). -/
theorem powerOnResetKeepsStoredOnly : Obligations.PowerOnResetKeepsStoredOnly := by
  intro s
  have hoff : Modes (powerOn s) (setMode (powerOn s) .off) := setMode_modes _ _
  refine ⟨⟨_, rfl, fun f hf => powerOn_get s hf, fun v hv => withSeed_get_seed hv, powerOn_eq s⟩, _, rfl, fun f hf htrip => ?_, rfl,
    ?_, ?_, ?_, ?_, ?_, setMode_pairs _ _ (by decide)⟩
  · rw [setMode_frame _ _ f htrip, powerOn_get s hf]
  · rw [hoff.sec, powerOn_eq]
  · rw [hoff.cal, powerOn_eq]
  · rw [hoff.faults, powerOn_eq]; rfl
  · rw [hoff.cmd, powerOn_eq]
  · rw [setMode_armed, powerOn_eq]; rfl

end Sys2Proof.Machine

/-! ## Closing a recording, and the device reset that may do so (R535, R688)

What `closeRecording` writes, and with it O27. -/
namespace Sys2Proof.Machine

/-- The registers that the closing of a recording writes. -/
def closeFields : List Fld :=
  [F.ACQ_REC_LOC_VALID, F.ACQ_REC_LOC_OFFSET, F.ACQ_REC_LOC_WINDOW, F.ACQ_EVENT_CLOSED, F.ACQ_CNT_REC, F.ACQ_CNT_OVF,
    F.ACQ_STATUS_STATE]

/-- The recorder, what is sent and the registers of `closeFields` may change, and nothing else. -/
structure Closes (s t : State) : Prop where
  eq : t = { s with regs := t.regs, tx := t.tx, acq := t.acq }
  frame : RegFrame closeFields s t

theorem Closes.refl (s : State) : Closes s s := ⟨rfl, .refl _ s⟩

theorem Closes.trans {r s t : State} (h : Closes r s) (k : Closes s t) : Closes r t := by
  refine ⟨?_, h.frame.trans k.frame⟩
  rw [k.eq, h.eq]

theorem Closes.set {s t : State} (h : Closes s t) {f : Fld} (v : Nat) (hf : f ∈ closeFields) : Closes s (t.set f v) :=
  h.trans ⟨rfl, (RegFrame.refl _ t).set v hf⟩

theorem Closes.inc {s t : State} (h : Closes s t) {f : Fld} (hf : f ∈ closeFields) : Closes s (t.inc f) := h.set _ hf

theorem Closes.ite {s t u : State} {c : Prop} [Decidable c] (h : Closes s t) (k : Closes s u) : Closes s (if c then t else u) := by
  split <;> assumption

theorem writeStall_closes (s : State) (n seq sec index next : Nat) (data : List Byte) :
    Closes s (writeStall s n seq sec index next data) := by
  unfold writeStall
  split
  · exact .refl s
  · exact ⟨rfl, (RegFrame.refl _ s).other rfl⟩

theorem writeSection_closes (seq sec : Nat) (l : List Nat) (i : Nat) (b : List Byte) (s : State) :
    Closes s (writeSection seq sec l i b s) := by
  induction l generalizing s i b with
  | nil => exact .refl s
  | cons n l ih => exact (writeStall_closes ..).trans (ih ..)

/-- The event, the counts and the state at the end of a recording, which is then no more. -/
def endClosing (s : State) (lossy : Bool) : State :=
  let t := ((s.set F.ACQ_EVENT_CLOSED 1).inc F.ACQ_CNT_REC).set F.ACQ_STATUS_STATE Rec.rearming
  let u := if lossy then t.inc F.ACQ_CNT_OVF else t
  { u with acq := { u.acq with run := none, meas := [] } }

theorem endClosing_closes (s : State) (lossy : Bool) : Closes s (endClosing s lossy) := by
  have ht := (((Closes.refl s).set (f := F.ACQ_EVENT_CLOSED) 1 (by simp [closeFields])).inc (f := F.ACQ_CNT_REC)
    (by simp [closeFields])).set (f := F.ACQ_STATUS_STATE) Rec.rearming (by simp [closeFields])
  have hu := Closes.ite (c := lossy = true) (ht.inc (f := F.ACQ_CNT_OVF) (by simp [closeFields])) ht
  exact hu.trans ⟨rfl, (RegFrame.refl _ _).other rfl⟩

/-- The sections of a recording, its header, and the recorder's registers are written. -/
theorem closeRecording_closes (s : State) (trunc disarmed : Bool) : Closes s (closeRecording s trunc disarmed) := by
  unfold closeRecording
  split
  next r c _ _ =>
    have hsecs : Closes s (if trunc = true then s else [0, 1, 2].foldl (fun (t : State) k => match r.secs.getD k none with
        | some x => writeSection r.seq (k + 1) x.stalls 0 (storedBytes c k x) t
        | none => t) s) := by
      refine .ite (.refl s) (List.foldlRecOn _ _ (.refl s) fun t ht k _ => ht.trans ?_)
      split
      · exact writeSection_closes ..
      · exact .refl t
    dsimp only
    generalize (if trunc = true then s else _) = t at hsecs ⊢
    refine Closes.trans ?_ (endClosing_closes _ _)
    split
    next n _ =>
      have hw := hsecs.trans (writeStall_closes t n r.seq 0 0 0 (recHeader t c r trunc disarmed))
      exact .ite (hsecs.set _ (by simp [closeFields]))
        (((hw.set _ (by simp [closeFields])).set _ (by simp [closeFields])).set _ (by simp [closeFields]))
    · exact hsecs.set _ (by simp [closeFields])
  · exact .refl s

theorem stopSections_closes (s : State) : Closes s (stopSections s) := by
  unfold stopSections
  split <;> exact ⟨rfl, (RegFrame.refl _ s).other rfl⟩

/-- With no recording nothing is closed. -/
theorem closeRecording_none {s : State} (h : s.acq.run = none) (trunc disarmed : Bool) : closeRecording s trunc disarmed = s := by
  rw [closeRecording, h]

theorem stopSections_none {s : State} (h : s.acq.run = none) : stopSections s = s := by
  rw [stopSections, h]

/-! ### The device reset -/

/-- The state whose reset DEVICE_RESET is: a recording in progress has been closed, where the link is usable. -/
def closedForReset (s : State) : State := if pcieUsable s then closeRecording (stopSections s) false true else s

theorem closedForReset_closes (s : State) : Closes s (closedForReset s) :=
  .ite ((stopSections_closes s).trans (closeRecording_closes ..)) (.refl s)

theorem closedForReset_sent (s : State) : s.tx <+: (closedForReset s).tx :=
  (Keeps.ite (closeRecording_keeps false true (stopSections_keeps (Keeps.refl s))) (Keeps.refl s)).sent

theorem closedForReset_none {s : State} (h : s.acq.run = none) : closedForReset s = s := by
  rw [closedForReset, stopSections_none h, closeRecording_none h, ite_self]

/-- No register of the closing of a recording is kept in a reset. -/
theorem closeFields_notKept : ∀ g ∈ closeFields, keptKey g.key = false ∧ aonClockKey g.key = false := by decide

theorem deviceReset_tx (s : State) (kind : Nat) : (deviceReset s kind).tx = s.tx := by
  rw [deviceReset, State.set_tx, State.set_tx, withSeed_logs]

theorem deviceReset_faults (s : State) (kind : Nat) :
    (deviceReset s kind).faults = s.faults.map fun r => { r with active := false } := by
  rw [deviceReset, State.set_faults, State.set_faults, withSeed_logs]

theorem deviceReset_comps (s : State) (kind : Nat) : (deviceReset s kind).cmd.comps = [] := by
  rw [deviceReset, State.set_cmd, State.set_cmd, withSeed_logs]; rfl

theorem deviceReset_flash (s : State) (kind : Nat) : (deviceReset s kind).cal.flash = s.cal.flash := by
  rw [deviceReset, State.set_cal, State.set_cal, withSeed_logs]

theorem deviceReset_get_startKind (s : State) (kind : Nat) : (deviceReset s kind).get F.SYS_START_START_KIND = kind % 4 :=
  (get_set_other _ _ (by decide)).trans (get_set_same _ F.SYS_START_START_KIND kind)

theorem deviceReset_get_sessionKeys (s : State) (kind : Nat) : (deviceReset s kind).get F.SEC_STATUS_SESSION_KEYS = 0 :=
  get_set_same _ F.SEC_STATUS_SESSION_KEYS 0

/-- Settles O27: DEVICE_RESET is the reset of a state that differs only in the recorder, whose registers a reset does not keep
(`closedForReset_closes`, `closeFields_notKept`, `reset_get`). -/
theorem deviceResetKeeps : Obligations.DeviceResetKeeps := by
  intro s
  refine ⟨fun hdue => ⟨s, if_neg (by simp [hdue]), rfl⟩, fun hdue => ?_⟩
  obtain ⟨heq, hframe⟩ := closedForReset_closes s
  have hget : ∀ f : Fld, f.key ≠ F.HGE_SEED.key → f.key ≠ F.SYS_START_START_KIND.key → f.key ≠ F.SEC_STATUS_SESSION_KEYS.key →
      (deviceReset (closedForReset s) 2).get f =
        if keptKey f.key = true ∨ aonClockKey f.key = true then s.get f else f.reset := by
    intro f hseed hkind hkeys
    rw [get_getReg, reset_get _ _ hseed hkind hkeys]
    simp only [Bool.or_eq_true]
    split
    next hkept =>
      refine hframe f fun g hg hfg => ?_
      obtain ⟨hg1, hg2⟩ := closeFields_notKept g hg
      simp [hfg, hg1, hg2] at hkept
    · rfl
  refine ⟨deviceReset (closedForReset s) 2, if_pos hdue, hget, deviceReset_get_startKind .., deviceReset_get_sessionKeys .., ?_,
    reset_cmds .., deviceReset_comps .., reset_saf .., ?_, ?_, ?_, fun hrun => ?_, ?_⟩
  · rw [deviceReset_faults, heq]
  · rw [reset_sec, heq]
  · rw [deviceReset_flash, heq]
  · rw [deviceReset_tx]
    exact closedForReset_sent s
  · rw [deviceReset_tx, closedForReset_none hrun]
  · exact (hget F.TDC_DEVTIME (by decide) (by decide) (by decide)).trans (if_pos (.inl (by decide)))

end Sys2Proof.Machine

/-! ## A fault is entered (R635, R638)

Counts, log and queue after `raiseFault`, and with these O24. -/
namespace Sys2Proof.Machine

section
variable (s : State) {cls : Nat} (code detail : Nat)

/-- Logging counts no fault of its own. -/
theorem logRecord_get_cnt (k : Nat) (hc : cls ≤ 4) (active : Bool) :
    (logRecord s k code detail active).get (F.SYS_FAULT_CNT cls) = s.get (F.SYS_FAULT_CNT cls) := by
  obtain ⟨-, hregs, -⟩ := faultTrigger_parts s k
  have hlost : (F.SYS_FAULT_CNT cls).key ≠ F.SYS_FAULT_LOG_LOST.key := by simp only [Fld.key]; omega
  unfold logRecord
  dsimp only
  split
  · exact congrArg (getReg · _) hregs
  · split
    · exact (get_set_other _ _ hlost).trans (congrArg (getReg · _) hregs)
    · exact congrArg (getReg · _) hregs

/-- Nor does the first-fault latch. -/
theorem latchFirst_get_cnt (k : Nat) (hc : cls ≤ 4) :
    (latchFirst s k code detail).get (F.SYS_FAULT_CNT cls) = s.get (F.SYS_FAULT_CNT cls) := by
  have hne (f : Fld) (hf : f.key < 8 * 0x40) : (F.SYS_FAULT_CNT cls).key ≠ f.key := by
    simp only [Fld.key] at *; omega
  unfold latchFirst
  split
  · rfl
  · iterate 5 rw [get_set_other _ _ (hne _ (by decide))]

/-- Nor does the queue of reactions. -/
theorem queueReaction_get_cnt (k : Nat) (hk : k ≤ 4) (hc : cls ≤ 4) :
    (queueReaction s k code detail).get (F.SYS_FAULT_CNT cls) = s.get (F.SYS_FAULT_CNT cls) := by
  unfold queueReaction
  split
  · rfl
  · split
    · rfl
    · exact get_set_other _ _ (by simp only [Fld.key]; omega)

/-- R635: a fault counts in its class, up to the largest count. -/
theorem raiseFault_get_cnt (hc : cls ≤ 4) : (raiseFault s cls code detail).get (F.SYS_FAULT_CNT cls) =
    min (s.get (F.SYS_FAULT_CNT cls) + 1) (2 ^ (F.SYS_FAULT_CNT cls).width - 1) := by
  rw [raiseFault, queueReaction_get_cnt _ _ _ _ hc hc, latchFirst_get_cnt _ _ _ _ hc, logRecord_get_cnt _ _ _ _ hc, get_inc_same]

/-- R642: with room in the queue of its class the reaction joins at the end. -/
theorem raiseFault_reactions (hc : cls ≤ 3) (hq : queueDepth s cls < 16) :
    (raiseFault s cls code detail).reactions = s.reactions ++ [⟨cls, code, detail⟩] := by
  have hreactions : (latchFirst (logRecord (s.inc (F.SYS_FAULT_CNT cls)) cls code detail (!faultIsEvent code detail)) cls code
      detail).reactions = s.reactions := by
    rw [(latchFirst_parts _ _ _ _).2, logRecord_reactions]; rfl
  have hroom : queueDepth (latchFirst (logRecord (s.inc (F.SYS_FAULT_CNT cls)) cls code detail (!faultIsEvent code detail)) cls
      code detail) cls < 16 := by
    rw [queueDepth, hreactions]
    exact hq
  rw [raiseFault, queueReaction, if_neg (Nat.not_lt.2 hc), if_pos hroom]
  exact congrArg (· ++ _) hreactions

/-- R638: a fault with a record of its own counts the repeat there. -/
theorem raiseFault_faults_of_known (hq : queueDepth s cls < 16) (hknown : s.faults.any (fun r => r.is code detail) = true) :
    (raiseFault s cls code detail).faults =
      s.faults.map fun r => if r.is code detail then r.repeated cls (!faultIsEvent code detail) else r := by
  rw [(raiseFault_log hq).1, logRecord_faults]
  exact if_pos hknown

end

/-- Of the records of a log only the one that meets p changes. -/
theorem map_ite_of_unique {a b : List FaultRec} {r : FaultRec} {p : FaultRec → Bool} (g : FaultRec → FaultRec) (hr : p r = true)
    (hother : ∀ x ∈ a ++ b, p x = false) :
    ((a ++ r :: b).map fun x => if p x then g x else x) = a ++ g r :: b := by
  have hid : ∀ l : List FaultRec, (∀ x ∈ l, p x = false) → (l.map fun x => if p x then g x else x) = l := fun l hl =>
    (List.map_congr_left fun x hx => by simp [hl x hx]).trans l.map_id
  rw [List.map_append, List.map_cons, if_pos hr, hid a fun x hx => hother x (List.mem_append_left _ hx),
    hid b fun x hx => hother x (List.mem_append_right _ hx)]

/-- Settles O24: the fault is counted (`raiseFault_get_cnt`), entered as a new record or a repeat (`raiseFault_faults_of_new`,
`raiseFault_faults_of_known`), and its reaction is queued (`raiseFault_reactions`). -/
theorem faultIsEntered : Obligations.FaultIsEntered := by
  intro s cls code detail hc hcat
  have hlogs := raiseFault_logs s cls code detail
  refine ⟨_, exec_faultLog_eq_raise detail hc hcat, raiseFault_get_cnt s code detail (by omega), ?_, hlogs.mode, hlogs.saf,
    hlogs.pins, fun hq hnone hroom => ⟨?_, raiseFault_reactions s code detail (by omega) hq⟩, fun hq a b r hl hcode hdetail hother => ?_⟩
  · exact (RegFrame.refl _ s).raise _ _ _ fun _ h => h
  · have hnew : s.faults.any (fun r => r.is code detail) = false := by
      rw [Bool.eq_false_iff, ne_eq, any_is_iff]
      rintro ⟨r, hr, h⟩
      exact hnone r hr h
    rw [raiseFault_faults_of_new (by omega) hq hnew, insertFault, if_pos hroom]
  · have hr : r.is code detail = true := by simp [FaultRec.is, hcode, hdetail]
    have hx : ∀ x ∈ a ++ b, x.is code detail = false := fun x hx => by simpa [FaultRec.is] using hother x hx
    rw [raiseFault_faults_of_known s code detail hq (List.any_eq_true.2 ⟨r, by simp [hl], hr⟩), hl]
    exact map_ite_of_unique _ hr hx

end Sys2Proof.Machine

/-! ## Commands of the system group that end at once (R148)

How an output command ends, and with it O30. -/
namespace Sys2Proof.Machine

/-- A write of one register. -/
theorem RegFrame.setOne (s : State) (f : Fld) (v : Nat) : RegFrame [f] s (s.set f v) := (RegFrame.refl _ s).set v (by simp)

/-- A command that is ready runs, so it gives whatever its run has; `o` is its meaning. -/
theorem Ready.gives {s : State} {p : Port} {tag op : Nat} {check : State → Cmd → Option Nat} {c : Cmd} {i : Instr}
    {run : State → Cmd → State} {P : State → Prop} (h : Ready s p tag op check c) (o : Host.Outcome State Fault Refusal)
    (hi : exec i s = o) (ho : o = withCmd s p tag op check run) (hP : P (run s c)) : Gives i s P :=
  ⟨_, (hi.trans ho).trans (h.run run), hP⟩

theorem finishWith_ends {s : State} {c : Cmd} (h : c.discard = false) (st d : Nat) (hst : st ≠ St.done) (hver : st ≠ St.badVersion)
    (r : Nat) (out : List Byte) : Ends (finishWith s c st d r out) c st 0 := by
  have hres : resultOf s st r = 0 := by rw [resultOf, if_neg hst, if_neg hver]
  exact hres ▸ ends_with h st d r out

/-- A final completion changes the commands alone. -/
theorem finishWith_cmd_only {s : State} {c : Cmd} (h : c.discard = false) (st d r : Nat) (out : List Byte) :
    finishWith s c st d r out = { s with cmd := (finishWith s c st d r out).cmd } := by
  rw [finishWith_eq h]; rfl

section
variable {s : State} {c : Cmd} (data : List Byte) (unit : Nat)

theorem finishOut_mgmt (hp : c.port = .mgmt) : finishOut s c data unit =
    finishWith s c St.done 0 (data.take (64 * c.paramLen / unit * unit)).length (data.take (64 * c.paramLen / unit * unit)) := by
  unfold finishOut
  dsimp only
  rw [hp]

theorem finishOut_ring (hp : c.port = .ring) (hu : pcieUsable s = true) : finishOut s c data unit =
    finishOk (sendMem s c.bufAddr (data.take (64 * c.paramLen / unit * unit))) c
      (data.take (64 * c.paramLen / unit * unit)).length := by
  unfold finishOut
  dsimp only
  rw [hp]
  exact if_pos hu

theorem finishOut_timeout (hp : c.port = .ring) (hu : pcieUsable s = false) :
    finishOut s c data unit = finish s c St.timeout 0 0 := by
  unfold finishOut
  dsimp only
  rw [hp]
  exact if_neg (by simp [hu])

/-- R148: an output command ends with the number of bytes that its buffer holds, and delivers them to its port. -/
theorem finishOut_delivers (hd : c.discard = false) (hu : c.port = .ring → pcieUsable s = true) :
    Ends (finishOut s c data unit) c St.done (data.take (64 * c.paramLen / unit * unit)).length ∧
      Delivers s (finishOut s c data unit) c (data.take (64 * c.paramLen / unit * unit)) ∧
      finishOut s c data unit = { s with cmd := (finishOut s c data unit).cmd, tx := (finishOut s c data unit).tx } := by
  cases hp : c.port with
  | mgmt =>
    rw [finishOut_mgmt data unit hp]
    refine ⟨ends_with hd _ _ _ _, ?_, ?_⟩
    · simp only [Delivers, hp, finishWith_cmd hd]
      exact ⟨_, List.getLast?_concat, rfl⟩
    · rw [finishWith_eq hd]; rfl
  | ring =>
    rw [finishOut_ring data unit hp (hu hp)]
    refine ⟨ends_ok hd _, ?_, ?_⟩
    · simp only [Delivers, hp]
      rw [finishOk_eq hd]
    · rw [finishOk_eq hd]; rfl

end

/-- Settles O30: each command's run is a completion (`ends_ok`, `finishOut_delivers`) of a state that differs by a register, by the
due reset or by the inactive records. -/
theorem systemCommands : Obligations.SystemCommands := by
  intro s p tag c hd
  refine ⟨fun h => ?_, fun h => ?_, fun h => ?_, fun h => ?_, fun h => ?_, fun h d hdata => ⟨fun hu => ?_, fun hp hu => ?_⟩⟩
  · refine h.gives (execNop p tag s) rfl rfl ?_
    exact ⟨ends_ok hd _, finishOk_eq hd _⟩
  · refine h.gives (execGetInfo p tag s) rfl rfl ?_
    exact ⟨ends_ok hd _, finishOk_eq hd _⟩
  · refine h.gives (execReset p tag s) rfl rfl ?_
    dsimp only
    refine ⟨ends_ok hd _, ?_, ?_, ?_, ?_⟩
    · rw [finishOk_eq hd]; exact get_set_same s F.SYS_RESET_CAUSE_CMD 1
    · simp only [finishOk_finishWith, finishWith_cmd hd]
    · exact .other (.setOne s F.SYS_RESET_CAUSE_CMD 1) (finishWith_regs hd _ _ _ _)
    · rw [finishOk_eq hd]; rfl
  · refine h.gives (execSetPowerCap p tag s) rfl rfl ?_
    refine ⟨ends_ok hd _, ?_, ?_, ?_⟩
    · rw [finishOk_eq hd]; exact get_set_same s F.SCH_CAP_CAP _
    · exact .finOk (.setOne s _ _) hd _
    · rw [finishOk_eq hd]; rfl
  · refine h.gives (execDiagClearFaults p tag s) rfl rfl ?_
    dsimp only
    refine ⟨ends_ok hd _, ?_, ?_, ?_, ?_⟩
    · rw [finishOk_eq hd]; rfl
    · rw [finishOk_eq hd]; exact get_set_same s F.SYS_FAULT_FIRST_VALID 0
    · exact .other (.setOne s F.SYS_FAULT_FIRST_VALID 0) (finishWith_regs hd _ _ _ _)
    · rw [finishOk_eq hd]; rfl
  · have hbytes : s.faults.foldl (fun l r => l ++ faultBytes r) [] = (s.faults.map faultBytes).flatten :=
      foldl_faultBytes s.faults []
    refine h.gives (execDiagReadFaults p tag s) rfl rfl ?_
    rw [hbytes, hdata]
    exact finishOut_delivers _ 16 hd hu
  · refine h.gives (execDiagReadFaults p tag s) rfl rfl ?_
    rw [finishOut_timeout _ 16 hp hu]
    exact ⟨finishWith_ends hd _ _ (by decide) (by decide) _ _, finishWith_cmd_only hd _ _ _ _⟩

end Sys2Proof.Machine

/-! ## Rails and the main reset (R68, R72, R97, R98)

What a write of SHD_RAIL reads as, and with it O10. -/
namespace Sys2Proof.Machine

/-! ### Registers alone change -/

theorem RegsOnly.refl (l : List Fld) (s : State) : RegsOnly l s s := ⟨rfl, .refl l s⟩

theorem RegsOnly.trans {l : List Fld} {r s t : State} (h : RegsOnly l r s) (k : RegsOnly l s t) : RegsOnly l r t := by
  refine ⟨?_, h.2.trans k.2⟩
  rw [k.1, h.1]

theorem RegsOnly.set {l : List Fld} {s t : State} (h : RegsOnly l s t) {f : Fld} (v : Nat) (hf : f ∈ l) : RegsOnly l s (t.set f v) :=
  h.trans ⟨rfl, (RegFrame.refl l t).set v hf⟩

theorem RegsOnly.subset {l m : List Fld} {s t : State} (h : RegsOnly l s t) (hl : ∀ f ∈ l, f ∈ m) : RegsOnly m s t :=
  ⟨h.1, h.2.subset hl⟩

theorem RegsOnly.ite {l : List Fld} {s t u : State} {c : Prop} [Decidable c] (h : RegsOnly l s t) (k : RegsOnly l s u) :
    RegsOnly l s (if c then t else u) := by
  split <;> assumption

theorem RegsOnly.foldlMem {α : Type} {l : List Fld} {s t : State} (g : State → α → State) (xs : List α) (h : RegsOnly l s t)
    (hg : ∀ u, ∀ x ∈ xs, RegsOnly l s u → RegsOnly l s (g u x)) : RegsOnly l s (xs.foldl g t) :=
  List.foldlRecOn xs g h fun u k x hx => hg u x hx k

/-- Fields put one after another each read as they were put. -/
theorem get_foldl_put {l : List Fld} {g : Fld → Bool} (hl : l.Pairwise fun a b => a.key ≠ b.key) {f : Fld} (hf : f ∈ l) (s : State) :
    (l.foldl (fun (t : State) f => t.put f (g f)) s).get f = b2n (g f) % 2 ^ f.width := by
  induction l generalizing s with
  | nil => cases hf
  | cons a l ih =>
    obtain ⟨ha, hl⟩ := List.pairwise_cons.1 hl
    rw [List.foldl_cons]
    rcases List.mem_cons.1 hf with rfl | hf
    · have hrest : RegFrame l (s.put f (g f)) (l.foldl (fun (t : State) f => t.put f (g f)) (s.put f (g f))) :=
        RegFrame.foldlMem _ _ (.refl _ _) fun u x hx hu => hu.put _ hx
      rw [hrest f ha]
      exact get_set_same s f _
    · exact ih hl hf _

/-! ### SHD_RAIL -/

theorem setRails_only (s : State) (w : Nat) : RegsOnly railFields s (setRails s w) :=
  RegsOnly.foldlMem _ _ (.refl _ s) fun _ _ hf hu => hu.set _ hf

theorem railFields_distinct : railFields.Pairwise fun a b => a.key ≠ b.key := by decide

theorem setRails_get (s : State) (w : Nat) {f : Fld} (hf : f ∈ railFields) :
    (setRails s w).get f = b2n (bit w f.lsb) % 2 ^ f.width :=
  get_foldl_put railFields_distinct hf s

/-- With every rail in its range every field reads 1. -/
theorem setRails_all (s : State) {f : Fld} (hf : f ∈ railFields) : (setRails s 0x3FF).get f = 1 := by
  have hall : ∀ f ∈ railFields, b2n (bit 0x3FF f.lsb) % 2 ^ f.width = 1 := by decide
  rw [setRails_get s _ hf, hall f hf]

/-- The rails show and the start-up begins. -/
theorem startRails_only (s : State) (w : Nat) : RegsOnly (F.SYS_STATUS_STEP :: railFields) s (startAt (setRails s w) 1) :=
  ((setRails_only s w).subset fun _ hf => List.mem_cons_of_mem _ hf).set 1 (List.mem_cons_self ..)

/-- R97: the rails are valid and the start-up is at step 1. -/
def railsIn (s : State) : State :=
  let t := setRails s 0x3FF
  startAt { t with sys := { t.sys with startAt := t.sys.raw, railsDown := 0 } } 1

theorem railsIn_eq (s : State) :
    railsIn s = { s with regs := (railsIn s).regs, sys := { s.sys with startAt := s.sys.raw, railsDown := 0 } } := by
  have h := (setRails_only s 0x3FF).1
  simp only [railsIn, startAt_set]
  generalize setRails s 0x3FF = t at h ⊢
  rw [h]
  rfl

theorem railsIn_frame (s : State) : RegFrame (F.SYS_STATUS_STEP :: railFields) s (railsIn s) :=
  (startRails_only s 0x3FF).2.other rfl

theorem railsIn_step (s : State) : (railsIn s).get F.SYS_STATUS_STEP = 1 := get_set_same _ F.SYS_STATUS_STEP 1

theorem railsIn_rails (s : State) {f : Fld} (hf : f ∈ railFields) : (railsIn s).get f = 1 := by
  have hne : ∀ f ∈ railFields, f.key ≠ F.SYS_STATUS_STEP.key := by decide
  exact (get_set_other _ _ (hne f hf)).trans (setRails_all s hf)

/-! ### A trip -/

/-- R72, R112: the state that a rail trip resets: RAIL is a reset cause, and a step of a start-up has failed. -/
def railTripped (s : State) : State := (if s.starting then stepFailed s s.step else s).set F.SYS_RESET_CAUSE_RAIL 1

theorem railTripped_eq (s : State) : railTripped s = { s with regs := (railTripped s).regs } := by
  unfold railTripped
  split <;> rfl

/-- A rail is noted as down. -/
def noteRailDown (s : State) (rail : Fin 10) : State :=
  { s with sys := { s.sys with railsDown := setBit s.sys.railsDown rail.val } }

/-- The device after a rail trip: reset, with the rail down and the start-up at step 1. -/
def railOut (s : State) (rail : Fin 10) : State :=
  let t := noteRailDown (deviceReset (railTripped s) 0) rail
  startAt (setRails t (0x3FF - t.sys.railsDown % 0x400)) 1

theorem railOut_only (s : State) (rail : Fin 10) :
    RegsOnly (F.SYS_STATUS_STEP :: railFields) (noteRailDown (deviceReset (railTripped s) 0) rail) (railOut s rail) :=
  startRails_only _ _

/-- Its parts but for the registers and the rails are those of a device reset. -/
theorem railOut_eq (s : State) (rail : Fin 10) : railOut s rail =
    { noteRailDown (deviceReset (railTripped s) 0) rail with regs := (railOut s rail).regs } :=
  (railOut_only s rail).1

theorem testBit_setBit_same (w n : Nat) : (setBit w n).testBit n = true := by
  rw [setBit, Nat.testBit_or, Nat.testBit_two_pow_self, Bool.or_true]

theorem railOut_mode (s : State) (rail : Fin 10) : (railOut s rail).mode = .standby ∨ (railOut s rail).mode = .opened := by
  have h : (railOut s rail).mode = (deviceReset (railTripped s) 0).mode := by rw [railOut_eq]; rfl
  rw [h, reset_mode]
  split
  · exact .inr rfl
  · exact .inl rfl

/-- RAIL is in the AON shed, so a reset keeps it. -/
theorem railOut_cause (s : State) (rail : Fin 10) : (railOut s rail).get F.SYS_RESET_CAUSE_RAIL = 1 := by
  have hkept : (deviceReset (railTripped s) 0).get F.SYS_RESET_CAUSE_RAIL = (railTripped s).get F.SYS_RESET_CAUSE_RAIL :=
    (reset_get _ _ (by decide) (by decide) (by decide)).trans (if_pos (by decide))
  rw [(railOut_only s rail).2 F.SYS_RESET_CAUSE_RAIL (by decide)]
  exact hkept.trans (get_set_same _ F.SYS_RESET_CAUSE_RAIL 1)

/-! ### O10 -/

/-- Settles O10: the rails' own writes (`railsIn_eq`, `railsIn_frame`), the reset of a trip (`railOut_eq`), and two updates at the
release of the main reset. -/
theorem railsAndMainReset : Obligations.RailsAndMainReset := by
  intro s
  have hflag : ∀ f ∈ railFields, (railsIn s).flag f = true := fun f hf => by rw [State.flag, railsIn_rails s hf]; rfl
  have hsys : (railsIn s).sys = { s.sys with startAt := s.sys.raw, railsDown := 0 } := by rw [railsIn_eq]
  refine ⟨?_, fun rail hoff => ⟨railOut s rail, if_neg (by simpa using hoff), ?_⟩, fun hstep hdown => ?_⟩
  · by_cases hoff : s.mode = .off
    · have hmode := setMode_modes (railsIn s) (if s.flag F.SEC_STATUS_OPENED then .opened else .standby)
      have hframe := setMode_frame (railsIn s) (if s.flag F.SEC_STATUS_OPENED then .opened else .standby)
      have htrip : ∀ f ∈ railFields, ∀ g ∈ tripFields, f.key ≠ g.key := by decide
      refine ⟨setMode (railsIn s) (if s.flag F.SEC_STATUS_OPENED then .opened else .standby),
        congrArg Host.Outcome.next (if_pos (by simp [hoff])), ?_, fun f hf => ?_, ?_, ?_, fun h => absurd hoff h, fun _ => rfl⟩
      · exact (hframe F.SYS_STATUS_STEP (by decide)).trans (railsIn_step s)
      · rw [State.flag, hframe f (htrip f hf)]
        exact hflag f hf
      · rw [hmode.sys, hsys]
      · rw [hmode.sys, hsys]
    · refine ⟨railsIn s, congrArg Host.Outcome.next (if_neg (by simp [hoff])), railsIn_step s, hflag, ?_, ?_,
        fun _ => ⟨?_, railsIn_frame s⟩, fun h => absurd h hoff⟩
      · rw [hsys]
      · rw [hsys]
      · rw [railsIn_eq]
  · have hsaf : (railOut s rail).saf = State.reset.saf := by rw [railOut_eq]; exact reset_saf _ 0
    refine ⟨get_set_same _ F.SYS_STATUS_STEP 1, ?_, railOut_cause s rail, hsaf, ?_, ?_, railOut_mode s rail, reset_pairs _ hsaf⟩
    · rw [railOut_eq]; exact testBit_setBit_same _ _
    · rw [railOut_eq]
      exact (reset_sec _ 0).trans (by rw [railTripped_eq])
    · rw [railOut_eq]; exact reset_cmds _ 0
  · refine ⟨startAt { s with sys := { s.sys with rawZero := s.sys.raw } } 2, if_neg (by simp [hstep, hdown]),
      get_set_same _ F.SYS_STATUS_STEP 2, rfl, ?_, rfl⟩
    exact RegFrame.set (.other (.refl _ s) rfl) 2 (List.mem_singleton_self _)

end Sys2Proof.Machine

/-! ## The always-on clock and the clock step (R81, R83, R112)

What an F4 fault leaves in its cause and its balls, and with it O11. -/
namespace Sys2Proof.Machine

/-! ### An F4 fault records its cause (R646) -/

theorem countStart_frame (s : State) : RegFrame [F.SYS_START_FAIL_STEP, F.SYS_START_START_FAILS] s (countStart s) := by
  unfold countStart stepFailed
  exact .ite (((RegFrame.refl _ s).set _ (by simp)).set _ (by simp)) (.refl _ s)

/-- F4 is a reset cause after an F4 fault, in any state but OFF. -/
theorem raiseF4_get_cause {s : State} (h : s.mode ≠ .off) (code detail : Nat) :
    (raiseF4 s code detail).get F.SYS_RESET_CAUSE_F4 = 1 := by
  have hset : ((raiseFault (ballsLow s) 4 code detail).set F.SYS_RESET_CAUSE_F4 1).get F.SYS_RESET_CAUSE_F4 = 1 :=
    get_set_same _ F.SYS_RESET_CAUSE_F4 1
  have hcount := (countStart_frame _ F.SYS_RESET_CAUSE_F4 (by decide)).trans hset
  have hctl (v : State) : getReg (ctlOff v).regs F.SYS_RESET_CAUSE_F4 = getReg v.regs F.SYS_RESET_CAUSE_F4 :=
    ctlOff_frame v _ (by decide)
  unfold raiseF4
  rw [if_neg (by simpa using h)]
  simp only [get_getReg] at hcount ⊢
  generalize countStart _ = u at hcount ⊢
  split
  · exact hcount
  · rw [getReg_setMode _ _ (by decide), hctl]
    exact (RegFrame.ite (.setOne u F.SYS_STATUS_STEP 0xE) (.refl _ u) F.SYS_RESET_CAUSE_F4 (by decide)).trans hcount

/-! ### XTAL_AON -/

theorem xtalAonIn_get_ok (s : State) : (xtalAonIn s).get F.CLK_STATUS_XAON_OK = 1 := by
  simp (disch := decide) only [xtalAonIn, endFault, get_getReg, State.set_regs, getReg_setReg_other, getReg_setReg] <;> rfl

theorem xtalAonIn_get_rc (s : State) : (xtalAonIn s).get F.CLK_STATUS_RC_ACTIVE = 0 :=
  get_set_same _ F.CLK_STATUS_RC_ACTIVE 0

theorem xtalAonIn_frame (s : State) : RegFrame [F.CLK_STATUS_XAON_OK, F.CLK_STATUS_RC_ACTIVE] s (xtalAonIn s) :=
  .other (t := (s.set F.CLK_STATUS_XAON_OK 1).set F.CLK_STATUS_RC_ACTIVE 0) (((RegFrame.refl _ s).set _ (by simp)).set _ (by simp)) rfl

/-- Where the crystal is not in use, its going out is a fault of class F0 with the two bits of CLK_STATUS. -/
theorem xtalAonOut_eq {s : State} (h : s.flag F.CLK_STATUS_XAON_OK = false) :
    xtalAonOut s = raiseFault ((s.set F.CLK_STATUS_XAON_OK 0).set F.CLK_STATUS_RC_ACTIVE 1) 0 0x0101 0 := by
  unfold xtalAonOut
  rw [h]
  rfl

/-! ### The clock step -/

theorem startAt_step (s : State) (n : Nat) : (startAt s n).step = n % 2 ^ F.SYS_STATUS_STEP.width :=
  get_set_same s F.SYS_STATUS_STEP n

/-- The lock bits at the end of the clock step. -/
def lockBits (s : State) (xref core time mem safb : Bool) : State :=
  ((((s.put F.CLK_STATUS_XREF_OK xref).put F.CLK_STATUS_CORE_LK core).put F.CLK_STATUS_TIME_LK time).put
    F.CLK_STATUS_SAFB_LK safb).put F.CLK_STATUS_MEM_LK mem

/-- The fields of the lock bits. -/
def lockFields : List Fld :=
  [F.CLK_STATUS_XREF_OK, F.CLK_STATUS_CORE_LK, F.CLK_STATUS_TIME_LK, F.CLK_STATUS_SAFB_LK, F.CLK_STATUS_MEM_LK]

theorem lockBits_only (s : State) (xref core time mem safb : Bool) : RegsOnly lockFields s (lockBits s xref core time mem safb) :=
  (((((RegsOnly.refl _ s).set _ (by simp [lockFields])).set _ (by simp [lockFields])).set _ (by simp [lockFields])).set _
    (by simp [lockFields])).set _ (by simp [lockFields])

theorem lockFields_distinct : lockFields.Pairwise fun a b => a.key ≠ b.key := by decide

/-- With every clock locked every lock bit is set. -/
theorem lockBits_all (s : State) {f : Fld} (hf : f ∈ lockFields) : (lockBits s true true true true true).get f = 1 := by
  have hwidth : ∀ f ∈ lockFields, b2n true % 2 ^ f.width = 1 := by decide
  exact (get_foldl_put (g := fun _ => true) lockFields_distinct hf s).trans (hwidth f hf)

/-- A clock of R112 but PLL_MEM is missing: an F4 fault under the code of one of them. -/
theorem execClocksLocked_fatal {s : State} {xref core time mem safb : Bool} (h : s.atStep 2 = true)
    (hlost : (xref && core && time && safb) = false) :
    ∃ code, execClocksLocked xref core time mem safb s = .next (raiseF4 (lockBits s xref core time mem safb) code 0) := by
  unfold execClocksLocked
  rw [if_neg (by simp [h])]
  cases xref with
  | false => exact ⟨0x0102, rfl⟩
  | true =>
    cases core with
    | false => exact ⟨0x0105, rfl⟩
    | true =>
      cases time with
      | false => exact ⟨0x0106, rfl⟩
      | true =>
        cases safb with
        | false => exact ⟨0x0108, rfl⟩
        | true => cases hlost

/-- The clock step ends with every clock, or all but PLL_MEM. -/
theorem execClocksLocked_step {s : State} (h : s.atStep 2 = true) (mem : Bool) :
    execClocksLocked true true true mem true s = .next (startAt (if mem then lockBits s true true true mem true
      else raiseFault (stepFailed (nearOff (lockBits s true true true mem true)) 2) 2 0x0107 0) 3) := by
  unfold execClocksLocked
  rw [if_neg (by simp [h])]
  rfl

/-! ### O11 -/

/-- Settles O11: the crystal's two bits (`xtalAonIn_frame`, `xtalAonOut_eq`), the lock bits (`lockBits_only`) and, with a clock
missing, an F2 or an F4 fault (`execClocksLocked_step`, `execClocksLocked_fatal`). -/
theorem clockStepAndAonClock : Obligations.ClockStepAndAonClock := by
  intro s
  refine ⟨fun hlate => ⟨xtalAonIn s, ?_, xtalAonIn_get_ok s, xtalAonIn_get_rc s, xtalAonIn_frame s, rfl⟩, fun hlate => ⟨s, ?_, rfl⟩,
    fun hok => ?_, fun hstep => ?_, fun hstep => ?_, fun xref core time mem safb hstep hmode hlost => ?_⟩
  · exact congrArg Host.Outcome.next (if_neg (by simp [hlate]))
  · exact congrArg Host.Outcome.next (if_pos hlate)
  · have hout : execXtalAonTimeout s = .next { stepFailed (xtalAonOut s) 2 with sys := { s.sys with xaonLate := true } } := by
      unfold execXtalAonTimeout
      rw [if_neg (by simp [hok]), xtalAonOut_eq hok]
      simp only [stepFailed, State.set_sys, raiseFault_sys]
    rw [xtalAonOut_eq hok] at hout
    have hlogs := raiseFault_logs ((s.set F.CLK_STATUS_XAON_OK 0).set F.CLK_STATUS_RC_ACTIVE 1) 0 0x0101 0
    have hcnt := raiseFault_get_cnt ((s.set F.CLK_STATUS_XAON_OK 0).set F.CLK_STATUS_RC_ACTIVE 1) (cls := 0) 0x0101 0 (by omega)
    have hframe : RegFrame (F.CLK_STATUS_XAON_OK :: F.CLK_STATUS_RC_ACTIVE :: F.SYS_START_FAIL_STEP :: faultFields 0) s
        (stepFailed (raiseFault ((s.set F.CLK_STATUS_XAON_OK 0).set F.CLK_STATUS_RC_ACTIVE 1) 0 0x0101 0) 2) :=
      ((((RegFrame.refl _ s).set _ (by simp)).set _ (by simp)).raise 0 _ _ (by simp +contextual)).set _ (by simp)
    refine ⟨_, hout, ?_, ?_, ?_, ?_, rfl, .other hframe rfl, ?_, ?_⟩
    · simp (disch := decide) only [stepFailed, get_getReg, State.set_regs, getReg_setReg_other, getReg_raise, getReg_setReg] <;> rfl
    · simp (disch := decide) only [stepFailed, get_getReg, State.set_regs, getReg_setReg_other, getReg_raise, getReg_setReg] <;> rfl
    · simp only [stepFailed, get_getReg, State.set_regs, getReg_setReg] <;> rfl
    · simp (disch := decide) only [stepFailed, get_getReg, State.set_regs, getReg_setReg_other] at hcnt ⊢
      exact hcnt
    · simp only [stepFailed, State.set_mode, raiseFault_mode]
    · simp only [stepFailed, State.set_saf, raiseFault_saf]
  · refine ⟨_, execClocksLocked_step hstep true, startAt_step _ 3, ?_⟩
    rw [if_pos rfl]
    have hlock : ∀ f ∈ lockFields, (startAt (lockBits s true true true true true) 3).flag f = true := by
      intro f hf
      have hstep' : ∀ f ∈ lockFields, f.key ≠ F.SYS_STATUS_STEP.key := by decide
      rw [State.flag, startAt_set, get_set_other _ _ (hstep' f hf), lockBits_all s hf]
      rfl
    refine ⟨hlock _ (by decide), hlock _ (by decide), hlock _ (by decide), hlock _ (by decide), hlock _ (by decide), ?_⟩
    exact ((lockBits_only s true true true true true).subset (by simp [lockFields])).set 3 (by simp)
  · refine ⟨_, execClocksLocked_step hstep false, startAt_step _ 3, ?_⟩
    rw [if_neg Bool.false_ne_true]
    have hcnt := raiseFault_get_cnt (stepFailed (nearOff (lockBits s true true true false true)) 2) (cls := 2) 0x0107 0 (by omega)
    refine ⟨?_, ?_, ?_, ?_, ?_, ?_⟩
    · simp (disch := decide) only [lockBits, nearOff, stepFailed, startAt_set, State.put_set, State.flag, get_getReg, State.set_regs,
        getReg_setReg_other, getReg_raise, getReg_setReg]
      rfl
    · simp (disch := decide) only [lockBits, nearOff, stepFailed, startAt_set, get_getReg, State.set_regs,
        getReg_setReg_other, getReg_raise, getReg_setReg] <;> rfl
    · simp (disch := decide) only [lockBits, nearOff, stepFailed, startAt_set, get_getReg, State.set_regs,
        getReg_setReg_other, getReg_raise, getReg_setReg] <;> rfl
    · simp (disch := decide) only [lockBits, nearOff, stepFailed, startAt_set, get_getReg, State.set_regs,
        getReg_setReg_other, getReg_raise, getReg_setReg] <;> rfl
    · simp (disch := decide) only [lockBits, nearOff, stepFailed, startAt_set, State.put_set, get_getReg, State.set_regs,
        getReg_setReg_other] at hcnt ⊢
      exact hcnt
    · simp only [lockBits, nearOff, stepFailed, startAt_set, State.put_set, State.set_mode, raiseFault_mode]
  · obtain ⟨code, he⟩ := execClocksLocked_fatal (mem := mem) hstep hlost
    have hoff : s.mode ≠ .off := by
      rintro e
      simp [State.atStep, e] at hstep
    obtain ⟨herow, -, -, -, hfls⟩ := raiseF4_pins (lockBits s xref core time mem safb) code 0 hoff
    exact ⟨_, he, raiseF4_mode _ _ _ hmode hoff, raiseF4_get_cause (s := lockBits s xref core time mem safb) hoff _ _, herow, hfls⟩

end Sys2Proof.Machine

/-! ## The loss of PLL_MEM tells the safety block of lost cells (R279, log entry 76)

O12 says that the safety block stays as it was. A cell whose stall goes with the near yard gives the notice of a direction that is
not good (`badNotice`), and the block counts its notices. -/
namespace Sys2Proof.Machine

/-- An open cell in slot 0 of stall 0. -/
def lostCell : Cell :=
  { dir := 0, frame := 0, pc := false, ring := 0, start := 0, stop := 0, bw := 64, pre := 0, prePos := false, packed := false,
    stall := 0, k := 0, bins := [], wsum := [], wsat := [], left := 0, shots := 0, events := 0, sats := 0, shadows := 0,
    drop := false, bridge := false, mixed := false, cntSat := false, taken := [], base := 0, chan := 0, closed := false,
    short := false, stale := false, closedAt := 0, src := none }

/-- The stall of that cell lies in the near yard. -/
def nearStall : Stall :=
  { num := 0, at_ := ⟨.near, 0, 0⟩, pinned := false, moving := none, owner := 0, size := 0, used := [0], frees := [],
    hot := false, acc := 0, waits := none }

/-- The state after reset with that cell in its stall. -/
def nearCellState : State :=
  { State.reset with yrd := { State.reset.yrd with stalls := [nearStall] }, hge := { State.reset.hge with cells := [lostCell] } }

theorem pllMem_unlock_notices :
    (raiseFault (nearGone (nearCellState.set F.CLK_STATUS_MEM_LK 0)) 2 0x0107 0).saf.notices = 1 := by decide +kernel

/-- Refutes O12: PLL_UNLOCK of PLL_MEM does not leave the safety block where a cell lies in a near-yard stall, whose loss the
block counts as a notice. -/
theorem not_clockLossReactions : ¬ Obligations.ClockLossReactions := by
  unfold Obligations.ClockLossReactions
  intro h
  obtain ⟨-, -, ⟨t, ht, -, -, -, hsaf⟩, -⟩ := h nearCellState
  have hnotices := pllMem_unlock_notices
  injection ht with ht
  rw [ht, hsaf] at hnotices
  exact absurd hnotices (by decide)

end Sys2Proof.Machine

/-! ## REF_IN (R84 to R87)

What its loss, its return and its configuration write, and with it O13. -/
namespace Sys2Proof.Machine

/-- The registers that the entry into alternation writes. -/
def altFields : List Fld :=
  [F.IRQ_STICKY 14, F.RED_STATUS_ALT, F.RED_STATUS_ALT_CAUSE, F.RED_CNT_ALT, F.RED_STATUS_HALTER, F.RED_STATUS_STANDBY,
    F.RED_STATUS_SILENCE, F.SCH_STATUS_UNSURE, F.RED_DBL_MAX, F.RED_STATUS_ROLE]

theorem clearUnsure_frame (s : State) : RegFrame [F.SCH_STATUS_UNSURE, F.RED_DBL_MAX] s (clearUnsure s) := by
  unfold clearUnsure
  exact .ite (.refl _ s) (.other (((RegFrame.refl _ s).set 0 (by simp)).set _ (by simp)) rfl)

theorem noteRole_frame (s : State) : RegFrame [F.RED_STATUS_ROLE] s (noteRole s) := .setOne s F.RED_STATUS_ROLE (twinRole s)

theorem enterAlt_frame (s : State) (cause : Nat) : RegFrame altFields s (enterAlt s cause) := by
  unfold enterAlt
  refine .ite (.refl _ s) ?_
  have hstick : RegFrame altFields s (stick s 0x1C0) :=
    (RegFrame.refl _ s).set _ (by simp [altFields])
  generalize stick s 0x1C0 = t at hstick ⊢
  have hcause := (hstick.set (f := F.RED_STATUS_ALT) 1 (by simp [altFields])).set (f := F.RED_STATUS_ALT_CAUSE) cause (by simp [altFields])
  generalize (t.set F.RED_STATUS_ALT 1).set F.RED_STATUS_ALT_CAUSE cause = u at hcause ⊢
  dsimp only
  have hcount := (((hcause.inc (f := F.RED_CNT_ALT) (by simp [altFields])).set (f := F.RED_STATUS_HALTER) 0 (by simp [altFields])).set
    (f := F.RED_STATUS_STANDBY) 0 (by simp [altFields])).set (f := F.RED_STATUS_SILENCE) 0 (by simp [altFields])
  generalize (((u.inc F.RED_CNT_ALT).set F.RED_STATUS_HALTER 0).set F.RED_STATUS_STANDBY 0).set F.RED_STATUS_SILENCE 0 = v at hcount ⊢
  have hsure := hcount.trans ((clearUnsure_frame v).subset (by simp [altFields]))
  generalize clearUnsure v = x at hsure ⊢
  exact RegFrame.trans (RegFrame.other (t := x) hsure rfl) ((noteRole_frame _).subset (by simp [altFields]))

theorem crystalAlt_frame (s : State) : RegFrame altFields s (crystalAlt s) := by
  unfold crystalAlt
  exact .ite (enterAlt_frame s 3) (.refl _ s)

theorem crystalAlt_of_not_halves {s : State} (h : s.red.halves = false) : crystalAlt s = s := by
  unfold crystalAlt
  rw [h, Bool.and_false, Bool.false_and, if_neg (by decide)]

theorem flag_eq_false {s : State} {f : Fld} : s.flag f = false ↔ s.get f = 0 := by
  unfold State.flag
  simp

/-- REF_IN is lost: PLL_TIME leaves it, the loss is noted and counted, and no return waits. -/
def refLost (s : State) : State :=
  let s0 := if s.flag F.CLK_STATUS_REF_ACTIVE then noteRefSwitch s else s
  let t := (((s0.set F.CLK_STATUS_REF_ACTIVE 0).set F.CLK_STATUS_REF_PRESENT 0).set F.CLK_REF_EVENT_LOSS 1).inc F.CLK_REF_LOSS_CNT
  { t with sys := { t.sys with refReturn := none } }

theorem execRefInLoss_present {s : State} (h : s.flag F.CLK_STATUS_REF_PRESENT = true) :
    execRefInLoss s = .next (crystalAlt (raiseFault (refLost s) 0 0x0103 0)) := by
  unfold execRefInLoss
  rw [h]
  rfl

theorem refLost_regs (s : State) : (refLost s).regs =
    (((((s.set F.CLK_STATUS_REF_ACTIVE 0).set F.CLK_STATUS_REF_PRESENT 0).set F.CLK_REF_EVENT_LOSS 1)).inc F.CLK_REF_LOSS_CNT).regs := by
  unfold refLost
  split <;> rfl

theorem refLost_frame (s : State) : RegFrame [F.CLK_STATUS_REF_PRESENT, F.CLK_STATUS_REF_ACTIVE, F.CLK_REF_EVENT_LOSS,
    F.CLK_REF_LOSS_CNT] s (refLost s) :=
  .other (((((RegFrame.refl _ s).set (f := F.CLK_STATUS_REF_ACTIVE) 0 (by simp)).set (f := F.CLK_STATUS_REF_PRESENT) 0 (by simp)).set
    (f := F.CLK_REF_EVENT_LOSS) 1 (by simp)).inc (f := F.CLK_REF_LOSS_CNT) (by simp)) (refLost_regs s)

theorem refLost_get_present (s : State) : (refLost s).get F.CLK_STATUS_REF_PRESENT = 0 := by
  simp (disch := decide) only [get_getReg, refLost_regs, State.inc_set, State.set_regs, getReg_setReg_other, getReg_setReg] <;> rfl

theorem refLost_get_active (s : State) : (refLost s).get F.CLK_STATUS_REF_ACTIVE = 0 := by
  simp (disch := decide) only [get_getReg, refLost_regs, State.inc_set, State.set_regs, getReg_setReg_other, getReg_setReg] <;> rfl

theorem refLost_get_loss (s : State) : (refLost s).get F.CLK_REF_EVENT_LOSS = 1 := by
  simp (disch := decide) only [get_getReg, refLost_regs, State.inc_set, State.set_regs, getReg_setReg_other, getReg_setReg] <;> rfl

theorem refLost_get_count (s : State) : (refLost s).get F.CLK_REF_LOSS_CNT =
    min (s.get F.CLK_REF_LOSS_CNT + 1) (2 ^ F.CLK_REF_LOSS_CNT.width - 1) := by
  simp (disch := decide) only [get_getReg, refLost_regs, State.inc_set, State.set_regs, getReg_setReg_other, getReg_setReg]
  exact Nat.mod_eq_of_lt (by have : 0 < 2 ^ F.CLK_REF_LOSS_CNT.width := by decide
                             omega)

theorem refLost_parts (s : State) : (refLost s).mode = s.mode ∧ (refLost s).saf = s.saf ∧ (refLost s).red = s.red := by
  unfold refLost
  split <;> exact ⟨rfl, rfl, rfl⟩


/-- Outside its own fields, those of an F0 fault and those of alternation the loss of REF_IN leaves a register. -/
theorem crystalAlt_raise_get (s : State) (code : Nat) {f : Fld} (ha : ∀ g ∈ altFields, f.key ≠ g.key)
    (hf : ∀ g ∈ faultFields 0, f.key ≠ g.key) : (crystalAlt (raiseFault s 0 code 0)).get f = s.get f :=
  (crystalAlt_frame _ f ha).trans (getReg_raise s 0 code 0 hf)

theorem crystalAlt_now (s : State) : (crystalAlt s).now = s.now := crystalAlt_frame s F.TDC_DEVTIME (by decide)

theorem returnToRef_mode (s : State) (d : Int) : (returnToRef s d).mode = s.mode := rfl

/-- REF_IN is present: the bit is set and the fault of its loss ends. -/
def refPresent (s : State) : State := endFault (s.set F.CLK_STATUS_REF_PRESENT 1) 0x0103 0

theorem returnToRef_regs (s : State) (d : Int) :
    (returnToRef s d).regs = ((s.set F.CLK_STATUS_REF_ACTIVE 1).set F.CLK_REF_EVENT_RETURN 1).regs := rfl

theorem refPresent_get_present (s : State) : (refPresent s).get F.CLK_STATUS_REF_PRESENT = 1 :=
  get_set_same s F.CLK_STATUS_REF_PRESENT 1

theorem returnToRef_frame (s : State) (d : Int) : RegFrame [F.CLK_STATUS_REF_ACTIVE, F.CLK_REF_EVENT_RETURN] s (returnToRef s d) :=
  .other (((RegFrame.refl _ s).set (f := F.CLK_STATUS_REF_ACTIVE) 1 (by simp)).set (f := F.CLK_REF_EVENT_RETURN) 1 (by simp))
    (returnToRef_regs s d)

theorem returnToRef_get_active (s : State) (d : Int) : (returnToRef s d).get F.CLK_STATUS_REF_ACTIVE = 1 := by
  simp (disch := decide) only [get_getReg, returnToRef_regs, State.set_regs, getReg_setReg_other, getReg_setReg] <;> rfl

theorem returnToRef_get_return (s : State) (d : Int) : (returnToRef s d).get F.CLK_REF_EVENT_RETURN = 1 := by
  simp (disch := decide) only [get_getReg, returnToRef_regs, State.set_regs, getReg_setReg] <;> rfl

/-- The fields of CLK_REF_CFG but AUTO_RETURN. -/
def setRefCfg (s : State) (v : Nat) : State :=
  (((s.set F.CLK_REF_CFG_REF_FREQ v).set F.CLK_REF_CFG_PRESC (v / 4)).put F.CLK_REF_CFG_REF_SE (bit v 4)).put F.CLK_REF_CFG_REF_SEL
    (bit v 8)

theorem b2n_cut (b : Bool) : b2n b % 2 ^ 1 = b2n b := by cases b <;> rfl

theorem setRefCfg_frame (s : State) (v : Nat) : RegFrame [F.CLK_REF_CFG_REF_FREQ, F.CLK_REF_CFG_PRESC, F.CLK_REF_CFG_REF_SE,
    F.CLK_REF_CFG_REF_SEL] s (setRefCfg s v) :=
  ((((RegFrame.refl _ s).set (f := F.CLK_REF_CFG_REF_FREQ) v (by simp)).set (f := F.CLK_REF_CFG_PRESC) (v / 4) (by simp)).put
    (f := F.CLK_REF_CFG_REF_SE) (bit v 4) (by simp)).put (f := F.CLK_REF_CFG_REF_SEL) (bit v 8) (by simp)

theorem setRefCfg_get_freq (s : State) (v : Nat) : (setRefCfg s v).get F.CLK_REF_CFG_REF_FREQ = v % 4 := by
  simp (disch := decide) only [setRefCfg, get_getReg, State.put_set, State.set_regs, getReg_setReg_other, getReg_setReg] <;> rfl

theorem setRefCfg_get_presc (s : State) (v : Nat) :
    (setRefCfg s v).get F.CLK_REF_CFG_PRESC = v / 4 % 2 ^ F.CLK_REF_CFG_PRESC.width := by
  simp (disch := decide) only [setRefCfg, get_getReg, State.put_set, State.set_regs, getReg_setReg_other, getReg_setReg]

theorem setRefCfg_get_se (s : State) (v : Nat) : (setRefCfg s v).get F.CLK_REF_CFG_REF_SE = b2n (bit v 4) := by
  simp (disch := decide) only [setRefCfg, get_getReg, State.put_set, State.set_regs, getReg_setReg_other, getReg_setReg, b2n_cut]

theorem setRefCfg_get_sel (s : State) (v : Nat) : (setRefCfg s v).get F.CLK_REF_CFG_REF_SEL = b2n (bit v 8) := by
  simp (disch := decide) only [setRefCfg, get_getReg, State.put_set, State.set_regs, getReg_setReg, b2n_cut]

theorem applyRefCfg_frame (s : State) (v : Nat) : RegFrame [F.CLK_STATUS_REF_ACTIVE] (setRefCfg s v) (applyRefCfg s v) := by
  unfold applyRefCfg setRefCfg
  dsimp only
  generalize (((s.set F.CLK_REF_CFG_REF_FREQ v).set F.CLK_REF_CFG_PRESC (v / 4)).put F.CLK_REF_CFG_REF_SE (bit v 4)).put
    F.CLK_REF_CFG_REF_SEL (bit v 8) = t
  have hnote : RegFrame [F.CLK_STATUS_REF_ACTIVE] t (if t.flag F.CLK_STATUS_REF_ACTIVE then noteRefSwitch t else t) :=
    .ite (.other (.refl _ t) rfl) (.refl _ t)
  exact .ite (.other (hnote.set (f := F.CLK_STATUS_REF_ACTIVE) 0 (by simp)) rfl)
    (.ite (RegFrame.set (.other (.refl _ t) rfl) 1 (by simp)) (.refl _ t))

theorem applyRefCfg_parts (s : State) (v : Nat) : (applyRefCfg s v).mode = s.mode ∧
    (s.sys.refCfg = none → (applyRefCfg s v).sys.refCfg = none) := by
  unfold applyRefCfg
  dsimp only
  split
  · split <;> exact ⟨rfl, fun h => h⟩
  · split <;> exact ⟨rfl, fun h => h⟩

/-- REF_SEL 0 makes the reference inactive. -/
theorem applyRefCfg_crystal (s : State) {v : Nat} (h : bit v 8 = false) : (applyRefCfg s v).get F.CLK_STATUS_REF_ACTIVE = 0 ∧
    (applyRefCfg s v).sys.refReturn = none := by
  unfold applyRefCfg
  rw [h]
  exact ⟨get_set_same _ F.CLK_STATUS_REF_ACTIVE 0, rfl⟩


/-- Settles O13: each row by the registers that it writes; alternation, into which a loss may lead, writes none of them. -/
theorem referenceInput : Obligations.ReferenceInput := by
  unfold Obligations.ReferenceInput
  intro s
  refine ⟨fun hp => ?_, fun hp => ?_, fun offset hsel hauto hact => ?_, fun offset hno => ?_, fun v => ⟨fun hm => ?_, fun hm => ?_⟩⟩
  · refine ⟨crystalAlt (raiseFault (refLost s) 0 0x0103 0), execRefInLoss_present hp, ?_, ?_, ?_, ?_, ?_, fun hh => ?_⟩
    · exact (crystalAlt_raise_get _ _ (by decide) (by decide)).trans (refLost_get_present s)
    · exact (crystalAlt_raise_get _ _ (by decide) (by decide)).trans (refLost_get_active s)
    · exact (crystalAlt_raise_get _ _ (by decide) (by decide)).trans (refLost_get_loss s)
    · exact (crystalAlt_raise_get _ _ (by decide) (by decide)).trans (refLost_get_count s)
    · exact (crystalAlt_raise_get (f := F.TDC_DEVTIME) _ _ (by decide) (by decide)).trans (refLost_frame s F.TDC_DEVTIME (by decide))
    · obtain ⟨hmode, hsaf, hred⟩ := refLost_parts s
      rw [crystalAlt_of_not_halves (by rw [raiseFault_red, hred, hh])]
      refine ⟨by rw [raiseFault_mode, hmode], by rw [raiseFault_saf, hsaf], ?_⟩
      exact ((refLost_frame s).subset (by simp +contextual)).raise 0 _ _ (by simp +contextual)
  · refine ⟨{ s with sys := { s.sys with refReturn := none } }, ?_, rfl⟩
    show execRefInLoss s = _
    unfold execRefInLoss
    rw [hp]
    rfl
  · have hrun : exec (.refInQualified offset) s = if s.mode == .ready || s.mode == .scan
        then .next { refPresent s with sys := { (refPresent s).sys with refReturn := some offset } }
        else .next (returnToRef (refPresent s) offset) := by
      show execRefInQualified offset s = _
      unfold execRefInQualified
      rw [hsel, hauto, hact]
      rfl
    have hfr : RegFrame [F.CLK_STATUS_REF_PRESENT] s (refPresent s) := .setOne s F.CLK_STATUS_REF_PRESENT 1
    have hback := returnToRef_frame (refPresent s) offset
    by_cases hm : s.mode = .ready ∨ s.mode = .scan
    · rw [Gives, hrun, if_pos (by simpa using hm)]
      refine ⟨_, rfl, refPresent_get_present s, rfl, hfr F.TDC_DEVTIME (by decide), fun _ => ⟨rfl, ?_⟩, fun h => absurd hm h⟩
      exact (hfr F.CLK_STATUS_REF_ACTIVE (by decide)).trans (flag_eq_false.1 hact)
    · rw [Gives, hrun, if_neg (by simpa using hm)]
      refine ⟨_, rfl, ?_, rfl, ?_, fun h => absurd h hm, fun _ => ⟨?_, ?_⟩⟩
      · exact (hback F.CLK_STATUS_REF_PRESENT (by decide)).trans (refPresent_get_present s)
      · exact (hback F.TDC_DEVTIME (by decide)).trans (hfr F.TDC_DEVTIME (by decide))
      · exact returnToRef_get_active _ _
      · exact returnToRef_get_return _ _
  · refine ⟨refPresent s, ?_, refPresent_get_present s, .setOne s F.CLK_STATUS_REF_PRESENT 1, rfl⟩
    show execRefInQualified offset s = _
    unfold execRefInQualified
    rw [if_pos (by simpa [or_assoc] using hno)]
    rfl
  · refine ⟨{ s.put F.CLK_REF_CFG_AUTO_RETURN (bit v.toNat 9) with sys := { s.sys with refCfg := some v.toNat } }, ?_, ?_,
      .setOne s F.CLK_REF_CFG_AUTO_RETURN _, rfl⟩
    · show execClkRefCfgWrite v s = _
      unfold execClkRefCfgWrite writeRefCfg
      simp only [hm]
      rfl
    · exact (get_set_same s F.CLK_REF_CFG_AUTO_RETURN _).trans (b2n_cut _)
  · let u : State := { s.put F.CLK_REF_CFG_AUTO_RETURN (bit v.toNat 9) with sys := { s.sys with refCfg := none } }
    have hfr := applyRefCfg_frame u v.toNat
    refine ⟨applyRefCfg u v.toNat, ?_, ?_, ?_, ?_, ?_, ?_, (applyRefCfg_parts u _).2 rfl, (applyRefCfg_parts u _).1,
      fun hv => applyRefCfg_crystal u hv⟩
    · show execClkRefCfgWrite v s = _
      unfold execClkRefCfgWrite writeRefCfg
      dsimp only
      rw [if_neg (by simpa using hm)]
      rfl
    all_goals rw [hfr _ (by decide)]
    · exact setRefCfg_get_freq u _
    · exact setRefCfg_get_presc u _
    · exact setRefCfg_get_se u _
    · exact setRefCfg_get_sel u _
    · exact (setRefCfg_frame u _ F.CLK_REF_CFG_AUTO_RETURN (by decide)).trans
        ((get_set_same s F.CLK_REF_CFG_AUTO_RETURN _).trans (b2n_cut _))
end Sys2Proof.Machine

/-! ## The boot image and the herd firmware (R101, R103, R112, R165)

What the choice of an image writes, and with it O14. -/
namespace Sys2Proof.Machine

/-! ### What a step of the start-up says -/

theorem atStep_iff {s : State} {n : Nat} : s.atStep n = true ↔ (s.mode = .standby ∨ s.mode = .opened) ∧ s.step = n := by
  simp [State.atStep]

/-! ### An F4 fault keeps the image -/

theorem foldl_set_sys {α : Type} (l : List α) (f : α → Fld) (n : Nat) (s : State) :
    (l.foldl (fun (t : State) a => t.set (f a) n) s).sys = s.sys := by
  induction l generalizing s with
  | nil => rfl
  | cons a l ih => exact (ih (s.set (f a) n)).trans (State.set_sys ..)

theorem ctlOff_fw (s : State) : (ctlOff s).sys.fw = s.sys.fw := by
  have h : (clearCtl s).sys = s.sys := by
    unfold clearCtl setClusters
    rw [foldl_set_sys, foldl_set_sys]
  unfold ctlOff
  dsimp only
  rw [h]

theorem countStart_sys (s : State) : (countStart s).sys = s.sys := by
  unfold countStart stepFailed
  split <;> simp only [State.set_sys]

theorem raiseF4_fw (s : State) (code detail : Nat) : (raiseF4 s code detail).sys.fw = s.sys.fw := by
  have hcount : (countStart ((raiseFault (ballsLow s) 4 code detail).set F.SYS_RESET_CAUSE_F4 1)).sys = s.sys := by
    rw [countStart_sys, State.set_sys, raiseFault_sys]
    rfl
  unfold raiseF4
  split
  · rfl
  generalize countStart _ = u at hcount ⊢
  dsimp only
  split
  · rw [hcount]
  · dsimp only
    rw [setMode_sys, ctlOff_fw]
    split
    · rw [State.set_sys, hcount]
    · rw [hcount]

/-! ### The marks and the image -/

/-- The fields that the boot ROM writes before it runs an image. -/
def bootFields : List Fld :=
  [F.SEC_FW_A, F.SEC_FW_B, F.SEC_STATUS_ACTIVE, F.SEC_STATUS_PENDING, F.SEC_STATUS_SLOT_VALID]

theorem setMarks_frame (s : State) (a p : Nat) : RegFrame [F.SEC_STATUS_ACTIVE, F.SEC_STATUS_PENDING, F.SEC_STATUS_SLOT_VALID] s
    (setMarks s a p) :=
  .other ((((RegFrame.refl _ s).set (f := F.SEC_STATUS_ACTIVE) a (by simp)).set (f := F.SEC_STATUS_PENDING) p (by simp)).set
    (f := F.SEC_STATUS_SLOT_VALID) (validSlots s) (by simp)) rfl

/-- The versions and the marks show (R103, R664). -/
def readImages (s : State) (a b : ImgRead) : State :=
  setMarks ((s.set F.SEC_FW_A (if a.ok then a.version else 0)).set F.SEC_FW_B (if b.ok then b.version else 0)) s.sec.active s.sec.marked

theorem readImages_frame (s : State) (a b : ImgRead) : RegFrame bootFields s (readImages s a b) :=
  (((RegFrame.refl _ s).set (f := F.SEC_FW_A) _ (by simp [bootFields])).set (f := F.SEC_FW_B) _ (by simp [bootFields])).trans
    ((setMarks_frame _ _ _).subset (by simp [bootFields]))

theorem loadImage_frame (s : State) (n : Nat) (i active : ImgRead) : RegFrame [F.SYS_START_IMAGE] s (loadImage s n i active) :=
  .other (.setOne s F.SYS_START_IMAGE n) rfl

/-- No image is good: the pending mark goes, the fallback is noted and an F1 fault logged. -/
def noFirstImage (s : State) (a b : ImgRead) : State :=
  raiseFault (stepFailed ((setMarks (readImages s a b) s.sec.active 0).set F.SYS_START_IMG_FALLBACK 1) 3) 1 0x0005 (firstImage s)

theorem noFirstImage_parts (s : State) (a b : ImgRead) : (noFirstImage s a b).mode = s.mode ∧ (noFirstImage s a b).sys = s.sys := by
  unfold noFirstImage stepFailed
  rw [raiseFault_mode, raiseFault_sys]
  exact ⟨rfl, rfl⟩

theorem noFirstImage_fallback (s : State) (a b : ImgRead) : (noFirstImage s a b).get F.SYS_START_IMG_FALLBACK = 1 := by
  unfold noFirstImage stepFailed
  simp (disch := decide) only [get_getReg, getReg_raise, State.set_regs, getReg_setReg_other, getReg_setReg] <;> rfl

/-- The image of a region. -/
def imageOf (a b : ImgRead) (k : Nat) : ImgRead := if k = 1 then a else b

theorem execImageCheckDone_first {s : State} {a b : ImgRead} (h : s.atStep 3 = true) (h0 : s.get F.SYS_START_IMAGE = 0)
    (hg : imageGood s (imageOf a b (firstImage s)) = true) : execImageCheckDone a b s = .next (loadImage (readImages s a b)
      (firstImage s) (imageOf a b (firstImage s)) (imageOf a b (if s.sec.active != 0 then s.sec.active else 1))) := by
  unfold execImageCheckDone
  rw [if_neg (by simp [h, h0])]
  exact if_pos hg

theorem execImageCheckDone_none {s : State} {a b : ImgRead} (h : s.atStep 3 = true) (h0 : s.get F.SYS_START_IMAGE = 0)
    (ha : imageGood s a = false) (hb : imageGood s b = false) :
    execImageCheckDone a b s = .next (raiseF4 (noFirstImage s a b) 0x0006 0) := by
  have hbad (k : Nat) : ¬ imageGood s (imageOf a b k) = true := by unfold imageOf; split <;> simp [ha, hb]
  unfold execImageCheckDone
  rw [if_neg (by simp [h, h0])]
  exact (if_neg (hbad (firstImage s))).trans (if_neg (hbad (3 - firstImage s)))

/-! ### The herd firmware -/

/-- The firmware runs: CMD_LIVE, its versions, its schema and the next step. -/
def firmwareUp (s : State) : State :=
  startAt (((((s.set F.SYS_STATUS_CMD_LIVE 1).set F.CMD_INFO_CUR_MAJ s.sys.fw.major).set F.CMD_INFO_PREV_MAJ s.sys.fw.prev).put
    F.CMD_INFO_PREV_VALID (s.sys.fw.prev != 0)).set F.RED_SCHEMA_OWN s.sys.fw.schema) (if s.mode == .opened then 0 else 4)

theorem firmwareUp_frame (s : State) : RegFrame [F.SYS_STATUS_CMD_LIVE, F.CMD_INFO_CUR_MAJ, F.CMD_INFO_PREV_MAJ,
    F.CMD_INFO_PREV_VALID, F.RED_SCHEMA_OWN, F.SYS_STATUS_STEP] s (firmwareUp s) :=
  ((((((RegFrame.refl _ s).set (f := F.SYS_STATUS_CMD_LIVE) 1 (by simp)).set (f := F.CMD_INFO_CUR_MAJ) s.sys.fw.major (by simp)).set
    (f := F.CMD_INFO_PREV_MAJ) s.sys.fw.prev (by simp)).put (f := F.CMD_INFO_PREV_VALID) (s.sys.fw.prev != 0) (by simp)).set
    (f := F.RED_SCHEMA_OWN) s.sys.fw.schema (by simp)).set (f := F.SYS_STATUS_STEP) (if s.mode == .opened then 0 else 4) (by simp)

theorem firmwareUp_get_live (s : State) : (firmwareUp s).get F.SYS_STATUS_CMD_LIVE = 1 := by
  simp (disch := decide) only [firmwareUp, get_getReg, startAt_set, State.put_set, State.set_regs, getReg_setReg_other, getReg_setReg]
    <;> rfl

theorem firmwareUp_get_major (s : State) : (firmwareUp s).get F.CMD_INFO_CUR_MAJ = s.sys.fw.major % 256 := by
  simp (disch := decide) only [firmwareUp, get_getReg, startAt_set, State.put_set, State.set_regs, getReg_setReg_other, getReg_setReg]
    <;> rfl

theorem firmwareUp_get_prev (s : State) : (firmwareUp s).get F.CMD_INFO_PREV_MAJ = s.sys.fw.prev % 256 := by
  simp (disch := decide) only [firmwareUp, get_getReg, startAt_set, State.put_set, State.set_regs, getReg_setReg_other, getReg_setReg]
    <;> rfl

theorem firmwareUp_step (s : State) : (firmwareUp s).step = if s.mode = .opened then 0 else 4 := by
  simp only [State.step, firmwareUp, get_getReg, startAt_set, State.set_regs, getReg_setReg, beq_iff_eq]
  split <;> rfl

/-- R163: after a wake that MGMT_CS# did not cause, a STATUS response in an empty slot. -/
def answerWake (u : State) : State :=
  if u.cmd.wakeStatus && u.cmd.resp.isNone then { u with cmd := { u.cmd with resp := some (0x82, 0, statusBody u) } } else u

theorem answerWake_cmd (u : State) : ∃ cmd, answerWake u = { u with cmd := cmd } := by
  unfold answerWake
  split <;> exact ⟨_, rfl⟩

/-- Beside the command block HERD_FIRMWARE_RUNNING leaves what `firmwareUp` says. -/
theorem execHerdFirmwareRunning_cmd {s : State} (h : s.atStep 3 = true) (hi : s.get F.SYS_START_IMAGE ≠ 0) :
    ∃ cmd, execHerdFirmwareRunning s = .next { firmwareUp s with cmd := cmd } := by
  obtain ⟨cmd, hcmd⟩ := answerWake_cmd (firmwareUp s)
  have hrun : execHerdFirmwareRunning s = .next { answerWake (firmwareUp s) with
      cmd := { (answerWake (firmwareUp s)).cmd with wakeStatus := false } } := by
    unfold execHerdFirmwareRunning
    rw [if_neg (by simp [h, hi])]
    rfl
  exact ⟨_, by rw [hrun, hcmd]⟩

/-- Settles O14: the image chosen is the first good one, and an F4 fault leaves the fallback's mark and the image. -/
theorem bootImageAndFirmware : Obligations.BootImageAndFirmware := by
  unfold Obligations.BootImageAndFirmware
  intro s h
  obtain ⟨hmode, hstep⟩ := atStep_iff.1 h
  refine ⟨fun h0 a b hg => ?_, fun h0 a b ha hb ho => ?_, fun hi => ?_⟩
  · have hload := loadImage_frame (readImages s a b) (firstImage s) (imageOf a b (firstImage s))
      (imageOf a b (if s.sec.active != 0 then s.sec.active else 1))
    refine ⟨_, execImageCheckDone_first h h0 hg, get_set_same _ F.SYS_START_IMAGE _, rfl, rfl, ?_, ?_⟩
    · exact ((hload F.SYS_STATUS_STEP (by decide)).trans (readImages_frame s a b F.SYS_STATUS_STEP (by decide))).trans hstep
    · exact ((readImages_frame s a b).subset (by simp +contextual [bootFields])).trans (hload.subset (by simp))
  · obtain ⟨hm, hsys⟩ := noFirstImage_parts s a b
    have hoff : s.mode ≠ .off := by rintro e; simp [e] at hmode
    refine ⟨_, execImageCheckDone_none h h0 ha hb, ?_, ?_, ?_, ?_⟩
    · exact raiseF4_mode _ _ _ (by rwa [hm]) (by rwa [hm])
    · exact raiseF4_get_cause (s := noFirstImage s a b) (by rwa [hm]) _ _
    · rw [raiseF4_fw, hsys]
    · exact (getReg_raiseF4 _ _ _ (by decide)).trans (noFirstImage_fallback s a b)
  · obtain ⟨cmd, hrun⟩ := execHerdFirmwareRunning_cmd h hi
    exact ⟨_, hrun, firmwareUp_get_live s, firmwareUp_get_major s, firmwareUp_get_prev s, firmwareUp_step s, rfl,
      .other (firmwareUp_frame s) rfl⟩

end Sys2Proof.Machine

/-! ## The yard's own operations (R281 to R292)

A placement, a move and the giving up of a stall change the yard, its counts and the choices that the spec leaves free. -/
namespace Sys2Proof.Machine

/-- The registers that placing and moving stalls write. -/
def yardFields : List Fld :=
  [F.YRD_TLB_HIT, F.YRD_TLB_MISS, F.YRD_CNT_EVICT, F.YRD_CNT_PAGEOUT, F.YRD_CNT_PAGEIN, F.YRD_CNT_PROMOTE, F.YRD_CNT_SYNC]

/-- The yard, its counts and the free choices may change, and nothing else. -/
structure Yards (s t : State) : Prop where
  eq : t = { s with regs := t.regs, yrd := t.yrd, free := t.free }
  frame : RegFrame yardFields s t

theorem Yards.refl (s : State) : Yards s s := ⟨rfl, .refl _ s⟩

theorem Yards.trans {r s t : State} (h : Yards r s) (k : Yards s t) : Yards r t := by
  refine ⟨?_, h.frame.trans k.frame⟩
  rw [k.eq, h.eq]

theorem Yards.set {s t : State} (h : Yards s t) {f : Fld} (v : Nat) (hf : f ∈ yardFields) : Yards s (t.set f v) :=
  h.trans ⟨rfl, (RegFrame.refl _ t).set v hf⟩

theorem Yards.inc {s t : State} (h : Yards s t) {f : Fld} (hf : f ∈ yardFields) : Yards s (t.inc f) := h.set _ hf

theorem Yards.ite {s t u : State} {c : Prop} [Decidable c] (h : Yards s t) (k : Yards s u) : Yards s (if c then t else u) := by
  split <;> assumption

/-- The yard's part of the state takes a value. -/
theorem Yards.yrd (s : State) (y : YardSt) : Yards s { s with yrd := y } := ⟨rfl, .other (.refl _ s) rfl⟩

theorem updStall_yards (s : State) (n : Nat) (f : Stall → Stall) : Yards s (updStall s n f) := .yrd s _

theorem leftPlace_yards (s : State) (n : Nat) : Yards s (leftPlace s n) := .yrd s _

theorem dropStall_yards (s : State) (n : Nat) : Yards s (dropStall s n) := (Yards.yrd s _).trans (leftPlace_yards _ n)

theorem lookMap_yards (s : State) (n : Nat) : Yards s (lookMap s n) := by
  unfold lookMap
  refine .ite ((Yards.refl s).inc (by simp [yardFields])) ?_
  have hmiss : Yards s (s.inc F.YRD_TLB_MISS) := (Yards.refl s).inc (by simp [yardFields])
  generalize s.inc F.YRD_TLB_MISS = t at hmiss ⊢
  exact .ite (hmiss.trans (.yrd t _)) (hmiss.trans ⟨rfl, .other (.refl _ t) rfl⟩)

theorem startMove_yards (s : State) (n : Nat) (p : Place) : Yards s (startMove s n p) :=
  (lookMap_yards s n).trans (updStall_yards _ n _)

theorem newStall_yards {s u : State} {t : Tier} {owner size n : Nat} {w : Option Nat} (h : newStall s t owner size w = some (n, u)) :
    Yards s u := by
  unfold newStall at h
  dsimp only at h
  split at h
  · obtain ⟨-, rfl⟩ := Prod.mk.inj (Option.some.inj h)
    exact .yrd s _
  · cases h

theorem evictLoft_yards (s : State) : Yards s (evictLoft s).2 := by
  unfold evictLoft
  split
  · exact .refl s
  · split
    · exact (startMove_yards ..).inc (by simp [yardFields])
    · split
      · exact (((startMove_yards ..).trans (startMove_yards ..)).trans (updStall_yards ..)).inc (by simp [yardFields])
      · exact .refl s

theorem syncEvict_yards (s : State) : Yards s (syncEvict s).2 := by
  unfold syncEvict
  split
  · exact evictLoft_yards s
  · exact .refl s

theorem makeRoom_yards (fuel : Nat) (s : State) : Yards s (makeRoom fuel s) := by
  induction fuel generalizing s with
  | zero => exact .refl s
  | succ fuel ih =>
    unfold makeRoom
    refine .ite (.refl s) ?_
    split
    · exact (startMove_yards ..).trans (ih _)
    · exact .refl s

theorem startFetches_yards (fuel : Nat) (s : State) : Yards s (startFetches fuel s) := by
  induction fuel generalizing s with
  | zero => exact .refl s
  | succ fuel ih =>
    unfold startFetches
    split
    · exact .refl s
    next n r _ =>
      have hpop : Yards s { s with yrd := { s.yrd with fetches := r } } := .yrd s _
      dsimp only
      split
      · exact hpop.trans (ih _)
      · refine .ite (hpop.trans (ih _)) (.ite (.refl s) ?_)
        split
        · exact (hpop.trans (startMove_yards ..)).trans (ih _)
        · exact .refl s

theorem serveFetches_yards (s : State) : Yards s (serveFetches s) :=
  (startFetches_yards _ s).trans (makeRoom_yards _ _)

theorem dropStalls_yards (s : State) (l : List Nat) : Yards s (dropStalls s l) :=
  Yards.trans (List.foldlRecOn l dropStall (.refl s) fun _ h n _ => h.trans (dropStall_yards _ n)) (serveFetches_yards _)

theorem ownedStall_yards {s u : State} {t : Tier} {owner n : Nat} (h : ownedStall s t owner = some (n, u)) : Yards s u := by
  unfold ownedStall at h
  dsimp only at h
  split at h
  · exact (syncEvict_yards s).trans (newStall_yards h)
  · exact newStall_yards h

theorem placeOwned_yards {owner : Nat} {tier : Tier} {n : Nat} {s u : State} {l : List Nat}
    (h : placeOwned owner tier n s = some (l, u)) : Yards s u := by
  induction n generalizing s l with
  | zero =>
    obtain ⟨-, rfl⟩ := Prod.mk.inj (Option.some.inj h)
    exact .refl s
  | succ n ih =>
    unfold placeOwned at h
    split at h
    next k t ht =>
      split at h
      · cases h
      · obtain ⟨⟨l', u'⟩, hrest, heq⟩ := Option.map_eq_some_iff.1 h
        obtain ⟨-, rfl⟩ := Prod.mk.inj heq
        exact ((serveFetches_yards s).trans (ownedStall_yards ht)).trans (ih hrest)
    · cases h

end Sys2Proof.Machine

/-! ## The thermal path's own operations (chapter 12)

What a configuration, a start or a stop of the thermal path may change beside registers. -/
namespace Sys2Proof.Machine

/-- What the thermal path changes: its own part, registers, balls, commands, the yard, the fault log and what is sent. -/
def Heats (s t : State) : Prop :=
  t = { s with regs := t.regs, thm := t.thm, pins := t.pins, cmd := t.cmd, yrd := t.yrd, free := t.free, hold := t.hold,
               faults := t.faults, reactions := t.reactions, acq := t.acq, tx := t.tx }

theorem Heats.mode {s t : State} (h : Heats s t) : t.mode = s.mode := by rw [h]

theorem Heats.sys {s t : State} (h : Heats s t) : t.sys = s.sys := by rw [h]

theorem Heats.saf {s t : State} (h : Heats s t) : t.saf = s.saf := by rw [h]

theorem Heats.refl (s : State) : Heats s s := rfl

theorem Heats.trans {r s t : State} (h : Heats r s) (k : Heats s t) : Heats r t := by
  unfold Heats at *
  rw [k, h]

theorem Heats.ite {s t u : State} {c : Prop} [Decidable c] (h : Heats s t) (k : Heats s u) : Heats s (if c then t else u) := by
  split <;> assumption

theorem Heats.set {s t : State} (h : Heats s t) (f : Fld) (v : Nat) : Heats s (t.set f v) := h.trans rfl

theorem Heats.foldl {α : Type} {s t : State} (g : State → α → State) (xs : List α) (h : Heats s t)
    (hg : ∀ u x, Heats u (g u x)) : Heats s (xs.foldl g t) :=
  List.foldlRecOn xs g h fun u hu x _ => hu.trans (hg u x)

theorem Heats.pins (s : State) (p : Pins) : Heats s { s with pins := p } := rfl

theorem Yards.heats {s t : State} (h : Yards s t) : Heats s t := by
  unfold Heats
  rw [h.eq]

theorem Logs.heats {s t : State} (h : Logs s t) : Heats s t := by
  unfold Heats
  rw [h.eq]

theorem Completes.heats {s t : State} (h : Completes s t) : Heats s t := by
  unfold Heats
  rw [h.eq]

theorem raiseFault_heats (s : State) (cls code detail : Nat) : Heats s (raiseFault s cls code detail) :=
  (raiseFault_logs s cls code detail).heats

theorem finish_heats (s : State) (c : Cmd) (status detail result : Nat) : Heats s (finish s c status detail result) :=
  (finishWith_completes s c status detail result []).heats

theorem setThm_heats (s : State) (f : ThmSt → ThmSt) : Heats s (setThm s f) := rfl

theorem applyNow_heats (s : State) : Heats s (applyNow s) := by
  unfold applyNow
  exact (Heats.foldl _ _ (.refl s) fun u h => (Heats.refl u).set _ _).trans (setThm_heats _ _)

theorem haltFrames_heats (s : State) : Heats s (haltFrames s) :=
  ((applyNow_heats s).set _ _).trans (setThm_heats _ _)

theorem muteMon_heats (s : State) (n : Nat) : Heats s (muteMon s n) := by
  unfold muteMon
  dsimp only
  generalize hu : (setMon s _).set (F.THM_MON_CH_VALID n) 0 = u
  have h : Heats s u := by
    subst hu
    exact (setThm_heats s _).set _ _
  exact .ite (h.set _ _) h

theorem muteAll_heats (s : State) : Heats s (muteAll s) := .foldl _ _ (.refl s) muteMon_heats

theorem startSettling_heats (s : State) (fast : Bool) : Heats s (startSettling s fast) := by
  have h : Heats s ((if s.get F.THM_STATUS_STATE = 1 then s.inc F.THM_CNT_RESETTLE else s).set F.THM_STATUS_STATE 1) :=
    (Heats.ite ((Heats.refl s).set _ _) (.refl s)).set _ _
  unfold startSettling
  exact h.trans (setThm_heats _ _)

theorem endConfig_heats (s : State) (status result : Nat) : Heats s (endConfig s status result) := by
  unfold endConfig
  split
  · dsimp only
    split
    · exact (setThm_heats s _).trans (finish_heats ..)
    · exact setThm_heats s _
  · exact .refl s

theorem startFfc_heats (s : State) (cmd : Option (Port × Nat)) : Heats s (startFfc s cmd) :=
  rfl

theorem startHeld_heats (s : State) : Heats s (startHeld s) := by
  unfold startHeld
  refine .ite (Heats.ite ((setThm_heats s _).trans (startFfc_heats _ _)) (setThm_heats s _)) (.refl s)

theorem endFfc_heats (s : State) (cause bad : Nat) : Heats s (endFfc s cause bad) := by
  unfold endFfc
  dsimp only
  generalize hu : setThm _ _ = u
  have h : Heats s u := by
    subst hu
    rfl
  split
  · split
    · exact (h.trans (finish_heats ..)).trans (startHeld_heats _)
    · exact h.trans (startHeld_heats _)
  · exact h

theorem stopFrames_heats (s : State) (state : Nat) : Heats s (stopFrames s state) := by
  have h : Heats s (setThm ((applyNow s).set F.THM_STATUS_STATE state) fun x => { x with frame := none }) :=
    ((applyNow_heats s).set _ _).trans (setThm_heats _ _)
  exact .ite (h.trans (endFfc_heats ..)) h

theorem losePath_heats (s : State) (detail : Nat) : Heats s (losePath s detail) :=
  ((stopFrames_heats s 3).trans (.pins _ _)).trans (raiseFault_heats _ _ _ _)

theorem foundPath_heats (s : State) : Heats s (foundPath s) := rfl

theorem noStalls_heats (s : State) : Heats s (noStalls s) := rfl

theorem clearCorrection_heats (s : State) : Heats s (clearCorrection s) := by
  have h (l : List Fld) : Heats s (l.foldl (fun (t : State) f => t.set f 0) s) :=
    .foldl _ _ (.refl s) fun u f => (Heats.refl u).set f 0
  unfold clearCorrection
  dsimp only
  generalize hu : List.foldl _ s _ = u
  have hu : Heats s u := hu ▸ h _
  exact (hu.set F.THM_STATUS_NO_CORR 1).trans (setThm_heats _ _)

theorem takeGeometry_heats {s t : State} (h : takeGeometry s = some t) : Heats s t := by
  unfold takeGeometry at h
  generalize hg : geomNow s = g at h
  generalize thermalStalls (pixelCount s) = p at h
  obtain ⟨near, loft⟩ := p
  have hdrop : Heats s (setThm (dropStalls s s.thm.stalls) fun x => { x with stalls := [], geom := none }) :=
    (dropStalls_yards s _).heats.trans (setThm_heats _ _)
  dsimp only at h
  generalize setThm _ _ = u at h hdrop
  split at h
  · obtain rfl := Option.some.inj h
    exact .refl s
  · split at h
    · cases h
    next a v hv =>
      split at h
      · cases h
      next b w hw =>
        obtain rfl := Option.some.inj h
        exact ((hdrop.trans (placeOwned_yards hv).heats).trans (placeOwned_yards hw).heats).trans (setThm_heats _ _)

theorem setNow_heats (s : State) (f : Fld) (v : Nat) : Heats s (setNow s f v) := .ite rfl rfl

theorem writeField_heats (s : State) (stage : Option Bool) (v : Nat) (e : Fld × Acc) : Heats s (writeField s stage v e) := by
  have hput : Heats s (match stage with
      | some late => holdField s late e.1 (e.1.of v)
      | none => setNow s e.1 (e.1.of v)) := by
    split
    · rfl
    · exact setNow_heats s _ _
  unfold writeField
  dsimp only
  split
  · exact .refl s
  · exact hput
  · exact .ite (.refl s) hput
  · rfl
  · rfl
  · exact .refl s

theorem lockLog_heats (s : State) (off : Nat) (fs : List (Fld × Acc)) (v : Nat) : Heats s (lockLog s off fs v) := by
  have h : Heats s (if rwlHit s fs v 0 then raiseFault s 0 0x0007 off else s) := .ite (raiseFault_heats ..) (.refl s)
  exact .ite (.refl s) (.ite (h.trans (raiseFault_heats ..)) h)

theorem writeAt_heats (s : State) (x v : Nat) : Heats s (writeAt s x v) := by
  unfold writeAt
  split
  · exact .foldl _ _ (lockLog_heats ..) fun u e => writeField_heats u _ _ e
  · exact .refl s

theorem writeMonCh_heats (s : State) (n v : Nat) : Heats s (writeMonCh s n v) := by
  unfold writeMonCh
  refine .ite (.refl s) ?_
  dsimp only
  generalize ht : State.set _ (F.THM_MON_CH_RLOG n) _ = t
  have h : Heats s t := by subst ht; rfl
  exact .ite (h.trans (muteMon_heats t n)) (.ite (h.trans (setThm_heats t _)) h)

/-- The switches of THM_CTRL as THM_CONFIG writes them. -/
theorem configCtrl_heats (s : State) (v : Nat) : Heats s (writeThm s true 0 v) := by
  unfold writeThm
  dsimp only
  rw [if_pos rfl, if_pos rfl]
  generalize ht : State.put _ F.THM_CTRL_EN _ = t
  have h : Heats s t := by subst ht; rfl
  have hmute : Heats s (if bit v 0 && !s.flag F.THM_CTRL_EN then muteAll t else t) := .ite (h.trans (muteAll_heats t)) h
  exact hmute.trans (.pins _ _)

/-- A register write of a THM_CONFIG list. -/
theorem writeThm_config_heats (s : State) (o v : Nat) : Heats s (writeThm s true o v) := by
  have hhold (f : Fld) (u : State) : Heats u (if framesRun u && !true then holdFsync u f v else u.set f (f.of v)) := .ite rfl rfl
  by_cases h0 : o = 0
  · subst h0
    exact configCtrl_heats s v
  unfold writeThm
  dsimp only
  rw [if_neg h0]
  refine .ite ?_ (.ite ?_ (.ite ((hhold _ s).trans (hhold _ _)) (.ite ((hhold _ s).trans (hhold _ _)) (.ite ?_ (.ite rfl (.ite rfl
    (.ite rfl (.ite ?_ (.ite (writeMonCh_heats ..) (writeAt_heats ..))))))))))
  · have ht : Heats s (if bit v 18 then endFault (s.set F.THM_STATUS_SHUT_STUCK 0) 0x0B02 0 else s) := .ite rfl rfl
    exact .ite (ht.set _ _) ht
  · exact .ite (.refl s) (.ite (writeAt_heats ..) ((writeAt_heats ..).trans (clearCorrection_heats _)))
  · exact .ite (.refl s) (writeAt_heats ..)
  · exact .ite ((((Heats.refl s).set F.THM_MON_CFG_TONE_SEL _).set F.THM_MON_CFG_FIR_N _).trans (muteAll_heats _)) rfl

theorem runList_heats (l : List (Nat × Nat)) (acked : Nat) (s : State) : Heats s (runList l acked s).1 := by
  induction l generalizing acked s with
  | nil => exact .refl s
  | cons e l ih =>
    unfold runList
    split
    · exact (writeThm_config_heats ..).trans (ih ..)
    · have htx (x : Sent) : Heats s { s with tx := s.tx ++ [x] } := rfl
      dsimp only
      split
      · exact htx _
      · exact (htx _).trans (ih ..)
    · exact ih ..

/-- R112: the excitation of the thermal array. -/
theorem excite_heats (s : State) (r : ExciteEnd) : Heats s (excite s r) := by
  unfold excite
  refine .ite (.refl s) ?_
  dsimp only
  have hlist (acked : Nat) := (haltFrames_heats s).trans (runList_heats s.thm.list acked (haltFrames s))
  generalize hp : runList s.thm.list _ (haltFrames s) = p
  replace hlist : Heats s p.1 := hp ▸ hlist _
  refine .ite hlist ?_
  split
  · exact hlist.trans (noStalls_heats _)
  next u hu =>
    have hgeom := hlist.trans (takeGeometry_heats hu)
    split
    · exact (hgeom.set F.THM_STATUS_ILIM 1).trans (losePath_heats ..)
    · exact hgeom.trans (losePath_heats ..)
    · exact ((hgeom.trans (muteAll_heats u)).trans (foundPath_heats _)).set F.THM_STATUS_STATE 2

theorem thmOff_heats (s : State) : Heats s (thmOff s) :=
  ((stopFrames_heats s 0).trans (endConfig_heats ..)).trans (.pins _ _)

end Sys2Proof.Machine

/-! ## The last steps of a start-up (R90, R104, R105, R113)

The near yard and the calibration after RL training, READY, and the way back to STANDBY; with them O15. -/
namespace Sys2Proof.Machine

/-! ### A command that ends -/

/-- A final completion writes at most the count of discarded completions. -/
theorem finishWith_frame (s : State) (c : Cmd) (st d r : Nat) (out : List Byte) :
    RegFrame [F.CMD_ERR_CNT_DISCARD_CNT] s (finishWith s c st d r out) := by
  have hqueue : RegFrame [F.CMD_ERR_CNT_DISCARD_CNT] s (queueComp s c st d (resultOf s st r) true out) :=
    .ite ((RegFrame.refl _ s).inc (by simp)) (.other (.refl _ s) rfl)
  unfold finishWith
  exact .ite (hqueue.other rfl) (hqueue.other rfl)

theorem finish_frame (s : State) (c : Cmd) (st d r : Nat) : RegFrame [F.CMD_ERR_CNT_DISCARD_CNT] s (finish s c st d r) :=
  finishWith_frame s c st d r []

theorem finishRunning_frame (s : State) (op st r : Nat) : RegFrame [F.CMD_ERR_CNT_DISCARD_CNT] s (finishRunning s op st r) := by
  unfold finishRunning
  split
  · exact finish_frame s _ st 0 r
  · exact .refl _ s

/-! ### The clusters -/

theorem clst_distinct : ∀ a < 17, ∀ b < 17, a ≠ b → (clst a).key ≠ (clst b).key := by decide

theorem clst_width : ∀ n < 17, (clst n).width = 3 := by decide

/-- A field of a list that is set all to one value has it. -/
theorem get_foldl_set {α : Type} {l : List α} {f : α → Fld} (hl : l.Pairwise fun a b => (f a).key ≠ (f b).key) {a : α} (ha : a ∈ l)
    (v : Nat) (s : State) : (l.foldl (fun (t : State) b => t.set (f b) v) s).get (f a) = v % 2 ^ (f a).width := by
  induction l generalizing s with
  | nil => cases ha
  | cons b l ih =>
    obtain ⟨hb, hl⟩ := List.pairwise_cons.1 hl
    rw [List.foldl_cons]
    rcases List.mem_cons.1 ha with rfl | ha
    · have hrest : RegFrame (l.map f) (s.set (f a) v) (l.foldl (fun (t : State) b => t.set (f b) v) (s.set (f a) v)) :=
        RegFrame.foldlMem _ _ (.refl _ _) fun u x hx hu => hu.set _ (List.mem_map_of_mem hx)
      rw [hrest _ (by simpa using hb)]
      exact get_set_same s (f a) v
    · exact ih hl ha _

theorem setClusters_get (s : State) (v : Nat) {n : Nat} (hn : n < 17) : (setClusters s v).get (clst n) = v % 8 := by
  have hpair : (List.range 17).Pairwise fun a b => (clst a).key ≠ (clst b).key := by decide
  have h := get_foldl_set hpair (List.mem_range.2 hn) v s
  rwa [clst_width n hn] at h

theorem setClusters_frame (s : State) (v : Nat) : RegFrame ((List.range 17).map clst) s (setClusters s v) :=
  RegFrame.foldlMem _ _ (.refl _ s) fun _ _ hn hu => hu.set v (List.mem_map_of_mem hn)

/-! ### Back to STANDBY -/

theorem returnAnyway_frame (s : State) : RegFrame [F.CLK_STATUS_REF_ACTIVE, F.CLK_REF_EVENT_RETURN] s (returnAnyway s) := by
  unfold returnAnyway
  split
  · exact .ite (returnToRef_frame s _) (.refl _ s)
  · exact .refl _ s

theorem returnAnyway_mode (s : State) : (returnAnyway s).mode = s.mode := by
  unfold returnAnyway
  split
  · split <;> rfl
  · rfl

theorem leaveReady_mode (s : State) : (leaveReady s).mode = .standby := by
  unfold leaveReady
  rw [returnAnyway_mode, setMode_mode]

/-- What the change of state does to the registers after the bias has gone. -/
theorem leaveReady_get {s : State} {f : Fld} (hr : ∀ g ∈ [F.CLK_STATUS_REF_ACTIVE, F.CLK_REF_EVENT_RETURN], f.key ≠ g.key)
    (ht : ∀ g ∈ tripFields, f.key ≠ g.key) :
    (leaveReady s).get f = (setClusters ((thmOff s).set F.RXF_APDB_STAT_SETTLED 0) Cl.off).get f :=
  (returnAnyway_frame _ f hr).trans (setMode_frame _ _ f ht)

theorem leaveReady_settled (s : State) : (leaveReady s).get F.RXF_APDB_STAT_SETTLED = 0 := by
  rw [leaveReady_get (by decide) (by decide), setClusters_frame _ _ F.RXF_APDB_STAT_SETTLED (by decide)]
  exact get_set_same _ F.RXF_APDB_STAT_SETTLED 0

theorem leaveReady_clusters (s : State) {n : Nat} (hn : n < 17) : (leaveReady s).get (clst n) = Cl.off := by
  have hkeys : ∀ n < 17, (∀ g ∈ [F.CLK_STATUS_REF_ACTIVE, F.CLK_REF_EVENT_RETURN], (clst n).key ≠ g.key) ∧
      (∀ g ∈ tripFields, (clst n).key ≠ g.key) ∧ (clst n).key ≠ F.CMD_ERR_CNT_DISCARD_CNT.key := by decide
  obtain ⟨hr, ht, -⟩ := hkeys n hn
  rw [leaveReady_get hr ht, setClusters_get _ _ hn]
  rfl

/-- The change of state ends, and with it the command that asked for it. -/
def changeDone (t : State) (target : Nat) : State :=
  finishRunning { t with sys := { t.sys with trans := none } } 0x0102 St.done target

theorem changeDone_parts (t : State) (n : Nat) : (changeDone t n).mode = t.mode ∧ (changeDone t n).sys.trans = none := by
  have h := finishRunning_completes { t with sys := { t.sys with trans := none } } 0x0102 St.done n
  unfold changeDone
  rw [h.mode, h.sys]
  exact ⟨rfl, rfl⟩

theorem changeDone_frame (t : State) (n : Nat) : RegFrame [F.CMD_ERR_CNT_DISCARD_CNT] t (changeDone t n) :=
  RegFrame.trans (s := { t with sys := { t.sys with trans := none } }) (.other (.refl _ t) rfl) (finishRunning_frame _ _ _ _)

theorem execStateChangeDone_standby {s : State} {who : Option (Port × Nat)} (hm : s.mode = .ready)
    (ht : s.sys.trans = some ⟨2, who⟩) : execStateChangeDone s = .next (changeDone (leaveReady s) 2) := by
  unfold execStateChangeDone
  rw [ht, hm]
  generalize leaveReady s = t
  rfl

/-! ### READY -/

theorem setMarks_parts (s : State) (a p : Nat) : (setMarks s a p).mode = s.mode ∧ (setMarks s a p).sys = s.sys := ⟨rfl, rfl⟩

/-- The registers that the reaching of READY writes. -/
def readyFields : List Fld :=
  [F.SYS_START_READY_MS, F.SYS_STATUS_STEP, F.SYS_START_START_FAILS, F.SEC_SVN_MIN, F.SEC_STATUS_ACTIVE, F.SEC_STATUS_PENDING,
    F.SEC_STATUS_SLOT_VALID] ++ tripFields

theorem reachReady_frame (s : State) : RegFrame readyFields s (reachReady s) := by
  have hmode : RegFrame readyFields s (setMode (startAt (s.set F.SYS_START_READY_MS
      (min ((s.sys.raw - s.sys.startAt) / 800000) 0xFFFF)) 0) .ready) :=
    (((RegFrame.refl _ s).set (f := F.SYS_START_READY_MS) _ (by simp [readyFields])).set (f := F.SYS_STATUS_STEP) 0
      (by simp [readyFields])).setMode _ (by simp +contextual [readyFields])
  unfold reachReady
  dsimp only
  generalize setMode _ _ = t at hmode ⊢
  exact ((hmode.set (f := F.SYS_START_START_FAILS) 0 (by simp [readyFields])).set (f := F.SEC_SVN_MIN) _
    (by simp [readyFields])).trans ((setMarks_frame _ _ _).subset (by simp [readyFields]))

theorem reachReady_mode (s : State) : (reachReady s).mode = .ready := by
  unfold reachReady
  dsimp only
  generalize ht : setMode _ _ = t
  have hmode : t.mode = .ready := by rw [← ht, setMode_mode]
  exact hmode

theorem reachReady_step (s : State) : (reachReady s).get F.SYS_STATUS_STEP = 0 := by
  unfold reachReady
  rw [setMarks_frame _ _ _ F.SYS_STATUS_STEP (by decide)]
  simp (disch := decide) only [get_getReg, State.set_regs, getReg_setReg_other, getReg_setMode, startAt_set, getReg_setReg] <;> rfl

theorem reachReady_fails (s : State) : (reachReady s).get F.SYS_START_START_FAILS = 0 := by
  unfold reachReady
  rw [setMarks_frame _ _ _ F.SYS_START_START_FAILS (by decide)]
  simp (disch := decide) only [get_getReg, State.set_regs, getReg_setReg_other, getReg_setReg] <;> rfl

theorem startImpedance_frame (s : State) (mask : Nat) :
    RegFrame [F.RXF_IMP_STATUS_BUSY, F.RXF_IMP_STATUS_PEND] s (startImpedance s mask) := by
  have hbusy : RegFrame [F.RXF_IMP_STATUS_BUSY, F.RXF_IMP_STATUS_PEND] s (s.set F.RXF_IMP_STATUS_BUSY 1) :=
    (RegFrame.refl _ s).set 1 (by simp)
  unfold startImpedance
  exact RegFrame.other (.ite (hbusy.set (f := F.RXF_IMP_STATUS_PEND) 0 (by simp)) hbusy) rfl

theorem startImpedance_mode (s : State) (mask : Nat) : (startImpedance s mask).mode = s.mode := by
  unfold startImpedance
  dsimp only
  generalize (if s.flag F.RXF_IMP_STATUS_BUSY then mask ||| s.rxf.impFrom.getD 0 else mask) = all
  split <;> rfl

/-- The excitation step, with the step noted as failed where the thermal array does not settle. -/
def excited (s : State) (thermal : ExciteEnd) : State :=
  excite (if thermal = .limited || thermal = .late then stepFailed s 6 else s) thermal

/-- READY with the APD bias settled. -/
def readied (s : State) (thermal : ExciteEnd) : State :=
  reachReady (endFault ((excited s thermal).set F.RXF_APDB_STAT_SETTLED 1) 0x0409 0)

theorem execExcitationSettled_ready {s : State} (hm : s.mode = .standby) (hstep : s.step = 6) (hstop : startStopped s = false)
    (thermal : ExciteEnd) : execExcitationSettled true thermal s = .next (if (readied s thermal).flag F.RXF_IMP_STATUS_PEND then
      startImpedance (readied s thermal) 0x1FFFF else readied s thermal) := by
  unfold execExcitationSettled
  rw [if_neg (by simp [hm, hstep, hstop])]
  rfl

/-- The start-up stops for want of the APD bias. -/
def unbiased (s : State) (thermal : ExciteEnd) : State :=
  raiseFault ((excited s thermal).set F.SYS_START_FAIL_STEP 6) 2 0x0409 0

theorem excited_heats (s : State) (thermal : ExciteEnd) : Heats s (excited s thermal) :=
  Heats.trans (.ite ((Heats.refl s).set F.SYS_START_FAIL_STEP 6) (.refl s)) (excite_heats _ _)

theorem unbiased_heats (s : State) (thermal : ExciteEnd) : Heats s (unbiased s thermal) :=
  ((excited_heats s thermal).set _ _).trans (raiseFault_heats _ _ _ _)

theorem execExcitationSettled_stops {s : State} (hm : s.mode = .standby) (hstep : s.step = 6) (hstop : startStopped s = false)
    (ht : s.sys.trans = none) (thermal : ExciteEnd) : execExcitationSettled false thermal s =
      .next { unbiased s thermal with sys := { (unbiased s thermal).sys with trans := none } } := by
  have hsys : (unbiased s thermal).sys.trans = none := by rw [(unbiased_heats s thermal).sys, ht]
  unfold unbiased excited at hsys ⊢
  unfold execExcitationSettled
  rw [if_neg (by simp [hm, hstep, hstop])]
  dsimp only
  rw [if_neg Bool.false_ne_true]
  generalize raiseFault _ 2 0x0409 0 = u at hsys ⊢
  rw [hsys]

theorem ready_settled (s : State) (thermal : ExciteEnd) : (readied s thermal).get F.RXF_APDB_STAT_SETTLED = 1 :=
  (reachReady_frame _ F.RXF_APDB_STAT_SETTLED (by decide)).trans (get_set_same _ F.RXF_APDB_STAT_SETTLED 1)

/-! ### RL training -/

/-- The channels fitted that did not pass (R104). -/
def rlBad (eight : Bool) (tr : List RlmTrain) : List Nat :=
  (List.range 8).filter fun n => bit (if eight then 255 else 15) n && !bit (rlmMask tr &&& (if eight then 255 else 15)) n

/-- An F2 fault for each of them, and the step noted as failed where there is one. -/
def rlFaults (s : State) (eight : Bool) (tr : List RlmTrain) : State :=
  (rlBad eight tr).foldl (fun u n => raiseFault u 2 0x0801 n) (if (rlBad eight tr).isEmpty then s else stepFailed s 4)

/-- The near yard's stalls after training. -/
def rlNear (s : State) (eight dual big : Bool) (tr : List RlmTrain) : Nat :=
  if s.flag F.YRD_CAP_NEAR_OFF then 0
  else channelsUsed eight (rlmMask tr &&& (if eight then 255 else 15)) * channelStalls dual big

/-- What the channels' training found is kept. -/
def rlNote (s : State) (eight dual : Bool) (tr : List RlmTrain) : State :=
  let rlm := rlmMask tr &&& (if eight then 255 else 15)
  { s with sys := { s.sys with rlm := rlm, rlmDual := dual, rlmLat := tr.map fun (c : RlmTrain) => (c.readLat, c.writeLat) } }

/-- The near yard takes its size and the map its own. -/
def rlSized (s : State) (eight dual big : Bool) (tr : List RlmTrain) : State :=
  let near := rlNear s eight dual big tr
  let w := ((rlNote (rlFaults s eight tr) eight dual tr).set F.YRD_CAP_NEAR_STALLS near).put F.YRD_CAP_NEAR_OFF (near == 0)
  w.set F.YRD_CAP_MAP_LOG2_NOW (mapNow w)

theorem raiseFaults_logs {α : Type} (l : List α) (cls code : Nat) (g : α → Nat) (s : State) :
    Logs s (l.foldl (fun u n => raiseFault u cls code (g n)) s) :=
  List.foldlRecOn l _ (.refl s) fun u hu x _ => hu.trans (raiseFault_logs u cls code (g x))

theorem rlFaults_logs (s : State) (eight : Bool) (tr : List RlmTrain) : Logs s (rlFaults s eight tr) :=
  (Logs.ite (.refl s) ((Logs.refl s).set F.SYS_START_FAIL_STEP 4)).trans (raiseFaults_logs _ 2 0x0801 id _)

theorem rlSized_parts (s : State) (eight dual big : Bool) (tr : List RlmTrain) :
    (rlSized s eight dual big tr).mode = s.mode ∧ (rlSized s eight dual big tr).cal = s.cal :=
  have h := rlFaults_logs s eight tr
  ⟨(show (rlSized s eight dual big tr).mode = (rlFaults s eight tr).mode from rfl).trans h.mode,
    (show (rlSized s eight dual big tr).cal = (rlFaults s eight tr).cal from rfl).trans h.cal⟩

theorem rlSized_near (s : State) (eight dual big : Bool) (tr : List RlmTrain) :
    (rlSized s eight dual big tr).get F.YRD_CAP_NEAR_STALLS = rlNear s eight dual big tr % 2 ^ F.YRD_CAP_NEAR_STALLS.width := by
  unfold rlSized
  simp (disch := decide) only [get_getReg, State.put_set, State.set_regs, getReg_setReg_other, getReg_setReg]

/-- The registers that the check of the stored calibration writes. -/
def flashFields : List Fld :=
  [F.CAL_FLASH_A_OK, F.CAL_FLASH_B_OK, F.CAL_FLASH_COPY_ERR, F.CAL_VERSION_STORED, F.CAL_VERSION_WORKING] ++ faultFields 0

/-- An F0 fault for each record of which one copy fails (R630). -/
def copyFaults (bad : List Nat) (s : State) : State := (besideGood bad).foldl (fun x n => raiseFault x 0 0x1104 (n % 65536)) s

theorem copyFaults_frame (bad : List Nat) (s : State) : RegFrame (faultFields 0) s (copyFaults bad s) :=
  RegFrame.foldl _ _ (.refl _ s) fun _ _ hu => hu.raise 0 0x1104 _ fun _ hf => hf

theorem copyFaults_logs (bad : List Nat) (s : State) : Logs s (copyFaults bad s) := raiseFaults_logs _ 0 0x1104 (· % 65536) s

theorem checkFlash_frame (s : State) (bad : List Nat) : RegFrame flashFields s (checkFlash s bad) := by
  have h (u : State) (hu : u.regs = s.regs) : RegFrame flashFields s (copyFaults bad u) :=
    RegFrame.trans (.other (.refl _ s) hu) ((copyFaults_frame bad u).subset fun _ hf => List.mem_append_right _ hf)
  unfold checkFlash
  dsimp only
  generalize hu : List.foldl _ _ (besideGood bad) = u
  replace h : RegFrame flashFields s u := hu ▸ h _ rfl
  exact ((((h.put (f := F.CAL_FLASH_A_OK) _ (by simp [flashFields])).put (f := F.CAL_FLASH_B_OK) _ (by simp [flashFields])).add
    (f := F.CAL_FLASH_COPY_ERR) _ (by simp [flashFields])).set (f := F.CAL_VERSION_STORED) _ (by simp [flashFields])).set
    (f := F.CAL_VERSION_WORKING) _ (by simp [flashFields])

theorem checkFlash_parts (s : State) (bad : List Nat) : (checkFlash s bad).mode = s.mode ∧ (checkFlash s bad).sys = s.sys ∧
    (checkFlash s bad).cal.valid = calGood bad ∧ (checkFlash s bad).cal.grooms = s.cal.grooms := by
  unfold checkFlash
  dsimp only
  generalize hu : List.foldl _ _ (besideGood bad) = u
  have h := copyFaults_logs bad
    { s with cal := { s.cal with flashBad := bad, valid := calGood bad, work := if calGood bad then s.cal.flash else s.cal.work } }
  rw [show copyFaults bad _ = u from hu] at h
  exact ⟨h.mode, h.sys, (congrArg CalSt.valid h.cal :), (congrArg CalSt.grooms h.cal :)⟩

/-- The state after training and the check of the stored calibration. -/
def rlChecked (s : State) (eight dual big : Bool) (tr : List RlmTrain) (bad : List Nat) : State :=
  checkFlash (rlSized s eight dual big tr) bad

/-- The start-up goes on to READY with a groom of every cluster, full where the stored calibration is not good. -/
def groomAll (s : State) (bad : List Nat) : State :=
  let w := (clustersCold s).put F.SYS_START_GROOM_FULL (!calGood bad)
  startAt { w with cal := { w.cal with grooms := w.cal.grooms ++
    [{ cmd := none, full := !calGood bad, mask := 0x1FFFF, background := false, startUp := true, release := false,
       waiting := false, refused := 0 }] } } 5

theorem clustersCold_only (s : State) : RegsOnly ((List.range 17).map clst) s (clustersCold s) :=
  RegsOnly.foldlMem _ _ (.refl _ s) fun _ _ hn hu => .ite (hu.set Cl.cold (List.mem_map_of_mem hn)) hu

theorem groomAll_parts (s : State) (bad : List Nat) : (groomAll s bad).mode = s.mode ∧ (groomAll s bad).cal.valid = s.cal.valid ∧
    (groomAll s bad).cal.grooms = s.cal.grooms ++ [⟨none, !calGood bad, 0x1FFFF, false, true, false, false, 0⟩] ∧
    (groomAll s bad).step = 5 ∧ (groomAll s bad).get F.SYS_START_GROOM_FULL = b2n (!calGood bad) := by
  have h := (clustersCold_only s).1
  unfold groomAll
  generalize clustersCold s = t at h ⊢
  refine ⟨by rw [h]; rfl, by rw [h]; rfl, by rw [h]; rfl, get_set_same _ F.SYS_STATUS_STEP 5, ?_⟩
  simp (disch := decide) only [get_getReg, startAt_set, State.put_set, State.set_regs, getReg_setReg_other, getReg_setReg]
  exact b2n_cut _

theorem groomAll_frame (s : State) (bad : List Nat) :
    RegFrame (F.SYS_START_GROOM_FULL :: F.SYS_STATUS_STEP :: (List.range 17).map clst) s (groomAll s bad) := by
  have h := (clustersCold_only s).2.subset (m := F.SYS_START_GROOM_FULL :: F.SYS_STATUS_STEP :: (List.range 17).map clst)
    fun _ hf => List.mem_cons_of_mem _ (List.mem_cons_of_mem _ hf)
  unfold groomAll
  generalize clustersCold s = t at h ⊢
  exact (RegFrame.other (h.put (f := F.SYS_START_GROOM_FULL) (!calGood bad) (by simp)) rfl).set (f := F.SYS_STATUS_STEP) 5 (by simp)

/-- Whether the start-up goes on to READY (R107). -/
def toReady (s : State) : Bool := if s.get F.SYS_START_START_KIND = 1 then s.flag F.SHD_WAKE_CFG_AUTO_READY else s.sys.goReady

theorem execRlTrainingDone_eq {s : State} (h : s.atStep 4 = true) (eight dual big : Bool) (tr : List RlmTrain) (bad : List Nat) :
    execRlTrainingDone eight dual big tr bad s = if !toReady s then .next (startAt (rlChecked s eight dual big tr bad) 0)
      else .next (groomAll (rlChecked s eight dual big tr bad) bad) := by
  unfold execRlTrainingDone toReady groomAll rlChecked rlSized rlNear rlFaults rlBad rlNote endStandby
  rw [if_neg (by simp [h])]

theorem rlChecked_near (s : State) (eight dual big : Bool) (tr : List RlmTrain) (bad : List Nat) :
    (rlChecked s eight dual big tr bad).get F.YRD_CAP_NEAR_STALLS =
      rlNear s eight dual big tr % 2 ^ F.YRD_CAP_NEAR_STALLS.width :=
  (checkFlash_frame _ bad F.YRD_CAP_NEAR_STALLS (by decide)).trans (rlSized_near ..)

/-- Settles O15: each row as a chain of named steps, with what each step writes. -/
theorem endOfStartUp : Obligations.EndOfStartUp := by
  unfold Obligations.EndOfStartUp
  intro s
  refine ⟨fun eight dual big tr bad h => ?_, fun ok hm hstep hstop => ?_, fun ok hm hstep hstop ht => ?_, fun who hm ht => ?_⟩
  · obtain ⟨hmode, hcal⟩ := rlSized_parts s eight dual big tr
    obtain ⟨hcmode, -, hvalid, hgrooms⟩ := checkFlash_parts (rlSized s eight dual big tr) bad
    have hnear := rlChecked_near s eight dual big tr bad
    have hrun : exec (.rlTrainingDone eight dual big tr bad) s = _ := execRlTrainingDone_eq h eight dual big tr bad
    change Gives _ s fun t => t.mode = s.mode ∧ t.cal.valid = calGood bad ∧ _ ∧ if toReady s = true then _ else _
    by_cases hto : toReady s = true
    · obtain ⟨hgmode, hgvalid, hglist, hgstep, hgfull⟩ := groomAll_parts (rlChecked s eight dual big tr bad) bad
      refine ⟨_, by rw [hrun, hto]; rfl, ?_, ?_, ?_, ?_⟩
      · rw [hgmode]; exact hcmode.trans hmode
      · rw [hgvalid]; exact hvalid
      · exact (groomAll_frame _ bad F.YRD_CAP_NEAR_STALLS (by decide)).trans hnear
      · rw [if_pos hto]
        refine ⟨hgstep, ?_, hgfull⟩
        rw [hglist]
        exact congrArg (· ++ _) (hgrooms.trans (by rw [hcal]))
    · refine ⟨startAt (rlChecked s eight dual big tr bad) 0, by rw [hrun, if_pos (by simpa using hto)], ?_, ?_, ?_, ?_⟩
      · rw [startAt_set, State.set_mode]; exact hcmode.trans hmode
      · rw [startAt_set, State.set_cal]; exact hvalid
      · exact (get_set_other (f := F.SYS_STATUS_STEP) (g := F.YRD_CAP_NEAR_STALLS) _ 0 (by decide)).trans hnear
      · rw [if_neg hto]
        rw [startAt_set, State.set_cal]
        exact ⟨get_set_same _ F.SYS_STATUS_STEP 0, hgrooms.trans (by rw [hcal])⟩
  · have hrun := execExcitationSettled_ready hm hstep hstop ok
    have hkeeps := (execExcitationSettled_keeps true ok (Keeps.refl s)).keeps _ hrun
    have hframe : RegFrame [F.RXF_IMP_STATUS_BUSY, F.RXF_IMP_STATUS_PEND] (readied s ok) (if (readied s ok).flag F.RXF_IMP_STATUS_PEND
        then startImpedance (readied s ok) 0x1FFFF else readied s ok) := .ite (startImpedance_frame _ _) (.refl _ _)
    refine ⟨_, hrun, ?_, ?_, ?_, ?_, hkeeps⟩
    · have hmode : (readied s ok).mode = .ready := reachReady_mode _
      split
      · exact (startImpedance_mode _ _).trans hmode
      · exact hmode
    · exact (hframe F.SYS_STATUS_STEP (by decide)).trans (reachReady_step _)
    · exact (hframe F.RXF_APDB_STAT_SETTLED (by decide)).trans (ready_settled s ok)
    · exact (hframe F.SYS_START_START_FAILS (by decide)).trans (reachReady_fails _)
  · have hrun := execExcitationSettled_stops hm hstep hstop ht ok
    refine ⟨_, hrun, (unbiased_heats s ok).mode.trans hm, ?_, rfl, (execExcitationSettled_keeps false ok (Keeps.refl s)).keeps _ hrun⟩
    exact (getReg_raise _ _ _ _ (by decide)).trans (get_set_same _ F.SYS_START_FAIL_STEP 6)
  · have hrun := execStateChangeDone_standby hm ht
    obtain ⟨hmode, htrans⟩ := changeDone_parts (leaveReady s) 2
    have hframe := changeDone_frame (leaveReady s) 2
    refine ⟨_, hrun, hmode.trans (leaveReady_mode s), htrans, ?_, fun n hn => ?_, (execStateChangeDone_keeps (Keeps.refl s)).keeps _ hrun⟩
    · exact (hframe F.RXF_APDB_STAT_SETTLED (by decide)).trans (leaveReady_settled s)
    · have hkeys : ∀ n < 17, ∀ g ∈ [F.CMD_ERR_CNT_DISCARD_CNT], (clst n).key ≠ g.key := by decide
      exact (hframe (clst n) (hkeys n hn)).trans (leaveReady_clusters s hn)

end Sys2Proof.Machine

/-! ## AON_ALARM in SLEEP (R91)

O16 quantifies over every state, and the register store of a state is a plain list: a field may hold a value beyond its width. The
flag of ALARM_EN is then set while its place in the mask of enabled sources (`wakeEnabled`) is not. -/
namespace Sys2Proof.Machine

/-- SLEEP with 2 in the one-bit field ALARM_EN. -/
def wideAlarmState : State := { State.reset with mode := .sleep, regs := [(F.SHD_WAKE_CFG_ALARM_EN.key, 2)] }

theorem wideAlarmState_flag : wideAlarmState.flag F.SHD_WAKE_CFG_ALARM_EN = true := by decide +kernel

theorem wideAlarmState_sleeps : wakeBy { wideAlarmState with irq := { wideAlarmState.irq with alarm := true } } (2 ^ 9) =
    { wideAlarmState with irq := { wideAlarmState.irq with alarm := true } } := by
  have h : wakeCauses { wideAlarmState with irq := { wideAlarmState.irq with alarm := true } } (2 ^ 9) = 0 := by decide +kernel
  unfold wakeBy
  exact if_pos h

/-- Refutes O16: where ALARM_EN holds 2, a value beyond its width, its flag is set and no bit of the mask of enabled sources is that
of the alarm, so that AON_ALARM in SLEEP does not wake the device. With every field within its width the clause stands. -/
theorem not_wakeAndSleep : ¬ Obligations.WakeAndSleep := by
  unfold Obligations.WakeAndSleep
  intro h
  obtain ⟨-, -, -, -, h, -⟩ := h wideAlarmState
  obtain ⟨t, ht, hstep, -⟩ := h rfl wideAlarmState_flag
  have hrun : exec .aonAlarm wideAlarmState =
      .next { wideAlarmState with irq := { wideAlarmState.irq with alarm := true } } := congrArg _ wideAlarmState_sleeps
  rw [hrun] at ht
  injection ht with ht
  rw [← ht] at hstep
  exact absurd hstep (by decide +kernel)

end Sys2Proof.Machine

/-! ## The control of the rings (R119, R120, R128, R129)

CMD_CTRL, the doorbells, the drain and the notification timer, and with them O17. -/
namespace Sys2Proof.Machine

/-- CMD_CTRL takes CMP_IRQ_EN. -/
def takeIrqEn (s : State) (v : Dword) : State := s.put F.CMD_CTRL_CMP_IRQ_EN (v.getLsbD 1)

theorem takeIrqEn_only (s : State) (v : Dword) : RegsOnly [F.CMD_CTRL_CMP_IRQ_EN] s (takeIrqEn s v) :=
  (RegsOnly.refl _ s).set _ (by simp)

theorem takeIrqEn_en (s : State) (v : Dword) : (takeIrqEn s v).flag F.CMD_CTRL_EN = s.flag F.CMD_CTRL_EN := by
  unfold State.flag
  rw [(takeIrqEn_only s v).2 F.CMD_CTRL_EN (by decide)]

theorem takeIrqEn_get (s : State) (v : Dword) : (takeIrqEn s v).get F.CMD_CTRL_CMP_IRQ_EN = b2n (v.getLsbD 1) :=
  (get_set_same s F.CMD_CTRL_CMP_IRQ_EN _).trans (b2n_cut _)

theorem execCmdCtrlWrite_eq {s : State} (h : ctlUp s = true) (v : Dword) : execCmdCtrlWrite v s = .next (
    if v.getLsbD 0 then if s.flag F.CMD_CTRL_EN then takeIrqEn s v else enableRings (takeIrqEn s v)
    else if !s.flag F.CMD_CTRL_EN then takeIrqEn s v
    else if ringIdle s then endDrain (takeIrqEn s v)
    else { takeIrqEn s v with cmd := { s.cmd with draining := true } }) := by
  unfold execCmdCtrlWrite
  rw [if_pos h, ← takeIrqEn_en s v]
  rfl

/-- The fields that the enabling of the rings writes. -/
def ringFields : List Fld := [F.CMD_CTRL_CMP_IRQ_EN, F.CMD_CTRL_EN, F.CMD_HEAD, F.CMP_TAIL_TAIL, F.CMP_TAIL_PHASE]

theorem enableRings_eq (s : State) : enableRings s = { s with regs := (enableRings s).regs, cmd := (enableRings s).cmd } := rfl

theorem enableRings_frame (s : State) : RegFrame ringFields s (enableRings s) :=
  .other (((((RegFrame.refl _ s).set (f := F.CMD_CTRL_EN) 1 (by simp [ringFields])).set (f := F.CMD_HEAD) 0 (by simp [ringFields])).set
    (f := F.CMP_TAIL_TAIL) 0 (by simp [ringFields])).set (f := F.CMP_TAIL_PHASE) 1 (by simp [ringFields])) rfl

theorem enableRings_regs (s : State) : (enableRings s).regs =
    ((((s.set F.CMD_CTRL_EN 1).set F.CMD_HEAD 0).set F.CMP_TAIL_TAIL 0).set F.CMP_TAIL_PHASE 1).regs := rfl

theorem enableRings_gets (s : State) : (enableRings s).get F.CMD_CTRL_EN = 1 ∧ (enableRings s).get F.CMD_HEAD = 0 ∧
    (enableRings s).get F.CMP_TAIL_TAIL = 0 ∧ (enableRings s).get F.CMP_TAIL_PHASE = 1 := by
  simp (disch := decide) only [get_getReg, enableRings_regs, State.set_regs, getReg_setReg_other, getReg_setReg]
  decide

theorem endDrain_get (s : State) : (endDrain s).get F.CMD_CTRL_EN = 0 := get_set_same s F.CMD_CTRL_EN 0

theorem endDrain_frame (s : State) : RegFrame [F.CMD_CTRL_EN] s (endDrain s) := .other (.setOne s F.CMD_CTRL_EN 0) rfl

/-- Settles O17: each write by its cases of EN, of the ring's idleness and of the counts. -/
theorem ringControl : Obligations.RingControl := by
  unfold Obligations.RingControl
  intro s hctl v
  have hirq := (takeIrqEn_only s v).2
  have hctrl : exec (.cmdCtrlWrite v) s = _ := execCmdCtrlWrite_eq hctl v
  refine ⟨fun hen hv => ?_, fun hen hv hidle => ?_, fun hen hv hidle => ?_, fun hen => ?_, fun hdrain hidle => ?_, fun hen htail => ?_,
    ?_, fun htime hirqen hn => ?_⟩
  · obtain ⟨h1, h2, h3, h4⟩ := enableRings_gets (takeIrqEn s v)
    refine ⟨enableRings (takeIrqEn s v), by rw [hctrl, hv, hen]; rfl, h1, h2, h3, h4, rfl, rfl, rfl, ?_⟩
    exact (hirq.subset (by simp)).trans (enableRings_frame _)
  · refine ⟨endDrain (takeIrqEn s v), by rw [hctrl, hv, hen, hidle]; rfl, endDrain_get _, ?_, rfl⟩
    exact (hirq.subset (by simp)).trans ((endDrain_frame _).subset (by simp))
  · refine ⟨{ takeIrqEn s v with cmd := { s.cmd with draining := true } }, by rw [hctrl, hv, hen, hidle]; rfl, ?_, rfl⟩
    exact hirq.other rfl
  · refine ⟨takeIrqEn s v, ?_, takeIrqEn_get s v, takeIrqEn_only s v⟩
    rw [hctrl, hen]
    cases v.getLsbD 0 <;> rfl
  · refine ⟨endDrain s, ?_, endDrain_get s, endDrain_frame s, rfl⟩
    exact if_pos (by simp [hdrain, hidle])
  · refine ⟨{ s with cmd := { s.cmd with tail := v.toNat % 4096, fetchStop := false } }, ?_, rfl⟩
    show execCmdDb0 v s = _
    unfold execCmdDb0 writeDb0
    rw [if_pos hctl, if_neg (by simp [hen, htail])]
  · refine ⟨writeDb1 s v.toNat, if_pos hctl, rfl, Nat.min_le_left _ _, ?_⟩
    exact fun h => (Bool.and_eq_true_iff.1 h).1
  · refine ⟨{ s with cmd := { s.cmd with unnotified := 0, cmpSource := true } }, ?_, rfl⟩
    show execCmpNotifyTimer s = _
    unfold execCmpNotifyTimer notifyComps
    rw [if_neg htime, if_pos (by simp [hirqen, hn])]

end Sys2Proof.Machine

/-! ## Fetching a command and reading its buffer (R120, R125, R131, R135, R152)

What the fetch of an entry and the read of a buffer leave, and with it O18. -/
namespace Sys2Proof.Machine

/-! ### The fetch -/

/-- The entry at the head has been read. -/
def entryRead (s : State) : State := sendRead s (4096 * s.get F.CMD_RING_BASE + 64 * s.get F.CMD_HEAD) 64

theorem execCommandFetch_error {s : State} (h : fetches s = true) (e : List Dword) : execCommandFetch e true s =
    .next { (entryRead s).set F.CMD_STATUS_FETCH_ERR 1 with cmd := { s.cmd with fetchStop := true } } := by
  unfold execCommandFetch
  rw [if_neg (by simp [h])]
  rfl

theorem execCommandFetch_taken {s : State} (h : fetches s = true) (e : List Dword) : execCommandFetch e false s =
    .next (takeEntry ((entryRead s).set F.CMD_HEAD ((s.get F.CMD_HEAD + 1) % 4096)) (parseEntry .ring (s.get F.CMD_HEAD) e [])) := by
  unfold execCommandFetch
  rw [if_neg (by simp [h])]
  rfl

theorem takeEntry_passes {s : State} {c : Cmd} (h : entryCheck s c = none) :
    takeEntry s c = { s with cmd := { s.cmd with cmds := s.cmd.cmds ++ [c] } } := by
  unfold takeEntry
  rw [h]

theorem queueComp_eq {s : State} {c : Cmd} (h : c.discard = false) (st d r : Nat) (final : Bool) (out : List Byte) :
    queueComp s c st d r final out = { s with cmd := { s.cmd with comps := s.cmd.comps ++
      [⟨c.port, c.tag, st, d, c.index, final, !c.first, r % 2 ^ 64, c.imm, out⟩] } } := by
  unfold queueComp
  rw [if_neg (by simp [h])]

/-- An entry whose check fails gets its final completion. -/
theorem takeEntry_ends {s : State} {c : Cmd} {st d : Nat} (hd : c.discard = false) (h : entryCheck s c = some (st, d)) :
    Ends (takeEntry s c) c st (resultOf s st 0) ∧ (takeEntry s c).regs = s.regs := by
  unfold takeEntry
  rw [h]
  dsimp only
  rw [queueComp_eq hd]
  exact ⟨⟨_, List.getLast?_concat, rfl, rfl, rfl, rfl, rfl, rfl⟩, rfl⟩

theorem cmdInfo_set_head (s : State) (v : Nat) : cmdInfo (s.set F.CMD_HEAD v) = cmdInfo s := by
  simp (disch := decide) only [cmdInfo, get_getReg, State.set_regs, getReg_setReg_other]

theorem head_wraps (s : State) (n : Nat) : (s.set F.CMD_HEAD (n % 4096)).get F.CMD_HEAD = n % 4096 :=
  (get_set_same s F.CMD_HEAD _).trans (Nat.mod_mod n 4096)

/-! ### The buffer -/

/-- The read of a buffer begins: registers stay, the link is as usable as it was, and of the command only its first completion
is new. -/
theorem beginRead_parts {s : State} {c : Cmd} (hd : c.discard = false) : (beginRead s c).1.regs = s.regs ∧
    pcieUsable (beginRead s c).1 = pcieUsable s ∧ (beginRead s c).2 = { c with first := (beginRead s c).2.first } := by
  unfold beginRead
  split
  · rw [queueComp_eq hd]
    exact ⟨rfl, rfl, rfl⟩
  · exact ⟨rfl, rfl, rfl⟩

theorem beginRead_short {s : State} {c : Cmd} (h : opLong c.opcode = false) : beginRead s c = (s, c) := by
  unfold beginRead
  rw [if_neg (by simp [h])]

/-- A command of which only the first completion is new ends as that command. -/
theorem finish_ends_of_first {s : State} {c d : Cmd} (hd : c.discard = false) (h : d = { c with first := d.first }) {st : Nat}
    (h1 : st ≠ St.done) (h2 : st ≠ St.badVersion) (n r : Nat) : Ends (finish s d st n r) c st 0 := by
  have hdis : d.discard = false := by rw [h]; exact hd
  obtain ⟨x, hx, hp, ht, hi, hrest⟩ := finishWith_ends (s := s) hdis st n h1 h2 r []
  rw [h] at hp ht hi
  exact ⟨x, hx, hp, ht, hi, hrest⟩

/-- The state and the command with which the read of a buffer that times out begins. -/
def readTimedOut (s : State) (c : Cmd) : State :=
  let t := (beginRead (s.inc F.LNK_PCIE_ERR_CTO) c).1
  if pcieUsable t then sendRead t (beginRead (s.inc F.LNK_PCIE_ERR_CTO) c).2.bufAddr
    (64 * (beginRead (s.inc F.LNK_PCIE_ERR_CTO) c).2.paramLen) else t

theorem readTimedOut_regs (s : State) {c : Cmd} (hd : c.discard = false) :
    (readTimedOut s c).regs = (s.inc F.LNK_PCIE_ERR_CTO).regs := by
  have h := (beginRead_parts (s := s.inc F.LNK_PCIE_ERR_CTO) hd).1
  unfold readTimedOut
  dsimp only
  split <;> exact h

theorem execBufferTimeout_eq {s : State} {tag : Nat} {c : Cmd} (h : readerOf s .ring tag = some c) (hc : readerCheck s c = none) :
    execBufferTimeout tag s = .next (finish (readTimedOut s c) (beginRead (s.inc F.LNK_PCIE_ERR_CTO) c).2 St.timeout 0 0) := by
  unfold execBufferTimeout
  rw [h]
  dsimp only
  rw [hc]
  rfl

/-- The buffer of a ring command read with or without an error. -/
theorem execBufferReadDone_ring {s : State} {tag : Nat} {c : Cmd} (h : readerOf s .ring tag = some c) (hc : readerCheck s c = none)
    (hd : c.discard = false) (hu : pcieUsable s = true) (err : Bool) (b : List Byte) : execBufferReadDone .ring tag err b s =
    if err then .next (finish (sendRead (beginRead s c).1 (beginRead s c).2.bufAddr (64 * c.paramLen)) (beginRead s c).2 St.badParam
      0x7E 0)
    else .next (checkBuffer (sendRead (beginRead s c).1 (beginRead s c).2.bufAddr (64 * c.paramLen)) (beginRead s c).2
      (fixLen (64 * c.paramLen) b)) := by
  have husable : pcieUsable (beginRead s c).1 = true := by rw [(beginRead_parts hd).2.1, hu]
  unfold execBufferReadDone
  rw [h]
  dsimp only
  rw [hc]
  dsimp only
  rw [husable]
  rfl

theorem checkBuffer_ready {s : State} {c : Cmd} {b : List Byte} (hs : opSigned c.opcode = false)
    (hc : contentsCheck s c (withData c b).data = (none, s)) : checkBuffer s c b = replaceCmd s c (withData c b) := by
  unfold checkBuffer
  rw [if_neg (by simp [hs])]
  dsimp only
  rw [hc]

/-- Settles O18: the fetch takes the entry or ends it by its first checks, and the read of a buffer ends the command or makes it
ready. -/
theorem commandFetch : Obligations.CommandFetch := by
  unfold Obligations.CommandFetch
  refine fun s => ⟨?_, ?_⟩
  · rintro hf e r u c rfl rfl rfl
    refine ⟨?_, fun hpass => ?_, fun st d hfail hst => ?_⟩
    · refine ⟨_, execCommandFetch_error hf e, get_set_same _ F.CMD_STATUS_FETCH_ERR 1, ?_, rfl⟩
      exact .setOne s F.CMD_STATUS_FETCH_ERR 1
    · refine ⟨_, (execCommandFetch_taken hf e).trans (congrArg _ (takeEntry_passes hpass)), head_wraps _ _, ?_, rfl⟩
      exact .setOne s F.CMD_HEAD ((s.get F.CMD_HEAD + 1) % 4096)
    · obtain ⟨hends, hregs⟩ := takeEntry_ends rfl hfail
      have hinfo := cmdInfo_set_head (entryRead s) ((s.get F.CMD_HEAD + 1) % 4096)
      refine ⟨_, execCommandFetch_taken hf e, ?_, ?_, .other (.setOne s F.CMD_HEAD ((s.get F.CMD_HEAD + 1) % 4096)) hregs⟩
      · rw [resultOf, if_neg hst] at hends
        exact hinfo ▸ hends
      · rw [get_getReg]
        refine (congrArg (getReg · F.CMD_HEAD) hregs).trans (head_wraps _ _)
  · intro tag c hr hc hd
    have hfirst (u : State) := (beginRead_parts (s := u) hd).2.2
    refine ⟨?_, fun hu b => ?_, fun hu hs hl b v d hv hdd hcont => ?_⟩
    · have hfr := finishWith_regs (s := readTimedOut s c) (c := (beginRead (s.inc F.LNK_PCIE_ERR_CTO) c).2)
        (by rw [hfirst]; exact hd) St.timeout 0 0 []
      have hregs := hfr.trans (readTimedOut_regs s hd)
      refine ⟨_, execBufferTimeout_eq hr hc, finish_ends_of_first hd (hfirst _) (by decide) (by decide) 0 0, ?_, ?_⟩
      · exact .other ((RegFrame.refl _ s).inc (f := F.LNK_PCIE_ERR_CTO) (by simp)) hregs
      · exact (congrArg (getReg · F.LNK_PCIE_ERR_CTO) hregs).trans (get_inc_same s F.LNK_PCIE_ERR_CTO)
    · exact ⟨_, execBufferReadDone_ring hr hc hd hu true b, finish_ends_of_first hd (hfirst _) (by decide) (by decide) _ 0⟩
    · subst hv hdd
      have hrun := execBufferReadDone_ring hr hc hd hu false b
      rw [beginRead_short hl] at hrun
      exact ⟨_, hrun, checkBuffer_ready hs hcont⟩

end Sys2Proof.Machine

/-! ## The delivery of completions (R127, R128, R152, R161)

A completion leaves the list for its ring or its port, and with it O19. -/
namespace Sys2Proof.Machine

/-- Without a SET_STATE among the commands no completion begins the way to SLEEP. -/
theorem asksSleep_none {s : State} (h : ∀ c ∈ s.cmd.cmds, c.opcode ≠ 0x0102) (x : Comp) : asksSleep s x = false := by
  have hnone : s.cmd.cmds.any (fun (c : Cmd) => x.of c && c.opcode == 0x0102 && c.phase == .done) = false :=
    List.any_eq_false.2 fun c hc => by simp [h c hc]
  unfold asksSleep
  rw [hnone, Bool.and_false, Bool.false_and]

/-- A delivered completion leaves the list, and of the rest of the state only its command may go with it. -/
theorem dropComp_eq {s : State} (h : ∀ c ∈ s.cmd.cmds, c.opcode ≠ 0x0102) (x : Comp) :
    ∃ l, dropComp s x = { s with cmd := { s.cmd with comps := s.cmd.comps.erase x, cmds := l } } := by
  unfold dropComp
  rw [asksSleep_none h, if_neg Bool.false_ne_true]
  dsimp only
  split
  · split <;> exact ⟨_, rfl⟩
  · exact ⟨_, rfl⟩

/-- The tail and the phase after a completion (R127). -/
def tailOn (t : State) (n size phase : Nat) : State :=
  if n + 1 = size then (t.set F.CMP_TAIL_TAIL 0).set F.CMP_TAIL_PHASE (1 - phase) else t.set F.CMP_TAIL_TAIL (n + 1)

theorem tailOn_only (t : State) (n size phase : Nat) : RegsOnly [F.CMP_TAIL_TAIL, F.CMP_TAIL_PHASE] t (tailOn t n size phase) :=
  .ite (((RegsOnly.refl _ t).set (f := F.CMP_TAIL_TAIL) 0 (by simp)).set (f := F.CMP_TAIL_PHASE) _ (by simp))
    ((RegsOnly.refl _ t).set (f := F.CMP_TAIL_TAIL) _ (by simp))

theorem tailOn_tail (t : State) (n size phase : Nat) :
    (tailOn t n size phase).get F.CMP_TAIL_TAIL = if n + 1 = size then 0 else (n + 1) % 2 ^ 14 := by
  unfold tailOn
  split
  · exact (get_set_other _ _ (by decide)).trans (get_set_same t F.CMP_TAIL_TAIL 0)
  · exact get_set_same t F.CMP_TAIL_TAIL _

theorem tailOn_phase (t : State) (n size phase : Nat) :
    (tailOn t n size phase).get F.CMP_TAIL_PHASE = if n + 1 = size then (1 - phase) % 2 else t.get F.CMP_TAIL_PHASE := by
  unfold tailOn
  split
  · exact get_set_same _ F.CMP_TAIL_PHASE _
  · exact get_set_other _ _ (by decide)

/-- The completion written to its entry of the ring, and gone from the list. -/
def compSent (s : State) (x : Comp) : State :=
  dropComp (sendMem s (4096 * s.get F.CMP_RING_BASE + 16 * s.get F.CMP_TAIL_TAIL) (compBytes x (s.get F.CMP_TAIL_PHASE))) x

/-- A completion written is counted, and notified where its time has come (R129). -/
def countComp (u : State) (x : Comp) : State :=
  let v := { u with cmd := { u.cmd with unnotified := u.cmd.unnotified + 1 } }
  if x.imm || max 1 (v.get F.CMP_NOTIFY_COUNT) ≤ v.cmd.unnotified then notifyComps v else v

theorem countComp_eq (u : State) (x : Comp) :
    ∃ n b, countComp u x = { u with cmd := { u.cmd with unnotified := n, cmpSource := b } } := by
  unfold countComp notifyComps
  dsimp only
  split
  · split <;> exact ⟨_, _, rfl⟩
  · exact ⟨_, _, rfl⟩

theorem writeComp_eq (s : State) (x : Comp) : writeComp s x =
    countComp (tailOn (compSent s x) (s.get F.CMP_TAIL_TAIL) (ringSize s) (s.get F.CMP_TAIL_PHASE)) x := by
  unfold writeComp tailOn compSent
  rfl

/-- Settles O19: with an error nothing is sent; else the completion goes, the tail advances and the notification only counts. -/
theorem completionDelivery : Obligations.CompletionDelivery := by
  unfold Obligations.CompletionDelivery
  refine fun s x => ⟨fun hx hw => ⟨?_, fun hno => ?_⟩, fun err hx hroom hno => ?_⟩
  · refine ⟨{ s.set F.CMD_STATUS_CMP_WR_ERR 1 with cmd := { s.cmd with cmpStop := true } }, ?_,
      get_set_same s F.CMD_STATUS_CMP_WR_ERR 1, rfl, rfl, .setOne s F.CMD_STATUS_CMP_WR_ERR 1⟩
    show execCompletionWrite .ring true s = _
    unfold execCompletionWrite
    rw [hx]
    dsimp only
    rw [hw]
    rfl
  · obtain ⟨l, hl⟩ : ∃ l, compSent s x = _ := dropComp_eq (s := sendMem s _ _) hno x
    obtain ⟨n, b, hcount⟩ := countComp_eq (tailOn (compSent s x) (s.get F.CMP_TAIL_TAIL) (ringSize s) (s.get F.CMP_TAIL_PHASE)) x
    have hregs : (compSent s x).regs = s.regs := by rw [hl]; rfl
    have htail := tailOn_tail (compSent s x) (s.get F.CMP_TAIL_TAIL) (ringSize s) (s.get F.CMP_TAIL_PHASE)
    have hphase := tailOn_phase (compSent s x) (s.get F.CMP_TAIL_TAIL) (ringSize s) (s.get F.CMP_TAIL_PHASE)
    have honly := tailOn_only (compSent s x) (s.get F.CMP_TAIL_TAIL) (ringSize s) (s.get F.CMP_TAIL_PHASE)
    have hrun : exec (.completionWrite .ring false) s = .next (writeComp s x) := by
      show execCompletionWrite .ring false s = _
      unfold execCompletionWrite
      rw [hx]
      dsimp only
      rw [hw]
      rfl
    refine ⟨_, hrun.trans (congrArg _ ((writeComp_eq s x).trans hcount)), ?_, htail, ?_, ?_, ?_⟩
    · dsimp only
      rw [honly.1, hl]
    · refine hphase.trans ?_
      rw [get_getReg (compSent s x), hregs]
      rfl
    · dsimp only
      rw [honly.1, hl]
      rfl
    · exact .other ((RegFrame.other (.refl _ s) hregs).trans honly.2) rfl
  · obtain ⟨l, hl⟩ := dropComp_eq hno x
    refine ⟨{ dropComp s x with cmd := { (dropComp s x).cmd with mgmtComps := (dropComp s x).cmd.mgmtComps ++ [x] } }, ?_, ?_, ?_, ?_⟩
    · show execCompletionWrite .mgmt err s = _
      unfold execCompletionWrite
      rw [hx]
      dsimp only
      rw [if_neg (by omega)]
    all_goals rw [hl]

end Sys2Proof.Machine

/-! ## Register writes (R8, R9, R11 to R13)

Which writes of BAR0 change nothing or stop, what a plain write of a read-write register stores, and with them O22 and O23. -/
namespace Sys2Proof.Machine

/-! ### The order of the checks -/

theorem execRegisterWrite_dword {s : State} {p : Access} {off : Nat} (h : pathWrites s p = true) (hoff : off < 0x200000)
    (hal : off % 4 = 0) (htst : ¬(0x130000 ≤ off ∧ off < 0x140000)) (v : BitVec 64) :
    execRegisterWrite p off false v true false s = .next (writeDword s p off (v.toNat % 2 ^ 32)) := by
  unfold execRegisterWrite
  have hno : ¬(0x130000 ≤ off && off < 0x140000 && s.mode == .opened) = true := by
    simp only [Bool.and_eq_true, decide_eq_true_eq]
    exact fun k => htst k.1
  rw [if_neg (by simp [h]), if_neg (by simp), if_neg (by simpa using hoff), if_neg (by simpa using hal), if_neg hno]
  rfl

theorem writeDword_unassigned {s : State} {off : Nat} (h : regRef s off = none) (p : Access) (v : Nat) : writeDword s p off v = s := by
  unfold writeDword
  rw [h]
  dsimp only
  exact ite_self _

/-- Settles O22: the checks of R8 to R13 in their order. -/
theorem registerWriteStops : Obligations.RegisterWriteStops := by
  unfold Obligations.RegisterWriteStops
  intro s p off v hp
  have hpath : ¬ (!pathWrites s p) = true := by simp [hp]
  refine ⟨fun q full => ?_, fun q => ?_, fun q hoff => ?_, fun hal hoff htst hreg => ?_, fun q hal hoff => ?_,
    fun q hal hlo hhi hm => ?_⟩
  · refine ⟨if p == .pcie then s.inc F.LNK_PCIE_ERR_POISON else s, ?_, fun hpcie => ?_, fun hpcie => ?_⟩
    · show execRegisterWrite p off q v full true s = _
      unfold execRegisterWrite
      rw [if_neg hpath, if_pos rfl]
    · rw [if_pos (by simp [hpcie])]
      exact (RegsOnly.refl _ s).set _ (by simp)
    · rw [if_neg (by simp [hpcie])]
  · refine ⟨s, ?_, rfl⟩
    show execRegisterWrite p off q v false false s = _
    unfold execRegisterWrite
    rw [if_neg hpath]
    rfl
  · refine ⟨s, ?_, rfl⟩
    show execRegisterWrite p off q v true false s = _
    unfold execRegisterWrite
    rw [if_neg hpath, if_neg (by simp), if_pos (by simpa using hoff)]
  · refine ⟨s, ?_, rfl⟩
    exact (execRegisterWrite_dword hp hoff hal htst v).trans (congrArg _ (writeDword_unassigned hreg p _))
  · show execRegisterWrite p off q v true false s = _
    unfold execRegisterWrite
    rw [if_neg hpath, if_neg (by simp), if_neg (by simpa using hoff), if_pos (by simpa using hal)]
  · show execRegisterWrite p off q v true false s = _
    unfold execRegisterWrite
    rw [if_neg hpath, if_neg (by simp), if_neg (by simp; omega), if_neg (by simpa using hal), if_pos (by simp [hlo, hhi, hm])]

/-! ### Plain read-write registers -/

theorem setNow_eq (s : State) (f : Fld) (v : Nat) :
    setNow s f v = { s.set f v with hold := s.hold.filter fun (h : Held) => h.fld != f } := by
  unfold setNow
  dsimp only
  split
  · rfl
  next hany =>
    have hall : s.hold.filter (fun (h : Held) => h.fld != f) = s.hold := by
      refine List.filter_eq_self.2 fun h hh => ?_
      have hne := List.any_eq_false.1 (Bool.not_eq_true _ ▸ hany) h hh
      simpa using hne
    rw [hall]
    rfl

/-- The fields of a list each take a value, one after another. -/
def setAll (l : List Fld) (g : Fld → Nat) (s : State) : State := l.foldl (fun (t : State) f => setNow t f (g f)) s

theorem setAll_takes (l : List Fld) (g : Fld → Nat) (s : State) : Takes l s (setAll l g s) := by
  induction l generalizing s with
  | nil =>
    have hall : s.hold.filter (fun (h : Held) => !([] : List Fld).contains h.fld) = s.hold :=
      List.filter_eq_self.2 fun _ _ => rfl
    refine ⟨?_, .refl _ s⟩
    rw [hall]
    rfl
  | cons f l ih =>
    obtain ⟨heq, hfr⟩ := ih (setNow s f (g f))
    have hstep : setAll (f :: l) g s = setAll l g (setNow s f (g f)) := rfl
    rw [hstep]
    have hone : RegFrame (f :: l) s (setNow s f (g f)) := by
      rw [setNow_eq]
      exact .other ((RegFrame.refl _ s).set (g f) (List.mem_cons_self ..)) rfl
    refine ⟨?_, hone.trans (hfr.subset fun _ h => List.mem_cons_of_mem _ h)⟩
    rw [heq, setNow_eq]
    have hhold : (s.hold.filter fun (h : Held) => h.fld != f).filter (fun (h : Held) => !l.contains h.fld) =
        s.hold.filter fun (h : Held) => !(f :: l).contains h.fld := by
      rw [List.filter_filter]
      refine List.filter_congr fun h _ => ?_
      rw [List.contains_cons, Bool.not_or, Bool.and_comm]
      rfl
    dsimp only
    rw [hhold]
    rfl

theorem setAll_get {l : List Fld} (hl : l.Pairwise fun a b => a.key ≠ b.key) (g : Fld → Nat) {f : Fld} (hf : f ∈ l) (s : State) :
    (setAll l g s).get f = g f % 2 ^ f.width := by
  induction l generalizing s with
  | nil => cases hf
  | cons a l ih =>
    obtain ⟨ha, hl⟩ := List.pairwise_cons.1 hl
    have hstep : setAll (a :: l) g s = setAll l g (setNow s a (g a)) := rfl
    rw [hstep]
    rcases List.mem_cons.1 hf with rfl | hf
    · rw [(setAll_takes l g _).2 f ha, setNow_eq]
      exact get_set_same s f (g f)
    · exact ih hl hf _

/-- The same fields in another order. -/
theorem Takes.congr {l m : List Fld} {s t : State} (h : Takes l s t) (hlm : ∀ f, f ∈ l ↔ f ∈ m) : Takes m s t := by
  refine ⟨?_, h.2.subset fun f hf => (hlm f).1 hf⟩
  have hc (f : Fld) : l.contains f = m.contains f := by
    rw [Bool.eq_iff_iff, List.contains_iff_mem, List.contains_iff_mem, hlm f]
  have heq := h.1
  simp only [hc] at heq
  exact heq

theorem foldl_congr_of_mem {α β : Type} {f g : α → β → α} {l : List β} (h : ∀ a, ∀ b ∈ l, f a b = g a b) (a : α) :
    l.foldl f a = l.foldl g a := by
  induction l generalizing a with
  | nil => rfl
  | cons b l ih =>
    rw [List.foldl_cons, List.foldl_cons, h a b (List.mem_cons_self ..)]
    exact ih (fun a x hx => h a x (List.mem_cons_of_mem _ hx)) _

/-- A write of a register of read-write fields that waits for no boundary stores them all. -/
theorem writeFields_rw {s : State} {off : Nat} {fs : List (Fld × Acc)} (hrw : ∀ e ∈ fs, e.2 = .rw) (hst : stageOf s off .rw = none)
    (v : Nat) : writeFields s off fs v = setAll (fs.map (·.1)) (·.of v) s := by
  have hhit (lo : Nat) : rwlHit s fs v lo = false := by
    refine List.any_eq_false.2 fun e he => ?_
    rw [hrw e he]
    simp
  have hlock : lockLog s off fs v = s := by
    unfold lockLog
    rw [hhit, hhit]
    exact ite_self _
  unfold writeFields setAll
  rw [hlock, List.foldl_map]
  refine foldl_congr_of_mem (fun t e he => ?_) s
  unfold writeField
  rw [hrw e he, hst]

/-- A write of a register below the CMD block, or of the CMD block, that only stores its fields. -/
theorem writeDword_rw {s : State} {p : Access} {off : Nat} {fs : List (Fld × Acc)} {v : Nat} (ha : answers s off = true)
    (hreg : regRef s off = some ⟨off, false, off, fs, .a⟩) (hw : writeReg s p ⟨off, false, off, fs, .a⟩ v = writeAt s off v)
    (hat : regAt off = some (off, fs)) (hrw : ∀ e ∈ fs, e.2 = .rw) (hst : stageOf s off .rw = none) :
    writeDword s p off v = setAll (fs.map (·.1)) (·.of v) s := by
  unfold writeDword
  rw [if_neg (by simp [ha]), hreg]
  refine (hw.trans ?_).trans (writeFields_rw hrw hst v)
  unfold writeAt
  rw [hat]

theorem stageOf_low (s : State) {off : Nat} (h : off < 0x40000) : stageOf s off .rw = none := by
  have h1 : stageOf.hgeHeld off = false := by
    unfold stageOf.hgeHeld
    simp
    omega
  have h2 : stageOf.emiHeld off = false := by
    unfold stageOf.emiHeld
    simp
    omega
  have hrxf : ¬ (0x40000 ≤ off && off < 0x60000) = true := by simp; omega
  have htdc : ¬ (0x60100 ≤ off && off < 0x60140) = true := by simp; omega
  unfold stageOf
  rw [h1, h2, if_neg hrxf, if_neg htdc, if_neg Bool.false_ne_true, if_neg Bool.false_ne_true, ite_self]

/-- A single register of the blocks below RXF. -/
theorem regRef_low (s : State) {off : Nat} {fs : List (Fld × Acc)} (h : off < 0x40000) (hat : regAt off = some (off, fs))
    (hsize : sizeAt (regSpecsOf off) off = 4) : regRef s off = some ⟨off, false, off, fs, .a⟩ := by
  have hb : ¬ (0xD8000 ≤ off && off < 0xE0000) = true := by simp; omega
  have hrxf : ¬ (0x40000 ≤ off && off < 0x50000) = true := by simp; omega
  have htab : tableOffset s off = off := by
    unfold tableOffset windowOf
    rw [if_neg hb, if_neg hrxf]
  unfold regRef
  simp only [htab, hat, hsize, hb, Nat.sub_self, Nat.sub_zero]
  rfl

/-- The fields of SHD_WAKE_CFG. -/
def wakeCfgFields : List (Fld × Acc) :=
  [⟨F.SHD_WAKE_CFG_AUTO_READY, .rw⟩, ⟨F.SHD_WAKE_CFG_PERST_EN, .rw⟩, ⟨F.SHD_WAKE_CFG_IRQW_EN, .rw⟩, ⟨F.SHD_WAKE_CFG_ALARM_EN, .rw⟩,
    ⟨F.SHD_WAKE_CFG_MGMT_EN, .rw⟩, ⟨F.SHD_WAKE_CFG_WAKE_POL, .rw⟩, ⟨F.SHD_WAKE_CFG_WAKE_EN, .rw⟩]

/-- The fields of CMP_NOTIFY. -/
def notifyFields : List (Fld × Acc) := [⟨F.CMP_NOTIFY_TIME, .rw⟩, ⟨F.CMP_NOTIFY_COUNT, .rw⟩]

theorem writeDword_wakeCfg (s : State) (p : Access) (v : Nat) :
    writeDword s p F.SHD_WAKE_CFG_WAKE_EN.off v = setAll (wakeCfgFields.map (·.1)) (·.of v) s := by
  have ha : answers s 0x10030 = true := by simp [answers]
  have hat : regAt 0x10030 = some (0x10030, wakeCfgFields) := by decide
  exact writeDword_rw ha (regRef_low s (by decide) hat (by decide)) rfl hat (by decide) (stageOf_low s (by decide))

theorem writeDword_notify {s : State} (h : ctlUp s = true) (p : Access) (v : Nat) :
    writeDword s p F.CMP_NOTIFY_TIME.off v = setAll (notifyFields.map (·.1)) (·.of v) s := by
  have ha : answers s 0x20048 = true := by simp [answers, h]
  have hat : regAt 0x20048 = some (0x20048, notifyFields) := by decide
  exact writeDword_rw ha (regRef_low s (by decide) hat (by decide)) rfl hat (by decide) (stageOf_low s (by decide))

theorem of_mod (f : Fld) (v : Nat) : f.of v % 2 ^ f.width = bits v f.lsb f.width := by
  unfold Fld.of bits
  exact Nat.mod_mod _ _

/-- Settles O23: the fields of the register are stored one by one. -/
theorem registerWriteTakes : Obligations.RegisterWriteTakes := by
  unfold Obligations.RegisterWriteTakes
  intro s p v hp
  refine ⟨?_, fun hctl => ?_⟩
  · have hdist : (wakeCfgFields.map (·.1)).Pairwise fun a b => a.key ≠ b.key := by decide
    have hget {f : Fld} (hf : f ∈ wakeCfgFields.map (·.1)) := (setAll_get hdist (·.of (v.toNat % 2 ^ 32)) hf s).trans (of_mod f _)
    refine ⟨_, (execRegisterWrite_dword hp (by decide) (by decide) (by decide) v).trans (congrArg _ (writeDword_wakeCfg s p _)),
      hget (by decide), hget (by decide), (setAll_takes _ _ s).congr fun f => ?_⟩
    simp only [wakeCfgFields, List.map_cons, List.map_nil, List.mem_cons, List.not_mem_nil, or_false]
    grind
  · have hdist : (notifyFields.map (·.1)).Pairwise fun a b => a.key ≠ b.key := by decide
    have hget {f : Fld} (hf : f ∈ notifyFields.map (·.1)) := (setAll_get hdist (·.of (v.toNat % 2 ^ 32)) hf s).trans (of_mod f _)
    exact ⟨_, (execRegisterWrite_dword hp (by decide) (by decide) (by decide) v).trans (congrArg _ (writeDword_notify hctl p _)),
      hget (by decide), hget (by decide), setAll_takes _ _ s⟩

end Sys2Proof.Machine

/-! ## Safety faults, fatal faults and their reactions (R492 to R494, R642 to R646)

The order in which reactions run, and with it O26. -/
namespace Sys2Proof.Machine

/-! ### F3 faults -/

theorem execF3Fault_raises {s : State} (h : safUp s = true) {code : Nat} {k : F3Kind} (hk : f3Kind code = some k) (detail : Nat) :
    execF3Fault code detail s = .next (raiseF3 s code detail k) := by
  unfold execF3Fault
  rw [if_neg (by simp [h]), hk]

theorem execFaultLog_f3 (s : State) {code : Nat} {k : F3Kind} (hcat : code ∈ catalogue 3) (hk : f3Kind code = some k) (detail : Nat) :
    execFaultLog 3 code detail s = .next (raiseF3 s code detail k) := by
  have hin : inCatalogue s 3 code = true := by simp [inCatalogue, hcat]
  have hclass : ((3 : Fin 5) : Nat) = 3 := rfl
  unfold execFaultLog
  rw [hclass, if_neg (by simp [hin])]
  simp [hk]

theorem enterSafeHold_cause (s : State) (cause : Nat) : (enterSafeHold s cause).get F.SAF_STATUS_HOLD_CAUSE = cause % 16 := by
  unfold enterSafeHold
  simp (disch := decide) only [get_getReg, getReg_setMode, State.set_regs, getReg_setReg_other, getReg_setReg] <;> rfl

theorem enterLockout_latch (s : State) (cause : Nat) : (enterLockout s cause).get F.SAF_STATUS_LOCK_LATCH = 1 ∧
    (enterLockout s cause).get F.SAF_STATUS_LOCK_CAUSE = cause % 4 := by
  unfold enterLockout
  constructor <;>
    simp (disch := decide) only [get_getReg, getReg_setMode, State.set_regs, getReg_setReg_other, getReg_setReg] <;> rfl

/-! ### F4 faults -/

/-- Outside OPENED and OFF no pair is on after an F4 fault. -/
theorem raiseF4_pairs {s : State} (h : s.mode ≠ .opened) (h0 : s.mode ≠ .off) (code detail : Nat) (d : Side) (n : Nat) (hn : n < 4) :
    ((raiseF4 s code detail).ev d).pair n ≠ .on := by
  have h1 : (s.mode == .off) = false := by simpa using h0
  have h2 : (s.mode == .opened) = false := by simpa using h
  unfold raiseF4
  simp only [h1, h2, Bool.false_eq_true, if_false]
  generalize hv : setMode _ .fatal = v
  have hpairs : (v.ev d).pair n ≠ .on := hv ▸ setMode_pairs _ .fatal (by decide) d n hn
  cases d <;> exact hpairs

/-! ### Reactions -/

/-- With none that runs a reaction is due of the highest class that has one. -/
theorem dueReaction_idle {s : State} (h : s.running = []) : dueReaction s = [3, 2, 1, 0].findSome? (nextReaction s) := by
  unfold dueReaction
  rw [h]
  rfl

/-- With no record that waits the next reaction of a class is the first of its queue. -/
theorem nextReaction_queued {s : State} (h : ∀ f ∈ s.faults, f.noReact = false) (cls : Nat) :
    nextReaction s cls = s.reactions.find? (·.cls == cls) := by
  have hnone : (s.faults.find? fun (r : FaultRec) => r.cls == cls && r.noReact && r.active) = none :=
    List.find?_eq_none.2 fun f hf => by simp [h f hf]
  unfold nextReaction
  rw [hnone]
  cases s.reactions.find? (·.cls == cls) <;> rfl

/-- Of a queue whose first reaction of its class is r, and which has none of a higher class, r is due. -/
theorem dueReaction_first {s : State} {r : Reaction} {a b : List Reaction} (hrun : s.running = [])
    (hf : ∀ f ∈ s.faults, f.noReact = false) (hq : s.reactions = a ++ r :: b) (hr : r.cls ≤ 3) (ha : ∀ x ∈ a, x.cls < r.cls)
    (hb : ∀ x ∈ b, x.cls ≤ r.cls) : dueReaction s = some r := by
  have hhigher (c : Nat) (hc : r.cls < c) : nextReaction s c = none := by
    rw [nextReaction_queued hf, hq]
    refine List.find?_eq_none.2 fun x hx => ?_
    have hle : x.cls ≤ r.cls := by
      rcases List.mem_append.1 hx with hx | hx
      · exact Nat.le_of_lt (ha x hx)
      · rcases List.mem_cons.1 hx with rfl | hx
        · exact Nat.le_refl _
        · exact hb x hx
    simp
    omega
  have hown : nextReaction s r.cls = some r := by
    have hno : a.find? (·.cls == r.cls) = none := List.find?_eq_none.2 fun x hx => by simpa using Nat.ne_of_lt (ha x hx)
    rw [nextReaction_queued hf, hq, List.find?_append, hno, List.find?_cons_of_pos (by simp)]
    rfl
  rw [dueReaction_idle hrun]
  have hcls : r.cls = 3 ∨ r.cls = 2 ∨ r.cls = 1 ∨ r.cls = 0 := by omega
  rcases hcls with hc | hc | hc | hc <;> rw [hc] at hown hhigher <;> simp [hown, hhigher]

theorem erase_first {r : Reaction} {a : List Reaction} (b : List Reaction) (ha : ∀ x ∈ a, x.cls < r.cls) :
    (a ++ r :: b).erase r = a ++ b := by
  have hnot : r ∉ a := fun h => Nat.lt_irrefl _ (ha r h)
  rw [List.erase_append_right _ hnot, List.erase_cons_head]

/-- The end of the reaction that runs touches only the record of its own code and DETAIL. -/
theorem endReaction_eq {s : State} {r : Reaction} {l : List Reaction} (h : s.running = r :: l) :
    endReaction s = { s with running := l, faults := (endReaction s).faults } ∧
    ∀ x ∈ s.faults, x.is r.code r.detail = false → x ∈ (endReaction s).faults := by
  unfold endReaction
  rw [h]
  refine ⟨rfl, fun x hx hne => List.mem_map.2 ⟨x, hx, ?_⟩⟩
  rw [if_neg (by simp [hne])]

/-- What a cleared F3 cause leaves of the causes held. -/
theorem execF3CauseCleared_f3 (s : State) (code detail : Nat) :
    ∃ t, execF3CauseCleared code detail s = .next t ∧ t.saf.f3 = s.saf.f3.filter (· != (code, detail)) := by
  unfold execF3CauseCleared
  dsimp only
  split <;> exact ⟨_, rfl, rfl⟩

/-- Settles O26: each fault by its class, and the reactions by their queue. -/
theorem safetyAndFatalFaults : Obligations.SafetyAndFatalFaults := by
  unfold Obligations.SafetyAndFatalFaults
  refine fun s => ⟨fun detail hup hm => ?_, fun detail hm => ?_, fun detail hup hm => ?_, fun code detail => ?_,
    fun code detail hcat ho hoff => ?_, fun r hctl hdue => ?_, fun r a b hrun hf hq hr ha hb => ?_, fun r l hctl hdue hrun => ?_,
    fun h => ?_⟩
  · refine ⟨_, execF3Fault_raises (code := 0x0D04) (k := .hold 1) hup rfl detail, raiseF3_hold_mode _ _ _ _ hm, ?_, raiseF3_frame _ _ _ _, ?_⟩
    · rw [raiseF3_hold_eq _ _ _ _ hm]
      exact enterSafeHold_cause _ 1
    · exact fun d n hn => raiseF3_hold_pairs _ _ _ _ hm d n hn
  · refine ⟨_, execFaultLog_f3 s (k := .lock 2) (by decide) rfl detail, ?_, ?_⟩
    · rw [raiseF3_lock _ _ _ _ hm]
      exact setMode_mode _ _
    · have hframe := raiseF3_frame s 0x0D01 detail (.lock 2)
      rw [raiseF3_lock _ _ _ _ hm] at hframe ⊢
      obtain ⟨hlatch, hcause⟩ := enterLockout_latch (f3State s 0x0D01 detail) 2
      exact ⟨hlatch, hcause, hframe, fun d n hn => setMode_pairs _ .lockout (by decide) d n hn⟩
  · have hframe := raiseF3_frame s 0x0D02 detail (.lock 1)
    have heq := raiseF3_lock_ready s 0x0D02 detail 1 hm
    refine ⟨_, execF3Fault_raises (code := 0x0D02) (k := .lock 1) hup rfl detail, ?_, ?_, ?_, hframe⟩ <;> rw [heq]
    · rw [State.set_mode, State.set_mode, f3State_mode, hm]
    · exact (get_set_other _ _ (by decide)).trans (get_set_same _ F.SAF_STATUS_LOCK_LATCH 1)
    · exact get_set_same _ F.SAF_STATUS_LOCK_CAUSE 1
  · obtain ⟨t, ht, hf3⟩ := execF3CauseCleared_f3 s code detail
    refine ⟨t, ht, ?_, (execF3CauseCleared_keeps code detail (Keeps.refl s)).keeps t ht⟩
    rw [hf3]
    simp
  · obtain ⟨hrow, hcol, -, hebk, hfls⟩ := raiseF4_pins s code detail hoff
    refine ⟨raiseF4 s code detail, if_pos hcat, raiseF4_mode _ _ _ ho hoff, raiseF4_get_cause hoff _ _, hrow, hcol, hebk,
      hfls, raiseF4_frame _ _ _, fun d n hn => raiseF4_pairs ho hoff code detail d n hn⟩
  · refine ⟨beginReaction s r, ?_, rfl⟩
    show execFaultReactionRun s = _
    unfold execFaultReactionRun
    rw [if_neg (by simp [hctl]), hdue]
  · exact ⟨dueReaction_first hrun hf hq hr ha hb, by rw [hq, erase_first b ha]⟩
  · obtain ⟨heq, hrest⟩ := endReaction_eq hrun
    refine ⟨endReaction s, ?_, congrArg State.running heq, heq, hrest⟩
    show execFaultReactionRun s = _
    unfold execFaultReactionRun
    rw [if_neg (by simp [hctl]), hdue]
  · refine ⟨deviceReset s 2, if_pos h, deviceReset_get_startKind s 2, reset_cmds s 2, ?_, reset_sec s 2⟩
    rw [reset_mode]
    cases s.flag F.SEC_STATUS_OPENED
    · exact .inl rfl
    · exact .inr rfl

end Sys2Proof.Machine

/-! ## A switch-over whose HERD_SWITCH gives no completion (R151)

O28 says that SWITCH_OVER_DONE with the other pair out of service writes no register. A HERD_SWITCH of the ring that runs on after
PERST# is marked as discarded, and the completion that it does not give is counted in CMD_ERR_CNT. -/
namespace Sys2Proof.Machine

/-- A HERD_SWITCH that runs, whose completion is discarded. -/
def discardedSwitch : Cmd :=
  { port := .ring, tag := 0, index := 0, opcode := 0x0106, flags := 0, version := 1, paramLen := 0, bufAddr := 0, inl := [], data := [],
    counter := 0, phase := .running, first := true, discard := true }

/-- READY with that command running, a switch-over in progress and the pair H1 out of service. -/
def lostSwitchState : State :=
  { State.reset with mode := .ready, regs := [(F.SYS_STATUS_STEP.key, 0), (F.RED_HERD_H1_OK.key, 0)],
                     red := { State.reset.red with switching := true },
                     cmd := { State.reset.cmd with cmds := [discardedSwitch] } }

theorem lostSwitchState_ctlUp : ctlUp lostSwitchState = true := by decide +kernel

theorem lostSwitchState_alone : standbyOk lostSwitchState = false := by decide +kernel

theorem lostSwitchState_counts : ∃ t, exec .switchOverDone lostSwitchState = .next t ∧ t.get F.CMD_ERR_CNT_DISCARD_CNT = 1 :=
  ⟨_, rfl, by decide +kernel⟩

/-- Refutes O28: where the running HERD_SWITCH is one whose completion is discarded, the end of the switch-over counts it. -/
theorem not_herdPairs : ¬ Obligations.HerdPairs := by
  unfold Obligations.HerdPairs
  intro h
  obtain ⟨-, -, -, h⟩ := h lostSwitchState
  obtain ⟨t, ht, -, hregs, -⟩ := h rfl lostSwitchState_ctlUp lostSwitchState_alone
  obtain ⟨u, hu, hcount⟩ := lostSwitchState_counts
  obtain rfl : t = u := by
    rw [ht] at hu
    injection hu
  rw [get_getReg, hregs] at hcount
  exact absurd hcount (by decide +kernel)

end Sys2Proof.Machine

/-! ## Long operations (R131, R132, R148, R150)

A long operation that begins, and with it O31. -/
namespace Sys2Proof.Machine

/-! ### The checks of a command that is ready -/

theorem Ready.mem {s : State} {p : Port} {tag op : Nat} {check : State → Cmd → Option Nat} {c : Cmd} (h : Ready s p tag op check c) :
    c ∈ s.cmd.cmds := findCmd_mem h.found

/-- A command without a host buffer has passed its row's checks in the present state. -/
theorem Ready.checked {s : State} {p : Port} {tag op : Nat} {check : State → Cmd → Option Nat} {c : Cmd}
    (h : Ready s p tag op check c) (hr : opReads op = false) : check s c = none := by
  rcases h.passes with hp | hp
  · rw [hr, Bool.false_and, Bool.false_and] at hp
    cases hp
  · exact hp

/-- What passes the common checks meets no lock, no wrong state and no conflict. -/
theorem stdCheck_passes {s : State} {c : Cmd} {lock bad busy : Bool} (h : stdCheck s c lock bad busy = none) :
    lock = false ∧ bad = false ∧ busy = false := by
  unfold stdCheck at h
  split at h
  · cases h
  split at h
  · cases h
  split at h
  · cases h
  simp_all

/-! ### The beginning of a long operation -/

/-- The state in which a long operation runs: it has been accepted, unless it was before. -/
def begun (s : State) (c : Cmd) : State := if c.first then replaceCmd s c { c with phase := .running } else accept s c

/-- The command as it runs. -/
def runningAs (c : Cmd) : Cmd := { c with phase := .running, first := true }

theorem begin_begun (s : State) (c : Cmd) (run : State → Cmd → State) : begin_ s c run = run (begun s c) (runningAs c) := rfl

@[simp] theorem runningAs_dw (c : Cmd) : (runningAs c).dw = c.dw := rfl
@[simp] theorem runningAs_discard (c : Cmd) : (runningAs c).discard = c.discard := rfl
@[simp] theorem runningAs_port (c : Cmd) : (runningAs c).port = c.port := rfl
@[simp] theorem runningAs_tag (c : Cmd) : (runningAs c).tag = c.tag := rfl

/-- What ends as the running command ends as the command. -/
theorem ends_runningAs {t : State} {c : Cmd} {st r : Nat} (h : Ends t (runningAs c) st r) : Ends t c st r := h

theorem begun_cmd_only {s : State} {c : Cmd} (hd : c.discard = false) : begun s c = { s with cmd := (begun s c).cmd } := by
  unfold begun accept
  rw [queueComp_eq hd]
  split <;> rfl

theorem begun_runs {s : State} {c : Cmd} (h : c ∈ s.cmd.cmds) : Running (begun s c) c := by
  unfold begun
  split
  next hf =>
    have heq : { c with phase := CmdPhase.running, first := true } = { c with phase := .running } := by rw [← hf]
    unfold Running
    rw [heq]
    exact replaceFirst_mem _ h
  · exact accept_runs h

theorem begun_accepted {s : State} {c : Cmd} (hd : c.discard = false) (hf : c.first = false) : Accepted (begun s c) c := by
  unfold begun accept
  rw [if_neg (by simp [hf]), queueComp_eq hd]
  exact ⟨_, List.getLast?_concat, rfl, rfl, rfl, rfl, rfl, rfl⟩

theorem Running.congr {s t : State} {c : Cmd} (h : Running s c) (e : t.cmd = s.cmd) : Running t c := by
  unfold Running
  rw [e]
  exact h

theorem Accepted.congr {s t : State} {c : Cmd} (h : Accepted s c) (e : t.cmd = s.cmd) : Accepted t c := by
  unfold Accepted
  rw [e]
  exact h

/-- A state whose commands are those of a long operation that has begun: it runs, and has its ACCEPTED where it had none. -/
theorem begun_in {s t : State} {c : Cmd} (hd : c.discard = false) (h : c ∈ s.cmd.cmds) (e : t.cmd = (begun s c).cmd) :
    Running t c ∧ (c.first = false → Accepted t c) :=
  ⟨(begun_runs h).congr e, fun hf => (begun_accepted hd hf).congr e⟩

/-! ### SET_STATE (R80, R89, R90) -/

/-- A change of state has been asked for. -/
def askState (s : State) (target : Nat) (c : Cmd) : State :=
  { s with sys := { s.sys with trans := some { target := target, cmd := some (c.port, c.tag) } } }

/-- A change of state asked for by a long operation that begins. -/
theorem askState_parts {s : State} {c : Cmd} (n : Nat) (hd : c.discard = false) : (askState (begun s c) n c).regs = s.regs ∧
    (askState (begun s c) n c).mode = s.mode ∧
    (askState (begun s c) n c).sys = { s.sys with trans := some ⟨n, some (c.port, c.tag)⟩ } ∧
    (askState (begun s c) n c).cal = s.cal := by
  have h := begun_cmd_only (s := s) (c := c) hd
  generalize begun s c = t at h ⊢
  rw [h]
  exact ⟨rfl, rfl, rfl, rfl⟩

/-- What SET_STATE does with the command that runs. -/
def changeState (t : State) (c : Cmd) : State :=
  let u := askState t (c.dw 4) c
  if c.dw 4 = 1 then (if c.discard then beginShake (finishOk u c 1) else finishOk u c 1)
  else if c.dw 4 = 3 then startFromStandby u else u

theorem changeState_sleep {c : Cmd} (hd : c.discard = false) (h : c.dw 4 = 1) (t : State) :
    changeState t (runningAs c) = finishOk (askState t 1 c) (runningAs c) 1 := by
  unfold changeState
  rw [runningAs_dw, if_pos h, h, if_neg (by simp [hd])]
  rfl

theorem changeState_standby {c : Cmd} (h : c.dw 4 = 2) (t : State) : changeState t (runningAs c) = askState t 2 c := by
  unfold changeState
  rw [runningAs_dw, if_neg (by simp [h]), if_neg (by simp [h]), h]
  rfl

theorem changeState_ready {c : Cmd} (h : c.dw 4 = 3) (t : State) :
    changeState t (runningAs c) = startFromStandby (askState t 3 c) := by
  unfold changeState
  rw [runningAs_dw, if_neg (by simp [h]), if_pos h, h]
  rfl

/-- The banks' heat before a start-up is forgotten (R330). -/
def coolBanks (s : State) : State :=
  { s with emi := { s.emi with banks := s.emi.banks.map fun (b : Bank) => { b with dT := Frac.ofNat 0, acc := 0 } } }

/-- The registers of a start-up from STANDBY. -/
def warmRegs (s : State) : State :=
  clustersCold (((s.set F.SYS_START_START_KIND 3).set F.SYS_START_READY_MS 0xFFFF).set F.SYS_START_GROOM_FULL 0)

/-- The fields of SYS_START that a start-up from STANDBY writes, its step, and the clusters. -/
def warmFields : List Fld :=
  [F.SYS_START_START_KIND, F.SYS_START_READY_MS, F.SYS_START_GROOM_FULL, F.SYS_STATUS_STEP] ++ (List.range 17).map clst

theorem warmRegs_only (s : State) : RegsOnly warmFields s (warmRegs s) := by
  have h := (((RegsOnly.refl warmFields s).set (f := F.SYS_START_START_KIND) 3 (by simp [warmFields])).set
    (f := F.SYS_START_READY_MS) 0xFFFF (by simp [warmFields])).set (f := F.SYS_START_GROOM_FULL) 0 (by simp [warmFields])
  exact h.trans ((clustersCold_only _).subset fun _ hf => List.mem_append_right _ hf)

theorem warmRegs_get (s : State) {f : Fld} (hf : ∀ g ∈ (List.range 17).map clst, f.key ≠ g.key) :
    (warmRegs s).get f =
      (((s.set F.SYS_START_START_KIND 3).set F.SYS_START_READY_MS 0xFFFF).set F.SYS_START_GROOM_FULL 0).get f :=
  (clustersCold_only _).2 f hf

/-- A start-up from STANDBY, before its groom. -/
def warmStart (s : State) : State := coolBanks { warmRegs s with sys := { s.sys with startAt := s.sys.raw } }

/-- A warm groom of every cluster is queued, and the start-up is at its step. -/
def warmGroom (s : State) : State :=
  startAt { s with cal := { s.cal with grooms := s.cal.grooms ++ [⟨none, false, 0x1FFFF, false, true, false, false, 0⟩] } } 5

theorem startFromStandby_eq (s : State) : startFromStandby s = if s.step = 6 then warmStart s else warmGroom (warmStart s) := by
  unfold startFromStandby warmGroom warmStart coolBanks warmRegs
  rfl

theorem warmStart_regs (s : State) : (warmStart s).regs = (warmRegs s).regs := by
  unfold warmStart coolBanks
  generalize warmRegs s = t
  rfl

theorem warmStart_eq (s : State) : warmStart s = { s with
    regs := (warmRegs s).regs, sys := { s.sys with startAt := s.sys.raw }, emi := (warmStart s).emi } := by
  have h := (warmRegs_only s).1
  unfold warmStart coolBanks
  generalize warmRegs s = t at h ⊢
  rw [h]

theorem warmStart_frame (s : State) : RegFrame warmFields s (warmStart s) := (warmRegs_only s).2.other (warmStart_regs s)

theorem warmStart_gets (s : State) : (warmStart s).get F.SYS_START_START_KIND = 3 ∧
    (warmStart s).get F.SYS_START_READY_MS = 0xFFFF ∧ (warmStart s).get F.SYS_START_GROOM_FULL = 0 := by
  have h (f : Fld) : (warmStart s).get f = (warmRegs s).get f := congrArg (getReg · f) (warmStart_regs s)
  rw [h, h, h, warmRegs_get s (by decide), warmRegs_get s (by decide), warmRegs_get s (by decide)]
  simp (disch := decide) only [get_getReg, State.set_regs, getReg_setReg_other, getReg_setReg]
  decide

/-- The step is none of the registers of a start-up from STANDBY before its groom. -/
theorem warmStart_step (s : State) : (warmStart s).step = s.step := by
  have h (f : Fld) : (warmStart s).get f = (warmRegs s).get f := congrArg (getReg · f) (warmStart_regs s)
  unfold State.step
  rw [h, warmRegs_get s (by decide)]
  simp (disch := decide) only [get_getReg, State.set_regs, getReg_setReg_other]

theorem warmGroom_frame (s : State) : RegFrame warmFields s (warmGroom s) :=
  .trans (.other (.refl _ s) rfl) (.set (.refl _ _) 5 (by simp [warmFields]))

theorem warmGroom_get (s : State) {f : Fld} (hf : f.key ≠ F.SYS_STATUS_STEP.key) : (warmGroom s).get f = s.get f :=
  get_set_other _ 5 hf

theorem warmGroom_step (s : State) : (warmGroom s).step = 5 := get_set_same _ F.SYS_STATUS_STEP 5

theorem warmGroom_eq (t : State) : warmGroom t = { t with regs := (warmGroom t).regs, cal := { t.cal with
    grooms := t.cal.grooms ++ [⟨none, false, 0x1FFFF, false, true, false, false, 0⟩] } } := rfl

/-- A start-up from STANDBY leaves the device state and the commands, and of the start-up takes its clock. -/
theorem startFromStandby_parts (u : State) : (startFromStandby u).mode = u.mode ∧ (startFromStandby u).cmd = u.cmd ∧
    (startFromStandby u).sys = { u.sys with startAt := u.sys.raw } ∧ RegFrame warmFields u (startFromStandby u) := by
  have hwarm := warmStart_eq u
  have hframe := warmStart_frame u
  rw [startFromStandby_eq]
  generalize warmStart u = v at hwarm hframe ⊢
  split
  · exact ⟨by rw [hwarm], by rw [hwarm], by rw [hwarm], hframe⟩
  · have hgroom := warmGroom_frame v
    rw [warmGroom_eq] at hgroom ⊢
    exact ⟨by rw [hwarm], by rw [hwarm], by rw [hwarm], hframe.trans hgroom⟩

theorem startFromStandby_gets (u : State) : (startFromStandby u).get F.SYS_START_START_KIND = 3 ∧
    (startFromStandby u).get F.SYS_START_READY_MS = 0xFFFF ∧ (startFromStandby u).get F.SYS_START_GROOM_FULL = 0 := by
  have hgets := warmStart_gets u
  rw [startFromStandby_eq]
  generalize warmStart u = v at hgets ⊢
  split
  · exact hgets
  · rwa [warmGroom_get v (by decide), warmGroom_get v (by decide), warmGroom_get v (by decide)]

/-- A start-up that waited at the excitation goes on there; any other one grooms every cluster first. -/
theorem startFromStandby_goesOn (u : State) :
    (u.step = 6 → (startFromStandby u).step = 6 ∧ (startFromStandby u).cal.grooms = u.cal.grooms) ∧
    (u.step ≠ 6 → (startFromStandby u).step = 5 ∧
      (startFromStandby u).cal.grooms = u.cal.grooms ++ [⟨none, false, 0x1FFFF, false, true, false, false, 0⟩]) := by
  have hstep := warmStart_step u
  have hcal : (warmStart u).cal = u.cal := by rw [warmStart_eq]
  rw [startFromStandby_eq]
  generalize warmStart u = v at hstep hcal ⊢
  refine ⟨fun h => ?_, fun h => ?_⟩
  · rw [if_pos h]
    exact ⟨hstep.trans h, by rw [hcal]⟩
  · rw [if_neg h]
    refine ⟨warmGroom_step v, ?_⟩
    rw [← hcal]
    rfl

/-! ### ABORT (R150) -/

/-- An operation that ABORT stops ends with ABORTED, and the ABORT with 1. -/
def abortedState (s : State) (x c : Cmd) : State := finishOk (finish (stopOperation s x) x St.aborted 0 0) c 1

theorem abortedState_eq {s : State} {x c : Cmd} (hx : x.discard = false) (hd : c.discard = false) :
    abortedState s x c = { stopOperation s x with cmd := (abortedState s x c).cmd } := by
  have h1 := finishWith_cmd_only (s := stopOperation s x) hx St.aborted 0 0 []
  have h2 := finishOk_eq (s := finish (stopOperation s x) x St.aborted 0 0) hd 1
  unfold abortedState at h2 ⊢
  rw [finish_finishWith] at h2 ⊢
  generalize stopOperation s x = t at h1 h2 ⊢
  rw [h2, h1]

/-- The operation that was stopped has its completion. -/
theorem abortedState_comps {s : State} {x c : Cmd} (hx : x.discard = false) (hd : c.discard = false) :
    ∃ y ∈ (abortedState s x c).cmd.comps, y.tag = x.tag ∧ y.port = x.port ∧ y.index = x.index ∧ y.status = St.aborted ∧
      y.final = true := by
  obtain ⟨y, hlast, hport, htag, hindex, hstatus, hfinal, -⟩ := ends_with (s := stopOperation s x) hx St.aborted 0 0 []
  refine ⟨y, ?_, htag, hport, hindex, hstatus, hfinal⟩
  unfold abortedState
  rw [finishOk_finishWith, finishWith_cmd hd]
  exact List.mem_append_left _ (List.mem_of_getLast? hlast)

theorem abortCheck_stopped {s : State} {c x : Cmd} (h : operation s c.port (c.dw 4 % 2 ^ 16) = some x) (hs : opStops x.opcode = false) :
    abortCheck s c = some St.badParam := by
  unfold abortCheck
  rw [h]
  exact if_neg (by simp [hs])

/-- A command that waits and whose row's check fails is refused. -/
theorem Waits.refused {s : State} {p : Port} {tag op : Nat} {check : State → Cmd → Option Nat} {c : Cmd} (h : Waits s p tag op c)
    {st : Nat} (hc : check s c = some st) (run : State → Cmd → State) :
    withCmd s p tag op check run = .next (refuse s c st (checkDetail st)) := by
  unfold withCmd
  rw [h.found]
  dsimp only
  rw [if_neg (by simp [h.phase, h.may]), h.none_]
  simp [hc]

/-! ### The impedance check (R183, R185) -/

/-- Without a check in progress an impedance check takes its own clusters. -/
theorem startImpedance_idle {s : State} (h : s.flag F.RXF_IMP_STATUS_BUSY = false) (mask : Nat) : startImpedance s mask =
    { (if mask % 2 ^ 16 = 2 ^ 16 - 1 then (s.set F.RXF_IMP_STATUS_BUSY 1).set F.RXF_IMP_STATUS_PEND 0 else s.set F.RXF_IMP_STATUS_BUSY 1)
      with rxf := { s.rxf with impFrom := some mask } } := by
  unfold startImpedance
  rw [h, if_neg Bool.false_ne_true]
  dsimp only
  split <;> rfl

theorem startImpedance_busy (s : State) (mask : Nat) : (startImpedance s mask).get F.RXF_IMP_STATUS_BUSY = 1 := by
  unfold startImpedance
  dsimp only
  generalize (if s.flag F.RXF_IMP_STATUS_BUSY then mask ||| s.rxf.impFrom.getD 0 else mask) = all
  have hset := get_set_same s F.RXF_IMP_STATUS_BUSY 1
  split
  · exact (get_set_other (f := F.RXF_IMP_STATUS_PEND) (g := F.RXF_IMP_STATUS_BUSY) _ 0 (by decide)).trans hset
  · exact hset

/-! ### The counters (log entry 5) -/

/-- What DIAG_READ_COUNTERS does with a command. -/
def readCounters (s : State) (c : Cmd) : State :=
  let (n, t) := s.takeFree 32
  let len := n % (64 * c.paramLen + 1)
  let (v, u) := t.takeFree (8 * len)
  finishOut u c (leBytes len v) 1

/-- SET_STATE by its three targets. -/
theorem setState_gives {s : State} {p : Port} {tag : Nat} {c : Cmd} (hd : c.discard = false)
    (h : Ready s p tag 0x0102 setStateCheck c) :
    (c.dw 4 = 1 → Gives (.setState p tag) s (fun t => Ends t c St.done 1 ∧
      t = { s with sys := { s.sys with trans := some ⟨1, some (c.port, c.tag)⟩ }, cmd := t.cmd })) ∧
    (c.dw 4 = 2 → Gives (.setState p tag) s (fun t => Running t c ∧ (c.first = false → Accepted t c) ∧
      t = { s with sys := { s.sys with trans := some ⟨2, some (c.port, c.tag)⟩ }, cmd := t.cmd })) ∧
    (c.dw 4 = 3 → Gives (.setState p tag) s (fun t => Running t c ∧ (c.first = false → Accepted t c) ∧ t.mode = s.mode ∧
      t.sys = { s.sys with trans := some ⟨3, some (c.port, c.tag)⟩, startAt := s.sys.raw } ∧
      t.get F.SYS_START_START_KIND = 3 ∧ t.get F.SYS_START_READY_MS = 0xFFFF ∧ t.get F.SYS_START_GROOM_FULL = 0 ∧
      (s.step = 6 → t.step = 6 ∧ t.cal.grooms = s.cal.grooms) ∧
      (s.step ≠ 6 → t.step = 5 ∧
        t.cal.grooms = s.cal.grooms ++ [⟨none, false, 0x1FFFF, false, true, false, false, 0⟩]) ∧
      RegFrame warmFields s t)) := by
  refine ⟨fun hdw => ?_, fun hdw => ?_, fun hdw => ?_⟩
  · refine h.gives (run := fun s c => begin_ s c changeState) (execSetState p tag s) rfl rfl ?_
    dsimp only
    rw [begin_begun, changeState_sleep hd hdw]
    have hcmd := begun_cmd_only (s := s) (c := c) hd
    generalize begun s c = t at hcmd ⊢
    refine ⟨ends_ok (c := runningAs c) hd 1, ?_⟩
    refine (finishOk_eq (c := runningAs c) hd 1).trans ?_
    rw [hcmd]
    rfl
  · refine h.gives (run := fun s c => begin_ s c changeState) (execSetState p tag s) rfl rfl ?_
    dsimp only
    rw [begin_begun, changeState_standby hdw]
    have hcmd := begun_cmd_only (s := s) (c := c) hd
    obtain ⟨hruns, hacc⟩ := begun_in (t := askState (begun s c) 2 c) hd h.mem rfl
    refine ⟨hruns, hacc, ?_⟩
    generalize begun s c = t at hcmd ⊢
    rw [hcmd]
    rfl
  · refine h.gives (run := fun s c => begin_ s c changeState) (execSetState p tag s) rfl rfl ?_
    dsimp only
    rw [begin_begun, changeState_ready hdw]
    obtain ⟨hregs, hmode, hsys, hcal⟩ := askState_parts (s := s) (c := c) 3 hd
    have hcmd : (askState (begun s c) 3 c).cmd = (begun s c).cmd := rfl
    generalize askState (begun s c) 3 c = u at hregs hmode hsys hcal hcmd ⊢
    obtain ⟨hmode', hcmd', hsys', hframe⟩ := startFromStandby_parts u
    obtain ⟨hkind, hms, hfull⟩ := startFromStandby_gets u
    obtain ⟨h6, hno6⟩ := startFromStandby_goesOn u
    have hstep : u.step = s.step := congrArg (getReg · F.SYS_STATUS_STEP) hregs
    rw [hstep, hcal] at h6 hno6
    generalize startFromStandby u = t at hmode' hcmd' hsys' hframe hkind hms hfull h6 hno6 ⊢
    obtain ⟨hruns, hacc⟩ := begun_in (t := t) hd h.mem (hcmd'.trans hcmd)
    exact ⟨hruns, hacc, hmode'.trans hmode, hsys'.trans (by rw [hsys]), hkind, hms, hfull, h6, hno6,
      RegFrame.trans (.other (.refl _ s) hregs) hframe⟩

/-- DIAG_IMPEDANCE runs, with its clusters under test. -/
theorem diagImpedance_gives {s : State} {p : Port} {tag : Nat} {c : Cmd} (hd : c.discard = false)
    (h : Ready s p tag 0x0902 diagImpedanceCheck c) : Gives (.diagImpedance p tag) s (fun t => Running t c ∧
      (c.first = false → Accepted t c) ∧ t.get F.RXF_IMP_STATUS_BUSY = 1 ∧ t.rxf = { s.rxf with impFrom := some (c.dw 4 % 2 ^ 17) } ∧
      (c.dw 4 % 2 ^ 16 = 2 ^ 16 - 1 → t.get F.RXF_IMP_STATUS_PEND = 0) ∧
      RegFrame (if c.dw 4 % 2 ^ 16 = 2 ^ 16 - 1 then [F.RXF_IMP_STATUS_BUSY, F.RXF_IMP_STATUS_PEND] else [F.RXF_IMP_STATUS_BUSY]) s t ∧
      t = { s with regs := t.regs, rxf := t.rxf, cmd := t.cmd }) := by
  obtain ⟨-, -, hconflict⟩ := stdCheck_passes (h.checked rfl)
  rw [Bool.or_eq_false_iff, Bool.or_eq_false_iff, Bool.or_eq_false_iff] at hconflict
  obtain ⟨⟨⟨hidle, -⟩, -⟩, -⟩ := hconflict
  refine h.gives (execDiagImpedance p tag s) rfl rfl ?_
  rw [begin_begun]
  have hcmd := begun_cmd_only (s := s) (c := c) hd
  have hin := begun_in (s := s) (c := c) (t := startImpedance (begun s c) (c.dw 4 % 2 ^ 17)) hd h.mem
  have hbusy := startImpedance_busy (begun s c) (c.dw 4 % 2 ^ 17)
  have hmod : c.dw 4 % 2 ^ 17 % 2 ^ 16 = c.dw 4 % 2 ^ 16 := Nat.mod_mod_of_dvd _ (by decide)
  have hidle' : (begun s c).flag F.RXF_IMP_STATUS_BUSY = false := by rw [hcmd]; exact hidle
  rw [startImpedance_idle hidle', hmod] at hbusy hin
  rw [runningAs_dw, startImpedance_idle hidle', hmod]
  generalize begun s c = t at hcmd hin hbusy ⊢
  split
  next hall =>
    simp only [if_pos hall] at hbusy hin
    obtain ⟨hruns, hacc⟩ := hin rfl
    refine ⟨hruns, hacc, hbusy, by rw [hcmd], fun _ => get_set_same _ F.RXF_IMP_STATUS_PEND 0, ?_, by rw [hcmd]; rfl⟩
    rw [hcmd]
    exact .other (((RegFrame.refl _ s).set (f := F.RXF_IMP_STATUS_BUSY) 1 (by simp)).set (f := F.RXF_IMP_STATUS_PEND) 0 (by simp)) rfl
  next hall =>
    simp only [if_neg hall] at hbusy hin
    obtain ⟨hruns, hacc⟩ := hin rfl
    refine ⟨hruns, hacc, hbusy, by rw [hcmd], fun h => absurd h hall, ?_, by rw [hcmd]; rfl⟩
    rw [hcmd]
    exact .other (.setOne s F.RXF_IMP_STATUS_BUSY 1) rfl

/-- What ABORT leaves of an operation that it stops. -/
theorem abortedState_gives {s : State} {x c : Cmd} (hx : x.discard = false) (hd : c.discard = false) :
    Ends (abortedState s x c) c St.done 1 ∧
      (∃ y ∈ (abortedState s x c).cmd.comps,
        y.tag = x.tag ∧ y.port = x.port ∧ y.index = x.index ∧ y.status = St.aborted ∧ y.final = true) ∧
      abortedState s x c = { stopOperation s x with cmd := (abortedState s x c).cmd } ∧
      (x.opcode = 0x0902 → (abortedState s x c).get F.RXF_IMP_STATUS_BUSY = 0 ∧ (abortedState s x c).rxf.impFrom = none ∧
        RegFrame [F.RXF_IMP_STATUS_BUSY] s (abortedState s x c)) ∧
      (x.opcode = 0x0903 → abortedState s x c = { s with cmd := (abortedState s x c).cmd }) ∧
      (x.opcode = 0x0801 → abortedState s x c =
        { s with prt := { s.prt with retrain := none }, cmd := (abortedState s x c).cmd }) ∧
      (x.opcode = 0x0802 → abortedState s x c =
        { s with acq := { s.acq with tbMax := none }, cmd := (abortedState s x c).cmd }) := by
  have heq := abortedState_eq (s := s) hx hd
  refine ⟨ends_ok hd 1, abortedState_comps hx hd, heq, fun hop => ?_, fun hop => ?_, fun hop => ?_, fun hop => ?_⟩
  all_goals
    generalize abortedState s x c = t at heq ⊢
    unfold stopOperation at heq
    simp only [hop] at heq
    rw [heq]
  · exact ⟨get_set_same s F.RXF_IMP_STATUS_BUSY 0, rfl, .other (.setOne s F.RXF_IMP_STATUS_BUSY 0) rfl⟩

/-- DIAG_READ_COUNTERS ends with the bytes that it delivers, which fit its buffer (their layout is free, log entry 5). -/
theorem readCounters_delivers {s : State} {c : Cmd} (hd : c.discard = false) (hu : c.port = .ring → pcieUsable s = true) :
    ∃ d : List Byte, d.length ≤ 64 * c.paramLen ∧ Ends (readCounters s c) c St.done d.length ∧ Delivers s (readCounters s c) c d ∧
      (readCounters s c).regs = s.regs := by
  unfold readCounters
  dsimp only
  generalize leBytes _ _ = data
  obtain ⟨hends, hdel, heq⟩ := finishOut_delivers (s := ((s.takeFree 32).2.takeFree
    (8 * ((s.takeFree 32).1 % (64 * c.paramLen + 1)))).2) data 1 hd hu
  refine ⟨_, ?_, hends, hdel, by rw [heq]; rfl⟩
  rw [List.length_take]
  omega

theorem readCounters_timeout {s : State} {c : Cmd} (hd : c.discard = false) (hp : c.port = .ring) (hu : pcieUsable s = false) :
    Ends (readCounters s c) c St.timeout 0 ∧ (readCounters s c).regs = s.regs ∧ (readCounters s c).tx = s.tx := by
  unfold readCounters
  dsimp only
  rw [finishOut_timeout (s := ((s.takeFree 32).2.takeFree (8 * ((s.takeFree 32).1 % (64 * c.paramLen + 1)))).2) _ 1 hp hu]
  refine ⟨finishWith_ends hd _ _ (by decide) (by decide) _ _, ?_, ?_⟩
  all_goals rw [finish_finishWith, finishWith_cmd_only hd]; rfl

/-- Settles O31: each command's run as a completion, or as a long operation that has begun, of a named state. -/
theorem longOperations : Obligations.LongOperations := by
  unfold Obligations.LongOperations
  refine fun s => ⟨fun failed hno => ?_, fun p tag c hd => ⟨setState_gives hd, fun h => ?_,
    fun h => ?_, fun h => ?_, fun failed hrun => ?_, fun h => ⟨fun hno => ?_, fun x hx hxd _ => ?_⟩, fun x h hx hxs => ?_,
    fun h hu => ?_, fun h hp hu => ?_⟩⟩
  · refine ⟨s, ?_, rfl⟩
    show execSelfTestDone failed s = _
    unfold execSelfTestDone
    rw [hno]
  · refine h.gives (execHerdSwitch p tag s) rfl rfl ?_
    rw [begin_begun]
    have hcmd := begun_cmd_only (s := s) (c := c) hd
    obtain ⟨hruns, hacc⟩ := begun_in (s := s) (c := c) (t := { begun s c with red := { (begun s c).red with switching := true } }) hd h.mem rfl
    refine ⟨hruns, hacc, ?_⟩
    generalize begun s c = t at hcmd ⊢
    rw [hcmd]
  · exact diagImpedance_gives hd h
  · refine h.gives (execDiagSelfTest p tag s) rfl rfl ?_
    rw [begin_begun]
    exact ⟨begun_runs h.mem, begun_accepted hd, begun_cmd_only hd⟩
  · refine ⟨finishOk s c (failed &&& c.dw 4), ?_, ends_ok hd _, finishOk_eq hd _⟩
    show execSelfTestDone failed s = _
    unfold execSelfTestDone
    rw [hrun]
  · refine h.gives (execAbort p tag s) rfl rfl ?_
    rw [hno]
    exact ⟨ends_ok hd _, finishOk_eq hd _⟩
  · refine h.gives (execAbort p tag s) rfl rfl ?_
    rw [hx]
    exact abortedState_gives hxd hd
  · have hrefused := h.refused (abortCheck_stopped hx hxs) fun s c => match operation s c.port (c.dw 4 % 2 ^ 16) with
      | some x => finishOk (finish (stopOperation s x) x St.aborted 0 0) c 1
      | none => finishOk s c 0
    refine ⟨_, (show execAbort p tag s = _ from hrefused), ?_⟩
    exact ⟨finishWith_ends hd _ _ (by decide) (by decide) _ _, finishWith_cmd_only hd _ _ _ _⟩
  · refine h.gives (execDiagReadCounters p tag s) rfl rfl ?_
    exact readCounters_delivers hd hu
  · refine h.gives (execDiagReadCounters p tag s) rfl rfl ?_
    exact readCounters_timeout hd hp hu

end Sys2Proof.Machine

/-! ## The management port (R99, R156 to R164)

What a response and a frame do to the state, and with them O32. -/
namespace Sys2Proof.Machine

/-! ### Responses (R158, R159) -/

theorem putResp_frame (s : State) (kind seq : Nat) (body : List Byte) : RegFrame [F.MGMT_STAT_RESP_LOST] s (putResp s kind seq body) := by
  unfold putResp
  dsimp only
  split
  · exact .other (.setOne s F.MGMT_STAT_RESP_LOST 1) rfl
  · exact .other (.refl _ s) rfl

/-- A response changes RESP_LOST and the slot of the response. -/
theorem putResp_eq (s : State) (kind seq : Nat) (body : List Byte) : putResp s kind seq body =
    { s with regs := (putResp s kind seq body).regs, cmd := { s.cmd with resp := some (kind, seq, body) } } := by
  unfold putResp
  split <;> rfl

theorem putResp_cmd (s : State) (kind seq : Nat) (body : List Byte) :
    (putResp s kind seq body).cmd = { s.cmd with resp := some (kind, seq, body) } := by
  rw [putResp_eq]

/-- A response that was unread is lost. -/
theorem putResp_lost {s : State} (h : s.cmd.resp.isSome = true) (kind seq : Nat) (body : List Byte) :
    (putResp s kind seq body).get F.MGMT_STAT_RESP_LOST = 1 := by
  unfold putResp
  rw [if_pos h]
  exact get_set_same s F.MGMT_STAT_RESP_LOST 1

/-- The registers that say whether and how a request is acted on are none of a response's. -/
theorem putResp_live (s : State) (kind seq : Nat) (body : List Byte) :
    (putResp s kind seq body).flag F.SYS_STATUS_CMD_LIVE = s.flag F.SYS_STATUS_CMD_LIVE :=
  congrArg (· != 0) (putResp_frame s kind seq body F.SYS_STATUS_CMD_LIVE (by decide))

/-! ### Frames that arrive -/

section
variable {s : State} {kind : Nat} {b : List Byte} {act : Nat → List Byte → State}

/-- A sound frame of the row's type is acted on. -/
theorem onFrame_sound (hm : s.mode ≠ .off) (hc : frameCheck b = none) (hk : reqType b = kind) :
    onFrame s kind b act = act (reqSeq b) (reqBody b) := by
  unfold onFrame
  rw [if_neg (by simpa using hm), hc]
  exact if_pos hk

/-- A frame that fails is answered with its code. -/
theorem onFrame_fails (hm : s.mode ≠ .off) {code : Nat} (hc : frameCheck b = some code) :
    onFrame s kind b act = frameError s (reqSeq b) code := by
  unfold onFrame
  rw [if_neg (by simpa using hm), hc]

end

section
variable {s : State} {kind seq : Nat} {body : List Byte} {act : State → State}

/-- A request is acted on while the herd firmware runs. -/
theorem whenLive_live (hm : s.mode ≠ .fatal) (hl : s.flag F.SYS_STATUS_CMD_LIVE = true) : whenLive s kind seq body act = act s := by
  unfold whenLive
  rw [if_neg (by simpa using hm), if_pos hl]

/-- A request is held before the herd firmware runs. -/
theorem whenLive_held (hm : s.mode ≠ .fatal) (hs : s.mode ≠ .sleep) (hl : s.flag F.SYS_STATUS_CMD_LIVE = false) :
    whenLive s kind seq body act = { s with cmd := { s.cmd with held := s.cmd.held ++ [⟨kind, seq, body, false⟩] } } := by
  have hno : (s.mode == .sleep) = false := by simpa using hs
  unfold whenLive
  rw [if_neg (by simpa using hm), if_neg (by simp [hl]), hno, if_neg Bool.false_ne_true]
  unfold holdFrame
  rw [hno]

end

/-- A frame that fails changes the response, its loss and the count of failing CRCs. -/
theorem frameError_frame (s : State) (seq code : Nat) :
    RegFrame [F.MGMT_STAT_RESP_LOST, F.MGMT_CRC_CNT] s (frameError s seq code) := by
  have hcount : RegFrame [F.MGMT_STAT_RESP_LOST, F.MGMT_CRC_CNT] s (if code = 1 then s.inc F.MGMT_CRC_CNT else s) :=
    .ite (.inc (.refl _ s) (by simp)) (.refl _ s)
  exact hcount.trans ((putResp_frame _ _ _ _).subset (by simp))

theorem frameError_cmd (s : State) (seq code : Nat) :
    (frameError s seq code).cmd = { s.cmd with resp := some (0x8F, seq, [BitVec.ofNat 8 code]) } := by
  unfold frameError
  rw [putResp_cmd]
  split <;> rfl

/-! ### The requests -/

theorem readCompletion_gives (seq : Nat) (s : State) : (readCompletion seq s).cmd.resp = some (0x83, seq, completionBody s) ∧
    (readCompletion seq s).cmd.mgmtComps = s.cmd.mgmtComps.drop 1 ∧ RegFrame [F.MGMT_STAT_RESP_LOST] s (readCompletion seq s) := by
  unfold readCompletion
  dsimp only
  rw [putResp_cmd]
  exact ⟨rfl, rfl, .other (putResp_frame s 0x83 seq (completionBody s)) rfl⟩

/-- A read of the port leaves all but the shadows and the free values that it uses. -/
theorem readDword_eq (s : State) (p : Access) (x : Nat) :
    (readDword s p x).2 = { s with free := (readDword s p x).2.free, link := (readDword s p x).2.link } := by
  unfold readDword spendRead setShadow
  split
  · rfl
  split
  · rfl
  dsimp only
  split
  · dsimp only
    split <;> rfl
  split <;> rfl

theorem readDwords_eq (n x : Nat) (s : State) :
    (readDwords n x s).2 = { s with free := (readDwords n x s).2.free, link := (readDwords n x s).2.link } := by
  induction n generalizing x s with
  | zero => rfl
  | succ n ih =>
    unfold readDwords
    dsimp only
    split
    · rw [ih, readDword_eq]
    · exact ih _ _

theorem readRegs_gives (seq : Nat) (b : List Byte) (s : State) :
    (readRegs seq b s).cmd.resp = some (0x84, seq, (readDwords (leAt b 4 1) (leAt b 0 4 / 4 * 4) s).1) ∧
    RegFrame [F.MGMT_STAT_RESP_LOST] s (readRegs seq b s) ∧ (readRegs seq b s).mode = s.mode ∧ (readRegs seq b s).saf = s.saf := by
  unfold readRegs
  have hread := readDwords_eq (leAt b 4 1) (leAt b 0 4 / 4 * 4) s
  generalize readDwords _ _ s = r at hread ⊢
  obtain ⟨data, u⟩ := r
  dsimp only at hread ⊢
  have hparts := putResp_eq u 0x84 seq data
  have hframe := putResp_frame u 0x84 seq data
  generalize putResp u 0x84 seq data = t at hparts hframe ⊢
  exact ⟨by rw [hparts], RegFrame.trans (.other (.refl _ s) (by rw [hread])) hframe, by rw [hparts, hread], by rw [hparts, hread]⟩

/-- A RESET that is acted on, with its acknowledgement. -/
theorem askReset_gives (s : State) (seq : Nat) :
    (askReset (putResp s 0x85 seq [])).cmd.resp = some (0x85, seq, []) ∧ (askReset (putResp s 0x85 seq [])).cmd.resetDue = true ∧
    (askReset (putResp s 0x85 seq [])).get F.SYS_RESET_CAUSE_CMD = 1 ∧
    RegFrame [F.SYS_RESET_CAUSE_CMD, F.MGMT_STAT_RESP_LOST] s (askReset (putResp s 0x85 seq [])) := by
  have hframe := putResp_frame s 0x85 seq []
  have hcmd := putResp_cmd s 0x85 seq []
  generalize putResp s 0x85 seq [] = t at hframe hcmd ⊢
  refine ⟨?_, rfl, get_set_same t F.SYS_RESET_CAUSE_CMD 1, ?_⟩
  · show t.cmd.resp = _
    rw [hcmd]
  · exact (hframe.subset (by simp)).trans (.other ((RegFrame.refl _ t).set (f := F.SYS_RESET_CAUSE_CMD) 1 (by simp)) rfl)

/-! ### COMMAND frames (R160, R161) -/

theorem ackFrame_cmd (s : State) (seq tag : Nat) : (ackFrame s seq 0 tag).cmd =
    { s.cmd with resp := some (0x81, seq, ackBody 0 tag), lastAck := some (seq, ackBody 0 tag) } := by
  unfold ackFrame
  dsimp only
  rw [if_neg (by decide), putResp_cmd]

theorem ackFrame_frame (s : State) (seq tag : Nat) : RegFrame [F.MGMT_STAT_RESP_LOST] s (ackFrame s seq 0 tag) := by
  unfold ackFrame
  dsimp only
  rw [if_neg (by decide)]
  exact .other (putResp_frame s 0x81 seq (ackBody 0 tag)) rfl

/-- A repeated frame is answered as before. -/
theorem commandFrame_repeats {s : State} {seq : Nat} {a : List Byte} (h : s.cmd.lastAck = some (seq, a)) (b : List Byte) :
    commandFrame seq b s = putResp s 0x81 seq a := by
  have hlast : (s.cmd.lastAck.filter fun a => a.1 == seq) = some (seq, a) := by simp [h]
  unfold commandFrame
  rw [hlast]

/-- A new frame with room is acknowledged, and its command is taken. -/
theorem commandFrame_takes {s : State} {seq : Nat} {b : List Byte} (hm : s.mode ≠ .fatal) (hs : s.mode ≠ .sleep)
    (hnew : s.cmd.lastAck.filter (fun a => a.1 == seq) = none) (hroom : mgmtRoom s = true)
    (hl : s.flag F.SYS_STATUS_CMD_LIVE = true) :
    commandFrame seq b s = takeEntry (ackFrame s seq 0 (parseBody b).tag) (parseBody b) := by
  unfold commandFrame
  rw [hnew]
  dsimp only
  rw [if_neg (by simpa using hm), if_neg (by simpa using hs), if_neg (by simp [hroom]), if_pos hl]

/-- The slot of the response after a READ. -/
def readOut (full : Bool) (t : State) : State := if full then { t with cmd := { t.cmd with resp := none } } else t

/-! ### The obligation -/

/-- The clauses of frames that carry no body. -/
theorem mgmt_short_frames {s : State} (hm : s.mode ≠ .off) (head : Fin 65536) (rest b : List Byte) (hb : b = clocked head rest)
    (hc : frameCheck b = none) :
    (reqType b = 2 → Gives (.mgmtStatusRead head rest) s (fun t => t.cmd.resp = some (0x82, reqSeq b, statusBody s) ∧
      RegFrame [F.MGMT_STAT_RESP_LOST] s t ∧ (s.cmd.resp.isSome = true → t.get F.MGMT_STAT_RESP_LOST = 1) ∧
      t = { s with regs := t.regs, cmd := t.cmd })) ∧
    (reqType b = 3 → s.mode ≠ .fatal → s.flag F.SYS_STATUS_CMD_LIVE = true → Gives (.mgmtCompletionRead head rest) s (fun t =>
      t.cmd.resp = some (0x83, reqSeq b, completionBody s) ∧ t.cmd.mgmtComps = s.cmd.mgmtComps.drop 1 ∧
      RegFrame [F.MGMT_STAT_RESP_LOST] s t)) ∧
    (reqType b = 3 → s.mode ≠ .fatal → s.mode ≠ .sleep → s.flag F.SYS_STATUS_CMD_LIVE = false →
      Gives (.mgmtCompletionRead head rest) s (fun t =>
        t = { s with cmd := { s.cmd with held := s.cmd.held ++ [⟨3, reqSeq b, reqBody b, false⟩] } })) ∧
    (reqType b = 5 → s.mode ≠ .fatal → s.flag F.SYS_STATUS_CMD_LIVE = true → Gives (.mgmtReset head rest) s (fun t =>
      t.cmd.resp = some (0x85, reqSeq b, []) ∧ t.cmd.resetDue = true ∧ t.get F.SYS_RESET_CAUSE_CMD = 1 ∧
      RegFrame [F.SYS_RESET_CAUSE_CMD, F.MGMT_STAT_RESP_LOST] s t)) ∧
    (reqType b = 5 → s.mode ≠ .fatal → s.mode ≠ .sleep → s.flag F.SYS_STATUS_CMD_LIVE = false →
      Gives (.mgmtReset head rest) s (fun t => t.cmd.resp = some (0x85, reqSeq b, []) ∧
        t.cmd.held = s.cmd.held ++ [⟨5, reqSeq b, reqBody b, false⟩] ∧ RegFrame [F.MGMT_STAT_RESP_LOST] s t)) := by
  subst hb
  refine ⟨fun hk => ⟨_, congrArg Host.Outcome.next (onFrame_sound hm hc hk), ?_⟩, fun hk hf hl => ⟨_, congrArg Host.Outcome.next
    ((onFrame_sound hm hc hk).trans (whenLive_live hf hl)), readCompletion_gives _ s⟩, fun hk hf hs hl => ⟨_, congrArg
    Host.Outcome.next ((onFrame_sound hm hc hk).trans (whenLive_held hf hs hl)), rfl⟩, fun hk hf hl => ?_, fun hk hf hs hl => ?_⟩
  · refine ⟨by rw [putResp_cmd], putResp_frame s _ _ _, fun h => putResp_lost h _ _ _, ?_⟩
    conv => lhs; rw [putResp_eq]
    rw [putResp_cmd]
  · refine ⟨_, congrArg Host.Outcome.next ((onFrame_sound hm hc hk).trans (whenLive_live ?_ ?_)), askReset_gives s _⟩
    · rwa [putResp_eq]
    · rwa [putResp_live]
  · refine ⟨_, congrArg Host.Outcome.next ((onFrame_sound hm hc hk).trans (whenLive_held ?_ ?_ ?_)), ?_, ?_, ?_⟩
    · rwa [putResp_eq]
    · rwa [putResp_eq]
    · rwa [putResp_live]
    · rw [putResp_cmd]
    · rw [putResp_cmd]
    · exact .other (putResp_frame s 0x85 (reqSeq (clocked head rest)) []) rfl

/-- The clauses of frames that carry a body. -/
theorem mgmt_long_frames {s : State} (hm : s.mode ≠ .off) (head len : Fin 65536) (body b : List Byte) (crc : Dword)
    (hb : b = clocked head (afterSeq len body crc)) (hc : frameCheck b = none) :
    (reqType b = 4 → s.mode ≠ .fatal → s.flag F.SYS_STATUS_CMD_LIVE = true → Gives (.mgmtRegRead head len body crc) s (fun t =>
      t.cmd.resp = some (0x84, reqSeq b, (readDwords (leAt (reqBody b) 4 1) (leAt (reqBody b) 0 4 / 4 * 4) s).1) ∧
      RegFrame [F.MGMT_STAT_RESP_LOST] s t ∧ t.mode = s.mode ∧ t.saf = s.saf)) ∧
    (∀ a : List Byte, reqType b = 1 → s.cmd.lastAck = some (reqSeq b, a) → s.mode ≠ .fatal →
      Gives (.mgmtCommand head len body crc) s (fun t => t.cmd.resp = some (0x81, reqSeq b, a) ∧ t.cmd.cmds = s.cmd.cmds ∧
        t.cmd.held = s.cmd.held)) ∧
    (∀ c : Cmd, reqType b = 1 → s.mode ≠ .fatal → s.mode ≠ .sleep →
      s.cmd.lastAck.filter (fun a => a.1 == reqSeq b) = none → mgmtRoom s = true → s.flag F.SYS_STATUS_CMD_LIVE = true →
      c = parseBody (reqBody b) → entryCheck (ackFrame s (reqSeq b) 0 c.tag) c = none →
      Gives (.mgmtCommand head len body crc) s (fun t => t.cmd.cmds = s.cmd.cmds ++ [c] ∧
        t.cmd.resp = some (0x81, reqSeq b, ackBody 0 c.tag) ∧ RegFrame [F.MGMT_STAT_RESP_LOST] s t)) := by
  subst hb
  refine ⟨fun hk hf hl => ⟨_, congrArg Host.Outcome.next ((onFrame_sound hm hc hk).trans (whenLive_live hf hl)),
    readRegs_gives _ _ s⟩, fun a hk ha hf => ⟨_, congrArg Host.Outcome.next ((onFrame_sound hm hc hk).trans
    ((if_neg (by simpa using hf)).trans (commandFrame_repeats ha _))), ?_⟩, fun c hk hf hs hnew hroom hl hparse hpass => ?_⟩
  · dsimp only
    rw [putResp_cmd]
    exact ⟨rfl, rfl, rfl⟩
  · subst hparse
    refine ⟨_, congrArg Host.Outcome.next ((onFrame_sound hm hc hk).trans ((if_neg (by simpa using hf)).trans
      ((commandFrame_takes hf hs hnew hroom hl).trans (takeEntry_passes hpass)))), ?_, ?_, ?_⟩
    · rw [ackFrame_cmd]
    · rw [ackFrame_cmd]
    · exact .other (ackFrame_frame s (reqSeq (clocked head (afterSeq len body crc))) 
        (parseBody (reqBody (clocked head (afterSeq len body crc)))).tag) rfl

/-- Settles O32: a frame by its check (`onFrame_sound`, `onFrame_fails`), a request by the herd firmware (`whenLive_live`,
`whenLive_held`). -/
theorem managementPort : Obligations.ManagementPort := by
  unfold Obligations.ManagementPort
  refine fun s hm => ⟨mgmt_short_frames hm, fun head rest b code hb hc => ?_, mgmt_long_frames hm, fun n b z l hheld hup hl hpass => ?_,
    fun full k n b hresp => ?_, fun full hresp => ?_⟩
  · subst hb
    refine ⟨_, congrArg Host.Outcome.next (onFrame_fails hm hc), ?_, frameError_frame s _ _, ?_, ?_⟩
    all_goals rw [frameError_cmd]
  · refine ⟨runHeld ⟨1, n, b, z⟩ { s with cmd := { s.cmd with held := l } }, ?_, ?_⟩
    · show execMgmtHeldExecute s = _
      unfold execMgmtHeldExecute
      rw [hheld]
      exact if_pos (by rw [hup, hl]; rfl)
    · unfold runHeld
      dsimp only
      rw [takeEntry_passes hpass]
      exact ⟨rfl, rfl, rfl⟩
  · have hrun : execMgmtRead full s = .next (readOut full { s with tx := s.tx ++ [.mgmt (mgmtFrame k n b)] }) := by
      unfold execMgmtRead
      rw [if_neg (by simpa using hm), hresp]
      rfl
    refine ⟨_, hrun, ?_⟩
    cases full
    · exact ⟨rfl, hresp, rfl⟩
    · exact ⟨rfl, rfl, rfl⟩
  · refine ⟨{ s with tx := s.tx ++ [.mgmt [0]] }, ?_, rfl⟩
    show execMgmtRead full s = _
    unfold execMgmtRead
    rw [if_neg (by simpa using hm), hresp]

end Sys2Proof.Machine

/-! ## What a notice does (R263, R475, R478, R481)

A direction's notice, a gap and the settling of the pairs change the safety block, its counts and events, and the triggers that
wait. -/
namespace Sys2Proof.Machine

/-- The counts and events of the safety block that notices, gaps and the settling of pairs write. -/
def noteFields : List Fld :=
  [F.SAF_EVENT_TRIP, F.SAF_CNT_TRIP, F.SAF_EVENT_GAP_TRIP, F.SAF_CNT_GRACE, F.SAF_CNT_GAP, F.SAF_EVENT_WARN]

/-- The safety block, its counts and events and the recorder's triggers may change, and nothing else. -/
structure Notes (s t : State) : Prop where
  eq : t = { s with regs := t.regs, saf := t.saf, acq := { s.acq with pend := t.acq.pend } }
  frame : RegFrame noteFields s t

theorem Notes.refl (s : State) : Notes s s := ⟨rfl, .refl _ s⟩

theorem Notes.trans {r s t : State} (h : Notes r s) (k : Notes s t) : Notes r t := by
  refine ⟨?_, h.frame.trans k.frame⟩
  rw [k.eq, h.eq]

theorem Notes.set {s t : State} (h : Notes s t) {f : Fld} (v : Nat) (hf : f ∈ noteFields) : Notes s (t.set f v) :=
  h.trans ⟨rfl, (RegFrame.refl _ t).set v hf⟩

theorem Notes.inc {s t : State} (h : Notes s t) {f : Fld} (hf : f ∈ noteFields) : Notes s (t.inc f) := h.set _ hf

theorem Notes.ite {s t u : State} {c : Prop} [Decidable c] (h : Notes s t) (k : Notes s u) : Notes s (if c then t else u) := by
  split <;> assumption

theorem Notes.foldl {s t : State} {α : Type} {f : State → α → State} (hf : ∀ u x, Notes u (f u x)) (l : List α) (h : Notes s t) :
    Notes s (l.foldl f t) :=
  List.foldlRecOn l f h fun u hu x _ => hu.trans (hf u x)

/-- The safety block's part of the state takes a value. -/
theorem Notes.saf (s : State) (y : SafSt) : Notes s { s with saf := y } := ⟨rfl, .other (.refl _ s) rfl⟩

theorem setEv_notes (s : State) (d : Side) (e : Evaluator) : Notes s (s.setEv d e) := by
  cases d <;> exact .saf s _

theorem setPair_notes (s : State) (d : Side) (n : Nat) (st : PairState) : Notes s (setPair s d n st) := by
  unfold setPair
  dsimp only
  have hev := setEv_notes s d { s.ev d with pairs := putAt (s.ev d).pairs n .disabled st }
  generalize s.setEv d { s.ev d with pairs := putAt (s.ev d).pairs n .disabled st } = t at hev ⊢
  have htrip : Notes s (if d == .a && (s.ev d).pair n == .on && st != .on then (t.set F.SAF_EVENT_TRIP 1).inc F.SAF_CNT_TRIP else t) :=
    .ite ((hev.set 1 (by simp [noteFields])).inc (by simp [noteFields])) hev
  exact .ite (htrip.trans (.saf _ _)) htrip

theorem countTrip_notes (s : State) (d : Side) : Notes s (countTrip s d) :=
  .ite (((Notes.refl s).set 1 (by simp [noteFields])).inc (by simp [noteFields])) (.refl s)

theorem settlePair_notes (c : SafCfg) (d : Side) (s : State) (n : Nat) : Notes s (settlePair c d s n) := by
  have hset := setPair_notes s d n
  have hid := Notes.refl s
  unfold settlePair
  dsimp only
  refine .ite (.ite hid (hset _)) (.ite (.ite hid (hset _)) (.ite (.ite (hset _) (.ite ?_ hid)) ?_))
  · exact (hset _).trans (countTrip_notes _ d)
  · exact .ite (.ite hid (hset _)) (.ite hid (hset _))

theorem settle_notes (s : State) : Notes s (settle s) := by
  unfold settle
  split
  · exact .refl s
  · exact .foldl (settlePair_notes _ .b) _ (.foldl (settlePair_notes _ .a) _ (.refl s))

theorem openGap_notes (s : State) (d : Side) (dir : Nat) (short : Bool) : Notes s (openGap s d dir short) :=
  .ite (.inc (setEv_notes s d _) (by simp [noteFields])) (setEv_notes s d _)

theorem judge_notes (d : Side) (s : State) (n : Notice) : Notes s (judge d s n) := by
  unfold judge
  split
  · exact .refl s
  · exact .ite (.refl s) (.ite (setEv_notes s d _) ((setEv_notes s d _).trans (openGap_notes _ d _ _)))

theorem trigger_notes (s : State) (source : Nat) : Notes s (trigger s source) := by
  unfold trigger triggerAt
  split
  · exact .ite ⟨rfl, .other (.refl _ s) rfl⟩ (.refl s)
  · exact .refl s

theorem paddockTrigger_notes (s t : State) : Notes t (paddockTrigger s t) := by
  unfold paddockTrigger
  split
  · exact .refl t
  · have hpad : ∀ b : Bool, Notes t (if b then trigger t 1 else t) := fun b => .ite (trigger_notes t 1) (.refl t)
    exact .ite ((hpad _).trans (trigger_notes _ 3)) (hpad _)

theorem notify_notes (s : State) (n : Notice) : Notes s (notify s n) := by
  unfold notify
  dsimp only
  have hjudged : Notes s (judge .b (judge .a { s with saf := { s.saf with notices := s.saf.notices + 1 } } n) n) :=
    ((Notes.saf s _).trans (judge_notes .a _ n)).trans (judge_notes .b _ n)
  generalize judge .b (judge .a _ n) n = u at hjudged ⊢
  exact (Notes.ite (hjudged.set 1 (by simp [noteFields])) hjudged).trans
    ((paddockTrigger_notes s _).trans (settle_notes _))

theorem badNotice_notes (s : State) (dir : Nat) : Notes s (badNotice s dir) := notify_notes s _

end Sys2Proof.Machine

/-! ## What does not touch the link (R264 to R268, R298, R478)

The delivery of records, the closing of a recording and the withdrawal of the far windows leave the link and the pins. -/
namespace Sys2Proof.Machine

/-! ### What does not touch the link -/

/-- The link and the pins are as they were. -/
structure LinkSame (s t : State) : Prop where
  link : t.link = s.link
  pins : t.pins = s.pins

theorem LinkSame.refl (s : State) : LinkSame s s := ⟨rfl, rfl⟩

theorem LinkSame.trans {r s t : State} (h : LinkSame r s) (k : LinkSame s t) : LinkSame r t :=
  ⟨k.link.trans h.link, k.pins.trans h.pins⟩

theorem LinkSame.other {s t u : State} (h : LinkSame s t) (e : u.link = t.link) (e' : u.pins = t.pins) : LinkSame s u :=
  ⟨e.trans h.link, e'.trans h.pins⟩

theorem LinkSame.set {s t : State} (h : LinkSame s t) (f : Fld) (v : Nat) : LinkSame s (t.set f v) := ⟨h.link, h.pins⟩

theorem LinkSame.ite {s t u : State} {c : Prop} [Decidable c] (h : LinkSame s t) (k : LinkSame s u) : LinkSame s (if c then t else u) := by
  split <;> assumption

theorem LinkSame.foldl {s t : State} {α : Type} {f : State → α → State} (hf : ∀ u x, LinkSame u (f u x)) (l : List α)
    (h : LinkSame s t) : LinkSame s (l.foldl f t) :=
  List.foldlRecOn l f h fun u hu x _ => hu.trans (hf u x)

theorem Yards.linkSame {s t : State} (h : Yards s t) : LinkSame s t := ⟨by rw [h.eq], by rw [h.eq]⟩

theorem Notes.linkSame {s t : State} (h : Notes s t) : LinkSame s t := ⟨by rw [h.eq], by rw [h.eq]⟩

theorem Completes.linkSame {s t : State} (h : Completes s t) : LinkSame s t := ⟨h.link, h.pins⟩

theorem raiseFault_linkSame (s : State) (cls code detail : Nat) : LinkSame s (raiseFault s cls code detail) :=
  ⟨raiseFault_link s cls code detail, raiseFault_pins s cls code detail⟩

theorem finishOk_linkSame (s : State) (c : Cmd) (r : Nat) : LinkSame s (finishOk s c r) :=
  ⟨finishWith_link .., finishWith_pins ..⟩

theorem finishRunning_linkSame (s : State) (op st r : Nat) : LinkSame s (finishRunning s op st r) :=
  (finishRunning_completes s op st r).linkSame

theorem sendMem_linkSame (s : State) (addr : Nat) (data : List Byte) : LinkSame s (sendMem s addr data) := ⟨rfl, rfl⟩

theorem cancelMove_linkSame (fuel : Nat) (s : State) (n : Nat) : LinkSame s (cancelMove fuel s n) := by
  induction fuel generalizing s n with
  | zero => exact .refl s
  | succ fuel ih =>
    unfold cancelMove
    split
    · exact .refl s
    · refine .ite (dropStall_yards s n).linkSame (.foldl (fun u y => ?_) _ (updStall_yards s n _).linkSame)
      exact .ite (.refl u) (.ite (ih u _) (.ite (.refl u) (updStall_yards u _ _).linkSame))

theorem divert_linkSame (s : State) (bad : Place → Bool) : LinkSame s (divert s bad) := by
  refine .foldl (fun u x => ?_) _ (.refl s)
  split
  · refine .ite (.refl u) ?_
    split
    · exact (updStall_yards u _ _).linkSame
    · exact cancelMove_linkSame 3 u _
  · exact .refl u

theorem clearWindow_linkSame (s : State) (w : Nat) : LinkSame s (clearWindow s w) := by
  have hset (f : Nat → Fld) (t : State) : LinkSame t (t.set (f w) 0) := ⟨rfl, rfl⟩
  unfold clearWindow
  exact .foldl (fun t f => hset f t) _ ⟨rfl, rfl⟩

/-- The windows' cells and stalls go, and the windows that were granted are cleared. -/
theorem withdrawFar_linkSame (s : State) : LinkSame s (withdrawFar s).1 := by
  unfold withdrawFar
  have hwindows : LinkSame s ((List.range 64).foldl (fun t w =>
      if t.flag (F.YRD_GRANT_STAT_VALID w) then endFault (clearWindow t w) 0x0802 w else t) s) :=
    .foldl (fun u w => .ite ((clearWindow_linkSame u w).trans ⟨endFault_link .., endFault_pins ..⟩) (.refl u)) _ (.refl s)
  generalize (List.range 64).foldl _ s = t at hwindows ⊢
  have hstalls : LinkSame t ((s.yrd.stalls.filter fun (x : Stall) => x.at_.tier == .far).foldl
      (fun (a : State × List (Nat × Nat)) (x : Stall) => (dropStall (loseCells a.1 x.num).1 x.num, a.2 ++ (loseCells a.1 x.num).2))
      (t, [])).1 :=
    List.foldlRecOn (motive := fun (a : State × List (Nat × Nat)) => LinkSame t a.1) _ _ (.refl t) fun a ha x _ =>
      (ha.trans (t := (loseCells a.1 x.num).1) ⟨rfl, rfl⟩).trans (dropStall_yards _ x.num).linkSame
  have hall := hwindows.trans hstalls
  clear hwindows hstalls
  dsimp only
  generalize List.foldl _ (t, []) _ = a at hall ⊢
  obtain ⟨u, l⟩ := a
  have hdiv := hall.trans (divert_linkSame u fun p => p.tier == .far)
  clear hall
  dsimp only
  generalize divert u _ = v at hdiv ⊢
  generalize ((List.range 64).any fun w => s.flag (F.YRD_GRANT_STAT_VALID w)) = any
  have hw : LinkSame s ((if any then v.set F.YRD_STATUS_FAR_GONE 1 else v).add F.YRD_FAR_LOST l.length) :=
    .set (.ite (hdiv.set _ 1) hdiv) _ _
  generalize State.add _ F.YRD_FAR_LOST l.length = w at hw ⊢
  split
  · exact (hw.other (u := { w with yrd := { w.yrd with revoke := none } }) rfl rfl).trans (finishRunning_linkSame _ _ _ _)
  · exact hw

theorem writeStall_linkSame (s : State) (n seq sec index next : Nat) (data : List Byte) :
    LinkSame s (writeStall s n seq sec index next data) := by
  unfold writeStall
  split
  · exact .refl s
  · exact sendMem_linkSame s _ _

theorem writeSection_linkSame (seq sec : Nat) (l : List Nat) (i : Nat) (b : List Byte) (s : State) :
    LinkSame s (writeSection seq sec l i b s) := by
  induction l generalizing i b s with
  | nil => exact .refl s
  | cons n r ih => exact (writeStall_linkSame s ..).trans (ih _ _ _)

/-- The registers of a recording that is closed. -/
def markClosed (t : State) (lossy : Bool) : State :=
  let u := ((t.set F.ACQ_EVENT_CLOSED 1).inc F.ACQ_CNT_REC).set F.ACQ_STATUS_STATE Rec.rearming
  let v := if lossy then u.inc F.ACQ_CNT_OVF else u
  { v with acq := { v.acq with run := none, meas := [] } }

theorem markClosed_linkSame (t : State) (lossy : Bool) : LinkSame t (markClosed t lossy) := by
  cases lossy <;> exact ⟨rfl, rfl⟩

theorem closeRecording_linkSame (s : State) (trunc disarmed : Bool) : LinkSame s (closeRecording s trunc disarmed) := by
  unfold closeRecording
  split
  next r c _ _ =>
    dsimp only
    have hsections : LinkSame s (if trunc then s else [0, 1, 2].foldl (fun (t : State) k => match r.secs.getD k none with
        | some x => writeSection r.seq (k + 1) x.stalls 0 (storedBytes c k x) t
        | none => t) s) := by
      refine .ite (.refl s) (.foldl (fun u k => ?_) _ (.refl s))
      split
      · exact writeSection_linkSame ..
      · exact .refl u
    generalize (if trunc then s else _) = t at hsections ⊢
    refine LinkSame.trans (hsections.trans ?_) (markClosed_linkSame _ _)
    split
    · exact .ite ⟨rfl, rfl⟩ ((writeStall_linkSame t ..).trans ⟨rfl, rfl⟩)
    · exact ⟨rfl, rfl⟩
  · exact .refl s

theorem disarm_linkSame (s : State) : LinkSame s (disarm s) := by
  unfold disarm
  dsimp only
  exact .other (((LinkSame.refl s).set F.ACQ_STATUS_STATE Rec.disarmed).trans (dropStalls_yards _ _).linkSame) rfl rfl

theorem endDisarm_linkSame (s : State) : LinkSame s (endDisarm s) :=
  .ite (.refl s) (.foldl (fun u c => finishOk_linkSame u c 0) _ (disarm_linkSame s))

theorem stopSections_linkSame (s : State) : LinkSame s (stopSections s) := by
  unfold stopSections
  split <;> exact ⟨rfl, rfl⟩

theorem truncRecording_linkSame (s : State) : LinkSame s (truncRecording s) :=
  .ite (.refl s) (((stopSections_linkSame s).trans (closeRecording_linkSame _ _ _)).trans (endDisarm_linkSame _))

theorem updateBins_linkSame (s : State) (e : Late) : LinkSame s (updateBins s e) := by
  refine .ite ?_ ⟨rfl, rfl⟩
  have hcell : LinkSame s (updCell s e.dir e.frame fun c => enterEvent s c e.code e.range e.word) := ⟨rfl, rfl⟩
  exact hcell.trans ((lookMap_yards _ e.stall).trans (updStall_yards _ e.stall _)).linkSame

theorem enterReady_linkSame (s : State) : LinkSame s (enterReady s) := by
  have hnone : LinkSame s { s with hge := { s.hge with waiting := [] } } := ⟨rfl, rfl⟩
  unfold enterReady
  exact .foldl (f := updateBins) updateBins_linkSame s.hge.waiting hnone

theorem withdrawAll_linkSame (s : State) : LinkSame s (withdrawAll s) := by
  unfold withdrawAll
  have hfar := (truncRecording_linkSame s).trans (withdrawFar_linkSame _)
  generalize withdrawFar (truncRecording s) = a at hfar ⊢
  obtain ⟨t, l⟩ := a
  have hnote (u : State) (e : Nat × Nat) : LinkSame u (badNotice u e.1) := (badNotice_notes u e.1).linkSame
  refine LinkSame.trans ?_ (enterReady_linkSame _)
  exact .foldl hnote l hfar

/-! ### The delivery of what was held -/

theorem writeUnit_linkSame (s : State) (n : Nat) (data : List Byte) : LinkSame s (writeUnit s n data) :=
  .ite ⟨rfl, rfl⟩ ⟨rfl, rfl⟩

theorem writeHeader_linkSame (s : State) (n : Nat) (body : List Byte) : LinkSame s (writeHeader s n body) :=
  ((LinkSame.ite (writeUnit_linkSame s n _) (.refl s)).trans (writeUnit_linkSame _ n _)).trans (writeUnit_linkSame _ n _)

theorem takeFar_linkSame (n : Nat) (s : State) : LinkSame s (takeFar n s).2 := by
  induction n generalizing s with
  | zero => exact .refl s
  | succ n ih =>
    unfold takeFar
    split
    next k t hnew => exact (newStall_yards hnew).linkSame.trans (ih t)
    · exact .refl s

theorem keepItems_linkSame (s : State) (r : Recording) (k need : Nat) (sec : RecSection) (got : List Nat) :
    LinkSame s (keepItems s r k need sec got) := by
  unfold keepItems
  refine .ite ?_ ⟨rfl, rfl⟩
  exact .other (t := if s.get F.ACQ_STATUS_STATE = 2 then s.set F.ACQ_STATUS_STATE 3 else s) (.ite ((LinkSame.refl s).set _ 3) (.refl s))
    rfl rfl

theorem capture_linkSame (s : State) (k : Nat) (l : List RecItem) : LinkSame s (capture s k l) := by
  unfold capture
  split
  · split
    · exact .ite (.refl s) ((takeFar_linkSame _ s).trans (keepItems_linkSame ..))
    · exact .refl s
  · exact .refl s

theorem recordPoint_linkSame (s : State) (n : Nat) (header : Bool) (data : List Byte) : LinkSame s (recordPoint s n header data) := by
  unfold recordPoint
  split
  · refine .ite ?_ (.refl s)
    have hput (x : RecItem) : LinkSame s (ringPut s 0 x) := ⟨rfl, rfl⟩
    exact (hput _).trans (capture_linkSame _ 0 _)
  · exact .refl s

theorem freeSlot_linkSame (s : State) (n k : Nat) : LinkSame s (freeSlot s n k) := by
  unfold freeSlot
  split
  · exact .refl s
  · refine .ite (updStall_yards s n _).linkSame (.ite ?_ (updStall_yards s n _).linkSame)
    exact ((dropStall_yards s n).trans (serveFetches_yards _)).linkSame

theorem wantBack_linkSame (s : State) (l : List Item) : LinkSame s (wantBack s l) := by
  unfold wantBack
  split
  next a _ _ =>
    have hask : LinkSame s (askFetch s a) := .ite (.refl s) ⟨rfl, rfl⟩
    exact hask.trans (serveFetches_yards _).linkSame
  · exact .refl s

/-- The header of the oldest held record is written where it is due (R264). -/
def leadHeader (s : State) (n : Nat) (x : Item) : State := match dueHeader (passItem s n) n x with
  | some b => (writeHeader (passItem s n) n b).set (F.HGE_RING_STATUS_WMARK_HIT n) 1
  | none => passItem s n

/-- Held records give their stall's slot up. -/
def freeKept (s : State) : Option (Nat × Nat) → State
  | some (a, k) => freeSlot s a k
  | none => s

/-- The item at the front of a ring is written, and q is left. -/
def writeItem (s : State) (n : Nat) (q : List Item) : Item → State
  | .header f k b =>
    let body := headerAgain s n (b ++ leBytes 4 k)
    let t := (writeHeader (recordPoint s n true body) n body).set (F.HGE_RING_STATUS_WMARK_HIT n) 1
    setRing t n { ringAt t n with queue := q, lastHdr := some (f, body), hdrDue := false }
  | .recs _ l keep =>
    let t := l.foldl (fun t d => writeUnit (recordPoint t n false d) n d) s
    freeKept (setRing t n { ringAt t n with queue := q, hdrDue := false }) keep

theorem drainRing_front {s : State} {n fuel : Nat} {x : Item} {q : List Item} (h : (ringAt s n).queue = x :: q) :
    drainRing n (fuel + 1) s = if ringRoom s n < frontUnits s n x || frameFirst s n then s
      else if !itemReady s n x then wantBack s (x :: q) else drainRing n fuel (writeItem (leadHeader s n x) n q x) := by
  conv => lhs; unfold drainRing
  dsimp only
  rw [h]
  cases x <;> rfl

theorem leadHeader_linkSame (s : State) (n : Nat) (x : Item) : LinkSame s (leadHeader s n x) := by
  have hpass : LinkSame s (passItem s n) := ⟨rfl, rfl⟩
  unfold leadHeader
  split
  · exact (hpass.trans (writeHeader_linkSame _ n _)).set _ 1
  · exact hpass

theorem freeKept_linkSame (s : State) (keep : Option (Nat × Nat)) : LinkSame s (freeKept s keep) := by
  cases keep
  · exact .refl s
  · exact freeSlot_linkSame s _ _

theorem writeItem_linkSame (s : State) (n : Nat) (q : List Item) (x : Item) : LinkSame s (writeItem s n q x) := by
  cases x with
  | header f k b =>
    unfold writeItem
    dsimp only
    generalize headerAgain s n _ = body
    have hwritten := (recordPoint_linkSame s n true body).trans (writeHeader_linkSame _ n body)
    generalize writeHeader (recordPoint s n true body) n body = w at hwritten ⊢
    exact (hwritten.set (F.HGE_RING_STATUS_WMARK_HIT n) 1).other rfl rfl
  | recs _ l keep =>
    have hunits : LinkSame s (l.foldl (fun t d => writeUnit (recordPoint t n false d) n d) s) :=
      .foldl (fun u d => (recordPoint_linkSame u n false d).trans (writeUnit_linkSame _ n d)) _ (.refl s)
    unfold writeItem
    dsimp only
    generalize l.foldl _ s = u at hunits ⊢
    exact (hunits.other (u := setRing u n { ringAt u n with queue := q, hdrDue := false }) rfl rfl).trans (freeKept_linkSame _ keep)

theorem drainRing_linkSame (n fuel : Nat) (s : State) : LinkSame s (drainRing n fuel s) := by
  induction fuel generalizing s with
  | zero => exact .refl s
  | succ fuel ih =>
    cases hq : (ringAt s n).queue with
    | nil =>
      unfold drainRing
      dsimp only
      rw [hq]
      exact .refl s
    | cons x q =>
      rw [drainRing_front hq]
      exact .ite (.refl s) (.ite (wantBack_linkSame s _)
        (((leadHeader_linkSame s n x).trans (writeItem_linkSame _ n q x)).trans (ih _)))

/-- What a burst leaves of a ring that has been drained: its backlog and its watermark. -/
def afterDrain (s t : State) (n : Nat) : State :=
  let r := ringAt t n
  let held := match r.queue with
    | [] => false
    | x :: _ => ringRoom t n < itemUnits t n x
  let u := backlogNow ((setRing t n { r with backlog := r.backlog || held }).put (F.HGE_RING_STATUS_BACKLOG n) held)
  if ringUnread s n < s.get (F.HGE_RING_WMARK n) && s.get (F.HGE_RING_WMARK n) ≤ ringUnread u n then
    u.set (F.HGE_RING_STATUS_WMARK_HIT n) 1 else u

/-- The write-back of a ring's pointer, where one is configured and something was written. -/
def writeBack (s t : State) (n : Nat) : State :=
  let wb := t.get (F.HGE_RING_WB n)
  if wb = 0 || t.tx.length = s.tx.length then t
  else sendMem t (8 * wb) (leBytes 4 (t.get (F.HGE_RING_WPTR n)) ++ leBytes 4 (t.get (F.HGE_RING_LAP n)))

theorem dmaRing_eq (s : State) (n : Nat) : dmaRing s n =
    if ringBytes s n = 0 || !pcieUsable s then
      if (ringAt s n).queue.isEmpty then s
      else backlogNow ((setRing s n { ringAt s n with backlog := true }).set (F.HGE_RING_STATUS_BACKLOG n) 1)
    else writeBack s (afterDrain s (drainRing n (ringAt s n).queue.length s) n) n := rfl

theorem afterDrain_linkSame (s t : State) (n : Nat) : LinkSame t (afterDrain s t n) := by
  have hback (r : PointRing) (held : Bool) : LinkSame t (backlogNow ((setRing t n r).put (F.HGE_RING_STATUS_BACKLOG n) held)) :=
    ⟨rfl, rfl⟩
  exact .ite ((hback _ _).set _ 1) (hback _ _)

theorem dmaRing_linkSame (s : State) (n : Nat) : LinkSame s (dmaRing s n) := by
  rw [dmaRing_eq]
  have hdrain := (drainRing_linkSame n (ringAt s n).queue.length s).trans (afterDrain_linkSame s _ n)
  generalize afterDrain s _ n = t at hdrain ⊢
  exact .ite (.ite (.refl s) ⟨rfl, rfl⟩) (.ite hdrain (hdrain.trans (sendMem_linkSame _ _ _)))

theorem resumeDelivery_linkSame (s : State) : LinkSame s (resumeDelivery s) :=
  .ite (.foldl dmaRing_linkSame _ (.refl s)) (.refl s)

theorem sendVector_linkSame (s : State) (v : Nat) : LinkSame s (sendVector s v) := ⟨rfl, rfl⟩

theorem sendPending_linkSame (fuel : Nat) (s : State) : LinkSame s (sendPending fuel s) := by
  induction fuel generalizing s with
  | zero => exact .refl s
  | succ fuel ih =>
    unfold sendPending
    split
    · exact .refl s
    next v _ =>
      have hclear : LinkSame s { s with irq := { s.irq with pba := clearBit s.irq.pba v } } := ⟨rfl, rfl⟩
      exact .trans (.ite (hclear.trans (sendVector_linkSame _ v)) hclear) (ih _)

end Sys2Proof.Machine

/-! ## The PCI Express link (R102, R151, R578, R581 to R584)

The reset of the endpoint and its rings, the vectors that a write unblocks, and with them O33. -/
namespace Sys2Proof.Machine

/-! ### Fields that return to their reset values -/

theorem foldl_clear_link (l : List Fld) (s : State) : (l.foldl State.clear s).link = s.link := by
  induction l generalizing s with
  | nil => rfl
  | cons f l ih => exact ih _

theorem foldl_clear_pins (l : List Fld) (s : State) : (l.foldl State.clear s).pins = s.pins := by
  induction l generalizing s with
  | nil => rfl
  | cons f l ih => exact ih _

theorem get_foldl_clear_other {l : List Fld} {g : Fld} (h : ∀ f ∈ l, g.key ≠ f.key) (s : State) :
    (l.foldl State.clear s).get g = s.get g := by
  induction l generalizing s with
  | nil => rfl
  | cons f l ih =>
    rw [List.foldl_cons, ih (fun x hx => h x (.tail _ hx)), get_clear_other s (h f (.head _))]

/-- A field that is cleared reads its reset value, where no other field of the list stands in its place. -/
theorem get_foldl_clear {l : List Fld} {g : Fld} (hg : g ∈ l) (hl : ∀ f ∈ l, g.key = f.key → f = g) (s : State) :
    (l.foldl State.clear s).get g = g.reset := by
  induction l generalizing s with
  | nil => cases hg
  | cons f l ih =>
    rw [List.foldl_cons]
    by_cases hm : g ∈ l
    · exact ih hm (fun x hx => hl x (.tail _ hx)) _
    · obtain rfl : g = f := (List.mem_cons.1 hg).resolve_right hm
      rw [get_foldl_clear_other fun x hx hk => hm (hl x (.tail _ hx) hk ▸ hx), get_clear_same]

/-! ### The endpoint and its rings (R151, R578) -/

/-- The registers of the rings that a reset of the function clears. -/
def ringFlds : List Fld :=
  [F.CMD_CTRL_CMP_IRQ_EN, F.CMD_CTRL_EN, F.CMD_STATUS_CMP_WR_ERR, F.CMD_STATUS_FETCH_ERR, F.CMD_RING_BASE,
    F.CMD_HEAD, F.CMP_RING_BASE, F.CMP_RING_SIZE, F.CMP_TAIL_PHASE, F.CMP_TAIL_TAIL, F.CMP_NOTIFY_TIME, F.CMP_NOTIFY_COUNT]

theorem resetRings_regs (s : State) :
    (resetRings s).regs = ((ringFlds.foldl State.clear (discardRing s)).set F.CMD_STATUS_PERST_SEEN 1).regs := by
  unfold resetRings ringFlds
  dsimp only

theorem resetRings_get (s : State) : (resetRings s).get F.CMD_CTRL_EN = 0 ∧ (resetRings s).get F.CMD_STATUS_PERST_SEEN = 1 := by
  have h (f : Fld) : (resetRings s).get f = ((ringFlds.foldl State.clear (discardRing s)).set F.CMD_STATUS_PERST_SEEN 1).get f :=
    congrArg (getReg · f) (resetRings_regs s)
  rw [h, h, get_set_other _ _ (by decide), get_foldl_clear (by decide) (by decide)]
  exact ⟨rfl, get_set_same _ F.CMD_STATUS_PERST_SEEN 1⟩

/-- The registers of the configuration space. -/
def cfgFlds : List Fld :=
  [F.LNK_PCIE_STATUS_D3HOT, F.LNK_PCIE_STATUS_FN_MASK, F.LNK_PCIE_STATUS_MSIX_EN, F.LNK_PCIE_STATUS_BME, F.SYS_STATUS_PCIE_CFG]

/-- The registers that say which vectors have been sent. -/
def sentFlds : List Fld := (List.range 64).map F.IRQ_VEC_STAT_SENT

theorem resetEndpoint_regs (s : State) : (resetEndpoint s).regs = (sentFlds.foldl State.clear (cfgFlds.foldl State.clear s)).regs := by
  unfold resetEndpoint sentFlds cfgFlds
  rw [List.foldl_map]

theorem resetEndpoint_get (s : State) : (resetEndpoint s).get F.SYS_STATUS_PCIE_CFG = 0 ∧
    (resetEndpoint s).get F.CMD_CTRL_EN = s.get F.CMD_CTRL_EN ∧
    (resetEndpoint s).get F.CMD_STATUS_PERST_SEEN = s.get F.CMD_STATUS_PERST_SEEN := by
  have h (f : Fld) (hf : ∀ g ∈ sentFlds, f.key ≠ g.key) : (resetEndpoint s).get f = (cfgFlds.foldl State.clear s).get f :=
    (congrArg (getReg · f) (resetEndpoint_regs s)).trans (get_foldl_clear_other hf _)
  rw [h _ (by decide), h _ (by decide), h _ (by decide), get_foldl_clear (by decide) (by decide),
    get_foldl_clear_other (by decide), get_foldl_clear_other (by decide)]
  exact ⟨rfl, rfl, rfl⟩

theorem linkDown_get (s : State) {g : Fld} (hg : ∀ f ∈ [F.LNK_PCIE_STATUS_PWR, F.LNK_PCIE_STATUS_WIDTH, F.LNK_PCIE_STATUS_SPEED,
    F.LNK_PCIE_STATUS_REVERSED], g.key ≠ f.key) : (linkDown s).get g = s.get g :=
  get_foldl_clear_other (l := [F.LNK_PCIE_STATUS_PWR, F.LNK_PCIE_STATUS_WIDTH, F.LNK_PCIE_STATUS_SPEED, F.LNK_PCIE_STATUS_REVERSED])
    hg s

/-- The handshake for SLEEP ends, and touches the link's place in it alone. -/
theorem endShake_eq (s : State) : endShake s = { s with
    link := { s.link with sleepShake := false }, sys := { s.sys with sleepEntering := s.sys.sleepEntering || s.link.sleepShake } } := by
  unfold endShake
  cases hshake : s.link.sleepShake
  · rw [if_neg Bool.false_ne_true, Bool.or_false, ← hshake]
  · rw [if_pos rfl, Bool.or_true]

/-! ### Vectors that a write unblocks (R567) -/

theorem firstVector_mem {s : State} {l : List Nat} {v : Nat} (h : firstVector s l = some v) : v ∈ l := by
  unfold firstVector at h
  refine List.foldlRecOn (motive := fun (b : Option Nat) => ∀ w, b = some w → w ∈ l) l _ (fun _ hw => by cases hw) ?_ v h
  intro b hb x hx w hw
  split at hw
  · exact Option.some.inj hw ▸ hx
  · split at hw
    · exact Option.some.inj hw ▸ hx
    · exact hb w hw

/-- What no vector's status holds is left by the vectors that are sent. -/
theorem sendPending_get {f : Fld} (hf : ∀ v < 64, f.key ≠ (F.IRQ_VEC_STAT_SENT v).key ∧ f.key ≠ (F.IRQ_VEC_STAT_SEND_CNT v).key)
    (fuel : Nat) (s : State) : (sendPending fuel s).get f = s.get f := by
  induction fuel generalizing s with
  | zero => rfl
  | succ fuel ih =>
    unfold sendPending
    split
    · rfl
    next v hv =>
      have hlt : v < 64 := List.mem_range.1 (List.mem_filter.1 (firstVector_mem hv)).1
      obtain ⟨hsent, hcnt⟩ := hf v hlt
      rw [ih]
      split
      · exact (get_inc_other _ hcnt).trans (get_set_other (f := F.IRQ_VEC_STAT_SENT v) s 1 hsent)
      · rfl

/-! ### The link's parts through a reset (R102, R578, R581) -/

theorem beginShake_pins (s : State) : (beginShake s).pins = s.pins := by
  unfold beginShake
  dsimp only
  split
  · rfl
  · rw [endShake_eq]

theorem resetRings_pins (s : State) : (resetRings s).pins = s.pins := by
  have hdiscard : (discardRing s).pins = s.pins := by
    unfold discardRing
    dsimp only
    split
    · exact beginShake_pins s
    · rfl
  refine Eq.trans ?_ ((foldl_clear_pins ringFlds (discardRing s)).trans hdiscard)
  unfold resetRings ringFlds
  dsimp only [State.set_pins]

theorem resetEndpoint_pins (s : State) : (resetEndpoint s).pins = s.pins := by
  refine Eq.trans ?_ ((foldl_clear_pins sentFlds _).trans (foldl_clear_pins cfgFlds s))
  unfold resetEndpoint sentFlds cfgFlds
  rw [List.foldl_map]

theorem linkDown_pins (s : State) : (linkDown s).pins = s.pins := foldl_clear_pins _ s

/-- The function after a reset: its configuration space does not answer, and its rings are off. -/
def functionReset (s : State) : State := resetEndpoint (resetRings (withdrawAll s))

theorem functionReset_get (s : State) : (functionReset s).get F.SYS_STATUS_PCIE_CFG = 0 ∧ (functionReset s).get F.CMD_CTRL_EN = 0 ∧
    (functionReset s).get F.CMD_STATUS_PERST_SEEN = 1 := by
  obtain ⟨hcfg, hen, hseen⟩ := resetEndpoint_get (resetRings (withdrawAll s))
  obtain ⟨hen', hseen'⟩ := resetRings_get (withdrawAll s)
  exact ⟨hcfg, hen.trans hen', hseen.trans hseen'⟩

theorem functionReset_pins (s : State) : (functionReset s).pins = s.pins :=
  ((resetEndpoint_pins _).trans (resetRings_pins _)).trans (withdrawAll_linkSame s).pins

/-- PERST# is asserted with the device up. -/
def perstReset (s : State) : State :=
  let u := linkDown (functionReset { s with pins := { s.pins with perst := true } })
  endShake { u with link := { u.link with flr := false } }

theorem execPerstAssert_up {s : State} (hm : mainDown s = false) (hp : s.pins.perst = false) :
    execPerstAssert s = .next (perstReset s) := by
  unfold execPerstAssert
  dsimp only
  rw [if_neg (by simp [hm, hp])]
  rfl

theorem perstReset_parts (s : State) : (perstReset s).pins.perst = true ∧ (perstReset s).link.up = false ∧
    (perstReset s).get F.SYS_STATUS_PCIE_CFG = 0 ∧ (perstReset s).get F.CMD_CTRL_EN = 0 ∧
    (perstReset s).get F.CMD_STATUS_PERST_SEEN = 1 := by
  have hpins := functionReset_pins { s with pins := { s.pins with perst := true } }
  obtain ⟨hcfg, hen, hseen⟩ := functionReset_get { s with pins := { s.pins with perst := true } }
  unfold perstReset
  generalize functionReset { s with pins := { s.pins with perst := true } } = t at hpins hcfg hen hseen ⊢
  dsimp only
  rw [endShake_eq]
  refine ⟨?_, rfl, (linkDown_get t (by decide)).trans hcfg, (linkDown_get t (by decide)).trans hen,
    (linkDown_get t (by decide)).trans hseen⟩
  exact (congrArg Pins.perst (linkDown_pins t)).trans (congrArg Pins.perst hpins)

/-- A Function Level Reset lasts until the configuration space answers. -/
def holdReset (t : State) : State := { t with link := { t.link with flr := true } }

theorem execFunctionLevelReset_up {s : State} (hu : s.link.up = true) (hp : s.pins.perst = false) :
    execFunctionLevelReset s = .next (holdReset (functionReset s)) := by
  unfold execFunctionLevelReset
  rw [if_neg (by simp [hu, hp])]
  rfl

theorem levelReset_parts (s : State) : (holdReset (functionReset s)).link.flr = true ∧
    (holdReset (functionReset s)).get F.CMD_CTRL_EN = 0 ∧ (holdReset (functionReset s)).get F.SYS_STATUS_PCIE_CFG = 0 := by
  obtain ⟨hcfg, hen, -⟩ := functionReset_get s
  generalize functionReset s = t at hcfg hen ⊢
  exact ⟨rfl, hen, hcfg⟩

/-! ### The link comes up, and is lost -/

/-- What a training of the link records. -/
def trained (s : State) (speed : Fin 6) (width : Fin 9) (rev : Bool) : State :=
  (((s.set F.LNK_PCIE_STATUS_PWR 0).set F.LNK_PCIE_STATUS_SPEED speed.val).set F.LNK_PCIE_STATUS_WIDTH width.val).put
    F.LNK_PCIE_STATUS_REVERSED rev

/-- The link in L0, before what was held goes out. -/
def linkedUp (s t : State) : State :=
  let cfg := if s.link.up then t.link.pcieCfg else 2 * t.get F.CLK_PCIE_CFG_SSC + t.get F.CLK_PCIE_CFG_SEP_REF
  endFault { t with link := { t.link with up := true, pcieCfg := cfg }, pins := { t.pins with peWake := false } } 0x0F01 0

theorem execPcieLinkUp_up {s : State} (hl : lnkUp s = true) (hp : s.pins.perst = false) (speed : Fin 6) (width : Fin 9) (rev : Bool) :
    execPcieLinkUp speed width rev s = .next (resumeDelivery (linkedUp s (trained s speed width rev))) :=
  if_neg (by simp [hl, hp])

/-- Without a bus master nothing goes out. -/
theorem resumeDelivery_off {s : State} (h : s.flag F.LNK_PCIE_STATUS_BME = false) : resumeDelivery s = s := by
  unfold resumeDelivery pcieUsable
  rw [h, Bool.and_false]
  rfl

theorem trained_frame (s : State) (speed : Fin 6) (width : Fin 9) (rev : Bool) : RegFrame [F.LNK_PCIE_STATUS_PWR,
    F.LNK_PCIE_STATUS_SPEED, F.LNK_PCIE_STATUS_WIDTH, F.LNK_PCIE_STATUS_REVERSED] s (trained s speed width rev) :=
  ((((RegFrame.refl _ s).set (f := F.LNK_PCIE_STATUS_PWR) 0 (by simp)).set (f := F.LNK_PCIE_STATUS_SPEED) _ (by simp)).set
    (f := F.LNK_PCIE_STATUS_WIDTH) _ (by simp)).put (f := F.LNK_PCIE_STATUS_REVERSED) rev (by simp)

theorem trained_get (s : State) (speed : Fin 6) (width : Fin 9) (rev : Bool) :
    (trained s speed width rev).get F.LNK_PCIE_STATUS_PWR = 0 ∧
    (trained s speed width rev).get F.LNK_PCIE_STATUS_SPEED = speed.val % 2 ^ F.LNK_PCIE_STATUS_SPEED.width ∧
    (trained s speed width rev).get F.LNK_PCIE_STATUS_WIDTH = width.val % 2 ^ F.LNK_PCIE_STATUS_WIDTH.width ∧
    (trained s speed width rev).get F.LNK_PCIE_STATUS_REVERSED = b2n rev := by
  unfold trained
  refine ⟨?_, ?_, ?_, (get_set_same _ F.LNK_PCIE_STATUS_REVERSED _).trans (b2n_cut rev)⟩
  · simp (disch := decide) only [State.put_set, get_getReg, State.set_regs, getReg_setReg_other, getReg_setReg] <;> rfl
  all_goals simp (disch := decide) only [State.put_set, get_getReg, State.set_regs, getReg_setReg_other, getReg_setReg]

/-- The registers of a link that comes up without a bus master are what its training recorded. -/
theorem linkedUp_regs {s t : State} : (linkedUp s t).regs = t.regs := rfl

theorem loseLink_parts (s : State) : (loseLink s).link.up = false ∧ (loseLink s).link.sleepShake = false := by
  unfold loseLink
  dsimp only
  rw [endShake_eq]
  refine ⟨?_, rfl⟩
  have hlost : (stick ((linkDown s).inc F.LNK_PCIE_DOWN_CNT) 0x1D0).link.up = false := rfl
  generalize stick _ 0x1D0 = t at hlost ⊢
  have hfault := (withdrawAll_linkSame t).trans (raiseFault_linkSame _ 2 0x0F01 0)
  exact (congrArg LinkSt.up hfault.link).trans hlost

/-! ### A write of the configuration space (R298, R567, R578) -/

/-- The configuration space as it is written. -/
def configured (s : State) (bme d3 mx : Bool) (cfg : CfgSpace) : State :=
  let t := (((s.put F.LNK_PCIE_STATUS_BME bme).put F.LNK_PCIE_STATUS_D3HOT d3).put F.LNK_PCIE_STATUS_MSIX_EN mx).put
    F.LNK_PCIE_STATUS_FN_MASK cfg.fnMask
  { t with link := { t.link with mps := cfg.mps.val, mrrs := cfg.mrrs.val, aspm := cfg.aspm, l11 := cfg.l11 } }

/-- Whether the function may be a bus master. -/
def masters (s : State) : Bool := s.flag F.LNK_PCIE_STATUS_BME && !s.flag F.LNK_PCIE_STATUS_D3HOT

/-- What a change of the bus master does: the far windows are withdrawn where it goes, and what was held goes out where it comes. -/
def masterChanged (s t : State) : State :=
  let u := if masters s && !masters t then withdrawAll t else t
  sendPending 64 (if !masters s && masters u then resumeDelivery u else u)

theorem execPcieConfigWrite_taken {s : State} (hc : s.flag F.SYS_STATUS_PCIE_CFG = true) (hf : s.link.flr = false) (hu : s.link.up = true)
    (bme d3 mx : Bool) (cfg : CfgSpace) :
    execPcieConfigWrite bme d3 mx cfg s = .next (masterChanged s (configured s bme d3 mx cfg)) :=
  if_neg (by simp [hc, hf, hu])

theorem masterChanged_linkSame (s t : State) : LinkSame t (masterChanged s t) := by
  unfold masterChanged
  have hgone : LinkSame t (if masters s && !masters t then withdrawAll t else t) := .ite (withdrawAll_linkSame t) (.refl t)
  generalize (if masters s && !masters t then withdrawAll t else t) = u at hgone ⊢
  exact (hgone.trans (.ite (resumeDelivery_linkSame u) (.refl u))).trans (sendPending_linkSame 64 _)

/-- A write that neither gives nor takes the bus only sends what it unblocks. -/
theorem masterChanged_same {s t : State} (h : masters t = masters s) : masterChanged s t = sendPending 64 t := by
  unfold masterChanged
  rw [h, Bool.and_not_self, if_neg Bool.false_ne_true]
  dsimp only
  rw [h, Bool.not_and_self, if_neg Bool.false_ne_true]

theorem configured_get (s : State) (bme d3 mx : Bool) (cfg : CfgSpace) :
    (configured s bme d3 mx cfg).get F.LNK_PCIE_STATUS_BME = b2n bme ∧
    (configured s bme d3 mx cfg).get F.LNK_PCIE_STATUS_D3HOT = b2n d3 ∧
    (configured s bme d3 mx cfg).get F.LNK_PCIE_STATUS_MSIX_EN = b2n mx ∧
    (configured s bme d3 mx cfg).get F.LNK_PCIE_STATUS_FN_MASK = b2n cfg.fnMask := by
  unfold configured
  refine ⟨?_, ?_, ?_, (get_set_same _ F.LNK_PCIE_STATUS_FN_MASK _).trans (b2n_cut _)⟩
  all_goals
    simp (disch := decide) only [State.put_set, get_getReg, State.set_regs, getReg_setReg_other, getReg_setReg]
    exact b2n_cut _

theorem configured_masters (s : State) (bme d3 mx : Bool) (cfg : CfgSpace) : masters (configured s bme d3 mx cfg) = (bme && !d3) := by
  obtain ⟨hbme, hd3, -, -⟩ := configured_get s bme d3 mx cfg
  unfold masters State.flag
  rw [hbme, hd3]
  cases bme <;> cases d3 <;> rfl

/-! ### The obligation -/

/-- The clauses of PERST#, the reset of the function and the training of the link. -/
theorem pcie_function (s : State) :
    (mainDown s = false → s.pins.perst = false → Gives .perstAssert s (fun t => t.pins.perst = true ∧ t.link.up = false ∧
      t.get F.SYS_STATUS_PCIE_CFG = 0 ∧ t.get F.CMD_CTRL_EN = 0 ∧ t.get F.CMD_STATUS_PERST_SEEN = 1 ∧ Keeps s t)) ∧
    (s.pins.perst = true → wakeCauses { s with pins := { s.pins with perst := false } } (2 ^ 11) = 0 →
      Gives .perstRelease s (fun t => t = { s with pins := { s.pins with perst := false } })) ∧
    (mainDown s = false → s.pins.perst = false → Gives .pcieConfigReady s (fun t => t.get F.SYS_STATUS_PCIE_CFG = 1 ∧
      RegFrame [F.SYS_STATUS_PCIE_CFG] s t ∧ t = { s with regs := t.regs, link := { s.link with flr := false } })) ∧
    (s.link.up = true → s.pins.perst = false → Gives .functionLevelReset s (fun t => t.link.flr = true ∧
      t.get F.CMD_CTRL_EN = 0 ∧ t.get F.SYS_STATUS_PCIE_CFG = 0 ∧ Keeps s t)) := by
  refine ⟨fun hm hp => ?_, fun hp hw => ?_, fun hm hp => ?_, fun hu hp => ?_⟩
  · have hrun := execPerstAssert_up hm hp
    obtain ⟨hpin, hup, hcfg, hen, hseen⟩ := perstReset_parts s
    exact ⟨perstReset s, hrun, hpin, hup, hcfg, hen, hseen, (execPerstAssert_keeps (Keeps.refl s)).keeps _ hrun⟩
  · refine ⟨_, (if_neg (by simp [hp]) : execPerstRelease s = _).trans (congrArg Host.Outcome.next ?_), rfl⟩
    unfold wakeBy
    dsimp only
    rw [if_pos hw]
  · refine ⟨_, (if_neg (by simp [hp, hm]) : execPcieConfigReady s = _), get_set_same s F.SYS_STATUS_PCIE_CFG 1, ?_, rfl⟩
    exact .other (.setOne s F.SYS_STATUS_PCIE_CFG 1) rfl
  · have hrun := execFunctionLevelReset_up hu hp
    obtain ⟨hflr, hen, hcfg⟩ := levelReset_parts s
    exact ⟨_, hrun, hflr, hen, hcfg, (execFunctionLevelReset_keeps (Keeps.refl s)).keeps _ hrun⟩

/-- The clause of the link's coming up. -/
theorem pcieLinkUp_gives {s : State} (speed : Fin 6) (width : Fin 9) (rev : Bool) (hl : lnkUp s = true) (hp : s.pins.perst = false) :
    Gives (.pcieLinkUp speed width rev) s (fun t => t.link.up = true ∧ t.pins.peWake = false ∧ Keeps s t ∧
      (s.flag F.LNK_PCIE_STATUS_BME = false → t.get F.LNK_PCIE_STATUS_PWR = 0 ∧
        t.get F.LNK_PCIE_STATUS_SPEED = speed.val % 2 ^ F.LNK_PCIE_STATUS_SPEED.width ∧
        t.get F.LNK_PCIE_STATUS_WIDTH = width.val % 2 ^ F.LNK_PCIE_STATUS_WIDTH.width ∧
        t.get F.LNK_PCIE_STATUS_REVERSED = b2n rev ∧
        RegFrame [F.LNK_PCIE_STATUS_PWR, F.LNK_PCIE_STATUS_SPEED, F.LNK_PCIE_STATUS_WIDTH, F.LNK_PCIE_STATUS_REVERSED] s t)) := by
  have hrun := execPcieLinkUp_up hl hp speed width rev
  have hsame := resumeDelivery_linkSame (linkedUp s (trained s speed width rev))
  have hframe := trained_frame s speed width rev
  have hget := trained_get s speed width rev
  refine ⟨_, hrun, (congrArg LinkSt.up hsame.link).trans rfl, (congrArg Pins.peWake hsame.pins).trans rfl,
    (execPcieLinkUp_keeps speed width rev (Keeps.refl s)).keeps _ hrun, fun hb => ?_⟩
  clear hrun hsame
  generalize trained s speed width rev = t at hframe hget ⊢
  have hoff : (linkedUp s t).flag F.LNK_PCIE_STATUS_BME = false :=
    (congrArg (· != 0) (hframe F.LNK_PCIE_STATUS_BME (by decide))).trans hb
  rw [resumeDelivery_off hoff]
  obtain ⟨hpwr, hspeed, hwidth, hrev⟩ := hget
  exact ⟨hpwr, hspeed, hwidth, hrev, hframe.other rfl⟩

/-- The clauses of the link's power states. -/
theorem pcie_power (s : State) :
    (s.link.up = true → Gives .pmeTurnOff s (fun t => t.get F.LNK_PCIE_STATUS_PWR = 3 ∧ RegFrame [F.LNK_PCIE_STATUS_PWR] s t ∧
      t.link.sleepShake = false ∧ t.sys.sleepEntering = (s.sys.sleepEntering || s.link.sleepShake))) ∧
    Gives .pmeWaitExpiry s (fun t => t.link = { s.link with sleepShake := false } ∧
      t.sys = { s.sys with sleepEntering := s.sys.sleepEntering || s.link.sleepShake } ∧ t = { s with link := t.link, sys := t.sys }) ∧
    (∀ sub : Bool, s.link.up = true → s.link.aspm = true → s.get F.LNK_PCIE_STATUS_PWR = 0 → Gives (.l1Entry sub) s (fun t =>
      t.get F.LNK_PCIE_STATUS_PWR = (if sub && s.link.l11 then 2 else 1) ∧ RegsOnly [F.LNK_PCIE_STATUS_PWR] s t)) ∧
    Gives .peWakeTimeout s (fun t => t = { s with pins := { s.pins with peWake := false } }) := by
  refine ⟨fun hu => ⟨_, (if_neg (by simp [hu]) : execPmeTurnOff s = _), ?_⟩, ⟨_, rfl, ?_⟩,
    fun sub hu ha h0 => ⟨_, (if_neg (by simp [hu, ha, h0]) : execL1Entry sub s = _), ?_, (RegsOnly.refl _ s).set _ (by simp)⟩, ⟨_, rfl, rfl⟩⟩
  · rw [endShake_eq]
    exact ⟨get_set_same s F.LNK_PCIE_STATUS_PWR 3, .other (.setOne s F.LNK_PCIE_STATUS_PWR 3) rfl, rfl, rfl⟩
  · rw [endShake_eq]
    exact ⟨rfl, rfl, rfl⟩
  · rw [get_set_same]
    split <;> rfl

/-- The clause of a write of the configuration space. -/
theorem pcieConfigWrite_gives {s : State} (bme d3 mx : Bool) (cfg : CfgSpace) (hc : s.flag F.SYS_STATUS_PCIE_CFG = true)
    (hf : s.link.flr = false) (hu : s.link.up = true) :
    Gives (.pcieConfigWrite bme d3 mx cfg) s (fun t => t.link.up = true ∧ t.link.mps = cfg.mps ∧ t.link.mrrs = cfg.mrrs ∧
      t.link.aspm = cfg.aspm ∧ t.link.l11 = cfg.l11 ∧ Keeps s t ∧
      ((bme && !d3) = (s.flag F.LNK_PCIE_STATUS_BME && !s.flag F.LNK_PCIE_STATUS_D3HOT) →
        t.get F.LNK_PCIE_STATUS_BME = b2n bme ∧ t.get F.LNK_PCIE_STATUS_D3HOT = b2n d3 ∧
        t.get F.LNK_PCIE_STATUS_MSIX_EN = b2n mx ∧ t.get F.LNK_PCIE_STATUS_FN_MASK = b2n cfg.fnMask)) := by
  have hrun := execPcieConfigWrite_taken hc hf hu bme d3 mx cfg
  have hlink : (masterChanged s (configured s bme d3 mx cfg)).link = { s.link with
      mps := cfg.mps.val, mrrs := cfg.mrrs.val, aspm := cfg.aspm, l11 := cfg.l11 } := (masterChanged_linkSame s _).link
  refine ⟨_, hrun, by rw [hlink]; exact hu, by rw [hlink], by rw [hlink], by rw [hlink], by rw [hlink],
    (execPcieConfigWrite_keeps bme d3 mx cfg (Keeps.refl s)).keeps _ hrun, fun hsame => ?_⟩
  rw [masterChanged_same ((configured_masters s bme d3 mx cfg).trans hsame), sendPending_get (by decide), sendPending_get (by decide),
    sendPending_get (by decide), sendPending_get (by decide)]
  exact configured_get s bme d3 mx cfg

/-- Settles O33: the endpoint's resets clear its registers (`functionReset_get`), and what follows them, or a delivery, leaves the link
as it is (`LinkSame`). -/
theorem pcieLink : Obligations.PcieLink := by
  unfold Obligations.PcieLink
  intro s
  obtain ⟨hassert, hrelease, hready, hflr⟩ := pcie_function s
  obtain ⟨hoff, hexpiry, hl1, hwake⟩ := pcie_power s
  refine ⟨hassert, hrelease, hready, hflr, fun speed width rev hl hp => pcieLinkUp_gives speed width rev hl hp, fun hu => ?_,
    fun hu hp hl => ?_, hoff, hexpiry, hl1, hwake, fun bme d3 mx cfg hc hf hu => pcieConfigWrite_gives bme d3 mx cfg hc hf hu⟩
  · have hrun : execPcieLinkLost s = .next (loseLink s) := if_pos hu
    obtain ⟨hup, hshake⟩ := loseLink_parts s
    exact ⟨_, hrun, hup, hshake, (execPcieLinkLost_keeps (Keeps.refl s)).keeps _ hrun⟩
  · have hrun : execPcieLinkLost s = .next (raiseFault s 2 0x0F01 0) :=
      (if_neg (by simp [hu])).trans (if_neg (by simp [hp, hl]))
    exact ⟨_, hrun, raiseFault_get_cnt s _ _ (by decide), .raise (.refl _ s) 2 _ _ fun _ h => h, raiseFault_link ..⟩

end Sys2Proof.Machine

/-! ## Programs, timing and point rings (R148, R264, R313, R343)

LOAD_SCAN_PROG by the outcome of its contents' checks, SET_TIMING and SET_POINT_RING, and with them O34. -/
namespace Sys2Proof.Machine

/-! ### The record of a load's fault -/

/-- The load's check and offset are recorded. -/
def loadErr (s : State) (k o : Nat) : State := (s.set F.SCH_LOAD_ERR_CHECK k).set F.SCH_LOAD_ERR_OFFSET o

/-- Where a load's fault stands. -/
def loadErrFields : List Fld := [F.SCH_LOAD_ERR_CHECK, F.SCH_LOAD_ERR_OFFSET]

theorem loadErr_only (s : State) (k o : Nat) : RegsOnly loadErrFields s (loadErr s k o) :=
  ((RegsOnly.refl _ s).set (f := F.SCH_LOAD_ERR_CHECK) k (by simp [loadErrFields])).set (f := F.SCH_LOAD_ERR_OFFSET) o
    (by simp [loadErrFields])

theorem loadErr_check (s : State) (k o : Nat) :
    (loadErr s k o).get F.SCH_LOAD_ERR_CHECK = k % 2 ^ F.SCH_LOAD_ERR_CHECK.width :=
  (get_set_other _ o (by decide)).trans (get_set_same s F.SCH_LOAD_ERR_CHECK k)

theorem loadErr_offset (s : State) (k o : Nat) :
    (loadErr s k o).get F.SCH_LOAD_ERR_OFFSET = o % 2 ^ F.SCH_LOAD_ERR_OFFSET.width :=
  get_set_same _ F.SCH_LOAD_ERR_OFFSET o

theorem availableStalls_loadErr (s : State) (k o : Nat) : availableStalls (loadErr s k o) = availableStalls s := by
  have hframe := (loadErr_only s k o).2
  have hyrd : (loadErr s k o).yrd = s.yrd := rfl
  unfold availableStalls loftCap nearCap mapStalls State.flag
  rw [hyrd, hframe F.YRD_CAP_NEAR_OFF (by decide), hframe F.YRD_CAP_NEAR_STALLS (by decide),
    hframe F.YRD_CAP_MAP_LOG2_NOW (by decide)]

/-- An entry of a program that a buffer spells names one of 16 profiles. -/
theorem readProg_prof {d : List Byte} {x : Entry} (h : x ∈ (readProg d).entries) : x.prof < 16 := by
  obtain ⟨e, -, rfl⟩ := List.mem_map.1 h
  exact Nat.mod_lt _ (by decide)

theorem profBins_loadErr (s : State) (k o : Nat) {x : Entry} (h : x.prof < 16) : profBins (loadErr s k o) x = profBins s x := by
  have hkey : ∀ p < 16, ∀ f ∈ [F.TDC_WIN_PROF_START p, F.TDC_WIN_PROF_END p, F.HGE_PROF_BW p], ∀ g ∈ loadErrFields, f.key ≠ g.key := by
    decide
  have hget (f : Fld) (hf : f ∈ [F.TDC_WIN_PROF_START x.prof, F.TDC_WIN_PROF_END x.prof, F.HGE_PROF_BW x.prof]) :
      (loadErr s k o).get f = s.get f := (loadErr_only s k o).2 f (hkey _ h f hf)
  unfold profBins
  rw [hget _ (by simp), hget _ (by simp), hget _ (by simp)]

theorem progNeed_loadErr (s : State) (k o : Nat) (d : List Byte) :
    progNeed (loadErr s k o) (readProg d) = progNeed s (readProg d) := by
  have hpacked : (loadErr s k o).flag F.HGE_CTRL_PACKED = s.flag F.HGE_CTRL_PACKED :=
    congrArg (· != 0) ((loadErr_only s k o).2 F.HGE_CTRL_PACKED (by decide))
  unfold progNeed
  dsimp only
  rw [hpacked]
  refine foldl_congr_of_mem (fun n j _ => ?_) _
  refine congrArg (fun m => n + divUp (m * 2 ^ j) 32) (foldl_congr_of_mem (fun m e he => ?_) _)
  have hprof : e.1.prof < 16 := readProg_prof (List.fst_mem_of_mem_zipIdx (List.mem_filter.1 he).1)
  rw [profBins_loadErr s k o hprof]

/-! ### The checks of a program's contents (R313, R692) -/

theorem progFault_cmd (s : State) (y : CmdSt) (d : List Byte) : progFault { s with cmd := y } d = progFault s d := rfl

theorem availableStalls_cmd (s : State) (y : CmdSt) : availableStalls { s with cmd := y } = availableStalls s := rfl

theorem progNeed_cmd (s : State) (y : CmdSt) (q : Prog) : progNeed { s with cmd := y } q = progNeed s q := rfl

theorem loadProgContents_fault {s : State} {d : List Byte} {k o : Nat} (h : progFault s d = some (k, o)) :
    loadProgContents s d = (some (St.badParam, 0x7C), loadErr s k o) := by
  unfold loadProgContents
  rw [h]
  rfl

theorem loadProgContents_locked {s : State} {d : List Byte} (h : progFault s d = none) (hc : s.saf.cfg.isSome = true)
    (hl : crcListed s (readProg d).crc = false) : loadProgContents s d = (some (St.locked, 0), loadErr s 0 0) := by
  unfold loadProgContents
  rw [h]
  exact if_pos (by rw [hc, hl]; rfl)

theorem loadProgContents_room {s : State} {d : List Byte} (h : progFault s d = none)
    (hl : s.saf.cfg.isSome = true → crcListed s (readProg d).crc = true) :
    loadProgContents s d = if availableStalls s < progNeed s (readProg d) then (some (St.resource, 0), loadErr s 0 0)
      else (none, loadErr s 0 0) := by
  unfold loadProgContents
  rw [h]
  refine if_neg ?_
  cases hc : s.saf.cfg.isSome
  · simp
  · simp [hl hc]

/-! ### LOAD_SCAN_PROG -/

@[simp] theorem runningAs_data (c : Cmd) : (runningAs c).data = c.data := rfl

/-- A program that passes stands in its slot. -/
def storeProg (u : State) (slot : Nat) (q : Prog) : State :=
  let w := if slot = 0 then (u.set F.SCH_PROG_CRC0 q.crc).set F.SCH_STATUS_PROG0_VALID 1
    else (u.set F.SCH_PROG_CRC1 q.crc).set F.SCH_STATUS_PROG1_VALID 1
  { w with sch := { w.sch with progs := putAt w.sch.progs slot none (some q) } }

/-- What LOAD_SCAN_PROG does with the command that runs. -/
def loadProg (t : State) (c : Cmd) : State :=
  match loadProgContents t c.data with
  | (some (st, detail), u) => refuse u c st detail
  | (none, u) => finishOk (storeProg u c.slot { readProg c.data with need := progNeed u (readProg c.data) }) c (readProg c.data).crc

theorem storeProg_parts (u : State) (slot : Nat) (q : Prog) :
    (storeProg u slot q).sch = { u.sch with progs := putAt u.sch.progs slot none (some q) } ∧
    (storeProg u slot q).get (if slot = 0 then F.SCH_STATUS_PROG0_VALID else F.SCH_STATUS_PROG1_VALID) = 1 ∧
    (storeProg u slot q).get (if slot = 0 then F.SCH_PROG_CRC0 else F.SCH_PROG_CRC1) = q.crc % 2 ^ 32 ∧
    RegFrame (if slot = 0 then [F.SCH_PROG_CRC0, F.SCH_STATUS_PROG0_VALID] else [F.SCH_PROG_CRC1, F.SCH_STATUS_PROG1_VALID]) u
      (storeProg u slot q) ∧
    storeProg u slot q = { u with regs := (storeProg u slot q).regs, sch := (storeProg u slot q).sch } := by
  unfold storeProg
  by_cases h : slot = 0
  · simp only [if_pos h]
    refine ⟨rfl, get_set_same _ F.SCH_STATUS_PROG0_VALID 1, (get_set_other (f := F.SCH_STATUS_PROG0_VALID) (g := F.SCH_PROG_CRC0) _ 1
      (by decide)).trans (get_set_same u F.SCH_PROG_CRC0 _), ?_, rfl⟩
    exact .other (((RegFrame.refl _ u).set (f := F.SCH_PROG_CRC0) _ (by simp)).set (f := F.SCH_STATUS_PROG0_VALID) 1 (by simp)) rfl
  · simp only [if_neg h]
    refine ⟨rfl, get_set_same _ F.SCH_STATUS_PROG1_VALID 1, (get_set_other (f := F.SCH_STATUS_PROG1_VALID) (g := F.SCH_PROG_CRC1) _ 1
      (by decide)).trans (get_set_same u F.SCH_PROG_CRC1 _), ?_, rfl⟩
    exact .other (((RegFrame.refl _ u).set (f := F.SCH_PROG_CRC1) _ (by simp)).set (f := F.SCH_STATUS_PROG1_VALID) 1 (by simp)) rfl

/-- A command that is refused ends with its status; only a lock is a fault. -/
theorem refuse_ends {s : State} {c : Cmd} (hd : c.discard = false) (st d : Nat) (hst : st ≠ St.done) (hver : st ≠ St.badVersion) :
    Ends (refuse s c st d) c st 0 := finishWith_ends hd st d hst hver 0 []

theorem refuse_cmd_only {s : State} {c : Cmd} (hd : c.discard = false) {st : Nat} (hst : st ≠ St.locked) (d : Nat) :
    refuse s c st d = { s with cmd := (refuse s c st d).cmd } := by
  unfold refuse
  rw [if_neg hst]
  exact finishWith_cmd_only hd st d 0 []

/-- A command that is refused for a lock enters a fault. -/
theorem refuse_locked {s : State} {c : Cmd} (hd : c.discard = false) (d : Nat) :
    refuse s c St.locked d = { raiseFault s 0 0x0008 c.opcode with cmd := (refuse s c St.locked d).cmd } :=
  finishWith_cmd_only (s := raiseFault s 0 0x0008 c.opcode) hd St.locked d 0 []

section
variable {s : State} (y : CmdSt) {c : Cmd} (hd : c.discard = false)
include hd

/-- Contents that do not pass: the check and the offset stand in LOAD_ERR. -/
theorem loadProg_fault {k o : Nat} (h : progFault s c.data = some (k, o)) :
    Ends (loadProg { s with cmd := y } (runningAs c)) c St.badParam 0 ∧
    (loadProg { s with cmd := y } (runningAs c)).get F.SCH_LOAD_ERR_CHECK = k % 2 ^ F.SCH_LOAD_ERR_CHECK.width ∧
    (loadProg { s with cmd := y } (runningAs c)).get F.SCH_LOAD_ERR_OFFSET = o % 2 ^ F.SCH_LOAD_ERR_OFFSET.width ∧
    RegFrame loadErrFields s (loadProg { s with cmd := y } (runningAs c)) ∧
    loadProg { s with cmd := y } (runningAs c) = { s with
      regs := (loadProg { s with cmd := y } (runningAs c)).regs, cmd := (loadProg { s with cmd := y } (runningAs c)).cmd } := by
  have hrun : loadProg { s with cmd := y } (runningAs c) =
      refuse (loadErr { s with cmd := y } k o) (runningAs c) St.badParam 0x7C := by
    unfold loadProg
    rw [runningAs_data, loadProgContents_fault ((progFault_cmd s y _).trans h)]
  have hends := refuse_ends (s := loadErr { s with cmd := y } k o) (c := runningAs c) hd St.badParam 0x7C (by decide) (by decide)
  have hcmd := refuse_cmd_only (s := loadErr { s with cmd := y } k o) (c := runningAs c) hd (st := St.badParam) (by decide) 0x7C
  rw [hrun]
  generalize refuse (loadErr { s with cmd := y } k o) (runningAs c) St.badParam 0x7C = t at hends hcmd ⊢
  refine ⟨hends, ?_, ?_, ?_, ?_⟩
  · rw [hcmd]
    exact loadErr_check { s with cmd := y } k o
  · rw [hcmd]
    exact loadErr_offset { s with cmd := y } k o
  · rw [hcmd]
    exact RegFrame.other (RegFrame.trans (s := { s with cmd := y }) (.other (.refl _ s) rfl) (loadErr_only { s with cmd := y } k o).2) rfl
  · rw [hcmd]
    rfl

/-- A program that the committed configuration does not list is locked out, which is a fault. -/
theorem loadProg_locked (h : progFault s c.data = none) (hc : s.saf.cfg.isSome = true)
    (hl : crcListed s (readProg c.data).crc = false) :
    Ends (loadProg { s with cmd := y } (runningAs c)) c St.locked 0 ∧ (loadProg { s with cmd := y } (runningAs c)).sch = s.sch ∧
    (loadProg { s with cmd := y } (runningAs c)).get F.SCH_LOAD_ERR_CHECK = 0 ∧
    RegFrame (loadErrFields ++ faultFields 0) s (loadProg { s with cmd := y } (runningAs c)) := by
  have hrun : loadProg { s with cmd := y } (runningAs c) = refuse (loadErr { s with cmd := y } 0 0) (runningAs c) St.locked 0 := by
    unfold loadProg
    rw [runningAs_data, loadProgContents_locked (s := { s with cmd := y }) ((progFault_cmd s y _).trans h) hc hl]
  have hends := refuse_ends (s := loadErr { s with cmd := y } 0 0) (c := runningAs c) hd St.locked 0 (by decide) (by decide)
  have hcmd := refuse_locked (s := loadErr { s with cmd := y } 0 0) (c := runningAs c) hd 0
  rw [hrun]
  generalize refuse (loadErr { s with cmd := y } 0 0) (runningAs c) St.locked 0 = t at hends hcmd ⊢
  have hfault : RegFrame (faultFields 0) (loadErr { s with cmd := y } 0 0) t := by
    rw [hcmd]
    exact .other (.raise (.refl _ _) 0 _ _ fun _ hf => hf) rfl
  refine ⟨hends, by rw [hcmd]; exact raiseFault_sch .., ?_, ?_⟩
  · exact (hfault F.SCH_LOAD_ERR_CHECK (by decide)).trans (loadErr_check { s with cmd := y } 0 0)
  · refine RegFrame.trans (RegFrame.trans (s := { s with cmd := y }) (.other (.refl _ s) rfl)
      ((loadErr_only { s with cmd := y } 0 0).2.subset (by simp +contextual))) (hfault.subset (by simp +contextual))

/-- A program that needs more stalls than there are. -/
theorem loadProg_resource (h : progFault s c.data = none) (hl : s.saf.cfg.isSome = true → crcListed s (readProg c.data).crc = true)
    (hn : availableStalls s < progNeed s (readProg c.data)) :
    Ends (loadProg { s with cmd := y } (runningAs c)) c St.resource 0 ∧ (loadProg { s with cmd := y } (runningAs c)).sch = s.sch ∧
    (loadProg { s with cmd := y } (runningAs c)).get F.SCH_LOAD_ERR_CHECK = 0 ∧
    RegFrame loadErrFields s (loadProg { s with cmd := y } (runningAs c)) := by
  have hrun : loadProg { s with cmd := y } (runningAs c) = refuse (loadErr { s with cmd := y } 0 0) (runningAs c) St.resource 0 := by
    unfold loadProg
    rw [runningAs_data, loadProgContents_room (s := { s with cmd := y }) ((progFault_cmd s y _).trans h) hl, if_pos]
    rwa [availableStalls_cmd, progNeed_cmd]
  have hends := refuse_ends (s := loadErr { s with cmd := y } 0 0) (c := runningAs c) hd St.resource 0 (by decide) (by decide)
  have hcmd := refuse_cmd_only (s := loadErr { s with cmd := y } 0 0) (c := runningAs c) hd (st := St.resource) (by decide) 0
  rw [hrun]
  generalize refuse (loadErr { s with cmd := y } 0 0) (runningAs c) St.resource 0 = t at hends hcmd ⊢
  refine ⟨hends, by rw [hcmd]; rfl, ?_, ?_⟩
  · rw [hcmd]
    exact loadErr_check { s with cmd := y } 0 0
  · rw [hcmd]
    exact RegFrame.other (RegFrame.trans (s := { s with cmd := y }) (.other (.refl _ s) rfl) (loadErr_only { s with cmd := y } 0 0).2) rfl

end

/-- A program that passes is stored with its need, and its CRC is the result. -/
theorem loadProg_stores {s : State} (y : CmdSt) {c : Cmd} (h : progFault s c.data = none) (hl : s.saf.cfg.isSome = true → crcListed s (readProg c.data).crc = true)
    (hn : progNeed s (readProg c.data) ≤ availableStalls s) :
    loadProg { s with cmd := y } (runningAs c) = finishOk (storeProg (loadErr { s with cmd := y } 0 0) c.slot
      { readProg c.data with need := progNeed s (readProg c.data) }) (runningAs c) (readProg c.data).crc := by
  unfold loadProg
  rw [runningAs_data, loadProgContents_room (s := { s with cmd := y }) ((progFault_cmd s y _).trans h) hl, if_neg]
  · dsimp only
    rw [progNeed_loadErr, progNeed_cmd]
    rfl
  · rw [availableStalls_cmd, progNeed_cmd]
    omega

/-! ### SET_POINT_RING (R264) -/

/-- The registers of a point ring that SET_POINT_RING writes. -/
def pointRingFields (n : Nat) : List Fld :=
  [F.HGE_RING_BASE n, F.HGE_RING_CFG_SIZE n, F.HGE_RING_CFG_FUSED n, F.HGE_RING_WPTR n, F.HGE_RING_LAP n, F.HGE_RING_RPTR n]

/-- A point ring with its base, size and kind, and its pointers at 0. -/
def placeRing (s : State) (n base size : Nat) (fused : Bool) : State :=
  let t := ((s.set (F.HGE_RING_BASE n) base).set (F.HGE_RING_CFG_SIZE n) size).put (F.HGE_RING_CFG_FUSED n) fused
  ((t.set (F.HGE_RING_WPTR n) 0).set (F.HGE_RING_LAP n) 0).set (F.HGE_RING_RPTR n) 0

/-- The header of the frame whose records a ring holds is due again. -/
def dueRing (u : State) (n : Nat) : State :=
  let r := ringAt u n
  setRing u n { r with hdrDue := !r.queue.isEmpty }

theorem placeRing_only (s : State) (n base size : Nat) (fused : Bool) :
    RegsOnly (pointRingFields n) s (placeRing s n base size fused) :=
  (((((((RegsOnly.refl _ s).set (f := F.HGE_RING_BASE n) base (by simp [pointRingFields])).set (f := F.HGE_RING_CFG_SIZE n) size
    (by simp [pointRingFields])).set (f := F.HGE_RING_CFG_FUSED n) (b2n fused) (by simp [pointRingFields]))).set
    (f := F.HGE_RING_WPTR n) 0 (by simp [pointRingFields])).set (f := F.HGE_RING_LAP n) 0 (by simp [pointRingFields])).set
    (f := F.HGE_RING_RPTR n) 0 (by simp [pointRingFields])

theorem placeRing_get (s : State) {n : Nat} (hn : n < 4) (base size : Nat) (fused : Bool) :
    (placeRing s n base size fused).get (F.HGE_RING_BASE n) = base % 2 ^ (F.HGE_RING_BASE n).width ∧
    (placeRing s n base size fused).get (F.HGE_RING_CFG_SIZE n) = size % 2 ^ (F.HGE_RING_CFG_SIZE n).width ∧
    (placeRing s n base size fused).get (F.HGE_RING_CFG_FUSED n) = b2n fused ∧
    (placeRing s n base size fused).get (F.HGE_RING_WPTR n) = 0 ∧ (placeRing s n base size fused).get (F.HGE_RING_RPTR n) = 0 ∧
    (placeRing s n base size fused).get (F.HGE_RING_LAP n) = 0 := by
  unfold placeRing
  obtain rfl | rfl | rfl | rfl : n = 0 ∨ n = 1 ∨ n = 2 ∨ n = 3 := by omega
  all_goals
    refine ⟨?_, ?_, ?_, ?_, ?_, ?_⟩ <;>
      simp (disch := decide) only [State.put_set, get_getReg, State.set_regs, getReg_setReg_other, getReg_setReg] <;>
      cases fused <;> rfl

/-! ### The obligation -/

theorem begun_with {s : State} {c : Cmd} (hd : c.discard = false) : ∃ y : CmdSt, begun s c = { s with cmd := y } :=
  ⟨_, begun_cmd_only hd⟩

/-- The clause of LOAD_SCAN_PROG of a program that passes. -/
theorem loadProg_passes {s : State} (y : CmdSt) {c : Cmd} (hd : c.discard = false) (h : progFault s c.data = none)
    (hl : s.saf.cfg.isSome = true → crcListed s (readProg c.data).crc = true)
    (hn : progNeed s (readProg c.data) ≤ availableStalls s) {t : State} (ht : t = loadProg { s with cmd := y } (runningAs c)) :
    Ends t c St.done (readProg c.data).crc ∧
    t.sch = { s.sch with progs := putAt s.sch.progs c.slot none (some { readProg c.data with need := progNeed s (readProg c.data) }) } ∧
    t.get (if c.slot = 0 then F.SCH_STATUS_PROG0_VALID else F.SCH_STATUS_PROG1_VALID) = 1 ∧
    t.get (if c.slot = 0 then F.SCH_PROG_CRC0 else F.SCH_PROG_CRC1) = (readProg c.data).crc % 2 ^ 32 ∧
    t.get F.SCH_LOAD_ERR_CHECK = 0 ∧ t.get F.SCH_LOAD_ERR_OFFSET = 0 ∧
    RegFrame (F.SCH_LOAD_ERR_CHECK :: F.SCH_LOAD_ERR_OFFSET :: (if c.slot = 0 then [F.SCH_PROG_CRC0, F.SCH_STATUS_PROG0_VALID]
      else [F.SCH_PROG_CRC1, F.SCH_STATUS_PROG1_VALID])) s t ∧ t = { s with regs := t.regs, sch := t.sch, cmd := t.cmd } := by
  obtain ⟨hsch, hvalid, hcrc, hframe, hparts⟩ := storeProg_parts (loadErr { s with cmd := y } 0 0) c.slot
    { readProg c.data with need := progNeed s (readProg c.data) }
  rw [loadProg_stores y h hl hn] at ht
  have hends := ends_ok (s := storeProg (loadErr { s with cmd := y } 0 0) c.slot
    { readProg c.data with need := progNeed s (readProg c.data) }) (c := runningAs c) hd (readProg c.data).crc
  have hcmd := finishOk_eq (s := storeProg (loadErr { s with cmd := y } 0 0) c.slot
    { readProg c.data with need := progNeed s (readProg c.data) }) (c := runningAs c) hd (readProg c.data).crc
  rw [← ht] at hends hcmd
  clear ht
  generalize storeProg (loadErr { s with cmd := y } 0 0) c.slot { readProg c.data with need := progNeed s (readProg c.data) } = u
    at hsch hvalid hcrc hframe hparts hcmd
  have herr : RegFrame loadErrFields s (loadErr { s with cmd := y } 0 0) :=
    RegFrame.trans (s := { s with cmd := y }) (.other (.refl _ s) rfl) (loadErr_only { s with cmd := y } 0 0).2
  have hother (f : Fld) (hf : f ∈ loadErrFields) : u.get f = (loadErr { s with cmd := y } 0 0).get f := by
    refine hframe f ?_
    revert f
    split <;> decide
  refine ⟨hends, by rw [hcmd]; exact hsch, by rw [hcmd]; exact hvalid, by rw [hcmd]; exact hcrc, ?_, ?_, ?_, ?_⟩
  · rw [hcmd]
    exact (hother _ (by decide)).trans (loadErr_check { s with cmd := y } 0 0)
  · rw [hcmd]
    exact (hother _ (by decide)).trans (loadErr_offset { s with cmd := y } 0 0)
  · rw [hcmd]
    exact .other (.trans (herr.subset (by simp +contextual [loadErrFields])) (hframe.subset (by simp +contextual))) rfl
  · rw [hcmd, hparts]
    rfl

/-- The clause of SET_POINT_RING. -/
theorem setPointRing_gives {s : State} {p : Port} {tag : Nat} {c : Cmd} (hd : c.discard = false)
    (h : Ready s p tag 0x0205 (fun s c => stdCheck s c false false s.sys.trans.isSome) c) (n : Nat) (hn : n = c.dw 4 % 4) :
    Gives (.setPointRing p tag) s (fun t => Ends t c St.done 0 ∧
      t.get (F.HGE_RING_BASE n) = (c.dw 5 + 2 ^ 32 * c.dw 6) % 2 ^ (F.HGE_RING_BASE n).width ∧
      t.get (F.HGE_RING_CFG_SIZE n) = c.dw 7 / 4096 % 2 ^ (F.HGE_RING_CFG_SIZE n).width ∧
      t.get (F.HGE_RING_CFG_FUSED n) = b2n (bit (c.dw 8) 0) ∧ t.get (F.HGE_RING_WPTR n) = 0 ∧ t.get (F.HGE_RING_RPTR n) = 0 ∧
      t.get (F.HGE_RING_LAP n) = 0 ∧ ringAt t n = { ringAt s n with hdrDue := !(ringAt s n).queue.isEmpty } ∧
      (∀ m < 4, m ≠ n → ringAt t m = ringAt s m) ∧
      RegFrame (pointRingFields n) s t ∧ t = { s with regs := t.regs, hge := t.hge, cmd := t.cmd }) := by
  subst hn
  obtain ⟨hbase, hsize, hfused, hw, hr, hlap⟩ := placeRing_get s (Nat.mod_lt (c.dw 4) (by decide : 4 > 0))
    (c.dw 5 + 2 ^ 32 * c.dw 6) (c.dw 7 / 4096) (bit (c.dw 8) 0)
  obtain ⟨honly, hframe⟩ := placeRing_only s (c.dw 4 % 4) (c.dw 5 + 2 ^ 32 * c.dw 6) (c.dw 7 / 4096) (bit (c.dw 8) 0)
  refine h.gives (run := fun s c => finishOk (dueRing (placeRing s (c.dw 4 % 4) (c.dw 5 + 2 ^ 32 * c.dw 6) (c.dw 7 / 4096)
    (bit (c.dw 8) 0)) (c.dw 4 % 4)) c 0) (execSetPointRing p tag s) rfl rfl ?_
  dsimp only
  generalize c.dw 4 % 4 = n at *
  generalize placeRing s n _ _ _ = u at *
  have hhge : u.hge = s.hge := by rw [honly]
  have hring (m : Nat) : ringAt u m = ringAt s m := congrArg (fun (y : HgeSt) => y.rings.getD m restRing) hhge
  refine ⟨ends_ok hd 0, ?_⟩
  rw [finishOk_eq hd]
  refine ⟨hbase, hsize, hfused, hw, hr, hlap, ?_, fun m _ hm => ?_, hframe.other rfl, by rw [honly]; rfl⟩
  · exact ((putAt_getD _ n n restRing _).trans (if_pos rfl)).trans (by rw [hring])
  · exact ((putAt_getD _ n m restRing _).trans (if_neg (Ne.symm hm))).trans (hring m)

/-- Settles O34: LOAD_SCAN_PROG by its contents' checks (`loadProgContents_fault`, `…_locked`, `…_room`), the others as completions of
a named state. -/
theorem programCommands : Obligations.ProgramCommands := by
  unfold Obligations.ProgramCommands
  refine fun s p tag c hd => ⟨fun h q hq => ?_, fun h => ?_, fun h hc => ?_, setPointRing_gives hd⟩
  · subst hq
    obtain ⟨y, hy⟩ := begun_with (s := s) hd
    refine ⟨fun k o hf => ?_, fun hf => ⟨fun hc hl => ?_, fun hl hn => ?_, fun hl hn => ?_⟩⟩
    all_goals
      refine h.gives (run := fun s c => begin_ s c loadProg) (execLoadScanProg p tag s) rfl rfl ?_
      rw [begin_begun, hy]
    · exact loadProg_fault y hd hf
    · exact loadProg_locked y hd hf hc hl
    · exact loadProg_resource y hd hf hl hn
    · exact loadProg_passes y hd hf hl hn rfl
  · refine h.gives (execSetTiming p tag s) rfl rfl ?_
    dsimp only
    exact ⟨ends_ok hd 0, by rw [finishOk_eq hd], by rw [finishOk_eq hd]⟩
  · have hcheck : stdCheck s c (committed s) false s.sys.trans.isSome = some St.locked := if_pos hc
    refine ⟨_, (show execSetTiming p tag s = _ from h.refused hcheck _), refuse_ends hd _ _ (by decide) (by decide), ?_, ?_⟩
    · rw [refuse_locked hd]
      exact raiseFault_sch ..
    · rw [refuse_locked hd]
      exact .other (.raise (.refl _ s) 0 _ _ fun _ hf => hf) rfl

end Sys2Proof.Machine

/-! ## The commands of the safety configuration (R144, R463 to R467, R491)

What the settling of the pairs leaves of the safety block, and with it O35. -/
namespace Sys2Proof.Machine

/-! ### The settling of pairs touches the evaluators and the pairs alone -/

/-- Of the safety block the evaluators and the pairs' feedback may change. -/
def PairsOnly (s t : State) : Prop := t.saf = { s.saf with evA := t.saf.evA, evB := t.saf.evB, pairs := t.saf.pairs }

theorem PairsOnly.refl (s : State) : PairsOnly s s := rfl

theorem PairsOnly.trans {r s t : State} (h : PairsOnly r s) (k : PairsOnly s t) : PairsOnly r t := by
  unfold PairsOnly at *
  rw [k, h]

theorem PairsOnly.ite {s t u : State} {c : Prop} [Decidable c] (h : PairsOnly s t) (k : PairsOnly s u) :
    PairsOnly s (if c then t else u) := by
  split <;> assumption

theorem PairsOnly.other {s t u : State} (h : PairsOnly s t) (e : u.saf = t.saf) : PairsOnly s u := by
  unfold PairsOnly at *
  rw [e]
  exact h

theorem PairsOnly.foldl {s t : State} {α : Type} {f : State → α → State} (hf : ∀ u x, PairsOnly u (f u x)) (l : List α)
    (h : PairsOnly s t) : PairsOnly s (l.foldl f t) :=
  List.foldlRecOn l f h fun u hu x _ => hu.trans (hf u x)

theorem setEv_pairsOnly (s : State) (d : Side) (e : Evaluator) : PairsOnly s (s.setEv d e) := by
  cases d <;> rfl

theorem setPairAt_pairsOnly (s : State) (n : Nat) (p : Pair) : PairsOnly s (setPairAt s n p) := rfl

theorem setPair_pairsOnly (s : State) (d : Side) (n : Nat) (st : PairState) : PairsOnly s (setPair s d n st) := by
  unfold setPair
  dsimp only
  have hev := setEv_pairsOnly s d { s.ev d with pairs := putAt (s.ev d).pairs n .disabled st }
  generalize s.setEv d { s.ev d with pairs := putAt (s.ev d).pairs n .disabled st } = t at hev ⊢
  have htrip : PairsOnly s (if d == .a && (s.ev d).pair n == .on && st != .on then (t.set F.SAF_EVENT_TRIP 1).inc F.SAF_CNT_TRIP
      else t) := .ite (hev.other rfl) hev
  exact .ite (htrip.trans (setPairAt_pairsOnly _ _ _)) htrip

theorem countTrip_pairsOnly (s : State) (d : Side) : PairsOnly s (countTrip s d) := .ite rfl rfl

theorem settlePair_pairsOnly (c : SafCfg) (d : Side) (s : State) (n : Nat) : PairsOnly s (settlePair c d s n) := by
  have hset := setPair_pairsOnly s d n
  have hid := PairsOnly.refl s
  unfold settlePair
  dsimp only
  refine .ite (.ite hid (hset _)) (.ite (.ite hid (hset _)) (.ite (.ite (hset _) (.ite ?_ hid)) ?_))
  · exact (hset _).trans (countTrip_pairsOnly _ d)
  · exact .ite (.ite hid (hset _)) (.ite hid (hset _))

theorem settle_pairsOnly (s : State) : PairsOnly s (settle s) := by
  unfold settle
  split
  · exact .refl s
  · exact .foldl (settlePair_pairsOnly _ .b) _ (.foldl (settlePair_pairsOnly _ .a) _ (.refl s))

/-- What settling leaves: the configuration, whether the block is armed, and the device state. -/
theorem settle_keeps_cfg (s : State) : (settle s).saf.cfg = s.saf.cfg ∧ (settle s).saf.armed = s.saf.armed ∧ (settle s).mode = s.mode := by
  have h := settle_pairsOnly s
  unfold PairsOnly at h
  exact ⟨by rw [h], by rw [h], by rw [(settle_notes s).eq]⟩

theorem watchEdm_pairsOnly (s : State) : PairsOnly s (watchEdm s) :=
  .foldl (fun u n => .ite (setPairAt_pairsOnly u n _) (.refl u)) _ (.refl s)

/-- Watching the contactors changes the safety block alone. -/
theorem watchEdm_eq (s : State) : watchEdm s = { s with saf := (watchEdm s).saf } :=
  List.foldlRecOn (motive := fun (t : State) => t = { s with saf := t.saf }) _ _ rfl fun t h n _ => by
    dsimp only
    split
    · rw [h]
      rfl
    · exact h

/-! ### The contents of a safety command (R463, R465) -/

/-- The contents' check does not look at the commands. -/
theorem safContents_cmd (s : State) (y : CmdSt) (op : Nat) (b : List Byte) : safContents { s with cmd := y } op b =
    ((safContents s op b).1, { (safContents s op b).2 with cmd := y }) := by
  unfold safContents
  dsimp only
  generalize imageErr b s.sch.frameUs = e
  split
  · cases e <;> rfl
  · split
    · split <;> rfl
    · rfl

/-- What passes changes nothing, and what does not pass has a wrong parameter and is recorded. -/
theorem safContents_cases (s : State) (op : Nat) (b : List Byte) : safContents s op b = (none, s) ∨
    ∃ d k o, safContents s op b = (some (St.badParam, d), safLoadErr s k o) := by
  unfold safContents
  generalize imageErr b s.sch.frameUs = e
  split
  · cases e
    · exact .inl rfl
    · exact .inr ⟨_, _, _, rfl⟩
  · split
    · split
      · exact .inr ⟨_, _, _, rfl⟩
      · exact .inl rfl
    · exact .inl rfl

/-! ### SAF_LOAD_CONFIG and SAF_COMMIT -/

/-- An image is staged, and no configuration is committed. -/
def stageImage (u : State) (b : List Byte) : State :=
  let v := (safLoadErr u 0 0).set F.SAF_DIGEST 0
  freshEvaluators { v with saf := { v.saf with staged := b, cfg := none } }

/-- The staged image is committed under a counter. -/
def commitImage (u : State) (counter : Nat) : State :=
  let v := ((safLoadErr u 0 0).set F.SAF_DIGEST (safDigest u.saf.staged)).set F.SAF_COUNTER counter
  watchEdm (settle (freshEvaluators { v with saf := { v.saf with cfg := some (parseImage v.saf.staged) } }))

/-- What SAF_LOAD_CONFIG does with the command that runs. -/
def loadConfig (t : State) (c : Cmd) : State :=
  match safContents t 0x0500 c.data with
  | (some (st, d), u) => finish u c st d 0
  | (none, u) => finishOk (stageImage u c.data) c (safDigest c.data)

/-- What SAF_COMMIT does with the command that runs. -/
def commitConfig (t : State) (c : Cmd) : State :=
  match safContents t 0x0501 c.data with
  | (some (st, d), u) => finish u c st d 0
  | (none, u) => finishOk (commitImage u c.counter) c c.counter

theorem commitImage_parts (u : State) (counter : Nat) :
    (commitImage u counter).saf.cfg = some (parseImage u.saf.staged) ∧
    (commitImage u counter).get F.SAF_COUNTER = counter % 2 ^ 64 ∧
    (commitImage u counter).get F.SAF_DIGEST = safDigest u.saf.staged % 2 ^ 64 ∧
    (commitImage u counter).mode = u.mode ∧ (commitImage u counter).saf.armed = u.saf.armed := by
  unfold commitImage
  dsimp only
  have hcounter : (((safLoadErr u 0 0).set F.SAF_DIGEST (safDigest u.saf.staged)).set F.SAF_COUNTER counter).get F.SAF_COUNTER =
      counter % 2 ^ 64 := get_set_same _ F.SAF_COUNTER counter
  have hdigest : (((safLoadErr u 0 0).set F.SAF_DIGEST (safDigest u.saf.staged)).set F.SAF_COUNTER counter).get F.SAF_DIGEST =
      safDigest u.saf.staged % 2 ^ 64 := (get_set_other _ counter (by decide)).trans (get_set_same _ F.SAF_DIGEST _)
  have hsaf : (((safLoadErr u 0 0).set F.SAF_DIGEST (safDigest u.saf.staged)).set F.SAF_COUNTER counter).saf = u.saf := rfl
  have hmode : (((safLoadErr u 0 0).set F.SAF_DIGEST (safDigest u.saf.staged)).set F.SAF_COUNTER counter).mode = u.mode := rfl
  generalize ((safLoadErr u 0 0).set F.SAF_DIGEST (safDigest u.saf.staged)).set F.SAF_COUNTER counter = v at *
  rw [hsaf]
  have hw : (freshEvaluators { v with saf := { u.saf with cfg := some (parseImage u.saf.staged) } }).saf.cfg =
      some (parseImage u.saf.staged) ∧
      (freshEvaluators { v with saf := { u.saf with cfg := some (parseImage u.saf.staged) } }).saf.armed = u.saf.armed ∧
      (freshEvaluators { v with saf := { u.saf with cfg := some (parseImage u.saf.staged) } }).mode = u.mode ∧
      (freshEvaluators { v with saf := { u.saf with cfg := some (parseImage u.saf.staged) } }).regs = v.regs := ⟨rfl, rfl, hmode, rfl⟩
  generalize freshEvaluators _ = w at hw ⊢
  obtain ⟨hcfg, harmed, hmode, hregs⟩ := hw
  obtain ⟨hcfg', harmed', hmode'⟩ := settle_keeps_cfg w
  have hframe := (settle_notes w).frame
  have hpairs := watchEdm_pairsOnly (settle w)
  have heq := watchEdm_eq (settle w)
  have hregs' : (watchEdm (settle w)).regs = (settle w).regs := by rw [heq]
  have hmode'' : (watchEdm (settle w)).mode = (settle w).mode := by rw [heq]
  have hget (f : Fld) (hf : ∀ g ∈ noteFields, f.key ≠ g.key) : (watchEdm (settle w)).get f = v.get f :=
    (congrArg (getReg · f) hregs').trans ((hframe f hf).trans (congrArg (getReg · f) hregs))
  unfold PairsOnly at hpairs
  refine ⟨by rw [hpairs]; exact hcfg'.trans hcfg, (hget _ (by decide)).trans hcounter, (hget _ (by decide)).trans hdigest,
    (hmode''.trans hmode').trans hmode, by rw [hpairs]; exact harmed'.trans harmed⟩

/-- A refusal for the contents. -/
theorem safRefused (s : State) (y : CmdSt) {c : Cmd} (hd : c.discard = false) (d k o : Nat) :
    Ends (finish { safLoadErr s k o with cmd := y } (runningAs c) St.badParam d 0) c St.badParam 0 ∧
    finish { safLoadErr s k o with cmd := y } (runningAs c) St.badParam d 0 = { s with
      regs := (safLoadErr s k o).regs, cmd := (finish { safLoadErr s k o with cmd := y } (runningAs c) St.badParam d 0).cmd } :=
  ⟨finishWith_ends (c := runningAs c) hd _ _ (by decide) (by decide) _ _, finishWith_cmd_only (c := runningAs c) hd _ _ _ _⟩

/-- The clause of SAF_LOAD_CONFIG. -/
theorem loadConfig_gives {s : State} {p : Port} {tag : Nat} {c : Cmd} (hd : c.discard = false)
    (h : Ready s p tag 0x0500 safLoadCheck c) : Gives (.safLoadConfig p tag) s (fun t => match safContents s 0x0500 c.data with
      | (none, _) => Ends t c St.done (safDigest c.data) ∧ t.saf.staged = c.data ∧ t.saf.cfg = none ∧
          t.saf.armed = s.saf.armed ∧ t.mode = s.mode
      | (some e, v) => Ends t c e.1 0 ∧ t = { s with regs := v.regs, cmd := t.cmd }) := by
  obtain ⟨y, hy⟩ := begun_with (s := s) hd
  refine h.gives (run := fun s c => begin_ s c loadConfig) (execSafLoadConfig p tag s) rfl rfl ?_
  rw [begin_begun, hy]
  unfold loadConfig
  rw [runningAs_data, safContents_cmd s y]
  rcases safContents_cases s 0x0500 c.data with hpass | ⟨d, k, o, hfail⟩
  · rw [hpass]
    dsimp only
    refine ⟨ends_ok (c := runningAs c) hd _, ?_⟩
    rw [finishOk_eq (c := runningAs c) hd]
    exact ⟨rfl, rfl, rfl, rfl⟩
  · rw [hfail]
    exact safRefused s y hd d k o

/-- The clause of SAF_COMMIT. -/
theorem commitConfig_gives {s : State} {p : Port} {tag : Nat} {c : Cmd} (hd : c.discard = false)
    (h : Ready s p tag 0x0501 safLoadCheck c) : Gives (.safCommit p tag) s (fun t => match safContents s 0x0501 c.data with
      | (none, _) => Ends t c St.done c.counter ∧ t.saf.cfg = some (parseImage s.saf.staged) ∧
          t.get F.SAF_COUNTER = c.counter % 2 ^ 64 ∧ t.get F.SAF_DIGEST = safDigest s.saf.staged % 2 ^ 64 ∧ t.mode = s.mode ∧
          t.saf.armed = s.saf.armed
      | (some e, v) => Ends t c e.1 0 ∧ t = { s with regs := v.regs, cmd := t.cmd }) := by
  obtain ⟨y, hy⟩ := begun_with (s := s) hd
  refine h.gives (run := fun s c => begin_ s c commitConfig) (execSafCommit p tag s) rfl rfl ?_
  rw [begin_begun, hy]
  unfold commitConfig
  rw [runningAs_data, safContents_cmd s y]
  rcases safContents_cases s 0x0501 c.data with hpass | ⟨d, k, o, hfail⟩
  · rw [hpass]
    dsimp only
    obtain ⟨hcfg, hcounter, hdigest, hmode, harmed⟩ := commitImage_parts { s with cmd := y } c.counter
    refine ⟨ends_ok (c := runningAs c) hd _, ?_⟩
    rw [finishOk_eq (c := runningAs c) hd]
    exact ⟨hcfg, hcounter, hdigest, hmode, harmed⟩
  · rw [hfail]
    exact safRefused s y hd d k o

/-! ### SAF_ARM and SAF_DISARM (R466, R467) -/

/-- The block armed, with both reference buffers on. -/
def armState (s : State) : State :=
  let t := (s.set (F.HKC_CAL_REF_ON 0) 1).set (F.HKC_CAL_REF_ON 1) 1
  { t with saf := { t.saf with armed := true } }

/-- The block disarmed. -/
def disarmed (t : State) : State := { t with saf := { t.saf with armed := false } }

/-- Forcing the pairs off touches what a notice and the settling of pairs touch. -/
theorem forcePairs_forces (s : State) : Notes s (forcePairs s) ∧ PairsOnly s (forcePairs s) := by
  have hside (u : State) (n : Nat) (d : Side) : Notes u (if (u.ev d).pair n == .disabled then u else setPair u d n .forced) ∧
      PairsOnly u (if (u.ev d).pair n == .disabled then u else setPair u d n .forced) :=
    ⟨.ite (.refl u) (setPair_notes u d n _), .ite (.refl u) (setPair_pairsOnly u d n _)⟩
  have hone (t : State) (n : Nat) : Notes t (forcePair t n) ∧ PairsOnly t (forcePair t n) :=
    ⟨(hside t n .a).1.trans (hside _ n .b).1, (hside t n .a).2.trans (hside _ n .b).2⟩
  exact ⟨(((hone s 0).1.trans (hone _ 1).1).trans (hone _ 2).1).trans (hone _ 3).1,
    (((hone s 0).2.trans (hone _ 1).2).trans (hone _ 2).2).trans (hone _ 3).2⟩

/-- Once disarmed no pair is on, and the configuration and the device state stay. -/
theorem disarmed_parts (s : State) : (settle (disarmed (forcePairs s))).saf.armed = false ∧
    (settle (disarmed (forcePairs s))).mode = s.mode ∧ (settle (disarmed (forcePairs s))).saf.cfg = s.saf.cfg ∧
    ∀ d : Side, ∀ n < 4, ((settle (disarmed (forcePairs s))).ev d).pair n ≠ .on := by
  obtain ⟨hnotes, hpairs⟩ := forcePairs_forces s
  have hoff := forcePairs_pair s
  have hmode : (forcePairs s).mode = s.mode := by rw [hnotes.eq]
  have hcfg : (forcePairs s).saf.cfg = s.saf.cfg := by
    unfold PairsOnly at hpairs
    rw [hpairs]
  clear hnotes hpairs
  generalize forcePairs s = t at hoff hmode hcfg ⊢
  obtain ⟨hcfg', harmed, hmode'⟩ := settle_keeps_cfg (disarmed t)
  refine ⟨harmed, hmode'.trans hmode, hcfg'.trans hcfg, fun d n hn hon => ?_⟩
  have hwas := (settle_keeps (Keeps.refl (disarmed t))).on d n hn hon
  refine hoff d n hn ?_
  cases d <;> exact hwas

/-! ### The obligation -/

/-- Settles O35: a safety command's contents pass or are refused (`safContents_parts`), and settling keeps the configuration
(`settle_keeps_cfg`). -/
theorem safetyCommands : Obligations.SafetyCommands := by
  unfold Obligations.SafetyCommands
  refine fun s p tag c hd => ⟨loadConfig_gives hd, commitConfig_gives hd, fun h => ?_, fun h => ?_, fun h => ?_⟩
  · refine h.gives (execSafArm p tag s) rfl rfl ?_
    split
    next harmed =>
      refine ⟨ends_ok hd 0, ?_⟩
      rw [finishOk_eq hd]
      exact ⟨harmed, rfl, rfl⟩
    · refine ⟨ends_ok hd 0, ?_⟩
      rw [finishOk_eq hd]
      obtain ⟨hcfg, harmed, hmode⟩ := settle_keeps_cfg (armState s)
      exact ⟨harmed, hmode, hcfg⟩
  · refine h.gives (run := fun s c => finishOk (settle (disarmed (forcePairs s))) c 0) (execSafDisarm p tag s) rfl rfl ?_
    have hparts := disarmed_parts s
    generalize settle (disarmed (forcePairs s)) = t at hparts ⊢
    refine ⟨ends_ok hd 0, ?_⟩
    rw [finishOk_eq hd]
    obtain ⟨harmed, hmode, hcfg, hoff⟩ := hparts
    refine ⟨harmed, hmode, hcfg, fun d n hn => ?_⟩
    have hpair := hoff d n hn
    cases d <;> exact hpair
  · refine h.gives (execSafeLockoutClear p tag s) rfl rfl ?_
    exact ⟨ends_ok hd 0, by rw [finishOk_eq hd], by rw [finishOk_eq hd]⟩

end Sys2Proof.Machine

/-! ## The far yard's windows (R292 to R301)

A window's grant and its withdrawal, and with them O36. -/
namespace Sys2Proof.Machine

/-! ### Granting a window (R293) -/

/-- The registers of a window that a grant writes. -/
def grantFields (w : Nat) : List Fld := [F.YRD_GRANT_BASE w, F.YRD_GRANT_LEN w, F.YRD_GRANT_STAT_CLASS w, F.YRD_GRANT_STAT_VALID w]

/-- A window is granted with its base, length and class. -/
def grantWindow (s : State) (w base len cls : Nat) : State :=
  (((s.set (F.YRD_GRANT_BASE w) base).set (F.YRD_GRANT_LEN w) len).set (F.YRD_GRANT_STAT_CLASS w) cls).set (F.YRD_GRANT_STAT_VALID w) 1

theorem grantWindow_only (s : State) (w base len cls : Nat) : RegsOnly (grantFields w) s (grantWindow s w base len cls) :=
  ((((RegsOnly.refl _ s).set (f := F.YRD_GRANT_BASE w) base (by simp [grantFields])).set (f := F.YRD_GRANT_LEN w) len
    (by simp [grantFields])).set (f := F.YRD_GRANT_STAT_CLASS w) cls (by simp [grantFields])).set (f := F.YRD_GRANT_STAT_VALID w) 1
    (by simp [grantFields])

theorem grantWindow_base (s : State) (w base len cls : Nat) :
    (grantWindow s w base len cls).get (F.YRD_GRANT_BASE w) = base % 2 ^ (F.YRD_GRANT_BASE w).width := by
  have hkey : ∀ f ∈ [F.YRD_GRANT_LEN w, F.YRD_GRANT_STAT_CLASS w, F.YRD_GRANT_STAT_VALID w], (F.YRD_GRANT_BASE w).key ≠ f.key := by
    simp only [List.forall_mem_cons, List.not_mem_nil, false_imp_iff, implies_true, and_true, Fld.key]
    omega
  unfold grantWindow
  rw [get_set_other _ _ (hkey _ (by simp)), get_set_other _ _ (hkey _ (by simp)), get_set_other _ _ (hkey _ (by simp)), get_set_same]

/-- The lowest free window is the one before which every window is granted. -/
theorem lowestFree {s : State} {w : Nat} (hw : w < 64) (hfree : s.flag (F.YRD_GRANT_STAT_VALID w) = false)
    (hlow : ∀ v < w, s.flag (F.YRD_GRANT_STAT_VALID v) = true) :
    (List.range 64).find? (fun w => !s.flag (F.YRD_GRANT_STAT_VALID w)) = some w := by
  rw [List.find?_range_eq_some]
  exact ⟨by simp [hfree], List.mem_range.2 hw, fun v hv => by simp [hlow v hv]⟩

/-! ### Withdrawing a window (R294) -/

theorem clearWindow_valid (s : State) (w : Nat) : (clearWindow s w).get (F.YRD_GRANT_STAT_VALID w) = 0 := by
  have hkeys : [F.YRD_GRANT_STAT_VALID, F.YRD_GRANT_STAT_DRAINING, F.YRD_GRANT_STAT_FAILED, F.YRD_GRANT_STAT_CLASS, F.YRD_GRANT_LEN,
      F.YRD_GRANT_BASE].Pairwise fun f g => (f w).key ≠ (g w).key := by
    simp only [List.pairwise_cons, List.forall_mem_cons, List.not_mem_nil, false_imp_iff, implies_true, and_true,
      List.Pairwise.nil, Fld.key]
    omega
  exact get_foldl_set hkeys (a := F.YRD_GRANT_STAT_VALID) (by simp) 0 _

/-- A revoke with no stall left in its window withdraws it. -/
theorem judgeRevoke_empty {s : State} {w n : Nat} (h : s.yrd.revoke = some (w, n)) (he : windowStalls s w = []) :
    judgeRevoke s = endRevoke (withdrawWindow s w) St.done n := by
  unfold judgeRevoke
  rw [h]
  dsimp only
  rw [he]
  rfl

theorem endRevoke_parts (s : State) {w : Nat} (hw : w < 64) (st n : Nat) : (endRevoke (withdrawWindow s w) st n).yrd.revoke = none ∧
    (endRevoke (withdrawWindow s w) st n).get (F.YRD_GRANT_STAT_VALID w) = 0 := by
  have hkey : ∀ w < 64, (F.YRD_GRANT_STAT_VALID w).key ≠ F.CMD_ERR_CNT_DISCARD_CNT.key := by decide
  have hvalid : (withdrawWindow s w).get (F.YRD_GRANT_STAT_VALID w) = 0 := clearWindow_valid s w
  unfold endRevoke
  generalize withdrawWindow s w = t at hvalid ⊢
  constructor
  · rw [(finishRunning_completes _ 0x0301 st n).yrd]
  · exact (finishRunning_frame _ 0x0301 st n _ (by simpa using hkey w hw)).trans hvalid

/-! ### A yard without a stall -/

theorem stallReady_empty {s : State} (h : s.yrd.stalls = []) (n : Nat) : stallReady s n = false := by
  have hnone : stallAt s n = none := by
    unfold stallAt
    rw [h]
    rfl
  unfold stallReady
  rw [hnone]

/-- Without a stall the events wait on, and the yard stays. -/
theorem enterReady_empty {s : State} (h : s.yrd.stalls = []) : (enterReady s).yrd = s.yrd := by
  unfold enterReady
  refine List.foldlRecOn (motive := fun (t : State) => t.yrd = s.yrd) _ _ rfl fun t ht e _ => ?_
  unfold updateBins
  rw [stallReady_empty (ht ▸ h), if_neg Bool.false_ne_true]
  exact ht

theorem drainWindow_empty {s : State} (h : s.yrd.stalls = []) (w : Nat) (recording : Nat → Bool) : drainWindow s w recording = s := by
  have hdivert (bad : Place → Bool) : divert s bad = s := by
    unfold divert
    rw [h]
    rfl
  unfold drainWindow
  rw [hdivert]
  dsimp only
  rw [h]
  rfl

/-- A revoke has begun, and the window takes no new stall. -/
def revokeBegun (t : State) (w : Nat) : State :=
  let u := drainWindow (t.set (F.YRD_GRANT_STAT_DRAINING w) 1) w (recordingStall t)
  { u with yrd := { u.yrd with revoke := some (w, 0) } }

/-- What YARD_REVOKE does with the command that runs. -/
def revokeWindow (t : State) (c : Cmd) : State := judgeRevoke (enterReady (revokeBegun t (c.dw 4)))

theorem revokeWindow_parts {t : State} {c : Cmd} (h : t.yrd.stalls = []) (hw : c.dw 4 < 64) :
    (revokeWindow t c).yrd.revoke = none ∧ (revokeWindow t c).get (F.YRD_GRANT_STAT_VALID (c.dw 4)) = 0 := by
  have hbegun : (revokeBegun t (c.dw 4)).yrd = { t.yrd with revoke := some (c.dw 4, 0) } := by
    unfold revokeBegun
    rw [drainWindow_empty (s := t.set (F.YRD_GRANT_STAT_DRAINING (c.dw 4)) 1) h]
    rfl
  unfold revokeWindow
  generalize revokeBegun t (c.dw 4) = v at hbegun ⊢
  have hyrd : (enterReady v).yrd = { t.yrd with revoke := some (c.dw 4, 0) } :=
    (enterReady_empty (by rw [hbegun]; exact h)).trans hbegun
  generalize enterReady v = u at hyrd ⊢
  have hnone : windowStalls u (c.dw 4) = [] := by
    unfold windowStalls
    rw [hyrd, h]
    rfl
  rw [judgeRevoke_empty (by rw [hyrd]) hnone]
  exact endRevoke_parts u hw St.done 0

/-! ### The obligation -/

/-- Settles O36: a grant takes the lowest free window (`lowestFree`), and a revoke that meets no stall withdraws it
(`judgeRevoke_empty`). -/
theorem yardCommands : Obligations.YardCommands := by
  unfold Obligations.YardCommands
  refine fun s => ⟨fun p tag c hd => ⟨fun h => ⟨fun w hw hfit hfree hlow => ?_, fun hfit => ?_⟩, fun h r hr => ?_, fun h he hw => ?_⟩,
    fun hnone => ?_, fun w n hrevoke he hw => ?_⟩
  · refine h.gives (execYardGrant p tag s) rfl rfl ?_
    have hbase := grantWindow_base s w (grantBase c / 65536) (grantLen c) (c.dw 7)
    obtain ⟨-, hframe⟩ := grantWindow_only s w (grantBase c / 65536) (grantLen c) (c.dw 7)
    have hvalid : (grantWindow s w (grantBase c / 65536) (grantLen c) (c.dw 7)).get (F.YRD_GRANT_STAT_VALID w) = 1 :=
      get_set_same _ (F.YRD_GRANT_STAT_VALID w) 1
    dsimp only
    rw [lowestFree hw hfree hlow, if_neg (by simp [hfit])]
    refine ⟨ends_ok hd w, ?_⟩
    rw [finishOk_eq hd]
    exact ⟨hvalid, hbase, .other (t := grantWindow s w (grantBase c / 65536) (grantLen c) (c.dw 7)) hframe rfl, rfl⟩
  · refine h.gives (execYardGrant p tag s) rfl rfl ?_
    dsimp only
    rw [if_pos (by simp [hfit])]
    exact ⟨finishWith_ends hd _ _ (by decide) (by decide) _ _, finishWith_cmd_only hd _ _ _ _⟩
  · subst hr
    refine h.gives (execYardQuery p tag s) rfl rfl ?_
    exact ⟨ends_ok hd _, finishOk_eq hd _⟩
  · obtain ⟨y, hy⟩ := begun_with (s := s) hd
    have hrun : exec (.yardRevoke p tag) s = .next (begin_ s c revokeWindow) := h.run fun s c => begin_ s c revokeWindow
    obtain ⟨hrevoke, hvalid⟩ := revokeWindow_parts (t := { s with cmd := y }) (c := runningAs c) he hw
    have heq : begin_ s c revokeWindow = revokeWindow { s with cmd := y } (runningAs c) := by rw [begin_begun, hy]
    refine ⟨_, hrun, ?_, ?_, (execYardRevoke_keeps p tag (Keeps.refl s)).keeps _ hrun⟩
    · rw [heq]
      exact hrevoke
    · rw [heq]
      exact hvalid
  · refine ⟨s, congrArg Host.Outcome.next ?_, rfl⟩
    unfold judgeRevoke
    rw [hnone]
  · have hrun : exec .yardRevokeDone s = .next (judgeRevoke s) := rfl
    obtain ⟨hr, hv⟩ := endRevoke_parts s hw St.done n
    rw [← judgeRevoke_empty hrevoke he] at hr hv
    exact ⟨_, hrun, hr, hv, (execYardRevokeDone_keeps (Keeps.refl s)).keeps _ hrun⟩

end Sys2Proof.Machine

/-! ## Calibration commands (R193, R194, R613, R629, R631)

What a groom's start writes, and with it O37. -/
namespace Sys2Proof.Machine

/-! ### The list of grooms -/

/-- The registers that follow the list of grooms. -/
def groomFields : List Fld := [F.CAL_STATUS_BUSY, F.CAL_STATUS_KIND, F.SYS_STATUS_CAL_STALE]

theorem noteGrooms_only (s : State) : RegsOnly groomFields s (noteGrooms s) :=
  (((RegsOnly.refl _ s).set (f := F.CAL_STATUS_BUSY) _ (by simp [groomFields])).set (f := F.CAL_STATUS_KIND) _
    (by simp [groomFields])).set (f := F.SYS_STATUS_CAL_STALE) _ (by simp [groomFields])

theorem addGroom_eq (s : State) (g : Groom) : addGroom s g = { s with
    regs := (addGroom s g).regs, cal := { s.cal with grooms := s.cal.grooms ++ [{ g with waiting := s.mode.scanning }] } } := by
  unfold addGroom
  conv => lhs; rw [(noteGrooms_only _).1]

theorem addGroom_frame (s : State) (g : Groom) : RegFrame groomFields s (addGroom s g) := by
  unfold addGroom
  exact RegFrame.trans (s := { s with cal := { s.cal with grooms := s.cal.grooms ++ [{ g with waiting := s.mode.scanning }] } })
    (.other (.refl _ s) rfl) (noteGrooms_only _).2

/-- A warm groom that starts is one that is added. -/
theorem startGroom_warm {s : State} {g : Groom} (h : g.full = false) : startGroom s g = addGroom s g := by
  unfold startGroom
  rw [h, Bool.false_and]
  rfl

/-- The impedance check of a groom leaves the grooms, the device state and the commands. -/
theorem groomImpedance_parts (s : State) (mask : Nat) : (groomImpedance s mask).mode = s.mode ∧
    (groomImpedance s mask).cal = s.cal ∧ (groomImpedance s mask).cmd = s.cmd := by
  unfold groomImpedance
  split
  · unfold startImpedance
    dsimp only
    generalize (if s.flag F.RXF_IMP_STATUS_BUSY then mask ||| s.rxf.impFrom.getD 0 else mask) = all
    split <;> exact ⟨rfl, rfl, rfl⟩
  · exact ⟨rfl, rfl, rfl⟩

theorem startGroom_parts (s : State) (g : Groom) : (startGroom s g).mode = s.mode ∧
    (startGroom s g).cal = { s.cal with grooms := s.cal.grooms ++ [{ g with waiting := s.mode.scanning }] } ∧
    (startGroom s g).cmd = s.cmd := by
  have hadd := addGroom_eq s g
  unfold startGroom
  generalize addGroom s g = t at hadd ⊢
  dsimp only
  split
  · obtain ⟨hmode, hcal, hcmd⟩ := groomImpedance_parts t g.mask
    exact ⟨hmode.trans (by rw [hadd]), hcal.trans (by rw [hadd]), hcmd.trans (by rw [hadd])⟩
  · exact ⟨by rw [hadd], by rw [hadd], by rw [hadd]⟩

/-- CLS's groom stops, which touches the grooms alone. -/
theorem stopClsGroom_parts (s : State) : (stopClsGroom s).mode = s.mode ∧ (stopClsGroom s).cmd = s.cmd ∧
    RegFrame groomFields s (stopClsGroom s) := by
  unfold stopClsGroom
  split
  next g _ =>
    have hdrop : ∀ l : List Groom, RegsOnly groomFields { s with cal := { s.cal with grooms := l } }
        (noteGrooms { s with cal := { s.cal with grooms := l } }) := fun l => noteGrooms_only _
    have hall := hdrop (s.cal.grooms.map fun (g : Groom) =>
      { g with mask := maskOut g.mask (2 ^ 16), refused := if false then g.refused ||| (g.mask &&& 2 ^ 16) else g.refused })
    unfold dropFromGrooms
    generalize noteGrooms _ = t at hall ⊢
    refine ⟨by rw [hall.1], by rw [hall.1], ?_⟩
    exact .other (RegFrame.trans (.other (.refl _ s) rfl) hall.2) rfl
  · exact ⟨rfl, rfl, .refl _ s⟩

/-! ### The spare by command (R190, R193, R194) -/

/-- CLS is routed to a cluster in phase 1, and restarts. -/
def routeCls (t : State) (n : Nat) : State :=
  ((t.set F.RXF_SPARE_STATUS_PHASE 1).set F.RXF_SPARE_STATUS_ROUTE n).set (clst 16) Cl.restarting

theorem routeCls_get (t : State) (n : Nat) : (routeCls t n).get F.RXF_SPARE_STATUS_PHASE = 1 ∧
    (routeCls t n).get F.RXF_SPARE_STATUS_ROUTE = n % 16 ∧ (routeCls t n).get (clst 16) = Cl.restarting := by
  unfold routeCls
  refine ⟨?_, ?_, get_set_same _ (clst 16) Cl.restarting⟩
  · rw [get_set_other _ _ (by decide), get_set_other _ _ (by decide), get_set_same]
    rfl
  · rw [get_set_other _ _ (by decide), get_set_same]
    rfl

/-- What CAL_SPARE_ENGAGE does with the command that runs. -/
def engageSpare (t : State) (c : Cmd) : State :=
  if t.get F.RXF_SPARE_STATUS_PHASE = 3 then finishOk t c t.sch.frame
  else
    let v := stopClsGroom (routeCls t (c.dw 4))
    { v with cal := { v.cal with spare := some (c.port, c.tag) } }

theorem engageSpare_routes {t : State} {c : Cmd} (h : t.get F.RXF_SPARE_STATUS_PHASE ≠ 3) :
    (engageSpare t c).cmd = t.cmd ∧ (engageSpare t c).get F.RXF_SPARE_STATUS_PHASE = 1 ∧
    (engageSpare t c).get F.RXF_SPARE_STATUS_ROUTE = c.dw 4 % 16 ∧ (engageSpare t c).get (clst 16) = Cl.restarting ∧
    (engageSpare t c).cal.spare = some (c.port, c.tag) ∧ (engageSpare t c).mode = t.mode := by
  obtain ⟨hphase, hroute, hcls⟩ := routeCls_get t (c.dw 4)
  have hmode : (routeCls t (c.dw 4)).mode = t.mode := rfl
  have hcmd : (routeCls t (c.dw 4)).cmd = t.cmd := rfl
  unfold engageSpare
  rw [if_neg h]
  generalize routeCls t (c.dw 4) = u at *
  obtain ⟨hmode', hcmd', hframe⟩ := stopClsGroom_parts u
  generalize stopClsGroom u = v at *
  exact ⟨hcmd'.trans hcmd, (hframe F.RXF_SPARE_STATUS_PHASE (by decide)).trans hphase,
    (hframe F.RXF_SPARE_STATUS_ROUTE (by decide)).trans hroute, (hframe (clst 16) (by decide)).trans hcls, rfl, hmode'.trans hmode⟩

/-- The cluster that CLS replaces is powered, and the command waits for its groom. -/
def powerReplaced (s : State) (c : Cmd) : State :=
  let t := s.set (clst (s.get F.RXF_SPARE_STATUS_ROUTE)) (if s.mode.scanning then Cl.restarting else Cl.cold)
  { t with cal := { t.cal with spare := some (c.port, c.tag) } }

theorem clst_key_route (n : Nat) : F.RXF_SPARE_STATUS_ROUTE.key ≠ (clst n).key := by
  unfold clst
  split
  · simp only [Fld.key]
    omega
  · split
    · simp only [Fld.key]
      omega
    · decide

/-- What CAL_SPARE_RELEASE does with the command that runs. -/
def releaseSpare (t : State) (c : Cmd) : State :=
  startGroom (powerReplaced t c) ⟨none, false, 2 ^ (powerReplaced t c).get F.RXF_SPARE_STATUS_ROUTE, false, false, true, false, 0⟩

theorem releaseSpare_parts (t : State) (c : Cmd) : (releaseSpare t c).cmd = t.cmd ∧
    (releaseSpare t c).cal.spare = some (c.port, c.tag) ∧ (releaseSpare t c).cal.grooms = t.cal.grooms ++
      [⟨none, false, 2 ^ t.get F.RXF_SPARE_STATUS_ROUTE, false, false, true, t.mode.scanning, 0⟩] := by
  have hroute : (powerReplaced t c).get F.RXF_SPARE_STATUS_ROUTE = t.get F.RXF_SPARE_STATUS_ROUTE :=
    get_set_other _ _ (clst_key_route _)
  obtain ⟨-, hcal, hcmd⟩ := startGroom_parts (powerReplaced t c)
    ⟨none, false, 2 ^ (powerReplaced t c).get F.RXF_SPARE_STATUS_ROUTE, false, false, true, false, 0⟩
  unfold releaseSpare
  rw [hroute] at hcal hcmd ⊢
  exact ⟨hcmd, by rw [hcal]; rfl, by rw [hcal]; rfl⟩

/-! ### The stored calibration (R628 to R630) -/

/-- What CAL_READ does with the command. -/
def readRecord (s : State) (c : Cmd) : State :=
  finishOut { s with free := (calBody s.cal.flash s.free (c.dw 4 % 65536)).2 } c
    (calRecord s.cal.flash (c.dw 4 % 65536) (calBody s.cal.flash s.free (c.dw 4 % 65536)).1) 1

/-- A store that has passed its read-backs. -/
def storeKept (s : State) : State :=
  let t := s.set F.CAL_STATUS_STORE_BUSY 0
  let v := t.get F.CAL_VERSION_WORKING
  let u := ((t.set F.CAL_VERSION_STORED v).set F.CAL_FLASH_A_OK 1).set F.CAL_FLASH_B_OK 1
  { u with cal := { u.cal with flash := { u.cal.work with version := v }, flashBad := [], valid := true } }

theorem storeKept_get (s : State) : (storeKept s).get F.CAL_STATUS_STORE_BUSY = 0 ∧
    (storeKept s).get F.CAL_VERSION_STORED = s.get F.CAL_VERSION_WORKING % 2 ^ F.CAL_VERSION_STORED.width := by
  unfold storeKept
  constructor
  all_goals simp (disch := decide) only [get_getReg, State.set_regs, getReg_setReg_other, getReg_setReg] <;> rfl

theorem execCalStoreDone_runs {s : State} (h : s.flag F.CAL_STATUS_STORE_BUSY = true) :
    execCalStoreDone false s = .next (finishRunning (s.set F.CAL_STATUS_STORE_BUSY 0) 0x0701 St.hwFault 0) ∧
    execCalStoreDone true s = .next (finishRunning (storeKept s) 0x0701 St.done
      ((s.set F.CAL_STATUS_STORE_BUSY 0).get F.CAL_VERSION_WORKING)) := by
  unfold execCalStoreDone
  rw [h]
  exact ⟨rfl, rfl⟩

/-! ### The obligation -/

/-- The clauses of the commands that run on. -/
theorem calibration_runs {s : State} (p : Port) (tag : Nat) {c : Cmd} (hd : c.discard = false) :
    (Ready s p tag 0x0700 calGroomCheck c → Gives (.calGroom p tag) s (fun t => Running t c ∧ (c.first = false → Accepted t c) ∧
      t.mode = s.mode ∧ t.cal.grooms = s.cal.grooms ++ [⟨some (c.port, c.tag), bit (c.dw 4) 0, c.dw 5 % 2 ^ 17, false, false,
        false, s.mode.scanning, 0⟩])) ∧
    (Ready s p tag 0x0701 calStoreCheck c → Gives (.calStore p tag) s (fun t => Running t c ∧ (c.first = false → Accepted t c) ∧
      t.get F.CAL_STATUS_STORE_BUSY = 1 ∧ RegFrame [F.CAL_STATUS_STORE_BUSY] s t ∧ t = { s with regs := t.regs, cmd := t.cmd })) ∧
    (Ready s p tag 0x0703 engageCheck c →
      (s.get F.RXF_SPARE_STATUS_PHASE ≠ 3 → Gives (.calSpareEngage p tag) s (fun t => Running t c ∧
        (c.first = false → Accepted t c) ∧ t.get F.RXF_SPARE_STATUS_PHASE = 1 ∧ t.get F.RXF_SPARE_STATUS_ROUTE = c.dw 4 % 16 ∧
        t.get (clst 16) = Cl.restarting ∧ t.cal.spare = some (c.port, c.tag) ∧ t.mode = s.mode)) ∧
      (s.get F.RXF_SPARE_STATUS_PHASE = 3 → Gives (.calSpareEngage p tag) s (fun t => Ends t c St.done s.sch.frame ∧
        t = { s with cmd := t.cmd }))) ∧
    (Ready s p tag 0x0704 releaseCheck c → Gives (.calSpareRelease p tag) s (fun t => Running t c ∧
      (c.first = false → Accepted t c) ∧ t.cal.spare = some (c.port, c.tag) ∧ t.cal.grooms = s.cal.grooms ++
        [⟨none, false, 2 ^ s.get F.RXF_SPARE_STATUS_ROUTE, false, false, true, s.mode.scanning, 0⟩])) := by
  obtain ⟨y, hy⟩ := begun_with (s := s) hd
  have hcmd : ({ s with cmd := y } : State).cmd = (begun s c).cmd := by rw [hy]
  refine ⟨fun h => ?_, fun h => ?_, fun h => ⟨fun hp => ?_, fun hp => ?_⟩, fun h => ?_⟩
  · refine h.gives (execCalGroom p tag s) rfl rfl ?_
    rw [begin_begun, hy]
    obtain ⟨hmode, hcal, hcmd'⟩ := startGroom_parts { s with cmd := y }
      ⟨some (c.port, c.tag), bit (c.dw 4) 0, c.dw 5 % 2 ^ 17, false, false, false, false, 0⟩
    obtain ⟨hruns, hacc⟩ := begun_in hd h.mem (hcmd'.trans hcmd)
    exact ⟨hruns, hacc, hmode, congrArg CalSt.grooms hcal⟩
  · refine h.gives (execCalStore p tag s) rfl rfl ?_
    rw [begin_begun, hy]
    obtain ⟨hruns, hacc⟩ := begun_in (t := ({ s with cmd := y } : State).set F.CAL_STATUS_STORE_BUSY 1) hd h.mem hcmd
    exact ⟨hruns, hacc, get_set_same _ F.CAL_STATUS_STORE_BUSY 1, .other (.setOne s F.CAL_STATUS_STORE_BUSY 1) rfl, rfl⟩
  · refine h.gives (run := fun s c => begin_ s c engageSpare) (execCalSpareEngage p tag s) rfl rfl ?_
    rw [begin_begun, hy]
    obtain ⟨hcmd', hphase, hroute, hcls, hspare, hmode⟩ := engageSpare_routes (t := { s with cmd := y }) (c := runningAs c) hp
    obtain ⟨hruns, hacc⟩ := begun_in hd h.mem (hcmd'.trans hcmd)
    exact ⟨hruns, hacc, hphase, hroute, hcls, hspare, hmode⟩
  · refine h.gives (run := fun s c => begin_ s c engageSpare) (execCalSpareEngage p tag s) rfl rfl ?_
    have hends : engageSpare { s with cmd := y } (runningAs c) = finishOk { s with cmd := y } (runningAs c) s.sch.frame := if_pos hp
    rw [begin_begun, hy, hends]
    exact ⟨ends_ok (c := runningAs c) hd _, finishOk_eq (c := runningAs c) hd _⟩
  · refine h.gives (run := fun s c => begin_ s c releaseSpare) (execCalSpareRelease p tag s) rfl rfl ?_
    rw [begin_begun, hy]
    obtain ⟨hcmd', hspare, hgrooms⟩ := releaseSpare_parts { s with cmd := y } (runningAs c)
    obtain ⟨hruns, hacc⟩ := begun_in hd h.mem (hcmd'.trans hcmd)
    exact ⟨hruns, hacc, hspare, hgrooms⟩

/-- The clauses of CAL_READ. -/
theorem calRead_gives {s : State} {p : Port} {tag : Nat} {c : Cmd} (hd : c.discard = false)
    (h : Ready s p tag 0x0702 (fun s c => stdCheck s c false false false) c) :
    (∀ d : List Byte,
      d = (calRecord s.cal.flash (c.dw 4 % 65536) (calBody s.cal.flash s.free (c.dw 4 % 65536)).1).take (64 * c.paramLen) →
      (c.port = .ring → pcieUsable s = true) → Gives (.calRead p tag) s (fun t => Ends t c St.done d.length ∧ Delivers s t c d ∧
        t.cal = s.cal ∧ t.regs = s.regs)) ∧
    (c.port = .ring → pcieUsable s = false →
      Gives (.calRead p tag) s (fun t => Ends t c St.timeout 0 ∧ t.regs = s.regs ∧ t.tx = s.tx)) := by
  refine ⟨fun d hdata hu => ?_, fun hp hu => ?_⟩
  · subst hdata
    refine h.gives (run := readRecord) (execCalRead p tag s) rfl rfl ?_
    obtain ⟨hends, hdel, heq⟩ := finishOut_delivers (s := { s with free := (calBody s.cal.flash s.free (c.dw 4 % 65536)).2 })
      (calRecord s.cal.flash (c.dw 4 % 65536) (calBody s.cal.flash s.free (c.dw 4 % 65536)).1) 1 hd hu
    rw [Nat.div_one, Nat.mul_one] at hends hdel
    unfold readRecord
    exact ⟨hends, hdel, by rw [heq], by rw [heq]⟩
  · refine h.gives (run := readRecord) (execCalRead p tag s) rfl rfl ?_
    have hrun : readRecord s c = _ :=
      finishOut_timeout (s := { s with free := (calBody s.cal.flash s.free (c.dw 4 % 65536)).2 }) _ 1 hp hu
    rw [hrun]
    refine ⟨finishWith_ends hd _ _ (by decide) (by decide) _ _, ?_, ?_⟩
    all_goals rw [finish_finishWith, finishWith_cmd_only hd]

/-- An automatic groom starts where it is due. -/
theorem execAutoGroomStart_due {s : State} {n : Fin 16} {u : Int} (ha : s.flag F.CAL_CTRL_AUTO_EN = true)
    (hu : lastGroomT s n = some u) (hm : 4 * s.get F.CAL_CTRL_REGROOM_DT ≤ (s.rxf.tAd - u).natAbs) (hg : s.cal.grooms = [])
    (hs : s.mode = .ready ∨ s.mode.scanning = true) (hp : s.get F.RXF_SPARE_STATUS_PHASE = 0 ∨ s.get F.RXF_SPARE_STATUS_PHASE = 5) :
    execAutoGroomStart n s = .next (startGroom s ⟨none, false, 2 ^ n.val, false, false, false, false, 0⟩) := by
  unfold execAutoGroomStart
  dsimp only
  rw [hu, ha, hg]
  refine if_pos ?_
  simpa [hm, hp] using hs

/-- Settles O37: a command that runs on by the state in which it has begun (`begun_in`), and the grooms by what their start writes
(`startGroom_parts`). -/
theorem calibrationCommands : Obligations.CalibrationCommands := by
  unfold Obligations.CalibrationCommands
  refine fun s => ⟨fun p tag c hd => ?_, fun hb => ?_, fun n ha => ?_, fun n u ha hu hm hg hs hp => ?_⟩
  · obtain ⟨hgroom, hstore, hengage, hrelease⟩ := calibration_runs (s := s) p tag hd
    exact ⟨hgroom, hstore, fun h => (calRead_gives hd h).1, fun h => (calRead_gives hd h).2, hengage, hrelease⟩
  · obtain ⟨hfail, hpass⟩ := execCalStoreDone_runs hb
    have hget (t : State) (st r : Nat) (f : Fld) (hf : f.key ≠ F.CMD_ERR_CNT_DISCARD_CNT.key) :
        (finishRunning t 0x0701 st r).get f = t.get f := finishRunning_frame t 0x0701 st r f (by simpa using hf)
    have hcal (t : State) (st r : Nat) : (finishRunning t 0x0701 st r).cal = t.cal := (finishRunning_completes t 0x0701 st r).cal
    obtain ⟨hbusy, hstored⟩ := storeKept_get s
    have hversion : (s.set F.CAL_STATUS_STORE_BUSY 0).get F.CAL_VERSION_WORKING = s.get F.CAL_VERSION_WORKING :=
      get_set_other _ _ (by decide)
    refine ⟨⟨_, hfail, ?_, hcal _ _ _⟩, ⟨_, hpass, ?_, ?_, ?_, ?_, ?_⟩⟩
    · exact (hget _ _ _ _ (by decide)).trans (get_set_same s F.CAL_STATUS_STORE_BUSY 0)
    · exact (hget _ _ _ _ (by decide)).trans hbusy
    · rw [hcal, ← hversion]
      rfl
    · rw [hcal]
      rfl
    · rw [hcal]
      rfl
    · exact (hget _ _ _ _ (by decide)).trans hstored
  · refine ⟨s, if_neg ?_, rfl⟩
    simp [ha]
  · obtain ⟨hmode, hcal, -⟩ := startGroom_parts s ⟨none, false, 2 ^ n.val, false, false, false, false, 0⟩
    refine ⟨_, execAutoGroomStart_due ha hu hm hg hs hp, hmode, ?_⟩
    rw [hcal, hg]
    rfl

end Sys2Proof.Machine

/-! ## The end of a groom (R613 to R615, R624 to R627)

What the judgement of a groom's clusters leaves, and with it O38. -/
namespace Sys2Proof.Machine

/-! ### What leaves the list of grooms -/

/-- The device state, the commands and the stored calibration are as they were, and as many grooms stand in the list. -/
structure GroomsKept (s t : State) : Prop where
  mode : t.mode = s.mode
  cmd : t.cmd = s.cmd
  flash : t.cal.flash = s.cal.flash
  length : t.cal.grooms.length = s.cal.grooms.length

/-- The grooms themselves are as they were, too. -/
structure GroomsSame (s t : State) : Prop extends GroomsKept s t where
  grooms : t.cal.grooms = s.cal.grooms

theorem GroomsKept.refl (s : State) : GroomsKept s s := ⟨rfl, rfl, rfl, rfl⟩

theorem GroomsKept.trans {r s t : State} (h : GroomsKept r s) (k : GroomsKept s t) : GroomsKept r t :=
  ⟨k.mode.trans h.mode, k.cmd.trans h.cmd, k.flash.trans h.flash, k.length.trans h.length⟩

theorem GroomsKept.ite {s t u : State} {c : Prop} [Decidable c] (h : GroomsKept s t) (k : GroomsKept s u) :
    GroomsKept s (if c then t else u) := by
  split <;> assumption

theorem GroomsKept.set {s t : State} (h : GroomsKept s t) (f : Fld) (v : Nat) : GroomsKept s (t.set f v) :=
  ⟨h.mode, h.cmd, h.flash, h.length⟩

theorem GroomsSame.of {s t : State} (hm : t.mode = s.mode) (hc : t.cmd = s.cmd) (hf : t.cal.flash = s.cal.flash)
    (hg : t.cal.grooms = s.cal.grooms) : GroomsSame s t := ⟨⟨hm, hc, hf, congrArg List.length hg⟩, hg⟩

theorem GroomsSame.refl (s : State) : GroomsSame s s := .of rfl rfl rfl rfl

theorem GroomsSame.trans {r s t : State} (h : GroomsSame r s) (k : GroomsSame s t) : GroomsSame r t :=
  ⟨h.toGroomsKept.trans k.toGroomsKept, k.grooms.trans h.grooms⟩

theorem GroomsSame.ite {s t u : State} {c : Prop} [Decidable c] (h : GroomsSame s t) (k : GroomsSame s u) :
    GroomsSame s (if c then t else u) := by
  split <;> assumption

theorem GroomsSame.set {s t : State} (h : GroomsSame s t) (f : Fld) (v : Nat) : GroomsSame s (t.set f v) :=
  .of h.mode h.cmd h.flash h.grooms

theorem raiseFault_groomsSame (s : State) (cls code detail : Nat) : GroomsSame s (raiseFault s cls code detail) :=
  have hcal := raiseFault_cal s cls code detail
  .of (raiseFault_mode ..) (raiseFault_cmd ..) (by rw [hcal]) (by rw [hcal])

theorem Notes.groomsSame {s t : State} (h : Notes s t) : GroomsSame s t := by
  rw [h.eq]
  exact .of rfl rfl rfl rfl

theorem noteGrooms_groomsSame (s : State) : GroomsSame s (noteGrooms s) := by
  rw [(noteGrooms_only s).1]
  exact .of rfl rfl rfl rfl

theorem openGaps_notes (s : State) (dirs : List Nat) (short : Bool) : Notes s (openGaps s dirs short) :=
  .trans (.foldl (fun u x => (openGap_notes u .a x short).trans (openGap_notes _ .b x short)) dirs (.refl s)) (settle_notes _)

theorem withdrawCluster_groomsSame (s : State) (n code : Nat) : GroomsSame s (withdrawCluster s n code) :=
  (((GroomsSame.refl s).set (F.RXF_CL_STATUS_WITHDRAWN n) 1).trans (raiseFault_groomsSame _ 2 code n)).trans
    (openGaps_notes _ _ _).groomsSame

theorem dropFromGrooms_kept (s : State) (m : Nat) (refused : Bool) : GroomsKept s (dropFromGrooms s m refused) := by
  unfold dropFromGrooms
  refine GroomsKept.trans ?_ (noteGrooms_groomsSame _).toGroomsKept
  exact ⟨rfl, rfl, rfl, List.length_map _⟩

theorem stopClsGroom_kept (s : State) : GroomsKept s (stopClsGroom s) := by
  unfold stopClsGroom
  split
  · have hdrop := dropFromGrooms_kept s (2 ^ 16) false
    exact ⟨hdrop.mode, hdrop.cmd, hdrop.flash, hdrop.length⟩
  · exact .refl s

/-- A front-end fault takes clusters out of grooms, and no groom off the list. -/
theorem feFault_kept (s : State) (n : Nat) : GroomsKept s (feFault s n) := by
  unfold feFault
  dsimp only
  have hmark := (GroomsKept.refl s).set (F.RXF_CL_STATUS_FE_FAULT n) 1
  have hdrop : GroomsKept s (if inGroom s n then
      (dropFromGrooms (s.set (F.RXF_CL_STATUS_FE_FAULT n) 1) (2 ^ n) true).set F.CAL_REFUSED (s.get F.CAL_REFUSED ||| 2 ^ n)
      else s.set (F.RXF_CL_STATUS_FE_FAULT n) 1) := .ite ((hmark.trans (dropFromGrooms_kept _ _ _)).set _ _) hmark
  generalize (if inGroom s n then _ else _) = t at hdrop ⊢
  have hraise (u : State) (cls code detail : Nat) (h : GroomsKept s u) : GroomsKept s (raiseFault u cls code detail) :=
    h.trans (raiseFault_groomsSame ..).toGroomsKept
  have hwithdraw (u : State) (m code : Nat) (h : GroomsKept s u) : GroomsKept s (withdrawCluster u m code) :=
    h.trans (withdrawCluster_groomsSame ..).toGroomsKept
  refine .ite (.refl s) (.ite (.ite (hraise _ _ _ _ (hdrop.set _ _)) (.ite (hwithdraw _ _ _ (hdrop.set _ _))
    (.ite (hwithdraw _ _ _ hdrop) hdrop))) (.ite (hraise _ _ _ _ ?_) (hwithdraw _ _ _ hdrop)))
  exact (((hdrop.set _ _).set _ _).set _ _).trans (stopClsGroom_kept _)

/-! ### The judgement of a cluster (R624, R625) -/

/-- Full grooms of no command may follow those in the list. -/
structure GroomsGrow (s t : State) : Prop where
  mode : t.mode = s.mode
  cmd : t.cmd = s.cmd
  flash : t.cal.flash = s.cal.flash
  grow : ∃ l : List Groom, t.cal.grooms = s.cal.grooms ++ l ∧ ∀ x ∈ l, x.full = true ∧ x.cmd = none

theorem GroomsSame.grow {s t : State} (h : GroomsSame s t) : GroomsGrow s t :=
  ⟨h.mode, h.cmd, h.flash, [], by rw [h.grooms, List.append_nil], fun _ hx => by cases hx⟩

theorem GroomsGrow.trans {r s t : State} (h : GroomsGrow r s) (k : GroomsGrow s t) : GroomsGrow r t := by
  obtain ⟨l, hl, hfull⟩ := h.grow
  obtain ⟨m, hm, hfull'⟩ := k.grow
  refine ⟨k.mode.trans h.mode, k.cmd.trans h.cmd, k.flash.trans h.flash, l ++ m, by rw [hm, hl, List.append_assoc], fun x hx => ?_⟩
  exact (List.mem_append.1 hx).elim (hfull x) (hfull' x)

theorem GroomsGrow.ite {s t u : State} {c : Prop} [Decidable c] (h : GroomsGrow s t) (k : GroomsGrow s u) :
    GroomsGrow s (if c then t else u) := by
  split <;> assumption

theorem keepPreset_groomsSame (s : State) (lane : Nat) (eyes : List (Nat × Nat)) : GroomsSame s (keepPreset s lane eyes) :=
  .of rfl rfl rfl rfl

theorem noteQuality_groomsSame (s : State) (full : Bool) (cl code : Nat) (l : List (ChanMeas × Trim)) :
    GroomsSame s (noteQuality s full cl code l) := ((((GroomsSame.refl s).set _ _).set _ _).set _ _).set _ _

theorem acceptFull_groomsSame (s : State) (c : ClusterMeas) (l : List (ChanMeas × Trim)) : GroomsSame s (acceptFull s c l) := by
  unfold acceptFull
  dsimp only
  split
  · refine GroomsSame.trans ?_ (keepPreset_groomsSame _ _ _)
    exact .of rfl rfl rfl rfl
  · exact .of rfl rfl rfl rfl

theorem acceptWarm_groomsSame (s : State) (c : ClusterMeas) (l : List (ChanMeas × Trim)) : GroomsSame s (acceptWarm s c l) :=
  .of rfl rfl rfl rfl

/-- A full groom that refuses a cluster takes no groom off the list and adds none. -/
theorem refuseCluster_full {s : State} {g : Groom} (hg : g.full = true) (cl : Nat) : GroomsKept s (refuseCluster s g cl) := by
  unfold refuseCluster
  dsimp only
  rw [hg, if_pos rfl]
  exact (((GroomsKept.refl s).set F.CAL_REFUSED _).trans (raiseFault_groomsSame _ _ _ _).toGroomsKept).trans (feFault_kept _ cl)

/-- A warm groom that refuses a cluster has it groomed in full. -/
theorem refuseCluster_warm {s : State} {g : Groom} (hg : g.full = false) (cl : Nat) : GroomsGrow s (refuseCluster s g cl) := by
  unfold refuseCluster
  dsimp only
  rw [hg, if_neg Bool.false_ne_true]
  have hfault : GroomsSame s (raiseFault (s.set F.CAL_REFUSED (s.get F.CAL_REFUSED ||| 2 ^ cl)) 0 0x1101 cl) :=
    ((GroomsSame.refl s).set _ _).trans (raiseFault_groomsSame ..)
  generalize raiseFault _ 0 0x1101 cl = u at hfault ⊢
  refine .ite hfault.grow (hfault.grow.trans ?_)
  have howed : GroomsSame u { u.set F.CAL_STATUS_STALE (u.get F.CAL_STATUS_STALE ||| 2 ^ cl) with
    cal := { u.cal with owed := setBit u.cal.owed cl } } := .of rfl rfl rfl rfl
  refine howed.grow.trans ?_
  generalize ({ u.set F.CAL_STATUS_STALE _ with cal := _ } : State) = v
  obtain ⟨hmode, hcal, hcmd⟩ := startGroom_parts v ⟨none, true, 2 ^ cl, true, false, false, false, 0⟩
  exact ⟨hmode, hcmd, by rw [hcal], _, by rw [hcal], fun x hx => by rw [List.mem_singleton.1 hx]; exact ⟨rfl, rfl⟩⟩

theorem judgeCluster_full {g : Groom} (hg : g.full = true) (extRun : Bool) (ref : List Int) (acc : State × Nat) (c : ClusterMeas) :
    GroomsKept acc.1 (judgeCluster g extRun ref acc c).1 := by
  obtain ⟨s, refused⟩ := acc
  unfold judgeCluster
  dsimp only
  generalize measureCluster s g.full extRun c = l
  generalize firstFail s g.full extRun ref c l = f
  generalize (if f = 0 && !g.full && !hasRecord s c.cl then 1 else f) = code
  have hnote := (noteQuality_groomsSame s g.full c.cl f l).toGroomsKept
  split
  · exact hnote.trans (acceptFull_groomsSame _ _ _).toGroomsKept
  · exact hnote.trans (refuseCluster_full hg _)

theorem judgeCluster_warm {g : Groom} (hg : g.full = false) (extRun : Bool) (ref : List Int) (acc : State × Nat) (c : ClusterMeas) :
    GroomsGrow acc.1 (judgeCluster g extRun ref acc c).1 := by
  obtain ⟨s, refused⟩ := acc
  unfold judgeCluster
  dsimp only
  generalize measureCluster s g.full extRun c = l
  generalize firstFail s g.full extRun ref c l = f
  generalize (if f = 0 && !g.full && !hasRecord s c.cl then 1 else f) = code
  have hnote := (noteQuality_groomsSame s g.full c.cl f l).grow
  split
  · exact hnote.trans (.ite (acceptFull_groomsSame _ _ _).grow (acceptWarm_groomsSame _ _ _).grow)
  · exact hnote.trans (refuseCluster_warm hg _)

/-! ### What a groom loads (R620, R621, R626) -/

/-- ZERO takes a measured value, or the measurement is refused. -/
def takeZero (s : State) : Option Int → State
  | some z =>
    let u := s.set F.TDC_ZERO z.toNat
    { u with cal := { u.cal with work := { u.cal.work with zero := z.toNat } } }
  | none => raiseFault (s.set F.CAL_STATUS_ZERO_REFUSED 1) 2 0x1103 0

/-- PZERO takes a measured value, or the measurement is refused. -/
def takePzero (t : State) : Option Int → State
  | some z =>
    let u := t.setInt F.RED_PZERO z
    { u with cal := { u.cal with work := { u.cal.work with pzero := z } } }
  | none => raiseFault (t.set F.CAL_STATUS_ZERO_REFUSED 1) 2 0x1103 1

theorem groomZero_measured {s : State} {full : Bool} (h : ¬ (!full || !(s.mode.scanning && s.get F.CAL_CG_CG_DIST != 0)) = true)
    (zero pzero : Nat × Nat) : ∃ q p : Option Int, groomZero s full zero pzero =
      if s.get F.RED_STATUS_MODE != 1 then takeZero s q else takePzero (takeZero s q) p := by
  refine ⟨runsResult (zeroOf s zero.1) (zeroOf s zero.2) (Int.ofNat s.cal.flash.zero),
    runsResult (zeroOf s pzero.1 - zeroOf s zero.1) (zeroOf s pzero.2 - zeroOf s zero.2) s.cal.flash.pzero, ?_⟩
  unfold groomZero
  rw [if_neg h]
  generalize runsResult (zeroOf s zero.1) (zeroOf s zero.2) (Int.ofNat s.cal.flash.zero) = q
  generalize runsResult _ _ s.cal.flash.pzero = p
  cases q <;> cases p <;> rfl

theorem groomZero_groomsSame (s : State) (full : Bool) (zero pzero : Nat × Nat) : GroomsSame s (groomZero s full zero pzero) := by
  have hrefused (t : State) (d : Nat) : GroomsSame t (raiseFault (t.set F.CAL_STATUS_ZERO_REFUSED 1) 2 0x1103 d) :=
    ((GroomsSame.refl t).set _ 1).trans (raiseFault_groomsSame ..)
  have hzero (q : Option Int) : GroomsSame s (takeZero s q) := by
    cases q
    · exact hrefused s 0
    · exact .of rfl rfl rfl rfl
  have hpzero (t : State) (p : Option Int) : GroomsSame t (takePzero t p) := by
    cases p
    · exact hrefused t 1
    · exact .of rfl rfl rfl rfl
  by_cases h : (!full || !(s.mode.scanning && s.get F.CAL_CG_CG_DIST != 0)) = true
  · unfold groomZero
    rw [if_pos h]
    exact .of rfl rfl rfl rfl
  · obtain ⟨q, p, heq⟩ := groomZero_measured h zero pzero
    rw [heq]
    exact .ite (hzero q) ((hzero q).trans (hpzero _ p))

theorem newTables_groomsSame (s : State) : GroomsSame s (newTables s) := .of rfl rfl rfl rfl

theorem loadTables_groomsSame (s : State) (full : Bool) : GroomsSame s (loadTables s full) := .of rfl rfl rfl rfl

/-! ### The end of a groom -/

/-- The clusters that a groom measures. -/
def groomMeas (g : Groom) (meas : List ClusterMeas) : List ClusterMeas :=
  (List.range 17).filterMap fun n =>
    if bit g.mask n then some ((meas.find? fun (c : ClusterMeas) => c.cl == n).getD { cl := n, control := 0, eyes := [], chans := [] })
    else none

/-- The groom off the list, and its clusters judged. -/
def groomJudged (s : State) (n : Nat) (g : Groom) (meas : List ClusterMeas) : State × Nat :=
  (groomMeas g meas).foldl
    (judgeCluster g (s.mode == .ready && s.flag F.RXF_APDB_STAT_SETTLED)
      (walkRef s g (s.mode == .ready && s.flag F.RXF_APDB_STAT_SETTLED) (groomMeas g meas)))
    ({ s with cal := { s.cal with grooms := s.cal.grooms.eraseIdx n } }, g.refused)

/-- What a groom loads once its clusters are judged. -/
def groomLoaded (t : State) (g : Groom) (refused : Nat) (sb : List (List (Nat × Nat))) (zero pzero : Nat × Nat) : State :=
  let u := groomZero t g.full zero pzero
  let u := if g.full && g.mask &&& refused != g.mask then newTables u else loadTables u g.full
  if g.full && g.startUp then (sb.take 2).zipIdx.foldl (fun x e => keepPreset x (16 + e.2) e.1) u else u

/-- The start-up goes on after its groom. -/
def groomGoesOn (v : State) (g : Groom) (refused : Nat) : State :=
  let w := noteGrooms (if g.startUp && refused != 0 then stepFailed v 5 else v)
  if g.startUp && w.mode == .standby && w.step == 5 then startAt w 6 else w

/-- A groom that is running ends. -/
def groomEnded (u : State) (g : Groom) (refused : Nat) : State :=
  groomGoesOn (if g.release then endRelease u refused else finishGroom u g St.done refused) g refused

theorem execGroomDone_ends {s : State} {n : Nat} {g : Groom} (h : s.cal.grooms[n]? = some g) (hw : g.waiting = false)
    (meas : List ClusterMeas) (sb : List (List (Nat × Nat))) (zero pzero : Nat × Nat) :
    execGroomDone n meas sb zero pzero s = .next (groomEnded (groomLoaded (groomJudged s n g meas).1 g (groomJudged s n g meas).2
      sb zero pzero) g (groomJudged s n g meas).2) := by
  unfold execGroomDone
  rw [h]
  dsimp only
  rw [hw]
  rfl

theorem groomLoaded_groomsSame (t : State) (g : Groom) (refused : Nat) (sb : List (List (Nat × Nat))) (zero pzero : Nat × Nat) :
    GroomsSame t (groomLoaded t g refused sb zero pzero) := by
  have hzero := groomZero_groomsSame t g.full zero pzero
  unfold groomLoaded
  dsimp only
  generalize groomZero t g.full zero pzero = u at hzero ⊢
  have htables : GroomsSame t (if g.full && g.mask &&& refused != g.mask then newTables u else loadTables u g.full) :=
    hzero.trans (.ite (newTables_groomsSame u) (loadTables_groomsSame u _))
  generalize (if g.full && g.mask &&& refused != g.mask then newTables u else loadTables u g.full) = v at htables ⊢
  refine .ite ?_ htables
  exact List.foldlRecOn (motive := fun x => GroomsSame t x) _ _ htables fun x hx e _ => hx.trans (keepPreset_groomsSame _ _ _)

theorem groomGoesOn_groomsSame (v : State) (g : Groom) (refused : Nat) : GroomsSame v (groomGoesOn v g refused) := by
  unfold groomGoesOn
  have hfail : GroomsSame v (if g.startUp && refused != 0 then stepFailed v 5 else v) :=
    .ite ((GroomsSame.refl v).set F.SYS_START_FAIL_STEP 5) (.refl v)
  have hnote := hfail.trans (noteGrooms_groomsSame _)
  generalize noteGrooms _ = w at hnote ⊢
  exact .ite (hnote.set F.SYS_STATUS_STEP 6) hnote

/-- However a groom ends, the device state, the stored calibration and the other grooms stay. -/
theorem groomEnded_parts (u : State) (g : Groom) (refused : Nat) : (groomEnded u g refused).mode = u.mode ∧
    (groomEnded u g refused).cal.flash = u.cal.flash ∧ (groomEnded u g refused).cal.grooms = u.cal.grooms := by
  have hcompletes {v w : State} (h : Completes v w) : w.mode = v.mode ∧ w.cal = v.cal := ⟨h.mode, h.cal⟩
  have hrelease : (endRelease u refused).mode = u.mode ∧ (endRelease u refused).cal.flash = u.cal.flash ∧
      (endRelease u refused).cal.grooms = u.cal.grooms := by
    unfold endRelease
    split
    · exact ⟨rfl, rfl, rfl⟩
    · dsimp only
      obtain ⟨hmode, hcal⟩ := hcompletes (finishRunning_completes { u.set (clst (u.get F.RXF_SPARE_STATUS_ROUTE)) Cl.off with
        cal := { u.cal with spare := none } } 0x0704 St.hwFault 0)
      exact ⟨hmode, by rw [State.set_cal, hcal], by rw [State.set_cal, hcal]⟩
  have hfinish : (finishGroom u g St.done refused).mode = u.mode ∧ (finishGroom u g St.done refused).cal = u.cal := by
    unfold finishGroom
    split
    · split
      · exact ⟨finishWith_mode .., finishWith_cal ..⟩
      · exact ⟨rfl, rfl⟩
    · exact ⟨rfl, rfl⟩
  have hgo := groomGoesOn_groomsSame (if g.release then endRelease u refused else finishGroom u g St.done refused) g refused
  unfold groomEnded
  rw [hgo.mode, hgo.flash, hgo.grooms]
  split
  · exact hrelease
  · exact ⟨hfinish.1, by rw [hfinish.2], by rw [hfinish.2]⟩

/-! ### The obligation -/

theorem groomJudged_full (s : State) (n : Nat) {g : Groom} (hg : g.full = true) (meas : List ClusterMeas) :
    GroomsKept { s with cal := { s.cal with grooms := s.cal.grooms.eraseIdx n } } (groomJudged s n g meas).1 :=
  List.foldlRecOn (motive := fun (acc : State × Nat) =>
    GroomsKept { s with cal := { s.cal with grooms := s.cal.grooms.eraseIdx n } } acc.1) _ _ (.refl _)
    fun acc h c _ => h.trans (judgeCluster_full hg _ _ acc c)

theorem groomJudged_warm (s : State) (n : Nat) {g : Groom} (hg : g.full = false) (meas : List ClusterMeas) :
    GroomsGrow { s with cal := { s.cal with grooms := s.cal.grooms.eraseIdx n } } (groomJudged s n g meas).1 :=
  List.foldlRecOn (motive := fun (acc : State × Nat) =>
    GroomsGrow { s with cal := { s.cal with grooms := s.cal.grooms.eraseIdx n } } acc.1) _ _ (GroomsSame.refl _).grow
    fun acc h c _ => h.trans (judgeCluster_warm hg _ _ acc c)

/-- A groom of no cluster judges none. -/
theorem groomJudged_none (s : State) (n : Nat) {g : Groom} (hg : g.mask = 0) (meas : List ClusterMeas) :
    groomJudged s n g meas = ({ s with cal := { s.cal with grooms := s.cal.grooms.eraseIdx n } }, g.refused) := by
  have hmeas : groomMeas g meas = [] := by
    unfold groomMeas
    rw [hg]
    refine List.filterMap_eq_nil_iff.2 fun n _ => if_neg ?_
    simp [bit]
  unfold groomJudged
  rw [hmeas]
  rfl

/-- Whatever a groom finds, the device state, the commands and the stored calibration stay as it is judged. -/
theorem groomJudged_parts (s : State) (n : Nat) (g : Groom) (meas : List ClusterMeas) : (groomJudged s n g meas).1.mode = s.mode ∧
    (groomJudged s n g meas).1.cmd = s.cmd ∧ (groomJudged s n g meas).1.cal.flash = s.cal.flash := by
  cases hg : g.full
  · obtain ⟨hmode, hcmd, hflash, -⟩ := groomJudged_warm s n hg meas
    exact ⟨hmode, hcmd, hflash⟩
  · obtain ⟨hmode, hcmd, hflash, -⟩ := groomJudged_full s n hg meas
    exact ⟨hmode, hcmd, hflash⟩

/-- The command of a groom that is no release ends with the clusters refused. -/
theorem groomEnded_ends {u : State} {g : Groom} (refused : Nat) {p : Port} {tag : Nat} {c : Cmd} (hg : g.cmd = some (p, tag))
    (hr : g.release = false) (hd : c.discard = false)
    (hc : u.cmd.cmds.find? (fun x => x.port == p && x.tag == tag && x.phase == .running) = some c) :
    Ends (groomEnded u g refused) c St.done refused := by
  have hfinish : finishGroom u g St.done refused = finishOk u c refused := by
    unfold finishGroom
    rw [hg]
    dsimp only
    rw [hc]
    rfl
  unfold groomEnded Ends
  rw [(groomGoesOn_groomsSame _ g refused).cmd, hr, if_neg Bool.false_ne_true, hfinish]
  exact ends_ok hd refused

/-- Settles O38: a groom is judged cluster by cluster (`judgeCluster_full`, `judgeCluster_warm`), then loaded and ended, which leave the
list. -/
theorem groomDoneEnds : Obligations.GroomDoneEnds := by
  unfold Obligations.GroomDoneEnds
  refine fun s n meas sb zero pzero => ⟨fun hn => ⟨s, ?_, rfl⟩, fun g hg hw => ⟨s, ?_, rfl⟩, fun g hg hw => ?_⟩
  · show execGroomDone n meas sb zero pzero s = _
    unfold execGroomDone
    rw [List.getElem?_eq_none hn]
  · show execGroomDone n meas sb zero pzero s = _
    unfold execGroomDone
    rw [hg]
    exact if_pos hw
  · have hrun := execGroomDone_ends hg hw meas sb zero pzero
    obtain ⟨hmode, hcmd, hflash⟩ := groomJudged_parts s n g meas
    have hload := groomLoaded_groomsSame (groomJudged s n g meas).1 g (groomJudged s n g meas).2 sb zero pzero
    obtain ⟨hmode', hflash', hgrooms'⟩ := groomEnded_parts (groomLoaded (groomJudged s n g meas).1 g (groomJudged s n g meas).2
      sb zero pzero) g (groomJudged s n g meas).2
    have hgrooms := hgrooms'.trans hload.grooms
    refine ⟨_, hrun, (hflash'.trans hload.flash).trans hflash, (hmode'.trans hload.mode).trans hmode,
      (execGroomDone_keeps n meas sb zero pzero (Keeps.refl s)).keeps _ hrun, fun hmask => ?_, fun hfull => ?_, fun hfull => ?_,
      fun p tag c hp hr hd hc => ⟨_, groomEnded_ends _ hp hr hd ?_⟩⟩
    · rw [hgrooms, groomJudged_none s n hmask]
    · obtain ⟨-, -, -, l, hl, hx⟩ := groomJudged_warm s n hfull meas
      exact ⟨l, hgrooms.trans hl, hx⟩
    · have hlen := (groomJudged_full s n hfull meas).length
      have hn : n < s.cal.grooms.length := (List.getElem?_eq_some_iff.1 hg).1
      rw [hgrooms, hlen, List.length_eraseIdx_of_lt hn]
      omega
    · rw [hload.cmd, hcmd]
      exact hc

end Sys2Proof.Machine

/-! ## SCAN_STOP and the comparison of a frame's results (R25, R33, R479)

The end of a frame compares the results of the two evaluators before a SCAN_STOP is looked at. Where they differ under a committed
configuration the F3 fault takes the device to LOCKOUT, and the SCAN_STOP waits for the end of the frame that starts. -/
namespace Sys2Proof.Machine

/-- SCAN at the end of a frame with a SCAN_STOP noted, and a notice that evaluator A alone has of it, under a committed configuration. -/
def unequalFrameState : State :=
  { State.reset with
    mode := .scan
    sch := { State.reset.sch with running := true, next := State.reset.sch.slots, stop := some (.ring, 0) }
    saf := { State.reset.saf with evA := { State.reset.saf.evA with results := [(0, true, 1)] }
                                  cfg := some { setsEn := 0, guardsEn := 0, frameUs := 40000, kFrames := 2, covGrace := 0, spanMax := 0,
                                                progCrc := [], edmWin := 100, pairs := [], sets := [] } } }

theorem unequalFrameState_locks : (frameBoundary unequalFrameState).mode = .lockout := by decide +kernel

/-- Refutes O39: in a frame whose results differ between the evaluators, FRAME_BOUNDARY with a SCAN_STOP noted ends in LOCKOUT, not in
READY. Where the comparison leaves the state, the clause stands. -/
theorem not_scanCommands : ¬ Obligations.ScanCommands := by
  unfold Obligations.ScanCommands
  intro h
  obtain ⟨-, -, hstop⟩ := h unequalFrameState
  obtain ⟨t, ht, hmode, -⟩ := hstop (.ring, 0) rfl rfl rfl rfl
  have hrun : exec .frameBoundary unequalFrameState = .next (frameBoundary unequalFrameState) :=
    (if_pos rfl : execFrameBoundary unequalFrameState = _)
  rw [hrun] at ht
  injection ht with ht
  rw [← ht, unequalFrameState_locks] at hmode
  exact absurd hmode (by decide)

end Sys2Proof.Machine

/-! ## What the settling of the pairs leaves (R476, R481, R485)

Settling changes the pairs of the two evaluators, the windows of the contactors' feedback, and the trip events with their counts; it
opens no window where no pair is on. -/
namespace Sys2Proof.Machine

/-- In neither evaluator is one of the four pairs on. -/
def NoneOn (s : State) : Prop := ∀ d : Side, ∀ k < 4, (s.ev d).pair k ≠ .on

/-- What settling leaves: of an evaluator all but its pairs, the accepted feedback levels, every register but the trip events and counts, an
event that stands, and, where no pair is on, the feedback windows. -/
structure Settles (s t : State) : Prop where
  ev : ∀ d : Side, t.ev d = { s.ev d with pairs := (t.ev d).pairs }
  edm : ∀ n : Nat, (pairAt t n).edm = (pairAt s n).edm
  frame : RegFrame settleFields s t
  events : ∀ f ∈ [F.SAF_EVENT_TRIP, F.SAF_EVENT_GAP_TRIP], s.get f = 1 → t.get f = 1
  quiet : NoneOn s → NoneOn t ∧ t.saf.pairs = s.saf.pairs

theorem Settles.refl (s : State) : Settles s s := ⟨fun _ => rfl, fun _ => rfl, .refl _ s, fun _ _ h => h, fun h => ⟨h, rfl⟩⟩

theorem Settles.trans {r s t : State} (h : Settles r s) (k : Settles s t) : Settles r t where
  ev d := by rw [k.ev d, h.ev d]
  edm n := (k.edm n).trans (h.edm n)
  frame := h.frame.trans k.frame
  events f hf e := k.events f hf (h.events f hf e)
  quiet e := ⟨(k.quiet (h.quiet e).1).1, (k.quiet (h.quiet e).1).2.trans (h.quiet e).2⟩

theorem Settles.ite {s t u : State} {c : Prop} [Decidable c] (h : Settles s t) (k : Settles s u) : Settles s (if c then t else u) := by
  split <;> assumption

/-- Registers that settling may write are written, and no event falls. -/
theorem Settles.regs {s t : State} (e : t = { s with regs := t.regs }) (hf : RegFrame settleFields s t)
    (he : ∀ f ∈ [F.SAF_EVENT_TRIP, F.SAF_EVENT_GAP_TRIP], s.get f = 1 → t.get f = 1) : Settles s t where
  ev d := by rw [e]; cases d <;> rfl
  edm n := by rw [e]; rfl
  frame := hf
  events := he
  quiet h := by
    rw [e]
    exact ⟨fun d k hk => match d with | .a => h .a k hk | .b => h .b k hk, rfl⟩

/-- An event is set and its count moves. -/
theorem Settles.counts (s : State) {f g : Fld} (hf : f ∈ [F.SAF_EVENT_TRIP, F.SAF_EVENT_GAP_TRIP])
    (hg : g ∈ [F.SAF_CNT_TRIP, F.SAF_CNT_GRACE]) : Settles s ((s.set f 1).inc g) := by
  have hmem : f ∈ settleFields ∧ g ∈ settleFields := by
    simp only [settleFields, tripFields]
    simp only [List.mem_cons, List.not_mem_nil, or_false] at hf hg
    rcases hf with rfl | rfl <;> rcases hg with rfl | rfl <;> simp
  have hne : ∀ a ∈ [F.SAF_EVENT_TRIP, F.SAF_EVENT_GAP_TRIP], ∀ b ∈ [F.SAF_CNT_TRIP, F.SAF_CNT_GRACE], a.key ≠ b.key := by decide
  have hw : ∀ a ∈ [F.SAF_EVENT_TRIP, F.SAF_EVENT_GAP_TRIP], 1 % 2 ^ a.width = 1 := by decide
  have hk : ∀ a ∈ [F.SAF_EVENT_TRIP, F.SAF_EVENT_GAP_TRIP], ∀ b ∈ [F.SAF_EVENT_TRIP, F.SAF_EVENT_GAP_TRIP], a = b ∨ a.key ≠ b.key := by
    decide
  refine .regs rfl (((RegFrame.refl _ s).set 1 hmem.1).inc hmem.2) fun e he h1 => ?_
  refine (get_set_other (s.set f 1) _ (hne e he g hg)).trans ?_
  rcases hk e he f hf with rfl | hother
  · rw [get_set_same]
    exact hw _ he
  · rw [get_set_other _ _ hother]
    exact h1

theorem setEv_settles (s : State) (d : Side) {l : List PairState}
    (hq : NoneOn s → ∀ k < 4, Evaluator.pair { s.ev d with pairs := l } k ≠ .on) : Settles s (s.setEv d { s.ev d with pairs := l }) where
  ev k := by cases d <;> cases k <;> rfl
  edm n := by cases d <;> rfl
  frame := by cases d <;> exact (RegFrame.refl _ s).other rfl
  events f hf h := by cases d <;> exact h
  quiet h := by
    refine ⟨fun k n hn => ?_, by cases d <;> rfl⟩
    by_cases e : k = d
    · subst e
      rw [setEv_same]
      exact hq h n hn
    · rw [setEv_other s _ e]
      exact h k n hn

theorem setPairAt_edm (s : State) (n m : Nat) (b : Bool) :
    (pairAt (setPairAt s n { pairAt s n with edmPend := b }) m).edm = (pairAt s m).edm := by
  unfold pairAt setPairAt
  simp only [putAt_getD]
  split
  · next h => rw [h]
  · rfl

/-- A pair takes a state other than ON. -/
theorem setPair_settles (s : State) (d : Side) {n : Nat} (hn : n < 4) {st : PairState} (hst : st ≠ .on) : Settles s (setPair s d n st) := by
  have hev : Settles s (s.setEv d { s.ev d with pairs := putAt (s.ev d).pairs n .disabled st }) := by
    refine setEv_settles s d fun h k hk => ?_
    rw [pair_putAt]
    split
    · exact hst
    · exact h d k hk
  unfold setPair
  dsimp only
  generalize s.setEv d { s.ev d with pairs := putAt (s.ev d).pairs n .disabled st } = t at hev ⊢
  have hcount : Settles s (if d == .a && (s.ev d).pair n == .on && st != .on then (t.set F.SAF_EVENT_TRIP 1).inc F.SAF_CNT_TRIP else t) :=
    .ite (hev.trans (.counts t (by simp) (by simp))) hev
  generalize hu : (if d == .a && (s.ev d).pair n == .on && st != .on then _ else t : State) = u at hcount ⊢
  split
  · next hon =>
    have hat (k : Side) : (setPairAt u n { pairAt u n with edmPend := edmEnabled s n }).ev k = u.ev k := by cases k <;> rfl
    refine ⟨fun k => hat k ▸ hcount.ev k,
      fun m => (setPairAt_edm u n m _).trans (hcount.edm m), hcount.frame.other rfl, hcount.events, fun h => ?_⟩
    have ht := (hev.quiet h).1
    have hoff (x : State) (hx : NoneOn x) : pairOn x n = false := by
      have := hx .a n hn
      simp only [pairOn, Bool.and_eq_false_iff, beq_eq_false_iff_ne]
      exact .inl this
    rw [hoff s h, hoff t ht] at hon
    simp at hon
  · exact hcount

theorem countTrip_settles (s : State) (d : Side) : Settles s (countTrip s d) := .ite (.counts s (by simp) (by simp)) (.refl s)

theorem settlePair_settles (c : SafCfg) (d : Side) (s : State) {n : Nat} (hn : n < 4) : Settles s (settlePair c d s n) := by
  have hset {st : PairState} (h : st ≠ .on) := setPair_settles s d hn h
  have hid := Settles.refl s
  unfold settlePair
  dsimp only
  refine .ite (.ite hid (hset (by decide))) (.ite (.ite hid (hset (by decide))) (.ite (.ite (hset (by decide)) (.ite ?_ hid)) ?_))
  · exact (hset (by decide)).trans (countTrip_settles _ d)
  · exact .ite (.ite hid (hset (by decide))) (.ite hid (hset (by decide)))

theorem settle_settles (s : State) : Settles s (settle s) := by
  have hside (c : SafCfg) (d : Side) (t : State) (h : Settles s t) : Settles s ((List.range 4).foldl (settlePair c d) t) :=
    List.foldlRecOn _ _ h fun u hu n hn => hu.trans (settlePair_settles c d u (List.mem_range.1 hn))
  unfold settle
  split
  · exact .refl s
  · exact hside _ .b _ (hside _ .a s (.refl s))

/-- Guards are left by settling. -/
theorem settle_guardAt (s : State) (g : Nat) : guardAt (settle s) g = guardAt s g := by
  have h := settle_pairsOnly s
  unfold PairsOnly at h
  unfold guardAt
  rw [h]

theorem settle_mode (s : State) : (settle s).mode = s.mode := (settle_keeps_cfg s).2.2

/-- A pair that is on in an evaluator after settling was on before. -/
theorem settle_pair {s : State} {d : Side} {n : Nat} (hn : n < 4) (h : (s.ev d).pair n ≠ .on) : ((settle s).ev d).pair n ≠ .on :=
  fun hon => h ((settle_keeps (Keeps.refl s)).on d n hn hon)

end Sys2Proof.Machine

/-! ## External monitors, guards and the reset request (R481, R485 to R491)

The accepted levels, what a reset edge releases, and with them O40. -/
namespace Sys2Proof.Machine

/-! ### External monitors (R485) -/

theorem setPairAt_same (s : State) (n : Nat) (p : Pair) : pairAt (setPairAt s n p) n = p := by
  unfold pairAt setPairAt
  simp only [putAt_getD, if_true]

theorem execEdmAccept_eq (s : State) (n : Fin 4) (level : Bool) : execEdmAccept n level s =
    .next (settle (setPairAt s n { edm := level, edmPend := edmEnabled s n && !(level != pairOn s n) })) := rfl

/-- The clause of EDM_ACCEPT. -/
theorem edmAccept_gives (s : State) (n : Fin 4) (level : Bool) : Gives (.edmAccept n level) s (fun t => (pairAt t n).edm = level ∧
    Keeps s t ∧ t.mode = s.mode ∧ RegFrame settleFields s t ∧
    ((∀ d : Side, ∀ k < 4, (s.ev d).pair k ≠ .on) → (pairAt t n).edmPend = (edmEnabled s n && !level))) := by
  have h := settle_settles (setPairAt s n { edm := level, edmPend := edmEnabled s n && !(level != pairOn s n) })
  refine ⟨_, execEdmAccept_eq s n level, ?_, (execEdmAccept_keeps n level (Keeps.refl s)).keeps _ (execEdmAccept_eq s n level), settle_mode _,
    h.frame, fun hoff => ?_⟩
  · rw [h.edm, setPairAt_same]
  · have hquiet := (h.quiet fun d k hk => match d with | .a => hoff .a k hk | .b => hoff .b k hk).2
    have hpair : pairOn s n = false := by
      have := hoff .a n n.isLt
      simp only [pairOn, Bool.and_eq_false_iff, beq_eq_false_iff_ne]
      exact .inl this
    have hsame : pairAt (settle (setPairAt s n { edm := level, edmPend := edmEnabled s n && !(level != pairOn s n) })) n =
        pairAt (setPairAt s n { edm := level, edmPend := edmEnabled s n && !(level != pairOn s n) }) n := by
      unfold pairAt
      rw [hquiet]
    rw [hsame, setPairAt_same, hpair]
    simp

theorem edmWindowExpiry_none {s : State} {n : Fin 4} (h : (pairAt s n).edmPend = false) : Gives (.edmWindowExpiry n) s (fun t => t = s) := by
  refine ⟨s, ?_, rfl⟩
  show execEdmWindowExpiry n s = _
  unfold execEdmWindowExpiry
  simp [h]

theorem edmWindowExpiry_right {s : State} {n : Fin 4} (h : (pairAt s n).edmPend = true) (he : (pairAt s n).edm ≠ pairOn s n) :
    Gives (.edmWindowExpiry n) s (fun t => t = setPairAt s n { pairAt s n with edmPend := false }) := by
  refine ⟨_, ?_, rfl⟩
  show execEdmWindowExpiry n s = _
  unfold execEdmWindowExpiry
  simp [h, he]

/-- A pair's feedback fails: its event and its bit. -/
def edmFails (s : State) (n : Nat) : State :=
  ((setPairAt s n { pairAt s n with edmPend := false }).set F.SAF_EVENT_EDM 1).set F.SAF_LINE_FAULT_EDM_FAULT
    (setBit (s.get F.SAF_LINE_FAULT_EDM_FAULT) n)

theorem edmWindowExpiry_wrong {s : State} {n : Fin 4} (h : (pairAt s n).edmPend = true) (he : (pairAt s n).edm = pairOn s n)
    (hm : s.mode = .scan) : Gives (.edmWindowExpiry n) s (fun t => t.mode = .lockout ∧ t.get F.SAF_STATUS_LOCK_CAUSE = 1 ∧
      t.get F.SAF_EVENT_EDM = 1 ∧ ∀ d : Side, ∀ k < 4, (t.ev d).pair k ≠ .on) := by
  have hrun : execEdmWindowExpiry n s = .next (raiseF3 (edmFails s n) 0x0D02 n (.lock 1)) := by
    unfold execEdmWindowExpiry edmFails
    simp [h, he]
  have hevent : (edmFails s n).get F.SAF_EVENT_EDM = 1 :=
    (get_set_other _ _ (by decide)).trans (get_set_same _ F.SAF_EVENT_EDM 1)
  have hlock := raiseF3_lock (edmFails s n) 0x0D02 n 1 hm
  refine ⟨_, hrun, ?_, ?_, (raiseF3_frame _ _ _ _ _ (by decide)).trans hevent, ?_⟩ <;> rw [hlock]
  · exact enterLockout_mode _ _
  · exact (enterLockout_latch _ 1).2
  · exact fun d k hk => setMode_pairs _ _ (by decide) d k hk

/-! ### Guards (R486 to R488) -/

theorem setGuard_same (s : State) (g : Nat) (x : Guard) : guardAt (setGuard s g x) g = x := by
  unfold guardAt setGuard
  simp only [putAt_getD, if_true]

theorem guardTrigger_saf (s : State) (g : Nat) : (guardTrigger s g).saf = s.saf ∧ (guardTrigger s g).mode = s.mode ∧
    (guardTrigger s g).regs = s.regs := by
  have htrig : (trigger s 2).saf = s.saf ∧ (trigger s 2).mode = s.mode ∧ (trigger s 2).regs = s.regs := by
    unfold trigger triggerAt
    split
    · split <;> exact ⟨rfl, rfl, rfl⟩
    · exact ⟨rfl, rfl, rfl⟩
  unfold guardTrigger
  split
  · split
    · exact htrig
    · exact ⟨rfl, rfl, rfl⟩
  · exact ⟨rfl, rfl, rfl⟩

/-- A guard's new record, judged. -/
theorem settle_setGuard (s : State) (g : Nat) (x : Guard) : guardAt (settle (setGuard s g x)) g = x ∧
    (settle (setGuard s g x)).mode = s.mode ∧ RegFrame settleFields s (settle (setGuard s g x)) :=
  ⟨(settle_guardAt _ g).trans (setGuard_same s g x), settle_mode _, (settle_settles (setGuard s g x)).frame⟩

/-- The first channel of a closed guard falls: the guard has opened. -/
theorem guardAccept_opens {s : State} {g : Fin 4} (near : Bool) (h : guardAt s g = ⟨true, true, false, false, false⟩) :
    Gives (.guardAccept g .a false near) s (fun t => guardAt t g = ⟨false, true, false, false, false⟩ ∧
      t.get F.SAF_EVENT_GUARD_OPEN = 1 ∧ Keeps s t ∧ t.mode = s.mode) := by
  have hrun : execGuardAccept g .a false near s =
      .next (settle (guardTrigger ((setGuard s g ⟨false, true, false, false, false⟩).set F.SAF_EVENT_GUARD_OPEN 1) g)) := by
    unfold execGuardAccept
    simp [h]
  have hkeeps := (execGuardAccept_keeps g .a false near (Keeps.refl s)).keeps _ hrun
  refine ⟨_, hrun, ?_, ?_, hkeeps, ?_⟩
  all_goals
    clear hrun hkeeps
    obtain ⟨hsaf, hmode, hregs⟩ := guardTrigger_saf ((setGuard s g ⟨false, true, false, false, false⟩).set F.SAF_EVENT_GUARD_OPEN 1) g
    generalize guardTrigger ((setGuard s g ⟨false, true, false, false, false⟩).set F.SAF_EVENT_GUARD_OPEN 1) g = t at hsaf hmode hregs ⊢
  · rw [settle_guardAt]
    exact (congrArg (fun y : SafSt => y.guards.getD g restGuard) hsaf).trans (setGuard_same s g _)
  · refine ((settle_settles t).frame _ (by decide)).trans ((congrArg (getReg · _) hregs).trans ?_)
    exact get_set_same _ F.SAF_EVENT_GUARD_OPEN 1
  · exact (settle_mode t).trans hmode

/-- The second channel falls. -/
theorem guardAccept_open {s : State} {g : Fin 4} (near : Bool) {pend : Bool} (h : guardAt s g = ⟨false, true, false, pend, false⟩) :
    Gives (.guardAccept g .b false near) s (fun t => guardAt t g = ⟨false, false, false, pend, true⟩ ∧ Keeps s t ∧
      t.mode = s.mode ∧ RegFrame settleFields s t) := by
  have hrun : execGuardAccept g .b false near s = .next (settle (setGuard s g ⟨false, false, false, pend, true⟩)) := by
    unfold execGuardAccept
    simp [h]
  obtain ⟨hguard, hmode, hframe⟩ := settle_setGuard s g ⟨false, false, false, pend, true⟩
  exact ⟨_, hrun, hguard, (execGuardAccept_keeps g .b false near (Keeps.refl s)).keeps _ hrun, hmode, hframe⟩

/-- The second channel rises after both were low. -/
theorem guardAccept_closes {s : State} {g : Fin 4} (near : Bool) {pend : Bool} (h : guardAt s g = ⟨false, true, false, pend, true⟩) :
    Gives (.guardAccept g .a true near) s (fun t =>
      guardAt t g = (if near = true then ⟨true, true, false, false, false⟩ else ⟨true, true, false, pend, true⟩) ∧
      Keeps s t ∧ t.mode = s.mode ∧ RegFrame settleFields s t) := by
  have hrun : execGuardAccept g .a true near s =
      .next (settle (setGuard s g (if near = true then ⟨true, true, false, false, false⟩ else ⟨true, true, false, pend, true⟩))) := by
    unfold execGuardAccept
    cases near <;> simp [h]
  obtain ⟨hguard, hmode, hframe⟩ := settle_setGuard s g (if near = true then ⟨true, true, false, false, false⟩ else ⟨true, true, false, pend, true⟩)
  exact ⟨_, hrun, hguard, (execGuardAccept_keeps g .a true near (Keeps.refl s)).keeps _ hrun, hmode, hframe⟩

/-- A guard with unequal channels, marked and logged. -/
def guardUnequal (s : State) (g : Nat) : State := raiseFault (setGuard s g { guardAt s g with disc := true, lowSeen := false }) 2 0x0D07 g

theorem guardUnequal_parts (s : State) (g : Nat) : guardAt (guardUnequal s g) g = { guardAt s g with disc := true, lowSeen := false } ∧
    RegFrame (faultFields 2 ++ settleFields) s (guardUnequal s g) := by
  unfold guardUnequal
  have hguard := setGuard_same s g { guardAt s g with disc := true, lowSeen := false }
  have hframe : RegFrame (faultFields 2 ++ settleFields) s (setGuard s g { guardAt s g with disc := true, lowSeen := false }) :=
    .other (.refl _ s) rfl
  generalize setGuard s g _ = t at hguard hframe ⊢
  refine ⟨?_, hframe.raise _ _ _ (by simp +contextual)⟩
  rw [← hguard]
  unfold guardAt
  rw [raiseFault_saf]

theorem guardDiscrepancy_unequal {s : State} {g : Fin 4} (h : (guardAt s g).a ≠ (guardAt s g).b) :
    Gives (.guardDiscrepancy g) s (fun t => guardAt t g = { guardAt s g with disc := true, lowSeen := false } ∧
      RegFrame (faultFields 2 ++ settleFields) s t ∧ Keeps s t) := by
  have hrun : execGuardDiscrepancy g s = .next (settle (guardUnequal s g)) := if_neg h
  obtain ⟨hguard, hframe⟩ := guardUnequal_parts s g
  exact ⟨_, hrun, (settle_guardAt _ g).trans hguard, hframe.trans ((settle_settles _).frame.subset (by simp +contextual)),
    (execGuardDiscrepancy_keeps g (Keeps.refl s)).keeps _ hrun⟩

/-! ### The reset request (R489 to R491) -/

theorem execRstReqAccept_edge {a b skew : Nat} (ha : 1000 ≤ a) (ha' : a ≤ 50000) (hb : 1000 ≤ b) (hb' : b ≤ 50000) (hs : skew < 100) (s : State) :
    execRstReqAccept a b skew s = .next (resetEdge (s.set F.SAF_RST_LEVEL 0)) := by
  unfold execRstReqAccept
  simp [*]

/-- An accepted press, counted. -/
def pressed (s : State) : State := ((s.set F.SAF_RST_LEVEL 0).inc F.SAF_RST_ACCEPT_CNT).set F.SAF_RST_EDGE 1

theorem pressed_get (s : State) : (pressed s).get F.SAF_RST_EDGE = 1 ∧ (pressed s).get F.SAF_RST_LEVEL = 0 := by
  refine ⟨get_set_same _ F.SAF_RST_EDGE 1, ?_⟩
  refine (get_set_other _ _ (by decide)).trans ((get_set_other (s.set F.SAF_RST_LEVEL 0) _ (by decide)).trans ?_)
  exact get_set_same _ F.SAF_RST_LEVEL 0

theorem pressed_only (s : State) : RegsOnly [F.SAF_RST_LEVEL, F.SAF_RST_ACCEPT_CNT, F.SAF_RST_EDGE] s (pressed s) :=
  ⟨rfl, (((RegFrame.refl _ s).set 0 (by simp)).inc (by simp)).set 1 (by simp)⟩

theorem resetEdge_ready {s : State} (h : s.mode = .ready) : resetEdge (s.set F.SAF_RST_LEVEL 0) = pressed s := by
  have hm : (s.set F.SAF_RST_LEVEL 0).mode = .ready := h
  unfold resetEdge
  rw [hm]
  rfl

theorem resetEdge_safeHold {s : State} (h : s.mode = .safeHold) (hf : s.saf.f3 = []) :
    resetEdge (s.set F.SAF_RST_LEVEL 0) = settle (setMode (pressed s) .scan) := by
  have hm : (s.set F.SAF_RST_LEVEL 0).mode = .safeHold := h
  unfold resetEdge
  rw [hm]
  exact if_pos (by rw [State.set_saf, hf]; rfl)

theorem resetEdge_scan {s : State} {c : SafCfg} (h : s.mode = .scan) (hc : s.saf.cfg = some c) (ha : s.saf.armed = true) :
    resetEdge (s.set F.SAF_RST_LEVEL 0) = (List.range 4).foldl (releasePair c false) (pressed s) := by
  have hm : (s.set F.SAF_RST_LEVEL 0).mode = .scan := h
  have hcfg : (s.set F.SAF_RST_LEVEL 0).saf.cfg = some c := hc
  unfold resetEdge
  rw [hm]
  dsimp only
  rw [hcfg]
  exact if_pos ha

/-- A release switches a pair on where it waits and its configuration asks for this kind of release. -/
theorem releasePair_pair (c : SafCfg) (auto : Bool) (s : State) (m : Nat) (d : Side) (n : Nat) :
    ((releasePair c auto s m).ev d).pair n =
      if m = n ∧ (s.ev d).pair n = .wait ∧ (c.pair m).autoRestart = auto then .on else (s.ev d).pair n := by
  have hside (t : State) (e : Side) : (((if (t.ev e).pair m == .wait && (c.pair m).autoRestart == auto then setPair t e m .on else t :
      State).ev d).pair n) = if d = e ∧ m = n ∧ (t.ev d).pair n = .wait ∧ (c.pair m).autoRestart = auto then .on else (t.ev d).pair n := by
    split
    · next h =>
      simp only [Bool.and_eq_true, beq_iff_eq] at h
      rw [setPair_pair]
      by_cases hd : d = e
      · subst hd
        by_cases hm : m = n
        · subst hm
          simp [h]
        · simp [hm]
      · simp [hd]
    · next h =>
      simp only [Bool.and_eq_true, beq_iff_eq] at h
      rw [if_neg]
      rintro ⟨rfl, rfl, hw⟩
      exact h hw
  have heq : releasePair c auto s m = (fun (u : State) => if (u.ev .b).pair m == .wait && (c.pair m).autoRestart == auto then setPair u .b m .on else u)
      (if (s.ev .a).pair m == .wait && (c.pair m).autoRestart == auto then setPair s .a m .on else s) := rfl
  rw [heq, hside, hside]
  cases d <;> simp

/-- A pair that waits is on after the releases of pairs that hold it. -/
theorem releasePairs_on (c : SafCfg) {auto : Bool} (d : Side) {n : Nat} (ha : (c.pair n).autoRestart = auto) (l : List Nat) (s : State)
    (h : (s.ev d).pair n = .on ∨ (s.ev d).pair n = .wait ∧ n ∈ l) : ((l.foldl (releasePair c auto) s).ev d).pair n = .on := by
  induction l generalizing s with
  | nil => simpa using h
  | cons m l ih =>
    refine ih _ ?_
    rw [releasePair_pair]
    rcases h with hon | ⟨hw, hn⟩
    · simp [hon]
    · by_cases hm : m = n
      · subst hm
        simp [hw, ha]
      · have hl : n ∈ l := (List.mem_cons.1 hn).resolve_left fun e => hm e.symm
        simp [hm, hw, hl]

theorem releasePairs_mode (c : SafCfg) (auto : Bool) (l : List Nat) (s : State) : (l.foldl (releasePair c auto) s).mode = s.mode := by
  induction l generalizing s with
  | nil => rfl
  | cons m l ih => exact (ih _).trans (releasePair_armed c auto s m).2

theorem releasePair_frame (c : SafCfg) (auto : Bool) (s : State) (n : Nat) : RegFrame settleFields s (releasePair c auto s n) := by
  have hset (t : State) (d : Side) : RegFrame settleFields t (setPair t d n .on) :=
    (setPair_frame t d n .on).subset (by simp +contextual [settleFields])
  unfold releasePair
  dsimp only
  exact (RegFrame.ite (hset s .a) (.refl _ s)).trans (.ite (hset _ .b) (.refl _ _))

/-- The clauses of an accepted press. -/
theorem rstReqAccept_edge_gives (s : State) {a b skew : Nat} (ha : 1000 ≤ a) (ha' : a ≤ 50000) (hb : 1000 ≤ b) (hb' : b ≤ 50000)
    (hs : skew < 100) :
    (s.mode = .ready → Gives (.rstReqAccept a b skew) s (fun t => t.get F.SAF_RST_EDGE = 1 ∧ t.get F.SAF_RST_LEVEL = 0 ∧
      RegsOnly [F.SAF_RST_LEVEL, F.SAF_RST_ACCEPT_CNT, F.SAF_RST_EDGE] s t)) ∧
    (s.mode = .safeHold → s.saf.f3 = [] → Gives (.rstReqAccept a b skew) s (fun t => t.mode = .scan ∧ Keeps s t)) ∧
    (∀ (c : SafCfg) (n : Nat) (d : Side), s.mode = .scan → s.saf.cfg = some c → s.saf.armed = true → n < 4 →
      (s.ev d).pair n = .wait → (c.pair n).autoRestart = false →
      Gives (.rstReqAccept a b skew) s (fun t => (t.ev d).pair n = .on ∧ t.mode = .scan)) := by
  have hrun := execRstReqAccept_edge ha ha' hb hb' hs s
  refine ⟨fun hm => ?_, fun hm hf => ?_, fun c n d hm hc harm hn hw hauto => ?_⟩
  · rw [resetEdge_ready hm] at hrun
    exact ⟨_, hrun, (pressed_get s).1, (pressed_get s).2, pressed_only s⟩
  · rw [resetEdge_safeHold hm hf] at hrun
    refine ⟨_, hrun, settle_mode _, settle_keeps (setMode_keeps _ ?_)⟩
    exact set_keeps _ _ (inc_keeps _ (set_keeps _ _ (Keeps.refl s)))
  · rw [resetEdge_scan hm hc harm] at hrun
    have hwait : ((pressed s).ev d).pair n = .wait := by cases d <;> exact hw
    exact ⟨_, hrun, releasePairs_on c d hauto _ _ (.inr ⟨hwait, List.mem_range.2 hn⟩), (releasePairs_mode c false _ _).trans hm⟩

theorem rstReqAccept_refused (s : State) {a b skew : Nat} (ha : a ≤ 50000) (hb : b ≤ 50000) (h : a < 1000 ∨ b < 1000 ∨ 100 ≤ skew) :
    Gives (.rstReqAccept a b skew) s (fun t => t.get F.SAF_RST_LEVEL = 0 ∧
      RegsOnly [F.SAF_RST_LEVEL, F.SAF_RST_REFUSE_CNT] s t ∧ t.get F.SAF_RST_REFUSE_CNT = (s.inc F.SAF_RST_REFUSE_CNT).get F.SAF_RST_REFUSE_CNT) := by
  have hno : ¬ (1000 ≤ a ∧ 1000 ≤ b ∧ skew < 100) := by omega
  have hrun : execRstReqAccept a b skew s = .next ((s.set F.SAF_RST_LEVEL 0).inc F.SAF_RST_REFUSE_CNT) := by
    unfold execRstReqAccept
    dsimp only
    rw [if_neg (by simp; omega), if_neg (by simp; omega)]
  refine ⟨_, hrun, (get_set_other (s.set F.SAF_RST_LEVEL 0) _ (by decide)).trans (get_set_same _ F.SAF_RST_LEVEL 0),
    ⟨rfl, ((RegFrame.refl _ s).set 0 (by simp)).inc (by simp)⟩, ?_⟩
  unfold State.inc State.add
  rw [get_set_same, get_set_same, get_set_other _ _ (by decide)]

theorem rstReqAccept_long (s : State) {a b : Nat} (skew : Nat) (h : 50000 < a ∨ 50000 < b) :
    Gives (.rstReqAccept a b skew) s (fun t => t.get F.SAF_RST_LEVEL = 0 ∧ RegsOnly [F.SAF_RST_LEVEL] s t) := by
  have hrun : execRstReqAccept a b skew s = .next (s.set F.SAF_RST_LEVEL 0) := by
    unfold execRstReqAccept
    dsimp only
    rw [if_neg (by simp; omega), if_pos (by simpa using h)]
  exact ⟨_, hrun, get_set_same _ F.SAF_RST_LEVEL 0, rfl, (RegFrame.refl _ s).set 0 (by simp)⟩

theorem rstReqJam_gives (s : State) : Gives .rstReqJam s (fun t => t.get F.SAF_RST_JAM = 1 ∧ t.get F.SAF_RST_LEVEL = 1 ∧
    RegFrame (F.SAF_RST_JAM :: F.SAF_RST_LEVEL :: faultFields 0) s t ∧ t.mode = s.mode ∧ t.saf = s.saf) := by
  have hraise := RegFrame.raise (RegFrame.refl (faultFields 0) ((s.set F.SAF_RST_JAM 1).set F.SAF_RST_LEVEL 1)) 0 0x0D09 0 (by simp)
  refine ⟨_, rfl, (hraise _ (by decide)).trans ?_, (hraise _ (by decide)).trans (get_set_same _ F.SAF_RST_LEVEL 1),
    .raise (((RegFrame.refl _ s).set 1 (by simp)).set 1 (by simp)) _ _ _ (by simp +contextual), raiseFault_mode _ _ _ _, raiseFault_saf _ _ _ _⟩
  exact (get_set_other _ _ (by decide)).trans (get_set_same _ F.SAF_RST_JAM 1)

theorem autoRestartExpiry_gives {s : State} {n : Fin 4} {c : SafCfg} {d : Side} (hm : s.mode = .scan) (hc : s.saf.cfg = some c)
    (ha : s.saf.armed = true) (hw : (s.ev d).pair n = .wait) (hauto : (c.pair n).autoRestart = true) :
    Gives (.autoRestartExpiry n) s (fun t => (t.ev d).pair n = .on ∧ t.mode = .scan ∧ RegFrame settleFields s t) := by
  have hrun : execAutoRestartExpiry n s = .next (releasePair c true s n) := by
    unfold execAutoRestartExpiry
    rw [hc]
    exact if_pos (by simp [hm, ha])
  refine ⟨_, hrun, ?_, (releasePair_armed c true s n).2.trans hm, releasePair_frame c true s n⟩
  rw [releasePair_pair]
  simp [hw, hauto]

/-- Settles O40: the monitors and guards by what settling leaves (`Settles`), the press by what a release does to a pair
(`releasePair_pair`). -/
theorem safetyInputsAct : Obligations.SafetyInputsAct := by
  unfold Obligations.SafetyInputsAct
  intro s
  exact ⟨edmAccept_gives s, fun n h => edmWindowExpiry_none h, fun n h he => edmWindowExpiry_right h he,
    fun n h he hm => edmWindowExpiry_wrong h he hm, fun g near h => guardAccept_opens near h, fun g near pend h => guardAccept_open near h,
    fun g near pend h => guardAccept_closes near h, fun g h => ⟨s, (if_pos h : execGuardDiscrepancy g s = _), rfl⟩,
    fun g h => guardDiscrepancy_unequal h, fun a b skew ha ha' hb hb' hs => rstReqAccept_edge_gives s ha ha' hb hb' hs,
    fun a b skew ha hb h => rstReqAccept_refused s ha hb h, fun a b skew h => rstReqAccept_long s skew h, rstReqJam_gives s,
    fun n c d hm hc ha hw hauto => autoRestartExpiry_gives hm hc ha hw hauto, ⟨_, rfl, rfl⟩⟩

end Sys2Proof.Machine

/-! ## Field sets, coverage, self tests and the mode ball (R470 to R476, R480, R483, R484, R492)

What settling leaves of the field sets, the four ways into SAFE-HOLD, and with them O41. -/
namespace Sys2Proof.Machine

/-! ### Field sets (R470 to R473) -/

theorem endFault_ev (s : State) (code detail : Nat) (d : Side) : (endFault s code detail).ev d = s.ev d := by cases d <;> rfl

/-- An evaluator after a new record of it was judged: the record, but for the pairs. -/
theorem settle_setEv (s : State) (d : Side) (e : Evaluator) :
    (settle (s.setEv d e)).ev d = { e with pairs := ((settle (s.setEv d e)).ev d).pairs } := by
  have h := (settle_settles (s.setEv d e)).ev d
  rw [setEv_same] at h
  exact h

theorem setEv_regs (s : State) (d : Side) (e : Evaluator) : (s.setEv d e).regs = s.regs ∧ (s.setEv d e).mode = s.mode := by
  cases d <;> exact ⟨rfl, rfl⟩

/-- The record of an evaluator that takes an enabled set into force. -/
def takesSet (e : Evaluator) (v : Nat) : Evaluator :=
  { e with fsel := v, active := v, replaced := e.active :: e.replaced.filter (· != v),
           runs := if e.replaced.contains v then e.runs else e.runs.filter fun (r : Run) => r.set != v }

/-- A new set in force, with its event, before it is judged. -/
def setInForce (s : State) (d : Side) (v : Nat) : State :=
  ((endFault s 0x0D08 (s.ev d).fsel).setEv d (takesSet (s.ev d) v)).set F.SAF_EVENT_FSET_CHANGE 1

theorem setInForce_parts (s : State) (d : Side) (v : Nat) : (setInForce s d v).ev d = takesSet (s.ev d) v ∧
    (setInForce s d v).get F.SAF_EVENT_FSET_CHANGE = 1 ∧ (setInForce s d v).mode = s.mode ∧
    RegFrame (F.SAF_EVENT_FSET_CHANGE :: settleFields) s (setInForce s d v) := by
  unfold setInForce
  have hev := setEv_same (endFault s 0x0D08 (s.ev d).fsel) d (takesSet (s.ev d) v)
  obtain ⟨hregs, hmode⟩ := setEv_regs (endFault s 0x0D08 (s.ev d).fsel) d (takesSet (s.ev d) v)
  generalize (endFault s 0x0D08 (s.ev d).fsel).setEv d (takesSet (s.ev d) v) = t at hev hregs hmode ⊢
  refine ⟨?_, get_set_same _ F.SAF_EVENT_FSET_CHANGE 1, hmode, ((RegFrame.refl _ s).other hregs).set 1 (by simp)⟩
  rw [← hev]
  cases d <;> rfl

/-- The clause of FSEL_ACCEPT of an enabled set that is not in force. -/
theorem fselAccept_new {s : State} {d : Side} {v : Fin 8} {c : SafCfg} (hc : s.saf.cfg = some c) (hen : bit c.setsEn v = true)
    (hv : v.val ≠ (s.ev d).active) : Gives (.fselAccept d v) s (fun t => (t.ev d).fsel = v ∧ (t.ev d).active = v ∧
      (t.ev d).replaced = (s.ev d).active :: (s.ev d).replaced.filter (· != v.val) ∧ t.get F.SAF_EVENT_FSET_CHANGE = 1 ∧
      RegFrame (F.SAF_EVENT_FSET_CHANGE :: settleFields) s t ∧ Keeps s t ∧ t.mode = s.mode) := by
  have hrun : execFselAccept d v s = .next (settle (setInForce s d v)) := by
    unfold execFselAccept acceptFsel
    rw [hc]
    dsimp only
    rw [if_neg (by simp [hen]), if_neg hv]
    rfl
  obtain ⟨hev, hevent, hmode, hframe⟩ := setInForce_parts s d v
  have h := settle_settles (setInForce s d v)
  have hev' := h.ev d
  rw [hev] at hev'
  exact ⟨_, hrun, by rw [hev']; rfl, by rw [hev']; rfl, by rw [hev']; rfl, (h.frame _ (by decide)).trans hevent,
    hframe.trans (h.frame.subset (by simp +contextual)), (execFselAccept_keeps d v (Keeps.refl s)).keeps _ hrun, (settle_mode _).trans hmode⟩

/-- An accepted value whose set is not enabled, logged. -/
def setMissing (s : State) (d : Side) (v : Nat) : State := raiseFault (s.setEv d { s.ev d with fsel := v }) 0 0x0D08 v

theorem setMissing_parts (s : State) (d : Side) (v : Nat) : (setMissing s d v).ev d = { s.ev d with fsel := v } ∧
    RegFrame (faultFields 0) s (setMissing s d v) := by
  unfold setMissing
  have hev := setEv_same s d { s.ev d with fsel := v }
  obtain ⟨hregs, -⟩ := setEv_regs s d { s.ev d with fsel := v }
  generalize s.setEv d { s.ev d with fsel := v } = t at hev hregs ⊢
  refine ⟨?_, ((RegFrame.refl _ s).other hregs).raise _ _ _ (by simp)⟩
  rw [← hev]
  exact ev_congr _ (raiseFault_saf _ _ _ _) d

/-- The clause of FSEL_ACCEPT of a set that is not enabled. -/
theorem fselAccept_missing {s : State} {d : Side} {v : Fin 8} {c : SafCfg} (hc : s.saf.cfg = some c) (hen : bit c.setsEn v = false) :
    Gives (.fselAccept d v) s (fun t => (t.ev d).fsel = v ∧ (t.ev d).active = (s.ev d).active ∧
      RegFrame (faultFields 0 ++ settleFields) s t ∧ Keeps s t) := by
  have hrun : execFselAccept d v s = .next (settle (setMissing s d v)) := by
    unfold execFselAccept acceptFsel
    rw [hc]
    dsimp only
    rw [if_pos (by simp [hen])]
    rfl
  obtain ⟨hev, hframe⟩ := setMissing_parts s d v
  have h := settle_settles (setMissing s d v)
  have hev' := h.ev d
  rw [hev] at hev'
  exact ⟨_, hrun, by rw [hev'], by rw [hev'], (hframe.subset (by simp +contextual)).trans (h.frame.subset (by simp +contextual)),
    (execFselAccept_keeps d v (Keeps.refl s)).keeps _ hrun⟩

/-- The clause of FSET_OVERLAP_END with a set that is still applied. -/
theorem fsetOverlapEnd_gives {s : State} {d : Side} {l : List Nat} {k : Nat} (h : (s.ev d).replaced = l ++ [k]) :
    Gives (.fsetOverlapEnd d) s (fun t => (t.ev d).replaced = l ∧ (t.ev d).runs = (s.ev d).runs.filter (fun r => r.set != k) ∧
      RegFrame settleFields s t ∧ Keeps s t ∧ t.mode = s.mode) := by
  have hrun : execFsetOverlapEnd d s =
      .next (settle (s.setEv d { s.ev d with replaced := l, runs := (s.ev d).runs.filter fun (r : Run) => r.set != k })) := by
    unfold execFsetOverlapEnd
    simp [h]
  have hkeeps := (execFsetOverlapEnd_keeps d (Keeps.refl s)).keeps _ hrun
  have hev := settle_setEv s d { s.ev d with replaced := l, runs := (s.ev d).runs.filter fun (r : Run) => r.set != k }
  obtain ⟨hregs, hmode⟩ := setEv_regs s d { s.ev d with replaced := l, runs := (s.ev d).runs.filter fun (r : Run) => r.set != k }
  have hset := settle_settles (s.setEv d { s.ev d with replaced := l, runs := (s.ev d).runs.filter fun (r : Run) => r.set != k })
  refine ⟨_, hrun, by rw [hev], by rw [hev], ((RegFrame.refl _ s).other hregs).trans hset.frame, hkeeps, (settle_mode _).trans hmode⟩

/-! ### Coverage (R475, R476) -/

theorem openGap_ev (s : State) (d : Side) (dir : Nat) : (openGap s d dir false).ev d =
      { s.ev d with covered := (s.ev d).covered.filter (· != dir) } ∧ (∀ k : Side, k ≠ d → (openGap s d dir false).ev k = s.ev k) ∧
    RegFrame [F.SAF_CNT_GAP] s (openGap s d dir false) ∧ (openGap s d dir false).mode = s.mode := by
  have hcount (t : State) (c : Bool) (k : Side) : (if c then t.inc F.SAF_CNT_GAP else t).ev k = t.ev k := by
    cases c <;> cases k <;> rfl
  have hmode (t : State) (c : Bool) : (if c then t.inc F.SAF_CNT_GAP else t).mode = t.mode := by cases c <;> rfl
  have hev : (openGap s d dir false).ev d = { s.ev d with covered := (s.ev d).covered.filter (· != dir) } :=
    (hcount _ _ d).trans ((setEv_same s d _).trans rfl)
  refine ⟨hev, fun k hk => (hcount _ _ k).trans (setEv_other s _ hk), ?_, (hmode _ _).trans (setEv_regs s d _).2⟩
  have hset : ∀ e : Evaluator, RegFrame [F.SAF_CNT_GAP] s (s.setEv d e) := fun e => (RegFrame.refl _ s).other (setEv_regs s d e).1
  exact .ite ((hset _).inc (by simp)) (hset _)

/-- The clause of COVERAGE_LAPSE of a direction that is covered. -/
theorem coverageLapse_gives {s : State} {dir : Nat} (h : s.saf.evA.covered.contains dir = true ∨ s.saf.evB.covered.contains dir = true) :
    Gives (.coverageLapse dir) s (fun t => t.saf.evA.covered = s.saf.evA.covered.filter (· != dir) ∧
      t.saf.evB.covered = s.saf.evB.covered.filter (· != dir) ∧
      RegFrame (F.SAF_CNT_GAP :: settleFields) s t ∧ Keeps s t ∧ t.mode = s.mode) := by
  have hrun : execCoverageLapse dir s = .next (openGaps s [dir] false) := if_pos (by simpa using h)
  have hkeeps := (execCoverageLapse_keeps dir (Keeps.refl s)).keeps _ hrun
  obtain ⟨haev, haother, haframe, hamode⟩ := openGap_ev s .a dir
  have hgaps : openGaps s [dir] false = settle (openGap (openGap s .a dir false) .b dir false) := rfl
  generalize openGap s .a dir false = t at haev haother haframe hamode hgaps
  obtain ⟨hbev, hbother, hbframe, hbmode⟩ := openGap_ev t .b dir
  generalize openGap t .b dir false = u at hbev hbother hbframe hbmode hgaps
  have hset := settle_settles u
  have ha := hset.ev .a
  have hb := hset.ev .b
  rw [hbother .a (by decide), haev] at ha
  rw [hbev, haother .b (by decide)] at hb
  refine ⟨_, hrun, ?_, ?_, ?_, hkeeps, ?_⟩ <;> rw [hgaps]
  · exact congrArg Evaluator.covered ha
  · exact congrArg Evaluator.covered hb
  · exact ((haframe.trans hbframe).subset (by simp +contextual)).trans (hset.frame.subset (by simp +contextual))
  · exact ((settle_mode u).trans hbmode).trans hamode

theorem setPair_trip {s : State} {n : Nat} (hon : (s.ev .a).pair n = .on) : (setPair s .a n .blocked).get F.SAF_EVENT_TRIP = 1 := by
  unfold setPair
  dsimp only
  rw [if_pos (c := (Side.a == .a && (s.ev .a).pair n == .on && PairState.blocked != .on) = true) (by rw [hon]; decide)]
  generalize s.setEv .a _ = t
  have h : ((t.set F.SAF_EVENT_TRIP 1).inc F.SAF_CNT_TRIP).get F.SAF_EVENT_TRIP = 1 :=
    (get_set_other (t.set F.SAF_EVENT_TRIP 1) _ (by decide)).trans (get_set_same _ F.SAF_EVENT_TRIP 1)
  split
  · exact h
  · exact h

/-- The clause of COVERAGE_TRIP of a pair that is on and not covered. -/
theorem coverageTrip_gives {s : State} {d : Side} {n : Fin 4} {c : SafCfg} (hc : s.saf.cfg = some c) (hon : (s.ev d).pair n = .on)
    (hcov : bit (causes s c d n) 1 = true) : Gives (.coverageTrip d n) s (fun t => (t.ev d).pair n ≠ .on ∧
      (d = .a → t.get F.SAF_EVENT_GAP_TRIP = 1 ∧ t.get F.SAF_EVENT_TRIP = 1) ∧
      RegFrame settleFields s t ∧ Keeps s t ∧ t.mode = s.mode) := by
  have hrun : execCoverageTrip d n s = .next (settle (countTrip (setPair s d n .blocked) d)) := by
    unfold execCoverageTrip
    rw [hc]
    exact if_pos (by simp [hon, hcov])
  have hkeeps := (execCoverageTrip_keeps d n (Keeps.refl s)).keeps _ hrun
  have hblocked : ((setPair s d n .blocked).ev d).pair n = .blocked := by
    rw [setPair_pair]
    simp
  have hset := setPair_settles s d n.isLt (st := .blocked) (by decide)
  have htrip : d = .a → (setPair s d n .blocked).get F.SAF_EVENT_TRIP = 1 := by
    rintro rfl
    exact setPair_trip hon
  have hmode : (setPair s d n .blocked).mode = s.mode := (setPair_armed s d n .blocked).2
  generalize setPair s d n .blocked = t at hrun hkeeps hblocked hset htrip hmode
  have hcount := countTrip_settles t d
  have hgap : d = .a → (countTrip t d).get F.SAF_EVENT_GAP_TRIP = 1 := by
    rintro rfl
    exact (get_set_other (t.set F.SAF_EVENT_GAP_TRIP 1) _ (by decide)).trans (get_set_same _ F.SAF_EVENT_GAP_TRIP 1)
  have hstill : ((countTrip t d).ev d).pair n = .blocked := by
    rw [← hblocked]
    cases d <;> rfl
  have hcmode : (countTrip t d).mode = t.mode := by cases d <;> rfl
  generalize countTrip t d = u at hrun hkeeps hcount hgap hstill hcmode
  have hsettle := settle_settles u
  refine ⟨_, hrun, settle_pair n.isLt (by rw [hstill]; decide), fun hd => ?_, (hset.trans (hcount.trans hsettle)).frame, hkeeps,
    ((settle_mode u).trans hcmode).trans hmode⟩
  exact ⟨hsettle.events _ (by simp) (hgap hd), hsettle.events _ (by simp) (hcount.events _ (by simp) (htrip hd))⟩

/-! ### The monitors that lead to SAFE-HOLD and LOCKOUT (R470, R480, R483, R484, R492) -/

/-- An F3 fault of the hold kind in SCAN. -/
theorem raiseF3_holds {s : State} (hm : s.mode = .scan) (code detail : Nat) {cause : Nat} (hc : cause < 16) :
    (raiseF3 s code detail (.hold cause)).mode = .safeHold ∧ (raiseF3 s code detail (.hold cause)).get F.SAF_STATUS_HOLD_CAUSE = cause ∧
    RegFrame f3Fields s (raiseF3 s code detail (.hold cause)) ∧
    ∀ d : Side, ∀ n < 4, ((raiseF3 s code detail (.hold cause)).ev d).pair n ≠ .on := by
  refine ⟨raiseF3_hold_mode s _ _ _ hm, ?_, raiseF3_frame s _ _ _, fun d n hn => raiseF3_hold_pairs s _ _ _ hm d n hn⟩
  rw [raiseF3_hold_eq s _ _ _ hm, enterSafeHold_cause, Nat.mod_eq_of_lt hc]

theorem evaluatorSelfTest_fails {s : State} (d : Side) {v w : Bool} (hm : s.mode = .scan) (hup : safUp s = true) (h : (v && w) = false) :
    Gives (.evaluatorSelfTest d v w) s (fun t => t.mode = .safeHold ∧ t.get F.SAF_STATUS_HOLD_CAUSE = (if v then 4 else 3) ∧
      RegFrame f3Fields s t ∧ ∀ d : Side, ∀ n < 4, (t.ev d).pair n ≠ .on) := by
  have hrun : ∃ detail, execEvaluatorSelfTest d v w s = .next (raiseF3 s 0x0D05 detail (.hold (if v then 4 else 3))) := by
    unfold execEvaluatorSelfTest
    rw [if_neg (by simp [hup])]
    exact ⟨_, if_neg (by simp [h])⟩
  obtain ⟨detail, hrun⟩ := hrun
  exact ⟨_, hrun, raiseF3_holds hm 0x0D05 detail (by split <;> decide)⟩

/-- A fault of a line leads to SAFE-HOLD, with its bit written. -/
theorem lineFault_holds {s : State} (hm : s.mode = .scan) (f : Fld) (v line : Nat) {cause : Nat} (hc : cause < 16) :
    (raiseF3 (s.set f v) 0x0D04 line (.hold cause)).mode = .safeHold ∧
    (raiseF3 (s.set f v) 0x0D04 line (.hold cause)).get F.SAF_STATUS_HOLD_CAUSE = cause ∧
    RegFrame (f :: f3Fields) s (raiseF3 (s.set f v) 0x0D04 line (.hold cause)) ∧
    ∀ d : Side, ∀ n < 4, ((raiseF3 (s.set f v) 0x0D04 line (.hold cause)).ev d).pair n ≠ .on := by
  obtain ⟨hmode, hcause, hframe, hoff⟩ := raiseF3_holds (s := s.set f v) hm 0x0D04 line hc
  exact ⟨hmode, hcause, ((RegFrame.refl _ s).set v (by simp)).trans (hframe.subset (by simp +contextual)), hoff⟩

theorem testPulse_fails {s : State} {line : Fin 8} {own back : Bool} (other : Bool) (hon : lineOn s line = true)
    (h : own = false ∨ back = false) (hm : s.mode = .scan) : Gives (.testPulse line own other back) s (fun t => t.mode = .safeHold ∧
      t.get F.SAF_STATUS_HOLD_CAUSE = 2 ∧ RegFrame (F.SAF_LINE_FAULT_TP_FAULT :: f3Fields) s t ∧
      ∀ d : Side, ∀ n < 4, (t.ev d).pair n ≠ .on) := by
  refine ⟨_, (if_neg ?_ : execTestPulse line own other back s = _), lineFault_holds hm _ _ _ (by decide)⟩
  rcases h with rfl | rfl <;> simp [hon]

theorem readbackFault_gives {s : State} (line : Fin 8) (hm : s.mode = .scan) (hup : safUp s = true) :
    Gives (.readbackFault line) s (fun t => t.mode = .safeHold ∧ t.get F.SAF_STATUS_HOLD_CAUSE = 1 ∧
      RegFrame (F.SAF_LINE_FAULT_RB_FAULT :: f3Fields) s t ∧ ∀ d : Side, ∀ n < 4, (t.ev d).pair n ≠ .on) :=
  ⟨_, (if_neg (by simp [hup]) : execReadbackFault line s = _), lineFault_holds hm _ _ _ (by decide)⟩

/-- The level of the TST_MODE ball, where it is the ball that rose. -/
def ballNoted (s : State) (ball : Bool) : State := if ball then { s with pins := { s.pins with tstMode := true } } else s

theorem tstModeRise_armed {s : State} (ball : Bool) (ha : s.saf.armed = true) (hm : s.mode = .scan) :
    Gives (.tstModeRise ball) s (fun t => t.mode = .lockout ∧ t.get F.SAF_STATUS_LOCK_CAUSE = 3 ∧ RegFrame f3Fields s t ∧
      ∀ d : Side, ∀ n < 4, (t.ev d).pair n ≠ .on) := by
  have hrun : execTstModeRise ball s = .next (raiseF3 (ballNoted s ball) 0x0D03 0 (.lock 3)) := if_pos ha
  have hmode : (ballNoted s ball).mode = .scan := by cases ball <;> exact hm
  have hframe : RegFrame f3Fields s (ballNoted s ball) := .ite (.other (.refl _ s) rfl) (.refl _ s)
  generalize ballNoted s ball = t at hrun hmode hframe
  have hlock := raiseF3_lock t 0x0D03 0 3 hmode
  refine ⟨_, hrun, ?_, ?_, hframe.trans (raiseF3_frame t _ _ _), ?_⟩ <;> rw [hlock]
  · exact enterLockout_mode _ _
  · exact (enterLockout_latch _ 3).2
  · exact fun d k hk => setMode_pairs _ _ (by decide) d k hk

/-- Settles O41: the sets and the coverage by what settling leaves (`Settles`), the monitors by their F3 faults (`raiseF3_holds`). -/
theorem fieldSetsAndMonitors : Obligations.FieldSetsAndMonitors := by
  unfold Obligations.FieldSetsAndMonitors
  intro s
  refine ⟨fun d v hc => ⟨_, ?_, rfl⟩, fun d v c hc hen hv => fselAccept_new hc hen hv, fun d v c hc hen => fselAccept_missing hc hen,
    fun h => ⟨s, (if_pos h : execFsetDisagree s = _), rfl⟩,
    fun hm h => ⟨_, (if_neg h : execFsetDisagree s = _), raiseF3_holds hm _ _ (by decide)⟩, fun d h => ⟨s, ?_, rfl⟩,
    fun d l k h => fsetOverlapEnd_gives h, fun dir ha hb => ⟨s, (if_neg (by simpa using ⟨by simpa using ha, by simpa using hb⟩) : execCoverageLapse dir s = _), rfl⟩,
    fun dir h => coverageLapse_gives h, fun d n c hc hon hcov => coverageTrip_gives hc hon hcov, fun d => ⟨s, ?_, rfl⟩,
    fun d v w hm hup h => evaluatorSelfTest_fails d hm hup h, fun line => ⟨s, (if_pos (by simp) : execTestPulse line true true true s = _), rfl⟩,
    fun line own other back h => ⟨s, (if_pos (by simp [h]) : execTestPulse line own other back s = _), rfl⟩,
    fun line own other back hon h hm => testPulse_fails other hon h hm, fun line hm hup => readbackFault_gives line hm hup,
    fun ball h => ⟨_, (if_neg (by simp [h]) : execTstModeRise ball s = _), rfl⟩, fun ball ha hm => tstModeRise_armed ball ha hm⟩
  · show execFselAccept d v s = _
    unfold execFselAccept acceptFsel
    rw [hc]
  · show execFsetOverlapEnd d s = _
    unfold execFsetOverlapEnd
    simp [h]
  · show execEvaluatorSelfTest d true true s = _
    unfold execEvaluatorSelfTest
    split <;> rfl

end Sys2Proof.Machine

/-! ## The debug port opened while scanning (R87, R661)

O42 quantifies over every state, and the values held for a frame boundary are a plain list of fields. Opening the debug port leaves the
scan first, which applies what is held. -/
namespace Sys2Proof.Machine

/-- SCAN with a value held for the count of zeroizations. -/
def heldCountState : State := { State.reset with mode := .scan, hold := [{ fld := F.SEC_ZERO_CNT, val := 5, late := false }] }

/-- The state whose secrets DEBUG_PORT_OPEN zeroizes. -/
def beforeZeroize (s : State) : State := forcePairs (ballsLow (if s.mode.scanning then leaveScan s else s))

theorem zeroize_count (s : State) : (zeroize s).get F.SEC_ZERO_CNT = min ((linkOff s).get F.SEC_ZERO_CNT + 1) (2 ^ 16 - 1) := by
  unfold zeroize State.inc State.add
  dsimp only
  refine (get_set_same _ F.SEC_ZERO_CNT _).trans ?_
  simp (disch := decide) only [get_set_other]
  exact Nat.mod_eq_of_lt (Nat.lt_of_le_of_lt (Nat.min_le_right _ _) (by decide))

/-- The lockout latched and OPENED set, with the clusters off. -/
def lockOpened (u : State) : State :=
  let v := setClusters (((u.set F.SAF_STATUS_LOCK_LATCH 1).set F.SAF_STATUS_LOCK_CAUSE 3).set F.SEC_STATUS_OPENED 1) Cl.off
  if 4 ≤ v.step then startAt v 0 else v

/-- OPENED is entered. -/
def openDevice (w : State) : State :=
  { setMode w .opened with pins := { w.pins with tstMode := true }, fatalReset := false,
                           sys := { w.sys with trans := none, sleepEntering := false }, link := { w.link with sleepShake := false } }

theorem execDebugPortOpen_opens {s : State} (h : ¬ (s.mode == .off || s.flag F.SEC_STATUS_OPENED) = true) :
    execDebugPortOpen s = .next (openDevice (lockOpened (zeroize (beforeZeroize s)))) := by
  unfold execDebugPortOpen openDevice lockOpened beforeZeroize
  rw [if_neg h]

theorem lockOpened_count (u : State) : (lockOpened u).get F.SEC_ZERO_CNT = u.get F.SEC_ZERO_CNT := by
  unfold lockOpened
  have hset : (setClusters (((u.set F.SAF_STATUS_LOCK_LATCH 1).set F.SAF_STATUS_LOCK_CAUSE 3).set F.SEC_STATUS_OPENED 1) Cl.off).get F.SEC_ZERO_CNT =
      u.get F.SEC_ZERO_CNT := by
    rw [setClusters_frame _ _ _ (by decide)]
    simp (disch := decide) only [get_set_other]
  dsimp only
  generalize setClusters _ Cl.off = v at hset ⊢
  split
  · exact (get_set_other v 0 (by decide)).trans hset
  · exact hset

theorem openDevice_count (w : State) : (openDevice w).get F.SEC_ZERO_CNT = w.get F.SEC_ZERO_CNT := by
  have h := setMode_frame w .opened F.SEC_ZERO_CNT (by decide)
  unfold openDevice
  generalize setMode w .opened = v at h ⊢
  exact h

theorem heldCountState_counts : (linkOff (beforeZeroize heldCountState)).get F.SEC_ZERO_CNT = 5 := by decide +kernel

/-- Refutes O42: where a value of SEC_ZERO_CNT is held for the next frame boundary, leaving SCAN writes it before the zeroization is
counted, so that the count is not the one before plus one. -/
theorem not_securityCommands : ¬ Obligations.SecurityCommands := by
  unfold Obligations.SecurityCommands
  intro h
  obtain ⟨-, -, -, hopen, -⟩ := h heldCountState
  obtain ⟨t, ht, -, -, -, -, -, -, -, -, hcount, -⟩ := hopen (by decide) (by decide +kernel)
  have hrun := (execDebugPortOpen_opens (s := heldCountState) (by decide +kernel)).symm.trans ht
  injection hrun with hrun
  rw [← hrun, openDevice_count, lockOpened_count, zeroize_count, heldCountState_counts] at hcount
  exact absurd hcount (by decide +kernel)

end Sys2Proof.Machine

/-! ## The interrupt controller (R558 to R569)

Delivery, the exit, the messages and the software bits, and with them O43. -/
namespace Sys2Proof.Machine

/-! ### Delivery to the herd controller (R558 to R564) -/

/-- The fields of the herd controller's status word. -/
def herdFields : List Fld := [F.IRQ_HERD_STAT_VECTOR, F.IRQ_HERD_STAT_SPUR, F.IRQ_HERD_STAT_PHASE, F.IRQ_HERD_STAT_RUNNING]

/-- No source's ACTIVE bit lies in the status word. -/
theorem active_key_ne (n : Nat) : ∀ f ∈ herdFields, f.key ≠ (F.IRQ_SRC_CFG_ACTIVE n).key := by
  simp only [herdFields, List.mem_cons, List.not_mem_nil, or_false, forall_eq_or_imp, forall_eq, Fld.key]
  omega

/-- What the taking of the vector leaves. -/
theorem deliver_parts (s : State) (n : Nat) : (deliver s n).get F.IRQ_HERD_STAT_VECTOR = n % 2 ^ F.IRQ_HERD_STAT_VECTOR.width ∧
    (deliver s n).get F.IRQ_HERD_STAT_SPUR = 0 ∧ (deliver s n).get F.IRQ_HERD_STAT_PHASE = 0 ∧
    (deliver s n).get (F.IRQ_SRC_CFG_ACTIVE n) = 1 ∧
    (deliver s n).irq = { s.irq with stack := (n, s.get (F.IRQ_SRC_CFG_PRIO n)) :: s.irq.stack, entry := none, exiting := false } ∧
    RegsOnly [F.IRQ_HERD_STAT_VECTOR, F.IRQ_HERD_STAT_SPUR, F.IRQ_HERD_STAT_PHASE, F.IRQ_HERD_STAT_RUNNING,
      F.IRQ_SRC_CFG_ACTIVE n] { s with irq := (deliver s n).irq } (deliver s n) := by
  have hactive := active_key_ne n
  have hregs : (deliver s n).regs = (((((s.set F.IRQ_HERD_STAT_VECTOR n).set F.IRQ_HERD_STAT_SPUR 0).set F.IRQ_HERD_STAT_PHASE 0).set
      (F.IRQ_SRC_CFG_ACTIVE n) 1).set F.IRQ_HERD_STAT_RUNNING (s.get (F.IRQ_SRC_CFG_PRIO n))).regs := rfl
  have hget (f : Fld) : (deliver s n).get f = (((((s.set F.IRQ_HERD_STAT_VECTOR n).set F.IRQ_HERD_STAT_SPUR 0).set F.IRQ_HERD_STAT_PHASE 0).set
      (F.IRQ_SRC_CFG_ACTIVE n) 1).set F.IRQ_HERD_STAT_RUNNING (s.get (F.IRQ_SRC_CFG_PRIO n))).get f := congrArg (getReg · f) hregs
  refine ⟨?_, ?_, ?_, ?_, rfl, rfl, ?_⟩
  · rw [hget, get_set_other _ _ (by decide), get_set_other _ _ (hactive _ (by simp [herdFields])), get_set_other _ _ (by decide),
      get_set_other _ _ (by decide), get_set_same]
  · rw [hget, get_set_other _ _ (by decide), get_set_other _ _ (hactive _ (by simp [herdFields])), get_set_other _ _ (by decide), get_set_same]
    rfl
  · rw [hget, get_set_other _ _ (by decide), get_set_other _ _ (hactive _ (by simp [herdFields])), get_set_same]
    rfl
  · rw [hget, get_set_other _ _ (hactive F.IRQ_HERD_STAT_RUNNING (by simp [herdFields])).symm, get_set_same]
    rfl
  · refine RegFrame.other (t := ((((s.set F.IRQ_HERD_STAT_VECTOR n).set F.IRQ_HERD_STAT_SPUR 0).set F.IRQ_HERD_STAT_PHASE 0).set
      (F.IRQ_SRC_CFG_ACTIVE n) 1).set F.IRQ_HERD_STAT_RUNNING (s.get (F.IRQ_SRC_CFG_PRIO n))) ?_ hregs
    exact (((((RegFrame.other (s := { s with irq := (deliver s n).irq }) (.refl _ _) rfl).set n (by simp)).set 0 (by simp)).set 0
      (by simp)).set 1 (by simp)).set _ (by simp)

theorem spurious_parts (s : State) : (spurious s).get F.IRQ_HERD_STAT_VECTOR = 0x1FF ∧ (spurious s).get F.IRQ_HERD_STAT_SPUR = 1 ∧
    (spurious s).irq = { s.irq with entry := none } ∧
    RegsOnly [F.IRQ_HERD_STAT_VECTOR, F.IRQ_HERD_STAT_SPUR, F.IRQ_HERD_STAT_PHASE, F.IRQ_CNT_SPUR] { s with irq := (spurious s).irq }
      (spurious s) := by
  have hregs : (spurious s).regs = ((((s.set F.IRQ_HERD_STAT_VECTOR 0x1FF).set F.IRQ_HERD_STAT_SPUR 1).set F.IRQ_HERD_STAT_PHASE 0).inc
      F.IRQ_CNT_SPUR).regs := rfl
  have hget (f : Fld) (hf : f.key ≠ F.IRQ_CNT_SPUR.key) : (spurious s).get f =
      (((s.set F.IRQ_HERD_STAT_VECTOR 0x1FF).set F.IRQ_HERD_STAT_SPUR 1).set F.IRQ_HERD_STAT_PHASE 0).get f :=
    (congrArg (getReg · f) hregs).trans (get_set_other _ _ hf)
  refine ⟨?_, ?_, rfl, rfl, ?_⟩
  · rw [hget _ (by decide), get_set_other _ _ (by decide), get_set_other _ _ (by decide), get_set_same]
    rfl
  · rw [hget _ (by decide), get_set_other _ _ (by decide), get_set_same]
    rfl
  · exact ((((RegFrame.other (s := { s with irq := (spurious s).irq }) (.refl _ _) rfl).set 0x1FF (by simp)).set 1 (by simp)).set 0
      (by simp)).inc (by simp)

/-- The innermost handler ended, before the phase of the exit is known. -/
def handlerEnded (s : State) (n : Nat) (l : List (Nat × Nat)) : State :=
  noteRunning { s.set (F.IRQ_SRC_CFG_ACTIVE n) 0 with irq := { s.irq with stack := l, exiting := true } }

theorem herdEoi_gives {s : State} {n p : Nat} {l : List (Nat × Nat)} (h : s.irq.stack = (n, p) :: l) : Gives .herdEoi s (fun t =>
    t.get (F.IRQ_SRC_CFG_ACTIVE n) = 0 ∧ t.irq = { s.irq with stack := l, exiting := true } ∧
    (t.get F.IRQ_HERD_STAT_PHASE = 2 ∨ t.get F.IRQ_HERD_STAT_PHASE = 3) ∧
    (l = [] → t.get F.IRQ_HERD_STAT_RUNNING = 0x1F) ∧
    RegsOnly [F.IRQ_SRC_CFG_ACTIVE n, F.IRQ_HERD_STAT_RUNNING, F.IRQ_HERD_STAT_PHASE] { s with irq := t.irq } t) := by
  have hactive := active_key_ne n
  have hrun : execHerdEoi s =
      .next ((handlerEnded s n l).set F.IRQ_HERD_STAT_PHASE (if (winner (handlerEnded s n l)).isSome then 3 else 2)) := by
    unfold execHerdEoi
    rw [h]
    rfl
  have hended : (handlerEnded s n l).get (F.IRQ_SRC_CFG_ACTIVE n) = 0 ∧ (handlerEnded s n l).irq = { s.irq with stack := l, exiting := true } ∧
      (l = [] → (handlerEnded s n l).get F.IRQ_HERD_STAT_RUNNING = 0x1F) ∧
      handlerEnded s n l = { s with irq := (handlerEnded s n l).irq, regs := (handlerEnded s n l).regs } ∧
      RegFrame [F.IRQ_SRC_CFG_ACTIVE n, F.IRQ_HERD_STAT_RUNNING, F.IRQ_HERD_STAT_PHASE] s (handlerEnded s n l) := by
    refine ⟨?_, rfl, fun hl => ?_, rfl, ?_⟩
    · refine (get_set_other _ _ (hactive F.IRQ_HERD_STAT_RUNNING (by simp [herdFields])).symm).trans ?_
      exact get_set_same s (F.IRQ_SRC_CFG_ACTIVE n) 0
    · subst hl
      exact get_set_same _ F.IRQ_HERD_STAT_RUNNING 0x1F
    · exact (RegFrame.other (t := s.set (F.IRQ_SRC_CFG_ACTIVE n) 0) ((RegFrame.refl _ s).set 0 (by simp)) rfl).set _ (by simp)
  generalize handlerEnded s n l = t at hrun hended
  obtain ⟨hzero, hirq, hrunning, heq, hframe⟩ := hended
  have hphase : (if (winner t).isSome then 3 else 2) = 2 ∨ (if (winner t).isSome then 3 else 2) = 3 := by
    split
    · exact .inr rfl
    · exact .inl rfl
  generalize (if (winner t).isSome then 3 else 2) = phase at hrun hphase
  refine ⟨_, hrun, ?_, hirq, ?_, fun hl => ?_, ?_, ?_⟩
  · exact (get_set_other _ _ (hactive F.IRQ_HERD_STAT_PHASE (by simp [herdFields])).symm).trans hzero
  · rcases hphase with rfl | rfl
    · exact .inl (get_set_same t F.IRQ_HERD_STAT_PHASE 2)
    · exact .inr (get_set_same t F.IRQ_HERD_STAT_PHASE 3)
  · exact (get_set_other _ _ (by decide)).trans (hrunning hl)
  · rw [heq]
    rfl
  · exact (hframe.set _ (by simp))

/-- The clauses of IRQ_ENTRY and IRQ_EXIT. -/
theorem irqEntry_starts {s : State} (he : s.irq.entry = none) (hx : s.irq.exiting = false) {n : Nat} (hw : winner s = some n) :
    Gives .irqEntry s (fun t => t.irq = { s.irq with entry := some n } ∧ t.get F.IRQ_HERD_STAT_PHASE = 1 ∧
      RegsOnly [F.IRQ_HERD_STAT_PHASE] { s with irq := t.irq } t) := by
  have hrun : execIrqEntry s = .next { s.set F.IRQ_HERD_STAT_PHASE 1 with irq := { s.irq with entry := some n } } := by
    unfold execIrqEntry
    simp [he, hx, hw]
  exact ⟨_, hrun, rfl, get_set_same s F.IRQ_HERD_STAT_PHASE 1, rfl,
    RegFrame.other (t := s.set F.IRQ_HERD_STAT_PHASE 1) (.set (.other (.refl _ _) rfl) 1 (by simp)) rfl⟩

theorem irqExit_ends {s : State} (hx : s.irq.exiting = true) (hw : winner s = none) :
    Gives .irqExit s (fun t => t.irq = { s.irq with exiting := false } ∧ t.get F.IRQ_HERD_STAT_PHASE = 0 ∧
      RegsOnly [F.IRQ_HERD_STAT_PHASE] { s with irq := t.irq } t) := by
  have hrun : execIrqExit s = .next { s.set F.IRQ_HERD_STAT_PHASE 0 with irq := { s.irq with exiting := false } } := by
    unfold execIrqExit
    simp [hx, hw]
  exact ⟨_, hrun, rfl, get_set_same s F.IRQ_HERD_STAT_PHASE 0, rfl,
    RegFrame.other (t := s.set F.IRQ_HERD_STAT_PHASE 0) (.set (.other (.refl _ _) rfl) 0 (by simp)) rfl⟩

/-! ### MSI-X (R565 to R568) -/

/-- The fields of a vector's status that a message writes. -/
def vectorFields (v : Nat) : List Fld := [F.IRQ_VEC_STAT_SENT v, F.IRQ_VEC_STAT_SEND_CNT v]

theorem sendVector_parts (s : State) (v : Nat) : (sendVector s v).tx = s.tx ++ [vectorMsg s v] ∧
    (sendVector s v).get (F.IRQ_VEC_STAT_SENT v) = 1 ∧ (sendVector s v).irq = { s.irq with pba := clearBit s.irq.pba v } ∧
    RegFrame (vectorFields v) s (sendVector s v) := by
  have hne : (F.IRQ_VEC_STAT_SENT v).key ≠ (F.IRQ_VEC_STAT_SEND_CNT v).key := by
    simp only [Fld.key]
    omega
  refine ⟨rfl, ?_, rfl, ?_⟩
  · exact (get_set_other (s.set (F.IRQ_VEC_STAT_SENT v) 1) _ hne).trans (get_set_same s (F.IRQ_VEC_STAT_SENT v) 1)
  · exact RegFrame.other (t := (s.set (F.IRQ_VEC_STAT_SENT v) 1).inc (F.IRQ_VEC_STAT_SEND_CNT v))
      (((RegFrame.refl _ s).set 1 (by simp [vectorFields])).inc (by simp [vectorFields])) rfl

theorem execMsixSend_raises {s : State} {v : Nat} (h : firstVector s (dueVectors s) = some v) : execMsixSend s = .next (raiseVector s v) := by
  unfold execMsixSend
  rw [h]

theorem raiseVector_sends {s : State} {v : Nat} (h : vectorBlocked s v = false) : raiseVector s v = sendVector s v := if_neg (by simp [h])

/-- The clause of IRQ_HOST_EOI of a sent vector whose level is still high. -/
theorem irqHostEoi_resends {s : State} {value : Dword} {v : Nat} (hv : v = value.toNat % 64) (hs : s.flag (F.IRQ_VEC_STAT_SENT v) = true)
    (hl : vectorLevel (s.set (F.IRQ_VEC_STAT_SENT v) 0) v = true) (hb : vectorBlocked (s.set (F.IRQ_VEC_STAT_SENT v) 0) v = false) :
    Gives (.irqHostEoi value) s (fun t => t.get (F.IRQ_VEC_STAT_SENT v) = 1 ∧ t.tx = s.tx ++ [vectorMsg s v] ∧
      t.get F.IRQ_CNT_RESEND = (s.inc F.IRQ_CNT_RESEND).get F.IRQ_CNT_RESEND ∧
      RegFrame [F.IRQ_VEC_STAT_SENT v, F.IRQ_VEC_STAT_SEND_CNT v, F.IRQ_CNT_RESEND] s t) := by
  have hkeys : (F.IRQ_VEC_STAT_SENT v).key ≠ F.IRQ_CNT_RESEND.key ∧ F.IRQ_CNT_RESEND.key ≠ (F.IRQ_VEC_STAT_SEND_CNT v).key := by
    simp only [Fld.key]
    omega
  obtain ⟨hsent, hcnt⟩ := hkeys
  have hrun : execIrqHostEoi value s = .next ((sendVector (s.set (F.IRQ_VEC_STAT_SENT v) 0) v).inc F.IRQ_CNT_RESEND) := by
    unfold execIrqHostEoi hostEoi
    rw [← hv, if_neg (by simp [hs])]
    dsimp only
    rw [if_neg (by simp [hl]), if_neg (by simp [hb]), raiseVector_sends hb]
  obtain ⟨htx, hone, -, hframe⟩ := sendVector_parts (s.set (F.IRQ_VEC_STAT_SENT v) 0) v
  have hall : RegFrame (vectorFields v) s (sendVector (s.set (F.IRQ_VEC_STAT_SENT v) 0) v) :=
    ((RegFrame.refl _ s).set 0 (by simp [vectorFields])).trans hframe
  generalize sendVector (s.set (F.IRQ_VEC_STAT_SENT v) 0) v = t at hrun htx hone hall
  refine ⟨_, hrun, (get_set_other _ _ hsent).trans hone, htx, ?_, ?_⟩
  · have hsame : t.get F.IRQ_CNT_RESEND = s.get F.IRQ_CNT_RESEND := hall _ (by simp [vectorFields, hsent.symm, hcnt])
    unfold State.inc State.add
    rw [get_set_same, get_set_same, hsame]
  · exact (hall.subset (by simp +contextual [vectorFields])).inc (by simp)

theorem irqHostEoi_rests {s : State} {value : Dword} {v : Nat} (hv : v = value.toNat % 64) (hs : s.flag (F.IRQ_VEC_STAT_SENT v) = true)
    (hl : vectorLevel (s.set (F.IRQ_VEC_STAT_SENT v) 0) v = false) : Gives (.irqHostEoi value) s (fun t =>
      t.get (F.IRQ_VEC_STAT_SENT v) = 0 ∧ RegsOnly [F.IRQ_VEC_STAT_SENT v] s t) := by
  have hrun : execIrqHostEoi value s = .next (s.set (F.IRQ_VEC_STAT_SENT v) 0) := by
    unfold execIrqHostEoi hostEoi
    rw [← hv, if_neg (by simp [hs])]
    dsimp only
    rw [if_pos (by simp [hl])]
  exact ⟨_, hrun, get_set_same s (F.IRQ_VEC_STAT_SENT v) 0, rfl, (RegFrame.refl _ s).set 0 (by simp)⟩

/-- With no vector pending nothing is sent. -/
theorem sendPending_none (n : Nat) {s : State} (h : s.irq.pba = 0) : sendPending n s = s := by
  cases n with
  | zero => rfl
  | succ n =>
    have hempty : (List.range 64).filter (fun v => bit s.irq.pba v && !vectorBlocked s v) = [] := by simp [h, bit]
    unfold sendPending
    rw [hempty]
    rfl

theorem writeEntries_pba (l : List MsixEntry) (s : State) : (l.foldl writeEntry s).irq.pba = s.irq.pba := by
  induction l generalizing s with
  | nil => rfl
  | cons e l ih => exact ih _

theorem bit_two_pow (v k : Nat) : bit (2 ^ v) k = decide (v = k) := by
  unfold bit
  exact Nat.testBit_two_pow

/-- One vector that is pending alone, at its level and no longer blocked, is sent. -/
theorem sendPending_one {s : State} {v : Nat} (hv : v < 64) (hp : s.irq.pba = 2 ^ v) (hb : vectorBlocked s v = false)
    (hl : vectorLevel s v = true) (hs : s.flag (F.IRQ_VEC_STAT_SENT v) = false) (n : Nat) :
    sendPending (n + 1) s = sendVector { s with irq := { s.irq with pba := clearBit s.irq.pba v } } v := by
  have hone : (List.range 64).filter (fun k => bit s.irq.pba k && !vectorBlocked s k) = [v] := by
    have hsame : ∀ k ∈ List.range 64, (bit s.irq.pba k && !vectorBlocked s k) = (k == v) := by
      intro k _
      rw [hp, bit_two_pow]
      by_cases h : v = k
      · subst h
        simp [hb]
      · simp [h, Ne.symm h]
    have hsingle : ∀ v < 64, (List.range 64).filter (fun k => k == v) = [v] := by decide
    rw [List.filter_congr hsame, hsingle v hv]
  conv => lhs; unfold sendPending
  rw [hone]
  show sendPending n (if vectorLevel s v && !s.flag (F.IRQ_VEC_STAT_SENT v) then _ else _) = _
  rw [if_pos (by simp [hl, hs])]
  refine sendPending_none n ?_
  show clearBit (clearBit s.irq.pba v) v = 0
  rw [hp]
  unfold clearBit
  simp

/-! ### Software bits (R569) -/

theorem testBit_sub_and (x w k : Nat) : (x - (x &&& w)).testBit k = (x.testBit k && !w.testBit k) := by
  have hbits := Nat.and_mod_two_eq_one (a := x) (b := w)
  induction k generalizing x w with
  | zero =>
    have hle : x &&& w ≤ x := Nat.and_le_left
    rw [Nat.testBit_zero, Nat.testBit_zero, Nat.testBit_zero, ← decide_not, ← Bool.decide_and, decide_eq_decide]
    omega
  | succ k ih =>
    have hhalf : (x - (x &&& w)) / 2 = x / 2 - (x / 2 &&& w / 2) := by
      rw [← Nat.and_div_two]
      have hle : x &&& w ≤ x := Nat.and_le_left
      omega
    rw [Nat.testBit_succ, Nat.testBit_succ, Nat.testBit_succ, hhalf]
    exact ih (x / 2) (w / 2) Nat.and_mod_two_eq_one

theorem irqSwset_gives (s : State) (i : Fin 16) (value : Dword) : Gives (.irqSwset i value) s (fun t => RegsOnly [F.IRQ_SWSET i] s t ∧
    ∀ k < 32, (t.get (F.IRQ_SWSET i)).testBit k = ((s.get (F.IRQ_SWSET i)).testBit k || value.toNat.testBit k)) := by
  refine ⟨_, rfl, ⟨rfl, (RegFrame.refl _ s).set _ (by simp)⟩, fun k hk => ?_⟩
  have hget := get_set_same s (F.IRQ_SWSET i) (s.get (F.IRQ_SWSET i) ||| value.toNat)
  show (State.get (s.set (F.IRQ_SWSET i) _) (F.IRQ_SWSET i)).testBit k = _
  rw [hget, Nat.testBit_mod_two_pow]
  simp [hk]

theorem irqSwclr_gives (s : State) (i : Fin 16) (value : Dword) : Gives (.irqSwclr i value) s (fun t => RegsOnly [F.IRQ_SWSET i] s t ∧
    ∀ k < 32, (t.get (F.IRQ_SWSET i)).testBit k = ((s.get (F.IRQ_SWSET i)).testBit k && !value.toNat.testBit k)) := by
  refine ⟨_, rfl, ⟨rfl, (RegFrame.refl _ s).set _ (by simp)⟩, fun k hk => ?_⟩
  have hget := get_set_same s (F.IRQ_SWSET i) (s.get (F.IRQ_SWSET i) - (s.get (F.IRQ_SWSET i) &&& value.toNat))
  show (State.get (s.set (F.IRQ_SWSET i) _) (F.IRQ_SWSET i)).testBit k = _
  rw [hget, Nat.testBit_mod_two_pow, testBit_sub_and]
  simp [hk]

/-! ### The obligation -/

theorem irqEntry_none {s : State} (he : s.irq.entry = none) (hw : winner s = none) : Gives .irqEntry s (fun t => t = s) := by
  refine ⟨s, ?_, rfl⟩
  show execIrqEntry s = _
  unfold execIrqEntry
  rw [he, hw]
  dsimp only
  split <;> rfl

theorem irqEntry_delivers {s : State} {m n : Nat} (he : s.irq.entry = some m) (hw : winner s = some n) :
    execIrqEntry s = .next (deliver s n) := by
  unfold execIrqEntry
  rw [he, hw]

theorem irqEntry_spurious {s : State} {m : Nat} (he : s.irq.entry = some m) (hw : winner s = none) :
    execIrqEntry s = .next (spurious s) := by
  unfold execIrqEntry
  rw [he, hw]

theorem irqExit_delivers {s : State} {n : Nat} (hx : s.irq.exiting = true) (hw : winner s = some n) :
    execIrqExit s = .next (deliver s n) := by
  unfold execIrqExit
  simp [hx, hw]

/-- A bit that is set stands alone in its mask. -/
theorem two_pow_eq_and_of_testBit {w n : Nat} (h : w.testBit n = true) : 2 ^ n = w &&& 2 ^ n := by
  refine Nat.eq_of_testBit_eq fun i => ?_
  rw [Nat.testBit_and, Nat.testBit_two_pow]
  by_cases hi : n = i
  · simp [← hi, h]
  · simp [hi]

theorem testBit_clearBit_same (w n : Nat) : (clearBit w n).testBit n = false := by
  unfold clearBit
  split
  · next h =>
    have hand := two_pow_eq_and_of_testBit h
    rw [hand, testBit_sub_and, Nat.testBit_two_pow_self, Bool.not_true, Bool.and_false]
  · next h => simpa using h

/-- The clause of MSIX_UNBLOCK of one entry, with nothing pending. -/
theorem msixUnblock_writes (s : State) (e : MsixEntry) : Gives (.msixUnblock [e]) { s with irq := { s.irq with pba := 0 } } (fun t =>
    t.irq.table.find? (fun x => x.vector.val = e.vector.val) = some e ∧ bit t.irq.vecMask e.vector.val = e.masked) := by
  have hrun : execMsixUnblock [e] { s with irq := { s.irq with pba := 0 } } =
      .next (writeEntry { s with irq := { s.irq with pba := 0 } } e) := congrArg _ (sendPending_none 64 rfl)
  refine ⟨_, hrun, List.find?_cons_of_pos (by simp), ?_⟩
  show bit (if e.masked then setBit s.irq.vecMask e.vector.val else clearBit s.irq.vecMask e.vector.val) e.vector.val = e.masked
  cases e.masked
  · exact testBit_clearBit_same _ _
  · exact testBit_setBit_same _ _

/-- The clause of MSIX_UNBLOCK of an entry that unblocks a pending vector. -/
theorem msixUnblock_sends {s : State} {e : MsixEntry} {v : Nat} {u : State} (hv : v < 64) (hu : u = writeEntry s e) (hp : s.irq.pba = 2 ^ v)
    (hb : vectorBlocked u v = false) (hl : vectorLevel u v = true) (hs : s.flag (F.IRQ_VEC_STAT_SENT v) = false) :
    Gives (.msixUnblock [e]) s (fun t => t.tx = s.tx ++ [vectorMsg u v] ∧ t.irq.pba = 0 ∧ t.irq.vecMask = u.irq.vecMask ∧
      t.get (F.IRQ_VEC_STAT_SENT v) = 1) := by
  have hpu : u.irq.pba = 2 ^ v := by
    rw [hu]
    exact hp
  have hsu : u.flag (F.IRQ_VEC_STAT_SENT v) = false := by
    rw [hu]
    exact hs
  have htx : u.tx = s.tx := by rw [hu]; rfl
  have hrun : execMsixUnblock [e] s = .next (sendVector { u with irq := { u.irq with pba := clearBit u.irq.pba v } } v) := by
    rw [← sendPending_one hv hpu hb hl hsu 63, hu]
    rfl
  obtain ⟨hsends, hone, hirq, -⟩ := sendVector_parts { u with irq := { u.irq with pba := clearBit u.irq.pba v } } v
  refine ⟨_, hrun, ?_, ?_, ?_, hone⟩
  · rw [hsends]
    exact congrArg (· ++ [vectorMsg u v]) htx
  · rw [hirq]
    show clearBit (clearBit u.irq.pba v) v = 0
    rw [hpu]
    unfold clearBit
    simp
  · rw [hirq]

/-- Settles O43: delivery by `deliver_parts`, the messages by `sendVector_parts`, the software bits by their bits. -/
theorem interruptController : Obligations.InterruptController := by
  unfold Obligations.InterruptController
  intro s
  refine ⟨fun he hx n hw => irqEntry_starts he hx hw, fun he hw => irqEntry_none he hw,
    fun m n he hw => ⟨deliver s n, (irqEntry_delivers he hw : execIrqEntry s = _), deliver_parts s n⟩,
    fun m he hw => ⟨spurious s, (irqEntry_spurious he hw : execIrqEntry s = _), spurious_parts s⟩,
    fun n p l h => herdEoi_gives h, fun h => ⟨s, (if_pos (by simp [h]) : execIrqExit s = _), rfl⟩, fun hx hw => irqExit_ends hx hw,
    fun n hx hw => ⟨_, (irqExit_delivers hx hw : execIrqExit s = _), ?_⟩, fun v h hb => ⟨_, ((execMsixSend_raises h).trans (congrArg _ (raiseVector_sends hb)) : execMsixSend s = _), ?_⟩,
    fun v h hb => ⟨_, (execMsixSend_raises h : execMsixSend s = _), if_pos hb⟩, fun value h => ⟨s, congrArg Host.Outcome.next (if_pos (by simp [h]) : hostEoi s (value.toNat % 64) = s), rfl⟩,
    fun value v hv hs => ⟨fun hl => irqHostEoi_rests hv hs hl, fun hl hb => irqHostEoi_resends hv hs hl hb⟩,
    fun l h => ⟨_, congrArg Host.Outcome.next (sendPending_none 64 ((writeEntries_pba l s).trans h)), rfl⟩, fun e => msixUnblock_writes s e,
    fun e v u hv hu hp hb hl hs => msixUnblock_sends hv hu hp hb hl hs, fun i value => irqSwset_gives s i value,
    fun i value => irqSwclr_gives s i value⟩
  · obtain ⟨hvector, -, -, hactive, hirq, -⟩ := deliver_parts s n
    exact ⟨hvector, hactive, hirq⟩
  · obtain ⟨htx, hone, hirq, hframe⟩ := sendVector_parts s v
    exact ⟨htx, hone, hirq, hframe⟩

end Sys2Proof.Machine

/-! ## A trigger of a source beyond those of the recorder (R540)

O45 quantifies over every state, and a trigger that waits is a plain pair of numbers. The primary source of a recording is one of the
sources 0 to 7, so that a waiting trigger of source 8 gives it no date. -/
namespace Sys2Proof.Machine

/-- An armed recorder with a trigger of source 8 and date 5 that waits. -/
def strayTriggerState : State :=
  { State.reset with
    regs := [(F.ACQ_STATUS_STATE.key, Rec.armed)]
    acq := { State.reset.acq with pend := [(8, 5)], cfg := some (parseAcq []) } }

/-- What TRIGGER_SAMPLE leaves of the date of the last trigger. -/
def lastTrigAfter (s : State) : Option Nat :=
  match execTriggerSample 0 s with
  | .next t => some (t.get F.ACQ_LAST_TRIG)
  | _ => none

theorem strayTriggerState_dates : lastTrigAfter strayTriggerState = some 0 := by decide +kernel

/-- Refutes O45: the recording of a waiting trigger of source 8 has no primary trigger among its sources, and ACQ_LAST_TRIG reads 0 instead
of the trigger's date. With the sources 0 to 7 alone the clause stands. -/
theorem not_recorderRuns : ¬ Obligations.RecorderRuns := by
  unfold Obligations.RecorderRuns
  intro h
  obtain ⟨-, htrig, -⟩ := h strayTriggerState
  obtain ⟨-, harmed, -⟩ := htrig 0 8 5 (parseAcq []) rfl rfl
  obtain ⟨t, ht, -, -, -, hlast, -⟩ := harmed (by decide +kernel)
  have hafter := strayTriggerState_dates
  unfold lastTrigAfter at hafter
  rw [show execTriggerSample 0 strayTriggerState = .next t from ht] at hafter
  rw [Option.some.inj hafter] at hlast
  exact absurd hlast (by decide)

end Sys2Proof.Machine

/-! ## The recorder's commands and the trigger bus (R533 to R535, R539, R542, R552 to R554)

Each command's own state, and with them O44. -/
namespace Sys2Proof.Machine

/-! ### Arming and disarming (R534, R535) -/

/-- The recorder armed over its rings. -/
def armedOver (t : State) : State :=
  { t.set F.ACQ_STATUS_STATE Rec.armed with acq := { t.acq with
    armedAt := t.now, lastEnd := 0, run := none, pend := [], kept := 0, frames := [], meas := [], seq := 0 } }

theorem acqArm_places {s : State} {p : Port} {tag : Nat} {c : Cmd} (hd : c.discard = false)
    (h : Ready s p tag 0x0601 (fun s c => stdCheck s c false s.acq.cfg.isNone (recState s != Rec.disarmed)) c) {u : State}
    (hu : s.acq.cfg.bind (placeRings s) = some u) : Gives (.acqArm p tag) s (fun t => Ends t c St.done t.now ∧
      t.get F.ACQ_STATUS_STATE = Rec.armed ∧ t.acq.run = none ∧ t.acq.pend = [] ∧ t.acq.rings = u.acq.rings ∧ t.mode = u.mode) := by
  have hgives : Gives (.acqArm p tag) s (fun t => t = finishOk (armedOver u) c (armedOver u).now) := by
    refine h.gives (execAcqArm p tag s) rfl rfl ?_
    dsimp only
    rw [hu]
    rfl
  obtain ⟨t, hrun, rfl⟩ := hgives
  have harmed : (armedOver u).get F.ACQ_STATUS_STATE = Rec.armed := get_set_same u F.ACQ_STATUS_STATE Rec.armed
  have heq := finishOk_eq (s := armedOver u) hd (armedOver u).now
  have hnow : (finishOk (armedOver u) c (armedOver u).now).now = (armedOver u).now := by
    rw [heq]
    rfl
  refine ⟨_, hrun, ?_, ?_⟩
  · rw [hnow]
    exact ends_ok hd _
  · rw [heq]
    exact ⟨harmed, rfl, rfl, rfl, rfl⟩

theorem acqArm_refuses {s : State} {p : Port} {tag : Nat} {c : Cmd} (hd : c.discard = false)
    (h : Ready s p tag 0x0601 (fun s c => stdCheck s c false s.acq.cfg.isNone (recState s != Rec.disarmed)) c)
    (hu : s.acq.cfg.bind (placeRings s) = none) : Gives (.acqArm p tag) s (fun t => Ends t c St.resource 0 ∧ t = { s with cmd := t.cmd }) := by
  refine h.gives (execAcqArm p tag s) rfl rfl ?_
  dsimp only
  rw [hu]
  exact ⟨refuse_ends hd _ _ (by decide) (by decide), refuse_cmd_only hd (by decide) _⟩

/-- The recorder that closes its recording before it is disarmed. -/
def disarmWaits (s : State) : State :=
  { (stopSections s).set F.ACQ_STATUS_STATE Rec.closing with acq := { (stopSections s).acq with disarming := true } }

theorem disarmWaits_parts (s : State) : (disarmWaits s).get F.ACQ_STATUS_STATE = Rec.closing ∧ (disarmWaits s).acq.disarming = true ∧
    (disarmWaits s).acq.rings = s.acq.rings ∧ (disarmWaits s).acq.cfg = s.acq.cfg ∧ (disarmWaits s).cmd = s.cmd := by
  have hstop : (stopSections s).acq.rings = s.acq.rings ∧ (stopSections s).acq.cfg = s.acq.cfg ∧ (stopSections s).cmd = s.cmd := by
    unfold stopSections
    split <;> exact ⟨rfl, rfl, rfl⟩
  obtain ⟨hrings, hcfg, hcmd⟩ := hstop
  unfold disarmWaits
  generalize stopSections s = t at hrings hcfg hcmd ⊢
  exact ⟨get_set_same t F.ACQ_STATUS_STATE Rec.closing, rfl, hrings, hcfg, hcmd⟩

theorem acqDisarm_waits {s : State} {p : Port} {tag : Nat} {c : Cmd}
    (h : Ready s p tag 0x0602 (fun s c => stdCheck s c false false false) c) (hr : s.acq.run.isSome = true) :
    Gives (.acqDisarm p tag) s (fun t => { c with phase := CmdPhase.running } ∈ t.cmd.cmds ∧ t.cmd.comps = s.cmd.comps ∧
      t.get F.ACQ_STATUS_STATE = Rec.closing ∧ t.acq.disarming = true ∧ t.acq.rings = s.acq.rings ∧ t.acq.cfg = s.acq.cfg) := by
  have hgives : Gives (.acqDisarm p tag) s (fun t => t = replaceCmd (disarmWaits s) c { c with phase := .running }) := by
    refine h.gives (execAcqDisarm p tag s) rfl rfl ?_
    dsimp only
    rw [if_neg (by simpa [Option.isSome_iff_ne_none] using hr)]
    rfl
  obtain ⟨t, hrun, rfl⟩ := hgives
  obtain ⟨hstate, hwait, hrings, hcfg, hcmd⟩ := disarmWaits_parts s
  refine ⟨_, hrun, ?_⟩
  clear hrun
  generalize disarmWaits s = t at hstate hwait hrings hcfg hcmd ⊢
  refine ⟨replaceFirst_mem _ ?_, (congrArg CmdSt.comps hcmd : t.cmd.comps = s.cmd.comps), hstate, hwait, hrings, hcfg⟩
  rw [hcmd]
  exact h.mem

theorem disarm_parts (s : State) : (disarm s).get F.ACQ_STATUS_STATE = Rec.disarmed ∧ (disarm s).acq.rings = [] ∧ (disarm s).acq.pend = [] ∧
    (disarm s).acq.cfg = s.acq.cfg := by
  unfold disarm
  dsimp only
  have hdrop := dropStalls_yards (s.set F.ACQ_STATUS_STATE Rec.disarmed) (s.acq.rings.foldl (fun a (r : RecRing) => a ++ r.stalls) [])
  have hacq : (dropStalls (s.set F.ACQ_STATUS_STATE Rec.disarmed) (s.acq.rings.foldl (fun a (r : RecRing) => a ++ r.stalls) [])).acq = s.acq := by
    rw [hdrop.eq]
    rfl
  have hget := (hdrop.frame F.ACQ_STATUS_STATE (by decide)).trans (get_set_same s F.ACQ_STATUS_STATE Rec.disarmed)
  clear hdrop
  generalize dropStalls _ _ = t at hacq hget ⊢
  exact ⟨hget, rfl, rfl, congrArg AcqSt.cfg hacq⟩

theorem acqDisarm_done {s : State} {p : Port} {tag : Nat} {c : Cmd} (hd : c.discard = false)
    (h : Ready s p tag 0x0602 (fun s c => stdCheck s c false false false) c) (hr : s.acq.run = none) :
    Gives (.acqDisarm p tag) s (fun t => Ends t c St.done 0 ∧ t.get F.ACQ_STATUS_STATE = Rec.disarmed ∧ t.acq.rings = [] ∧
      t.acq.pend = [] ∧ t.acq.cfg = s.acq.cfg ∧ Holds s t) := by
  have hgives : Gives (.acqDisarm p tag) s (fun t => t = finishOk (disarm s) c 0) := by
    refine h.gives (execAcqDisarm p tag s) rfl rfl ?_
    dsimp only
    rw [if_pos (by rw [hr]; rfl)]
  obtain ⟨t, hrun, rfl⟩ := hgives
  obtain ⟨hstate, hrings, hpend, hcfg⟩ := disarm_parts s
  refine ⟨_, hrun, ends_ok hd 0, ?_, ?_, ?_, ?_, exec_holds hrun⟩
  all_goals rw [finishOk_eq hd]
  · exact hstate
  · exact hrings
  · exact hpend
  · exact hcfg

/-! ### Triggers on command and the log (R539, R542) -/

/-- A trigger whose source is enabled joins those that wait while the recorder is not disarmed. -/
theorem triggerAt_notes {s : State} {k : AcqCfg} (hk : s.acq.cfg = some k) {source : Nat} (hb : bit k.srcEn source = true)
    (hr : recState s ≠ Rec.disarmed) (date : Nat) :
    triggerAt s source date = { s with acq := { s.acq with pend := s.acq.pend ++ [(source, date)] } } := by
  unfold triggerAt
  rw [hk]
  have hstate : s.get F.ACQ_STATUS_STATE ≠ 0 := hr
  exact if_pos (by simp [hb, hstate])

theorem triggerAt_none {s : State} (h : s.acq.cfg = none) (source date : Nat) : triggerAt s source date = s := by
  unfold triggerAt
  rw [h]

theorem acqTrigger_gives {s : State} {p : Port} {tag : Nat} {c : Cmd} (hd : c.discard = false) (h : Ready s p tag 0x0603 acqTriggerCheck c)
    {k : AcqCfg} (hk : s.acq.cfg = some k) (hb : bit k.srcEn 7 = true) (hr : recState s ≠ Rec.disarmed) :
    Gives (.acqTrigger p tag) s (fun t => Ends t c St.done s.now ∧
      t.acq = { s.acq with pend := s.acq.pend ++ [(7, s.now)] } ∧ t = { s with acq := t.acq, cmd := t.cmd }) := by
  refine h.gives (execAcqTrigger p tag s) rfl rfl ?_
  unfold trigger
  rw [triggerAt_notes hk hb hr]
  refine ⟨ends_ok hd _, ?_⟩
  rw [finishOk_eq hd]
  exact ⟨rfl, rfl⟩

theorem foldl_missBytes (l : List MissEntry) (a : List Byte) : l.foldl (fun a e => a ++ missBytes e) a = a ++ (l.map missBytes).flatten := by
  induction l generalizing a with
  | nil => simp
  | cons e l ih => simp [ih]

/-- The log emptied. -/
def logEmptied (s : State) : State := { s.set F.ACQ_LOG_LOG_OVF 0 with acq := { s.acq with log := [] } }

theorem pcieUsable_logEmptied (s : State) : pcieUsable (logEmptied s) = pcieUsable s := by
  have hget (f : Fld) (hf : f.key ≠ F.ACQ_LOG_LOG_OVF.key) : (logEmptied s).get f = s.get f := get_set_other s 0 hf
  unfold pcieUsable State.flag
  rw [hget _ (by decide), hget _ (by decide), hget _ (by decide)]
  rfl

theorem acqReadLog_gives {s : State} {p : Port} {tag : Nat} {c : Cmd} (hd : c.discard = false)
    (h : Ready s p tag 0x0604 (fun s c => stdCheck s c false false false) c) {d : List Byte}
    (hdata : d = ((s.acq.log.map missBytes).flatten).take (64 * c.paramLen / 16 * 16)) (hu : c.port = .ring → pcieUsable s = true) :
    Gives (.acqReadLog p tag) s (fun t => Ends t c St.done d.length ∧ Delivers s t c d ∧
      t.acq = { s.acq with log := [] } ∧ t.get F.ACQ_LOG_LOG_OVF = 0 ∧ RegFrame [F.ACQ_LOG_LOG_OVF] s t) := by
  have hgives : Gives (.acqReadLog p tag) s (fun t => t = finishOut (logEmptied s) c (s.acq.log.map missBytes).flatten 16) := by
    refine h.gives (execAcqReadLog p tag s) rfl rfl ?_
    dsimp only
    rw [foldl_missBytes, List.nil_append]
    rfl
  obtain ⟨t, hrun, ht⟩ := hgives
  obtain ⟨hends, hdelivers, heq⟩ := finishOut_delivers (s := logEmptied s) (s.acq.log.map missBytes).flatten 16 hd
    fun hp => (pcieUsable_logEmptied s).trans (hu hp)
  rw [← hdata] at hends hdelivers
  have hzero : (logEmptied s).get F.ACQ_LOG_LOG_OVF = 0 := get_set_same s F.ACQ_LOG_LOG_OVF 0
  have hframe : RegFrame [F.ACQ_LOG_LOG_OVF] s (logEmptied s) :=
    RegFrame.other (t := s.set F.ACQ_LOG_LOG_OVF 0) ((RegFrame.refl _ s).set 0 (by simp)) rfl
  rw [← ht] at hends hdelivers heq
  refine ⟨t, hrun, hends, hdelivers, ?_, ?_, hframe.other (by rw [heq])⟩
  · rw [heq]
    rfl
  · rw [heq]
    exact hzero

/-! ### The trigger bus (R552 to R554) -/

theorem trigInEdge_gives {s : State} (ago : Nat) {k : AcqCfg} (hk : s.acq.cfg = some k) (hb : bit k.srcEn 5 = true)
    (hr : recState s ≠ Rec.disarmed) : Gives (.trigInEdge ago) s (fun t =>
      t.acq = { s.acq with pend := s.acq.pend ++ [(5, s.now - ago)] } ∧ t.regs = s.regs ∧ t.mode = s.mode) := by
  refine ⟨_, congrArg Host.Outcome.next (triggerAt_notes hk hb hr _), rfl, rfl, rfl⟩

/-- What a taken TRIGGER frame gives, before its trigger is noted. -/
def busEdge (s : State) (steps ago : Nat) : State := noteEdge s 8 none { time := stampAt s (s.sys.raw - ago) steps, window := 0 }

theorem execTrigger_takes {s : State} {w : BitVec 48} (h : busTakes s Bus.trigger w = true) (steps ago : Nat) : execTrigger w steps ago s =
    .next (triggerAt (busEdge s steps ago) 6 (busDate s (busOrigin w) (busData w / 2 ^ 8) (s.now - ago) steps)) := if_pos h

theorem trigger_gives {s : State} {w : BitVec 48} (steps ago : Nat) {k : AcqCfg} (hk : s.acq.cfg = some k) (hb : bit k.srcEn 6 = true)
    (hr : recState s ≠ Rec.disarmed) (hon : busOn s = true) (hw : w = busFrame Bus.trigger (busOrigin w) (busData w)) :
    Gives (.trigger w steps ago) s (fun t =>
      t.acq = { s.acq with pend := s.acq.pend ++ [(6, busDate s (busOrigin w) (busData w / 2 ^ 8) (s.now - ago) steps)] } ∧
      t.regs = s.regs ∧ t.mode = s.mode) := by
  have htakes : busTakes s Bus.trigger w = true := by
    unfold busTakes
    rw [hon, ← hw]
    simp
  have hnotes := triggerAt_notes (s := busEdge s steps ago) hk hb hr (busDate s (busOrigin w) (busData w / 2 ^ 8) (s.now - ago) steps)
  refine ⟨_, (execTrigger_takes htakes steps ago).trans (congrArg Host.Outcome.next hnotes), rfl, rfl, rfl⟩

theorem trigger_unconfigured {s : State} (w : BitVec 48) (steps ago : Nat) (h : s.acq.cfg = none) :
    Gives (.trigger w steps ago) s (fun t => t.acq = s.acq ∧ t.regs = s.regs) := by
  cases ht : busTakes s Bus.trigger w with
  | false => exact ⟨s, (if_neg (by simp [ht]) : execTrigger w steps ago s = _), rfl, rfl⟩
  | true =>
    have hnone := triggerAt_none (s := busEdge s steps ago) h 6 (busDate s (busOrigin w) (busData w / 2 ^ 8) (s.now - ago) steps)
    exact ⟨_, (execTrigger_takes ht steps ago).trans (congrArg Host.Outcome.next hnone), rfl, rfl⟩

/-- The state in which a unit's answer is recorded with a delay. -/
def replyTaken (s : State) (j d trip : Nat) : State :=
  let t := (s.set (F.ACQ_TB_DLY_VALID j) 1).set (F.ACQ_TB_DLY_DELAY j) d
  { t with acq := { t.acq with tbMax := some trip } }

theorem execMeasureReply_takes {s : State} {w : BitVec 48} (trip : Nat) {m : Nat} (hm : s.acq.tbMax = some m)
    (hw : busTakes s Bus.measureReply w = true) : ∃ d, execMeasureReply w trip s = .next (replyTaken s (busOrigin w) d (max m trip)) := by
  unfold execMeasureReply
  rw [hm, hw]
  exact ⟨_, rfl⟩

theorem replyTaken_parts (s : State) (j d trip : Nat) : (replyTaken s j d trip).get (F.ACQ_TB_DLY_VALID j) = 1 ∧
    RegFrame [F.ACQ_TB_DLY_VALID j, F.ACQ_TB_DLY_DELAY j] s (replyTaken s j d trip) := by
  have hkey : (F.ACQ_TB_DLY_VALID j).key ≠ (F.ACQ_TB_DLY_DELAY j).key := by
    simp only [Fld.key]
    omega
  have hregs : (replyTaken s j d trip).regs = ((s.set (F.ACQ_TB_DLY_VALID j) 1).set (F.ACQ_TB_DLY_DELAY j) d).regs := rfl
  refine ⟨(congrArg (getReg · _) hregs).trans ?_, RegFrame.other (((RegFrame.refl _ s).set 1 (by simp)).set d (by simp)) hregs⟩
  exact (get_set_other (s.set (F.ACQ_TB_DLY_VALID j) 1) d hkey).trans (get_set_same s (F.ACQ_TB_DLY_VALID j) 1)

theorem measureReply_gives {s : State} {w : BitVec 48} (trip : Nat) {m : Nat} (hm : s.acq.tbMax = some m)
    (hw : busTakes s Bus.measureReply w = true) : Gives (.measureReply w trip) s (fun t =>
      t.acq = { s.acq with tbMax := some (max m trip) } ∧ t.get (F.ACQ_TB_DLY_VALID (busOrigin w)) = 1 ∧
      RegFrame [F.ACQ_TB_DLY_VALID (busOrigin w), F.ACQ_TB_DLY_DELAY (busOrigin w)] s t) := by
  obtain ⟨d, hrun⟩ := execMeasureReply_takes trip hm hw
  exact ⟨_, hrun, rfl, replyTaken_parts s _ d _⟩

/-- The delays of the units forgotten, and a measurement in progress. -/
def measureBegun (t : State) : State :=
  let u := (List.range 16).foldl (fun (a : State) j => a.set (F.ACQ_TB_DLY_VALID j) 0) t
  let v := if busOn u then sendBus u Bus.measure 0 else u
  { v with acq := { v.acq with tbMax := some 0 } }

theorem measureBegun_parts (t : State) : (measureBegun t).acq = { t.acq with tbMax := some 0 } ∧
    (∀ j < 16, (measureBegun t).get (F.ACQ_TB_DLY_VALID j) = 0) ∧ (measureBegun t).mode = t.mode ∧ (measureBegun t).cmd = t.cmd := by
  have hfold : ((List.range 16).foldl (fun (a : State) j => a.set (F.ACQ_TB_DLY_VALID j) 0) t) =
      { t with regs := ((List.range 16).foldl (fun (a : State) j => a.set (F.ACQ_TB_DLY_VALID j) 0) t).regs } :=
    List.foldlRecOn (motive := fun (u : State) => u = { t with regs := u.regs }) _ _ rfl fun u hu j _ => by
      rw [hu]
      rfl
  have hget : ∀ j < 16, ((List.range 16).foldl (fun (a : State) j => a.set (F.ACQ_TB_DLY_VALID j) 0) t).get (F.ACQ_TB_DLY_VALID j) = 0 :=
    fun j hj => get_foldl_set (f := F.ACQ_TB_DLY_VALID) (by decide) (List.mem_range.2 hj) 0 t
  unfold measureBegun
  dsimp only
  generalize (List.range 16).foldl (fun (a : State) j => a.set (F.ACQ_TB_DLY_VALID j) 0) t = u at hfold hget ⊢
  have hsent : ∃ x, (if busOn u then sendBus u Bus.measure 0 else u) = { u with tx := x } := by
    split
    · exact ⟨_, rfl⟩
    · exact ⟨_, rfl⟩
  obtain ⟨x, hx⟩ := hsent
  rw [hx]
  refine ⟨?_, hget, ?_, ?_⟩ <;> rw [hfold]

theorem trigbusMeasure_gives {s : State} {p : Port} {tag : Nat} {c : Cmd} (hd : c.discard = false)
    (h : Ready s p tag 0x0802 (fun s c => stdCheck s c false false s.acq.tbMax.isSome) c) :
    Gives (.trigbusMeasure p tag) s (fun t => Running t c ∧ t.acq = { s.acq with tbMax := some 0 } ∧
      (∀ j < 16, t.get (F.ACQ_TB_DLY_VALID j) = 0) ∧ t.mode = s.mode) := by
  have hgives : Gives (.trigbusMeasure p tag) s (fun t => t = measureBegun (begun s c)) := by
    refine h.gives (run := fun s c => begin_ s c fun t _ => measureBegun t) (execTrigbusMeasure p tag s) rfl rfl ?_
    exact begin_begun s c _
  obtain ⟨t, hrun, rfl⟩ := hgives
  refine ⟨_, hrun, ?_⟩
  clear hrun
  obtain ⟨hacq, hvalid, hmode, hcmd⟩ := measureBegun_parts (begun s c)
  have hruns := (begun_in hd h.mem hcmd).1
  obtain ⟨y, hy⟩ := begun_with (s := s) hd
  generalize measureBegun (begun s c) = t at hacq hvalid hmode hruns ⊢
  rw [hy] at hacq hmode
  exact ⟨hruns, hacq, hvalid, hmode⟩

theorem trigbusMeasureDone_gives {s : State} {c : Cmd} (hd : c.discard = false) {m : Nat} (hm : s.acq.tbMax = some m)
    (hc : runningCmd s 0x0802 = some c) : Gives .trigbusMeasureDone s (fun t =>
      Ends t c St.done m ∧ t.acq = { s.acq with tbMax := none } ∧ t.regs = s.regs) := by
  have hrun : execTrigbusMeasureDone s = .next (finish { s with acq := { s.acq with tbMax := none } } c St.done 0 m) := by
    unfold execTrigbusMeasureDone finishRunning
    rw [hm]
    dsimp only
    rw [show runningCmd { s with acq := { s.acq with tbMax := none } } 0x0802 = some c from hc]
  refine ⟨_, hrun, ends_with hd _ _ _ _, ?_⟩
  unfold finish
  rw [finishWith_cmd_only hd]
  exact ⟨rfl, rfl⟩

/-- Settles O44: arming by the rings that are placed, the bus by the frames that it takes, and every command by its own state. -/
theorem recorderCommands : Obligations.RecorderCommands := by
  unfold Obligations.RecorderCommands
  intro s
  refine ⟨fun p tag c hd => ⟨fun h => ?_, fun h => ⟨fun u hu => acqArm_places hd h hu, fun hu => acqArm_refuses hd h hu⟩,
      fun h hr => acqDisarm_waits h hr, fun h hr => acqDisarm_done hd h hr, fun h k hk hb hr => acqTrigger_gives hd h hk hb hr,
      fun h d hdata hu => acqReadLog_gives hd h hdata hu, fun h => trigbusMeasure_gives hd h, fun m hm hc => trigbusMeasureDone_gives hd hm hc⟩,
    fun ago k hk hb hr => trigInEdge_gives ago hk hb hr, fun w steps ago k hk hb hr hon hw => trigger_gives steps ago hk hb hr hon hw,
    fun w steps ago h => ⟨s, (if_neg (by simp [h]) : execTrigger w steps ago s = _), rfl⟩,
    fun w steps ago h => ⟨⟨s, congrArg Host.Outcome.next (triggerAt_none h _ _), rfl, rfl⟩, trigger_unconfigured w steps ago h⟩,
    fun hl hb => ⟨_, (if_pos (by simp [hl, hb]) : execMeasure s = _), rfl⟩, fun w trip m hm hw => measureReply_gives trip hm hw⟩
  refine h.gives (execAcqConfig p tag s) rfl rfl ?_
  refine ⟨ends_ok hd _, ?_, .other (.setOne s F.ACQ_STATUS_CFG_VALID 1) (finishWith_regs hd _ _ _ _), ?_⟩
  · rw [finishOk_eq hd]
    exact get_set_same s F.ACQ_STATUS_CFG_VALID 1
  · rw [finishOk_eq hd]

end Sys2Proof.Machine

/-! ## Keeping, losing and resting the partner link (R594, R601 to R604)

What goes on the line changes the stream alone; with it O47. -/
namespace Sys2Proof.Machine

/-! ### What goes on the line (R585 to R589) -/

/-- Only what was sent, the stream's state and the free choices change. -/
def LineOnly (s t : State) : Prop :=
  t = { s with tx := t.tx, free := t.free, prt := { s.prt with odd := t.prt.odd, scr := t.prt.scr, txSeq := t.prt.txSeq } }

theorem LineOnly.refl (s : State) : LineOnly s s := rfl

theorem LineOnly.trans {r s t : State} (h : LineOnly r s) (k : LineOnly s t) : LineOnly r t := by
  unfold LineOnly at *
  rw [k, h]

theorem LineOnly.foldl {s t : State} {α : Type} {f : State → α → State} (hf : ∀ u x, LineOnly u (f u x)) (l : List α) (h : LineOnly s t) :
    LineOnly s (l.foldl f t) :=
  List.foldlRecOn l f h fun u hu x _ => hu.trans (hf u x)

theorem LineOnly.regs {s t : State} (h : LineOnly s t) : t.regs = s.regs := by
  unfold LineOnly at h
  rw [h]

theorem LineOnly.mode {s t : State} (h : LineOnly s t) : t.mode = s.mode := by
  unfold LineOnly at h
  rw [h]

theorem streamWord_line (s : State) (header payload : Nat) : LineOnly s (streamWord s header payload) := rfl

theorem noteSent_line (s : State) (kind : Nat) (payload : List Nat) : LineOnly s (noteSent s kind payload) := rfl

theorem sendWord_line (s : State) (ctype value : Nat) : LineOnly s (sendWord s ctype value) :=
  (noteSent_line s _ _).trans (streamWord_line _ _ _)

theorem streamWords_line (s : State) (l : List (Nat × Nat)) : LineOnly s (streamWords s l) := by
  induction l generalizing s with
  | nil => exact .refl s
  | cons w l ih => exact (streamWord_line s w.1 w.2).trans (ih _)

theorem sendPacket_line (s : State) (kind : Nat) (payload : List Nat) : LineOnly s (sendPacket s kind payload) := by
  have hwords := (noteSent_line s kind payload).trans (streamWords_line (noteSent s kind payload) (packetWords s kind payload))
  unfold sendPacket
  generalize streamWords (noteSent s kind payload) (packetWords s kind payload) = t at hwords ⊢
  exact hwords.trans (show LineOnly t { t with prt := { t.prt with txSeq := t.prt.txSeq + 1 } } from rfl)

theorem sendTrn_line (s : State) (n : Nat) : LineOnly s (sendTrn s n) :=
  .foldl (fun u _ => .foldl (fun v _ => (show LineOnly v (putWord v _ _ _) from rfl)) _ (.refl u)) _ rfl

/-! ### PRT_CONFIG (R148) -/

theorem clearUnsure_parts (s : State) : (clearUnsure s).mode = s.mode ∧ (clearUnsure s).pins = s.pins ∧ (clearUnsure s).cmd = s.cmd := by
  unfold clearUnsure
  split <;> exact ⟨rfl, rfl, rfl⟩

theorem setTwinMode_parts (s : State) (mode : Nat) : (setTwinMode s mode).get F.RED_STATUS_MODE = mode % 4 ∧
    (setTwinMode s mode).get F.RED_STATUS_ALT = 0 ∧ (setTwinMode s mode).get F.RED_STATUS_HALTER = 0 ∧
    (setTwinMode s mode).get F.RED_STATUS_SILENCE = 0 ∧ (setTwinMode s mode).get F.RED_STATUS_STANDBY = 0 ∧
    (setTwinMode s mode).pins.halter = false ∧ (setTwinMode s mode).mode = s.mode := by
  have hget : ∀ f ∈ [(F.RED_STATUS_MODE, mode % 4), (F.RED_STATUS_ALT, 0), (F.RED_STATUS_HALTER, 0), (F.RED_STATUS_SILENCE, 0),
      (F.RED_STATUS_STANDBY, 0)], ((((((s.set F.RED_STATUS_MODE mode).set F.RED_STATUS_ALT 0).set F.RED_STATUS_ALT_CAUSE 0).set
        F.RED_STATUS_SILENCE 0).set F.RED_STATUS_STANDBY 0).set F.RED_STATUS_HALTER 0).get f.1 = f.2 := by
    simp only [List.mem_cons, List.not_mem_nil, or_false, forall_eq_or_imp, forall_eq]
    refine ⟨?_, ?_, ?_, ?_, ?_⟩ <;> simp (disch := decide) only [get_set_other, get_set_same] <;> rfl
  have hmode : ((((((s.set F.RED_STATUS_MODE mode).set F.RED_STATUS_ALT 0).set F.RED_STATUS_ALT_CAUSE 0).set
        F.RED_STATUS_SILENCE 0).set F.RED_STATUS_STANDBY 0).set F.RED_STATUS_HALTER 0).mode = s.mode := rfl
  unfold setTwinMode
  dsimp only
  generalize (((((s.set F.RED_STATUS_MODE mode).set F.RED_STATUS_ALT 0).set F.RED_STATUS_ALT_CAUSE 0).set
        F.RED_STATUS_SILENCE 0).set F.RED_STATUS_STANDBY 0).set F.RED_STATUS_HALTER 0 = a at hget hmode ⊢
  have hsure := clearUnsure_frame a
  have hmode' := (clearUnsure_parts a).1
  generalize clearUnsure a = b at hsure hmode' ⊢
  have hb : ∀ f ∈ [(F.RED_STATUS_MODE, mode % 4), (F.RED_STATUS_ALT, 0), (F.RED_STATUS_HALTER, 0), (F.RED_STATUS_SILENCE, 0),
      (F.RED_STATUS_STANDBY, 0)], (b.set F.RED_ILK_DRIVING 0).get f.1 = f.2 := by
    intro f hf
    have hkeys : ∀ g ∈ [F.RED_STATUS_MODE, F.RED_STATUS_ALT, F.RED_STATUS_HALTER, F.RED_STATUS_SILENCE, F.RED_STATUS_STANDBY],
        g.key ≠ F.RED_ILK_DRIVING.key ∧ ∀ h ∈ [F.SCH_STATUS_UNSURE, F.RED_DBL_MAX], g.key ≠ h.key := by decide
    have hmem : f.1 ∈ [F.RED_STATUS_MODE, F.RED_STATUS_ALT, F.RED_STATUS_HALTER, F.RED_STATUS_SILENCE, F.RED_STATUS_STANDBY] :=
      List.mem_map_of_mem (f := Prod.fst) hf
    obtain ⟨hdriving, hothers⟩ := hkeys f.1 hmem
    exact (get_set_other b 0 hdriving).trans ((hsure f.1 hothers).trans (hget f hf))
  have hbmode : (b.set F.RED_ILK_DRIVING 0).mode = s.mode := hmode'.trans hmode
  generalize b.set F.RED_ILK_DRIVING 0 = d at hb hbmode ⊢
  have hrole (e : State) (he : e.regs = d.regs) (f : Fld) (hf : f.key ≠ F.RED_STATUS_ROLE.key) : (noteRole e).get f = d.get f :=
    (noteRole_frame e f (by simpa using hf)).trans (congrArg (getReg · f) he)
  simp only [List.mem_cons, List.not_mem_nil, or_false, forall_eq_or_imp, forall_eq] at hb
  obtain ⟨hm, halt, hhalter, hsilence, hstandby⟩ := hb
  exact ⟨(hrole _ (by rfl) _ (by decide)).trans hm, (hrole _ (by rfl) _ (by decide)).trans halt, (hrole _ (by rfl) _ (by decide)).trans hhalter,
    (hrole _ (by rfl) _ (by decide)).trans hsilence, (hrole _ (by rfl) _ (by decide)).trans hstandby, rfl, hbmode⟩

/-! ### Training and loss (R594, R600, R601) -/

theorem startTraining_parts (s : State) : (startTraining s).get F.LNK_PRT_STATUS_STATE = Prt.detect ∧
    (startTraining s).get F.LNK_PRT_STATUS_SESSION = 0 ∧ (startTraining s).mode = s.mode ∧ (startTraining s).cmd = s.cmd ∧
    (startTraining s).prt.retrain = s.prt.retrain ∧ (startTraining s).get F.LNK_PRT_CNT_LOSS = s.get F.LNK_PRT_CNT_LOSS := by
  have hregs : (startTraining s).regs = ((((((s.set F.LNK_PRT_STATUS_SESSION 0).set F.SEC_STATUS_SESSION_KEYS 0).set F.SYS_STATUS_PARTNER_UP 0).set
      F.LNK_PRT_STATUS_STATE Prt.detect).set F.LNK_PRT_STATUS_LANES_UP 0).inc F.LNK_PRT_CNT_TRAIN).regs := rfl
  have hget (f : Fld) : (startTraining s).get f = ((((((s.set F.LNK_PRT_STATUS_SESSION 0).set F.SEC_STATUS_SESSION_KEYS 0).set
      F.SYS_STATUS_PARTNER_UP 0).set F.LNK_PRT_STATUS_STATE Prt.detect).set F.LNK_PRT_STATUS_LANES_UP 0).inc F.LNK_PRT_CNT_TRAIN).get f :=
    congrArg (getReg · f) hregs
  unfold State.inc State.add at hget
  refine ⟨?_, ?_, rfl, rfl, rfl, ?_⟩ <;> rw [hget]
  · simp (disch := decide) only [get_set_other, get_set_same]
    rfl
  · simp (disch := decide) only [get_set_other, get_set_same] <;> rfl
  · simp (disch := decide) only [get_set_other]

theorem linkLoss_parts (s : State) : (linkLoss s).get F.LNK_PRT_STATUS_STATE = Prt.detect ∧
    (linkLoss s).get F.LNK_PRT_STATUS_SESSION = 0 ∧ (linkLoss s).prt.lost = true ∧
    (linkLoss s).get F.LNK_PRT_CNT_LOSS = (s.inc F.LNK_PRT_CNT_LOSS).get F.LNK_PRT_CNT_LOSS ∧ (linkLoss s).mode = s.mode := by
  obtain ⟨hstate, hsession, hmode, -, -, hloss⟩ := startTraining_parts (s.inc F.LNK_PRT_CNT_LOSS)
  have hm : (s.inc F.LNK_PRT_CNT_LOSS).mode = s.mode := rfl
  unfold linkLoss
  generalize s.inc F.LNK_PRT_CNT_LOSS = u at hstate hsession hmode hloss hm ⊢
  generalize startTraining u = t at hstate hsession hmode hloss ⊢
  exact ⟨hstate, hsession, rfl, hloss, hmode.trans hm⟩

/-- The session ended for a training on command. -/
def retrained (s : State) (c : Cmd) : State :=
  startTraining { s with prt := { s.prt with retrain := some (c.port, c.tag), lost := false } }

theorem prtRetrain_gives {s : State} {p : Port} {tag : Nat} {c : Cmd} (hd : c.discard = false)
    (h : Ready s p tag 0x0801 (fun s c => stdCheck s c false false s.prt.retrain.isSome) c) :
    Gives (.prtRetrain p tag) s (fun t => Running t c ∧ t.prt.retrain = some (c.port, c.tag) ∧
      t.get F.LNK_PRT_STATUS_STATE = Prt.detect ∧ t.get F.LNK_PRT_STATUS_SESSION = 0 ∧ t.mode = s.mode) := by
  refine h.gives (run := fun s c => begin_ s c retrained) (execPrtRetrain p tag s) rfl rfl ?_
  rw [begin_begun]
  obtain ⟨hstate, hsession, hmode, hcmd, hretrain, -⟩ := startTraining_parts
    { begun s c with prt := { (begun s c).prt with retrain := some (c.port, c.tag), lost := false } }
  have hruns := (begun_in hd h.mem hcmd).1
  obtain ⟨y, hy⟩ := begun_with (s := s) hd
  have hm : (begun s c).mode = s.mode := by rw [hy]
  exact ⟨hruns, hretrain, hstate, hsession, hmode.trans hm⟩

/-- Lane 0 alone is left. -/
theorem wordLockLoss_one {s : State} (hk : linkKept s = true) (hl : bit (s.get F.LNK_PRT_STATUS_LANES_UP) 1 = true) :
    Gives (.wordLockLoss 1) s (fun t => t.get F.LNK_PRT_STATUS_LANES_UP = 1 ∧
      RegFrame (F.LNK_PRT_STATUS_LANES_UP :: faultFields 1) s t ∧ t.prt = s.prt ∧ t.mode = s.mode) := by
  have hrun : execWordLockLoss 1 s = .next (raiseFault (s.set F.LNK_PRT_STATUS_LANES_UP 1) 1 0x0F03 0) := by
    unfold execWordLockLoss
    rw [if_pos hk, if_neg (by decide), if_pos hl]
  have hframe := RegFrame.raise (RegFrame.refl (faultFields 1) (s.set F.LNK_PRT_STATUS_LANES_UP 1)) 1 0x0F03 0 (fun _ h => h)
  refine ⟨_, hrun, ?_, ?_, raiseFault_prt _ _ _ _, raiseFault_mode _ _ _ _⟩
  · exact (hframe _ (by decide)).trans (get_set_same s F.LNK_PRT_STATUS_LANES_UP 1)
  · exact RegFrame.trans ((RegFrame.refl _ s).set 1 (by simp)) (hframe.subset (by simp +contextual))

/-! ### Doze and Deep (R602 to R604) -/

/-- The link goes to a state after words on the line. -/
theorem toPrt_line {s t : State} (h : LineOnly s t) {st : Nat} (hst : st < 16) : (toPrt t st).get F.LNK_PRT_STATUS_STATE = st ∧
    RegFrame [F.LNK_PRT_STATUS_STATE] s (toPrt t st) := by
  refine ⟨(get_set_same t F.LNK_PRT_STATUS_STATE st).trans (Nat.mod_eq_of_lt hst), ?_⟩
  exact ((RegFrame.refl _ s).other h.regs).set st (by simp)

theorem doze_rests {s : State} (hs : prtState s = Prt.active) (hd : s.flag F.LNK_PRT_CTRL_DOZE_EN = true)
    (hn : native s = false ∨ s.mode.scanning = false) : Gives .doze s (fun t =>
      t.get F.LNK_PRT_STATUS_STATE = (if s.flag F.LNK_PRT_CTRL_DEEP_EN = true then Prt.deep else Prt.doze) ∧
      RegFrame [F.LNK_PRT_STATUS_STATE] s t ∧ t.tx = (sendWord s 0xB4 (b2n (s.flag F.LNK_PRT_CTRL_DEEP_EN))).tx) := by
  have hno : ¬ (prtState s != Prt.active || !s.flag F.LNK_PRT_CTRL_DOZE_EN || (native s && s.mode.scanning)) = true := by
    rcases hn with hn | hn <;> simp [hs, hd, hn]
  have hrun : execDoze s = .next (toPrt (sendWord s 0xB4 (b2n (s.flag F.LNK_PRT_CTRL_DEEP_EN)))
      (if s.flag F.LNK_PRT_CTRL_DEEP_EN then Prt.deep else Prt.doze)) := if_neg hno
  obtain ⟨hstate, hframe⟩ := toPrt_line (sendWord_line s 0xB4 (b2n (s.flag F.LNK_PRT_CTRL_DEEP_EN)))
    (st := if s.flag F.LNK_PRT_CTRL_DEEP_EN = true then Prt.deep else Prt.doze) (by split <;> decide)
  exact ⟨_, hrun, hstate, hframe, rfl⟩

theorem dozeExit_gives {s : State} (h : dozes s = true) : Gives .dozeExit s (fun t => t.get F.LNK_PRT_STATUS_STATE = Prt.active ∧
    RegFrame [F.LNK_PRT_STATUS_STATE] s t ∧ t.tx = (sendTrn s (wakeWords s)).tx) := by
  obtain ⟨hstate, hframe⟩ := toPrt_line (sendTrn_line s (wakeWords s)) (st := Prt.active) (by decide)
  exact ⟨_, congrArg Host.Outcome.next (if_pos h : leaveDoze s = toPrt (sendTrn s (wakeWords s)) Prt.active), hstate, hframe, rfl⟩

/-- Settles O47: training by `startTraining_parts`, rest by what a word on the line changes (`LineOnly`). -/
theorem partnerLinkKept : Obligations.PartnerLinkKept := by
  unfold Obligations.PartnerLinkKept
  intro s
  refine ⟨fun p tag c hd => ⟨fun h => ?_, fun h => prtRetrain_gives hd h⟩,
    fun hk => ⟨⟨_, (if_pos hk : execWordLockLoss 0 s = _), linkLoss_parts s⟩, ⟨_, (if_pos hk : execPrtLinkLoss s = _), linkLoss_parts s⟩,
      fun hl => wordLockLoss_one hk hl⟩,
    fun hk => ⟨s, (if_neg (by simp [hk]) : execPrtLinkLoss s = _), rfl⟩, fun hs hd hn => doze_rests hs hd hn,
    fun h => ⟨s, (if_pos (by simp [h]) : execDoze s = _), rfl⟩, fun h => dozeExit_gives h,
    fun h hu => ⟨_, (if_pos (by simp [h, hu]) : execDozeKeepalive s = _), ?_, rfl⟩⟩
  · refine h.gives (execPrtConfig p tag s) rfl rfl ?_
    have hparts := setTwinMode_parts s (c.dw 4 % 4)
    rw [Nat.mod_mod] at hparts
    refine ⟨ends_ok hd 0, ?_⟩
    rw [finishOk_eq hd]
    generalize setTwinMode s (c.dw 4 % 4) = t at hparts ⊢
    exact hparts
  · exact (((sendTrn_line s _).trans (sendPacket_line _ _ _)).trans (sendWord_line _ _ _)).regs

end Sys2Proof.Machine

/-! ## Silence and the halter (R519 to R527)

What unadmitting and the drop of future cells leave; with it O49. -/
namespace Sys2Proof.Machine

/-! ### UNSURE, and shots that go back -/

theorem clearUnsure_flag (s : State) : (clearUnsure s).flag F.SCH_STATUS_UNSURE = false := by
  unfold clearUnsure
  split
  next h => simpa using h
  next =>
    have hget : ((s.set F.SCH_STATUS_UNSURE 0).set F.RED_DBL_MAX (max (s.get F.RED_DBL_MAX) (min
        (match s.red.since with
          | some a => (s.sch.abs + s.sch.next - a) * s.sch.slotNs / 1000
          | none => 0) 0xFFFF))).get F.SCH_STATUS_UNSURE = 0 := by
      simp (disch := decide) only [get_set_other, get_set_same] <;> rfl
    exact flag_eq_false.mpr hget

/-- Only the scheduler's and the emitter's records change. -/
def ShotsOnly (s t : State) : Prop := t = { s with sch := t.sch, emi := t.emi }

theorem giveBack_shots (s : State) (x : Shot) : ShotsOnly s (giveBack s x) := by
  unfold giveBack
  split
  · dsimp only
    split <;> rfl
  · split <;> rfl
  all_goals rfl

theorem giveBacks_shots (s : State) (l : List Shot) : ShotsOnly s (l.foldl giveBack s) :=
  List.foldlRecOn l giveBack (motive := ShotsOnly s) rfl fun t h x _ => by
    have hx := giveBack_shots t x
    unfold ShotsOnly at *
    rw [hx, h]

/-- No shot is left to fire. -/
theorem unadmit_parts (s : State) : ShotsOnly s (unadmit s) ∧ (unadmit s).sch.look = [] ∧ (unadmit s).sch.committed = none := by
  have hback := giveBacks_shots s (s.sch.look ++ s.sch.committed.toList)
  unfold unadmit
  dsimp only
  generalize List.foldl giveBack s _ = t at hback ⊢
  refine ⟨?_, rfl, rfl⟩
  unfold ShotsOnly at *
  rw [hback]

theorem stopFiring_parts (s : State) : (stopFiring s).red.mute = true ∧ (stopFiring s).sch.look = [] ∧
    (stopFiring s).sch.committed = none ∧ (stopFiring s).mode = s.mode ∧ (stopFiring s).regs = s.regs := by
  obtain ⟨honly, hlook, hcommitted⟩ := unadmit_parts s
  unfold stopFiring
  generalize unadmit s = t at honly hlook hcommitted ⊢
  unfold ShotsOnly at honly
  exact ⟨rfl, hlook, hcommitted, by rw [honly], by rw [honly]⟩

/-! ### The bus cannot arbitrate (R521, R522) -/

theorem busFault_parts (s : State) : (busFault s).get F.RED_STATUS_BUS_FAULT = 1 ∧ (busFault s).red.mute = true ∧
    (busFault s).sch.look = [] ∧ (busFault s).sch.committed = none ∧ (busFault s).mode = s.mode ∧
    RegFrame (F.RED_STATUS_BUS_FAULT :: F.SCH_STATUS_UNSURE :: F.RED_DBL_MAX :: F.RED_STATUS_ROLE :: faultFields 2) s (busFault s) := by
  have hmode : (raiseFault (clearUnsure (s.set F.RED_STATUS_BUS_FAULT 1)) 2 0x0E01 0).mode = s.mode :=
    (raiseFault_mode _ _ _ _).trans (clearUnsure_parts _).1
  have hclear := clearUnsure_frame (s.set F.RED_STATUS_BUS_FAULT 1)
  have hraise := RegFrame.raise (RegFrame.refl (faultFields 2) (clearUnsure (s.set F.RED_STATUS_BUS_FAULT 1))) 2 0x0E01 0 fun _ h => h
  have hset := RegFrame.setOne s F.RED_STATUS_BUS_FAULT 1
  have hfault := (get_set_same s F.RED_STATUS_BUS_FAULT 1)
  unfold busFault
  generalize raiseFault (clearUnsure (s.set F.RED_STATUS_BUS_FAULT 1)) 2 0x0E01 0 = t at hmode hraise ⊢
  generalize clearUnsure (s.set F.RED_STATUS_BUS_FAULT 1) = u at hclear hraise
  generalize s.set F.RED_STATUS_BUS_FAULT 1 = v at hclear hset hfault
  obtain ⟨hmute, hlook, hcommitted, hstay, hregs⟩ := stopFiring_parts t
  have hrole := noteRole_frame (stopFiring t)
  have hall : RegFrame (F.RED_STATUS_BUS_FAULT :: F.SCH_STATUS_UNSURE :: F.RED_DBL_MAX :: F.RED_STATUS_ROLE :: faultFields 2) s t :=
    ((hset.subset (by simp)).trans (hclear.subset (by simp))).trans (hraise.subset (by simp +contextual))
  refine ⟨?_, hmute, hlook, hcommitted, hstay.trans hmode, (hall.other hregs).trans (hrole.subset (by simp))⟩
  calc (noteRole (stopFiring t)).get F.RED_STATUS_BUS_FAULT
      = (stopFiring t).get F.RED_STATUS_BUS_FAULT := hrole _ (by decide)
    _ = t.get F.RED_STATUS_BUS_FAULT := by simp only [State.get, hregs]
    _ = u.get F.RED_STATUS_BUS_FAULT := hraise _ (by decide)
    _ = v.get F.RED_STATUS_BUS_FAULT := hclear _ (by decide)
    _ = 1 := hfault

/-! ### Standby (R522, R523) -/

theorem freeSlot_yards (s : State) (n k : Nat) : Yards s (freeSlot s n k) := by
  unfold freeSlot
  split
  · exact .refl s
  · exact .ite (updStall_yards s n _) (.ite ((dropStall_yards s n).trans (serveFetches_yards _)) (updStall_yards s n _))

theorem dropFuture_parts (s : State) : (dropFuture s).sch = s.sch ∧ (dropFuture s).red = s.red ∧ (dropFuture s).mode = s.mode ∧
    RegFrame yardFields s (dropFuture s) := by
  have hyards : Yards { s with hge := { s.hge with cells := s.hge.cells.filter fun (c : Cell) => c.closed } } (dropFuture s) :=
    List.foldlRecOn _ _ (.refl _) fun t h c _ => h.trans (freeSlot_yards t c.stall c.k)
  obtain ⟨heq, hframe⟩ := hyards
  refine ⟨by rw [heq], by rw [heq], by rw [heq], ?_⟩
  exact (RegFrame.other (.refl _ s) rfl).trans hframe

theorem halterStandby_gives {s : State} (h : contends s = true) : Gives .halterStandby s (fun t =>
    t.get F.RED_STATUS_STANDBY = 1 ∧ t.red.mute = true ∧ t.sch.look = [] ∧ t.sch.committed = none ∧
    t.flag F.SCH_STATUS_UNSURE = false ∧ t.mode = s.mode) := by
  refine ⟨_, (if_neg (by simp [h]) : execHalterStandby s = _), ?_⟩
  have hget : (stick (s.set F.RED_STATUS_STANDBY 1) 0x1C0).get F.RED_STATUS_STANDBY = 1 := by
    unfold stick
    simp (disch := decide) only [get_set_other, get_set_same] <;> rfl
  have hmode : (clearUnsure (stick (s.set F.RED_STATUS_STANDBY 1) 0x1C0)).mode = s.mode := (clearUnsure_parts _).1
  have hstandby := (clearUnsure_frame (stick (s.set F.RED_STATUS_STANDBY 1) 0x1C0) F.RED_STATUS_STANDBY (by decide)).trans hget
  have hsure := clearUnsure_flag (stick (s.set F.RED_STATUS_STANDBY 1) 0x1C0)
  generalize clearUnsure (stick (s.set F.RED_STATUS_STANDBY 1) 0x1C0) = u at hmode hstandby hsure ⊢
  obtain ⟨hmute, hlook, hcommitted, hstay, hregs⟩ := stopFiring_parts u
  generalize stopFiring u = v at hmute hlook hcommitted hstay hregs ⊢
  obtain ⟨hsch, hred, hkept, hframe⟩ := dropFuture_parts v
  generalize dropFuture v = w at hsch hred hkept hframe ⊢
  have hreg (f : Fld) (hy : ∀ g ∈ yardFields, f.key ≠ g.key) (hr : f.key ≠ F.RED_STATUS_ROLE.key) :
      (noteRole w).get f = u.get f :=
    (get_set_other w _ hr).trans ((hframe f hy).trans (by simp only [State.get, hregs]))
  refine ⟨(hreg _ (by decide) (by decide)).trans hstandby, ?_, ?_, ?_, ?_, (hkept.trans hstay).trans hmode⟩
  · exact (congrArg (·.mute) hred).trans hmute
  · exact (congrArg (·.look) hsch).trans hlook
  · exact (congrArg (·.committed) hsch).trans hcommitted
  · unfold State.flag at hsure ⊢
    rw [hreg _ (by decide) (by decide)]
    exact hsure

/-! ### Takeover and the interlock (R521 to R526) -/

theorem halterTakeover_gives {s : State} (h : contends s = true) : Gives .halterTakeover s (fun t =>
    t.get F.RED_STATUS_HALTER = 1 ∧ t.flag F.SCH_STATUS_UNSURE = false ∧
    RegFrame [F.RED_STATUS_HALTER, F.RED_CNT_TAKEOVER, F.SCH_STATUS_UNSURE, F.RED_DBL_MAX, F.RED_STATUS_ROLE] s t) := by
  refine ⟨_, (if_pos h : execHalterTakeover s = _), ?_⟩
  have hget : ((s.set F.RED_STATUS_HALTER 1).inc F.RED_CNT_TAKEOVER).get F.RED_STATUS_HALTER = 1 :=
    (get_set_other _ _ (by decide)).trans (get_set_same s F.RED_STATUS_HALTER 1)
  have hset : RegFrame [F.RED_STATUS_HALTER, F.RED_CNT_TAKEOVER] s ((s.set F.RED_STATUS_HALTER 1).inc F.RED_CNT_TAKEOVER) :=
    ((RegFrame.refl _ s).set 1 (by simp)).inc (by simp)
  generalize (s.set F.RED_STATUS_HALTER 1).inc F.RED_CNT_TAKEOVER = t at hget hset ⊢
  have hclear := clearUnsure_frame t
  have hsure := clearUnsure_flag t
  generalize clearUnsure t = u at hclear hsure ⊢
  have hrole := noteRole_frame u
  refine ⟨(hrole _ (by decide)).trans ((hclear _ (by decide)).trans hget), ?_, ?_⟩
  · unfold State.flag at hsure ⊢
    rw [hrole _ (by decide)]
    exact hsure
  · exact ((hset.subset (by simp)).trans (hclear.subset (by simp))).trans (hrole.subset (by simp))

theorem halterClaim_gives {s : State} (hi : interlock s = true) (hm : s.mode = .scan) (hh : s.flag F.RED_STATUS_HALTER = false)
    (hf : interlockFault s = false) (hr : halterRests s = false) : Gives .halterClaim s (fun t =>
      t.get F.RED_STATUS_HALTER = 1 ∧ t.get F.RED_ILK_DRIVING = 1 ∧ t.pins.halter = true ∧ t.sch.charges = [] ∧
      RegFrame [F.RED_STATUS_HALTER, F.RED_ILK_DRIVING, F.RED_ILK_CLAIM_CNT, F.RED_STATUS_ROLE] s t) := by
  refine ⟨_, (if_neg (by simp [hi, hm, hh, hf, hr]) : execHalterClaim s = _), ?_, ?_, rfl, rfl, ?_⟩
  · refine (get_set_other _ _ (by decide)).trans ?_
    change (((s.set F.RED_STATUS_HALTER 1).set F.RED_ILK_DRIVING 1).inc F.RED_ILK_CLAIM_CNT).get F.RED_STATUS_HALTER = 1
    simp (disch := decide) only [State.inc, State.add, get_set_other, get_set_same] <;> rfl
  · refine (get_set_other _ _ (by decide)).trans ?_
    change (((s.set F.RED_STATUS_HALTER 1).set F.RED_ILK_DRIVING 1).inc F.RED_ILK_CLAIM_CNT).get F.RED_ILK_DRIVING = 1
    simp (disch := decide) only [State.inc, State.add, get_set_other, get_set_same] <;> rfl
  · exact (RegFrame.other ((((RegFrame.refl _ s).set 1 (by simp)).set 1 (by simp)).inc (by simp)) rfl).set _ (by simp)

theorem halterRelease_gives {s : State} (hi : interlock s = true) (hh : s.flag F.RED_STATUS_HALTER = true)
    (hf : interlockFault s = true ∨ s.mode.scanning = false) : Gives .halterRelease s (fun t =>
      t.get F.RED_STATUS_HALTER = 0 ∧ t.get F.RED_ILK_DRIVING = 0 ∧ t.pins.halter = false ∧
      t.red.releasedAt = some s.sys.raw ∧ t.sch.look = [] ∧ t.sch.committed = none ∧
      RegFrame [F.RED_STATUS_HALTER, F.RED_ILK_DRIVING, F.RED_STATUS_ROLE] s t) := by
  refine ⟨_, (if_pos (by simpa using hf) : execHalterRelease s = _), ?_⟩
  have hset : RegFrame [F.RED_STATUS_HALTER, F.RED_ILK_DRIVING] s ((s.set F.RED_STATUS_HALTER 0).set F.RED_ILK_DRIVING 0) :=
    ((RegFrame.refl _ s).set 0 (by simp)).set 0 (by simp)
  have hhalter : ((s.set F.RED_STATUS_HALTER 0).set F.RED_ILK_DRIVING 0).get F.RED_STATUS_HALTER = 0 :=
    (get_set_other _ _ (by decide)).trans (get_set_same s F.RED_STATUS_HALTER 0)
  have hdriving : ((s.set F.RED_STATUS_HALTER 0).set F.RED_ILK_DRIVING 0).get F.RED_ILK_DRIVING = 0 :=
    get_set_same _ F.RED_ILK_DRIVING 0
  have hraw : ((s.set F.RED_STATUS_HALTER 0).set F.RED_ILK_DRIVING 0).sys = s.sys := rfl
  rw [show releaseHalter s = _ from if_neg (by simp [hi, hh])]
  generalize (s.set F.RED_STATUS_HALTER 0).set F.RED_ILK_DRIVING 0 = t at hset hhalter hdriving hraw ⊢
  obtain ⟨honly, hlook, hcommitted⟩ := unadmit_parts t
  have hregs : (unadmit t).regs = t.regs := by rw [honly]
  have hsys : (unadmit t).sys = s.sys := by rw [honly, ← hraw]
  generalize unadmit t = u at hlook hcommitted hregs hsys ⊢
  have hreg (f : Fld) (hr : f.key ≠ F.RED_STATUS_ROLE.key) :
      (noteRole { u with pins := { u.pins with halter := false }, red := { u.red with releasedAt := some u.sys.raw } }).get f = t.get f :=
    (get_set_other _ _ hr).trans (by simp only [State.get, hregs])
  refine ⟨(hreg _ (by decide)).trans hhalter, (hreg _ (by decide)).trans hdriving, rfl, ?_, hlook, hcommitted, ?_⟩
  · exact congrArg (fun x : SysSt => some x.raw) hsys
  · exact (RegFrame.other (hset.subset (by simp)) hregs).trans ((RegFrame.other (.refl _ u) rfl).trans ((noteRole_frame _).subset (by simp)))

/-! ### Silence begins (R520) -/

theorem adoptPartnerShots_regs (s : State) : (adoptPartnerShots s).regs = s.regs := rfl

theorem partnerSilence_gives {s : State} (hn : native s = true) (hrun : s.sch.running = true)
    (hq : s.flag F.RED_STATUS_SILENCE = false) (ha : s.flag F.RED_STATUS_ALT = false) (hh : s.red.halves = true) :
    Gives .partnerSilence s (fun t => t.get F.RED_STATUS_SILENCE = 1 ∧ t.get F.SCH_STATUS_UNSURE = 1 ∧
      t.red.halves = false ∧ t.red.since = some (s.sch.abs + s.sch.next) ∧
      t.get F.RED_CNT_SILENCE = (s.inc F.RED_CNT_SILENCE).get F.RED_CNT_SILENCE ∧ t.mode = s.mode) := by
  have hexec : execPartnerSilence s = .next (noteRole { (adoptPartnerShots ((stick (s.set F.RED_STATUS_SILENCE 1) 0x1C0).inc
      F.RED_CNT_SILENCE)).set F.SCH_STATUS_UNSURE 1 with
        red := { s.red with halves := false, matched := 0, joinFrom := none, since := some (s.sch.abs + s.sch.next) } }) := by
    unfold execPartnerSilence
    dsimp only
    rw [if_neg (by simp [hn, hrun, hq, hh]), if_neg (by simp [ha])]
    rfl
  have hcount (t : State) (h : t.get F.RED_CNT_SILENCE = s.get F.RED_CNT_SILENCE) :
      (t.inc F.RED_CNT_SILENCE).get F.RED_CNT_SILENCE = (s.inc F.RED_CNT_SILENCE).get F.RED_CNT_SILENCE := by
    unfold State.inc State.add
    rw [get_set_same, get_set_same, h]
  have hfresh : (stick (s.set F.RED_STATUS_SILENCE 1) 0x1C0).get F.RED_CNT_SILENCE = s.get F.RED_CNT_SILENCE := by
    unfold stick
    simp (disch := decide) only [get_set_other]
  have hone : ((stick (s.set F.RED_STATUS_SILENCE 1) 0x1C0).inc F.RED_CNT_SILENCE).get F.RED_STATUS_SILENCE = 1 := by
    unfold stick State.inc State.add
    simp (disch := decide) only [get_set_other, get_set_same] <;> rfl
  have hmode : ((stick (s.set F.RED_STATUS_SILENCE 1) 0x1C0).inc F.RED_CNT_SILENCE).mode = s.mode := rfl
  have hinc := hcount _ hfresh
  refine ⟨_, hexec, ?_⟩
  generalize (stick (s.set F.RED_STATUS_SILENCE 1) 0x1C0).inc F.RED_CNT_SILENCE = t at hone hmode hinc ⊢
  have hreg (f : Fld) (hu : f.key ≠ F.SCH_STATUS_UNSURE.key) : ((adoptPartnerShots t).set F.SCH_STATUS_UNSURE 1).get f = t.get f :=
    (get_set_other _ _ hu).trans (by simp only [State.get, adoptPartnerShots_regs])
  refine ⟨?_, ?_, rfl, rfl, ?_, hmode⟩
  · exact (get_set_other _ _ (by decide)).trans ((hreg _ (by decide)).trans hone)
  · exact (get_set_other _ _ (by decide)).trans (get_set_same (adoptPartnerShots t) F.SCH_STATUS_UNSURE 1)
  · exact (get_set_other _ _ (by decide)).trans ((hreg _ (by decide)).trans hinc)

/-- Settles O49: what stops firing leaves no shot behind (`stopFiring_parts`), and UNSURE ends in `clearUnsure`. -/
theorem halterAndSilence : Obligations.HalterAndSilence := by
  unfold Obligations.HalterAndSilence
  intro s
  refine ⟨fun hn hrun hq ha hh => partnerSilence_gives hn hrun hq ha hh,
    fun hq => ⟨s, (if_pos (by simp [hq]) : execPartnerSilence s = _), rfl⟩,
    fun hn hh hb => ⟨_, (if_pos (by simp [hn, hh, hb]) : execBeacon s = _), rfl⟩,
    fun hc hb => ⟨_, (if_pos (by simp [hc, hb]) : execQuery s = _), rfl⟩, fun hn hh => ?_,
    fun hc => ⟨?_, halterStandby_gives hc, halterTakeover_gives hc⟩, fun hn hh hq => ?_,
    fun hi hm hh hf hr => halterClaim_gives hi hm hh hf hr, fun hi hh hf => halterRelease_gives hi hh hf⟩
  · obtain ⟨hbus, hmute, hlook, hcommitted, hmode, hframe⟩ := busFault_parts (s.set F.RED_STATUS_HALTER 0)
    refine ⟨_, (if_pos (by simp [hn, hh]) : execBeaconEchoTimeout s = _), ?_, hbus, hmute, hlook, hcommitted, hmode⟩
    exact (hframe _ (by decide)).trans (get_set_same s F.RED_STATUS_HALTER 0)
  · obtain ⟨hbus, hmute, hlook, hcommitted, hmode, -⟩ := busFault_parts s
    exact ⟨_, (if_pos hc : execQueryEchoTimeout s = _), hbus, hmute, hlook, hcommitted, hmode⟩
  · exact ⟨_, (if_pos (by simp [hn, hh, hq]) : execUnsureClear s = _), clearUnsure_flag s, clearUnsure_frame s,
      (clearUnsure_parts s).1⟩

end Sys2Proof.Machine

/-! ## A frame opens (R25, R108, R517)

What a boundary applies and what it starts keep the scan where it is: running, at slot 0 of its frame (`Paced`). -/
namespace Sys2Proof.Machine

/-- Where the scan is, the start that waits, and whether the pair fires in halves. -/
def pace (s : State) : Bool × Nat × Nat × Nat × Option Nat × Bool :=
  (s.sch.running, s.sch.next, s.sch.frame, s.sch.abs, s.red.wait, s.red.halves)

/-- The scan stays where it is. -/
def Paced (s t : State) : Prop := pace t = pace s

theorem Paced.refl (s : State) : Paced s s := rfl

theorem Paced.trans {r s t : State} (h : Paced r s) (k : Paced s t) : Paced r t := Eq.trans k h

/-- A step that leaves scheduler and twin alone. -/
theorem Paced.to {s t u : State} (h : Paced s t) (e : pace u = pace t) : Paced s u := e.trans h

theorem Paced.of {s t : State} (hs : t.sch = s.sch) (hr : t.red = s.red) : Paced s t := by
  unfold Paced pace
  rw [hs, hr]

theorem Paced.set {s t : State} (h : Paced s t) (f : Fld) (v : Nat) : Paced s (t.set f v) := h.to rfl

theorem Paced.inc {s t : State} (h : Paced s t) (f : Fld) : Paced s (t.inc f) := h.to rfl

theorem Paced.ite {s t u : State} {c : Prop} [Decidable c] (h : Paced s t) (k : Paced s u) : Paced s (if c then t else u) := by
  split <;> assumption

theorem Paced.foldl {s t : State} {α : Type} {f : State → α → State} (hf : ∀ u x, Paced u (f u x)) (l : List α) (h : Paced s t) :
    Paced s (l.foldl f t) :=
  List.foldlRecOn l f h fun u hu x _ => hu.trans (hf u x)

theorem Notes.paced {s t : State} (h : Notes s t) : Paced s t := .of (by rw [h.eq]) (by rw [h.eq])

theorem raiseFault_paced (s : State) (cls code detail : Nat) : Paced s (raiseFault s cls code detail) :=
  .of (raiseFault_sch ..) (raiseFault_red ..)

theorem setMode_paced (s : State) (m : Mode) : Paced s (setMode s m) := .of (setMode_sch ..) (setMode_red ..)

theorem finishRunning_paced (s : State) (op st r : Nat) : Paced s (finishRunning s op st r) :=
  have h := finishRunning_completes s op st r
  .of (by rw [h.eq]) (by rw [h.eq])

/-! ### Banks and the emitter -/

theorem giveBack_paced (s : State) (x : Shot) : Paced s (giveBack s x) := by
  unfold giveBack
  split
  · exact .ite rfl rfl
  · exact .ite rfl rfl
  all_goals rfl

theorem ebkCut_paced (s : State) (b : Nat) : Paced s (ebkCut s b) := .ite rfl rfl

theorem dropTests_paced (s : State) (b : Nat) : Paced s (dropTests s b) := by
  unfold dropTests
  dsimp only
  split
  · split <;> rfl
  · rfl

theorem markShort_paced (s : State) (i : Nat) : Paced s (markShort s i) := by
  unfold markShort
  dsimp only
  refine Paced.trans ?_ (openGaps_notes _ _ true).paced
  split <;> rfl

theorem dropBank_paced (s : State) (b : Nat) : Paced s (dropBank s b) := by
  unfold dropBank
  dsimp only
  have hback := Paced.foldl giveBack_paced (s.sch.look.filter (ownOn b)) (.refl s)
  generalize List.foldl giveBack s _ = t at hback ⊢
  exact .foldl markShort_paced _ (hback.trans rfl)

theorem initialRecharge_paced (s : State) (b : Nat) : Paced s (initialRecharge s b) := rfl

theorem returnBank_paced (s : State) (b : Nat) : Paced s (returnBank s b) := .ite rfl rfl

theorem banksEnabledNow_paced (s : State) : Paced s (banksEnabledNow s) := by
  refine .foldl (fun t b => ?_) _ (.refl s)
  dsimp only
  refine .ite (.ite (.refl t) (.ite (returnBank_paced t b) rfl)) (.ite (.refl t) (.trans ?_ (dropBank_paced _ b)))
  exact ((ebkCut_paced t b).trans (dropTests_paced _ b)).trans rfl

theorem strayInhibit_paced (s : State) (b : Nat) : Paced s (strayInhibit s b) := by
  have hlow : Paced s (emitterLow s) := by
    have hcut := Paced.foldl ebkCut_paced (List.range 8) (.refl s)
    unfold emitterLow
    generalize List.foldl ebkCut s _ = t at hcut ⊢
    exact hcut.to rfl
  unfold strayInhibit
  generalize emitterLow s = t at hlow ⊢
  exact (hlow.to (u := inhibitEmitter t 2) rfl).trans (raiseFault_paced _ 2 0x0A02 b)

theorem emitterAtBoundary_paced (s : State) : Paced s (emitterAtBoundary s) := by
  have hbanks : Paced s ((List.range 8).foldl (fun (t : State) b => if (bankAt t b).back then returnBank t b else t) (banksEnabledNow s)) :=
    .foldl (fun t b => .ite (returnBank_paced t b) (.refl t)) _ (banksEnabledNow_paced s)
  unfold emitterAtBoundary
  dsimp only
  generalize List.foldl _ (banksEnabledNow s) _ = t at hbanks ⊢
  exact .ite (.foldl (fun v b => .ite (strayInhibit_paced v b) (.refl v)) _ (hbanks.trans rfl)) hbanks

/-! ### Held and staged settings -/

theorem noteRole_paced (s : State) : Paced s (noteRole s) := rfl

theorem ditherAtBoundary_paced (s : State) : Paced s (ditherAtBoundary s) :=
  .ite (.trans rfl (raiseFault_paced ((dropDither s).set F.SCH_STATUS_TIMING_ERR 1) 0 0x0904 0)) (.refl s)

theorem applyHeld_paced (s : State) : Paced s (applyHeld s) := by
  have hfold : Paced s (s.hold.foldl (fun (t : State) (h : Held) => if h.late then t else t.set h.fld h.val) s) := by
    refine .foldl (fun t h => ?_) _ (.refl s)
    split <;> rfl
  exact hfold.to rfl

theorem groomsAtBoundary_paced (s : State) : Paced s (groomsAtBoundary s) := by
  unfold groomsAtBoundary
  dsimp only
  refine Paced.to ?_ (show pace (noteGrooms _) = pace _ from rfl)
  have hbegin (t : State) (h : Paced s t) (c : Bool) : Paced s (if c = true then t.set F.RXF_IMP_STATUS_PEND 1 else t) :=
    .ite (h.to rfl) h
  split
  · refine .foldl (fun u e => ?_) _ (.foldl (fun u e => ?_) _ (hbegin _ ?_ _)) <;> rfl
  · refine hbegin _ ?_ _
    rfl

theorem withCode_paced (s : State) (l : List Held) : Paced s (withCode s l) := by
  refine .foldl (fun u h => ?_) l (.refl s)
  rfl

theorem codeAtBoundary_paced (s : State) : Paced s (codeAtBoundary s) := by
  unfold codeAtBoundary
  dsimp only
  have hrest (l : List Held) : Paced s { s with hge := { s.hge with code := l } } := rfl
  have ht := hrest ((s.hge.code.filter fun (h : Held) => h.late).map fun (h : Held) => { h with late := false })
  generalize ({ s with hge := { s.hge with
    code := (s.hge.code.filter fun (h : Held) => h.late).map fun (h : Held) => { h with late := false } } } : State) = t at ht ⊢
  have hcode := withCode_paced t (s.hge.code.filter fun (h : Held) => !h.late)
  generalize withCode t _ = u at hcode ⊢
  have herr (f : Fld) (code : Nat) : Paced t (raiseFault (t.set f 1) 0 code 0) := .trans (.to (.refl t) rfl) (raiseFault_paced _ 0 code 0)
  split
  · exact ht
  · split
    · exact ht.trans (herr _ _)
    · split
      · exact ht.trans (herr _ _)
      · exact ht.trans hcode

theorem copyConfig_paced (s : State) (n : Nat) : Paced s (copyConfig s n) := by
  unfold copyConfig
  dsimp only
  refine .foldl (fun t c => ?_) _ (.foldl (fun t f => ?_) _ ?_)
  · refine Paced.to (.foldl (fun u f => ?_) _ (.refl t)) (show pace (State.set _ _ _) = pace _ from rfl)
    rfl
  · rfl
  · rfl

theorem rerunCls_paced (s : State) : Paced s (rerunCls s) := by
  unfold rerunCls
  split
  next full _ =>
    have heq := addGroom_eq { s with cal := { s.cal with rerun := none } }
      { cmd := none, full := full, mask := 2 ^ 16, background := false, startUp := false, release := false, waiting := false,
        refused := 0 }
    exact Paced.of (by rw [heq]) (by rw [heq])
  · exact .refl s

theorem endFault_paced {s t : State} (h : Paced s t) (code detail : Nat) : Paced s (endFault t code detail) := h.trans (.of rfl rfl)

theorem spareSwitch_paced (s : State) : Paced s (spareSwitch s) := by
  have hend (t : State) (op : Nat) : Paced t (spareSwitch.finishSpare t op) :=
    .trans rfl (finishRunning_paced { t with cal := { t.cal with spare := none } } op St.done t.sch.frame)
  unfold spareSwitch
  dsimp only
  split
  · refine Paced.trans ?_ (hend _ _)
    exact endFault_paced ((((((copyConfig_paced s _).set _ _).inc _).set _ _).set _ _).set _ _) ..
  · refine Paced.trans (Paced.trans ?_ (rerunCls_paced _)) (hend _ _)
    exact endFault_paced (((((Paced.refl s).set _ _).set _ _).set _ _).set _ _) ..
  · exact .refl s

theorem applyRefCfg_paced (s : State) (v : Nat) : Paced s (applyRefCfg s v) := by
  unfold applyRefCfg
  dsimp only
  split
  · split <;> rfl
  · split <;> rfl

/-- The configuration of REF_IN that waits for the boundary takes effect. -/
def stagedRef (t : State) : State := match t.sys.refCfg with
  | some v => applyRefCfg { t with sys := { t.sys with refCfg := none } } v
  | none => t

/-- The return to REF_IN that waits for the boundary takes place. -/
def stagedReturn (u : State) : State := match u.sys.refReturn with
  | some d => if u.flag F.CLK_REF_CFG_AUTO_RETURN then returnToRef u d else u
  | none => u

/-- The table that waits for the boundary takes effect. -/
def stagedLut (v : State) : State := match v.thm.lutNew with
  | some l => setThm v fun x => { x with lut := l, lutNew := none }
  | none => v

theorem stagedRef_paced (t : State) : Paced t (stagedRef t) := by
  unfold stagedRef
  split
  · exact (Paced.to (.refl t) (by rfl)).trans (applyRefCfg_paced _ _)
  · exact .refl t

theorem stagedReturn_paced (u : State) : Paced u (stagedReturn u) := by
  unfold stagedReturn
  split
  · split <;> rfl
  · exact .refl u

theorem stagedLut_paced (v : State) : Paced v (stagedLut v) := by
  unfold stagedLut
  split <;> rfl

theorem applyStaged_eq (s : State) : applyStaged s =
    stagedLut (stagedReturn (stagedRef (codeAtBoundary (groomsAtBoundary (spareSwitch (applyHeld (ditherAtBoundary s))))))) := rfl

theorem applyStaged_paced (s : State) : Paced s (applyStaged s) := by
  have hcode := ((((ditherAtBoundary_paced s).trans (applyHeld_paced _)).trans (spareSwitch_paced _)).trans
    (groomsAtBoundary_paced _)).trans (codeAtBoundary_paced _)
  rw [applyStaged_eq]
  exact ((hcode.trans (stagedRef_paced _)).trans (stagedReturn_paced _)).trans (stagedLut_paced _)

/-! ### What the frame that opens starts -/

theorem wakeDue_paced (s : State) : Paced s (wakeDue s) := by
  unfold wakeDue
  split
  · exact .refl s
  · refine .foldl (fun t o => ?_) _ (.refl s)
    split
    · refine .foldl (fun u n => ?_) _ (.refl t)
      dsimp only
      split <;> rfl
    · exact .refl t

theorem recordFrame_paced (s : State) : Paced s (recordFrame s) := .ite (.refl s) rfl

theorem storePeaks_paced (s : State) : Paced s (storePeaks s) := by
  unfold storePeaks
  dsimp only
  have hfold : Paced s ((List.range 4).foldl (fun (t : State) k =>
    let e := s.sch.peak.getD k (0, 0)
    (t.set (F.SCH_EYE_PEAK_CELL k) e.1).set (F.SCH_EYE_PEAK_PEAK k) e.2) s) := by
    refine .foldl (fun t k => ?_) _ (.refl s)
    rfl
  exact hfold.to rfl

theorem queueHeaders_paced (s : State) : Paced s (queueHeaders s) := by
  refine .foldl (fun t n => ?_) _ (.refl s)
  dsimp only
  split
  · split <;> rfl
  · rfl

theorem LineOnly.paced {s t : State} (h : LineOnly s t) : Paced s t := .of (by rw [h]) (by rw [h])

theorem leaveDoze_paced (s : State) : Paced s (leaveDoze s) :=
  .ite ((sendTrn_line s (wakeWords s)).paced.trans rfl) (.refl s)

theorem sendMark_line (s : State) (frame24 : Nat) : LineOnly s (sendMark s frame24) := by
  have hstream (t : State) (c : Prop) [Decidable c] (header payload : Nat) :
      LineOnly t (if c then streamWord t header payload else t) := by
    split
    · exact streamWord_line t header payload
    · exact .refl t
  exact ((hstream s _ _ _).trans (sendWord_line _ 0x5A frame24)).trans (hstream _ _ _ _)

theorem sendMirror_paced (s : State) : Paced s (sendMirror s) := by
  have hfree : Paced s (if sideNow s = 0 then s.takeFree 8 else (0, s)).2 := by split <;> rfl
  unfold sendMirror
  exact hfree.trans (sendPacket_line _ 0x02 _).paced

/-- What stays of the scan where alternation may be entered: its place, and no halves where there were none. -/
structure Stays (s t : State) : Prop where
  sch : (t.sch.running, t.sch.next, t.sch.frame, t.sch.abs) = (s.sch.running, s.sch.next, s.sch.frame, s.sch.abs)
  wait : t.red.wait = s.red.wait
  halves : s.red.halves = false → t.red.halves = false

theorem Stays.trans {r s t : State} (h : Stays r s) (k : Stays s t) : Stays r t :=
  ⟨k.sch.trans h.sch, k.wait.trans h.wait, fun e => k.halves (h.halves e)⟩

theorem Paced.stays {s t : State} (h : Paced s t) : Stays s t := by
  unfold Paced pace at h
  simp only [Prod.mk.injEq] at h
  obtain ⟨h1, h2, h3, h4, h5, h6⟩ := h
  exact ⟨by simp only [h1, h2, h3, h4], h5, fun e => h6.trans e⟩

theorem clearUnsure_stays (s : State) : Stays s (clearUnsure s) := by
  unfold clearUnsure
  split <;> exact ⟨rfl, rfl, fun h => h⟩

theorem enterAlt_stays (s : State) (cause : Nat) : Stays s (enterAlt s cause) := by
  unfold enterAlt
  split
  · exact (Paced.refl s).stays
  · dsimp only
    have hbegin : Paced s ((((((stick s 0x1C0).set F.RED_STATUS_ALT 1).set F.RED_STATUS_ALT_CAUSE cause).inc F.RED_CNT_ALT).set
      F.RED_STATUS_HALTER 0).set F.RED_STATUS_STANDBY 0) := rfl
    generalize (((((stick s 0x1C0).set F.RED_STATUS_ALT 1).set F.RED_STATUS_ALT_CAUSE cause).inc F.RED_CNT_ALT).set
      F.RED_STATUS_HALTER 0).set F.RED_STATUS_STANDBY 0 = t at hbegin ⊢
    have hsilent : Paced s (t.set F.RED_STATUS_SILENCE 0) := hbegin.to rfl
    have hclear := clearUnsure_stays (t.set F.RED_STATUS_SILENCE 0)
    generalize clearUnsure (t.set F.RED_STATUS_SILENCE 0) = u at hclear ⊢
    exact hsilent.stays.trans (hclear.trans ⟨rfl, rfl, fun _ => rfl⟩)

theorem crystalAlt_stays (s : State) : Stays s (crystalAlt s) := by
  unfold crystalAlt
  split
  · exact enterAlt_stays s 3
  · exact (Paced.refl s).stays

theorem mayRejoin_zero {s : State} : mayRejoin s 0 = false := by
  unfold mayRejoin
  split <;> simp

/-- The frame boundary of the twin, with the hash that is formed. -/
def twinAt (s : State) (n : Nat) : State :=
  let u := crystalAlt (s.set F.RED_HASH n)
  let v := if mayRejoin u u.sch.abs then rejoin u else u
  let w := if native v && sessionUp v then
      let y := leaveDoze v
      sendMirror (if sideNow y = 0 then sendMark y (y.sch.frame % 2 ^ 24) else y)
    else v
  noteRole w

theorem twinBoundary_eq (s : State) : twinBoundary s = twinAt s (configHash s) := by
  unfold twinBoundary twinAt
  rfl

theorem twinAt_stays {s : State} (h : s.sch.abs = 0) (n : Nat) : Stays s (twinAt s n) := by
  unfold twinAt
  dsimp only
  have hset : Paced s (s.set F.RED_HASH n) := rfl
  have hbegin := hset.stays.trans (crystalAlt_stays (s.set F.RED_HASH n))
  generalize crystalAlt (s.set F.RED_HASH n) = u at hbegin ⊢
  have hsch := hbegin.sch
  simp only [Prod.mk.injEq] at hsch
  obtain ⟨-, -, -, habs⟩ := hsch
  rw [habs, h, mayRejoin_zero]
  simp only [Bool.false_eq_true, if_false]
  have hsent : Paced u (if (native u && sessionUp u) = true then
      sendMirror (if sideNow (leaveDoze u) = 0 then sendMark (leaveDoze u) ((leaveDoze u).sch.frame % 2 ^ 24) else leaveDoze u)
    else u) := by
    have hdoze := leaveDoze_paced u
    generalize leaveDoze u = v at hdoze ⊢
    refine .ite (hdoze.trans (.trans ?_ (sendMirror_paced _))) (.refl u)
    exact .ite (sendMark_line v _).paced (.refl v)
  exact hbegin.trans (hsent.trans (noteRole_paced _)).stays

theorem twinBoundary_stays {s : State} (h : s.sch.abs = 0) : Stays s (twinBoundary s) := by
  rw [twinBoundary_eq]
  exact twinAt_stays h _

/-- A switch of program leaves the scan where it is. -/
theorem switchProgram_paced (s : State) : Paced s (switchProgram s) := by
  unfold switchProgram
  split
  · exact .ite (.refl s) rfl
  · exact .refl s

theorem Stays.next {s t : State} (h : Stays s t) : t.sch.next = s.sch.next := by
  have hsch := h.sch
  simp only [Prod.mk.injEq] at hsch
  exact hsch.2.1

theorem Stays.abs {s t : State} (h : Stays s t) : t.sch.abs = s.sch.abs := by
  have hsch := h.sch
  simp only [Prod.mk.injEq] at hsch
  exact hsch.2.2.2

theorem set_paced (s : State) (f : Fld) (n : Nat) : Paced s (s.set f n) := .of (State.set_sch ..) (State.set_red ..)

theorem noteNeed_paced (s : State) : Paced s (noteNeed s) := rfl

/-- The frame starts at slot 0 with its owed work; n entries were carried. -/
def frameStarts (t : State) (owes : List Owe) (carried : List Nat) (lasts : List (Nat × Nat)) (n : Nat) : State :=
  noteNeed ((({ t with sch := { t.sch with
    owes := owes, owesNext := [], carried := carried, next := 0, capDone := false, lasts := lasts } }.set
    F.HGE_STATUS_REFUSING 0).set F.SCH_STATUS_SHORT_NOW 0).add F.SCH_CNT_CARRY n)

/-- The first frame of a program is no longer the next one. -/
def firstOver (w : State) : State := { w with sch := { w.sch with first := false } }

theorem firstOver_paced (w : State) : Paced w (firstOver w) := rfl

/-- What the frame does once its owed work is known. -/
def frameFrom (t : State) : State := firstOver (queueHeaders (twinBoundary (storePeaks (recordFrame (wakeDue t)))))

/-- The frame opens once the staged settings have taken effect. -/
def openAfter (t : State) : State :=
  frameFrom (frameStarts t (newOwes t) ((carriedOwes t).map fun (o : Owe) => o.entry)
    (t.sch.lasts.filter fun (e : Nat × Nat) => t.sch.abs < e.2 + 65535) ((carriedOwes t).filter (firesEntry t)).length)

theorem openFrame_eq (s : State) : openFrame s = openAfter (emitterAtBoundary (switchProgram (applyStaged s))) := by
  unfold openFrame openAfter frameStarts frameFrom firstOver
  exact rfl

theorem frameStarts_paced {t : State} (h : t.sch.next = 0) (owes : List Owe) (carried : List Nat) (lasts : List (Nat × Nat)) (n : Nat) :
    Paced t (frameStarts t owes carried lasts n) := by
  have hstart : Paced t { t with sch := { t.sch with
      owes := owes, owesNext := [], carried := carried, next := 0, capDone := false, lasts := lasts } } := by
    unfold Paced pace
    rw [h]
  exact (((hstart.trans (set_paced _ F.HGE_STATUS_REFUSING 0)).trans (set_paced _ F.SCH_STATUS_SHORT_NOW 0)).trans
    (set_paced _ F.SCH_CNT_CARRY _)).trans (noteNeed_paced _)

theorem frameFrom_stays {s : State} (h : s.sch.abs = 0) : Stays s (frameFrom s) := by
  have hopen := ((wakeDue_paced s).trans (recordFrame_paced _)).trans (storePeaks_paced _)
  unfold frameFrom
  generalize storePeaks (recordFrame (wakeDue s)) = t at hopen ⊢
  exact hopen.stays.trans ((twinBoundary_stays (hopen.stays.abs.trans h)).trans ((queueHeaders_paced _).trans (firstOver_paced _)).stays)

theorem startedFrame_stays {t : State} (h : t.sch.abs = 0) (hn : t.sch.next = 0) (owes : List Owe) (carried : List Nat)
    (lasts : List (Nat × Nat)) (n : Nat) : Stays t (frameFrom (frameStarts t owes carried lasts n)) := by
  have hstarts := frameStarts_paced hn owes carried lasts n
  exact hstarts.stays.trans (frameFrom_stays (hstarts.stays.abs.trans h))

theorem openAfter_stays {t : State} (h : t.sch.abs = 0) (hn : t.sch.next = 0) : Stays t (openAfter t) :=
  startedFrame_stays h hn _ _ _ _

/-- The first frame opens: the scan stays at slot 0 of its frame. -/
theorem openFrame_stays {s : State} (h : s.sch.abs = 0) (hn : s.sch.next = 0) : Stays s (openFrame s) := by
  have hstaged := ((applyStaged_paced s).trans (switchProgram_paced _)).trans (emitterAtBoundary_paced _)
  rw [openFrame_eq]
  generalize emitterAtBoundary (switchProgram (applyStaged s)) = t at hstaged ⊢
  exact hstaged.stays.trans (openAfter_stays (hstaged.stays.abs.trans h) (hstaged.stays.next.trans hn))

/-! ### Scanning starts (R108, R517) -/

theorem lbtInvalid_paced (s : State) : Paced s (lbtInvalid s 0) :=
  .ite (show Paced s (s.set (F.EMI_LBT_VALID 0) 0) from rfl)
    (Paced.trans (show Paced s (s.set (F.EMI_LBT_VALID 0) 0) from rfl) (raiseFault_paced _ 2 0x0901 0))

/-- What the start of scanning leaves: the first frame runs, at slot 0. -/
theorem beginScan_runs (s : State) (k frame : Nat) : (beginScan s k frame).sch.running = true ∧ (beginScan s k frame).sch.next = 0 ∧
    (beginScan s k frame).sch.frame = frame % 2 ^ 32 ∧ (beginScan s k frame).red.wait = s.red.wait ∧
    (s.red.halves = false → (beginScan s k frame).red.halves = false) := by
  have hmode (c : Prop) [Decidable c] : (if c then setMode ((freshLanes s).set F.SAF_EVENT_LOCKOUT 1) .lockout
      else setMode (freshLanes s) .scan).red = s.red := by
    split
    · exact setMode_red _ _
    · exact setMode_red _ _
  have hred := hmode (((freshLanes s).saf.armed && (freshLanes s).flag F.SAF_STATUS_LOCK_LATCH) = true)
  unfold beginScan
  dsimp only
  generalize (if ((freshLanes s).saf.armed && (freshLanes s).flag F.SAF_STATUS_LOCK_LATCH) = true then
    setMode ((freshLanes s).set F.SAF_EVENT_LOCKOUT 1) .lockout else setMode (freshLanes s) .scan) = t at hred ⊢
  generalize hv : freshWindows _ = v
  have hpace : pace v = (true, 0, frame % 2 ^ 32, 0, s.red.wait, s.red.halves) := by
    rw [← hv, ← hred]
    rfl
  have hfold : Paced v ((List.range 8).foldl (fun (a : State) b =>
      if bit (a.get F.EMI_BANK_EN_EN) b && !bankOut a b then initialRecharge a b else a) v) := by
    refine .foldl (fun u b => ?_) _ (.refl v)
    split <;> rfl
  generalize List.foldl _ v _ = w at hfold ⊢
  have hlbt : Paced w (if w.flag (F.EMI_LBT_VALID 0) = true then w else lbtInvalid w 0) := .ite (.refl w) (lbtInvalid_paced w)
  generalize (if w.flag (F.EMI_LBT_VALID 0) = true then w else lbtInvalid w 0) = x at hlbt ⊢
  have hx : pace x = (true, 0, frame % 2 ^ 32, 0, s.red.wait, s.red.halves) := Eq.trans (hfold.trans hlbt) hpace
  unfold pace at hx
  simp only [Prod.mk.injEq] at hx
  obtain ⟨hrunning, hnext, hframe, habs, hwait, hhalves⟩ := hx
  obtain ⟨hsch, hkeptWait, hkeptHalves⟩ := openFrame_stays habs hnext
  simp only [Prod.mk.injEq] at hsch
  obtain ⟨h1, h2, h3, -⟩ := hsch
  exact ⟨h1.trans hrunning, h2.trans hnext, h3.trans hframe, hkeptWait.trans hwait, fun h => hkeptHalves (hhalves.trans h)⟩

/-- A start that waits begins its scan, where the device is READY and the program can run. -/
theorem beginWaiting_runs {s : State} {k : Nat} (frame : Nat) (hw : s.red.wait = some k) (hm : s.mode = .ready)
    (hp : progRuns s k = true) (hf : s.saf.f3 = []) (hi : s.flag F.RXF_IMP_STATUS_BUSY = false) :
    (beginWaiting s frame).red.wait = none ∧ (beginWaiting s frame).sch.running = true ∧ (beginWaiting s frame).sch.next = 0 ∧
    (beginWaiting s frame).sch.frame = frame % 2 ^ 32 ∧ (s.red.halves = false → (beginWaiting s frame).red.halves = false) := by
  have heq : beginWaiting s frame =
      finishRunning (beginScan { s with red := { s.red with wait := none } } k frame) 0x0201 St.done (frame % 2 ^ 32) := by
    have hp' : progRuns { s with red := { s.red with wait := none } } k = true := hp
    have hcan : (s.mode == .ready && progRuns { s with red := { s.red with wait := none } } k && s.saf.f3.isEmpty) = true := by
      simp [hm, hf]
      exact hp'
    unfold beginWaiting
    rw [hw]
    dsimp only
    rw [if_neg (by simp [hi]), if_pos hcan]
  obtain ⟨hrunning, hnext, hframe, hwait, hhalves⟩ := beginScan_runs { s with red := { s.red with wait := none } } k frame
  rw [heq]
  generalize beginScan _ k frame = t at hrunning hnext hframe hwait hhalves ⊢
  have hend := (finishRunning_paced t 0x0201 St.done (frame % 2 ^ 32)).stays
  generalize finishRunning t 0x0201 St.done (frame % 2 ^ 32) = u at hend ⊢
  obtain ⟨hsch, hkeptWait, hkeptHalves⟩ := hend
  simp only [Prod.mk.injEq] at hsch
  obtain ⟨h1, h2, h3, -⟩ := hsch
  exact ⟨hkeptWait.trans hwait, h1.trans hrunning, h2.trans hnext, h3.trans hframe, fun h => hkeptHalves (hhalves h)⟩

end Sys2Proof.Machine

/-! ## Packets of the partner (R513, R514, R520, R590, R601)

What takes a packet, and what an announcement leaves. -/
namespace Sys2Proof.Machine

/-! ### Acceptance (R590, R601) -/

theorem takePacket_out {s : State} (h : receives s = false) (ok : Bool) (seq : Nat) : takePacket s ok seq = (false, s) :=
  if_pos (by simp [h])

theorem takePacket_old {s : State} {seq : Nat} (h : receives s = true) (hseq : seq ≤ s.prt.rxSeq) :
    takePacket s true seq = (false, s.inc F.LNK_PRT_CNT_SEQ) := by
  unfold takePacket
  rw [if_neg (by simp [h]), if_neg (by decide), if_pos hseq]

theorem takePacket_good {s : State} {seq : Nat} (h : receives s = true) (hseq : s.prt.rxSeq < seq) :
    takePacket s true seq = (true, { s with prt := { s.prt with rxSeq := seq } }) := by
  unfold takePacket
  rw [if_neg (by simp [h]), if_neg (by decide), if_neg (by omega)]

/-- The times of the failed tags of the last 1 ms. -/
def failTimes (s : State) : List Nat := (s.prt.tagFails.filter fun t => s.sys.raw < t + 800000) ++ [s.sys.raw]

/-- A packet with a bad tag is counted. -/
def tagFailed (s : State) : State := { s.inc F.LNK_PRT_CNT_TAG with prt := { s.prt with tagFails := failTimes s } }

theorem takePacket_bad {s : State} (h : receives s = true) (seq : Nat) : takePacket s false seq =
    (false, if 3 ≤ (failTimes s).length && sessionUp s then linkLoss (tagFailed s) else tagFailed s) := by
  unfold takePacket failTimes tagFailed
  rw [if_neg (by simp [h]), if_pos (by decide)]
  rfl

theorem keepalive_of_take {s t : State} {tag : BitVec 128} {seq : Nat} {ok : Bool}
    (h : takePacket s (tagVerifies s 0x03 seq [] tag) seq = (ok, t)) :
    execKeepaliveAccepted tag seq s = .next (if ok then heardPartner t else t) := by
  unfold execKeepaliveAccepted
  rw [h]

/-! ### KEEPALIVE_ACCEPTED -/

/-- The packet's SEQ is the last accepted one. -/
def seqTaken (s : State) (seq : Nat) : State := { s with prt := { s.prt with rxSeq := seq } }

theorem heardPartner_alone {s : State} (h : s.flag F.RED_STATUS_ALT = false) : heardPartner s = s := if_neg (by simp [h])

theorem heardPartner_alt {s : State} (h : s.flag F.RED_STATUS_ALT = true) : heardPartner s = noteRole (s.set F.RED_STATUS_SILENCE 0) :=
  if_pos h

theorem heardPartner_parts (s : State) : heardPartner s = { s with regs := (heardPartner s).regs } ∧
    RegFrame [F.RED_STATUS_SILENCE, F.RED_STATUS_ROLE] s (heardPartner s) := by
  unfold heardPartner
  split
  · exact ⟨rfl, ((RegFrame.refl _ s).set (f := F.RED_STATUS_SILENCE) 0 (by simp)).set (f := F.RED_STATUS_ROLE) _ (by simp)⟩
  · exact ⟨rfl, .refl _ s⟩

theorem keepalive_good {s : State} {tag : BitVec 128} {seq : Nat} (h : receives s = true)
    (htag : tagVerifies s 0x03 seq [] tag = true) (hseq : s.prt.rxSeq < seq) :
    execKeepaliveAccepted tag seq s = .next (heardPartner (seqTaken s seq)) :=
  keepalive_of_take ((congrArg (takePacket s · seq) htag).trans (takePacket_good h hseq))

theorem keepalive_alt {s : State} {tag : BitVec 128} {seq : Nat} (h : receives s = true)
    (htag : tagVerifies s 0x03 seq [] tag = true) (hseq : s.prt.rxSeq < seq) (ha : s.flag F.RED_STATUS_ALT = true) :
    Gives (.keepaliveAccepted tag seq) s (fun t => t.get F.RED_STATUS_SILENCE = 0 ∧ t.prt = { s.prt with rxSeq := seq } ∧
      RegFrame [F.RED_STATUS_SILENCE, F.RED_STATUS_ROLE] s t ∧ t = { s with regs := t.regs, prt := t.prt }) := by
  have hheard := heardPartner_alt (s := seqTaken s seq) ha
  refine ⟨_, (keepalive_good h htag hseq).trans (congrArg Host.Outcome.next hheard), ?_, rfl, ?_, rfl⟩
  · exact (get_set_other _ _ (by decide)).trans (get_set_same (seqTaken s seq) F.RED_STATUS_SILENCE 0)
  · exact ((RegFrame.other (.refl _ s) rfl).set (t := seqTaken s seq) (f := F.RED_STATUS_SILENCE) 0 (by simp)).set
      (f := F.RED_STATUS_ROLE) _ (by simp)

theorem keepalive_bad {s : State} {tag : BitVec 128} {seq : Nat} (h : receives s = true)
    (htag : tagVerifies s 0x03 seq [] tag = false) : execKeepaliveAccepted tag seq s =
      .next (if 3 ≤ (failTimes s).length && sessionUp s then linkLoss (tagFailed s) else tagFailed s) :=
  keepalive_of_take (ok := false) ((congrArg (takePacket s · seq) htag).trans (takePacket_bad h seq))

theorem keepalive_loses {s : State} {tag : BitVec 128} {seq : Nat} (h : receives s = true)
    (htag : tagVerifies s 0x03 seq [] tag = false) (hl : 3 ≤ (failTimes s).length) (hup : sessionUp s = true) :
    Gives (.keepaliveAccepted tag seq) s (fun t => t.prt.lost = true ∧ t.get F.LNK_PRT_STATUS_SESSION = 0 ∧
      t.get F.LNK_PRT_CNT_LOSS = (s.inc F.LNK_PRT_CNT_LOSS).get F.LNK_PRT_CNT_LOSS ∧ Keeps s t) := by
  have hrun := (keepalive_bad h htag).trans (congrArg Host.Outcome.next (if_pos (by simp [hl, hup])))
  obtain ⟨-, hsession, hlost, hloss, -⟩ := linkLoss_parts (tagFailed s)
  refine ⟨_, hrun, hlost, hsession, hloss.trans ?_, (execKeepaliveAccepted_keeps tag seq (Keeps.refl s)).keeps _ hrun⟩
  have hsame : (tagFailed s).get F.LNK_PRT_CNT_LOSS = s.get F.LNK_PRT_CNT_LOSS :=
    RegFrame.other (t := s.inc F.LNK_PRT_CNT_TAG) ((RegFrame.refl [F.LNK_PRT_CNT_TAG] s).inc (by simp)) rfl F.LNK_PRT_CNT_LOSS (by decide)
  unfold State.inc State.add
  rw [get_set_same, get_set_same, hsame]

theorem keepalive_counts {s : State} {tag : BitVec 128} {seq : Nat} (h : receives s = true)
    (htag : tagVerifies s 0x03 seq [] tag = false) (hl : (failTimes s).length < 3 ∨ sessionUp s = false) :
    Gives (.keepaliveAccepted tag seq) s (fun t => t.prt = { s.prt with tagFails := failTimes s } ∧
      t.get F.LNK_PRT_CNT_TAG = (s.inc F.LNK_PRT_CNT_TAG).get F.LNK_PRT_CNT_TAG ∧ RegFrame [F.LNK_PRT_CNT_TAG] s t ∧
      t = { s with regs := t.regs, prt := t.prt }) := by
  have hno : ¬ (3 ≤ (failTimes s).length && sessionUp s) = true := by
    rcases hl with hl | hl
    · simp [Nat.not_le.mpr hl]
    · simp [hl]
  refine ⟨_, (keepalive_bad h htag).trans (congrArg Host.Outcome.next (if_neg hno)), rfl, rfl, ?_, rfl⟩
  exact RegFrame.other ((RegFrame.refl _ s).inc (f := F.LNK_PRT_CNT_TAG) (by simp)) rfl

/-! ### The cells of an announced shot (R230, R285) -/

/-- Only the yard, the cells, the yard's counters and the free choices change. -/
structure Placed (s t : State) : Prop where
  eq : t = { s with regs := t.regs, free := t.free, hge := t.hge, yrd := t.yrd }
  frame : RegFrame yardFields s t

theorem Placed.refl (s : State) : Placed s s := ⟨rfl, .refl _ s⟩

theorem Placed.trans {r s t : State} (h : Placed r s) (k : Placed s t) : Placed r t := by
  refine ⟨?_, h.frame.trans k.frame⟩
  rw [k.eq, h.eq]

theorem Yards.placed {s t : State} (h : Yards s t) : Placed s t := by
  refine ⟨?_, h.frame⟩
  rw [h.eq]

theorem Placed.cells (s : State) (x : HgeSt) : Placed s { s with hge := x } := ⟨rfl, .other (.refl _ s) rfl⟩

theorem takeSlot_yards {s u : State} {x : Stall} {a b : Nat} (h : takeSlot s x = some (a, b, u)) : Yards s u := by
  unfold takeSlot at h
  rw [Option.map_eq_some_iff] at h
  obtain ⟨k, -, h⟩ := h
  cases h
  exact (lookMap_yards s _).trans (updStall_yards _ _ _)

theorem takeNew_yards {s u : State} {t : Tier} {size a b : Nat} {w : Option Nat} (h : takeNew s t size w = some (a, b, u)) : Yards s u := by
  unfold takeNew at h
  split at h
  next hnew =>
    split at h
    · exact (newStall_yards hnew).trans (takeSlot_yards h)
    · cases h
  · cases h

theorem placeCell_yards {s u : State} {size a b : Nat} (h : placeCell s size = some (a, b, u)) : Yards s u := by
  unfold placeCell at h
  split at h
  · exact takeSlot_yards h
  · have hevict := syncEvict_yards s
    generalize syncEvict s = p at h hevict
    obtain ⟨w, t⟩ := p
    dsimp only at h hevict
    split at h
    next hnew =>
      cases h
      exact hevict.trans (takeNew_yards hnew)
    · split at h
      · exact hevict.trans (takeSlot_yards h)
      · exact hevict.trans (takeNew_yards h)

theorem placeDir_placed (n : State) (shots : Nat) (x : Shot) (s : State) (e : Nat × Nat × Nat) : Placed s (placeDir n shots x s e) := by
  unfold placeDir
  dsimp only
  split
  · exact .refl s
  · split
    · exact .cells s _
    · split
      · exact .cells s _
      next heq =>
        rw [Option.bind_eq_some_iff] at heq
        obtain ⟨k, -, hplace⟩ := heq
        exact (placeCell_yards hplace).placed.trans (.cells _ _)

theorem askFetch_yards (s : State) (n : Nat) : Yards s (askFetch s n) := .ite (.refl s) (.yrd s _)

theorem fetchFar_yards (s : State) (serves : Nat → Bool) : Yards s (fetchFar s serves) :=
  .trans (List.foldlRecOn _ askFetch (.refl s) fun _ h n _ => h.trans (askFetch_yards _ n)) (serveFetches_yards _)

theorem placeCells_placed (n : State) (shots : Nat) (x : Shot) (s : State) : Placed s (placeCells n shots x s) := by
  unfold placeCells
  dsimp only
  refine Placed.trans ?_ (fetchFar_yards _ _).placed
  exact List.foldlRecOn _ _ (serveFetches_yards s).placed fun _ h e _ => h.trans (placeDir_placed n shots x _ e)

/-! ### ANNOUNCE (R513, R514) -/

theorem execAnnounce_of_take {s : State} {tag : BitVec 128} {seq frame slot vlast entry : Nat}
    (htag : tagVerifies s 0x01 seq [frame, slot % 2 ^ 20 + 2 ^ 20 * vlast, entry] tag = true) (h : receives s = true)
    (hseq : seq ≤ s.prt.rxSeq) : execAnnounce tag seq frame slot vlast entry s = .next (s.inc F.LNK_PRT_CNT_SEQ) := by
  unfold execAnnounce
  rw [htag, takePacket_old h hseq]
  rfl

/-- What a good announcement does, by what the partner's slot is to this device. -/
def announced (u : State) (frame i vlast entry : Nat) : State :=
  if !splitsEntries u || u.red.mute || !u.sch.running || i % 2 = sideNow u || entry = 0xFFFFFFFF then u
  else match absSlot u frame i with
    | none => u
    | some a =>
      if a < u.sch.abs + u.sch.next then u
      else takeAnnounce u { at_ := a, frame := frame, i := i } entry vlast (a < u.sch.abs + u.sch.next + 1)

theorem execAnnounce_good {s : State} {tag : BitVec 128} {seq frame slot vlast entry : Nat}
    (htag : tagVerifies s 0x01 seq [frame, slot % 2 ^ 20 + 2 ^ 20 * vlast, entry] tag = true) (h : receives s = true)
    (hseq : s.prt.rxSeq < seq) : execAnnounce tag seq frame slot vlast entry s =
      .next (announced (heardPartner (seqTaken s seq)) frame (slot % 2 ^ 20) vlast entry) := by
  unfold execAnnounce announced seqTaken
  rw [htag, takePacket_good h hseq]
  dsimp only
  rw [if_neg (by decide)]
  generalize slot % 2 ^ 20 = i
  generalize heardPartner _ = u
  generalize absSlot u frame i = m
  split
  · rfl
  · cases m
    · rfl
    · dsimp only
      split <;> rfl

theorem announced_ignored {u : State} {frame i vlast entry : Nat} (h : splitsEntries u = false ∨ u.red.mute = true ∨ u.sch.running = false ∨
    i % 2 = sideNow u ∨ entry = 0xFFFFFFFF ∨ absSlot u frame i = none) : announced u frame i vlast entry = u := by
  unfold announced
  split
  · rfl
  next hno =>
    simp only [Bool.or_eq_true, Bool.not_eq_true', decide_eq_true_eq, not_or] at hno
    obtain ⟨⟨⟨⟨hsplit, hmute⟩, hrun⟩, hside⟩, hentry⟩ := hno
    rcases h with h | h | h | h | h | h
    · exact absurd h hsplit
    · exact absurd h hmute
    · exact absurd h hrun
    · exact absurd h hside
    · exact absurd h hentry
    · rw [h]

theorem announced_past {u : State} {frame i vlast entry a : Nat} (ha : absSlot u frame i = some a) (h : a < u.sch.abs + u.sch.next) :
    announced u frame i vlast entry = u := by
  unfold announced
  rw [ha]
  dsimp only
  rw [if_pos h, ite_self]

theorem announced_takes {u : State} {frame i vlast entry a : Nat} (hs : splitsEntries u = true) (hm : u.red.mute = false)
    (hr : u.sch.running = true) (hi : i % 2 ≠ sideNow u) (he : entry ≠ 0xFFFFFFFF) (ha : absSlot u frame i = some a)
    (h : u.sch.abs + u.sch.next ≤ a) : announced u frame i vlast entry =
      takeAnnounce u { at_ := a, frame := frame, i := i } entry vlast (a < u.sch.abs + u.sch.next + 1) := by
  unfold announced
  rw [ha]
  dsimp only
  rw [if_neg (by simp [hs, hm, hr, hi, he]), if_neg (by omega)]

/-- The announced shot is charged and counted for its entry. -/
def announceCharged (u : State) (a frame entry vlast : Nat) (y : Shot) : State :=
  updOwe (noteLast { u with sch := { u.sch with charges := u.sch.charges ++ [chargeOf u y (shotCharge u y vlast) false] } } entry a)
    frame entry fun p => { p with owed := p.owed - 1, fired := p.fired + 1 }

theorem takeAnnounce_late {u : State} {a frame i entry vlast : Nat} {y : Shot} {o : Owe}
    (h : partnerShot u ⟨a, frame, i⟩ entry vlast = some (y, o)) :
    takeAnnounce u ⟨a, frame, i⟩ entry vlast true = (announceCharged u a frame entry vlast y).inc F.RED_CNT_LATE := by
  unfold takeAnnounce
  rw [h]
  rfl

theorem takeAnnounce_intime {u : State} {a frame i entry vlast : Nat} {y : Shot} {o : Owe}
    (h : partnerShot u ⟨a, frame, i⟩ entry vlast = some (y, o)) :
    takeAnnounce u ⟨a, frame, i⟩ entry vlast false = placeCells (settingsOf u ⟨a, frame, i⟩) o.owed y
      (enterLook (wakeClusters (announceCharged u a frame entry vlast y) y.cl) y) := by
  unfold takeAnnounce
  rw [h]
  rfl

theorem announceCharged_parts (u : State) (a frame entry vlast : Nat) (y : Shot) :
    announceCharged u a frame entry vlast y = { u with sch := (announceCharged u a frame entry vlast y).sch } ∧
    (announceCharged u a frame entry vlast y).sch.look = u.sch.look ∧
    (announceCharged u a frame entry vlast y).sch.charges = u.sch.charges ++ [chargeOf u y (shotCharge u y vlast) false] := by
  unfold announceCharged updOwe
  dsimp only
  split <;> exact ⟨rfl, rfl, rfl⟩

theorem clst_served (s : State) {k : Nat} (hk : k ∈ List.range 16) : clst (servedBy s k) ∈ (List.range 17).map clst := by
  refine List.mem_map_of_mem (List.mem_range.mpr ?_)
  have := List.mem_range.mp hk
  unfold servedBy
  split <;> omega

/-- Clusters are woken: the shots and the charges stay. -/
theorem wakeClusters_parts (s : State) (cl : Nat) : (wakeClusters s cl).sch.look = s.sch.look ∧
    (wakeClusters s cl).sch.charges = s.sch.charges ∧ (wakeClusters s cl).mode = s.mode ∧
    RegFrame ((List.range 17).map clst) s (wakeClusters s cl) := by
  refine List.foldlRecOn (List.range 16) _ (motive := fun t : State => t.sch.look = s.sch.look ∧ t.sch.charges = s.sch.charges ∧
    t.mode = s.mode ∧ RegFrame ((List.range 17).map clst) s t) ⟨rfl, rfl, rfl, .refl _ s⟩ fun t h k hk => ?_
  dsimp only
  split
  · obtain ⟨hlook, hcharges, hmode, hframe⟩ := h
    exact ⟨hlook, hcharges, hmode, RegFrame.other (hframe.set Cl.restarting (clst_served s hk)) rfl⟩
  · exact h

theorem announce_late {s : State} {tag : BitVec 128} {seq frame slot vlast entry a : Nat} {u : State} {y : Shot} {o : Owe}
    (hrun : execAnnounce tag seq frame slot vlast entry s = .next (takeAnnounce u ⟨a, frame, slot % 2 ^ 20⟩ entry vlast true))
    (hy : partnerShot u ⟨a, frame, slot % 2 ^ 20⟩ entry vlast = some (y, o)) :
    Gives (.announce tag seq frame slot vlast entry) s (fun t => t.sch = (announceCharged u a frame entry vlast y).sch ∧
      t.get F.RED_CNT_LATE = (u.inc F.RED_CNT_LATE).get F.RED_CNT_LATE ∧ RegFrame [F.RED_CNT_LATE] u t ∧
      t = { u with regs := t.regs, sch := t.sch }) := by
  rw [takeAnnounce_late hy] at hrun
  obtain ⟨heq, -, -⟩ := announceCharged_parts u a frame entry vlast y
  generalize announceCharged u a frame entry vlast y = v at heq hrun ⊢
  have hregs : v.regs = u.regs := by rw [heq]
  refine ⟨_, hrun, rfl, ?_, (RegFrame.other (.refl _ u) hregs).inc (by simp), ?_⟩
  · have hsame : v.get F.RED_CNT_LATE = u.get F.RED_CNT_LATE := congrArg (getReg · F.RED_CNT_LATE) hregs
    unfold State.inc State.add
    rw [get_set_same, get_set_same, hsame]
  · unfold State.inc State.add State.set
    rw [heq]

theorem announce_intime {s : State} {tag : BitVec 128} {seq frame slot vlast entry a : Nat} {u : State} {y : Shot} {o : Owe}
    (hu : u.mode = s.mode)
    (hrun : execAnnounce tag seq frame slot vlast entry s = .next (takeAnnounce u ⟨a, frame, slot % 2 ^ 20⟩ entry vlast false))
    (hy : partnerShot u ⟨a, frame, slot % 2 ^ 20⟩ entry vlast = some (y, o)) :
    Gives (.announce tag seq frame slot vlast entry) s (fun t => t.sch.look = u.sch.look ++ [y] ∧
      t.sch.charges = u.sch.charges ++ [chargeOf u y (shotCharge u y vlast) false] ∧
      t.get F.RED_CNT_LATE = u.get F.RED_CNT_LATE ∧ Keeps s t ∧ t.mode = s.mode) := by
  have hkeeps := (execAnnounce_keeps tag seq frame slot vlast entry (Keeps.refl s)).keeps _ hrun
  rw [takeAnnounce_intime hy] at hrun hkeeps
  obtain ⟨heq, hlook, hcharges⟩ := announceCharged_parts u a frame entry vlast y
  generalize announceCharged u a frame entry vlast y = v at heq hlook hcharges hrun hkeeps
  have hregs : v.regs = u.regs := by rw [heq]
  have hmode : v.mode = u.mode := by rw [heq]
  obtain ⟨hwlook, hwcharges, hwmode, hwframe⟩ := wakeClusters_parts v y.cl
  generalize wakeClusters v y.cl = w at hwlook hwcharges hwmode hwframe hrun hkeeps
  have hplaced := placeCells_placed (settingsOf u ⟨a, frame, slot % 2 ^ 20⟩) o.owed y (enterLook w y)
  generalize placeCells (settingsOf u ⟨a, frame, slot % 2 ^ 20⟩) o.owed y (enterLook w y) = x at hplaced hrun hkeeps
  have hsch : x.sch = (enterLook w y).sch := by rw [hplaced.eq]
  have hxmode : x.mode = w.mode := by rw [hplaced.eq]; rfl
  have hlate : x.get F.RED_CNT_LATE = w.get F.RED_CNT_LATE := hplaced.frame F.RED_CNT_LATE (by decide)
  refine ⟨x, hrun, ?_, ?_, ?_, hkeeps, ((hxmode.trans hwmode).trans hmode).trans hu⟩
  · rw [hsch, ← hlook, ← hwlook]
    rfl
  · rw [hsch, ← hcharges, ← hwcharges]
    rfl
  · exact hlate.trans ((hwframe F.RED_CNT_LATE (by decide)).trans (congrArg (getReg · F.RED_CNT_LATE) hregs))

end Sys2Proof.Machine

/-! ## Mirror blocks and frame marks (R510, R511, R516, R517)

What a mirror block leaves, part by part; with it O48. -/
namespace Sys2Proof.Machine

/-! ### Alternation begins (R511, R516) -/

theorem clearUnsure_red (s : State) : (clearUnsure s).red = { s.red with since := (clearUnsure s).red.since } := by
  unfold clearUnsure
  split <;> rfl

theorem enterAlt_enters {s : State} {cause : Nat} (h : s.flag F.RED_STATUS_ALT = false) : (enterAlt s cause).get F.RED_STATUS_ALT = 1 ∧
    (enterAlt s cause).get F.RED_STATUS_ALT_CAUSE = cause % 4 ∧ (enterAlt s cause).mode = s.mode ∧
    (enterAlt s cause).red = { s.red with halves := false, mute := false, matched := 0, joinFrom := none, adopt := none,
                                          since := (enterAlt s cause).red.since } := by
  have halt (t : State) : ((t.set F.RED_STATUS_ALT 1).set F.RED_STATUS_ALT_CAUSE cause).get F.RED_STATUS_ALT = 1 ∧
      ((t.set F.RED_STATUS_ALT 1).set F.RED_STATUS_ALT_CAUSE cause).get F.RED_STATUS_ALT_CAUSE = cause % 4 :=
    ⟨(get_set_other _ _ (by decide)).trans (get_set_same t F.RED_STATUS_ALT 1), get_set_same _ F.RED_STATUS_ALT_CAUSE cause⟩
  obtain ⟨hone, hcause⟩ := halt (stick s 0x1C0)
  have hmode : (((stick s 0x1C0).set F.RED_STATUS_ALT 1).set F.RED_STATUS_ALT_CAUSE cause).mode = s.mode := rfl
  have hred : (((stick s 0x1C0).set F.RED_STATUS_ALT 1).set F.RED_STATUS_ALT_CAUSE cause).red = s.red := rfl
  unfold enterAlt
  rw [if_neg (by simp [h])]
  dsimp only
  generalize ((stick s 0x1C0).set F.RED_STATUS_ALT 1).set F.RED_STATUS_ALT_CAUSE cause = t at hone hcause hmode hred ⊢
  have hquiet : RegFrame [F.RED_CNT_ALT, F.RED_STATUS_HALTER, F.RED_STATUS_STANDBY, F.RED_STATUS_SILENCE] t
      ((((t.inc F.RED_CNT_ALT).set F.RED_STATUS_HALTER 0).set F.RED_STATUS_STANDBY 0).set F.RED_STATUS_SILENCE 0) :=
    ((((RegFrame.refl _ t).inc (by simp)).set 0 (by simp)).set 0 (by simp)).set 0 (by simp)
  have hsame : ((((t.inc F.RED_CNT_ALT).set F.RED_STATUS_HALTER 0).set F.RED_STATUS_STANDBY 0).set F.RED_STATUS_SILENCE 0).red = t.red := rfl
  have hstay : ((((t.inc F.RED_CNT_ALT).set F.RED_STATUS_HALTER 0).set F.RED_STATUS_STANDBY 0).set F.RED_STATUS_SILENCE 0).mode = t.mode := rfl
  generalize (((t.inc F.RED_CNT_ALT).set F.RED_STATUS_HALTER 0).set F.RED_STATUS_STANDBY 0).set F.RED_STATUS_SILENCE 0 = u at hquiet hsame hstay ⊢
  have hsure := clearUnsure_frame u
  have hkept := clearUnsure_red u
  obtain ⟨hum, -⟩ := clearUnsure_parts u
  generalize clearUnsure u = v at hsure hkept hum ⊢
  have hreg (f : Fld) (h1 : ∀ g ∈ [F.RED_CNT_ALT, F.RED_STATUS_HALTER, F.RED_STATUS_STANDBY, F.RED_STATUS_SILENCE], f.key ≠ g.key)
      (h2 : ∀ g ∈ [F.SCH_STATUS_UNSURE, F.RED_DBL_MAX], f.key ≠ g.key) : v.get f = t.get f := (hsure f h2).trans (hquiet f h1)
  refine ⟨?_, ?_, ?_, ?_⟩
  · exact (get_set_other _ _ (by decide)).trans ((hreg _ (by decide) (by decide)).trans hone)
  · exact (get_set_other _ _ (by decide)).trans ((hreg _ (by decide) (by decide)).trans hcause)
  · exact (hum.trans hstay).trans hmode
  · rw [← hred, ← hsame]
    unfold noteRole dropPartnerShots
    dsimp only [State.set]
    rw [hkept]

/-! ### What a mirror block gives (R512, R516) -/

/-- The partner's values are noted, and its seed is taken or held. -/
def mirrorNoted (s : State) (schema : Nat) (all : Bool) (hash seed calVer : Nat) : State :=
  let t := ((((s.set F.RED_PHASH hash).set F.RED_SCHEMA_PARTNER schema).set F.RED_CAL_VER_PARTNER calVer).put
    F.RED_STATUS_CAL_DIFF (calVer != s.get F.CAL_VERSION_WORKING))
  takeSeed { t with red := { t.red with partnerAll := all } } seed

/-- Alternation for a block that differs. -/
def mirrorAlt (v : State) (cause : Nat) : State :=
  let a := enterAlt v cause
  { a with red := { a.red with matched := 0, joinFrom := none } }

/-- One more block that agrees. -/
def mirrorMatch (v : State) : State :=
  let n := v.red.matched + 1
  { v with red := { v.red with matched := n, joinFrom :=
      if 2 ≤ n && v.red.joinFrom.isNone then some (v.sch.abs + v.sch.next) else v.red.joinFrom } }

/-- A follower notes the frame sequence to adopt. -/
def adoptFrame (w : State) (frame : Nat) : State :=
  if sideNow w = 1 then { w with red := { w.red with adopt := some frame } } else w

/-- The comparison of the blocks, and the frame sequence that a follower adopts. -/
def mirrorJudged (v : State) (schema side hash frame : Nat) : State :=
  adoptFrame (if mirrorCause v schema side hash != 0 then mirrorAlt v (mirrorCause v schema side hash) else mirrorMatch v) frame

theorem takeMirror_eq (s : State) (schema side : Nat) (all : Bool) (hash seed frame calVer mark24 dly : Nat) :
    takeMirror s schema side all hash seed frame calVer mark24 dly =
      mirrorJudged (takeSkew (mirrorNoted s schema all hash seed calVer) mark24 dly) schema side hash frame := rfl

/-- The registers that note the partner's block. -/
def mirrorFields : List Fld := [F.RED_PHASH, F.RED_SCHEMA_PARTNER, F.RED_CAL_VER_PARTNER, F.RED_STATUS_CAL_DIFF, F.HGE_PSEED]

theorem takeSeed_parts (s : State) (seed : Nat) : (takeSeed s seed).red = s.red ∧ (takeSeed s seed).mode = s.mode ∧
    RegFrame [F.HGE_PSEED] s (takeSeed s seed) ∧
    (s.mode.scanning = false → (takeSeed s seed).get F.HGE_PSEED = seed % 2 ^ F.HGE_PSEED.width ∧ (takeSeed s seed).hold = s.hold) := by
  unfold takeSeed
  split
  next h => exact ⟨rfl, rfl, .other (.refl _ s) rfl, fun hno => absurd h (by simp [hno])⟩
  · exact ⟨rfl, rfl, .setOne s F.HGE_PSEED seed, fun _ => ⟨get_set_same s F.HGE_PSEED seed, rfl⟩⟩

theorem mirrorNoted_parts (s : State) (schema : Nat) (all : Bool) (hash seed calVer : Nat) :
    (mirrorNoted s schema all hash seed calVer).red = { s.red with partnerAll := all } ∧
    (mirrorNoted s schema all hash seed calVer).mode = s.mode ∧
    RegFrame mirrorFields s (mirrorNoted s schema all hash seed calVer) ∧
    (s.mode.scanning = false → (mirrorNoted s schema all hash seed calVer).get F.HGE_PSEED = seed % 2 ^ F.HGE_PSEED.width ∧
      (mirrorNoted s schema all hash seed calVer).hold = s.hold) ∧
    (mirrorNoted s schema all hash seed calVer).get F.RED_PHASH = hash % 2 ^ F.RED_PHASH.width ∧
    (mirrorNoted s schema all hash seed calVer).get F.RED_SCHEMA_PARTNER = schema % 2 ^ F.RED_SCHEMA_PARTNER.width ∧
    (mirrorNoted s schema all hash seed calVer).get F.RED_CAL_VER_PARTNER = calVer % 2 ^ F.RED_CAL_VER_PARTNER.width ∧
    (mirrorNoted s schema all hash seed calVer).get F.RED_STATUS_CAL_DIFF = b2n (calVer != s.get F.CAL_VERSION_WORKING) := by
  unfold mirrorNoted
  dsimp only
  generalize hdiff : (calVer != s.get F.CAL_VERSION_WORKING) = diff
  have hframe : RegFrame mirrorFields s ((((s.set F.RED_PHASH hash).set F.RED_SCHEMA_PARTNER schema).set F.RED_CAL_VER_PARTNER calVer).put
      F.RED_STATUS_CAL_DIFF diff) :=
    ((((RegFrame.refl _ s).set _ (by simp [mirrorFields])).set _ (by simp [mirrorFields])).set _ (by simp [mirrorFields])).put _
      (by simp [mirrorFields])
  have hget : ((((s.set F.RED_PHASH hash).set F.RED_SCHEMA_PARTNER schema).set F.RED_CAL_VER_PARTNER calVer).put
        F.RED_STATUS_CAL_DIFF diff).get F.RED_PHASH = hash % 2 ^ F.RED_PHASH.width ∧
      ((((s.set F.RED_PHASH hash).set F.RED_SCHEMA_PARTNER schema).set F.RED_CAL_VER_PARTNER calVer).put
        F.RED_STATUS_CAL_DIFF diff).get F.RED_SCHEMA_PARTNER = schema % 2 ^ F.RED_SCHEMA_PARTNER.width ∧
      ((((s.set F.RED_PHASH hash).set F.RED_SCHEMA_PARTNER schema).set F.RED_CAL_VER_PARTNER calVer).put
        F.RED_STATUS_CAL_DIFF diff).get F.RED_CAL_VER_PARTNER = calVer % 2 ^ F.RED_CAL_VER_PARTNER.width ∧
      ((((s.set F.RED_PHASH hash).set F.RED_SCHEMA_PARTNER schema).set F.RED_CAL_VER_PARTNER calVer).put
        F.RED_STATUS_CAL_DIFF diff).get F.RED_STATUS_CAL_DIFF = b2n diff := by
    unfold State.put
    simp (disch := decide) only [get_set_other, get_set_same, true_and]
    cases diff <;> rfl
  obtain ⟨hphash, hschema, hcal, hcaldiff⟩ := hget
  have hred : ((((s.set F.RED_PHASH hash).set F.RED_SCHEMA_PARTNER schema).set F.RED_CAL_VER_PARTNER calVer).put
      F.RED_STATUS_CAL_DIFF diff).red = s.red := rfl
  have hmode : ((((s.set F.RED_PHASH hash).set F.RED_SCHEMA_PARTNER schema).set F.RED_CAL_VER_PARTNER calVer).put
      F.RED_STATUS_CAL_DIFF diff).mode = s.mode := rfl
  have hhold : ((((s.set F.RED_PHASH hash).set F.RED_SCHEMA_PARTNER schema).set F.RED_CAL_VER_PARTNER calVer).put
      F.RED_STATUS_CAL_DIFF diff).hold = s.hold := rfl
  generalize (((s.set F.RED_PHASH hash).set F.RED_SCHEMA_PARTNER schema).set F.RED_CAL_VER_PARTNER calVer).put
      F.RED_STATUS_CAL_DIFF diff = t at hframe hphash hschema hcal hcaldiff hred hmode hhold ⊢
  obtain ⟨hsred, hsmode, hsframe, hseed⟩ := takeSeed_parts { t with red := { t.red with partnerAll := all } } seed
  generalize takeSeed { t with red := { t.red with partnerAll := all } } seed = u at hsred hsmode hsframe hseed ⊢
  have hreg (f : Fld) (hf : ∀ g ∈ [F.HGE_PSEED], f.key ≠ g.key) : u.get f = t.get f := hsframe f hf
  refine ⟨?_, hsmode.trans hmode, ?_, fun hno => ?_, (hreg _ (by decide)).trans hphash, (hreg _ (by decide)).trans hschema,
    (hreg _ (by decide)).trans hcal, (hreg _ (by decide)).trans hcaldiff⟩
  · rw [hsred, ← hred]
  · exact hframe.trans (.trans (.other (.refl _ t) rfl) (hsframe.subset (by simp [mirrorFields])))
  · obtain ⟨hset, hkept⟩ := hseed (by rw [← hno, ← hmode])
    exact ⟨hset, hkept.trans hhold⟩

/-! ### The comparison (R516) -/

theorem mirrorJudged_agrees {v : State} {schema side hash : Nat} (frame : Nat) (h1 : schema = v.get F.RED_SCHEMA_OWN)
    (h2 : hash = v.get F.RED_HASH) (h3 : side ≠ sideNow v) : (mirrorJudged v schema side hash frame).regs = v.regs ∧
      (mirrorJudged v schema side hash frame).mode = v.mode ∧ (mirrorJudged v schema side hash frame).hold = v.hold ∧
      (mirrorJudged v schema side hash frame).red = { v.red with
        matched := v.red.matched + 1, joinFrom := (mirrorJudged v schema side hash frame).red.joinFrom,
        adopt := if sideNow v = 1 then some frame else v.red.adopt } := by
  have hcause : mirrorCause v schema side hash = 0 := by
    unfold mirrorCause
    rw [if_neg (by simp [h1]), if_neg (by simp [h2, h3])]
  have hjudged : mirrorJudged v schema side hash frame = adoptFrame (mirrorMatch v) frame := by
    unfold mirrorJudged
    rw [hcause]
    exact congrArg (adoptFrame · frame) (if_neg (by decide))
  have hside : sideNow (mirrorMatch v) = sideNow v := rfl
  rw [hjudged]
  unfold adoptFrame
  rw [hside]
  by_cases hs : sideNow v = 1
  · simp only [hs, if_true]
    exact ⟨rfl, rfl, rfl, rfl⟩
  · simp only [hs, if_false]
    exact ⟨rfl, rfl, rfl, rfl⟩

theorem mirrorJudged_differs {v : State} {schema side hash cause : Nat} (frame : Nat) (hc : mirrorCause v schema side hash = cause)
    (h0 : cause ≠ 0) (ha : v.flag F.RED_STATUS_ALT = false) : (mirrorJudged v schema side hash frame).get F.RED_STATUS_ALT = 1 ∧
      (mirrorJudged v schema side hash frame).get F.RED_STATUS_ALT_CAUSE = cause % 4 ∧
      (mirrorJudged v schema side hash frame).red.halves = false ∧ (mirrorJudged v schema side hash frame).red.matched = 0 ∧
      (mirrorJudged v schema side hash frame).mode = v.mode := by
  obtain ⟨halt, hcause, hmode, hred⟩ := enterAlt_enters (cause := cause) ha
  have hjudged : mirrorJudged v schema side hash frame = adoptFrame (mirrorAlt v cause) frame := by
    unfold mirrorJudged
    rw [hc]
    exact congrArg (adoptFrame · frame) (if_pos (by simpa using h0))
  rw [hjudged]
  unfold mirrorAlt adoptFrame
  generalize enterAlt v cause = a at halt hcause hmode hred ⊢
  have hhalves : a.red.halves = false := by rw [hred]
  dsimp only
  split <;> exact ⟨halt, hcause, hhalves, rfl, hmode⟩

/-! ### The skew (R510, R511, R593) -/

theorem takeSkew_none {s : State} (h : s.red.mark = none) (mark24 dly : Nat) : takeSkew s mark24 dly = s := by
  unfold takeSkew
  rw [h]

/-- PSKEW takes the skew of a mark, which is used up. -/
def skewTaken (s : State) (skew : Int) : State :=
  { s.setInt F.RED_PSKEW skew with red := { s.red with mark := none, skews := (skew :: s.red.skews).take 3 } }

theorem takeSkew_some {s : State} {mark24 dly : Nat} {stamp skew : Int} (h : s.red.mark = some (mark24 % 2 ^ 24, stamp))
    (hside : sideNow s = 1) (hskew : skew = stamp - Int.ofNat (s.get F.LNK_PRT_LAT_LAT) - Int.ofNat dly -
      80 * divRoundInt (stamp - Int.ofNat (s.get F.LNK_PRT_LAT_LAT) - Int.ofNat dly) 80) :
    takeSkew s mark24 dly = if !steady skew (s.getInt F.RED_PSKEW) && s.red.halves && !s.red.skews.isEmpty
      then enterAlt (skewTaken s skew) 3 else skewTaken s skew := by
  unfold takeSkew
  rw [h]
  dsimp only
  rw [if_neg (by simp [hside]), ← hskew]
  rfl

theorem ofBits_toBits {x : Int} (hlow : -40 ≤ x) (hhigh : x ≤ 40) : ofBits 16 (toBits 16 x % 2 ^ 16) = x := by
  unfold ofBits toBits
  rw [Nat.mod_mod]
  simp only [Int.ofNat_eq_natCast]
  split <;> omega

/-- The rest of a rounded division by 80 is at most half of it. -/
theorem rest_le (b : Int) : -40 ≤ b - 80 * divRoundInt b 80 ∧ b - 80 * divRoundInt b 80 ≤ 40 := by
  unfold divRoundInt divRound
  simp only [Int.ofNat_eq_natCast]
  split <;> omega

theorem skewTaken_get {s : State} {skew b : Int} (h : skew = b - 80 * divRoundInt b 80) :
    (skewTaken s skew).getInt F.RED_PSKEW = skew := by
  obtain ⟨hlow, hhigh⟩ := rest_le b
  have hget : (skewTaken s skew).get F.RED_PSKEW = toBits 16 skew % 2 ^ 16 := get_set_same s F.RED_PSKEW _
  unfold State.getInt
  rw [hget]
  exact ofBits_toBits (by omega) (by omega)

/-! ### MIRROR -/

theorem execMirror_good {s : State} {tag : BitVec 128} {seq schema side seed frame calVer mark24 dly : Nat} {all : Bool} {hash : Nat}
    (htag : tagVerifies s 0x02 seq (mirrorWords schema side all hash seed frame calVer mark24 dly) tag = true) (h : receives s = true)
    (hseq : s.prt.rxSeq < seq) : execMirror tag seq schema side all hash seed frame calVer mark24 dly s =
      .next (if native (heardPartner (seqTaken s seq)) then
        takeMirror (heardPartner (seqTaken s seq)) schema side all hash seed frame calVer mark24 dly
      else heardPartner (seqTaken s seq)) := by
  unfold execMirror seqTaken
  rw [htag, takePacket_good h hseq]
  dsimp only
  rw [if_neg (by decide)]
  generalize heardPartner _ = u
  split <;> rfl

theorem execMirror_old {s : State} {tag : BitVec 128} {seq schema side seed frame calVer mark24 dly : Nat} {all : Bool} {hash : Nat}
    (htag : tagVerifies s 0x02 seq (mirrorWords schema side all hash seed frame calVer mark24 dly) tag = true) (h : receives s = true)
    (hseq : seq ≤ s.prt.rxSeq) : execMirror tag seq schema side all hash seed frame calVer mark24 dly s =
      .next (s.inc F.LNK_PRT_CNT_SEQ) := by
  unfold execMirror
  rw [htag, takePacket_old h hseq]
  rfl

theorem heard_native (s : State) (seq : Nat) : native (heardPartner (seqTaken s seq)) = native s := by
  unfold native
  rw [(heardPartner_parts (seqTaken s seq)).2 F.RED_STATUS_MODE (by decide)]
  rfl

/-- A good block of a native pair is noted, gives the skew and is compared. -/
theorem execMirror_native {s : State} {tag : BitVec 128} {seq schema side seed frame calVer mark24 dly : Nat} {all : Bool} {hash : Nat}
    (htag : tagVerifies s 0x02 seq (mirrorWords schema side all hash seed frame calVer mark24 dly) tag = true) (h : receives s = true)
    (hseq : s.prt.rxSeq < seq) (hn : native s = true) : execMirror tag seq schema side all hash seed frame calVer mark24 dly s =
      .next (mirrorJudged (takeSkew (mirrorNoted (heardPartner (seqTaken s seq)) schema all hash seed calVer) mark24 dly)
        schema side hash frame) := by
  rw [execMirror_good htag h hseq, heard_native, hn]
  exact congrArg Host.Outcome.next (takeMirror_eq ..)

theorem mirror_agrees {s : State} {tag : BitVec 128} {seq schema side seed frame calVer mark24 dly : Nat} {all : Bool} {hash : Nat}
    (htag : tagVerifies s 0x02 seq (mirrorWords schema side all hash seed frame calVer mark24 dly) tag = true) (h : receives s = true)
    (hseq : s.prt.rxSeq < seq) (hn : native s = true) (hm : s.red.mark = none) (h1 : schema = s.get F.RED_SCHEMA_OWN)
    (h2 : hash = s.get F.RED_HASH) (h3 : side ≠ sideNow s) :
    Gives (.mirror tag seq schema side all hash seed frame calVer mark24 dly) s (fun t =>
      t.red.matched = s.red.matched + 1 ∧ t.red.partnerAll = all ∧ t.get F.RED_PHASH = hash % 2 ^ F.RED_PHASH.width ∧
      t.get F.RED_SCHEMA_PARTNER = schema % 2 ^ F.RED_SCHEMA_PARTNER.width ∧
      t.get F.RED_CAL_VER_PARTNER = calVer % 2 ^ F.RED_CAL_VER_PARTNER.width ∧
      t.get F.RED_STATUS_CAL_DIFF = b2n (calVer != s.get F.CAL_VERSION_WORKING) ∧
      (s.mode.scanning = false → t.get F.HGE_PSEED = seed % 2 ^ F.HGE_PSEED.width ∧ t.hold = s.hold) ∧
      (sideNow s = 1 → t.red.adopt = some frame) ∧ (sideNow s ≠ 1 → t.red.adopt = s.red.adopt) ∧
      RegFrame [F.RED_PHASH, F.RED_SCHEMA_PARTNER, F.RED_CAL_VER_PARTNER, F.RED_STATUS_CAL_DIFF, F.HGE_PSEED,
        F.RED_STATUS_SILENCE, F.RED_STATUS_ROLE] s t ∧ t.mode = s.mode) := by
  have hrun := execMirror_native (side := side) (frame := frame) (mark24 := mark24) (dly := dly) htag h hseq hn
  obtain ⟨hueq, huframe⟩ := heardPartner_parts (seqTaken s seq)
  have hured : (heardPartner (seqTaken s seq)).red = s.red := by rw [hueq]; rfl
  have humode : (heardPartner (seqTaken s seq)).mode = s.mode := by rw [hueq]; rfl
  have huhold : (heardPartner (seqTaken s seq)).hold = s.hold := by rw [hueq]; rfl
  replace huframe : RegFrame [F.RED_STATUS_SILENCE, F.RED_STATUS_ROLE] s (heardPartner (seqTaken s seq)) :=
    RegFrame.trans (s := seqTaken s seq) (.other (.refl _ s) rfl) huframe
  generalize heardPartner (seqTaken s seq) = u at hrun hured humode huhold huframe
  obtain ⟨hred, hmode, hframe, hseed, hphash, hschema, hcal, hdiff⟩ := mirrorNoted_parts u schema all hash seed calVer
  generalize mirrorNoted u schema all hash seed calVer = v at hrun hred hmode hframe hseed hphash hschema hcal hdiff
  rw [takeSkew_none (by rw [hred]; exact hured ▸ hm)] at hrun
  have hv (f : Fld) (hf : ∀ g ∈ mirrorFields, f.key ≠ g.key) (hg : ∀ g ∈ [F.RED_STATUS_SILENCE, F.RED_STATUS_ROLE], f.key ≠ g.key) :
      v.get f = s.get f := (hframe f hf).trans (huframe f hg)
  have hside : sideNow v = sideNow s := hv F.RED_CTRL_SIDE (by decide) (by decide)
  obtain ⟨hjregs, hjmode, hjhold, hjred⟩ := mirrorJudged_agrees (v := v) frame (h1.trans (hv _ (by decide) (by decide)).symm)
    (h2.trans (hv _ (by decide) (by decide)).symm) (hside ▸ h3)
  generalize mirrorJudged v schema side hash frame = t at hrun hjregs hjmode hjhold hjred
  have ht (f : Fld) : t.get f = v.get f := congrArg (getReg · f) hjregs
  refine ⟨t, hrun, ?_, ?_, (ht _).trans hphash, (ht _).trans hschema, (ht _).trans hcal, ?_, fun hno => ?_, fun hs => ?_, fun hs => ?_, ?_,
    (hjmode.trans hmode).trans humode⟩
  · rw [hjred, hred, hured]
  · rw [hjred, hred]
  · rw [ht, hdiff, huframe F.CAL_VERSION_WORKING (by decide)]
  · obtain ⟨hset, hkept⟩ := hseed (by rw [humode, hno])
    exact ⟨(ht _).trans hset, (hjhold.trans hkept).trans huhold⟩
  · rw [hjred]
    exact if_pos (hside.trans hs)
  · rw [hjred, hred, hured]
    exact if_neg (hside ▸ hs)
  · exact RegFrame.other (t := v) (RegFrame.trans (huframe.subset (by simp)) (hframe.subset (by simp [mirrorFields]))) hjregs

theorem mirror_differs {s : State} {tag : BitVec 128} {seq schema side seed frame calVer mark24 dly : Nat} {all : Bool} {hash cause : Nat}
    (htag : tagVerifies s 0x02 seq (mirrorWords schema side all hash seed frame calVer mark24 dly) tag = true) (h : receives s = true)
    (hseq : s.prt.rxSeq < seq) (hn : native s = true) (hm : s.red.mark = none) (ha : s.flag F.RED_STATUS_ALT = false)
    (hc : mirrorCause s schema side hash = cause) (h0 : cause ≠ 0) (h4 : cause < 4) :
    Gives (.mirror tag seq schema side all hash seed frame calVer mark24 dly) s (fun t => t.get F.RED_STATUS_ALT = 1 ∧
      t.get F.RED_STATUS_ALT_CAUSE = cause ∧ t.red.halves = false ∧ t.red.matched = 0 ∧ t.mode = s.mode) := by
  have hrun := execMirror_native (side := side) (frame := frame) (mark24 := mark24) (dly := dly) htag h hseq hn
  rw [heardPartner_alone (s := seqTaken s seq) ha] at hrun
  obtain ⟨hred, hmode, hframe, -⟩ := mirrorNoted_parts (seqTaken s seq) schema all hash seed calVer
  generalize mirrorNoted (seqTaken s seq) schema all hash seed calVer = v at hrun hred hmode hframe
  rw [takeSkew_none (by rw [hred]; exact hm)] at hrun
  have hv (f : Fld) (hf : ∀ g ∈ mirrorFields, f.key ≠ g.key) : v.get f = s.get f := hframe f hf
  have hcause : mirrorCause v schema side hash = cause := by
    rw [← hc]
    unfold mirrorCause sideNow
    rw [hv _ (by decide), hv _ (by decide), hv _ (by decide)]
  have hav : v.flag F.RED_STATUS_ALT = false := by
    rw [← ha]
    unfold State.flag
    rw [hv _ (by decide)]
  obtain ⟨halt, hcauseGet, hhalves, hmatched, hjmode⟩ := mirrorJudged_differs frame hcause h0 hav
  exact ⟨_, hrun, halt, hcauseGet.trans (Nat.mod_eq_of_lt h4), hhalves, hmatched, hjmode.trans hmode⟩

section
variable {s : State} {tag : BitVec 128} {seq schema side seed frame calVer mark24 dly : Nat} {all : Bool} {hash : Nat} {stamp b skew : Int}

/-- A block of the leader that names the mark which a follower outside alternation holds: its skew is taken. -/
theorem execMirror_skew (htag : tagVerifies s 0x02 seq (mirrorWords schema side all hash seed frame calVer mark24 dly) tag = true)
    (h : receives s = true) (hseq : s.prt.rxSeq < seq) (hn : native s = true) (hm : s.red.mark = some (mark24 % 2 ^ 24, stamp))
    (hside : sideNow s = 1) (ha : s.flag F.RED_STATUS_ALT = false)
    (hb : b = stamp - Int.ofNat (s.get F.LNK_PRT_LAT_LAT) - Int.ofNat dly) (hskew : skew = b - 80 * divRoundInt b 80) :
    ∃ v : State, v.red = { s.red with partnerAll := all } ∧ v.mode = s.mode ∧ RegFrame mirrorFields s v ∧
      execMirror tag seq schema side all hash seed frame calVer mark24 dly s = .next (mirrorJudged
        (if !steady skew (s.getInt F.RED_PSKEW) && s.red.halves && !s.red.skews.isEmpty then enterAlt (skewTaken v skew) 3
         else skewTaken v skew) schema side hash frame) := by
  have hrun := execMirror_native (side := side) (frame := frame) (mark24 := mark24) (dly := dly) htag h hseq hn
  rw [heardPartner_alone (s := seqTaken s seq) ha] at hrun
  obtain ⟨hred, hmode, hframe, -⟩ := mirrorNoted_parts (seqTaken s seq) schema all hash seed calVer
  generalize mirrorNoted (seqTaken s seq) schema all hash seed calVer = v at hrun hred hmode hframe
  replace hframe : RegFrame mirrorFields s v := hframe
  have hlat : v.get F.LNK_PRT_LAT_LAT = s.get F.LNK_PRT_LAT_LAT := hframe _ (by decide)
  have hold : v.getInt F.RED_PSKEW = s.getInt F.RED_PSKEW := congrArg (ofBits 16) (hframe F.RED_PSKEW (by decide))
  have hmark : v.red.mark = some (mark24 % 2 ^ 24, stamp) := by rw [hred]; exact hm
  have hhalves : v.red.halves = s.red.halves := by rw [hred]; rfl
  have hskews : v.red.skews = s.red.skews := by rw [hred]; rfl
  have htaken := takeSkew_some (dly := dly) (skew := skew) hmark ((hframe F.RED_CTRL_SIDE (by decide)).trans hside)
    (by rw [hlat, ← hb]; exact hskew)
  rw [hold, hhalves, hskews] at htaken
  rw [htaken] at hrun
  exact ⟨v, hred, hmode, hframe, hrun⟩

/-- What the comparison needs of the state with the skew: registers of the own block. -/
theorem skewTaken_frame {v : State} (h : RegFrame mirrorFields s v) : RegFrame (F.RED_PSKEW :: mirrorFields) s (skewTaken v skew) :=
  RegFrame.other (t := v.setInt F.RED_PSKEW skew) ((h.subset (by simp [mirrorFields])).setInt skew (by simp)) rfl

theorem mirror_steady (htag : tagVerifies s 0x02 seq (mirrorWords schema side all hash seed frame calVer mark24 dly) tag = true)
    (h : receives s = true) (hseq : s.prt.rxSeq < seq) (hn : native s = true) (hm : s.red.mark = some (mark24 % 2 ^ 24, stamp))
    (hside : sideNow s = 1) (ha : s.flag F.RED_STATUS_ALT = false)
    (hb : b = stamp - Int.ofNat (s.get F.LNK_PRT_LAT_LAT) - Int.ofNat dly) (hskew : skew = b - 80 * divRoundInt b 80)
    (h1 : schema = s.get F.RED_SCHEMA_OWN) (h2 : hash = s.get F.RED_HASH) (h3 : side ≠ 1)
    (hs : steady skew (s.getInt F.RED_PSKEW) = true ∨ s.red.halves = false) :
    Gives (.mirror tag seq schema side all hash seed frame calVer mark24 dly) s (fun t => t.getInt F.RED_PSKEW = skew ∧
      t.red.mark = none ∧ t.red.matched = s.red.matched + 1 ∧ t.red.skews = (skew :: s.red.skews).take 3 ∧
      t.get F.RED_STATUS_ALT = 0 ∧ t.mode = s.mode) := by
  obtain ⟨v, hred, hmode, hframe, hrun⟩ := execMirror_skew (side := side) (frame := frame) htag h hseq hn hm hside ha hb hskew
  rw [if_neg (by rcases hs with hs | hs <;> simp [hs])] at hrun
  have hpskew := skewTaken_get (s := v) hskew
  have htaken := skewTaken_frame (skew := skew) hframe
  have htred : (skewTaken v skew).red = { s.red with partnerAll := all, mark := none, skews := (skew :: s.red.skews).take 3 } := by
    unfold skewTaken
    rw [hred]
  have htmode : (skewTaken v skew).mode = s.mode := hmode
  generalize skewTaken v skew = w at hrun hpskew htaken htred htmode
  have hw : sideNow w = 1 := (htaken F.RED_CTRL_SIDE (by decide)).trans hside
  obtain ⟨hjregs, hjmode, -, hjred⟩ := mirrorJudged_agrees (v := w) (side := side) frame (h1.trans (htaken _ (by decide)).symm)
    (h2.trans (htaken _ (by decide)).symm) (hw ▸ h3)
  have hget (f : Fld) : (mirrorJudged w schema side hash frame).get f = w.get f := congrArg (getReg · f) hjregs
  refine ⟨_, hrun, (congrArg (ofBits 16) (hget _)).trans hpskew, ?_, ?_, ?_, ?_, hjmode.trans htmode⟩
  · rw [hjred, htred]
  · rw [hjred, htred]
  · rw [hjred, htred]
  · exact (hget _).trans ((htaken _ (by decide)).trans (flag_eq_false.mp ha))

theorem mirror_moved (htag : tagVerifies s 0x02 seq (mirrorWords schema side all hash seed frame calVer mark24 dly) tag = true)
    (h : receives s = true) (hseq : s.prt.rxSeq < seq) (hn : native s = true) (hm : s.red.mark = some (mark24 % 2 ^ 24, stamp))
    (hside : sideNow s = 1) (ha : s.flag F.RED_STATUS_ALT = false)
    (hb : b = stamp - Int.ofNat (s.get F.LNK_PRT_LAT_LAT) - Int.ofNat dly) (hskew : skew = b - 80 * divRoundInt b 80)
    (h1 : schema = s.get F.RED_SCHEMA_OWN) (h2 : hash = s.get F.RED_HASH) (h3 : side ≠ 1)
    (hs : steady skew (s.getInt F.RED_PSKEW) = false) (hh : s.red.halves = true) (hne : s.red.skews ≠ []) :
    Gives (.mirror tag seq schema side all hash seed frame calVer mark24 dly) s (fun t => t.getInt F.RED_PSKEW = skew ∧
      t.red.mark = none ∧ t.get F.RED_STATUS_ALT = 1 ∧ t.get F.RED_STATUS_ALT_CAUSE = 3 ∧ t.red.halves = false ∧
      t.mode = s.mode) := by
  obtain ⟨v, hred, hmode, hframe, hrun⟩ := execMirror_skew (side := side) (frame := frame) htag h hseq hn hm hside ha hb hskew
  rw [if_pos (by simp [hs, hh, hne])] at hrun
  have hpskew := skewTaken_get (s := v) hskew
  have htaken := skewTaken_frame (skew := skew) hframe
  have htmode : (skewTaken v skew).mode = s.mode := hmode
  have hmark : (skewTaken v skew).red.mark = none := rfl
  generalize skewTaken v skew = w at hrun hpskew htaken htmode hmark
  have hav : w.flag F.RED_STATUS_ALT = false := flag_eq_false.mpr ((htaken _ (by decide)).trans (flag_eq_false.mp ha))
  obtain ⟨halt, hcause, hamode, hared⟩ := enterAlt_enters (cause := 3) hav
  have haframe := enterAlt_frame w 3
  generalize enterAlt w 3 = x at hrun halt hcause hamode hared haframe
  have hx (f : Fld) (h1 : ∀ g ∈ altFields, f.key ≠ g.key) (h2 : ∀ g ∈ F.RED_PSKEW :: mirrorFields, f.key ≠ g.key) : x.get f = s.get f :=
    (haframe f h1).trans (htaken f h2)
  have hxside : sideNow x = 1 := (hx F.RED_CTRL_SIDE (by decide) (by decide)).trans hside
  obtain ⟨hjregs, hjmode, -, hjred⟩ := mirrorJudged_agrees (v := x) (side := side) frame
    (h1.trans (hx _ (by decide) (by decide)).symm) (h2.trans (hx _ (by decide) (by decide)).symm) (hxside ▸ h3)
  have hget (f : Fld) : (mirrorJudged x schema side hash frame).get f = x.get f := congrArg (getReg · f) hjregs
  have hkept : x.getInt F.RED_PSKEW = skew := (congrArg (ofBits 16) (haframe F.RED_PSKEW (by decide))).trans hpskew
  refine ⟨_, hrun, (congrArg (ofBits 16) (hget _)).trans hkept, ?_, (hget _).trans halt, (hget _).trans hcause, ?_,
    (hjmode.trans hamode).trans htmode⟩
  · rw [hjred, hared]
    exact hmark
  · rw [hjred, hared]

end

/-! ### Frame marks (R510, R517, R592) -/

theorem fmark_starts_follower {s : State} {stamp : Int} {frame24 k : Nat} (hn : native s = true) (hup : sessionUp s = true)
    (hside : sideNow s = 1) (hw : s.red.wait = some k) (hm : s.mode = .ready) (hp : progRuns s k = true) (hf : s.saf.f3 = [])
    (hi : s.flag F.RXF_IMP_STATUS_BUSY = false) : Gives (.fmark stamp frame24) s (fun t => t.red.wait = none ∧ t.sch.running = true ∧
      t.sch.next = 0 ∧ t.sch.frame = markFrame s frame24 % 2 ^ 32 ∧ Keeps s t) := by
  have hrun : execFmark stamp frame24 s = .next (beginWaiting { s with red := { s.red with
      mark := some (frame24 % 2 ^ 24, stamp), halves := !s.red.partnerAll, mute := s.red.partnerAll } } (markFrame s frame24)) := by
    unfold execFmark
    dsimp only
    rw [if_neg (by simp [hn, hup]), if_pos hside, if_neg (by simp [hw])]
  obtain ⟨hwait, hrunning, hnext, hframe, -⟩ := beginWaiting_runs (s := { s with red := { s.red with
      mark := some (frame24 % 2 ^ 24, stamp), halves := !s.red.partnerAll, mute := s.red.partnerAll } }) (markFrame s frame24) hw hm hp hf hi
  exact ⟨_, hrun, hwait, hrunning, hnext, hframe, (execFmark_keeps stamp frame24 (Keeps.refl s)).keeps _ hrun⟩

theorem fmark_starts_leader {s : State} {stamp : Int} {frame24 k : Nat} (hn : native s = true) (hup : sessionUp s = true)
    (hside : sideNow s ≠ 1) (hw : s.red.wait = some k) (hm : s.mode = .ready) (hp : progRuns s k = true) (hf : s.saf.f3 = [])
    (hi : s.flag F.RXF_IMP_STATUS_BUSY = false) : Gives (.fmark stamp frame24) s (fun t => t.red.wait = none ∧ t.sch.running = true ∧
      t.sch.next = 0 ∧ t.sch.frame = (s.sch.frame + 1) % 2 ^ 32 ∧ Keeps s t) := by
  have hrun : execFmark stamp frame24 s = .next (beginWaiting { s with red := { s.red with halves := true } } (s.sch.frame + 1)) := by
    unfold execFmark
    rw [if_neg (by simp [hn, hup]), if_neg hside, if_neg (by simp [hw])]
  obtain ⟨hwait, hrunning, hnext, hframe, -⟩ := beginWaiting_runs (s := { s with red := { s.red with halves := true } })
    (s.sch.frame + 1) hw hm hp hf hi
  exact ⟨_, hrun, hwait, hrunning, hnext, hframe, (execFmark_keeps stamp frame24 (Keeps.refl s)).keeps _ hrun⟩

theorem twinStartTimeout_starts {s : State} {k : Nat} (hside : sideNow s = 0) (hw : s.red.wait = some k) (hm : s.mode = .ready)
    (hp : progRuns s k = true) (hf : s.saf.f3 = []) (hi : s.flag F.RXF_IMP_STATUS_BUSY = false) :
    Gives .twinStartTimeout s (fun t => t.red.wait = none ∧ t.sch.running = true ∧ t.sch.next = 0 ∧ t.red.halves = false ∧
      t.sch.frame = (s.sch.frame + 1) % 2 ^ 32 ∧ Keeps s t) := by
  have hrun : execTwinStartTimeout s = .next (beginWaiting { s with red := { s.red with halves := false } } (s.sch.frame + 1)) :=
    if_pos (by simp [hside, hw])
  obtain ⟨hwait, hrunning, hnext, hframe, hhalves⟩ := beginWaiting_runs (s := { s with red := { s.red with halves := false } })
    (s.sch.frame + 1) hw hm hp hf hi
  exact ⟨_, hrun, hwait, hrunning, hnext, hhalves rfl, hframe, (execTwinStartTimeout_keeps (Keeps.refl s)).keeps _ hrun⟩

theorem streamWords_txSeq (s : State) (l : List (Nat × Nat)) : (streamWords s l).prt.txSeq = s.prt.txSeq := by
  refine List.foldlRecOn l _ (motive := fun t : State => t.prt.txSeq = s.prt.txSeq) rfl fun t h w _ => ?_
  exact h

theorem keepalive_sends {s : State} (h : sessionUp s = true) (ha : prtState s = Prt.active) : Gives .keepalive s (fun t =>
    t = sendPacket s 0x03 [] ∧ t.regs = s.regs ∧ t.prt.txSeq = s.prt.txSeq + 1) := by
  refine ⟨_, (if_pos (by simp [h, ha]) : execKeepalive s = _), rfl, (sendPacket_line s 0x03 []).regs, ?_⟩
  have hwords := streamWords_txSeq (noteSent s 0x03 []) (packetWords s 0x03 [])
  unfold sendPacket
  generalize streamWords (noteSent s 0x03 []) (packetWords s 0x03 []) = t at hwords ⊢
  exact congrArg (· + 1) hwords

/-! ### The families of clauses -/

theorem keepaliveAccepted_clauses {s : State} (tag : BitVec 128) (seq : Nat) (l : List Nat) (h : receives s = true)
    (hl : l = (s.prt.tagFails.filter fun t => s.sys.raw < t + 800000) ++ [s.sys.raw]) :
    (tagVerifies s 0x03 seq [] tag = true → s.prt.rxSeq < seq →
      (s.flag F.RED_STATUS_ALT = false → Gives (.keepaliveAccepted tag seq) s (fun t =>
        t = { s with prt := { s.prt with rxSeq := seq } })) ∧
      (s.flag F.RED_STATUS_ALT = true → Gives (.keepaliveAccepted tag seq) s (fun t => t.get F.RED_STATUS_SILENCE = 0 ∧
        t.prt = { s.prt with rxSeq := seq } ∧ RegFrame [F.RED_STATUS_SILENCE, F.RED_STATUS_ROLE] s t ∧
        t = { s with regs := t.regs, prt := t.prt }))) ∧
    (tagVerifies s 0x03 seq [] tag = true → seq ≤ s.prt.rxSeq → Gives (.keepaliveAccepted tag seq) s (fun t =>
      t = s.inc F.LNK_PRT_CNT_SEQ)) ∧
    (tagVerifies s 0x03 seq [] tag = false → l.length < 3 ∨ sessionUp s = false → Gives (.keepaliveAccepted tag seq) s (fun t =>
      t.prt = { s.prt with tagFails := l } ∧ t.get F.LNK_PRT_CNT_TAG = (s.inc F.LNK_PRT_CNT_TAG).get F.LNK_PRT_CNT_TAG ∧
      RegFrame [F.LNK_PRT_CNT_TAG] s t ∧ t = { s with regs := t.regs, prt := t.prt })) ∧
    (tagVerifies s 0x03 seq [] tag = false → 3 ≤ l.length → sessionUp s = true → Gives (.keepaliveAccepted tag seq) s (fun t =>
      t.prt.lost = true ∧ t.get F.LNK_PRT_STATUS_SESSION = 0 ∧
      t.get F.LNK_PRT_CNT_LOSS = (s.inc F.LNK_PRT_CNT_LOSS).get F.LNK_PRT_CNT_LOSS ∧ Keeps s t)) := by
  replace hl : l = failTimes s := hl
  subst hl
  refine ⟨fun htag hseq => ⟨fun ha => ⟨_, (keepalive_good h htag hseq).trans (congrArg Host.Outcome.next
      (heardPartner_alone (s := seqTaken s seq) ha)), rfl⟩, fun ha => keepalive_alt h htag hseq ha⟩, fun htag hseq => ?_,
    fun htag hfew => keepalive_counts h htag hfew, fun htag hmany hup => keepalive_loses h htag hmany hup⟩
  exact ⟨_, keepalive_of_take ((congrArg (takePacket s · seq) htag).trans (takePacket_old h hseq)), rfl⟩

theorem mirror_old {s : State} {tag : BitVec 128} {seq schema side seed frame calVer mark24 dly : Nat} {all : Bool} {hash : Nat}
    (htag : tagVerifies s 0x02 seq (mirrorWords schema side all hash seed frame calVer mark24 dly) tag = true) (h : receives s = true)
    (hseq : seq ≤ s.prt.rxSeq) : Gives (.mirror tag seq schema side all hash seed frame calVer mark24 dly) s
      (fun t => t = s.inc F.LNK_PRT_CNT_SEQ) := ⟨_, execMirror_old htag h hseq, rfl⟩

theorem mirror_alien {s : State} {tag : BitVec 128} {seq schema side seed frame calVer mark24 dly : Nat} {all : Bool} {hash : Nat}
    (htag : tagVerifies s 0x02 seq (mirrorWords schema side all hash seed frame calVer mark24 dly) tag = true) (h : receives s = true)
    (hseq : s.prt.rxSeq < seq) (hn : native s = false) : Gives (.mirror tag seq schema side all hash seed frame calVer mark24 dly) s
      (fun t => t = heardPartner { s with prt := { s.prt with rxSeq := seq } }) := by
  have hrun := execMirror_good (side := side) (frame := frame) (mark24 := mark24) (dly := dly) htag h hseq
  rw [heard_native, hn, if_neg (by decide)] at hrun
  exact ⟨_, hrun, rfl⟩

theorem announce_clauses {s : State} (tag : BitVec 128) (seq frame slot vlast entry i : Nat) (u : State) (h : receives s = true)
    (hi : i = slot % 2 ^ 20) (htag : tagVerifies s 0x01 seq [frame, i + 2 ^ 20 * vlast, entry] tag = true)
    (hu : u = heardPartner { s with prt := { s.prt with rxSeq := seq } }) :
    (seq ≤ s.prt.rxSeq → Gives (.announce tag seq frame slot vlast entry) s (fun t => t = s.inc F.LNK_PRT_CNT_SEQ)) ∧
    (s.prt.rxSeq < seq → splitsEntries u = false ∨ u.red.mute = true ∨ u.sch.running = false ∨ i % 2 = sideNow u ∨
        entry = 0xFFFFFFFF ∨ absSlot u frame i = none →
      Gives (.announce tag seq frame slot vlast entry) s (fun t => t = u)) ∧
    (∀ a : Nat, s.prt.rxSeq < seq → absSlot u frame i = some a → a < u.sch.abs + u.sch.next →
      Gives (.announce tag seq frame slot vlast entry) s (fun t => t = u)) ∧
    (∀ (a : Nat) (y : Shot) (o : Owe), s.prt.rxSeq < seq → splitsEntries u = true → u.red.mute = false → u.sch.running = true →
      i % 2 ≠ sideNow u → entry ≠ 0xFFFFFFFF → absSlot u frame i = some a → u.sch.abs + u.sch.next ≤ a →
      partnerShot u ⟨a, frame, i⟩ entry vlast = some (y, o) →
      (a = u.sch.abs + u.sch.next → Gives (.announce tag seq frame slot vlast entry) s (fun t =>
        t.sch = (updOwe (noteLast { u with sch := { u.sch with charges := u.sch.charges ++ [chargeOf u y (shotCharge u y vlast) false] } }
          entry a) frame entry fun p => { p with owed := p.owed - 1, fired := p.fired + 1 }).sch ∧
        t.get F.RED_CNT_LATE = (u.inc F.RED_CNT_LATE).get F.RED_CNT_LATE ∧ RegFrame [F.RED_CNT_LATE] u t ∧
        t = { u with regs := t.regs, sch := t.sch })) ∧
      (a ≠ u.sch.abs + u.sch.next → Gives (.announce tag seq frame slot vlast entry) s (fun t =>
        t.sch.look = u.sch.look ++ [y] ∧ t.sch.charges = u.sch.charges ++ [chargeOf u y (shotCharge u y vlast) false] ∧
        t.get F.RED_CNT_LATE = u.get F.RED_CNT_LATE ∧ Keeps s t ∧ t.mode = s.mode))) := by
  subst hi
  have hgood (hseq : s.prt.rxSeq < seq) : execAnnounce tag seq frame slot vlast entry s =
      .next (announced u frame (slot % 2 ^ 20) vlast entry) := hu ▸ execAnnounce_good htag h hseq
  refine ⟨fun hseq => ⟨_, execAnnounce_of_take htag h hseq, rfl⟩, fun hseq hno => ⟨_, hgood hseq, announced_ignored hno⟩,
    fun a hseq ha hpast => ⟨_, hgood hseq, announced_past ha hpast⟩, fun a y o hseq hs hm hr hi he ha hle hy => ?_⟩
  have htakes := (hgood hseq).trans (congrArg Host.Outcome.next (announced_takes (vlast := vlast) hs hm hr hi he ha hle))
  refine ⟨fun hlate => ?_, fun hearly => ?_⟩
  · rw [decide_eq_true (by omega)] at htakes
    exact announce_late htakes hy
  · rw [decide_eq_false (by omega)] at htakes
    have hheard : u = heardPartner (seqTaken s seq) := hu
    have humode : u.mode = s.mode := by
      rw [hheard, (heardPartner_parts (seqTaken s seq)).1]
      rfl
    exact announce_intime humode htakes hy

/-- Settles O48: what takes a packet (`takePacket_good` and its fellows), an announcement by `announced`, a mirror block by the parts
of `mirrorJudged`, and a start that waits by what the opening frame keeps (`beginWaiting_runs`). -/
theorem twinPackets : Obligations.TwinPackets := by
  unfold Obligations.TwinPackets
  intro s
  refine ⟨fun tag seq h => ?_, fun tag seq l h hl => keepaliveAccepted_clauses tag seq l h hl,
    fun tag seq frame slot vlast entry i u h hi htag hu => announce_clauses tag seq frame slot vlast entry i u h hi htag hu,
    fun tag seq schema side seed frame calVer mark24 dly all hash h htag => ⟨fun hseq => mirror_old htag h hseq,
      fun hseq hn => mirror_alien htag h hseq hn, fun hseq hn => ⟨fun hm h1 h2 h3 => mirror_agrees htag h hseq hn hm h1 h2 h3,
        fun hm ha h1 => mirror_differs htag h hseq hn hm ha (if_pos (by simpa using h1)) (by decide) (by decide),
        fun hm ha h1 h2 => mirror_differs htag h hseq hn hm ha
          ((if_neg (by simp [h1])).trans (if_pos (by simpa using h2))) (by decide) (by decide),
        fun stamp b skew hm hside ha hb hskew h1 h2 h3 => ⟨fun hs => mirror_steady htag h hseq hn hm hside ha hb hskew h1 h2 h3 hs,
          fun hs hh hne => mirror_moved htag h hseq hn hm hside ha hb hskew h1 h2 h3 hs hh hne⟩⟩⟩,
    fun h ha => keepalive_sends h ha, fun h => ⟨s, if_neg ?_, rfl⟩, fun stamp frame24 h => ⟨s, if_pos ?_, rfl⟩,
    fun stamp frame24 hn hup => ⟨fun hside hw => ⟨_, ?_, rfl⟩, fun hside hw => ⟨s, ?_, rfl⟩,
      fun k hw hm hp hf hi => ⟨fun hside => fmark_starts_follower hn hup hside hw hm hp hf hi,
        fun hside => fmark_starts_leader hn hup hside hw hm hp hf hi⟩⟩,
    fun h => ⟨s, if_neg ?_, rfl⟩, fun k hside hw hm hp hf hi => twinStartTimeout_starts hside hw hm hp hf hi⟩
  · exact ⟨s, keepalive_of_take (takePacket_out h _ seq), rfl⟩
  · rcases h with h | h <;> simp [h]
  · rcases h with h | h <;> simp [h]
  · show execFmark stamp frame24 s = _
    unfold execFmark
    dsimp only
    rw [if_neg (by simp [hn, hup]), if_pos hside, if_pos (by simp [hw])]
  · show execFmark stamp frame24 s = _
    unfold execFmark
    rw [if_neg (by simp [hn, hup]), if_neg hside, if_pos (by simp [hw])]
  · rcases h with h | h <;> simp [h]

end Sys2Proof.Machine

/-! ## Configuring the thermal path (R380, R388 to R392, R399, R406 to R408, R413 to R416, R426, R427)

What a reset of the monitor channels and the start of settling leave; with them O50. -/
namespace Sys2Proof.Machine

/-! ### The monitor channels start afresh (R405) -/

/-- The registers that a fresh start of the monitor channels writes. -/
def muteFields : List Fld := F.THM_TEMP_VALID :: (List.range 4).map F.THM_MON_CH_VALID

/-- Only monitor channels change: their records and the fields that say that they are valid. -/
structure Muted (s t : State) : Prop where
  eq : t = { s with regs := t.regs, thm := { s.thm with mon := t.thm.mon } }
  frame : RegFrame muteFields s t

theorem Muted.trans {r s t : State} (h : Muted r s) (k : Muted s t) : Muted r t := by
  refine ⟨?_, h.frame.trans k.frame⟩
  rw [k.eq, h.eq]

theorem muteMon_muted (s : State) {n : Nat} (hn : n ∈ List.range 4) : Muted s (muteMon s n) := by
  have hvalid : F.THM_MON_CH_VALID n ∈ muteFields := List.mem_cons_of_mem _ (List.mem_map_of_mem hn)
  unfold muteMon
  dsimp only
  have hset (c : MonCh) : Muted s ((setMon s c).set (F.THM_MON_CH_VALID n) 0) :=
    ⟨rfl, RegFrame.set (.other (.refl _ s) rfl) 0 hvalid⟩
  split
  · exact (hset _).trans ⟨rfl, (RegFrame.refl _ _).set 0 (List.mem_cons_self ..)⟩
  · exact hset _

theorem muteAll_muted (s : State) : Muted s (muteAll s) :=
  List.foldlRecOn (List.range 4) muteMon (motive := Muted s) ⟨rfl, .refl _ s⟩ fun t h _ hn => h.trans (muteMon_muted t hn)

/-! ### Settling starts (R394, R398) -/

theorem startSettling_state (s : State) (fast : Bool) : (startSettling s fast).get F.THM_STATUS_STATE = 1 :=
  get_set_same _ F.THM_STATUS_STATE 1

theorem startSettling_frame (s : State) (fast : Bool) :
    RegFrame [F.THM_CNT_RESETTLE, F.THM_STATUS_STATE] s (startSettling s fast) := by
  have hcount : RegFrame [F.THM_CNT_RESETTLE, F.THM_STATUS_STATE] s (if s.get F.THM_STATUS_STATE = 1 then s.inc F.THM_CNT_RESETTLE else s) :=
    .ite ((RegFrame.refl _ s).inc (by simp)) (.refl _ s)
  exact RegFrame.other (hcount.set (f := F.THM_STATUS_STATE) 1 (by simp)) rfl

/-! ### THM_CONFIG (R389 to R392) -/

section
variable {s : State} {p : Port} {tag acked : Nat} {c : Cmd}

theorem thmConfig_standby (hd : c.discard = false) (h : Ready s p tag 0x0400 thmConfigCheck c) (hm : s.mode = .standby) :
    Gives (.thmConfig p tag acked) s (fun t => Ends t c St.done 0 ∧ t.thm = { s.thm with list := configEntries c.data } ∧
      t.regs = s.regs) := by
  refine h.gives (run := runThmConfig acked) (execThmConfig p tag acked s) rfl rfl ?_
  unfold runThmConfig
  dsimp only
  rw [hm, if_pos (by decide)]
  refine ⟨ends_ok hd 0, ?_⟩
  rw [finishOk_eq hd]
  exact ⟨rfl, rfl⟩

variable {u : State} {ok : Bool}

/-- Outside STANDBY the list is carried out first. -/
theorem runThmConfig_list (hm : s.mode ≠ .standby)
    (hu : runList (configEntries c.data) acked (foundPath (haltFrames s)) = (u, ok)) : runThmConfig acked s c =
      if !ok then finish u c St.timeout 0 0
      else if !u.flag F.THM_CTRL_EN then finishOk u c 0
      else match takeGeometry u with
        | none => finish (noStalls u) c St.resource 0 0
        | some x =>
          let inside := framesRun s && s.get F.THM_STATUS_STATE = 1
          let v := startSettling (if inside then x.set F.THM_STATUS_STATE 1 else x) false
          setThm (replaceCmd v c { c with phase := .running }) fun y => { y with cfgWait := some (c.port, c.tag), cfgAt := y.settleAt } := by
  unfold runThmConfig
  dsimp only
  rw [if_neg (by simpa using hm), hu] <;> rfl

theorem thmConfig_nack (hd : c.discard = false) (h : Ready s p tag 0x0400 thmConfigCheck c) (hm : s.mode ≠ .standby)
    (hu : runList (configEntries c.data) acked (foundPath (haltFrames s)) = (u, false)) :
    Gives (.thmConfig p tag acked) s (fun t => Ends t c St.timeout 0 ∧ t = { u with cmd := t.cmd }) := by
  refine h.gives (run := runThmConfig acked) (execThmConfig p tag acked s) rfl rfl ?_
  rw [runThmConfig_list hm hu, if_pos (by decide)]
  exact ⟨finishWith_ends hd St.timeout 0 (by decide) (by decide) 0 [], finishWith_cmd_only hd ..⟩

theorem thmConfig_off (hd : c.discard = false) (h : Ready s p tag 0x0400 thmConfigCheck c) (hm : s.mode ≠ .standby)
    (hu : runList (configEntries c.data) acked (foundPath (haltFrames s)) = (u, true)) (he : u.flag F.THM_CTRL_EN = false) :
    Gives (.thmConfig p tag acked) s (fun t => Ends t c St.done 0 ∧ t = { u with cmd := t.cmd }) := by
  refine h.gives (run := runThmConfig acked) (execThmConfig p tag acked s) rfl rfl ?_
  rw [runThmConfig_list hm hu, if_neg (by decide), if_pos (by simp [he])]
  exact ⟨ends_ok hd 0, finishOk_eq hd 0⟩

theorem takeGeometry_same (h : s.thm.geom = some (geomNow s)) : takeGeometry s = some s := by
  unfold takeGeometry
  exact if_pos h

theorem thmConfig_settles (h : Ready s p tag 0x0400 thmConfigCheck c) (hm : s.mode ≠ .standby)
    (hu : runList (configEntries c.data) acked (foundPath (haltFrames s)) = (u, true)) (he : u.flag F.THM_CTRL_EN = true)
    (hg : u.thm.geom = some (geomNow u)) : Gives (.thmConfig p tag acked) s (fun t =>
      t.thm.cfgWait = some (c.port, c.tag) ∧ t.get F.THM_STATUS_STATE = 1 ∧ t.thm.settleAt = u.sys.raw) := by
  refine h.gives (run := runThmConfig acked) (execThmConfig p tag acked s) rfl rfl ?_
  rw [runThmConfig_list hm hu, if_neg (by decide), if_neg (by simp [he]), takeGeometry_same hg]
  dsimp only
  have hraw (b : Bool) : (if b = true then u.set F.THM_STATUS_STATE 1 else u).sys.raw = u.sys.raw := by cases b <;> rfl
  have hraw' := hraw (framesRun s && s.get F.THM_STATUS_STATE = 1)
  generalize (if (framesRun s && s.get F.THM_STATUS_STATE = 1) = true then u.set F.THM_STATUS_STATE 1 else u) = x at hraw' ⊢
  exact ⟨rfl, startSettling_state x false, hraw'⟩

/-! ### Correction sets and coefficients (R406 to R408, R413 to R416) -/

/-- The set that a first piece loads. -/
def firstPiece (s : State) (c : Cmd) : CorrSet where
  n := c.dw 4 % 2
  tCal := ofBits 16 (leAt c.data 0xC 2)
  pedestal := leAt c.data 0xE 2
  row := leAt c.data 0x12 2
  crc := crcFrom 0xFFFFFFFF ((c.data.drop 32).take (8 * s.get F.THM_GEOM_COLS * leAt c.data 0x12 2))
  entries := (List.range (s.get F.THM_GEOM_COLS * leAt c.data 0x12 2)).map (parseCorr c.data)

theorem thmLoadCorr_gives (hd : c.discard = false) (h : Ready s p tag 0x0401 thmLoadCorrCheck c) (hf : leAt c.data 0x10 2 = 0) :
    Gives (.thmLoadCorr p tag) s (fun t => ∃ x,
      corrSet t (c.dw 4 % 2) = some x ∧ x.row = leAt c.data 0x12 2 ∧ x.tCal = ofBits 16 (leAt c.data 0xC 2) ∧
      x.entries = (List.range (s.get F.THM_GEOM_COLS * leAt c.data 0x12 2)).map (parseCorr c.data) ∧
      Ends t c St.done (x.crc ^^^ 0xFFFFFFFF) ∧
      t.get (if c.dw 4 % 2 = 0 then F.THM_STATUS_CORR0_VALID else F.THM_STATUS_CORR1_VALID) =
        b2n (leAt c.data 0x12 2 = s.get F.THM_GEOM_ROWS)) := by
  refine h.gives (execThmLoadCorr p tag s) rfl rfl ?_
  dsimp only
  rw [hf, if_pos rfl, Nat.zero_add, List.nil_append]
  have hvalid (f : Fld) (b : Bool) (hw : f.width = 1) (t : State) : (t.put f b).get f = b2n b := by
    refine (get_set_same t f (b2n b)).trans ?_
    rw [hw]
    cases b <;> rfl
  refine ⟨firstPiece s c, ?_, rfl, rfl, rfl, ends_ok hd _, ?_⟩
  · rw [finishOk_eq hd]
    exact List.find?_cons_of_pos (by simp)
  · rw [finishOk_eq hd]
    refine hvalid _ _ ?_ _
    split <;> rfl

theorem thmSelectCorr_queued (hd : c.discard = false) (h : Ready s p tag 0x0402 thmSelectCorrCheck c) {m k : Nat}
    (hf : s.thm.fade = some (m, k)) : Gives (.thmSelectCorr p tag) s (fun t =>
      Ends t c St.done ((s.get F.THM_SEQ + 9 - k) % 2 ^ 32) ∧ t.get F.THM_STATUS_QUEUED = 1 ∧
      t.get F.THM_STATUS_Q_SET = c.dw 4 % 2 ∧ RegFrame [F.THM_STATUS_QUEUED, F.THM_STATUS_Q_SET] s t ∧ t.thm = s.thm) := by
  refine h.gives (execThmSelectCorr p tag s) rfl rfl ?_
  dsimp only
  rw [hf]
  dsimp only
  refine ⟨ends_ok hd _, ?_⟩
  rw [finishOk_eq hd]
  refine ⟨(get_set_other _ _ (by decide)).trans (get_set_same s F.THM_STATUS_QUEUED 1),
    (get_set_same _ F.THM_STATUS_Q_SET _).trans (Nat.mod_mod _ _), ?_, rfl⟩
  exact RegFrame.other (((RegFrame.refl _ s).set 1 (by simp)).set _ (by simp)) rfl

theorem thmSelectCorr_fades (hd : c.discard = false) (h : Ready s p tag 0x0402 thmSelectCorrCheck c) (hf : s.thm.fade = none)
    (hno : s.flag F.THM_STATUS_NO_CORR = true ∨ s.get F.THM_STATUS_CORR_NOW ≠ c.dw 4 % 2) : Gives (.thmSelectCorr p tag) s (fun t =>
      Ends t c St.done ((s.get F.THM_SEQ + 1) % 2 ^ 32) ∧ t.thm = { s.thm with fade := some (c.dw 4 % 2, 0) } ∧ t.regs = s.regs) := by
  refine h.gives (execThmSelectCorr p tag s) rfl rfl ?_
  dsimp only
  rw [hf]
  dsimp only
  rw [if_neg (by rcases hno with hno | hno <;> simp [hno])]
  refine ⟨ends_ok hd _, ?_⟩
  rw [finishOk_eq hd]
  exact ⟨rfl, rfl⟩

theorem thmLoadCoef_gives (hd : c.discard = false) (h : Ready s p tag 0x0404 thmLoadCoefCheck c) : Gives (.thmLoadCoef p tag) s (fun t =>
    Ends t c St.done (crc32c (c.data.take 128)) ∧
    t.thm = { s.thm with banks := putAt s.thm.banks (c.dw 4 % 2) none (some ((List.range 64).map fun i => ofBits 16 (leAt c.data (2 * i) 2))) } ∧
    t.get (if c.dw 4 % 2 = 0 then F.THM_MON_CFG_BANK0_VALID else F.THM_MON_CFG_BANK1_VALID) = 1) := by
  refine h.gives (execThmLoadCoef p tag s) rfl rfl ?_
  refine ⟨ends_ok hd _, ?_⟩
  rw [finishOk_eq hd]
  refine ⟨rfl, (get_set_same _ (if c.dw 4 % 2 = 0 then F.THM_MON_CFG_BANK0_VALID else F.THM_MON_CFG_BANK1_VALID) 1).trans ?_⟩
  split <;> rfl

theorem thmSelectCoef_queued (hd : c.discard = false) (h : Ready s p tag 0x0405 thmSelectCoefCheck c)
    (hx : s.flag F.THM_MON_CFG_XFADE = true) : Gives (.thmSelectCoef p tag) s (fun t => Ends t c St.done 0 ∧
      t.get F.THM_MON_CFG_COEF_QUEUED = 1 ∧ t.get F.THM_MON_CFG_Q_BANK = c.dw 4 % 2 ∧
      RegFrame [F.THM_MON_CFG_COEF_QUEUED, F.THM_MON_CFG_Q_BANK] s t) := by
  refine h.gives (execThmSelectCoef p tag s) rfl rfl ?_
  dsimp only
  rw [if_pos hx]
  refine ⟨ends_ok hd _, ?_⟩
  rw [finishOk_eq hd]
  refine ⟨(get_set_other _ _ (by decide)).trans (get_set_same s F.THM_MON_CFG_COEF_QUEUED 1),
    (get_set_same _ F.THM_MON_CFG_Q_BANK _).trans (Nat.mod_mod _ _), ?_⟩
  exact RegFrame.other (((RegFrame.refl _ s).set 1 (by simp)).set _ (by simp)) rfl

theorem thmSelectCoef_fades (hd : c.discard = false) (h : Ready s p tag 0x0405 thmSelectCoefCheck c)
    (hx : s.flag F.THM_MON_CFG_XFADE = false) (hn : c.dw 4 % 2 ≠ s.get F.THM_MON_CFG_COEF_NOW) : Gives (.thmSelectCoef p tag) s (fun t =>
      Ends t c St.done 0 ∧ t.get F.THM_MON_CFG_XFADE = 1 ∧ RegFrame [F.THM_MON_CFG_XFADE] s t ∧ ∀ x ∈ t.thm.mon, x.fade = 0) := by
  refine h.gives (execThmSelectCoef p tag s) rfl rfl ?_
  dsimp only
  rw [if_neg (by simp [hx]), if_neg hn]
  refine ⟨ends_ok hd _, ?_⟩
  rw [finishOk_eq hd]
  refine ⟨get_set_same s F.THM_MON_CFG_XFADE 1, RegFrame.other (.setOne s F.THM_MON_CFG_XFADE 1) rfl, fun x hmem => ?_⟩
  obtain ⟨y, -, rfl⟩ := List.mem_map.mp hmem
  rfl

theorem thmSelectCoef_same (hd : c.discard = false) (h : Ready s p tag 0x0405 thmSelectCoefCheck c)
    (hx : s.flag F.THM_MON_CFG_XFADE = false) (hn : c.dw 4 % 2 = s.get F.THM_MON_CFG_COEF_NOW) : Gives (.thmSelectCoef p tag) s (fun t =>
      Ends t c St.done 0 ∧ t = { s with cmd := t.cmd }) := by
  refine h.gives (execThmSelectCoef p tag s) rfl rfl ?_
  dsimp only
  rw [if_neg (by simp [hx]), if_pos hn]
  exact ⟨ends_ok hd 0, finishOk_eq hd 0⟩

/-- The gate table as THM_LOAD_REGLUT's bytes give it. -/
def reglutEntries (b : List Byte) : List Nat := (List.range 131072).map fun d => leAt b (4 * d) 4

/-- A loaded gate table is held while frames run, and otherwise stored. -/
def storeReglut (s : State) (l : List Nat) : State :=
  setThm s fun x => if s.mode.scanning then { x with lutNew := some l } else { x with lut := l, lutNew := none }

theorem storeReglut_parts (s : State) (l : List Nat) : (storeReglut s l).regs = s.regs ∧
    (storeReglut s l).thm = if s.mode.scanning = true then { s.thm with lutNew := some l } else { s.thm with lut := l, lutNew := none } :=
  ⟨rfl, rfl⟩

theorem execThmLoadReglut_eq (p : Port) (tag : Nat) (s : State) : execThmLoadReglut p tag s =
    withCmd s p tag 0x0406 thmLoadReglutCheck fun s c => finishOk (storeReglut s (reglutEntries c.data)) c (crc32c c.data) := rfl

theorem thmLoadReglut_gives (hd : c.discard = false) (h : Ready s p tag 0x0406 thmLoadReglutCheck c) (l : List Nat)
    (hl : l = ((List.range 131072).map fun d => leAt c.data (4 * d) 4)) : Gives (.thmLoadReglut p tag) s (fun t =>
      Ends t c St.done (crc32c c.data) ∧ t.regs = s.regs ∧
      t.thm = if s.mode.scanning = true then { s.thm with lutNew := some l } else { s.thm with lut := l, lutNew := none }) := by
  have hl' : reglutEntries c.data = l := hl.symm
  refine h.gives (execThmLoadReglut p tag s) rfl (execThmLoadReglut_eq p tag s) ?_
  dsimp only
  rw [hl']
  obtain ⟨hregs, hthm⟩ := storeReglut_parts s l
  refine ⟨ends_ok hd _, ?_⟩
  rw [finishOk_eq hd]
  exact ⟨hregs, hthm⟩

/-! ### THM_SYNC (R399) -/

theorem applyFsync_none (h : s.thm.hold = []) : applyFsync s = s := by
  unfold applyFsync setThm
  simp only [h, List.foldl_nil, List.any_nil, Bool.false_eq_true, if_false]
  rw [← h]

theorem startHeld_settles (s : State) : (startHeld s).thm.fast = s.thm.fast ∧ RegFrame [F.THM_STATUS_FFC_BUSY] s (startHeld s) := by
  unfold startHeld
  split
  · dsimp only
    split
    · exact ⟨rfl, RegFrame.other (.setOne s F.THM_STATUS_FFC_BUSY 1) rfl⟩
    · exact ⟨rfl, .other (.refl _ s) rfl⟩
  · exact ⟨rfl, .refl _ s⟩

/-- The registers that a fade and the start of a frame write. -/
def fadeFields : List Fld :=
  [F.THM_STATUS_FADING, F.THM_STATUS_FADE_STEP, F.THM_STATUS_CORR_NOW, F.THM_STATUS_NO_CORR, F.THM_STATUS_QUEUED,
    F.THM_STATUS_FFC_BUSY]

theorem stepFade_settles (s : State) : (stepFade s).thm.fast = s.thm.fast ∧ RegFrame fadeFields s (stepFade s) := by
  unfold stepFade
  split
  · exact ⟨rfl, .refl _ s⟩
  next n k _ =>
    split
    · exact ⟨rfl, RegFrame.other (((RegFrame.refl _ s).set 1 (by simp [fadeFields])).set k (by simp [fadeFields])) rfl⟩
    · dsimp only
      generalize (s.flag F.THM_STATUS_QUEUED && s.get F.THM_STATUS_Q_SET != n) = again
      have hend : RegFrame fadeFields s (((((s.set F.THM_STATUS_CORR_NOW n).set F.THM_STATUS_NO_CORR 0).set F.THM_STATUS_FADE_STEP 0).set
          F.THM_STATUS_QUEUED 0).put F.THM_STATUS_FADING again) :=
        (((((RegFrame.refl _ s).set n (by simp [fadeFields])).set 0 (by simp [fadeFields])).set 0 (by simp [fadeFields])).set 0
          (by simp [fadeFields])).put again (by simp [fadeFields])
      have hfast : (((((s.set F.THM_STATUS_CORR_NOW n).set F.THM_STATUS_NO_CORR 0).set F.THM_STATUS_FADE_STEP 0).set
          F.THM_STATUS_QUEUED 0).put F.THM_STATUS_FADING again).thm.fast = s.thm.fast := rfl
      generalize ((((s.set F.THM_STATUS_CORR_NOW n).set F.THM_STATUS_NO_CORR 0).set F.THM_STATUS_FADE_STEP 0).set
          F.THM_STATUS_QUEUED 0).put F.THM_STATUS_FADING again = t at hend hfast ⊢
      have hstart (x : Option (Nat × Nat)) := startHeld_settles (setThm t fun y => { y with fade := x })
      have hstart' := hstart (if again = true then some (s.get F.THM_STATUS_Q_SET, 1) else none)
      generalize startHeld _ = w at hstart' ⊢
      obtain ⟨hkept, hbusy⟩ := hstart'
      exact ⟨hkept.trans hfast, hend.trans (.trans (.other (.refl _ t) rfl) (hbusy.subset (by simp [fadeFields])))⟩

theorem takeFfc_settles (s : State) : (takeFfc s).1.thm.fast = s.thm.fast ∧ (takeFfc s).1.regs = s.regs := by
  unfold takeFfc
  split
  · split <;> exact ⟨rfl, rfl⟩
  · exact ⟨rfl, rfl⟩

theorem frameStart_settles (h : s.thm.hold = []) : (frameStart s).thm.fast = s.thm.fast ∧
    RegFrame (F.THM_SEQ :: fadeFields) s (frameStart s) := by
  obtain ⟨hfast, hframe⟩ := stepFade_settles s
  obtain ⟨htfast, htregs⟩ := takeFfc_settles (stepFade s)
  unfold frameStart
  rw [applyFsync_none h]
  dsimp only
  generalize takeFfc (stepFade s) = x at htfast htregs ⊢
  generalize stepFade s = t at hfast hframe htfast htregs
  obtain ⟨u, replaced⟩ := x
  refine ⟨htfast.trans hfast, ?_⟩
  have hu : RegFrame (F.THM_SEQ :: fadeFields) s u := .other (hframe.subset (by simp +contextual)) htregs
  exact RegFrame.other (hu.set (f := F.THM_SEQ) _ (by simp)) rfl

/-- The decimators are reset at a time, with an abandoned frame counted. -/
def resetNoted (s : State) : State := (if s.thm.frame.isSome then s.inc F.THM_CNT_ABANDON else s).set F.THM_SYNC_TIME s.now

theorem resetNoted_parts (s : State) : (resetNoted s).get F.THM_SYNC_TIME = s.now % 2 ^ F.THM_SYNC_TIME.width ∧
    (resetNoted s).thm = s.thm ∧ (resetNoted s).mode = s.mode := by
  refine ⟨get_set_same _ F.THM_SYNC_TIME s.now, ?_, ?_⟩ <;> (unfold resetNoted; split <;> rfl)

theorem decimatorReset_parts (h : s.thm.hold = []) : (decimatorReset s).get F.THM_SYNC_TIME = s.now % 2 ^ F.THM_SYNC_TIME.width ∧
    (decimatorReset s).get F.THM_STATUS_STATE = 1 ∧ (decimatorReset s).thm.fast = true := by
  have heq : decimatorReset s = frameStart (startSettling (muteAll (resetNoted s)) true) := by
    unfold decimatorReset resetNoted
    rfl
  obtain ⟨htime, hthm, -⟩ := resetNoted_parts s
  have hmuted := muteAll_muted (resetNoted s)
  have hhold : (muteAll (resetNoted s)).thm.hold = [] := by
    rw [hmuted.eq]
    exact (congrArg ThmSt.hold hthm).trans h
  have hsettling := startSettling_frame (muteAll (resetNoted s)) true
  have hstate := startSettling_state (muteAll (resetNoted s)) true
  have hsfast : (startSettling (muteAll (resetNoted s)) true).thm.fast = true := rfl
  have hshold : (startSettling (muteAll (resetNoted s)) true).thm.hold = (muteAll (resetNoted s)).thm.hold := by
    unfold startSettling
    dsimp only
    split <;> rfl
  rw [heq]
  generalize startSettling (muteAll (resetNoted s)) true = x at hsettling hstate hsfast hshold ⊢
  obtain ⟨hfast, hframe⟩ := frameStart_settles (hshold.trans hhold)
  refine ⟨?_, (hframe _ (by decide)).trans hstate, hfast.trans hsfast⟩
  calc (frameStart x).get F.THM_SYNC_TIME
      = x.get F.THM_SYNC_TIME := hframe _ (by decide)
    _ = (muteAll (resetNoted s)).get F.THM_SYNC_TIME := hsettling _ (by decide)
    _ = (resetNoted s).get F.THM_SYNC_TIME := hmuted.frame _ (by decide)
    _ = s.now % 2 ^ F.THM_SYNC_TIME.width := htime

theorem stepFade_heats (s : State) : Heats s (stepFade s) := by
  unfold stepFade
  split
  · exact .refl s
  · split
    · rfl
    · refine Heats.trans ?_ (startHeld_heats _)
      rfl

theorem frameStart_heats (h : s.thm.hold = []) : Heats s (frameStart s) := by
  have hfade := stepFade_heats s
  have htake : Heats (stepFade s) (takeFfc (stepFade s)).1 := by
    unfold takeFfc
    split
    · split <;> rfl
    · exact .refl _
  unfold frameStart
  rw [applyFsync_none h]
  dsimp only
  generalize takeFfc (stepFade s) = x at htake ⊢
  obtain ⟨u, replaced⟩ := x
  exact (hfade.trans htake).trans rfl

theorem decimatorReset_mode (h : s.thm.hold = []) : (decimatorReset s).mode = s.mode := by
  obtain ⟨-, hthm, hmode⟩ := resetNoted_parts s
  have hmuted := muteAll_muted (resetNoted s)
  have hhold : (startSettling (muteAll (resetNoted s)) true).thm.hold = [] := by
    have hkept : (startSettling (muteAll (resetNoted s)) true).thm.hold = (muteAll (resetNoted s)).thm.hold := by
      unfold startSettling
      dsimp only
      split <;> rfl
    rw [hkept, hmuted.eq]
    exact (congrArg ThmSt.hold hthm).trans h
  have hheats := ((muteAll_heats (resetNoted s)).trans (startSettling_heats _ true)).trans (frameStart_heats hhold)
  have heq : decimatorReset s = frameStart (startSettling (muteAll (resetNoted s)) true) := by
    unfold decimatorReset resetNoted
    rfl
  rw [heq]
  exact hheats.mode.trans hmode

theorem thmSync_gives (hd : c.discard = false) (h : Ready s p tag 0x0407 thmSyncCheck c) (hh : s.thm.hold = []) :
    Gives (.thmSync p tag) s (fun t => Ends t c St.done (t.get F.THM_SYNC_TIME) ∧
      t.get F.THM_SYNC_TIME = s.now % 2 ^ F.THM_SYNC_TIME.width ∧ t.get F.THM_STATUS_STATE = 1 ∧ t.thm.fast = true ∧
      t.mode = s.mode) := by
  refine h.gives (execThmSync p tag s) rfl rfl ?_
  obtain ⟨htime, hstate, hfast⟩ := decimatorReset_parts hh
  dsimp only
  have hmode := decimatorReset_mode hh
  generalize decimatorReset s = t at htime hstate hfast hmode ⊢
  have hends := ends_ok (s := t) hd (t.get F.THM_SYNC_TIME)
  have hkeep := finishOk_eq (s := t) hd (t.get F.THM_SYNC_TIME)
  generalize finishOk t c (t.get F.THM_SYNC_TIME) = u at hends hkeep ⊢
  have hregs : u.regs = t.regs := by rw [hkeep]
  have hget (f : Fld) : u.get f = t.get f := congrArg (getReg · f) hregs
  refine ⟨(hget _).symm ▸ hends, (hget _).trans htime, (hget _).trans hstate, ?_, ?_⟩
  · rw [hkeep]
    exact hfast
  · rw [hkeep]
    exact hmode

end

/-! ### THM_CTRL (R380, R383, R394) -/

section
variable (s : State)

/-- The registers of the end of a flat field. -/
def ffcFields : List Fld :=
  [F.THM_STATUS_FFC_BUSY, F.THM_FFC_RES_ACCEPT, F.THM_FFC_RES_CAUSE, F.THM_FFC_RES_BAD_CNT, F.CMD_ERR_CNT_DISCARD_CNT]

theorem startHeld_frame (s : State) : (startHeld s).thm.frame = s.thm.frame ∧ RegFrame ffcFields s (startHeld s) := by
  unfold startHeld
  split
  · dsimp only
    split
    · exact ⟨rfl, RegFrame.other ((RegFrame.refl _ s).set (f := F.THM_STATUS_FFC_BUSY) 1 (by simp [ffcFields])) rfl⟩
    · exact ⟨rfl, .other (.refl _ s) rfl⟩
  · exact ⟨rfl, .refl _ s⟩

theorem finish_thm (s : State) (c : Cmd) (st d r : Nat) : (finish s c st d r).thm = s.thm ∧
    RegFrame [F.CMD_ERR_CNT_DISCARD_CNT] s (finish s c st d r) := by
  refine ⟨?_, finish_frame s c st d r⟩
  have h := finishWith_completes s c st d r []
  unfold finish
  rw [h.eq]

theorem noteFfc_frame (s : State) (auto accepted : Bool) : (noteFfc s auto accepted).thm.frame = s.thm.frame ∧
    (noteFfc s auto accepted).regs = s.regs := by
  refine ⟨?_, rfl⟩
  unfold noteFfc setThm
  dsimp only
  split
  · rfl
  · split <;> rfl

/-- The result of a flat field stands, and the shutter opens. -/
def ffcResult (s : State) (cause bad : Nat) : State :=
  let t := (((s.set F.THM_STATUS_FFC_BUSY 0).put F.THM_FFC_RES_ACCEPT (cause = 0)).set F.THM_FFC_RES_CAUSE cause).set F.THM_FFC_RES_BAD_CNT bad
  setThm { t with pins := { t.pins with shutOpen := true } } fun x => { x with run := none }

theorem ffcResult_frame (s : State) (cause bad : Nat) : (ffcResult s cause bad).thm.frame = s.thm.frame ∧
    RegFrame ffcFields s (ffcResult s cause bad) := by
  refine ⟨rfl, ?_⟩
  have hres := (((RegFrame.refl ffcFields s).set (f := F.THM_STATUS_FFC_BUSY) 0 (by simp [ffcFields])).put (f := F.THM_FFC_RES_ACCEPT)
    (cause = 0) (by simp [ffcFields])).set (f := F.THM_FFC_RES_CAUSE) cause (by simp [ffcFields])
  exact RegFrame.other (hres.set (f := F.THM_FFC_RES_BAD_CNT) bad (by simp [ffcFields])) rfl

/-- The command of a flat field ends. -/
def ffcCommand (u : State) (cause : Nat) : Option (Port × Nat) → State
  | some (p, tag) => match findCmd u p tag 0x0403 with
    | some c => startHeld (finishOk u c (b2n (cause = 0)))
    | none => startHeld u
  | none => u

theorem endFfc_eq (s : State) (cause bad : Nat) : endFfc s cause bad =
    ffcCommand (ffcResult (noteFfc s (s.thm.run.bind fun (r : FfcRun) => r.cmd).isNone (cause = 0)) cause bad) cause
      (s.thm.run.bind fun (r : FfcRun) => r.cmd) := by
  unfold endFfc ffcCommand ffcResult
  dsimp only <;> cases (s.thm.run.bind fun (r : FfcRun) => r.cmd) <;> rfl

theorem ffcCommand_frame (u : State) (cause : Nat) (cmd : Option (Port × Nat)) : (ffcCommand u cause cmd).thm.frame = u.thm.frame ∧
    RegFrame ffcFields u (ffcCommand u cause cmd) := by
  have hheld (v : State) (hv : v.thm.frame = u.thm.frame ∧ RegFrame ffcFields u v) : (startHeld v).thm.frame = u.thm.frame ∧
      RegFrame ffcFields u (startHeld v) :=
    ⟨(startHeld_frame v).1.trans hv.1, hv.2.trans (startHeld_frame v).2⟩
  unfold ffcCommand
  split
  · split
    next c _ =>
      obtain ⟨hthm, hfin⟩ := finish_thm u c St.done 0 (b2n (cause = 0))
      exact hheld _ ⟨congrArg ThmSt.frame hthm, hfin.subset (by simp [ffcFields])⟩
    · exact hheld u ⟨rfl, .refl _ u⟩
  · exact ⟨rfl, .refl _ u⟩

theorem endFfc_frame (s : State) (cause bad : Nat) : (endFfc s cause bad).thm.frame = s.thm.frame ∧
    RegFrame ffcFields s (endFfc s cause bad) := by
  obtain ⟨hkept, hregs⟩ := noteFfc_frame s (s.thm.run.bind fun (r : FfcRun) => r.cmd).isNone (cause = 0)
  rw [endFfc_eq]
  generalize (s.thm.run.bind fun (r : FfcRun) => r.cmd) = cmd at hkept hregs ⊢
  generalize noteFfc s cmd.isNone (cause = 0) = t at hkept hregs ⊢
  obtain ⟨hrkept, hrframe⟩ := ffcResult_frame t cause bad
  obtain ⟨hckept, hcframe⟩ := ffcCommand_frame (ffcResult t cause bad) cause cmd
  exact ⟨(hckept.trans hrkept).trans hkept, (RegFrame.other (.refl _ s) hregs).trans (hrframe.trans hcframe)⟩

theorem stopFrames_parts (s : State) {st : Nat} (h : st < 4) : (stopFrames s st).thm.frame = none ∧
    (stopFrames s st).get F.THM_STATUS_STATE = st := by
  have hset : ((applyNow s).set F.THM_STATUS_STATE st).get F.THM_STATUS_STATE = st :=
    (get_set_same _ F.THM_STATUS_STATE st).trans (Nat.mod_eq_of_lt (Nat.lt_of_lt_of_le h (by decide)))
  unfold stopFrames
  dsimp only
  have hstate : (setThm ((applyNow s).set F.THM_STATUS_STATE st) fun x => { x with frame := none }).get F.THM_STATUS_STATE = st := hset
  have hframe : (setThm ((applyNow s).set F.THM_STATUS_STATE st) fun x => { x with frame := none }).thm.frame = none := rfl
  generalize (setThm ((applyNow s).set F.THM_STATUS_STATE st) fun x => { x with frame := none }) = t at hstate hframe ⊢
  split
  · obtain ⟨hkept, hregs⟩ := endFfc_frame t 4 (t.get F.THM_FFC_RES_BAD_CNT)
    exact ⟨hkept.trans hframe, (hregs _ (by decide)).trans hstate⟩
  · exact ⟨hframe, hstate⟩

theorem endConfig_parts (s : State) (st r : Nat) : (endConfig s st r).thm.frame = s.thm.frame ∧ (endConfig s st r).pins = s.pins ∧
    RegFrame [F.CMD_ERR_CNT_DISCARD_CNT] s (endConfig s st r) := by
  unfold endConfig
  split
  · dsimp only
    split
    next c _ =>
      have h := finishWith_completes (setThm s fun x => { x with cfgWait := none }) c st 0 r []
      unfold finish
      refine ⟨by rw [h.eq]; rfl, by rw [h.eq]; rfl, ?_⟩
      exact RegFrame.trans (s := setThm s fun x => { x with cfgWait := none }) (.other (.refl _ s) rfl) (finish_frame _ c st 0 r)
    · exact ⟨rfl, rfl, .other (.refl _ s) rfl⟩
  · exact ⟨rfl, rfl, .refl _ s⟩

/-- The switches of THM_CTRL take their written bits. -/
def thmSwitches (s : State) (v : Nat) : State :=
  ((s.put F.THM_CTRL_AUTO_FFC (bit v 3)).put F.THM_CTRL_NEIGH (bit v 2)).put F.THM_CTRL_SYNC_EN (bit v 1)

theorem thmSwitches_parts (s : State) (v : Nat) : (thmSwitches s v).get F.THM_CTRL_AUTO_FFC = b2n (bit v 3) ∧
    (thmSwitches s v).get F.THM_CTRL_NEIGH = b2n (bit v 2) ∧ (thmSwitches s v).get F.THM_CTRL_SYNC_EN = b2n (bit v 1) ∧
    RegsOnly [F.THM_CTRL_AUTO_FFC, F.THM_CTRL_NEIGH, F.THM_CTRL_SYNC_EN] s (thmSwitches s v) := by
  unfold thmSwitches State.put
  generalize bit v 3 = a
  generalize bit v 2 = b
  generalize bit v 1 = c
  simp (disch := decide) only [get_set_other, get_set_same]
  refine ⟨by cases a <;> rfl, by cases b <;> rfl, by cases c <;> rfl, rfl, ?_⟩
  exact (((RegFrame.refl _ s).set _ (by simp)).set _ (by simp)).set _ (by simp)

theorem thmCtrl_switches (value : Dword) (h : bit value.toNat 0 = s.flag F.THM_CTRL_EN) :
    writeThmCtrl s value.toNat = thmSwitches s value.toNat := by
  unfold writeThmCtrl
  dsimp only
  rw [h]
  cases s.flag F.THM_CTRL_EN <;> rfl

theorem thmCtrl_stops (value : Dword) (h : bit value.toNat 0 = false) (he : s.flag F.THM_CTRL_EN = true) :
    Gives (.thmCtrlWrite value) s (fun t => t.get F.THM_CTRL_EN = 0 ∧
      t.get F.THM_STATUS_STATE = (if s.get F.THM_STATUS_STATE = 3 then 3 else 0) ∧ t.thm.frame = none ∧ t.pins.fpaRst = false ∧
      t.mode = s.mode) := by
  have hstate : (thmSwitches s value.toNat).get F.THM_STATUS_STATE = s.get F.THM_STATUS_STATE :=
    (thmSwitches_parts s value.toNat).2.2.2.2 _ (by decide)
  have hrun : execThmCtrlWrite value s = .next (endConfig { (stopFrames (thmSwitches s value.toNat)
      (if (thmSwitches s value.toNat).get F.THM_STATUS_STATE = 3 then 3 else 0)).set F.THM_CTRL_EN 0 with
        pins := { (stopFrames (thmSwitches s value.toNat)
          (if (thmSwitches s value.toNat).get F.THM_STATUS_STATE = 3 then 3 else 0)).pins with fpaRst := false } } St.hwFault 0) := by
    unfold execThmCtrlWrite writeThmCtrl
    dsimp only
    rw [if_neg (by simp [h]), if_pos (by simp [h, he])]
    rfl
  rw [hstate] at hrun
  have hlt : (if s.get F.THM_STATUS_STATE = 3 then 3 else 0) < 4 := by split <;> omega
  obtain ⟨hframe, hstopped⟩ := stopFrames_parts (thmSwitches s value.toNat) hlt
  have hmode : (stopFrames (thmSwitches s value.toNat) (if s.get F.THM_STATUS_STATE = 3 then 3 else 0)).mode = s.mode :=
    (stopFrames_heats _ _).mode
  generalize stopFrames (thmSwitches s value.toNat) (if s.get F.THM_STATUS_STATE = 3 then 3 else 0) = t at hrun hframe hstopped hmode
  have hen : ({ t.set F.THM_CTRL_EN 0 with pins := { t.pins with fpaRst := false } } : State).get F.THM_CTRL_EN = 0 :=
    get_set_same t F.THM_CTRL_EN 0
  have hst : ({ t.set F.THM_CTRL_EN 0 with pins := { t.pins with fpaRst := false } } : State).get F.THM_STATUS_STATE =
      (if s.get F.THM_STATUS_STATE = 3 then 3 else 0) :=
    (get_set_other (f := F.THM_CTRL_EN) (g := F.THM_STATUS_STATE) t 0 (by decide)).trans hstopped
  have hfpa : ({ t.set F.THM_CTRL_EN 0 with pins := { t.pins with fpaRst := false } } : State).pins.fpaRst = false := rfl
  have hf : ({ t.set F.THM_CTRL_EN 0 with pins := { t.pins with fpaRst := false } } : State).thm.frame = none := hframe
  have hm : ({ t.set F.THM_CTRL_EN 0 with pins := { t.pins with fpaRst := false } } : State).mode = s.mode := hmode
  generalize ({ t.set F.THM_CTRL_EN 0 with pins := { t.pins with fpaRst := false } } : State) = u at hrun hen hst hfpa hf hm
  obtain ⟨hkept, hpins, hregs⟩ := endConfig_parts u St.hwFault 0
  exact ⟨_, hrun, (hregs _ (by decide)).trans hen, (hregs _ (by decide)).trans hst, hkept.trans hf,
    (congrArg Pins.fpaRst hpins).trans hfpa, (endConfig_heats u St.hwFault 0).mode.trans hm⟩

/-- The path with EN at 1, before it starts. -/
def thmEnabled (s : State) (v : Nat) : State := foundPath (((thmSwitches s v).set F.THM_CTRL_EN 1).set F.THM_STATUS_STATE 0)

/-- The registers that enabling the path writes. -/
def enableFields : List Fld := [F.THM_CTRL_AUTO_FFC, F.THM_CTRL_NEIGH, F.THM_CTRL_SYNC_EN, F.THM_CTRL_EN, F.THM_STATUS_STATE]

theorem thmEnabled_parts (s : State) (v : Nat) : RegFrame enableFields s (thmEnabled s v) ∧
    (thmEnabled s v).get F.THM_CTRL_EN = 1 ∧ (thmEnabled s v).thm = s.thm ∧ (thmEnabled s v).sys = s.sys ∧ (thmEnabled s v).mode = s.mode := by
  have hswitches := (thmSwitches_parts s v).2.2.2.2
  refine ⟨?_, ?_, rfl, rfl, rfl⟩
  · exact RegFrame.other (((hswitches.subset (by simp [enableFields])).set (f := F.THM_CTRL_EN) 1 (by simp [enableFields])).set
      (f := F.THM_STATUS_STATE) 0 (by simp [enableFields])) rfl
  · exact (get_set_other (f := F.THM_STATUS_STATE) (g := F.THM_CTRL_EN) _ 0 (by decide)).trans
      (get_set_same (thmSwitches s v) F.THM_CTRL_EN 1)

theorem thmUp_of_frame {s t : State} (h : RegFrame enableFields s t) (hm : t.mode = s.mode) : thmUp t = thmUp s := by
  have hstep : t.step = s.step := h _ (by decide)
  have hallow : t.flag F.SHD_ALLOW_THM_ALLOW = s.flag F.SHD_ALLOW_THM_ALLOW := by
    unfold State.flag
    rw [h _ (by decide)]
  unfold thmUp hgeUp mainDown
  rw [hm, hstep, hallow]

theorem thmCtrl_starts (value : Dword) (h : bit value.toNat 0 = true) (he : s.flag F.THM_CTRL_EN = false) (hup : thmUp s = true)
    (hg : s.thm.geom = some (geomNow s)) : Gives (.thmCtrlWrite value) s (fun t => t.get F.THM_CTRL_EN = 1 ∧
      t.get F.THM_STATUS_STATE = 1 ∧ t.thm.settleAt = s.sys.raw ∧ t.thm.fast = false ∧ t.mode = s.mode) := by
  obtain ⟨hframe, hen, hthm, hsys, hmode⟩ := thmEnabled_parts s value.toNat
  have hrun : execThmCtrlWrite value s = .next (if thmUp (thmEnabled s value.toNat) then startPath (thmEnabled s value.toNat)
      else thmEnabled s value.toNat) := by
    unfold execThmCtrlWrite writeThmCtrl
    dsimp only
    rw [if_pos (by simp [h, he])]
    rfl
  rw [thmUp_of_frame hframe hmode, if_pos hup] at hrun
  have hgeom : (thmEnabled s value.toNat).thm.geom = some (geomNow (thmEnabled s value.toNat)) := by
    have hnow : geomNow (thmEnabled s value.toNat) = geomNow s := by
      unfold geomNow
      rw [hframe _ (by decide), hframe _ (by decide), hframe _ (by decide)]
    rw [hthm, hnow, hg]
  generalize thmEnabled s value.toNat = u at hframe hen hthm hsys hmode hrun hgeom
  have hstart : startPath u = startSettling (muteAll (foundPath u)) false := by
    unfold startPath
    rw [takeGeometry_same hgeom]
  rw [hstart] at hrun
  have hmuted := muteAll_muted (foundPath u)
  have hmsys : (muteAll (foundPath u)).sys = u.sys := by
    rw [hmuted.eq]
    rfl
  have hmmode : (muteAll (foundPath u)).mode = u.mode := (muteAll_heats (foundPath u)).mode
  have hmen : (muteAll (foundPath u)).get F.THM_CTRL_EN = u.get F.THM_CTRL_EN := hmuted.frame _ (by decide)
  generalize muteAll (foundPath u) = v at hrun hmsys hmmode hmen
  refine ⟨_, hrun, ?_, startSettling_state v false, ?_, rfl, ((startSettling_heats v false).mode.trans hmmode).trans hmode⟩
  · exact (startSettling_frame v false _ (by decide)).trans (hmen.trans hen)
  · exact congrArg SysSt.raw (hmsys.trans hsys)

end

/-- Settles O50: THM_CONFIG by what carries its list out, the sets and banks by what is stored, THM_SYNC by `decimatorReset_parts`,
and THM_CTRL by the stop and the start of the frames. -/
theorem thermalConfiguration : Obligations.ThermalConfiguration := by
  unfold Obligations.ThermalConfiguration
  intro s
  refine ⟨fun p tag c hd => ⟨fun acked h => ⟨fun hm => thmConfig_standby hd h hm, fun hm u ok hu => ⟨?_, ?_, ?_⟩⟩,
      fun h hf => thmLoadCorr_gives hd h hf, fun h => ⟨fun m k hf => thmSelectCorr_queued hd h hf, fun hf hno => thmSelectCorr_fades hd h hf hno⟩,
      fun h => thmLoadCoef_gives hd h, fun h => ⟨fun hx => thmSelectCoef_queued hd h hx, fun hx hn => thmSelectCoef_fades hd h hx hn,
        fun hx hn => thmSelectCoef_same hd h hx hn⟩, fun h l hl => thmLoadReglut_gives hd h l hl, fun h hh => thmSync_gives hd h hh⟩,
    fun value => ⟨fun h => ?_, fun h he => thmCtrl_stops s value h he, fun h he hup hg => thmCtrl_starts s value h he hup hg⟩,
    fun value => ⟨_, rfl, ?_⟩, fun he hs => ⟨_, (if_pos (by simp [he, hs]) : execFpaResetRelease s = _), rfl⟩,
    fun he => ⟨s, (if_neg (by simp [he]) : execFpaResetRelease s = _), rfl⟩⟩
  · rintro rfl
    exact thmConfig_nack hd h hm hu
  · rintro rfl he
    exact thmConfig_off hd h hm hu he
  · rintro rfl he hg
    exact thmConfig_settles h hm hu he hg
  · obtain ⟨hauto, hneigh, hsync, honly⟩ := thmSwitches_parts s value.toNat
    exact ⟨_, congrArg Host.Outcome.next (thmCtrl_switches s value h), hauto, hneigh, hsync, honly⟩
  · rfl

end Sys2Proof.Machine

/-! ## Thermal frames (R383, R395 to R397, R400, R405, R407, R411, R424 to R426)

What a completed frame, its delivery, the loss of the path and a monitor output leave; with them O51. -/
namespace Sys2Proof.Machine

/-! ### A frame starts (R411) -/

theorem frameStart_plain {s : State} (hh : s.thm.hold = []) (hf : s.thm.fade = none) (hn : s.thm.ffcNew = none) :
    ∃ r : ThmRun, frameStart s = { s.set F.THM_SEQ (s.get F.THM_SEQ + 1) with thm := { s.thm with frame := some r } } ∧
      r.seq = (s.set F.THM_SEQ (s.get F.THM_SEQ + 1)).get F.THM_SEQ ∧ r.time = s.now ∧
      r.settled = decide (s.get F.THM_STATUS_STATE = 2) := by
  have hfade : stepFade s = s := by
    unfold stepFade
    rw [hf]
  have htake : takeFfc s = (s, false) := by
    unfold takeFfc
    rw [hn]
  unfold frameStart
  rw [applyFsync_none hh, hfade]
  dsimp only
  rw [htake]
  refine ⟨_, rfl, rfl, ?_, ?_⟩
  · exact get_set_other (f := F.THM_SEQ) (g := F.TDC_DEVTIME) s _ (by decide)
  · dsimp only
    rw [get_set_other (f := F.THM_SEQ) (g := F.THM_STATUS_STATE) s _ (by decide)]

/-! ### A frame is complete (R395, R424, R425) -/

/-- The overflows of the taps are counted. -/
def overrunNoted (s : State) (ovr : List Nat) : State :=
  ovr.zipIdx.foldl (fun (t : State) e => t.set (F.THM_TAP_OVR e.2) (min e.1 0xFFFF)) s

theorem overrunNoted_only (s : State) {ovr : List Nat} (h : ovr.length = 16) :
    RegsOnly ((List.range 16).map F.THM_TAP_OVR) s (overrunNoted s ovr) := by
  refine List.foldlRecOn ovr.zipIdx _ (motive := fun t : State => RegsOnly ((List.range 16).map F.THM_TAP_OVR) s t)
    (RegsOnly.refl _ s) fun t ht e he => ?_
  have hlt : e.2 < 16 := by
    have := List.snd_lt_of_mem_zipIdx he
    omega
  exact ht.set _ (List.mem_map_of_mem (List.mem_range.mpr hlt))

/-- The codes of a frame, and its pixels on tap n that lie beyond the converter. -/
def frameCodes (s : State) (sums : List Int) : List Nat := (tapCodes s sums).map fun v => (clampInt 0 65535 v).toNat

def tapOverruns (s : State) (sums : List Int) : List Nat := (List.range 16).map fun n =>
  if n < tapsOf (s.get F.THM_GEOM_TAPS) && s.flag (F.THM_TAP_EN n) then
    pinned (s.get F.THM_GEOM_COLS) (tapsOf (s.get F.THM_GEOM_TAPS)) n (tapCodes s sums) else 0

/-- The frame in progress ends, without a flat field. -/
def frameEnded (s : State) (sums : List Int) : State :=
  setThm (overrunNoted s (tapOverruns s sums)) fun x => { x with frame := none }

theorem frameEnded_parts (s : State) (sums : List Int) : frameEnded s sums = { s with
      regs := (frameEnded s sums).regs, thm := { s.thm with frame := none } } ∧
    RegFrame ((List.range 16).map F.THM_TAP_OVR) s (frameEnded s sums) := by
  obtain ⟨heq, hframe⟩ := overrunNoted_only s (ovr := tapOverruns s sums) (by simp [tapOverruns])
  unfold frameEnded
  generalize overrunNoted s (tapOverruns s sums) = t at heq hframe ⊢
  refine ⟨?_, .other hframe rfl⟩
  unfold setThm
  rw [heq]

theorem stepFfc_none {s : State} (h : s.thm.run = none) (r : ThmRun) (raw : List Nat) : stepFfc s r raw = s := by
  unfold stepFfc
  rw [h]

theorem frameComplete_unsettled {s : State} (sums : List Int) {r : ThmRun} (hf : s.thm.frame = some r) (hr : s.thm.run = none)
    (hs : r.settled = false) : execThermalFrameComplete sums s =
      .next (if (frameEnded s sums).get F.THM_STATUS_STATE = 1 && !(frameEnded s sums).thm.fast then
        checkFrame (frameEnded s sums) r.start (frameCodes s sums) else frameEnded s sums) := by
  have hrun : (overrunNoted s (tapOverruns s sums)).thm.run = none := by
    rw [(overrunNoted_only s (ovr := tapOverruns s sums) (by simp [tapOverruns])).1]
    exact hr
  have hstep := stepFfc_none hrun r (frameCodes s sums)
  unfold execThermalFrameComplete frameEnded
  rw [hf]
  dsimp only
  rw [if_pos (by simp [hs])]
  unfold overrunNoted tapOverruns frameCodes at hstep ⊢
  rw [hstep]

theorem checkFrame_parts (s : State) (start : Nat) (raw : List Nat) :
    checkFrame s start raw = { s with thm := (checkFrame s start raw).thm } ∧
    (checkFrame s start raw).thm = { s.thm with
      check := (checkFrame s start raw).thm.check, passed := (checkFrame s start raw).thm.passed } ∧
    (s.thm.passed.isSome = true → (checkFrame s start raw).thm.passed = s.thm.passed) := by
  refine ⟨rfl, rfl, fun h => ?_⟩
  unfold checkFrame
  dsimp only
  refine congrArg Prod.snd (List.foldlRecOn _ _ (motive := fun a : List TapCheck × Option Nat => a = (s.thm.check, s.thm.passed)) rfl
    fun a ha k _ => ?_ : _ = (s.thm.check, s.thm.passed))
  rw [ha]
  exact if_pos (by simp [h])

theorem frameComplete_drops {s : State} (sums : List Int) {r : ThmRun} (hf : s.thm.frame = some r) (hr : s.thm.run = none)
    (hs : r.settled = false) (hno : s.get F.THM_STATUS_STATE ≠ 1 ∨ s.thm.fast = true) : Gives (.thermalFrameComplete sums) s (fun t =>
      t.thm = { s.thm with frame := none } ∧ t = { s with regs := t.regs, thm := t.thm } ∧
      RegFrame ((List.range 16).map F.THM_TAP_OVR) s t) := by
  have hrun := frameComplete_unsettled sums hf hr hs
  obtain ⟨heq, hframe⟩ := frameEnded_parts s sums
  generalize frameEnded s sums = t at hrun heq hframe
  have hstate : t.get F.THM_STATUS_STATE = s.get F.THM_STATUS_STATE := hframe _ (by decide)
  have hfast : t.thm.fast = s.thm.fast := by rw [heq]
  rw [hstate, hfast, if_neg (by rcases hno with hno | hno <;> simp [hno])] at hrun
  have hthm : t.thm = { s.thm with frame := none } := by rw [heq]
  exact ⟨t, hrun, hthm, by rw [hthm]; exact heq, hframe⟩

theorem frameComplete_checks {s : State} (sums : List Int) {r : ThmRun} (hf : s.thm.frame = some r) (hr : s.thm.run = none)
    (hs : r.settled = false) (hst : s.get F.THM_STATUS_STATE = 1) (hfast : s.thm.fast = false) :
    Gives (.thermalFrameComplete sums) s (fun t =>
      t.thm = { s.thm with frame := none, check := t.thm.check, passed := t.thm.passed } ∧
      (s.thm.passed.isSome = true → t.thm.passed = s.thm.passed) ∧ t = { s with regs := t.regs, thm := t.thm } ∧
      RegFrame ((List.range 16).map F.THM_TAP_OVR) s t) := by
  have hrun := frameComplete_unsettled sums hf hr hs
  obtain ⟨heq, hframe⟩ := frameEnded_parts s sums
  generalize frameEnded s sums = t at hrun heq hframe
  have hstate : t.get F.THM_STATUS_STATE = s.get F.THM_STATUS_STATE := hframe _ (by decide)
  have htfast : t.thm.fast = s.thm.fast := by rw [heq]
  have hthm : t.thm = { s.thm with frame := none } := by rw [heq]
  rw [hstate, htfast, if_pos (by simp [hst, hfast])] at hrun
  obtain ⟨hceq, hcthm, hpassed⟩ := checkFrame_parts t r.start (frameCodes s sums)
  generalize checkFrame t r.start (frameCodes s sums) = u at hrun hceq hcthm hpassed
  have huthm : u.thm = { s.thm with frame := none, check := u.thm.check, passed := u.thm.passed } := by
    conv => lhs; rw [hcthm, hthm]
  have hregs : u.regs = t.regs := by rw [hceq]
  refine ⟨u, hrun, huthm, fun h => ?_, ?_, .other hframe hregs⟩
  · have hsame : t.thm.passed = s.thm.passed := by rw [hthm]
    exact (hpassed (by rw [hsame]; exact h)).trans hsame
  · conv => lhs; rw [hceq, heq]
    rw [hregs]

/-! ### A settled frame is queued (R424, R425) -/

theorem queueFrame_queues {s : State} (f : ThmFrame) (h : 1 < s.get F.THM_RING_CFG) (hq : s.thm.queue = none)
    (hr : thmRingFull s = false) : (queueFrame s f).thm.frame = s.thm.frame ∧ (queueFrame s f).mode = s.mode ∧
      ∃ g, (queueFrame s f).thm.queue = some g ∧ g.seq = f.seq ∧ g.time = f.time ∧ g.cols = f.cols ∧ g.rows = f.rows := by
  unfold queueFrame
  rw [if_neg (by omega), if_neg (by simp [hq, hr])]
  exact ⟨rfl, rfl, _, rfl, rfl, rfl, rfl, rfl⟩

theorem hotTrigger_notes (s : State) (f : ThmFrame) : Notes s (hotTrigger s f) := by
  unfold hotTrigger
  split
  · exact .ite (trigger_notes s 4) (.refl s)
  · exact .refl s

/-- A settled frame: what is queued, from a state that has the frame ended. -/
theorem frameComplete_settled {s : State} (sums : List Int) {r : ThmRun} (hf : s.thm.frame = some r) (hr : s.thm.run = none)
    (hs : r.settled = true) : ∃ (t : State) (f : ThmFrame), execThermalFrameComplete sums s = .next (hotTrigger (queueFrame t f) f) ∧
      t.regs = (frameEnded s sums).regs ∧ t.thm.queue = s.thm.queue ∧ t.thm.frame = none ∧ t.mode = s.mode ∧
      f.seq = r.seq ∧ f.time = r.time ∧ f.cols = s.get F.THM_GEOM_COLS ∧ f.rows = s.get F.THM_GEOM_ROWS := by
  have hrun : (overrunNoted s (tapOverruns s sums)).thm.run = none := by
    rw [(overrunNoted_only s (ovr := tapOverruns s sums) (by simp [tapOverruns])).1]
    exact hr
  have hstep := stepFfc_none hrun r (frameCodes s sums)
  have hended := (frameEnded_parts s sums).1
  unfold execThermalFrameComplete
  rw [hf]
  dsimp only
  rw [if_neg (by simp [hs])]
  unfold overrunNoted tapOverruns frameCodes at hstep
  rw [hstep]
  have hsame : frameEnded s sums = setThm (overrunNoted s (tapOverruns s sums)) fun x => { x with frame := none } := rfl
  unfold overrunNoted tapOverruns at hsame
  rw [← hsame]
  generalize frameEnded s sums = t at hended ⊢
  have hq : t.thm.queue = s.thm.queue := by rw [hended]
  have hfr : t.thm.frame = none := by rw [hended]
  have hm : t.mode = s.mode := by rw [hended]
  generalize corrInUse s = old
  cases old with
  | none =>
    refine ⟨_, _, rfl, ?_, ?_, ?_, ?_, rfl, rfl, rfl, rfl⟩
    · split <;> rfl
    · split <;> exact hq
    · split <;> exact hfr
    · split <;> exact hm
  | some c =>
    refine ⟨_, _, rfl, ?_, ?_, ?_, ?_, rfl, rfl, rfl, rfl⟩
    · split <;> rfl
    · split <;> exact hq
    · split <;> exact hfr
    · split <;> exact hm

theorem frameComplete_queues {s : State} (sums : List Int) {r : ThmRun} (hf : s.thm.frame = some r) (hr : s.thm.run = none)
    (hs : r.settled = true) (h : 1 < s.get F.THM_RING_CFG) (hq : s.thm.queue = none) (hfull : thmRingFull s = false) :
    Gives (.thermalFrameComplete sums) s (fun t => t.thm.frame = none ∧ t.mode = s.mode ∧
      ∃ f, t.thm.queue = some f ∧ f.seq = r.seq ∧ f.time = r.time ∧ f.cols = s.get F.THM_GEOM_COLS ∧
        f.rows = s.get F.THM_GEOM_ROWS) := by
  obtain ⟨t, f, hrun, htregs, htq, htf, htm, hseq, htime, hcols, hrows⟩ := frameComplete_settled sums hf hr hs
  have hreg (g : Fld) (hg : ∀ k ∈ (List.range 16).map F.THM_TAP_OVR, g.key ≠ k.key) : t.get g = s.get g :=
    (congrArg (getReg · g) htregs).trans ((frameEnded_parts s sums).2 g hg)
  have htfull : thmRingFull t = false := by
    rw [← hfull]
    unfold thmRingFull
    rw [hreg _ (by decide), hreg _ (by decide), hreg _ (by decide)]
  obtain ⟨hqf, hqm, g, hg, h1, h2, h3, h4⟩ := queueFrame_queues f (by rw [hreg _ (by decide)]; exact h) (htq.trans hq) htfull
  have hnotes := hotTrigger_notes (queueFrame t f) f
  generalize hotTrigger (queueFrame t f) f = u at hrun hnotes
  have huthm : u.thm = (queueFrame t f).thm := by rw [hnotes.eq]
  have humode : u.mode = (queueFrame t f).mode := by rw [hnotes.eq]
  refine ⟨u, hrun, (congrArg ThmSt.frame huthm).trans (hqf.trans htf), humode.trans (hqm.trans htm), g, ?_, h1.trans hseq, h2.trans htime,
    h3.trans hcols, h4.trans hrows⟩
  exact (congrArg ThmSt.queue huthm).trans hg

/-! ### Delivery (R425, R426) -/

/-- The registers that a recording of a delivered frame writes. -/
def recordFields : List Fld := F.ACQ_STATUS_STATE :: yardFields

/-- Only the recorder and the yard change, and of registers theirs. -/
structure Recorded (s t : State) : Prop where
  eq : t = { s with regs := t.regs, free := t.free, acq := t.acq, yrd := t.yrd }
  frame : RegFrame recordFields s t

theorem Recorded.refl (s : State) : Recorded s s := ⟨rfl, .refl _ s⟩

theorem Recorded.trans {r s t : State} (h : Recorded r s) (k : Recorded s t) : Recorded r t := by
  refine ⟨?_, h.frame.trans k.frame⟩
  rw [k.eq, h.eq]

theorem Yards.recorded {s t : State} (h : Yards s t) : Recorded s t := by
  refine ⟨?_, h.frame.subset (by simp +contextual [recordFields])⟩
  rw [h.eq]

theorem Recorded.acq (s : State) (a : AcqSt) : Recorded s { s with acq := a } := ⟨rfl, .other (.refl _ s) rfl⟩

theorem takeFar_yards (n : Nat) (s : State) : Yards s (takeFar n s).2 := by
  induction n generalizing s with
  | zero => exact .refl s
  | succ n ih =>
    unfold takeFar
    split
    next k t hnew => exact (newStall_yards hnew).trans (ih t)
    · exact .refl s

theorem keepItems_recorded (s : State) (r : Recording) (k need : Nat) (sec : RecSection) (got : List Nat) :
    Recorded s (keepItems s r k need sec got) := by
  unfold keepItems
  dsimp only
  split
  · have hfull : Recorded s (if s.get F.ACQ_STATUS_STATE = 2 then s.set F.ACQ_STATUS_STATE 3 else s) := by
      split
      · exact ⟨rfl, (RegFrame.refl _ s).set (f := F.ACQ_STATUS_STATE) 3 (by simp [recordFields])⟩
      · exact .refl s
    generalize (if s.get F.ACQ_STATUS_STATE = 2 then s.set F.ACQ_STATUS_STATE 3 else s) = u at hfull ⊢
    exact hfull.trans (.acq u _)
  · exact .acq s _

theorem capture_recorded (s : State) (k : Nat) (l : List RecItem) : Recorded s (capture s k l) := by
  unfold capture
  split
  · split
    · split
      · exact .refl s
      · exact (takeFar_yards _ s).recorded.trans (keepItems_recorded ..)
    · exact .refl s
  · exact .refl s

theorem recordItem_recorded (s : State) (k ring : Nat) (header : Bool) (data : List Byte) :
    Recorded s (recordItem s k ring header data) := by
  have hput (x : RecItem) : Recorded s (ringPut s k x) := .acq s _
  exact (hput _).trans (capture_recorded _ k _)

theorem recordThermal_recorded (s : State) (data : List Byte) : Recorded s (recordThermal s data) := by
  unfold recordThermal
  split
  · split
    · exact .refl s
    · split
      · exact (Recorded.acq s _).trans (recordItem_recorded _ 1 4 false data)
      · exact .acq s _
  · exact .refl s

theorem frameDelivery_writes {s : State} {f : ThmFrame} (hq : s.thm.queue = some f) (h : 1 < s.get F.THM_RING_CFG)
    (hu : pcieUsable s = true) (hr : recordsFirst s f = false) : Gives .thermalFrameDelivery s (fun t =>
      t.thm = { s.thm with queue := none } ∧
      (sendMem s (4096 * s.get F.THM_RING_BASE + s.get F.THM_RING_PTR_WSLOT * slotBytes f.cols f.rows) (frameBytes f)).tx <+: t.tx ∧
      t.get F.THM_RING_PTR_WSLOT = (s.get F.THM_RING_PTR_WSLOT + 1) % s.get F.THM_RING_CFG % 2 ^ F.THM_RING_PTR_WSLOT.width) := by
  have hrun : execThermalFrameDelivery s = .next (recordThermal (setThm ((sendMem s (4096 * s.get F.THM_RING_BASE +
      s.get F.THM_RING_PTR_WSLOT * slotBytes f.cols f.rows) (frameBytes f)).set F.THM_RING_PTR_WSLOT
        ((s.get F.THM_RING_PTR_WSLOT + 1) % s.get F.THM_RING_CFG)) fun x => { x with queue := none }) (frameBytes f)) := by
    unfold execThermalFrameDelivery
    rw [hq]
    dsimp only
    rw [if_neg (by omega), if_neg (by simp [hu, hr])]
  generalize frameBytes f = data at hrun ⊢
  generalize 4096 * s.get F.THM_RING_BASE + s.get F.THM_RING_PTR_WSLOT * slotBytes f.cols f.rows = a at hrun ⊢
  generalize hw : (s.get F.THM_RING_PTR_WSLOT + 1) % s.get F.THM_RING_CFG = w at hrun ⊢
  obtain ⟨heq, hframe⟩ := recordThermal_recorded (setThm ((sendMem s a data).set F.THM_RING_PTR_WSLOT w) fun x => { x with queue := none }) data
  refine ⟨_, hrun, ?_, ?_, ?_⟩
  · rw [heq]
    rfl
  · rw [heq]
    exact List.prefix_rfl
  · exact (hframe _ (by decide)).trans (get_set_same (sendMem s a data) F.THM_RING_PTR_WSLOT w)

/-! ### The path is lost (R383, R397) -/

theorem losePath_parts (s : State) (detail : Nat) : (losePath s detail).get F.THM_STATUS_STATE = 3 ∧
    (losePath s detail).pins.fpaRst = false ∧ (losePath s detail).thm.frame = none ∧ (losePath s detail).mode = s.mode := by
  obtain ⟨hframe, hstate⟩ := stopFrames_parts s (st := 3) (by decide)
  have hmode := (losePath_heats s detail).mode
  unfold losePath at hmode ⊢
  dsimp only at hmode ⊢
  generalize stopFrames s 3 = t at hframe hstate hmode ⊢
  refine ⟨?_, ?_, ?_, hmode⟩
  · exact (RegFrame.raise (RegFrame.refl (faultFields 2) _) 2 0x0B01 detail (fun _ h => h) _ (by decide)).trans hstate
  · rw [raiseFault_pins]
  · rw [raiseFault_thm]
    exact hframe

theorem biasLimit_loses {s : State} (h : framesRun s = true) : Gives .fpaBiasLimit s (fun t => t.get F.THM_STATUS_STATE = 3 ∧
    t.get F.THM_STATUS_ILIM = 1 ∧ t.pins.fpaRst = false ∧ t.thm.frame = none ∧ t.mode = s.mode) := by
  obtain ⟨hstate, hpin, hframe, hmode⟩ := losePath_parts s 0
  refine ⟨_, (if_neg (by simp [h]) : execFpaBiasLimit s = _), ?_⟩
  generalize losePath s 0 = t at hstate hpin hframe hmode ⊢
  obtain ⟨hkept, hpins, hregs⟩ := endConfig_parts (t.set F.THM_STATUS_ILIM 1) St.hwFault 0
  refine ⟨?_, ?_, (congrArg Pins.fpaRst hpins).trans hpin, hkept.trans hframe, (endConfig_heats _ St.hwFault 0).mode.trans hmode⟩
  · exact (hregs _ (by decide)).trans ((get_set_other (f := F.THM_STATUS_ILIM) t 1 (by decide)).trans hstate)
  · exact (hregs _ (by decide)).trans (get_set_same t F.THM_STATUS_ILIM 1)

theorem settleTimeout_loses {s : State} (h : framesRun s = true) (hs : s.get F.THM_STATUS_STATE = 1) :
    Gives .settleTimeout s (fun t => t.get F.THM_STATUS_STATE = 3 ∧ t.pins.fpaRst = false ∧ t.thm.frame = none ∧ t.mode = s.mode) := by
  obtain ⟨hstate, hpin, hframe, hmode⟩ := losePath_parts s 1
  refine ⟨_, (if_neg (by simp [h, hs]) : execSettleTimeout s = _), ?_⟩
  generalize losePath s 1 = t at hstate hpin hframe hmode ⊢
  obtain ⟨hkept, hpins, hregs⟩ := endConfig_parts t St.hwFault 0
  exact ⟨(hregs _ (by decide)).trans hstate, (congrArg Pins.fpaRst hpins).trans hpin, hkept.trans hframe,
    (endConfig_heats _ St.hwFault 0).mode.trans hmode⟩

/-! ### The path has settled (R395) -/

/-- The path runs: its state, and the time that settling took. -/
def pathRuns (s : State) (a : Nat) : State :=
  (s.set F.THM_STATUS_STATE 2).set F.THM_SETTLE2_LAST (min ((a - s.thm.settleAt) / 80000) 0xFFFF)

theorem pathRuns_parts (s : State) (a : Nat) : (pathRuns s a).get F.THM_STATUS_STATE = 2 ∧
    (pathRuns s a).get F.THM_SETTLE2_LAST = min ((a - s.thm.settleAt) / 80000) 0xFFFF ∧
    RegsOnly [F.THM_STATUS_STATE, F.THM_SETTLE2_LAST] s (pathRuns s a) := by
  refine ⟨?_, ?_, rfl, ?_⟩
  · exact (get_set_other (f := F.THM_SETTLE2_LAST) _ _ (by decide)).trans (get_set_same s F.THM_STATUS_STATE 2)
  · refine (get_set_same (s.set F.THM_STATUS_STATE 2) F.THM_SETTLE2_LAST _).trans (Nat.mod_eq_of_lt ?_)
    exact Nat.lt_of_le_of_lt (Nat.min_le_right _ _) (by decide)
  · exact ((RegFrame.refl _ s).set 2 (by simp)).set _ (by simp)

theorem pathSettled_eq {s : State} {a : Nat} (h : framesRun s = true) (hs : s.get F.THM_STATUS_STATE = 1)
    (ha : (if s.thm.fast then some s.sys.raw else s.thm.passed) = some a) :
    execPathSettled s = .next (endConfig (pathRuns s a) St.done ((a - s.thm.cfgAt) / 800)) := by
  unfold execPathSettled
  rw [if_neg (by simp [h, hs]), ha]
  rfl

theorem pathSettled_alone {s : State} {a : Nat} (h : framesRun s = true) (hs : s.get F.THM_STATUS_STATE = 1)
    (ha : (if s.thm.fast then some s.sys.raw else s.thm.passed) = some a) (hw : s.thm.cfgWait = none) :
    Gives .pathSettled s (fun t => t.get F.THM_STATUS_STATE = 2 ∧
      t.get F.THM_SETTLE2_LAST = min ((a - s.thm.settleAt) / 80000) 0xFFFF ∧
      RegsOnly [F.THM_STATUS_STATE, F.THM_SETTLE2_LAST] s t) := by
  have hend (r : Nat) : endConfig (pathRuns s a) St.done r = pathRuns s a := by
    have hwait : (pathRuns s a).thm.cfgWait = none := hw
    unfold endConfig
    rw [hwait]
  have hrun := pathSettled_eq h hs ha
  rw [hend] at hrun
  exact ⟨_, hrun, pathRuns_parts s a⟩

theorem pathSettled_ends {s : State} {a : Nat} (h : framesRun s = true) (hs : s.get F.THM_STATUS_STATE = 1)
    (ha : (if s.thm.fast then some s.sys.raw else s.thm.passed) = some a) {q : Port × Nat} {c : Cmd} (hw : s.thm.cfgWait = some q)
    (hc : findCmd s q.1 q.2 0x0400 = some c) (hd : c.discard = false) : Gives .pathSettled s (fun t =>
      Ends t c St.done ((a - s.thm.cfgAt) / 800) ∧ t.thm.cfgWait = none ∧ t.get F.THM_STATUS_STATE = 2) := by
  obtain ⟨p, tag⟩ := q
  have hend (r : Nat) : endConfig (pathRuns s a) St.done r = finishOk (setThm (pathRuns s a) fun x => { x with cfgWait := none }) c r := by
    have hwait : (pathRuns s a).thm.cfgWait = some (p, tag) := hw
    have hfound : findCmd (setThm (pathRuns s a) fun x => { x with cfgWait := none }) p tag 0x0400 = some c := hc
    unfold endConfig
    rw [hwait]
    dsimp only
    rw [hfound]
    rfl
  have hrun := pathSettled_eq h hs ha
  rw [hend] at hrun
  refine ⟨_, hrun, ends_ok hd _, ?_, ?_⟩
  · rw [finishOk_eq hd]
    rfl
  · rw [finishOk_eq hd]
    exact (pathRuns_parts s a).1

/-! ### Monitor outputs and crossfades (R401, R405, R407) -/

theorem decimate_kept (s : State) (c : MonCh) (phase : Nat) (codes : List Nat) :
    (decimate s c phase codes).n = c.n ∧ (decimate s c phase codes).mute = c.mute := by
  unfold decimate
  dsimp only
  exact List.foldlRecOn (List.range _) _ (motive := fun x : MonCh => x.n = c.n ∧ x.mute = c.mute) ⟨rfl, rfl⟩ fun x h k _ => h

theorem monAt_n (s : State) (n : Nat) : (monAt s n).n = n := by
  unfold monAt
  cases h : s.thm.mon.find? fun (c : MonCh) => c.n == n with
  | none => rfl
  | some c => simpa using List.find?_some h

theorem monAt_setMon (s : State) (c : MonCh) : monAt (setMon s c) c.n = c := by
  have h : (setMon s c).thm.mon.find? (fun (x : MonCh) => x.n == c.n) = some c := List.find?_cons_of_pos (by simp)
  unfold monAt
  rw [h]
  rfl

theorem monitor_muted {s : State} {n : Fin 4} {l : List Nat} {ph : Fin 10} (hup : thmUp s = true) (he : s.flag F.THM_CTRL_EN = true)
    (hn : s.flag (F.THM_MON_CH_EN n) = true) (hm : (monAt s n).mute ≠ 0) : Gives (.monitorOutput n l ph) s (fun t =>
      (monAt t n).mute = (monAt s n).mute - 1 ∧ t = { s with thm := t.thm }) := by
  obtain ⟨hkn, hkmute⟩ := decimate_kept s (monAt s n) ph.val l
  have hrun : execMonitorOutput n l ph s = .next (setMon s { decimate s (monAt s n) ph.val l with
      mute := (decimate s (monAt s n) ph.val l).mute - 1 }) := by
    unfold execMonitorOutput
    dsimp only
    rw [if_neg (by simp [hup, he, hn]), if_pos (by simpa [hkmute] using hm)]
  generalize decimate s (monAt s n) ph.val l = c at hkn hkmute hrun
  have hcn : c.n = n := hkn.trans (monAt_n s n)
  have hmon := monAt_setMon s { c with mute := c.mute - 1 }
  refine ⟨_, hrun, ?_, rfl⟩
  have hat : monAt (setMon s { c with mute := c.mute - 1 }) n = { c with mute := c.mute - 1 } := by
    rw [← hcn]
    exact hmon
  rw [hat, ← hkmute]

theorem outputOf_mode (s : State) (c : MonCh) (n : Nat) : (outputOf s c n).2.mode = s.mode := by
  unfold outputOf
  split <;> rfl

theorem monOutput_mode (s : State) (c : MonCh) : (monOutput s c).2.mode = s.mode := by
  unfold monOutput
  dsimp only
  split
  · exact (outputOf_mode _ c _).trans (outputOf_mode s c _)
  · exact outputOf_mode s c _

theorem detectors_mode (s : State) (c : MonCh) (y : Nat) : (detectors s c y).mode = s.mode := by
  unfold detectors
  dsimp only
  split <;> rfl

theorem monValid_keys (n : Fin 4) : ∀ f ∈ [F.THM_TEMP_VALID, F.THM_TEMP_T_ARRAY, F.THM_STATUS_SHUTTER],
    (F.THM_MON_CH_VALID n).key ≠ f.key := by decide +revert

theorem monitor_outputs {s : State} {n : Fin 4} {l : List Nat} {ph : Fin 10} (hup : thmUp s = true) (he : s.flag F.THM_CTRL_EN = true)
    (hn : s.flag (F.THM_MON_CH_EN n) = true) (hm : (monAt s n).mute = 0) : Gives (.monitorOutput n l ph) s (fun t =>
      t.get (F.THM_MON_CH_VALID n) = 1 ∧ t.mode = s.mode) := by
  obtain ⟨-, hkmute⟩ := decimate_kept s (monAt s n) ph.val l
  have hvalid (u : State) : (u.set (F.THM_MON_CH_VALID n) 1).get (F.THM_MON_CH_VALID n) = 1 := get_set_same u (F.THM_MON_CH_VALID n) 1
  have hrun : ∃ (c : MonCh) (y : Nat) (t : State), t.mode = s.mode ∧ execMonitorOutput n l ph s =
      if n.val = 0 then .next ((((detectors t c y).set (F.THM_MON_CH_VALID n) 1).setInt F.THM_TEMP_T_ARRAY
        (arrayTemp ((detectors t c y).set (F.THM_MON_CH_VALID n) 1) y)).set F.THM_TEMP_VALID 1)
      else if n.val = 1 then .next (noteShutter ((detectors t c y).set (F.THM_MON_CH_VALID n) 1) y)
      else .next ((detectors t c y).set (F.THM_MON_CH_VALID n) 1) := by
    unfold execMonitorOutput
    dsimp only
    rw [if_neg (by simp [hup, he, hn]), if_neg (by simp [hkmute, hm])]
    exact ⟨_, _, _, monOutput_mode s _, rfl⟩
  obtain ⟨c, y, t, htm, hrun⟩ := hrun
  have hmode : ((detectors t c y).set (F.THM_MON_CH_VALID n) 1).mode = s.mode := (detectors_mode t c y).trans htm
  have hget := hvalid (detectors t c y)
  generalize (detectors t c y).set (F.THM_MON_CH_VALID n) 1 = u at hrun hmode hget
  split at hrun
  next h0 =>
    refine ⟨_, hrun, ?_, hmode⟩
    exact (get_set_other _ _ (monValid_keys n _ (by simp))).trans
      ((get_set_other (f := F.THM_TEMP_T_ARRAY) _ _ (monValid_keys n _ (by simp))).trans hget)
  next h0 =>
    split at hrun
    · refine ⟨_, hrun, ?_, hmode⟩
      exact (get_set_other (f := F.THM_STATUS_SHUTTER) u _ (monValid_keys n _ (by simp))).trans hget
    · exact ⟨_, hrun, hget, hmode⟩

theorem crossfade_ends {s : State} (hx : s.flag F.THM_MON_CFG_XFADE = true) (hq : s.flag F.THM_MON_CFG_COEF_QUEUED = false)
    (hall : ∀ n < 4, s.flag (F.THM_MON_CH_EN n) = true → (monAt s n).fade = 256) : Gives .coefCrossfadeEnd s (fun t =>
      t.get F.THM_MON_CFG_COEF_NOW = 1 - s.get F.THM_MON_CFG_COEF_NOW ∧ t.get F.THM_MON_CFG_XFADE = 0 ∧
      RegsOnly [F.THM_MON_CFG_COEF_NOW, F.THM_MON_CFG_XFADE, F.THM_MON_CFG_COEF_QUEUED] s t) := by
  have hended : ((List.range 4).all fun n => !s.flag (F.THM_MON_CH_EN n) || (monAt s n).fade = 256) = true := by
    rw [List.all_eq_true]
    intro n hn
    cases he : s.flag (F.THM_MON_CH_EN n) with
    | false => rfl
    | true => simp [hall n (List.mem_range.mp hn) he]
  have hrun : execCoefCrossfadeEnd s = .next (((s.set F.THM_MON_CFG_COEF_NOW (1 - s.get F.THM_MON_CFG_COEF_NOW)).set
      F.THM_MON_CFG_XFADE 0).set F.THM_MON_CFG_COEF_QUEUED 0) := by
    unfold execCoefCrossfadeEnd
    dsimp only
    rw [if_neg (by simp [hx, hended]), hq]
    rfl
  have hle : 1 - s.get F.THM_MON_CFG_COEF_NOW < 2 := by omega
  refine ⟨_, hrun, ?_, ?_, rfl, ?_⟩
  · simp (disch := decide) only [get_set_other, get_set_same]
    exact Nat.mod_eq_of_lt hle
  · simp (disch := decide) only [get_set_other, get_set_same] <;> rfl
  · exact (((RegFrame.refl _ s).set _ (by simp)).set _ (by simp)).set _ (by simp)

/-- Settles O51: a start by `frameStart_plain`, a complete frame by what is left when it ended (`frameEnded_parts`), a delivery by what
the recorder may change (`Recorded`), and the loss of the path by `losePath_parts`. -/
theorem thermalFrames : Obligations.ThermalFrames := by
  unfold Obligations.ThermalFrames
  intro s
  refine ⟨fun h hh hf hn => ?_, fun h => ⟨⟨s, if_neg (by simp [h]), rfl⟩, ⟨s, if_pos (by simp [h]), rfl⟩, ⟨s, if_pos (by simp [h]), rfl⟩,
      ⟨s, if_pos (by simp [h]), rfl⟩, ⟨s, if_pos (by simp [h]), rfl⟩⟩, fun sums h => ⟨s, ?_, rfl⟩,
    fun sums r hf hr => ⟨fun hs hno => frameComplete_drops sums hf hr hs hno, fun hs hst hfast => frameComplete_checks sums hf hr hs hst hfast,
      fun hs h hq hfull => frameComplete_queues sums hf hr hs h hq hfull⟩, fun h => ⟨s, ?_, rfl⟩, fun f hq h hno => ⟨s, ?_, rfl⟩,
    fun f hq h => ⟨_, ?_, rfl⟩, fun f hq h hu hr => frameDelivery_writes hq h hu hr, fun h => ⟨biasLimit_loses h, fun hs => ⟨settleTimeout_loses h hs,
      fun hfast hp => ⟨s, ?_, rfl⟩, fun a ha => ⟨fun hw => pathSettled_alone h hs ha hw, fun q c hw hc hd => pathSettled_ends h hs ha hw hc hd⟩⟩,
      fun he hs hfast => ⟨_, ?_, rfl⟩, fun he hs hh => ⟨decimatorReset s, ?_, ?_⟩⟩,
    fun n l ph h => ⟨s, if_pos (by simp [h]), rfl⟩, fun n l ph hup he hn => ⟨fun hm => monitor_muted hup he hn hm,
      fun hm => monitor_outputs hup he hn hm⟩, fun h => ⟨s, if_pos (by simp [h]), rfl⟩,
    fun hx hq hall => crossfade_ends hx hq hall⟩
  · obtain ⟨r, heq, hseq, htime, hset⟩ := frameStart_plain hh hf hn
    refine ⟨_, (if_pos h : execThermalFrameStart s = _), ?_⟩
    rw [heq]
    refine ⟨get_set_same s F.THM_SEQ _, .other (.setOne s F.THM_SEQ _) rfl, r, rfl, hseq, htime, ?_⟩
    rw [hset, decide_eq_true_iff]
  · show execThermalFrameComplete sums s = _
    unfold execThermalFrameComplete
    rw [h]
  · show execThermalFrameDelivery s = _
    unfold execThermalFrameDelivery
    rw [h]
  · show execThermalFrameDelivery s = _
    unfold execThermalFrameDelivery
    rw [hq]
    dsimp only
    rw [if_neg (by omega), if_pos (by simpa using hno)]
  · show execThermalFrameDelivery s = _
    unfold execThermalFrameDelivery
    rw [hq]
    exact if_pos h
  · show execPathSettled s = _
    unfold execPathSettled
    rw [if_neg (by simp [h, hs]), hfast, hp]
    rfl
  · exact (if_neg (by simp [h, he])).trans (if_pos (by simp [hs, hfast]))
  · exact (if_neg (by simp [h, he])).trans (if_neg (by simp [hs]))
  · obtain ⟨htime, hstate, hfast⟩ := decimatorReset_parts hh
    exact ⟨htime, hstate, hfast, decimatorReset_mode hh⟩

end Sys2Proof.Machine

/-! ## The flat field that ends without a result (R418, R419)

The end of a refused flat field writes THM_FFC_RES.BAD_CNT again, with the value that the field holds (`endFfc`). The model's stores cut
a value to the field's width, and the statement is over every state: in a state whose BAD_CNT holds a value wider than the field, the
register changes. No run from the reset state stores such a value. -/
namespace Sys2Proof.Machine

/-- An automatic flat field that awaits its shutter, with THM_FFC_RES.BAD_CNT above its 20 bits. -/
def wideCountState : State :=
  { State.reset with
    regs := [(F.THM_FFC_RES_BAD_CNT.key, 2 ^ 20)]
    thm := { State.reset.thm with run := some ⟨none, 0, 0, 1, [], 1, 0, true, false⟩ } }

theorem wideCountState_cut : (endFfc wideCountState 5 (wideCountState.get F.THM_FFC_RES_BAD_CNT)).get F.THM_FFC_RES_BAD_CNT = 0 := by
  decide +kernel

/-- Refutes O52: with THM_FFC_RES.BAD_CNT at 2^20, which its 20 bits do not hold, the refusal of an automatic flat field by its timeout
writes the field again, and it reads 0: it is not among the registers that the clause lets change. -/
theorem not_flatField : ¬ Obligations.FlatField := by
  unfold Obligations.FlatField
  intro h
  obtain ⟨-, -, -, -, hrun, -⟩ := h wideCountState
  obtain ⟨-, -, htimeout, -⟩ := hrun ⟨none, 0, 0, 1, [], 1, 0, true, false⟩ rfl
  obtain ⟨t, ht, -, -, -, -, -, hframe⟩ := htimeout rfl rfl
  have hgives : exec .ffcShutterTimeout wideCountState =
      .next (endFfc wideCountState 5 (wideCountState.get F.THM_FFC_RES_BAD_CNT)) := rfl
  rw [hgives] at ht
  injection ht with ht
  have hkept := hframe F.THM_FFC_RES_BAD_CNT (by decide)
  rw [← ht, wideCountState_cut] at hkept
  exact absurd hkept (by decide +kernel)

end Sys2Proof.Machine

/-! ## The return front end and the edges of a channel (R168 to R182, R196 to R213) -/
namespace Sys2Proof.Machine

/-! ### The record of a channel -/

theorem find_insertChan (l : List Chan) (c : Chan) : (insertChan l c).find? (fun (x : Chan) => x.id == c.id) = some c := by
  induction l with
  | nil => simp [insertChan]
  | cons x r ih =>
    unfold insertChan
    split
    · simp
    · split
      · simp
      · rename_i hne
        rw [List.find?_cons_of_neg (by simpa using fun h => hne h.symm)]
        exact ih

theorem chanAt_setChan (s : State) {c : Chan} {id : Nat} (h : c.id = id) : chanAt (setChan s c) id = c := by
  subst h
  unfold chanAt setChan
  dsimp only
  rw [find_insertChan]
  rfl

theorem chanAt_id (s : State) (id : Nat) : (chanAt s id).id = id := by
  unfold chanAt
  cases hf : s.rxf.chans.find? (fun (c : Chan) => c.id == id) with
  | none => rfl
  | some c => simpa using List.find?_some hf

theorem chanAt_of_rxf {s t : State} (h : t.rxf = s.rxf) (id : Nat) : chanAt t id = chanAt s id := by
  unfold chanAt
  rw [h]

theorem chanAt_inc (s : State) (f : Fld) (id : Nat) : chanAt (s.inc f) id = chanAt s id := rfl

theorem servedBy_le (s : State) {n : Nat} (h : n ≤ 16) : servedBy s n ≤ 16 := by
  unfold servedBy
  split
  · exact Nat.le_refl _
  · exact h

theorem holdRange_parts (s : State) (p : Nat) (c : Chan) (range : Nat) : chanAt (holdRange s p c range) c.id = c ∧
    RegFrame [F.RXF_CH_CFG_RANGE p (c.id % 64), F.RXF_CH_STAT_RANGE_PEND p (c.id % 64)] s (holdRange s p c range) ∧
    (holdRange s p c range).get (F.RXF_CH_STAT_RANGE_PEND p (c.id % 64)) = 1 := by
  refine ⟨(chanAt_of_rxf rfl _).trans (chanAt_setChan s rfl), ?_, get_set_same _ _ _⟩
  exact (RegFrame.set (t := setChan s c) (fun _ _ => rfl) range (by simp)).set 1 (by simp)

theorem holdRange_range (s : State) {p : Nat} (c : Chan) (range : Nat) :
    (holdRange s p c range).get (F.RXF_CH_CFG_RANGE p (c.id % 64)) = range % 4 := by
  unfold holdRange
  rw [get_set_other (f := F.RXF_CH_STAT_RANGE_PEND p (c.id % 64)) (g := F.RXF_CH_CFG_RANGE p (c.id % 64)) _ _
    (by simp only [Fld.key]; omega)]
  exact get_set_same _ _ _

/-! ### Edges -/

section
variable (s : State) (ch : Fin 1024)

theorem execReturnEdge_dead {coarse tap : Nat} (h : inDeadTime (chanAt s ch) (80 * coarse + fineValue s (ch / 64) (ch % 64) tap) = true) :
    execReturnEdge ch coarse tap s = .next (s.inc (F.TDC_CH_CNT_DEAD_CNT ch)) := if_pos h

theorem execReturnEdge_window {coarse tap o e : Nat}
    (h : inDeadTime (chanAt s ch) (80 * coarse + fineValue s (ch / 64) (ch % 64) tap) = false) (hw : (chanAt s ch).win = some (o, e)) :
    execReturnEdge ch coarse tap s =
      if o ≤ 80 * coarse + fineValue s (ch / 64) (ch % 64) tap ∧ 80 * coarse + fineValue s (ch / 64) (ch % 64) tap < e then
        .next (setChan s { chanAt s ch with cur := some (80 * coarse + fineValue s (ch / 64) (ch % 64) tap) })
      else .next s := by
  unfold execReturnEdge
  dsimp only
  rw [if_neg (by simp [h]), hw]
  dsimp only
  simp only [Bool.and_eq_true, decide_eq_true_eq]

theorem execReturnEdge_groom {coarse tap : Nat}
    (h : inDeadTime (chanAt s ch) (80 * coarse + fineValue s (ch / 64) (ch % 64) tap) = false) (hw : (chanAt s ch).win = none) :
    execReturnEdge ch coarse tap s = if inGroom s (servedBy s (ch / 64)) = true then
        .next (setChan s { chanAt s ch with cur := some (80 * coarse + fineValue s (ch / 64) (ch % 64) tap) })
      else .next s := by
  unfold execReturnEdge
  dsimp only
  rw [if_neg (by simp [h]), hw]

theorem returnEdge_clause (coarse tap x : Nat) (c : Chan) (hc : c = chanAt s ch)
    (hx : x = 80 * coarse + fineValue s (ch / 64) (ch % 64) tap) :
    (inDeadTime c x = true → Gives (.returnEdge ch coarse tap) s (fun t => t = s.inc (F.TDC_CH_CNT_DEAD_CNT ch))) ∧
    (inDeadTime c x = false → ∀ o e : Nat, c.win = some (o, e) →
      (o ≤ x → x < e → Gives (.returnEdge ch coarse tap) s (fun t => chanAt t ch = { c with cur := some x } ∧
        t = { s with rxf := t.rxf })) ∧
      (x < o ∨ e ≤ x → Gives (.returnEdge ch coarse tap) s (fun t => t = s))) ∧
    (inDeadTime c x = false → c.win = none → inGroom s (servedBy s (ch / 64)) = false →
      Gives (.returnEdge ch coarse tap) s (fun t => t = s)) ∧
    (inDeadTime c x = false → c.win = none → inGroom s (servedBy s (ch / 64)) = true →
      Gives (.returnEdge ch coarse tap) s (fun t => t = setChan s { c with cur := some x })) := by
  subst hc hx
  refine ⟨fun hd => ⟨_, execReturnEdge_dead s ch hd, rfl⟩, fun hd o e hw => ⟨fun ho he => ?_, fun hout => ?_⟩, fun hd hw hg => ?_,
    fun hd hw hg => ?_⟩
  · exact ⟨_, (execReturnEdge_window s ch hd hw).trans (if_pos ⟨ho, he⟩), chanAt_setChan s (chanAt_id s ch), rfl⟩
  · exact ⟨_, (execReturnEdge_window s ch hd hw).trans (if_neg (by omega)), rfl⟩
  · exact ⟨_, (execReturnEdge_groom s ch hd hw).trans (if_neg (by simp [hg])), rfl⟩
  · exact ⟨_, (execReturnEdge_groom s ch hd hw).trans (if_pos hg), rfl⟩

/-! ### Event words -/

/-- The state with an event's return noted, for all but reference pulses, and its SHADOW counted, once for a shot of its cluster. -/
def eventNoted (le : Nat) (ref shadow : Bool) : State :=
  let s' := if ref then s else noteReturn s ch.val le
  if shadow && !bit s'.rxf.shadowSeen (ch.val / 64) then
    { s'.inc (F.RXF_SHADOW_CNT (servedBy s (ch.val / 64))) with
      rxf := { s'.rxf with shadowSeen := setBit s'.rxf.shadowSeen (ch.val / 64) } }
  else s'

theorem noteReturn_parts (id le : Nat) : (noteReturn s id le).regs = s.regs ∧ (noteReturn s id le).rxf = s.rxf ∧
    (noteReturn s id le).sch = s.sch := by
  unfold noteReturn
  split
  · exact ⟨rfl, rfl, rfl⟩
  · dsimp only
    split <;> exact ⟨rfl, rfl, rfl⟩

theorem eventNoted_frame (le : Nat) (ref shadow : Bool) :
    RegFrame [F.RXF_SHADOW_CNT (servedBy s (ch.val / 64))] s (eventNoted s ch le ref shadow) := by
  have hnoted : (if ref = true then s else noteReturn s ch.val le).regs = s.regs := by
    split
    · rfl
    · exact (noteReturn_parts s ch.val le).1
  unfold eventNoted
  dsimp only
  generalize (if ref = true then s else noteReturn s ch.val le) = u at hnoted ⊢
  have hu : RegFrame [F.RXF_SHADOW_CNT (servedBy s (ch.val / 64))] s u := (RegFrame.refl _ s).other hnoted
  split
  · exact (hu.inc (f := F.RXF_SHADOW_CNT (servedBy s (ch.val / 64))) (by simp)).other rfl
  · exact hu

theorem noted_sch (le : Nat) (ref : Bool) : (if ref = true then s else noteReturn s ch.val le).sch = s.sch := by
  split
  · rfl
  · exact (noteReturn_parts s ch.val le).2.2

/-- The event word's parts, as R204 places them. -/
theorem execEventWordFormed_eq {width x le : Nat} {t1 ref sat shadow : Bool} {own others : List Overload} {c : Chan}
    (hc : c = chanAt s ch) (hcur : c.cur = some x) (hopen : ref = true ∨ c.win ≠ none)
    (hle : le = (clampInt 0 131071 (Int.ofNat x + skewTrim s (ch / 64) (ch % 64))).toNat)
    (hsat : sat = own.any (overloads (Int.ofNat x) (Int.ofNat (x + 4 * width))))
    (hshadow : shadow = others.any (shadows (s.flag (F.RXF_CL_CTRL_SHADOW_SCOPE (servedBy s (ch / 64)))) ch.val (Int.ofNat x))) :
    execEventWordFormed ch width t1 own others ref s =
      if 8 ≤ c.fifo.length then
        .next ((setChan (eventNoted s ch le ref shadow)
          { c with cur := none, last := some (x, x + 4 * min width 511), drop := true }).inc (F.TDC_CH_CNT_DROP_CNT ch))
      else .next (setChan (eventNoted s ch le ref shadow) { c with
        cur := none
        last := some (x, x + 4 * min width 511)
        fifo := c.fifo ++ [(s.sch.next - 1, eventWord (fillCode (c.fifo.length + 1)) shadow sat
          (if ref then 3 else if c.edgeT1 then 2 else if t1 && !c.noT1 then 1 else 0) (min width 511) le)] }) := by
  subst hc
  have hno : ¬((chanAt s ch).win.isNone && !ref) = true := by
    rcases hopen with h | h
    · simp [h]
    · simp [Option.isNone_iff_eq_none, h]
  unfold execEventWordFormed
  dsimp only
  rw [hcur]
  dsimp only
  rw [if_neg hno, ← hsat, ← hshadow, ← hle, noted_sch]
  rfl

theorem eventWord_clause (width x le : Nat) (t1 ref sat shadow : Bool) (own others : List Overload) (c : Chan) (hc : c = chanAt s ch)
    (hcur : c.cur = some x) (hopen : ref = true ∨ c.win ≠ none)
    (hle : le = (clampInt 0 131071 (Int.ofNat x + skewTrim s (ch / 64) (ch % 64))).toNat)
    (hsat : sat = own.any (overloads (Int.ofNat x) (Int.ofNat (x + 4 * width))))
    (hshadow : shadow = others.any (shadows (s.flag (F.RXF_CL_CTRL_SHADOW_SCOPE (servedBy s (ch / 64)))) ch.val (Int.ofNat x))) :
    (c.fifo.length < 8 → Gives (.eventWordFormed ch width t1 own others ref) s (fun t =>
      (chanAt t ch).cur = none ∧ (chanAt t ch).drop = c.drop ∧
      (chanAt t ch).fifo = c.fifo ++ [(s.sch.next - 1, eventWord (fillCode (c.fifo.length + 1)) shadow sat
        (if ref then 3 else if c.edgeT1 then 2 else if t1 && !c.noT1 then 1 else 0) (min width 511) le)] ∧
      RegFrame [F.RXF_SHADOW_CNT (servedBy s (ch / 64))] s t)) ∧
    (8 ≤ c.fifo.length → Gives (.eventWordFormed ch width t1 own others ref) s (fun t =>
      (chanAt t ch).cur = none ∧ (chanAt t ch).drop = true ∧ (chanAt t ch).fifo = c.fifo ∧
      t.get (F.TDC_CH_CNT_DROP_CNT ch) = (s.inc (F.TDC_CH_CNT_DROP_CNT ch)).get (F.TDC_CH_CNT_DROP_CNT ch))) := by
  have heq := execEventWordFormed_eq s ch (t1 := t1) hc hcur hopen hle hsat hshadow
  have hid : c.id = ch := by
    rw [hc]
    exact chanAt_id s ch
  have hframe := eventNoted_frame s ch le ref shadow
  have hput (u : State) (d : Chan) (hd : d.id = c.id) : chanAt (setChan u d) ch = d := chanAt_setChan u (hd.trans hid)
  generalize eventNoted s ch le ref shadow = u at heq hframe
  refine ⟨fun hroom => ?_, fun hfull => ?_⟩
  · rw [if_neg (by omega)] at heq
    refine ⟨_, heq, ?_⟩
    dsimp only
    rw [hput]
    · exact ⟨rfl, rfl, rfl, hframe.other rfl⟩
    · rfl
  · rw [if_pos hfull] at heq
    refine ⟨_, heq, ?_⟩
    dsimp only
    rw [chanAt_inc, hput _ _ (by exact rfl)]
    refine ⟨rfl, rfl, rfl, ?_⟩
    have hle16 := servedBy_le s (n := ch / 64) (by omega)
    have hkept : u.get (F.TDC_CH_CNT_DROP_CNT ch) = s.get (F.TDC_CH_CNT_DROP_CNT ch) := by
      refine hframe _ fun g hg => ?_
      rw [List.mem_singleton.1 hg]
      simp only [Fld.key]
      omega
    rw [get_inc_same, get_inc_same]
    exact congrArg (fun v => min (v + 1) _) hkept

end

/-! ### The end of a shot -/

section
variable {s : State} {ch : Fin 1024} {sat t1 : Bool} {c : Chan} {p : Nat}

/-- The state with the saturation of a shot counted. -/
def satCounted (s : State) (p j : Nat) (sat : Bool) : State := if sat then s.inc (F.RXF_CH_STAT_SAT_CNT p j) else s

theorem satCounted_frame (s : State) (p j : Nat) (sat : Bool) : RegFrame [F.RXF_CH_STAT_SAT_CNT p j] s (satCounted s p j sat) := by
  unfold satCounted
  split
  · exact (RegFrame.refl _ s).inc (by simp)
  · exact .refl _ s

theorem execShotEnd_eq (hc : c = chanAt s ch) (hp : p = servedBy s (ch / 64)) (hwin : c.win ≠ none) (hcur : c.cur = none) :
    execShotEnd ch sat t1 s = if s.flag (F.RXF_CH_CFG_AR_EN p (ch % 64)) = true then
        .next (autoRange (satCounted s p (ch % 64) sat) p { c with win := none } sat (t1 && !c.noT1))
      else .next (setChan (satCounted s p (ch % 64) sat) { c with win := none }) := by
  subst hc hp
  refine (if_neg ?_ : execShotEnd ch sat t1 s = _)
  simp [hcur, hwin]

/-- The auto-range logic asks for the range below after enough saturated shots. -/
theorem autoRange_lower (h : max 1 (s.get (F.RXF_CL_CTRL_AR_SAT p)) ≤ c.sat + 1)
    (hrange : 0 < s.get (F.RXF_CH_STAT_RANGE_NOW p (c.id % 64))) (t1 : Bool) :
    autoRange s p c true t1 = holdRange s p { c with
      sat := 0
      quiet := 0
      shots := 0
      auto := some (s.get (F.RXF_CH_STAT_RANGE_NOW p (c.id % 64)) - 1) } (s.get (F.RXF_CH_STAT_RANGE_NOW p (c.id % 64)) - 1) := by
  unfold autoRange
  dsimp only
  exact if_pos (by rw [Bool.and_eq_true, decide_eq_true_eq, decide_eq_true_eq]; exact ⟨h, hrange⟩)

theorem shotEnd_clause (hc : c = chanAt s ch) (hp : p = servedBy s (ch / 64)) (hwin : c.win ≠ none) (hcur : c.cur = none) :
    (s.flag (F.RXF_CH_CFG_AR_EN p (ch % 64)) = false → Gives (.shotEnd ch sat t1) s (fun t =>
      chanAt t ch = { c with win := none } ∧ RegFrame [F.RXF_CH_STAT_SAT_CNT p (ch % 64)] s t ∧ (sat = false → t.regs = s.regs))) ∧
    (s.flag (F.RXF_CH_CFG_AR_EN p (ch % 64)) = true → sat = true → max 1 (s.get (F.RXF_CL_CTRL_AR_SAT p)) ≤ c.sat + 1 →
      0 < s.get (F.RXF_CH_STAT_RANGE_NOW p (ch % 64)) → Gives (.shotEnd ch sat t1) s (fun t =>
        t.get (F.RXF_CH_CFG_RANGE p (ch % 64)) = (s.get (F.RXF_CH_STAT_RANGE_NOW p (ch % 64)) - 1) % 4 ∧
        t.get (F.RXF_CH_STAT_RANGE_PEND p (ch % 64)) = 1 ∧
        (chanAt t ch).auto = some (s.get (F.RXF_CH_STAT_RANGE_NOW p (ch % 64)) - 1))) := by
  have heq := execShotEnd_eq (sat := sat) (t1 := t1) hc hp hwin hcur
  have hid : c.id = ch := by
    rw [hc]
    exact chanAt_id s ch
  refine ⟨fun har => ?_, fun har hsat hneed hrange => ?_⟩
  · rw [if_neg (by simp [har])] at heq
    refine ⟨_, heq, ?_, (satCounted_frame s p (ch % 64) sat).other rfl, fun hno => ?_⟩
    · rw [chanAt_setChan]
      exact hid
    · subst hno
      rfl
  · subst hsat
    rw [if_pos har] at heq
    have hframe := satCounted_frame s p (ch % 64) true
    have hneed' : (satCounted s p (ch % 64) true).get (F.RXF_CL_CTRL_AR_SAT p) = s.get (F.RXF_CL_CTRL_AR_SAT p) :=
      hframe _ (by simp only [List.mem_singleton, forall_eq, Fld.key]; omega)
    have hrange' : (satCounted s p (ch % 64) true).get (F.RXF_CH_STAT_RANGE_NOW p (c.id % 64)) =
        s.get (F.RXF_CH_STAT_RANGE_NOW p (ch % 64)) := by
      rw [hid]
      exact hframe _ (by simp only [List.mem_singleton, forall_eq, Fld.key]; omega)
    generalize satCounted s p (ch % 64) true = u at heq hneed' hrange'
    rw [autoRange_lower (c := { c with win := none }) (by rw [hneed']; exact hneed) (by rw [hrange']; exact hrange), hrange'] at heq
    generalize hd : ({ c with
      win := none
      sat := 0
      quiet := 0
      shots := 0
      auto := some (s.get (F.RXF_CH_STAT_RANGE_NOW p (ch % 64)) - 1) } : Chan) = d at heq
    have hdid : d.id = ch := by
      rw [← hd]
      exact hid
    obtain ⟨hchan, -, hpend⟩ := holdRange_parts u p d (s.get (F.RXF_CH_STAT_RANGE_NOW p (ch % 64)) - 1)
    have hset := holdRange_range u (p := p) d (s.get (F.RXF_CH_STAT_RANGE_NOW p (ch % 64)) - 1)
    rw [hdid] at hchan hpend hset
    refine ⟨_, heq, hset, hpend, ?_⟩
    rw [hchan, ← hd]

end

/-! ### The configuration of a channel -/

theorem setNow_committed (s : State) (f : Fld) (v : Nat) : committed (setNow s f v) = committed s := by
  rw [setNow_eq]
  rfl

/-- Without a committed configuration and without frames a register's writable fields take what is written at once. -/
theorem writeFields_free {s : State} {off : Nat} {fs : List (Fld × Acc)} (hfs : ∀ e ∈ fs, e.2 = .rw ∨ e.2 = .rwl)
    (hmode : s.mode.scanning = false) (hcfg : committed s = false) (v : Nat) :
    writeFields s off fs v = setAll (fs.map (·.1)) (·.of v) s := by
  have hlog : lockLog s off fs v = s := if_pos (by simp [hcfg])
  have hstage (a : Acc) : stageOf s off a = none := if_pos (by simp [hmode])
  unfold writeFields
  rw [hlog]
  clear hlog
  simp only [hstage]
  clear hstage hmode
  induction fs generalizing s with
  | nil => rfl
  | cons e l ih =>
    have hone : writeField s none v e = setNow s e.1 (e.1.of v) := by
      unfold writeField
      rcases hfs e List.mem_cons_self with he | he
      · rw [he]
      · rw [he]
        exact if_neg (by simp [hcfg])
    rw [List.foldl_cons, hone, ih (fun e he => hfs e (List.mem_cons_of_mem _ he)) (by rw [setNow_committed, hcfg])]
    rfl

/-- The fields of RXF_CH_CFG that take a write at once. -/
def chCfgFields (p j : Nat) : List Fld := [F.RXF_CH_CFG_EDGE_MODE p j, F.RXF_CH_CFG_T1 p j, F.RXF_CH_CFG_T0 p j, F.RXF_CH_CFG_AR_EN p j]

/-- The number of the channel record that a write of RXF_CH_CFG acts on. -/
def cfgChannel (p n j : Nat) : Nat := if p = 16 && n < 16 then 64 * n + j else 64 * p + j

/-- A change of the edge mode or of a threshold is noted as waiting for a slot start. -/
def edgeNoted (s t : State) (p n j v : Nat) : State :=
  if !committed s && [F.RXF_CH_CFG_EDGE_MODE p j, F.RXF_CH_CFG_T1 p j, F.RXF_CH_CFG_T0 p j].any fun f => f.of v != s.get f then
    (setChan t { chanAt t (cfgChannel p n j) with wait := true }).set (F.RXF_CH_STAT_RANGE_PEND p j) 1
  else t

theorem edgeNoted_frame (s t : State) (p n j v : Nat) : RegFrame [F.RXF_CH_STAT_RANGE_PEND p j] t (edgeNoted s t p n j v) := by
  unfold edgeNoted
  split
  · exact RegFrame.set (t := setChan t _) (fun _ _ => rfl) 1 (by simp)
  · exact .refl _ t

theorem writeChCfg_range {s : State} {n j v p : Nat} (hw : writeWindow s n = some p) (hmode : s.mode.scanning = false)
    (hcfg : committed s = false) (hedge : (F.RXF_CH_CFG_EDGE_MODE p j).of v < 2)
    (hrange : (F.RXF_CH_CFG_RANGE p j).of v ≠ s.get (F.RXF_CH_CFG_RANGE p j)) :
    writeChCfg s n j v = holdRange (edgeNoted s (setAll (chCfgFields p j) (·.of v) s) p n j v) p
      { chanAt (edgeNoted s (setAll (chCfgFields p j) (·.of v) s) p n j v) (cfgChannel p n j) with
        host := some ((F.RXF_CH_CFG_RANGE p j).of v) } ((F.RXF_CH_CFG_RANGE p j).of v) := by
  unfold writeChCfg
  rw [hw]
  dsimp only
  rw [if_neg (by omega), if_neg hrange, writeFields_free (by simp) hmode hcfg]
  rfl

theorem chCfgWrite_clause (s : State) (n : Fin 17) (j : Fin 64) (value : Dword) (p : Nat) (hw : writeWindow s n = some p)
    (hmode : s.mode.scanning = false) (hcfg : committed s = false) (hedge : (F.RXF_CH_CFG_EDGE_MODE p j).of value.toNat < 2)
    (hrange : (F.RXF_CH_CFG_RANGE p j).of value.toNat ≠ s.get (F.RXF_CH_CFG_RANGE p j)) :
    Gives (.rxfChCfgWrite n j value) s (fun t =>
      t.get (F.RXF_CH_CFG_RANGE p j) = (F.RXF_CH_CFG_RANGE p j).of value.toNat ∧ t.get (F.RXF_CH_STAT_RANGE_PEND p j) = 1 ∧
      t.get (F.RXF_CH_CFG_T0 p j) = (F.RXF_CH_CFG_T0 p j).of value.toNat ∧
      t.get (F.RXF_CH_CFG_AR_EN p j) = (F.RXF_CH_CFG_AR_EN p j).of value.toNat ∧
      RegFrame [F.RXF_CH_CFG_EDGE_MODE p j, F.RXF_CH_CFG_T1 p j, F.RXF_CH_CFG_T0 p j, F.RXF_CH_CFG_AR_EN p j,
        F.RXF_CH_CFG_RANGE p j, F.RXF_CH_STAT_RANGE_PEND p j] s t) := by
  refine ⟨_, rfl, ?_⟩
  rw [writeChCfg_range hw hmode hcfg hedge hrange]
  generalize value.toNat = v at hedge hrange ⊢
  have hdist : (chCfgFields p j).Pairwise fun a b => a.key ≠ b.key := by simp [chCfgFields, Fld.key]
  have htaken := (setAll_takes (chCfgFields p j) (·.of v) s).2
  have hT0 : (setAll (chCfgFields p j) (·.of v) s).get (F.RXF_CH_CFG_T0 p j) = _ :=
    setAll_get hdist (·.of v) (by simp [chCfgFields]) s
  have hAr : (setAll (chCfgFields p j) (·.of v) s).get (F.RXF_CH_CFG_AR_EN p j) = _ :=
    setAll_get hdist (·.of v) (by simp [chCfgFields]) s
  rw [of_mod] at hT0 hAr
  generalize setAll (chCfgFields p j) (·.of v) s = t at htaken hT0 hAr ⊢
  have hnoted := edgeNoted_frame s t p n j v
  generalize edgeNoted s t p n j v = u at hnoted ⊢
  have hid : (chanAt u (cfgChannel p n j)).id % 64 = j := by
    rw [chanAt_id]
    unfold cfgChannel
    split <;> omega
  generalize hd : ({ chanAt u (cfgChannel p n j) with host := some ((F.RXF_CH_CFG_RANGE p j).of v) } : Chan) = d
  have hdid : d.id % 64 = j := by
    rw [← hd]
    exact hid
  obtain ⟨-, hheld, hpend⟩ := holdRange_parts u p d ((F.RXF_CH_CFG_RANGE p j).of v)
  have hset := holdRange_range u (p := p) d ((F.RXF_CH_CFG_RANGE p j).of v)
  rw [hdid] at hheld hpend hset
  refine ⟨hset.trans (of_mod _ _), hpend, ?_, ?_, ?_⟩
  · rw [hheld _ (by simp [Fld.key]; omega), hnoted _ (by simp [Fld.key]; omega)]
    exact hT0
  · rw [hheld _ (by simp [Fld.key]; omega), hnoted _ (by simp [Fld.key]; omega)]
    exact hAr
  · refine ((htaken.subset ?_).trans (hnoted.subset ?_)).trans (hheld.subset ?_) <;> simp +contextual [chCfgFields]

/-! ### Waveform slices -/

section
variable (s : State) (n : Nat)

theorem sliceAt_setSlice {x : Slice} (h : x.n = n) : sliceAt (setSlice s n (some x)) n = some x := by
  unfold sliceAt setSlice
  exact List.find?_cons_of_pos (by simp [h])

theorem sliceAt_n {n : Nat} {x : Slice} (h : sliceAt s n = some x) : x.n = n := by
  simpa using List.find?_some h

theorem setSlice_regs (x : Option Slice) : (setSlice s n x).regs = s.regs := rfl

/-- The fields of a slice's attachment. -/
def obsFields (n : Nat) : List Fld := [F.RXF_OBS_PIN n, F.RXF_OBS_CHANNEL n, F.RXF_OBS_OFFSET n, F.RXF_OBS_NAVG n]

theorem setAttach_frame (v : Nat) : RegFrame (obsFields n) s (setAttach s n v) := by
  unfold setAttach
  exact (((RegFrame.refl _ s).put (f := F.RXF_OBS_PIN n) (bit v 31) (by simp [obsFields])).set (f := F.RXF_OBS_NAVG n) (bits v 24 4)
    (by simp [obsFields])).set (f := F.RXF_OBS_OFFSET n) (bits v 16 8) (by simp [obsFields]) |>.set (f := F.RXF_OBS_CHANNEL n)
    (bits v 0 10) (by simp [obsFields])

theorem setAttach_get (v : Nat) : (setAttach s n v).get (F.RXF_OBS_PIN n) = b2n (bit v 31) ∧
    (setAttach s n v).get (F.RXF_OBS_CHANNEL n) = bits v 0 10 ∧ (setAttach s n v).get (F.RXF_OBS_OFFSET n) = bits v 16 8 ∧
    (setAttach s n v).get (F.RXF_OBS_NAVG n) = bits v 24 4 := by
  unfold setAttach
  simp only [State.put, get_set_same, get_set_other _ _ (show (F.RXF_OBS_PIN n).key ≠ (F.RXF_OBS_NAVG n).key by simp [Fld.key]),
    get_set_other _ _ (show (F.RXF_OBS_PIN n).key ≠ (F.RXF_OBS_OFFSET n).key by simp [Fld.key]),
    get_set_other _ _ (show (F.RXF_OBS_PIN n).key ≠ (F.RXF_OBS_CHANNEL n).key by simp [Fld.key]),
    get_set_other _ _ (show (F.RXF_OBS_OFFSET n).key ≠ (F.RXF_OBS_CHANNEL n).key by simp [Fld.key]),
    get_set_other _ _ (show (F.RXF_OBS_NAVG n).key ≠ (F.RXF_OBS_OFFSET n).key by simp [Fld.key]),
    get_set_other _ _ (show (F.RXF_OBS_NAVG n).key ≠ (F.RXF_OBS_CHANNEL n).key by simp [Fld.key])]
  refine ⟨?_, Nat.mod_mod _ _, Nat.mod_mod _ _, Nat.mod_mod _ _⟩
  cases bit v 31 <;> rfl

theorem obsWrite_attaches {v : Nat} (hpin : bit v 31 = true) (hroom : slicesOn s n (bits v 0 10) < 2) (hfree : sliceAt s n = none) :
    writeObs s n v = setSlice (setAttach s n v) n (some ⟨n, sliceShots (setAttach s n v) n, none, none⟩) := by
  unfold writeObs
  dsimp only
  rw [if_neg (by simp [hroom]), hfree]
  exact if_pos hpin

end

theorem obsWrite_clause (s : State) (n : Fin 32) (value : Dword) (hpin : bit value.toNat 31 = true)
    (hroom : slicesOn s n (bits value.toNat 0 10) < 2) (hfree : sliceAt s n = none) : Gives (.rxfObsWrite n value) s (fun t =>
      t.get (F.RXF_OBS_PIN n) = 1 ∧ t.get (F.RXF_OBS_CHANNEL n) = bits value.toNat 0 10 ∧
      t.get (F.RXF_OBS_OFFSET n) = bits value.toNat 16 8 ∧ t.get (F.RXF_OBS_NAVG n) = bits value.toNat 24 4 ∧
      sliceAt t n = some ⟨n, 2 ^ min 10 (bits value.toNat 24 4), none, none⟩ ∧
      RegFrame [F.RXF_OBS_PIN n, F.RXF_OBS_CHANNEL n, F.RXF_OBS_OFFSET n, F.RXF_OBS_NAVG n] s t) := by
  refine ⟨_, rfl, ?_⟩
  rw [obsWrite_attaches s n hpin hroom hfree]
  obtain ⟨hp, hch, hoff, hnavg⟩ := setAttach_get s n value.toNat
  have hframe := setAttach_frame s n value.toNat
  have hshots : sliceShots (setAttach s n value.toNat) n = 2 ^ min 10 (bits value.toNat 24 4) := congrArg (2 ^ min 10 ·) hnavg
  rw [hpin] at hp
  rw [hshots]
  generalize setAttach s n value.toNat = t at hp hch hoff hnavg hframe ⊢
  exact ⟨hp, hch, hoff, hnavg, sliceAt_setSlice t n rfl, hframe.other rfl⟩

/-- A field of a list of which each is set to a value of its own has that value. -/
theorem get_foldl_setEach {α : Type} {l : List α} {f : α → Fld} (hl : l.Pairwise fun a b => (f a).key ≠ (f b).key) {a : α} (ha : a ∈ l)
    (v : α → Nat) (s : State) : (l.foldl (fun (t : State) b => t.set (f b) (v b)) s).get (f a) = v a % 2 ^ (f a).width := by
  induction l generalizing s with
  | nil => cases ha
  | cons b l ih =>
    obtain ⟨hb, hl⟩ := List.pairwise_cons.1 hl
    rw [List.foldl_cons]
    rcases List.mem_cons.1 ha with rfl | ha
    · have hrest : RegFrame (l.map f) (s.set (f a) (v a)) (l.foldl (fun (t : State) b => t.set (f b) (v b)) (s.set (f a) (v a))) :=
        RegFrame.foldlMem _ _ (.refl _ _) fun u x hx hu => hu.set _ (List.mem_map_of_mem hx)
      rw [hrest _ (by simpa using hb)]
      exact get_set_same s (f a) (v a)
    · exact ih hl ha _

/-- The readable copy of a slice's average, with its DONE bit. -/
def averaged (s : State) (n : Nat) (sums : List Nat) : State :=
  ((List.range 256).foldl (fun t i => t.set (F.RXF_WS_ACC n i) (sums.getD i 0)) s).set F.RXF_WS_DONE (setBit (s.get F.RXF_WS_DONE) n)

theorem averaged_get (s : State) (n : Nat) (sums : List Nat) {i : Nat} (hi : i < 256) :
    (averaged s n sums).get (F.RXF_WS_ACC n i) = sums.getD i 0 % 2 ^ (F.RXF_WS_ACC n i).width := by
  have hdist : (List.range 256).Pairwise fun a b => (F.RXF_WS_ACC n a).key ≠ (F.RXF_WS_ACC n b).key := by
    refine List.nodup_range.imp fun {a b} hab => ?_
    simp only [Fld.key]
    omega
  unfold averaged
  rw [get_set_other (f := F.RXF_WS_DONE) (g := F.RXF_WS_ACC n i) _ _ (by simp only [Fld.key]; omega)]
  exact get_foldl_setEach (f := F.RXF_WS_ACC n) hdist (List.mem_range.2 hi) (fun i => sums.getD i 0) s

theorem averaged_done (s : State) (n : Fin 32) (sums : List Nat) : ((averaged s n sums).get F.RXF_WS_DONE).testBit n = true := by
  unfold averaged
  rw [get_set_same, Nat.testBit_mod_two_pow, testBit_setBit_same, Bool.and_true]
  exact decide_eq_true n.isLt

theorem averaged_mode (s : State) (n : Nat) (sums : List Nat) : (averaged s n sums).mode = s.mode := by
  unfold averaged
  refine (State.set_mode _ _ _).trans ?_
  induction List.range 256 generalizing s with
  | nil => rfl
  | cons i l ih => exact ih _

theorem execSliceAverageDone_host {s : State} {n : Fin 32} {x : Slice} (hx : sliceAt s n = some x) (hleft : x.left = 0)
    (hhost : s.flag (F.RXF_OBS_ENGINE n) = false) (sums : List Nat) : execSliceAverageDone n sums s =
      .next (setSlice (averaged s n sums) n (some { x with left := sliceShots s n })) := by
  unfold execSliceAverageDone
  dsimp only
  rw [hx]
  dsimp only
  rw [if_neg (by simp [hleft]), if_neg (by simp [hhost])]
  rfl

theorem sliceAverage_clause (s : State) (n : Fin 32) (sums : List Nat) (x : Slice) (hx : sliceAt s n = some x) (hleft : x.left = 0)
    (hhost : s.flag (F.RXF_OBS_ENGINE n) = false) : Gives (.sliceAverageDone n sums) s (fun t =>
      (∀ i < 256, t.get (F.RXF_WS_ACC n i) = sums.getD i 0 % 2 ^ (F.RXF_WS_ACC n i).width) ∧
      (t.get F.RXF_WS_DONE).testBit n = true ∧ sliceAt t n = some { x with left := sliceShots s n } ∧ t.mode = s.mode) := by
  refine ⟨_, execSliceAverageDone_host hx hleft hhost sums, ?_⟩
  have hacc (i : Nat) (hi : i < 256) := averaged_get s n sums hi
  have hdone := averaged_done s n sums
  have hmode := averaged_mode s n sums
  generalize averaged s n sums = t at hacc hdone hmode ⊢
  have hn : x.n = n := sliceAt_n s hx
  exact ⟨hacc, hdone, sliceAt_setSlice t n hn, hmode⟩

/-! ### The bias loop -/

section
variable (s : State)

/-- The state with the fields of RXF_APDB_CTRL written. -/
def apdbWritten (v : Nat) : State := (s.set F.RXF_APDB_CTRL_DMAX v).put F.RXF_APDB_CTRL_EN (bit v 8)

/-- The loop stays off after a trip, until no bit of a trip is set and EN is written 1. -/
def staysOff (v : Nat) : Bool := s.rxf.apdbOff && !(bit v 8 && !s.flag F.RXF_APDB_STAT_OV && !s.flag F.RXF_APDB_STAT_OPEN)

theorem writeApdbCtrl_eq (v : Nat) : writeApdbCtrl s v =
    if bit v 8 && !staysOff s v then
      endFault (endFault { apdbWritten s v with rxf := { s.rxf with apdbOff := staysOff s v } } 0x0406 31) 0x0406 30
    else { apdbWritten s v with rxf := { s.rxf with apdbOff := staysOff s v } } := rfl

/-- What a write of RXF_APDB_CTRL leaves, whether or not records of a trip end with it. -/
theorem writeApdbCtrl_parts (v : Nat) : RegFrame [] (apdbWritten s v) (writeApdbCtrl s v) ∧
    (writeApdbCtrl s v).rxf = { s.rxf with apdbOff := staysOff s v } ∧ (writeApdbCtrl s v).mode = s.mode := by
  rw [writeApdbCtrl_eq]
  split
  · exact ⟨.endFault (.endFault (fun _ _ => rfl) _ _) _ _, rfl, rfl⟩
  · exact ⟨fun _ _ => rfl, rfl, rfl⟩

theorem apdbCtrlWrite_clause (value : Dword) : Gives (.apdbCtrlWrite value) s (fun t =>
    t.get F.RXF_APDB_CTRL_EN = b2n (bit value.toNat 8) ∧
    t.get F.RXF_APDB_CTRL_DMAX = value.toNat % 2 ^ F.RXF_APDB_CTRL_DMAX.width ∧
    RegFrame [F.RXF_APDB_CTRL_DMAX, F.RXF_APDB_CTRL_EN] s t ∧ t.mode = s.mode ∧
    (bit value.toNat 8 = false → t.rxf = s.rxf) ∧
    (bit value.toNat 8 = true → s.flag F.RXF_APDB_STAT_OV = false → s.flag F.RXF_APDB_STAT_OPEN = false →
      t.rxf = { s.rxf with apdbOff := false })) := by
  refine ⟨_, rfl, ?_⟩
  obtain ⟨hregs, hrxf, hmode⟩ := writeApdbCtrl_parts s value.toNat
  have hwritten : RegFrame [F.RXF_APDB_CTRL_DMAX, F.RXF_APDB_CTRL_EN] s (apdbWritten s value.toNat) :=
    ((RegFrame.refl _ s).set (f := F.RXF_APDB_CTRL_DMAX) _ (by simp)).put (f := F.RXF_APDB_CTRL_EN) _ (by simp)
  refine ⟨?_, ?_, hwritten.trans (hregs.subset (by simp)), hmode, fun hoff => ?_, fun hon hov hopen => ?_⟩
  · rw [hregs _ (by simp)]
    refine (get_set_same _ _ _).trans ?_
    cases bit value.toNat 8 <;> rfl
  · rw [hregs _ (by simp)]
    exact (get_put_other _ _ (by decide)).trans (get_set_same _ _ _)
  · rw [hrxf]
    simp [staysOff, hoff]
  · rw [hrxf]
    simp [staysOff, hon, hov, hopen]

theorem apdbSettled_clause (settled : Bool) (sense : Nat) : Gives (.apdbSettledChange settled sense) s (fun t =>
    t.get F.RXF_APDB_STAT_SENSE = min sense 4095 ∧ RegsOnly [F.RXF_APDB_STAT_SETTLED, F.RXF_APDB_STAT_SENSE] s t ∧
    (settled = true → apdbRuns s = true → 200 * biasError256 s sense ≤ (effTarget256 s).natAbs → t.get F.RXF_APDB_STAT_SETTLED = 1) ∧
    (settled = false → (effTarget256 s).natAbs < 50 * biasError256 s sense → t.get F.RXF_APDB_STAT_SETTLED = 0)) := by
  have hsense : (s.set F.RXF_APDB_STAT_SENSE (min sense 4095)).get F.RXF_APDB_STAT_SENSE = min sense 4095 :=
    (get_set_same _ _ _).trans (Nat.mod_eq_of_lt (Nat.lt_succ_of_le (Nat.min_le_right _ _)))
  have honly := RegsOnly.set (.refl [F.RXF_APDB_STAT_SETTLED, F.RXF_APDB_STAT_SENSE] s) (f := F.RXF_APDB_STAT_SENSE) (min sense 4095)
    (by simp)
  refine ⟨_, rfl, ?_⟩
  dsimp only
  split
  next h =>
    refine ⟨(get_put_other _ _ (by decide)).trans hsense, honly.set _ (by simp), fun hset _ _ => ?_, fun hset _ => ?_⟩ <;>
      subst hset <;> exact get_set_same _ _ _
  next h =>
    refine ⟨hsense, honly, fun hset hruns hnear => absurd ?_ h, fun hset hfar => absurd ?_ h⟩
    · simp [hset, hruns, hnear]
    · simp [hset, hfar]

/-- A loop that trips: the reading, the bit of the trip, the stop, and its F2 fault. -/
theorem execApdbTrip_stops (opened : Bool) (sense : Nat) (hruns : apdbRuns s = true)
    (h : if opened = true then 20 * (256 * Int.ofNat sense) < effTarget256 s else s.get F.RXF_APDB_CFG_LIMIT < sense) (f : Fld)
    (hf : f = if opened = true then F.RXF_APDB_STAT_OPEN else F.RXF_APDB_STAT_OV) : Gives (.apdbTrip ⟨opened, sense⟩) s (fun t =>
      t.rxf = { s.rxf with apdbOff := true } ∧ t.get f = 1 ∧ t.get F.RXF_APDB_STAT_SENSE = min sense 4095 ∧ t.mode = s.mode ∧
      RegFrame ([F.RXF_APDB_STAT_SENSE, f] ++ faultFields 2) s t) := by
  have heq : execApdbTrip ⟨opened, sense⟩ s = .next (raiseFault
      { (s.set F.RXF_APDB_STAT_SENSE (min sense 4095)).set f 1 with rxf := { s.rxf with apdbOff := true } } 2 0x0406
      (if opened = true then 30 else 31)) := by
    refine (if_neg ?_ : execApdbTrip ⟨opened, sense⟩ s = _).trans ?_
    · cases opened <;> simpa [hruns] using h
    · subst hf
      cases opened <;> rfl
  have hkey : F.RXF_APDB_STAT_SENSE.key ≠ f.key := by
    rw [hf]
    split <;> decide
  have hwidth : f.width = 1 := by
    rw [hf]
    split <;> rfl
  have hout : ∀ g ∈ faultFields 2, f.key ≠ g.key := by
    rw [hf]
    cases opened <;> decide
  have hset := RegFrame.set (RegFrame.set (.refl ([F.RXF_APDB_STAT_SENSE, f] ++ faultFields 2) s) (f := F.RXF_APDB_STAT_SENSE)
    (min sense 4095) (by simp)) (f := f) 1 (by simp)
  have hone : ((s.set F.RXF_APDB_STAT_SENSE (min sense 4095)).set f 1).get f = 1 := by
    rw [get_set_same, hwidth] <;> rfl
  have hsense : ((s.set F.RXF_APDB_STAT_SENSE (min sense 4095)).set f 1).get F.RXF_APDB_STAT_SENSE = min sense 4095 := by
    rw [get_set_other _ _ hkey, get_set_same]
    exact Nat.mod_eq_of_lt (Nat.lt_succ_of_le (Nat.min_le_right _ _))
  have hmode : ((s.set F.RXF_APDB_STAT_SENSE (min sense 4095)).set f 1).mode = s.mode := rfl
  generalize (s.set F.RXF_APDB_STAT_SENSE (min sense 4095)).set f 1 = t at heq hset hone hsense hmode
  have hkept := RegFrame.raise (RegFrame.refl (faultFields 2) { t with rxf := { s.rxf with apdbOff := true } }) 2 0x0406
    (if opened = true then 30 else 31) (fun _ h => h)
  refine ⟨_, heq, raiseFault_rxf _ _ _ _, (hkept f hout).trans hone, (hkept _ (by decide)).trans hsense,
    (raiseFault_mode _ _ _ _).trans hmode, (hset.other rfl).trans (hkept.subset (by simp +contextual))⟩

end

/-- Settles O53: a clause for each operation of a channel, of the slices and of the bias loop. -/
theorem returnFrontEnd : Obligations.ReturnFrontEnd := by
  unfold Obligations.ReturnFrontEnd
  intro s
  refine ⟨returnEdge_clause s, fun ch width t1 ref own others hcur => ⟨s, ?_, rfl⟩, fun ch width x t1 own others c hc hcur hwin => ?_,
    eventWord_clause s, fun ch sat t1 hwin => ⟨s, if_pos (by simp [hwin]), rfl⟩, fun ch sat t1 c p => shotEnd_clause,
    chCfgWrite_clause s, fun n value hpin hfull => ⟨s, ?_, rfl⟩, obsWrite_clause s, fun n sums hnone => ⟨s, ?_, rfl⟩,
    sliceAverage_clause s, apdbCtrlWrite_clause s, apdbSettled_clause s, fun sense hruns hover => ?_, fun sense hruns hunder => ?_⟩
  · change execEventWordFormed ch width t1 own others ref s = .next s
    unfold execEventWordFormed
    dsimp only
    rw [hcur]
  · subst hc
    refine ⟨_, ?_, rfl⟩
    change execEventWordFormed ch width t1 own others false s = _
    unfold execEventWordFormed
    dsimp only
    rw [hcur]
    exact if_pos (by simp [hwin])
  · exact congrArg Host.Outcome.next (if_pos (by simp [hpin, hfull]))
  · change execSliceAverageDone n sums s = .next s
    unfold execSliceAverageDone
    dsimp only
    rw [hnone]
  · exact execApdbTrip_stops s false sense hruns hover _ rfl
  · exact execApdbTrip_stops s true sense hruns hunder _ rfl

end Sys2Proof.Machine

/-! ## Clusters, sparing and the impedance check (R79, R183 to R190, R195, R326) -/
namespace Sys2Proof.Machine

/-! ### A front-end fault -/

/-- The registers that the withdrawal of a cluster changes. -/
def withdrawFields (n : Nat) : List Fld := F.RXF_CL_STATUS_WITHDRAWN n :: (faultFields 2 ++ noteFields)

theorem withdrawn_apart (n : Nat) : ∀ g ∈ faultFields 2 ++ noteFields, (F.RXF_CL_STATUS_WITHDRAWN n).key ≠ g.key := by
  simp only [faultFields, noteFields, Fld.key, List.cons_append, List.nil_append, List.forall_mem_cons]
  refine ⟨?_, ?_, ?_, ?_, ?_, ?_, ?_, ?_, ?_, ?_, ?_, ?_, ?_, ?_, by simp⟩ <;> omega

theorem withdrawCluster_parts (s : State) (n code : Nat) : (withdrawCluster s n code).get (F.RXF_CL_STATUS_WITHDRAWN n) = 1 ∧
    RegFrame (withdrawFields n) s (withdrawCluster s n code) ∧ (withdrawCluster s n code).mode = s.mode := by
  unfold withdrawCluster
  have hset : RegFrame (withdrawFields n) s (s.set (F.RXF_CL_STATUS_WITHDRAWN n) 1) := (RegFrame.refl _ s).set 1 (by simp [withdrawFields])
  have hone := get_set_same s (F.RXF_CL_STATUS_WITHDRAWN n) 1
  have hmode : (s.set (F.RXF_CL_STATUS_WITHDRAWN n) 1).mode = s.mode := rfl
  generalize s.set (F.RXF_CL_STATUS_WITHDRAWN n) 1 = t at hset hone hmode ⊢
  have hraise := RegFrame.raise (RegFrame.refl (faultFields 2) t) 2 code n (fun _ h => h)
  have hmode' := raiseFault_mode t 2 code n
  generalize raiseFault t 2 code n = u at hraise hmode' ⊢
  have hnotes := openGaps_notes u (clusterDirs s n) false
  generalize openGaps u (clusterDirs s n) false = v at hnotes ⊢
  have hall : RegFrame (faultFields 2 ++ noteFields) t v := (hraise.subset (by simp +contextual)).trans (hnotes.frame.subset (by simp +contextual))
  refine ⟨(hall _ (withdrawn_apart n)).trans hone, hset.trans (hall.subset (by simp +contextual [withdrawFields])), ?_⟩
  rw [hnotes.eq]
  exact hmode'.trans hmode

/-- The state with a front-end fault noted: its flag, and its cluster out of the grooms. -/
def feMarked (s : State) (n : Nat) : State :=
  if inGroom s n then
    (dropFromGrooms (s.set (F.RXF_CL_STATUS_FE_FAULT n) 1) (2 ^ n) true).set F.CAL_REFUSED (s.get F.CAL_REFUSED ||| 2 ^ n)
  else s.set (F.RXF_CL_STATUS_FE_FAULT n) 1

/-- CLS is engaged for a cluster that fails. -/
def spareFault (t : State) (n : Nat) : State := raiseFault (stopClsGroom (routeCls t n)) 1 0x0401 n

theorem feFault_cluster {s : State} {n : Nat} (h : s.flag (F.RXF_CL_STATUS_FE_FAULT n) = false) (hn : n < 16) : feFault s n =
    if s.flag F.RXF_SPARE_CTRL && s.get F.RXF_SPARE_STATUS_PHASE = 0 then spareFault (feMarked s n) n
    else withdrawCluster (feMarked s n) n 0x0402 := by
  unfold feFault
  rw [if_neg (by simp [h])]
  exact if_neg (by omega)

theorem feFault_cls {s : State} (h : s.flag (F.RXF_CL_STATUS_FE_FAULT 16) = false) (hg : inGroom s 16 = false) : feFault s 16 =
    if s.get F.RXF_SPARE_STATUS_PHASE = 0 then
      raiseFault ((s.set (F.RXF_CL_STATUS_FE_FAULT 16) 1).set F.RXF_SPARE_STATUS_PHASE 5) 0 0x0404 0
    else if s.get F.RXF_SPARE_STATUS_PHASE = 1 || s.get F.RXF_SPARE_STATUS_PHASE = 2 then
      withdrawCluster ((s.set (F.RXF_CL_STATUS_FE_FAULT 16) 1).set F.RXF_SPARE_STATUS_PHASE 5) (s.get F.RXF_SPARE_STATUS_ROUTE) 0x0402
    else if s.get F.RXF_SPARE_STATUS_PHASE = 3 || s.get F.RXF_SPARE_STATUS_PHASE = 4 then
      withdrawCluster (s.set (F.RXF_CL_STATUS_FE_FAULT 16) 1) (s.get F.RXF_SPARE_STATUS_ROUTE) 0x0405
    else s.set (F.RXF_CL_STATUS_FE_FAULT 16) 1 := by
  unfold feFault
  dsimp only
  rw [if_neg (by simp [h]), if_pos rfl, hg]
  rfl

theorem feMarked_free {s : State} {n : Nat} (hg : inGroom s n = false) : feMarked s n = s.set (F.RXF_CL_STATUS_FE_FAULT n) 1 :=
  if_neg (by simp [hg])

theorem stopClsGroom_free {s : State} (h : ∀ g ∈ s.cal.grooms, bit g.mask 16 = false) : stopClsGroom s = s := by
  unfold stopClsGroom
  rw [List.find?_eq_none.2 fun g hg => by simp [h g hg]]

/-- The registers that the marking of a front-end fault changes. -/
def markFields (n : Nat) : List Fld := F.RXF_CL_STATUS_FE_FAULT n :: F.CAL_REFUSED :: groomFields

theorem dropFromGrooms_parts (s : State) (m : Nat) (refused : Bool) : RegFrame groomFields s (dropFromGrooms s m refused) ∧
    (dropFromGrooms s m refused).mode = s.mode := by
  unfold dropFromGrooms
  dsimp only
  generalize (s.cal.grooms.map fun (g : Groom) =>
    { g with mask := maskOut g.mask m, refused := if refused then g.refused ||| (g.mask &&& m) else g.refused }) = l
  have hall := noteGrooms_only { s with cal := { s.cal with grooms := l } }
  generalize noteGrooms _ = t at hall ⊢
  refine ⟨RegFrame.trans (.other (.refl _ s) rfl) hall.2, ?_⟩
  rw [hall.1]

theorem feMarked_parts (s : State) {n : Nat} (hn : n < 17) : (feMarked s n).get (F.RXF_CL_STATUS_FE_FAULT n) = 1 ∧
    RegFrame (markFields n) s (feMarked s n) ∧ (feMarked s n).mode = s.mode := by
  have hset : RegFrame (markFields n) s (s.set (F.RXF_CL_STATUS_FE_FAULT n) 1) := (RegFrame.refl _ s).set 1 (by simp [markFields])
  have hone := get_set_same s (F.RXF_CL_STATUS_FE_FAULT n) 1
  have hmode : (s.set (F.RXF_CL_STATUS_FE_FAULT n) 1).mode = s.mode := rfl
  unfold feMarked
  generalize s.set (F.RXF_CL_STATUS_FE_FAULT n) 1 = t at hset hone hmode ⊢
  split
  · obtain ⟨hframe, hmode'⟩ := dropFromGrooms_parts t (2 ^ n) true
    generalize dropFromGrooms t (2 ^ n) true = u at hframe hmode' ⊢
    have hsub : RegFrame (markFields n) t u := hframe.subset (by simp +contextual [markFields])
    refine ⟨?_, (hset.trans hsub).set _ (by simp [markFields]), hmode'.trans hmode⟩
    rw [get_set_other (f := F.CAL_REFUSED) (g := F.RXF_CL_STATUS_FE_FAULT n) _ _ (by simp only [Fld.key]; omega),
      hframe _ (by simp only [groomFields, List.forall_mem_cons, Fld.key]; refine ⟨?_, ?_, ?_, by simp⟩ <;> omega)]
    exact hone
  · exact ⟨hone, hset, hmode⟩

/-- The registers that the engagement of CLS changes. -/
def spareFields : List Fld :=
  [F.RXF_SPARE_STATUS_PHASE, F.RXF_SPARE_STATUS_ROUTE, clst 16] ++ (groomFields ++ faultFields 1)

theorem spareFault_parts (t : State) (n : Nat) : RegFrame spareFields t (spareFault t n) ∧ (spareFault t n).mode = t.mode ∧
    (spareFault t n).get F.RXF_SPARE_STATUS_PHASE = 1 ∧ (spareFault t n).get F.RXF_SPARE_STATUS_ROUTE = n % 16 ∧
    (spareFault t n).get (clst 16) = Cl.restarting := by
  have hroute : RegFrame spareFields t (routeCls t n) := by
    unfold routeCls
    exact ((RegFrame.set (.refl _ t) (f := F.RXF_SPARE_STATUS_PHASE) 1 (by simp [spareFields])).set (f := F.RXF_SPARE_STATUS_ROUTE) n
      (by simp [spareFields])).set (f := clst 16) _ (by simp [spareFields])
  obtain ⟨hphase, hto, hcls⟩ := routeCls_get t n
  have hmode : (routeCls t n).mode = t.mode := rfl
  unfold spareFault
  generalize routeCls t n = u at hroute hphase hto hcls hmode ⊢
  obtain ⟨hmode', -, hstop⟩ := stopClsGroom_parts u
  generalize stopClsGroom u = v at hmode' hstop ⊢
  have hraise := RegFrame.raise (RegFrame.refl (faultFields 1) v) 1 0x0401 n (fun _ h => h)
  have hmode'' := raiseFault_mode v 1 0x0401 n
  generalize raiseFault v 1 0x0401 n = w at hraise hmode'' ⊢
  have hall : RegFrame (groomFields ++ faultFields 1) u w :=
    (hstop.subset (by simp +contextual)).trans (hraise.subset (by simp +contextual))
  exact ⟨hroute.trans (hall.subset (by simp +contextual [spareFields])), hmode''.trans (hmode'.trans hmode),
    (hall _ (by decide)).trans hphase, (hall _ (by decide)).trans hto, (hall _ (by decide)).trans hcls⟩

theorem faulted_apart_spare : ∀ n < 16, ∀ g ∈ spareFields, (F.RXF_CL_STATUS_FE_FAULT n).key ≠ g.key := by decide

theorem faulted_apart_withdraw (n : Nat) (hn : n < 17) (m : Nat) : ∀ g ∈ withdrawFields m, (F.RXF_CL_STATUS_FE_FAULT n).key ≠ g.key := by
  have hfixed : ∀ n < 17, ∀ g ∈ faultFields 2 ++ noteFields, (F.RXF_CL_STATUS_FE_FAULT n).key ≠ g.key := by decide
  intro g hg
  rcases List.mem_cons.1 hg with rfl | hg
  · simp only [Fld.key]
    omega
  · exact hfixed n hn g hg

/-- All that a front-end fault of a cluster 0 to 15 can write. -/
def feFields (n : Nat) : List Fld := markFields n ++ (spareFields ++ withdrawFields n)

theorem feFault_parts {s : State} {n : Nat} (h : s.flag (F.RXF_CL_STATUS_FE_FAULT n) = false) (hn : n < 16) :
    (feFault s n).get (F.RXF_CL_STATUS_FE_FAULT n) = 1 ∧ RegFrame (feFields n) s (feFault s n) ∧ (feFault s n).mode = s.mode := by
  obtain ⟨hone, hframe, hmode⟩ := feMarked_parts s (n := n) (by omega)
  rw [feFault_cluster h hn]
  generalize feMarked s n = t at hone hframe hmode ⊢
  have hmarked : RegFrame (feFields n) s t := hframe.subset (by simp +contextual [feFields])
  split
  · obtain ⟨hspare, hmode', -⟩ := spareFault_parts t n
    exact ⟨(hspare _ (faulted_apart_spare n hn)).trans hone, hmarked.trans (hspare.subset (by simp +contextual [feFields])),
      hmode'.trans hmode⟩
  · obtain ⟨-, hdraw, hmode'⟩ := withdrawCluster_parts t n 0x0402
    exact ⟨(hdraw _ (faulted_apart_withdraw n (by omega) n)).trans hone, hmarked.trans (hdraw.subset (by simp +contextual [feFields])),
      hmode'.trans hmode⟩

/-- A step over the members of a set of one is that step once. -/
theorem foldl_of_one (f : State → Nat → State) {l : List Nat} {n : Nat} (hl : l.Nodup) (hn : n ∈ l) (s : State) :
    l.foldl (fun t m => if bit (2 ^ n) m then f t m else t) s = f s n := by
  have hskip (r : List Nat) (hr : n ∉ r) (t : State) : r.foldl (fun t m => if bit (2 ^ n) m then f t m else t) t = t := by
    refine List.foldlRecOn r _ (motive := fun u => u = t) rfl fun u hu m hm => ?_
    have hne : n ≠ m := fun e => hr (e ▸ hm)
    rw [bit_two_pow, if_neg (by simp [hne]), hu]
  induction l generalizing s with
  | nil => cases hn
  | cons m r ih =>
    obtain ⟨hm, hr⟩ := List.nodup_cons.1 hl
    rw [List.foldl_cons, bit_two_pow]
    rcases List.mem_cons.1 hn with rfl | hn
    · rw [if_pos (by simp), hskip r hm]
    · have hne : n ≠ m := fun e => hm (e ▸ hn)
      rw [if_neg (by simp [hne]), ih hr hn]

theorem execClusterFeFault_one (s : State) {n : Nat} (hn : n < 17) : execClusterFeFault (2 ^ n) s = .next (feFault s n) :=
  congrArg Host.Outcome.next (foldl_of_one feFault List.nodup_range (List.mem_range.2 hn) s)

theorem feFault_keepsAll (s : State) (n : Nat) : Keeps s (feFault s n) := feFault_keeps n (Keeps.refl s)

theorem clusterFault_clause (s : State) (n : Fin 16) (hno : s.flag (F.RXF_CL_STATUS_FE_FAULT n) = false) (hg : inGroom s n = false) :
    (s.flag F.RXF_SPARE_CTRL = true → s.get F.RXF_SPARE_STATUS_PHASE = 0 → (∀ g ∈ s.cal.grooms, bit g.mask 16 = false) →
      Gives (.clusterFeFault (2 ^ n.val)) s (fun t =>
        t.get (F.RXF_CL_STATUS_FE_FAULT n) = 1 ∧ t.get F.RXF_SPARE_STATUS_PHASE = 1 ∧ t.get F.RXF_SPARE_STATUS_ROUTE = n.val ∧
        t.get (clst 16) = Cl.restarting ∧ t.mode = s.mode ∧
        RegFrame ([F.RXF_CL_STATUS_FE_FAULT n, F.RXF_SPARE_STATUS_PHASE, F.RXF_SPARE_STATUS_ROUTE, clst 16] ++ faultFields 1) s t)) ∧
    (s.flag F.RXF_SPARE_CTRL = false ∨ s.get F.RXF_SPARE_STATUS_PHASE ≠ 0 → Gives (.clusterFeFault (2 ^ n.val)) s (fun t =>
      t.get (F.RXF_CL_STATUS_FE_FAULT n) = 1 ∧ t.get (F.RXF_CL_STATUS_WITHDRAWN n) = 1 ∧
      t.get F.RXF_SPARE_STATUS_PHASE = s.get F.RXF_SPARE_STATUS_PHASE ∧ t.mode = s.mode ∧ Keeps s t)) := by
  obtain ⟨hone, -, hmode⟩ := feFault_parts hno n.isLt
  have hrun := execClusterFeFault_one s (n := n.val) (by omega)
  have hmark := feMarked_free hg
  refine ⟨fun hon hidle hcls => ?_, fun hoff => ?_⟩
  · rw [feFault_cluster hno n.isLt, if_pos (by simp [hon, hidle]), hmark] at hone hmode hrun
    obtain ⟨-, -, hphase, hroute, hst⟩ := spareFault_parts (s.set (F.RXF_CL_STATUS_FE_FAULT n) 1) n
    refine ⟨_, hrun, hone, hphase, hroute.trans (Nat.mod_eq_of_lt n.isLt), hst, hmode, ?_⟩
    have hgrooms : ∀ g ∈ (routeCls (s.set (F.RXF_CL_STATUS_FE_FAULT n) 1) n).cal.grooms, bit g.mask 16 = false := hcls
    unfold spareFault
    rw [stopClsGroom_free hgrooms]
    refine RegFrame.raise ?_ 1 0x0401 n (by simp +contextual)
    exact (((RegFrame.refl _ s).set (f := F.RXF_CL_STATUS_FE_FAULT n) 1 (by simp)).set (f := F.RXF_SPARE_STATUS_PHASE) 1
      (by simp)).set (f := F.RXF_SPARE_STATUS_ROUTE) n (by simp) |>.set (f := clst 16) _ (by simp)
  · have hkeeps := feFault_keepsAll s n
    rw [feFault_cluster hno n.isLt, if_neg (by rcases hoff with h | h <;> simp [h]), hmark] at hone hmode hrun hkeeps
    obtain ⟨hdrawn, hframe, -⟩ := withdrawCluster_parts (s.set (F.RXF_CL_STATUS_FE_FAULT n) 1) n 0x0402
    have happart : ∀ n < 16, (∀ g ∈ withdrawFields n, F.RXF_SPARE_STATUS_PHASE.key ≠ g.key) ∧
      F.RXF_SPARE_STATUS_PHASE.key ≠ (F.RXF_CL_STATUS_FE_FAULT n).key := by decide
    obtain ⟨hph, hfe⟩ := happart n n.isLt
    exact ⟨_, hrun, hone, hdrawn, (hframe _ hph).trans (get_set_other _ _ hfe), hmode, hkeeps⟩

theorem clsFault_clause (s : State) (ph : Nat) (hno : s.flag (F.RXF_CL_STATUS_FE_FAULT 16) = false) (hg : inGroom s 16 = false)
    (hph : ph = s.get F.RXF_SPARE_STATUS_PHASE) :
    (ph = 0 → Gives (.clusterFeFault (2 ^ 16)) s (fun t => t.get (F.RXF_CL_STATUS_FE_FAULT 16) = 1 ∧
      t.get F.RXF_SPARE_STATUS_PHASE = 5 ∧ t.mode = s.mode ∧
      RegFrame ([F.RXF_CL_STATUS_FE_FAULT 16, F.RXF_SPARE_STATUS_PHASE] ++ faultFields 0) s t)) ∧
    (1 ≤ ph → ph ≤ 4 → Gives (.clusterFeFault (2 ^ 16)) s (fun t => t.get (F.RXF_CL_STATUS_FE_FAULT 16) = 1 ∧
      t.get F.RXF_SPARE_STATUS_PHASE = (if ph ≤ 2 then 5 else ph) ∧
      t.get (F.RXF_CL_STATUS_WITHDRAWN (s.get F.RXF_SPARE_STATUS_ROUTE)) = 1 ∧ t.mode = s.mode ∧ Keeps s t)) := by
  have hrun := execClusterFeFault_one s (n := 16) (by omega)
  have hkeeps := feFault_keepsAll s 16
  rw [feFault_cls hno hg, ← hph] at hrun hkeeps
  have hone : (s.set (F.RXF_CL_STATUS_FE_FAULT 16) 1).get (F.RXF_CL_STATUS_FE_FAULT 16) = 1 := get_set_same _ _ _
  have hkept : (s.set (F.RXF_CL_STATUS_FE_FAULT 16) 1).get F.RXF_SPARE_STATUS_PHASE = ph :=
    (get_set_other _ _ (by decide)).trans hph.symm
  have hmode : (s.set (F.RXF_CL_STATUS_FE_FAULT 16) 1).mode = s.mode := rfl
  have hset : RegFrame ([F.RXF_CL_STATUS_FE_FAULT 16, F.RXF_SPARE_STATUS_PHASE] ++ faultFields 0) s
      (s.set (F.RXF_CL_STATUS_FE_FAULT 16) 1) := (RegFrame.refl _ s).set 1 (by simp)
  have hdraw (t : State) (code : Nat) (hfe : t.get (F.RXF_CL_STATUS_FE_FAULT 16) = 1) (hm : t.mode = s.mode) (route : Nat) :
      (withdrawCluster t route code).get (F.RXF_CL_STATUS_FE_FAULT 16) = 1 ∧
      (withdrawCluster t route code).get F.RXF_SPARE_STATUS_PHASE = t.get F.RXF_SPARE_STATUS_PHASE ∧
      (withdrawCluster t route code).get (F.RXF_CL_STATUS_WITHDRAWN route) = 1 ∧ (withdrawCluster t route code).mode = s.mode := by
    obtain ⟨hdrawn, hframe, hmode'⟩ := withdrawCluster_parts t route code
    refine ⟨(hframe _ (faulted_apart_withdraw 16 (by decide) route)).trans hfe, hframe _ fun g hg => ?_, hdrawn, hmode'.trans hm⟩
    rcases List.mem_cons.1 hg with rfl | hg
    · simp only [Fld.key]
      omega
    · exact (by decide : ∀ g ∈ faultFields 2 ++ noteFields, F.RXF_SPARE_STATUS_PHASE.key ≠ g.key) g hg
  generalize s.set (F.RXF_CL_STATUS_FE_FAULT 16) 1 = t at hrun hkeeps hone hkept hmode hset
  have hfe : (t.set F.RXF_SPARE_STATUS_PHASE 5).get (F.RXF_CL_STATUS_FE_FAULT 16) = 1 := (get_set_other _ _ (by decide)).trans hone
  have hfive : (t.set F.RXF_SPARE_STATUS_PHASE 5).get F.RXF_SPARE_STATUS_PHASE = 5 := get_set_same _ _ _
  refine ⟨fun h0 => ?_, fun h1 h4 => ?_⟩
  · rw [if_pos h0] at hrun
    have hset' := hset.set (f := F.RXF_SPARE_STATUS_PHASE) 5 (by simp)
    have hmode' : (t.set F.RXF_SPARE_STATUS_PHASE 5).mode = s.mode := hmode
    generalize t.set F.RXF_SPARE_STATUS_PHASE 5 = u at hrun hset' hfe hfive hmode'
    have hraise := RegFrame.raise (RegFrame.refl (faultFields 0) u) 0 0x0404 0 (fun _ h => h)
    exact ⟨_, hrun, (hraise _ (by decide)).trans hfe, (hraise _ (by decide)).trans hfive, (raiseFault_mode ..).trans hmode',
      hset'.trans (hraise.subset (by simp +contextual))⟩
  · rw [if_neg (by omega)] at hrun hkeeps
    by_cases h2 : ph ≤ 2
    · have hwait : (ph = 1 || ph = 2) = true := by simp; omega
      rw [if_pos hwait] at hrun hkeeps
      obtain ⟨hf, hp, hw, hm⟩ := hdraw _ 0x0402 hfe hmode (s.get F.RXF_SPARE_STATUS_ROUTE)
      exact ⟨_, hrun, hf, by rw [if_pos h2, hp, hfive], hw, hm, hkeeps⟩
    · have hserve : (ph = 3 || ph = 4) = true := by simp; omega
      have hno : ¬(ph = 1 || ph = 2) = true := by simp; omega
      rw [if_neg hno, if_pos hserve] at hrun hkeeps
      obtain ⟨hf, hp, hw, hm⟩ := hdraw _ 0x0405 hone hmode (s.get F.RXF_SPARE_STATUS_ROUTE)
      exact ⟨_, hrun, hf, by rw [if_neg h2, hp, hkept], hw, hm, hkeeps⟩

/-! ### Restarts -/

section
variable (s : State)

theorem spareRestart_clause (h : s.get F.RXF_SPARE_STATUS_PHASE = 1) : Gives .spareRestartDone s (fun t =>
    t.get F.RXF_SPARE_STATUS_PHASE = 2 ∧ t.get (clst 16) = Cl.running ∧ RegsOnly [F.RXF_SPARE_STATUS_PHASE, clst 16] s t) := by
  refine ⟨_, (if_pos h : execSpareRestartDone s = _), ?_, get_set_same _ _ _, ?_⟩
  · exact (get_set_other (f := clst 16) (g := F.RXF_SPARE_STATUS_PHASE) _ _ (by decide)).trans (get_set_same _ _ _)
  · exact ((RegsOnly.refl _ s).set (f := F.RXF_SPARE_STATUS_PHASE) 2 (by simp)).set (f := clst 16) _ (by simp)

theorem clusterRestart_clause (n : Fin 17) (h : s.get (clst n) = Cl.restarting) : Gives (.clusterRestartDone n) s (fun t =>
    t.get (clst n) = (if s.mode = .ready then Cl.cold else Cl.running) ∧ RegsOnly [clst n] s t) := by
  refine ⟨_, (if_pos h : execClusterRestartDone n s = _), ?_, (RegsOnly.refl _ s).set _ (by simp)⟩
  rw [get_set_same, clst_width n n.isLt]
  simp only [beq_iff_eq]
  split <;> rfl

theorem restartStart_clause (n : Fin 16) (hrun : s.sch.running = true) (hcold : s.get (clst (servedBy s n)) = Cl.cold)
    (hneeds : nextNeeds s n = true) (hcap : bit s.sch.capCold n = false ∨ powerEstimate s 0 + 80 ≤ s.get F.SCH_CAP_CAP) :
    Gives (.clusterRestartStart n) s (fun t => t.get (clst (servedBy s n)) = Cl.restarting ∧
      RegFrame [clst (servedBy s n)] s t ∧ t.sch = { s.sch with capCold := clearBit s.sch.capCold n } ∧ t.mode = s.mode) := by
  have hgo : ¬(!s.sch.running || s.get (clst (servedBy s n)) != Cl.cold || !nextNeeds s n
      || (bit s.sch.capCold n && s.get F.SCH_CAP_CAP < powerEstimate s 0 + 80)) = true := by
    rcases hcap with h | h
    · simp [hrun, hcold, hneeds, h]
    · simp [hrun, hcold, hneeds, h]
  refine ⟨_, (if_neg hgo : execClusterRestartStart n s = _), ?_, (RegFrame.setOne s _ _).other rfl, rfl, rfl⟩
  refine (get_set_same s (clst (servedBy s n)) _).trans ?_
  rw [clst_width _ (Nat.lt_succ_of_le (servedBy_le s (by omega)))]
  rfl

theorem restartStart_idle (n : Fin 16) (h : s.sch.running = false ∨ s.get (clst (servedBy s n)) ≠ Cl.cold) :
    execClusterRestartStart n s = .next s := by
  refine (if_pos ?_ : execClusterRestartStart n s = _)
  rcases h with h | h
  · simp [h]
  · simp [h]

end

/-! ### The impedance check -/

/-- The check is over in the states of the front end: BUSY is clear, and the mask of failing clusters stands in FAIL_MASK. -/
def impOver (t : State) : State :=
  { (t.set F.RXF_IMP_STATUS_BUSY 0).set F.RXF_IMP_STATUS_FAIL_MASK (impMask t) with rxf := { t.rxf with impFrom := none } }

/-- The registers that the end of a check changes. -/
def impOverFields : List Fld := [F.RXF_IMP_STATUS_BUSY, F.RXF_IMP_STATUS_FAIL_MASK, F.CMD_ERR_CNT_DISCARD_CNT]

theorem impOver_frame (t : State) : RegFrame impOverFields t (impOver t) := by
  unfold impOver
  exact .other (((RegFrame.refl _ t).set (f := F.RXF_IMP_STATUS_BUSY) 0 (by simp [impOverFields])).set
    (f := F.RXF_IMP_STATUS_FAIL_MASK) _ (by simp [impOverFields])) rfl

theorem impOver_get (t : State) : (impOver t).get F.RXF_IMP_STATUS_BUSY = 0 ∧
    (impOver t).get F.RXF_IMP_STATUS_FAIL_MASK = impMask t % 2 ^ F.RXF_IMP_STATUS_FAIL_MASK.width :=
  ⟨(get_set_other (f := F.RXF_IMP_STATUS_FAIL_MASK) (g := F.RXF_IMP_STATUS_BUSY) _ _ (by decide)).trans (get_set_same _ _ _),
    get_set_same _ _ _⟩

section
variable {s : State} {tones : List Nat} {first again : List ImpMeas} {m : ImpMeas}

/-- What a check judges: the measurements of channels that it covers, and those through CLS where CLS is free. -/
def judged (s : State) (tones : List Nat) (first again : List ImpMeas) : State :=
  (first.filter fun (m : ImpMeas) => impCovers s m.ch).foldl (judgeChannel tones (if clsFree s then again else [])) s

theorem execImpedanceCheckDone_eq (h : s.flag F.RXF_IMP_STATUS_BUSY = true) : execImpedanceCheckDone tones first again s =
    .next (finishRunning (impOver (judged s tones first again)) 0x0902 St.done
      (impMask (judged s tones first again) &&& diagClusters s)) := if_neg (by simp [h])

theorem judged_one (h : impCovers s m.ch = true) :
    judged s tones [m] again = judgeChannel tones (if clsFree s then again else []) s m := by
  unfold judged
  rw [List.filter_cons_of_pos (by exact h)]
  rfl

/-- The end of a check of one channel leaves what the channel's judgement left. -/
theorem check_of_one (hb : s.flag F.RXF_IMP_STATUS_BUSY = true) (hc : impCovers s m.ch = true) {t : State}
    (ht : judgeChannel tones (if clsFree s then again else []) s m = t) (hmode : t.mode = s.mode) {P : State → Prop}
    (hP : ∀ u, u.get F.RXF_IMP_STATUS_BUSY = 0 → u.rxf.impFrom = none → u.mode = s.mode → RegFrame impOverFields t u → P u) :
    Gives (.impedanceCheckDone tones [m] again) s P := by
  refine ⟨_, execImpedanceCheckDone_eq hb, ?_⟩
  rw [judged_one hc, ht]
  have hover := impOver_frame t
  obtain ⟨hbusy, -⟩ := impOver_get t
  have hfrom : (impOver t).rxf.impFrom = none := rfl
  have hmode' : (impOver t).mode = s.mode := hmode
  generalize impOver t = u at hover hbusy hfrom hmode' ⊢
  have hframe := finishRunning_frame u 0x0902 St.done (impMask t &&& diagClusters s)
  have heq := (finishRunning_completes u 0x0902 St.done (impMask t &&& diagClusters s)).eq
  generalize finishRunning u 0x0902 St.done (impMask t &&& diagClusters s) = v at hframe heq ⊢
  refine hP v ((hframe _ (by decide)).trans hbusy) ?_ ?_ (hover.trans (hframe.subset (by simp [impOverFields])))
  · rw [heq]
    exact hfrom
  · rw [heq]
    exact hmode'

/-- The registers of a channel's measurement. -/
def impFields (n j : Nat) : List Fld := [F.RXF_IMP_VALID n j, F.RXF_IMP_PASS n j, F.RXF_IMP_LEAK n j, F.RXF_IMP_CAP n j]

theorem recordImp_parts (s : State) (tones : List Nat) (m : ImpMeas) :
    (recordImp s tones m).get (F.RXF_IMP_VALID (m.ch / 64) (m.ch % 64)) = 1 ∧
    (recordImp s tones m).get (F.RXF_IMP_PASS (m.ch / 64) (m.ch % 64)) = b2n (measPass s tones m) ∧
    RegsOnly (impFields (m.ch / 64) (m.ch % 64)) s (recordImp s tones m) := by
  have hkeys (i j : Nat) : (F.RXF_IMP_VALID i j).key ≠ (F.RXF_IMP_PASS i j).key ∧ (F.RXF_IMP_VALID i j).key ≠ (F.RXF_IMP_LEAK i j).key ∧
      (F.RXF_IMP_VALID i j).key ≠ (F.RXF_IMP_CAP i j).key ∧ (F.RXF_IMP_PASS i j).key ≠ (F.RXF_IMP_LEAK i j).key ∧
      (F.RXF_IMP_PASS i j).key ≠ (F.RXF_IMP_CAP i j).key := by
    simp [Fld.key]
  obtain ⟨hvp, hvl, hvc, hpl, hpc⟩ := hkeys (m.ch / 64) (m.ch % 64)
  unfold recordImp
  dsimp only
  refine ⟨?_, ?_, ?_⟩
  · rw [get_set_other _ _ hvc, get_set_other _ _ hvl, get_put_other _ _ hvp]
    exact get_set_same _ _ _
  · rw [get_set_other _ _ hpc, get_set_other _ _ hpl]
    refine (get_set_same _ _ _).trans ?_
    unfold measPass
    cases impPass s _ _ <;> rfl
  · exact ((((RegsOnly.refl _ s).set (f := F.RXF_IMP_VALID _ _) 1 (by simp [impFields])).set (f := F.RXF_IMP_PASS _ _) _
      (by simp [impFields])).set (f := F.RXF_IMP_LEAK _ _) _ (by simp [impFields])).set (f := F.RXF_IMP_CAP _ _) _ (by simp [impFields])

theorem judge_pass {l : List ImpMeas} (h : measPass s tones m = true) : judgeChannel tones l s m =
    endFault ((recordImp s tones m).set (F.RXF_CH_FAIL (m.ch / 64))
      (clearBit ((recordImp s tones m).get (F.RXF_CH_FAIL (m.ch / 64))) (m.ch % 64))) 0x0403 m.ch := if_pos h

theorem judge_fail (h : measPass s tones m = false) : judgeChannel tones [] s m = elementFault (recordImp s tones m) m.ch :=
  if_neg (by simp [h])

theorem judge_again {x : ImpMeas} (h : measPass s tones m = false) (hx : x.ch = m.ch) (hpass : measPass s tones x = true) :
    judgeChannel tones [x] s m = feFault (recordImp (recordImp s tones m) tones x) (m.ch / 64) := by
  unfold judgeChannel
  dsimp only
  rw [if_neg (by simp [h]), List.find?_cons_of_pos (by simp [hx])]
  exact if_pos hpass

end

theorem covers_cluster {s : State} {ch : Nat} (h : impCovers s ch = true) : ch / 64 < 16 := by
  unfold impCovers at h
  simp only [Bool.and_eq_true, decide_eq_true_eq] at h
  omega

/-- The registers of a measurement and of a channel's failure are none of those that the end of a check or a fault changes. -/
theorem imp_apart : ∀ n < 16, ∀ g ∈ impOverFields ++ faultFields 2,
    (F.RXF_CH_FAIL n).key ≠ g.key ∧ ∀ j < 64, (F.RXF_IMP_VALID n j).key ≠ g.key ∧ (F.RXF_IMP_PASS n j).key ≠ g.key := by
  intro n hn g hg
  have hkeys : ∀ g ∈ impOverFields ++ faultFields 2, g.key < 8 * 0x40000 ∨ 8 * 0x51000 ≤ g.key := by decide
  have hg' := hkeys g hg
  generalize g.key = k at hg'
  simp only [Fld.key]
  refine ⟨by omega, fun j hj => ⟨by omega, by omega⟩⟩

theorem testBit_set_clearBit (s : State) (f : Fld) (w j : Nat) : ((s.set f (clearBit w j)).get f).testBit j = false := by
  rw [get_set_same, Nat.testBit_mod_two_pow, testBit_clearBit_same, Bool.and_false]

theorem testBit_set_setBit (s : State) (f : Fld) (w : Nat) {j : Nat} (h : j < f.width) : ((s.set f (setBit w j)).get f).testBit j = true := by
  rw [get_set_same, Nat.testBit_mod_two_pow, testBit_setBit_same, Bool.and_true]
  exact decide_eq_true h

theorem fail_apart_imp (n j : Nat) (i : Nat) : (F.RXF_IMP_VALID i j).key ≠ (F.RXF_CH_FAIL n).key ∧
    (F.RXF_IMP_PASS i j).key ≠ (F.RXF_CH_FAIL n).key := by
  simp only [Fld.key]
  omega

/-- A cluster's measurement of a channel is none of the registers that a front-end fault writes. -/
theorem pass_apart_fe {n j : Nat} (hn : n < 16) (hj : j < 64) : ∀ g ∈ feFields n, (F.RXF_IMP_PASS n j).key ≠ g.key := by
  have hkeys : ∀ n < 16, ∀ g ∈ feFields n, g.key < 8 * 0x40000 ∨ 8 * 0x51000 ≤ g.key ∨ g.key % (8 * 0x1000) < 8 * 0x300 := by decide
  intro g hg
  have hg' := hkeys n hn g hg
  generalize g.key = k at hg'
  simp only [Fld.key]
  omega

section
variable (s : State) (tones : List Nat) (m : ImpMeas) (hb : s.flag F.RXF_IMP_STATUS_BUSY = true) (hc : impCovers s m.ch = true)
include hb hc

theorem check_pass (again : List ImpMeas) (hp : measPass s tones m = true) : Gives (.impedanceCheckDone tones [m] again) s (fun t =>
    t.get F.RXF_IMP_STATUS_BUSY = 0 ∧ t.get (F.RXF_IMP_VALID (m.ch / 64) (m.ch % 64)) = 1 ∧
    t.get (F.RXF_IMP_PASS (m.ch / 64) (m.ch % 64)) = 1 ∧ t.rxf.impFrom = none ∧
    (t.get (F.RXF_CH_FAIL (m.ch / 64))).testBit (m.ch % 64) = false ∧ t.mode = s.mode) := by
  have hn := covers_cluster hc
  have hj : m.ch % 64 < 64 := by omega
  obtain ⟨hvf, hpf⟩ := fail_apart_imp (m.ch / 64) (m.ch % 64) (m.ch / 64)
  obtain ⟨hvalid, hpass, honly⟩ := recordImp_parts s tones m
  have hmode : (recordImp s tones m).mode = s.mode := by rw [honly.1]
  have heq := judge_pass (l := if clsFree s then again else []) hp
  rw [hp] at hpass
  generalize recordImp s tones m = t at hvalid hpass hmode heq
  refine check_of_one hb hc heq ((endFault_mode ..).trans ((State.set_mode ..).trans hmode)) fun u hbusy hfrom hm hover => ?_
  have hend := RegFrame.endFault (.refl [] (t.set (F.RXF_CH_FAIL (m.ch / 64)) (clearBit (t.get (F.RXF_CH_FAIL (m.ch / 64))) (m.ch % 64))))
    0x0403 m.ch
  have hall := (hend.subset (by simp)).trans hover
  have hap (g : Fld) (hg : g ∈ impOverFields) := imp_apart _ hn g (List.mem_append_left _ hg)
  refine ⟨hbusy, ?_, ?_, hfrom, ?_, hm⟩
  · rw [hall _ fun g hg => ((hap g hg).2 _ hj).1, get_set_other _ _ hvf]
    exact hvalid
  · rw [hall _ fun g hg => ((hap g hg).2 _ hj).2, get_set_other _ _ hpf]
    exact hpass
  · rw [hall _ fun g hg => (hap g hg).1]
    exact testBit_set_clearBit ..

theorem check_fail (hp : measPass s tones m = false) : Gives (.impedanceCheckDone tones [m] []) s (fun t =>
    t.get F.RXF_IMP_STATUS_BUSY = 0 ∧ t.get (F.RXF_IMP_VALID (m.ch / 64) (m.ch % 64)) = 1 ∧
    t.get (F.RXF_IMP_PASS (m.ch / 64) (m.ch % 64)) = 0 ∧ t.rxf.impFrom = none ∧
    (t.get (F.RXF_CH_FAIL (m.ch / 64))).testBit (m.ch % 64) = true ∧ t.mode = s.mode) := by
  have hn := covers_cluster hc
  have hj : m.ch % 64 < 64 := by omega
  obtain ⟨hvf, hpf⟩ := fail_apart_imp (m.ch / 64) (m.ch % 64) (m.ch / 64)
  obtain ⟨hvalid, hpass, honly⟩ := recordImp_parts s tones m
  have hmode : (recordImp s tones m).mode = s.mode := by rw [honly.1]
  have heq := judge_fail hp
  rw [hp] at hpass
  generalize recordImp s tones m = t at hvalid hpass hmode heq
  refine check_of_one hb hc ((congrArg (judgeChannel tones · s m) (ite_self _)).trans heq)
    ((raiseFault_mode ..).trans ((State.set_mode ..).trans hmode)) fun u hbusy hfrom hm hover => ?_
  have hraise := RegFrame.raise (.refl (faultFields 2) (t.set (F.RXF_CH_FAIL (m.ch / 64))
    (setBit (t.get (F.RXF_CH_FAIL (m.ch / 64))) (m.ch % 64)))) 2 0x0403 m.ch (fun _ h => h)
  have hall := (hraise.subset (m := impOverFields ++ faultFields 2) (by simp +contextual)).trans (hover.subset (by simp +contextual))
  have hap := imp_apart _ hn
  refine ⟨hbusy, ?_, ?_, hfrom, ?_, hm⟩
  · rw [hall _ fun g hg => ((hap g hg).2 _ hj).1, get_set_other _ _ hvf]
    exact hvalid
  · rw [hall _ fun g hg => ((hap g hg).2 _ hj).2, get_set_other _ _ hpf]
    exact hpass
  · rw [hall _ fun g hg => (hap g hg).1]
    exact testBit_set_setBit _ _ _ hj

theorem check_again (x : ImpMeas) (hp : measPass s tones m = false) (hcls : clsFree s = true) (hx : x.ch = m.ch)
    (hpx : measPass s tones x = true) (hfe : s.flag (F.RXF_CL_STATUS_FE_FAULT (m.ch / 64)) = false) :
    Gives (.impedanceCheckDone tones [m] [x]) s (fun t =>
      t.get F.RXF_IMP_STATUS_BUSY = 0 ∧ t.get (F.RXF_CL_STATUS_FE_FAULT (m.ch / 64)) = 1 ∧
      t.get (F.RXF_IMP_PASS (m.ch / 64) (m.ch % 64)) = 1 ∧ t.mode = s.mode) := by
  have hn := covers_cluster hc
  have hj : m.ch % 64 < 64 := by omega
  have heq := judge_again hp hx hpx
  obtain ⟨-, -, hfirst⟩ := recordImp_parts s tones m
  have hpass' : measPass (recordImp s tones m) tones x = true := by
    have hleak : (recordImp s tones m).get F.RXF_IMP_CFG_LEAK_MAX = s.get F.RXF_IMP_CFG_LEAK_MAX :=
      hfirst.2 _ (by simp only [impFields, List.forall_mem_cons, Fld.key]; refine ⟨?_, ?_, ?_, ?_, by simp⟩ <;> omega)
    unfold measPass impPass at hpx ⊢
    rw [hleak]
    exact hpx
  have hfe1 : (recordImp s tones m).flag (F.RXF_CL_STATUS_FE_FAULT (m.ch / 64)) = s.flag (F.RXF_CL_STATUS_FE_FAULT (m.ch / 64)) :=
    congrArg (· != 0) (hfirst.2 _ (by simp [impFields, Fld.key]; omega))
  have hmode1 : (recordImp s tones m).mode = s.mode := by rw [hfirst.1]
  generalize recordImp s tones m = t at heq hpass' hfe1 hmode1
  obtain ⟨-, hpass, hsecond⟩ := recordImp_parts t tones x
  have hfe2 : (recordImp t tones x).flag (F.RXF_CL_STATUS_FE_FAULT (m.ch / 64)) = t.flag (F.RXF_CL_STATUS_FE_FAULT (m.ch / 64)) :=
    congrArg (· != 0) (hsecond.2 _ (by rw [hx]; simp [impFields, Fld.key]; omega))
  have hmode2 : (recordImp t tones x).mode = t.mode := by rw [hsecond.1]
  rw [hpass', hx] at hpass
  generalize recordImp t tones x = v at heq hpass hfe2 hmode2
  obtain ⟨hone, hframe, hmode⟩ := feFault_parts (hfe2.trans (hfe1.trans hfe)) hn
  generalize feFault v (m.ch / 64) = w at heq hone hframe hmode
  refine check_of_one hb hc (t := w) (by rw [if_pos hcls]; exact heq) (hmode.trans (hmode2.trans hmode1))
    fun u hbusy _ hm hover => ⟨hbusy, ?_, ?_, hm⟩
  · rw [hover _ (by
      have hk : ∀ n < 16, ∀ g ∈ impOverFields, (F.RXF_CL_STATUS_FE_FAULT n).key ≠ g.key := by decide
      exact hk _ hn)]
    exact hone
  · rw [hover _ fun g hg => ((imp_apart _ hn g (List.mem_append_left _ hg)).2 _ hj).2, hframe _ (pass_apart_fe hn hj)]
    exact hpass

end

theorem check_diag (s : State) (tones : List Nat) (again : List ImpMeas) (c : Cmd) (hb : s.flag F.RXF_IMP_STATUS_BUSY = true)
    (hc : runningCmd s 0x0902 = some c) (hd : c.discard = false) : Gives (.impedanceCheckDone tones [] again) s (fun t =>
      Ends t c St.done (impMask s &&& (c.dw 4 % 2 ^ 17)) ∧ t.get F.RXF_IMP_STATUS_BUSY = 0 ∧ t.rxf.impFrom = none ∧
      t.get F.RXF_IMP_STATUS_FAIL_MASK = impMask s % 2 ^ F.RXF_IMP_STATUS_FAIL_MASK.width) := by
  have hnamed : diagClusters s = c.dw 4 % 2 ^ 17 := by
    unfold diagClusters
    rw [hc]
    rfl
  have hjudged : judged s tones [] again = s := rfl
  refine ⟨_, execImpedanceCheckDone_eq hb, ?_⟩
  rw [hjudged, hnamed]
  obtain ⟨hbusy, hmask⟩ := impOver_get s
  have hfrom : (impOver s).rxf.impFrom = none := rfl
  have hcmd : runningCmd (impOver s) 0x0902 = some c := hc
  generalize impOver s = u at hbusy hmask hfrom hcmd ⊢
  have heq : finishRunning u 0x0902 St.done (impMask s &&& c.dw 4 % 2 ^ 17) = finishOk u c (impMask s &&& c.dw 4 % 2 ^ 17) := by
    unfold finishRunning
    rw [hcmd]
    rfl
  rw [heq]
  refine ⟨ends_ok hd _, ?_⟩
  rw [finishOk_eq hd]
  exact ⟨hbusy, hfrom, hmask⟩

/-- Settles O54: front-end faults, restarts, and the end of the impedance check. -/
theorem clustersAndSparing : Obligations.ClustersAndSparing := by
  unfold Obligations.ClustersAndSparing
  intro s
  refine ⟨fun n hf => ⟨s, ?_, rfl⟩, clusterFault_clause s, clsFault_clause s, spareRestart_clause s, fun hno => ⟨s, if_neg hno, rfl⟩,
    clusterRestart_clause s, fun n hno => ⟨s, if_neg hno, rfl⟩, restartStart_clause s,
    fun n hno => ⟨s, restartStart_idle s n hno, rfl⟩, fun tones first again hidle => ⟨s, if_pos (by simp [hidle]), rfl⟩,
    check_diag s, fun tones m hb hc => ⟨check_pass s tones m hb hc, check_fail s tones m hb hc, check_again s tones m hb hc⟩⟩
  rw [show exec (.clusterFeFault (2 ^ n.val)) s = execClusterFeFault (2 ^ n.val) s from rfl, execClusterFeFault_one s n.isLt]
  exact congrArg Host.Outcome.next (if_pos hf)

end Sys2Proof.Machine

/-! ## A window profile written late in a frame (R210, R691)

Once slot 0 of the next frame has been admitted, a write waits for the boundary after the next one (`lateNow`). -/
namespace Sys2Proof.Machine

/-- SCAN in the last slots of a frame, where the next frame's slots have been admitted. -/
def lateFrameState : State :=
  { State.reset with
    mode := .scan
    sch := { State.reset.sch with running := true, next := State.reset.sch.slots } }

/-- A window from 0 to 100 ticks. -/
def windowValue : Dword := 100 <<< (F.TDC_WIN_PROF_END 0).lsb

/-- Refutes O56: a window profile written in SCAN after the next frame's slot 0 has been admitted waits for the boundary after the next
one, so what joins the held values is marked late. Where the slot has not been admitted, the clause stands. -/
theorem not_timeBase : ¬ Obligations.TimeBase := by
  unfold Obligations.TimeBase
  intro h
  obtain ⟨hprofile, -⟩ := h lateFrameState
  obtain ⟨-, -, hfree⟩ := hprofile 0 windowValue 0 100 (by decide) (by decide)
  obtain ⟨-, hheld⟩ := hfree (by decide) (by decide) (by decide)
  obtain ⟨t, ht, hkept⟩ := hheld (by decide)
  have hlate : ((writeWinProf lateFrameState 0 windowValue.toNat).hold.map fun (x : Held) => x.late) = [true, true] := by decide +kernel
  have hrun : exec (.tdcWinProfWrite 0 windowValue) lateFrameState = .next (writeWinProf lateFrameState 0 windowValue.toNat) := rfl
  rw [hrun] at ht
  injection ht with ht
  rw [ht, hkept] at hlate
  exact absurd hlate (by decide +kernel)

end Sys2Proof.Machine

/-! ## Banks, recharges and sweeps (R330, R331, R349 to R352, R359 to R367) -/
namespace Sys2Proof.Machine

/-! ### The record of a bank -/

theorem bankAt_setBank (s : State) (b : Nat) (x : Bank) : bankAt (setBank s b x) b = x := by
  unfold bankAt setBank
  rw [putAt_getD, if_pos rfl]

theorem bankAt_setBank_other (s : State) {b c : Nat} (h : b ≠ c) (x : Bank) : bankAt (setBank s b x) c = bankAt s c := by
  unfold bankAt setBank
  rw [putAt_getD, if_neg h]

theorem bankAt_of_banks {s t : State} (h : t.emi.banks = s.emi.banks) (b : Nat) : bankAt t b = bankAt s b := by
  unfold bankAt
  rw [h]

/-! ### Recharges -/

section
variable (s : State) (b : Fin 8) (v dur energy : Nat)

theorem rechargeStart_due (hup : emiUp s = true) (hdue : (bankAt s b).due ≠ none) (hidle : (bankAt s b).charging = false)
    (hrange : (bankAt s b).range = false) (hfree : s.flag F.EMI_STATUS_INHIBIT = false) (hin : bankOut s b = false ∨ testsBank s b = true) :
    execRechargeStart b s = .next (setBank { s with pins := { s.pins with ebk := setBit s.pins.ebk b } } b
      { bankAt s b with charging := true }) := by
  have hsome : (bankAt s b).due.isNone = false := Option.isNone_eq_false_iff.2 (Option.isSome_iff_ne_none.2 hdue)
  have hno : (bankOut s b && !testsBank s b) = false := by rcases hin with h | h <;> simp [h]
  exact if_neg (by simp [hup, hsome, hidle, hrange, hfree, hno])

/-- The bank after a recharge, with its ball low. -/
def bankRecharged (run : Nat) : State :=
  setBank (ebkLow s b.val) b.val { rechargedBank s.sys.raw (bankAt s b.val) dur energy with run := run }

/-- The state after a recharge, with what EMI_BANK_STAT shows of it. -/
def recharged (run : Nat) : State :=
  endFault (((bankRecharged s b dur energy run).set (F.EMI_BANK_STAT_VLAST b) v).set (F.EMI_BANK_STAT_RCH_EST b)
    (rchEst (bankRecharged s b dur energy run) b)) 0x0902 b

theorem recharged_parts (run : Nat) : (recharged s b v dur energy run).get (F.EMI_BANK_STAT_VLAST b) =
      v % 2 ^ (F.EMI_BANK_STAT_VLAST b).width ∧
    bankAt (recharged s b v dur energy run) b = { rechargedBank s.sys.raw (bankAt s b) dur energy with run := run } ∧
    (recharged s b v dur energy run).pins = { s.pins with ebk := clearBit s.pins.ebk b } ∧
    (recharged s b v dur energy run).mode = s.mode ∧
    RegFrame [F.EMI_BANK_STAT_VLAST b, F.EMI_BANK_STAT_RCH_EST b] s (recharged s b v dur energy run) := by
  have hbank : bankAt (bankRecharged s b dur energy run) b = { rechargedBank s.sys.raw (bankAt s b) dur energy with run := run } :=
    bankAt_setBank ..
  have hrest : (bankRecharged s b dur energy run).regs = s.regs ∧
    (bankRecharged s b dur energy run).pins = { s.pins with ebk := clearBit s.pins.ebk b } ∧
    (bankRecharged s b dur energy run).mode = s.mode := ⟨rfl, rfl, rfl⟩
  unfold recharged
  generalize bankRecharged s b dur energy run = t at hbank hrest ⊢
  obtain ⟨hregs, hpins, hmode⟩ := hrest
  refine ⟨?_, hbank, hpins, hmode, ?_⟩
  · refine (get_set_other (f := F.EMI_BANK_STAT_RCH_EST b) (g := F.EMI_BANK_STAT_VLAST b) _ _ (by simp [Fld.key])).trans ?_
    exact get_set_same _ _ _
  · exact ((((RegFrame.refl _ s).other hregs).set (f := F.EMI_BANK_STAT_VLAST b) v (by simp)).set (f := F.EMI_BANK_STAT_RCH_EST b)
      (rchEst t b) (by simp)).endFault 0x0902 b

theorem execRechargeEnd_eq (h : (bankAt s b).charging = true) (run : Nat)
    (hrun : run = if s.get (F.EMI_BANK_CFG_VSET b) ≤ v then 0 else (bankAt s b).run + 1) : execRechargeEnd b v dur energy s =
      if 3 ≤ run then .next (withdrawBank (recharged s b v dur energy run) b 4) else .next (recharged s b v dur energy run) := by
  subst hrun
  have hgo : execRechargeEnd b v dur energy s = _ := if_neg (by simp [h])
  rw [hgo]
  by_cases hv : s.get (F.EMI_BANK_CFG_VSET b) ≤ v
  · simp only [hv, if_true]
    rfl
  · simp only [hv, if_false]
    rfl

end

/-! ### The withdrawal of a bank -/

/-- A step leaves the device state, the balls and the banks' records alone, and writes of the registers only those listed. -/
structure Lets (l : List Fld) (s t : State) : Prop where
  mode : t.mode = s.mode
  pins : t.pins = s.pins
  banks : t.emi.banks = s.emi.banks
  frame : RegFrame l s t

theorem Lets.refl (l : List Fld) (s : State) : Lets l s s := ⟨rfl, rfl, rfl, .refl l s⟩

theorem Lets.trans {l : List Fld} {r s t : State} (h : Lets l r s) (k : Lets l s t) : Lets l r t :=
  ⟨k.mode.trans h.mode, k.pins.trans h.pins, k.banks.trans h.banks, h.frame.trans k.frame⟩

theorem Lets.subset {l m : List Fld} {s t : State} (h : Lets l s t) (hl : ∀ f ∈ l, f ∈ m) : Lets m s t :=
  ⟨h.mode, h.pins, h.banks, h.frame.subset hl⟩

theorem Lets.set {l : List Fld} {s t : State} (h : Lets l s t) {f : Fld} (v : Nat) (hf : f ∈ l) : Lets l s (t.set f v) :=
  ⟨h.mode, h.pins, h.banks, h.frame.set v hf⟩

theorem Lets.foldl {l : List Fld} {s t : State} {α : Type} {f : State → α → State} (hf : ∀ u x, Lets l u (f u x)) (xs : List α)
    (h : Lets l s t) : Lets l s (xs.foldl f t) :=
  List.foldlRecOn xs f h fun u hu x _ => hu.trans (hf u x)

theorem Notes.lets {s t : State} (h : Notes s t) : Lets noteFields s t :=
  ⟨by rw [h.eq], by rw [h.eq], by rw [h.eq], h.frame⟩

theorem raiseFault_lets (s : State) (cls code detail : Nat) : Lets (faultFields cls) s (raiseFault s cls code detail) :=
  ⟨raiseFault_mode .., raiseFault_pins .., by rw [raiseFault_emi], .raise (.refl _ s) cls code detail fun _ h => h⟩

theorem giveBack_lets (l : List Fld) (s : State) (x : Shot) : Lets l s (giveBack s x) := by
  unfold giveBack
  split
  · split <;> exact ⟨rfl, rfl, rfl, .other (.refl l s) rfl⟩
  · split <;> exact ⟨rfl, rfl, rfl, .other (.refl l s) rfl⟩
  all_goals exact ⟨rfl, rfl, rfl, .other (.refl l s) rfl⟩

/-- The registers that the marking of an entry as short changes. -/
def shortFields : List Fld := [F.SCH_STATUS_SHORT_NOW, F.SCH_CNT_SHORT, F.IRQ_STICKY 9] ++ noteFields

theorem markShort_lets (s : State) (i : Nat) : Lets shortFields s (markShort s i) := by
  unfold markShort
  dsimp only
  have hmark (l : List Owe) : Lets shortFields s { s with sch := { s.sch with owes := l } } := ⟨rfl, rfl, rfl, .other (.refl _ s) rfl⟩
  have ht := hmark (s.sch.owes.map fun (o : Owe) => if o.entry = i then { o with short := true } else o)
  generalize ({ s with sch := { s.sch with
    owes := s.sch.owes.map fun (o : Owe) => if o.entry = i then { o with short := true } else o } } : State) = t at ht ⊢
  have hshort : Lets shortFields t (if s.flag F.SCH_STATUS_SHORT_NOW then t else stick (t.set F.SCH_STATUS_SHORT_NOW 1) 0x120) := by
    split
    · exact .refl _ t
    · exact ((Lets.refl _ t).set (f := F.SCH_STATUS_SHORT_NOW) 1 (by simp [shortFields])).set (f := F.IRQ_STICKY 9) _ (by simp [shortFields])
  generalize (if s.flag F.SCH_STATUS_SHORT_NOW = true then t else _) = u at hshort ⊢
  exact ((ht.trans hshort).set (f := F.SCH_CNT_SHORT) _ (by simp [shortFields])).trans
    ((openGaps_notes _ _ true).lets.subset (by simp +contextual [shortFields]))

/-- The registers that the scheduler changes when it drops a bank. -/
def dropFields (b : Nat) : List Fld := F.SCH_BANK_STAT_WITHDRAWN b :: shortFields

theorem dropBank_lets (s : State) (b : Nat) : Lets (dropFields b) s (dropBank s b) := by
  unfold dropBank
  dsimp only
  have hback := Lets.foldl (giveBack_lets (dropFields b)) (s.sch.look.filter (ownOn b)) (.refl _ s)
  generalize List.foldl giveBack s _ = t at hback ⊢
  refine .foldl (fun u i => (markShort_lets u i).subset (by simp +contextual [dropFields])) _ ?_
  have hrest (x : SchSt) (y : EmiSt) (hy : y.banks = t.emi.banks) : Lets (dropFields b) t { t with sch := x, emi := y } :=
    ⟨rfl, rfl, hy, .other (.refl _ t) rfl⟩
  exact (hback.trans (hrest _ _ (by exact rfl))).set (f := F.SCH_BANK_STAT_WITHDRAWN b) 1 (by simp [dropFields])

theorem ebkCut_parts (s : State) (b : Nat) : (ebkCut s b).mode = s.mode ∧
    (ebkCut s b).pins = { s.pins with ebk := clearBit s.pins.ebk b } ∧ bankAt (ebkCut s b) b = { bankAt s b with charging := false } ∧
    (ebkCut s b).emi.stray = s.emi.stray ∧ RegFrame [F.EMI_BANK_STAT_VLAST b] s (ebkCut s b) := by
  unfold ebkCut
  split
  · exact ⟨rfl, rfl, bankAt_setBank _ b _, rfl, .other (RegFrame.setOne s (F.EMI_BANK_STAT_VLAST b) _) rfl⟩
  · exact ⟨rfl, rfl, bankAt_setBank _ b _, rfl, .other (.refl _ s) rfl⟩

/-- The fields of a bank's withdrawal are none of those that its consequences change. -/
theorem withdrawal_apart : ∀ b < 8, ∀ c < 8, ∀ g ∈ F.EMI_BANK_STAT_VLAST c :: (faultFields 2 ++ dropFields c),
    (F.EMI_BANK_STAT_WITHDRAWN b).key ≠ g.key ∧ (F.EMI_BANK_STAT_CAUSE b).key ≠ g.key := by decide

theorem withdrawBank_parts {s : State} {b : Nat} (hb : b < 8) (hin : bankOut s b = false) {cause : Nat} (hc : cause < 8) :
    (withdrawBank s b cause).get (F.EMI_BANK_STAT_WITHDRAWN b) = 1 ∧ (withdrawBank s b cause).get (F.EMI_BANK_STAT_CAUSE b) = cause ∧
    (bankAt (withdrawBank s b cause) b).charging = false ∧
    (withdrawBank s b cause).pins = { s.pins with ebk := clearBit s.pins.ebk b } ∧ (withdrawBank s b cause).mode = s.mode := by
  unfold withdrawBank
  rw [if_neg (by simp [hin])]
  dsimp only
  have hapart := withdrawal_apart b hb b hb
  have hout : (((stick s 0x140).set (F.EMI_BANK_STAT_WITHDRAWN b) 1).set (F.EMI_BANK_STAT_CAUSE b) cause).get
      (F.EMI_BANK_STAT_WITHDRAWN b) = 1 :=
    (get_set_other (f := F.EMI_BANK_STAT_CAUSE b) (g := F.EMI_BANK_STAT_WITHDRAWN b) _ _ (by simp [Fld.key])).trans (get_set_same _ _ _)
  have hcause : (((stick s 0x140).set (F.EMI_BANK_STAT_WITHDRAWN b) 1).set (F.EMI_BANK_STAT_CAUSE b) cause).get
      (F.EMI_BANK_STAT_CAUSE b) = cause := (get_set_same _ _ _).trans (Nat.mod_eq_of_lt hc)
  have hmode : (((stick s 0x140).set (F.EMI_BANK_STAT_WITHDRAWN b) 1).set (F.EMI_BANK_STAT_CAUSE b) cause).mode = s.mode := rfl
  have hpins : (((stick s 0x140).set (F.EMI_BANK_STAT_WITHDRAWN b) 1).set (F.EMI_BANK_STAT_CAUSE b) cause).pins = s.pins := rfl
  generalize ((stick s 0x140).set (F.EMI_BANK_STAT_WITHDRAWN b) 1).set (F.EMI_BANK_STAT_CAUSE b) cause = t at hout hcause hmode hpins ⊢
  obtain ⟨hmode', hpins', hbank, -, hframe⟩ := ebkCut_parts t b
  generalize ebkCut t b = u at hmode' hpins' hbank hframe ⊢
  have hput := bankAt_setBank u b { bankAt u b with due := none, initial := false }
  have hrest : (setBank u b { bankAt u b with due := none, initial := false }).regs = u.regs ∧
    (setBank u b { bankAt u b with due := none, initial := false }).pins = u.pins ∧
    (setBank u b { bankAt u b with due := none, initial := false }).mode = u.mode := ⟨rfl, rfl, rfl⟩
  generalize setBank u b { bankAt u b with due := none, initial := false } = v at hput hrest ⊢
  obtain ⟨hvregs, hvpins, hvmode⟩ := hrest
  have hlets := ((raiseFault_lets v 2 0x0A01 (b + 256 * cause)).subset (m := faultFields 2 ++ dropFields b) (by simp +contextual)).trans
    ((dropBank_lets _ b).subset (by simp +contextual))
  generalize dropBank _ b = w at hlets ⊢
  have hcharge : (bankAt w b).charging = false := by
    rw [bankAt_of_banks hlets.banks, hput]
    exact congrArg Bank.charging hbank
  have hkeep (f : Fld) (hf : ∀ g ∈ F.EMI_BANK_STAT_VLAST b :: (faultFields 2 ++ dropFields b), f.key ≠ g.key) : w.get f = t.get f :=
    (hlets.frame f fun g hg => hf g (List.mem_cons_of_mem _ hg)).trans
      ((RegFrame.other (l := []) (.refl _ u) hvregs f (by simp)).trans
        (hframe f fun g hg => hf g ((List.mem_singleton.1 hg) ▸ List.mem_cons_self)))
  refine ⟨(hkeep _ fun g hg => (hapart g hg).1).trans hout, (hkeep _ fun g hg => (hapart g hg).2).trans hcause, hcharge, ?_, ?_⟩
  · rw [hlets.pins, hvpins, hpins', hpins]
  · rw [hlets.mode, hvmode, hmode', hmode]

theorem rechargeEnd_clause (s : State) (b : Fin 8) (v dur energy : Nat) (hon : (bankAt s b).charging = true) :
    (s.get (F.EMI_BANK_CFG_VSET b) ≤ v → Gives (.rechargeEnd b v dur energy) s (fun t =>
      t.get (F.EMI_BANK_STAT_VLAST b) = v % 2 ^ (F.EMI_BANK_STAT_VLAST b).width ∧ (bankAt t b).charging = false ∧
      (bankAt t b).due = none ∧ (bankAt t b).run = 0 ∧ (bankAt t b).acc = (bankAt s b).acc + energy ∧
      t.pins = { s.pins with ebk := clearBit s.pins.ebk b } ∧
      RegFrame [F.EMI_BANK_STAT_VLAST b, F.EMI_BANK_STAT_RCH_EST b] s t)) ∧
    (v < s.get (F.EMI_BANK_CFG_VSET b) → 2 ≤ (bankAt s b).run → bankOut s b = false → Gives (.rechargeEnd b v dur energy) s (fun t =>
      t.get (F.EMI_BANK_STAT_WITHDRAWN b) = 1 ∧ t.get (F.EMI_BANK_STAT_CAUSE b) = 4 ∧ (bankAt t b).charging = false ∧
      t.mode = s.mode)) := by
  refine ⟨fun hv => ?_, fun hv hrun hin => ?_⟩
  · have heq := execRechargeEnd_eq s b v dur energy hon 0 (if_pos hv).symm
    obtain ⟨hlast, hbank, hpins, -, hframe⟩ := recharged_parts s b v dur energy 0
    refine ⟨_, heq.trans (if_neg (by decide)), hlast, ?_, ?_, ?_, ?_, hpins, hframe⟩ <;> rw [hbank] <;> rfl
  · have heq := execRechargeEnd_eq s b v dur energy hon ((bankAt s b).run + 1) (if_neg (by omega)).symm
    obtain ⟨-, -, -, hmode, hframe⟩ := recharged_parts s b v dur energy ((bankAt s b).run + 1)
    have hin' : bankOut (recharged s b v dur energy ((bankAt s b).run + 1)) b = false :=
      (congrArg (· != 0) (hframe (F.EMI_BANK_STAT_WITHDRAWN b) (by simp [Fld.key]))).trans hin
    obtain ⟨hout, hcause, hoff, -, hm⟩ := withdrawBank_parts b.isLt hin' (cause := 4) (by decide)
    exact ⟨_, heq.trans (if_pos (by omega)), hout, hcause, hoff, hm.trans hmode⟩

/-- A bank's ball goes low over its voltage limit, and VLAST is the reading then. -/
def overLow (s : State) (b code : Nat) : State :=
  ebkLow (if (bankAt s b).charging then s.set (F.EMI_BANK_STAT_VLAST b) code else s) b

theorem overLow_parts (s : State) (b code : Nat) : RegFrame [F.EMI_BANK_STAT_VLAST b] s (overLow s b code) ∧
    (overLow s b code).mode = s.mode ∧ (overLow s b code).pins = { s.pins with ebk := clearBit s.pins.ebk b } := by
  unfold overLow
  split
  · exact ⟨.other (RegFrame.setOne s (F.EMI_BANK_STAT_VLAST b) code) rfl, rfl, rfl⟩
  · exact ⟨.other (.refl _ s) rfl, rfl, rfl⟩

theorem overvoltage_clause (s : State) (b : Fin 8) (code : Nat) (hup : emiUp s = true) (hover : s.get (F.EMI_BANK_CFG_VOV b) < code)
    (hcode : code ≤ 0xFBF) (hin : bankOut s b = false) : Gives (.bankOvervoltage b code) s (fun t =>
      t.get (F.EMI_BANK_STAT_WITHDRAWN b) = 1 ∧ t.get (F.EMI_BANK_STAT_CAUSE b) = 5 ∧
      (bankAt t b).charging = false ∧ t.pins.ebk.testBit b = false ∧ t.mode = s.mode) := by
  obtain ⟨hframe, hmode, hpins⟩ := overLow_parts s b code
  have hin' : bankOut (overLow s b code) b = false :=
    (congrArg (· != 0) (hframe (F.EMI_BANK_STAT_WITHDRAWN b) (by simp [Fld.key]))).trans hin
  have heq : execBankOvervoltage b code s = .next (withdrawBank (overLow s b code) b 5) := by
    unfold execBankOvervoltage
    dsimp only
    rw [if_neg (by simp [hup]), if_pos hover, if_neg (c := 0xFBF < code) (by omega)]
    have hno : ¬bankOut (overLow s b code) b = true := by simp [hin']
    exact congrArg (fun t => Host.Outcome.next (withdrawBank t b 5)) (if_neg hno)
  obtain ⟨hout, hcause, hoff, hlow, hm⟩ := withdrawBank_parts b.isLt hin' (cause := 5) (by decide)
  refine ⟨_, heq, hout, hcause, hoff, ?_, hm.trans hmode⟩
  rw [hlow]
  exact testBit_clearBit_same _ _

theorem inRange_clause (s : State) (b : Fin 8) (code : Nat) (hup : emiUp s = true) (hover : code ≤ s.get (F.EMI_BANK_CFG_VOV b))
    (hlow : 0x040 ≤ code) (hhigh : code ≤ 0xFBF) : Gives (.bankOvervoltage b code) s (fun t =>
      (bankAt t b).range = false ∧ t.regs = s.regs ∧ t.pins = s.pins) := by
  have heq : execBankOvervoltage b code s = .next (endFault (setBank s b { bankAt s b with range := false }) 0x0902 b) := by
    unfold execBankOvervoltage
    dsimp only
    rw [if_neg (by simp [hup]), if_neg (by omega), if_neg (by simp; omega), if_neg (by omega)]
  have hbank := bankAt_setBank s b { bankAt s b with range := false }
  have hrest : (setBank s b { bankAt s b with range := false }).regs = s.regs ∧
    (setBank s b { bankAt s b with range := false }).pins = s.pins := ⟨rfl, rfl⟩
  generalize setBank s b.val { bankAt s b with range := false } = t at heq hbank hrest
  refine ⟨_, heq, ?_, hrest.1, hrest.2⟩
  exact congrArg Bank.range hbank

/-! ### Sweeps and retries -/

theorem sweep_clause (s : State) (hup : emiUp s = true) (hen : s.flag F.EMI_CTRL_SWEEP_EN = true) :
    (∀ l : List Nat, l = ((List.range 8).filter fun b => !bankOut s b).foldl (fun l b => l ++ bankCells s b) [] →
      s.emi.sweeping = false → Gives .sweepPeriod s (fun t => t = { s with emi := t.emi } ∧
        t.emi = { s.emi with sweep := l, sweeping := !l.isEmpty })) ∧
    (s.emi.sweeping = true → Gives .sweepPeriod s (fun t => t.get F.EMI_STATUS_SWEEP_LATE = 1 ∧ t.emi = s.emi ∧
      RegFrame (F.EMI_STATUS_SWEEP_LATE :: faultFields 0) s t)) := by
  have hgo : execSweepPeriod s = _ := (if_neg (by simp [hup])).trans (if_neg (by simp [hen]))
  refine ⟨fun l hl hidle => ⟨_, hgo.trans (if_neg (by simp [hidle])), rfl, ?_⟩, fun hlate => ⟨_, hgo.trans (if_pos hlate), ?_, ?_, ?_⟩⟩
  · rw [hl]
  · have hset := get_set_same s F.EMI_STATUS_SWEEP_LATE 1
    generalize s.set F.EMI_STATUS_SWEEP_LATE 1 = t at hset ⊢
    exact ((raiseFault_lets t 0 0x0A05 0).frame _ (by decide)).trans hset
  · exact raiseFault_emi ..
  · exact .raise (RegFrame.set (.refl _ s) (f := F.EMI_STATUS_SWEEP_LATE) 1 (by simp)) 0 0x0A05 0 (by simp +contextual)

theorem retryBank_takes {s : State} {b : Nat} (hm : s.mode = .scan) (hout : bankOut s b = true) (hen : bit (s.get F.EMI_BANK_EN_EN) b = true)
    (hcells : bankCells s b ≠ []) (hidle : bit (s.get F.EMI_BANK_EN_RETRY) b = false) (hb : b < 8) :
    ((retryBank s b).get F.EMI_BANK_EN_RETRY).testBit b = true ∧ (retryBank s b).emi.retry = s.emi.retry ++ bankCells s b ∧
    RegFrame [F.EMI_BANK_EN_RETRY] s (retryBank s b) ∧ (retryBank s b).mode = s.mode := by
  unfold retryBank
  have hsome : (bankCells s b).isEmpty = false := by simpa using hcells
  rw [if_neg (by simp [hm, hout, hen, hidle]), hsome, if_neg (by decide)]
  refine ⟨?_, rfl, .other (RegFrame.setOne s F.EMI_BANK_EN_RETRY (setBit (s.get F.EMI_BANK_EN_RETRY) b)) rfl, rfl⟩
  exact testBit_set_setBit s F.EMI_BANK_EN_RETRY _ hb

theorem retry_clause (s : State) (b : Fin 8) (hm : s.mode = .scan) (hout : bankOut s b = true)
    (hen : bit (s.get F.EMI_BANK_EN_EN) b = true) (hcells : bankCells s b ≠ []) (hidle : bit (s.get F.EMI_BANK_EN_RETRY) b = false)
    (w : Fin 256) (hw : w.val = 2 ^ b.val) : Gives (.emiBankRetry w) s (fun t =>
      (t.get F.EMI_BANK_EN_RETRY).testBit b = true ∧ t.emi.retry = s.emi.retry ++ bankCells s b ∧
      RegFrame [F.EMI_BANK_EN_RETRY] s t ∧ t.mode = s.mode) := by
  have hok : retryOk s (2 ^ b.val) = true := by
    refine List.all_eq_true.2 fun c _ => ?_
    rw [bit_two_pow]
    by_cases hc : b.val = c
    · subst hc
      simp [hout, hen]
    · simp [hc]
  have heq : writeRetry s w.val = retryBank s b := by
    rw [hw]
    exact (if_pos hok).trans (foldl_of_one retryBank List.nodup_range (List.mem_range.2 b.isLt) s)
  refine ⟨retryBank s b, congrArg Host.Outcome.next heq, ?_⟩
  exact retryBank_takes hm hout hen hcells hidle b.isLt

theorem writeRetry_off {s : State} (h : s.mode ≠ .scan) (w : Nat) : writeRetry s w = s := by
  have hone (b : Nat) : retryBank s b = s := if_pos (by simp [h])
  unfold writeRetry
  split
  · refine List.foldlRecOn (List.range 8) _ (motive := fun t => t = s) rfl fun t ht b _ => ?_
    rw [ht, hone, ite_self]
  · rfl

/-! ### The enables of the banks -/

/-- The step of `banksEnabledNow` at one bank, by the enables of s. -/
def enableStep (s t : State) (b : Nat) : State :=
  let en := bit (s.get F.EMI_BANK_EN_EN) b
  let none_ := bankOut t b && t.get (F.EMI_BANK_STAT_CAUSE b) = 6
  let was := (bankAt t b).was
  if en then
    if !none_ then t
    else if was = 0 then returnBank t b
    else setBank (t.set (F.EMI_BANK_STAT_CAUSE b) was) b { bankAt t b with was := 0 }
  else if none_ then t
  else
    let cause := if bankOut t b then t.get (F.EMI_BANK_STAT_CAUSE b) else 0
    let u := dropTests (ebkCut t b) b
    let u := (u.set (F.EMI_BANK_STAT_WITHDRAWN b) 1).set (F.EMI_BANK_STAT_CAUSE b) 6
    dropBank (setBank u b { bankAt u b with due := none, initial := false, back := false, was := cause }) b

theorem banksEnabledNow_eq (s : State) : banksEnabledNow s = (List.range 8).foldl (enableStep s) s := rfl

/-- The registers that the step at a bank can write. -/
def bankEnFields (b : Nat) : List Fld :=
  [F.EMI_BANK_STAT_VLAST b, F.EMI_BANK_STAT_WITHDRAWN b, F.EMI_BANK_STAT_CAUSE b, F.EMI_BANK_EN_RETRY] ++ dropFields b

/-- A step keeps the device state, and writes of the registers only those listed. -/
def Calm (l : List Fld) (s t : State) : Prop := t.mode = s.mode ∧ RegFrame l s t

theorem Calm.trans {l : List Fld} {r s t : State} (h : Calm l r s) (k : Calm l s t) : Calm l r t := ⟨k.1.trans h.1, h.2.trans k.2⟩

theorem Calm.set {l : List Fld} {s t : State} (h : Calm l s t) {f : Fld} (v : Nat) (hf : f ∈ l) : Calm l s (t.set f v) :=
  ⟨h.1, h.2.set v hf⟩

theorem returnBank_calm (t : State) (b : Nat) : Calm (bankEnFields b) t (returnBank t b) := by
  have hend : Calm (bankEnFields b) t (endFault t 0x0A01 (b + 256 * t.get (F.EMI_BANK_STAT_CAUSE b))) :=
    ⟨rfl, (RegFrame.refl _ t).endFault _ _⟩
  unfold returnBank
  dsimp only
  generalize endFault t 0x0A01 _ = u at hend ⊢
  have hclear := ((hend.set (f := F.EMI_BANK_STAT_WITHDRAWN b) 0 (by simp [bankEnFields])).set (f := F.EMI_BANK_STAT_CAUSE b) 0
    (by simp [bankEnFields])).set (f := F.SCH_BANK_STAT_WITHDRAWN b) 0 (by simp [bankEnFields, dropFields])
  generalize ((u.set (F.EMI_BANK_STAT_WITHDRAWN b) 0).set (F.EMI_BANK_STAT_CAUSE b) 0).set (F.SCH_BANK_STAT_WITHDRAWN b) 0 = v at hclear ⊢
  split
  · have hlast := hclear.set (f := F.EMI_BANK_STAT_VLAST b) 0 (by simp [bankEnFields])
    unfold initialRecharge
    generalize v.set (F.EMI_BANK_STAT_VLAST b) 0 = w at hlast ⊢
    exact ⟨hlast.1, .other (hlast.2.endFault 0x0902 b) rfl⟩
  · exact ⟨hclear.1, hclear.2.other rfl⟩

theorem dropTests_calm (s : State) (b : Nat) : Calm [F.EMI_BANK_EN_RETRY] s (dropTests s b) := by
  unfold dropTests
  dsimp only
  split
  · split
    · exact ⟨rfl, RegFrame.set (.other (.refl _ s) rfl) _ (by simp)⟩
    · exact ⟨rfl, RegFrame.set (.other (.refl _ s) rfl) _ (by simp)⟩
  · exact ⟨rfl, RegFrame.set (.other (.refl _ s) rfl) _ (by simp)⟩

/-- A bank whose enable is cleared: withdrawn with cause 6, its tests dropped. -/
def enableCut (t : State) (b : Nat) : State :=
  ((dropTests (ebkCut t b) b).set (F.EMI_BANK_STAT_WITHDRAWN b) 1).set (F.EMI_BANK_STAT_CAUSE b) 6

theorem enableCut_calm (t : State) (b : Nat) : Calm (bankEnFields b) t (enableCut t b) := by
  obtain ⟨hmode, -, -, -, hframe⟩ := ebkCut_parts t b
  have hcut : Calm (bankEnFields b) t (ebkCut t b) := ⟨hmode, hframe.subset (by simp [bankEnFields])⟩
  unfold enableCut
  generalize ebkCut t b = u at hcut ⊢
  obtain ⟨hmode', hframe'⟩ := dropTests_calm u b
  generalize dropTests u b = v at hmode' hframe' ⊢
  have hdrop : Calm (bankEnFields b) t v := hcut.trans ⟨hmode', hframe'.subset (by simp [bankEnFields])⟩
  exact (hdrop.set (f := F.EMI_BANK_STAT_WITHDRAWN b) 1 (by simp [bankEnFields])).set (f := F.EMI_BANK_STAT_CAUSE b) 6
    (by simp [bankEnFields])

theorem enableCut_get (t : State) (b : Nat) : (enableCut t b).get (F.EMI_BANK_STAT_WITHDRAWN b) = 1 ∧
    (enableCut t b).get (F.EMI_BANK_STAT_CAUSE b) = 6 := by
  refine ⟨(get_set_other (f := F.EMI_BANK_STAT_CAUSE b) (g := F.EMI_BANK_STAT_WITHDRAWN b) _ _ (by simp [Fld.key])).trans
    (get_set_same _ _ _), get_set_same _ _ _⟩

/-- The record of a bank whose enable is cleared, with the cause it was out of service by. -/
def putDisabled (u : State) (b was : Nat) : State :=
  setBank u b { bankAt u b with due := none, initial := false, back := false, was := was }

theorem putDisabled_parts (u : State) (b was : Nat) : (putDisabled u b was).mode = u.mode ∧ (putDisabled u b was).regs = u.regs :=
  ⟨rfl, rfl⟩

theorem enableStep_off {s t : State} {b : Nat} (hen : bit (s.get F.EMI_BANK_EN_EN) b = false)
    (hno : ¬(bankOut t b = true ∧ t.get (F.EMI_BANK_STAT_CAUSE b) = 6)) : enableStep s t b =
      dropBank (putDisabled (enableCut t b) b (if bankOut t b then t.get (F.EMI_BANK_STAT_CAUSE b) else 0)) b := by
  unfold enableStep
  dsimp only
  rw [if_neg (by simp [hen]), if_neg (by simpa using hno)]
  rfl

theorem enableStep_calm (s t : State) (b : Nat) : Calm (bankEnFields b) t (enableStep s t b) := by
  have hsame : Calm (bankEnFields b) t t := ⟨rfl, .refl _ t⟩
  by_cases hen : bit (s.get F.EMI_BANK_EN_EN) b = true
  · unfold enableStep
    dsimp only
    rw [if_pos hen]
    split
    · exact hsame
    · split
      · exact returnBank_calm t b
      · exact ⟨rfl, .other (RegFrame.set (.refl _ t) (f := F.EMI_BANK_STAT_CAUSE b) (bankAt t b).was (by simp [bankEnFields])) rfl⟩
  · have hen' : bit (s.get F.EMI_BANK_EN_EN) b = false := by simpa using hen
    by_cases hno : bankOut t b = true ∧ t.get (F.EMI_BANK_STAT_CAUSE b) = 6
    · unfold enableStep
      dsimp only
      rw [if_neg hen, if_pos (by simpa using hno)]
      exact hsame
    · rw [enableStep_off hen' hno]
      have hcut := enableCut_calm t b
      generalize enableCut t b = u at hcut ⊢
      obtain ⟨hmode, hregs⟩ := putDisabled_parts u b (if bankOut t b then t.get (F.EMI_BANK_STAT_CAUSE b) else 0)
      generalize putDisabled u b _ = v at hmode hregs ⊢
      have hlets := dropBank_lets v b
      exact Calm.trans ⟨hmode.trans hcut.1, hcut.2.other hregs⟩ ⟨hlets.mode, hlets.frame.subset (by simp +contextual [bankEnFields])⟩

/-- A bank is out of service by its enable. -/
def DisabledBank (b : Nat) (t : State) : Prop := bankOut t b = true ∧ t.get (F.EMI_BANK_STAT_CAUSE b) = 6

theorem enableStep_disables {s t : State} {b : Nat} (hb : b < 8) (hen : bit (s.get F.EMI_BANK_EN_EN) b = false) :
    DisabledBank b (enableStep s t b) := by
  by_cases hno : bankOut t b = true ∧ t.get (F.EMI_BANK_STAT_CAUSE b) = 6
  · unfold enableStep
    dsimp only
    rw [if_neg (by simp [hen]), if_pos (by simpa using hno)]
    exact hno
  · rw [enableStep_off hen hno]
    obtain ⟨hout, hcause⟩ := enableCut_get t b
    generalize enableCut t b = u at hout hcause ⊢
    obtain ⟨-, hregs⟩ := putDisabled_parts u b (if bankOut t b then t.get (F.EMI_BANK_STAT_CAUSE b) else 0)
    generalize putDisabled u b _ = v at hregs ⊢
    have hput := RegFrame.other (.refl [] u) hregs
    have hframe := (dropBank_lets v b).frame
    generalize dropBank v b = w at hframe ⊢
    have hap (g : Fld) (hg : g ∈ dropFields b) := withdrawal_apart b hb b hb g (by simp [hg])
    have hout' := ((hframe _ fun g hg => (hap g hg).1).trans (hput _ (by simp))).trans hout
    exact ⟨congrArg (· != 0) hout', ((hframe _ fun g hg => (hap g hg).2).trans (hput _ (by simp))).trans hcause⟩

theorem enable_apart : ∀ b < 8, ∀ c < 8, c ≠ b → ∀ g ∈ bankEnFields c,
    (F.EMI_BANK_STAT_WITHDRAWN b).key ≠ g.key ∧ (F.EMI_BANK_STAT_CAUSE b).key ≠ g.key := by decide

theorem enables_apart : ∀ c < 8, ∀ g ∈ bankEnFields c, F.EMI_BANK_EN_EN.key ≠ g.key := by decide

theorem enableStep_keeps_disabled {s t : State} {b c : Nat} (hb : b < 8) (hc : c < 8) (hne : c ≠ b) (h : DisabledBank b t) :
    DisabledBank b (enableStep s t c) := by
  obtain ⟨-, hframe⟩ := enableStep_calm s t c
  have hap := enable_apart b hb c hc hne
  refine ⟨?_, (hframe _ fun g hg => (hap g hg).2).trans h.2⟩
  exact (congrArg (· != 0) (hframe _ fun g hg => (hap g hg).1)).trans h.1

/-- What one step of a fold brings about, and the others keep, holds after the fold. -/
theorem foldl_establishes {f : State → Nat → State} {Q : State → Prop} {l : List Nat} {b : Nat} (hb : b ∈ l) (hset : ∀ t, Q (f t b))
    (hkeep : ∀ t, ∀ c ∈ l, c ≠ b → Q t → Q (f t c)) (s : State) : Q (l.foldl f s) := by
  induction l generalizing s with
  | nil => cases hb
  | cons a r ih =>
    rw [List.foldl_cons]
    by_cases hr : b ∈ r
    · exact ih hr (fun t c hc => hkeep t c (List.mem_cons_of_mem _ hc)) _
    · obtain rfl := (List.mem_cons.1 hb).resolve_right hr
      refine List.foldlRecOn r f (hset s) fun t ht c hc => ?_
      exact hkeep t c (List.mem_cons_of_mem _ hc) (fun e => hr (e ▸ hc)) ht

theorem banksEnabledNow_disables {s : State} {b : Nat} (hb : b < 8) (hen : bit (s.get F.EMI_BANK_EN_EN) b = false) :
    DisabledBank b (banksEnabledNow s) := by
  rw [banksEnabledNow_eq]
  exact foldl_establishes (List.mem_range.2 hb) (fun _ => enableStep_disables hb hen)
    (fun _ c hc hne => enableStep_keeps_disabled hb (List.mem_range.1 hc) hne) s

theorem banksEnabledNow_calm (s : State) : (banksEnabledNow s).mode = s.mode ∧
    (banksEnabledNow s).get F.EMI_BANK_EN_EN = s.get F.EMI_BANK_EN_EN := by
  rw [banksEnabledNow_eq]
  refine List.foldlRecOn (List.range 8) _ (motive := fun (t : State) => t.mode = s.mode ∧ t.get F.EMI_BANK_EN_EN = s.get F.EMI_BANK_EN_EN)
    ⟨rfl, rfl⟩ fun t ht b hb => ?_
  obtain ⟨hmode, hframe⟩ := enableStep_calm s t b
  exact ⟨hmode.trans ht.1, (hframe _ (enables_apart b (List.mem_range.1 hb))).trans ht.2⟩

theorem retryOk_zero (s : State) : retryOk s 0 = true := List.all_eq_true.2 fun c _ => by simp [bit]

theorem writeRetry_zero (s : State) : writeRetry s 0 = s := by
  refine (if_pos (retryOk_zero s)).trans ?_
  refine List.foldlRecOn (List.range 8) _ (motive := fun t => t = s) rfl fun t ht b _ => ?_
  rw [ht]
  exact if_neg (by simp [bit])

theorem writeBankReg_enables {s : State} {v : Nat} (h : F.EMI_BANK_EN_RETRY.of v = 0) : writeBankReg s v = writeBankEn s v := by
  unfold writeBankReg
  dsimp only
  rw [h, if_pos (retryOk_zero s), writeRetry_zero]

theorem bankEn_clause (s : State) (value : Dword) (hcfg : committed s = false) (hretry : F.EMI_BANK_EN_RETRY.of value.toNat = 0) :
    (s.mode.scanning = true → Gives (.emiBankEnWrite value) s (fun t => t = { s with hold := t.hold } ∧
      t.hold = s.hold ++ [⟨false, F.EMI_BANK_EN_EN, F.EMI_BANK_EN_EN.of value.toNat⟩])) ∧
    (s.mode.scanning = false → Gives (.emiBankEnWrite value) s (fun t => t.get F.EMI_BANK_EN_EN = F.EMI_BANK_EN_EN.of value.toNat ∧
      t.mode = s.mode ∧ ∀ b < 8, bit (F.EMI_BANK_EN_EN.of value.toNat) b = false →
        bankOut t b = true ∧ t.get (F.EMI_BANK_STAT_CAUSE b) = 6)) := by
  have hrun : exec (.emiBankEnWrite value) s = .next (writeBankEn s value.toNat) :=
    congrArg Host.Outcome.next (writeBankReg_enables hretry)
  refine ⟨fun hscan => ⟨holdField s false F.EMI_BANK_EN_EN (F.EMI_BANK_EN_EN.of value.toNat), hrun.trans ?_, rfl, rfl⟩, fun hno => ?_⟩
  · have hstage : stageOf s F.EMI_BANK_EN_EN.off .rwl = some false := by
      refine (if_neg (by simp [hscan])).trans ?_
      rfl
    have hlog : lockLog s F.EMI_BANK_EN_EN.off [(F.EMI_BANK_EN_EN, .rwl)] value.toNat = s := if_pos (by simp [hcfg])
    unfold writeBankEn
    rw [if_pos hscan]
    unfold writeFields
    rw [hlog, List.foldl_cons, List.foldl_nil, hstage]
    exact congrArg Host.Outcome.next (if_neg (by simp [hcfg]))
  · have heq : writeBankEn s value.toNat = banksEnabledNow (setNow s F.EMI_BANK_EN_EN (F.EMI_BANK_EN_EN.of value.toNat)) := by
      unfold writeBankEn
      rw [if_neg (by simp [hno]), writeFields_free (by simp) hno hcfg]
      rfl
    rw [heq, setNow_eq] at hrun
    have hset : (s.set F.EMI_BANK_EN_EN (F.EMI_BANK_EN_EN.of value.toNat)).get F.EMI_BANK_EN_EN = F.EMI_BANK_EN_EN.of value.toNat :=
      (get_set_same _ _ _).trans (of_mod _ _)
    have hput (h : List Held) : ({ s.set F.EMI_BANK_EN_EN (F.EMI_BANK_EN_EN.of value.toNat) with hold := h } : State).get F.EMI_BANK_EN_EN =
        F.EMI_BANK_EN_EN.of value.toNat ∧
      ({ s.set F.EMI_BANK_EN_EN (F.EMI_BANK_EN_EN.of value.toNat) with hold := h } : State).mode = s.mode := ⟨hset, rfl⟩
    obtain ⟨hen, hmode⟩ := hput (s.hold.filter fun (h : Held) => h.fld != F.EMI_BANK_EN_EN)
    generalize ({ s.set F.EMI_BANK_EN_EN (F.EMI_BANK_EN_EN.of value.toNat) with
      hold := s.hold.filter fun (h : Held) => h.fld != F.EMI_BANK_EN_EN } : State) = t at hrun hen hmode
    obtain ⟨hmode', hen'⟩ := banksEnabledNow_calm t
    refine ⟨_, hrun, hen'.trans hen, hmode'.trans hmode, fun b hb hoff => ?_⟩
    exact banksEnabledNow_disables hb (by rw [hen]; exact hoff)

theorem writeBankReg_discards {s : State} {v : Nat} {b : Nat} (hb : b < 8) (hbit : bit (F.EMI_BANK_EN_RETRY.of v) b = true)
    (hin : bankOut s b = false) : writeBankReg s v = s := by
  have hno : ¬retryOk s (F.EMI_BANK_EN_RETRY.of v) = true := by
    intro hok
    have hthis := List.all_eq_true.1 hok b (List.mem_range.2 hb)
    rw [hbit, hin] at hthis
    exact absurd hthis (by simp)
  exact if_neg hno

/-! ### Inhibition -/

theorem emitterLow_parts (s : State) : (emitterLow s).mode = s.mode ∧ (emitterLow s).emi.stray = s.emi.stray ∧
    (emitterLow s).pins.erow = 0 ∧ (emitterLow s).pins.ecol = 0 ∧ (emitterLow s).pins.ebk = 0 := by
  have hcut : ((List.range 8).foldl ebkCut s).mode = s.mode ∧ ((List.range 8).foldl ebkCut s).emi.stray = s.emi.stray := by
    refine List.foldlRecOn (List.range 8) _ (motive := fun (t : State) => t.mode = s.mode ∧ t.emi.stray = s.emi.stray) ⟨rfl, rfl⟩
      fun t ht b _ => ?_
    obtain ⟨hmode, -, -, hstray, -⟩ := ebkCut_parts t b
    exact ⟨hmode.trans ht.1, hstray.trans ht.2⟩
  unfold emitterLow
  generalize (List.range 8).foldl ebkCut s = t at hcut ⊢
  exact ⟨hcut.1, hcut.2, rfl, rfl, rfl⟩

theorem inhibitEmitter_get (s : State) {cause : Nat} (hc : cause < 4) : (inhibitEmitter s cause).get F.EMI_STATUS_INHIBIT = 1 ∧
    (inhibitEmitter s cause).get F.EMI_STATUS_CAUSE = cause :=
  ⟨(get_set_other (f := F.EMI_STATUS_CAUSE) (g := F.EMI_STATUS_INHIBIT) _ _ (by decide)).trans (get_set_same _ _ _),
    (get_set_same _ _ _).trans (Nat.mod_eq_of_lt hc)⟩

theorem strayInhibit_parts (s : State) (b : Nat) : (strayInhibit s b).get F.EMI_STATUS_INHIBIT = 1 ∧
    (strayInhibit s b).get F.EMI_STATUS_CAUSE = 2 ∧ (strayInhibit s b).pins.erow = 0 ∧ (strayInhibit s b).pins.ecol = 0 ∧
    (strayInhibit s b).pins.ebk = 0 ∧ (strayInhibit s b).emi.stray = s.emi.stray ∧ (strayInhibit s b).mode = s.mode := by
  obtain ⟨hmode, hstray, hrow, hcol, hebk⟩ := emitterLow_parts s
  unfold strayInhibit
  generalize emitterLow s = t at hmode hstray hrow hcol hebk ⊢
  obtain ⟨hinhibit, hcause⟩ := inhibitEmitter_get t (cause := 2) (by decide)
  have hrest : (inhibitEmitter t 2).mode = t.mode ∧ (inhibitEmitter t 2).pins = t.pins ∧ (inhibitEmitter t 2).emi = t.emi :=
    ⟨rfl, rfl, rfl⟩
  generalize inhibitEmitter t 2 = u at hinhibit hcause hrest ⊢
  obtain ⟨hum, hup, hue⟩ := hrest
  have hraise := (raiseFault_lets u 2 0x0A02 b).frame
  rw [raiseFault_pins, raiseFault_emi, raiseFault_mode, hum, hup, hue]
  exact ⟨(hraise _ (by decide)).trans hinhibit, (hraise _ (by decide)).trans hcause, hrow, hcol, hebk, hstray, hmode⟩

theorem stray_clause (s : State) (b : Fin 8) (current : Nat) (hup : emiUp s = true)
    (h : s.get (F.EMI_BANK_CELL_CELL_CODE b) < 4 * current) : Gives (.strayCurrent b current) s (fun t =>
      t.get F.EMI_STATUS_INHIBIT = 1 ∧ t.get F.EMI_STATUS_CAUSE = 2 ∧ t.pins.erow = 0 ∧ t.pins.ecol = 0 ∧ t.pins.ebk = 0 ∧
      t.emi.stray.testBit b = true ∧ t.mode = s.mode) := by
  have habove : (emiUp s && strays s b current) = true := by simp [hup, strays, h]
  have heq : execStrayCurrent b current s =
      .next (strayInhibit { s with emi := { s.emi with stray := setBit s.emi.stray b } } b) := by
    unfold execStrayCurrent
    dsimp only
    rw [habove]
    rfl
  have hset : ({ s with emi := { s.emi with stray := setBit s.emi.stray b } } : State).emi.stray.testBit b = true :=
    testBit_setBit_same _ _
  have hmode : ({ s with emi := { s.emi with stray := setBit s.emi.stray b } } : State).mode = s.mode := rfl
  generalize ({ s with emi := { s.emi with stray := setBit s.emi.stray b } } : State) = t at heq hset hmode
  obtain ⟨hinhibit, hcause, hrow, hcol, hebk, hstray, hm⟩ := strayInhibit_parts t b
  exact ⟨_, heq, hinhibit, hcause, hrow, hcol, hebk, by rw [hstray]; exact hset, hm.trans hmode⟩

theorem noStray_clause (s : State) (b : Fin 8) (current : Nat)
    (h : emiUp s = false ∨ 4 * current ≤ s.get (F.EMI_BANK_CELL_CELL_CODE b)) :
    Gives (.strayCurrent b current) s (fun t => t = { s with emi := { s.emi with stray := clearBit s.emi.stray b } }) := by
  have hno : (emiUp s && strays s b current) = false := by
    rcases h with h | h
    · simp [h]
    · simp [strays, h]
  refine ⟨_, ?_, rfl⟩
  change execStrayCurrent b current s = _
  unfold execStrayCurrent
  dsimp only
  rw [hno]
  rfl

/-- The faults of an inhibition are over. -/
def inhibitEnded (t : State) : State := (List.range 8).foldl (fun t b => endFault t 0x0A02 b) (endFault t 0x0602 0)

theorem inhibitEnded_parts (t : State) : (inhibitEnded t).emi = t.emi ∧ RegFrame [] t (inhibitEnded t) :=
  List.foldlRecOn (List.range 8) _ (motive := fun (u : State) => u.emi = t.emi ∧ RegFrame [] t u)
    ⟨rfl, (RegFrame.refl _ t).endFault _ _⟩ fun _ hu b _ => ⟨hu.1, hu.2.endFault 0x0A02 b⟩

theorem inhibitClear_clause (s : State) (h : s.flag F.EMI_STATUS_INHIBIT = true) : Gives .emiInhibitClear s (fun t =>
    t.get F.EMI_STATUS_INHIBIT = 0 ∧ t.get F.EMI_STATUS_CAUSE = 0 ∧ RegFrame [F.EMI_STATUS_INHIBIT, F.EMI_STATUS_CAUSE] s t ∧
    t.emi = { s.emi with clearing := true }) := by
  have heq : exec .emiInhibitClear s = .next { inhibitEnded ((s.set F.EMI_STATUS_INHIBIT 0).set F.EMI_STATUS_CAUSE 0) with
      emi := { (inhibitEnded ((s.set F.EMI_STATUS_INHIBIT 0).set F.EMI_STATUS_CAUSE 0)).emi with clearing := true } } :=
    congrArg Host.Outcome.next (if_neg (by simp [h]))
  have hzero : ((s.set F.EMI_STATUS_INHIBIT 0).set F.EMI_STATUS_CAUSE 0).get F.EMI_STATUS_INHIBIT = 0 ∧
      ((s.set F.EMI_STATUS_INHIBIT 0).set F.EMI_STATUS_CAUSE 0).get F.EMI_STATUS_CAUSE = 0 :=
    ⟨(get_set_other _ _ (by decide)).trans (get_set_same _ _ _), get_set_same _ _ _⟩
  have hframe : RegFrame [F.EMI_STATUS_INHIBIT, F.EMI_STATUS_CAUSE] s ((s.set F.EMI_STATUS_INHIBIT 0).set F.EMI_STATUS_CAUSE 0) :=
    (RegFrame.set (.refl _ s) (f := F.EMI_STATUS_INHIBIT) 0 (by simp)).set (f := F.EMI_STATUS_CAUSE) 0 (by simp)
  have hemi : ((s.set F.EMI_STATUS_INHIBIT 0).set F.EMI_STATUS_CAUSE 0).emi = s.emi := rfl
  generalize (s.set F.EMI_STATUS_INHIBIT 0).set F.EMI_STATUS_CAUSE 0 = t at heq hzero hframe hemi
  obtain ⟨hemi', hended⟩ := inhibitEnded_parts t
  generalize inhibitEnded t = u at heq hemi' hended
  refine ⟨_, heq, (hended _ (by simp)).trans hzero.1, (hended _ (by simp)).trans hzero.2, ?_, ?_⟩
  · exact .other (hframe.trans (hended.subset (by simp))) rfl
  · rw [hemi', hemi]

/-! ### The heat model -/

/-- The step of the heat model at one bank, by the registers of s. -/
def heatTick (s t : State) (b : Nat) : State :=
  ((setBank t b { bankAt t b with dT := heatStep s b (bankAt t b), acc := 0 }).set (F.SCH_BANK_STAT_F b)
    (bankDerate s (heatStep s b (bankAt t b)))).setInt (F.SCH_BANK_STAT_T_MODEL b)
      (clampInt (-32768) 32767 (divRoundInt (bankTemp s (heatStep s b (bankAt t b))).num (bankTemp s (heatStep s b (bankAt t b))).den))

/-- A bank's model has taken its step. -/
def HeatStepped (s : State) (b : Nat) (t : State) : Prop :=
  (bankAt t b).acc = 0 ∧ (bankAt t b).dT = heatStep s b (bankAt s b) ∧
    t.get (F.SCH_BANK_STAT_F b) = bankDerate s (heatStep s b (bankAt s b)) % 2 ^ (F.SCH_BANK_STAT_F b).width

theorem heatTick_steps {s t : State} {b : Nat} (h : bankAt t b = bankAt s b) : HeatStepped s b (heatTick s t b) := by
  have hbank : bankAt (heatTick s t b) b = { bankAt t b with dT := heatStep s b (bankAt t b), acc := 0 } := bankAt_setBank ..
  refine ⟨?_, ?_, ?_⟩
  · rw [hbank]
  · rw [hbank, h]
  · rw [← h]
    exact (get_setInt_other (f := F.SCH_BANK_STAT_T_MODEL b) (g := F.SCH_BANK_STAT_F b) _ _ (by simp [Fld.key])).trans
      (get_set_same _ _ _)

theorem heatTick_other (s t : State) {b c : Nat} (hne : c ≠ b) : bankAt (heatTick s t c) b = bankAt t b ∧
    (heatTick s t c).get (F.SCH_BANK_STAT_F b) = t.get (F.SCH_BANK_STAT_F b) := by
  refine ⟨bankAt_setBank_other t hne _, ?_⟩
  refine (get_setInt_other (f := F.SCH_BANK_STAT_T_MODEL c) (g := F.SCH_BANK_STAT_F b) _ _ (by simp only [Fld.key]; omega)).trans ?_
  exact get_set_other (f := F.SCH_BANK_STAT_F c) (g := F.SCH_BANK_STAT_F b) _ _ (by simp only [Fld.key]; omega)

/-- The model's step at a bank is taken once, from the record that the bank had. -/
theorem heatTicks_step {l : List Nat} (hl : l.Nodup) {s t : State} {b : Nat} (hb : b ∈ l) (h : bankAt t b = bankAt s b) :
    HeatStepped s b (l.foldl (heatTick s) t) := by
  induction l generalizing t with
  | nil => cases hb
  | cons a r ih =>
    obtain ⟨ha, hr⟩ := List.nodup_cons.1 hl
    rw [List.foldl_cons]
    rcases List.mem_cons.1 hb with rfl | hb
    · refine List.foldlRecOn r _ (heatTick_steps h) fun u hu c hc => ?_
      obtain ⟨hbank, hf⟩ := heatTick_other s u (b := b) (c := c) fun e => ha (e ▸ hc)
      obtain ⟨hacc, hdT, hfb⟩ := hu
      exact ⟨by rw [hbank]; exact hacc, by rw [hbank]; exact hdT, hf.trans hfb⟩
    · have hne : a ≠ b := fun e => ha (e ▸ hb)
      exact ih hr hb ((heatTick_other s t hne).1.trans h)

theorem execHeatModelTick_eq {s : State} (h : hgeUp s = true) :
    execHeatModelTick s = .next ((List.range 8).foldl (heatTick s) s) := if_neg (by simp [h])

/-- Settles O57: banks, sweeps, the inhibition and the heat model, operation by operation. -/
theorem banksAndSweeps : Obligations.BanksAndSweeps := by
  unfold Obligations.BanksAndSweeps
  intro s
  refine ⟨fun b x hx hup hdue hidle hrange hfree hin => ?_, fun b h => ⟨s, if_pos ?_, rfl⟩,
    fun b v dur energy hoff => ⟨s, if_pos (by simp [hoff]), rfl⟩, rechargeEnd_clause s, overvoltage_clause s, inRange_clause s,
    sweep_clause s, fun hup hen => ⟨_, (if_neg (by simp [hup])).trans (if_pos (by simp [hen])), rfl⟩,
    fun hdown => ⟨s, if_pos (by simp [hdown]), rfl⟩, retry_clause s,
    fun w hm => ⟨s, congrArg Host.Outcome.next (writeRetry_off hm w.val), rfl⟩, bankEn_clause s,
    fun value b hbit hin => ⟨s, congrArg Host.Outcome.next (writeBankReg_discards b.isLt hbit hin), rfl⟩, stray_clause s,
    noStray_clause s, inhibitClear_clause s, fun hno => ⟨s, congrArg Host.Outcome.next (if_pos (by simp [hno])), rfl⟩,
    fun hup => ⟨_, execHeatModelTick_eq hup, fun b hb => heatTicks_step List.nodup_range (List.mem_range.2 hb) rfl⟩⟩
  · subst hx
    refine ⟨_, rechargeStart_due s b hup hdue hidle hrange hfree hin, bankAt_setBank _ _ _, rfl, rfl⟩
  · rcases h with h | h
    · simp [h]
    · simp [h]

end Sys2Proof.Machine

/-! ## Lamp-board temperatures and floodlights (R368 to R375) -/
namespace Sys2Proof.Machine

/-! ### The strings -/

section
variable (s : State)

theorem stringAt_setString (n : Nat) (x : FlString) : stringAt (setString s n x) n = x := by
  unfold stringAt setString
  dsimp only
  rw [putAt_getD, if_pos rfl]

theorem stringAt_setString_other {n m : Nat} (h : n ≠ m) (x : FlString) : stringAt (setString s n x) m = stringAt s m := by
  unfold stringAt setString
  dsimp only
  rw [putAt_getD, if_neg h]

theorem setString_on {x : FlString} (h : x.on = true) (n : Nat) : (setString s n x).pins = { s.pins with fls := setBit s.pins.fls n } := by
  unfold setString
  rw [h]
  rfl

theorem setString_off {x : FlString} (h : x.on = false) (n : Nat) :
    (setString s n x).pins = { s.pins with fls := clearBit s.pins.fls n } := by
  unfold setString
  rw [h]
  rfl

/-- What the switch-off of the floodlight leaves (R374). -/
theorem floodOff_parts {n cause : Nat} (hn : n < 4) (hc : cause < 8) : (floodOff s n cause).get F.EMI_FL_STAT_FAULT = 1 ∧
    (floodOff s n cause).get F.EMI_FL_STAT_CAUSE = cause ∧ (floodOff s n cause).get F.EMI_FL_STAT_STRING = n ∧
    (floodOff s n cause).pins = { s.pins with fls := 0 } ∧ (floodOff s n cause).emi.flOff = true ∧
    (floodOff s n cause).emi.lbtRun = s.emi.lbtRun ∧ (floodOff s n cause).mode = s.mode ∧
    RegFrame ([F.EMI_FL_STAT_FAULT, F.EMI_FL_STAT_CAUSE, F.EMI_FL_STAT_STRING] ++ faultFields 2) s (floodOff s n cause) := by
  unfold floodOff
  dsimp only
  have hput (p : Pins) (e : EmiSt) : RegFrame ([F.EMI_FL_STAT_FAULT, F.EMI_FL_STAT_CAUSE, F.EMI_FL_STAT_STRING] ++ faultFields 2) s
      { s with pins := p, emi := e } := .other (.refl _ s) rfl
  have ht := hput { s.pins with fls := 0 } { s.emi with
    flOff := true, strings := s.emi.strings.map fun x => { x with on := false, diag := false, pulse := false, fails := 0 } }
  have hrest : ({ s with
      pins := { s.pins with fls := 0 }
      emi := { s.emi with flOff := true, strings := s.emi.strings.map fun x => { x with on := false, diag := false, pulse := false, fails := 0 } } }
      : State).mode = s.mode := rfl
  have hlets := raiseFault_lets (((({ s with
      pins := { s.pins with fls := 0 }
      emi := { s.emi with flOff := true, strings := s.emi.strings.map fun x => { x with on := false, diag := false, pulse := false, fails := 0 } } }
      : State).set F.EMI_FL_STAT_FAULT 1).set F.EMI_FL_STAT_CAUSE cause).set F.EMI_FL_STAT_STRING n) 2 0x0A03 (n + 4 * cause)
  have hset := ((ht.set (f := F.EMI_FL_STAT_FAULT) 1 (by simp)).set (f := F.EMI_FL_STAT_CAUSE) cause (by simp)).set
    (f := F.EMI_FL_STAT_STRING) n (by simp)
  have hframe := hset.trans (hlets.frame.subset (by simp +contextual))
  refine ⟨?_, ?_, ?_, hlets.pins, ?_, ?_, hlets.mode, hframe⟩
  · rw [hlets.frame _ (by decide), get_set_other _ _ (by decide), get_set_other _ _ (by decide), get_set_same]
    rfl
  · rw [hlets.frame _ (by decide), get_set_other _ _ (by decide), get_set_same]
    exact Nat.mod_eq_of_lt hc
  · rw [hlets.frame _ (by decide), get_set_same]
    exact Nat.mod_eq_of_lt hn
  · rw [raiseFault_emi]
    rfl
  · rw [raiseFault_emi]
    rfl

/-! ### Lamp-board temperatures -/

/-- The registers of an input's state and those that its loss changes. -/
def lbtFields (k : Nat) : List Fld :=
  F.EMI_LBT_VALID k :: ([F.EMI_FL_STAT_FAULT, F.EMI_FL_STAT_CAUSE, F.EMI_FL_STAT_STRING] ++ faultFields 2)

theorem valid_apart (k : Fin 2) : ∀ g ∈ [F.EMI_FL_STAT_FAULT, F.EMI_FL_STAT_CAUSE, F.EMI_FL_STAT_STRING] ++ faultFields 2,
    (F.EMI_LBT_VALID k).key ≠ g.key := by
  revert k
  decide

theorem code_apart (k : Fin 2) : ∀ g ∈ lbtFields k, (F.EMI_LBT_CODE k).key ≠ g.key ∧ (F.EMI_LBT_TEMP k).key ≠ g.key := by
  revert k
  decide

theorem lbtInvalid_parts (k : Fin 2) : (lbtInvalid s k).get (F.EMI_LBT_VALID k) = 0 ∧ (lbtInvalid s k).emi.lbtRun = s.emi.lbtRun ∧
    (lbtInvalid s k).mode = s.mode ∧ RegFrame (lbtFields k) s (lbtInvalid s k) := by
  have hset : RegFrame (lbtFields k) s (s.set (F.EMI_LBT_VALID k) 0) := (RegFrame.refl _ s).set 0 (by simp [lbtFields])
  have hzero := get_set_same s (F.EMI_LBT_VALID k) 0
  have hemi : (s.set (F.EMI_LBT_VALID k) 0).emi = s.emi := rfl
  have hmode : (s.set (F.EMI_LBT_VALID k) 0).mode = s.mode := rfl
  unfold lbtInvalid
  dsimp only
  generalize s.set (F.EMI_LBT_VALID k) 0 = t at hset hzero hemi hmode ⊢
  have hsame : t.get (F.EMI_LBT_VALID k) = 0 ∧ t.emi.lbtRun = s.emi.lbtRun ∧ t.mode = s.mode ∧ RegFrame (lbtFields k) s t :=
    ⟨hzero, by rw [hemi], hmode, hset⟩
  split
  · split
    · exact hsame
    · have hlets := raiseFault_lets t 2 0x0901 0
      refine ⟨(hlets.frame _ fun g hg => valid_apart k g (by simp [hg])).trans hzero, ?_, hlets.mode.trans hmode,
        hset.trans (hlets.frame.subset (by simp +contextual [lbtFields]))⟩
      rw [raiseFault_emi, hemi]
  · split
    · have hfree : (t.takeFree 2).1 < 4 ∧ (t.takeFree 2).2.regs = t.regs ∧ (t.takeFree 2).2.emi = t.emi ∧
        (t.takeFree 2).2.mode = t.mode := ⟨Nat.mod_lt _ (by decide), rfl, rfl, rfl⟩
      generalize t.takeFree 2 = e at hfree ⊢
      obtain ⟨hn, hregs, he, hm⟩ := hfree
      obtain ⟨-, -, -, -, -, hrun, hmode', hframe⟩ := floodOff_parts e.2 hn (cause := 3) (by decide)
      have heq : e.2.get (F.EMI_LBT_VALID k) = t.get (F.EMI_LBT_VALID k) := RegFrame.other (.refl [] t) hregs _ (by simp)
      refine ⟨((hframe _ (valid_apart k)).trans heq).trans hzero, hrun.trans (by rw [he, hemi]), hmode'.trans (hm.trans hmode), ?_⟩
      exact (hset.other hregs).trans (hframe.subset (by simp +contextual [lbtFields]))
    · exact hsame

theorem lbtInvalid_floods (h : s.flag (F.EMI_LBT_VALID 1) = true) : (lbtInvalid s 1).get F.EMI_FL_STAT_FAULT = 1 ∧
    (lbtInvalid s 1).get F.EMI_FL_STAT_CAUSE = 3 ∧ (lbtInvalid s 1).pins.fls = 0 := by
  unfold lbtInvalid
  dsimp only
  rw [if_neg (by decide), if_pos h]
  have hn : ((s.set (F.EMI_LBT_VALID 1) 0).takeFree 2).1 < 4 := Nat.mod_lt _ (by decide)
  generalize (s.set (F.EMI_LBT_VALID 1) 0).takeFree 2 = e at hn ⊢
  obtain ⟨hfault, hcause, -, hpins, -⟩ := floodOff_parts e.2 hn (cause := 3) (by decide)
  refine ⟨hfault, hcause, ?_⟩
  rw [hpins]

theorem lbtJudge_parts (k : Fin 2) : (lbtJudge s k).emi.lbtRun = s.emi.lbtRun ∧ (lbtJudge s k).mode = s.mode ∧
    RegFrame (lbtFields k) s (lbtJudge s k) := by
  unfold lbtJudge
  split
  · have hset : RegFrame (lbtFields k) s (s.set (F.EMI_LBT_VALID k) 1) := (RegFrame.refl _ s).set 1 (by simp [lbtFields])
    dsimp only
    split
    · exact ⟨rfl, rfl, hset.endFault 0x0901 0⟩
    · exact ⟨rfl, rfl, hset⟩
  · split
    · exact (lbtInvalid_parts s k).2
    · exact ⟨rfl, rfl, .refl _ s⟩

theorem lbtJudge_valid {k : Nat} (hrun : s.emi.lbtRun.getD k 16 = 0) (hcfg : lbtConfigured s k = true) :
    (lbtJudge s k).get (F.EMI_LBT_VALID k) = 1 := by
  unfold lbtJudge
  rw [if_pos (by simp only [hrun, hcfg, decide_true, Bool.and_self])]
  have hone := get_set_same s (F.EMI_LBT_VALID k) 1
  generalize s.set (F.EMI_LBT_VALID k) 1 = t at hone ⊢
  dsimp only
  split
  · exact ((RegFrame.refl [] t).endFault 0x0901 0 _ (by simp)).trans hone
  · exact hone

/-- The state in which a good mean is judged. -/
def lbtTaken (k w : Nat) : State :=
  { s.set (F.EMI_LBT_TEMP k) w with emi := { s.emi with lbtRun := putAt s.emi.lbtRun k 16 (s.emi.lbtRun.getD k 16 - 1) } }

theorem lbtGood_eq (k w : Nat) : lbtGood s k w = if k = 0 then lbtJudge (lbtTaken s k w) k
    else (lbtJudge (lbtTaken s k w) k).set F.EMI_FL_STAT_F_FL
      (divRound (16 * (flDerate (lbtJudge (lbtTaken s k w) k)).1) (flDerate (lbtJudge (lbtTaken s k w) k)).2) := rfl

theorem lbtGood_judged (k : Fin 2) (w : Nat) : (lbtGood s k w).emi = (lbtJudge (lbtTaken s k w) k).emi ∧
    (lbtGood s k w).mode = (lbtJudge (lbtTaken s k w) k).mode ∧
    RegFrame [F.EMI_FL_STAT_F_FL] (lbtJudge (lbtTaken s k w) k) (lbtGood s k w) := by
  rw [lbtGood_eq]
  split
  · exact ⟨rfl, rfl, .refl _ _⟩
  · exact ⟨rfl, rfl, .setOne _ _ _⟩

end

theorem lbt_keys : ∀ k < 2, (F.EMI_LBT_CODE k).key ≠ F.EMI_FL_STAT_F_FL.key ∧ (F.EMI_LBT_TEMP k).key ≠ F.EMI_FL_STAT_F_FL.key ∧
    (F.EMI_LBT_VALID k).key ≠ F.EMI_FL_STAT_F_FL.key ∧ (F.EMI_LBT_CODE k).key ≠ (F.EMI_LBT_TEMP k).key ∧
    (F.EMI_LBT_VALID k).key ≠ (F.EMI_LBT_CODE k).key := by decide

section
variable (s : State) (k : Fin 2) (l : List Nat) (code : Nat) (hcode : code = divRound (l.foldl (· + ·) 0) 16) (hup : emiUp s = true)
include hcode hup

theorem badMean_clause (hbad : code < 0x010 ∨ 0xFF0 < code) : Gives (.lbtMean k l) s (fun t =>
    t.get (F.EMI_LBT_CODE k) = code % 2 ^ 12 ∧ t.get (F.EMI_LBT_VALID k) = 0 ∧ t.emi.lbtRun = putAt s.emi.lbtRun k 16 16 ∧
    t.mode = s.mode ∧
    (k = 1 → s.flag (F.EMI_LBT_VALID 1) = true → t.get F.EMI_FL_STAT_FAULT = 1 ∧ t.get F.EMI_FL_STAT_CAUSE = 3 ∧ t.pins.fls = 0)) := by
  have heq : execLbtMean k l s = .next (lbtInvalid { s.set (F.EMI_LBT_CODE k) code with
      emi := { s.emi with lbtRun := putAt s.emi.lbtRun k 16 16 } } k) := by
    subst hcode
    exact (if_neg (by simp [hup])).trans (if_pos ((Bool.or_eq_true ..).mpr (hbad.imp (fun h => decide_eq_true h) fun h => decide_eq_true h)))
  have hput (e : EmiSt) : ({ s.set (F.EMI_LBT_CODE k) code with emi := e } : State).get (F.EMI_LBT_CODE k) = code % 2 ^ 12 ∧
      ({ s.set (F.EMI_LBT_CODE k) code with emi := e } : State).mode = s.mode ∧
      ({ s.set (F.EMI_LBT_CODE k) code with emi := e } : State).emi = e := ⟨get_set_same _ _ _, rfl, rfl⟩
  have hvalid (e : EmiSt) : ({ s.set (F.EMI_LBT_CODE k) code with emi := e } : State).flag (F.EMI_LBT_VALID k) =
      s.flag (F.EMI_LBT_VALID k) := congrArg (· != 0) (get_set_other s code (lbt_keys k k.isLt).2.2.2.2)
  obtain ⟨hc, hm, he⟩ := hput { s.emi with lbtRun := putAt s.emi.lbtRun k 16 16 }
  have hv := hvalid { s.emi with lbtRun := putAt s.emi.lbtRun k 16 16 }
  generalize ({ s.set (F.EMI_LBT_CODE k) code with emi := { s.emi with lbtRun := putAt s.emi.lbtRun k 16 16 } } : State) = t at heq hc hm he hv
  obtain ⟨hzero, hrun, hmode, hframe⟩ := lbtInvalid_parts t k
  refine ⟨_, heq, (hframe _ fun g hg => (code_apart k g hg).1).trans hc, hzero, ?_, hmode.trans hm, fun hk hwas => ?_⟩
  · rw [hrun, he]
  · subst hk
    exact lbtInvalid_floods t (hv.trans hwas)

theorem goodMean_clause (x : Int) (hcfg : lbtConfigured s k = true) (hlow : 0x010 ≤ code) (hhigh : code ≤ 0xFF0)
    (htemp : lbtTemp (s.get (F.EMI_LBT_CFG_R0_RATIO k)) (s.get (F.EMI_LBT_CFG_BETA k)) code = some x) :
    Gives (.lbtMean k l) s (fun t => t.get (F.EMI_LBT_CODE k) = code % 2 ^ 12 ∧ t.get (F.EMI_LBT_TEMP k) = toBits 16 x % 2 ^ 16 ∧
      t.emi.lbtRun = putAt s.emi.lbtRun k 16 (s.emi.lbtRun.getD k 16 - 1) ∧
      (s.emi.lbtRun.getD k 16 ≤ 1 → t.get (F.EMI_LBT_VALID k) = 1) ∧ t.mode = s.mode) := by
  have heq : execLbtMean k l s = .next (lbtGood (s.set (F.EMI_LBT_CODE k) code) k (toBits 16 x)) := by
    unfold execLbtMean lbtMeanCode
    dsimp only
    rw [← hcode, if_neg (by simp [hup]), if_neg (by simp; omega), htemp]
    rfl
  obtain ⟨hcf, htf, hvf, hct, -⟩ := lbt_keys k k.isLt
  obtain ⟨hemi, hmode, hflux⟩ := lbtGood_judged (s.set (F.EMI_LBT_CODE k) code) k (toBits 16 x)
  have hlist : (lbtTaken (s.set (F.EMI_LBT_CODE k) code) k (toBits 16 x)).emi.lbtRun =
    putAt s.emi.lbtRun k 16 (s.emi.lbtRun.getD k 16 - 1) := rfl
  have hm : (lbtTaken (s.set (F.EMI_LBT_CODE k) code) k (toBits 16 x)).mode = s.mode := rfl
  have hc : (lbtTaken (s.set (F.EMI_LBT_CODE k) code) k (toBits 16 x)).get (F.EMI_LBT_CODE k) = code % 2 ^ 12 :=
    (get_set_other _ (toBits 16 x) hct).trans (get_set_same _ _ _)
  have ht : (lbtTaken (s.set (F.EMI_LBT_CODE k) code) k (toBits 16 x)).get (F.EMI_LBT_TEMP k) = toBits 16 x % 2 ^ 16 := get_set_same _ _ _
  have hcfg' : lbtConfigured (lbtTaken (s.set (F.EMI_LBT_CODE k) code) k (toBits 16 x)) k = true := by
    have hap : ∀ k < 2, ∀ f ∈ [F.EMI_LBT_CFG_R0_RATIO k, F.EMI_LBT_CFG_BETA k],
      f.key ≠ (F.EMI_LBT_TEMP k).key ∧ f.key ≠ (F.EMI_LBT_CODE k).key := by decide
    have hkept (f : Fld) (hf : f ∈ [F.EMI_LBT_CFG_R0_RATIO k, F.EMI_LBT_CFG_BETA k]) :
        (lbtTaken (s.set (F.EMI_LBT_CODE k) code) k (toBits 16 x)).get f = s.get f :=
      (get_set_other _ (toBits 16 x) (hap k k.isLt f hf).1).trans (get_set_other _ code (hap k k.isLt f hf).2)
    unfold lbtConfigured
    rw [hkept _ (by simp), hkept _ (by simp)]
    exact hcfg
  generalize lbtTaken (s.set (F.EMI_LBT_CODE k) code) k (toBits 16 x) = t at hemi hmode hflux hlist hm hc ht hcfg'
  obtain ⟨hrun, hmode', hframe⟩ := lbtJudge_parts t k
  refine ⟨_, heq, ?_, ?_, ?_, fun hlast => ?_, hmode.trans (hmode'.trans hm)⟩
  · rw [hflux _ (by simpa using hcf), hframe _ fun g hg => (code_apart k g hg).1]
    exact hc
  · rw [hflux _ (by simpa using htf), hframe _ fun g hg => (code_apart k g hg).2]
    exact ht
  · rw [hemi, hrun, hlist]
  · rw [hflux _ (by simpa using hvf)]
    refine lbtJudge_valid t ?_ hcfg'
    rw [hlist, putAt_getD, if_pos rfl]
    omega

end

/-! ### Floodlight -/

section
variable (s : State)

/-- The switches of EMI_FL_CTRL as written. -/
def flWritten (v : Nat) : State :=
  ((s.put F.EMI_FL_CTRL_DIAG_EN (bit v 4)).set F.EMI_FL_CTRL_FREQ (bits v 2 2)).put F.EMI_FL_CTRL_EN (bit v 0)

/-- Every string off. -/
def stringsOff (t : State) : State :=
  (List.range 4).foldl (fun t n => setString t n { stringAt t n with on := false, pulse := false }) t

theorem stringsOff_regs (t : State) : (stringsOff t).regs = t.regs :=
  List.foldlRecOn (List.range 4) _ (motive := fun (u : State) => u.regs = t.regs) rfl fun _ hu _ _ => hu

theorem testBit_clearBit (w n m : Nat) : (clearBit w n).testBit m = (w.testBit m && !decide (n = m)) := by
  unfold clearBit
  split
  next h =>
    have hand := two_pow_eq_and_of_testBit h
    rw [hand, testBit_sub_and, Nat.testBit_two_pow]
  next h =>
    by_cases he : n = m
    · subst he
      simpa using h
    · simp [he]

theorem stringsOff_off (t : State) : ∀ n < 4, (stringAt (stringsOff t) n).on = false ∧ (stringsOff t).pins.fls.testBit n = false := by
  intro n hn
  refine foldl_establishes (Q := fun u => (stringAt u n).on = false ∧ u.pins.fls.testBit n = false) (List.mem_range.2 hn)
    (fun u => ⟨by rw [stringAt_setString], testBit_clearBit_same _ _⟩) (fun u m _ hne hu => ?_) t
  refine ⟨by rw [stringAt_setString_other _ hne]; exact hu.1, ?_⟩
  refine (testBit_clearBit u.pins.fls m n).trans ?_
  rw [hu.2]
  rfl

theorem writeFlCtrl_on {v : Nat} (h : bit v 0 = true) : writeFlCtrl s v =
    if s.emi.flOff && !s.flag F.EMI_FL_STAT_FAULT then { flWritten s v with
      emi := { s.emi with flOff := false, flWait := true }
      faults := s.faults.map fun (r : FaultRec) => if r.code = 0x0A03 then { r with active := false } else r }
    else flWritten s v := by
  unfold writeFlCtrl
  dsimp only
  rw [if_pos h]
  rfl

theorem writeFlCtrl_off {v : Nat} (h : bit v 0 = false) : writeFlCtrl s v = stringsOff (flWritten s v) := if_neg (by simp [h])

theorem flWritten_get (v : Nat) : (flWritten s v).get F.EMI_FL_CTRL_EN = b2n (bit v 0) ∧
    (flWritten s v).get F.EMI_FL_CTRL_FREQ = bits v 2 2 ∧ (flWritten s v).get F.EMI_FL_CTRL_DIAG_EN = b2n (bit v 4) ∧
    RegFrame [F.EMI_FL_CTRL_EN, F.EMI_FL_CTRL_FREQ, F.EMI_FL_CTRL_DIAG_EN] s (flWritten s v) := by
  unfold flWritten
  refine ⟨?_, ?_, ?_, ?_⟩
  · refine (get_set_same _ _ _).trans ?_
    cases bit v 0 <;> rfl
  · rw [get_put_other _ _ (by decide), get_set_same]
    exact Nat.mod_mod _ _
  · rw [get_put_other _ _ (by decide), get_set_other _ _ (by decide)]
    refine (get_set_same _ _ _).trans ?_
    cases bit v 4 <;> rfl
  · exact (((RegFrame.refl _ s).put (f := F.EMI_FL_CTRL_DIAG_EN) _ (by simp)).set (f := F.EMI_FL_CTRL_FREQ) _ (by simp)).put
      (f := F.EMI_FL_CTRL_EN) _ (by simp)

theorem flCtrl_clause (value : Dword) : Gives (.emiFlCtrlWrite value) s (fun t => t.get F.EMI_FL_CTRL_EN = b2n (bit value.toNat 0) ∧
    t.get F.EMI_FL_CTRL_FREQ = bits value.toNat 2 2 ∧ t.get F.EMI_FL_CTRL_DIAG_EN = b2n (bit value.toNat 4) ∧
    RegFrame [F.EMI_FL_CTRL_EN, F.EMI_FL_CTRL_FREQ, F.EMI_FL_CTRL_DIAG_EN] s t ∧
    (bit value.toNat 0 = false → ∀ n < 4, (stringAt t n).on = false ∧ t.pins.fls.testBit n = false) ∧
    (bit value.toNat 0 = true → s.flag F.EMI_FL_STAT_FAULT = false → t.emi.flOff = false)) := by
  refine ⟨_, rfl, ?_⟩
  generalize value.toNat = v
  obtain ⟨hen, hfreq, hdiag, hframe⟩ := flWritten_get s v
  have hemi : (flWritten s v).emi = s.emi := rfl
  cases hb : bit v 0 with
  | false =>
    rw [writeFlCtrl_off s hb]
    rw [hb] at hen
    generalize flWritten s v = t at hen hfreq hdiag hframe
    have hsame := RegFrame.other (.refl [] t) (stringsOff_regs t)
    exact ⟨(hsame _ (by simp)).trans hen, (hsame _ (by simp)).trans hfreq, (hsame _ (by simp)).trans hdiag,
      hframe.other (stringsOff_regs t), fun _ => stringsOff_off t, fun h => absurd h (by decide)⟩
  | true =>
    rw [writeFlCtrl_on s hb]
    rw [hb] at hen
    generalize flWritten s v = t at hen hfreq hdiag hframe hemi ⊢
    split
    next => exact ⟨hen, hfreq, hdiag, hframe.other rfl, fun h => absurd h (by decide), fun _ _ => rfl⟩
    next hno =>
      refine ⟨hen, hfreq, hdiag, hframe, fun h => absurd h (by decide), fun _ hfault => ?_⟩
      rw [hemi]
      simpa [hfault] using hno

theorem flDuty_clause (n : Fin 4) (value : Dword) (d : Nat) (hd : d = (F.EMI_FL_DUTY n).of value.toNat) :
    (1000 < d → Gives (.emiFlDutyWrite n value) s (fun t => t = s)) ∧
    (d ≤ 1000 → Gives (.emiFlDutyWrite n value) s (fun t => t.get (F.EMI_FL_DUTY n) = d ∧ RegsOnly [F.EMI_FL_DUTY n] s t)) := by
  subst hd
  refine ⟨fun h => ⟨s, congrArg Host.Outcome.next (if_pos h), rfl⟩,
    fun h => ⟨_, congrArg Host.Outcome.next (if_neg (by omega)), ?_, (RegsOnly.refl _ s).set _ (by simp)⟩⟩
  exact (get_set_same _ _ _).trans (of_mod _ _)

/-- The state in which an on-time is judged: string 0 starts the period. -/
def onTimeAt (n : Nat) (start : Bool) : State :=
  if n = 0 && start then { s with emi := { s.emi with flFreq := s.get F.EMI_FL_CTRL_FREQ, flWait := false } } else s

theorem onTimeAt_parts (n : Nat) (start : Bool) : (onTimeAt s n start).regs = s.regs ∧ (onTimeAt s n start).pins = s.pins ∧
    (onTimeAt s n start).emi.strings = s.emi.strings ∧ (onTimeAt s n start).emi.flOff = s.emi.flOff ∧
    (onTimeAt s n start).mode = s.mode ∧ emiUp (onTimeAt s n start) = emiUp s := by
  unfold onTimeAt
  split <;> exact ⟨rfl, rfl, rfl, rfl, rfl, rfl⟩

theorem execFloodOnTime_start (n : Fin 4) : execFloodOnTime n true s =
    if emiUp (onTimeAt s n true) && (onTimeAt s n true).flag F.EMI_FL_CTRL_EN && !(onTimeAt s n true).emi.flOff &&
        !(onTimeAt s n true).emi.flWait &&
        (onTimeAt s n true).get (F.EMI_FL_DUTY n) * (flDerate (onTimeAt s n true)).1 / (flDerate (onTimeAt s n true)).2 != 0 then
      .next (setString (onTimeAt s n true) n { stringAt (onTimeAt s n true) n with
        duty := (onTimeAt s n true).get (F.EMI_FL_DUTY n) * (flDerate (onTimeAt s n true)).1 / (flDerate (onTimeAt s n true)).2
        on := true, pulse := (stringAt (onTimeAt s n true) n).diag, diag := false })
    else .next (setString (onTimeAt s n true) n { stringAt (onTimeAt s n true) n with
        duty := (onTimeAt s n true).get (F.EMI_FL_DUTY n) * (flDerate (onTimeAt s n true)).1 / (flDerate (onTimeAt s n true)).2
        on := false, pulse := false }) := rfl

theorem flDerate_of_regs {s t : State} (h : t.regs = s.regs) : flDerate t = flDerate s := by
  have hget (f : Fld) : t.get f = s.get f := RegFrame.other (.refl [] s) h f (by simp)
  unfold flDerate State.getInt
  rw [hget, hget, hget]

theorem onTimeAt_string (n : Nat) (start : Bool) (m : Nat) : stringAt (onTimeAt s n start) m = stringAt s m := by
  unfold stringAt
  rw [(onTimeAt_parts s n start).2.2.1]

theorem onTime_starts (n : Fin 4) (d : Nat) (hd : d = s.get (F.EMI_FL_DUTY n) * (flDerate s).1 / (flDerate s).2) (hup : emiUp s = true)
    (hen : s.flag F.EMI_FL_CTRL_EN = true) (hoff : s.emi.flOff = false) (hwait : n.val = 0 ∨ s.emi.flWait = false) (hd0 : d ≠ 0) :
    Gives (.floodOnTime n true) s (fun t =>
      stringAt t n = { stringAt s n with duty := d, on := true, pulse := (stringAt s n).diag, diag := false } ∧
      t.pins = { s.pins with fls := setBit s.pins.fls n } ∧ t.regs = s.regs) := by
  have hgo : (onTimeAt s n true).emi.flWait = false := by
    unfold onTimeAt
    split
    next => rfl
    next hno =>
      rcases hwait with h | h
      · simp [h] at hno
      · exact h
  obtain ⟨hregs, hpins, -, hof, -, hu⟩ := onTimeAt_parts s n true
  have hstring := onTimeAt_string s n true n
  have heq := execFloodOnTime_start s n
  have hget (f : Fld) : (onTimeAt s n true).get f = s.get f := RegFrame.other (.refl [] s) hregs f (by simp)
  have hflag : (onTimeAt s n true).flag F.EMI_FL_CTRL_EN = true := (congrArg (· != 0) (hget _)).trans hen
  rw [hget, flDerate_of_regs hregs, ← hd, hstring, hu, hflag, hof, hgo, hup, hoff, if_pos (by simp [hd0])] at heq
  generalize onTimeAt s n true = t at heq hregs hpins
  refine ⟨_, heq, stringAt_setString .., ?_, ?_⟩
  · rw [setString_on _ rfl, hpins]
  · exact hregs

theorem onTime_held (n : Fin 4) (hn : n.val ≠ 0) (h : s.emi.flOff = true ∨ s.emi.flWait = true) :
    Gives (.floodOnTime n true) s (fun t =>
      (stringAt t n).on = false ∧ t.pins = { s.pins with fls := clearBit s.pins.fls n } ∧ t.regs = s.regs) := by
  have hsame : onTimeAt s n true = s := if_neg (by simp [hn])
  have heq := execFloodOnTime_start s n
  rw [hsame, if_neg (by rcases h with h | h <;> simp [h])] at heq
  refine ⟨_, heq, ?_, setString_off _ rfl _, rfl⟩
  rw [stringAt_setString]

theorem onTime_ends (n : Fin 4) (hon : (stringAt s n).on = true) : Gives (.floodOnTime n false) s (fun t =>
    stringAt t n = { stringAt s n with on := false, pulse := false } ∧ t.pins = { s.pins with fls := clearBit s.pins.fls n } ∧
    t.regs = s.regs) := by
  have hsame : onTimeAt s n false = s := if_neg (by simp)
  have heq : execFloodOnTime n false s = if (stringAt (onTimeAt s n false) n).on then
      .next (setString (onTimeAt s n false) n { stringAt (onTimeAt s n false) n with on := false, pulse := false })
    else .next (onTimeAt s n false) := rfl
  rw [hsame, if_pos hon] at heq
  exact ⟨_, heq, stringAt_setString .., setString_off _ rfl _, rfl⟩

section
variable (n : Fin 4) (sample : Nat) (hon : (stringAt s n).on = true)
include hon

theorem openCheck_over (h : s.get F.EMI_FL_LIM_OVER_TH < sample) : execFloodOpenCheck n sample s = .next (floodOff s n 2) :=
  (if_neg (by simp [hon])).trans (if_pos h)

/-- A string's check with a current within the limit and an on-time that is long enough. -/
theorem openCheck_checks (h : sample ≤ s.get F.EMI_FL_LIM_OVER_TH) (hlong : 2000 ≤ onTimeNs s (stringAt s n)) :
    execFloodOpenCheck n sample s = if s.get F.EMI_FL_LIM_OPEN_TH ≤ sample then
        .next (endFault (setString (s.set F.EMI_FL_STAT_UNVERIFIED (clearBit (s.get F.EMI_FL_STAT_UNVERIFIED) n)) n
          { stringAt s n with fails := 0 }) 0x0A04 n)
      else if 1 ≤ (stringAt s n).fails then .next (floodOff s n 1)
      else .next (setString s n { stringAt s n with fails := (stringAt s n).fails + 1 }) :=
  (if_neg (by simp [hon])).trans ((if_neg (by omega)).trans (if_neg (by omega)))

theorem openCheck_clause :
    (s.get F.EMI_FL_LIM_OVER_TH < sample → Gives (.floodOpenCheck n sample) s (fun t => t.get F.EMI_FL_STAT_FAULT = 1 ∧
      t.get F.EMI_FL_STAT_CAUSE = 2 ∧ t.get F.EMI_FL_STAT_STRING = n ∧ t.pins = { s.pins with fls := 0 } ∧ t.emi.flOff = true ∧
      RegFrame ([F.EMI_FL_STAT_FAULT, F.EMI_FL_STAT_CAUSE, F.EMI_FL_STAT_STRING] ++ faultFields 2) s t)) ∧
    (sample ≤ s.get F.EMI_FL_LIM_OVER_TH → 2000 ≤ onTimeNs s (stringAt s n) →
      (s.get F.EMI_FL_LIM_OPEN_TH ≤ sample → Gives (.floodOpenCheck n sample) s (fun t => (stringAt t n).fails = 0 ∧
        (t.get F.EMI_FL_STAT_UNVERIFIED).testBit n = false ∧ RegFrame [F.EMI_FL_STAT_UNVERIFIED] s t)) ∧
      (sample < s.get F.EMI_FL_LIM_OPEN_TH → (stringAt s n).fails = 0 → Gives (.floodOpenCheck n sample) s (fun t =>
        (stringAt t n).fails = 1 ∧ t.regs = s.regs)) ∧
      (sample < s.get F.EMI_FL_LIM_OPEN_TH → 1 ≤ (stringAt s n).fails → Gives (.floodOpenCheck n sample) s (fun t =>
        t.get F.EMI_FL_STAT_FAULT = 1 ∧ t.get F.EMI_FL_STAT_CAUSE = 1 ∧ t.get F.EMI_FL_STAT_STRING = n ∧
        t.pins = { s.pins with fls := 0 } ∧ t.emi.flOff = true))) := by
  refine ⟨fun hover => ?_, fun hlim hlong => ?_⟩
  · obtain ⟨hfault, hcause, hstring, hpins, hoff, -, -, hframe⟩ := floodOff_parts s n.isLt (cause := 2) (by decide)
    exact ⟨_, openCheck_over s n sample hon hover, hfault, hcause, hstring, hpins, hoff, hframe⟩
  have heq := openCheck_checks s n sample hon hlim hlong
  refine ⟨fun hpass => ?_, fun hlow hfirst => ?_, fun hlow hagain => ?_⟩
  · have hset := RegFrame.setOne s F.EMI_FL_STAT_UNVERIFIED (clearBit (s.get F.EMI_FL_STAT_UNVERIFIED) n)
    have hbit := testBit_set_clearBit s F.EMI_FL_STAT_UNVERIFIED (s.get F.EMI_FL_STAT_UNVERIFIED) n
    rw [if_pos hpass] at heq
    generalize s.set F.EMI_FL_STAT_UNVERIFIED _ = t at heq hset hbit
    have hstring := stringAt_setString t n { stringAt s n with fails := 0 }
    have hregs : (setString t n { stringAt s n with fails := 0 }).regs = t.regs := rfl
    generalize setString t n.val { stringAt s n.val with fails := 0 } = u at heq hstring hregs
    have hend := RegFrame.endFault (.other (.refl [] t) hregs) 0x0A04 n.val
    refine ⟨_, heq, ?_, ?_, hset.trans (hend.subset (by simp))⟩
    · exact congrArg FlString.fails hstring
    · rw [hend _ (by simp)]
      exact hbit
  · rw [if_neg (by omega), if_neg (by omega)] at heq
    refine ⟨_, heq, ?_, rfl⟩
    rw [stringAt_setString, hfirst]
  · rw [if_neg (by omega), if_pos hagain] at heq
    obtain ⟨hfault, hcause, hstring, hpins, hoff, -⟩ := floodOff_parts s n.isLt (cause := 1) (by decide)
    exact ⟨_, heq, hfault, hcause, hstring, hpins, hoff⟩

end

theorem diagTimeout_clause (n : Fin 4) (hduty : (stringAt s n).duty ≠ 0) (hen : s.flag F.EMI_FL_CTRL_EN = true)
    (hoff : s.emi.flOff = false) (hup : emiUp s = true) :
    (s.flag F.EMI_FL_CTRL_DIAG_EN = true → Gives (.floodDiagTimeout n) s (fun t => (stringAt t n).diag = true ∧ t.regs = s.regs)) ∧
    (s.flag F.EMI_FL_CTRL_DIAG_EN = false → Gives (.floodDiagTimeout n) s (fun t =>
      (t.get F.EMI_FL_STAT_UNVERIFIED).testBit n = true ∧ RegFrame (F.EMI_FL_STAT_UNVERIFIED :: faultFields 0) s t ∧
      t.emi = s.emi)) := by
  have hgo : ¬((stringAt s n).duty = 0 || !s.flag F.EMI_FL_CTRL_EN || s.emi.flOff || !emiUp s) = true := by
    simp [hduty, hen, hoff, hup]
  refine ⟨fun hdiag => ⟨_, (if_neg hgo).trans (if_pos hdiag), ?_, rfl⟩,
    fun hdiag => ⟨_, (if_neg hgo).trans (if_neg (by simp [hdiag])), ?_, ?_, raiseFault_emi ..⟩⟩
  · rw [stringAt_setString]
  · have hbit := testBit_set_setBit s F.EMI_FL_STAT_UNVERIFIED (s.get F.EMI_FL_STAT_UNVERIFIED) (j := n) n.isLt
    generalize s.set F.EMI_FL_STAT_UNVERIFIED _ = t at hbit ⊢
    rw [(raiseFault_lets t 0 0x0A04 n).frame _ (by decide)]
    exact hbit
  · exact .raise (RegFrame.set (.refl _ s) (f := F.EMI_FL_STAT_UNVERIFIED) _ (by simp)) 0 0x0A04 n (by simp +contextual)

end

/-- Settles O58: a clause for each operation of the lamp-board inputs and of the floodlight. -/
theorem floodlightsAndLampBoard : Obligations.FloodlightsAndLampBoard := by
  unfold Obligations.FloodlightsAndLampBoard
  intro s
  refine ⟨fun k l hdown => ⟨s, if_pos (by simp [hdown]), rfl⟩, badMean_clause s,
    fun k l code x hcode hup => goodMean_clause s k l code hcode hup x, flCtrl_clause s, flDuty_clause s, onTime_starts s, onTime_held s, onTime_ends s, fun n sample hoff => ⟨s, if_pos (by simp [hoff]), rfl⟩, openCheck_clause s,
    diagTimeout_clause s, fun n sample => ⟨fun hup hover => ?_, fun hlim => ⟨s, if_neg (by simp; omega), rfl⟩⟩⟩
  obtain ⟨hfault, hcause, hstring, hpins, hoff, -⟩ := floodOff_parts s n.isLt (cause := 2) (by decide)
  exact ⟨_, if_pos (by simp [hup, hover]), hfault, hcause, hstring, hpins, hoff⟩

end Sys2Proof.Machine

/-! ## The housekeeping converters and the heartbeat (R431, R438 to R455, R478) -/
namespace Sys2Proof.Machine

/-! ### The record of a converter -/

theorem convAt_setConv (s : State) (d : Side) (c : HkConv) : convAt (setConv s (convIx d) c) (convIx d) = c := by
  cases d <;> rfl

theorem convAt_of_hkc {s t : State} (h : t.hkc = s.hkc) (x : Nat) : convAt t x = convAt s x := by
  unfold convAt
  rw [h]

theorem convIx_lt (d : Side) : convIx d < 2 := by cases d <;> decide

/-! ### A converted code -/

section
variable (s : State) (d : Side)

/-- The registers of an entry's readable average. -/
def avgFields (x e : Nat) : List Fld := [F.HKC_ACC_SUM x e, F.HKC_ACC_OVR x e, F.HKC_ACC_AFTER_OVR x e, F.HKC_DONE x]

theorem averageDone_parts (a : HkAvg) : RegFrame (avgFields (convIx d) a.e) s (averageDone s (convIx d) a) ∧
    (averageDone s (convIx d) a).mode = s.mode ∧ ∃ l m, convAt (averageDone s (convIx d) a) (convIx d) =
      { convAt s (convIx d) with avgs := l, doneAt := m } := by
  unfold averageDone
  have hset := (((RegFrame.refl (avgFields (convIx d) a.e) s).set (f := F.HKC_ACC_SUM (convIx d) a.e) a.sum (by simp [avgFields])).put
    (f := F.HKC_ACC_OVR (convIx d) a.e) a.ovr (by simp [avgFields])).put (f := F.HKC_ACC_AFTER_OVR (convIx d) a.e) a.after
      (by simp [avgFields]) |>.set (f := F.HKC_DONE (convIx d)) (setBit (s.get (F.HKC_DONE (convIx d))) a.e) (by simp [avgFields])
  exact ⟨hset.other rfl, rfl, _, _, convAt_setConv _ d _⟩

/-- The state with a code in an entry's trackers. -/
def tracked (x e code : Nat) : State :=
  (s.set (F.HKC_MM_MIN x e) (min code (s.get (F.HKC_MM_MIN x e)))).set (F.HKC_MM_MAX x e) (max code (s.get (F.HKC_MM_MAX x e)))

/-- The average of an entry with a code taken in. -/
def averaged1 (x e code : Nat) (ovr after : Bool) : HkAvg :=
  let a := ((convAt s x).avgs.find? fun (b : HkAvg) => b.e = e).getD { e := e, n := 0, sum := 0, ovr := false, after := false }
  { a with n := a.n + 1, sum := a.sum + code, ovr := a.ovr || ovr, after := a.after || after }

theorem averaged1_e (x e code : Nat) (ovr after : Bool) : (averaged1 s x e code ovr after).e = e := by
  unfold averaged1
  cases hf : (convAt s x).avgs.find? fun (b : HkAvg) => b.e = e with
  | none => rfl
  | some b => simpa using List.find?_some hf

theorem enterCode_eq (x e code : Nat) (ovr after : Bool) : enterCode s x e code ovr after =
    if 2 ^ bits (seqNow s x e) 12 4 ≤ (averaged1 s x e code ovr after).n then
      averageDone (tracked s x e code) x (averaged1 s x e code ovr after)
    else setConv (tracked s x e code) x { convAt s x with
      avgs := averaged1 s x e code ovr after :: (convAt s x).avgs.filter fun (y : HkAvg) => y.e != e } := rfl

/-- The registers that a code entering an entry changes. -/
def enterFields (x e : Nat) : List Fld := [F.HKC_MM_MIN x e, F.HKC_MM_MAX x e] ++ avgFields x e

theorem tracker_apart {e : Nat} (he : e < 32) : ∀ g ∈ avgFields (convIx d) e,
    (F.HKC_MM_MIN (convIx d) e).key ≠ g.key ∧ (F.HKC_MM_MAX (convIx d) e).key ≠ g.key := by
  have hx := convIx_lt d
  generalize convIx d = x at hx
  simp only [avgFields, List.forall_mem_cons, Fld.key]
  refine ⟨?_, ?_, ?_, ?_, by simp⟩ <;> omega

theorem enterCode_parts {e : Nat} (he : e < 32) (code : Nat) (ovr after : Bool) :
    (enterCode s (convIx d) e code ovr after).get (F.HKC_MM_MIN (convIx d) e) =
      min code (s.get (F.HKC_MM_MIN (convIx d) e)) % 2 ^ (F.HKC_MM_MIN (convIx d) e).width ∧
    (enterCode s (convIx d) e code ovr after).get (F.HKC_MM_MAX (convIx d) e) =
      max code (s.get (F.HKC_MM_MAX (convIx d) e)) % 2 ^ (F.HKC_MM_MAX (convIx d) e).width ∧
    RegFrame (enterFields (convIx d) e) s (enterCode s (convIx d) e code ovr after) ∧
    (enterCode s (convIx d) e code ovr after).mode = s.mode ∧ ∃ l m, convAt (enterCode s (convIx d) e code ovr after) (convIx d) =
      { convAt s (convIx d) with avgs := l, doneAt := m } := by
  rw [enterCode_eq]
  have hmin : (tracked s (convIx d) e code).get (F.HKC_MM_MIN (convIx d) e) = _ :=
    (get_set_other (f := F.HKC_MM_MAX (convIx d) e) (g := F.HKC_MM_MIN (convIx d) e) _ _ (by simp only [Fld.key]; omega)).trans (get_set_same _ _ _)
  have hmax : (tracked s (convIx d) e code).get (F.HKC_MM_MAX (convIx d) e) = _ := get_set_same _ _ _
  have hset : RegFrame (enterFields (convIx d) e) s (tracked s (convIx d) e code) :=
    ((RegFrame.refl _ s).set (f := F.HKC_MM_MIN (convIx d) e) _ (by simp [enterFields])).set (f := F.HKC_MM_MAX (convIx d) e) _
      (by simp [enterFields])
  have hmode : (tracked s (convIx d) e code).mode = s.mode := rfl
  have hconv : convAt (tracked s (convIx d) e code) (convIx d) = convAt s (convIx d) := rfl
  have ha := averaged1_e s (convIx d) e code ovr after
  generalize tracked s (convIx d) e code = t at hmin hmax hset hmode hconv ⊢
  generalize averaged1 s (convIx d) e code ovr after = a at ha ⊢
  split
  · obtain ⟨hframe, hmode', l, m, hc⟩ := averageDone_parts t d a
    rw [ha] at hframe
    rw [hconv] at hc
    have hap := tracker_apart d he
    exact ⟨(hframe _ fun g hg => (hap g hg).1).trans hmin, (hframe _ fun g hg => (hap g hg).2).trans hmax,
      hset.trans (hframe.subset (by simp +contextual [enterFields])), hmode'.trans hmode, l, m, hc⟩
  · exact ⟨hmin, hmax, hset.other rfl, hmode, _, _, convAt_setConv _ d _⟩

theorem countOvr_frame (x : Nat) (ovr : Bool) : RegsOnly [F.HKC_OVR_CNT x] s (countOvr s x ovr) := by
  unfold countOvr
  split
  · exact (RegsOnly.refl _ s).set _ (by simp)
  · exact .refl _ s

/-! ### The measurement of slices -/

/-- The registers that a slice's measurement changes. -/
def sliceFields (x : Nat) : List Fld := F.HKC_CAL_SLICE_ERR x :: faultFields 2

theorem sliceError_parts (x : Nat) : RegFrame (sliceFields x) s (sliceError s x) ∧ (sliceError s x).mode = s.mode ∧
    (sliceError s x).hkc = s.hkc := by
  unfold sliceError
  refine ⟨.raise (RegFrame.set (.refl _ s) (f := F.HKC_CAL_SLICE_ERR x) 1 (by simp [sliceFields])) 2 0x0C01 x
    (by simp +contextual [sliceFields]), raiseFault_mode .., ?_⟩
  rw [raiseFault_hkc]
  rfl

theorem sliceMeasured_parts (slice : Nat) (m : Int) : RegFrame (sliceFields (convIx d)) s (sliceMeasured s (convIx d) slice m) ∧
    (sliceMeasured s (convIx d) slice m).mode = s.mode ∧
    ∃ w, convAt (sliceMeasured s (convIx d) slice m) (convIx d) = { convAt s (convIx d) with weights := w } := by
  unfold sliceMeasured
  dsimp only
  split
  · exact ⟨.other (.refl _ s) rfl, rfl, _, convAt_setConv _ d _⟩
  · split
    · obtain ⟨hframe, hmode, hhkc⟩ := sliceError_parts s (convIx d)
      exact ⟨hframe, hmode, (convAt s (convIx d)).weights, convAt_of_hkc hhkc _⟩
    · exact ⟨.refl _ s, rfl, (convAt s (convIx d)).weights, rfl⟩

theorem countBg_parts (m : Int) : RegFrame (sliceFields (convIx d)) s (countBg s (convIx d) m) ∧
    (countBg s (convIx d) m).mode = s.mode ∧ ∃ w, convAt (countBg s (convIx d) m) (convIx d) = { convAt s (convIx d) with
      bg := if s.flag (F.HKC_CAL_BGCAL_EN (convIx d)) = true then ((convAt s (convIx d)).bg + 1) % bgPeriod else (convAt s (convIx d)).bg
      weights := w } := by
  cases hen : s.flag (F.HKC_CAL_BGCAL_EN (convIx d)) with
  | false =>
    have heq : countBg s (convIx d) m = s := if_pos (by simp [hen])
    rw [heq]
    exact ⟨.refl _ s, rfl, (convAt s (convIx d)).weights, rfl⟩
  | true =>
    unfold countBg
    rw [hen, if_neg (by decide)]
    dsimp only
    have hconv := convAt_setConv s d { convAt s (convIx d) with bg := ((convAt s (convIx d)).bg + 1) % bgPeriod }
    have hset : RegFrame (sliceFields (convIx d)) s (setConv s (convIx d)
      { convAt s (convIx d) with bg := ((convAt s (convIx d)).bg + 1) % bgPeriod }) := .other (.refl _ s) rfl
    have hmode : (setConv s (convIx d) { convAt s (convIx d) with bg := ((convAt s (convIx d)).bg + 1) % bgPeriod }).mode = s.mode := rfl
    generalize setConv s (convIx d) { convAt s (convIx d) with bg := ((convAt s (convIx d)).bg + 1) % bgPeriod } = t at hconv hset hmode ⊢
    split
    · obtain ⟨hframe, hmode', w, hw⟩ := sliceMeasured_parts t d ((convAt s (convIx d)).bg / bgConversions) m
      exact ⟨hset.trans hframe, hmode'.trans hmode, w, by rw [hw, hconv]; rfl⟩
    · exact ⟨hset, hmode, (convAt s (convIx d)).weights, by rw [hconv]; rfl⟩

end

/-! ### Conversions -/

section
variable (s : State) (d : Side) (uv : Int) (e code : Nat) (ovr : Bool)

/-- The state with a code of an entry after the first taken in, and the entry that follows. -/
def entryTaken : State :=
  let s2 := enterCode (countOvr s (convIx d) ovr) (convIx d) e code ovr (convAt s (convIx d)).after
  setConv s2 (convIx d) { convAt s2 (convIx d) with
    next := (if lenNow s2 (convIx d) ≤ e then 0 else e + 1), after := ovr, insert := ovr && bit (seqNow s (convIx d) e) 17 }

theorem convertEntry_eq (hheard : hkHeard s (convIx d) = true) (he : e = (convAt s (convIx d)).next) (he0 : 0 < e)
    (hlen : e ≤ lenNow s (convIx d)) (hdummy : bit (seqNow s (convIx d) e) 16 = false)
    (hcode : inputCode s (bits (seqNow s (convIx d) e) 0 6) uv = (code, ovr)) : convertEntry s (convIx d) uv = entryTaken s d e code ovr := by
  have hentry : (if lenNow s (convIx d) < e then 0 else e) = e := if_neg (by omega)
  unfold convertEntry
  dsimp only
  rw [← he, hentry, if_neg (show ¬e = 0 by omega), hcode, hheard]
  dsimp only
  rw [hdummy, Bool.and_true]
  rfl

theorem entryTaken_parts (he32 : e < 32) (hlen : e ≤ lenNow s (convIx d)) :
    (entryTaken s d e code ovr).get (F.HKC_MM_MIN (convIx d) e) =
      min code (s.get (F.HKC_MM_MIN (convIx d) e)) % 2 ^ (F.HKC_MM_MIN (convIx d) e).width ∧
    (entryTaken s d e code ovr).get (F.HKC_MM_MAX (convIx d) e) =
      max code (s.get (F.HKC_MM_MAX (convIx d) e)) % 2 ^ (F.HKC_MM_MAX (convIx d) e).width ∧
    (entryTaken s d e code ovr).flag (F.HKC_CAL_BGCAL_EN (convIx d)) = s.flag (F.HKC_CAL_BGCAL_EN (convIx d)) ∧
    (entryTaken s d e code ovr).mode = s.mode ∧
    ∃ l m, convAt (entryTaken s d e code ovr) (convIx d) = { convAt s (convIx d) with
      avgs := l, doneAt := m, next := (if lenNow s (convIx d) = e then 0 else e + 1), after := ovr,
      insert := ovr && bit (seqNow s (convIx d) e) 17 } := by
  have hx := convIx_lt d
  obtain ⟨heq, hcount⟩ := countOvr_frame s (convIx d) ovr
  have hconv : convAt (countOvr s (convIx d) ovr) (convIx d) = convAt s (convIx d) := by rw [heq]; rfl
  have hm : (countOvr s (convIx d) ovr).mode = s.mode := by rw [heq]
  unfold entryTaken
  generalize countOvr s (convIx d) ovr = t at hcount hconv hm ⊢
  obtain ⟨hmin, hmax, hframe, hmode, l, m, hc⟩ := enterCode_parts t d he32 code ovr (convAt s (convIx d)).after
  generalize enterCode t (convIx d) e code ovr (convAt s (convIx d)).after = u at hmin hmax hframe hmode hc ⊢
  have hkept (f : Fld) (h1 : ∀ g ∈ enterFields (convIx d) e, f.key ≠ g.key) (h2 : f.key ≠ (F.HKC_OVR_CNT (convIx d)).key) :
      u.get f = s.get f := (hframe f h1).trans (hcount f (by simpa using h2))
  have hlist (k : Nat) (h : ∀ i < 2, ∀ j < 32, k ≠ (F.HKC_MM_MIN i j).key ∧ k ≠ (F.HKC_MM_MAX i j).key ∧ k ≠ (F.HKC_ACC_SUM i j).key ∧
      k ≠ (F.HKC_ACC_OVR i j).key ∧ k ≠ (F.HKC_ACC_AFTER_OVR i j).key ∧ k ≠ (F.HKC_DONE i).key) :
      ∀ g ∈ enterFields (convIx d) e, k ≠ g.key := by
    obtain ⟨h1, h2, h3, h4, h5, h6⟩ := h _ hx e he32
    simp only [enterFields, avgFields, List.cons_append, List.nil_append, List.forall_mem_cons]
    exact ⟨h1, h2, h3, h4, h5, h6, by simp⟩
  have hlen' : lenNow u (convIx d) = lenNow s (convIx d) := by
    unfold lenNow
    rw [hc, hconv, hkept (F.HKC_CTRL_LEN (convIx d)) (hlist _ fun i _ j _ => by simp only [Fld.key]; omega) (by simp only [Fld.key]; omega)]
  have hbg : u.flag (F.HKC_CAL_BGCAL_EN (convIx d)) = s.flag (F.HKC_CAL_BGCAL_EN (convIx d)) :=
    congrArg (· != 0) (hkept _ (hlist _ fun i _ j _ => by simp only [Fld.key]; omega) (by simp only [Fld.key]; omega))
  have hout (f : Fld) (h : f.key ≠ (F.HKC_OVR_CNT (convIx d)).key) : t.get f = s.get f := hcount f (by simpa using h)
  rw [hout _ (by simp only [Fld.key]; omega)] at hmin hmax
  dsimp only
  rw [hlen']
  refine ⟨hmin, hmax, hbg, hmode.trans hm, l, m, ?_⟩
  rw [convAt_setConv, hc, hconv]
  have hnext : (if lenNow s (convIx d) ≤ e then 0 else e + 1) = if lenNow s (convIx d) = e then 0 else e + 1 := by
    split <;> split <;> omega
  rw [hnext]

theorem slice_apart (x y e : Nat) : ∀ g ∈ sliceFields x, (F.HKC_MM_MIN y e).key ≠ g.key ∧ (F.HKC_MM_MAX y e).key ≠ g.key := by
  have hfixed : ∀ g ∈ faultFields 2, g.key < 8 * 0x1000 := by decide
  intro g hg
  rcases List.mem_cons.1 hg with rfl | hg
  · simp only [Fld.key]
    omega
  · have hg' := hfixed g hg
    generalize g.key = k at hg'
    simp only [Fld.key]
    omega

end

theorem conversion_clause (s : State) (d : Side) (y : HkSample) (x e code : Nat) (ovr : Bool) (hx : x = convIx d)
    (hon : converts s x = true) (hins : (convAt s x).insert = false) (hloop : (convAt s x).loop = false) (hhost : (convAt s x).host = [])
    (hheard : hkHeard s x = true) (he : e = (convAt s x).next) (he0 : 0 < e) (hlen : e ≤ lenNow s x) (he32 : e < 32)
    (hdummy : bit (seqNow s x e) 16 = false) (hcode : inputCode s (bits (seqNow s x e) 0 6) y.uv = (code, ovr)) :
    Gives (.hkConversion d y) s (fun t =>
      t.get (F.HKC_MM_MIN x e) = min code (s.get (F.HKC_MM_MIN x e)) % 2 ^ (F.HKC_MM_MIN x e).width ∧
      t.get (F.HKC_MM_MAX x e) = max code (s.get (F.HKC_MM_MAX x e)) % 2 ^ (F.HKC_MM_MAX x e).width ∧
      (convAt t x).next = (if lenNow s x = e then 0 else e + 1) ∧
      (convAt t x).after = ovr ∧ (convAt t x).insert = (ovr && bit (seqNow s x e) 17) ∧
      (s.flag (F.HKC_CAL_BGCAL_EN x) = true → (convAt t x).bg = ((convAt s x).bg + 1) % bgPeriod) ∧ t.mode = s.mode) := by
  subst hx
  have heq : execHkConversion d y s = .next (countBg (entryTaken s d e code ovr) (convIx d) y.slice) := by
    rw [← convertEntry_eq s d y.uv e code ovr hheard he he0 hlen hdummy hcode]
    exact (if_neg (by simp [hon])).trans ((if_neg (by simp [hins])).trans (if_neg (by simp [hloop, hhost])))
  obtain ⟨hmin, hmax, hbg, hmode, l, m, hc⟩ := entryTaken_parts s d e code ovr he32 hlen
  generalize entryTaken s d e code ovr = t at heq hmin hmax hbg hmode hc
  obtain ⟨hframe, hmode', w, hw⟩ := countBg_parts t d y.slice
  have hap := slice_apart (convIx d) (convIx d) e
  refine ⟨_, heq, (hframe _ fun g hg => (hap g hg).1).trans hmin, (hframe _ fun g hg => (hap g hg).2).trans hmax, ?_, ?_, ?_,
    fun hen => ?_, hmode'.trans hmode⟩
  · rw [hw, hc]
  · rw [hw, hc]
  · rw [hw, hc]
  · rw [hw, hbg, hen, hc]
    rfl

/-! ### Injections -/

section
variable (s : State) (d : Side) (x : Nat) (hx : x = convIx d)
include hx

theorem request_clause (hup : hkUp s = true) :
    ((convAt s x).host.length + b2n (convAt s x).loop < 4 → Gives (.hkInjectRequest d false) s (fun t =>
      convAt t x = { convAt s x with host := (convAt s x).host ++ [s.get (F.HKC_INJ_INPUT x)] } ∧
      t.get (F.HKC_INJ_GO x) = 1 ∧ RegFrame [F.HKC_INJ_GO x] s t)) ∧
    (4 ≤ (convAt s x).host.length + b2n (convAt s x).loop → Gives (.hkInjectRequest d false) s (fun t =>
      t.get (F.HKC_INJ_INJ_LOST x) = 1 ∧ RegsOnly [F.HKC_INJ_INJ_LOST x] s t)) := by
  subst hx
  have hgo : execHkInjectRequest d false s = .next (requestInjection s (convIx d)) := (if_neg (by simp [hup])).trans (if_neg (by simp))
  refine ⟨fun hroom => ⟨_, hgo.trans (congrArg Host.Outcome.next (if_neg (by omega))), convAt_setConv _ d _, ?_, ?_⟩,
    fun hfull => ⟨_, hgo.trans (congrArg Host.Outcome.next (if_pos hfull)), get_set_same _ _ _, (RegsOnly.refl _ s).set 1 (by simp)⟩⟩
  · exact get_set_same s (F.HKC_INJ_GO (convIx d)) 1
  · exact .other (RegFrame.setOne s (F.HKC_INJ_GO (convIx d)) 1) rfl

variable (uv : Int) (code : Nat) (ovr : Bool) (hon : converts s x = true) (hins : (convAt s x).insert = false)
include hon hins

theorem loopInjection_clause (hloop : (convAt s x).loop = true) (hcode : inputCode s 27 uv = (code, ovr)) :
    Gives (.hkInjection d uv) s (fun t =>
      t.rxf = { s.rxf with tAd := dieTemp code } ∧ (convAt t x).loop = false ∧ RegFrame [F.HKC_OVR_CNT x] s t) := by
  subst hx
  have heq : ∃ b, execHkInjection d uv s = .next { countOvr (setConv s (convIx d) { convAt s (convIx d) with loop := false, after := ovr })
      (convIx d) b with rxf := { s.rxf with tAd := dieTemp code } } := by
    refine ⟨ovr && hkHeard s (convIx d), ?_⟩
    unfold execHkInjection
    dsimp only
    rw [if_neg (by simp [hon, hins]), if_pos hloop, hcode]
    dsimp only
    rw [(countOvr_frame _ _ _).1]
    rfl
  obtain ⟨b, heq⟩ := heq
  have hconv := convAt_setConv s d { convAt s (convIx d) with loop := false, after := ovr }
  have hset : RegFrame [F.HKC_OVR_CNT (convIx d)] s (setConv s (convIx d) { convAt s (convIx d) with loop := false, after := ovr }) :=
    .other (.refl _ s) rfl
  generalize setConv s (convIx d) { convAt s (convIx d) with loop := false, after := ovr } = t at heq hconv hset
  obtain ⟨hregs, hcount⟩ := countOvr_frame t (convIx d) b
  refine ⟨_, heq, rfl, ?_, .other (hset.trans hcount) rfl⟩
  have hh : (countOvr t (convIx d) b).hkc = t.hkc := by rw [hregs]
  exact congrArg HkConv.loop ((convAt_of_hkc (s := t) hh (convIx d)).trans hconv)

/-- The results of a host's injection. -/
def injected (r : List Nat) : State :=
  ((((setConv (s.put (F.HKC_INJ_GO x) (!r.isEmpty)) x { convAt s x with host := r, after := ovr }).set (F.HKC_INJ_RES_VALID x) 1).put
    (F.HKC_INJ_RES_OVR x) ovr).put (F.HKC_INJ_RES_AFTER_OVR x) (convAt s x).after).set (F.HKC_INJ_RES_CODE x) code

theorem hostInjection_clause (input : Nat) (r : List Nat) (hloop : (convAt s x).loop = false) (hhost : (convAt s x).host = input :: r)
    (hheard : hkHeard s x = true) (hcode : inputCode s input uv = (code, ovr)) : Gives (.hkInjection d uv) s (fun t =>
      t.get (F.HKC_INJ_RES_VALID x) = 1 ∧ t.get (F.HKC_INJ_RES_CODE x) = code % 2 ^ (F.HKC_INJ_RES_CODE x).width ∧
      t.get (F.HKC_INJ_RES_OVR x) = b2n ovr ∧ t.get (F.HKC_INJ_RES_AFTER_OVR x) = b2n (convAt s x).after ∧
      t.get (F.HKC_INJ_GO x) = b2n (!r.isEmpty) ∧ convAt t x = { convAt s x with host := r, after := ovr }) := by
  have heq : execHkInjection d uv s = .next (countOvr (injected s x code ovr r) x ovr) := by
    subst hx
    unfold execHkInjection
    dsimp only
    rw [if_neg (by simp [hon, hins]), if_neg (by simp [hloop]), hhost]
    dsimp only
    rw [hcode]
    dsimp only
    rw [if_neg (by simp [hheard])]
    rfl
  have hconv : convAt (injected s x code ovr r) x = { convAt s x with host := r, after := ovr } := by
    subst hx
    exact convAt_setConv _ d _
  obtain ⟨honly, hcount⟩ := countOvr_frame (injected s x code ovr r) x ovr
  have hbit (b : Bool) : b2n b % 2 ^ 1 = b2n b := by cases b <;> rfl
  refine ⟨_, heq, ?_, ?_, ?_, ?_, ?_, ?_⟩
  · rw [hcount _ (by simp [Fld.key]; omega)]
    unfold injected
    rw [get_set_other (f := F.HKC_INJ_RES_CODE x) (g := F.HKC_INJ_RES_VALID x) _ _ (by simp only [Fld.key]; omega),
      get_put_other (f := F.HKC_INJ_RES_AFTER_OVR x) (g := F.HKC_INJ_RES_VALID x) _ _ (by simp only [Fld.key]; omega),
      get_put_other (f := F.HKC_INJ_RES_OVR x) (g := F.HKC_INJ_RES_VALID x) _ _ (by simp only [Fld.key]; omega), get_set_same]
    rfl
  · rw [hcount _ (by simp only [List.forall_mem_singleton, Fld.key]; omega)]
    exact get_set_same _ _ _
  · rw [hcount _ (by simp [Fld.key]; omega)]
    unfold injected
    rw [get_set_other (f := F.HKC_INJ_RES_CODE x) (g := F.HKC_INJ_RES_OVR x) _ _ (by simp only [Fld.key]; omega),
      get_put_other (f := F.HKC_INJ_RES_AFTER_OVR x) (g := F.HKC_INJ_RES_OVR x) _ _ (by simp only [Fld.key]; omega)]
    exact (get_set_same _ _ _).trans (hbit ovr)
  · rw [hcount _ (by simp [Fld.key]; omega)]
    unfold injected
    rw [get_set_other (f := F.HKC_INJ_RES_CODE x) (g := F.HKC_INJ_RES_AFTER_OVR x) _ _ (by simp only [Fld.key]; omega)]
    exact (get_set_same _ _ _).trans (hbit _)
  · rw [hcount _ (by simp [Fld.key]; omega)]
    unfold injected
    rw [get_set_other (f := F.HKC_INJ_RES_CODE x) (g := F.HKC_INJ_GO x) _ _ (by simp only [Fld.key]; omega),
      get_put_other (f := F.HKC_INJ_RES_AFTER_OVR x) (g := F.HKC_INJ_GO x) _ _ (by simp only [Fld.key]; omega),
      get_put_other (f := F.HKC_INJ_RES_OVR x) (g := F.HKC_INJ_GO x) _ _ (by simp only [Fld.key]; omega),
      get_set_other (f := F.HKC_INJ_RES_VALID x) (g := F.HKC_INJ_GO x) _ _ (by simp only [Fld.key]; omega)]
    exact (get_set_same s (F.HKC_INJ_GO x) _).trans (hbit _)
  · refine (convAt_of_hkc ?_ x).trans hconv
    rw [honly]

end

/-! ### Trackers -/

section
variable (s : State) (x w : Nat)

/-- An entry's trackers are cleared where its bit is set. -/
def trackerStep (t : State) (e : Nat) : State :=
  if bit w e then (t.set (F.HKC_MM_MIN x e) 0xFFF).set (F.HKC_MM_MAX x e) 0 else t

theorem clearTrackers_eq : clearTrackers s x w = (List.range 32).foldl (trackerStep x w) s := rfl

theorem trackerStep_frame (t : State) (e : Nat) : RegsOnly [F.HKC_MM_MIN x e, F.HKC_MM_MAX x e] t (trackerStep x w t e) := by
  unfold trackerStep
  split
  · exact ((RegsOnly.refl _ t).set (f := F.HKC_MM_MIN x e) _ (by simp)).set (f := F.HKC_MM_MAX x e) _ (by simp)
  · exact .refl _ t

theorem trackerStep_other (t : State) {e k : Nat} (h : k ≠ e) : (trackerStep x w t k).get (F.HKC_MM_MIN x e) = t.get (F.HKC_MM_MIN x e) ∧
    (trackerStep x w t k).get (F.HKC_MM_MAX x e) = t.get (F.HKC_MM_MAX x e) := by
  have hframe := (trackerStep_frame x w t k).2
  refine ⟨hframe _ ?_, hframe _ ?_⟩ <;> simp only [List.forall_mem_cons, Fld.key] <;>
    exact ⟨by omega, by omega, by simp⟩

theorem clearTrackers_set {e : Nat} (he : e < 32) (h : bit w e = true) : (clearTrackers s x w).get (F.HKC_MM_MIN x e) = 0xFFF ∧
    (clearTrackers s x w).get (F.HKC_MM_MAX x e) = 0 := by
  rw [clearTrackers_eq]
  refine foldl_establishes (Q := fun t => t.get (F.HKC_MM_MIN x e) = 0xFFF ∧ t.get (F.HKC_MM_MAX x e) = 0) (List.mem_range.2 he)
    (fun t => ?_) (fun t k _ hne ht => ?_) s
  · unfold trackerStep
    rw [if_pos h]
    refine ⟨?_, get_set_same _ _ _⟩
    exact (get_set_other (f := F.HKC_MM_MAX x e) (g := F.HKC_MM_MIN x e) _ _ (by simp only [Fld.key]; omega)).trans (get_set_same _ _ _)
  · obtain ⟨hmin, hmax⟩ := trackerStep_other x w t hne
    exact ⟨hmin.trans ht.1, hmax.trans ht.2⟩

theorem clearTrackers_kept {e : Nat} (h : bit w e = false) :
    (clearTrackers s x w).get (F.HKC_MM_MIN x e) = s.get (F.HKC_MM_MIN x e) ∧
    (clearTrackers s x w).get (F.HKC_MM_MAX x e) = s.get (F.HKC_MM_MAX x e) := by
  rw [clearTrackers_eq]
  refine List.foldlRecOn (List.range 32) _ (motive := fun (t : State) => t.get (F.HKC_MM_MIN x e) = s.get (F.HKC_MM_MIN x e) ∧
    t.get (F.HKC_MM_MAX x e) = s.get (F.HKC_MM_MAX x e)) ⟨rfl, rfl⟩ fun t ht k _ => ?_
  by_cases hk : k = e
  · subst hk
    have hsame : trackerStep x w t k = t := if_neg (by simp [h])
    rw [hsame]
    exact ht
  · obtain ⟨hmin, hmax⟩ := trackerStep_other x w t hk
    exact ⟨hmin.trans ht.1, hmax.trans ht.2⟩

theorem clearTrackers_only : clearTrackers s x w = { s with regs := (clearTrackers s x w).regs } := by
  rw [clearTrackers_eq]
  refine List.foldlRecOn (List.range 32) _ (motive := fun (t : State) => t = { s with regs := t.regs }) rfl fun t ht e _ => ?_
  rw [(trackerStep_frame x w t e).1, ht]

end

/-! ### Self-calibration -/

section
variable (d : Side)

/-- By how much the weights move: those measured within 2 LSB, from the k-th slice on. -/
def weightMove (l : List Int) (k n : Nat) : Int := if k ≤ n ∧ (l.getD (n - k) 0).natAbs ≤ 2 then l.getD (n - k) 0 else 0

theorem weightMove_cons (a : Int) (l : List Int) (k n : Nat) :
    weightMove (a :: l) k n = (if k = n ∧ a.natAbs ≤ 2 then a else 0) + weightMove l (k + 1) n := by
  unfold weightMove
  rcases Nat.lt_trichotomy k n with hlt | rfl | hgt
  · obtain ⟨j, hj⟩ : ∃ j, n - k = j + 1 := ⟨n - k - 1, by omega⟩
    have hj' : n - (k + 1) = j := by omega
    rw [hj, hj', List.getD_cons_succ, if_neg (c := k = n ∧ a.natAbs ≤ 2) (by omega)]
    simp only [show k ≤ n from by omega, show k + 1 ≤ n from by omega, true_and, Int.zero_add]
  · rw [Nat.sub_self, List.getD_cons_zero, if_neg (c := k + 1 ≤ k ∧ _) (by omega)]
    simp
  · rw [if_neg (by omega), if_neg (by omega), if_neg (by omega)]
    rfl

theorem sliceMeasured_weight (s : State) (k : Nat) (a : Int) (n : Nat) :
    (convAt (sliceMeasured s (convIx d) k a) (convIx d)).weights.getD n 0 =
      (convAt s (convIx d)).weights.getD n 0 + (if k = n ∧ a.natAbs ≤ 2 then a else 0) := by
  unfold sliceMeasured
  dsimp only
  split
  next h =>
    rw [convAt_setConv]
    dsimp only
    rw [putAt_getD]
    by_cases hk : k = n
    · subst hk
      simp [h]
    · simp [hk]
  next h =>
    have hconv : convAt (if 8 < a.natAbs then sliceError s (convIx d) else s) (convIx d) = convAt s (convIx d) := by
      split
      · exact convAt_of_hkc (sliceError_parts s (convIx d)).2.2 _
      · rfl
    rw [hconv, if_neg (fun hc => h hc.2), Int.add_zero]

/-- The slices of a self-calibration, measured from the k-th on. -/
def slicesMeasured (x : Nat) (l : List Int) (k : Nat) (s : State) : State :=
  (l.zipIdx k).foldl (fun (u : State) e => sliceMeasured u x e.2 e.1) s

theorem slicesMeasured_cons (x : Nat) (a : Int) (l : List Int) (k : Nat) (s : State) :
    slicesMeasured x (a :: l) k s = slicesMeasured x l (k + 1) (sliceMeasured s x k a) := rfl

theorem slicesMeasured_weight (l : List Int) (k : Nat) (s : State) (n : Nat) :
    (convAt (slicesMeasured (convIx d) l k s) (convIx d)).weights.getD n 0 =
      (convAt s (convIx d)).weights.getD n 0 + weightMove l k n := by
  induction l generalizing k s with
  | nil =>
    have hnone : weightMove [] k n = 0 := by simp [weightMove]
    rw [hnone, Int.add_zero]
    rfl
  | cons a l ih => rw [slicesMeasured_cons, ih, sliceMeasured_weight, weightMove_cons, Int.add_assoc]

theorem slicesMeasured_parts (l : List Int) (k : Nat) (s : State) : RegFrame (sliceFields (convIx d)) s (slicesMeasured (convIx d) l k s) ∧
    (slicesMeasured (convIx d) l k s).mode = s.mode := by
  induction l generalizing k s with
  | nil => exact ⟨.refl _ s, rfl⟩
  | cons a l ih =>
    rw [slicesMeasured_cons]
    obtain ⟨hframe, hmode, -⟩ := sliceMeasured_parts s d k a
    obtain ⟨hframe', hmode'⟩ := ih (k + 1) (sliceMeasured s (convIx d) k a)
    exact ⟨hframe.trans hframe', hmode'.trans hmode⟩

theorem slicesMeasured_good {l : List Int} (hl : ∀ m ∈ l, m.natAbs ≤ 8) (x k : Nat) (s : State) :
    slicesMeasured x l k s = { s with hkc := (slicesMeasured x l k s).hkc } := by
  induction l generalizing k s with
  | nil => rfl
  | cons a l ih =>
    have hone : sliceMeasured s x k a = { s with hkc := (sliceMeasured s x k a).hkc } := by
      unfold sliceMeasured
      dsimp only
      rw [if_neg (c := 8 < a.natAbs) (by have := hl a List.mem_cons_self; omega)]
      split <;> rfl
    rw [slicesMeasured_cons, ih (fun m hm => hl m (List.mem_cons_of_mem _ hm)), hone]

theorem sliceError_flag (s : State) (x : Nat) (hx : x < 2) : (sliceError s x).get (F.HKC_CAL_SLICE_ERR x) = 1 := by
  have hap : ∀ x < 2, ∀ g ∈ faultFields 2, (F.HKC_CAL_SLICE_ERR x).key ≠ g.key := by decide
  unfold sliceError
  rw [(raiseFault_lets _ 2 0x0C01 x).frame _ (hap x hx)]
  exact get_set_same _ _ _

/-- SLICE_ERR once set stays set while slices are measured. -/
theorem sliceMeasured_flag {s : State} {x : Nat} (hx : x < 2) (h : s.get (F.HKC_CAL_SLICE_ERR x) = 1) (k : Nat) (a : Int) :
    (sliceMeasured s x k a).get (F.HKC_CAL_SLICE_ERR x) = 1 := by
  unfold sliceMeasured
  dsimp only
  split
  · exact h
  · split
    · exact sliceError_flag s x hx
    · exact h

theorem slicesMeasured_bad {l : List Int} {x : Nat} (hx : x < 2) (k : Nat) (s : State)
    (h : s.get (F.HKC_CAL_SLICE_ERR x) = 1 ∨ ∃ m ∈ l, 8 < m.natAbs) :
    (slicesMeasured x l k s).get (F.HKC_CAL_SLICE_ERR x) = 1 := by
  induction l generalizing k s with
  | nil => exact h.resolve_right (by simp)
  | cons a l ih =>
    rw [slicesMeasured_cons]
    refine ih (k + 1) _ ?_
    rcases h with h | ⟨m, hm, hbig⟩
    · exact .inl (sliceMeasured_flag hx h k a)
    · rcases List.mem_cons.1 hm with rfl | hm
      · left
        unfold sliceMeasured
        dsimp only
        rw [if_neg (by omega), if_pos hbig]
        exact sliceError_flag s x hx
      · exact .inr ⟨m, hm, hbig⟩

/-- The registers at the end of a self-calibration. -/
def calEnded (s : State) (x : Nat) : State := (s.set (F.HKC_CAL_CAL_BUSY x) 0).set (F.HKC_CAL_SELFCAL x) 0

theorem calEnded_parts (s : State) (x : Nat) : (calEnded s x).get (F.HKC_CAL_CAL_BUSY x) = 0 ∧
    (calEnded s x).get (F.HKC_CAL_SELFCAL x) = 0 ∧ RegsOnly [F.HKC_CAL_SELFCAL x, F.HKC_CAL_CAL_BUSY x] s (calEnded s x) := by
  refine ⟨?_, get_set_same _ _ _, ?_⟩
  · exact (get_set_other (f := F.HKC_CAL_SELFCAL x) (g := F.HKC_CAL_CAL_BUSY x) _ _ (by simp only [Fld.key]; omega)).trans (get_set_same _ _ _)
  · exact ((RegsOnly.refl _ s).set (f := F.HKC_CAL_CAL_BUSY x) 0 (by simp)).set (f := F.HKC_CAL_SELFCAL x) 0 (by simp)

theorem execHkSelfcalDone_eq {s : State} (hbusy : s.flag (F.HKC_CAL_CAL_BUSY (convIx d)) = true) {l : List Int} (hl : l.length = 13) :
    execHkSelfcalDone d l s = .next (slicesMeasured (convIx d) l 0 (calEnded s (convIx d))) := by
  have htake : l.zipIdx.take 13 = l.zipIdx := List.take_of_length_le (Nat.le_of_eq (by rw [List.length_zipIdx, hl]))
  unfold execHkSelfcalDone
  dsimp only
  rw [if_neg (by simp [hbusy]), htake]
  rfl

theorem selfcal_good {s : State} {x : Nat} (hx : x = convIx d) (hbusy : s.flag (F.HKC_CAL_CAL_BUSY x) = true) (l : List Int)
    (hl : l.length = 13) (hgood : ∀ m ∈ l, m.natAbs ≤ 8) : Gives (.hkSelfcalDone d l) s (fun t =>
      t.get (F.HKC_CAL_CAL_BUSY x) = 0 ∧ t.get (F.HKC_CAL_SELFCAL x) = 0 ∧
      RegFrame [F.HKC_CAL_SELFCAL x, F.HKC_CAL_CAL_BUSY x] s t ∧ t = { s with regs := t.regs, hkc := t.hkc } ∧
      ∀ n < 13, (l.getD n 0).natAbs ≤ 2 → (convAt t x).weights.getD n 0 = (convAt s x).weights.getD n 0 + l.getD n 0) := by
  subst hx
  obtain ⟨hb, hc, honly⟩ := calEnded_parts s (convIx d)
  have hconv : convAt (calEnded s (convIx d)) (convIx d) = convAt s (convIx d) := rfl
  have heq := execHkSelfcalDone_eq d hbusy hl
  generalize calEnded s (convIx d) = t at hb hc honly hconv heq
  have hsame := slicesMeasured_good hgood (convIx d) 0 t
  have hweight (n : Nat) := slicesMeasured_weight d l 0 t n
  generalize slicesMeasured (convIx d) l 0 t = u at heq hsame hweight
  have hregs : RegFrame [] t u := .other (.refl _ t) (by rw [hsame])
  refine ⟨u, heq, (hregs _ (by simp)).trans hb, (hregs _ (by simp)).trans hc, honly.2.trans (hregs.subset (by simp)), ?_,
    fun n _ hn => ?_⟩
  · rw [hsame, honly.1]
  · rw [hweight, hconv]
    unfold weightMove
    rw [Nat.sub_zero, if_pos ⟨Nat.zero_le n, hn⟩]

theorem selfcal_bad {s : State} {x : Nat} (hx : x = convIx d) (hbusy : s.flag (F.HKC_CAL_CAL_BUSY x) = true) (l : List Int)
    (hl : l.length = 13) (hbad : ∃ m ∈ l, 8 < m.natAbs) : Gives (.hkSelfcalDone d l) s (fun t =>
      t.get (F.HKC_CAL_CAL_BUSY x) = 0 ∧ t.get (F.HKC_CAL_SLICE_ERR x) = 1 ∧
      RegFrame ([F.HKC_CAL_SELFCAL x, F.HKC_CAL_CAL_BUSY x, F.HKC_CAL_SLICE_ERR x] ++ faultFields 2) s t ∧ t.mode = s.mode) := by
  subst hx
  obtain ⟨hb, -, honly⟩ := calEnded_parts s (convIx d)
  have heq := execHkSelfcalDone_eq d hbusy hl
  have hm : (calEnded s (convIx d)).mode = s.mode := rfl
  have hap : ∀ x < 2, ∀ g ∈ sliceFields x, (F.HKC_CAL_CAL_BUSY x).key ≠ g.key := by decide
  generalize calEnded s (convIx d) = t at hb honly heq hm
  obtain ⟨hframe, hmode⟩ := slicesMeasured_parts d l 0 t
  refine ⟨_, heq, (hframe _ (hap _ (convIx_lt d))).trans hb, slicesMeasured_bad (convIx_lt d) 0 t (.inr hbad), ?_, hmode.trans hm⟩
  exact (honly.2.subset (by simp)).trans (hframe.subset (by simp +contextual [sliceFields]))

/-- The clauses of the self-calibration and of the reference buffer. -/
theorem calibration_clause (s : State) (x : Nat) (hx : x = convIx d) :
    (hkUp s = true → Gives (.hkSelfcal d) s (fun t => t.get (F.HKC_CAL_CAL_BUSY x) = 1 ∧
      t.get (F.HKC_CAL_SELFCAL x) = 1 ∧ RegsOnly [F.HKC_CAL_SELFCAL x, F.HKC_CAL_CAL_BUSY x] s t)) ∧
    (s.flag (F.HKC_CAL_CAL_BUSY x) = true →
      (∀ l : List Int, l.length = 13 → (∀ m ∈ l, m.natAbs ≤ 8) → Gives (.hkSelfcalDone d l) s (fun t =>
        t.get (F.HKC_CAL_CAL_BUSY x) = 0 ∧ t.get (F.HKC_CAL_SELFCAL x) = 0 ∧
        RegFrame [F.HKC_CAL_SELFCAL x, F.HKC_CAL_CAL_BUSY x] s t ∧ t = { s with regs := t.regs, hkc := t.hkc } ∧
        ∀ n < 13, (l.getD n 0).natAbs ≤ 2 → (convAt t x).weights.getD n 0 = (convAt s x).weights.getD n 0 + l.getD n 0)) ∧
      (∀ l : List Int, l.length = 13 → (∃ m ∈ l, 8 < m.natAbs) → Gives (.hkSelfcalDone d l) s (fun t =>
        t.get (F.HKC_CAL_CAL_BUSY x) = 0 ∧ t.get (F.HKC_CAL_SLICE_ERR x) = 1 ∧
        RegFrame ([F.HKC_CAL_SELFCAL x, F.HKC_CAL_CAL_BUSY x, F.HKC_CAL_SLICE_ERR x] ++ faultFields 2) s t ∧ t.mode = s.mode))) ∧
    (hkUp s = true → Gives (.refBufferOn d) s (fun t => t.get (F.HKC_CAL_REF_ON x) = 1 ∧ RegsOnly [F.HKC_CAL_REF_ON x] s t)) ∧
    (hkUp s = true → s.flag (F.HKC_CAL_REF_LP x) = true → s.saf.armed = false → restsLong s x = true →
      s.flag (F.HKC_CAL_CAL_BUSY x) = false → Gives (.refBufferOff d) s (fun t =>
        t.get (F.HKC_CAL_REF_ON x) = 0 ∧ RegsOnly [F.HKC_CAL_REF_ON x] s t)) ∧
    (s.saf.armed = true → Gives (.refBufferOff d) s (fun t => t = s)) := by
  refine ⟨fun hup => ?_, fun hbusy => ⟨selfcal_good d hx hbusy, selfcal_bad d hx hbusy⟩, fun hup => ?_, fun hup hlp harm hrest hbusy => ?_,
    fun harm => ⟨s, if_neg (by simp [harm]), rfl⟩⟩
  · subst hx
    refine ⟨_, congrArg Host.Outcome.next (if_pos hup), get_set_same _ _ _, ?_, ?_⟩
    · exact (get_set_other (f := F.HKC_CAL_CAL_BUSY (convIx d)) (g := F.HKC_CAL_SELFCAL (convIx d)) _ _ (by simp only [Fld.key]; omega)).trans
        (get_set_same _ _ _)
    · exact ((RegsOnly.refl _ s).set (f := F.HKC_CAL_SELFCAL (convIx d)) 1 (by simp)).set (f := F.HKC_CAL_CAL_BUSY (convIx d)) 1 (by simp)
  · subst hx
    exact ⟨_, if_pos hup, get_set_same _ _ _, (RegsOnly.refl _ s).set 1 (by simp)⟩
  · subst hx
    exact ⟨_, if_pos (by simp [hup, hlp, harm, hrest, hbusy]), get_set_same _ _ _, (RegsOnly.refl _ s).set 0 (by simp)⟩

end

/-! ### The heartbeat -/

/-- With no pair enabled the cross-comparison changes the pairs' records alone. -/
theorem comparePairs_off {s : State} (h : ∀ k < 8, s.flag (F.HKC_XCMP_EN k) = false) :
    ∃ y, (List.range 8).foldl comparePair s = { s with hkc := y } := by
  refine List.foldlRecOn (List.range 8) _ (motive := fun t => ∃ y, t = { s with hkc := y }) ⟨s.hkc, rfl⟩ fun t ht k hk => ?_
  obtain ⟨y, rfl⟩ := ht
  exact ⟨_, if_pos (congrArg (!·) (h k (List.mem_range.1 hk)))⟩

theorem heartbeat_clause (s : State) (hup : safUp s = true) (hen : ∀ k < 8, s.flag (F.HKC_XCMP_EN k) = false) :
    (evaluatorsDiffer s = false → Gives (.heartbeat false) s (fun t => t.regs = s.regs ∧ t.mode = s.mode ∧
      t.saf = { s.saf with hbMiss := false })) ∧
    (s.saf.hbMiss = false → Gives (.heartbeat true) s (fun t => t.saf = { s.saf with hbMiss := true } ∧ t.mode = s.mode ∧
      t.get F.SAF_XCMP_MISMATCH_CNT = (s.inc F.SAF_XCMP_MISMATCH_CNT).get F.SAF_XCMP_MISMATCH_CNT ∧
      RegFrame [F.SAF_XCMP_MISMATCH_CNT] s t)) ∧
    (s.saf.hbMiss = true → s.mode = .scan → Gives (.heartbeat true) s (fun t => t.mode = .lockout ∧
      t.get F.SAF_STATUS_LOCK_CAUSE = 2 ∧ t.get F.SAF_XCMP_HB_FAIL = 1 ∧
      RegFrame (F.SAF_XCMP_MISMATCH_CNT :: F.SAF_XCMP_HB_FAIL :: f3Fields) s t ∧ ∀ d : Side, ∀ n < 4, (t.ev d).pair n ≠ .on)) := by
  obtain ⟨y, hy⟩ := comparePairs_off hen
  have hgo (upset : Bool) : execHeartbeat upset s = .next (heartbeatCompare { s with hkc := y } upset) := by
    rw [← hy]
    exact if_neg (by simp [hup])
  have hsame : RegFrame [] s { s with hkc := y } := .other (.refl _ s) rfl
  have hparts : ({ s with hkc := y } : State).regs = s.regs ∧ ({ s with hkc := y } : State).mode = s.mode ∧
    ({ s with hkc := y } : State).saf = s.saf ∧ evaluatorsDiffer { s with hkc := y } = evaluatorsDiffer s := ⟨rfl, rfl, rfl, rfl⟩
  generalize ({ s with hkc := y } : State) = u at hgo hsame hparts
  obtain ⟨hregs, hmode, hsaf, hdiffer⟩ := hparts
  refine ⟨fun hagree => ?_, fun hfirst => ?_, fun hsecond hscan => ?_⟩
  · refine ⟨_, (hgo false).trans (congrArg Host.Outcome.next (if_neg (by simp [hdiffer, hagree]))), hregs, hmode, ?_⟩
    rw [hsaf]
  · have heq : heartbeatCompare u true = { u.inc F.SAF_XCMP_MISMATCH_CNT with saf := { u.saf with hbMiss := true } } :=
      (if_pos (by simp)).trans (if_neg (by simp [hsaf, hfirst]))
    refine ⟨_, (hgo true).trans (congrArg Host.Outcome.next heq), ?_, hmode, ?_, ?_⟩
    · rw [hsaf]
    · refine (get_inc_same u F.SAF_XCMP_MISMATCH_CNT).trans ?_
      rw [get_inc_same, hsame _ (by simp)]
    · exact .other ((hsame.subset (by simp)).inc (by simp)) rfl
  · have heq : heartbeatCompare u true = raiseF3 ((({ u.inc F.SAF_XCMP_MISMATCH_CNT with saf := { u.saf with hbMiss := true } }
        : State)).set F.SAF_XCMP_HB_FAIL 1) 0x0D01 0 (.lock 2) :=
      (if_pos (by simp)).trans (if_pos (hsaf ▸ hsecond))
    have hcount : RegFrame (F.SAF_XCMP_MISMATCH_CNT :: F.SAF_XCMP_HB_FAIL :: f3Fields) s
        ({ u.inc F.SAF_XCMP_MISMATCH_CNT with saf := { u.saf with hbMiss := true } } : State) :=
      .other ((hsame.subset (by simp)).inc (f := F.SAF_XCMP_MISMATCH_CNT) (by simp)) rfl
    have hm : ({ u.inc F.SAF_XCMP_MISMATCH_CNT with saf := { u.saf with hbMiss := true } } : State).mode = .scan := hmode.trans hscan
    generalize ({ u.inc F.SAF_XCMP_MISMATCH_CNT with saf := { u.saf with hbMiss := true } } : State) = v at heq hcount hm
    have hset := hcount.set (f := F.SAF_XCMP_HB_FAIL) 1 (by simp)
    have hone : (v.set F.SAF_XCMP_HB_FAIL 1).get F.SAF_XCMP_HB_FAIL = 1 := get_set_same _ _ _
    have hm' : (v.set F.SAF_XCMP_HB_FAIL 1).mode = .scan := hm
    generalize v.set F.SAF_XCMP_HB_FAIL 1 = w at heq hset hone hm'
    have hframe := raiseF3_frame w 0x0D01 0 (.lock 2)
    have hlock := raiseF3_lock w 0x0D01 0 2 hm'
    refine ⟨_, (hgo true).trans (congrArg Host.Outcome.next heq), ?_, ?_, (hframe _ (by decide)).trans hone,
      hset.trans (hframe.subset (by simp +contextual)), ?_⟩ <;> rw [hlock]
    · exact enterLockout_mode _ _
    · exact (enterLockout_latch _ 2).2
    · exact fun d k hk => setMode_pairs _ _ (by decide) d k hk

/-- Settles O59: conversions, injections, calibration and the heartbeat, operation by operation. -/
theorem housekeepingConverters : Obligations.HousekeepingConverters := by
  unfold Obligations.HousekeepingConverters
  intro s
  refine ⟨fun d y hoff => ⟨s, if_pos (by simp [hoff]), rfl⟩, fun d y hon hins => ?_, fun d y hno hwait => ⟨s, ?_, rfl⟩,
    conversion_clause s, fun hup => ⟨_, (if_neg (by simp [hup])).trans (if_pos rfl), convAt_setConv s .a _, rfl⟩,
    fun d x hx => request_clause s d x hx, fun d uv x code ovr hx hon hins => ⟨loopInjection_clause s d x hx uv code ovr hon hins,
      fun input r => hostInjection_clause s d x hx uv code ovr hon hins input r⟩, fun d value x hx => ?_,
    fun d x hx => calibration_clause d s x hx, fun upset hdown => ⟨s, if_pos (by simp [hdown]), rfl⟩, heartbeat_clause s⟩
  · exact ⟨_, (if_neg (by simp [hon])).trans (if_pos hins), convAt_setConv s d _, rfl⟩
  · change execHkConversion d y s = .next s
    unfold execHkConversion
    dsimp only
    split
    · rfl
    · rw [hno, if_neg (by decide)]
      exact if_pos (by rcases hwait with h | h <;> simp [h])
  · subst hx
    exact ⟨_, rfl, clearTrackers_only s _ _, fun e he => ⟨clearTrackers_set s _ _ he, clearTrackers_kept s _ _⟩⟩

end Sys2Proof.Machine
